-- ==== Sys2Proof/Word.lean ====
section
/-! DEFINITION. The machine's words and their plainest arithmetic. -/

namespace Sys2Proof

/-- A 64-bit machine word: a v, s or h register's bits, a program counter, an address being computed. -/
abbrev Word := BitVec 64

/-- One byte of memory. -/
abbrev Byte := BitVec 8

/-- A 4-bit format tag (R133). -/
abbrev Tag := BitVec 4

end Sys2Proof
end

