-- ==== Sys2Proof/Config.lean ====
section
/-! DEFINITION. What the spec leaves to the implementation or to the part at hand, and the free values: opaque
constants, so that nothing in Lean can evaluate them or prove a value of them. -/

namespace Sys2Proof.Config

open Sys2Proof

/-- Free 64-bit values: the n-th value the spec leaves open in a run (log entry 6). -/
opaque freeWord : Nat → Word

/-- Free choices among permitted alternatives, taken modulo their number (log entry 6). -/
opaque freeChoice : Nat → Nat

/-- The silicon stepping of the part, ID_PART.STEP (R6). -/
opaque stepping : BitVec 8

/-- The fused serial number, 16 bytes (R55). -/
opaque serial : Nat → Byte

/-- The fused vendor-key hash, 32 bytes (R52). -/
opaque vendorKeyHash : Nat → Byte

/-- Where a firmware image's body begins and ends and its security version: the header layout of R52 is not given. -/
opaque imageBody : List Byte → List Byte
/-- The security version of an image (R52). -/
opaque imageVersion : List Byte → Word
/-- The public key an image carries (R52). -/
opaque imageKey : List Byte → List Byte
/-- Whether the RSASSA-PSS signature of an image verifies under its key (R52). -/
opaque imageSignatureOk : List Byte → Bool

/-- SHA-256 (R52, R55). -/
opaque sha256 : List Byte → List Byte

/-- The signature of the attestation engine over a message with its n-th salt, 384 bytes (R55). -/
opaque attestSign : List Byte → Nat → List Byte

/-- The certificate of the attestation key (R53): neither its contents nor where the attestation block keeps it are given. -/
opaque certificate : List Byte

/-- 8-byte words that a save record takes of its 2 MiB: its layout is not given (R106; log entry 31). -/
opaque saveRecordWords : Nat

/-- Body of the Cornice base microcode as loaded (R55, R423). -/
opaque microcode : List Byte

/-- The value a handle's bits [47:0] take for the n-th parked thread, before the thread's number is folded in (R419). -/
opaque handleSalt : Nat → BitVec 8

/-- The entry index of an array at which a register, line or tile is kept (R291): the numbering is not given. -/
opaque arrayEntry : Nat → Nat → Nat

/-- The engine, die-major, that serves an operation or a command (R208, R291): nothing in the manual fixes which. -/
opaque engineOf : Nat → Nat

/-- The syndrome that an error leaves in ERR_INFO (R291). -/
opaque syndrome : Nat → BitVec 16

/-- Entries that a staging share of the ticket unit holds beyond 1,024 (R99, R101). That it holds 1,024 is DEDUCED from R127:
the records held by a workgroup occupy its share, and it may hold as many (log entry 29). -/
opaque stagingEntries : Nat

end Sys2Proof.Config
end

