-- ==== Sys2Proof/Syntax.lean ====
section
/-! DEFINITION. The instructions, events and commands of the part: one constructor of Instr for each row of the
opcode table. An encoded row carries its decoded fields (the layouts of R294 to R300 and R316), an event row what
the surroundings choose. -/

namespace Sys2Proof

/-- The fields of a 16-bit instruction (R294). -/
structure R16 where
  s : BitVec 5
  d : BitVec 5
  deriving DecidableEq, Repr

/-- The operand fields of a standard 32-bit instruction (R296). `u` is true in a uniform major (or, for a major
that has no uniform twin, false). -/
structure R32 where
  u : Bool
  so : BitVec 2
  b : BitVec 6
  a : BitVec 6
  d : BitVec 6
  deriving DecidableEq, Repr

/-- Bits [63:24] of a 64-bit instruction, by SHAPE (R300). -/
inductive Shape64 where
  | rrr (x fc : Bool) (c : BitVec 9) (fb : Bool) (b : BitVec 9) (fa : Bool) (a d : BitVec 9)
  | imm16 (q : BitVec 4) (imm : BitVec 16) (fd fa : Bool) (a d : BitVec 9)
  | imm32 (imm : BitVec 32) (d : BitVec 8)
  deriving DecidableEq, Repr

/-- The operand fields of a 64-bit instruction (R299, R300). -/
structure R64 where
  u : Bool
  fsc : Bool
  fsb : Bool
  fsa : Bool
  fsd : Bool
  gn : Bool
  gk : BitVec 3
  so : BitVec 2
  sh : Shape64
  deriving DecidableEq, Repr

/-- The 32-bit memory layout (R298): space, SO, base file, offset, base, data register. -/
structure M32 where
  p : BitVec 3
  g : BitVec 2
  f : Bool
  o : BitVec 5
  a : BitVec 6
  d : BitVec 6
  deriving DecidableEq, Repr

/-- The 32-bit `movi` layout (R298): tag, H, 12-bit immediate, destination; `u` the uniform major. -/
structure Movi32 where
  u : Bool
  t : Tag
  h : Bool
  k : BitVec 12
  d : BitVec 6
  deriving DecidableEq, Repr

/-- The fields of a Cornice word (R316). -/
structure CW where
  d : BitVec 4
  a : BitVec 4
  b : BitVec 4
  c : BitVec 4
  cls : BitVec 2
  imm : BitVec 9
  deriving DecidableEq, Repr

/-- What the far end of a link advertises in training (R20, R28). -/
structure Neighbour where
  id : BitVec 13
  isSwitch : Bool
  capRed : Bool
  capVbd : Bool
  deriving DecidableEq, Repr

/-- A received flit as the receiver sees it (R16, R17): the destination, source and sequence number of its header, its payload,
whether the check code over the whole flit holds, and the 16-byte beats that arrived damaged. -/
structure Flit where
  dest : Nat
  source : Nat
  seq : Nat
  payload : List Byte
  crcOk : Bool
  badBeats : List Nat
  deriving DecidableEq, Repr

/-- What an inbound fabric request asks for (R22, R23, R163). Offsets are into this module's HBM4E; `cmp` is the CMP of the page that
the requester accesses there (R174). -/
inductive InboundReq where
  | read (off cmp len : Nat)
  | write (off cmp : Nat) (bytes : List Byte)
  | atomic (off cmp : Nat) (op : BitVec 3) (is64 unsigned : Bool) (value compare : Word)
  | reduce (off cmp : Nat) (op : BitVec 3) (tag : Tag) (unsigned : Bool) (value : Word)
  deriving DecidableEq, Repr

/-- The instructions and events of the KW-960, one constructor per row of the opcode table. -/
inductive Instr where
  /-- POWER_ON (R46). Power is applied to the module, which triggers a cold start. -/
  | powerOn
  /-- FUNDAMENTAL_RESET (R46). The PCI Express fundamental reset is asserted, which triggers a warm start unless the failure counters force a cold start. -/
  | fundamentalReset
  /-- THERMAL_TRIP (R15). A die reaches 110 °C; hardware removes core and memory power within 100 µs, all volatile state is lost and the next start is cold. -/
  | thermalTrip
  /-- START_STEP_COMPLETE (R47). A timed start step finishes; STAGE advances, the next step begins, and after step 6 READY is set. -/
  | startStepComplete (ok : Bool)
  /-- START_TIMEOUT (R49). READY is not set within 120 s of the trigger, so the start fails. -/
  | startTimeout
  /-- POWER_OVER_LIMIT (R14). The measured power exceeds the configured limit and the firmware lowers the per-die operating-point ceiling. -/
  | powerOverLimit (watts : BitVec 16) (ceiling0 ceiling1 : Nat)
  /-- TEMPERATURE_OVER_LIMIT (R14). A die temperature exceeds 100 °C and the firmware lowers that die's operating-point ceiling. -/
  | temperatureOverLimit (die ceiling : Nat)
  /-- ANALOGUE_POWER_CLAMP (R14). The analogue clamp holds module power at or below 2,200 W plus 5 % over any 1 ms window, independently of firmware. -/
  | analoguePowerClamp (watts : BitVec 16)
  /-- PCIE_CONFIG_REQUEST (R33). The endpoint answers a configuration request, with Retry Status until start-up reaches host enumeration. -/
  | pcieConfigRequest
  /-- BAR0_REGISTER_WRITE (R35). A host write to a BAR 0 register that has no row of its own is checked for width, alignment, READY and lock, then applied or ignored. -/
  | bar0RegisterWrite (off size : Nat) (data : Word)
  /-- BAR2_HOST_READ (R36). A host read through BAR 2 reads untranslated HBM4E at HBM_ORG plus the offset, at the home slice. -/
  | bar2HostRead (off len : Nat)
  /-- BAR2_HOST_WRITE (R36). A host write through BAR 2 is performed as an ordered sys-scope write at the home slice of HBM_ORG plus the offset. -/
  | bar2HostWrite (off : Nat) (bytes : List Byte)
  /-- HOST_FETCHADD (R60). A host 64-bit FetchAdd through BAR 2 is performed atomically at the home L2 slice, as used to claim queue indices. -/
  | hostFetchadd (off : Nat) (value : Word)
  /-- HOST_LOCK (R37). A host write of 1 to HOST_LOCK.LOCK locks every RWL field until a cold start and lets trained ports enter UP. -/
  | hostLock (data : Word)
  /-- LINK_EMIT (R38). A host write to LINK_EMIT.EMIT permits optical emission; clearing it drains every port and puts each port in state OFF. -/
  | linkEmit (data : Word)
  /-- PWR_LIMIT (R39). A host write to PWR_LIMIT sets the module power limit, which takes effect within 1 ms; values 33 to 63 are ignored. -/
  | pwrLimit (data : Word)
  /-- CTX_CREATE (R44). A CTX_CMD write of OP 1 reads and checks a context record, registers the context and starts serving its queues. -/
  | ctxCreate (data : Word)
  /-- CTX_DESTROY (R45). A CTX_CMD write of OP 2 stops the context's queues, kills its work, fences its translations and releases its resources. -/
  | ctxDestroy (data : Word)
  /-- BOOT_REQ_WARM (R50). A host write of 0b01 to BOOT_REQ requests a warm start. -/
  | bootReqWarm
  /-- BOOT_REQ_COLD (R50). A host write of 0b10 to BOOT_REQ requests a cold start. -/
  | bootReqCold
  /-- FIRMWARE_UPDATE (R51). A write of FW_CTL.GO under the recovery image starts reading and verifying a new firmware image from HBM4E. -/
  | firmwareUpdate (data : Word)
  /-- FIRMWARE_UPDATE_COMPLETE (R51). The firmware update ends; on success the image is in flash and both failure counters are cleared, otherwise ERR and CODE are set. -/
  | firmwareUpdateComplete (flashOk : Bool)
  /-- ATTESTATION_REQUEST (R54). A write of ATT_CTL.GO asks the signing engine for an attestation report, or sets ERR. -/
  | attestationRequest (data : Word)
  /-- ATTESTATION_COMPLETE (R55). The signing engine writes the signed 560-byte report to ATT_ADDR and sets DONE. -/
  | attestationComplete
  /-- PRE_REQ_HOLD (R105). A PRE_REQ write with HOLD 1 pre-empts every workgroup of the context on the named Ridges and bars new placement there. -/
  | preReqHold (data : Word)
  /-- PRE_REQ_RELEASE (R105). A PRE_REQ write with HOLD 0 lifts the hold from the named Ridges. -/
  | preReqRelease (data : Word)
  /-- HOST_SEMAPHORE_ADD (R76). An 8-byte host write to a semaphore adds the value modulo 2^64, which also serves as a reset. -/
  | hostSemaphoreAdd (index : Nat) (value : Word)
  /-- ERROR_INJECT (R291). A host write to ERR_INJ arms a one-shot or sticky flip of 1 or 2 bits in the selected array entry. -/
  | errorInject (data : Word)
  /-- FAB_PORT_ENABLE (R29). Setting FAB_PORT.EN while EMIT is 1 starts port training within 1 ms. -/
  | fabPortEnable (port : Nat) (data : Word)
  /-- FAB_PORT_DISABLE (R28). Clearing FAB_PORT.EN drains the port as for a route change and then puts it in state OFF. -/
  | fabPortDisable (port : Nat) (data : Word)
  /-- FAB_PORT_RETRAIN (R28). Writing 1 to FAB_PORT.RETRAIN retrains the port's failed lanes. -/
  | fabPortRetrain (port : Nat) (data : Word)
  /-- FAB_ROUTE_WRITE (R30). A write to a FAB_ROUTE entry changes that target's candidate ports under the drain order of R25. -/
  | fabRouteWrite (target : Nat) (data : BitVec 32)
  /-- PORT_TRAINING_COMPLETE (R29). Lane training ends; the neighbour's capabilities are recorded and the port becomes FAILED, waits for the lock, or enters UP or DEGRADED. -/
  | portTrainingComplete (port : Nat) (trained : BitVec 2) (nbr : Neighbour)
  /-- LANE_TRAIN_TIMEOUT (R29). A lane has not trained 10 s after training began and is marked failed. -/
  | laneTrainTimeout (port lane : Nat)
  /-- FLIT_RECEIVE (R17). A flit arrives; CRC-32 and the per-lane CRC-8 are checked and the flit is delivered in sequence or discarded with a replay request. -/
  | flitReceive (port : Nat) (flit : Flit)
  /-- REPLAY_REQUEST (R17). A replay request arrives and the sender replays from the requested flit out of its retry buffer. -/
  | replayRequest (port fromSeq : Nat)
  /-- LANE_REPLAY_LIMIT (R18). 64 replays are attributed to one lane within 2^24 flits; the lane fails and the port continues DEGRADED or becomes FAILED. -/
  | laneReplayLimit (port lane : Nat)
  /-- OPTICAL_ENGINE_FAILURE (R19). An optical engine fails and its eight ports enter FAILED together. -/
  | opticalEngineFailure (engine : Nat)
  /-- FABRIC_INBOUND_REQUEST (R23). An inbound fabric request is checked against FAB_INB and is served locally or dropped and logged. -/
  | fabricInboundRequest (source : Nat) (req : InboundReq)
  /-- FABRIC_RESPONSE (R31). An acknowledgement or data for an outbound fabric request arrives, or the request completes as poisoned. -/
  | fabricResponse (id : Nat) (bytes : List Byte) (ok : Bool)
  /-- ROUTE_CHANGE_APPLY (R25). Once every flit sent on the old ports is acknowledged, the new route mapping is applied and held requests proceed. -/
  | routeChangeApply (target : Nat)
  /-- PORT_DRAIN_COMPLETE (R28). A draining port has every flit acknowledged and enters state OFF. -/
  | portDrainComplete (port : Nat)
  /-- QUEUE_WAKE (R62). A write to a watched write-index or slot line wakes the queue engine. -/
  | queueWake (ctx queue : Nat)
  /-- QUEUE_DESCRIPTOR_RUN (R59). A descriptor's STATE changes to RUN; the engine checks it and loads or keeps its read index, or stops it with BAD_DESC. -/
  | queueDescriptorRun (ctx queue : Nat)
  /-- PACKET_DEQUEUE (R63). The queue engine captures the packet at the read index, checks it, holds or hands it to its node, clears the header and advances the read index. -/
  | packetDequeue (ctx queue : Nat)
  /-- NODE_CAPTURE (R77). A packet waiting for its node captures into the node-table entry once the node is IDLE, and the node becomes ARMED. -/
  | nodeCapture (ctx queue : Nat)
  /-- PACKET_START (R75). After dequeue or release, the FENCE and AWAIT conditions and the indirect reads, the packet starts with a pull sys. -/
  | packetStart (cmd : Nat)
  /-- LAUNCH (R66). A LAUNCH command turns a kernel into a grid of workgroups that wait for placement. -/
  | launch (cmd : Nat)
  /-- COPY_PLAIN (R213). COPY OP 0 copies each element's bits from SRC to DST. -/
  | copyPlain (cmd : Nat)
  /-- COPY_TRANSPOSE (R213). COPY OP 1 writes SRC with dimensions 0 and 1 swapped into DST. -/
  | copyTranspose (cmd : Nat)
  /-- COPY_COMPRESS (R216). COPY OP 2 encodes logical pages into VBD page images. -/
  | copyCompress (cmd : Nat)
  /-- COPY_DECOMPRESS (R216). COPY OP 3 decodes VBD page images into plain data. -/
  | copyDecompress (cmd : Nat)
  /-- COPY_CONVERT (R214). COPY OP 4 converts each element as cvt does under DST's rounding and saturation. -/
  | copyConvert (cmd : Nat)
  /-- COPY_REPACK (R216). COPY OP 5 decodes and re-encodes VBD page images canonically. -/
  | copyRepack (cmd : Nat)
  /-- COPY_MIGRATE (R217). COPY OP 6 names migrate, which is never accepted from a packet. -/
  | copyMigrate (cmd : Nat)
  /-- COPY_CHAIN (R220). COPY OP 7 runs the chain stage's element-wise operation list over up to three inputs. -/
  | copyChain (cmd : Nat)
  /-- SORT (R221). A SORT command has Moraine stable-sort key/value pairs in place and optionally write a compressed-row header. -/
  | sort (cmd : Nat)
  /-- COLL_ALL_REDUCE (R227). COLL OP 0 combines SRC over all ranks into DST. -/
  | collAllReduce (cmd : Nat)
  /-- COLL_REDUCE_SCATTER (R227). COLL OP 1 combines rank r's segment over all ranks into DST on rank r. -/
  | collReduceScatter (cmd : Nat)
  /-- COLL_ALL_GATHER (R227). COLL OP 2 gathers every rank's SRC into DST on every rank. -/
  | collAllGather (cmd : Nat)
  /-- COLL_BROADCAST (R227). COLL OP 3 copies ROOT's SRC into DST on every rank. -/
  | collBroadcast (cmd : Nat)
  /-- COLL_ORDERED_COMPOSITE (R230). COLL OP 4 composites pixels across ranks front to back in the order given by ORDER. -/
  | collOrderedComposite (cmd : Nat)
  /-- NEAR_LOADPROG (R424). A LOADPROG command writes words into every Cornice unit's program store. -/
  | nearLoadprog (cmd : Nat)
  /-- NEAR_RUN (R430). A RUN command checks its stripes, runs the clear step, and has each unit run its program over its rows, stripe by stripe. -/
  | nearRun (cmd : Nat)
  /-- NEAR_IREDUCE (R437). An IREDUCE command pools table rows into bags with an exact sum rounded once. -/
  | nearIreduce (cmd : Nat)
  /-- SIGNAL (R72). A SIGNAL command adds VALUE to its target semaphore and completes. -/
  | signal (cmd : Nat)
  /-- AWAIT (R72). An AWAIT command waits until its target semaphore reaches THRESH64 and then completes. -/
  | await (cmd : Nat)
  /-- NOP (R72). A NOP command completes at its start. -/
  | nop (cmd : Nat)
  /-- COMMAND_COMPLETE (R78). A packet command completes: writes are published, then the record is written, SIGSEM signalled, successors decremented and VEC raised. -/
  | commandComplete (cmd : Nat)
  /-- CORNICE_TRANSFER_COMPLETE (R433). An asynchronous Cornice row transfer on a buffer finishes. -/
  | corniceTransferComplete (unit buf : Nat)
  /-- CORNICE_STEP_LIMIT (R432). A unit executes more than 65,536 words in one stripe and the command fails on that unit. -/
  | corniceStepLimit (unit : Nat)
  /-- WORKGROUP_PLACE (R87). The device places the next eligible workgroup or Ridge set on a core where it fits, by class, launch order and index. -/
  | workgroupPlace (cores : List Nat)
  /-- WORKGROUP_RESTORE (R109). A saved workgroup is written back onto a core, or a Ridge set onto one Ridge, after checking its record. -/
  | workgroupRestore (cores : List Nat)
  /-- OPERATING_POINT_STABLE (R90). A raised operating point becomes stable and held first workgroups are released. -/
  | operatingPointStable (die : Nat)
  /-- HANG_LIMIT (R93). A thread's hang counter exceeds HANG and the thread traps with HANG. -/
  | hangLimit (wg grp : Nat)
  /-- HELM_HANG_LIMIT (R94). A Helm's hang counter exceeds HANG; the Helm stops and HANG is delivered to a thread of its workgroup. -/
  | helmHangLimit (wg : Nat)
  /-- BACKWARD_BRANCH_YIELD (R120). The backward-branch count of a group reaches 64 and the next issue goes to a higher-PC bundle. -/
  | backwardBranchYield (wg grp : Nat)
  /-- NAP_EXPIRE (R344). A napping bundle's 16 × n cycles have passed and it stops waiting. -/
  | napExpire (wg grp : Nat)
  /-- SPAWN_BIN_COUNTDOWN (R125). A spawn bin's countdown expires and the bin fires. -/
  | spawnBinCountdown (core bin : Nat)
  /-- SPAWN_GROUP_START (R125). A fired bin's group starts when a group slot is free on the core. -/
  | spawnGroupStart (core bin : Nat)
  /-- TICKET_RELEASE (R100). The lowest outstanding ticket's workgroup has ended, and its staged entries are emitted in order. -/
  | ticketRelease (launch : Nat)
  /-- LONG_LATENCY_FILL (R129). The value of a long-latency producer arrives and fills its empty destination register. -/
  | longLatencyFill (fill : Nat)
  /-- ASYNC_OPERATION_COMPLETE (R136). An asynchronous engine operation of a group or Helm finishes and its class counter falls. -/
  | asyncOperationComplete (op : Nat)
  /-- MAP_FILL_COMPLETE (R154). The map unit's read of 128 global bytes arrives; the line is written, set full and its zero bit recomputed. -/
  | mapFillComplete (wg line : Nat)
  /-- MAP_WRITEBACK (R155). The map unit writes dirty bytes of a mapped line back to global memory at a time of its choice. -/
  | mapWriteback (wg line : Nat)
  /-- TRANSLATION_FENCE_COMPLETE (R201). A translation fence has dropped its entries and drained their accesses; held operations, emissions and records are retried. -/
  | translationFenceComplete (fence : Nat)
  /-- L2_WRITEBACK (R171). An L2 slice writes back a dirty line, encoding VBD blocks and posting a re-pack request when the exception region is full. -/
  | l2Writeback (frame block : Nat)
  /-- REPACK_SERVICE (R172). A copy engine re-packs a VBD page in the background, or leaves it held and reports an overflow. -/
  | repackService (frame : Nat)
  /-- HOTNESS_SAMPLE (R206). Every 64th fill of a slice increments the filled frame's hotness counter while EN is 1. -/
  | hotnessSample (slice frame : Nat)
  /-- MATRIX_ACCEPT (R236). A Helm matrix instruction enters a free latch set; its tile is marked empty, tagged and made live. -/
  | matrixAccept (core : Nat)
  /-- MATRIX_START (R240). The latch set is complete and the array is free, so the instruction's first wavefront starts. -/
  | matrixStart (core : Nat)
  /-- MATRIX_TOKEN (R236). The completion token returns; the tile is marked full and flags are ORed into the Helm's FLAGS. -/
  | matrixToken (core : Nat)
  /-- MATRIX_TOKEN_TIMEOUT (R235). A token has not returned 512 cycles after start; the tile is marked full and poisoned and a lasting error is logged. -/
  | matrixTokenTimeout (core : Nat)
  /-- HELM_TRAP_DELIVERY (R280). A trap raised by the Helm is taken by the chosen thread at its next instruction boundary. -/
  | helmTrapDelivery (wg : Nat)
  /-- FAULT_RECORD_POST (R285). A fault record is written to the context's ring, WIDX is advanced and published, and the vector is raised. -/
  | faultRecordPost (ctx : Nat)
  /-- QPUSH_SLOT_WRITE (R397). Once the read index makes room, qpush writes the packet image into the claimed slot and publishes it. -/
  | qpushSlotWrite (op : Nat)
  /-- ADD (R329). Adds elements modulo 2^w. -/
  | add (w : R32)
  /-- ADD_16 (R295). 16-bit form of add on v0–v31. -/
  | add16 (w : R16)
  /-- ADD_64 (R329). 64-bit form of add. -/
  | add64 (w : R64)
  /-- SUB (R329). Subtracts elements modulo 2^w. -/
  | sub (w : R32)
  /-- SUB_16 (R295). 16-bit form of sub. -/
  | sub16 (w : R16)
  /-- SUB_64 (R329). 64-bit form of sub. -/
  | sub64 (w : R64)
  /-- ADDC (R329). 64-bit add with carry in and out through k7. -/
  | addc (w : R32)
  /-- ADDC_64 (R329). 64-bit form of addc with a named carry register. -/
  | addc64 (w : R64)
  /-- SUBC (R329). 64-bit subtract with borrow through k7. -/
  | subc (w : R32)
  /-- SUBC_64 (R329). 64-bit form of subc. -/
  | subc64 (w : R64)
  /-- ADDS (R329). Saturating add, signed or unsigned. -/
  | adds (w : R32)
  /-- ADDS_64 (R329). 64-bit form of adds. -/
  | adds64 (w : R64)
  /-- SUBS (R329). Saturating subtract, signed or unsigned. -/
  | subs (w : R32)
  /-- SUBS_64 (R329). 64-bit form of subs. -/
  | subs64 (w : R64)
  /-- NEG (R329). Negates elements modulo 2^w. -/
  | neg (w : R32)
  /-- NEG_64 (R329). 64-bit form of neg. -/
  | neg64 (w : R64)
  /-- ABS (R329). Absolute value of elements. -/
  | abs (w : R32)
  /-- ABS_64 (R329). 64-bit form of abs. -/
  | abs64 (w : R64)
  /-- MUL (R330). Low half of the element product. -/
  | mul (w : R32)
  /-- MUL_64 (R330). 64-bit form of mul. -/
  | mul64 (w : R64)
  /-- MULH_S (R330). High half of the signed class product. -/
  | mulhS (w : R32)
  /-- MULH_S_64 (R330). 64-bit form of mulh.s. -/
  | mulhS64 (w : R64)
  /-- MAD (R330). Multiply-add modulo 2^w with D as addend. -/
  | mad (w : R32)
  /-- MAD_64 (R330). 64-bit form of mad with C as addend. -/
  | mad64 (w : R64)
  /-- IDOT_S (R330). Signed integer dot products into I32X2. -/
  | idotS (w : R32)
  /-- IDOT_S_64 (R330). 64-bit form of idot.s. -/
  | idotS64 (w : R64)
  /-- RND (R331). Vyhus counter hash of counter and key. -/
  | rnd (w : R32)
  /-- RND_64 (R331). 64-bit form of rnd. -/
  | rnd64 (w : R64)
  /-- MULH_U (R330). High half of the unsigned class product. -/
  | mulhU (w : R32)
  /-- MULH_U_64 (R330). 64-bit form of mulh.u. -/
  | mulhU64 (w : R64)
  /-- IDOT_U (R330). Unsigned integer dot products into I32X2. -/
  | idotU (w : R32)
  /-- IDOT_U_64 (R330). 64-bit form of idot.u. -/
  | idotU64 (w : R64)
  /-- MIN (R332). Element minimum, signed or unsigned. -/
  | min (w : R32)
  /-- MIN_16 (R295). 16-bit form of min.s. -/
  | min16 (w : R16)
  /-- MIN_64 (R332). 64-bit form of min. -/
  | min64 (w : R64)
  /-- MAX (R332). Element maximum, signed or unsigned. -/
  | max (w : R32)
  /-- MAX_16 (R295). 16-bit form of max.s. -/
  | max16 (w : R16)
  /-- MAX_64 (R332). 64-bit form of max. -/
  | max64 (w : R64)
  /-- SEL (R332). Selects A or B by a predicate; 64-bit only. -/
  | sel (w : R64)
  /-- MOV (R332). Copies A with its tag. -/
  | mov (w : R32)
  /-- MOV_16 (R295). 16-bit form of mov. -/
  | mov16 (w : R16)
  /-- MOV_64 (R332). 64-bit form of mov, which can broadcast a uniform value. -/
  | mov64 (w : R64)
  /-- LEA (R332). Address arithmetic A + B × 2^scale. -/
  | lea (w : R32)
  /-- LEA_64 (R332). 64-bit form of lea. -/
  | lea64 (w : R64)
  /-- CMP (R333). Compares all elements and writes a predicate. -/
  | cmp (f : BitVec 3) (w : R32)
  /-- CMP_64 (R333). 64-bit form of cmp. -/
  | cmp64 (f : BitVec 3) (w : R64)
  /-- AND (R334). Bitwise and. -/
  | and (w : R32)
  /-- AND_16 (R295). 16-bit form of and. -/
  | and16 (w : R16)
  /-- AND_64 (R334). 64-bit form of and. -/
  | and64 (w : R64)
  /-- OR (R334). Bitwise or. -/
  | or (w : R32)
  /-- OR_16 (R295). 16-bit form of or. -/
  | or16 (w : R16)
  /-- OR_64 (R334). 64-bit form of or. -/
  | or64 (w : R64)
  /-- XOR (R334). Bitwise exclusive or. -/
  | xor (w : R32)
  /-- XOR_16 (R295). 16-bit form of xor. -/
  | xor16 (w : R16)
  /-- XOR_64 (R334). 64-bit form of xor. -/
  | xor64 (w : R64)
  /-- NOT (R334). Bitwise not. -/
  | not (w : R32)
  /-- NOT_64 (R334). 64-bit form of not. -/
  | not64 (w : R64)
  /-- ANDN (R334). A and not B. -/
  | andn (w : R32)
  /-- ANDN_64 (R334). 64-bit form of andn. -/
  | andn64 (w : R64)
  /-- SHL (R335). Shift left per element. -/
  | shl (w : R32)
  /-- SHL_16 (R295). 16-bit form of shl. -/
  | shl16 (w : R16)
  /-- SHL_64 (R335). 64-bit form of shl. -/
  | shl64 (w : R64)
  /-- SHR (R335). Logical shift right per element. -/
  | shr (w : R32)
  /-- SHR_16 (R295). 16-bit form of shr. -/
  | shr16 (w : R16)
  /-- SHR_64 (R335). 64-bit form of shr. -/
  | shr64 (w : R64)
  /-- SAR (R335). Arithmetic shift right per element. -/
  | sar (w : R32)
  /-- SAR_16 (R295). 16-bit form of sar. -/
  | sar16 (w : R16)
  /-- SAR_64 (R335). 64-bit form of sar. -/
  | sar64 (w : R64)
  /-- ROL (R335). Rotate left per element. -/
  | rol (w : R32)
  /-- ROL_64 (R335). 64-bit form of rol. -/
  | rol64 (w : R64)
  /-- CLZ (R336). Counts leading zeros per element. -/
  | clz (w : R32)
  /-- CLZ_64 (R336). 64-bit form of clz. -/
  | clz64 (w : R64)
  /-- CTZ (R336). Counts trailing zeros per element. -/
  | ctz (w : R32)
  /-- CTZ_64 (R336). 64-bit form of ctz. -/
  | ctz64 (w : R64)
  /-- POPC (R336). Counts set bits per element. -/
  | popc (w : R32)
  /-- POPC_64 (R336). 64-bit form of popc. -/
  | popc64 (w : R64)
  /-- BREV (R336). Reverses bits per element. -/
  | brev (w : R32)
  /-- BREV_64 (R336). 64-bit form of brev. -/
  | brev64 (w : R64)
  /-- BFE (R337). Extracts a bit field, sign- or zero-extended. -/
  | bfe (w : R32)
  /-- BFE_64 (R337). 64-bit form of bfe. -/
  | bfe64 (w : R64)
  /-- BFI (R337). Inserts a bit field into the target D. -/
  | bfi (w : R32)
  /-- BFI_64 (R337). 64-bit form of bfi. -/
  | bfi64 (w : R64)
  /-- PERM (R338). Permutes bytes of A and D by selectors in B. -/
  | perm (w : R32)
  /-- PERM_64 (R338). 64-bit form of perm. -/
  | perm64 (w : R64)
  /-- MOVI (R339). Writes a 12-bit immediate with a named tag, low or high half. -/
  | movi (m : Movi32)
  /-- MOVI_64 (R339). SHAPE 0b10 form of movi with a 32-bit immediate. -/
  | movi64 (t : Tag) (w : R64)
  /-- BRA (R341). Relative branch for the whole bundle. -/
  | bra (o : BitVec 23)
  /-- BC (R341). Per-lane conditional relative branch on k xor N. -/
  | bc (o : BitVec 19) (n : Bool) (k : BitVec 3)
  /-- JMP_V (R342). Jumps to each lane's own v register target. -/
  | jmpV (w : R32)
  /-- JMP_V_64 (R342). 64-bit form of jmp through a v register. -/
  | jmpV64 (w : R64)
  /-- JMP_S (R342). Jumps to a uniform target in an s register. -/
  | jmpS (w : R32)
  /-- JMP_S_64 (R342). 64-bit form of jmp through an s register. -/
  | jmpS64 (w : R64)
  /-- CALL (R342). Calls an s register target, writing the return address to vd. -/
  | call (w : R32)
  /-- CALL_64 (R342). 64-bit form of register call. -/
  | call64 (w : R64)
  /-- RET (R342). Returns to each lane's address in va. -/
  | ret (w : R32)
  /-- RET_64 (R342). 64-bit form of ret. -/
  | ret64 (w : R64)
  /-- CALL_REL (R342). Relative call that writes the return address to vd. -/
  | callRel (o : BitVec 17) (d : BitVec 6)
  /-- EXIT (R343). Waits for counters if it is the last thread, publishes at sys scope and ends the active threads. -/
  | exit (w : R32)
  /-- EXIT_64 (R343). 64-bit, guardable form of exit. -/
  | exit64 (w : R64)
  /-- YIELD (R344). Gives the group's next issue to the next higher-PC bundle that is not waiting. -/
  | yield (w : R32)
  /-- YIELD_64 (R344). 64-bit form of yield. -/
  | yield64 (w : R64)
  /-- NAP (R344). The bundle waits at least 16 × n cycles. -/
  | nap (n : BitVec 12)
  /-- NAP_64 (R344). 64-bit form of nap. -/
  | nap64 (w : R64)
  /-- TRAP (R345). Every active lane traps with TRAPINSN and the code. -/
  | trap (n : BitVec 12)
  /-- TRAP_64 (R345). 64-bit form of trap. -/
  | trap64 (w : R64)
  /-- SPAWN (R346). Enters each active lane's 32-byte record into a spawn bin. -/
  | spawn (w : R32)
  /-- SPAWN_64 (R346). 64-bit form of spawn. -/
  | spawn64 (w : R64)
  /-- FADD (R352). Floating-point add, class E. -/
  | fadd (w : R32)
  /-- FADD_UNIFORM (R352). Uniform-major fadd. -/
  | faddUniform (w : R32)
  /-- FADD_16 (R295). 16-bit form of fadd. -/
  | fadd16 (w : R16)
  /-- FADD_64 (R352). 64-bit form of fadd. -/
  | fadd64 (w : R64)
  /-- FSUB (R352). Floating-point subtract. -/
  | fsub (w : R32)
  /-- FSUB_UNIFORM (R352). Uniform-major fsub. -/
  | fsubUniform (w : R32)
  /-- FSUB_16 (R295). 16-bit form of fsub. -/
  | fsub16 (w : R16)
  /-- FSUB_64 (R352). 64-bit form of fsub. -/
  | fsub64 (w : R64)
  /-- FMUL (R352). Class product rounded to nearest even. -/
  | fmul (w : R32)
  /-- FMUL_UNIFORM (R352). Uniform-major fmul. -/
  | fmulUniform (w : R32)
  /-- FMUL_16 (R295). 16-bit form of fmul in class E. -/
  | fmul16 (w : R16)
  /-- FMUL_64 (R352). 64-bit form of fmul. -/
  | fmul64 (w : R64)
  /-- FMA (R352). Class product plus D with one rounding. -/
  | fma (w : R32)
  /-- FMA_UNIFORM (R352). Uniform-major fma. -/
  | fmaUniform (w : R32)
  /-- FMA_64 (R352). 64-bit form of fma with C as addend. -/
  | fma64 (w : R64)
  /-- FNMA (R352). C minus class product with one rounding. -/
  | fnma (w : R32)
  /-- FNMA_UNIFORM (R352). Uniform-major fnma. -/
  | fnmaUniform (w : R32)
  /-- FNMA_64 (R352). 64-bit form of fnma. -/
  | fnma64 (w : R64)
  /-- FMIN (R352). Floating-point minimum. -/
  | fmin (w : R32)
  /-- FMIN_UNIFORM (R352). Uniform-major fmin. -/
  | fminUniform (w : R32)
  /-- FMIN_16 (R295). 16-bit form of fmin. -/
  | fmin16 (w : R16)
  /-- FMIN_64 (R352). 64-bit form of fmin. -/
  | fmin64 (w : R64)
  /-- FMAX (R352). Floating-point maximum. -/
  | fmax (w : R32)
  /-- FMAX_UNIFORM (R352). Uniform-major fmax. -/
  | fmaxUniform (w : R32)
  /-- FMAX_16 (R295). 16-bit form of fmax. -/
  | fmax16 (w : R16)
  /-- FMAX_64 (R352). 64-bit form of fmax. -/
  | fmax64 (w : R64)
  /-- FDOT (R354). Two dot products by DotChain into F32X2. -/
  | fdot (w : R32)
  /-- FDOT_UNIFORM (R354). Uniform-major fdot. -/
  | fdotUniform (w : R32)
  /-- FDOT_64 (R354). 64-bit form of fdot. -/
  | fdot64 (w : R64)
  /-- FABS (R355). Clears sign bits. -/
  | fabs (w : R32)
  /-- FABS_UNIFORM (R355). Uniform-major fabs. -/
  | fabsUniform (w : R32)
  /-- FABS_64 (R355). 64-bit form of fabs. -/
  | fabs64 (w : R64)
  /-- FNEG (R355). Inverts sign bits. -/
  | fneg (w : R32)
  /-- FNEG_UNIFORM (R355). Uniform-major fneg. -/
  | fnegUniform (w : R32)
  /-- FNEG_64 (R355). 64-bit form of fneg. -/
  | fneg64 (w : R64)
  /-- FCLASS (R355). Classifies each element into a bit mask. -/
  | fclass (w : R32)
  /-- FCLASS_UNIFORM (R355). Uniform-major fclass. -/
  | fclassUniform (w : R32)
  /-- FCLASS_64 (R355). 64-bit form of fclass. -/
  | fclass64 (w : R64)
  /-- FRND (R355). Rounds to an integral value in a mode. -/
  | frnd (w : R32)
  /-- FRND_UNIFORM (R355). Uniform-major frnd. -/
  | frndUniform (w : R32)
  /-- FRND_64 (R355). 64-bit form of frnd. -/
  | frnd64 (w : R64)
  /-- FSCALE (R355). Multiplies by 2^B with one rounding. -/
  | fscale (w : R32)
  /-- FSCALE_UNIFORM (R355). Uniform-major fscale. -/
  | fscaleUniform (w : R32)
  /-- FSCALE_64 (R355). 64-bit form of fscale with an integer immediate. -/
  | fscale64 (w : R64)
  /-- HADD (R356). Adds adjacent element pairs of A and B. -/
  | hadd (w : R32)
  /-- HADD_UNIFORM (R356). Uniform-major hadd. -/
  | haddUniform (w : R32)
  /-- HADD_64 (R356). 64-bit form of hadd. -/
  | hadd64 (w : R64)
  /-- PACK (R356). Packs the low halves of A and B. -/
  | pack (w : R32)
  /-- PACK_UNIFORM (R356). Uniform-major pack. -/
  | packUniform (w : R32)
  /-- PACK_64 (R356). 64-bit form of pack. -/
  | pack64 (w : R64)
  /-- SWZ (R356). Rearranges elements by a constant pattern. -/
  | swz (w : R32)
  /-- SWZ_UNIFORM (R356). Uniform-major swz. -/
  | swzUniform (w : R32)
  /-- SWZ_64 (R356). 64-bit form of swz. -/
  | swz64 (w : R64)
  /-- FCMP (R357). Floating-point comparison of all elements into a predicate. -/
  | fcmp (f : BitVec 3) (w : R32)
  /-- FCMP_UNIFORM (R357). Uniform-major fcmp. -/
  | fcmpUniform (f : BitVec 3) (w : R32)
  /-- FCMP_64 (R357). 64-bit form of fcmp. -/
  | fcmp64 (f : BitVec 3) (w : R64)
  /-- SPECIAL_FUNCTION (R358). rcp, rsq, sqrt, exp2, log2, sinpi, cospi or tanh in class E or L. -/
  | specialFunction (f : BitVec 3) (w : R32)
  /-- SPECIAL_FUNCTION_UNIFORM (R358). Uniform-major special function. -/
  | specialFunctionUniform (f : BitVec 3) (w : R32)
  /-- SPECIAL_FUNCTION_64 (R358). 64-bit form of a special function. -/
  | specialFunction64 (f : BitVec 3) (w : R64)
  /-- CVT (R360). Converts elements to a target tag in a rounding mode. -/
  | cvt (t : Tag) (w : R32)
  /-- CVT_UNIFORM (R360). Uniform-major cvt. -/
  | cvtUniform (t : Tag) (w : R32)
  /-- CVT_64 (R360). 64-bit form of cvt with saturation and unsigned selection. -/
  | cvt64 (t : Tag) (w : R64)
  /-- SHFL (R362). Cross-lane shuffle by index, up, down or xor. -/
  | shfl (f : BitVec 3) (w : R32)
  /-- SHFL_64 (R362). 64-bit form of shfl. -/
  | shfl64 (f : BitVec 3) (w : R64)
  /-- QSWAP (R363). Swaps values within a quad. -/
  | qswap (w : R32)
  /-- QSWAP_64 (R363). 64-bit form of qswap. -/
  | qswap64 (w : R64)
  /-- QDDX (R363). Horizontal quad difference. -/
  | qddx (w : R32)
  /-- QDDX_64 (R363). 64-bit form of qddx. -/
  | qddx64 (w : R64)
  /-- QDDY (R363). Vertical quad difference. -/
  | qddy (w : R32)
  /-- QDDY_64 (R363). 64-bit form of qddy. -/
  | qddy64 (w : R64)
  /-- VOTE_ANY (R364). Predicate true in every lane if any active lane's ka is 1. -/
  | voteAny (w : R32)
  /-- VOTE_ANY_64 (R364). 64-bit form of vote.any. -/
  | voteAny64 (w : R64)
  /-- VOTE_ALL (R364). Predicate true if every active lane's ka is 1. -/
  | voteAll (w : R32)
  /-- VOTE_ALL_64 (R364). 64-bit form of vote.all. -/
  | voteAll64 (w : R64)
  /-- VOTE_EQ (R364). Predicate true if ka is equal in every active lane. -/
  | voteEq (w : R32)
  /-- VOTE_EQ_64 (R364). 64-bit form of vote.eq. -/
  | voteEq64 (w : R64)
  /-- BALLOT (R364). Mask of active lanes with ka = 1 into an s register. -/
  | ballot (w : R32)
  /-- BALLOT_64 (R364). 64-bit form of ballot. -/
  | ballot64 (w : R64)
  /-- AMASK (R364). Mask of active lanes into an s register. -/
  | amask (w : R32)
  /-- AMASK_64 (R364). 64-bit form of amask. -/
  | amask64 (w : R64)
  /-- TOS (R364). Copies the lowest active lane's va to an s register. -/
  | tos (w : R32)
  /-- TOS_64 (R364). 64-bit form of tos. -/
  | tos64 (w : R64)
  /-- LRED (R365). Integer reduction over active lanes in lane order. -/
  | lred (f : BitVec 3) (w : R32)
  /-- LRED_64 (R365). 64-bit form of lred. -/
  | lred64 (f : BitVec 3) (w : R64)
  /-- LSCAN (R365). Integer inclusive or exclusive scan over active lanes. -/
  | lscan (f : BitVec 3) (w : R32)
  /-- LSCAN_64 (R365). 64-bit form of lscan. -/
  | lscan64 (f : BitVec 3) (w : R64)
  /-- LRED_FLOAT (R366). Floating-point left-fold reduction over active lanes. -/
  | lredFloat (f : BitVec 3) (w : R32)
  /-- LRED_FLOAT_64 (R366). 64-bit form of the floating-point lred. -/
  | lredFloat64 (f : BitVec 3) (w : R64)
  /-- LSCAN_FLOAT (R366). Floating-point left-fold scan over active lanes. -/
  | lscanFloat (f : BitVec 3) (w : R32)
  /-- LSCAN_FLOAT_64 (R366). 64-bit form of the floating-point lscan. -/
  | lscanFloat64 (f : BitVec 3) (w : R64)
  /-- GKEY (R368). Forms a tile–depth sort key. -/
  | gkey (w : R32)
  /-- GKEY_64 (R368). 64-bit form of gkey. -/
  | gkey64 (w : R64)
  /-- GALPHA (R369). Computes a splat's alpha at a pixel into element 1 of D. -/
  | galpha (w : R32)
  /-- GALPHA_64 (R369). 64-bit form of galpha. -/
  | galpha64 (w : R64)
  /-- GOVER (R370). Blends a colour into the pixel accumulator front to back. -/
  | gover (w : R32)
  /-- GOVER_64 (R370). 64-bit form of gover. -/
  | gover64 (w : R64)
  /-- GTERM (R371). Sets a predicate when transmittance falls below 2^-13. -/
  | gterm (w : R32)
  /-- GTERM_64 (R371). 64-bit form of gterm. -/
  | gterm64 (w : R64)
  /-- SMP (R372). Samples a 2D or 3D tensor with nearest or linear filtering. -/
  | smp (f : BitVec 3) (w : R32)
  /-- SMP_64 (R372). 64-bit form of smp. -/
  | smp64 (f : BitVec 3) (w : R64)
  /-- LD (R380). Loads 8 bytes with a named format tag. -/
  | ld (t : BitVec 2) (m : M32)
  /-- LD_64 (R380). 64-bit form of ld, with .inv and uniform forms. -/
  | ld64 (p : BitVec 3) (t : BitVec 2) (w : R64)
  /-- ST (R381). Stores 8 bytes. -/
  | st (m : M32)
  /-- ST_64 (R381). 64-bit form of st. -/
  | st64 (p : BitVec 3) (w : R64)
  /-- LDS_U (R380). Loads 1, 2 or 4 bytes zero-extended. -/
  | ldsU (m : M32)
  /-- LDS_U_64 (R380). 64-bit form of lds.u. -/
  | ldsU64 (p : BitVec 3) (w : R64)
  /-- LDS_S (R380). Loads 1, 2 or 4 bytes sign-extended. -/
  | ldsS (m : M32)
  /-- LDS_S_64 (R380). 64-bit form of lds.s. -/
  | ldsS64 (p : BitVec 3) (w : R64)
  /-- STS (R381). Stores the low 1, 2 or 4 bytes. -/
  | sts (m : M32)
  /-- STS_64 (R381). 64-bit form of sts. -/
  | sts64 (p : BitVec 3) (w : R64)
  /-- LDM (R382). Loads 2 to 16 consecutive registers. -/
  | ldm (p : BitVec 3) (w : R64)
  /-- STM (R382). Stores 2 to 16 consecutive registers. -/
  | stm (p : BitVec 3) (w : R64)
  /-- ATOM (R384). Returning atomic on an aligned 8-byte word, with optional release and acquire. -/
  | atom (f : BitVec 3) (w : R64)
  /-- RED (R384). Non-returning reduction performed at the home slice. -/
  | red (f : BitVec 3) (w : R64)
  /-- PUB (R386). Publishes the group's writes at a scope. -/
  | pub (c : BitVec 3)
  /-- PUB_64 (R386). 64-bit form of pub. -/
  | pub64 (w : R64)
  /-- PULL (R386). Raises the group's floor at a scope. -/
  | pull (c : BitVec 3)
  /-- PULL_64 (R386). 64-bit form of pull. -/
  | pull64 (w : R64)
  /-- PHASE (R386). A pub followed by a pull at one point. -/
  | phase (c : BitVec 3)
  /-- PHASE_64 (R386). 64-bit form of phase. -/
  | phase64 (w : R64)
  /-- PREF (R387). Prefetch hint with no architectural effect. -/
  | pref (m : M32)
  /-- PREF_64 (R387). 64-bit form of pref. -/
  | pref64 (w : R64)
  /-- BAR_INIT (R388). Sets a barrier's EXPECT. -/
  | barInit (w : R32)
  /-- BAR_INIT_64 (R388). 64-bit form of bar.init. -/
  | barInit64 (w : R64)
  /-- BAR_ARRIVE (R388). Adds the bundle's active threads to ARRIVED. -/
  | barArrive (w : R32)
  /-- BAR_ARRIVE_64 (R388). 64-bit form of bar.arrive. -/
  | barArrive64 (w : R64)
  /-- BAR_WAIT (R388). Waits until the barrier's phase differs from a parity. -/
  | barWait (w : R32)
  /-- BAR_WAIT_64 (R388). 64-bit form of bar.wait. -/
  | barWait64 (w : R64)
  /-- BAR_SYNC (R388). Arrives and waits on the phase read at arrival. -/
  | barSync (w : R32)
  /-- BAR_SYNC_64 (R388). 64-bit form of bar.sync. -/
  | barSync64 (w : R64)
  /-- WAIT (R389). Waits until a class counter is at most n. -/
  | wait (f : BitVec 3) (w : R32)
  /-- WAIT_64 (R389). 64-bit form of wait. -/
  | wait64 (f : BitVec 3) (w : R64)
  /-- CPY (R391). Issues a plain copy between layout records. -/
  | cpy (w : R32)
  /-- CPY_64 (R391). 64-bit form of cpy with LEN. -/
  | cpy64 (w : R64)
  /-- XFORM_TRANSPOSE (R391). Issues a transposing copy. -/
  | xformTranspose (w : R32)
  /-- XFORM_TRANSPOSE_64 (R391). 64-bit form of xform.transpose. -/
  | xformTranspose64 (w : R64)
  /-- XFORM_COMPRESS (R391). Issues a VBD compress. -/
  | xformCompress (w : R32)
  /-- XFORM_COMPRESS_64 (R391). 64-bit form of xform.compress. -/
  | xformCompress64 (w : R64)
  /-- XFORM_DECOMPRESS (R391). Issues a VBD decompress. -/
  | xformDecompress (w : R32)
  /-- XFORM_DECOMPRESS_64 (R391). 64-bit form of xform.decompress. -/
  | xformDecompress64 (w : R64)
  /-- XFORM_CONVERT (R391). Issues a converting copy. -/
  | xformConvert (w : R32)
  /-- XFORM_CONVERT_64 (R391). 64-bit form of xform.convert. -/
  | xformConvert64 (w : R64)
  /-- XFORM_REPACK (R391). Issues a VBD re-pack. -/
  | xformRepack (w : R32)
  /-- XFORM_REPACK_64 (R391). 64-bit form of xform.repack. -/
  | xformRepack64 (w : R64)
  /-- XFORM_MIGRATE (R217). Privileged migration of one leaf between tiers. -/
  | xformMigrate (w : R32)
  /-- XFORM_MIGRATE_64 (R217). 64-bit form of xform.migrate. -/
  | xformMigrate64 (w : R64)
  /-- GAT (R393). Issues a row gather into BUF. -/
  | gat (w : R32)
  /-- GAT_64 (R393). 64-bit form of gat. -/
  | gat64 (w : R64)
  /-- SCT (R393). Issues a row scatter or scatter-add. -/
  | sct (w : R32)
  /-- SCT_64 (R393). 64-bit form of sct. -/
  | sct64 (w : R64)
  /-- SRT (R394). Issues a Moraine sort from a record. -/
  | srt (w : R32)
  /-- SRT_64 (R394). 64-bit form of srt. -/
  | srt64 (w : R64)
  /-- COLL (R394). Issues a collective from a record. -/
  | coll (w : R32)
  /-- COLL_64 (R394). 64-bit form of coll. -/
  | coll64 (w : R64)
  /-- QPUSH (R397). Publishes, claims a queue index and appends a packet image. -/
  | qpush (w : R32)
  /-- QPUSH_64 (R397). 64-bit form of qpush. -/
  | qpush64 (w : R64)
  /-- CPY_MAP (R395). Installs a region map after its lines are full. -/
  | cpyMap (w : R32)
  /-- CPY_MAP_64 (R395). 64-bit form of cpy.map. -/
  | cpyMap64 (w : R64)
  /-- CPY_UNMAP (R395). Removes a region map and writes its dirty bytes back. -/
  | cpyUnmap (w : R32)
  /-- CPY_UNMAP_64 (R395). 64-bit form of cpy.unmap. -/
  | cpyUnmap64 (w : R64)
  /-- SEM_SIGNAL (R398). Release-adds a value to a semaphore at sys scope. -/
  | semSignal (w : R32)
  /-- SEM_SIGNAL_64 (R398). 64-bit form of sem.signal with an immediate. -/
  | semSignal64 (w : R64)
  /-- SEM_AWAIT (R398). Waits until a semaphore reaches a threshold, then acquires. -/
  | semAwait (w : R32)
  /-- SEM_AWAIT_64 (R398). 64-bit form of sem.await. -/
  | semAwait64 (w : R64)
  /-- SEM_READ (R398). Reads a semaphore's value. -/
  | semRead (w : R32)
  /-- SEM_READ_64 (R398). 64-bit form of sem.read. -/
  | semRead64 (w : R64)
  /-- WOPEN (R400). Opens a stream register on a descriptor. -/
  | wopen (w : R32)
  /-- WOPEN_64 (R400). 64-bit form of wopen. -/
  | wopen64 (w : R64)
  /-- WADV (R400). Advances a stream head by n. -/
  | wadv (w : R32)
  /-- WADV_64 (R400). 64-bit form of wadv. -/
  | wadv64 (w : R64)
  /-- WEND (R400). Sets a predicate when the stream head is at or past its length. -/
  | wend (w : R32)
  /-- WEND_64 (R400). 64-bit form of wend. -/
  | wend64 (w : R64)
  /-- WCLOSE (R400). Closes a stream register. -/
  | wclose (w : R32)
  /-- WCLOSE_64 (R400). 64-bit form of wclose. -/
  | wclose64 (w : R64)
  /-- WLD (R400). Broadcast read of the element at the stream head. -/
  | wld (w : R32)
  /-- WLD_64 (R400). 64-bit form of wld. -/
  | wld64 (w : R64)
  /-- WLD_LANE (R400). Per-lane read of the element at head plus lane. -/
  | wldLane (w : R32)
  /-- WLD_LANE_64 (R400). 64-bit form of wld.lane. -/
  | wldLane64 (w : R64)
  /-- CHAIN (R396). Issues a chain-stage operation. -/
  | chain (w : R32)
  /-- CHAIN_64 (R396). 64-bit form of chain with LEN. -/
  | chain64 (w : R64)
  /-- NMQ (R394). Issues a Cornice command from a record. -/
  | nmq (w : R32)
  /-- NMQ_64 (R394). 64-bit form of nmq issuing up to 16 records. -/
  | nmq64 (w : R64)
  /-- MZERO (R407). Clears a tile to zero with a tag. -/
  | mzero (w : R32)
  /-- MZERO_64 (R407). 64-bit form of mzero. -/
  | mzero64 (w : R64)
  /-- MMA (R405). Matrix multiply-accumulate into a tile. -/
  | mma (w : R64)
  /-- MGAT (R406). Matrix multiply-accumulate with row-gathered A. -/
  | mgat (w : R64)
  /-- MLD (R407). Loads a tile from the core scratchpad. -/
  | mld (w : R32)
  /-- MLD_64 (R407). 64-bit form of mld. -/
  | mld64 (w : R64)
  /-- MST (R408). Stores a tile to memory once full. -/
  | mst (w : R32)
  /-- MST_64 (R408). 64-bit form of mst. -/
  | mst64 (w : R64)
  /-- MFREE (R409). Clears a tile's live bit after earlier work on it. -/
  | mfree (w : R32)
  /-- MFREE_64 (R409). 64-bit form of mfree. -/
  | mfree64 (w : R64)
  /-- MSC (R410). Writes a scale register and drops scale-cache entries. -/
  | msc (w : R32)
  /-- MSC_64 (R410). 64-bit form of msc. -/
  | msc64 (w : R64)
  /-- MSCINV (R410). Drops the Helm's scale-cache entries. -/
  | mscinv (w : R32)
  /-- MSCINV_64 (R410). 64-bit form of mscinv. -/
  | mscinv64 (w : R64)
  /-- MSAVE (R411). Privileged store of a tile's stored bits to an address. -/
  | msave (w : R32)
  /-- MSAVE_64 (R411). 64-bit form of msave. -/
  | msave64 (w : R64)
  /-- MSAVE_OWN (R411). Privileged store of a tile to the owner's ACC_SAVE area. -/
  | msaveOwn (w : R32)
  /-- MSAVE_OWN_64 (R411). 64-bit form of msave.own. -/
  | msaveOwn64 (w : R64)
  /-- MREST (R411). Privileged restore of a tile from memory. -/
  | mrest (w : R32)
  /-- MREST_64 (R411). 64-bit form of mrest. -/
  | mrest64 (w : R64)
  /-- RDSYS (R417). Reads a system register. -/
  | rdsys (num d : BitVec 6)
  /-- RDSYS_64 (R417). 64-bit form of rdsys. -/
  | rdsys64 (w : R64)
  /-- WRSYS (R417). Writes a system register. -/
  | wrsys (num a : BitVec 6)
  /-- WRSYS_64 (R417). 64-bit form of wrsys. -/
  | wrsys64 (w : R64)
  /-- ERET (R277). Leaves the handler and resumes at TRAP_PC in user mode. -/
  | eret (w : R32)
  /-- ERET_64 (R277). 64-bit form of eret. -/
  | eret64 (w : R64)
  /-- PARK (R279). Parks the handler's thread and posts a fault record. -/
  | park (w : R32)
  /-- PARK_64 (R279). 64-bit form of park. -/
  | park64 (w : R64)
  /-- RESUME (R419). Makes a parked thread runnable by its handle. -/
  | resume (w : R32)
  /-- RESUME_64 (R419). 64-bit form of resume. -/
  | resume64 (w : R64)
  /-- KILL (R419). Ends a parked thread by its handle. -/
  | kill (w : R32)
  /-- KILL_64 (R419). 64-bit form of kill. -/
  | kill64 (w : R64)
  /-- TLBINV_ALL (R421). Translation fence over all addresses of a context. -/
  | tlbinvAll (w : R32)
  /-- TLBINV_ALL_64 (R421). 64-bit form of tlbinv.all. -/
  | tlbinvAll64 (w : R64)
  /-- TLBINV_VA (R421). Translation fence over the leaf covering one address. -/
  | tlbinvVa (w : R32)
  /-- TLBINV_VA_64 (R421). 64-bit form of tlbinv.va. -/
  | tlbinvVa64 (w : R64)
  /-- HALT (R420). Parks each active thread without a trap and posts a record. -/
  | halt (w : R32)
  /-- HALT_64 (R420). 64-bit form of halt. -/
  | halt64 (w : R64)
  /-- EXTENSION_ESCAPE (R314). Major 0x7F raises EMULATE when the selected feature bit is clear. -/
  | extensionEscape (x : BitVec 15) (b : BitVec 6) (f : BitVec 2)
  /-- EXTENSION_ESCAPE_64 (R314). 64-bit form of the extension escape. -/
  | extensionEscape64 (x : BitVec 47) (b : BitVec 6) (f : BitVec 2)
  /-- CORNICE_NOP (R435). Cornice no-operation. -/
  | corniceNop (w : CW)
  /-- CORNICE_RDROW (R433). Asynchronously reads a 1 KiB local row into a buffer. -/
  | corniceRdrow (w : CW)
  /-- CORNICE_WRROW (R433). Asynchronously writes a buffer to a 1 KiB local row. -/
  | corniceWrrow (w : CW)
  /-- CORNICE_CLD (R433). Loads one 64-byte buffer slice into a c register. -/
  | corniceCld (w : CW)
  /-- CORNICE_CST (R433). Stores a c register into one buffer slice. -/
  | corniceCst (w : CW)
  /-- CORNICE_FADD (R434). Lane-wise FP32 add. -/
  | corniceFadd (w : CW)
  /-- CORNICE_FSUB (R434). Lane-wise FP32 subtract. -/
  | corniceFsub (w : CW)
  /-- CORNICE_FMUL (R434). Lane-wise class product. -/
  | corniceFmul (w : CW)
  /-- CORNICE_FMA (R434). Lane-wise class product plus C with one rounding. -/
  | corniceFma (w : CW)
  /-- CORNICE_FMAX (R434). Lane-wise maximum. -/
  | corniceFmax (w : CW)
  /-- CORNICE_FMIN (R434). Lane-wise minimum. -/
  | corniceFmin (w : CW)
  /-- CORNICE_FSQRT (R434). Lane-wise square root in class E or L. -/
  | corniceFsqrt (w : CW)
  /-- CORNICE_FRSQ (R434). Lane-wise reciprocal square root. -/
  | corniceFrsq (w : CW)
  /-- CORNICE_FRCP (R434). Lane-wise reciprocal. -/
  | corniceFrcp (w : CW)
  /-- CORNICE_CVT (R434). Lane-wise conversion between FP32 and BF16 or FP16. -/
  | corniceCvt (w : CW)
  /-- CORNICE_FSCALE (R434). Lane-wise scaling by 2^e. -/
  | corniceFscale (w : CW)
  /-- CORNICE_MOVI (R435). Writes a sign-extended 19-bit immediate to an x register. -/
  | corniceMovi (w : CW)
  /-- CORNICE_ADDI (R435). Adds a signed 9-bit immediate to an x register. -/
  | corniceAddi (w : CW)
  /-- CORNICE_IRED (R436). Adds an indexed local row into c registers. -/
  | corniceIred (w : CW)
  /-- CORNICE_LOOP (R435). Decrements an x register and branches while it is not zero. -/
  | corniceLoop (w : CW)
  /-- CORNICE_BNZ (R435). Branches if an x register is not zero. -/
  | corniceBnz (w : CW)
  /-- CORNICE_WAIT (R433). Waits for a buffer's outstanding transfers. -/
  | corniceWait (w : CW)
  /-- CORNICE_SYNC (R433). Waits for every buffer's transfers. -/
  | corniceSync (w : CW)
  /-- CORNICE_END (R435). Waits as sync, then ends the stripe. -/
  | corniceEnd (w : CW)
  /-- POWER_LOSS (R49). Power to the module is removed without a thermal trip; all volatile state is lost and only the housekeeping flash, with WARM_FAILS and COLD_FAILS, survives until the next power-on. -/
  | powerLoss
  deriving DecidableEq, Repr

end Sys2Proof
end

