-- ==== Sys2Proof/Machine/State.lean ====
section
/-! DEFINITION. The state of the KW-960: every piece of state the spec gives the module, as plain data.
INVENTORY.md lists each piece with its rule and its reset value. -/

namespace Sys2Proof.Machine

open Sys2Proof

/-- A finite map as a list of key and value pairs; a key that is not listed has the default its reader names. -/
abbrev FMap (κ α : Type) := List (κ × α)

/-! ## Stops -/

/-- Reasons a step stops with a fault: none. The spec gives every situation an effect: what would stop another machine
is here a trap of a thread, a fault record, a status or a held request. Safe. -/
inductive Fault where
  deriving DecidableEq, Repr

/-- Reasons a step has no meaning. -/
inductive Refusal where
  /-- Raised only by an arm of exec whose instruction has no meaning yet. Safe. -/
  | notModelled (mnemonic : String)
  deriving DecidableEq, Repr

/-! ## Names of things -/

/-- A group: its workgroup's number and its group index (R114). -/
structure GroupId where
  wg : Nat
  grp : Nat
  deriving DecidableEq, Repr

/-- A thread: its group and lane (R114, R115). -/
structure ThreadId where
  wg : Nat
  grp : Nat
  lane : Nat
  deriving DecidableEq, Repr

/-- A 64-bit register (R116): v of a thread, s of a group, h of a Helm. -/
inductive RegKey where
  | v (wg grp lane num : Nat)
  | s (wg grp num : Nat)
  | h (wg num : Nat)
  deriving DecidableEq, Repr

/-- A register's contents: bits, format tag, full/empty bit (R116). -/
structure Reg where
  bits : Word
  tag : Tag
  full : Bool
  deriving DecidableEq, Repr

/-- A party of the memory model (R175). `command` is a packet command, `device` the queue engines, map unit and clear step. -/
inductive Party where
  | group (wg grp : Nat)
  | helm (wg : Nat)
  | thread (wg grp lane : Nat)
  | host
  | peer (module : Nat)
  | command (cmd : Nat)
  | operation (op : Nat)
  | device
  deriving DecidableEq, Repr

/-- The six scopes of a pub or pull (R178), in the encoding's order. -/
inductive Scope where
  | grp | wg | ridge | die | pkg | sys
  deriving DecidableEq, Repr

/-- The six classes of asynchronous operations (R136). -/
inductive OpClass where
  | cpy | gat | srt | coll | nm | mat
  deriving DecidableEq, Repr

/-- The six outstanding-operation counters (R136, R137), 6 bits each. -/
structure Counters where
  cpy : BitVec 6
  gat : BitVec 6
  srt : BitVec 6
  coll : BitVec 6
  nm : BitVec 6
  mat : BitVec 6
  deriving DecidableEq, Repr

/-! ## Memory order (R175 to R191) -/

/-- Where a party stands when it publishes or pulls (R178): its die, workgroup and Ridge set. -/
structure Place where
  who : Party
  die : Nat
  wg : Nat
  launch : Nat
  set : Nat
  deriving DecidableEq, Repr

/-- One performed byte write: its place in the coherence order, the value it replaced, the parties that have issued
it or learned of it, and where it has been published. -/
structure HistEntry where
  addr : Nat
  seq : Nat
  old : Byte
  owners : List Party
  pubs : List (Scope × Place)
  deriving DecidableEq, Repr

/-- The floor of one party for one byte (R177): the latest write it must see. -/
structure Floor where
  who : Party
  addr : Nat
  seq : Nat
  deriving DecidableEq, Repr

/-! ## Threads, groups, Helms -/

/-- What a waiting bundle or Helm waits at (R119); `none` when it does not wait. `released` is a barrier wait whose phase has
completed (R139). A nap holds the cycles left and the
address after it (R344); `fence` is a `tlbinv` under way; `fabric` an `msave` whose words, of requests numbered below it,
are on their way; `gauntlet` a write to ACC_OWNER or ACC_LIVE until no instruction is accepted (R415). -/
inductive Wait where
  | none
  | barrier (bar : Nat) (parity : Bool)
  | released (bar : Nat)
  | counter (cls : OpClass) (n : Nat)
  | semaphore (index : Nat) (threshold : Word)
  | nap (cycles : Nat) (next : Word)
  | spawnBin
  | staged
  | fence (id : Nat)
  | fabric (below : Nat)
  | gauntlet
  deriving DecidableEq, Repr

/-- How a thread came to be parked (R95, R278, R279, R420). -/
inductive ParkKind where
  | running
  | byPark
  | byNested
  | byHalt
  deriving DecidableEq, Repr

/-- A thread (R114): PC, mode, parking, hang counter, k registers and trap registers. -/
structure Thread where
  live : Bool
  killed : Bool
  pc : Word
  park : ParkKind
  priv : Bool
  inHandler : Bool
  hang : Nat
  wait : Wait
  k : BitVec 8
  trapCause : BitVec 8
  trapPc : Word
  trapAddr : Word
  trapInfo : Word
  spawnSeq : Nat
  arrived : List Nat
  handle : BitVec 48
  deriving DecidableEq, Repr

/-- A stream register's pattern and head (R144, R399): element size in bytes, the address of its index array if it has
one and the width of an index in bytes, the view of `wopen` (the writes performed and the floors held then), and the FIFO of
elements fetched from the head on, by position. -/
structure Stream where
  isOpen : Bool
  base : Word
  stride : Word
  len : Nat
  size : Nat
  tag : Tag
  index : Option Word
  indexBytes : Nat
  head : Nat
  openSeq : Nat
  openFloors : Nat
  fifo : List (Nat × List Byte)
  deriving DecidableEq, Repr

/-- What a group has issued and what has not completed: a pub, a phase (R386), or the pull of an acquiring reduction (R182). -/
inductive PubKind where
  | pub
  | phase
  | acquire
  deriving DecidableEq, Repr

/-- A group (R114): counters, FLAGS, FE_ACTION, stream registers, yield count and the lanes of the bundle it counts (R120), its spawn-record block, and the
pubs (and phases) it has issued that have not completed (R179, R386), the records read by instructions that block at
a full counter, by their address (R390), and for a spawned group the chip offset of its spawn-record block (R126). -/
structure Group where
  present : Bool
  spawned : Bool
  slot : Nat
  ctr : Counters
  flags : Word
  feAction : BitVec 2
  streams : FMap Nat Stream
  backCount : Nat
  backLanes : List Nat
  yieldAbove : Option Word
  pendingPub : List (Scope × PubKind)
  recs : FMap Word (List (List Byte))
  block : Nat
  deriving DecidableEq, Repr

/-- A trap raised by a Helm, stopped until a thread's handler returns (R280). -/
structure HelmTrap where
  cause : BitVec 8
  addr : Word
  info : Word
  taker : Option ThreadId
  deriving DecidableEq, Repr

/-- What a matrix instruction does (R402). -/
inductive MatKind where
  | mzero | mma | mgat | mld | mst | mfree
  deriving DecidableEq, Repr

/-- A matrix instruction of major 0x78 as issued: its tile with the action bit TA, its h registers with their action
bits, the displacement, the input code, K, X, SO and its length (R401 to R408). -/
structure MatOp where
  kind : MatKind
  tile : Nat
  ta : Bool
  a : Option (Nat × Bool)
  b : Option (Nat × Bool)
  disp : Word
  code : Nat
  depth : Nat
  x : Bool
  so : Nat
  len : Nat
  deriving DecidableEq, Repr

/-- A workgroup's Helm (R143, R242 to R247). A cached scale has its value and the write count when it was fetched; an
instruction ready for acceptance stands in `acceptWait`. -/
structure Helm where
  running : Bool
  pc : Word
  number : Nat
  ctr : Counters
  flags : Word
  feAction : BitVec 2
  hang : Nat
  wait : Wait
  trap : Option HelmTrap
  scaleBase : Word
  scaleOrg : Word
  scaleShift : BitVec 6
  scaleCache : FMap Nat (Byte × Nat)
  arrived : List Nat
  acceptWait : Option MatOp
  deriving DecidableEq, Repr

/-- What passing a completed phase of a barrier makes visible (R142, R247): operations whose writes are seen, and FLAGS. -/
structure BarDone where
  ops : List Nat
  flags : Word
  deriving DecidableEq, Repr

/-- A hardware barrier (R138), with what passing it makes visible (R142, R247): the operations counted in TX, and the Helm's
finished operations and FLAGS as they stood at its arrival, of the current phase; and the same of the completed phases, by their
parity. -/
structure Barrier where
  expect : BitVec 11
  arrived : BitVec 11
  tx : BitVec 32
  pexit : BitVec 11
  phase : Bool
  txOps : List Nat
  helmOps : List Nat
  helmFlags : Word
  done0 : BarDone
  done1 : BarDone
  deriving DecidableEq, Repr

/-- A line being filled for a region map and who touched it (R154, R156): a lane of a group, the Helm, or an
asynchronous operation. -/
structure MapFill where
  line : Nat
  grp : Nat
  lane : Nat
  helm : Bool
  op : Option Nat
  deriving DecidableEq, Repr

/-- A region map of a workgroup (R152, R153); `present` holds scratchpad line numbers, `dirty` scratchpad offsets. -/
structure RegionMap where
  gva : Nat
  soff : Nat
  lines : Nat
  wb : Bool
  present : List Nat
  dirty : List Nat
  filling : List MapFill
  deriving DecidableEq, Repr

/-- A store, reduction or atomic as memory performs it; `masked` stores the bytes of an aligned word that it lists (R155, R204). -/
inductive WriteOp where
  | store (bytes : List Byte)
  | masked (bytes : List (Option Byte))
  | poisoned (len : Nat)
  | reduce (op : BitVec 3) (tag : Tag) (unsigned : Bool) (value : Word)
  | atomic (op : BitVec 3) (tag : Tag) (unsigned : Bool) (value compare : Word)
  deriving DecidableEq, Repr

/-- An entry of the ticket unit's staging share (R99, R103). `grp` is its group; the Helm's entries come last; `order`
is its place in program order. -/
structure Staged where
  wg : Nat
  grp : Nat
  order : Nat
  helm : Bool
  va : Nat
  op : WriteOp
  priv : Bool
  deriving DecidableEq, Repr

/-- A record given to `spawn` (R124, R127). -/
structure SpawnRec where
  wg : Nat
  spawner : Nat
  seq : Nat
  bytes : List Byte
  deriving DecidableEq, Repr

/-- A spawn bin of a core (R124, R125): keyed by launch and entry; `wg` only in a deterministic kernel. -/
structure SpawnBin where
  launch : Nat
  entry : Word
  wg : Option Nat
  recs : List SpawnRec
  countdown : Nat
  fired : Bool
  deriving DecidableEq, Repr

/-- Whether a workgroup is on a core, saved, or ended (R83, R106, R97). -/
inductive WgStatus where
  | resident
  | saved (slot : Nat)
  | ended
  deriving DecidableEq, Repr

/-- A workgroup (R83 to R86, R97, R106, R113); `savedBins` are the spawn-bin records of its save record and, on a core, those that wait
for a bin; `eager` holds the tiles that its eager save has still to write. -/
structure Workgroup where
  launch : Nat
  lin : Nat
  set : Nat
  core : Nat
  status : WgStatus
  slots : List Nat
  helmNo : Nat
  share : Option Nat
  direct : Bool
  killed : Bool
  nextGroup : Nat
  bars : FMap Nat Barrier
  maps : List RegionMap
  savedBins : List SpawnBin
  oldCore : Option Nat
  savedTiles : BitVec 8
  eager : Option (BitVec 8)
  saveSeal : Nat
  placedAt : Nat
  heldForPoint : Bool
  eagerHeld : Bool
  firstIssued : Bool
  deriving DecidableEq, Repr

/-! ## Launches and packets -/

/-- A launch (R66, R67, R85, R98 to R102): `dieSeen` are the dies on which it has placed a workgroup (R91); `eligible` says
that its workgroups wait for placement. -/
structure Launch where
  cmd : Nat
  ctx : Nat
  entry : Word
  helm : Word
  threads : Nat
  barsN : Nat
  lend : Nat
  scratch : Nat
  karg : Word
  gx : Nat
  gy : Nat
  gz : Nat
  det : Bool
  cls : BitVec 2
  opp : Nat
  rset : Nat
  spawnCd : Nat
  hang : Nat
  order : Nat
  next : Nat
  live : Nat
  run : Nat
  running : Bool
  lowestKilled : Option Nat
  ticket : Nat
  endedWgs : List Nat
  startSeq : Nat
  emitWait : Bool
  dieSeen : List Nat
  eligible : Bool
  deriving DecidableEq, Repr

/-- Where a packet command stands (R63, R75, R77, R78): `released` are its checks to be made at its node's release, `gate`
its FENCE and AWAIT conditions and indirect reads. -/
inductive CmdPhase where
  | atHead
  | armed
  | released
  | gate
  | started
  | worked
  | recorded
  | signalled
  | successors (k : Nat)
  | done
  deriving DecidableEq, Repr

/-- A packet command (R63 to R79). `bound` holds its bound fields once read, `recs` the records that its check read,
`seqNo` the number of a collective (R226). -/
structure Cmd where
  ctx : Nat
  queue : Nat
  index : Nat
  node : Nat
  bytes : List Byte
  phase : CmdPhase
  bound : List Word
  order : Nat
  status : BitVec 16
  detail : Word
  result : Word
  held : Bool
  recs : List (List Byte)
  seqNo : Nat
  deriving DecidableEq, Repr

/-- A queue as its engine serves it (R57, R59, R63): the checked descriptor and the internal read index. -/
structure Queue where
  ring : Word
  widx : Word
  ridx : Word
  crec : Word
  log2n : Nat
  maxclass : BitVec 2
  vec : Nat
  qeng : Nat
  served : Bool
  servedSeq : Nat
  everRun : Bool
  rindex : Nat
  head : Option Nat
  awake : Bool
  deriving DecidableEq, Repr

/-- A fault record waiting to be posted (R283, R285): its 64 bytes. -/
abbrev FaultRec := List Byte

/-- A context (R43, R82, R192, R274, R282). `fqBlocked`: posting has faulted and waits for a fence (R285). `oldRoots` are replaced values of PT_ROOT under which translations may still be
cached, with the write count when each was replaced (R417). -/
structure Context where
  dying : Bool
  qcount : Nat
  semBase : Nat
  semCount : Nat
  qtab : Word
  ntab : Word
  nodeCount : Nat
  summit : BitVec 40
  saveBase : Word
  saveSlots : Nat
  detResv : Nat
  accSave : Word
  fqBase : Word
  fqWidxAddr : Word
  fqRidxAddr : Word
  fqLog2n : Nat
  fqVec : Nat
  fqWidx : Nat
  fqWaiting : List FaultRec
  fqBlocked : Bool
  g0First : Nat
  g0Count : Nat
  g1First : Nat
  g1Count : Nat
  ptRoot : Word
  oldRoots : List (Word × Nat)
  trapVec : Word
  holdRidges : BitVec 40
  deriving DecidableEq, Repr

/-! ## Cores, engines -/

/-- An entry of a core's side log (R204): one aligned 8-byte word. A marker holds only the translation that a staged
entry of a deterministic kernel waits for (R103). `cause` and `info` are those of the page's fault; `order` is its place in issue
order, `unmap` the write-back that waits for it (R203). -/
structure SideEntry where
  ctx : Nat
  thread : ThreadId
  va : Nat
  op : WriteOp
  priv : Bool
  marker : Bool
  cause : BitVec 8
  info : Word
  order : Nat
  unmap : Option Nat
  deriving DecidableEq, Repr

/-- One captured aligned 8-byte word of a latch set: its scratchpad offset, its value once captured, and its poison. -/
structure CapWord where
  off : Nat
  val : Option Word
  bad : Bool
  deriving DecidableEq, Repr

/-- A latch set of a Gauntlet (R231, R236, R248): the instruction and its address, its operand words, the scratchpad
offset of each row of A (`none` a row of zeros) and of B, the scales by the offset of their block, where `mst` writes,
what a hand-back restores, and the operation whose writes `mst` owes. `seq` and `floors` are the Helm's view at acceptance, `baseA`
and `index` the captured operands from which `planned` says that rows and scales are known (R240, R406), the scale registers those
of its acceptance (R242, R244), `waited` the core cycles since its start (R235). -/
structure Latch where
  wg : Nat
  op : MatOp
  pc : Word
  executing : Bool
  caps : List CapWord
  rows : List (Option Nat)
  baseB : Nat
  scales : FMap Nat Byte
  addr : Word
  stride : Word
  bad : Bool
  capDone : Bool
  wasTag : Bool
  wasLive : Bool
  asyncId : Option Nat
  seq : Nat
  floors : Nat
  baseA : Nat
  index : Word
  planned : Bool
  scaleBase : Word
  scaleOrg : Word
  scaleShift : BitVec 6
  waited : Nat
  deriving DecidableEq, Repr

/-- A core (R116, R204, R231, R414, R415). The tiles' elements are in memory. `lastHelm` and `lastPort` are the Helm whose instruction
was accepted last (R238) and the one that the Helm issue port served last (R246). -/
structure Core where
  cycles : Word
  accOwner : BitVec 16
  accLive : BitVec 8
  tileFull : BitVec 8
  tileTag : BitVec 8
  tilePoison : BitVec 8
  latches : List Latch
  lastHelm : Nat
  lastPort : Nat
  sideLog : List SideEntry
  bins : List SpawnBin
  deriving DecidableEq, Repr

/-- A die's operating point (R12, R14, R90). -/
structure Die where
  point : Nat
  target : Nat
  ceiling : Nat
  rising : Bool
  deriving DecidableEq, Repr

/-- A value on its way to an empty register (R129). -/
structure Fill where
  id : Nat
  reg : RegKey
  value : Word
  flags : Word
  owner : GroupId
  deriving DecidableEq, Repr

/-- A collective as started (R225, R226): its body, communicator record and rank table as read, and its number. -/
structure CollJob where
  body : List Byte
  comm : List Byte
  rtab : List Byte
  seqNo : Nat
  deriving DecidableEq, Repr

/-- What an asynchronous operation does when its engine finishes (R136, R187, R208). Addresses and records are as
captured at issue. `idle` has nothing left to do but to be retired; `tilePending` is an `mst` that has not read its tile. -/
inductive OpKind where
  | idle
  | copy (op : Nat) (src dst : List Byte) (len : Nat)
  | chain (recs : List (List Byte)) (len : Nat)
  | gather (rec : List Byte)
  | scatter (rec : List Byte)
  | sort (rec : List Byte)
  | coll (job : CollJob)
  | near (cmd : Nat)
  | unmap (writes : List (Nat × WriteOp))
  | tilePending
  | tileStore (writes : List (Nat × WriteOp))
  | qpush (queue : Nat) (index : Nat) (packet : List Byte) (after : Word)
  deriving DecidableEq, Repr

/-- An asynchronous operation in flight, oldest first in its class (R136, R137, R203). `grp` none is the Helm's; `lane`
is the issuing thread's; `seq` and `floors` are the view at issue (R187), `order` its place in program order (R99). `unseen` are the group's
earlier operations of whose writes it had not learned at the issue (R212), `replayed` the places of writes of the issuer that were in
the side log then (R187, R188). Of an append, `tx` is the address of its `qpush` and `lines` are the lanes that wait for it (R397). -/
structure AsyncOp where
  id : Nat
  wg : Nat
  grp : Option Nat
  lane : Option Nat
  ctx : Nat
  die : Nat
  priv : Bool
  seq : Nat
  floors : Nat
  unseen : List Nat
  replayed : List Nat
  order : Nat
  cls : OpClass
  kind : OpKind
  bar : Option Nat
  tx : Nat
  lines : List Nat
  done : Bool
  held : Bool
  orphan : Bool
  deriving DecidableEq, Repr

/-- A translation fence under way (R201). -/
structure Fence where
  id : Nat
  ctx : Nat
  va : Option Nat
  deriving DecidableEq, Repr

/-- A completed translation fence, or the creation of a context: older forms of the table entries it covers are
used no more (R200, R201). `va` none is all addresses; `seq` is the write count at the fence. -/
structure FenceMark where
  ctx : Nat
  va : Option Nat
  seq : Nat
  deriving DecidableEq, Repr

/-- A VBD block held dirty in its home slice (R170 to R172): the flat address of its page's frame, its number, its
element size, and whether it waits for a re-pack. Its bytes are in memory, in the space of VBD pages. -/
structure VbdBlock where
  frame : Nat
  block : Nat
  esz : Nat
  held : Bool
  deriving DecidableEq, Repr

/-- An outbound fabric request (R24 to R26, R31, R32), or a held one: what it does (`none` reads), for whom, and its
answer; `cmp` is the CMP of the page it names there (R174). -/
structure FabReq where
  id : Nat
  who : Party
  thread : Option ThreadId
  op : Option WriteOp
  target : Nat
  off : Nat
  len : Nat
  port : Option Nat
  answered : Bool
  poisoned : Bool
  bytes : List Byte
  cmp : Nat
  deriving DecidableEq, Repr

/-! ## The fabric ports -/

/-- A flit that a port has sent and keeps for replay (R16, R17): the destination, source and sequence number of its header, and its payload. -/
structure SentFlit where
  dest : Nat
  source : Nat
  seq : Nat
  payload : List Byte
  deriving DecidableEq, Repr

/-- A fabric port: the fields of FAB_PORT (R28) and its link state (R17, R18, R25); `outLanes` are the lanes that have not
trained in time in the training under way (R29). -/
structure Port where
  nbrId : BitVec 13
  nbrSw : Bool
  retries : BitVec 16
  capRed : Bool
  capVbd : Bool
  lanes : BitVec 2
  state : BitVec 4
  laneFail : BitVec 2
  retrain : Bool
  en : Bool
  trained : Bool
  draining : Bool
  expectSeq : Nat
  nextSeq : Nat
  retry : List SentFlit
  delivered : List (List Byte)
  replays0 : Nat
  replays1 : Nat
  windowFlits : Nat
  resend : List Nat
  askReplay : Option Nat
  outLanes : BitVec 2
  deriving DecidableEq, Repr

/-! ## The Cornice units -/

/-- An outstanding row transfer of a unit (R433). -/
structure RowTransfer where
  buf : Nat
  write : Bool
  addr : Nat
  deriving DecidableEq, Repr

/-- A Cornice unit (R422): lanes with their poison, integers, row buffers, PC, and the command and stripe it runs. -/
structure CorniceUnit where
  c : FMap Nat (List (BitVec 32))
  cPoison : FMap Nat (BitVec 8)
  x : FMap Nat (BitVec 32)
  b : FMap Nat (List Byte)
  bPoison : FMap Nat (List Nat)
  pc : Nat
  steps : Nat
  stripe : Nat
  running : Option Nat
  transfers : List RowTransfer
  deriving DecidableEq, Repr

/-- A Cornice command in the module-wide command order (R428): its record and argument block, who it works for and
under which view, whether its checks and clear step are over, the physical address and leaf entry of every stripe, the
units that have not finished it, and the lowest row address that failed or read poison. `window` is the write count at the start of
its clear step (R191). -/
structure NearCmd where
  id : Nat
  ctx : Nat
  source : Party
  issuer : Party
  seq : Nat
  floors : Nat
  priv : Bool
  record : List Byte
  args : List Byte
  first : Nat
  count : Nat
  begun : Bool
  window : Nat
  rows : List (List (Nat × Nat))
  left : List Nat
  failed : Bool
  bad : Option Word
  deriving DecidableEq, Repr

/-! ## Errors and injection -/

/-- The error log entry and counts of one array (R291). -/
structure ErrLog where
  lasting : BitVec 16
  corrected : BitVec 16
  transient : BitVec 16
  held : Bool
  valid : Bool
  addr : Word
  ctx : BitVec 16
  cls : BitVec 2
  syndrome : BitVec 16
  deriving DecidableEq, Repr

/-- ERR_INJ of one array (R291). -/
structure ErrInj where
  entry : BitVec 40
  arm : Bool
  sticky : Bool
  nbits : BitVec 2
  deriving DecidableEq, Repr

/-! ## The housekeeping side -/

/-- The start in progress (R46 to R50). `recovery` says that it is one of the recovery image; `lostFrames` are the frames of the contexts
that the last trigger ended (R48). -/
structure Boot where
  powered : Bool
  running : Bool
  ready : Bool
  warm : Bool
  recovery : Bool
  coldFails : BitVec 2
  warmFails : BitVec 4
  stage : BitVec 8
  lostFrames : List Nat
  deriving DecidableEq, Repr

/-- The housekeeping flash, fuses and measurements (R47, R49, R52, R55). -/
structure Trust where
  firmware : List Byte
  recovery : List Byte
  trained : Bool
  secVersion : Word
  m0 : List Byte
  m1 : List Byte
  deriving DecidableEq, Repr

/-- The BAR 0 registers of the host control and attestation blocks (R37 to R44, R51, R54, R105, R173, R291). -/
structure HostRegs where
  lock : Bool
  emit : Bool
  powerLimit : BitVec 6
  powerNow : BitVec 16
  hbmOrg : BitVec 11
  hmwBase : FMap Nat Word
  hmwLimit : FMap Nat Word
  ctxRec : BitVec 31
  ctxCmd : BitVec 16
  ctxErr : BitVec 8
  ctxDone : Bool
  ctxBusy : Bool
  fwSrc : BitVec 27
  fwLen : BitVec 25
  fwCode : BitVec 8
  fwErr : Bool
  fwDone : Bool
  fwGo : Bool
  attNonce : List Byte
  attAddr : Word
  attGo : Bool
  attDone : Bool
  attErr : Bool
  preHold : Bool
  preRidges : BitVec 40
  preCtx : BitVec 16
  preDone : Bool
  preBusy : Bool
  repackBase : BitVec 40
  repackSize : BitVec 4
  repackWidx : BitVec 16
  repackRidx : BitVec 16
  repackVec : BitVec 6
  repackEn : Bool
  errSel : BitVec 16
  msix : FMap Nat (BitVec 32)
  msixPending : Word
  deriving DecidableEq, Repr

/-- Entries of the housekeeping log (R15, R37) and of the fabric error log (R23, R26, R41). -/
inductive LogEntry where
  | thermalTrip
  | lockedWrite (off : Nat)
  | startFailed (stage : BitVec 8)
  | inboundDropped (source : Nat)
  | windowMiss (addr : Nat)
  | requestPoisoned (target : Nat) (off : Nat)
  | pcieConfig (retry : Bool)
  | unsupported (off : Nat)
  | vbdDescriptor (frame block : Nat)
  deriving DecidableEq, Repr

/-! ## The turn order -/

/-- Who issues in this step. -/
inductive Issuer where
  | group (wg grp : Nat) (lanes : List Nat) (pc : Word) (len : Nat)
  | helm (wg : Nat) (pc : Word) (len : Nat)
  | cornice (unit : Nat)
  | nobody
  deriving DecidableEq, Repr

/-- What the surroundings let act next: an event of the part or its host, the next bundle of a group, a Helm, a
Cornice unit, the passing of cycles on a core, a store by the host to its own memory, its read of a BAR 0 register or of the
module's certificate, or a storage upset. -/
inductive Turn where
  | event (i : Instr)
  | group (wg grp : Nat)
  | helm (wg : Nat)
  | cornice (unit : Nat)
  | elapse (core : Nat) (n : Nat)
  | hostStore (addr : Nat) (bytes : List Byte)
  | bar0Read (off size : Nat)
  | certificate
  | upset (array : Nat) (inj : ErrInj)
  deriving DecidableEq, Repr

/-- The state of the module. `hostReads` and `peerAnswers` are what the host and other modules were answered, the latter with
the module's number; a flag marks poison. `endedFrames` are the frames of contexts that have ended (R48). -/
structure State where
  agenda : List Turn
  freeCount : Nat
  nextId : Nat
  cur : Issuer
  mem : List Host.Cell
  poison : List Nat
  hist : List HistEntry
  floors : List Floor
  writeSeq : Nat
  regs : FMap RegKey Reg
  threads : FMap ThreadId Thread
  groups : FMap GroupId Group
  helms : FMap Nat Helm
  wgs : FMap Nat Workgroup
  launches : FMap Nat Launch
  cmds : FMap Nat Cmd
  queues : FMap (Nat × Nat) Queue
  ctxs : FMap Nat Context
  cores : FMap Nat Core
  dies : FMap Nat Die
  ports : FMap Nat Port
  fabSelf : BitVec 13
  fabInb : FMap Nat Word
  fabRoute : FMap Nat (BitVec 32)
  routePending : FMap Nat (BitVec 32)
  fabReqs : List FabReq
  sems : FMap Nat Word
  emptyLines : List Nat
  host : HostRegs
  boot : Boot
  trust : Trust
  errLogs : FMap Nat ErrLog
  errInjs : FMap Nat ErrInj
  log : List LogEntry
  fills : List Fill
  ops : List AsyncOp
  fences : List Fence
  fenceMarks : List FenceMark
  vbd : List VbdBlock
  repackReqs : List Nat
  overflow : List (Nat × Nat)
  staged : List Staged
  spawnHeld : List (Nat × Word × SpawnRec)
  hotBase : Word
  hotFills : FMap Nat Nat
  units : FMap Nat CorniceUnit
  progStore : FMap Nat (BitVec 32)
  near : List NearCmd
  hostReads : List (List Byte × Bool)
  endedFrames : List Nat
  peerAnswers : List (Nat × List Byte × Bool)
  deriving DecidableEq, Repr

/-! ## Reset -/

/-- The housekeeping flash at delivery: images whose contents the spec does not give (log entry 12). -/
def Trust.reset : Trust :=
  { firmware := [], recovery := [], trained := false, secVersion := 0, m0 := [], m1 := [] }

/-- The start block before power is applied (R50). -/
def Boot.reset : Boot :=
  { powered := false, running := false, ready := false, warm := false, recovery := false,
    coldFails := 0, warmFails := 0, stage := 0, lostFrames := [] }

/-- The host control block at reset (R37 to R44, R51, R105, R173, R291). -/
def HostRegs.reset : HostRegs :=
  { lock := false, emit := false, powerLimit := 32, powerNow := 0, hbmOrg := 0, hmwBase := [], hmwLimit := [],
    ctxRec := 0, ctxCmd := 0, ctxErr := 0, ctxDone := false, ctxBusy := false,
    fwSrc := 0, fwLen := 0, fwCode := 0, fwErr := false, fwDone := false, fwGo := false,
    attNonce := [], attAddr := 0, attGo := false, attDone := false, attErr := false,
    preHold := false, preRidges := 0, preCtx := 0, preDone := false, preBusy := false,
    repackBase := 0, repackSize := 0, repackWidx := 0, repackRidx := 0, repackVec := 0, repackEn := false,
    errSel := 0, msix := [], msixPending := 0 }

/-- The module before power is applied: every register at its reset value, memory with nothing listed, nothing
resident. A step from here applies power (R46). -/
def State.reset : State :=
  { agenda := [], freeCount := 0, nextId := 1, cur := .nobody, mem := [], poison := [], hist := [], floors := [],
    writeSeq := 0, regs := [], threads := [], groups := [], helms := [], wgs := [], launches := [], cmds := [],
    queues := [], ctxs := [], cores := [], dies := [], ports := [], fabSelf := 0, fabInb := [], fabRoute := [],
    routePending := [], fabReqs := [], sems := [], emptyLines := [], host := HostRegs.reset, boot := Boot.reset, trust := Trust.reset,
    errLogs := [], errInjs := [], log := [], fills := [], ops := [], fences := [], fenceMarks := [], vbd := [],
    repackReqs := [], overflow := [], staged := [], spawnHeld := [], hotBase := 0, hotFills := [], units := [],
    progStore := [], near := [], hostReads := [], endedFrames := [], peerAnswers := [] }

end Sys2Proof.Machine
end

