-- ==== Sys2Proof/Machine/Maps.lean ====
section
/-! DEFINITION. Reading and writing the finite maps and lists of the state. -/

namespace Sys2Proof.Machine

open Sys2Proof

/-- The value listed for a key, if any. -/
def FMap.find {κ α : Type} [DecidableEq κ] (m : FMap κ α) (k : κ) : Option α :=
  match m with
  | [] => none
  | (k', v) :: t => if k' = k then some v else FMap.find t k

/-- The value listed for a key, or the default. -/
def FMap.getD {κ α : Type} [DecidableEq κ] (m : FMap κ α) (k : κ) (d : α) : α :=
  match FMap.find m k with
  | some v => v
  | none => d

/-- The map with one key's value replaced or added. -/
def FMap.set {κ α : Type} [DecidableEq κ] (m : FMap κ α) (k : κ) (v : α) : FMap κ α :=
  match m with
  | [] => [(k, v)]
  | (k', v') :: t => if k' = k then (k, v) :: t else (k', v') :: FMap.set t k v

/-- The map without one key. -/
def FMap.erase {κ α : Type} [DecidableEq κ] (m : FMap κ α) (k : κ) : FMap κ α :=
  m.filter (fun e => e.1 ≠ k)

/-- The map with one key's value changed, if it is listed. -/
def FMap.modify {κ α : Type} [DecidableEq κ] (m : FMap κ α) (k : κ) (f : α → α) : FMap κ α :=
  match FMap.find m k with
  | some v => FMap.set m k (f v)
  | none => m

/-- Bits [hi:lo] of a word, as a number. -/
def field {w : Nat} (x : BitVec w) (hi lo : Nat) : Nat := x.toNat / 2 ^ lo % 2 ^ (hi + 1 - lo)

/-- Bit n of a word. -/
def bitAt {w : Nat} (x : BitVec w) (n : Nat) : Bool := x.toNat / 2 ^ n % 2 == 1

/-- A word as little-endian bytes (R2). -/
def leBytes (n : Nat) (x : Nat) : List Byte :=
  match n with
  | 0 => []
  | n + 1 => BitVec.ofNat 8 (x % 256) :: leBytes n (x / 256)

/-- The number a little-endian byte list stands for (R2). -/
def ofLe (bs : List Byte) : Nat :=
  match bs with
  | [] => 0
  | b :: t => b.toNat + 256 * ofLe t

/-- The number in bytes [at, at + n) of a record. -/
def fieldLe (bs : List Byte) (start n : Nat) : Nat := ofLe ((bs.drop start).take n)

/-- Whether bytes [start, stop) of a record are all zero. -/
def zeroIn (bs : List Byte) (start stop : Nat) : Bool := fieldLe bs start (stop - start) == 0

/-- Sign extension of the low `n` bits of a number to a 64-bit word. -/
def sext (n : Nat) (x : Nat) : Word := (BitVec.ofNat n x).signExtend 64

/-- The numbers from `a` on, `n` of them. -/
def upFrom (a : Nat) (n : Nat) : List Nat := (List.range n).map (· + a)

/-- The least number of a list, if any. -/
def leastNat (l : List Nat) : Option Nat :=
  match l with
  | [] => none
  | a :: t => match leastNat t with
    | none => some a
    | some b => some (if a ≤ b then a else b)

/-- The greatest number of a list, or 0. -/
def greatest (l : List Nat) : Nat := l.foldl (fun m a => if m < a then a else m) 0

/-- Rounding a length up to a multiple of `m`. -/
def ceilDiv (a m : Nat) : Nat := (a + m - 1) / m

/-- A free choice below `n`, and the state with that free value used up (log entry 6). -/
def State.choose (s : State) (n : Nat) : Nat × State :=
  (Config.freeChoice s.freeCount % n, { s with freeCount := s.freeCount + 1 })

/-- A free word, and the state with it used up (log entry 6). -/
def State.free (s : State) : Word × State :=
  (Config.freeWord s.freeCount, { s with freeCount := s.freeCount + 1 })

/-- A number that nothing in the state bears yet. -/
def State.fresh (s : State) : Nat × State := (s.nextId, { s with nextId := s.nextId + 1 })

end Sys2Proof.Machine
end

