-- ==== Sys2Proof/Machine/Memory.lean ====
section
/-! DEFINITION. Memory: one list of bytes for every space, poison per 8-byte word, the coherence order of the writes
performed, the floors of the parties and what a load may return (R175 to R181, R288). -/

namespace Sys2Proof.Machine

open Sys2Proof

/-! ## Where the bytes of each space lie -/

/-- The first flat address of a space. Spaces: 0 HBM4E, 1 LPDDR, 2 host memory, 3 chip scratchpad, 4 accumulator
tiles, 5 core scratchpad, 6 Ridge memory, 7 lane-private, 9 VBD pages as their users see them. -/
def spaceBase (kind : Nat) : Nat := kind * 2 ^ 128

/-- The space a flat address lies in. -/
def spaceOf (a : Nat) : Nat := a / 2 ^ 128

def hbmAt (pa : Nat) : Nat := spaceBase 0 + pa
def lpddrAt (pa : Nat) : Nat := spaceBase 1 + pa
def hostAt (bus : Nat) : Nat := spaceBase 2 + bus
def chipAt (off : Nat) : Nat := spaceBase 3 + off
/-- Element bytes of an accumulator tile, laid out as `msave` stores them (R411). -/
def tileAt (core tile : Nat) : Nat := spaceBase 4 + core * 32768 + tile * 4096
/-- A workgroup's core-scratchpad allocation, by offset (R147). -/
def scratchAt (wg off : Nat) : Nat := spaceBase 5 + wg * 2 ^ 20 + off
/-- Ridge memory of a launch on a Ridge, by offset (R84, R147); from 64 on, the images of its saved Ridge sets (R106). -/
def ridgeAt (launch ridge off : Nat) : Nat := spaceBase 6 + launch * 2 ^ 80 + ridge * 2 ^ 24 + off
/-- A thread's lane-private slice, by offset (R147). -/
def laneAt (wg grp lane off : Nat) : Nat := spaceBase 7 + wg * 2 ^ 48 + grp * 2 ^ 13 + lane * 2 ^ 8 + off
/-- A byte of a VBD page as a user of the page sees it. -/
def vbdAt (pa : Nat) : Nat := spaceBase 9 + pa

/-! ## The byte list -/

/-- What an unlisted address reads as (R47 step 3, R117, R149; log entry 2). -/
def unlistedByte : Byte := 0

/-- The byte at an address. -/
def memGet (m : List Host.Cell) (a : Nat) : Byte :=
  match m with
  | [] => unlistedByte
  | (b, v) :: t => if b = a then v else memGet t a

/-- The memory with one byte written, in canonical form. -/
def memSet (m : List Host.Cell) (a : Nat) (v : Byte) : List Host.Cell :=
  match m with
  | [] => if v = unlistedByte then [] else [(a, v)]
  | (b, w) :: t =>
    if a < b then (if v = unlistedByte then (b, w) :: t else (a, v) :: (b, w) :: t)
    else if a = b then (if v = unlistedByte then t else (a, v) :: t)
    else (b, w) :: memSet t a v

/-- Addresses strictly rising from a lower bound on, and no entry equal to what an unlisted address reads as. -/
def Memory.wfFrom (lo : Nat) (m : List Host.Cell) : Bool :=
  match m with
  | [] => true
  | (a, v) :: t => decide (lo ≤ a) && decide (v ≠ unlistedByte) && Memory.wfFrom (a + 1) t

/-- The canonical form of memory. -/
def Memory.wf (m : List Host.Cell) : Bool := Memory.wfFrom 0 m

/-- Several bytes written one after another from an address on. -/
def memSetMany (m : List Host.Cell) (a : Nat) (bs : List Byte) : List Host.Cell :=
  match bs with
  | [] => m
  | b :: t => memSetMany (memSet m a b) (a + 1) t

/-- `n` bytes from an address on. -/
def memGetMany (m : List Host.Cell) (a n : Nat) : List Byte :=
  match n with
  | 0 => []
  | n + 1 => memGet m a :: memGetMany m (a + 1) n

/-- The byte the module holds at a flat address now: the latest write performed there. -/
def State.byteAt (s : State) (a : Nat) : Byte := memGet s.mem a

/-- `n` bytes held now from a flat address on. -/
def State.bytesAt (s : State) (a n : Nat) : List Byte := memGetMany s.mem a n

/-- The little-endian number held now in `n` bytes. -/
def State.numAt (s : State) (a n : Nat) : Nat := ofLe (s.bytesAt a n)

/-! ## Poison (R288) -/

/-- Whether the 8-byte word holding an address is poisoned. -/
def State.isPoisoned (s : State) (a : Nat) : Bool := s.poison.contains (a / 8)

/-- Whether any word of `n` bytes is poisoned, and the first such address. -/
def State.firstPoison (s : State) (a n : Nat) : Option Nat :=
  match n with
  | 0 => none
  | n + 1 => if s.isPoisoned a then some a else s.firstPoison (a + 1) n

/-- The state with the words of `n` bytes poisoned. -/
def State.addPoison (s : State) (a n : Nat) : State :=
  { s with poison := ((upFrom (a / 8) ((a + n + 7) / 8 - a / 8)).filter (fun w => !s.poison.contains w)) ++ s.poison }

/-- The poison that a store of `n` bytes leaves: words written whole are cleared, others keep theirs (R288). -/
def poisonAfterStore (p : List Nat) (a n : Nat) : List Nat :=
  p.filter (fun w => !(decide (a ≤ 8 * w) && decide (8 * w + 8 ≤ a + n)))

/-! ## Performing a write (R176) -/

/-- The entries of the coherence order for one write of consecutive bytes. -/
def histOf (m : List Host.Cell) (seq : Nat) (who : Party) (a : Nat) (n : Nat) : List HistEntry :=
  (List.range n).map (fun i => { addr := a + i, seq := seq, old := memGet m (a + i), owners := [who], pubs := [] })

/-- A write of at most 8 bytes inside one aligned word, performed whole: one place in the coherence order. -/
def State.writeWhole (s : State) (who : Party) (a : Nat) (bs : List Byte) : State :=
  { s with
    mem := memSetMany s.mem a bs
    hist := histOf s.mem (s.writeSeq + 1) who a bs.length ++ s.hist
    writeSeq := s.writeSeq + 1
    poison := poisonAfterStore s.poison a bs.length }

/-- The bytes of a write up to the next 8-byte boundary (R176). -/
def headLen (a n : Nat) : Nat := min n (8 - a % 8)

/-- A write of any length, performed word by word; `fuel` is its length. -/
def State.writeFuel (s : State) (who : Party) (a : Nat) (bs : List Byte) (fuel : Nat) : State :=
  match fuel with
  | 0 => s
  | fuel + 1 =>
    match bs with
    | [] => s
    | _ => (s.writeWhole who a (bs.take (headLen a bs.length))).writeFuel who (a + headLen a bs.length)
        (bs.drop (headLen a bs.length)) fuel

/-- A write of any length by a party. -/
def State.write (s : State) (who : Party) (a : Nat) (bs : List Byte) : State := s.writeFuel who a bs bs.length

/-- Bytes that belong to one thread or one unit alone: written outside the coherence order (R185). -/
def State.writeOwn (s : State) (a : Nat) (bs : List Byte) : State :=
  { s with mem := memSetMany s.mem a bs, poison := poisonAfterStore s.poison a bs.length }

/-! ## Scopes, publishing and pulling (R178 to R180) -/

/-- Whether a scope of a party at `p` covers a party at `q` (R178). -/
def Scope.covers (x : Scope) (p q : Place) : Bool :=
  match x with
  | .grp => p.who == q.who
  | .wg => p.wg == q.wg
  | .ridge => p.launch == q.launch && p.set == q.set
  | .die => p.die == q.die
  | .pkg => q.who != .host && (match q.who with | .peer _ => false | _ => true)
  | .sys => true

/-- The history after a party publishes the writes it owns (R179). -/
def pubHist (h : List HistEntry) (x : Scope) (p : Place) : List HistEntry :=
  h.map (fun e => if e.owners.contains p.who && !e.pubs.contains (x, p) then { e with pubs := (x, p) :: e.pubs } else e)

/-- `pub X` at a place (R179). -/
def State.pub (s : State) (x : Scope) (p : Place) : State := { s with hist := pubHist s.hist x p }

/-- The writes that a pull at scope `y` by a party at `q` takes in (R180). -/
def pulledBy (h : List HistEntry) (y : Scope) (q : Place) : List HistEntry :=
  h.filter (fun e => e.pubs.any (fun m => m.1.covers m.2 q && y.covers q m.2))

/-- `pull Y` at a place: the floor rises to every write published to it (R180). -/
def State.pull (s : State) (y : Scope) (q : Place) : State :=
  { s with floors := (pulledBy s.hist y q).map (fun e => { who := q.who, addr := e.addr, seq := e.seq }) ++ s.floors }

/-- A party learns of another writer's writes: from then on they are its own to publish (R142, R179, R187). -/
def learnHist (h : List HistEntry) (writer who : Party) : List HistEntry :=
  h.map (fun e => if e.owners.contains writer && !e.owners.contains who then { e with owners := who :: e.owners } else e)

def State.learn (s : State) (writer who : Party) : State := { s with hist := learnHist s.hist writer who }

/-! ## What a load may return (R177) -/

/-- The floor of a party for one byte (R177): its own writes, what it pulled, what it has read. -/
def State.floorOf (s : State) (who : Party) (a : Nat) : Nat :=
  max (greatest ((s.hist.filter (fun e => e.addr == a && e.owners.contains who)).map (·.seq)))
      (greatest ((s.floors.filter (fun f => f.who == who && f.addr == a)).map (·.seq)))

/-- The floor of a party for `n` bytes read together. -/
def State.floorOfMany (s : State) (who : Party) (a n : Nat) : Nat :=
  greatest ((List.range n).map (fun i => s.floorOf who (a + i)))

/-- The value of a byte just after the write numbered `t`. -/
def State.byteAsOf (s : State) (t : Nat) (a : Nat) : Byte :=
  match (s.hist.filter (fun e => e.addr == a && decide (t < e.seq))).getLast? with
  | some e => e.old
  | none => s.byteAt a

/-- The older instants whose value a load of `n` bytes may still return, newest first (R177). -/
def State.olderInstants (s : State) (who : Party) (a n : Nat) : List Nat :=
  ((s.hist.filter (fun e => decide (a ≤ e.addr) && decide (e.addr < a + n)
      && decide (s.floorOfMany who a n < e.seq))).map (fun e => e.seq - 1)).eraseDups

/-- A load by a party of `n` bytes inside one aligned word: one permitted value, and the floor it leaves. -/
def State.readWhole (s : State) (who : Party) (a n : Nat) : List Byte × State :=
  match s.olderInstants who a n with
  | [] => (s.bytesAt a n, s)
  | older =>
    let c := s.choose (older.length + 1)
    match older[c.1]? with
    | some t => ((List.range n).map (fun i => s.byteAsOf t (a + i)),
        { c.2 with floors := (List.range n).map (fun i => { who := who, addr := a + i, seq := t }) ++ c.2.floors })
    | none => (s.bytesAt a n,
        { c.2 with floors := (List.range n).map (fun i => { who := who, addr := a + i, seq := s.writeSeq }) ++ c.2.floors })

/-- A load of any length, word by word (R176); `fuel` is its length. -/
def State.readFuel (s : State) (who : Party) (a n : Nat) (fuel : Nat) : List Byte × State :=
  match fuel with
  | 0 => ([], s)
  | fuel + 1 =>
    if n = 0 then ([], s) else
    let r := s.readWhole who a (headLen a n)
    let t := r.2.readFuel who (a + headLen a n) (n - headLen a n) fuel
    (r.1 ++ t.1, t.2)

/-- A load of any length by a party. -/
def State.read (s : State) (who : Party) (a n : Nat) : List Byte × State := s.readFuel who a n n

/-- A write that is published at `sys` scope as it is performed: the host's through BAR 2, the queue engine's and
completion records (R36, R63, R78). -/
def State.writePublished (s : State) (who : Party) (a : Nat) (bs : List Byte) : State :=
  (s.write who a bs).pub .sys { who := who, die := 2, wg := 0, launch := 0, set := 0 }

/-- Bytes put into memory as their only value: nothing older is left to be read, and no poison. -/
def State.renew (s : State) (a : Nat) (bs : List Byte) : State :=
  { s with
    mem := memSetMany s.mem a bs
    hist := s.hist.filter (fun e => decide (e.addr < a) || decide (a + bs.length ≤ e.addr))
    poison := s.poison.filter (fun w => decide (8 * w + 8 ≤ a) || decide (a + bs.length ≤ 8 * w)) }

/-- Bytes dropped from memory in a range: they read as unlisted again. -/
def State.clearRange (s : State) (a n : Nat) : State :=
  { s with
    mem := s.mem.filter (fun c => decide (c.1 < a) || decide (a + n ≤ c.1))
    poison := s.poison.filter (fun w => decide (8 * w < a) || decide (a + n ≤ 8 * w)) }

/-- An address moved with the range of `n` bytes that holds it. -/
def movedAddr (src dst n a : Nat) : Nat := if src ≤ a ∧ a < src + n then a - src + dst else a

/-- A range of memory copied to another place, with its poison; `src`, `dst` and `n` are multiples of 128. What was at the
other place is lost. -/
def State.copyRange (s : State) (src dst n : Nat) : State :=
  let out := fun (a : Nat) => decide (a < dst) || decide (dst + n ≤ a)
  { s with
    mem := (s.mem.filter (fun e => decide (src ≤ e.1) && decide (e.1 < src + n))).foldl (fun m e => memSet m (e.1 - src + dst) e.2)
      (s.mem.filter (fun e => out e.1))
    hist := s.hist.filter (fun e => out e.addr)
    poison := s.poison.filter (fun w => out (8 * w))
      ++ (s.poison.filter (fun w => decide (src ≤ 8 * w) && decide (8 * w < src + n))).map (fun w => w - src / 8 + dst / 8) }

/-- A range of memory moved to another place, with its history, floors, poison and empty lines; `src`, `dst` and `n` are
multiples of 128. What was at the other place is lost. -/
def State.moveRange (s : State) (src dst n : Nat) : State :=
  let out := fun (a : Nat) => decide (a < dst) || decide (dst + n ≤ a)
  let rest := s.mem.filter (fun e => (decide (e.1 < src) || decide (src + n ≤ e.1)) && out e.1)
  { s with
    mem := (s.mem.filter (fun e => decide (src ≤ e.1) && decide (e.1 < src + n))).foldl (fun m e => memSet m (e.1 - src + dst) e.2) rest
    hist := (s.hist.filter (fun e => out e.addr)).map (fun e => { e with addr := movedAddr src dst n e.addr })
    floors := (s.floors.filter (fun f => out f.addr)).map (fun f => { f with addr := movedAddr src dst n f.addr })
    poison := (s.poison.filter (fun w => out (8 * w))).map (fun w => movedAddr (src / 8) (dst / 8) (n / 8) w)
    emptyLines := (s.emptyLines.filter (fun l => out (128 * l))).map (fun l => movedAddr (src / 128) (dst / 128) (n / 128) l) }

end Sys2Proof.Machine
end

