-- ==== Sys2Proof/Machine/Errors.lean ====
section
/-! DEFINITION. Storage errors, their logs and their injection (R286 to R291). -/

namespace Sys2Proof.Machine

open Sys2Proof

def ErrLog.reset : ErrLog :=
  { lasting := 0, corrected := 0, transient := 0, held := false, valid := false, addr := 0, ctx := 0, cls := 0, syndrome := 0 }

def ErrInj.reset : ErrInj := { entry := 0, arm := false, sticky := false, nbits := 0 }

/-- The array identifier of R291: kind and instance. -/
def arrayId (kind inst : Nat) : Nat := kind * 4096 + inst % 4096

/-- A count that saturates (R291). -/
def satInc (c : BitVec 16) : BitVec 16 := if c = 0xFFFF then c else c + 1

/-- The log of an array after an error of a class: 0 TRANSIENT, 1 CORRECTED, 2 LASTING (R286, R291). -/
def ErrLog.record (l : ErrLog) (cls : BitVec 2) (addr : Word) (ctx : BitVec 16) (syn : BitVec 16) : ErrLog :=
  let l := if cls = 0 then { l with transient := satInc l.transient }
           else if cls = 1 then { l with corrected := satInc l.corrected }
           else { l with lasting := satInc l.lasting }
  if l.held then l else { l with valid := true, held := cls == 2, addr := addr, ctx := ctx, cls := cls, syndrome := syn }

/-- The state after an error of a class in an array is logged. -/
def State.logError (s : State) (array : Nat) (cls : BitVec 2) (addr : Word) (ctx : Nat) : State :=
  { s with
    errLogs := FMap.set s.errLogs array
      ((FMap.getD s.errLogs array ErrLog.reset).record cls addr (BitVec.ofNat 16 ctx) (Config.syndrome s.freeCount))
    freeCount := s.freeCount + 1 }

/-- A read of an entry of an array: whether it delivers poison, and the logs it leaves (R286, R291). -/
def State.eccRead (s : State) (array entry : Nat) (addr : Word) (ctx : Nat) : Bool × State :=
  match FMap.find s.errInjs array with
  | none => (false, s)
  | some i =>
    if !i.arm || i.entry.toNat != entry || (i.nbits != 1 && i.nbits != 2) then (false, s)
    else if !i.sticky then
      (false, { (s.logError array 0 addr ctx) with errInjs := FMap.set s.errInjs array { i with arm := false } })
    else if i.nbits = 1 then (false, s.logError array 1 addr ctx)
    else (true, s.logError array 2 addr ctx)

/-- A read of something that an on-chip array keeps, named by a number of its own: the entry is the implementation's (R291). -/
def State.eccKept (s : State) (array key ctx : Nat) : Bool × State :=
  if (FMap.find s.errInjs array).isNone then (false, s)
  else s.eccRead array (Config.arrayEntry array key) (BitVec.ofNat 64 (Config.arrayEntry array key)) ctx

/-- A read of a clean copy (R287): an uncorrectable error drops the entry and the data is fetched again, so only the log shows it. -/
def State.eccClean (s : State) (array key ctx : Nat) : State := (s.eccKept array key ctx).2

/-- The array of a flat address, its entry, and the address that its log shows (R157, R164, R165, R291). -/
def arrayOf (a : Nat) : Option (Nat × Nat × Nat) :=
  let pa := a % 2 ^ 128
  match spaceOf a with
  | 0 => some (arrayId 14 (pa / 256 % 512), pa / 8, pa)
  | 1 => some (arrayId 15 (512 + pa / 256 % 8), pa / 8, pa)
  | 3 => some (arrayId 9 (pa / 2 ^ 26 * 80 + pa % 2 ^ 26 / 4096 % 80), pa / 8, pa)
  | _ => none

/-- The home slice of a granule of HBM4E or LPDDR (R160, R164, R165), numbered 0 to 159 over both dies. -/
def sliceOf (lpddr : Bool) (pa : Nat) : Nat :=
  (if lpddr then pa / 2 ^ 10 % 2 else pa / 2 ^ 16 % 2) * 80 + pa % 2 ^ 40 / 256 % 80

/-- The home slice of a device-memory address (R160): that of its granule, and in a VBD page that of the page's first granule. -/
def homeSlice (a : Nat) : Nat :=
  let pa := a % 2 ^ 128
  match spaceOf a with
  | 0 => sliceOf false pa
  | 9 => sliceOf false (pa / 4096 * 4096)
  | 10 => sliceOf true (pa / 4096 * 4096)
  | _ => sliceOf true pa

/-- Whether a flat address is one of device memory, plain or in a VBD page. -/
def isDevice (a : Nat) : Bool := spaceOf a ≤ 1 || spaceOf a == 9 || spaceOf a == 10

/-- The error check of a word in its home slice (R286). -/
def State.eccSlice (s : State) (a ctx : Nat) : Bool × State :=
  if isDevice a then s.eccRead (arrayId 8 (homeSlice a)) (a % 2 ^ 128 / 8) (BitVec.ofNat 64 (a % 2 ^ 128)) ctx else (false, s)

/-- The error check of a word in the array that stores it (R286, R287). -/
def State.eccStored (s : State) (a ctx : Nat) : Bool × State :=
  match arrayOf a with
  | none => (false, s)
  | some (array, entry, pa) => s.eccRead array entry (BitVec.ofNat 64 pa) ctx

/-- The error check of the word that holds a flat address: its L2 slice for device memory, and the array that stores it. -/
def State.eccWord (s : State) (a ctx : Nat) : Bool × State :=
  let l2 := s.eccSlice a ctx
  let r := l2.2.eccStored a ctx
  (l2.1 || r.1, r.2)

/-- The words of `n` bytes read from the array that stores them: those that fail are poisoned. -/
def State.eccBytes (s : State) (a n ctx : Nat) : State :=
  if s.errInjs.isEmpty then s
  else (upFrom (a / 8) ((a + n + 7) / 8 - a / 8)).foldl (fun t w =>
    let e := t.eccStored (8 * w) ctx
    if e.1 then e.2.addPoison (8 * w) 1 else e.2) s

end Sys2Proof.Machine
end

