-- ==== Sys2Proof/Machine/Translate.lean ====
section
/-! DEFINITION. Address translation (R192 to R203): the five-level walk, its checks, the A and D bits, cached older
forms of table entries, host-memory windows (R41, R42), and the location that an access reaches. -/

namespace Sys2Proof.Machine

open Sys2Proof

/-- The kinds of access that R197 tells apart; `probe` finds a leaf whatever it permits (R430, R438). -/
inductive AccKind where
  | read | write | atomic | reduce | fetch | probe
  deriving DecidableEq, Repr

/-- KIND of TRAP_INFO (R202). -/
def AccKind.code (k : AccKind) : Nat :=
  match k with
  | .read => 0
  | .write => 1
  | .atomic => 2
  | .reduce => 2
  | .fetch => 3
  | .probe => 0

/-- A failed walk (R196, R197, R202): the cause, the level, and the flat address of a poisoned entry, if that is it. -/
structure TFault where
  cause : BitVec 8
  level : Nat
  phys : Option Nat
  deriving DecidableEq, Repr

/-- A leaf found by a walk: its tier, the 4 KiB frame's number for the address, CMP, NC, where the entry lies, its level and bits. -/
structure Leaf where
  tier : Nat
  frame : Nat
  cmp : Nat
  entryAt : Nat
  level : Nat
  entry : Word
  deriving DecidableEq, Repr

/-- The lowest virtual-address bit of the index at a level (R193). -/
def levelShift (level : Nat) : Nat := 48 - 9 * level

/-- The table index of an address at a level (R193). -/
def levelIndex (va level : Nat) : Nat := va / 2 ^ levelShift level % 512

/-- The flat address of a frame in HBM4E or LPDDR. -/
def frameAt (tier frame : Nat) : Nat := if tier = 0 then hbmAt (frame * 4096) else lpddrAt (frame * 4096)

/-- Whether a frame satisfies the limits of its tier (R195). -/
def frameOk (tier frame : Nat) : Bool :=
  if tier = 0 then decide (frame < 2 ^ 27) else if tier = 1 then decide (frame < 2 ^ 28) else true

/-- The fields of a table entry (R194). -/
def entryFrame (e : Word) : Nat := field e 51 12
def entryTier (e : Word) : Nat := field e 9 8
def entryCmp (e : Word) : Nat := field e 58 56
def entryLeaf (e : Word) : Bool := bitAt e 1
def entryValid (e : Word) : Bool := bitAt e 0

/-- PF_RSVD findings of R196 at a level. -/
def entryRsvd (level : Nat) (e : Word) : Bool :=
  (field e 62 59 != 0) || (field e 55 52 != 0)
  || (if entryLeaf e then
        decide (level ≤ 2) || decide (3 ≤ entryCmp e) || (level == 3 && bitAt e 7)
        || !frameOk (entryTier e) (entryFrame e) || (level == 3 && entryFrame e % 512 != 0)
        || (entryCmp e != 0 && (entryTier e == 2 || bitAt e 63))
      else
        level == 4 || bitAt e 63 || entryCmp e != 0 || field e 11 10 != 0 || field e 7 2 != 0
        || decide (2 ≤ entryTier e) || !frameOk (entryTier e) (entryFrame e))

/-- The first failed permission check of R197. -/
def permFault (e : Word) (k : AccKind) (priv : Bool) : Option (BitVec 8) :=
  if k == .probe then none
  else if bitAt e 6 && !priv then some 0x15
  else if (k == .atomic || k == .reduce) && (!bitAt e 5 || entryTier e == 2) then some 0x14
  else if k == .fetch && !bitAt e 4 then some 0x13
  else if (k == .read || k == .atomic) && !bitAt e 2 then some 0x11
  else if (k == .write || k == .atomic || k == .reduce) && !bitAt e 3 then some 0x12
  else none

/-- The write count below which older forms of an entry are dropped for a context (R200, R201). -/
def State.fenceSeq (s : State) (ctx va level : Nat) : Nat :=
  greatest ((s.fenceMarks.filter (fun f => f.ctx == ctx &&
    (match f.va with | none => true | some w => w / 2 ^ levelShift level == va / 2 ^ levelShift level))).map (·.seq))

/-- An entry without its A and D bits. -/
def entryNoAD (e : Word) : Word := e &&& ~~~(0xC00 : Word)

/-- Whether an access writes through its leaf, and so needs a cached leaf that has recorded D = 1 (R198). -/
def AccKind.writes (k : AccKind) : Bool := k == .write || k == .atomic || k == .reduce

/-- Whether a form of an entry may be held cached and serve an access: it is valid and has not faulted (R200), and for a write
a leaf has recorded D = 1 (R198). -/
def entryCached (level : Nat) (k : AccKind) (e : Word) : Bool :=
  entryValid e && !entryRsvd level e && !(entryLeaf e && k.writes && !bitAt e 11)

/-- The older forms of the entry at an address that the device may still hold cached (R200). -/
def State.olderEntries (s : State) (ctx va level ea : Nat) (k : AccKind) : List Word :=
  ((((s.hist.filter (fun h => decide (ea ≤ h.addr) && decide (h.addr < ea + 8)
      && decide (s.fenceSeq ctx va level < h.seq))).map (fun h => h.seq - 1)).eraseDups).map
    (fun t => BitVec.ofNat 64 (ofLe ((List.range 8).map (fun i => s.byteAsOf t (ea + i)))))).filter
    (fun e => entryCached level k e && entryNoAD e != entryNoAD (BitVec.ofNat 64 (s.numAt ea 8)))

/-- The form of the entry that a walk uses: the present one, or a cached older one (R200). -/
def State.entryUsed (s : State) (ctx va level ea : Nat) (k : AccKind) : Word × State :=
  match s.olderEntries ctx va level ea k with
  | [] => (BitVec.ofNat 64 (s.numAt ea 8), s)
  | older =>
    let c := s.choose (older.length + 1)
    match older[c.1]? with
    | some e => (e, c.2)
    | none => (BitVec.ofNat 64 (s.numAt ea 8), c.2)

/-- The walk from a level on (R193, R196, R197); `fuel` is the number of levels left. -/
def State.walk (s : State) (ctx va : Nat) (k : AccKind) (priv : Bool) (tier frame level fuel : Nat) :
    Except TFault Leaf × State :=
  match fuel with
  | 0 => (.error ⟨0x16, level, none⟩, s)
  | fuel + 1 =>
    let ea := frameAt tier frame + 8 * levelIndex va level
    let w := s.eccWord ea ctx
    if w.1 then (.error ⟨0x30, level, some ea⟩, w.2.addPoison ea 1)
    else if w.2.isPoisoned ea then (.error ⟨0x30, level, some ea⟩, w.2) else
    let r := w.2.entryUsed ctx va level ea k
    let e := r.1
    if !entryValid e then (.error ⟨0x10, level, none⟩, r.2)
    else if entryRsvd level e then (.error ⟨0x16, level, none⟩, r.2)
    else if entryLeaf e then
      match permFault e k priv with
      | some c => (.error ⟨c, level, none⟩, r.2)
      | none => (.ok { tier := entryTier e
                       frame := entryFrame e + (if level = 3 then va / 4096 % 512 else 0)
                       cmp := entryCmp e, entryAt := ea, level := level, entry := e }, r.2)
    else r.2.walk ctx va k priv (entryTier e) (entryFrame e) (level + 1) fuel

/-- Whether the lines of a leaf's page bypass L1 and L2 allocation (R159, R194). -/
def Leaf.nc (l : Leaf) : Bool := bitAt l.entry 63

/-- The table root of a context (R192). -/
def State.ptRoot (s : State) (ctx : Nat) : Word :=
  match FMap.find s.ctxs ctx with
  | some c => c.ptRoot
  | none => 0

/-- The replaced roots under which translations of an address may still be cached (R200, R417). -/
def State.olderRoots (s : State) (ctx va : Nat) : List Word :=
  match FMap.find s.ctxs ctx with
  | some c => (c.oldRoots.filter (fun r => decide (s.fenceSeq ctx va 4 ≤ r.2))).map (·.1)
  | none => []

/-- The root that a translation uses: the present one, or a replaced one whose translations are cached. -/
def State.rootUsed (s : State) (ctx va : Nat) : Word × State :=
  match s.olderRoots ctx va with
  | [] => (s.ptRoot ctx, s)
  | older =>
    let c := s.choose (older.length + 1)
    (older.getD c.1 (s.ptRoot ctx), c.2)

/-- Translation of a virtual address for a context (R192, R193, R196, R197). -/
def State.translate (s : State) (ctx va : Nat) (k : AccKind) (priv : Bool) : Except TFault Leaf × State :=
  let u := s.rootUsed ctx va
  let root := u.1
  if 2 ≤ entryTier root || !frameOk (entryTier root) (entryFrame root) then (.error ⟨0x16, 0, none⟩, u.2)
  else u.2.walk ctx va k priv (entryTier root) (entryFrame root) 0 5

/-- The A bit, and for a write the D bit, set in the leaf entry at an address, at its home slice (R198). -/
def State.touchAt (s : State) (entry : Nat) (write : Bool) : State :=
  let old := s.byteAt (entry + 1)
  let new := old ||| (if write then 0x0C else 0x04)
  if new = old then s else s.writeWhole .device (entry + 1) [new]

/-- The bits set in a leaf before the access (R198). -/
def State.touch (s : State) (l : Leaf) (write : Bool) : State := s.touchAt l.entryAt write

/-! ## Where an access lands -/

/-- Where the bytes of an access lie. `peer` names the CMP of the page too (R174); `badWindow` is a host access that no window
grants (R41). -/
inductive Loc where
  | flat (a : Nat)
  | vbd (frame esz off : Nat)
  | peer (module off cmp : Nat)
  | badWindow (bus : Nat)
  deriving DecidableEq, Repr

/-- Whether window `n` grants an access to a bus address (R41, R42). -/
def HostRegs.windowGrants (h : HostRegs) (n bus : Nat) (rd wr : Bool) : Bool :=
  let base := FMap.getD h.hmwBase n 0
  let limit := FMap.getD h.hmwLimit n 0
  bitAt base 0 && (!rd || bitAt base 1) && (!wr || bitAt base 2)
    && decide (field base 51 12 ≤ bus / 4096) && decide (bus / 4096 ≤ field limit 51 12)

/-- Whether some enabled window grants an access to a bus address (R41). -/
def HostRegs.granted (h : HostRegs) (bus : Nat) (rd wr : Bool) : Bool :=
  (List.range 16).any (fun n => h.windowGrants n bus rd wr)

/-- Where a byte of a translated page lies (R164, R165, R22, R41). -/
def State.locOf (s : State) (l : Leaf) (va : Nat) (rd wr : Bool) : Loc :=
  let off := va % 4096
  match l.tier with
  | 0 => if l.cmp = 0 then .flat (hbmAt (l.frame * 4096 + off)) else .vbd (hbmAt (l.frame * 4096)) (if l.cmp = 1 then 2 else 4) off
  | 1 => if l.cmp = 0 then .flat (lpddrAt (l.frame * 4096 + off)) else .vbd (lpddrAt (l.frame * 4096)) (if l.cmp = 1 then 2 else 4) off
  | 2 => if s.host.granted (l.frame * 4096 + off) rd wr then .flat (hostAt (l.frame * 4096 + off))
         else .badWindow (l.frame * 4096 + off)
  | _ => if l.frame / 2 ^ 27 = s.fabSelf.toNat then
           (if l.cmp = 0 then .flat (hbmAt (l.frame % 2 ^ 27 * 4096 + off))
            else .vbd (hbmAt (l.frame % 2 ^ 27 * 4096)) (if l.cmp = 1 then 2 else 4) off)
         else .peer (l.frame / 2 ^ 27) (l.frame % 2 ^ 27 * 4096 + off) l.cmp

end Sys2Proof.Machine
end

