-- ==== Sys2Proof/Machine/Vbd.lean ====
section
/-! DEFINITION. The VBD compressed page (R166 to R171): decoding, the encoders' one form, fills and write-back. -/

namespace Sys2Proof.Machine

open Sys2Proof

/-- The delta width of a WCODE (R167). -/
def vbdWidth (wcode : Nat) : Nat :=
  match wcode with
  | 0 => 0
  | 1 => 4
  | 2 => 8
  | _ => 16

/-- The length of an encoding with element size `e` and delta width `w` (R168). -/
def vbdLen (e w : Nat) : Nat := e + ceilDiv ((256 / e - 1) * w) 8

/-- Exception units of a KIND (R167). -/
def vbdUnits (kind : Nat) : Nat := if kind = 2 then 9 else if kind = 3 then 16 else 0

/-- Whether a block descriptor obeys R167 for an element size. -/
def vbdDescOk (e : Nat) (d : BitVec 32) : Bool :=
  let kind := field d 31 30
  let wcode := field d 29 28
  let eoff := field d 27 22
  (field d 21 0 == 0) && !(wcode == 3 && e != 4) && !((kind == 0 || kind == 3) && wcode != 0)
    && !(decide (kind ≤ 1) && eoff != 0) && decide (eoff + vbdUnits kind ≤ 60)

/-- The frame offset at which a block's encoding begins (R166, R167). -/
def vbdOffset (block : Nat) (d : BitVec 32) : Nat :=
  if field d 31 30 = 1 then 0x40 + 128 * block else 0x840 + 16 * field d 27 22

/-- The elements that an encoding stands for (R168). -/
def vbdElements (e w : Nat) (enc : List Byte) : List Nat :=
  let base := fieldLe enc 0 e
  let deltas := ofLe (enc.drop e)
  base :: (List.range (256 / e - 1)).map (fun j =>
    (base + (sext w (deltas / 2 ^ (j * w))).toNat) % 2 ^ (8 * e))

/-- The 256 logical bytes of a block from its descriptor and stored bytes (R168). -/
def vbdDecode (e : Nat) (d : BitVec 32) (stored : List Byte) : List Byte :=
  match field d 31 30 with
  | 0 => List.replicate 256 0
  | 3 => stored.take 256
  | _ => (vbdElements e (vbdWidth (field d 29 28)) stored).flatMap (leBytes e)

/-- Stored bytes a block's decoding needs. -/
def vbdStoredLen (e : Nat) (d : BitVec 32) : Nat :=
  match field d 31 30 with
  | 0 => 0
  | 3 => 256
  | _ => vbdLen e (vbdWidth (field d 29 28))

/-- The elements of 256 logical bytes. -/
def vbdSplit (e : Nat) (bytes : List Byte) : List Nat := (List.range (256 / e)).map (fun j => fieldLe bytes (e * j) e)

/-- Whether every delta fits in a width (R169 rule 2). -/
def vbdFits (e w : Nat) (els : List Nat) : Bool :=
  els.all (fun x => decide ((sext w ((x + 2 ^ (8 * e) - els.headD 0) % 2 ^ (8 * e))).toNat % 2 ^ (8 * e)
    = (x + 2 ^ (8 * e) - els.headD 0) % 2 ^ (8 * e)))

/-- The form of R169 for a block: KIND, WCODE, and the encoded bytes (a slot is filled up to 128 bytes). -/
def vbdEncode (e : Nat) (bytes : List Byte) : Nat × Nat × List Byte :=
  let els := vbdSplit e bytes
  if els.all (· == 0) then (0, 0, [])
  else
    match (if e = 4 then [0, 1, 2, 3] else [0, 1, 2]).find? (fun c => vbdFits e (vbdWidth c) els) with
    | none => (3, 0, bytes)
    | some c =>
      let w := vbdWidth c
      let deltas := (List.range (256 / e - 1)).foldl (fun acc j =>
        acc + ((els.getD (j + 1) 0 + 2 ^ (8 * e) - els.headD 0) % 2 ^ w) * 2 ^ (j * w)) 0
      let enc := leBytes e (els.headD 0) ++ leBytes (vbdLen e w - e) deltas
      if vbdLen e w ≤ 128 then (1, c, enc ++ List.replicate (128 - vbdLen e w) 0) else (2, c, enc)

/-- A descriptor from its fields (R167). -/
def vbdDesc (kind wcode eoff : Nat) : BitVec 32 := BitVec.ofNat 32 (kind * 2 ^ 30 + wcode * 2 ^ 28 + eoff * 2 ^ 22)

/-- A whole page image from the logical page, units assigned from 0 in block order, or none when it does not fit
(R169, R172, R216). -/
def vbdImage (e : Nat) (page : List Byte) : Option (List Byte) :=
  let forms := (List.range 16).map (fun i => vbdEncode e ((page.drop (256 * i)).take 256))
  let placed := forms.foldl (fun (acc : Nat × List (Nat × Nat × Nat × List Byte)) f =>
    (acc.1 + vbdUnits f.1, acc.2 ++ [(f.1, f.2.1, (if 2 ≤ f.1 then acc.1 else 0), f.2.2)])) (0, [])
  if 60 < placed.1 then none else
  let descs := placed.2.flatMap (fun f => leBytes 4 (vbdDesc f.1 f.2.1 f.2.2.1).toNat)
  let slots := placed.2.flatMap (fun f => if f.1 = 1 then f.2.2.2 else List.replicate 128 0)
  let exc := placed.2.flatMap (fun f => if 2 ≤ f.1 then f.2.2.2 ++ List.replicate (16 * vbdUnits f.1 - f.2.2.2.length) 0 else [])
  some (descs ++ slots ++ exc ++ List.replicate (4096 - 64 - 2048 - exc.length) 0)

/-- The logical page of a page image; a block whose descriptor breaks R167 has none (R168, R216). -/
def vbdPage (e : Nat) (image : List Byte) : List (Option (List Byte)) :=
  (List.range 16).map (fun i =>
    let d := BitVec.ofNat 32 (fieldLe image (4 * i) 4)
    if vbdDescOk e d then some (vbdDecode e d (image.drop (vbdOffset i d))) else none)

/-! ## Blocks in the home slice -/

/-- Whether a block is held dirty at its home slice. -/
def State.vbdDirty (s : State) (frame block : Nat) : Bool :=
  s.vbd.any (fun b => b.frame == frame && b.block == block)

/-- The stored descriptor of a block (R166). -/
def State.vbdStored (s : State) (frame block : Nat) : BitVec 32 := BitVec.ofNat 32 (s.numAt (frame + 4 * block) 4)

/-- Whether a fill of a block meets a descriptor that breaks R167 (R170). -/
def State.vbdBroken (s : State) (frame e block : Nat) : Bool := !s.vbdDirty frame block && !vbdDescOk e (s.vbdStored frame block)

/-- A broken descriptor recorded in the error log of the page's slice, with the descriptor's address (R170; log entry 47). -/
def State.vbdNote (s : State) (frame block : Nat) : State :=
  s.logError (arrayId 8 (homeSlice (vbdAt frame))) 2 (BitVec.ofNat 64 ((frame + 4 * block) % 2 ^ 128)) 0

/-- The block filled from the stored page unless the slice holds it dirty (R170). Stored words that fail their check are poison
(R287). -/
def State.vbdFill (s : State) (frame e block : Nat) : State :=
  if s.vbdDirty frame block then s else
  let s := s.eccBytes (frame + 4 * block) 4 0
  let d := s.vbdStored frame block
  let at9 := vbdAt (frame + 256 * block)
  if vbdDescOk e d then
    let start := frame + vbdOffset block d
    let n := vbdStoredLen e d
    let s := s.eccBytes start n 0
    let s' := s.writeOwn at9 (vbdDecode e d (s.bytesAt start n))
    if (s.firstPoison (frame + 4 * block) 4).isSome || (s.firstPoison start n).isSome then s'.addPoison at9 256 else s'
  else (s.vbdNote frame block).addPoison at9 256

/-- Blocks that await a re-pack in a home slice (R172). -/
def State.heldIn (s : State) (slice : Nat) : Nat := (s.vbd.filter (fun b => b.held && homeSlice (vbdAt b.frame) == slice)).length

/-- The block marked dirty at its slice. -/
def State.vbdMark (s : State) (frame e block : Nat) : State :=
  if s.vbdDirty frame block then s
  else { s with vbd := { frame := frame, block := block, esz := e, held := false } :: s.vbd }

/-- The exception end of a page without one block: the largest unit in use by the others (R171). -/
def State.vbdEnd (s : State) (frame block : Nat) : Nat :=
  greatest ((List.range 16).map (fun i =>
    let d := BitVec.ofNat 32 (s.numAt (frame + 4 * i) 4)
    if i ≠ block ∧ 2 ≤ field d 31 30 then field d 27 22 + vbdUnits (field d 31 30) else 0))

/-- The write-back of a dirty block, or the re-pack request when the exception region is full (R171). -/
def State.vbdWriteback (s : State) (b : VbdBlock) : State :=
  let at9 := vbdAt (b.frame + 256 * b.block)
  let form := vbdEncode b.esz (s.bytesAt at9 256)
  let old := BitVec.ofNat 32 (s.numAt (b.frame + 4 * b.block) 4)
  let bad := (s.firstPoison at9 256).isSome
  let eoff := if vbdUnits form.1 ≤ vbdUnits (field old 31 30) ∧ vbdDescOk b.esz old then field old 27 22
              else s.vbdEnd b.frame b.block
  let drop := { s with vbd := s.vbd.filter (fun x => !(x.frame == b.frame && x.block == b.block)) }
  let mark := fun (t : State) start n => if bad then t.addPoison start n else t
  match form.1 with
  | 0 => mark (drop.write .device (b.frame + 4 * b.block) (leBytes 4 (vbdDesc 0 0 0).toNat)) (b.frame + 4 * b.block) 4
  | 1 => mark ((drop.write .device (b.frame + 0x40 + 128 * b.block) form.2.2).write .device (b.frame + 4 * b.block)
      (leBytes 4 (vbdDesc 1 form.2.1 0).toNat)) (b.frame + 0x40 + 128 * b.block) 128
  | k =>
    if 60 < eoff + vbdUnits k then
      { s with vbd := s.vbd.map (fun x => if x.frame == b.frame && x.block == b.block then { x with held := true } else x)
               repackReqs := if s.repackReqs.contains b.frame then s.repackReqs else s.repackReqs ++ [b.frame] }
    else mark ((drop.write .device (b.frame + 0x840 + 16 * eoff) form.2.2).write .device (b.frame + 4 * b.block)
      (leBytes 4 (vbdDesc k form.2.1 eoff).toNat)) (b.frame + 0x840 + 16 * eoff) form.2.2.length

end Sys2Proof.Machine
end

