-- ==== Sys2Proof/Machine/Ops.lean ====
section
/-! DEFINITION. The named operations over the state's parts: registers, threads, groups, identities, fault records,
taking a trap and returning from one (R116 to R132, R273 to R285). -/

namespace Sys2Proof.Machine

open Sys2Proof

/-! ## Defaults of the maps -/

/-- A register that nothing has written: bits 0, tag RAW, full (R117). -/
def Reg.reset : Reg := { bits := 0, tag := 0, full := true }

def Counters.zero : Counters := { cpy := 0, gat := 0, srt := 0, coll := 0, nm := 0, mat := 0 }

/-- A lane that holds no thread (R115). -/
def Thread.absent : Thread :=
  { live := false, killed := false, pc := 0, park := .running, priv := false, inHandler := false, hang := 0, wait := .none, k := 1,
    trapCause := 0, trapPc := 0, trapAddr := 0, trapInfo := 0, spawnSeq := 0, arrived := [], handle := 0 }

def Group.absent : Group :=
  { present := false, spawned := false, slot := 0, ctr := Counters.zero, flags := 0, feAction := 0, streams := [],
    backCount := 0, backLanes := [], yieldAbove := none, pendingPub := [], recs := [], block := 0 }

def Helm.absent : Helm :=
  { running := false, pc := 0, number := 0, ctr := Counters.zero, flags := 0, feAction := 0, hang := 0, wait := .none,
    trap := none, scaleBase := 0, scaleOrg := 0, scaleShift := 0, scaleCache := [], arrived := [],
    acceptWait := none }

/-- A core at reset: tiles full, F32, not poisoned (log entry 16), no owner (R415). -/
def Core.reset : Core :=
  { cycles := 0, accOwner := 0, accLive := 0, tileFull := 0xFF, tileTag := 0, tilePoison := 0, latches := [], lastHelm := 0, lastPort := 0,
    sideLog := [], bins := [] }

/-- A die at reset (log entry 15). -/
def Die.reset : Die := { point := 0, target := 0, ceiling := 15, rising := false }

/-- A fabric port at reset (R28). -/
def Port.reset : Port :=
  { nbrId := 0, nbrSw := false, retries := 0, capRed := false, capVbd := false, lanes := 0, state := 0, laneFail := 0,
    retrain := false, en := false, trained := false, draining := false, expectSeq := 0, nextSeq := 0, retry := [],
    delivered := [], replays0 := 0, replays1 := 0, windowFlits := 0, resend := [], askReplay := none, outLanes := 0 }

/-- A Cornice unit before its first command (log entry 17). -/
def CorniceUnit.reset : CorniceUnit :=
  { c := [], cPoison := [], x := [], b := [], bPoison := [], pc := 0, steps := 0, stripe := 0, running := none, transfers := [] }

def Barrier.reset : Barrier :=
  { expect := 0, arrived := 0, tx := 0, pexit := 0, phase := false, txOps := [], helmOps := [], helmFlags := 0,
    done0 := { ops := [], flags := 0 }, done1 := { ops := [], flags := 0 } }

/-- FAB_ROUTE at reset: four unusable candidates (R30). -/
def routeReset : BitVec 32 := 0x0FFFFFFF

/-! ## Registers (R116) -/

def State.reg (s : State) (k : RegKey) : Reg := FMap.getD s.regs k Reg.reset

def State.setReg (s : State) (k : RegKey) (r : Reg) : State := { s with regs := FMap.set s.regs k r }

def State.thread (s : State) (t : ThreadId) : Thread := FMap.getD s.threads t Thread.absent
def State.setThread (s : State) (t : ThreadId) (x : Thread) : State := { s with threads := FMap.set s.threads t x }
def State.group (s : State) (g : GroupId) : Group := FMap.getD s.groups g Group.absent
def State.setGroup (s : State) (g : GroupId) (x : Group) : State := { s with groups := FMap.set s.groups g x }
def State.helm (s : State) (wg : Nat) : Helm := FMap.getD s.helms wg Helm.absent
def State.setHelm (s : State) (wg : Nat) (x : Helm) : State := { s with helms := FMap.set s.helms wg x }
def State.core (s : State) (c : Nat) : Core := FMap.getD s.cores c Core.reset
def State.setCore (s : State) (c : Nat) (x : Core) : State := { s with cores := FMap.set s.cores c x }
def State.die (s : State) (d : Nat) : Die := FMap.getD s.dies d Die.reset
def State.setDie (s : State) (d : Nat) (x : Die) : State := { s with dies := FMap.set s.dies d x }
def State.port (s : State) (p : Nat) : Port := FMap.getD s.ports p Port.reset
def State.setPort (s : State) (p : Nat) (x : Port) : State := { s with ports := FMap.set s.ports p x }
def State.unit (s : State) (u : Nat) : CorniceUnit := FMap.getD s.units u CorniceUnit.reset
def State.setUnit (s : State) (u : Nat) (x : CorniceUnit) : State := { s with units := FMap.set s.units u x }
def State.sem (s : State) (i : Nat) : Word := FMap.getD s.sems i 0
def State.setSem (s : State) (i : Nat) (x : Word) : State := { s with sems := FMap.set s.sems i x }

/-- A k register of a thread: k0 reads 1 (R116). -/
def Thread.kAt (t : Thread) (n : Nat) : Bool := n == 0 || bitAt t.k n

/-- One k register written; a write to k0 is ignored (R116). -/
def Thread.setK (t : Thread) (n : Nat) (v : Bool) : Thread :=
  if n = 0 then t
  else { t with k := if v then t.k ||| BitVec.ofNat 8 (2 ^ n) else t.k &&& ~~~(BitVec.ofNat 8 (2 ^ n)) }

/-- A counter of a class (R136). -/
def Counters.get (c : Counters) (k : OpClass) : BitVec 6 :=
  match k with
  | .cpy => c.cpy
  | .gat => c.gat
  | .srt => c.srt
  | .coll => c.coll
  | .nm => c.nm
  | .mat => c.mat

def Counters.set (c : Counters) (k : OpClass) (v : BitVec 6) : Counters :=
  match k with
  | .cpy => { c with cpy := v }
  | .gat => { c with gat := v }
  | .srt => { c with srt := v }
  | .coll => { c with coll := v }
  | .nm => { c with nm := v }
  | .mat => { c with mat := v }

/-! ## Latch sets (R231, R236, R248) -/

/-- One bit of a bit field set or cleared. -/
def putBit {w : Nat} (x : BitVec w) (n : Nat) (v : Bool) : BitVec w :=
  if v then x ||| BitVec.ofNat w (2 ^ n) else x &&& ~~~(BitVec.ofNat w (2 ^ n))

/-- Whether an instruction empties its tile at acceptance (R402). -/
def MatKind.writesTile (k : MatKind) : Bool :=
  match k with
  | .mzero => true
  | .mma => true
  | .mgat => true
  | .mld => true
  | .mst => false
  | .mfree => false

/-- A tile is full when no accepted instruction still owes it a value (R236, R237). -/
def Core.settleTile (c : Core) (t : Nat) : Core :=
  { c with tileFull := putBit c.tileFull t (!c.latches.any (fun l => l.op.tile == t && l.op.kind.writesTile)) }

/-- One accepted instruction undone (R248). -/
def Core.undoLatch (c : Core) (l : Latch) : Core :=
  let d := { c with latches := c.latches.erase l }
  if l.op.kind.writesTile then
    ({ d with
       tileTag := putBit d.tileTag l.op.tile l.wasTag
       accLive := putBit d.accLive l.op.tile l.wasLive }).settleTile l.op.tile
  else d

/-- Accepted instructions that have not started handed back, the latest first (R110, R248). -/
def Core.handBack (c : Core) (back : List Latch) : Core := back.reverse.foldl Core.undoLatch c

/-! ## Who issues -/

/-- The bundle's workgroup and group, or 0 and 0. -/
def State.curGroup (s : State) : GroupId :=
  match s.cur with
  | .group wg grp _ _ _ => { wg := wg, grp := grp }
  | .helm wg _ _ => { wg := wg, grp := 0 }
  | _ => { wg := 0, grp := 0 }

/-- The lanes of the issuing bundle, ascending (R118). -/
def State.curLanes (s : State) : List Nat :=
  match s.cur with
  | .group _ _ lanes _ _ => lanes
  | _ => []

/-- The address of the issuing instruction. -/
def State.curPc (s : State) : Word :=
  match s.cur with
  | .group _ _ _ pc _ => pc
  | .helm _ pc _ => pc
  | _ => 0

/-- The length of the issuing instruction in bytes (R292). -/
def State.curLen (s : State) : Nat :=
  match s.cur with
  | .group _ _ _ _ n => n
  | .helm _ _ n => n
  | _ => 0

/-- Whether a Helm issues. -/
def State.curHelm (s : State) : Bool :=
  match s.cur with
  | .helm _ _ _ => true
  | _ => false

/-- A thread of the issuing group. -/
def State.curThread (s : State) (lane : Nat) : ThreadId :=
  { wg := s.curGroup.wg, grp := s.curGroup.grp, lane := lane }

/-- The party the issuer is (R175). -/
def State.curParty (s : State) : Party :=
  if s.curHelm then .helm s.curGroup.wg else .group s.curGroup.wg s.curGroup.grp

/-! ## Identities (R82, R128, R414) -/

def Workgroup.absent : Workgroup :=
  { launch := 0, lin := 0, set := 0, core := 0, status := .ended, slots := [], helmNo := 0, share := none, direct := false,
    killed := false, nextGroup := 0, bars := [], maps := [], savedBins := [], oldCore := none, savedTiles := 0, eager := none,
    saveSeal := 0, placedAt := 0, heldForPoint := false, eagerHeld := false, firstIssued := false }

def Launch.absent : Launch :=
  { cmd := 0, ctx := 0, entry := 0, helm := 0, threads := 0, barsN := 0, lend := 0, scratch := 0, karg := 0, gx := 0,
    gy := 0, gz := 0, det := false, cls := 0, opp := 0, rset := 0, spawnCd := 0, hang := 0, order := 0, next := 0,
    live := 0, run := 0, running := false, lowestKilled := none, ticket := 0, endedWgs := [], startSeq := 0, emitWait := false, dieSeen := [], eligible := false }

def State.wg (s : State) (w : Nat) : Workgroup := FMap.getD s.wgs w Workgroup.absent
def State.setWg (s : State) (w : Nat) (x : Workgroup) : State := { s with wgs := FMap.set s.wgs w x }
def State.launch (s : State) (l : Nat) : Launch := FMap.getD s.launches l Launch.absent
def State.setLaunch (s : State) (l : Nat) (x : Launch) : State := { s with launches := FMap.set s.launches l x }

/-- The launch of a workgroup. -/
def State.launchOf (s : State) (w : Nat) : Launch := s.launch (s.wg w).launch
/-- The context of a workgroup. -/
def State.ctxOf (s : State) (w : Nat) : Nat := (s.launchOf w).ctx
/-- The core of a workgroup, its Ridge and its die (R82). -/
def State.coreOf (s : State) (w : Nat) : Nat := (s.wg w).core
def ridgeOfCore (c : Nat) : Nat := c / 8
def dieOfCore (c : Nat) : Nat := c / 160

/-- Groups present at launch (R67). -/
def Launch.groups (l : Launch) : Nat := ceilDiv l.threads 32

/-- Where a party of a workgroup stands (R178). -/
def State.placeOf (s : State) (p : Party) (w : Nat) : Place :=
  { who := p, die := dieOfCore (s.coreOf w), wg := w, launch := (s.wg w).launch, set := (s.wg w).set }

/-- Where the issuer stands. -/
def State.curPlace (s : State) : Place := s.placeOf s.curParty s.curGroup.wg

/-- Whether the issuing thread, the lowest of the bundle, runs in privileged mode (R412; log entry 19). A Helm never does. -/
def State.curPriv (s : State) : Bool :=
  match s.cur with
  | .group wg grp (l :: _) _ _ => (s.thread { wg := wg, grp := grp, lane := l }).priv
  | _ => false

/-- Whether every thread of the issuing bundle runs in privileged mode (R412): a privileged instruction of another bundle traps them
all (R313 step 6; log entry 20). -/
def State.allPriv (s : State) : Bool :=
  match s.cur with
  | .group wg grp lanes _ _ => !lanes.isEmpty && lanes.all (fun l => (s.thread { wg := wg, grp := grp, lane := l }).priv)
  | _ => false

/-! ## Fault records (R282 to R285) -/

/-- The 64 bytes of a fault record (R283). -/
def faultRec (cause source : Nat) (info : Nat) (addr pc handle : Word) (wgLin thread core queue : Nat) (index detail : Word) :
    FaultRec :=
  leBytes 2 cause ++ leBytes 1 source ++ leBytes 1 0 ++ leBytes 4 info ++ leBytes 8 addr.toNat ++ leBytes 8 pc.toNat
    ++ leBytes 8 handle.toNat ++ leBytes 8 wgLin ++ leBytes 4 thread ++ leBytes 2 core ++ leBytes 2 queue
    ++ leBytes 8 index.toNat ++ leBytes 8 detail.toNat

/-- A record handed to a context's fault queue: it waits there until FAULT_RECORD_POST writes it (R285). A context
that is being destroyed receives none (R45). -/
def State.postFault (s : State) (ctx : Nat) (r : FaultRec) : State :=
  { s with ctxs := FMap.modify s.ctxs ctx (fun c => if c.dying then c else { c with fqWaiting := c.fqWaiting ++ [r] }) }

/-- The packet index of the launch a workgroup belongs to (R283). -/
def State.indexOf (s : State) (w : Nat) : Word :=
  match FMap.find s.cmds (s.launchOf w).cmd with
  | some c => BitVec.ofNat 64 c.index
  | none => 0

/-- The thread index of a lane: v0 at its start (R115, R126). -/
def threadIndex (t : ThreadId) : Nat := 32 * t.grp + t.lane

/-- A record about a thread (R283). -/
def State.threadRec (s : State) (t : ThreadId) (cause source info : Nat) (addr pc handle detail : Word) : FaultRec :=
  faultRec cause source info addr pc handle (s.wg t.wg).lin (threadIndex t) (s.coreOf t.wg) 0 (s.indexOf t.wg) detail

/-- The handle of a parked thread (R419): bits [63:48] its CTX_ID, the rest the device's. -/
def State.handleOf (s : State) (t : ThreadId) : Word :=
  BitVec.ofNat 64 (s.ctxOf t.wg % 2 ^ 16 * 2 ^ 48 + (s.thread t).handle.toNat)

/-- A thread parked with a handle of its own (R95, R419). -/
def State.parkThread (s : State) (t : ThreadId) (k : ParkKind) : State :=
  let h := BitVec.ofNat 48 (s.nextId * 256 + (Config.handleSalt s.nextId).toNat)
  { (s.setThread t { s.thread t with park := k, handle := h, wait := .none }) with nextId := s.nextId + 1 }

/-! ## Taking a trap (R275, R278) -/

/-- The trap vector of a context (R274). -/
def State.trapVec (s : State) (ctx : Nat) : Word :=
  match FMap.find s.ctxs ctx with
  | some c => c.trapVec
  | none => 0

/-- A thread takes a trap: it enters the handler, or is parked when it is in its handler already or TRAP_VEC is 0. -/
def State.trapThread (s : State) (t : ThreadId) (cause : BitVec 8) (pc addr info : Word) : State :=
  let x := s.thread t
  let y := { x with trapCause := cause, trapPc := pc &&& ~~~(1 : Word), trapAddr := addr, trapInfo := info, wait := .none }
  if x.inHandler || s.trapVec (s.ctxOf t.wg) = 0 then
    let s' := (s.setThread t { y with pc := pc &&& ~~~(1 : Word) }).parkThread t .byNested
    s'.postFault (s'.ctxOf t.wg) (s'.threadRec t 0x108 5 (info.toNat % 2 ^ 32) addr pc (s'.handleOf t) (cause.setWidth 64))
  else s.setThread t { y with priv := true, inHandler := true, pc := s.trapVec (s.ctxOf t.wg) }

/-- Several lanes of the issuing bundle take one trap; `addr` and `info` may differ from lane to lane. -/
def State.trapLanes (s : State) (lanes : List Nat) (cause : BitVec 8) (pc : Word) (addr info : Nat → Word) : State :=
  lanes.foldl (fun t l => t.trapThread (s.curThread l) cause pc (addr l) (info l)) s

/-- A trap raised by a Helm: it stops at its instruction until a thread has taken the trap and returned (R280). -/
def State.trapHelm (s : State) (wg : Nat) (cause : BitVec 8) (addr info : Word) : State :=
  s.setHelm wg
    { s.helm wg with
      trap := some { cause := cause, addr := addr, info := info, taker := none }
      wait := .none
      acceptWait := none }

/-- TRAP_INFO of an address cause (R202, R276). -/
def infoAddr (helm : Bool) (kind level : Nat) : Word := BitVec.ofNat 64 ((if helm then 32 else 0) + kind * 8 + level)
/-- TRAP_INFO of ILLEGAL and EMULATE (R276). -/
def infoIllegal (len : Nat) (spawn : Bool) (reason : Nat) (aux : Bool) : Word :=
  BitVec.ofNat 64 (len * 256 + (if spawn then 16 else 0) + reason * 2 + (if aux then 1 else 0))
/-- TRAP_INFO of FORMAT and EMPTY (R276). -/
def infoOperand (opnd : Nat) (aux : Bool) : Word := BitVec.ofNat 64 (opnd * 2 + (if aux then 1 else 0))
/-- TRAP_INFO of ECC_FATAL (R276). -/
def infoEcc (completion : Bool) (array : Nat) (phys helm : Bool) (kind : Nat) : Word :=
  BitVec.ofNat 64 ((if completion then 65536 else array * 4096) + (if phys then 256 else 0) + (if helm then 32 else 0) + kind * 8)

/-- A trap of the whole issuer for a cause that names no address: every lane of `lanes`, or the Helm (R273, R276, R280). -/
def State.trapAll (s : State) (lanes : List Nat) (cause : BitVec 8) (info : Bool → Word) : State :=
  if s.curHelm then s.trapHelm s.curGroup.wg cause s.curPc (info true)
  else s.trapLanes lanes cause s.curPc (fun _ => 0) (fun _ => info false)

/-- The trap of an instruction that does not pass steps 1 to 6 of R313: every thread of the bundle, or the Helm. -/
def State.trapIllegal (s : State) (reason : Nat) : State :=
  s.trapAll s.curLanes 0x01 (infoIllegal s.curLen false reason)

/-- The trap of an encoding whose feature is absent (R281). -/
def State.trapEmulate (s : State) : State := s.trapAll s.curLanes 0x02 (infoIllegal s.curLen false 0)

/-! ## Returning from a trap (R277) -/

/-- `eret` in a thread's handler: user mode, out of the handler, at TRAP_PC. A Helm whose trap this thread took is
released and issues its instruction again (R280). -/
def State.returnThread (s : State) (t : ThreadId) : State :=
  let x := s.thread t
  let s' := s.setThread t { x with priv := false, inHandler := false, pc := x.trapPc, park := .running, wait := .none, hang := 0 }
  match (s'.helm t.wg).trap with
  | some h => if h.taker = some t then s'.setHelm t.wg { s'.helm t.wg with trap := none, hang := 0 } else s'
  | none => s'

/-! ## Moving on -/

/-- The group notes that its bundle issues: a yield is used up, and the backward branches counted for another bundle
count no more (R120). -/
def State.noteIssue (s : State) : State :=
  match s.cur with
  | .group wg grp lanes _ _ =>
    let id : GroupId := { wg := wg, grp := grp }
    let g := s.group id
    s.setGroup id
      { g with
        yieldAbove := none
        backLanes := lanes
        backCount := if lanes.any (fun l => g.backLanes.contains l) then g.backCount else 0 }
  | _ => s

/-- Every lane of the bundle, or the Helm, moves past the instruction, waits for nothing and has issued (R93). -/
def State.advance (s : State) : State :=
  match s.cur with
  | .group wg grp lanes pc len =>
    lanes.foldl (fun t l =>
      let id : ThreadId := { wg := wg, grp := grp, lane := l }
      t.setThread id { t.thread id with pc := pc + BitVec.ofNat 64 len, wait := .none, hang := 0 }) s.noteIssue
  | .helm wg pc len => s.setHelm wg { s.helm wg with pc := pc + BitVec.ofNat 64 len, wait := .none, hang := 0 }
  | _ => s

/-- The listed lanes of the bundle, or the Helm, go on at another address. -/
def State.jump (s : State) (lanes : List Nat) (target : Nat → Word) : State :=
  if s.curHelm then s.setHelm s.curGroup.wg { s.helm s.curGroup.wg with pc := target 0, wait := .none, hang := 0 }
  else lanes.foldl (fun t l =>
    t.setThread (s.curThread l) { t.thread (s.curThread l) with pc := target l, wait := .none, hang := 0 }) s

/-- The bundle or the Helm stays at its instruction and waits at something (R119). -/
def State.waitAt (s : State) (w : Wait) : State :=
  if s.curHelm then s.setHelm s.curGroup.wg { s.helm s.curGroup.wg with wait := w }
  else s.curLanes.foldl (fun t l => t.setThread (s.curThread l) { t.thread (s.curThread l) with wait := w }) s

end Sys2Proof.Machine
end

