-- ==== Sys2Proof/Machine/Flags.lean ====
section
/-! DEFINITION. The FLAGS registers: how they are ORed, read and written (R262, R264, R247). -/

namespace Sys2Proof.Machine

open Sys2Proof

/-- The sticky flags ORed into the FLAGS of the issuer: its group's, or its Helm's (R262). -/
def State.orFlags (s : State) (f : Word) : State :=
  if f = 0 then s
  else if s.curHelm then s.setHelm s.curGroup.wg { s.helm s.curGroup.wg with flags := (s.helm s.curGroup.wg).flags ||| f }
  else s.setGroup s.curGroup { s.group s.curGroup with flags := (s.group s.curGroup).flags ||| f }

/-- The sticky flags ORed into a group's FLAGS. -/
def State.orGroupFlags (s : State) (g : GroupId) (f : Word) : State :=
  if f = 0 then s else s.setGroup g { s.group g with flags := (s.group g).flags ||| f }

/-- The sticky flags ORed into a Helm's FLAGS. -/
def State.orHelmFlags (s : State) (wg : Nat) (f : Word) : State :=
  if f = 0 then s else s.setHelm wg { s.helm wg with flags := (s.helm wg).flags ||| f }

/-- Whether some producer of the group has not yet delivered its flags (R264). -/
def State.flagsPending (s : State) (g : GroupId) : Bool := s.fills.any (fun f => f.owner == g)

end Sys2Proof.Machine
end

