-- ==== Sys2Proof/Machine/Operands.lean ====
section
/-! DEFINITION. Operand forms of the Togen instructions, the checks an instruction makes on its operands (R130, R131,
R135) and the one way an instruction that reads registers and writes registers executes (R121, R123, R325). -/

namespace Sys2Proof.Machine

open Sys2Proof

/-- What an instruction step answers. -/
abbrev Out := Host.Outcome State Fault Refusal

/-- A source operand: none, a lane-file or uniform-file register with its action bit (R130), or an immediate. -/
inductive Src where
  | none
  | lane (num : Nat) (act : Bool)
  | uni (num : Nat) (act : Bool)
  | imm (value : Word)
  deriving DecidableEq, Repr

/-- The operands of an instruction whatever its length: what R296 to R302 make of its fields. -/
structure Form where
  uniform : Bool
  d : Nat
  dUni : Bool
  a : Src
  b : Src
  c : Src
  kc : Nat
  so : Nat
  gk : Nat
  gn : Bool
  act : Bool
  deriving DecidableEq, Repr

/-- A register source of a 32-bit form. -/
def src32 (u : Bool) (n : BitVec 6) : Src := if u then .uni n.toNat false else .lane n.toNat false

/-- A 6-bit immediate, sign- or zero-extended (R297). -/
def imm6 (signed : Bool) (b : BitVec 6) : Word := if signed then b.signExtend 64 else b.setWidth 64

/-- The operands of a standard 32-bit instruction (R296, R297): `hasI` where SO[28] means I. The third operand is D
(R303); the carry or predicate register is k7. -/
def form32 (w : R32) (hasI signed : Bool) : Form :=
  { uniform := w.u, d := w.d.toNat, dUni := w.u, a := src32 w.u w.a
    b := if hasI && bitAt w.so 1 then .imm (imm6 signed w.b) else src32 w.u w.b
    c := src32 w.u w.d, kc := 7, so := w.so.toNat, gk := 0, gn := false, act := false }

/-- A register source of a 64-bit form (R300, R301). -/
def src64 (file : Bool) (n : BitVec 9) (act : Bool) : Src := if file then .uni n.toNat act else .lane n.toNat act

/-- The operands of a 64-bit instruction (R299 to R302). -/
def form64 (w : R64) (signed : Bool) : Form :=
  match w.sh with
  | .rrr _ fc c fb b fa a d =>
    { uniform := w.u, d := d.toNat, dUni := w.fsd, a := src64 w.fsa a fa, b := src64 w.fsb b fb, c := src64 w.fsc c fc
      kc := c.toNat % 8, so := w.so.toNat, gk := w.gk.toNat, gn := w.gn, act := fa }
  | .imm16 _ imm fd fa a d =>
    { uniform := w.u, d := d.toNat, dUni := w.fsd, a := src64 w.fsa a fa
      b := .imm (if signed then imm.signExtend 64 else imm.setWidth 64), c := src64 w.fsd d fd
      kc := 7, so := w.so.toNat, gk := w.gk.toNat, gn := w.gn, act := fd }
  | .imm32 imm d =>
    { uniform := w.u, d := d.toNat, dUni := w.fsd, a := .none, b := .imm (imm.signExtend 64)
      c := src64 w.fsd (d.setWidth 9) false
      kc := 7, so := w.so.toNat, gk := w.gk.toNat, gn := w.gn, act := false }

/-- The operands of a 16-bit instruction (R295): D is the first source, except of `mov`. -/
def form16 (w : R16) (isMov : Bool) : Form :=
  { uniform := false, d := w.d.toNat, dUni := false
    a := .lane (if isMov then w.s.toNat else w.d.toNat) false, b := .lane w.s.toNat false, c := .lane w.d.toNat false
    kc := 7, so := 0, gk := 0, gn := false, act := false }

/-! ## Elements (R133, R326) -/

/-- The element width of a tag; 64 for RAW and BX (R326). -/
def tagWidth (t : Tag) : Nat :=
  match t.toNat with
  | 1 => 64
  | 2 => 32
  | 3 => 16
  | 4 => 8
  | 5 => 4
  | 6 => 64
  | 7 => 32
  | 8 => 16
  | 9 => 16
  | 10 => 8
  | 11 => 8
  | 12 => 4
  | 13 => 8
  | _ => 64

/-- Element `j` of width `w` of a register. -/
def elemAt (w : Nat) (x : Word) (j : Nat) : Nat := x.toNat / 2 ^ (w * j) % 2 ^ w

/-- A register from its elements, element 0 lowest. -/
def ofElems (w : Nat) (els : List Nat) : Word :=
  BitVec.ofNat 64 (els.foldr (fun e acc => e % 2 ^ w + 2 ^ w * acc) 0)

/-- One function applied to each element. -/
def mapElems (w : Nat) (f : Nat → Nat) (x : Word) : Word :=
  ofElems w ((List.range (64 / w)).map (fun j => f (elemAt w x j)))

/-- One function applied to each pair of elements. -/
def zipElems (w : Nat) (f : Nat → Nat → Nat) (x y : Word) : Word :=
  ofElems w ((List.range (64 / w)).map (fun j => f (elemAt w x j) (elemAt w y j)))

/-- One function applied to each triple of elements. -/
def zip3Elems (w : Nat) (f : Nat → Nat → Nat → Nat) (x y z : Word) : Word :=
  ofElems w ((List.range (64 / w)).map (fun j => f (elemAt w x j) (elemAt w y j) (elemAt w z j)))

/-- A value placed in every element (R297). -/
def splat (w : Nat) (v : Nat) : Word := ofElems w (List.replicate (64 / w) (v % 2 ^ w))

/-- An element as a signed number. -/
def toSigned (w : Nat) (x : Nat) : Int := if x % 2 ^ w < 2 ^ (w - 1) then (x % 2 ^ w : Nat) else (x % 2 ^ w : Nat) - (2 ^ w : Nat)

/-- A number as an element, modulo 2^w. -/
def ofInt (w : Nat) (x : Int) : Nat := (x % (2 ^ w : Nat)).toNat

/-! ## Which lanes act -/

/-- The lowest-numbered live lane of a lane's quad (R123). -/
def State.leader (s : State) (l : Nat) : Option Nat :=
  (upFrom (l / 4 * 4) 4).find? (fun m => (s.thread (s.curThread m)).live)

/-- The helper lanes that execute with the issuing bundle (R123): a lane whose thread was killed is none. -/
def State.helpers (s : State) : List Nat :=
  if s.curHelm then [] else
  (List.range 32).filter (fun l => !(s.thread (s.curThread l)).live && !(s.thread (s.curThread l)).killed &&
    (match s.leader l with | some m => s.curLanes.contains m | none => false))

/-- Whether a lane's guard holds (R302). -/
def State.guardOk (s : State) (f : Form) (l : Nat) : Bool := (s.thread (s.curThread l)).kAt f.gk != f.gn

/-- The active lanes of the issuing bundle (R121). -/
def State.active (s : State) (f : Form) : List Nat := s.curLanes.filter (s.guardOk f)

/-- The helper lanes whose guard holds. -/
def State.activeHelpers (s : State) (f : Form) : List Nat := s.helpers.filter (s.guardOk f)

/-! ## Reading operands -/

/-- The register of the uniform file that a number names: s of the group, or h of the Helm (R296). -/
def State.uniKey (s : State) (n : Nat) : RegKey :=
  if s.curHelm then .h s.curGroup.wg n else .s s.curGroup.wg s.curGroup.grp n

/-- The register of the lane file that a number names in a lane. -/
def State.laneKey (s : State) (l n : Nat) : RegKey := .v s.curGroup.wg s.curGroup.grp l n

/-- The register a source names in a lane. -/
def State.srcKey (s : State) (l : Nat) (x : Src) : Option RegKey :=
  match x with
  | .lane n _ => some (s.laneKey l n)
  | .uni n _ => some (s.uniKey n)
  | _ => none

/-- The destination register in a lane. -/
def State.dstKey (s : State) (f : Form) (l : Nat) : RegKey := if f.dUni then s.uniKey f.d else s.laneKey l f.d

/-- FE_ACTION of the issuer (R132). -/
def State.feAction (s : State) : BitVec 2 :=
  if s.curHelm then (s.helm s.curGroup.wg).feAction else (s.group s.curGroup).feAction

/-- What the checks of operands find (R130, R131, R135): `ok` in the state in which the registers have been read. -/
inductive Ready where
  | ok (s : State)
  | blocked
  | trapped (s : State)

/-- An operand as the checks see it: its number (R276), what it names, and its action bit. -/
structure Opnd where
  opnd : Nat
  src : Src
  deriving DecidableEq, Repr

/-- Whether an operand's register is empty in a lane. -/
def State.isEmpty (s : State) (l : Nat) (x : Src) : Bool :=
  match s.srcKey l x with
  | some k => !(s.reg k).full
  | none => false

/-- Whether a source's empty bit traps: its action bit, or FE_ACTION.ALL (R130, R132). -/
def State.srcTraps (s : State) (x : Src) : Bool :=
  bitAt s.feAction 0 || (match x with | .lane _ a => a | .uni _ a => a | _ => false)

/-- Whether a source is in the uniform file. -/
def Src.isUni (x : Src) : Bool := match x with | .uni _ _ => true | _ => false

/-- The array that keeps a register on a core, and the number that its entry is found by (R291). -/
def State.regArray (s : State) (k : RegKey) : Nat × Nat :=
  match k with
  | .v w g l n => (arrayId 0 (s.coreOf w), ((w * 2 ^ 24 + g) * 32 + l) * 512 + n)
  | .s w g n => (arrayId 1 (s.coreOf w), (w * 2 ^ 24 + g) * 1024 + n)
  | .h w n => (arrayId 1 (s.coreOf w), w * 2 ^ 34 + 512 + n)

/-- A trap of lanes, or of the Helm, for an unreadable register (R276, R289): TRAP_ADDR is 0. -/
def State.trapReg (s : State) (lanes : List Nat) (array : Nat) : State :=
  if s.curHelm then s.trapHelm s.curGroup.wg 0x30 0 (infoEcc false (array / 4096) false true 0)
  else s.trapLanes lanes 0x30 s.curPc (fun _ => 0) (fun _ => infoEcc false (array / 4096) false false 0)

/-- A register read through its array's error check (R286): the array if the error is a lasting one, and the logs. -/
def State.readKey (s : State) (k : Option RegKey) : Option Nat × State :=
  match k with
  | none => (none, s)
  | some k =>
    let a := s.regArray k
    let r := s.eccKept a.1 a.2 (s.ctxOf s.curGroup.wg)
    (if r.1 then some a.1 else none, r.2)

/-- Registers read in order, each for a lane: the lanes and arrays of those that fail, and the logs. -/
def State.readKeys (s : State) (reads : List (Nat × Option RegKey)) : List (Nat × Nat) × State :=
  match reads with
  | [] => ([], s)
  | x :: rest =>
    let r := s.readKey x.2
    let t := r.2.readKeys rest
    (match r.1 with | some a => (x.1, a) :: t.1 | none => t.1, t.2)

/-- The registers that an instruction reads: each lane's own, a uniform one once (R130). -/
def State.regReads (s : State) (lanes : List Nat) (srcs : Nat → List Opnd) : List (Nat × Option RegKey) :=
  lanes.flatMap (fun l => ((srcs l).filter (fun o => !o.src.isUni || lanes.head? == some l)).map (fun o => (l, s.srcKey l o.src)))

/-- What the error checks of the sources come to: a lasting error traps the lane, one in a uniform register every lane (R289). -/
def State.readSrcs (s : State) (lanes : List Nat) (srcs : Nat → List Opnd) : Ready :=
  if s.errInjs.isEmpty then .ok s
  else
    let r := s.readKeys (s.regReads lanes srcs)
    match r.1 with
    | [] => .ok r.2
    | (_, a) :: _ =>
      let once := !s.curHelm && a / 4096 != 0
      .trapped (r.2.trapReg (if once then lanes else r.1.map (·.1)) a)

/-- The empty registers that trap a lane (R130 to R132): sources with their operand numbers, then destinations. -/
def State.emptyIn (s : State) (l : Nat) (srcs : List Opnd) (dsts : List Src) : List Nat :=
  (srcs.filter (fun o => s.srcTraps o.src && s.isEmpty l o.src)).map (fun o => o.opnd)
    ++ (if bitAt s.feAction 1 then (dsts.filter (s.isEmpty l)).map (fun _ => 3) else [])

/-- The full/empty check of an instruction whose sources may depend on the lane: its sources, then its destinations (R130, R131). -/
def State.checkBy (s : State) (lanes others : List Nat) (srcs : Nat → List Opnd) (dsts : List Src) : Ready :=
  let hit := lanes.filter (fun l => !(s.emptyIn l (srcs l) dsts).isEmpty)
  let opnd := fun l => (s.emptyIn l (srcs l) dsts).headD 0
  if !hit.isEmpty then
    if s.curHelm then .trapped (s.trapHelm s.curGroup.wg 0x04 s.curPc (infoOperand (opnd (hit.headD 0)) true))
    else .trapped (s.trapLanes hit 0x04 s.curPc (fun _ => 0) (fun l => infoOperand (opnd l) false))
  else if (lanes ++ others).any (fun l => (srcs l).any (fun o => s.isEmpty l o.src) || dsts.any (s.isEmpty l)) then .blocked
  else s.readSrcs lanes srcs

/-- The full/empty check of an instruction. -/
def State.checkFull (s : State) (lanes others : List Nat) (srcs : List Opnd) (dsts : List Src) : Ready :=
  s.checkBy lanes others (fun _ => srcs) dsts

/-- The lane that stands for the whole issuer where an instruction executes once (R325). -/
def oneLane : List Nat := [0]

/-! ## Instructions that read registers and write registers -/

/-- What an instruction computes from its sources. `check` answers the result tag, or the operand whose tag is not
accepted (R135); `eval` the result and the flags; `immVal` what an immediate is in an element format (R297, R305);
`slow` whether it is a long-latency producer for a tag (R129). -/
structure Alu where
  arity : Nat
  check : List Tag → Except Nat Tag
  eval : Tag → List Tag → List Word → Word × Word
  immVal : Tag → Word → Word
  slow : Tag → Bool

/-- The sources an instruction of an arity reads. -/
def Form.srcs (f : Form) (arity : Nat) : List Opnd :=
  ([{ opnd := 0, src := f.a }, { opnd := 1, src := f.b }, { opnd := 2, src := f.c }] : List Opnd).take arity

/-- The tag of a source in a lane; an immediate takes the tag of the first source (R135). -/
def State.srcTag (s : State) (l : Nat) (x first : Src) : Tag :=
  match s.srcKey l x with
  | some k => (s.reg k).tag
  | none => match s.srcKey l first with
    | some k => (s.reg k).tag
    | none => 0

/-- The value of a source in a lane, for elements of a tag. -/
def State.srcVal (s : State) (imm : Tag → Word → Word) (l : Nat) (x : Src) (t : Tag) : Word :=
  match x with
  | .imm v => imm t v
  | _ => match s.srcKey l x with
    | some k => (s.reg k).bits
    | none => 0

/-- The tags of the sources in a lane. -/
def State.srcTags (s : State) (f : Form) (arity l : Nat) : List Tag := (f.srcs arity).map (fun o => s.srcTag l o.src f.a)

/-- The result of an instruction in a lane: its tag, its bits and its flags, or the failing operand. -/
def State.aluResult (s : State) (f : Form) (op : Alu) (l : Nat) : Except Nat (Tag × Word × Word) :=
  let tags := s.srcTags f op.arity l
  match op.check tags with
  | .error e => .error e
  | .ok t =>
    let r := op.eval t tags ((f.srcs op.arity).map (fun o => s.srcVal op.immVal l o.src (s.srcTag l o.src f.a)))
    .ok (t, r.1, r.2)

/-- A trap of every active lane, or of the Helm, for a failed tag check (R135, R273). -/
def State.trapFormat (s : State) (lanes : List Nat) (opnd : Nat) : State := s.trapAll lanes 0x03 (infoOperand opnd)

/-- The first failing operand over the active lanes (R135). -/
def State.formatFault (s : State) (f : Form) (op : Nat → Alu) (lanes : List Nat) : Option Nat :=
  lanes.findSome? (fun l => match s.aluResult f (op l) l with | .error e => some e | .ok _ => none)

/-- A register written full. -/
def State.putReg (s : State) (k : RegKey) (t : Tag) (v : Word) : State := s.setReg k { bits := v, tag := t, full := true }

/-- A register marked empty with its new tag, its value under way (R129, R134). -/
def State.startFill (s : State) (k : RegKey) (t : Tag) (v flags : Word) : State :=
  { (s.setReg k { bits := (s.reg k).bits, tag := t, full := false }) with
    fills := s.fills ++ [{ id := s.nextId, reg := k, value := v, flags := flags, owner := s.curGroup }]
    nextId := s.nextId + 1 }

/-- A result delivered to its destination, at once or later; `counts` is false in a helper lane, which sets no flag (R123). -/
def State.deliver (s : State) (k : RegKey) (slow counts : Bool) (t : Tag) (v flags : Word) : State :=
  if slow then s.startFill k t v (if counts then flags else 0)
  else (s.putReg k t v).orFlags (if counts then flags else 0)

/-- The results of `lanes` delivered, each computed from the state before (R327). -/
def State.deliverAll (s pre : State) (f : Form) (op : Nat → Alu) (counts : Bool) (lanes : List Nat) : State :=
  lanes.foldl (fun t l =>
    match pre.aluResult f (op l) l with
    | .ok r => t.deliver (pre.dstKey f l) ((op l).slow r.1) counts r.1 r.2.1 r.2.2
    | .error _ => t) s

/-- The lanes over which an instruction executes: once for a uniform major. -/
def State.execLanes (s : State) (f : Form) : List Nat := if f.uniform then oneLane else s.active f

/-- The lanes that trap when an instruction traps in every active lane. -/
def State.trapSet (s : State) (f : Form) : List Nat :=
  if s.curHelm then oneLane else if f.uniform then s.curLanes else s.active f

/-- The destination as an operand of the checks. -/
def Form.dstSrc (f : Form) : Src := if f.dUni then .uni f.d false else .lane f.d false

/-- An instruction that reads its sources, checks them, and writes one register in each lane (R121, R130, R131, R135,
R325). What it computes may depend on the lane; `extra` are sources beside A, B and C; `post` is what it writes beside D. -/
def State.runAluBy (s : State) (f : Form) (arity : Nat) (op : Nat → Alu) (extra : List Opnd) (post : State → Nat → State) : Out :=
  let lanes := s.execLanes f
  let others := if f.uniform then [] else s.activeHelpers f
  match s.formatFault f op lanes with
  | some e => .next (s.trapFormat (s.trapSet f) e)
  | none =>
    match s.checkFull (s.trapSet f) others (f.srcs arity ++ extra) [f.dstSrc] with
    | .trapped t => .next t
    | .blocked => .next s
    | .ok s => .next (((lanes ++ others).foldl post ((s.deliverAll s f op true lanes).deliverAll s f op false others)).advance)

/-- An instruction that computes the same in every lane and writes nothing beside D. -/
def State.runAlu (s : State) (f : Form) (op : Alu) : Out :=
  s.runAluBy f op.arity (fun _ => op) [] (fun t _ => t)

/-- What a comparison computes: a truth value in place of a register (R333, R357). -/
structure Pred where
  arity : Nat
  check : List Tag → Except Nat Unit
  eval : List Tag → List Word → Bool × Word
  immVal : Tag → Word → Word

/-- The predicate's result in a lane. -/
def State.predResult (s : State) (f : Form) (op : Pred) (l : Nat) : Except Nat (Bool × Word) :=
  let tags := s.srcTags f op.arity l
  match op.check tags with
  | .error e => .error e
  | .ok _ => .ok (op.eval tags ((f.srcs op.arity).map (fun o => s.srcVal op.immVal l o.src (s.srcTag l o.src f.a))))

/-- A predicate written: k of the lane, or in a uniform major the register of that number, 1 or 0 tagged I64 (R325). -/
def State.putPred (s : State) (uniform : Bool) (l n : Nat) (v : Bool) : State :=
  if uniform then s.putReg (s.uniKey n) 1 (if v then 1 else 0)
  else s.setThread (s.curThread l) ((s.thread (s.curThread l)).setK n v)

/-- A predicate read: k of the lane, or whether the register of that number is not zero (R325). -/
def State.getPred (s : State) (uniform : Bool) (l n : Nat) : Bool :=
  if uniform then (s.reg (s.uniKey n)).bits != 0 else (s.thread (s.curThread l)).kAt n

/-- An instruction that writes a predicate in each lane. -/
def State.runPred (s : State) (f : Form) (op : Pred) : Out :=
  let lanes := s.execLanes f
  let others := if f.uniform then [] else s.activeHelpers f
  match lanes.findSome? (fun l => match s.predResult f op l with | .error e => some e | .ok _ => none) with
  | some e => .next (s.trapFormat (s.trapSet f) e)
  | none =>
    match s.checkFull (s.trapSet f) others (f.srcs op.arity) (if f.uniform then [.uni f.d false] else []) with
    | .trapped t => .next t
    | .blocked => .next s
    | .ok s =>
      let put := fun (counts : Bool) (t : State) (l : Nat) =>
        match s.predResult f op l with
        | .ok r => (t.putPred f.uniform l f.d r.1).orFlags (if counts then r.2 else 0)
        | .error _ => t
      .next ((others.foldl (put false) (lanes.foldl (put true) s)).advance)

/-! ## Instructions with any number of sources and destinations -/

/-- What an instruction does in one lane: the registers it writes with their tags, and its flags. -/
structure LaneOut where
  writes : List (Src × Tag × Word)
  flags : Word

/-- The registers of one lane written; the first of them carries the flags. -/
def State.deliverOut (s : State) (l : Nat) (slow counts : Bool) (o : LaneOut) : State :=
  match o.writes with
  | [] => s.orFlags (if counts then o.flags else 0)
  | (d, t, v) :: rest =>
    let first := match s.srcKey l d with
      | some k => s.deliver k slow counts t v o.flags
      | none => s
    rest.foldl (fun u w => match u.srcKey l w.1 with
      | some k => u.deliver k slow false w.2.1 w.2.2 0
      | none => u) first

/-- An instruction that computes, in each active lane and each helper lane, from the state before it: tag checks, then
full and empty bits, then all results (R121, R123, R130, R131, R135). Its sources may depend on the lane. -/
def State.runLanesBy (s : State) (f : Form) (srcs : Nat → List Opnd) (dsts : List Src) (slow : Bool)
    (compute : Nat → Except Nat LaneOut) : Out :=
  let lanes := s.execLanes f
  let others := if f.uniform then [] else s.activeHelpers f
  match lanes.findSome? (fun l => match compute l with | .error e => some e | .ok _ => none) with
  | some e => .next (s.trapFormat (s.trapSet f) e)
  | none =>
    match s.checkBy (s.trapSet f) others srcs dsts with
    | .trapped t => .next t
    | .blocked => .next s
    | .ok s =>
      let put := fun (counts : Bool) (t : State) (l : Nat) =>
        match compute l with
        | .ok o => t.deliverOut l slow counts o
        | .error _ => t
      .next ((others.foldl (put false) (lanes.foldl (put true) s)).advance)

/-- The same with one list of sources. -/
def State.runLanes (s : State) (f : Form) (srcs : List Opnd) (dsts : List Src) (slow : Bool)
    (compute : Nat → Except Nat LaneOut) : Out := s.runLanesBy f (fun _ => srcs) dsts slow compute

/-- The bits of a register source in a lane. -/
def State.srcBits (s : State) (l : Nat) (x : Src) : Word :=
  match s.srcKey l x with
  | some k => (s.reg k).bits
  | none => 0

/-- The tag of a register source in a lane. -/
def State.srcTagOf (s : State) (l : Nat) (x : Src) : Tag :=
  match s.srcKey l x with
  | some k => (s.reg k).tag
  | none => 0

/-- The register after a source in its file. -/
def Src.succ (x : Src) (n : Nat) : Src :=
  match x with
  | .lane k a => .lane (k + n) a
  | .uni k a => .uni (k + n) a
  | x => x

end Sys2Proof.Machine
end

