-- ==== Sys2Proof/Machine/Numbers.lean ====
section
/-! DEFINITION. Number formats, rounding, accuracy classes, dot-product order and conversions (R251 to R268). Every
value is computed exactly in Int and Nat and rounded once. -/

namespace Sys2Proof.Machine

open Sys2Proof

/-! ## Formats (R251, R259) -/

/-- How a format uses its top exponent (R251). -/
inductive FmtKind where
  | ieee | e4m3 | e2m1
  deriving DecidableEq, Repr

/-- A floating-point element format: width, fraction bits, bias, greatest finite magnitude code (R251). -/
structure Fmt where
  width : Nat
  frac : Nat
  bias : Nat
  maxCode : Nat
  kind : FmtKind
  deriving DecidableEq, Repr

def f64 : Fmt := ⟨64, 52, 1023, 0x7FEFFFFFFFFFFFFF, .ieee⟩
def f32 : Fmt := ⟨32, 23, 127, 0x7F7FFFFF, .ieee⟩
def f16 : Fmt := ⟨16, 10, 15, 0x7BFF, .ieee⟩
def bf16 : Fmt := ⟨16, 7, 127, 0x7F7F, .ieee⟩
def e4m3 : Fmt := ⟨8, 3, 7, 0x7E, .e4m3⟩
def e5m2 : Fmt := ⟨8, 2, 15, 0x7B, .ieee⟩
def e2m1 : Fmt := ⟨4, 1, 1, 0x7, .e2m1⟩

/-- The significand width p, hidden bit included (R251). -/
def Fmt.p (f : Fmt) : Nat := f.frac + 1

/-- The exponent of the smallest subnormal's unit (R252). -/
def Fmt.qmin (f : Fmt) : Int := 1 - (f.bias : Int) - (f.frac : Int)

/-- The format of a floating-point tag (R133). -/
def fmtOf (t : Tag) : Option Fmt :=
  match t.toNat with
  | 6 => some f64
  | 7 => some f32
  | 8 => some f16
  | 9 => some bf16
  | 10 => some e4m3
  | 11 => some e5m2
  | 12 => some e2m1
  | _ => none

/-- The sign bit of a code. -/
def Fmt.signBit (f : Fmt) : Nat := 2 ^ (f.width - 1)

/-- The greatest exponent field. -/
def Fmt.emax (f : Fmt) : Nat := 2 ^ (f.width - 1 - f.frac) - 1

/-- The magnitude code of infinity, where the format has one (R251). -/
def Fmt.infCode (f : Fmt) : Nat := f.emax * 2 ^ f.frac

/-- The canonical NaN (R259). E2M1 has none: its NaN becomes code 0 (R260). -/
def Fmt.canonNaN (f : Fmt) : Nat :=
  match f.kind with
  | .ieee => f.infCode + 2 ^ (f.frac - 1)
  | .e4m3 => 0x7F
  | .e2m1 => 0

/-! ## Values (R252) -/

/-- The value of a code: a NaN with its sign and its fraction aligned to 52 bits, an infinity, or (−1)^neg × m × 2^e. -/
inductive FVal where
  | nan (neg : Bool) (payload : Nat)
  | inf (neg : Bool)
  | num (neg : Bool) (m : Nat) (e : Int)
  deriving DecidableEq, Repr

/-- Decode (R252). -/
def Fmt.decode (f : Fmt) (code : Nat) : FVal :=
  let neg := code / f.signBit % 2 == 1
  let mag := code % f.signBit
  let E := mag / 2 ^ f.frac
  let F := mag % 2 ^ f.frac
  if E = 0 then .num neg F f.qmin
  else if f.kind = .ieee ∧ E = f.emax then (if F = 0 then .inf neg else .nan neg (F * 2 ^ (52 - f.frac)))
  else if f.kind = .e4m3 ∧ E = f.emax ∧ F = 7 then .nan neg (F * 2 ^ (52 - f.frac))
  else .num neg (2 ^ f.frac + F) ((E : Int) - f.bias - f.frac)

/-- Whether a NaN is quiet (R251). -/
def FVal.signalling (v : FVal) : Bool :=
  match v with
  | .nan _ p => p / 2 ^ 51 % 2 == 0
  | _ => false

def FVal.isNaN (v : FVal) : Bool := match v with | .nan _ _ => true | _ => false
def FVal.neg (v : FVal) : Bool :=
  match v with
  | .nan n _ => n
  | .inf n => n
  | .num n _ _ => n
def FVal.isZero (v : FVal) : Bool := match v with | .num _ m _ => m == 0 | _ => false

/-- A value with its sign inverted. -/
def FVal.flip (v : FVal) : FVal :=
  match v with
  | .nan n p => .nan (!n) p
  | .inf n => .inf (!n)
  | .num n m e => .num (!n) m e

/-! ## Flags (R262) -/

def flagNV : Word := 1
def flagDZ : Word := 2
def flagOF : Word := 4
def flagUF : Word := 8
def flagNX : Word := 16

/-- A signalling operand sets invalid (R258). -/
def snan (v : FVal) : Word := if v.signalling then flagNV else 0

/-! ## Rounding (R256, R257, R261) -/

/-- The rounding modes in the encoding's order (R305): nearest even, toward zero, toward −∞, toward +∞. -/
inductive Mode where
  | rne | rz | rm | rp
  deriving DecidableEq, Repr

def Mode.ofCode (n : Nat) : Mode :=
  match n with
  | 0 => .rne
  | 1 => .rz
  | 2 => .rm
  | _ => .rp

/-- Whether a magnitude is rounded up from its floor, given the remainder of a division by `d`. -/
def roundsUp (mode : Mode) (neg : Bool) (floor rem d : Nat) : Bool :=
  match mode with
  | .rne => decide (d < 2 * rem) || (2 * rem == d && floor % 2 == 1)
  | .rz => false
  | .rm => neg && rem != 0
  | .rp => !neg && rem != 0

/-- The magnitude m × 2^e as a multiple of 2^q, and whether that changed it. -/
def roundAt (mode : Mode) (neg : Bool) (m : Nat) (e q : Int) : Nat × Bool :=
  if q ≤ e then (m * 2 ^ (e - q).toNat, false)
  else
    let d := 2 ^ (q - e).toNat
    let fl := m / d
    (if roundsUp mode neg fl (m % d) d then fl + 1 else fl, m % d != 0)

/-- The number of bits of a magnitude. -/
def bitLen (m : Nat) : Nat := if m = 0 then 0 else Nat.log2 m + 1

/-- The magnitude code of k × 2^q, with an unbounded exponent above. -/
def Fmt.magCode (f : Fmt) (k : Nat) (q : Int) : Nat :=
  if k = 0 then 0
  else
    let s := (f.p : Int) - bitLen k
    let q' := max (q - s) f.qmin
    let k' := if q' ≤ q then k * 2 ^ (q - q').toNat else k / 2 ^ (q' - q).toNat
    if k' < 2 ^ f.frac then k' else (q' + f.frac + f.bias).toNat * 2 ^ f.frac + (k' - 2 ^ f.frac)

/-- A code with a sign. -/
def Fmt.signed (f : Fmt) (neg : Bool) (mag : Nat) : Nat := if neg then f.signBit + mag else mag

/-- The result of an overflow (R261). -/
def Fmt.overflow (f : Fmt) (neg sat : Bool) (mode : Mode) : Nat :=
  let toInf := match mode with
    | .rne => true
    | .rz => false
    | .rm => neg
    | .rp => !neg
  if sat || !toInf || f.kind = .e2m1 then f.signed neg f.maxCode
  else match f.kind with
    | .ieee => f.signed neg f.infCode
    | _ => f.signed neg 0x7F

/-- RoundTo of (−1)^neg × m × 2^e (R256), with the overflow rule of R261 and the flags of R262. -/
def Fmt.round (f : Fmt) (mode : Mode) (sat : Bool) (neg : Bool) (m : Nat) (e : Int) : Nat × Word :=
  if m = 0 then (f.signed neg 0, 0)
  else
    let q1 := e + bitLen m - f.p
    let r1 := roundAt mode neg m e q1
    let code1 := f.magCode r1.1 q1
    let tiny := decide (r1.1 * 2 ^ (q1 - min q1 (f.qmin)).toNat < 2 ^ f.frac * 2 ^ (f.qmin - min q1 f.qmin).toNat)
    if tiny then
      let r := roundAt mode neg m e f.qmin
      (f.signed neg (f.magCode r.1 f.qmin), if r.2 then flagUF ||| flagNX else 0)
    else if f.maxCode < code1 then (f.overflow neg sat mode, flagOF ||| flagNX)
    else (f.signed neg code1, if r1.2 then flagNX else 0)

/-- A NaN's code in a format: its sign and the high fraction bits that fit, quiet (R258, R260). -/
def Fmt.nanCode (f : Fmt) (neg : Bool) (payload : Nat) : Nat :=
  match f.kind with
  | .ieee => f.signed neg (f.infCode + (payload / 2 ^ (52 - f.frac) ||| 2 ^ (f.frac - 1)))
  | .e4m3 => f.signed neg 0x7F
  | .e2m1 => 0

/-- A value rounded to nearest even into a format; infinities and NaNs as they stand (R256, R258). -/
def Fmt.ofVal (f : Fmt) (v : FVal) : Nat × Word :=
  match v with
  | .nan n p => (f.nanCode n p, 0)
  | .inf n => (f.signed n f.infCode, 0)
  | .num n m e => f.round .rne false n m e

/-! ## Exact sums and products -/

/-- The canonical NaN as a value. -/
def FVal.canon : FVal := .nan false (2 ^ 51)

/-- A NaN quieted (R258). -/
def FVal.quiet (v : FVal) : FVal :=
  match v with
  | .nan n p => .nan n (p ||| 2 ^ 51)
  | v => v

/-- The exact sum of two values and its flags (R257, R258): NaNs propagate, the first operand first. -/
def FVal.add (a b : FVal) : FVal × Word :=
  match a, b with
  | .nan _ _, _ => (a.quiet, snan a ||| snan b)
  | _, .nan _ _ => (b.quiet, snan b)
  | .inf x, .inf y => if x = y then (.inf x, 0) else (.canon, flagNV)
  | .inf x, _ => (.inf x, 0)
  | _, .inf y => (.inf y, 0)
  | .num na ma ea, .num nb mb eb =>
    let e := min ea eb
    let ia : Int := (ma * 2 ^ (ea - e).toNat : Nat)
    let ib : Int := (mb * 2 ^ (eb - e).toNat : Nat)
    let s := (if na then -ia else ia) + (if nb then -ib else ib)
    if s = 0 then (.num (na && nb && ma == 0 && mb == 0) 0 e, 0)
    else (.num (decide (s < 0)) s.natAbs e, 0)

/-- A significand normalised to `p` bits, and the exponent that goes with it (R266): |a| = M × 2^(ea − p + 1). -/
def normalise (p m : Nat) (e : Int) : Nat × Int :=
  let s : Int := (p : Int) - bitLen m
  (if 0 ≤ s then m * 2 ^ s.toNat else m / 2 ^ (-s).toNat, e - s + p - 1)

/-- The sum of the partial products at columns p − 1 and above (R266, class T). -/
def classTSum (p ma mb : Nat) : Nat :=
  (List.range p).foldl (fun acc i =>
    if ma / 2 ^ i % 2 = 1 then acc + mb / 2 ^ (p - 1 - i) * 2 ^ (p - 1 - i) * 2 ^ i else acc) 0

/-- P of R266 for two normalised significands: class 0 E, 1 T, 2 L. -/
def classP (cls p ma mb : Nat) : Nat :=
  match cls with
  | 0 => ma * mb
  | 1 => 2 ^ (p - 2) + classTSum p ma mb
  | _ =>
    let fs := (ma - 2 ^ (p - 1)) + (mb - 2 ^ (p - 1))
    if fs < 2 ^ (p - 1) then 2 ^ (2 * p - 2) + 2 ^ (p - 1) * fs else 2 ^ p * fs

/-- ClassProduct (R266) of two values, with the flags of its special cases (R257, R258). -/
def classProduct (a b : FVal) (cls p : Nat) : FVal × Word :=
  match a, b with
  | .nan _ _, _ => (a.quiet, snan a ||| snan b)
  | _, .nan _ _ => (b.quiet, snan b)
  | .inf x, v => if v.isZero then (.canon, flagNV) else (.inf (x != v.neg), 0)
  | v, .inf y => if v.isZero then (.canon, flagNV) else (.inf (v.neg != y), 0)
  | .num na ma ea, .num nb mb eb =>
    if ma = 0 ∨ mb = 0 then (.num (na != nb) 0 0, 0)
    else
      let A := normalise p ma ea
      let B := normalise p mb eb
      (.num (na != nb) (classP cls p A.1 B.1) (A.2 + B.2 - 2 * p + 2), 0)

/-- A value multiplied exactly by 2^k (BX scales, R255, R266). -/
def FVal.scale (v : FVal) (k : Int) : FVal :=
  match v with
  | .num n m e => .num n m (e + k)
  | v => v

/-- IntClassProduct (R267). -/
def intClassProduct (a b : Int) (cls n : Nat) : Int :=
  if a = 0 ∨ b = 0 then 0
  else
    let ma := a.natAbs % 2 ^ n
    let mb := b.natAbs % 2 ^ n
    let sa := n - bitLen ma
    let sb := n - bitLen mb
    let P := classP cls n (ma * 2 ^ sa) (mb * 2 ^ sb)
    let r := (roundAt .rne false P 0 (sa + sb : Nat)).1
    if (a < 0) != (b < 0) then -(r : Int) else r

/-! ## Dot-product order (R268) -/

/-- One step of a chain: the product added and rounded into `acc`. -/
def chainStep (acc : Fmt) (c : Nat × Word) (p : FVal × Word) : Nat × Word :=
  let s := (acc.decode c.1).add p.1
  let r := acc.ofVal s.1
  (r.1, c.2 ||| p.2 ||| s.2 ||| r.2)

/-- The even and odd chains over the products, `k` the index of the first. -/
def dotChains (acc : Fmt) (k : Nat) (ps : List (FVal × Word)) (even odd : Nat × Word) : (Nat × Word) × (Nat × Word) :=
  match ps with
  | [] => (even, odd)
  | p :: t => if k % 2 = 0 then dotChains acc (k + 1) t (chainStep acc even p) odd
              else dotChains acc (k + 1) t even (chainStep acc odd p)

/-- DotChain (R268). -/
def dotChain (acc : Fmt) (c : Nat) (ps : List (FVal × Word)) : Nat × Word :=
  let r := dotChains acc 0 ps (c, 0) (0, 0)
  chainStep acc r.1 (acc.decode r.2.1, r.2.2)

/-- A result with any NaN replaced by the canonical one (R258, Gauntlet and reducing cache). -/
def Fmt.canonise (f : Fmt) (code : Nat) : Nat := if (f.decode code).isNaN then f.canonNaN else code

/-! ## One-rounding arithmetic on codes -/

/-- `a + b` rounded to nearest even (R352, R161). -/
def Fmt.addCodes (f : Fmt) (a b : Nat) : Nat × Word :=
  let s := (f.decode a).add (f.decode b)
  let r := f.ofVal s.1
  (r.1, s.2 ||| r.2)

/-- `a − b`: b's sign inverted, except that a NaN keeps its own (R258). -/
def Fmt.subCodes (f : Fmt) (a b : Nat) : Nat × Word :=
  let vb := f.decode b
  let s := (f.decode a).add (if vb.isNaN then vb else vb.flip)
  let r := f.ofVal s.1
  (r.1, s.2 ||| r.2)

/-- The class product rounded to nearest even. -/
def Fmt.mulCodes (f : Fmt) (cls : Nat) (a b : Nat) : Nat × Word :=
  let s := classProduct (f.decode a) (f.decode b) cls f.p
  let r := f.ofVal s.1
  (r.1, s.2 ||| r.2)

/-- The class product, negated where asked, plus `c`, rounded once; NaNs in the order A, B, C. -/
def Fmt.fmaCodes (f : Fmt) (cls : Nat) (negate : Bool) (a b c : Nat) : Nat × Word :=
  let s := classProduct (f.decode a) (f.decode b) cls f.p
  let v := if negate && !s.1.isNaN then s.1.flip else s.1
  let t := v.add (f.decode c)
  let r := f.ofVal t.1
  (r.1, s.2 ||| t.2 ||| r.2)

/-- As `fmaCodes` where a NaN operand always wins over the product of 0 and ∞ (R258, R432). -/
def Fmt.fmaNaN (f : Fmt) (cls : Nat) (a b c : Nat) : Nat :=
  if ((f.decode a).isNaN || (f.decode b).isNaN) || !(f.decode c).isNaN then (f.fmaCodes cls false a b c).1
  else (f.ofVal ((f.decode c).add (f.decode c)).1).1

/-! ## Conversions (R260, R261) -/

/-- What an element is read as for a conversion. -/
inductive Elem where
  | fl (f : Fmt)
  | int (w : Nat) (signed : Bool)
  | ts8
  deriving DecidableEq, Repr

/-- The weight of a TS8 byte in units of 2^−6, and whether a term holds the reserved code (R254). -/
def ts8Term (t : Nat) : Int × Bool :=
  if t = 7 then (0, false)
  else if t = 15 then (0, true)
  else if t < 7 then ((2 ^ (6 - t) : Nat), false)
  else (-((2 ^ (14 - t) : Nat) : Int), false)

def ts8Weight (b : Nat) : Int × Bool :=
  let lo := ts8Term (b % 16)
  let hi := ts8Term (b / 16 % 16)
  (lo.1 + hi.1, lo.2 || hi.2)

/-- The value of a TS8 byte (R254). -/
def ts8Val (b : Nat) : FVal × Word :=
  let w := ts8Weight b
  (.num (decide (w.1 < 0)) w.1.natAbs (-6), if w.2 then flagNV else 0)

/-- An infinite source converted (R261). -/
def Fmt.ofInf (f : Fmt) (neg sat : Bool) : Nat × Word :=
  match f.kind with
  | .ieee => (f.signed neg f.infCode, 0)
  | .e4m3 => (f.signed neg (if sat then f.maxCode else 0x7F), flagNV)
  | .e2m1 => (f.signed neg f.maxCode, flagNV)

/-- A floating-point value converted to a floating-point format (R260). -/
def Fmt.convertVal (f : Fmt) (v : FVal) (mode : Mode) (sat : Bool) : Nat × Word :=
  match v with
  | .nan n p => (f.nanCode n p, if f.kind = .e2m1 then flagNV else snan v)
  | .inf n => f.ofInf n sat
  | .num n m e => f.round mode sat n m e

/-- The range of an integer format. -/
def intMin (w : Nat) (signed : Bool) : Int := if signed then -(2 ^ (w - 1) : Nat) else 0
def intMax (w : Nat) (signed : Bool) : Int := if signed then (2 ^ (w - 1) : Nat) - 1 else (2 ^ w : Nat) - 1

/-- A value converted to an integer of `w` bits (R260). -/
def toIntCode (w : Nat) (signed : Bool) (v : FVal) (mode : Mode) : Nat × Word :=
  match v with
  | .nan _ _ => (0, flagNV)
  | .inf n => (ofInt w (if n then intMin w signed else intMax w signed), flagNV)
  | .num n m e =>
    let r := roundAt mode n m e 0
    let x : Int := if n then -(r.1 : Int) else r.1
    if x < intMin w signed then (ofInt w (intMin w signed), flagNV)
    else if intMax w signed < x then (ofInt w (intMax w signed), flagNV)
    else (ofInt w x, if r.2 then flagNX else 0)

/-- An integer as a value. -/
def intVal (x : Int) : FVal := .num (decide (x < 0)) x.natAbs 0

/-- Convert (R260, R261) of one element's code. -/
def convert (x : Nat) (src dst : Elem) (mode : Mode) (sat : Bool) : Nat × Word :=
  match src, dst with
  | .fl f, .fl g => g.convertVal (f.decode x) mode sat
  | .fl f, .int w s => toIntCode w s (f.decode x) mode
  | .int w s, .fl g => g.convertVal (intVal (if s then toSigned w x else ((x % 2 ^ w : Nat) : Int))) mode sat
  | .int w s, .int w' s' =>
    let v : Int := if s then toSigned w x else ((x % 2 ^ w : Nat) : Int)
    (ofInt w' (if sat then (if v < intMin w' s' then intMin w' s' else if intMax w' s' < v then intMax w' s' else v) else v), 0)
  | .ts8, .fl g =>
    let v := ts8Val x
    let r := g.convertVal v.1 mode sat
    (r.1, v.2 ||| r.2)
  | .ts8, .int w s =>
    let v := ts8Val x
    let r := toIntCode w s v.1 mode
    (r.1, v.2 ||| r.2)
  | _, .ts8 => (0, 0)

/-- The element that a tag's code is, signed integers as the tag has them (R133, R260). -/
def elemOfTag (t : Tag) : Option Elem :=
  match t.toNat with
  | 1 => some (.int 64 true)
  | 2 => some (.int 32 true)
  | 3 => some (.int 16 true)
  | 4 => some (.int 8 true)
  | 5 => some (.int 4 true)
  | 13 => some .ts8
  | _ => (fmtOf t).map .fl

end Sys2Proof.Machine
end

