-- ==== Sys2Proof/Machine/IntegerOps.lean ====
section
/-! DEFINITION. What the integer instructions compute (R326 to R339), as functions of their sources. -/

namespace Sys2Proof.Machine

open Sys2Proof

/-! ## Tag checks (R326) -/

/-- Integer tags I64 to I4X16. -/
def isIntTag (t : Tag) : Bool := decide (1 ≤ t.toNat) && decide (t.toNat ≤ 5)

/-- The first operand that an accepting test refuses or whose tag differs from the first's. -/
def sameTags (ok : Tag → Bool) (tags : List Tag) : Except Nat Tag :=
  match tags with
  | [] => .ok 0
  | t :: rest =>
    if !ok t then .error 0
    else match rest.findIdx? (fun u => u != t) with
      | some i => .error (i + 1)
      | none => .ok t

/-- Any tag but the reserved one. -/
def anyTag (t : Tag) : Bool := t.toNat != 15

/-- An immediate standing in every element of a tag (R297). -/
def immSplat (t : Tag) (v : Word) : Word := splat (tagWidth t) v.toNat

/-- An elementwise integer operation of one source. -/
def alu1 (g : Nat → Nat → Nat) : Alu :=
  { arity := 1, check := sameTags isIntTag, immVal := immSplat, slow := fun _ => false
    eval := fun t _ vs => (mapElems (tagWidth t) (g (tagWidth t)) (vs.getD 0 0), 0) }

/-- An elementwise integer operation of two sources. -/
def alu2 (g : Nat → Nat → Nat → Nat) : Alu :=
  { arity := 2, check := sameTags isIntTag, immVal := immSplat, slow := fun _ => false
    eval := fun t _ vs => (zipElems (tagWidth t) (g (tagWidth t)) (vs.getD 0 0) (vs.getD 1 0), 0) }

/-! ## Add family (R329) -/

def aluAdd : Alu := alu2 (fun w a b => (a + b) % 2 ^ w)
def aluSub : Alu := alu2 (fun w a b => (a + 2 ^ w - b) % 2 ^ w)

/-- A number limited to an element's range (R329). -/
def clampInt (w : Nat) (signed : Bool) (x : Int) : Nat :=
  ofInt w (if x < intMin w signed then intMin w signed else if intMax w signed < x then intMax w signed else x)

/-- An element as the signedness reads it. -/
def elemInt (w : Nat) (signed : Bool) (x : Nat) : Int := if signed then toSigned w x else ((x % 2 ^ w : Nat) : Int)

def aluAdds (signed : Bool) : Alu := alu2 (fun w a b => clampInt w signed (elemInt w signed a + elemInt w signed b))
def aluSubs (signed : Bool) : Alu := alu2 (fun w a b => clampInt w signed (elemInt w signed a - elemInt w signed b))
def aluNeg : Alu := alu1 (fun w a => (2 ^ w - a) % 2 ^ w)
def aluAbs : Alu := alu1 (fun w a => if toSigned w a < 0 then (2 ^ w - a) % 2 ^ w else a)

/-- The sum of `addc`, or the difference of `subc`, and its carry (R329). -/
def addCarry (a b : Word) (c : Bool) : Word × Bool :=
  (BitVec.ofNat 64 (a.toNat + b.toNat + (if c then 1 else 0)), decide (2 ^ 64 ≤ a.toNat + b.toNat + (if c then 1 else 0)))
def subCarry (a b : Word) (c : Bool) : Word × Bool :=
  (BitVec.ofNat 64 (a.toNat + 2 ^ 64 + 2 ^ 64 - b.toNat - (if c then 1 else 0)),
   decide (a.toNat < b.toNat + (if c then 1 else 0)))

/-! ## Multiply family (R330, R331) -/

def aluMul : Alu :=
  { alu2 (fun w a b => a * b % 2 ^ w) with slow := fun t => t == 1 }

def aluMulh (signed : Bool) (cls : Nat) : Alu :=
  { alu2 (fun w a b => ofInt (2 * w) (intClassProduct (elemInt w signed a) (elemInt w signed b) cls w) / 2 ^ w)
    with slow := fun t => t == 1 }

def aluMad : Alu :=
  { arity := 3, check := sameTags isIntTag, immVal := immSplat, slow := fun t => t == 1
    eval := fun t _ vs => (zip3Elems (tagWidth t) (fun a b c => (a * b + c) % 2 ^ tagWidth t) (vs.getD 0 0) (vs.getD 1 0) (vs.getD 2 0), 0) }

/-- Tags of `idot`: A and B equal, I16X4 to I4X16, the addend I32X2. -/
def idotCheck (tags : List Tag) : Except Nat Tag :=
  let a := tags.getD 0 0
  if !(decide (3 ≤ a.toNat) && decide (a.toNat ≤ 5)) then .error 0
  else if tags.getD 1 0 != a then .error 1
  else if tags.getD 2 0 != 2 then .error 2
  else .ok 2

/-- One half of an integer dot product (R330). -/
def idotHalf (signed : Bool) (cls w : Nat) (a b : Word) (h : Nat) : Int :=
  ((upFrom (h * (64 / w / 2)) (64 / w / 2)).map (fun j =>
    intClassProduct (elemInt w signed (elemAt w a j)) (elemInt w signed (elemAt w b j)) cls w)).foldl (· + ·) 0

def aluIdot (signed : Bool) (cls : Nat) : Alu :=
  { arity := 3, check := idotCheck, immVal := immSplat, slow := fun _ => false
    eval := fun _ tags vs =>
      let w := tagWidth (tags.getD 0 0)
      (ofElems 32 ((List.range 2).map (fun h =>
        ofInt 32 ((elemAt 32 (vs.getD 2 0) h : Nat) + idotHalf signed cls w (vs.getD 0 0) (vs.getD 1 0) h))), 0) }

/-- One round of the counter hash (R331). -/
def rndRound (x : Word) : Word := (x ^^^ (x >>> 31)) * 0x9E3779B97F4A7C15

/-- The Vyhus counter hash (R331). -/
def counterHash (a b : Word) : Word :=
  let x := rndRound (rndRound (rndRound (a ^^^ b)))
  x ^^^ (x >>> 29)

def isI64 (t : Tag) : Bool := t == 1

def aluRnd : Alu :=
  { arity := 2, check := sameTags isI64, immVal := fun _ v => v, slow := fun _ => true
    eval := fun _ _ vs => (counterHash (vs.getD 0 0) (vs.getD 1 0), 0) }

/-! ## Selection and address arithmetic (R332) -/

def aluMin (signed : Bool) : Alu := alu2 (fun w a b => if elemInt w signed b < elemInt w signed a then b else a)
def aluMax (signed : Bool) : Alu := alu2 (fun w a b => if elemInt w signed a < elemInt w signed b then b else a)

/-- `mov`: the source with its tag (R134, R332). -/
def aluMov : Alu :=
  { arity := 1, check := fun tags => .ok (tags.getD 0 0), immVal := fun _ v => v, slow := fun _ => false
    eval := fun _ _ vs => (vs.getD 0 0, 0) }

def aluLea (scale : Nat) : Alu :=
  { arity := 2, check := sameTags isI64, immVal := fun _ v => v, slow := fun _ => false
    eval := fun _ _ vs => (vs.getD 0 0 + vs.getD 1 0 * BitVec.ofNat 64 (2 ^ scale), 0) }

/-! ## Comparison (R333) -/

/-- The relation of a function code: 0 eq, 1 ne, 2 lt, 3 le, 4 gt, 5 ge. -/
def relInt (f : Nat) (a b : Int) : Bool :=
  match f with
  | 0 => decide (a = b)
  | 1 => decide (a ≠ b)
  | 2 => decide (a < b)
  | 3 => decide (a ≤ b)
  | 4 => decide (b < a)
  | _ => decide (b ≤ a)

def predCmp (f : Nat) (signed : Bool) : Pred :=
  { arity := 2, immVal := immSplat
    check := fun tags => match sameTags isIntTag tags with | .ok _ => .ok () | .error e => .error e
    eval := fun tags vs =>
      let w := tagWidth (tags.getD 0 0)
      ((List.range (64 / w)).all (fun j =>
        relInt f (elemInt w signed (elemAt w (vs.getD 0 0) j)) (elemInt w signed (elemAt w (vs.getD 1 0) j))), 0) }

/-! ## Logic, shifts, counts, bit fields, permutation (R334 to R338) -/

/-- The tag shared by the sources, otherwise RAW (R134). -/
def logicTag (tags : List Tag) : Except Nat Tag :=
  match tags with
  | [] => .ok 0
  | t :: rest =>
    if t.toNat = 15 then .error 0
    else match rest.findIdx? (fun u => u.toNat == 15) with
      | some i => .error (i + 1)
      | none => if rest.all (· == t) then .ok t else .ok 0

/-- An immediate of a logic instruction: in every element of A's width; only the low bits for RAW and BX (R334). -/
def aluLogic (g : Word → Word → Word) : Alu :=
  { arity := 2, check := logicTag, immVal := immSplat, slow := fun _ => false
    eval := fun _ _ vs => (g (vs.getD 0 0) (vs.getD 1 0), 0) }

def aluAnd : Alu := aluLogic (· &&& ·)
def aluOr : Alu := aluLogic (· ||| ·)
def aluXor : Alu := aluLogic (· ^^^ ·)
def aluAndn : Alu := aluLogic (fun a b => a &&& ~~~b)
def aluNot : Alu :=
  { arity := 1, check := logicTag, immVal := immSplat, slow := fun _ => false, eval := fun _ _ vs => (~~~(vs.getD 0 0), 0) }

def aluShl : Alu := alu2 (fun w a b => a * 2 ^ (b % w) % 2 ^ w)
def aluShr : Alu := alu2 (fun w a b => a / 2 ^ (b % w))
def aluSar : Alu := alu2 (fun w a b => ofInt w (toSigned w a / (2 ^ (b % w) : Nat)))
def aluRol : Alu := alu2 (fun w a b => (a * 2 ^ (b % w) + a / 2 ^ (w - b % w)) % 2 ^ w)

/-- Trailing zero bits of an element, `w` when it is zero. -/
def trailingZeros (w a : Nat) : Nat :=
  match (List.range w).find? (fun i => a / 2 ^ i % 2 == 1) with
  | some i => i
  | none => w

def popCount (w a : Nat) : Nat := ((List.range w).filter (fun i => a / 2 ^ i % 2 == 1)).length

def reverseBits (w a : Nat) : Nat := (List.range w).foldl (fun acc i => acc + a / 2 ^ i % 2 * 2 ^ (w - 1 - i)) 0

/-- Counts are written in their element; an I4X16 count is at most 4 and fits. -/
def aluClz : Alu := alu1 (fun w a => w - bitLen a)
def aluCtz : Alu := alu1 trailingZeros
def aluPopc : Alu := alu1 popCount
def aluBrev : Alu := alu1 reverseBits

def isBitField (t : Tag) : Bool := t.toNat == 1 || t.toNat == 2

/-- Position and length of a bit field of width-`w` elements from its control value (R337). -/
def bitField (w : Nat) (imm : Bool) (c : Nat) : Nat × Nat :=
  (c % 128, if w ≤ c % 128 then 0 else if imm then w - c % 128 else min (c / 256 % 128) (w - c % 128))

def aluBfe (signed imm : Bool) : Alu :=
  { alu2 (fun w a b =>
      let p := bitField w imm b
      if p.2 = 0 then 0
      else
        let v := a / 2 ^ p.1 % 2 ^ p.2
        if signed then ofInt w (toSigned p.2 v) else v)
    with check := sameTags isBitField }

def aluBfi (imm : Bool) : Alu :=
  { arity := 3, check := sameTags isBitField, immVal := immSplat, slow := fun _ => false
    eval := fun t _ vs => (zip3Elems (tagWidth t) (fun a b target =>
      let p := bitField (tagWidth t) imm b
      if p.2 = 0 then target
      else target - target / 2 ^ p.1 % 2 ^ p.2 * 2 ^ p.1 + a % 2 ^ p.2 * 2 ^ p.1) (vs.getD 0 0) (vs.getD 1 0) (vs.getD 2 0), 0) }

/-- The bytes that a permutation picks (R338). -/
def permute (a b third : Word) : Word :=
  ofElems 8 ((List.range 8).map (fun i =>
    let sel := elemAt 8 b i
    if 128 ≤ sel then 0
    else if sel % 16 < 8 then elemAt 8 a (sel % 16) else elemAt 8 third (sel % 16 - 8)))

/-- `perm`: any tags; the tag shared by A and the third operand, otherwise RAW (R326). -/
def aluPerm : Alu :=
  { arity := 3, immVal := fun _ v => splat 8 v.toNat, slow := fun _ => false
    check := fun tags =>
      match tags.findIdx? (fun u => u.toNat == 15) with
      | some i => .error i
      | none => if tags.getD 0 0 = tags.getD 2 0 then .ok (tags.getD 0 0) else .ok 0
    eval := fun _ _ vs => (permute (vs.getD 0 0) (vs.getD 1 0) (vs.getD 2 0), 0) }

/-! ## Constants (R339) -/

/-- `movi`: the sign-extended immediate, or with H the immediate in bits [63:32] over D's low half. -/
def aluMovi (t : Tag) (h : Bool) (imm : Word) : Alu :=
  { arity := 0, immVal := fun _ v => v, slow := fun _ => false
    check := fun _ => .ok t
    eval := fun _ _ vs => (if h then imm <<< 32 ||| (vs.getD 0 0 &&& 0xFFFFFFFF) else imm, 0) }

/-! ## Reductions (R365) -/

/-- One step of an integer reduction: 0 add, 1 min, 2 max, 3 and, 4 or, 5 xor. -/
def redInt (op w : Nat) (signed : Bool) (a b : Nat) : Nat :=
  match op with
  | 0 => (a + b) % 2 ^ w
  | 1 => if elemInt w signed b < elemInt w signed a then b else a
  | 2 => if elemInt w signed a < elemInt w signed b then b else a
  | 3 => a &&& b
  | 4 => a ||| b
  | _ => a ^^^ b

end Sys2Proof.Machine
end

