-- ==== Sys2Proof/Machine/Special.lean ====
section
/-! DEFINITION. The special functions (R269 to R271). Class E is correctly rounded: each function is evaluated to
`fixBits` fraction bits from below, with the last bit made odd when the value is not reached exactly, and rounded once. -/

namespace Sys2Proof.Machine

open Sys2Proof

/-- Fraction bits of the fixed-point evaluations. -/
def fixBits : Nat := 640

/-- One in fixed point. -/
def fixOne : Nat := 2 ^ fixBits

/-- The integer square root, by bits from `2^fuel` down. -/
def isqrtAux (n : Nat) (fuel r : Nat) : Nat :=
  match fuel with
  | 0 => r
  | fuel + 1 => if (r + 2 ^ fuel) * (r + 2 ^ fuel) ≤ n then isqrtAux n fuel (r + 2 ^ fuel) else isqrtAux n fuel r

def isqrt (n : Nat) : Nat := isqrtAux n (bitLen n / 2 + 1) 0

/-- A magnitude with an odd last bit standing for a tail that is not reached. -/
def sticky (m : Nat) (exact : Bool) : Nat := if exact then 2 * m else 2 * m + 1

/-- 2^f from below for a fraction `f` in fixed point, bit by bit: each bit multiplies by a repeated square root of 2. -/
def exp2Aux (f : Nat) (fuel bit root acc : Nat) : Nat :=
  match fuel with
  | 0 => acc
  | fuel + 1 =>
    let root' := isqrt (root * fixOne)
    exp2Aux f fuel (bit - 1) root' (if f / 2 ^ (bit - 1) % 2 = 1 then acc * root' / fixOne else acc)

def exp2Frac (f : Nat) : Nat := exp2Aux f 260 fixBits (2 * fixOne) fixOne

/-- The bits of log2 of `y` (from 1 up to 2, in fixed point), by squaring. -/
def log2Aux (y fuel acc : Nat) : Nat :=
  match fuel with
  | 0 => acc
  | fuel + 1 =>
    let z := y * y / fixOne
    if 2 * fixOne ≤ z then log2Aux (z / 2) fuel (2 * acc + 1) else log2Aux z fuel (2 * acc)

/-- Fraction bits that `log2` is taken to. -/
def logBits : Nat := 192

/-- A Taylor sum Σ ± term_k with term_(k+1) = term_k · x2 / d_k, alternating in sign; `d` counts up by two. -/
def alternating (x2 : Nat) (fuel d term acc : Nat) (plus : Bool) : Nat :=
  match fuel with
  | 0 => acc
  | fuel + 1 =>
    let acc' := if plus then acc + term else acc - term
    alternating x2 fuel (d + 2) (term * x2 / fixOne / (d * (d + 1))) acc' (!plus)

/-- arctan (1/n) in fixed point. -/
def arctanInv (n : Nat) (fuel k pow acc : Nat) (plus : Bool) : Nat :=
  match fuel with
  | 0 => acc
  | fuel + 1 =>
    arctanInv n fuel (k + 2) (pow / (n * n)) (if plus then acc + pow / k else acc - pow / k) (!plus)

/-- π in fixed point, by Machin's formula. -/
def fixPi : Nat := 16 * arctanInv 5 150 1 (fixOne / 5) 0 true - 4 * arctanInv 239 60 1 (fixOne / 239) 0 true

/-- sin and cos of π·r for r in fixed point, at most 1/2. -/
def sinPiFix (r : Nat) : Nat :=
  let x := fixPi * r / fixOne
  alternating (x * x / fixOne) 80 2 x 0 true

def cosPiFix (r : Nat) : Nat :=
  let x := fixPi * r / fixOne
  alternating (x * x / fixOne) 80 1 fixOne 0 true

/-- e^x in fixed point for x below 2^−8, by its series. -/
def expSeries (x : Nat) (fuel k term acc : Nat) : Nat :=
  match fuel with
  | 0 => acc
  | fuel + 1 => expSeries x fuel (k + 1) (term * x / fixOne / k) (acc + term)

/-- A value squared `n` times. -/
def squareTimes (y : Nat) (n : Nat) : Nat :=
  match n with
  | 0 => y
  | n + 1 => squareTimes (y * y / fixOne) n

/-- e^x in fixed point, for x below 2^8: the series of x / 2^16, squared sixteen times. -/
def expFix (x : Nat) : Nat := squareTimes (expSeries (x / 2 ^ 16) 60 1 fixOne 0) 16

/-- m × 2^e in fixed point, from below. -/
def toFix (m : Nat) (e : Int) : Nat :=
  if 0 ≤ e + fixBits then m * 2 ^ (e + fixBits).toNat else m / 2 ^ (-(e + fixBits)).toNat

/-- A fixed-point value that is not exact, rounded into a format. -/
def Fmt.ofFix (f : Fmt) (neg : Bool) (v : Nat) (exact : Bool) : Nat × Word :=
  f.round .rne false neg (sticky v exact) (-(fixBits : Int) - 1)

/-- Floor of m × 2^e for either sign, and the fraction above it in fixed point with whether that is exact. -/
def floorFrac (neg : Bool) (m : Nat) (e : Int) : Int × Nat × Bool :=
  if 0 ≤ e then ((if neg then -((m * 2 ^ e.toNat : Nat) : Int) else ((m * 2 ^ e.toNat : Nat) : Int)), 0, true)
  else
    let d := 2 ^ (-e).toNat
    let fl : Int := if neg then -(((m + d - 1) / d : Nat) : Int) else ((m / d : Nat) : Int)
    let rem : Nat := if neg then ((m + d - 1) / d) * d - m else m % d
    (fl, rem * fixOne / d, rem * fixOne % d == 0)

/-- 2^(n + v) rounded, with v in fixed point from 1 up; a huge exponent overflows or underflows. -/
def Fmt.ofExp (f : Fmt) (n : Int) (v : Nat) (exact : Bool) : Nat × Word :=
  let n' : Int := if n < -4096 then -4096 else if 4096 < n then 4096 else n
  f.round .rne false false (sticky v exact) (n' - fixBits - 1)

/-- Whether m × 2^e is an integer. -/
def isInteger (m : Nat) (e : Int) : Bool := decide (0 ≤ e) || m % 2 ^ (-e).toNat == 0

/-- m × 2^e modulo 2, as a multiple of 1/4·2^−… in fixed point (exact for the formats that reach here). -/
def mod2Fix (m : Nat) (e : Int) : Nat :=
  if 1 ≤ e then 0
  else if 0 ≤ e + fixBits then m * 2 ^ (e + fixBits).toNat % (2 * fixOne) else m / 2 ^ (-(e + fixBits)).toNat

/-- sin(π·r) for r in fixed point below 2: whether negative, and the magnitude. -/
def sinPiMod (r : Nat) : Bool × Nat :=
  let h := if fixOne ≤ r then r - fixOne else r
  let g := if fixOne < 2 * h then fixOne - h else h
  (decide (fixOne ≤ r), if fixOne < 4 * g then cosPiFix (fixOne / 2 - g) else sinPiFix g)

/-- The class E value of a special function at a finite, non-special operand (R269). -/
def Fmt.specialE (f : Fmt) (fn : Nat) (neg : Bool) (m : Nat) (e : Int) : Nat × Word :=
  match fn with
  | 0 => -- rcp
    let q := 2 ^ (fixBits + bitLen m) / m
    f.round .rne false neg (sticky q (2 ^ (fixBits + bitLen m) % m == 0)) (-e - fixBits - bitLen m - 1)
  | 1 => -- rsq
    let s : Int := fixBits * 2 + bitLen m + ((e + bitLen m) % 2)
    let n := 2 ^ s.toNat / m
    let r := isqrt n
    f.round .rne false false (sticky r (r * r * m == 2 ^ s.toNat)) ((-e - s) / 2 - 1)
  | 2 => -- sqrt
    let e2 := e - 2 * fixBits - (e % 2)
    let n := m * 2 ^ (e - e2).toNat
    let r := isqrt n
    f.round .rne false false (sticky r (r * r == n)) (e2 / 2 - 1)
  | 3 => -- exp2
    let y := floorFrac neg m e
    if y.2.1 = 0 ∧ y.2.2 then f.ofExp y.1 fixOne true else f.ofExp y.1 (exp2Frac y.2.1) false
  | 4 => -- log2
    let n : Int := e + bitLen m - 1
    let fr := m * 2 ^ fixBits / 2 ^ (bitLen m - 1)
    if fr = fixOne then f.round .rne false (decide (n < 0)) n.natAbs 0
    else
      let l : Int := n * (2 ^ logBits : Nat) + (log2Aux fr logBits 0 : Nat)
      -- the value lies strictly above l × 2^−logBits; below zero its magnitude lies strictly below |l|
      if 0 ≤ l then f.round .rne false false (sticky l.natAbs false) (-(logBits : Int) - 1)
      else f.round .rne false true (sticky (l.natAbs - 1) false) (-(logBits : Int) - 1)
  | 5 => -- sinpi
    let r := sinPiMod (mod2Fix m e)
    if 2 * mod2Fix m e = fixOne ∨ 2 * mod2Fix m e = 3 * fixOne then f.round .rne false (r.1 != neg) 1 0
    else f.ofFix (r.1 != neg) r.2 false
  | 6 => -- cospi
    let x := mod2Fix m e
    let y := if 3 * fixOne ≤ 2 * x then x + fixOne / 2 - 2 * fixOne else x + fixOne / 2
    let r := sinPiMod y
    if x = 0 ∧ isInteger m e then f.round .rne false false 1 0
    else if x = fixOne then f.round .rne false true 1 0
    else if bitLen x < fixBits - 300 then f.ofFix false (fixOne - 1) false
    else f.ofFix r.1 r.2 false
  | _ => -- tanh
    if 6 < e + bitLen m then f.ofFix neg (fixOne - 1) false
    else
      let E := expFix (toFix m (e + 1))
      f.ofFix neg ((E - fixOne) * fixOne / (E + fixOne)) false

/-- Log2L (R270) of 2^n × (1 + fr/2^k) as a numerator over 2^k: n × 2^k + fr. -/
def log2L (m : Nat) (e : Int) : Int × Nat :=
  let k := bitLen m - 1
  ((e + k) * (2 ^ k : Nat) + ((m - 2 ^ k : Nat) : Int), k)

/-- Exp2L (R270) of num / 2^k, rounded into a format. -/
def Fmt.exp2L (f : Fmt) (neg : Bool) (num : Int) (k : Nat) : Nat × Word :=
  let n := num / (2 ^ k : Nat)
  let n' : Int := if n < -4096 then -4096 else if 4096 < n then 4096 else n
  f.round .rne false neg (2 ^ k + (num % (2 ^ k : Nat)).toNat) (n' - k)

/-- The class L value of a special function at a finite, non-special operand (R270). -/
def Fmt.specialL (f : Fmt) (fn : Nat) (neg : Bool) (m : Nat) (e : Int) : Nat × Word :=
  let l := log2L m e
  match fn with
  | 0 => f.exp2L neg (-l.1) l.2
  | 1 => f.exp2L false (-l.1) (l.2 + 1)
  | 2 => f.exp2L false l.1 (l.2 + 1)
  | 3 =>
    if 16 < e + bitLen m then f.exp2L false (if neg then -100000 else 100000) 0
    else if 0 ≤ e then f.exp2L false (if neg then -((m * 2 ^ e.toNat : Nat) : Int) else ((m * 2 ^ e.toNat : Nat) : Int)) 0
    else f.exp2L false (if neg then -(m : Int) else (m : Int)) (-e).toNat
  | 4 => f.round .rne false (decide (l.1 < 0)) l.1.natAbs (-(l.2 : Int))
  | _ => f.specialE fn neg m e

/-- The class E exponent of a base far from zero overflows or underflows without evaluation. -/
def Fmt.exp2E (f : Fmt) (neg : Bool) (m : Nat) (e : Int) : Nat × Word :=
  if 16 < e + bitLen m then f.ofExp (if neg then -4096 else 4096) fixOne false else f.specialE 3 neg m e

/-- A special function of one element (R269 to R271): fn 0 rcp, 1 rsq, 2 sqrt, 3 exp2, 4 log2, 5 sinpi, 6 cospi,
7 tanh; class 0 E, 2 L. -/
def Fmt.special (f : Fmt) (fn cls : Nat) (code : Nat) : Nat × Word :=
  let one := (f.round .rne false false 1 0).1
  match f.decode code with
  | .nan n p => (f.nanCode n (p ||| 2 ^ 51), snan (.nan n p))
  | .inf neg =>
    match fn with
    | 0 => (f.signed neg 0, 0)
    | 1 => if neg then (f.canonNaN, flagNV) else (0, 0)
    | 2 => if neg then (f.canonNaN, flagNV) else (f.infCode, 0)
    | 3 => if neg then (0, 0) else (f.infCode, 0)
    | 4 => if neg then (f.canonNaN, flagNV) else (f.infCode, 0)
    | 7 => (f.signed neg one, 0)
    | _ => (f.canonNaN, flagNV)
  | .num neg m e =>
    if m = 0 then
      match fn with
      | 0 => (f.signed neg f.infCode, flagDZ)
      | 1 => (f.signed neg f.infCode, flagDZ)
      | 2 => (f.signed neg 0, 0)
      | 3 => (one, 0)
      | 4 => (f.signed true f.infCode, flagDZ)
      | 6 => (one, 0)
      | _ => (f.signed neg 0, 0)
    else if neg && (fn == 1 || fn == 2 || fn == 4) then (f.canonNaN, flagNV)
    else if fn == 4 && code == one then (0, 0)
    else if fn == 5 && isInteger m e then (f.signed neg 0, 0)
    else if fn == 6 && !isInteger m e && isInteger m (e + 1) then (0, 0)
    else if cls = 2 then f.specialL fn neg m e
    else if fn = 3 then f.exp2E neg m e
    else f.specialE fn neg m e

end Sys2Proof.Machine
end

