-- ==== Sys2Proof/Machine/FloatOps.lean ====
section
/-! DEFINITION. What the floating-point instructions compute (R349 to R360), as functions of their sources. -/

namespace Sys2Proof.Machine

open Sys2Proof

/-! ## Tags and immediates (R350, R351) -/

/-- F64, F32X2, F16X4, BF16X4. -/
def isFpTag (t : Tag) : Bool := decide (6 ≤ t.toNat) && decide (t.toNat ≤ 9)
/-- F32X2, F16X4, BF16X4. -/
def isPackedFp (t : Tag) : Bool := decide (7 ≤ t.toNat) && decide (t.toNat ≤ 9)
/-- The tags of `pack` (R350). -/
def isPackTag (t : Tag) : Bool :=
  (decide (7 ≤ t.toNat) && decide (t.toNat ≤ 12)) || (decide (2 ≤ t.toNat) && decide (t.toNat ≤ 5))
/-- The tags of `swz` (R350). -/
def isSwzTag (t : Tag) : Bool := isPackedFp t || t.toNat == 2 || t.toNat == 3

/-- The format of a tag, FP32 where it has none. -/
def fmtD (t : Tag) : Fmt := (fmtOf t).getD f32

/-- The integer tag of equal element count (R350). -/
def intTagOf (t : Tag) : Tag :=
  match t.toNat with
  | 6 => 1
  | 7 => 2
  | _ => 3

/-- An immediate code of a format standing in every element of a tag (R351). -/
def immFloat (src : Fmt) (t : Tag) (v : Word) : Word :=
  match elemOfTag t with
  | some d => splat (tagWidth t) (convert (v.toNat % 2 ^ src.width) (.fl src) d .rne false).1
  | none => v

/-- A result from elements that carry flags. -/
def ofElemsF (w : Nat) (els : List (Nat × Word)) : Word × Word :=
  (ofElems w (els.map (·.1)), (els.map (·.2)).foldl (· ||| ·) 0)

/-- An elementwise floating-point operation over the sources' elements. -/
def fltEval (g : Fmt → List Nat → Nat × Word) (t : Tag) (vs : List Word) : Word × Word :=
  ofElemsF (tagWidth t) ((List.range (64 / tagWidth t)).map (fun j => g (fmtD t) (vs.map (fun v => elemAt (tagWidth t) v j))))

/-- An elementwise instruction on the arithmetic tags; `imm` is the format of its immediates. -/
def fltAlu (arity : Nat) (imm : Fmt) (g : Fmt → List Nat → Nat × Word) : Alu :=
  { arity := arity, check := sameTags isFpTag, immVal := immFloat imm, slow := fun _ => false
    eval := fun t _ vs => fltEval g t vs }

/-! ## Comparison of values -/

/-- Whether a numeric value is below another; −0 is not below +0. -/
def FVal.lt (a b : FVal) : Bool :=
  match a, b with
  | .inf x, .inf y => x && !y
  | .inf x, .num _ _ _ => x
  | .num _ _ _, .inf y => !y
  | .num na ma ea, .num nb mb eb =>
    let e := Min.min ea eb
    let ia : Int := (ma * 2 ^ (ea - e).toNat : Nat)
    let ib : Int := (mb * 2 ^ (eb - e).toNat : Nat)
    decide ((if na then -ia else ia) < (if nb then -ib else ib))
  | _, _ => false

/-- Whether two numeric values are equal; −0 equals +0. -/
def FVal.eqv (a b : FVal) : Bool := !a.isNaN && !b.isNaN && !a.lt b && !b.lt a

/-- A value below another in the order of `fmin` and `fmax`: −0 lies below +0 (R352). -/
def FVal.below (a b : FVal) : Bool := a.lt b || (a.eqv b && a.neg && !b.neg)

/-- The first NaN of two codes, quieted (R258). -/
def Fmt.nanOf (f : Fmt) (a b : Nat) : Nat × Word :=
  let va := f.decode a
  let vb := f.decode b
  ((f.ofVal (if va.isNaN then va.quiet else vb.quiet)).1, snan va ||| snan vb)

/-- `fmin` and `fmax` of one element (R352). -/
def Fmt.minCodes (f : Fmt) (a b : Nat) : Nat × Word :=
  if (f.decode a).isNaN || (f.decode b).isNaN then f.nanOf a b
  else (if (f.decode b).below (f.decode a) then b else a, 0)
def Fmt.maxCodes (f : Fmt) (a b : Nat) : Nat × Word :=
  if (f.decode a).isNaN || (f.decode b).isNaN then f.nanOf a b
  else (if (f.decode a).below (f.decode b) then b else a, 0)

/-! ## Major 0x30 (R352) -/

def aluFadd (imm : Fmt) : Alu := fltAlu 2 imm (fun f xs => f.addCodes (xs.getD 0 0) (xs.getD 1 0))
def aluFsub (imm : Fmt) : Alu := fltAlu 2 imm (fun f xs => f.subCodes (xs.getD 0 0) (xs.getD 1 0))
def aluFmul (imm : Fmt) (cls : Nat) : Alu := fltAlu 2 imm (fun f xs => f.mulCodes cls (xs.getD 0 0) (xs.getD 1 0))
def aluFma (cls : Nat) (negate : Bool) : Alu :=
  fltAlu 3 bf16 (fun f xs => f.fmaCodes cls negate (xs.getD 0 0) (xs.getD 1 0) (xs.getD 2 0))
def aluFmin (imm : Fmt) : Alu := fltAlu 2 imm (fun f xs => f.minCodes (xs.getD 0 0) (xs.getD 1 0))
def aluFmax (imm : Fmt) : Alu := fltAlu 2 imm (fun f xs => f.maxCodes (xs.getD 0 0) (xs.getD 1 0))

/-- The tags of `fdot` (R354). -/
def fdotCheck (tags : List Tag) : Except Nat Tag :=
  let a := (tags.getD 0 0).toNat
  let b := (tags.getD 1 0).toNat
  if !(decide (8 ≤ a) && decide (a ≤ 13)) then .error 0
  else if a = 13 then (if b = 10 ∨ b = 11 then (if tags.getD 2 0 = 7 then .ok 7 else .error 2) else .error 1)
  else if b ≠ a then .error 1
  else if tags.getD 2 0 = 7 then .ok 7 else .error 2

/-- The product of two elements of a dot product (R354, R254). -/
def dotProduct (ta tb : Tag) (cls : Nat) (x y : Nat) : FVal × Word :=
  if ta = 13 then
    let v := ts8Val x
    let r := classProduct v.1 ((fmtD tb).decode y) 0 16
    (r.1, v.2 ||| r.2)
  else classProduct ((fmtD ta).decode x) ((fmtD tb).decode y) cls (fmtD ta).p

/-- One half of `fdot` (R354). -/
def fdotHalf (ta tb : Tag) (cls : Nat) (a b c : Word) (h : Nat) : Nat × Word :=
  let w := tagWidth ta
  let n := 64 / w / 2
  dotChain f32 (elemAt 32 c h) ((upFrom (h * n) n).map (fun k => dotProduct ta tb cls (elemAt w a k) (elemAt w b k)))

def aluFdot (cls : Nat) : Alu :=
  { arity := 3, check := fdotCheck, immVal := immFloat bf16, slow := fun _ => false
    eval := fun _ tags vs =>
      ofElemsF 32 ((List.range 2).map (fun h => fdotHalf (tags.getD 0 0) (tags.getD 1 0) cls (vs.getD 0 0) (vs.getD 1 0) (vs.getD 2 0) h)) }

/-! ## Major 0x31 (R355, R356) -/

def aluFabs : Alu := fltAlu 1 bf16 (fun f xs => (xs.getD 0 0 % f.signBit, 0))
def aluFneg : Alu := fltAlu 1 bf16 (fun f xs => ((xs.getD 0 0 + f.signBit) % 2 ^ f.width, 0))

/-- The class mask of a code (R355). -/
def Fmt.classMask (f : Fmt) (x : Nat) : Nat :=
  match f.decode x with
  | .nan n p => if (FVal.nan n p).signalling then 1 else 2
  | .inf n => if n then 4 else 512
  | .num n m _ =>
    if m = 0 then (if n then 32 else 64)
    else if m < 2 ^ f.frac then (if n then 16 else 128)
    else (if n then 8 else 256)

def aluFclass : Alu :=
  { arity := 1, immVal := fun _ v => v, slow := fun _ => false
    check := fun tags => match sameTags isFpTag tags with | .ok t => .ok (intTagOf t) | .error e => .error e
    eval := fun _ tags vs =>
      let t := tags.getD 0 0
      (mapElems (tagWidth t) (fmtD t).classMask (vs.getD 0 0), 0) }

/-- Rounding to an integral value in its own format (R355). -/
def Fmt.roundIntegral (f : Fmt) (mode : Mode) (x : Nat) : Nat × Word :=
  match f.decode x with
  | .nan n p => (f.nanCode n p, snan (.nan n p))
  | .inf _ => (x, 0)
  | .num n m e => if 0 ≤ e then (x, 0) else ((f.round .rne false n (roundAt mode n m e 0).1 0).1, 0)

def aluFrnd (mode : Mode) : Alu := fltAlu 1 bf16 (fun f xs => f.roundIntegral mode (xs.getD 0 0))

/-- A scale limited to where every format has overflowed or vanished. -/
def clampScale (k : Int) : Int := if k < -8192 then -8192 else if 8192 < k then 8192 else k

/-- `fscale` of one element (R355). -/
def Fmt.scaleCode (f : Fmt) (x : Nat) (k : Int) : Nat × Word :=
  let v := f.decode x
  if v.isNaN then ((f.ofVal v.quiet).1, snan v) else f.ofVal (v.scale (clampScale k))

/-- The tags of `fscale`: B the integer tag of equal element count, or an immediate (R350, R351). -/
def fscaleCheck (imm : Bool) (tags : List Tag) : Except Nat Tag :=
  let a := tags.getD 0 0
  if !isFpTag a then .error 0
  else if imm || tags.getD 1 0 == intTagOf a then .ok a else .error 1

def aluFscale (imm : Bool) : Alu :=
  { arity := 2, check := fscaleCheck imm, immVal := immSplat, slow := fun _ => false
    eval := fun t _ vs => fltEval (fun f xs => f.scaleCode (xs.getD 0 0) (toSigned f.width (xs.getD 1 0))) t vs }

/-- The elements of A's and B's halves joined (R356). -/
def pairUp (t : Tag) (g : Nat → Nat → Nat × Word) (a b : Word) : Word × Word :=
  let w := tagWidth t
  let m := 64 / w
  let half := fun (x : Word) => (List.range (m / 2)).map (fun j => g (elemAt w x (2 * j)) (elemAt w x (2 * j + 1)))
  ofElemsF w (half a ++ half b)

def aluHadd : Alu :=
  { arity := 2, check := sameTags isPackedFp, immVal := immFloat bf16, slow := fun _ => false
    eval := fun t _ vs => pairUp t (fun x y => (fmtD t).addCodes x y) (vs.getD 0 0) (vs.getD 1 0) }

def aluPack : Alu :=
  { arity := 2, check := sameTags isPackTag, immVal := immFloat bf16, slow := fun _ => false
    eval := fun t _ vs =>
      let w := tagWidth t
      (ofElems w (((List.range (64 / w / 2)).map (elemAt w (vs.getD 0 0))) ++ ((List.range (64 / w / 2)).map (elemAt w (vs.getD 1 0)))), 0) }

/-- `swz` with its 8-bit pattern (R356). -/
def aluSwz (pattern : Nat) : Alu :=
  { arity := 1, check := sameTags isSwzTag, immVal := fun _ v => v, slow := fun _ => false
    eval := fun t _ vs =>
      let w := tagWidth t
      (ofElems w ((List.range (64 / w)).map (fun j =>
        elemAt w (vs.getD 0 0) (if w = 16 then pattern / 4 ^ j % 4 else pattern / 2 ^ j % 2))), 0) }

/-! ## Comparison and special functions (R357 to R359) -/

/-- One element's relation and its invalid flag: 0 eq, 1 ne, 2 lt, 3 le, 4 gt, 5 ge, 6 ord, 7 uno. -/
def relFloat (f : Nat) (a b : FVal) : Bool × Word :=
  let un := a.isNaN || b.isNaN
  match f with
  | 0 => (!un && a.eqv b, snan a ||| snan b)
  | 1 => (un || !a.eqv b, snan a ||| snan b)
  | 2 => (a.lt b, if un then flagNV else 0)
  | 3 => (!un && !b.lt a, if un then flagNV else 0)
  | 4 => (b.lt a, if un then flagNV else 0)
  | 5 => (!un && !a.lt b, if un then flagNV else 0)
  | 6 => (!un, snan a ||| snan b)
  | _ => (un, snan a ||| snan b)

def predFcmp (f : Nat) : Pred :=
  { arity := 2, immVal := immFloat bf16
    check := fun tags => match sameTags isFpTag tags with | .ok _ => .ok () | .error e => .error e
    eval := fun tags vs =>
      let t := tags.getD 0 0
      let w := tagWidth t
      let rs := (List.range (64 / w)).map (fun j =>
        relFloat f ((fmtD t).decode (elemAt w (vs.getD 0 0) j)) ((fmtD t).decode (elemAt w (vs.getD 1 0) j)))
      (rs.all (·.1), (rs.map (·.2)).foldl (· ||| ·) 0) }

def aluSpecial (fn cls : Nat) : Alu :=
  { arity := 1, check := sameTags isPackedFp, immVal := fun _ v => v, slow := fun _ => true
    eval := fun t _ vs => fltEval (fun f xs => f.special fn cls (xs.getD 0 0)) t vs }

/-! ## Conversion (R360) -/

/-- An element of a conversion, with the signedness chosen for integers. -/
def cvtElem (t : Tag) (unsigned : Bool) : Option Elem :=
  match elemOfTag t with
  | some (.int w _) => some (.int w (!unsigned))
  | e => e

/-- Whether a tag can be a conversion's source: not RAW, BX or code 15. -/
def cvtSource (t : Tag) : Bool := decide (1 ≤ t.toNat) && decide (t.toNat ≤ 13)
/-- Whether a tag can be a conversion's target: not RAW, TS8X8, BX or code 15. -/
def cvtTarget (t : Tag) : Bool := decide (1 ≤ t.toNat) && decide (t.toNat ≤ 12)

/-- What the B field of `cvt` means for a source and a target tag. -/
inductive CvtRole where
  | register | zero | offset | unchecked
  deriving DecidableEq, Repr

def cvtRole (src dst : Tag) : CvtRole :=
  if !cvtSource src || !cvtTarget dst then .unchecked
  else if tagWidth dst < tagWidth src then .register
  else if tagWidth dst = tagWidth src then .zero
  else .offset

/-- The elements of a conversion placed in D (R360). -/
def cvtEval (src dst : Tag) (mode : Mode) (sat unsigned : Bool) (off : Nat) (a b : Word) : Word × Word :=
  match cvtElem src unsigned, cvtElem dst unsigned with
  | some es, some ed =>
    let ws := tagWidth src
    let mA := 64 / ws
    let mD := 64 / tagWidth dst
    let conv := fun (x : Nat) => convert x es ed mode sat
    if mA < mD then
      ofElemsF (tagWidth dst) (((List.range mA).map (fun j => conv (elemAt ws a j))) ++ ((List.range mA).map (fun j => conv (elemAt ws b j))))
    else ofElemsF (tagWidth dst) ((List.range mD).map (fun j => conv (elemAt ws a (off + j))))
  | _, _ => (0, 0)

end Sys2Proof.Machine
end

