-- ==== Sys2Proof/Machine/Lifecycle.lean ====
section
/-! DEFINITION. What threads, groups and workgroups do as they meet at barriers, publish, end and free what they hold
(R97, R138 to R142, R178 to R180, R343, R386). -/

namespace Sys2Proof.Machine

open Sys2Proof

/-! ## Listing the parts of a workgroup -/

/-- The listed threads of a workgroup. -/
def State.threadsOf (s : State) (w : Nat) : List ThreadId := (s.threads.map (·.1)).filter (fun t => t.wg == w)

/-- The listed groups of a workgroup. -/
def State.groupsOf (s : State) (w : Nat) : List GroupId := (s.groups.map (·.1)).filter (fun g => g.wg == w)

/-- The threads of a group that have not exited. -/
def State.liveOf (s : State) (g : GroupId) : List ThreadId :=
  (s.threadsOf g.wg).filter (fun t => t.grp == g.grp && (s.thread t).live)

/-- Whether a workgroup stands on a core. -/
def Workgroup.isResident (w : Workgroup) : Bool := match w.status with | .resident => true | _ => false

/-! ## Barriers (R138 to R142) -/

def State.bar (s : State) (w n : Nat) : Barrier := FMap.getD (s.wg w).bars n Barrier.reset

def State.setBar (s : State) (w n : Nat) (b : Barrier) : State := s.setWg w { s.wg w with bars := FMap.set (s.wg w).bars n b }

/-- What the current phase makes visible joined to that of the phases of its parity before it (R142, R247). -/
def BarDone.join (d : BarDone) (b : Barrier) : BarDone := { ops := b.txOps ++ b.helmOps ++ d.ops, flags := d.flags ||| b.helmFlags }

/-- A completed phase (R139). -/
def Barrier.complete (b : Barrier) : Barrier :=
  { b with
    phase := !b.phase
    arrived := 0
    expect := if b.expect < b.pexit then 0 else b.expect - b.pexit
    pexit := 0
    done0 := if b.phase then b.done0 else b.done0.join b
    done1 := if b.phase then b.done1.join b else b.done1
    txOps := []
    helmOps := []
    helmFlags := 0 }

/-- What the completed phases of a parity make visible. -/
def Barrier.done (b : Barrier) (p : Bool) : BarDone := if p then b.done1 else b.done0

/-- Whether a phase completes now (R139). -/
def Barrier.ready (b : Barrier) : Bool := decide (b.expect ≤ b.arrived) && b.tx == 0

/-- What passing a phase of a parity makes visible to a group (R142, R247). -/
def State.passBar (s : State) (g : GroupId) (n : Nat) (p : Bool) : State :=
  let d := (s.bar g.wg n).done p
  (d.ops.foldl (fun t o => t.learn (.operation o) (.group g.wg g.grp)) s).orGroupFlags g d.flags

/-- What passing a phase of a parity makes visible to the Helm (R186). -/
def State.passBarHelm (s : State) (w n : Nat) (p : Bool) : State :=
  let s := ((s.bar w n).done p).ops.foldl (fun t o => t.learn (.operation o) (.helm w)) s
  s.pull .wg (s.placeOf (.helm w) w)

/-- A thread that waits for the phase of a parity passes (R139). -/
def State.releaseLane (s : State) (t : ThreadId) (n : Nat) (p : Bool) : State :=
  if (s.thread t).wait = .barrier n p then
    (s.passBar { wg := t.wg, grp := t.grp } n p).setThread t { s.thread t with wait := .released n }
  else s

/-- Everybody who waits for the old parity passes at the completion (R139). -/
def State.releaseBar (s : State) (w n : Nat) (p : Bool) : State :=
  let t := (s.threadsOf w).foldl (fun (u : State) i => u.releaseLane i n p) s
  if (t.helm w).wait = .barrier n p then
    let u := t.passBarHelm w n p
    u.setHelm w { u.helm w with wait := .released n }
  else t

/-- The phase completes if it is ready: whoever waits for it passes, and nobody has arrived in the next one yet (R139). A barrier
left with EXPECT 0 and TX 0 is ready at every instant; here its phase completes once at each event that reaches it (log entry 62). -/
def State.settleBar (s : State) (w n : Nat) : State :=
  if (s.bar w n).ready then
    let p := (s.bar w n).phase
    let s := s.setBar w n (s.bar w n).complete
    let s := (s.threadsOf w).foldl (fun t i => t.setThread i { t.thread i with arrived := (t.thread i).arrived.filter (· != n) }) s
    (s.setHelm w { s.helm w with arrived := (s.helm w).arrived.filter (· != n) }).releaseBar w n p
  else s

/-- Arrivals at a barrier (R139). -/
def State.arriveBar (s : State) (w n count : Nat) : State :=
  (s.setBar w n { s.bar w n with arrived := (s.bar w n).arrived + BitVec.ofNat 11 count }).settleBar w n

/-- One thread's exit counted on one barrier (R141). -/
def State.exitBar (s : State) (w n : Nat) (hasArrived : Bool) : State :=
  let b := s.bar w n
  if hasArrived then s.setBar w n { b with pexit := b.pexit + 1 }
  else (s.setBar w n { b with expect := if b.expect = 0 then 0 else b.expect - 1 }).settleBar w n

/-- Transaction bytes added to a barrier at issue (R140). -/
def State.addTx (s : State) (w n bytes op : Nat) : State :=
  s.setBar w n { s.bar w n with tx := (s.bar w n).tx + BitVec.ofNat 32 bytes, txOps := op :: (s.bar w n).txOps }

/-- Transaction bytes written (R140). -/
def State.subTx (s : State) (w n bytes : Nat) : State :=
  (s.setBar w n { s.bar w n with tx := (s.bar w n).tx - BitVec.ofNat 32 bytes }).settleBar w n

/-! ## Publishing (R179, R386) -/

/-- Whether a group has side-log entries (R188). -/
def State.hasLogged (s : State) (g : GroupId) : Bool :=
  (s.core (s.coreOf g.wg)).sideLog.any (fun e => e.thread.wg == g.wg && e.thread.grp == g.grp)

/-- Whether a party's writes may be ones that a group publishes: its own, and those of operations and of its Helm that it may have
learned of (R175, R179). An operation that is no longer listed has been learned of by somebody. -/
def State.publishesFor (s : State) (g : GroupId) (p : Party) : Bool :=
  match p with
  | .group w n => w == g.wg && n == g.grp
  | .helm w => w == g.wg
  | .operation o => (match s.ops.find? (fun x => x.id == o) with
    | some x => x.done && x.wg == g.wg
    | none => true)
  | _ => false

/-- Whether a group has fabric writes that nobody has acknowledged (R32). -/
def State.hasFabricWrites (s : State) (g : GroupId) : Bool :=
  s.fabReqs.any (fun r => r.op.isSome && !r.answered && s.publishesFor g r.who)

/-- Whether a pub of a group can complete: its writes have been performed, those over the fabric as their acknowledgement shows
(R32, R179; log entry 44). -/
def State.pubReady (s : State) (g : GroupId) : Bool := !s.hasLogged g && !s.hasFabricWrites g

/-- Where a group stands. -/
def State.groupPlace (s : State) (g : GroupId) : Place := s.placeOf (.group g.wg g.grp) g.wg

/-- A pub of a group performed, for a phase with its pull, or the pull of an acquiring reduction (R180, R182). -/
def State.doPub (s : State) (g : GroupId) (x : Scope) (kind : PubKind) : State :=
  match kind with
  | .pub => s.pub x (s.groupPlace g)
  | .phase => (s.pub x (s.groupPlace g)).pull x (s.groupPlace g)
  | .acquire => s.pull x (s.groupPlace g)

/-- The pubs that a group has issued complete as far as they can, in issue order (R386). -/
def State.settlePubsAux (s : State) (g : GroupId) (l : List (Scope × PubKind)) : State :=
  match l with
  | [] => s.setGroup g { s.group g with pendingPub := [] }
  | (x, k) :: t =>
    if s.pubReady g then (s.doPub g x k).settlePubsAux g t
    else s.setGroup g { s.group g with pendingPub := (x, k) :: t }

def State.settlePubs (s : State) (g : GroupId) : State :=
  match (s.group g).pendingPub with
  | [] => s
  | l => s.settlePubsAux g l

/-- A pub or phase issued: it completes at once, or after the pubs before it and what they wait for (R179, R386). -/
def State.issuePub (s : State) (x : Scope) (kind : PubKind) : State :=
  let g := s.curGroup
  (s.setGroup g { s.group g with pendingPub := (s.group g).pendingPub ++ [(x, kind)] }).settlePubs g

/-- Whether the group's stores and engine issues must wait for a pub (R386). -/
def State.pubPending (s : State) (g : GroupId) : Bool := !(s.group g).pendingPub.isEmpty

/-- Whether the group's loads must wait for a phase, or for an acquiring reduction (R182, R386). -/
def State.phasePending (s : State) (g : GroupId) : Bool := (s.group g).pendingPub.any (fun e => e.2 != .pub)

/-! ## Ends (R97, R141, R143) -/

/-- Whether some record of a workgroup waits in a bin or is held for its next generation (R126, R127). -/
def State.spawnPending (s : State) (w : Nat) : Bool :=
  (s.core (s.coreOf w)).bins.any (fun b => b.recs.any (fun r => r.wg == w)) || s.spawnHeld.any (fun h => h.1 == w) || !(s.wg w).savedBins.isEmpty

/-- Whether an operand capture of a Helm's matrix instructions is still pending (R241). -/
def State.capturePending (s : State) (w : Nat) : Bool :=
  (s.core (s.coreOf w)).latches.any (fun l => l.wg == w && !l.capDone)

/-- Instructions of a Helm that its Gauntlet hands back: their tiles, the operations `mst` owed and the `mat` counter as before, and
the matrix PC at the first of them (R110, R248). -/
def State.handBack (s : State) (w : Nat) (back : List Latch) : State :=
  let c := s.coreOf w
  let owed := back.filterMap (fun l => l.asyncId)
  let s := s.setCore c ((s.core c).handBack back)
  let s := { s with ops := s.ops.filter (fun o => !owed.contains o.id) }
  let h := s.helm w
  s.setHelm w
    { h with
      pc := match back with
        | [] => h.pc
        | l :: _ => l.pc
      ctr := h.ctr.set .mat (h.ctr.get .mat - BitVec.ofNat 6 owed.length)
      acceptWait := none }

/-- Every instruction of a Helm that has not started handed back, and its cached scales dropped (R110, R244, R248). -/
def State.handBackHelm (s : State) (w : Nat) : State :=
  let t := s.handBack w ((s.core (s.coreOf w)).latches.filter (fun l => l.wg == w && !l.executing))
  t.setHelm w { t.helm w with scaleCache := [] }

/-- Records that a workgroup has held for its next generation (R127). -/
def State.heldCount (s : State) (w : Nat) : Nat := (s.spawnHeld.filter (fun h => h.1 == w)).length

/-- Whether every thread of a workgroup has exited or been killed (R97). -/
def State.allEnded (s : State) (w : Nat) : Bool :=
  (s.threadsOf w).all (fun t => !(s.thread t).live) && !s.spawnPending w

/-- The write-back of a region map's dirty bytes with their values now, word by word: global addresses and operations (R155). -/
def State.dirtyWrites (s : State) (w : Nat) (m : RegionMap) : List (Nat × WriteOp) :=
  ((m.dirty.map (fun off => off / 8)).eraseDups).map (fun word =>
    let a := scratchAt w (8 * word)
    (m.gva + (8 * word - m.soff),
      if s.isPoisoned a then .poisoned 8
      else if (upFrom (8 * word) 8).all (fun b => m.dirty.contains b) then .store (s.bytesAt a 8)
      else .masked ((List.range 8).map (fun i => if m.dirty.contains (8 * word + i) then some (s.byteAt (a + i)) else none))))

/-- The dirty bytes of a region map queued to be written back as an operation of a group (R155). -/
def State.queueUnmap (s : State) (w grp : Nat) (lane : Option Nat) (m : RegionMap) (orphan : Bool) : State :=
  { s with
    ops := s.ops ++ [{ id := s.nextId, wg := w, grp := some grp, lane := lane, ctx := s.ctxOf w, die := dieOfCore (s.coreOf w), priv := !orphan && s.curPriv,
                       seq := s.writeSeq, floors := s.floors.length, unseen := [], replayed := [], order := s.nextId,
                       cls := .cpy, kind := .unmap (if m.wb then s.dirtyWrites w m else []), bar := none, tx := 0, lines := []
                       done := false, held := false, orphan := orphan }]
    nextId := s.nextId + 1 }

/-- At the exits of a workgroup the Helm's writes, and those of its finished operations, are published (R186). -/
def State.publishHelm (s : State) (w : Nat) : State :=
  let t := (s.ops.filter (fun o => o.wg == w && o.grp.isNone && o.done)).foldl (fun u o => u.learn (.operation o.id) (.helm w)) s
  t.pub .sys (t.placeOf (.helm w) w)

/-- The workgroup ends: its Helm stops at its quiescent point, its maps are written back, its resources are free, its launch counts it (R97, R155). -/
def State.endWg (s : State) (w : Nat) : State :=
  let x := s.wg w
  let l := s.launch x.launch
  let s := (x.maps.filter (fun m => m.wb && !m.dirty.isEmpty)).foldl (fun t m => t.queueUnmap w 0 none m true) s
  let s := s.handBackHelm w
  let s := if x.killed then s else s.publishHelm w
  let s := s.setHelm w { s.helm w with running := false, trap := none }
  let s := s.setWg w { s.wg w with status := .ended, slots := [], maps := [], share := if l.det then x.share else none }
  s.setLaunch x.launch
    { l with live := l.live - 1, run := l.run + 1, endedWgs := x.lin :: l.endedWgs
             lowestKilled := if x.killed then (match l.lowestKilled with
               | none => some x.lin
               | some k => some (min k x.lin)) else l.lowestKilled }

/-- A workgroup whose threads have all ended, ends. -/
def State.settleWg (s : State) (w : Nat) : State :=
  match (s.wg w).status with
  | .ended => s
  | _ => if s.allEnded w then s.endWg w else s

/-- A Helm's trap taken by a thread that is killed is delivered again to another (R280). -/
def State.releaseTaker (s : State) (t : ThreadId) : State :=
  match (s.helm t.wg).trap with
  | some h => if h.taker = some t then s.setHelm t.wg { s.helm t.wg with trap := some { h with taker := none } } else s
  | none => s

/-- A thread ends (R97, R141, R343): it counts on every barrier of its workgroup unless it was spawned. -/
def State.endThread (s : State) (t : ThreadId) : State :=
  let x := s.thread t
  if !x.live then s else
  let s := s.setThread t
    { x with
      live := false
      park := .running
      wait := .none
      priv := false
      inHandler := false
      trapCause := 0
      trapPc := 0
      trapAddr := 0
      trapInfo := 0 }
  let s := if (s.group { wg := t.wg, grp := t.grp }).spawned then s
    else (List.range (s.launchOf t.wg).barsN).foldl (fun r n => r.exitBar t.wg n (x.arrived.contains n)) s
  s.releaseTaker t

/-- A thread's side-log entries discarded (R97). -/
def State.dropLogged (s : State) (t : ThreadId) : State :=
  let c := s.coreOf t.wg
  s.setCore c { s.core c with sideLog := (s.core c).sideLog.filter (fun e => e.thread != t) }

/-- A thread is killed (R97, R102): its workgroup is a killed workgroup from then on, and what it has staged is discarded. -/
def State.killThread (s : State) (t : ThreadId) : State :=
  if !(s.thread t).live then s else
  let s := (s.dropLogged t).endThread t
  let s := s.setThread t { s.thread t with killed := true }
  let s := { s.setWg t.wg { s.wg t.wg with killed := true } with staged := s.staged.filter (fun e => e.wg != t.wg) }
  s.settleWg t.wg

/-- Every thread of a workgroup is killed; its spawn records and staged entries are discarded (R45, R97, R102). -/
def State.killWg (s : State) (w : Nat) : State :=
  match (s.wg w).status with
  | .ended => s
  | _ =>
    let c := s.coreOf w
    let kept := (s.core c).bins.map (fun (b : SpawnBin) => { b with recs := b.recs.filter (fun r => r.wg != w) })
    let s := s.setCore c { s.core c with bins := kept.filter (fun b => !b.recs.isEmpty) }
    let s := { s with spawnHeld := s.spawnHeld.filter (fun h => h.1 != w), staged := s.staged.filter (fun e => e.wg != w) }
    let s := s.setWg w { s.wg w with killed := true, savedBins := [] }
    let s := (s.threadsOf w).foldl (fun t i => t.killThread i) s
    s.settleWg w

end Sys2Proof.Machine
end

