-- ==== Sys2Proof/Machine/Access.lean ====
section
/-! DEFINITION. One access to memory by anybody: decoding its address (R147, R158), translating it, the faults it
meets, the lines it waits for (R150, R154), the fabric (R22 to R32), and what it reads or performs (R161 to R163, R176,
R177, R184, R288, R289). -/

namespace Sys2Proof.Machine

open Sys2Proof

/-! ## Who asks -/

/-- The requester of an access: its party, context and, where it has them, workgroup, group and lane. -/
structure Req where
  who : Party
  ctx : Nat
  wg : Option Nat
  grp : Nat
  lane : Option Nat
  helm : Bool
  priv : Bool
  deriving DecidableEq, Repr

/-- A lane of the issuing bundle, or the Helm, as a requester, in that thread's own mode. -/
def State.laneReq (s : State) (l : Nat) : Req :=
  { who := s.curParty, ctx := s.ctxOf s.curGroup.wg, wg := some s.curGroup.wg, grp := s.curGroup.grp
    lane := if s.curHelm then none else some l, helm := s.curHelm
    priv := !s.curHelm && (s.thread (s.curThread l)).priv }

/-- The issuer as it fetches: in privileged mode if every thread of the bundle is (log entry 20). -/
def State.fetchReq (s : State) : Req := { s.laneReq (s.curLanes.headD 0) with priv := s.allPriv }

/-- A packet command as a requester (R175), without a workgroup. The PV check of R197 asks for the mode of the accessing
thread, and no thread makes this access: it does not fail that check (DEDUCED, log 26). -/
def cmdReq (cmd ctx : Nat) : Req :=
  { who := .command cmd, ctx := ctx, wg := none, grp := 0, lane := none, helm := false, priv := true }

/-- A queue engine or another unit of the device as a requester for a context; as for `cmdReq`, no thread's mode is
checked (DEDUCED, log 26). -/
def deviceReq (ctx : Nat) : Req :=
  { who := .device, ctx := ctx, wg := none, grp := 0, lane := none, helm := false, priv := true }

/-! ## Apertures (R147, R148, R158) -/

/-- What an address names: global virtual memory, or a flat address on chip. -/
inductive Target where
  | global (va : Nat)
  | chip (flat : Nat)
  deriving DecidableEq, Repr

/-- The space codes of R298. -/
def spGlobal : Nat := 0
def spCore : Nat := 1
def spRidge : Nat := 2
def spChip : Nat := 3
def spLane : Nat := 4
def spGeneric : Nat := 5

/-- The aperture byte of a space (R147). -/
def apertureByte (space : Nat) : Nat :=
  match space with
  | 1 => 0xFD
  | 2 => 0xFC
  | 3 => 0xFB
  | 4 => 0xFE
  | _ => 0

/-- The generic address that an address in a space stands for (R147). -/
def genericAddr (space : Nat) (a : Word) : Word :=
  if space = spGlobal ∨ space = spGeneric then a
  else BitVec.ofNat 64 (apertureByte space * 2 ^ 56 + a.toNat % 2 ^ 56)

/-- The space of a generic address by its aperture byte, and its offset (R147). -/
def apertureOf (a : Nat) : Option (Nat × Nat) :=
  match a / 2 ^ 56 with
  | 0 => some (spGlobal, a)
  | 1 => some (spGlobal, a)
  | 0xFE => some (spLane, a % 2 ^ 56)
  | 0xFD => some (spCore, a % 2 ^ 56)
  | 0xFC => some (spRidge, a % 2 ^ 56)
  | 0xFB => some (spChip, a % 2 ^ 56)
  | _ => none

/-- Whether an address is global. -/
def isGlobal (a : Word) : Bool := match apertureOf a.toNat with | some (0, _) => true | _ => false

/-- Whether a context holds a share of a die (R158). -/
def Context.grants (c : Context) (die share : Nat) : Bool :=
  if die = 0 then decide (c.g0First ≤ share) && decide (share < c.g0First + c.g0Count)
  else decide (c.g1First ≤ share) && decide (share < c.g1First + c.g1Count)

/-- The die and offset within it of a chip-scratchpad offset, if it is one (R147). -/
def chipDie (off : Nat) : Option (Nat × Nat) :=
  if off < 0x2800000 then some (0, off)
  else if 0x4000000 ≤ off ∧ off < 0x6800000 then some (1, off - 0x4000000)
  else none

/-- The chip-scratchpad offset of the spawn block of a slot of a core (R126, R158). -/
def spawnBlock (core slot : Nat) : Nat := dieOfCore core * 0x4000000 + 1024 * (32 * (core % 160) + slot)

/-- Whether a requester may access a chip-scratchpad offset (R158). -/
def State.chipAllowed (s : State) (r : Req) (off : Nat) : Bool :=
  match chipDie off with
  | none => false
  | some (die, o) =>
    if o / 65536 < 80 then
      match r.wg with
      | some w =>
        let g := s.group { wg := w, grp := r.grp }
        !r.helm && g.spawned && off / 1024 == g.block / 1024
      | none => false
    else match FMap.find s.ctxs r.ctx with
      | some c => c.grants die (o / 65536)
      | none => false

/-- Whether a requester may access every byte of a range of the chip scratchpad (R158): it lies on one die, and each of its 1 KiB blocks
is allowed. -/
def State.chipSpanAllowed (s : State) (r : Req) (off n : Nat) : Bool :=
  (chipDie off).isSome && (chipDie off).map (·.1) == (chipDie (off + n - 1)).map (·.1)
    && (upFrom (off / 1024) ((off + n + 1023) / 1024 - off / 1024)).all (fun b => s.chipAllowed r (1024 * b))

/-- Where a workgroup's Ridge memory stands: on its Ridge, or in the image of its saved Ridge set (R106, R108). -/
def State.ridgeIndex (s : State) (w : Nat) : Nat :=
  match (s.wg w).status with
  | .saved _ => 64 + (s.wg w).set
  | _ => ridgeOfCore (s.coreOf w)

/-- What `n` bytes at an offset of a space are, or none where an offset is not valid (R147). -/
def State.decodeOff (s : State) (r : Req) (space off n : Nat) : Option Target :=
  match space with
  | 0 => if off + n ≤ 2 ^ 57 then some (.global off) else none
  | 1 => match r.wg with
    | some w => if off + n ≤ (s.launchOf w).scratch then some (.chip (scratchAt w off)) else none
    | none => none
  | 2 => match r.wg with
    | some w =>
      if off / 2 ^ 20 < 8 ∧ off % 2 ^ 20 + n ≤ (s.launchOf w).lend * 131072 then
        some (.chip (ridgeAt (s.wg w).launch (s.ridgeIndex w) off))
      else none
    | none => none
  | 3 => if s.chipSpanAllowed r off n then some (.chip (chipAt off)) else none
  | 4 => match r.wg, r.lane with
    | some w, some l => if off + n ≤ 256 then some (.chip (laneAt w r.grp l off)) else none
    | _, _ => none
  | _ => none

/-- What `n` bytes at an address with a space code are (R147). -/
def State.decodeAddr (s : State) (r : Req) (space : Nat) (a : Word) (n : Nat) : Option Target :=
  if space = spGeneric then
    match apertureOf a.toNat with
    | some (sp, off) => s.decodeOff r sp off n
    | none => none
  else s.decodeOff r space a.toNat n

/-! ## Faults of an access (R202, R276, R289) -/

/-- The trap values of a faulting access. -/
structure AccFault where
  cause : BitVec 8
  addr : Word
  info : Word
  deriving DecidableEq, Repr

/-- The array kind of R291 that a flat address's bytes are kept in. -/
def arrayKind (flat : Nat) : Nat :=
  match spaceOf flat with
  | 0 => 14
  | 1 => 15
  | 3 => 9
  | 4 => 5
  | 5 => 3
  | 6 => 3
  | 7 => 2
  | 9 => 14
  | 10 => 15
  | _ => 0

/-- ALIGN at an address. -/
def faultAlign (r : Req) (k : AccKind) (addr : Word) : AccFault := ⟨0x05, addr, infoAddr r.helm k.code 0⟩
/-- NONCANON at an address. -/
def faultNoncanon (r : Req) (k : AccKind) (addr : Word) : AccFault := ⟨0x06, addr, infoAddr r.helm k.code 0⟩
/-- A failed walk as a trap. -/
def faultWalk (r : Req) (k : AccKind) (addr : Word) (t : TFault) : AccFault :=
  match t.phys with
  | some p => ⟨t.cause, BitVec.ofNat 64 (p % 2 ^ 128), infoEcc false (arrayKind p) true r.helm k.code⟩
  | none => ⟨t.cause, addr, infoAddr r.helm k.code t.level⟩
/-- Poison read (R276, R289). A LASTING error in the thread's own lane-private slice (`own`) shows no address. -/
def faultPoison (r : Req) (k : AccKind) (addr : Word) (completion : Bool) (array : Nat) (own : Bool) : AccFault :=
  ⟨0x30, if own then 0 else addr, infoEcc completion array false r.helm k.code⟩

/-! ## Resolving an address -/

/-- Where an access lands, and the leaf it used. -/
structure Spot where
  loc : Loc
  leaf : Option Leaf
  deriving DecidableEq, Repr

/-- The translator of a requester as R291 numbers it: its core's, or 320 and its engine's. -/
def State.translatorOf (s : State) (r : Req) : Nat :=
  match r.who with
  | .operation o => 320 + Config.engineOf o
  | .command k => 320 + Config.engineOf k
  | _ => match r.wg with
    | some w => s.coreOf w
    | none => 320

/-- An address resolved to the place its bytes lie in, or its fault (R147, R196, R197), through a translation cache that may
show an error in its log (R287). -/
def State.resolve (s : State) (r : Req) (space : Nat) (a : Word) (n : Nat) (k : AccKind) : Except AccFault Spot × State :=
  match s.decodeAddr r space a n with
  | none => (.error (faultNoncanon r k (genericAddr space a)), s)
  | some (.chip x) => (.ok ⟨.flat x, none⟩, s)
  | some (.global va) =>
    match (s.eccClean (arrayId 11 (s.translatorOf r)) (va / 4096) r.ctx).translate r.ctx va k r.priv with
    | (.error t, s') => (.error (faultWalk r k a t), s')
    | (.ok leaf, s') => (.ok ⟨s'.locOf leaf va (k == .read || k == .atomic || k == .fetch) (k == .write || k == .atomic || k == .reduce), some leaf⟩, s')

/-- A and D set in the leaf of an access that is performed (R198). -/
def State.touchSpot (s : State) (p : Spot) (write : Bool) : State :=
  match p.leaf with
  | some l => s.touch l write
  | none => s

/-! ## Scratchpad lines (R150, R153, R154) -/

/-- Whether the scratchpad or Ridge line of a flat address is empty (R150). -/
def State.lineEmpty (s : State) (flat : Nat) : Bool := s.emptyLines.contains (flat / 128)

/-- The zero bit of the scratchpad or Ridge line of a flat address (R151): whether all 128 bytes of the line are zero, as after the
latest write to it by any path. Only the time that the Gauntlet takes depends on it (R245). -/
def State.lineZero (s : State) (flat : Nat) : Bool := (s.bytesAt (flat / 128 * 128) 128).all (fun b => b == 0)

/-- The workgroup and offset of a flat address in core scratchpad. -/
def scratchOf (flat : Nat) : Option (Nat × Nat) :=
  if spaceOf flat = 5 then some (flat % 2 ^ 128 / 2 ^ 20, flat % 2 ^ 20) else none

/-- Whether a region map covers a scratchpad line (R152). -/
def RegionMap.covers (m : RegionMap) (line : Nat) : Bool := decide (m.soff / 128 ≤ line) && decide (line < m.soff / 128 + m.lines)

/-- Whether a mapped line of a flat address is not present (R154). -/
def State.lineAbsent (s : State) (flat : Nat) : Bool :=
  match scratchOf flat with
  | some (w, off) => (s.wg w).maps.any (fun m => m.covers (off / 128) && !m.present.contains (off / 128))
  | none => false

/-- A fill started by the first access to a line that is not present (R154): present and empty from now on. -/
def State.startMapFill (s : State) (flat : Nat) (who : MapFill) : State :=
  match scratchOf flat with
  | none => s
  | some (w, off) =>
    let maps := (s.wg w).maps.map (fun (m : RegionMap) =>
      if m.covers (off / 128) && !m.present.contains (off / 128) then
        { m with
          present := (off / 128) :: m.present
          filling := { who with line := off / 128 } :: m.filling }
      else m)
    { (s.setWg w { s.wg w with maps := maps }) with emptyLines := (flat / 128) :: s.emptyLines }

/-- The dirty bits of a mapped line set by a store (R153). -/
def State.markDirty (s : State) (flat n : Nat) : State :=
  match scratchOf flat with
  | none => s
  | some (w, off) =>
    if (s.wg w).maps.any (fun m => m.covers (off / 128)) then
      let maps := (s.wg w).maps.map (fun (m : RegionMap) =>
        if m.covers (off / 128) then { m with dirty := (upFrom off n).filter (fun b => !m.dirty.contains b) ++ m.dirty } else m)
      s.setWg w { s.wg w with maps := maps }
    else s

/-! ## Reading (R177, R184, R187, R289) -/

/-- Under which view a read is made: the party's floor, `.inv` since a write count, the view
that a party had at an earlier instant (R144, R187), with the operations whose writes it leaves out (R212) and the places of further
writes that it includes (R188), the latest write performed, read by a party whose floor it raises (a page
that bypasses L1, R159), what a `pull` at a place gives at this instant (R73), or the latest write performed (what memory holds now). -/
inductive View where
  | floor
  | inv (since : Nat)
  | stream (who : Party) (openSeq openFloors : Nat) (unseen replayed : List Nat)
  | home
  | pulled (y : Scope) (q : Place)
  | now
  deriving DecidableEq, Repr

/-- The floor that a party held at an earlier instant (R144, R187). -/
def State.floorAt (s : State) (who : Party) (openSeq openFloors : Nat) (replayed : List Nat) (a : Nat) : Nat :=
  max (greatest ((s.hist.filter (fun e => e.addr == a && e.owners.contains who
        && (decide (e.seq ≤ openSeq) || replayed.contains e.seq))).map (·.seq)))
      (greatest (((s.floors.drop (s.floors.length - openFloors)).filter (fun f => f.who == who && f.addr == a)).map (·.seq)))

/-- Older instants, from a write count on, whose value a read of `n` bytes may return. -/
def State.instantsSince (s : State) (since a n : Nat) : List Nat :=
  ((s.hist.filter (fun e => decide (a ≤ e.addr) && decide (e.addr < a + n) && decide (since < e.seq))).map (fun e => e.seq - 1)).eraseDups

/-- One of the values of the instants listed, or the present one. -/
def State.readSince (s : State) (since a n : Nat) : List Byte × State :=
  match s.instantsSince since a n with
  | [] => (s.bytesAt a n, s)
  | older =>
    let c := s.choose (older.length + 1)
    match older[c.1]? with
    | some t => ((List.range n).map (fun i => s.byteAsOf t (a + i)), c.2)
    | none => (s.bytesAt a n, c.2)

/-- Whether the writer of a place in the coherence order is one of some operations. -/
def HistEntry.byOneOf (e : HistEntry) (ops : List Nat) : Bool :=
  match e.owners.getLast? with
  | some (.operation o) => ops.contains o
  | _ => false

/-- The value of a byte just after the write numbered `t`, as if some operations had not written it (R212). -/
def State.byteWithout (s : State) (ops : List Nat) (t a : Nat) : Byte :=
  let past := s.hist.filter (fun e => e.addr == a && decide (e.seq ≤ t))
  match past.find? (fun e => !e.byOneOf ops), past.getLast? with
  | some e, _ => s.byteAsOf e.seq a
  | none, some e => e.old
  | none, none => s.byteAsOf t a

/-- A read like `readSince` that leaves out what some operations have written (R212). -/
def State.readWithout (s : State) (ops : List Nat) (since a n : Nat) : List Byte × State :=
  let c := s.choose ((s.instantsSince since a n).length + 1)
  let t := ((s.instantsSince since a n)[c.1]?).getD s.writeSeq
  ((List.range n).map (fun i => s.byteWithout ops t (a + i)), c.2)

/-- A read of at most 8 bytes inside one aligned word under a view. -/
def State.readView (s : State) (who : Party) (v : View) (a n : Nat) : List Byte × State :=
  match v with
  | .floor => s.readWhole who a n
  | .inv since => s.readSince since a n
  | .stream p q f unseen replayed =>
    let since := greatest ((List.range n).map (fun i => s.floorAt p q f replayed (a + i)))
    if unseen.isEmpty then s.readSince since a n else s.readWithout unseen since a n
  | .home => (s.bytesAt a n,
      { s with floors := (List.range n).map (fun i => { who := who, addr := a + i, seq := s.writeSeq }) ++ s.floors })
  | .pulled y q =>
    s.readSince (greatest (((pulledBy s.hist y q).filter (fun e => decide (a ≤ e.addr) && decide (e.addr < a + n))).map (·.seq))) a n
  | .now => (s.bytesAt a n, s)

/-- The view under which a leaf's page is read: one that bypasses L1 at its home slice alone (R159). -/
def Spot.view (p : Spot) (v : View) : View :=
  match p.leaf with
  | some l => if l.nc && v != .now then .home else v
  | none => v

/-- The array that keeps a flat address on a core (R291): scratchpad, Ridge memory lent by a core, and lane-private words. -/
def State.coreArray (s : State) (flat : Nat) : Option Nat :=
  match spaceOf flat with
  | 5 => some (arrayId 3 (s.coreOf (flat % 2 ^ 128 / 2 ^ 20)))
  | 6 => some (arrayId 3 (flat % 2 ^ 80 / 2 ^ 24 * 8 + flat % 2 ^ 24 / 2 ^ 20))
  | 7 => some (arrayId 2 (s.coreOf (flat % 2 ^ 128 / 2 ^ 48)))
  | _ => none

/-- The error check of the word that a read takes (R286). -/
def State.eccCheck (s : State) (flat ctx : Nat) : Bool × State :=
  match s.coreArray flat with
  | some arr => s.eccKept arr (flat / 8) ctx
  | none => s.eccWord flat ctx

/-- A read by a party of a core goes through its L1, a clean copy, unless the page bypasses it (R159, R287). -/
def State.eccL1 (s : State) (r : Req) (v : View) (flat : Nat) : State :=
  match r.who, r.wg with
  | .group _ _, some w => if v != .now && v != .home && (isDevice flat || spaceOf flat == 2) then s.eccClean (arrayId 4 (s.coreOf w)) (flat / 8) r.ctx else s
  | .helm _, some w => if v != .now && v != .home && (isDevice flat || spaceOf flat == 2) then s.eccClean (arrayId 4 (s.coreOf w)) (flat / 8) r.ctx else s
  | _, _ => s

/-- What a read delivers: bytes, or poison (with whether it is a request that completed as poisoned, the array kind, and
whether it is a LASTING error of the thread's own lane-private slice). -/
inductive Got where
  | bytes (bs : List Byte)
  | poison (completion : Bool) (array : Nat) (own : Bool)
  deriving DecidableEq, Repr

/-- A read of at most 8 bytes of one aligned word at a flat address. -/
def State.readFlat (s : State) (r : Req) (v : View) (a n : Nat) : Got × State :=
  let e := (s.eccL1 r v a).eccCheck a r.ctx
  if e.1 then (.poison false (arrayKind a) (spaceOf a == 7), e.2.addPoison a 1)
  else if (e.2.firstPoison a n).isSome then (.poison false (arrayKind a) false, e.2)
  else if spaceOf a = 7 then (.bytes (e.2.bytesAt a n), e.2)
  else
    let b := e.2.readView r.who v a n
    (.bytes b.1, b.2)

/-- A read at a place of the module or the host; the fabric is served apart. A VBD block whose descriptor breaks R167 is a fill
that completes as poisoned (R170). -/
def State.readLoc (s : State) (r : Req) (v : View) (loc : Loc) (n : Nat) : Got × State :=
  match loc with
  | .flat a => s.readFlat r v a n
  | .vbd frame esz off =>
    if s.vbdBroken frame esz (off / 256) then (.poison true 0 false, s.vbdNote frame (off / 256))
    else (s.vbdFill frame esz (off / 256)).readFlat r v (vbdAt (frame + off)) n
  | .badWindow bus => (.poison true 0 false, { s with log := .windowMiss bus :: s.log })
  | .peer _ _ _ => (.poison true 0 false, s)

/-! ## Atomic operations on a word (R161, R383, R384) -/

/-- Merging an element of a reduction or an atomic: 0 add, 1 min, 2 max, 3 and, 4 or, 5 xor (R161, R383). -/
def mergeWord (op : Nat) (tag : Tag) (unsigned : Bool) (old val : Word) : Word :=
  match op with
  | 0 =>
    if isPackedFp tag then
      zipElems (tagWidth tag) (fun a b => (fmtD tag).canonise ((fmtD tag).addCodes a b).1) old val
    else zipElems (tagWidth tag) (fun a b => (a + b) % 2 ^ tagWidth tag) old val
  | 1 => zipElems (tagWidth tag) (redInt 1 (tagWidth tag) (!unsigned)) old val
  | 2 => zipElems (tagWidth tag) (redInt 2 (tagWidth tag) (!unsigned)) old val
  | 3 => old &&& val
  | 4 => old ||| val
  | _ => old ^^^ val

/-- The word an atomic leaves, or none where it writes nothing: 6 xchg, 7 cas with its compare value (R384). -/
def atomNew (op : Nat) (tag : Tag) (unsigned : Bool) (old val compare : Word) : Option Word :=
  match op with
  | 6 => some val
  | 7 => if old = compare then some val else none
  | n => some (mergeWord n tag unsigned old val)

/-! ## Performing writes (R176, R288) -/

/-- A write operation performed at a flat address of this module or the host. -/
def State.performFlat (s : State) (who : Party) (a : Nat) (op : WriteOp) : State :=
  match op with
  | .store bs => if spaceOf a = 7 then s.writeOwn a bs else (s.write who a bs).markDirty a bs.length
  | .masked bs => (bs.zipIdx).foldl (fun (t : State) x =>
      match x.1 with
      | some b => (t.write who (a + x.2) [b]).markDirty (a + x.2) 1
      | none => t) s
  | .poisoned n => ((s.write who a (List.replicate n 0)).addPoison a n).markDirty a n
  | .reduce o tag u v =>
    if s.isPoisoned a then s
    else
      let new := mergeWord o.toNat tag u (BitVec.ofNat 64 (s.numAt a 8)) v
      if spaceOf a = 7 then s.writeOwn a (leBytes 8 new.toNat) else (s.write who a (leBytes 8 new.toNat)).markDirty a 8
  | .atomic o tag u v c =>
    match atomNew o.toNat tag u (BitVec.ofNat 64 (s.numAt a 8)) v c with
    | some new => if spaceOf a = 7 then s.writeOwn a (leBytes 8 new.toNat) else (s.write who a (leBytes 8 new.toNat)).markDirty a 8
    | none => { s with floors := (List.range 8).map (fun i => { who := who, addr := a + i, seq := s.writeSeq }) ++ s.floors }

/-- The length in bytes of a write operation. -/
def WriteOp.len (op : WriteOp) : Nat :=
  match op with
  | .store bs => bs.length
  | .masked bs => bs.length
  | .poisoned n => n
  | _ => 8

/-! ## The fabric (R22 to R26) -/

/-- The candidate ports of a target in order, those usable (R24, R30); a port that drains takes no new request (R28). -/
def State.usablePorts (s : State) (target : Nat) : List Nat :=
  let e := FMap.getD s.fabRoute target routeReset
  ([field e 6 0, field e 13 7, field e 20 14, field e 27 21] : List Nat).filter (fun p =>
    decide (p < 96) && ((s.port p).state == 2 || (s.port p).state == 3) && !(s.port p).draining)

/-- The port chosen for a request to an offset (R24). -/
def State.routePort (s : State) (target off : Nat) : Option Nat :=
  let cs := s.usablePorts target
  if cs.isEmpty then none
  else
    let i := (off / 2 ^ 8 % 4 ^^^ off / 2 ^ 10 % 4 ^^^ off / 2 ^ 12 % 4 ^^^ off / 2 ^ 14 % 4) % cs.length
    cs[i]?

/-- The data that a write operation carries. -/
def WriteOp.data (op : WriteOp) : List Byte :=
  match op with
  | .store bs => bs
  | .masked bs => bs.filterMap (fun b => b)
  | .poisoned n => List.replicate n 0
  | .reduce _ _ _ v => leBytes 8 v.toNat
  | .atomic _ _ _ v c => leBytes 8 v.toNat ++ leBytes 8 c.toNat

/-- Data sent in flits of 112 bytes of payload, each with its header (R16) and kept in the retry buffer of 256 flits (R17). -/
def Port.send (p : Port) (dest source : Nat) (data : List Byte) : Port :=
  let n := max 1 (ceilDiv data.length 112)
  let flits := (List.range n).map (fun i =>
    ({ dest := dest, source := source, seq := p.nextSeq + i, payload := (data.drop (112 * i)).take 112 } : SentFlit))
  let kept := p.retry ++ flits
  { p with nextSeq := p.nextSeq + n, retry := kept.drop (kept.length - 256) }

/-- Data for a module sent on a port, or on none. -/
def State.sendOn (s : State) (port : Option Nat) (dest : Nat) (data : List Byte) : FMap Nat Port :=
  match port with
  | some p => FMap.set s.ports p ((s.port p).send dest s.fabSelf.toNat data)
  | none => s.ports

/-- Whether the requester takes the answer of a request itself: reads and returning atomics. -/
def awaitedOp (op : Option WriteOp) : Bool := match op with | none => true | some (.atomic _ _ _ _ _) => true | _ => false

/-- A command one of whose writes completed as poisoned reports it (R26, R41, R80): status POISON, unless it reports something else. -/
def State.noteFailed (s : State) (who : Party) (addr : Word) : State :=
  match who with
  | .command k => { s with cmds := FMap.modify s.cmds k (fun c => if c.status = 1 then { c with status := 2, detail := addr } else c) }
  | _ => s

/-- A request sent over the fabric, held while a route change is pending, or completed as poisoned where no port is
usable (R24 to R26). -/
def State.sendFab (s : State) (who : Party) (thread : Option ThreadId) (op : Option WriteOp) (target off cmp len : Nat) : State :=
  let pending := (FMap.find s.routePending target).isSome
  let port := if pending then none else s.routePort target off
  let dead := !pending && port.isNone
  let t := if dead && !awaitedOp op then s.noteFailed who (BitVec.ofNat 64 off) else s
  { t with
    ports := s.sendOn port target (match op with | some o => o.data | none => [])
    fabReqs := s.fabReqs ++ (if dead && !awaitedOp op then [] else
      [{ id := s.nextId, who := who, thread := thread, op := op, target := target, off := off, len := len
         port := port, answered := dead, poisoned := dead, bytes := [], cmp := cmp }])
    nextId := s.nextId + 1
    log := if dead then .requestPoisoned target off :: s.log else s.log }

/-- The outstanding request of a thread that reads, or performs an atomic, at a peer's offset. -/
def State.findFab (s : State) (who : Party) (thread : Option ThreadId) (op : Option WriteOp) (target off len : Nat) : Option FabReq :=
  s.fabReqs.find? (fun q => q.who == who && q.thread == thread && q.op == op && q.target == target && q.off == off && q.len == len)

/-- A request taken out of the outstanding ones. -/
def State.dropFab (s : State) (id : Nat) : State := { s with fabReqs := s.fabReqs.filter (fun q => q.id != id) }

/-! ## Performing an operation at a place -/

/-- A write operation performed at the place a translated access names. Over the fabric it is sent and acknowledged
later (R32); where no window grants it, or in a VBD block whose descriptor breaks R167, it is discarded and recorded (R26, R41,
R170). -/
def State.performLoc (s : State) (who : Party) (thread : Option ThreadId) (loc : Loc) (op : WriteOp) : State :=
  match loc with
  | .flat a => s.performFlat who a op
  | .vbd frame esz off =>
    if s.vbdBroken frame esz (off / 256) then
      let t := s.vbdNote frame (off / 256)
      ({ t with log := .vbdDescriptor frame (off / 256) :: t.log }).noteFailed who (BitVec.ofNat 64 ((frame + off) % 2 ^ 128))
    else ((s.vbdFill frame esz (off / 256)).performFlat who (vbdAt (frame + off)) op).vbdMark frame esz (off / 256)
  | .badWindow bus => ({ s with log := .windowMiss bus :: s.log }).noteFailed who (BitVec.ofNat 64 bus)
  | .peer m off c => s.sendFab who thread (some op) m off c op.len

/-! ## Whole reads and writes by a requester -/

/-- The aligned-word pieces of `n` bytes from an address on: offset and length of each; `fuel` is `n`. -/
def piecesFuel (a n off fuel : Nat) : List (Nat × Nat) :=
  match fuel with
  | 0 => []
  | fuel + 1 =>
    if n = 0 then [] else (off, headLen a n) :: piecesFuel (a + headLen a n) (n - headLen a n) (off + headLen a n) fuel

def pieces (a n : Nat) : List (Nat × Nat) := piecesFuel a n 0 n

/-- The thread of a requester, where it is one. -/
def Req.thread (r : Req) : Option ThreadId :=
  match r.wg, r.lane with
  | some w, some l => some { wg := w, grp := r.grp, lane := l }
  | _, _ => none

/-- What stands before an access: nothing, a wait, or a fault. -/
inductive Prep where
  | ready
  | wait
  | fault (f : AccFault)

/-- Who a fill is for. -/
def Req.fill (r : Req) : MapFill :=
  { line := 0, grp := r.grp, lane := r.lane.getD 0, helm := r.helm, op := (match r.who with | .operation o => some o | _ => none) }

/-- A scratchpad line made ready: a fill starts where its map has it absent, and an empty line waits (R150, R154). -/
def State.prepLine (s : State) (r : Req) (x : Nat) : Prep × State :=
  if s.lineAbsent x then (.wait, s.startMapFill x r.fill)
  else if s.lineEmpty x then (.wait, s)
  else (.ready, s)

/-- A request to a peer made and awaited (R31): `op` none reads. -/
def State.prepPeer (s : State) (r : Req) (op : Option WriteOp) (m off c n : Nat) : Prep × State :=
  match s.findFab r.who r.thread op m off n with
  | none => (.wait, s.sendFab r.who r.thread op m off c n)
  | some q => if q.answered then (.ready, s) else (.wait, s)

/-- Whether a place's home slice is full of blocks that await a re-pack (R172). -/
def State.sliceFull (s : State) (p : Spot) : Bool :=
  match p.loc with
  | .flat x => isDevice x && decide (16 ≤ s.heldIn (homeSlice x))
  | .vbd frame _ off => decide (16 ≤ s.heldIn (homeSlice (vbdAt (frame + off))))
  | _ => false

/-- What stands before a read, or before a returning atomic `op`, at a resolved place (R31, R150, R154). Where the home slice is
full of blocks that await a re-pack, an access may need an eviction that waits: which does is left to the implementation (R160,
R172), so it is a free choice. -/
def State.prepSpot (s : State) (r : Req) (p : Spot) (n : Nat) (op : Option WriteOp) : Prep × State :=
  if s.sliceFull p && (s.choose 2).1 == 1 then (.wait, (s.choose 2).2)
  else
    let s := if s.sliceFull p then (s.choose 2).2 else s
    match p.loc with
    | .flat x => s.prepLine r x
    | .peer m off c => s.prepPeer r op m off c n
    | _ => (.ready, s)

/-- What stands before a read, or before a returning atomic `op`, of one piece. -/
def State.prepRead (s : State) (r : Req) (space : Nat) (a : Word) (n : Nat) (op : Option WriteOp) : Prep × State :=
  match s.resolve r space a n (if op.isSome then .atomic else .read) with
  | (.error f, s') => (.fault f, s')
  | (.ok p, s') => s'.prepSpot r p n op

/-- What stands before a store of one piece: a store's translation faults go to the side log (R204); one that needs an eviction from a
slice full of held blocks waits, a free choice as for a read (R172). -/
def State.prepWrite (s : State) (r : Req) (space : Nat) (a : Word) (n : Nat) (k : AccKind) : Prep × State :=
  match s.decodeAddr r space a n with
  | none => (.fault (faultNoncanon r k (genericAddr space a)), s)
  | some (.chip x) => s.prepLine r x
  | some (.global _) =>
    match s.resolve r space a n k with
    | (.ok p, _) => if s.sliceFull p && (s.choose 2).1 == 1 then (.wait, (s.choose 2).2) else (.ready, s)
    | (.error _, _) => (.ready, s)

/-- Several preparations: the first fault in order, unless something waits. -/
def prepAll (s : State) (fs : List (State → Prep × State)) : Prep × State :=
  match fs with
  | [] => (.ready, s)
  | f :: t =>
    match f s with
    | (.ready, s') => prepAll s' t
    | (.fault e, s') => (.fault e, s')
    | (.wait, s') => (.wait, (prepAll s' t).2)

/-- What a read answers: bytes, or a fault. -/
inductive ReadOut where
  | bytes (bs : List Byte)
  | fault (f : AccFault)
  | wait

/-- A read at a resolved place: its bytes, its fault, or a wait for a peer. -/
def State.readSpot (s : State) (r : Req) (v : View) (p : Spot) (addr : Word) (n : Nat) : ReadOut × State :=
  match p.loc with
  | .peer m off c =>
    match s.findFab r.who r.thread none m off n with
    | none => (.wait, s.sendFab r.who r.thread none m off c n)
    | some q =>
      if !q.answered then (.wait, s)
      else if q.poisoned then (.fault (faultPoison r .read addr true 0 false), s.dropFab q.id)
      else (.bytes q.bytes, s.dropFab q.id)
  | _ =>
    match (s.touchSpot p false).readLoc r (p.view v) p.loc n with
    | (.bytes b, t) => (.bytes b, t)
    | (.poison c k own, t) => (.fault (faultPoison r .read addr c k own), t)

/-- One prepared piece read. -/
def State.readPiece (s : State) (r : Req) (v : View) (space : Nat) (a : Word) (n : Nat) : ReadOut × State :=
  match s.resolve r space a n .read with
  | (.error f, s') => (.fault f, s')
  | (.ok p, s') => s'.readSpot r v p (genericAddr space a) n

/-- Several prepared pieces read one after another. -/
def State.readPieces (s : State) (r : Req) (v : View) (space : Nat) (a : Word) (ps : List (Nat × Nat)) : ReadOut × State :=
  match ps with
  | [] => (.bytes [], s)
  | (off, n) :: t =>
    match s.readPiece r v space (a + BitVec.ofNat 64 off) n with
    | (.bytes b, s') =>
      match s'.readPieces r v space a t with
      | (.bytes bs, s'') => (.bytes (b ++ bs), s'')
      | o => o
    | o => o

/-- A read of `n` bytes by a requester: everything it waits for, then its faults, then the bytes (R135, R377). -/
def State.readRec (s : State) (r : Req) (v : View) (space : Nat) (a : Word) (n : Nat) : ReadOut × State :=
  let ps := pieces a.toNat n
  match prepAll s (ps.map (fun p t => t.prepRead r space (a + BitVec.ofNat 64 p.1) p.2 none)) with
  | (.wait, s') => (.wait, s')
  | (.fault f, s') => (.fault f, s')
  | (.ready, s') => s'.readPieces r v space a ps

/-- What a unit's write answers: done, a fault with nothing written from that piece on, or that it must wait. -/
inductive WriteOut where
  | done
  | fault (f : AccFault)
  | wait

/-- One piece written for a requester through translation. -/
def State.writePiece (s : State) (r : Req) (a : Word) (op : WriteOp) (k : AccKind) : WriteOut × State :=
  match s.resolve r spGeneric a op.len k with
  | (.error f, s') => (.fault f, s')
  | (.ok p, s') => (.done, (s'.touchSpot p true).performLoc r.who r.thread p.loc op)

/-- Bytes written by a requester at a generic address, piece by piece. -/
def State.writePieces (s : State) (r : Req) (a : Word) (bs : List Byte) (ps : List (Nat × Nat)) : WriteOut × State :=
  match ps with
  | [] => (.done, s)
  | (off, n) :: t =>
    match s.writePiece r (a + BitVec.ofNat 64 off) (.store ((bs.drop off).take n)) .write with
    | (.done, s') => s'.writePieces r a bs t
    | o => o

def State.writeRec (s : State) (r : Req) (a : Word) (bs : List Byte) : WriteOut × State :=
  s.writePieces r a bs (pieces a.toNat bs.length)

end Sys2Proof.Machine
end

