-- ==== Sys2Proof/Machine/Held.lean ====
section
/-! DEFINITION. The mechanisms that hold writes: the side log (R188, R204) and the ticket unit of deterministic kernels
(R98 to R104, R190). -/

namespace Sys2Proof.Machine

open Sys2Proof

/-- The kind of access that a write operation is (R197). -/
def WriteOp.kind (op : WriteOp) : AccKind :=
  match op with
  | .store _ => .write
  | .masked _ => .write
  | .poisoned _ => .write
  | .reduce _ _ _ _ => .reduce
  | .atomic _ _ _ _ _ => .atomic

/-! ## The side log (R204) -/

/-- The 4 KiB page of an address. -/
def pageOf (va : Nat) : Nat := va / 4096

/-- Whether a thread has an entry for a page. -/
def State.threadLogged (s : State) (t : ThreadId) (page : Nat) : Bool :=
  (s.core (s.coreOf t.wg)).sideLog.any (fun e => e.thread == t && pageOf e.va == page)

/-- Whether a group has an entry for a page (R188). -/
def State.groupLogged (s : State) (g : GroupId) (page : Nat) : Bool :=
  (s.core (s.coreOf g.wg)).sideLog.any (fun e => e.thread.wg == g.wg && e.thread.grp == g.grp && pageOf e.va == page)

/-- Whether a workgroup has an entry. -/
def State.wgLogged (s : State) (w : Nat) : Bool := (s.core (s.coreOf w)).sideLog.any (fun e => e.thread.wg == w)

/-- Free entries of a core's side log: those of saved workgroups stand in their save records (R106). -/
def State.sideRoom (s : State) (c : Nat) : Nat := 512 - ((s.core c).sideLog.filter (fun e => (s.wg e.thread.wg).isResident)).length

/-- An entry retired into the side log. -/
def State.logStore (s : State) (e : SideEntry) : State :=
  let c := s.coreOf e.thread.wg
  { (s.setCore c { s.core c with sideLog := (s.core c).sideLog ++ [e] }) with nextId := s.nextId + 1 }

/-- The write-back that an entry is of, where its requester is one's operation (R203). -/
def Req.unmap (r : Req) : Option Nat := match r.who with | .operation o => some o | _ => none

/-- The fault record of a side-log entry (R283, SOURCE 1). -/
def State.postSide (s : State) (t : ThreadId) (f : AccFault) : State :=
  s.postFault (s.ctxOf t.wg) (s.threadRec t f.cause.toNat 1 (f.info.toNat % 2 ^ 32) f.addr 0 0 0)

/-! ## Staging (R99, R101, R103) -/

/-- Whether a workgroup's global stores are staged: its kernel is deterministic and it does not write straight. -/
def State.stages (s : State) (w : Nat) : Bool := (s.launchOf w).det && !(s.wg w).direct

/-- Whether the staging share of a workgroup is full (R101): staged entries and held spawn records (R127) occupy it. -/
def State.shareFull (s : State) (w : Nat) : Bool :=
  decide (1024 + Config.stagingEntries ≤ (s.staged.filter (fun e => e.wg == w)).length + s.heldCount w)

/-- The staged entries of a workgroup in the order of emission (R99): group by group, the Helm's after its groups'. -/
def State.stagedOrder (s : State) (w : Nat) : List Staged :=
  (List.range (s.wg w).nextGroup).flatMap (fun g => s.staged.filter (fun e => e.wg == w && !e.helm && e.grp == g))
    ++ s.staged.filter (fun e => e.wg == w && e.helm)

/-- The requester of an emission. -/
def State.emitReq (s : State) (e : Staged) : Req :=
  { who := .command (s.launchOf e.wg).cmd, ctx := s.ctxOf e.wg, wg := some e.wg, grp := e.grp, lane := none, helm := e.helm, priv := e.priv }

/-- Entries emitted in order until one faults (R103); whether all were. -/
def State.emitList (s : State) (es : List Staged) : Bool × State :=
  match es with
  | [] => (true, s)
  | e :: t =>
    match s.resolve (s.emitReq e) spGlobal (BitVec.ofNat 64 e.va) e.op.len e.op.kind with
    | (.error f, s') =>
      (false, (s'.postFault (s'.ctxOf e.wg)
        (s'.threadRec { wg := e.wg, grp := e.grp, lane := 0 } f.cause.toNat 2 (f.info.toNat % 2 ^ 32) f.addr 0 0 0)).setLaunch
          (s'.wg e.wg).launch { s'.launchOf e.wg with emitWait := true })
    | (.ok p, s') =>
      State.emitList { ((s'.touchSpot p true).performLoc (.command (s'.launchOf e.wg).cmd) none p.loc e.op) with staged := s'.staged.erase e } t

/-- All staged entries of a workgroup emitted and published at `pkg` scope, as far as translation allows (R100, R190). -/
def State.emitWg (s : State) (w : Nat) : Bool × State :=
  let r := s.emitList (s.stagedOrder w)
  (r.1, r.2.pub .pkg (r.2.placeOf (.command (r.2.launchOf w).cmd) w))

/-- The workgroup that holds a launch's lowest outstanding ticket, if it has been placed. -/
def State.ticketHolder (s : State) (l : Nat) : Option Nat :=
  (s.wgs.find? (fun e => e.2.launch == l && e.2.lin == (s.launch l).ticket)).map (·.1)

/-- Room made for one more staged entry: a full share of the lowest outstanding ticket is emitted, and the workgroup
writes straight from then on (R101). -/
def State.shareRoom (s : State) (w : Nat) : Bool × State :=
  if !s.stages w || !s.shareFull w then (true, s)
  else if (s.wg w).lin = (s.launchOf w).ticket ∧ !(s.launchOf w).emitWait ∧ !s.wgLogged w then
    let r := s.emitWg w
    if r.1 then (true, r.2.setWg w { r.2.wg w with direct := true }) else (false, r.2)
  else (false, s)

/-- A ticket released (R100, R102): its workgroup has ended or has been killed, its faulted entries are resolved, and what
it staged is emitted; the next ticket is then the lowest. -/
def State.releaseTicket (s : State) (l : Nat) : State :=
  match s.ticketHolder l with
  | none => s
  | some w =>
    if ((s.wg w).status = .ended ∨ (s.wg w).killed = true) ∧ !s.wgLogged w ∧ !(s.launch l).emitWait then
      let r := s.emitWg w
      if r.1 then
        (r.2.setLaunch l { r.2.launch l with ticket := (r.2.launch l).ticket + 1 }).setWg w { r.2.wg w with share := none }
      else r.2
    else s

/-! ## Storing through translation (R99, R204) -/

/-- The earliest entry of a thread for a page. -/
def State.loggedBefore (s : State) (t : ThreadId) (page : Nat) : Option SideEntry :=
  (s.core (s.coreOf t.wg)).sideLog.find? (fun e => e.thread == t && pageOf e.va == page)

/-- What a word of a store does: it is performed or staged, or it is retired into the side log with the fault of its
page (R204); a word behind an earlier entry of its thread for the page takes that entry's fault. -/
def State.storeFault (s : State) (r : Req) (t : ThreadId) (va : Nat) (op : WriteOp) : Option AccFault :=
  match (if s.stages t.wg then none else s.loggedBefore t (pageOf va)) with
  | some e => some ⟨e.cause, BitVec.ofNat 64 va, e.info⟩
  | none =>
    match s.resolve r spGlobal (BitVec.ofNat 64 va) op.len op.kind with
    | (.error f, _) => some f
    | (.ok _, _) => none

/-- A word staged where its workgroup stages (R99); what a killed workgroup stages is discarded (R102). -/
def State.stageWord (s : State) (t : ThreadId) (r : Req) (va : Nat) (op : WriteOp) : State :=
  if s.stages t.wg && !(s.wg t.wg).killed then
    { s with staged := s.staged ++ [{ wg := t.wg, grp := t.grp, order := s.nextId, helm := false, va := va, op := op, priv := r.priv }]
             nextId := s.nextId + 1 }
  else s

/-- One word of a lane's store or reduction to global memory: staged, performed, or retired into the side log. A fault
record is posted for the first word of each page that faults; `faulted` are the pages that have. -/
def State.storeGlobal (s : State) (r : Req) (t : ThreadId) (faulted : List Nat) (va : Nat) (op : WriteOp) : List Nat × State :=
  match s.storeFault r t va op with
  | some f =>
    let s' := (s.stageWord t r va op).logStore
      { ctx := r.ctx, thread := t, va := va, op := op, priv := r.priv, marker := s.stages t.wg, cause := f.cause, info := f.info
        order := s.nextId, unmap := r.unmap }
    if (s.loggedBefore t (pageOf va)).isSome || faulted.contains (pageOf va) then (faulted, s')
    else (pageOf va :: faulted, s'.postSide t f)
  | none =>
    if s.stages t.wg then (faulted, s.stageWord t r va op)
    else
      match s.resolve r spGlobal (BitVec.ofNat 64 va) op.len op.kind with
      | (.ok p, s') => (faulted, (s'.touchSpot p true).performLoc r.who (some t) p.loc op)
      | (.error _, s') => (faulted, s')

end Sys2Proof.Machine
end

