-- ==== Sys2Proof/Machine/Records.lean ====
section
/-! DEFINITION. The records of the copy engines and their checks (R208 to R217). -/

namespace Sys2Proof.Machine

open Sys2Proof

/-- What the check of a record or a body finds (R208). -/
inductive Check where
  | ok
  | limit
  | overlap
  deriving DecidableEq, Repr

/-- The first failure of two checks: a limit before an overlap (R135). -/
def Check.both (a b : Check) : Check :=
  match a, b with
  | .limit, _ => .limit
  | _, .limit => .limit
  | .overlap, _ => .overlap
  | _, x => x

def Check.ofBool (b : Bool) : Check := if b then .ok else .limit

/-- Whether an address lies on a TIER 00 or TIER 01 page, as far as it translates (R57, R225). -/
def State.onDevice (s : State) (ctx : Nat) (a : Word) : Bool :=
  decide (a.toNat < 2 ^ 57) && (match s.translate ctx a.toNat .probe true with
    | (.ok l, _) => decide (l.tier ≤ 1)
    | (.error _, _) => true)

/-- The entry bits in which the entries of a group agree: all but the frame, A and D (R199). -/
def groupBits (e : Word) : Word := e &&& ~~~(0x000FFFFFFFFFFC00 : Word)

/-- The 16 pages of the group that an address lies in, if they form one (R199). -/
def State.groupPages (s : State) (ctx va : Nat) (l : Leaf) : Option (List (Nat × Leaf)) :=
  let base := va / 65536 * 65536
  let ps := (List.range 16).filterMap (fun i =>
    match s.translate ctx (base + 4096 * i) .probe true with
    | (.ok x, _) => some (base + 4096 * i, x)
    | (.error _, _) => none)
  let first := match ps with | (_, x) :: _ => x.frame | [] => 0
  if ps.length = 16 ∧ first % 16 = 0
      ∧ (ps.zip (List.range 16)).all (fun x => x.1.2.level == 4 && groupBits x.1.2.entry == groupBits l.entry && x.1.2.frame == first + x.2)
  then some ps else none

/-- Bytes that a leaf maps: 2 MiB, the 64 KiB of a group, or 4 KiB (R194, R199). -/
def State.leafSize (s : State) (ctx va : Nat) (l : Leaf) : Nat :=
  if l.level = 3 then 2 ^ 21 else if bitAt l.entry 7 && (s.groupPages ctx va l).isSome then 65536 else 4096

/-! ## Layout records (R209 to R211) -/

/-- A tensor layout record (R209). -/
structure Layout where
  base : Word
  fmt : Nat
  ndim : Nat
  cmode : Nat
  cvt : Nat
  tier : Nat
  ext : List Nat
  str : List Int
  aux : Word
  deriving DecidableEq, Repr

/-- A signed 64-bit field of a record. -/
def fieldInt (bs : List Byte) (start : Nat) : Int := toSigned 64 (fieldLe bs start 8)

/-- The fields of a layout record; the stride of dimension 0 stands as 0. -/
def Layout.ofBytes (bs : List Byte) : Layout :=
  { base := BitVec.ofNat 64 (fieldLe bs 0 8), fmt := fieldLe bs 8 1, ndim := fieldLe bs 9 1, cmode := fieldLe bs 10 1
    cvt := fieldLe bs 11 1, tier := fieldLe bs 12 1
    ext := (List.range 4).map (fun i => fieldLe bs (16 + 4 * i) 4)
    str := 0 :: (List.range 3).map (fun i => fieldInt bs (32 + 8 * i))
    aux := BitVec.ofNat 64 (fieldLe bs 56 8) }

/-- Bits of an element of a format (R210). -/
def fmtBits (fmt : Nat) : Nat :=
  match fmt with
  | 1 => 16
  | 2 => 32
  | 3 => 64
  | 4 => 64
  | 5 => 32
  | 6 => 16
  | 7 => 16
  | 10 => 4
  | 11 => 32
  | 12 => 16
  | 14 => 4
  | 16 => 32
  | 17 => 16
  | _ => 8

/-- What a format's codes stand for; raw formats stand for none (R210, R214). -/
def fmtElem (fmt : Nat) : Option Elem :=
  match fmt with
  | 4 => some (.fl f64)
  | 5 => some (.fl f32)
  | 6 => some (.fl f16)
  | 7 => some (.fl bf16)
  | 8 => some (.fl e4m3)
  | 9 => some (.fl e5m2)
  | 10 => some (.fl e2m1)
  | 11 => some (.int 32 true)
  | 12 => some (.int 16 true)
  | 13 => some (.int 8 true)
  | 14 => some (.int 4 true)
  | 15 => some .ts8
  | 16 => some (.int 32 false)
  | 17 => some (.int 16 false)
  | 18 => some (.int 8 false)
  | _ => none

def Layout.bits (l : Layout) : Nat := fmtBits l.fmt
def Layout.extAt (l : Layout) (i : Nat) : Nat := l.ext.getD i 1
def Layout.strAt (l : Layout) (i : Nat) : Int := l.str.getD i 0

/-- The limits of R209 to R211 on a record by itself. -/
def Layout.ok (l : Layout) (bs : List Byte) : Bool :=
  decide (l.fmt ≤ 18) && decide (1 ≤ l.ndim) && decide (l.ndim ≤ 4) && decide (l.cmode ≤ 2) && decide (l.cvt < 8)
    && decide (l.tier ≤ 1) && zeroIn bs 13 16
    && (List.range 4).all (fun i => decide (1 ≤ l.extAt i) && (decide (i < l.ndim) || l.extAt i == 1))
    && ([1, 2, 3] : List Nat).all (fun i => decide (i < l.ndim) || l.strAt i == 0)
    && (l.bits != 4 || l.extAt 0 % 2 == 0)
    && (decide (l.bits < 8) || ([1, 2, 3] : List Nat).all (fun i => l.strAt i % (l.bits / 8 : Nat) == 0))

/-- The extent range relative to BASE: its lowest byte and the byte after its highest (R211). -/
def Layout.range (l : Layout) : Int × Int :=
  let d := ([1, 2, 3] : List Nat).map (fun i => ((l.extAt i : Int) - 1) * l.strAt i)
  (d.foldl (fun a x => a + min 0 x) 0, d.foldl (fun a x => a + max 0 x) ((l.extAt 0 * l.bits + 7) / 8 : Nat))

/-- A byte range as its users name it: its first byte and its length. -/
abbrev Span := Nat × Nat

/-- Whether two byte ranges share no byte. -/
def Span.apart (a b : Span) : Bool := a.2 == 0 || b.2 == 0 || decide (a.1 + a.2 ≤ b.1) || decide (b.1 + b.2 ≤ a.1)

/-- The extent range as addresses, if it does not wrap. -/
def Layout.span (l : Layout) : Option Span :=
  let lo := (l.base.toNat : Int) + l.range.1
  let hi := (l.base.toNat : Int) + l.range.2
  if 0 ≤ lo ∧ hi ≤ (2 ^ 64 : Nat) then some (lo.toNat, (hi - lo).toNat) else none

/-- Whether a byte range lies in one space within its valid offsets: for a packet in global memory (R208). -/
def State.spanOk (s : State) (r : Req) (packet : Bool) (x : Span) : Bool :=
  if x.2 = 0 then true
  else if packet then decide (x.1 + x.2 ≤ 2 ^ 57)
  else match apertureOf x.1 with
    | some (sp, off) => (s.decodeOff r sp off x.2).isSome
    | none => false

/-- Whether a layout's extent range is valid. -/
def State.layoutInside (s : State) (r : Req) (packet : Bool) (l : Layout) : Bool :=
  match l.span with
  | some x => s.spanOk r packet x
  | none => false

/-! ## Copies and transforms (R212 to R216) -/

/-- Whether the ranges of two layouts are disjoint, or are identical where that is allowed (R212, R213). -/
def overlapCheck (identical : Bool) (a b : Layout) : Check :=
  match a.span, b.span with
  | some x, some y => if Span.apart x y || (identical && x == y) then .ok else .overlap
  | _, _ => .limit

/-- Element bytes of a compressed record's CMODE (R209). -/
def cmodeBytes (c : Nat) : Nat := if c = 1 then 2 else 4

/-- The page rules of R216. -/
def pageOk (packed plain : Layout) (len : Nat) : Bool :=
  packed.ndim == 1 && plain.ndim == 1 && packed.cmode != 0 && plain.bits == 8 * cmodeBytes packed.cmode
    && packed.bits == 8 * cmodeBytes packed.cmode && packed.base.toNat % 4096 == 0 && plain.base.toNat % 4096 == 0
    && len * cmodeBytes packed.cmode % 4096 == 0

/-- The bytes of a plain-page bitmap (R216). -/
def bitmapSpan (d : Layout) (len : Nat) : Span := (d.aux.toNat, ceilDiv (len * cmodeBytes d.cmode / 4096) 8)

/-- The requirements of an operation on its two layouts beyond their own limits (R212 to R216). -/
def opOk (op : Nat) (a b : Layout) (len : Nat) : Bool :=
  decide (len ≤ a.extAt (a.ndim - 1)) && a.ndim == b.ndim && a.tier == 0 && b.tier == 0 && a.aux == 0
    && (op == 2 || op == 5 || b.aux == 0) && a.cvt == 0 && (op == 4 || b.cvt == 0)
    && (if op = 1 then decide (2 ≤ a.ndim) && b.extAt 0 == a.extAt 1 && b.extAt 1 == a.extAt 0
          && b.extAt 2 == a.extAt 2 && b.extAt 3 == a.extAt 3
        else a.ext == b.ext)
    && (match op with
        | 0 => a.cmode == 0 && b.cmode == 0 && a.bits == b.bits
        | 1 => a.cmode == 0 && b.cmode == 0 && a.bits == b.bits
        | 2 => a.cmode == 0 && pageOk b a len
        | 3 => b.cmode == 0 && pageOk a b len
        | 4 => a.cmode == 0 && b.cmode == 0 && (fmtElem a.fmt).isSome && (fmtElem b.fmt).isSome && b.fmt != 15
        | 5 => a.cmode == b.cmode && pageOk a b len
        | _ => false)

/-- The check of a copy of OP 0 to 5 (R208). -/
def State.copyCheck (s : State) (r : Req) (packet : Bool) (op : Nat) (src dst : List Byte) (len : Nat) : Check :=
  let a := Layout.ofBytes src
  let b := Layout.ofBytes dst
  (Check.ofBool (a.ok src && b.ok dst && s.layoutInside r packet a && s.layoutInside r packet b && opOk op a b len
      && (b.aux == 0 || s.spanOk r packet (bitmapSpan b len)))).both
    (overlapCheck (op == 0 || op == 5 || (op == 4 && a.bits == b.bits)) a b)

/-- The whole outermost extent of a record (R391). -/
def Layout.whole (l : Layout) : Nat := l.extAt (l.ndim - 1)

/-! ## Elements -/

/-- Elements below each step of the outermost dimension. -/
def Layout.inner (l : Layout) : Nat := ((l.ext.take (l.ndim - 1)).foldl (· * ·) 1)

/-- The index of the element with a linear index (R211). -/
def Layout.coords (l : Layout) (n : Nat) : List Nat :=
  [n % l.extAt 0, n / l.extAt 0 % l.extAt 1, n / l.extAt 0 / l.extAt 1 % l.extAt 2, n / l.extAt 0 / l.extAt 1 / l.extAt 2]

/-- The linear index of an index. -/
def Layout.linear (l : Layout) (c : List Nat) : Nat :=
  c.getD 0 0 + l.extAt 0 * (c.getD 1 0 + l.extAt 1 * (c.getD 2 0 + l.extAt 2 * c.getD 3 0))

/-- The address of an element's first byte, and whether it is the upper half of it (R211). -/
def Layout.elem (l : Layout) (c : List Nat) : Word × Bool :=
  let off : Int := ((c.getD 0 0 * l.bits / 8 : Nat) : Int) + (c.getD 1 0 : Int) * l.strAt 1 + (c.getD 2 0 : Int) * l.strAt 2
    + (c.getD 3 0 : Int) * l.strAt 3
  (BitVec.ofInt 64 ((l.base.toNat : Int) + off), l.bits == 4 && c.getD 0 0 % 2 == 1)

/-- Bytes that hold an element. -/
def Layout.elemBytes (l : Layout) : Nat := ceilDiv l.bits 8

/-- The first two coordinates exchanged (R213). -/
def swapCoords (c : List Nat) : List Nat := [c.getD 1 0, c.getD 0 0, c.getD 2 0, c.getD 3 0]

/-- The elements that an operation moves: source and destination index, in ascending linear index of the destination. -/
def movedElems (op : Nat) (a b : Layout) (len : Nat) : List (List Nat × List Nat) :=
  if op = 1 then
    ((List.range (b.ext.foldl (· * ·) 1)).map (fun n => (swapCoords (b.coords n), b.coords n))).filter
      (fun p => decide (p.1.getD (a.ndim - 1) 0 < len))
  else (List.range (a.inner * len)).map (fun n => (a.coords n, b.coords n))

/-- Bytes that an operation writes to its destination (R140, R79). -/
def copyBytes (b : Layout) (a : Layout) (len : Nat) : Nat := ceilDiv (a.inner * len * b.bits) 8

end Sys2Proof.Machine
end

