-- ==== Sys2Proof/Machine/Engine.lean ====
section
/-! DEFINITION. How an engine moves data: it reads what an operation names, computes, and writes; what holds it, what
makes it wait and what poison does (R187, R203, R208, R215). -/

namespace Sys2Proof.Machine

open Sys2Proof

/-- What an engine's run comes to: done, with the first poisoned address met; held by a fault with nothing written; or
waiting for a line or for another module. -/
inductive RunOut where
  | done (bad : Option Word) (s : State)
  | held (f : AccFault) (s : State)
  | waiting (s : State)

/-! ## Reading -/

/-- Whether a line of core scratchpad is being filled for a region map (R154). -/
def State.lineFilling (s : State) (flat : Nat) : Bool :=
  match scratchOf flat with
  | some (w, off) => (s.wg w).maps.any (fun m => m.covers (off / 128) && m.filling.any (fun f => f.line == off / 128))
  | none => false

/-- What stands before an engine's access at a resolved place: a region-map fill, or another module's answer. -/
def State.prepEngineSpot (s : State) (r : Req) (p : Spot) (n : Nat) (reads : Bool) : Prep × State :=
  match p.loc with
  | .flat x =>
    if s.lineAbsent x then (.wait, s.startMapFill x r.fill)
    else if s.lineFilling x then (.wait, s)
    else (.ready, s)
  | .peer m off c => if reads then s.prepPeer r none m off c n else (.ready, s)
  | _ => (.ready, s)

/-- One access of an engine: its address, length and kind. -/
abbrev Access := Word × Nat × AccKind

/-- Whether an operation reads from a page on which its group had side-log entries at its issue: they are replayed before (R187, R188). -/
def State.opLogged (s : State) (r : Req) (x : Access) : Bool :=
  match r.who with
  | .operation id => x.2.2 == .read && isGlobal x.1 && s.ops.any (fun o => o.id == id &&
      (s.core (s.coreOf o.wg)).sideLog.any (fun e => e.thread.wg == o.wg && some e.thread.grp == o.grp && decide (e.order < o.order)
        && (pageOf e.va == pageOf x.1.toNat || pageOf e.va == pageOf (x.1.toNat + x.2.1 - 1))))
  | _ => false

/-- What stands before one access of an engine. -/
def State.prepEngine (s : State) (r : Req) (x : Access) : Prep × State :=
  if s.opLogged r x then (.wait, s) else
  match s.resolve r spGeneric x.1 x.2.1 x.2.2 with
  | (.error f, s') => (.fault f, s')
  | (.ok p, s') => s'.prepEngineSpot r p x.2.1 (x.2.2 == .read)

/-- The accesses that a byte range takes. -/
def spanAccesses (k : AccKind) (x : Word × Nat) : List Access :=
  (pieces x.1.toNat x.2).map (fun p => (x.1 + BitVec.ofNat 64 p.1, p.2, k))

/-- What stands before all accesses of a run. -/
def State.prepRun (s : State) (r : Req) (xs : List Access) : Prep × State :=
  prepAll s (xs.map (fun x t => t.prepEngine r x))

/-- Bytes read by an engine; `bad` where they are poisoned (R215). -/
structure Chunk where
  bytes : List Byte
  bad : Bool
  deriving DecidableEq, Repr

/-- One prepared piece taken; `none` as bad address stands for poison of another module or of a dead request. -/
def State.takePiece (s : State) (r : Req) (v : View) (a : Word) (n : Nat) : Chunk × Option Word × State :=
  match s.resolve r spGeneric a n .read with
  | (.error _, s') => (⟨List.replicate n 0, true⟩, some a, s')
  | (.ok p, s') =>
    match p.loc with
    | .peer m off _ =>
      (match s'.findFab r.who r.thread none m off n with
       | some q => (⟨if q.poisoned then List.replicate n 0 else q.bytes, q.poisoned⟩, none, s')
       | none => (⟨List.replicate n 0, true⟩, none, s'))
    | _ =>
      match (s'.touchSpot p false).readLoc r (p.view v) p.loc n with
      | (.bytes b, t) => (⟨b, false⟩, none, t)
      | (.poison c _ _, t) => (⟨List.replicate n 0, true⟩, if c then none else some a, t)

/-- Several pieces taken; the first local poisoned address. -/
def State.takePieces (s : State) (r : Req) (v : View) (a : Word) (ps : List (Nat × Nat)) : Chunk × Option Word × State :=
  match ps with
  | [] => (⟨[], false⟩, none, s)
  | (off, n) :: t =>
    let x := s.takePiece r v (a + BitVec.ofNat 64 off) n
    let y := x.2.2.takePieces r v a t
    (⟨x.1.bytes ++ y.1.bytes, x.1.bad || y.1.bad⟩, x.2.1.orElse (fun _ => y.2.1), y.2.2)

/-- Byte ranges taken in order. -/
def State.takeSpans (s : State) (r : Req) (v : View) (xs : List (Word × Nat)) : List Chunk × Option Word × State :=
  match xs with
  | [] => ([], none, s)
  | x :: t =>
    let c := s.takePieces r v x.1 (pieces x.1.toNat x.2)
    let y := c.2.2.takeSpans r v t
    (c.1 :: y.1, c.2.1.orElse (fun _ => y.2.1), y.2.2)

/-- The answers that a run has used are dropped; its writes stay outstanding until they are acknowledged (R32). -/
def State.dropAnswers (s : State) (who : Party) : State :=
  { s with fabReqs := s.fabReqs.filter (fun q => !(q.who == who && q.op.isNone && q.answered)) }

/-! ## Writing -/

/-- What an engine puts at an address: an operation, half a byte, or one bit of a byte. -/
inductive PutVal where
  | op (o : WriteOp)
  | nibble (high : Bool) (v : Nat) (bad : Bool)
  | bit (k : Nat) (v : Bool)
  deriving DecidableEq, Repr

structure Put where
  addr : Word
  val : PutVal
  deriving DecidableEq, Repr

/-- A byte with one half replaced. -/
def setNibble (b : Byte) (high : Bool) (v : Nat) : Byte :=
  BitVec.ofNat 8 (if high then b.toNat % 16 + 16 * (v % 16) else b.toNat / 16 * 16 + v % 16)

/-- A byte with one bit replaced. -/
def setBit (b : Byte) (k : Nat) (v : Bool) : Byte :=
  if v then b ||| BitVec.ofNat 8 (2 ^ k) else b &&& ~~~(BitVec.ofNat 8 (2 ^ k))

/-- Bytes an operation covers that a put writes. -/
def PutVal.len (v : PutVal) : Nat := match v with | .op o => o.len | _ => 1

/-- The kind of access of a put. -/
def PutVal.kind (v : PutVal) : AccKind := match v with | .op o => o.kind | _ => .write

/-- The write operations of a put at an address, cut at 8-byte boundaries; `old` is the byte that a partial put keeps. -/
def PutVal.ops (v : PutVal) (a : Word) (old : Byte) : List (Word × WriteOp) :=
  match v with
  | .op (.store bs) => (pieces a.toNat bs.length).map (fun p => (a + BitVec.ofNat 64 p.1, .store ((bs.drop p.1).take p.2)))
  | .op (.poisoned n) => (pieces a.toNat n).map (fun p => (a + BitVec.ofNat 64 p.1, .poisoned p.2))
  | .op o => [(a, o)]
  | .nibble h x bad => if bad then [(a, .poisoned 1)] else [(a, .store [setNibble old h x])]
  | .bit k x => [(a, .store [setBit old k x])]

/-- Whether a put keeps part of a byte. -/
def PutVal.partly (v : PutVal) : Bool := match v with | .op _ => false | _ => true

/-- Whether a put writes poison. -/
def PutVal.bad (v : PutVal) : Bool :=
  match v with
  | .op (.poisoned _) => true
  | .nibble _ _ b => b
  | _ => false

/-- Write operations performed through translation one after another. -/
def State.putOps (s : State) (r : Req) (xs : List (Word × WriteOp)) : Except AccFault State :=
  match xs with
  | [] => .ok s
  | (a, o) :: t =>
    match s.resolve r spGeneric a o.len o.kind with
    | (.error f, _) => .error f
    | (.ok p, s') => ((s'.touchSpot p true).performLoc r.who r.thread p.loc o).putOps r t

/-- One put performed. -/
def State.putOne (s : State) (r : Req) (p : Put) : Except AccFault State :=
  if p.val.partly then
    let old := s.takePiece r .now p.addr 1
    old.2.2.putOps r (p.val.ops p.addr (old.1.bytes.headD 0))
  else s.putOps r (p.val.ops p.addr 0)

/-- Puts performed in order. -/
def State.putAll (s : State) (r : Req) (ps : List Put) : Except AccFault State :=
  match ps with
  | [] => .ok s
  | p :: t =>
    match s.putOne r p with
    | .ok s' => s'.putAll r t
    | .error f => .error f

/-- The lowest address that receives poison. -/
def lowestBad (ps : List Put) : Option Word :=
  (leastNat ((ps.filter (fun p => p.val.bad)).map (fun p => p.addr.toNat))).map (BitVec.ofNat 64)

/-- The accesses that a put takes. -/
def Put.accesses (p : Put) : List Access :=
  spanAccesses p.val.kind (p.addr, p.val.len) ++ (if p.val.partly then [(p.addr, 1, .read)] else [])

/-- A put whose data an engine's buffer has lost (R286). -/
def Put.lost (p : Put) : Put :=
  match p.val with
  | .op o => { p with val := .op (.poisoned o.len) }
  | .nibble h v _ => { p with val := .nibble h v true }
  | .bit _ _ => p

/-- The engine that works for a requester, if one does (R208). -/
def Req.engine (r : Req) : Option Nat :=
  match r.who with
  | .operation o => some (Config.engineOf o)
  | .command k => some (Config.engineOf k)
  | _ => none

/-- What leaves the buffers of an engine (R286): data that fails its check there is poison. -/
def State.fromBuffers (s : State) (r : Req) (ps : List Put) : List Put × State :=
  match r.engine with
  | none => (ps, s)
  | some n =>
    if (FMap.find s.errInjs (arrayId 12 n)).isNone then (ps, s)
    else ps.zipIdx.foldl (fun (acc : List Put × State) x =>
      let e := acc.2.eccKept (arrayId 12 n) x.2 r.ctx
      (acc.1 ++ [if e.1 then x.1.lost else x.1], e.2)) ([], s)

/-- Write operations likewise as they leave an engine's buffers. -/
def State.opsFromBuffers (s : State) (r : Req) (xs : List (Word × WriteOp)) : List (Word × WriteOp) × State :=
  let b := s.fromBuffers r (xs.map (fun x => { addr := x.1, val := .op x.2 }))
  (b.1.filterMap (fun p => match p.val with | .op o => some (p.addr, o) | _ => none), b.2)

/-- A run that reads ranges, computes puts from them, and writes those (R212, R215): poisoned where what a put is made of is. -/
def State.moveRun (s : State) (r : Req) (v : View) (reads : List (Word × Nat)) (compute : List Chunk → List Put) : RunOut :=
  match s.prepRun r (reads.flatMap (spanAccesses .read)) with
  | (.wait, t) => .waiting t
  | (.fault f, t) => .held f t
  | (.ready, t) =>
    let got := t.takeSpans r v reads
    let buffered := got.2.2.fromBuffers r (compute got.1)
    let puts := buffered.1
    match buffered.2.prepRun r (puts.flatMap Put.accesses) with
    | (.wait, u) => .waiting u
    | (.fault f, u) => .held f u
    | (.ready, u) =>
      match u.putAll r puts with
      | .error f => .held f u
      | .ok done =>
        .done (if puts.any (fun p => p.val.bad) then got.2.1.orElse (fun _ => lowestBad puts) else none)
          (done.dropAnswers r.who)

/-- A store of bytes, or of poison in their place. -/
def putBytes (a : Word) (bs : List Byte) (bad : Bool) : Put :=
  { addr := a, val := .op (if bad then .poisoned bs.length else .store bs) }

end Sys2Proof.Machine
end

