-- ==== Sys2Proof/Machine/Copy.lean ====
section
/-! DEFINITION. What the copy engines compute: plain, transpose, convert, compress, decompress and re-pack (R212 to
R216), gather and scatter (R392, R393). -/

namespace Sys2Proof.Machine

open Sys2Proof

/-! ## Elements (R213, R214) -/

/-- The bits of an element in the chunk that holds it. -/
def chunkElem (bits : Nat) (high : Bool) (c : Chunk) : Nat :=
  if bits = 4 then (c.bytes.headD 0).toNat / (if high then 16 else 1) % 16 else ofLe c.bytes

/-- An element put at its place. -/
def putElem (l : Layout) (c : List Nat) (v : Nat) (bad : Bool) : Put :=
  let e := l.elem c
  if l.bits = 4 then { addr := e.1, val := .nibble e.2 v bad }
  else putBytes e.1 (leBytes l.elemBytes v) bad

/-- The two halves of one byte put together. -/
def joinNibbles (ps : List Put) : List Put :=
  match ps with
  | [] => []
  | [p] => [p]
  | p :: q :: t =>
    match p.val, q.val with
    | .nibble false x b, .nibble true y c =>
      if p.addr = q.addr then
        putBytes p.addr [BitVec.ofNat 8 (x % 16 + 16 * (y % 16))] (b || c) :: joinNibbles t
      else p :: joinNibbles (q :: t)
    | _, _ => p :: joinNibbles (q :: t)

/-- CVT of a record: rounding and saturation (R209). -/
def cvtMode (cvt : Nat) : Mode := Mode.ofCode (cvt % 4)
def cvtSat (cvt : Nat) : Bool := cvt / 4 % 2 == 1

/-- An element converted between two formats of R210 (R214, R260). -/
def convertFmt (x src dst cvt : Nat) : Nat :=
  match fmtElem src, fmtElem dst with
  | some a, some b => (convert x a b (cvtMode cvt) (cvtSat cvt)).1
  | _, _ => x

/-- The puts of an elementwise copy from the chunks of its source elements. -/
def elemPuts (op : Nat) (a b : Layout) (len : Nat) (cs : List Chunk) : List Put :=
  joinNibbles (((movedElems op a b len).zip cs).map (fun x =>
    let v := chunkElem a.bits (a.elem x.1.1).2 x.2
    putElem b x.1.2 (if op = 4 then convertFmt v a.fmt b.fmt b.cvt else v) x.2.bad))

/-! ## Pages (R216) -/

/-- Pages that LEN elements make. -/
def pageCount (packed : Layout) (len : Nat) : Nat := len * cmodeBytes packed.cmode / 4096

/-- A page read as 8-byte words. -/
def pageReads (base : Word) (k : Nat) : List (Word × Nat) :=
  (List.range 512).map (fun i => (base + BitVec.ofNat 64 (4096 * k + 8 * i), 8))

/-- A page written as 8-byte words. -/
def pagePuts (base : Word) (k : Nat) (bytes : List Byte) (bad : Nat → Bool) : List Put :=
  (List.range 512).map (fun i => putBytes (base + BitVec.ofNat 64 (4096 * k + 8 * i)) ((bytes.drop (8 * i)).take 8) (bad i))

/-- The mark of page `k` in the plain-page bitmap, if there is one. -/
def bitmapPut (aux : Word) (k : Nat) (plain : Bool) : List Put :=
  if aux = 0 then [] else [{ addr := aux + BitVec.ofNat 64 (k / 8), val := .bit (k % 8) plain }]

/-- Whether word `w` of an image holds something of the stored bytes of block `i`; a block of KIND 0 has only its descriptor. -/
def blockHas (e : Nat) (image : List Byte) (i w : Nat) : Bool :=
  let d := BitVec.ofNat 32 (fieldLe image (4 * i) 4)
  if field d 31 30 = 0 then w == i / 2
  else decide (vbdOffset i d < 8 * w + 8) && decide (8 * w < vbdOffset i d + vbdStoredLen e d)

/-- One logical page written compressed, or plain where it does not fit; `bad` are its poisoned words (R215). -/
def packPage (d : Layout) (k : Nat) (page : List Byte) (bad : Nat → Bool) : List Put :=
  let e := cmodeBytes d.cmode
  match vbdImage e page with
  | some image =>
    let blocks := (List.range 16).filter (fun i => (upFrom (32 * i) 32).any bad)
    pagePuts d.base k image (fun w => blocks.any (fun i => blockHas e image i w)) ++ bitmapPut d.aux k false
  | none => pagePuts d.base k page bad ++ bitmapPut d.aux k true

/-- Poison of the stored bytes that block `i` of an image needs, its descriptor among them. -/
def blockBad (e : Nat) (image : List Byte) (bad : Nat → Bool) (i : Nat) : Bool :=
  bad (i / 2) || (List.range 512).any (fun w => bad w && blockHas e image i w)

/-- The logical page of an image: each block's bytes and whether they are poison. -/
def unpackPage (e : Nat) (image : List Byte) (bad : Nat → Bool) : List (List Byte × Bool) :=
  ((vbdPage e image).zip (List.range 16)).map (fun x =>
    match x.1 with
    | some bytes => (bytes, blockBad e image bad x.2)
    | none => (List.replicate 256 0, true))

/-- The chunks of page `k`. -/
def pageChunks (cs : List Chunk) (k : Nat) : List Chunk := (cs.drop (512 * k)).take 512

/-- The puts of one page of compress, decompress or re-pack. -/
def pageStep (op : Nat) (a b : Layout) (cs : List Chunk) (k : Nat) : List Put :=
  let ch := pageChunks cs k
  let bytes := ch.flatMap (fun c => c.bytes)
  let bad := fun i => match ch[i]? with | some c => c.bad | none => false
  if op = 2 then packPage b k bytes bad
  else
    let blocks := unpackPage (cmodeBytes a.cmode) bytes bad
    let lost := fun i => match blocks[i / 32]? with | some x => x.2 | none => false
    if op = 3 then pagePuts b.base k (blocks.flatMap (fun x => x.1)) lost
    else packPage b k (blocks.flatMap (fun x => x.1)) lost

/-! ## The run of a copy of OP 0 to 5 -/

/-- What a copy reads. -/
def copyReads (op : Nat) (a b : Layout) (len : Nat) : List (Word × Nat) :=
  if op = 2 ∨ op = 3 ∨ op = 5 then (List.range (pageCount (if op = 2 then b else a) len)).flatMap (pageReads a.base)
  else (movedElems op a b len).map (fun x => ((a.elem x.1).1, a.elemBytes))

/-- What a copy writes. -/
def copyPuts (op : Nat) (a b : Layout) (len : Nat) (cs : List Chunk) : List Put :=
  if op = 2 ∨ op = 3 ∨ op = 5 then
    (List.range (pageCount (if op = 2 then b else a) len)).flatMap (pageStep op a b cs)
  else elemPuts op a b len cs

/-- Whether a copy moves nothing: OP 0 onto its own range (R213). -/
def copyIdle (op : Nat) (a b : Layout) : Bool := op == 0 && a.span == b.span

/-- A copy of OP 0 to 5. -/
def State.copyRun (s : State) (r : Req) (v : View) (op : Nat) (src dst : List Byte) (len : Nat) : RunOut :=
  let a := Layout.ofBytes src
  let b := Layout.ofBytes dst
  if copyIdle op a b then .done none s
  else s.moveRun r v (copyReads op a b len) (copyPuts op a b len)

/-- Bytes that a copy writes. -/
def copyWritten (op : Nat) (src dst : List Byte) (len : Nat) : Nat :=
  let a := Layout.ofBytes src
  let b := Layout.ofBytes dst
  if copyIdle op a b then 0 else copyBytes b a len

/-! ## Gather and scatter (R392, R393) -/

/-- A gather record (R392). -/
structure GatherRec where
  tab : Word
  idx : Word
  buf : Word
  count : Nat
  rowb : Nat
  tstr : Word
  limit : Nat
  idxw : Nat
  op : Nat
  deriving DecidableEq, Repr

def GatherRec.ofBytes (bs : List Byte) : GatherRec :=
  { tab := BitVec.ofNat 64 (fieldLe bs 0 8), idx := BitVec.ofNat 64 (fieldLe bs 8 8), buf := BitVec.ofNat 64 (fieldLe bs 16 8)
    count := fieldLe bs 24 4, rowb := fieldLe bs 28 4, tstr := BitVec.ofNat 64 (fieldLe bs 32 8), limit := fieldLe bs 40 8
    idxw := fieldLe bs 48 1, op := fieldLe bs 49 1 }

/-- Bytes of an index. -/
def GatherRec.ib (g : GatherRec) : Nat := if g.idxw = 0 then 4 else 8

/-- The check of a gather record (R208, R392). -/
def State.gatherCheck (s : State) (r : Req) (scatter : Bool) (bs : List Byte) : Check :=
  let g := GatherRec.ofBytes bs
  .ofBool (g.tab.toNat % 8 == 0 && g.idx.toNat % g.ib == 0 && g.buf.toNat % 8 == 0 && decide (g.count ≤ 2 ^ 24)
    && g.rowb % 8 == 0 && decide (8 ≤ g.rowb) && decide (g.rowb ≤ 65536) && g.tstr.toNat % 8 == 0 && decide (g.idxw ≤ 1)
    && (if scatter then decide (g.op ≤ 5) else g.op == 0) && zeroIn bs 50 64
    && s.spanOk r false (g.idx.toNat, g.count * g.ib) && s.spanOk r false (g.buf.toNat, g.count * g.rowb))

/-- The address of a row. -/
def GatherRec.row (g : GatherRec) (x : Nat) : Word := g.tab + BitVec.ofNat 64 x * g.tstr

/-- The 8-byte words of a row from an address on. -/
def rowWords (a : Word) (n : Nat) : List (Word × Nat) := (List.range (n / 8)).map (fun i => (a + BitVec.ofNat 64 (8 * i), 8))

/-- The words of a row that lie in a space's valid offsets (R208). -/
def State.validWords (s : State) (r : Req) (ws : List (Word × Nat)) : List (Word × Nat) :=
  ws.filter (fun w => (s.decodeAddr r spGeneric w.1 8).isSome)

/-- A NONCANON record of an engine, one for each row with a word outside its space (R208). -/
def State.postRows (s : State) (r : Req) (rows : List (List (Word × Nat))) : State :=
  rows.foldl (fun t ws =>
    match ws.find? (fun w => (s.decodeAddr r spGeneric w.1 8).isNone) with
    | some w => t.postFault r.ctx (match r.wg with
        | some g => t.threadRec { wg := g, grp := r.grp, lane := r.lane.getD 0 } 0x06 2 0 w.1 0 0 0
        | none => faultRec 0x06 2 0 w.1 0 0 0 0 0 0 0 0)
    | none => t) s

/-- The indices of a gather, read under the view at issue. -/
def State.gatherIndices (s : State) (r : Req) (v : View) (g : GatherRec) : List Chunk × Option Word × State :=
  s.takeSpans r v ((List.range g.count).map (fun i => (g.idx + BitVec.ofNat 64 (i * g.ib), g.ib)))

/-- The accesses to the indices. -/
def GatherRec.idxAccesses (g : GatherRec) : List Access :=
  (List.range g.count).map (fun i => (g.idx + BitVec.ofNat 64 (i * g.ib), g.ib, .read))

/-- The words of a gathered row from what was read: a word outside its space is poison. -/
def State.rowChunks (s : State) (r : Req) (v : View) (ws : List (Word × Nat)) : List Chunk × Option Word × State :=
  ws.foldl (fun (acc : List Chunk × Option Word × State) w =>
    if (s.decodeAddr r spGeneric w.1 8).isSome then
      let c := acc.2.2.takeSpans r v [w]
      (acc.1 ++ c.1, acc.2.1.orElse (fun _ => c.2.1), c.2.2)
    else (acc.1 ++ [⟨List.replicate 8 0, true⟩], acc.2.1, acc.2.2)) ([], none, s)

/-- The puts of `gat` for index `i`: the row's words, or zeros. -/
def gatherPuts (g : GatherRec) (i : Nat) (cs : List Chunk) : List Put :=
  ((List.range (g.rowb / 8)).zip cs).map (fun x =>
    putBytes (g.buf + BitVec.ofNat 64 (i * g.rowb + 8 * x.1)) x.2.bytes x.2.bad)

/-- gat (R393). -/
def State.gatherRun (s : State) (r : Req) (v : View) (bs : List Byte) : RunOut :=
  let g := GatherRec.ofBytes bs
  match s.prepRun r g.idxAccesses with
  | (.wait, t) => .waiting t
  | (.fault f, t) => .held f t
  | (.ready, t) =>
    let ix := t.gatherIndices r v g
    let rows := ix.1.map (fun c => if !c.bad && decide (ofLe c.bytes < g.limit) then rowWords (g.row (ofLe c.bytes)) g.rowb else [])
    let dst := (List.range g.count).flatMap (fun i => rowWords (g.buf + BitVec.ofNat 64 (i * g.rowb)) g.rowb)
    match ix.2.2.prepRun r (rows.flatMap (fun ws => (ix.2.2.validWords r ws).map (fun w => (w.1, w.2, .read)))
        ++ dst.map (fun w => (w.1, w.2, .write))) with
    | (.wait, u) => .waiting u
    | (.fault f, u) => .held f u
    | (.ready, u) =>
      let zero := List.replicate (g.rowb / 8) (⟨List.replicate 8 0, false⟩ : Chunk)
      let poison := List.replicate (g.rowb / 8) (⟨List.replicate 8 0, true⟩ : Chunk)
      let got := (rows.zip ix.1).foldl (fun (acc : List (List Chunk) × Option Word × State) x =>
        if x.2.bad then (acc.1 ++ [poison], acc.2.1, acc.2.2)
        else if x.1.isEmpty then (acc.1 ++ [zero], acc.2.1, acc.2.2)
        else
          let c := acc.2.2.rowChunks r v x.1
          (acc.1 ++ [c.1], acc.2.1.orElse (fun _ => c.2.1), c.2.2)) ([], ix.2.1, u)
      let buffered := got.2.2.fromBuffers r (((List.range g.count).zip got.1).flatMap (fun x => gatherPuts g x.1 x.2))
      let puts := buffered.1
      match buffered.2.putAll r puts with
      | .error f => .held f u
      | .ok done =>
        .done (if puts.any (fun p => p.val.bad) then got.2.1.orElse (fun _ => lowestBad puts) else none)
          ((done.postRows r rows).dropAnswers r.who)

/-- The tag with which a scatter's OP adds (R392). -/
def scatterTag (op : Nat) : Tag :=
  match op with
  | 1 => 7
  | 2 => 2
  | 3 => 1
  | 4 => 9
  | _ => 8

/-- One word of a scattered row as an operation. -/
def scatterOp (op : Nat) (c : Chunk) : WriteOp :=
  if c.bad then .poisoned 8
  else if op = 0 then .store c.bytes
  else .reduce 0 (scatterTag op) false (BitVec.ofNat 64 (ofLe c.bytes))

/-- The words that an `sct` writes, in ascending i; a word outside its space is discarded (R208, R393). -/
def State.scatterWords (s : State) (r : Req) (g : GatherRec) (rows : List (Nat × Nat)) (cs : List (List Chunk)) :
    List (Word × WriteOp) :=
  (rows.zip cs).flatMap (fun x =>
    ((rowWords (g.row x.1.2) g.rowb).zip x.2).filterMap (fun y =>
      if (s.decodeAddr r spGeneric y.1.1 8).isSome then some (y.1.1, scatterOp g.op y.2) else none))

/-- Entries of an engine's operation staged at its place in the program order of its group, or of the Helm (R99, R393). -/
def State.stageOps (s : State) (w grp order : Nat) (helm priv : Bool) (ops : List (Word × WriteOp)) : State :=
  let new := ops.map (fun x => ({ wg := w, grp := grp, order := order, helm := helm, va := x.1.toNat, op := x.2, priv := priv } : Staged))
  let early := s.staged.takeWhile (fun e => !(e.wg == w && e.helm == helm && e.grp == grp && decide (order < e.order)))
  if (s.wg w).killed then s else { s with staged := early ++ new ++ s.staged.drop early.length }

/-- Room in the staging share before an operation of a workgroup stages anything (R101). -/
def State.opRoom (s : State) (w : Option Nat) : Bool × State := match w with | some w => s.shareRoom w | none => (true, s)

/-- sct (R393). Global words of a staging workgroup are staged; the others are performed. -/
def State.scatterRun (s : State) (r : Req) (v : View) (order : Nat) (bs : List Byte) : RunOut :=
  let g := GatherRec.ofBytes bs
  let room := if isGlobal g.tab then s.opRoom r.wg else (true, s)
  let s := room.2
  if !room.1 then .waiting s else
  let src := (List.range g.count).flatMap (fun i => rowWords (g.buf + BitVec.ofNat 64 (i * g.rowb)) g.rowb)
  match s.prepRun r (g.idxAccesses ++ src.map (fun w => (w.1, w.2, .read))) with
  | (.wait, t) => .waiting t
  | (.fault f, t) => .held f t
  | (.ready, t) =>
    let ix := t.gatherIndices r v g
    let rows := ((List.range g.count).zip ix.1).filterMap (fun x =>
      if !x.2.bad && decide (ofLe x.2.bytes < g.limit) then some (x.1, ofLe x.2.bytes) else none)
    let got := rows.foldl (fun (acc : List (List Chunk) × Option Word × State) x =>
      let c := acc.2.2.takeSpans r v (rowWords (g.buf + BitVec.ofNat 64 (x.1 * g.rowb)) g.rowb)
      (acc.1 ++ [c.1], acc.2.1.orElse (fun _ => c.2.1), c.2.2)) ([], ix.2.1, ix.2.2)
    let buffered := got.2.2.opsFromBuffers r (got.2.2.scatterWords r g rows got.1)
    let ops := buffered.1
    let staging := match r.wg with | some w => s.stages w | none => false
    let now := ops.filter (fun x => !(staging && isGlobal x.1))
    let later := ops.filter (fun x => staging && isGlobal x.1)
    match buffered.2.prepRun r (now.map (fun x => (x.1, 8, x.2.kind))) with
    | (.wait, u) => .waiting u
    | (.fault f, u) => .held f u
    | (.ready, u) =>
      match u.putOps r now with
      | .error f => .held f u
      | .ok done =>
        .done got.2.1 (((done.stageOps (r.wg.getD 0) r.grp order false r.priv later).postRows r
          (rows.map (fun x => rowWords (g.row x.2) g.rowb))).dropAnswers r.who)

end Sys2Proof.Machine
end

