-- ==== Sys2Proof/Machine/Chain.lean ====
section
/-! DEFINITION. The chain stage (R218 to R220) and Moraine (R221 to R224). -/

namespace Sys2Proof.Machine

open Sys2Proof

/-! ## The chain command (R218, R219) -/

/-- An operation word (R219). -/
structure ChainOp where
  opc : Nat
  dst : Nat
  a : Nat
  b : Nat
  c : Nat
  cls : Nat
  low : Nat
  deriving DecidableEq, Repr

def ChainOp.ofNat (w : Nat) : ChainOp :=
  { opc := w / 2 ^ 27 % 32, dst := w / 2 ^ 24 % 8, a := w / 2 ^ 20 % 16, b := w / 2 ^ 16 % 16, c := w / 2 ^ 12 % 16
    cls := w / 2 ^ 10 % 4, low := w % 2 ^ 10 }

/-- The domain in which an operation is defined (0 FP32, 1 I32, 2 both), its sources, and its classes (R219). -/
def chainShape (opc : Nat) : Option (Nat × Nat × List Nat) :=
  match opc with
  | 1 => some (0, 2, [0])
  | 2 => some (0, 2, [0])
  | 3 => some (0, 2, [0, 1, 2])
  | 4 => some (0, 3, [0, 1, 2])
  | 5 => some (0, 2, [0])
  | 6 => some (0, 2, [0])
  | 7 => some (0, 1, [0])
  | 8 => some (0, 1, [0])
  | 9 => some (0, 1, [0, 2])
  | 10 => some (0, 1, [0, 2])
  | 11 => some (0, 1, [0, 2])
  | 12 => some (2, 3, [0])
  | 13 => some (2, 1, [0])
  | 16 => some (1, 2, [0])
  | 17 => some (1, 2, [0])
  | 18 => some (1, 2, [0])
  | 19 => some (1, 2, [0])
  | 20 => some (1, 2, [0])
  | 21 => some (1, 2, [0])
  | 22 => some (1, 2, [0])
  | 23 => some (1, 2, [0])
  | 24 => some (1, 2, [0])
  | 25 => some (1, 2, [0])
  | 26 => some (1, 2, [0])
  | _ => none

/-- The limits of R219 on an operation word in a domain. -/
def ChainOp.ok (o : ChainOp) (dom : Nat) : Bool :=
  match chainShape o.opc with
  | none => false
  | some (d, n, classes) =>
    (d == 2 || d == dom) && classes.contains o.cls && o.low == 0
      && decide (o.a < 13) && (if n < 2 then o.b == 0 else decide (o.b < 13)) && (if n < 3 then o.c == 0 else decide (o.c < 13))

/-- A chain operation on 32-bit codes (R219). -/
def chainEval (dom : Nat) (o : ChainOp) (a b c : Nat) : Nat :=
  match o.opc with
  | 1 => (f32.addCodes a b).1
  | 2 => (f32.subCodes a b).1
  | 3 => (f32.mulCodes o.cls a b).1
  | 4 => f32.fmaNaN o.cls a b c
  | 5 => (f32.minCodes a b).1
  | 6 => (f32.maxCodes a b).1
  | 7 => a % f32.signBit
  | 8 => (a + f32.signBit) % 2 ^ 32
  | 9 => (f32.special 3 o.cls a).1
  | 10 => (f32.special 0 o.cls a).1
  | 11 => (f32.special 1 o.cls a).1
  | 12 => if (if dom = 0 then c % 2 ^ 31 else c) = 0 then b else a
  | 13 => a
  | 16 => (a + b) % 2 ^ 32
  | 17 => (a + 2 ^ 32 - b) % 2 ^ 32
  | 18 => a * b % 2 ^ 32
  | 19 => redInt 1 32 true a b
  | 20 => redInt 2 32 true a b
  | 21 => Nat.land a b
  | 22 => Nat.lor a b
  | 23 => Nat.xor a b
  | 24 => a * 2 ^ (b % 32) % 2 ^ 32
  | 25 => a / 2 ^ (b % 32)
  | 26 => ofInt 32 (toSigned 32 a / (2 ^ (b % 32) : Nat))
  | _ => 0

/-- What a selector names: t0 to t7, K0 to K3, the linear index (R219). -/
def chainSel (dom : Nat) (t ks : List Nat) (index sel : Nat) : Nat :=
  if sel < 8 then t.getD sel 0
  else if sel < 12 then ks.getD (sel - 8) 0
  else if dom = 1 then index % 2 ^ 32
  else (f32.round .rne false false index 0).1

/-- One operation applied to the t registers: values are read before it writes (R220). -/
def chainStepT (dom : Nat) (ks : List Nat) (index : Nat) (t : List Nat) (o : ChainOp) : List Nat :=
  t.set o.dst (chainEval dom o (chainSel dom t ks index o.a) (chainSel dom t ks index o.b) (chainSel dom t ks index o.c))

/-- A chain command record (R218). -/
structure ChainRec where
  ins : List Word
  out : Word
  nops : Nat
  dom : Nat
  outsel : Nat
  ks : List Nat
  ops : List ChainOp
  deriving DecidableEq, Repr

def ChainRec.ofBytes (bs : List Byte) : ChainRec :=
  { ins := (List.range 3).map (fun i => BitVec.ofNat 64 (fieldLe bs (8 * i) 8)), out := BitVec.ofNat 64 (fieldLe bs 24 8)
    nops := fieldLe bs 32 1, dom := fieldLe bs 33 1, outsel := fieldLe bs 34 1
    ks := (List.range 4).map (fun i => fieldLe bs (36 + 4 * i) 4)
    ops := (List.range 8).map (fun i => ChainOp.ofNat (fieldLe bs (64 + 4 * i) 4)) }

/-- Whether a format is an input of a domain (R220). -/
def chainInput (dom fmt : Nat) : Bool :=
  if dom = 0 then decide (5 ≤ fmt) && decide (fmt ≤ 10)
  else fmt == 2 || (decide (11 ≤ fmt) && decide (fmt ≤ 14)) || (decide (16 ≤ fmt) && decide (fmt ≤ 18))

/-- The limits of R218 and R219 on the command record itself. -/
def chainRecOk (bs : List Byte) : Bool :=
  let c := ChainRec.ofBytes bs
  c.ins.headD 0 != 0 && decide (1 ≤ c.nops) && decide (c.nops ≤ 8) && decide (c.dom ≤ 1) && decide (c.outsel ≤ 7)
    && zeroIn bs 35 36 && zeroIn bs 52 64 && zeroIn bs 96 128 && zeroIn bs (64 + 4 * c.nops) 96
    && (c.ops.take c.nops).all (fun o => o.ok c.dom)

/-- A layout with none of the fields that only other operations use. -/
def Layout.plain (l : Layout) : Bool := l.cmode == 0 && l.tier == 0 && l.aux == 0

/-- How an input and the output of a chain may overlap (R220). -/
def chainOverlap (a out : Layout) : Check :=
  match a.span, out.span with
  | some x, some y =>
    if Span.apart x y || (a.base == out.base && a.ndim == out.ndim && a.ext == out.ext && a.str == out.str && a.bits == out.bits)
    then .ok else .overlap
  | _, _ => .limit

/-- The check of a chain command: its record, then its layouts `ls`, inputs first, in the order of the record (R208, R220). -/
def State.chainCheck (s : State) (r : Req) (packet : Bool) (cmd : List Byte) (ins : List (List Byte)) (out : List Byte) (len : Nat) : Check :=
  let c := ChainRec.ofBytes cmd
  let o := Layout.ofBytes out
  let is := ins.map Layout.ofBytes
  (Check.ofBool (chainRecOk cmd && o.ok out && o.plain && s.layoutInside r packet o && (fmtElem o.fmt).isSome && o.fmt != 15
      && decide (len ≤ o.whole)
      && ins.all (fun b => let a := Layout.ofBytes b
          a.ok b && a.plain && a.cvt == 0 && s.layoutInside r packet a && chainInput c.dom a.fmt && a.ndim == o.ndim && a.ext == o.ext))).both
    (is.foldl (fun acc a => acc.both (chainOverlap a o)) .ok)

/-- An input element widened into the domain (R220). -/
def chainWiden (dom fmt x : Nat) : Nat :=
  if fmt = 2 then x
  else match fmtElem fmt with
    | some e => (convert x e (if dom = 0 then .fl f32 else .int 32 true) .rne false).1
    | none => x

/-- The output of a t register (R220). -/
def chainNarrow (dom : Nat) (o : Layout) (x : Nat) : Nat :=
  match fmtElem o.fmt with
  | some e => (convert x (if dom = 0 then .fl f32 else .int 32 true) e (cvtMode o.cvt) (cvtSat o.cvt)).1
  | none => x

/-- The puts of a chain from the chunks of its inputs' elements, input by input for each element. -/
def chainPuts (c : ChainRec) (is : List Layout) (o : Layout) (n : Nat) (cs : List Chunk) : List Put :=
  joinNibbles ((List.range n).map (fun k =>
    let mine := (cs.drop (k * is.length)).take is.length
    let vals := (is.zip mine).map (fun x => chainWiden c.dom x.1.fmt (chunkElem x.1.bits (x.1.elem (x.1.coords k)).2 x.2))
    let t := ((c.ops.take c.nops).foldl (chainStepT c.dom c.ks k) ((vals ++ List.replicate 8 0).take 8))
    putElem o (o.coords k) (chainNarrow c.dom o (t.getD c.outsel 0)) (mine.any (fun x => x.bad))))

/-- The layouts that a chain reads, with IN1 or IN2 absent as zeros in their places. -/
def chainSlots (c : ChainRec) (ins : List (List Byte)) : List (Option Layout) :=
  (c.ins.foldl (fun (acc : List (Option Layout) × List (List Byte)) a =>
    if a = 0 then (acc.1 ++ [none], acc.2) else (acc.1 ++ [acc.2.head?.map Layout.ofBytes], acc.2.drop 1)) ([], ins)).1

/-- A layout whose every element is the zero word at a constant: it stands for an absent input. -/
def absentLayout (o : Layout) : Layout := { o with fmt := 2, str := [0, 0, 0, 0] }

/-- chain (R220): the record, the layouts of its inputs that are present, and OUT. -/
def State.chainRun (s : State) (r : Req) (v : View) (cmd : List Byte) (ins : List (List Byte)) (out : List Byte) (len : Nat) : RunOut :=
  let c := ChainRec.ofBytes cmd
  let o := Layout.ofBytes out
  let n := o.inner * len
  let slots := chainSlots c ins
  let present := slots.filterMap (fun x => x)
  s.moveRun r v ((List.range n).flatMap (fun k => present.map (fun l => ((l.elem (l.coords k)).1, l.elemBytes))))
    (fun cs =>
      let zero : Chunk := ⟨[0, 0, 0, 0], false⟩
      let spread := (List.range n).flatMap (fun k =>
        (slots.foldl (fun (acc : List Chunk × List Chunk) x => match x with
          | some _ => (acc.1 ++ [acc.2.headD zero], acc.2.drop 1)
          | none => (acc.1 ++ [zero], acc.2)) ([], (cs.drop (k * present.length)).take present.length)).1)
      chainPuts c (slots.map (fun x => x.getD (absentLayout o))) o n spread)

/-! ## Moraine (R221 to R224) -/

/-- Bytes 8 to 55 of a SORT body (R69). -/
structure SortRec where
  keys : Word
  vals : Word
  tmp : Word
  rowShift : Nat
  hdr : Word
  key64 : Bool
  count : Nat
  rows : Nat
  deriving DecidableEq, Repr

def SortRec.ofBytes (bs : List Byte) : SortRec :=
  { keys := BitVec.ofNat 64 (fieldLe bs 0 8), vals := BitVec.ofNat 64 (fieldLe bs 8 8)
    tmp := BitVec.ofNat 64 (fieldLe bs 16 8 / 64 * 64), rowShift := fieldLe bs 16 8 % 64
    hdr := BitVec.ofNat 64 (fieldLe bs 24 8 / 64 * 64), key64 := fieldLe bs 24 8 % 2 == 1
    count := fieldLe bs 32 4, rows := fieldLe bs 36 4 }

/-- Bytes of a key. -/
def SortRec.kb (x : SortRec) : Nat := if x.key64 then 8 else 4

/-- Bytes of the header (R223, R224). -/
def SortRec.hdrLen (x : SortRec) : Nat := if x.hdr = 0 then 0 else 32 + 4 * (x.rows + 1)

/-- The ranges of a sort. -/
def SortRec.spans (x : SortRec) : List Span :=
  [(x.keys.toNat, x.count * x.kb), (x.vals.toNat, x.count * 4), (x.tmp.toNat, x.count * 12), (x.hdr.toNat, x.hdrLen)]

/-- Whether ranges are pairwise disjoint. -/
def spansApart (l : List Span) : Bool :=
  match l with
  | [] => true
  | a :: t => t.all (Span.apart a) && spansApart t

/-- The check of a sort once its bound fields are known (R69, R221). -/
def State.sortCheck (s : State) (r : Req) (packet : Bool) (bs : List Byte) : Check :=
  let x := SortRec.ofBytes bs
  (Check.ofBool (x.keys.toNat % 64 == 0 && x.vals.toNat % 64 == 0 && decide (x.count ≤ 2 ^ 31) && decide (x.rows ≤ 2 ^ 30)
      && decide (x.rowShift < 8 * x.kb) && fieldLe bs 24 8 / 8 % 8 == 0
      && x.spans.all (s.spanOk r packet))).both (if spansApart x.spans then .ok else .overlap)

/-- A pair put into a sorted list after every pair whose key is not greater: equal keys keep their order (R221). -/
def insertPair (p : Nat × Nat) (l : List (Nat × Nat)) : List (Nat × Nat) :=
  match l with
  | [] => [p]
  | q :: t => if p.1 < q.1 then p :: q :: t else q :: insertPair p t

/-- The stable ascending order of pairs (R221). -/
def sortPairs (l : List (Nat × Nat)) : List (Nat × Nat) := l.foldl (fun acc p => insertPair p acc) []

/-- The header after a sort (R224). -/
def sortHeader (x : SortRec) (ps : List (Nat × Nat)) : List Byte :=
  let ptr := (List.range (x.rows + 1)).map (fun r => (ps.filter (fun p => decide (p.1 / 2 ^ x.rowShift < r))).length)
  leBytes 4 4 ++ leBytes 4 x.rows ++ leBytes 8 (ptr.getD x.rows 0) ++ leBytes 8 x.vals.toNat ++ leBytes 8 0 ++ ptr.flatMap (leBytes 4)

/-- Free bytes: what a scratch area holds afterwards (R221). -/
def freeBytes (n from' : Nat) : List Byte := (List.range n).map (fun i => (Config.freeWord (from' + i)).setWidth 8)

/-- What a sort writes. -/
def sortPuts (x : SortRec) (free : Nat) (cs : List Chunk) : List Put :=
  let tmp := if x.count = 0 then [] else [putBytes x.tmp (freeBytes (x.count * 12) free) false]
  if cs.any (fun c => c.bad) then
    [putBytes x.keys (List.replicate (ceilDiv (x.count * x.kb) 8 * 8) 0) true, putBytes x.vals (List.replicate (ceilDiv (x.count * 4) 8 * 8) 0) true]
      ++ tmp ++ (if x.hdr = 0 then [] else [putBytes x.hdr (List.replicate (ceilDiv x.hdrLen 8 * 8) 0) true])
  else
    let vals := cs.map (fun c => ofLe c.bytes)
    let ps := sortPairs ((vals.take x.count).zip (vals.drop x.count))
    (if x.count = 0 then [] else
      [putBytes x.keys (ps.flatMap (fun p => leBytes x.kb p.1)) false, putBytes x.vals (ps.flatMap (fun p => leBytes 4 p.2)) false])
      ++ tmp ++ (if x.hdr = 0 then [] else [putBytes x.hdr (sortHeader x ps) false])

/-- The elements of an array of a sort. -/
def sortReads (base : Word) (size count : Nat) : List (Word × Nat) := (List.range count).map (fun i => (base + BitVec.ofNat 64 (i * size), size))

/-- A sort (R221). The array at the lower address is read first, so that the first poisoned address met is the lowest. -/
def State.sortRun (s : State) (r : Req) (v : View) (bs : List Byte) : RunOut :=
  let x := SortRec.ofBytes bs
  let s' := { s with freeCount := s.freeCount + x.count * 12 }
  let ks := sortReads x.keys x.kb x.count
  let vs := sortReads x.vals 4 x.count
  if x.keys.toNat ≤ x.vals.toNat then s'.moveRun r v (ks ++ vs) (sortPuts x s.freeCount)
  else s'.moveRun r v (vs ++ ks) (fun cs => sortPuts x s.freeCount (cs.drop x.count ++ cs.take x.count))

end Sys2Proof.Machine
end

