-- ==== Sys2Proof/Machine/Collective.lean ====
section
/-! DEFINITION. Who an engine works for, and the collective engines (R225 to R230). -/

namespace Sys2Proof.Machine

open Sys2Proof

/-! ## Who an engine works for -/

/-- An instruction's operation as a requester (R175, R187). -/
def AsyncOp.req (o : AsyncOp) : Req :=
  { who := .operation o.id, ctx := o.ctx, wg := some o.wg, grp := o.grp.getD 0, lane := o.lane, helm := o.grp.isNone, priv := o.priv }

/-- The party that issued an operation. -/
def AsyncOp.issuer (o : AsyncOp) : Party := match o.grp with | some g => .group o.wg g | none => .helm o.wg

/-- The view at issue (R187, R212). -/
def AsyncOp.view (o : AsyncOp) : View := .stream o.issuer o.seq o.floors o.unseen o.replayed

/-- A record about an operation (R283, SOURCE 2). -/
def State.opRec (s : State) (o : AsyncOp) (cause : Nat) (info addr detail : Word) : FaultRec :=
  s.threadRec { wg := o.wg, grp := o.grp.getD 0, lane := o.lane.getD 0 } cause 2 (info.toNat % 2 ^ 32) addr 0 0 detail

def Cmd.absent : Cmd :=
  { ctx := 0, queue := 0, index := 0, node := 0, bytes := [], phase := .done, bound := [], order := 0, status := 1,
    detail := 0, result := 0, held := false, recs := [], seqNo := 0 }

def State.cmd (s : State) (c : Nat) : Cmd := FMap.getD s.cmds c Cmd.absent
def State.setCmd (s : State) (c : Nat) (x : Cmd) : State := { s with cmds := FMap.set s.cmds c x }

/-- A record about a packet command (R283). -/
def Cmd.record (x : Cmd) (cause source : Nat) (info addr detail : Word) : FaultRec :=
  faultRec cause source (info.toNat % 2 ^ 32) addr 0 0 0 0 0 x.queue (BitVec.ofNat 64 x.index) detail

/-- The work of a command is done with a status (R78, R80). A command of which a write has completed as poisoned does not report OK
(R26). -/
def State.cmdWorked (s : State) (c : Nat) (status : BitVec 16) (detail result : Word) : State :=
  let x := s.cmd c
  let noted := status = 1 ∧ x.status = 2
  s.setCmd c
    { x with
      phase := .worked
      status := if noted then x.status else status
      detail := if noted then x.detail else detail
      result := result
      held := false }

/-! ## The record (R225) -/

/-- A COLL body as an instruction gives it (R70, R394). -/
structure CollBody where
  src : Word
  dst : Word
  comm : Word
  count : Nat
  op : Nat
  elem : Nat
  root : Nat
  deriving DecidableEq, Repr

def CollBody.ofBytes (bs : List Byte) : CollBody :=
  { src := BitVec.ofNat 64 (fieldLe bs 0 8), dst := BitVec.ofNat 64 (fieldLe bs 8 8), comm := BitVec.ofNat 64 (fieldLe bs 16 8)
    count := fieldLe bs 24 4, op := fieldLe bs 28 1, elem := fieldLe bs 29 1, root := fieldLe bs 30 2 }

/-- A communicator record (R225). -/
structure Comm where
  nrank : Nat
  rank : Nat
  rtab : Word
  commId : Nat
  ordTab : Word
  deriving DecidableEq, Repr

def Comm.ofBytes (bs : List Byte) : Comm :=
  { nrank := fieldLe bs 0 4, rank := fieldLe bs 4 4, rtab := BitVec.ofNat 64 (fieldLe bs 8 8), commId := fieldLe bs 16 8
    ordTab := BitVec.ofNat 64 (fieldLe bs 32 8) }

/-- Entry `q` of a rank table (R225). -/
def rankEntry (rtab : List Byte) (q : Nat) : Nat := fieldLe rtab (4 * q) 4
/-- The module of an entry. -/
def rankModule (e : Nat) : Nat := e % 2 ^ 13

/-- The limits of R225 on a communicator record by itself. -/
def commOk (bs : List Byte) : Bool :=
  let c := Comm.ofBytes bs
  decide (1 ≤ c.nrank) && decide (c.nrank ≤ 65536) && decide (c.rank < c.nrank) && zeroIn bs 40 64

/-- Whether a list has no two equal members. -/
def allDistinct (l : List Nat) : Bool :=
  match l with
  | [] => true
  | a :: t => !t.contains a && allDistinct t

/-- The limits of R225 on the rank table. -/
def State.rtabOk (s : State) (c : Comm) (rtab : List Byte) : Bool :=
  let es := (List.range c.nrank).map (rankEntry rtab)
  es.all (fun e => decide (e < 2 ^ 16)) && allDistinct es && rankModule (es.getD c.rank 0) == s.fabSelf.toNat

/-- Source and destination bytes of an element (R227). -/
def CollBody.srcBytes (b : CollBody) (n : Nat) : Nat := if b.elem = 1 then n + n / 32 else if b.elem = 5 then 16 * n else 4 * n
def CollBody.dstBytes (b : CollBody) (n : Nat) : Nat := if b.elem = 5 then 16 * n else 4 * n

/-- Elements in SRC and DST (R227). -/
def CollBody.srcCount (b : CollBody) (nrank : Nat) : Nat := if b.op = 1 then nrank * b.count else b.count
def CollBody.dstCount (b : CollBody) (nrank : Nat) : Nat := if b.op = 2 then nrank * b.count else b.count

/-- Whether a rank's SRC holds anything (R227). -/
def CollBody.reads (b : CollBody) (rank : Nat) : Bool := b.op != 3 || rank == b.root

def CollBody.srcSpan (b : CollBody) (c : Comm) : Span :=
  (b.src.toNat, if b.reads c.rank then b.srcBytes (b.srcCount c.nrank) else 0)
def CollBody.dstSpan (b : CollBody) (c : Comm) : Span := (b.dst.toNat, b.dstBytes (b.dstCount c.nrank))

/-- The limits of R70 and R227 on a body without its COUNT, which may be a bound field. -/
def collBodyOk (bs : List Byte) : Bool :=
  let b := CollBody.ofBytes bs
  decide (b.op ≤ 4) && decide (b.elem ≤ 5) && (b.elem != 5 || decide (2 ≤ b.op)) && (b.op != 4 || b.elem == 5)
    && (b.op == 3 || b.root == 0) && b.comm.toNat % 64 == 0 && zeroIn bs 33 40

/-- The limits on COUNT (R227, R230). -/
def CollBody.countOk (b : CollBody) : Bool := (b.elem != 1 || b.count % 32 == 0) && (b.op != 4 || b.count % 256 == 0)

/-- The ORDER table of rank 0 in a composite (R230). -/
def CollBody.orderSpan (b : CollBody) (c : Comm) : Span :=
  (c.ordTab.toNat, if b.op = 4 ∧ c.rank = 0 then 4 * c.nrank * (b.count / 256) else 0)

/-- The check of a collective's body and communicator (R208, R225 to R227). -/
def State.collPairCheck (s : State) (r : Req) (packet : Bool) (body comm : List Byte) : Check :=
  let b := CollBody.ofBytes body
  let c := Comm.ofBytes comm
  (Check.ofBool (collBodyOk body && b.countOk && commOk comm && decide (b.root < c.nrank)
      && s.onDevice r.ctx b.comm && (b.op == 4 || c.ordTab == 0)
      && s.spanOk r packet (b.srcSpan c) && s.spanOk r packet (b.dstSpan c) && s.spanOk r packet (b.orderSpan c))).both
    (if Span.apart (b.srcSpan c) (b.dstSpan c) || ((b.op == 0 || b.op == 3) && b.srcSpan c == b.dstSpan c) then .ok else .overlap)

/-- The check of a collective with its rank table (R208, R225). -/
def State.collCheck (s : State) (r : Req) (packet : Bool) (body comm rtab : List Byte) : Check :=
  (Check.ofBool (s.rtabOk (Comm.ofBytes comm) rtab)).both (s.collPairCheck r packet body comm)

/-! ## Who takes part (R226) -/

/-- A started collective of this module: its operation or command. -/
structure CollPart where
  req : Req
  view : View
  op : Option AsyncOp
  cmd : Option Nat
  job : CollJob

/-- The collectives started and not yet carried out. -/
def State.collParts (s : State) : List CollPart :=
  s.ops.filterMap (fun o => match o.kind with
    | .coll j => if o.done then none else some { req := o.req, view := o.view, op := some o, cmd := none, job := j }
    | _ => none)
  ++ s.cmds.filterMap (fun e => match e.2.phase, e.2.recs with
    | .started, [body, comm, rtab] =>
      if fieldLe e.2.bytes 0 1 = 4 then
        some { req := cmdReq e.1 e.2.ctx, view := .floor, op := none, cmd := some e.1
               job := { body := body, comm := comm, rtab := rtab, seqNo := e.2.seqNo } }
      else none
    | _, _ => none)

def CollJob.comm' (j : CollJob) : Comm := Comm.ofBytes j.comm
def CollJob.body' (j : CollJob) : CollBody := CollBody.ofBytes j.body

/-- The part that matches a rank of a collective on this module (R225, R226). -/
def State.partOf (s : State) (j : CollJob) (q : Nat) : Option CollPart :=
  s.collParts.find? (fun p => p.job.comm'.commId == j.comm'.commId && p.job.seqNo == j.seqNo && p.job.comm'.rank == q
    && rankEntry p.job.rtab q == rankEntry j.rtab q)

/-- The ranks of a collective that stand on this module. -/
def State.localRanks (s : State) (j : CollJob) : List Nat :=
  (List.range j.comm'.nrank).filter (fun q => rankModule (rankEntry j.rtab q) == s.fabSelf.toNat)

/-- The values in which matched operations must agree (R226). -/
def CollJob.agrees (a b : CollJob) : Bool :=
  a.body'.op == b.body'.op && a.body'.elem == b.body'.elem && a.body'.count == b.body'.count && a.body'.root == b.body'.root
    && a.comm'.nrank == b.comm'.nrank && a.rtab == b.rtab

/-! ## Combining (R227 to R230) -/

/-- The canonical tree over rank (R228); `fuel` is the number of values. -/
def treeSum (xs : List Nat) (fuel : Nat) : Nat :=
  match fuel with
  | 0 => xs.headD 0
  | fuel + 1 =>
    if xs.length ≤ 1 then xs.headD 0
    else
      let m := 2 ^ (bitLen (xs.length - 1) - 1)
      (f32.addCodes (treeSum (xs.take m) fuel) (treeSum (xs.drop m) fuel)).1

/-- A BX8 element as a multiple of 2^−140, or none for NaN (R255). -/
def bx8Fixed (payload scale : Nat) : Option Int :=
  if scale = 255 then none
  else match e4m3.decode payload with
    | .num n m e => some ((if n then -1 else 1) * ((m * 2 ^ (e + (scale : Int) - 127 + 140).toNat : Nat) : Int))
    | _ => none

/-- The exact sum of BX8 elements rounded once (R229). -/
def bx8Sum (xs : List (Option Int)) : Nat :=
  match xs.foldl (fun (acc : Option Int) x => match acc, x with | some a, some b => some (a + b) | _, _ => none) (some 0) with
  | none => 0x7FC00000
  | some t => (f32.round .rne false (decide (t < 0)) t.natAbs (-140)).1

/-- One pixel laid behind another (R230). -/
def compositeOver (acc b : List Nat) : List Nat :=
  ((List.range 3).map (fun c =>
    (f32.addCodes (acc.getD c 0) (f32.mulCodes 0 (acc.getD 3 0) (b.getD c 0)).1).1)) ++ [(f32.mulCodes 0 (acc.getD 3 0) (b.getD 3 0)).1]

/-- The left fold over the listed ranks of one pixel (R230). -/
def compositeFold (ps : List (List Nat)) : List Nat :=
  match ps with
  | [] => [0, 0, 0, 0x3F800000]
  | p :: t => t.foldl compositeOver p

/-- A rank's source as bytes with poison by byte. -/
abbrev Source := List (Byte × Bool)

def Source.at (x : Source) (start n : Nat) : List Byte := ((x.drop start).take n).map (fun b => b.1)
def Source.bad (x : Source) (start n : Nat) : Bool := ((x.drop start).take n).any (fun b => b.2)

/-- Element `k` of a rank as the combination reads it; a BX8 payload with the scale of its block (R227, R229). -/
def collElem (b : CollBody) (total : Nat) (x : Source) (k : Nat) : Nat × Option Int × Bool :=
  if b.elem = 1 then
    (0, bx8Fixed (ofLe (x.at k 1)) (ofLe (x.at (total + k / 32) 1)), x.bad k 1 || x.bad (total + k / 32) 1)
  else (ofLe (x.at (4 * k) 4), none, x.bad (4 * k) 4)

/-- Combine over the ranks (R227). -/
def collCombine (elem : Nat) (xs : List (Nat × Option Int)) : Nat :=
  match elem with
  | 0 => treeSum (xs.map (·.1)) xs.length
  | 1 => bx8Sum (xs.map (·.2))
  | 2 => (xs.foldl (fun a x => a + x.1) 0) % 2 ^ 32
  | 3 => (xs.map (·.1)).foldl (redInt 1 32 true) ((xs.headD (0, none)).1)
  | _ => (xs.map (·.1)).foldl (redInt 2 32 true) ((xs.headD (0, none)).1)

/-- Bytes with one poison bit for each. -/
def marked (bad : Bool) (bs : List Byte) : Source := bs.map (fun x => (x, bad))

/-- What rank `r` receives (R227): bytes with their poison. `srcs` are the ranks' sources, `lists` the composite order of each tile, with
whether it is poisoned (R215). -/
def collResult (b : CollBody) (nrank r : Nat) (srcs : List Source) (lists : List (List Nat × Bool)) : Source :=
  let total := b.srcCount nrank
  let one := fun (q k : Nat) => collElem b total (srcs.getD q []) k
  let combine := fun (k : Nat) =>
    let xs := (List.range nrank).map (fun q => one q k)
    marked (xs.any (fun x => x.2.2)) (leBytes 4 (collCombine b.elem (xs.map (fun x => (x.1, x.2.1)))))
  let copy := fun (q : Nat) =>
    if b.elem = 1 then (List.range b.count).flatMap (fun k => let x := one q k; marked x.2.2 (leBytes 4 (bx8Sum [x.2.1])))
    else (srcs.getD q []).take (b.dstBytes b.count)
  match b.op with
  | 0 => (List.range b.count).flatMap combine
  | 1 => (List.range b.count).flatMap (fun j => combine (r * b.count + j))
  | 2 => (List.range nrank).flatMap copy
  | 3 => copy b.root
  | _ => (List.range b.count).flatMap (fun k =>
      let (qs, lost) := lists.getD (k / 256) ([], false)
      let ps := qs.map (fun q => (List.range 4).map (fun c => ofLe ((srcs.getD q []).at (16 * k + 4 * c) 4)))
      marked (lost || qs.any (fun q => (srcs.getD q []).bad (16 * k) 16)) ((compositeFold ps).flatMap (leBytes 4)))

/-! ## The run -/

/-- A source as chunks of 8 bytes. -/
def sourceOf (cs : List Chunk) : Source := cs.flatMap (fun c => marked c.bad c.bytes)

/-- 8-byte pieces of a buffer. -/
def bufferSpans (a : Word) (n : Nat) : List (Word × Nat) := (pieces a.toNat n).map (fun p => (a + BitVec.ofNat 64 p.1, p.2))

/-- A part's source. -/
def CollPart.reads (p : CollPart) : List (Word × Nat) :=
  bufferSpans p.job.body'.src (p.job.body'.srcSpan p.job.comm').2

/-- A part's destination. -/
def CollPart.writes (p : CollPart) : List (Word × Nat) :=
  bufferSpans p.job.body'.dst (p.job.body'.dstSpan p.job.comm').2

/-- The ORDER table of rank 0 (R230). -/
def CollPart.ordReads (p : CollPart) : List (Word × Nat) :=
  bufferSpans p.job.comm'.ordTab (p.job.body'.orderSpan p.job.comm').2

/-- The lists of an ORDER table, each ended early by all ones (R230); of a poisoned one nothing is known. -/
def orderLists (nrank tiles : Nat) (bs : Source) : List (List Nat × Bool) :=
  (List.range tiles).map (fun t =>
    if bs.bad (4 * nrank * t) (4 * nrank) then ([], true)
    else (((List.range nrank).map (fun i => ofLe (bs.at (4 * nrank * t + 4 * i) 4))).takeWhile (· != 0xFFFFFFFF), false))

/-- Whether every list names ranks below NRANK, none twice (R230). -/
def orderOk (nrank : Nat) (ls : List (List Nat × Bool)) : Bool := ls.all (fun l => l.1.all (fun q => decide (q < nrank)) && allDistinct l.1)

/-- What stands before the accesses of all parts. -/
def State.prepParts (s : State) (ps : List CollPart) : Prep × Option CollPart × State :=
  match ps with
  | [] => (.ready, none, s)
  | p :: t =>
    match s.prepRun p.req ((p.reads ++ p.ordReads).flatMap (spanAccesses .read) ++ p.writes.flatMap (spanAccesses .write)) with
    | (.ready, u) => u.prepParts t
    | (.wait, u) => (.wait, some p, u)
    | (.fault f, u) => (.fault f, some p, u)

/-- Every part's source read. -/
def State.takeParts (s : State) (ps : List CollPart) : List (Source × Option Word) × State :=
  match ps with
  | [] => ([], s)
  | p :: t =>
    let c := s.takeSpans p.req p.view p.reads
    let r := c.2.2.takeParts t
    ((sourceOf c.1, c.2.1) :: r.1, r.2)

/-- A part is finished: its operation has only to be retired, its command's work is done (R226). -/
def State.finishPart (s : State) (p : CollPart) (status : BitVec 16) (detail : Word) : State :=
  match p.op, p.cmd with
  | some o, _ => { s with ops := s.ops.map (fun (x : AsyncOp) => if x.id == o.id then { x with kind := .idle, held := false } else x) }
  | none, some c => s.cmdWorked c status detail (BitVec.ofNat 64 p.job.body'.count)
  | none, none => s

/-- A fault record about a part. -/
def State.postPart (s : State) (p : CollPart) (cause : Nat) (info addr detail : Word) : State :=
  match p.op, p.cmd with
  | some o, _ => s.postFault o.ctx (s.opRec o cause info addr detail)
  | none, some c => s.postFault (s.cmd c).ctx ((s.cmd c).record cause 2 info addr detail)
  | none, none => s

/-- Matched operations do not agree (R226): every local rank's ends without writing. -/
def State.collMismatch (s : State) (ps : List CollPart) (rank : Nat) : State :=
  ps.foldl (fun t p => (t.postPart p 0x107 0 0 (BitVec.ofNat 64 rank)).finishPart p 2 (BitVec.ofNat 64 rank)) s

/-- A part is held by a fault until the fence that follows the repair (R203). -/
def State.holdPart (s : State) (p : CollPart) (f : AccFault) : State :=
  let s := s.postPart p f.cause.toNat f.info f.addr 0
  match p.op, p.cmd with
  | some o, _ => { s with ops := s.ops.map (fun (x : AsyncOp) => if x.id == o.id then { x with held := true } else x) }
  | none, some c => s.setCmd c { s.cmd c with held := true }
  | none, none => s

/-- A result as it leaves its engine's buffers: what fails its check there is poison (R286). -/
def State.resultFromBuffers (s : State) (r : Req) (x : Source) : Source × State :=
  match r.engine with
  | none => (x, s)
  | some n =>
    if (FMap.find s.errInjs (arrayId 12 n)).isNone then (x, s)
    else (List.range (ceilDiv x.length 8)).foldl (fun (acc : Source × State) i =>
      let e := acc.2.eccKept (arrayId 12 n) i r.ctx
      (if e.1 then acc.1.take (8 * i) ++ ((acc.1.drop (8 * i)).take 8).map (fun y => (y.1, true)) ++ acc.1.drop (8 * i + 8) else acc.1, e.2)) (x, s)

/-- The result of one part written. -/
def State.putPart (s : State) (p : CollPart) (x : Source) : Except AccFault State :=
  s.putAll p.req (p.writes.map (fun w =>
    let off := (w.1 - p.job.body'.dst).toNat
    putBytes w.1 (x.at off w.2) (x.bad off w.2)))

/-- Sources of all ranks: those of other modules are free (log entry 18). -/
def State.allSources (s : State) (nrank : Nat) (n : Nat) (have_ : List (Nat × Source)) : List Source × State :=
  ((List.range nrank).map (fun q => match FMap.find have_ q with
    | some x => x
    | none => marked false ((List.range n).map (fun i => (Config.freeWord (s.freeCount + q * n + i)).setWidth 8))),
   { s with freeCount := s.freeCount + nrank * n })

/-- The rank with which the matched operations are found to disagree, if they are: the values of ranks on other modules
are free (R226, log entry 18). -/
def State.disagreement (s : State) (j : CollJob) (ps : List CollPart) : Option Nat × State :=
  let remote := (List.range j.comm'.nrank).filter (fun q => !(s.localRanks j).contains q)
  let zero := ps.find? (fun p => p.job.comm'.rank == 0)
  let local' := match zero with
    | some z => (ps.filter (fun p => !p.job.agrees z.job)).map (fun p => p.job.comm'.rank)
    | none => []
  let differ := ps.any (fun p => !p.job.agrees j)
  if remote.isEmpty then (leastNat local', s)
  else
    let c := s.choose (j.comm'.nrank + 1)
    if zero.isSome then (leastNat (local' ++ (if c.1 = 0 then [] else (remote.drop (c.1 % remote.length)).take 1)), c.2)
    else if differ || c.1 != 0 then (some (c.1 % (j.comm'.nrank - 1) + 1), c.2)
    else (none, c.2)

/-- A collective carried out for every rank of this module at once, when all of them have started (R226). `none` where
nothing could be done yet. -/
def State.collRun (s : State) (j : CollJob) : Option State :=
  let ranks := s.localRanks j
  let ps := ranks.filterMap (s.partOf j)
  if ps.length ≠ ranks.length then none
  else
    let d := s.disagreement j ps
    match d.1 with
    | some q => some (d.2.collMismatch ps q)
    | none =>
      match d.2.prepParts ps with
      | (.wait, _, t) => some t
      | (.fault f, some p, t) => some (t.holdPart p f)
      | (.fault _, none, t) => some t
      | (.ready, _, t) =>
        let got := t.takeParts ps
        let b := j.body'
        let n := j.comm'.nrank
        let all := got.2.allSources n (b.srcBytes (b.srcCount n)) ((ps.zip got.1).map (fun x => (x.1.job.comm'.rank, x.2.1)))
        let ord := match ps.find? (fun p => p.job.comm'.rank == 0) with
          | some p => let o := all.2.takeSpans p.req p.view p.ordReads; (sourceOf o.1, o.2.1, o.2.2)
          | none => (marked false ((List.range (4 * n * (b.count / 256))).map (fun i => (Config.freeWord (all.2.freeCount + i)).setWidth 8)), none,
              { all.2 with freeCount := all.2.freeCount + 4 * n * (b.count / 256) })
        let lists := orderLists n (b.count / 256) ord.1
        if b.op = 4 ∧ !orderOk n lists then some (ord.2.2.collMismatch ps 0)
        else
          let done := (ps.zip got.1).foldl (fun (acc : Except (CollPart × AccFault) State) x =>
            match acc with
            | .error e => .error e
            | .ok u =>
              let buffered := u.resultFromBuffers x.1.req (collResult b n x.1.job.comm'.rank all.1 lists)
              let res := buffered.1
              match buffered.2.putPart x.1 res with
              | .error f => .error (x.1, f)
              | .ok u' =>
                let source := x.2.2.orElse (fun _ => if x.1.job.comm'.rank = 0 then ord.2.1 else none)
                let bad := res.any (fun y => y.2) || x.2.1.any (fun y => y.2) || source.isSome
                .ok ((u'.finishPart x.1 (if bad then 2 else 1)
                  (if bad then source.getD (x.1.job.body'.dst + BitVec.ofNat 64 (res.findIdx (fun y => y.2))) else 0)).dropAnswers x.1.req.who)) (.ok ord.2.2)
          match done with
          | .ok u => some u
          | .error e => some (s.holdPart e.1 e.2)

end Sys2Proof.Machine
end

