-- ==== Sys2Proof/Machine/Near.lean ====
section
/-! DEFINITION. Cornice commands: their records, the command order, the clear step, LOADPROG and IREDUCE (R191, R423 to
R431, R437 to R439). -/

namespace Sys2Proof.Machine

open Sys2Proof

/-! ## Records (R424 to R427) -/

/-- KIND of a record. -/
def nearKind (rec : List Byte) : Nat := fieldLe rec 0 1

/-- Bytes of a stripe (R430). -/
def stripeBytes : Nat := 524288

/-- Base of array `k` in an argument block (R425). -/
def argBase (args : List Byte) (k : Nat) : Nat := fieldLe args (8 * k) 8
/-- Scalar `k` of an argument block (R425). -/
def argScalar (args : List Byte) (k : Nat) : BitVec 32 := BitVec.ofNat 32 (fieldLe args (32 + 4 * k) 4)

/-- The arrays of a RUN record. -/
def nearArrays (rec : List Byte) : Nat := fieldLe rec 2 1
/-- WMASK of a RUN record. -/
def nearWmask (rec : List Byte) : Nat := fieldLe rec 3 1

/-- ROWB of an IREDUCE record (R426). -/
def iredRow (rec : List Byte) : Nat := 64 * fieldLe rec 1 1
/-- BAG of an IREDUCE record. -/
def iredBag (rec : List Byte) : Nat := fieldLe rec 2 2

/-- The limits of R425 and R439 on a record by itself. -/
def nearRecOk (rec : List Byte) (first count : Nat) : Bool :=
  match nearKind rec with
  | 1 => decide (1 ≤ fieldLe rec 2 2) && decide (fieldLe rec 2 2 ≤ 256) && decide (fieldLe rec 1 1 + fieldLe rec 2 2 ≤ 256)
      && zeroIn rec 4 8 && fieldLe rec 8 8 % 4 == 0 && zeroIn rec 16 32 && first == 0 && count == 0
  | 2 => decide (1 ≤ nearArrays rec) && decide (nearArrays rec ≤ 4) && decide (nearWmask rec < 2 ^ nearArrays rec) && zeroIn rec 4 8
      && fieldLe rec 8 8 % 64 == 0 && zeroIn rec 16 32
  | 3 => decide (1 ≤ fieldLe rec 1 1) && decide (fieldLe rec 1 1 ≤ 16) && decide (1 ≤ iredBag rec) && fieldLe rec 8 8 % 64 == 0
      && fieldLe rec 16 8 % 4 == 0 && fieldLe rec 24 8 % 64 == 0 && first % iredBag rec == 0 && count % iredBag rec == 0
  | _ => false

/-- The limits on the argument block of a RUN (R425). -/
def nearArgsOk (rec args : List Byte) (first count : Nat) : Bool :=
  nearKind rec != 2 || (List.range 4).all (fun k =>
    if k < nearArrays rec then argBase args k % stripeBytes == 0 && decide (argBase args k + stripeBytes * (first + count) ≤ 2 ^ 57)
    else argBase args k == 0)

/-- The limits of R424 to R426 on a command. -/
def nearOk (rec args : List Byte) (first count : Nat) : Bool := nearRecOk rec first count && nearArgsOk rec args first count

/-- The address of the argument block that a record names, if it is a RUN (R425). -/
def nearArgs (rec : List Byte) : Option Word := if nearKind rec = 2 then some (BitVec.ofNat 64 (fieldLe rec 8 8)) else none

/-! ## The command order (R428) -/

/-- The 512 units. -/
def allUnits : List Nat := List.range 512

/-- A command entered at the end of the command order. -/
def State.nearEnter (s : State) (c : NearCmd) : State := { s with near := s.near ++ [c] }

def State.nearOf (s : State) (id : Nat) : Option NearCmd := s.near.find? (fun c => c.id == id)

def State.setNear (s : State) (c : NearCmd) : State := { s with near := s.near.map (fun x => if x.id == c.id then c else x) }

/-- The command of a packet command or an operation. -/
def State.nearFor (s : State) (p : Party) : Option NearCmd := s.near.find? (fun c => c.source == p)

/-- Whether every earlier command is finished on every unit. -/
def State.nearHead (s : State) (id : Nat) : Bool := (s.near.takeWhile (fun c => c.id != id)).all (fun c => c.left.isEmpty)

/-- A command as a requester. -/
def State.nearReq (s : State) (c : NearCmd) : Req :=
  match c.source, s.ops.find? (fun o => c.source == .operation o.id) with
  | _, some o => o.req
  | .command k, none => cmdReq k c.ctx
  | _, none => { cmdReq 0 c.ctx with who := c.source }

/-- The view under which a command reads its index array, argument block and SRC (R429). -/
def NearCmd.view (c : NearCmd) : View :=
  match c.source with
  | .command _ => .floor
  | _ => .stream c.issuer c.seq c.floors [] []

/-! ## Failures (R438) -/

/-- INFO of a Cornice failure. -/
def nearInfo (reason pc unit : Nat) : Word := BitVec.ofNat 64 (reason * 2 ^ 24 + pc * 2 ^ 16 + unit)

/-- The lower of two row addresses. -/
def lowerRow (a : Option Word) (b : Word) : Option Word :=
  match a with
  | none => some b
  | some x => some (if x.toNat ≤ b.toNat then x else b)

/-- A failure posted and noted on its command. -/
def State.nearFail (s : State) (c : NearCmd) (reason pc unit : Nat) (addr row : Word) : State :=
  let cause := if reason = 5 then 0x32 else 0x31
  let s := match s.ops.find? (fun o => c.source == .operation o.id), c.source with
    | some o, _ => s.postFault c.ctx (s.opRec o cause (nearInfo reason pc unit) addr row)
    | none, .command k => s.postFault c.ctx ((s.cmd k).record cause 2 (nearInfo reason pc unit) addr row)
    | none, _ => s
  match s.nearOf c.id with
  | some x => s.setNear { x with failed := true, bad := lowerRow x.bad row }
  | none => s

/-- A command that ends on every unit before its clear step. -/
def State.nearAbort (s : State) (c : NearCmd) (reason : Nat) (addr row : Word) : State :=
  let s := s.nearFail c reason 0 0x3FF addr row
  match s.nearOf c.id with
  | some x => s.setNear { x with begun := true, left := [] }
  | none => s

/-- The reason for which a leaf is refused (R438), in its order: `big` asks for a 2 MiB leaf, `low` allows TIER 01. -/
def leafReason (l : Leaf) (big low rd wr priv : Bool) : Option Nat :=
  if 2 ≤ l.tier then some 1
  else if l.tier = 1 ∧ !low then some 5
  else if big ∧ l.level ≠ 3 then some 2
  else if l.cmp ≠ 0 then some 3
  else if (rd && !bitAt l.entry 2) || (wr && !bitAt l.entry 3) || (bitAt l.entry 6 && !priv) then some 4
  else none

/-- A leaf found for a Cornice command, or the reason it is refused. -/
def State.nearLeaf (s : State) (c : NearCmd) (va : Nat) (big low rd wr : Bool) : Except Nat Leaf × State :=
  match s.translate c.ctx va .probe c.priv with
  | (.error _, t) => (.error 1, t)
  | (.ok l, t) =>
    match leafReason l big low rd wr c.priv with
    | some r => (.error r, t)
    | none => (.ok l, t.touch l false)

/-! ## RUN: the checks before its clear step (R430) -/

/-- The stripe and array pairs of a RUN in the order of its checks. -/
def runTargets (c : NearCmd) : List (Nat × Nat) :=
  (upFrom c.first c.count).flatMap (fun st => (List.range (nearArrays c.record)).map (fun k => (st, k)))

/-- The virtual address of a stripe. -/
def stripeVa (c : NearCmd) (k st : Nat) : Nat := argBase c.args k + stripeBytes * st

/-- Every stripe looked up: its physical address and its leaf entry, or the first failure. -/
def State.runLeaves (s : State) (c : NearCmd) (ts : List (Nat × Nat)) : Except (Nat × Nat × Nat) (List (Nat × Nat)) × State :=
  match ts with
  | [] => (.ok [], s)
  | (st, k) :: t =>
    match s.nearLeaf c (stripeVa c k st) true false true (bitAt (BitVec.ofNat 4 (nearWmask c.record)) k) with
    | (.error r, u) => (.error (r, st, k), u)
    | (.ok l, u) =>
      match u.runLeaves c t with
      | (.ok ls, v) => (.ok ((l.frame * 4096 + stripeVa c k st % 4096, l.entryAt) :: ls), v)
      | e => e

/-- A list cut into rows of `n`. -/
def rowsOf {α : Type} (n : Nat) (l : List α) (count : Nat) : List (List α) :=
  (List.range count).map (fun i => (l.drop (n * i)).take n)

/-- The checks and the clear step of a RUN (R191, R430): the units may begin it. -/
def State.runBegin (s : State) (c : NearCmd) : State :=
  if c.count = 0 then s.setNear { c with begun := true, left := [] }
  else
    match s.runLeaves c (runTargets c) with
    | (.error (r, st, k), t) => t.nearAbort c r (BitVec.ofNat 64 (stripeVa c k st)) (BitVec.ofNat 64 (stripeVa c 0 st))
    | (.ok ls, t) => t.setNear { c with begun := true, window := t.writeSeq, rows := rowsOf (nearArrays c.record) ls c.count }

/-! ## Words that a command reads before it does anything (R424, R437) -/

/-- What the reading of such words comes to. -/
inductive NearWords where
  | wait
  | bad (reason : Nat) (addr : Word)
  | got (cs : List Chunk)

/-- The words of spans under a command's view; of those that cannot be read the first decides: reason 1 for a translation fault,
9 for poison (R438). -/
def State.nearWords (s : State) (c : NearCmd) (spans : List (Word × Nat)) : NearWords × State :=
  let r := s.nearReq c
  match s.prepRun r (spans.flatMap (spanAccesses .read)) with
  | (.wait, t) => (.wait, t)
  | (.fault f, t) =>
    let before := spans.takeWhile (fun x => x.1 != f.addr)
    let got := t.takeSpans r c.view before
    (match (before.zip got.1).find? (fun x => x.2.bad) with
     | some x => (.bad 9 x.1.1, got.2.2)
     | none => (.bad 1 f.addr, got.2.2))
  | (.ready, t) =>
    let got := t.takeSpans r c.view spans
    (match (spans.zip got.1).find? (fun x => x.2.bad) with
     | some x => (.bad 9 x.1.1, got.2.2)
     | none => (.got got.1, got.2.2))

/-! ## LOADPROG (R424) -/

/-- The words of a LOADPROG read, then written to every unit's store. -/
def State.loadProg (s : State) (c : NearCmd) : State :=
  let src := BitVec.ofNat 64 (fieldLe c.record 8 8)
  match s.nearWords c ((List.range (fieldLe c.record 2 2)).map (fun i => (src + BitVec.ofNat 64 (4 * i), 4))) with
  | (.wait, t) => t
  | (.bad x a, t) => t.nearAbort c x a src
  | (.got cs, t) =>
    let off := fieldLe c.record 1 1
    let store := ((List.range cs.length).zip cs).foldl (fun (m : FMap Nat (BitVec 32)) x =>
      FMap.set m (off + x.1) (BitVec.ofNat 32 (ofLe x.2.bytes))) t.progStore
    ({ t with progStore := store }.setNear { c with begun := true, left := [] }).dropAnswers (t.nearReq c).who

/-! ## IREDUCE (R437) -/

/-- The virtual address of a table row. -/
def tableRow (c : NearCmd) (i : Nat) : Nat := fieldLe c.record 8 8 + iredRow c.record * i
/-- The virtual address of a result bag. -/
def bagRow (c : NearCmd) (j : Nat) : Nat := fieldLe c.record 24 8 + iredRow c.record * j

/-- The pages that a row lies in. -/
def rowPages (va n : Nat) : List Nat := if va / 4096 = (va + n - 1) / 4096 then [va] else [va, (va + n - 1) / 4096 * 4096]

/-- The leaves of several addresses checked in order; the first failure with its reason. -/
def State.checkLeaves (s : State) (c : NearCmd) (low rd wr : Bool) (vas : List Nat) : Option (Nat × Nat) × State :=
  match vas with
  | [] => (none, s)
  | va :: t =>
    match s.nearLeaf c va false low rd wr with
    | (.error r, u) => (some (r, va), u)
    | (.ok _, u) => u.checkLeaves c low rd wr t

/-- Rows checked in order: the first failing row and reason. -/
def State.checkRows (s : State) (c : NearCmd) (low rd wr : Bool) (rows : List Nat) : Option (Nat × Nat × Nat) × State :=
  match rows with
  | [] => (none, s)
  | va :: t =>
    match s.checkLeaves c low rd wr (rowPages va (iredRow c.record)) with
    | (some (r, a), u) => (some (r, a, va), u)
    | (none, u) => u.checkRows c low rd wr t

/-- The exact sum of FP32 codes in units of 2^−149, with what an infinity or a NaN makes of it. -/
def f32Exact (xs : List Nat) : Option (FVal ⊕ Int) :=
  xs.foldl (fun acc x =>
    match acc, f32.decode x with
    | none, _ => none
    | _, .nan _ _ => none
    | some (.inl (.inf n)), .inf m => if n == m then some (.inl (.inf n)) else none
    | some (.inl v), _ => some (.inl v)
    | some (.inr _), .inf m => some (.inl (.inf m))
    | some (.inr t), .num n m e => some (.inr (t + (if n then -1 else 1) * ((m * 2 ^ (e + 149).toNat : Nat) : Int)))) (some (.inr 0))

/-- One element of a bag (R437). -/
def bagElem (xs : List Nat) : Nat :=
  match f32Exact xs with
  | none => f32.canonNaN
  | some (.inl (.inf n)) => f32.signed n f32.infCode
  | some (.inl _) => f32.canonNaN
  | some (.inr t) => (f32.round .rne false (decide (t < 0)) t.natAbs (-149)).1

/-- A selected row read from DRAM after the clear step. -/
def State.tableWords (s : State) (r : Req) (c : NearCmd) (i : Nat) : List Chunk × Option Word × State :=
  s.takeSpans r .now ((List.range (iredRow c.record / 8)).map (fun k => (BitVec.ofNat 64 (tableRow c i + 8 * k), 8)))

/-- The indices of one bag that select a row. -/
def bagSelects (c : NearCmd) (ix : List Nat) : List Nat := ix.filter (fun i => decide (i < fieldLe c.record 4 4))

/-- The puts of one bag from its rows' chunks. -/
def bagPuts (c : NearCmd) (j : Nat) (rows : List (List Chunk)) : List Put :=
  (List.range (iredRow c.record / 8)).map (fun k =>
    let cs := rows.map (fun r => r.getD k ⟨[], true⟩)
    putBytes (BitVec.ofNat 64 (bagRow c j + 8 * k))
      ((List.range 2).flatMap (fun h => leBytes 4 (bagElem (cs.map (fun x => fieldLe x.bytes (4 * h) 4)))))
      (cs.any (fun x => x.bad)))

/-- IREDUCE carried out (R437). Its clear step, its reading and its writing are one step, so its window holds no write of another. -/
def State.ireduce (s : State) (c : NearCmd) : State :=
  let r := s.nearReq c
  let idx := BitVec.ofNat 64 (fieldLe c.record 16 8)
  let bag := iredBag c.record
  let spans := (upFrom c.first c.count).map (fun p => (idx + BitVec.ofNat 64 (4 * p), 4))
  if c.count = 0 then s.setNear { c with begun := true, left := [] }
  else
    match s.nearWords c spans with
    | (.wait, t) => t
    | (.bad x a, t) => t.nearAbort c x a a
    | (.got cs, t) =>
      let ix := cs.map (fun x => ofLe x.bytes)
      match t.checkRows c false true false ((bagSelects c ix).map (tableRow c)) with
      | (some (x, a, row), u) => u.nearAbort c x (BitVec.ofNat 64 a) (BitVec.ofNat 64 row)
      | (none, u) =>
        let bags := c.count / bag
        match u.checkRows c true false true ((List.range bags).map (fun j => bagRow c (c.first / bag + j))) with
        | (some (x, a, row), w) => w.nearAbort c x (BitVec.ofNat 64 a) (BitVec.ofNat 64 row)
        | (none, w) =>
          let read := (List.range bags).foldl (fun (acc : List (List (List Chunk)) × Option Word × State) j =>
            let rows := (bagSelects c ((ix.drop (bag * j)).take bag)).foldl
              (fun (a : List (List Chunk) × Option Word × State) i =>
                let x := a.2.2.tableWords r c i
                (a.1 ++ [x.1], if x.1.any (fun y => y.bad) then lowerRow a.2.1 (BitVec.ofNat 64 (tableRow c i)) else a.2.1, x.2.2))
              ([], acc.2.1, acc.2.2)
            (acc.1 ++ [rows.1], rows.2)) ([], none, w)
          let puts := ((List.range bags).zip read.1).flatMap (fun x => bagPuts c (c.first / bag + x.1) x.2)
          match read.2.2.putAll r puts with
          | .error f => w.nearAbort c 1 f.addr f.addr
          | .ok done => (done.setNear { c with begun := true, window := w.writeSeq, left := [], bad := read.2.1 }).dropAnswers r.who

/-! ## Beginning and ending (R428, R429, R439) -/

/-- Whether the clear step may start: every write that the issuing group issued before is performed, those in the side log and those
over the fabric too (R429). -/
def State.nearReady (s : State) (c : NearCmd) : Bool :=
  match c.issuer with
  | .group w g =>
    !(s.core (s.coreOf w)).sideLog.any (fun e => e.thread.wg == w && e.thread.grp == g && decide (e.order < c.id))
      && !s.fabReqs.any (fun q => q.op.isSome && !q.answered && q.who == c.issuer && decide (q.id < c.id))
  | _ => true

/-- A command taken as far as it goes by itself: RUN to its clear step, the others whole, at their place in the order. -/
def State.nearAdvance (s : State) (c : NearCmd) : State :=
  if c.begun || !s.nearReady c then s
  else
    match nearKind c.record with
    | 2 => s.runBegin c
    | 1 => if s.nearHead c.id then s.loadProg c else s
    | _ => if s.nearHead c.id then s.ireduce c else s

/-- The latest writes of a window on an aligned word by a command and by others, if both have written it. -/
def raceOn (es : List HistEntry) (who : Party) (word : Nat) : Option (Nat × Nat) :=
  let on := es.filter (fun e => e.addr / 8 == word)
  let mine := (on.filter (fun e => e.owners.getLast? == some who)).map (·.seq)
  let others := (on.filter (fun e => e.owners.getLast? != some who)).map (·.seq)
  if mine.isEmpty || others.isEmpty then none else some (greatest mine, greatest others)

/-- One word of a race: it keeps what it holds, or holds what the other party wrote, which a command that read poison may have
made poison (R191). -/
def State.settleRace (s : State) (who : Party) (poisons : Bool) (word : Nat) (x : Nat × Nat) : State :=
  let c := s.choose 3
  if c.1 = 0 then c.2
  else if c.1 = 2 ∧ poisons then c.2.performFlat who (8 * word) (.poisoned 8)
  else c.2.write who (8 * word) ((List.range 8).map (fun i => s.byteAsOf (min x.1 x.2) (8 * word + i)))

/-- The window of a RUN ends: each word that it and another party have written holds either's value (R191). -/
def State.closeWindow (s : State) (c : NearCmd) : State :=
  let who := (s.nearReq c).who
  let es := s.hist.filter (fun e => decide (c.window < e.seq))
  (((es.filter (fun e => e.owners.getLast? == some who)).map (fun e => e.addr / 8)).eraseDups).foldl (fun t word =>
    match raceOn es who word with
    | some x => t.settleRace who c.bad.isSome word x
    | none => t) s

/-- A finished command leaves the order. -/
def State.nearRemove (s : State) (id : Nat) : State := { s with near := s.near.filter (fun c => c.id != id) }

end Sys2Proof.Machine
end

