-- ==== Sys2Proof/Machine/Cornice.lean ====
section
/-! DEFINITION. The Cornice units and their instructions (R422, R430 to R436). -/

namespace Sys2Proof.Machine

open Sys2Proof

/-! ## The unit -/

/-- The unit that executes. -/
def State.curUnit (s : State) : Nat := match s.cur with | .cornice u => u | _ => 0

/-- c, its poison by pair of lanes, x and b registers of a unit (R422). -/
def CorniceUnit.cAt (u : CorniceUnit) (n : Nat) : List (BitVec 32) := FMap.getD u.c n (List.replicate 16 0)
def CorniceUnit.cBad (u : CorniceUnit) (n : Nat) : BitVec 8 := FMap.getD u.cPoison n 0
def CorniceUnit.xAt (u : CorniceUnit) (n : Nat) : BitVec 32 := FMap.getD u.x n 0
def CorniceUnit.bAt (u : CorniceUnit) (n : Nat) : List Byte := FMap.getD u.b n (List.replicate 1024 0)
def CorniceUnit.bBad (u : CorniceUnit) (n : Nat) : List Nat := FMap.getD u.bPoison n []

def CorniceUnit.setC (u : CorniceUnit) (n : Nat) (v : List (BitVec 32)) (bad : BitVec 8) : CorniceUnit :=
  { u with c := FMap.set u.c n v, cPoison := FMap.set u.cPoison n bad }
def CorniceUnit.setX (u : CorniceUnit) (n : Nat) (v : BitVec 32) : CorniceUnit := { u with x := FMap.set u.x n v }
def CorniceUnit.setB (u : CorniceUnit) (n : Nat) (v : List Byte) (bad : List Nat) : CorniceUnit :=
  { u with b := FMap.set u.b n v, bPoison := FMap.set u.bPoison n bad }

/-- The physical address of a local address of a unit (R431). -/
def localPa (unit a : Nat) : Nat := a / 256 * 2 ^ 17 + unit * 256 + a % 256

/-- The local rows of 1 KiB that a command grants, with the leaf entries behind them; only writable ones if asked (R431). -/
def NearCmd.granted (c : NearCmd) (write : Bool) : List (Nat × Nat) :=
  c.rows.flatMap (fun row => ((List.range row.length).zip row).filterMap (fun x =>
    if write && !bitAt (BitVec.ofNat 4 (nearWmask c.record)) x.1 then none else some (x.2.1 / 2 ^ 19, x.2.2)))

/-- Whether `n` bytes at a local address lie in granted rows. -/
def NearCmd.grants (c : NearCmd) (write : Bool) (a n : Nat) : Bool :=
  (upFrom (a / 1024) ((a + n - 1) / 1024 + 1 - a / 1024)).all (fun r => (c.granted write).any (fun g => g.1 == r))

/-- The unit's registers at a stripe (R422, R430). -/
def CorniceUnit.atStripe (u : CorniceUnit) (c : NearCmd) (stripe : Nat) : CorniceUnit :=
  let row := c.rows.getD (stripe - c.first) []
  let u := (List.range 4).foldl (fun (v : CorniceUnit) k => v.setX k (BitVec.ofNat 32 (((row[k]?).map (·.1)).getD 0 / 2 ^ 9))) u
  { u.setX 4 (BitVec.ofNat 32 stripe) with pc := fieldLe c.record 1 1, steps := 0, stripe := stripe }

/-- A unit at the start of a command (R422). -/
def CorniceUnit.begin (c : NearCmd) : CorniceUnit :=
  let u : CorniceUnit := { c := [], cPoison := [], x := [], b := [], bPoison := [], pc := 0, steps := 0, stripe := c.first
                           running := some c.id, transfers := [] }
  ((List.range 8).foldl (fun (v : CorniceUnit) k => v.setC (8 + k) (List.replicate 16 (argScalar c.args k)) 0) u).atStripe c c.first

/-- The command that a unit executes. -/
def State.unitCmd (s : State) (u : Nat) : Option NearCmd := match (s.unit u).running with | some id => s.nearOf id | none => none

/-- The virtual address of the row in array 0 that the unit is at. -/
def State.unitRow (s : State) (c : NearCmd) (u : Nat) : Word := BitVec.ofNat 64 (stripeVa c 0 (s.unit u).stripe)

/-! ## Errors in a unit's registers and buffers (R286, R289) -/

/-- The context of the command that a unit executes. -/
def State.unitCtx (s : State) (u : Nat) : Nat := match s.unitCmd u with | some c => c.ctx | none => 0

/-- The words of a unit's storage, from a number on, that fail their check as they are read. -/
def State.unitErrors (s : State) (u base n : Nat) : List Nat × State :=
  if (FMap.find s.errInjs (arrayId 15 u)).isNone then ([], s)
  else (List.range n).foldl (fun (acc : List Nat × State) i =>
    let e := acc.2.eccKept (arrayId 15 u) (base + i) (s.unitCtx u)
    (if e.1 then acc.1 ++ [i] else acc.1, e.2)) ([], s)

/-- A c register read: its 8 words are checked, and one that fails is poison from then on (R289). -/
def State.checkC (s : State) (u n : Nat) : State :=
  let e := s.unitErrors u (8 * n) 8
  if e.1.isEmpty then e.2
  else e.2.setUnit u { e.2.unit u with
    cPoison := FMap.set (e.2.unit u).cPoison n (e.1.foldl (fun acc i => acc ||| BitVec.ofNat 8 (2 ^ i)) ((e.2.unit u).cBad n)) }

/-- `n` words of a row buffer from a word on read, checked likewise. -/
def State.checkB (s : State) (u buf from' n : Nat) : State :=
  let e := s.unitErrors u (128 + 128 * buf + from') n
  if e.1.isEmpty then e.2
  else e.2.setUnit u { e.2.unit u with
    bPoison := FMap.set (e.2.unit u).bPoison buf (((e.2.unit u).bBad buf) ++ e.1.map (fun i => from' + i)) }

/-! ## Transfers (R433) -/

/-- The write count from which a command's read of a word may show what others have written since: its window's start, or its own
latest write of the word (R191, R433). -/
def State.windowSince (s : State) (who : Party) (window a : Nat) : Nat :=
  max window (greatest ((s.hist.filter (fun e => e.addr / 8 == a / 8 && e.owners.getLast? == some who)).map (·.seq)))

/-- One word of a granule as a command reads it from DRAM: with its old or its new value where others write it in the window (R191). -/
def State.rowWord (s : State) (r : Req) (window unit a : Nat) : Chunk × State :=
  match s.readFlat r (.inv (s.windowSince r.who window (hbmAt (localPa unit a)))) (hbmAt (localPa unit a)) 8 with
  | (.bytes b, t) => (⟨b, false⟩, t)
  | (.poison _ _ _, t) => (⟨List.replicate 8 0, true⟩, t)

/-- `n` words from a local address on. -/
def State.rowWords (s : State) (r : Req) (window unit a n : Nat) : List Chunk × State :=
  match n with
  | 0 => ([], s)
  | n + 1 =>
    let x := s.rowWord r window unit a
    let y := x.2.rowWords r window unit (a + 8) n
    (x.1 :: y.1, y.2)

/-- What the `wrrow`s of a unit that are under way would put into a word, oldest first. -/
def CorniceUnit.writing (x : CorniceUnit) (a : Nat) : List Chunk :=
  (x.transfers.filter (fun t => t.write && decide (t.addr ≤ a) && decide (a < t.addr + 1024))).map (fun t =>
    ⟨((x.bAt t.buf).drop (a - t.addr)).take 8, (x.bBad t.buf).contains ((a - t.addr) / 8)⟩)

/-- One word as `ired` reads it: where a `wrrow` of its own to it is under way, with its old or its new value (R436). -/
def State.poolWord (s : State) (r : Req) (window unit a : Nat) : Chunk × State :=
  let new := (s.unit unit).writing a
  if new.isEmpty then s.rowWord r window unit a
  else
    let c := s.choose (new.length + 1)
    match new[c.1]? with
    | some x => (x, c.2)
    | none => c.2.rowWord r window unit a

/-- `n` words from a local address on, as `ired` reads them. -/
def State.poolWords (s : State) (r : Req) (window unit a n : Nat) : List Chunk × State :=
  match n with
  | 0 => ([], s)
  | n + 1 =>
    let x := s.poolWord r window unit a
    let y := x.2.poolWords r window unit (a + 8) n
    (x.1 :: y.1, y.2)

/-- The words of chunks that are poisoned. -/
def badWords (cs : List Chunk) : List Nat := (List.range cs.length).filter (fun i => match cs[i]? with | some c => c.bad | none => false)

/-- Poison read by a command noted on it (R439). -/
def State.noteBad (s : State) (c : NearCmd) (u : Nat) (bad : Bool) : State :=
  if !bad then s
  else match s.nearOf c.id with
    | some x => s.setNear { x with bad := lowerRow x.bad (s.unitRow c u) }
    | none => s

/-- A row transfer performed (R433). -/
def State.doTransfer (s : State) (u : Nat) (c : NearCmd) (t : RowTransfer) : State :=
  let r := s.nearReq c
  let s := if t.write then s.checkB u t.buf 0 128 else s
  let x := s.unit u
  let rest := x.transfers.erase t
  if t.write then
    let bytes := x.bAt t.buf
    let bad := x.bBad t.buf
    let s := ((c.granted true).filter (fun g => g.1 == t.addr / 1024 || g.1 == (t.addr + 1023) / 1024)).foldl
      (fun v g => v.touchAt g.2 true) s
    let s := (List.range 128).foldl (fun v i =>
      v.performFlat r.who (hbmAt (localPa u (t.addr + 8 * i)))
        (if bad.contains i then .poisoned 8 else .store ((bytes.drop (8 * i)).take 8))) s
    s.setUnit u { x with transfers := rest }
  else
    let got := s.rowWords r c.window u t.addr 128
    (got.2.noteBad c u (got.1.any (fun y => y.bad))).setUnit u
      { x.setB t.buf (got.1.flatMap (fun y => y.bytes)) (badWords got.1) with transfers := rest }

/-- Whether two transfers touch a common local granule. -/
def RowTransfer.meets (a b : RowTransfer) : Bool := decide (a.addr < b.addr + 1024) && decide (b.addr < a.addr + 1024)

/-- The oldest transfer on a buffer, if no earlier one on a common granule stands before it. -/
def CorniceUnit.nextOn (x : CorniceUnit) (buf : Nat) : Option RowTransfer :=
  match x.transfers.find? (fun t => t.buf == buf) with
  | none => none
  | some t => if (x.transfers.takeWhile (fun y => y != t)).any (fun y => y.meets t) then none else some t

/-- CORNICE_TRANSFER_COMPLETE (R433): the oldest transfer on a buffer is performed. -/
def execCorniceTransferComplete (unit buf : Nat) (s : State) : Out :=
  match s.unitCmd unit, (s.unit unit).nextOn buf with
  | some c, some t => .next (s.doTransfer unit c t)
  | _, _ => .next s

/-- Whether a buffer has a transfer under way. -/
def CorniceUnit.busy (x : CorniceUnit) (buf : Nat) : Bool := x.transfers.any (fun t => t.buf == buf)

/-! ## Ending on a unit (R430, R432, R438) -/

/-- A unit is finished with its command. -/
def State.unitDone (s : State) (u : Nat) (c : NearCmd) : State :=
  let s := s.setUnit u { s.unit u with running := none }
  match s.nearOf c.id with
  | some x => s.setNear { x with left := x.left.filter (fun y => y != u) }
  | none => s

/-- The command fails on a unit: transfers already issued are performed, and the unit is finished with it. -/
def State.unitFail (s : State) (u reason : Nat) (addr : Word) : State :=
  match s.unitCmd u with
  | none => s
  | some c =>
    let s := (s.unit u).transfers.foldl (fun v t => v.doTransfer u c t) s
    (s.nearFail c reason (s.unit u).pc u addr (s.unitRow c u)).unitDone u c

/-- CORNICE_STEP_LIMIT (R432): more than 65,536 words in one stripe. -/
def execCorniceStepLimit (unit : Nat) (s : State) : Out :=
  if (s.unit unit).running.isSome && decide (65536 ≤ (s.unit unit).steps) then .next (s.unitFail unit 7 0) else .next s

/-! ## Moving on -/

/-- The unit after a word: one more executed, and the next address. -/
def CorniceUnit.goto (x : CorniceUnit) (pc : Nat) : CorniceUnit := { x with pc := pc, steps := x.steps + 1 }
def CorniceUnit.step (x : CorniceUnit) : CorniceUnit := x.goto (x.pc + 1)

/-- A word that only changes the unit. -/
def State.onUnit (s : State) (f : CorniceUnit → CorniceUnit) : Out := .next (s.setUnit s.curUnit (f (s.unit s.curUnit)).step)

/-- IMM as a signed number (R433). -/
def cwImm (w : CW) : Int := toSigned 9 w.imm.toNat

/-- A register plus a number, modulo 2^32. -/
def add32 (x : BitVec 32) (v : Int) : BitVec 32 := x + BitVec.ofInt 32 v

/-- rdrow and wrrow (R433): the transfer starts once the buffer is free. -/
def State.rowTransfer (s : State) (w : CW) (buf : Nat) (write : Bool) : Out :=
  let u := s.curUnit
  let a := (add32 ((s.unit u).xAt w.a.toNat) (256 * (cwImm w))).toNat
  match s.unitCmd u with
  | none => .next s
  | some c =>
    if (s.unit u).busy buf then .next s
    else if a % 256 ≠ 0 ∨ !c.grants write a 1024 then .next (s.unitFail u 8 (BitVec.ofNat 64 a))
    else .next (s.setUnit u { (s.unit u).step with transfers := (s.unit u).transfers ++ [{ buf := buf, write := write, addr := a }] })

/-! ## The instructions (R433 to R436) -/

/-- nop (R435). -/
def execCorniceNop (_ : CW) (s : State) : Out := s.onUnit (fun x => x)
/-- rdrow bD, xA, #g (R433). -/
def execCorniceRdrow (w : CW) (s : State) : Out := s.rowTransfer w w.d.toNat false
/-- wrrow bB, xA, #g (R433). -/
def execCorniceWrrow (w : CW) (s : State) : Out := s.rowTransfer w w.b.toNat true

/-- cld cD, bA, #s (R433). -/
def execCorniceCld (w : CW) (s : State) : Out :=
  let k := w.imm.toNat % 16
  if (s.unit s.curUnit).busy w.a.toNat then .next s
  else
    let s := s.checkB s.curUnit w.a.toNat (8 * k) 8
    let x := s.unit s.curUnit
    let bytes := x.bAt w.a.toNat
    let bad := (List.range 8).foldl (fun acc i => if (x.bBad w.a.toNat).contains (8 * k + i) then acc + 2 ^ i else acc) 0
    s.onUnit (fun x => x.setC w.d.toNat ((List.range 16).map (fun j => BitVec.ofNat 32 (fieldLe bytes (64 * k + 4 * j) 4))) (BitVec.ofNat 8 bad))

/-- cst bD, cA, #s (R433). -/
def execCorniceCst (w : CW) (s : State) : Out :=
  let k := w.imm.toNat % 16
  if (s.unit s.curUnit).busy w.d.toNat then .next s
  else
    let s := s.checkC s.curUnit w.a.toNat
    let x := s.unit s.curUnit
    let old := x.bAt w.d.toNat
    let slice := (x.cAt w.a.toNat).flatMap (fun v => leBytes 4 v.toNat)
    let bad := (x.bBad w.d.toNat).filter (fun i => i / 8 != k) ++ ((List.range 8).filter (bitAt (x.cBad w.a.toNat))).map (fun i => 8 * k + i)
    s.onUnit (fun x => x.setB w.d.toNat (old.take (64 * k) ++ slice ++ old.drop (64 * k + 64)) bad)

/-- A lane operation on c registers: the result is poisoned where an operand is (R432). -/
def State.laneOp (s : State) (w : CW) (srcs : List Nat) (g : List Nat → Nat) : Out :=
  (srcs.foldl (fun t n => t.checkC s.curUnit n) s).onUnit (fun x => x.setC w.d.toNat
    ((List.range 16).map (fun j => BitVec.ofNat 32 (g (srcs.map (fun n => ((x.cAt n).getD j 0).toNat)))))
    (srcs.foldl (fun acc n => acc ||| x.cBad n) 0))

/-- fadd (R434). -/
def execCorniceFadd (w : CW) (s : State) : Out :=
  s.laneOp w [w.a.toNat, w.b.toNat] (fun v => (f32.addCodes (v.getD 0 0) (v.getD 1 0)).1)
/-- fsub (R434). -/
def execCorniceFsub (w : CW) (s : State) : Out :=
  s.laneOp w [w.a.toNat, w.b.toNat] (fun v => (f32.subCodes (v.getD 0 0) (v.getD 1 0)).1)
/-- fmul.<cls> (R434). -/
def execCorniceFmul (w : CW) (s : State) : Out :=
  s.laneOp w [w.a.toNat, w.b.toNat] (fun v => (f32.mulCodes w.cls.toNat (v.getD 0 0) (v.getD 1 0)).1)
/-- fma.<cls> (R434). -/
def execCorniceFma (w : CW) (s : State) : Out :=
  s.laneOp w [w.a.toNat, w.b.toNat, w.c.toNat]
    (fun v => f32.fmaNaN w.cls.toNat (v.getD 0 0) (v.getD 1 0) (v.getD 2 0))
/-- fmax (R434). -/
def execCorniceFmax (w : CW) (s : State) : Out :=
  s.laneOp w [w.a.toNat, w.b.toNat] (fun v => (f32.maxCodes (v.getD 0 0) (v.getD 1 0)).1)
/-- fmin (R434). -/
def execCorniceFmin (w : CW) (s : State) : Out :=
  s.laneOp w [w.a.toNat, w.b.toNat] (fun v => (f32.minCodes (v.getD 0 0) (v.getD 1 0)).1)
/-- fsqrt.<cls> (R434). -/
def execCorniceFsqrt (w : CW) (s : State) : Out := s.laneOp w [w.a.toNat] (fun v => (f32.special 2 w.cls.toNat (v.getD 0 0)).1)
/-- frsq.<cls> (R434). -/
def execCorniceFrsq (w : CW) (s : State) : Out := s.laneOp w [w.a.toNat] (fun v => (f32.special 1 w.cls.toNat (v.getD 0 0)).1)
/-- frcp.<cls> (R434). -/
def execCorniceFrcp (w : CW) (s : State) : Out := s.laneOp w [w.a.toNat] (fun v => (f32.special 0 w.cls.toNat (v.getD 0 0)).1)

/-- The conversions of `cvt` (R434). -/
def corniceCvt (kind x : Nat) : Nat :=
  match kind with
  | 0 => (convert x (.fl f32) (.fl bf16) .rne false).1
  | 1 => (convert (x % 2 ^ 16) (.fl bf16) (.fl f32) .rne false).1
  | 2 => (convert x (.fl f32) (.fl f16) .rne false).1
  | _ => (convert (x % 2 ^ 16) (.fl f16) (.fl f32) .rne false).1

/-- cvt (R434). -/
def execCorniceCvt (w : CW) (s : State) : Out := s.laneOp w [w.a.toNat] (fun v => corniceCvt (w.imm.toNat % 4) (v.getD 0 0))
/-- fscale cD, cA, #e (R434). -/
def execCorniceFscale (w : CW) (s : State) : Out :=
  s.laneOp w [w.a.toNat] (fun v => (f32.ofVal ((f32.decode (v.getD 0 0)).scale (cwImm w))).1)

/-- movi xD, #v: v has 19 bits (R435). -/
def execCorniceMovi (w : CW) (s : State) : Out :=
  s.onUnit (fun x => x.setX w.d.toNat ((w.b ++ w.c ++ w.cls ++ w.imm : BitVec 19).signExtend 32))
/-- addi xD, xA, #v (R435). -/
def execCorniceAddi (w : CW) (s : State) : Out := s.onUnit (fun x => x.setX w.d.toNat (add32 (x.xAt w.a.toNat) (cwImm w)))

/-- A unit that goes to a label if a condition holds. -/
def CorniceUnit.branch (x : CorniceUnit) (taken : Bool) (target : Nat) : CorniceUnit := if taken then x.goto target else x.step

/-- loop xD, label (R435). -/
def execCorniceLoop (w : CW) (s : State) : Out :=
  let x := s.unit s.curUnit
  let v := x.xAt w.d.toNat - 1
  .next (s.setUnit s.curUnit ((x.setX w.d.toNat v).branch (v != 0) (w.imm.toNat % 256)))
/-- bnz xA, label (R435). -/
def execCorniceBnz (w : CW) (s : State) : Out :=
  let x := s.unit s.curUnit
  .next (s.setUnit s.curUnit (x.branch (x.xAt w.a.toNat != 0) (w.imm.toNat % 256)))

/-- wait bA (R433). -/
def execCorniceWait (w : CW) (s : State) : Out :=
  if (s.unit s.curUnit).busy w.a.toNat then .next s else s.onUnit (fun x => x)
/-- sync (R433). -/
def execCorniceSync (_ : CW) (s : State) : Out :=
  if !(s.unit s.curUnit).transfers.isEmpty then .next s else s.onUnit (fun x => x)

/-- end (R435): waits as `sync`, then the next stripe begins or the unit is finished. -/
def execCorniceEnd (_ : CW) (s : State) : Out :=
  let u := s.curUnit
  let x := s.unit u
  if !x.transfers.isEmpty then .next s
  else match s.unitCmd u with
    | none => .next (s.setUnit u x.step)
    | some c =>
      if x.stripe + 1 < c.first + c.count then .next (s.setUnit u (x.atStripe c (x.stripe + 1)))
      else .next ((s.setUnit u x.step).unitDone u c)

/-- The sums of `ired`: 16 lanes of each of `n` registers, from bytes with their poison (R436). -/
def CorniceUnit.pool (x : CorniceUnit) (d n : Nat) (bs : Source) : CorniceUnit :=
  (List.range n).foldl (fun (v : CorniceUnit) m =>
    let bad := (List.range 8).foldl (fun acc i => if bs.bad (64 * m + 8 * i) 8 then acc + 2 ^ i else acc) 0
    v.setC (d + m) ((List.range 16).map (fun j =>
      BitVec.ofNat 32 (f32.addCodes ((v.cAt (d + m)).getD j 0).toNat (ofLe (bs.at (64 * m + 4 * j) 4))).1))
      (v.cBad (d + m) ||| BitVec.ofNat 8 bad)) x

/-- ired cD, xA, xB, #n (R436). -/
def execCorniceIred (w : CW) (s : State) : Out :=
  let u := s.curUnit
  let x := s.unit u
  let n := w.imm.toNat
  let ia := (x.xAt w.a.toNat).toNat
  match s.unitCmd u with
  | none => .next s
  | some c =>
    if n = 0 ∨ 16 < n ∨ 16 < w.d.toNat + n then .next (s.unitFail u 6 0)
    else if ia % 4 ≠ 0 ∨ !c.grants false ia 4 then .next (s.unitFail u 8 (BitVec.ofNat 64 ia))
    else
      let s := (List.range n).foldl (fun t m => t.checkC u (w.d.toNat + m)) s
      let x := s.unit u
      let iw := s.poolWord (s.nearReq c) c.window u (ia / 8 * 8)
      if iw.1.bad then .next (iw.2.unitFail u 9 (BitVec.ofNat 64 ia))
      else
        let i := fieldLe iw.1.bytes (ia % 8) 4
        let la := (x.xAt w.b.toNat).toNat + 64 * n * i
        if !c.grants false la (64 * n) then .next (iw.2.unitFail u 8 (BitVec.ofNat 64 la))
        else
          let got := iw.2.poolWords (s.nearReq c) c.window u (la / 8 * 8) (8 * n + (if la % 8 = 0 then 0 else 1))
          let bs : Source := (sourceOf got.1).drop (la % 8)
          .next ((got.2.noteBad c u (bs.bad 0 (64 * n))).setUnit u
            (((x.pool w.d.toNat n bs).setX w.a.toNat (add32 (x.xAt w.a.toNat) 4)).step))

/-! ## A unit's turn -/

/-- The command that a unit would begin: the first that it has not finished. -/
def State.unitNext (s : State) (u : Nat) : Option NearCmd := s.near.find? (fun c => c.left.contains u)

/-- A unit ready to execute: an idle unit begins the next RUN once its clear step is over (R428). -/
def State.unitReady (s : State) (u : Nat) : State :=
  if (s.unit u).running.isSome then s
  else match s.unitNext u with
    | none => s
    | some c =>
      let s := s.nearAdvance c
      match s.nearOf c.id with
      | some c' => if c'.begun && nearKind c'.record == 2 && c'.left.contains u then s.setUnit u (CorniceUnit.begin c') else s
      | none => s

end Sys2Proof.Machine
end

