-- ==== Sys2Proof/Machine/Fabric.lean ====
section
/-! DEFINITION. The Hudor fabric: ports and their training, flits and replays, failures, route changes, requests from and
answers of other modules (R16 to R32). -/

namespace Sys2Proof.Machine

open Sys2Proof

/-! ## Port states (R28) -/

def portOff : BitVec 4 := 0
def portTraining : BitVec 4 := 1
def portUp : BitVec 4 := 2
def portDegraded : BitVec 4 := 3
def portFailed : BitVec 4 := 4

/-- Whether a port carries traffic. -/
def Port.carries (p : Port) : Bool := p.state == portUp || p.state == portDegraded

/-! ## Route changes (R25) -/

/-- The candidate ports of an entry, A to D (R30). -/
def routeCandidates (e : BitVec 32) : List Nat := [field e 6 0, field e 13 7, field e 20 14, field e 27 21]

/-- New requests held for every target that names a port as a candidate: the port's usability changes. -/
def State.holdTargets (s : State) (port : Nat) : State :=
  { s with routePending := s.fabRoute.foldl (fun (m : FMap Nat (BitVec 32)) e =>
      if (routeCandidates e.2).contains port && (FMap.find m e.1).isNone then FMap.set m e.1 e.2 else m) s.routePending }

/-- A new entry for a target, held until the change is applied. -/
def State.routeWrite (s : State) (target : Nat) (e : BitVec 32) : State :=
  { s with routePending := FMap.set s.routePending target e }

/-- Whether the requester takes the answer of a request itself: reads and returning atomics. -/
def FabReq.awaited (q : FabReq) : Bool := awaitedOp q.op

/-- Whether a request has been sent on a port and not answered. -/
def FabReq.inFlight (q : FabReq) : Bool := q.port.isSome && !q.answered

/-- A held request sent on its way (R24, R26). -/
def State.sendHeld (s : State) (q : FabReq) : State :=
  if q.port.isSome || q.answered then s
  else
    let port := s.routePort q.target q.off
    let sent := { q with port := port, answered := port.isNone, poisoned := port.isNone }
    { s with
      ports := s.sendOn port q.target (match q.op with | some o => o.data | none => [])
      fabReqs := (s.fabReqs.map (fun (x : FabReq) => if x.id == q.id then sent else x)).filter
        (fun x => !(x.id == q.id && port.isNone && !q.awaited))
      cmds := if port.isNone && !q.awaited then (s.noteFailed q.who (BitVec.ofNat 64 q.off)).cmds else s.cmds
      log := if port.isNone then .requestPoisoned q.target q.off :: s.log else s.log }

/-- ROUTE_CHANGE_APPLY (R25): every request sent on the old ports has been acknowledged; the new mapping holds and the
held requests go on. -/
def execRouteChangeApply (target : Nat) (s : State) : Out :=
  match FMap.find s.routePending target with
  | none => .next s
  | some e =>
    if s.fabReqs.any (fun q => q.target == target && q.inFlight) then .next s
    else
      let t := { s with fabRoute := FMap.set s.fabRoute target e, routePending := FMap.erase s.routePending target }
      .next ((t.fabReqs.filter (fun q => q.target == target)).foldl State.sendHeld t)

/-! ## Training (R18, R20, R21, R29) -/

/-- A port whose FAB_PORT.EN and LINK_EMIT.EMIT are 1 trains from state OFF. -/
def State.trainPort (s : State) (p : Nat) : State :=
  let x := s.port p
  if x.en && s.host.emit && x.state == portOff then
    s.setPort p { x with state := portTraining, lanes := 0, trained := false, outLanes := 0, draining := false }
  else s

/-- The 96 ports. -/
def allPorts : List Nat := List.range 96

/-- A trained port enters UP or DEGRADED once FAB_SELF is locked (R21). -/
def State.raisePort (s : State) (p : Nat) : State :=
  let x := s.port p
  if x.state == portTraining && x.trained && s.host.lock then
    (s.holdTargets p).setPort p { x with state := if x.lanes = 3 then portUp else portDegraded }
  else s

/-- The link starts anew: sequence numbers, retry buffer and replay counts. -/
def Port.fresh (x : Port) : Port :=
  { x with expectSeq := 0, nextSeq := 0, retry := [], replays0 := 0, replays1 := 0, windowFlits := 0, resend := [], askReplay := none }

/-- Whether lanes of a port are being trained. -/
def Port.inTraining (x : Port) : Bool := (x.state == portTraining && !x.trained) || (x.retrain && x.state == portDegraded)

/-- Training ends with some lanes trained: those that were not are failed; the neighbour is recorded. -/
def State.endTraining (s : State) (p : Nat) (trained : BitVec 2) (nbr : Option Neighbour) : State :=
  let x := s.port p
  let lanes := x.lanes ||| (trained &&& ~~~x.outLanes)
  let y := { x with
    lanes := lanes
    laneFail := x.laneFail ||| ~~~lanes
    retrain := false
    outLanes := 0
    nbrId := (match nbr with | some n => n.id | none => x.nbrId)
    nbrSw := (match nbr with | some n => n.isSwitch | none => x.nbrSw)
    capRed := (match nbr with | some n => n.capRed | none => x.capRed)
    capVbd := (match nbr with | some n => n.capVbd | none => x.capVbd) }
  if x.state == portDegraded then s.setPort p { y with state := if lanes = 3 then portUp else portDegraded }
  else if lanes = 0 then (s.setPort p { y with state := portFailed, trained := false })
  else (s.setPort p { y.fresh with trained := true }).raisePort p

/-- PORT_TRAINING_COMPLETE (R29). -/
def execPortTrainingComplete (port : Nat) (trained : BitVec 2) (nbr : Neighbour) (s : State) : Out :=
  if s.boot.powered ∧ port < 96 ∧ (s.port port).inTraining then .next (s.endTraining port trained (some nbr)) else .next s

/-- LANE_TRAIN_TIMEOUT (R18, R29): the lane is failed; with no lane left to train, training ends. -/
def execLaneTrainTimeout (port lane : Nat) (s : State) : Out :=
  let x := s.port port
  if s.boot.powered ∧ port < 96 ∧ lane < 2 ∧ x.inTraining ∧ !bitAt x.lanes lane then
    let y := { x with outLanes := putBit x.outLanes lane true, laneFail := putBit x.laneFail lane true }
    let t := s.setPort port y
    if y.outLanes ||| y.lanes = 3 then .next (t.endTraining port 0 none) else .next t
  else .next s

/-! ## Failures (R18, R19) -/

/-- A port out of service: FAILED, or OFF while no optical engine may emit (R18, R19, R38); a retraining ends. -/
def State.failPort (s : State) (p : Nat) (x : Port) : State :=
  (s.holdTargets p).setPort p { x with
    state := if s.host.emit then portFailed else portOff
    lanes := 0
    draining := false
    retrain := false
    trained := false }

/-- A lane fails: the port goes on with the other one, its flits in flight replayed there, or is out of service. -/
def State.failLane (s : State) (p lane : Nat) : State :=
  let x := s.port p
  let lanes := putBit x.lanes lane false
  let y := { x with lanes := lanes, laneFail := putBit x.laneFail lane true }
  if lanes = 0 then s.failPort p y
  else s.setPort p { y with state := portDegraded, resend := y.retry.map (fun e => e.seq) }

/-- LANE_REPLAY_LIMIT (R18): 64 replays attributed to a lane within 2^24 flits received. -/
def execLaneReplayLimit (port lane : Nat) (s : State) : Out :=
  let x := s.port port
  if port < 96 ∧ lane < 2 ∧ x.carries ∧ bitAt x.lanes lane ∧ 64 ≤ (if lane = 0 then x.replays0 else x.replays1) then
    .next (s.failLane port lane)
  else .next s

/-- OPTICAL_ENGINE_FAILURE (R19): the engine's eight ports go out of service together. -/
def execOpticalEngineFailure (engine : Nat) (s : State) : Out :=
  if s.boot.powered ∧ engine < 12 then
    .next ((upFrom (8 * engine) 8).foldl (fun t p => t.failPort p { t.port p with laneFail := 3 }) s)
  else .next s

/-! ## Enabling, draining and retraining (R25, R28, R29, R38) -/

/-- A port taken out of use: it drains if it carries traffic, and is OFF otherwise. -/
def State.drainPort (s : State) (p : Nat) : State :=
  let x := s.port p
  if x.carries then (s.holdTargets p).setPort p { x with draining := true }
  else s.setPort p { x with state := portOff, lanes := 0, trained := false, retrain := false }

/-- PORT_DRAIN_COMPLETE (R28): every flit sent is acknowledged. A port that is enabled again by then trains. -/
def execPortDrainComplete (port : Nat) (s : State) : Out :=
  if (s.port port).draining ∧ !s.fabReqs.any (fun q => q.port == some port && q.inFlight) then
    .next ((s.setPort port { s.port port with state := portOff, lanes := 0, trained := false, draining := false, retrain := false }).trainPort port)
  else .next s

/-- RETRAIN set: the failed lanes of a DEGRADED or FAILED port train (R18, R28, R29). -/
def State.retrainPort (s : State) (p : Nat) : State :=
  let x := s.port p
  if x.state == portDegraded then s.setPort p { x with retrain := true, outLanes := 0 }
  else if x.state == portFailed && x.en && s.host.emit then
    s.setPort p { x with retrain := true, state := portTraining, lanes := 0, trained := false, outLanes := 0 }
  else s

/-- A write to FAB_PORT (R28): the bits of `mask` take the values of `v`. -/
def State.portWrite (s : State) (p : Nat) (mask v : Word) : State :=
  let x := s.port p
  let clear := (mask &&& v).toNat / 4 % 4
  let merged := (BitVec.ofNat 64 (x.retries.toNat * 2 ^ 24) &&& ~~~mask) ||| (v &&& mask)
  let y := { x with
    retries := BitVec.ofNat 16 (field merged 39 24)
    laneFail := x.laneFail &&& ~~~(BitVec.ofNat 2 clear)
    en := (if bitAt mask 0 then bitAt v 0 else x.en) }
  let t := s.setPort p y
  let t := if x.en && !y.en then t.drainPort p else t
  let t := t.trainPort p
  if bitAt (mask &&& v) 1 then t.retrainPort p else t

/-- LINK_EMIT.EMIT written (R38): cleared, every port drains to OFF; set, enabled ports train. -/
def State.setEmit (s : State) (emit : Bool) : State :=
  let t := { s with host := { s.host with emit := emit } }
  if emit then allPorts.foldl State.trainPort t
  else allPorts.foldl State.drainPort t

/-- HOST_LOCK.LOCK set (R21, R37): trained ports enter UP or DEGRADED. -/
def State.setLock (s : State) : State :=
  allPorts.foldl State.raisePort { s with host := { s.host with lock := true } }

/-! ## Flits (R17, R18) -/

/-- A flit counted towards the window in which replays are attributed to lanes. -/
def Port.countFlit (x : Port) : Port :=
  if 2 ^ 24 ≤ x.windowFlits + 1 then { x with windowFlits := 0, replays0 := 0, replays1 := 0 }
  else { x with windowFlits := x.windowFlits + 1 }

/-- The lane that carries a beat: a flit's eight 16-byte beats are striped across the working lanes (R16). -/
def Port.beatLane (x : Port) (beat : Nat) : Nat := if x.lanes = 3 then beat % 2 else if bitAt x.lanes 1 then 1 else 0

/-- Whether a lane's check code over its beats of a flit fails (R17). -/
def Port.laneBad (x : Port) (f : Flit) (lane : Nat) : Bool := (List.range 8).any (fun b => f.badBeats.contains b && x.beatLane b == lane)

/-- A replay requested from a discarded flit's sequence number (from an earlier one if that is requested already), attributed to
the lanes whose check failed. -/
def Port.requestReplay (x : Port) (seq : Nat) (bad0 bad1 : Bool) : Port :=
  { x with
    askReplay := some (match x.askReplay with
      | some n => min n seq
      | none => seq)
    retries := satInc x.retries
    replays0 := if bad0 then x.replays0 + 1 else x.replays0
    replays1 := if bad1 then x.replays1 + 1 else x.replays1 }

/-- A flit received: delivered in sequence and once. One that fails a check is discarded with a replay request; one that is out of
sequence is discarded, since a replay brings the flits from the requested one onwards again (log entry 44). -/
def Port.receive (x : Port) (f : Flit) : Port :=
  let y := x.countFlit
  let bad0 := x.laneBad f 0
  let bad1 := x.laneBad f 1
  if !f.crcOk || bad0 || bad1 then y.requestReplay f.seq bad0 bad1
  else if f.seq = x.expectSeq then { y with expectSeq := x.expectSeq + 1, delivered := x.delivered ++ [f.payload], askReplay := none }
  else y

/-- FLIT_RECEIVE (R17). -/
def execFlitReceive (port : Nat) (flit : Flit) (s : State) : Out :=
  if port < 96 ∧ (s.port port).carries then .next (s.setPort port ((s.port port).receive flit)) else .next s

/-- REPLAY_REQUEST (R17): the flits of the retry buffer from the requested one on are sent again. -/
def execReplayRequest (port fromSeq : Nat) (s : State) : Out :=
  let x := s.port port
  if port < 96 ∧ x.carries then
    .next ((s.eccKept (arrayId 13 port) fromSeq 0).2.setPort port
      { x with resend := (x.retry.map (fun e => e.seq)).filter (fun n => decide (fromSeq ≤ n)) })
  else .next s

/-! ## Requests of other modules (R22, R23) -/

/-- Whether FAB_INB admits a source module. -/
def State.inbound (s : State) (source : Nat) : Bool := bitAt (FMap.getD s.fabInb (source / 64) 0) (source % 64)

/-- The element size of a CMP (R194). -/
def cmpElem (cmp : Nat) : Nat := if cmp = 1 then 2 else 4

/-- A whole VBD block in the form in which it leaves a port: its descriptor and its encoding where the port's neighbour has advertised
VBD, and expanded otherwise (R20, R174). -/
def wireBlock (capVbd : Bool) (cmp : Nat) (bytes : List Byte) : List Byte :=
  if capVbd && cmp != 0 && bytes.length == 256 then
    let f := vbdEncode (cmpElem cmp) bytes
    leBytes 4 (vbdDesc f.1 f.2.1 0).toNat ++ f.2.2
  else bytes

/-- What arrives for a request of `n` bytes at an offset, expanded by the requesting slice where it is a VBD block in compressed
form (R174). -/
def unwireBlock (cmp off n : Nat) (bytes : List Byte) : List Byte :=
  if cmp = 0 ∨ bytes.length = n then bytes
  else ((vbdDecode (cmpElem cmp) (BitVec.ofNat 32 (fieldLe bytes 0 4)) (bytes.drop 4)).drop (off % 256)).take n

/-- An answer to another module, sent on the port that its granule's requests take. -/
def State.answerPeer (s : State) (source off cmp : Nat) (bytes : List Byte) (bad : Bool) : State :=
  let port := s.routePort source off
  { s with
    ports := s.sendOn port source (match port with
      | some p => wireBlock (s.port p).capVbd cmp bytes
      | none => [])
    peerAnswers := s.peerAnswers ++ [(source, bytes, bad)] }

/-- Where an offset of this module's HBM4E lies for a page with a CMP (R22, R174). -/
def inboundLoc (off cmp : Nat) : Loc :=
  let o := off % 2 ^ 39
  if cmp = 0 then .flat (hbmAt o) else .vbd (hbmAt (o / 4096 * 4096)) (cmpElem cmp) (o % 4096)

/-- The blocks of a VBD page that `n` bytes lie in, filled; whether a descriptor is broken; and where the bytes then are. -/
def State.fillInbound (s : State) (off cmp n : Nat) : Nat × Bool × State :=
  let o := off % 2 ^ 39
  if cmp = 0 then (hbmAt o, false, s)
  else
    let blocks := upFrom (o / 256) ((o + n + 255) / 256 - o / 256)
    let r := blocks.foldl (fun (acc : Bool × State) b =>
      let frame := hbmAt (b / 16 * 4096)
      (acc.1 || acc.2.vbdBroken frame (cmpElem cmp) (b % 16), acc.2.vbdFill frame (cmpElem cmp) (b % 16))) (false, s)
    (vbdAt (hbmAt o), r.1, r.2)

/-- Bytes read at their home slices for somebody outside (R36, R289): poison is told, not trapped. -/
def State.readOutside (s : State) (a n : Nat) : List Byte × Bool × State :=
  let r := (pieces a n).foldl (fun (acc : Bool × State) p =>
    let e := acc.2.eccWord (a + p.1) 0
    (acc.1 || e.1, if e.1 then e.2.addPoison (a + p.1) 1 else e.2)) (false, s)
  (s.bytesAt a n, r.1 || (r.2.firstPoison a n).isSome, r.2)

/-- The format tag of an atomic's operand by its width. -/
def widthTag (is64 : Bool) : Tag := if is64 then 1 else 2

/-- Whether a peer has published its writes by an arrival is for the peer to say and cannot be seen here: a free choice (R32; log
entry 44). -/
def State.peerPub (s : State) (who : Party) : State :=
  let c := s.choose 2
  if c.1 = 1 then c.2.pub .sys { who := who, die := 2, wg := 0, launch := 0, set := 0 } else c.2

/-- An inbound request served at this module's HBM4E (R22, R163, R174). -/
def State.serve (s : State) (source : Nat) (q : InboundReq) : State :=
  let who := Party.peer source
  match q with
  | .read off cmp n =>
    let f := s.fillInbound off cmp n
    let r := f.2.2.readOutside f.1 n
    r.2.2.answerPeer source off cmp r.1 (f.2.1 || r.2.1)
  | .write off cmp bs =>
    (((pieces off bs.length).foldl (fun t p =>
      t.performLoc who none (inboundLoc (off + p.1) cmp) (.store ((bs.drop p.1).take p.2))) s).peerPub who).answerPeer source off 0 [] false
  | .reduce off cmp op tag u v =>
    ((s.performLoc who none (inboundLoc off cmp) (.reduce op tag u v)).peerPub who).answerPeer source off 0 [] false
  | .atomic off cmp op is64 u v c =>
    let f := s.fillInbound off cmp 8
    let r := f.2.2.readOutside f.1 8
    if f.2.1 || r.2.1 then r.2.2.answerPeer source off 0 [] true
    else
      ((r.2.2.performLoc who none (inboundLoc off cmp) (.atomic op (widthTag is64) u v c)).peerPub who).answerPeer source off 0 r.1 false

/-- The offset that a request names. -/
def inboundOff (q : InboundReq) : Nat :=
  match q with
  | .read o _ _ => o
  | .write o _ _ => o
  | .reduce o _ _ _ _ _ => o
  | .atomic o _ _ _ _ _ _ => o

/-- FABRIC_INBOUND_REQUEST (R23): served, or dropped and recorded; a dropped request completes as poisoned there. Ports that are UP
stay so through a warm start (R48), and their requests are served during it. -/
def execFabricInboundRequest (source : Nat) (req : InboundReq) (s : State) : Out :=
  if !s.boot.powered || s.boot.recovery then .next s
  else if s.inbound source then .next (s.serve source req)
  else .next (({ s with log := .inboundDropped source :: s.log }).answerPeer source (inboundOff req) 0 [] true)

/-! ## Answers of other modules (R26, R31, R32) -/

/-- Bytes that an answer brings. -/
def FabReq.answerLen (q : FabReq) : Nat := if q.awaited then q.len else 0

/-- FABRIC_RESPONSE (R31): data or an acknowledgement, or the request completes as poisoned. -/
def execFabricResponse (id : Nat) (bytes : List Byte) (ok : Bool) (s : State) : Out :=
  match s.fabReqs.find? (fun q => q.id == id && q.inFlight) with
  | none => .next s
  | some q =>
    let data := if ok then unwireBlock q.cmp q.off q.answerLen bytes else bytes
    if ok && data.length != q.answerLen then .next s
    else
      let e := s.eccKept (arrayId 13 (q.port.getD 0)) id 0
      let t := if ok then e.2 else { e.2 with log := .requestPoisoned q.target q.off :: e.2.log }
      if q.awaited then
        .next { t with fabReqs := t.fabReqs.map (fun (x : FabReq) =>
          if x.id == id then { x with answered := true, poisoned := !ok || e.1, bytes := data } else x) }
      else
        let u := t.dropFab id
        .next (if ok && !e.1 then u else u.noteFailed q.who (BitVec.ofNat 64 q.off))

end Sys2Proof.Machine
end

