-- ==== Sys2Proof/Machine/Power.lean ====
section
/-! DEFINITION. Interrupts to the host (R33, R41) and the operating points, power and temperature limits (R12 to R15, R39,
R90, R91). -/

namespace Sys2Proof.Machine

open Sys2Proof

/-! ## MSI-X (R33; log entry 14) -/

/-- Word `i` of the vector table: four to a vector, address low and high, data, control with the mask bit. -/
def HostRegs.msixWord (h : HostRegs) (i : Nat) : BitVec 32 := FMap.getD h.msix i (if i % 4 = 3 then 1 else 0)

/-- The host address of a vector's message. -/
def HostRegs.msixAddr (h : HostRegs) (v : Nat) : Nat := (h.msixWord (4 * v)).toNat + 2 ^ 32 * (h.msixWord (4 * v + 1)).toNat

/-- A vector's message written to the host through the windows (R41). -/
def State.sendVector (s : State) (v : Nat) : State :=
  let bus := s.host.msixAddr v
  if (List.range 4).all (fun i => s.host.granted (bus + i) false true) then
    s.writePublished .device (hostAt bus) (leBytes 4 (s.host.msixWord (4 * v + 2)).toNat)
  else { s with log := .windowMiss bus :: s.log }

/-- A vector raised: its message is written, or it waits in the pending-bit array while the vector is masked. -/
def State.raiseVector (s : State) (v : Nat) : State :=
  if bitAt (s.host.msixWord (4 * v + 3)) 0 then { s with host := { s.host with msixPending := putBit s.host.msixPending v true } }
  else s.sendVector v

/-- Pending vectors that are no longer masked are sent. -/
def State.settleVectors (s : State) : State :=
  (List.range 64).foldl (fun t v =>
    if bitAt t.host.msixPending v && !bitAt (t.host.msixWord (4 * v + 3)) 0 then
      ({ t with host := { t.host with msixPending := putBit t.host.msixPending v false } }).sendVector v
    else t) s

/-! ## Operating points (R90, R91) -/

/-- The highest hint of a running launch. -/
def State.maxHint (s : State) : Nat := greatest ((s.launches.filter (fun e => e.2.running)).map (fun e => e.2.opp))

/-- First workgroups of a die are released once the die stands at the point they wait for. -/
def State.releaseHolds (s : State) (d : Nat) : State :=
  { s with wgs := s.wgs.map (fun (e : Nat × Workgroup) =>
      if e.2.heldForPoint && dieOfCore e.2.core == d && decide (min (s.launch e.2.launch).opp (s.die d).ceiling ≤ (s.die d).point) then
        (e.1, { e.2 with heldForPoint := false })
      else e) }

/-- A die's target computed anew: a lower point is taken at once, a higher one is risen to. -/
def State.retargetDie (s : State) (d : Nat) : State :=
  let x := s.die d
  let t := min s.maxHint x.ceiling
  (s.setDie d (if t ≤ x.point then { x with target := t, point := t, rising := false }
               else { x with target := t, rising := true })).releaseHolds d

/-- Both dies' targets (R90). -/
def State.retarget (s : State) : State := (s.retargetDie 0).retargetDie 1

/-- A die's ceiling lowered by the firmware (R14). -/
def State.lowerCeiling (s : State) (d ceiling : Nat) : State := s.setDie d { s.die d with ceiling := min (s.die d).ceiling ceiling }

/-- The power limit in watts (R39). -/
def HostRegs.limitWatts (h : HostRegs) : Nat := 1400 + 25 * h.powerLimit.toNat

/-- What the analogue clamp allows over any 1 ms window (R14). -/
def clampWatts : Nat := 2310

/-- The module power measured over 1 ms, as the clamp holds it (R14, R39). -/
def clamped (watts : BitVec 16) : BitVec 16 := BitVec.ofNat 16 (min watts.toNat clampWatts)

/-- POWER_OVER_LIMIT (R14): how far each ceiling is lowered is the firmware's choice, but some ceiling is (log entry 27). -/
def execPowerOverLimit (watts : BitVec 16) (ceiling0 ceiling1 : Nat) (s : State) : Out :=
  if s.boot.powered ∧ s.host.limitWatts < (clamped watts).toNat then
    let t := { s with host := { s.host with powerNow := clamped watts } }
    let lowers := ceiling0 < (s.die 0).ceiling ∨ ceiling1 < (s.die 1).ceiling
    let c := fun (d given : Nat) => if lowers then given else (s.die d).ceiling - 1
    .next ((t.lowerCeiling 0 (c 0 ceiling0)).lowerCeiling 1 (c 1 ceiling1)).retarget
  else .next s

/-- TEMPERATURE_OVER_LIMIT (R14): the die's ceiling is lowered. -/
def execTemperatureOverLimit (die ceiling : Nat) (s : State) : Out :=
  if s.boot.powered ∧ die < 2 then .next (s.lowerCeiling die (min ceiling ((s.die die).ceiling - 1))).retarget else .next s

/-- ANALOGUE_POWER_CLAMP (R14): whatever is asked for, the power drawn stays within the clamp. -/
def execAnaloguePowerClamp (watts : BitVec 16) (s : State) : Out :=
  if s.boot.powered then .next { s with host := { s.host with powerNow := clamped watts } }
  else .next s

/-- OPERATING_POINT_STABLE (R90, R91): the point risen to is stable. -/
def execOperatingPointStable (die : Nat) (s : State) : Out :=
  if (s.die die).rising then
    .next ((s.setDie die { s.die die with point := (s.die die).target, rising := false }).releaseHolds die)
  else .next s

end Sys2Proof.Machine
end

