-- ==== Sys2Proof/Machine/Boot.lean ====
section
/-! DEFINITION. Starting the module and firmware trust (R15, R46 to R52): triggers, what each kind of start keeps, the six
steps, failures and the recovery image. -/

namespace Sys2Proof.Machine

open Sys2Proof

/-! ## Verification (R52) -/

/-- Whether an image is accepted: the key's hash is fused, the signature verifies, the version is not too low. -/
def State.imageOk (s : State) (img : List Byte) : Bool :=
  Config.sha256 (Config.imageKey img) == (List.range 32).map Config.vendorKeyHash && Config.imageSignatureOk img
    && decide (s.trust.secVersion.toNat ≤ (Config.imageVersion img).toNat)

/-- An accepted image: M0 is the hash of its body, and the version counter rises to its version. -/
def State.acceptImage (s : State) (img : List Byte) : State :=
  { s with trust := { s.trust with m0 := Config.sha256 (Config.imageBody img), secVersion := Config.imageVersion img } }

/-- The image that the start in progress runs (R49). -/
def State.startImage (s : State) : List Byte := if s.boot.recovery then s.trust.recovery else s.trust.firmware

/-! ## Frames of contexts (R48) -/

/-- The frame at a flat address and the frames that its table's entries reach; `levels` are left below it. -/
def State.tableFrames (s : State) (table levels : Nat) : List Nat :=
  match levels with
  | 0 => []
  | n + 1 => table :: (List.range 512).flatMap (fun i =>
      let e := BitVec.ofNat 64 (s.numAt (table + 8 * i) 8)
      let f := frameAt (entryTier e) (entryFrame e)
      if !entryValid e || decide (2 ≤ entryTier e) then []
      else if entryLeaf e then (if n = 1 then (List.range 512).map (fun j => f + 4096 * j) else [f])
      else s.tableFrames f n)

/-- The frames of a context: its tables and the pages they name on tiers 00 and 01. -/
def State.ctxFrames (s : State) (ctx : Nat) : List Nat :=
  let root := s.ptRoot ctx
  if 2 ≤ entryTier root then [] else s.tableFrames (frameAt (entryTier root) (entryFrame root)) 5

/-! ## What a start keeps (R37, R46 to R48, R51, R76) -/

/-- Memory and poison of some spaces only. -/
def State.keepSpaces (s : State) (kept : Nat → Bool) : State :=
  { State.reset with
    agenda := s.agenda
    freeCount := s.freeCount
    nextId := s.nextId
    writeSeq := s.writeSeq
    mem := s.mem.filter (fun e => kept (spaceOf e.1))
    poison := s.poison.filter (fun w => kept (spaceOf (8 * w)))
    boot := s.boot
    trust := s.trust
    log := s.log
    hostReads := s.hostReads
    peerAnswers := s.peerAnswers }

/-- What is left when power is lost: the host's memory, the flash, the logs. -/
def State.losePower (s : State) : State := s.keepSpaces (fun k => k == 2)

/-- The frames of the contexts that are registered. -/
def State.liveFrames (s : State) : List Nat := s.ctxs.flatMap (fun e => s.ctxFrames e.1)

/-- What a cold start keeps of a powered module: its DRAM until step 3 clears it. -/
def State.dropCold (s : State) : State :=
  { s.keepSpaces (fun k => k == 2 || decide (k ≤ 1)) with endedFrames := s.endedFrames ++ s.boot.lostFrames ++ s.liveFrames }

/-- A port through a warm start: whole while it is UP or DEGRADED, else EN and RETRAIN. -/
def Port.warm (x : Port) : Port := if x.carries then x else { Port.reset with en := x.en, retrain := x.retrain }

/-- What a warm start keeps: device memory with what its slices hold, semaphores, the lock and every lockable field, EN
and RETRAIN, and the ports in use. The frames of contexts that an earlier start ended and that are not registered again count as those
of ended contexts (R48). -/
def State.dropWarm (s : State) : State :=
  let t := s.keepSpaces (fun k => k == 2 || decide (k ≤ 1) || k == 9 || k == 10)
  { t with
    sems := s.sems
    fabSelf := s.fabSelf
    host := { HostRegs.reset with lock := s.host.lock, emit := s.host.emit, hmwBase := s.host.hmwBase, hmwLimit := s.host.hmwLimit }
    ports := s.ports.map (fun (e : Nat × Port) => (e.1, e.2.warm))
    vbd := s.vbd
    repackReqs := s.repackReqs
    overflow := s.overflow
    endedFrames := (s.endedFrames ++ s.boot.lostFrames).filter (fun a => !s.liveFrames.contains a) }

/-- The recovery image has no semaphores from before and keeps every port OFF (R49, R76). -/
def State.dropRecovery (s : State) : State :=
  { s with
    sems := []
    ports := s.ports.map (fun (e : Nat × Port) => (e.1, { Port.reset with en := e.2.en, retrain := e.2.retrain })) }

/-! ## Triggers and failures (R46, R49) -/

/-- A count that saturates at its field's width. -/
def countUp {w : Nat} (c : BitVec w) : BitVec w := if c = BitVec.allOnes w then c else c + 1

/-- A failed start counted by its kind; the recovery image counts as neither. -/
def Boot.countFail (b : Boot) : Boot :=
  if b.recovery then b
  else if b.warm then { b with warmFails := countUp b.warmFails }
  else { b with coldFails := countUp b.coldFails }

/-- The start in progress fails (R49). -/
def State.failStart (s : State) : State :=
  { s with
    boot := { s.boot.countFail with running := false, ready := false }
    log := .startFailed s.boot.stage :: s.log }

/-- A start in progress that a trigger cuts short has failed: READY was not set. -/
def State.cutStart (s : State) : State := if s.boot.running then s.failStart else s

/-- A start begins: its kind by its trigger and the counters, its first step. -/
def State.beginStart (s : State) (warmAsked : Bool) (drop : State → State) : State :=
  let s := s.cutStart
  let warm := warmAsked && decide (s.boot.warmFails.toNat < 3)
  let recovery := decide (2 ≤ s.boot.coldFails.toNat)
  let t := if warm then s.dropWarm else drop s
  let t := if recovery then t.dropRecovery else t
  { t with boot := { s.boot with powered := true, running := true, ready := false, warm := warm, recovery := recovery, stage := 1,
                                 lostFrames := if warm then s.liveFrames else [] } }

/-- POWER_ON (R46). -/
def execPowerOn (s : State) : Out := if s.boot.powered then .next s else .next (s.beginStart false State.losePower)

/-- FUNDAMENTAL_RESET (R46). -/
def execFundamentalReset (s : State) : Out := if s.boot.powered then .next (s.beginStart true State.dropCold) else .next s

/-- THERMAL_TRIP (R15, R46). -/
def execThermalTrip (s : State) : Out :=
  if s.boot.powered then .next (({ s with log := .thermalTrip :: s.log }).beginStart false State.losePower) else .next s

/-- POWER_LOSS: nothing volatile is left; a start under way has failed (R46, R49). -/
def execPowerLoss (s : State) : Out :=
  if s.boot.powered then
    let t := s.cutStart.losePower
    .next { t with boot := { t.boot with powered := false, running := false, ready := false, recovery := false, stage := 0 } }
  else .next s

/-- BOOT_REQ.KIND written (R46, R50): 0b01 warm, 0b10 cold; ignored during a start. -/
def State.bootReq (s : State) (kind : Nat) : State :=
  if s.boot.running then s
  else if kind = 1 then s.beginStart true State.dropCold
  else if kind = 2 then s.beginStart false State.dropCold
  else s

/-! ## The steps (R47 to R49) -/

/-- Step 3: all of DRAM on a cold start, the frames of ended contexts on a warm one. -/
def State.clearStep (s : State) : State :=
  if s.boot.warm then
    let t := s.endedFrames.foldl (fun (u : State) a => (u.clearRange a 4096).clearRange (spaceBase 9 + a) 4096) s
    { t with
      vbd := t.vbd.filter (fun b => !s.endedFrames.contains b.frame)
      repackReqs := t.repackReqs.filter (fun a => !s.endedFrames.contains a)
      endedFrames := [] }
  else
    { s with
      mem := s.mem.filter (fun e => spaceOf e.1 == 2)
      poison := s.poison.filter (fun w => spaceOf (8 * w) == 2)
      endedFrames := [] }

/-- A port at step 4: one that has left service since the trigger trains like one that is OFF (R18, R29, R48). -/
def State.trainAtStart (s : State) (p : Nat) : State :=
  let x := s.port p
  if x.state == portFailed && x.en && s.host.emit then (s.setPort p { x with state := portOff }).trainPort p else s.trainPort p

/-- A step entered: step 4 trains the enabled ports (R29). -/
def State.enterStage (s : State) (n : Nat) : State :=
  let t := { s with boot := { s.boot with stage := BitVec.ofNat 8 n } }
  if n = 4 then allPorts.foldl State.trainAtStart t else t

/-- The start succeeds: READY; both counters are cleared unless the recovery image runs (R49). -/
def State.startDone (s : State) : State :=
  { s with boot := { s.boot with
      running := false
      ready := true
      coldFails := if s.boot.recovery then s.boot.coldFails else 0
      warmFails := if s.boot.recovery then s.boot.warmFails else 0 } }

/-- No image is valid: the module enumerates with ID_PART and BOOT_STATUS only (R49). -/
def State.noImage (s : State) : State := { s.failStart with boot := { s.failStart.boot with stage := 0xFF } }

/-- The step in progress ends well. -/
def State.stepDone (s : State) : State :=
  match s.boot.stage.toNat with
  | 1 =>
    if s.imageOk s.startImage then (s.acceptImage s.startImage).enterStage 2
    else if s.boot.recovery then s.noImage
    else s.failStart
  | 2 => ({ s with trust := { s.trust with trained := true } }).enterStage (if s.boot.recovery then 6 else 3)
  | 3 => s.clearStep.enterStage 4
  | 4 => s.enterStage 5
  | 5 => ({ s with progStore := [], trust := { s.trust with m1 := Config.sha256 Config.microcode } }).enterStage 6
  | 6 => s.startDone
  | _ => s

/-- START_STEP_COMPLETE (R47, R49): the step in progress ends, well or not. -/
def execStartStepComplete (ok : Bool) (s : State) : Out :=
  if !s.boot.running then .next s
  else if ok then .next s.stepDone
  else if s.boot.stage = 1 && s.boot.recovery then .next s.noImage
  else .next s.failStart

/-- START_TIMEOUT (R49): READY is not set within 120 s of the trigger. -/
def execStartTimeout (s : State) : Out := if s.boot.running then .next s.failStart else .next s

/-- PCIE_CONFIG_REQUEST (R33): answered, with Retry Status until the start has reached host enumeration. A start that has
found no valid image enumerates too (R49). -/
def execPcieConfigRequest (s : State) : Out :=
  if s.boot.powered then
    let enumerated := s.boot.ready || s.boot.stage == 6 || s.boot.stage == 0xFF
    .next { s with log := .pcieConfig (!enumerated) :: s.log }
  else .next s

end Sys2Proof.Machine
end

