-- ==== Sys2Proof/Machine/Control.lean ====
section
/-! DEFINITION. The control instructions (R340 to R348): branches, jumps, calls, exit, yield, nap, trap and spawn. -/

namespace Sys2Proof.Machine

open Sys2Proof

/-! ## Transfers (R120, R340) -/

/-- Whether the issuing bundle is the one with the lowest PC among the bundles of its group that do not wait (R119). -/
def State.isLowestBundle (s : State) : Bool :=
  (s.liveOf s.curGroup).all (fun t =>
    (s.thread t).park != .running || (s.thread t).wait != .none || decide (s.curPc.toNat ≤ (s.thread t).pc.toNat))

/-- A backward branch counted for the group, when its lowest bundle takes it (R120). -/
def State.countBackward (s : State) (back : Bool) : State :=
  if s.curHelm || !back || !s.isLowestBundle then s
  else s.setGroup s.curGroup { s.group s.curGroup with backCount := (s.group s.curGroup).backCount + 1 }

/-- The lanes of `taken` go to their targets and the rest of the bundle to the next instruction; a lane whose target
is odd traps with ALIGN (R292, R340). -/
def State.transfer (s : State) (taken : List Nat) (target : Nat → Word) : State :=
  let odd := fun l => bitAt (target l) 0
  let good := taken.filter (fun l => !odd l)
  let bad := taken.filter odd
  let back := good.any (fun l => decide ((target l).toNat ≤ s.curPc.toNat))
  let s' := (s.noteIssue.countBackward back).advance.jump good target
  s'.trapLanes bad 0x05 s.curPc target (fun _ => infoAddr false 3 0)

/-- An offset in parcels as a distance in bytes (R298). -/
def parcels {w : Nat} (o : BitVec w) : Word := o.signExtend 64 * 2

/-- bra (R341): every thread of the bundle, or the Helm, moves. -/
def execBra (o : BitVec 23) (s : State) : Out :=
  let t := s.curPc + parcels o
  if s.curHelm then .next (s.jump oneLane (fun _ => t)) else .next (s.transfer s.curLanes (fun _ => t))

/-- bc (R341): the threads whose k is 1 xor N move; a Helm tests the h register of that number. -/
def execBc (o : BitVec 19) (n : Bool) (k : BitVec 3) (s : State) : Out :=
  let t := s.curPc + parcels o
  if s.curHelm then
    match s.checkFull oneLane [] [{ opnd := 0, src := .uni k.toNat false }] [] with
    | .trapped u => .next u
    | .blocked => .next s
    | .ok s => if s.getPred true 0 k.toNat != n then .next (s.jump oneLane (fun _ => t)) else .next s.advance
  else .next (s.transfer (s.curLanes.filter (fun l => (s.thread (s.curThread l)).kAt k.toNat != n)) (fun _ => t))

/-- The first active lane whose target register is not tagged I64. -/
def State.targetFormat (s : State) (lanes : List Nat) (x : Src) : Bool :=
  lanes.any (fun l => match s.srcKey l x with | some k => (s.reg k).tag != 1 | none => false)

/-- A jump of the active lanes to the addresses in a register (R342). `link` is the register for the return address. -/
def State.jumpTo (s : State) (f : Form) (link : Bool) : Out :=
  let lanes := s.active f
  if s.targetFormat lanes f.a then .next (s.trapFormat lanes 0)
  else
    match s.checkFull lanes (if link then s.activeHelpers f else []) [{ opnd := 0, src := f.a }]
        (if link then [.lane f.d false] else []) with
    | .trapped t => .next t
    | .blocked => .next s
    | .ok s =>
      let target := fun l => s.srcBits l f.a
      let linked := if link then
          ((lanes.filter (fun l => !bitAt (target l) 0)) ++ s.activeHelpers f).foldl
            (fun t l => t.putReg (t.laneKey l f.d) 1 (s.curPc + BitVec.ofNat 64 s.curLen)) s
        else s
      .next (linked.transfer lanes target)

/-- A source of `jmp` and `call` in a 32-bit form: the s register A. -/
def formUniA (w : R32) : Form := { form32 w false false with a := .uni w.a.toNat false }

/-- jmp va (R342), 32-bit form. -/
def execJmpV (w : R32) (s : State) : Out := s.jumpTo (form32 w false false) false
/-- jmp va (R342), 64-bit form. -/
def execJmpV64 (w : R64) (s : State) : Out := s.jumpTo (form64 w false) false
/-- jmp sa (R342), 32-bit form. -/
def execJmpS (w : R32) (s : State) : Out := s.jumpTo (formUniA w) false
/-- jmp sa (R342), 64-bit form. -/
def execJmpS64 (w : R64) (s : State) : Out := s.jumpTo (form64 w false) false
/-- call vd, sa (R342), 32-bit form. -/
def execCall (w : R32) (s : State) : Out := s.jumpTo (formUniA w) true
/-- call vd, sa (R342), 64-bit form. -/
def execCall64 (w : R64) (s : State) : Out := s.jumpTo (form64 w false) true
/-- ret va (R342), 32-bit form: as jmp va. -/
def execRet (w : R32) (s : State) : Out := s.jumpTo (form32 w false false) false
/-- ret va (R342), 64-bit form. -/
def execRet64 (w : R64) (s : State) : Out := s.jumpTo (form64 w false) false

/-- call vd, label (R342). -/
def execCallRel (o : BitVec 17) (d : BitVec 6) (s : State) : Out :=
  match s.checkFull s.curLanes s.helpers [] [.lane d.toNat false] with
  | .trapped t => .next t
  | .blocked => .next s
  | .ok s =>
    let linked := (s.curLanes ++ s.helpers).foldl
      (fun t l => t.putReg (t.laneKey l d.toNat) 1 (s.curPc + BitVec.ofNat 64 s.curLen)) s
    .next (linked.transfer s.curLanes (fun _ => s.curPc + parcels o))

/-! ## exit (R343) -/

/-- Whether the six counters of a group are 0. -/
def Counters.allZero (c : Counters) : Bool := c = Counters.zero

/-- Whether a group has no live thread beside the listed lanes. -/
def State.lastLanes (s : State) (g : GroupId) (lanes : List Nat) : Bool :=
  (s.liveOf g).all (fun t => lanes.contains t.lane)

/-- The Helm stops (R141, R143): its stop counts on every barrier of its workgroup. -/
def State.stopHelm (s : State) (w : Nat) : State :=
  let h := s.helm w
  let s := s.setHelm w { h with running := false, wait := .none }
  (List.range (s.launchOf w).barsN).foldl (fun r n => r.exitBar w n (h.arrived.contains n)) s

/-- A group learns of its finished operations of every class (R136, R187). -/
def State.learnAll (s : State) (g : GroupId) : State :=
  let mine := fun (o : AsyncOp) => o.wg == g.wg && o.grp == some g.grp && o.done && !o.orphan
  let t := (s.ops.filter mine).foldl (fun u o => u.learn (.operation o.id) (.group g.wg g.grp)) s
  { t with ops := t.ops.filter (fun o => !mine o) }

/-- exit (R241, R343): waits for the group's operations and its pub, or for the Helm's operand captures, then ends the
active threads or the Helm. -/
def State.exitStep (s : State) (f : Form) : Out :=
  if s.curHelm then (if s.capturePending s.curGroup.wg then .next s else .next (s.stopHelm s.curGroup.wg))
  else
    let lanes := s.active f
    let g := s.curGroup
    if lanes.isEmpty then .next s.advance
    else if s.lastLanes g lanes && !(s.group g).ctr.allZero then .next s
    else if s.pubPending g || !s.pubReady g then .next s
    else
      let s' := ((if s.lastLanes g lanes then s.learnAll g else s).doPub g .sys .pub).advance
      let s' := lanes.foldl (fun t l => t.endThread (s.curThread l)) s'
      .next (s'.settleWg g.wg)

/-- exit (R343), 32-bit form. -/
def execExit (w : R32) (s : State) : Out := s.exitStep (form32 w false false)
/-- exit (R343), 64-bit form. -/
def execExit64 (w : R64) (s : State) : Out := s.exitStep (form64 w false)

/-! ## yield, nap, trap (R344, R345) -/

/-- The group's next issue goes to the lowest bundle above the yielding one, if there is one (R344). -/
def State.yieldStep (s : State) (f : Form) : Out :=
  if (s.active f).isEmpty then .next s.advance
  else
    let t := s.advance
    .next (t.setGroup s.curGroup
      { t.group s.curGroup with
        backCount := 0
        yieldAbove := some (s.curPc + BitVec.ofNat 64 s.curLen) })

/-- yield (R344), 32-bit form. -/
def execYield (w : R32) (s : State) : Out := s.yieldStep (form32 w false false)
/-- yield (R344), 64-bit form. -/
def execYield64 (w : R64) (s : State) : Out := s.yieldStep (form64 w false)

/-- Some lanes of the bundle start to wait where they stand; the rest moves on. -/
def State.waitLanes (s : State) (lanes : List Nat) (w : Wait) : State :=
  lanes.foldl (fun t l => t.setThread (s.curThread l) { t.thread (s.curThread l) with pc := s.curPc, wait := w }) s.advance

/-- The immediate of nap and trap: 12 bits, or imm16 of SHAPE 0b01 (R344). -/
def immCode (w : R64) : Nat := match w.sh with | .imm16 _ imm _ _ _ _ => imm.toNat | _ => 0

/-- nap #n: the active lanes wait 16 × n cycles (R344). -/
def State.napStep (s : State) (f : Form) (n : Nat) : Out :=
  if n = 0 then s.yieldStep f
  else .next (s.waitLanes (s.active f) (.nap (16 * n) (s.curPc + BitVec.ofNat 64 s.curLen)))

/-- The operands of an instruction that has none: every lane, no guard. -/
def formNone : Form :=
  { uniform := false, d := 0, dUni := false, a := .none, b := .none, c := .none, kc := 0, so := 0, gk := 0, gn := false, act := false }

/-- nap #n (R344), 32-bit form. -/
def execNap (n : BitVec 12) (s : State) : Out := s.napStep formNone n.toNat
/-- nap #n (R344), 64-bit form. -/
def execNap64 (w : R64) (s : State) : Out := s.napStep (form64 w false) (immCode w)

/-- trap #code: every active lane traps with TRAPINSN; TRAP_PC is the next instruction (R275, R345). -/
def State.trapStep (s : State) (f : Form) (code : Nat) : Out :=
  .next (s.advance.trapLanes (s.active f) 0x24 (s.curPc + BitVec.ofNat 64 s.curLen) (fun _ => 0) (fun _ => BitVec.ofNat 64 code))

/-- trap #code (R345), 32-bit form. -/
def execTrap (n : BitVec 12) (s : State) : Out := s.trapStep formNone n.toNat
/-- trap #code (R345), 64-bit form. -/
def execTrap64 (w : R64) (s : State) : Out := s.trapStep (form64 w false) (immCode w)

/-! ## spawn (R124, R127, R346, R347) -/

/-- Records that a bin still takes. -/
def SpawnBin.room (b : SpawnBin) : Nat := 32 - b.recs.length

/-- Whether a bin has a key of a kernel that is not deterministic. -/
def SpawnBin.hasKey (b : SpawnBin) (launch : Nat) (entry : Word) : Bool :=
  b.launch == launch && b.entry == entry && b.wg.isNone

/-- Records that the open bins with a key still take. -/
def Core.binRoom (c : Core) (launch : Nat) (entry : Word) : Nat :=
  ((c.bins.filter (fun b => b.hasKey launch entry)).map (fun b => b.room)).foldl (· + ·) 0

/-- Whether the bins take `n` more records of a key: empty bins open as needed, 16 in all (R124). -/
def Core.binsTake (c : Core) (launch : Nat) (entry : Word) (n : Nat) : Bool :=
  decide (c.bins.length + ceilDiv (n - c.binRoom launch entry) 32 ≤ 16)

/-- One record entered: into the first open bin with its key and room, or into an empty bin (R124, R125). -/
def enterRec (bins : List SpawnBin) (launch : Nat) (entry : Word) (countdown : Nat) (r : SpawnRec) : List SpawnBin :=
  match bins with
  | [] => [{ launch := launch, entry := entry, wg := none, recs := [r], countdown := countdown, fired := false }]
  | b :: t =>
    if b.hasKey launch entry && decide (b.recs.length < 32) then
      { b with recs := b.recs ++ [r], fired := b.fired || b.recs.length + 1 == 32 } :: t
    else b :: enterRec t launch entry countdown r

/-- The 32 bytes of a record: four v registers from number `b` on (R346). -/
def State.recordBytes (s : State) (l b : Nat) : List Byte :=
  (upFrom b 4).flatMap (fun n => leBytes 8 ((s.reg (s.laneKey l n)).bits).toNat)

/-- The record of a lane. -/
def State.spawnRecord (s : State) (l b : Nat) : SpawnRec :=
  { wg := s.curGroup.wg, spawner := threadIndex (s.curThread l), seq := (s.thread (s.curThread l)).spawnSeq
    bytes := s.recordBytes l b }

/-- The records of the lanes entered, and the spawn counts raised (R346). -/
def State.enterRecords (s : State) (lanes : List Nat) (entry : Word) (b : Nat) : State :=
  let l := s.launchOf s.curGroup.wg
  let c := s.coreOf s.curGroup.wg
  let recs := lanes.map (fun x => s.spawnRecord x b)
  let s' :=
    if l.det then { s with spawnHeld := s.spawnHeld ++ recs.map (fun r => (s.curGroup.wg, entry, r)) }
    else s.setCore c { s.core c with
      bins := recs.foldl (fun bs r => enterRec bs (s.wg s.curGroup.wg).launch entry (l.spawnCd * 16) r) (s.core c).bins }
  lanes.foldl (fun t x => t.setThread (s.curThread x) { t.thread (s.curThread x) with spawnSeq := (t.thread (s.curThread x)).spawnSeq + 1 }) s'

/-- spawn sa, vb (R346 to R348). -/
def State.spawnStep (s : State) (f : Form) (a b : Nat) : Out :=
  let lanes := s.active f
  let g := s.curGroup
  let entry := (s.reg (s.uniKey a)).bits
  let c := s.core (s.coreOf g.wg)
  if lanes.isEmpty then .next s.advance
  else if (s.reg (s.uniKey a)).tag != 1 then .next (s.trapFormat lanes 0)
  else
    match s.checkFull lanes [] ({ opnd := 0, src := f.a } ::
        (upFrom b 4).map (fun n => ({ opnd := 1, src := .lane n (match f.b with | .lane _ t => t | _ => false) } : Opnd))) [] with
    | .trapped t => .next t
    | .blocked => .next s
    | .ok s =>
      if bitAt entry 0 then .next (s.trapLanes lanes 0x05 s.curPc (fun _ => entry) (fun _ => infoAddr false 3 0))
      else if (s.launchOf g.wg).det && decide (1024 < s.heldCount g.wg + lanes.length) then
        .next (s.trapLanes lanes 0x01 s.curPc (fun _ => 0) (fun _ => infoIllegal s.curLen true 0 true))
      else if s.pubPending g then .next s
      else if !(s.launchOf g.wg).det && !c.binsTake (s.wg g.wg).launch entry lanes.length then .next (s.waitAt .spawnBin)
      else .next (s.enterRecords lanes entry b).advance

/-- spawn sa, vb (R346), 32-bit form. -/
def execSpawn (w : R32) (s : State) : Out := s.spawnStep (formUniA w) w.a.toNat w.b.toNat
/-- spawn sa, vb (R346), 64-bit form. -/
def execSpawn64 (w : R64) (s : State) : Out :=
  let f := form64 w false
  s.spawnStep f (match f.a with | .uni n _ => n | _ => 0) (match f.b with | .lane n _ => n | _ => 0)

end Sys2Proof.Machine
end

