-- ==== Sys2Proof/Machine/LoadStore.lean ====
section
/-! DEFINITION. Loads and stores: `ld`, `st`, `lds`, `sts`, `ldm`, `stm` (R376, R379 to R382). -/

namespace Sys2Proof.Machine

open Sys2Proof

/-- What a memory instruction names: its space, base and offset, the bytes of one access, its data registers, whether
it executes once for the bundle, and its guard. -/
structure MemArgs where
  space : Nat
  base : Src
  off : Word
  size : Nat
  data : List Src
  uni : Bool
  form : Form

/-- The memory operands of a 32-bit form (R298): an s or a v base, an unsigned offset in units of the access size. -/
def mem32 (m : M32) (size : Nat) : MemArgs :=
  { space := m.p.toNat, base := if m.f then .lane m.a.toNat false else .uni m.a.toNat false
    off := BitVec.ofNat 64 (m.o.toNat * size), size := size, data := [.lane m.d.toNat false], uni := false, form := formNone }

/-- The memory operands of a 64-bit form (R379): SHAPE 0b01 with `count` registers from D on. -/
def mem64 (p : BitVec 3) (w : R64) (size count : Nat) : MemArgs :=
  match w.sh with
  | .imm16 _ imm fd fa a d =>
    { space := p.toNat, base := src64 w.fsa a fa, off := imm.signExtend 64, size := size
      data := (upFrom d.toNat count).map (fun n => if w.fsd then .uni n fd else .lane n fd), uni := w.fsd, form := form64 w false }
  | _ => { space := p.toNat, base := .none, off := 0, size := size, data := [], uni := w.fsd, form := form64 w false }

/-- Q of a SHAPE 0b01 form (R300). -/
def quad (w : R64) : BitVec 4 := match w.sh with | .imm16 q _ _ _ _ _ => q | _ => 0

/-- The lanes in which a memory instruction executes: the active ones, or the lowest of them for all (R379). -/
def State.memLanes (s : State) (m : MemArgs) : List Nat :=
  if m.uni then (s.active m.form).take 1 else s.active m.form

/-- The helper lanes of a load (R376). -/
def State.memHelpers (s : State) (m : MemArgs) : List Nat := if m.uni then [] else s.activeHelpers m.form

/-- The address of a lane. -/
def State.memAddr (s : State) (m : MemArgs) (l : Nat) : Word := s.srcBits l m.base + m.off

/-- The addresses of a lane's accesses, one for each data register. -/
def State.memWords (s : State) (m : MemArgs) (l : Nat) : List Word :=
  (List.range m.data.length).map (fun i => s.memAddr m l + BitVec.ofNat 64 (i * m.size))

/-- Several addresses resolved, up to the first fault. -/
def State.resolveWords (s : State) (r : Req) (space n : Nat) (k : AccKind) (as : List Word) :
    Except AccFault (List (Word × Spot)) × State :=
  match as with
  | [] => (.ok [], s)
  | a :: t =>
    match s.resolve r space a n k with
    | (.error f, s') => (.error f, s')
    | (.ok p, s') =>
      match s'.resolveWords r space n k t with
      | (.ok ps, s'') => (.ok ((a, p) :: ps), s'')
      | e => e

/-- A lane of a load as resolved: its accesses, or its fault. -/
abbrev LaneSpots := Nat × Except AccFault (List (Word × Spot))

/-- The lanes of a load resolved one after another: ALIGN, NONCANON, then translation (R380). -/
def State.resolveLanes (s : State) (m : MemArgs) (k : AccKind) (lanes : List Nat) : List LaneSpots × State :=
  match lanes with
  | [] => ([], s)
  | l :: t =>
    let r := s.laneReq l
    let one := if (s.memAddr m l).toNat % m.size ≠ 0 then
        ((.error (faultAlign r k (genericAddr m.space (s.memAddr m l))), s) : Except AccFault (List (Word × Spot)) × State)
      else s.resolveWords r m.space m.size k (s.memWords m l)
    let rest := one.2.resolveLanes m k t
    ((l, one.1) :: rest.1, rest.2)

/-- What stands before a lane's accesses: whether one of them waits, and the state with fills and requests started. -/
def State.prepLane (s : State) (n : Nat) (x : LaneSpots) (op : Option WriteOp) : Bool × State :=
  match x.2 with
  | .error _ => (false, s)
  | .ok ps => ps.foldl (fun (acc : Bool × State) p =>
      match acc.2.prepSpot (acc.2.laneReq x.1) p.2 n op with
      | (.wait, t) => (true, t)
      | (_, t) => (acc.1, t)) (false, s)

/-- Whether some lane of a load waits (R150, R31). -/
def State.prepLanes (s : State) (n : Nat) (xs : List LaneSpots) : Bool × State :=
  xs.foldl (fun (acc : Bool × State) x => let r := acc.2.prepLane n x none; (acc.1 || r.1, r.2)) (false, s)

/-- Whether a load names a page on which its group has side-log entries (R188). -/
def State.pageHeld (s : State) (m : MemArgs) (lanes : List Nat) : Bool :=
  lanes.any (fun l => (s.memWords m l).any (fun a =>
    match s.decodeAddr (s.laneReq l) m.space a m.size with
    | some (.global va) => s.groupLogged s.curGroup (pageOf va)
    | _ => false))

/-- Whether a place answers within the instruction: lane-private memory and core scratchpad (R380). -/
def Spot.fast (p : Spot) : Bool :=
  match p.loc with
  | .flat a => spaceOf a == 5 || spaceOf a == 7
  | _ => false

/-- What a lane's load brings: a value for each data register and whether it comes at once, or a fault. -/
inductive LaneGot where
  | values (vs : List (Word × Bool))
  | fault (f : AccFault)
  | wait

/-- The accesses of a lane read one after another; the first fault ends them. -/
def State.readSpots (s : State) (r : Req) (v : View) (space n : Nat) (value : List Byte → Word) (ps : List (Word × Spot)) :
    LaneGot × State :=
  match ps with
  | [] => (.values [], s)
  | (a, p) :: t =>
    match s.readSpot r v p (genericAddr space a) n with
    | (.bytes b, s') =>
      match s'.readSpots r v space n value t with
      | (.values vs, s'') => (.values ((value b, p.fast) :: vs), s'')
      | o => o
    | (.fault f, s') => (.fault f, s')
    | (.wait, s') => (.wait, s')

/-- Every lane read. -/
def State.readLanes (s : State) (m : MemArgs) (v : View) (value : List Byte → Word) (xs : List LaneSpots) :
    List (Nat × LaneGot) × State :=
  match xs with
  | [] => ([], s)
  | (l, .error f) :: t => let r := s.readLanes m v value t; ((l, .fault f) :: r.1, r.2)
  | (l, .ok ps) :: t =>
    let one := s.readSpots (s.laneReq l) v m.space m.size value ps
    let r := one.2.readLanes m v value t
    ((l, one.1) :: r.1, r.2)

/-- The values of one lane delivered to its data registers (R129, R380). -/
def State.deliverValues (s : State) (l : Nat) (t : Tag) (data : List Src) (vs : List (Word × Bool)) : State :=
  (data.zip vs).foldl (fun u dv => match u.srcKey l dv.1 with
    | some k => u.deliver k (!dv.2.2) false t dv.2.1 0
    | none => u) s

/-- A faulting lane traps (R202); a uniform access traps every active lane. -/
def State.trapLaneFault (s : State) (uni : Bool) (all : List Nat) (pc : Word) (l : Nat) (f : AccFault) : State :=
  (if uni then all else [l]).foldl (fun t i => t.trapThread (s.curThread i) f.cause pc f.addr f.info) s

/-- What one lane's read does to its registers, or to its thread. A helper lane reads zeros where it would fault (R376). -/
def State.landLane (s : State) (m : MemArgs) (t : Tag) (all others : List Nat) (x : Nat × LaneGot) : State :=
  match x.2 with
  | .values vs => s.deliverValues x.1 t m.data vs
  | .wait => s
  | .fault f =>
    if others.contains x.1 then s.deliverValues x.1 t m.data (m.data.map (fun _ => (0, true)))
    else s.trapLaneFault m.uni all s.curPc x.1 f

/-- A load (R380, R382): addresses are read, checked and translated in every lane, then every lane reads, then every
register is written; lanes that fault trap. -/
def State.loadStep (s : State) (m : MemArgs) (t : Tag) (inv : Bool) (value : List Byte → Word) : Out :=
  let act := s.active m.form
  let lanes := s.memLanes m
  let others := s.memHelpers m
  match s.checkFull act others [{ opnd := 0, src := m.base }] m.data with
  | .trapped u => .next u
  | .blocked => .next s
  | .ok s =>
    if s.phasePending s.curGroup || s.pageHeld m (lanes ++ others) then .next s
    else
      let xs := s.resolveLanes m .read (lanes ++ others)
      let w := xs.2.prepLanes m.size xs.1
      if w.1 then .next w.2
      else
        let v := if inv then View.inv (s.launchOf s.curGroup.wg).startSeq else .floor
        let got := w.2.readLanes m v value xs.1
        .next (got.1.foldl (fun u x => u.landLane m t act others x) got.2.advance)

/-! ## Stores (R381, R382, R204) -/

/-- The bytes that one data register stores. -/
def State.storeBytes (s : State) (m : MemArgs) (l : Nat) (d : Src) : List Byte := leBytes m.size (s.srcBits l d).toNat

/-- The words of a lane's store: address and operation. -/
def State.storeOps (s : State) (m : MemArgs) (mk : Nat → Src → WriteOp) (l : Nat) : List (Word × WriteOp) :=
  (s.memWords m l).zip (m.data.map (mk l))

/-- What stands before a lane's store: ALIGN, NONCANON, the line it stores to. -/
def State.prepStore (s : State) (m : MemArgs) (k : AccKind) (l : Nat) : Prep × State :=
  let r := s.laneReq l
  if (s.memAddr m l).toNat % m.size ≠ 0 then (.fault (faultAlign r k (genericAddr m.space (s.memAddr m l))), s)
  else prepAll s ((s.memWords m l).map (fun a t => t.prepWrite r m.space a m.size k))

/-- The faults with which words of a lane's store would enter the side log (R204). -/
def State.laneLogged (s : State) (m : MemArgs) (l : Nat) (ops : List (Word × WriteOp)) : List AccFault :=
  ops.filterMap (fun x =>
    match s.decodeAddr (s.laneReq l) m.space x.1 m.size with
    | some (.global va) => s.storeFault (s.laneReq l) (s.curThread l) va x.2
    | _ => none)

/-- A poisoned table entry met on the walk for a word of a lane's store: ECC_FATAL, which the lane takes (R196, R289). A word that goes
behind an earlier entry of the side log is not translated. -/
def State.laneEcc (s : State) (m : MemArgs) (l : Nat) (ops : List (Word × WriteOp)) : Option AccFault × State :=
  match ops with
  | [] => (none, s)
  | x :: rest =>
    match s.decodeAddr (s.laneReq l) m.space x.1 m.size with
    | some (.global va) =>
      if !s.stages s.curGroup.wg && s.threadLogged (s.curThread l) (pageOf va) then s.laneEcc m l rest
      else
        (match s.resolve (s.laneReq l) spGlobal (BitVec.ofNat 64 va) x.2.len x.2.kind with
         | (.error f, t) => if f.cause = 0x30 then (some f, t) else s.laneEcc m l rest
         | (.ok _, _) => s.laneEcc m l rest)
    | _ => s.laneEcc m l rest

/-- One word of a lane's store put where it belongs. -/
def State.storeWord (s : State) (m : MemArgs) (l : Nat) (acc : List Nat) (x : Word × WriteOp) : List Nat × State :=
  match s.decodeAddr (s.laneReq l) m.space x.1 m.size with
  | some (.global va) => s.storeGlobal (s.laneReq l) (s.curThread l) acc va x.2
  | some (.chip a) => (acc, s.performLoc s.curParty (some (s.curThread l)) (.flat a) x.2)
  | none => (acc, s)

/-- A lane's words all put where they belong. -/
def State.storeLane (s : State) (m : MemArgs) (l : Nat) (ops : List (Word × WriteOp)) : State :=
  (ops.foldl (fun (acc : List Nat × State) x => acc.2.storeWord m l acc.1 x) ([], s)).2

/-- One lane stores, or joins the lanes that trap: with its fault, or because the side log cannot take all its words
(R204). -/
def State.storeOrTrap (m : MemArgs) (k : AccKind) (mk : Nat → Src → WriteOp) (acc : State × List (Nat × AccFault)) (l : Nat) :
    State × List (Nat × AccFault) :=
  let s := acc.1
  let ops := s.storeOps m mk l
  match (s.prepStore m k l).1, s.laneEcc m l ops with
  | .fault f, _ => (s, acc.2 ++ [(l, f)])
  | _, (some f, t) => (t, acc.2 ++ [(l, f)])
  | _, (none, _) =>
    let faults := s.laneLogged m l ops
    match faults with
    | [] => (s.storeLane m l ops, acc.2)
    | f :: _ =>
      if s.sideRoom (s.coreOf s.curGroup.wg) < faults.length then (s, acc.2 ++ [(l, f)])
      else (s.storeLane m l ops, acc.2)

/-- Every lane stores; then the lanes that fault trap. -/
def State.storeLanes (s : State) (m : MemArgs) (k : AccKind) (mk : Nat → Src → WriteOp) (lanes : List Nat) : State :=
  let r := lanes.foldl (State.storeOrTrap m k mk) (s, [])
  r.2.foldl (fun t x => t.trapLaneFault m.uni (s.active m.form) s.curPc x.1 x.2) r.1

/-- Whether a store has a word in global memory. -/
def State.storesGlobal (s : State) (m : MemArgs) (lanes : List Nat) : Bool :=
  lanes.any (fun l => (s.memWords m l).any (fun a =>
    match s.decodeAddr (s.laneReq l) m.space a m.size with
    | some (.global _) => true
    | _ => false))

/-- Whether some lane waits for a line. -/
def State.prepStores (s : State) (m : MemArgs) (k : AccKind) (lanes : List Nat) : Bool × State :=
  lanes.foldl (fun (acc : Bool × State) l =>
    match acc.2.prepStore m k l with
    | (.wait, t) => (true, t)
    | (_, t) => (acc.1, t)) (false, s)

/-- A store or a reduction in every active lane in ascending order, once nothing stands before it: a pub under way
(R386), an empty line (R150), a full staging share (R101). `post` is what follows it. -/
def State.storeStep (s : State) (m : MemArgs) (k : AccKind) (mk : Nat → Src → WriteOp) (post : State → State) : Out :=
  let lanes := s.memLanes m
  if s.pubPending s.curGroup then .next s
  else
    let w := s.prepStores m k lanes
    if w.1 then .next w.2
    else
      let room := if s.storesGlobal m lanes then w.2.shareRoom s.curGroup.wg else (true, w.2)
      if !room.1 then .next (room.2.waitAt .staged)
      else .next (post (room.2.advance.storeLanes m k mk lanes))

/-- A store's operands checked: base, then data (R130, R131). -/
def State.storeChecked (s : State) (m : MemArgs) (go : State → Out) : Out :=
  match s.checkFull (s.active m.form) [] ({ opnd := 0, src := m.base } :: m.data.map (fun d => { opnd := 3, src := d })) [] with
  | .trapped u => .next u
  | .blocked => .next s
  | .ok s => go s

/-- A plain store (R381). -/
def State.plainStore (s : State) (m : MemArgs) : Out :=
  s.storeChecked m (fun s => s.storeStep m .write (fun l d => .store (s.storeBytes m l d)) (fun t => t))

/-! ## The instructions -/

/-- Bytes of `.w1`, `.w2`, `.w4` (R379). -/
def widthOf (so : BitVec 2) : Nat := 2 ^ so.toNat

/-- Registers of `ldm` and `stm` (R382). -/
def manyOf (so : BitVec 2) : Nat := 2 ^ (so.toNat + 1)

/-- A loaded word. -/
def wordOf (bs : List Byte) : Word := BitVec.ofNat 64 (ofLe bs)

/-- A loaded signed number. -/
def signedOf (bs : List Byte) : Word := sext (8 * bs.length) (ofLe bs)

/-- ld (R379, R380), 32-bit form: major 0x60 + t, tag 4 t + SO. -/
def execLd (t : BitVec 2) (m : M32) (s : State) : Out :=
  s.loadStep (mem32 m 8) (BitVec.ofNat 4 (4 * t.toNat + m.g.toNat)) false wordOf
/-- ld (R379, R380), 64-bit form; Q[60] marks `.inv`. -/
def execLd64 (p : BitVec 3) (t : BitVec 2) (w : R64) (s : State) : Out :=
  s.loadStep (mem64 p w 8 1) (BitVec.ofNat 4 (4 * t.toNat + w.so.toNat)) (bitAt (quad w) 0) wordOf
/-- st (R379, R381), 32-bit form. -/
def execSt (m : M32) (s : State) : Out := s.plainStore (mem32 m 8)
/-- st (R379, R381), 64-bit form. -/
def execSt64 (p : BitVec 3) (w : R64) (s : State) : Out := s.plainStore (mem64 p w 8 1)
/-- lds.u (R379), 32-bit form. -/
def execLdsU (m : M32) (s : State) : Out := s.loadStep (mem32 m (widthOf m.g)) 1 false wordOf
/-- lds.u (R379), 64-bit form. -/
def execLdsU64 (p : BitVec 3) (w : R64) (s : State) : Out := s.loadStep (mem64 p w (widthOf w.so) 1) 1 false wordOf
/-- lds.s (R379), 32-bit form. -/
def execLdsS (m : M32) (s : State) : Out := s.loadStep (mem32 m (widthOf m.g)) 1 false signedOf
/-- lds.s (R379), 64-bit form. -/
def execLdsS64 (p : BitVec 3) (w : R64) (s : State) : Out := s.loadStep (mem64 p w (widthOf w.so) 1) 1 false signedOf
/-- sts (R379, R381), 32-bit form. -/
def execSts (m : M32) (s : State) : Out := s.plainStore (mem32 m (widthOf m.g))
/-- sts (R379, R381), 64-bit form. -/
def execSts64 (p : BitVec 3) (w : R64) (s : State) : Out := s.plainStore (mem64 p w (widthOf w.so) 1)
/-- ldm (R382): Q holds the tag, SO the number of registers. -/
def execLdm (p : BitVec 3) (w : R64) (s : State) : Out := s.loadStep (mem64 p w 8 (manyOf w.so)) (quad w) false wordOf
/-- stm (R382). -/
def execStm (p : BitVec 3) (w : R64) (s : State) : Out := s.plainStore (mem64 p w 8 (manyOf w.so))

end Sys2Proof.Machine
end

