-- ==== Sys2Proof/Machine/Atomics.lean ====
section
/-! DEFINITION. Atomics and reductions (R383 to R385, R182). -/

namespace Sys2Proof.Machine

open Sys2Proof

/-- A scope code (R298). -/
def scopeOf (n : Nat) : Scope :=
  match n with
  | 0 => .grp
  | 1 => .wg
  | 2 => .ridge
  | 3 => .die
  | 4 => .pkg
  | _ => .sys

/-- The scope of an atomic: Q[62:60] (R383). -/
def atomScope (w : R64) : Scope := scopeOf ((quad w).toNat % 8)
/-- U of an atomic: Q[63]. -/
def atomU (w : R64) : Bool := bitAt (quad w) 3
/-- `.rel`: SO[13]. -/
def atomRel (w : R64) : Bool := bitAt w.so 1
/-- `.acq`: SO[12]. -/
def atomAcq (w : R64) : Bool := bitAt w.so 0

/-- Whether `atom` accepts a tag (R383). -/
def atomTagOk (f : Nat) (t : Tag) : Bool :=
  match f with
  | 0 => t == 1 || t == 2
  | 1 => t == 1 || t == 2
  | 2 => t == 1 || t == 2
  | 3 => t == 0 || t == 1 || t == 2
  | 4 => t == 0 || t == 1 || t == 2
  | 5 => t == 0 || t == 1 || t == 2
  | _ => t != 15

/-- Whether `red` accepts a tag (R383). -/
def redTagOk (f : Nat) (t : Tag) : Bool := atomTagOk f t || (f == 0 && (t == 7 || t == 8 || t == 9))

/-- Whether the tags of a lane's operand are accepted: D, and D + 1 of a `cas` (R383). -/
def State.atomTags (s : State) (ok : Tag → Bool) (cas : Bool) (m : MemArgs) (l : Nat) : Bool :=
  match m.data with
  | d :: _ => ok (s.srcTagOf l d) && (!cas || s.srcTagOf l d == s.srcTagOf l (d.succ 1))
  | [] => true

/-- The operation of one lane's atomic (R384). -/
def State.atomOp (s : State) (f : Nat) (u : Bool) (m : MemArgs) (l : Nat) : WriteOp :=
  let d := m.data.headD .none
  if f = 7 then .atomic (BitVec.ofNat 3 f) (s.srcTagOf l d) u (s.srcBits l (d.succ 1)) (s.srcBits l d)
  else .atomic (BitVec.ofNat 3 f) (s.srcTagOf l d) u (s.srcBits l d) 0

/-- What one lane's atomic answers: the old word and whether it comes at once, or a fault. -/
inductive AtomGot where
  | old (v : Word) (fast : Bool)
  | fault (f : AccFault)

/-- One lane's atomic performed at its place, at one instant (R182, R384). A peer performed it already (R163). -/
def State.atomAt (s : State) (l : Nat) (a : Word) (p : Spot) (op : WriteOp) : AtomGot × State :=
  let r := s.laneReq l
  match p.loc with
  | .peer m off _ =>
    match s.findFab r.who r.thread (some op) m off 8 with
    | some q =>
      if q.poisoned then (.fault (faultPoison r .atomic a true 0 false), s.dropFab q.id) else (.old (wordOf q.bytes) false, s.dropFab q.id)
    | none => (.fault (faultPoison r .atomic a true 0 false), s)
  | _ =>
    match (s.touchSpot p true).readLoc r .now p.loc 8 with
    | (.poison c k own, t) => (.fault (faultPoison r .atomic a c k own), t)
    | (.bytes b, t) => (.old (wordOf b) p.fast, t.performLoc r.who r.thread p.loc op)

/-- The lanes' atomics in ascending order. -/
def State.atomLanes (s : State) (f : Nat) (u : Bool) (m : MemArgs) (xs : List LaneSpots) : List (Nat × AtomGot) × State :=
  match xs with
  | [] => ([], s)
  | (l, .ok ((a, p) :: _)) :: t =>
    let one := s.atomAt l a p (s.atomOp f u m l)
    let r := one.2.atomLanes f u m t
    ((l, one.1) :: r.1, r.2)
  | (l, .error e) :: t => let r := s.atomLanes f u m t; ((l, .fault e) :: r.1, r.2)
  | (_, .ok []) :: t => s.atomLanes f u m t

/-- The old word delivered to D, which keeps its tag (R384), or the lane's trap. -/
def State.landAtom (s : State) (m : MemArgs) (x : Nat × AtomGot) : State :=
  match x.2 with
  | .old v fast =>
    (match s.srcKey x.1 (m.data.headD .none) with
     | some k => s.deliver k (!fast) false (s.reg k).tag v 0
     | none => s)
  | .fault f => s.trapLaneFault false [] s.curPc x.1 f

/-- The operands of an atomic: base, data, and the data's second register of a `cas`. -/
def atomOpnds (cas : Bool) (m : MemArgs) : List Opnd :=
  let d := m.data.headD .none
  [{ opnd := 0, src := m.base }, { opnd := 3, src := d }] ++ (if cas then [{ opnd := 3, src := d.succ 1 }] else [])

/-- Whether some lane's address is global (R104). -/
def State.atomGlobal (s : State) (m : MemArgs) (lanes : List Nat) : Bool :=
  lanes.any (fun l => match apertureOf (s.memAddr m l).toNat with | some (0, _) => true | _ => false)

/-- The pub of a `.rel`, or nothing (R182). -/
def State.relPub (s : State) (rel : Bool) (x : Scope) : State := if rel then s.doPub s.curGroup x .pub else s

/-- The pull of an `.acq`, or nothing (R182). -/
def State.acqPull (s : State) (acq : Bool) (x : Scope) : State := if acq then s.pull x s.curPlace else s

/-- Whether a `.rel` must still wait for its pub, or an earlier pub is under way (R182, R386). -/
def State.relWaits (s : State) (rel : Bool) : Bool :=
  s.pubPending s.curGroup || (rel && !s.pubReady s.curGroup)

/-- An atomic once nothing stands before it. -/
def State.atomRun (s : State) (f : Nat) (w : R64) (m : MemArgs) (xs : List LaneSpots) : State :=
  let got := s.atomLanes f (atomU w) m xs
  (got.1.foldl (fun t x => t.landAtom m x) got.2.advance).acqPull (atomAcq w) (atomScope w)

/-- Whether some lane of an atomic waits for its line, or for the peer that performs it. -/
def State.prepAtoms (s : State) (f : Nat) (w : R64) (m : MemArgs) (xs : List LaneSpots) : Bool × State :=
  xs.foldl (fun (acc : Bool × State) x =>
    let r := acc.2.prepLane 8 x (some (acc.2.atomOp f (atomU w) m x.1)); (acc.1 || r.1, r.2)) (false, s)

/-- atom (R384, R385): FORMAT, EMPTY, DET_XBLOCK, the pub of `.rel`, the lanes, the pull of `.acq`. -/
def execAtom (f : BitVec 3) (w : R64) (s : State) : Out :=
  let m := mem64 5 w 8 1
  let lanes := s.active m.form
  let n := f.toNat
  if lanes.isEmpty then .next s.advance
  else if !lanes.all (s.atomTags (atomTagOk n) (n == 7) m) then .next (s.trapFormat lanes 3)
  else
    match s.checkFull lanes [] (atomOpnds (n == 7) m) [] with
    | .trapped t => .next t
    | .blocked => .next s
    | .ok s =>
      if (s.launchOf s.curGroup.wg).det && s.atomGlobal m lanes then
        .next (s.trapLanes lanes 0x20 s.curPc (fun _ => s.memAddr m (lanes.headD 0)) (fun _ => 0))
      else if s.relWaits (atomRel w) || s.phasePending s.curGroup || s.pageHeld m lanes then .next s
      else
        let xs := (s.relPub (atomRel w) (atomScope w)).resolveLanes m .atomic lanes
        let p := xs.2.prepAtoms n w m xs.1
        if p.1 then .next p.2 else .next (p.2.atomRun n w m xs.1)

/-- red (R384, R385): as an atomic with no return; global words are staged or retire into the side log. The pull of an `.acq` comes
once its words have been performed, and the group's later accesses wait for it (R182). -/
def execRed (f : BitVec 3) (w : R64) (s : State) : Out :=
  let m := mem64 5 w 8 1
  let lanes := s.active m.form
  let n := f.toNat
  if lanes.isEmpty then .next s.advance
  else if !lanes.all (s.atomTags (redTagOk n) false m) then .next (s.trapFormat lanes 3)
  else
    match s.checkFull lanes [] (atomOpnds false m) [] with
    | .trapped t => .next t
    | .blocked => .next s
    | .ok s =>
      if s.relWaits (atomRel w) then .next s
      else
        (s.relPub (atomRel w) (atomScope w)).storeStep m .reduce
          (fun l d => .reduce f (s.srcTagOf l d) (atomU w) (s.srcBits l d))
          (fun t => if atomAcq w then t.issuePub (atomScope w) .acquire else t)

end Sys2Proof.Machine
end

