-- ==== Sys2Proof/Machine/Sync.lean ====
section
/-! DEFINITION. Phase boundaries, prefetch, barriers and counter waits (R386 to R389). -/

namespace Sys2Proof.Machine

open Sys2Proof

/-! ## pub, pull, phase, pref (R386, R387) -/

/-- A scope code's instruction: codes 6 and 7 are outside its limits (R386). -/
def State.withScope (s : State) (c : Nat) (go : Scope → State) : Out :=
  if 6 ≤ c then .next (s.trapIllegal 3) else .next (go (scopeOf c))

/-- D[2:0] of a SHAPE 0b00 form. -/
def scope64 (w : R64) : Nat := match w.sh with | .rrr _ _ _ _ _ _ _ d => d.toNat % 8 | _ => 0

/-- pub (R386), 32-bit form. -/
def execPub (c : BitVec 3) (s : State) : Out := s.withScope c.toNat (fun x => (s.issuePub x .pub).advance)
/-- pub (R386), 64-bit form. -/
def execPub64 (w : R64) (s : State) : Out := s.withScope (scope64 w) (fun x => (s.issuePub x .pub).advance)
/-- pull: it stands behind the pubs of its group that are under way, so that the boundary order keeps the issue order (R180). -/
def State.pullStep (s : State) (c : Nat) : Out :=
  if c < 6 && s.pubPending s.curGroup then .next s
  else s.withScope c (fun x => (s.pull x s.curPlace).advance)

/-- pull (R386), 32-bit form. -/
def execPull (c : BitVec 3) (s : State) : Out := s.pullStep c.toNat
/-- pull (R386), 64-bit form. -/
def execPull64 (w : R64) (s : State) : Out := s.pullStep (scope64 w)
/-- phase (R386), 32-bit form. -/
def execPhase (c : BitVec 3) (s : State) : Out := s.withScope c.toNat (fun x => (s.issuePub x .phase).advance)
/-- phase (R386), 64-bit form. -/
def execPhase64 (w : R64) (s : State) : Out := s.withScope (scope64 w) (fun x => (s.issuePub x .phase).advance)

/-- pref (R387), 32-bit form: no architectural effect. -/
def execPref (_ : M32) (s : State) : Out := .next s.advance
/-- pref (R387), 64-bit form. -/
def execPref64 (_ : R64) (s : State) : Out := .next s.advance

/-! ## bar (R388) -/

/-- The lanes of the whole bundle, or the one of the Helm. -/
def State.allLanes (s : State) : List Nat := if s.curHelm then oneLane else s.curLanes

/-- The operations whose writes a Helm has learned of: it waited for them (R142). -/
def State.helmLearned (s : State) (w : Nat) : List Nat :=
  ((s.hist.filter (fun e => e.owners.contains (.helm w))).flatMap (fun e =>
    e.owners.filterMap (fun p => match p with | .operation o => some o | _ => none))).eraseDups

/-- The arrivals of the listed lanes, or of the Helm, whose writes and FLAGS the barrier takes with it (R139, R142, R247). -/
def State.arrive (s : State) (n : Nat) (lanes : List Nat) : State :=
  let w := s.curGroup.wg
  if s.curHelm then
    let h := s.helm w
    let s1 := s.setHelm w { h with arrived := n :: h.arrived }
    let b := s1.bar w n
    (s1.setBar w n { b with helmOps := s1.helmLearned w, helmFlags := b.helmFlags ||| h.flags }).arriveBar w n 1
  else
    (lanes.foldl (fun t l =>
      t.setThread (s.curThread l) { t.thread (s.curThread l) with arrived := n :: (t.thread (s.curThread l)).arrived }) s).arriveBar
        w n lanes.length

/-- What the issuer sees on passing a phase of a parity (R142, R186). -/
def State.passed (s : State) (n : Nat) (p : Bool) : State :=
  if s.curHelm then s.passBarHelm s.curGroup.wg n p else s.passBar s.curGroup n p

/-- The issuer starts to wait for a phase: the Helm, or the listed lanes while the rest goes on. -/
def State.awaitBar (s : State) (lanes : List Nat) (n : Nat) (p : Bool) : State :=
  if s.curHelm then s.waitAt (.barrier n p) else s.waitLanes lanes (.barrier n p)

/-- A barrier instruction on barrier `n`, checked against BARS (R138). -/
def State.withBar (s : State) (n : Nat) (go : Out) : Out :=
  if (s.launchOf s.curGroup.wg).barsN ≤ n then .next (s.trapIllegal 3) else go

/-- bar.init: EXPECT := value, and the phase completes at once if it may (R388). -/
def State.barInitStep (s : State) (n : Nat) (b : Src) : Out :=
  s.withBar n
    (if s.srcTagOf 0 b != 1 then .next (s.trapFormat s.allLanes 1)
     else
       match s.checkFull s.allLanes [] [{ opnd := 1, src := b }] [] with
       | .trapped t => .next t
       | .blocked => .next s
       | .ok s =>
         let v := (s.srcBits 0 b).toNat
         if v = 0 ∨ 2047 < v then .next (s.trapIllegal 3)
         else
           let w := s.curGroup.wg
           .next ((s.setBar w n { s.bar w n with expect := BitVec.ofNat 11 v }).settleBar w n).advance)

/-- bar.arrive (R388). -/
def State.barArriveStep (s : State) (n : Nat) (f : Form) : Out :=
  s.withBar n
    (if s.curHelm && s.capturePending s.curGroup.wg then .next s
     else if !s.curHelm && (s.active f).isEmpty then .next s.advance
     else .next (s.arrive n (s.active f)).advance)

/-- What a lane, or the Helm, waits at. -/
def State.laneWait (s : State) (l : Nat) : Wait :=
  if s.curHelm then (s.helm s.curGroup.wg).wait else (s.thread (s.curThread l)).wait

/-- bar.wait: passes once PHASE differs from p (R388). Lanes whose phase completed while they waited pass (R139). -/
def State.barWaitStep (s : State) (n : Nat) (p : Bool) : Out :=
  s.withBar n
    (let stay := s.allLanes.filter (fun l => s.laneWait l != .released n)
     if (s.bar s.curGroup.wg n).phase != p then .next (s.passed n p).advance
     else if stay.isEmpty then .next s.advance
     else if stay.length = s.allLanes.length then .next (s.waitAt (.barrier n p))
     else .next (s.awaitBar stay n p))

/-- Whether a lane, or the Helm, has already arrived and waits at its `bar.sync`. -/
def State.atBar (s : State) (n l : Nat) : Bool :=
  match s.laneWait l with
  | .barrier m _ => m == n
  | .released m => m == n
  | _ => false

/-- bar.sync: an arrival, then a wait on the PHASE read at that arrival (R388). Lanes that arrived before pass. -/
def State.barSyncStep (s : State) (n : Nat) (f : Form) : Out :=
  s.withBar n
    (let lanes := if s.curHelm then oneLane else s.active f
     let fresh := lanes.filter (fun l => !s.atBar n l)
     let p := (s.bar s.curGroup.wg n).phase
     if fresh.isEmpty then .next s.advance
     else if s.curHelm && s.capturePending s.curGroup.wg then .next s
     else
       let t := s.arrive n fresh
       if (t.bar s.curGroup.wg n).phase != p then .next (t.passed n p).advance
       else .next (t.awaitBar fresh n p))

/-- The B operand of `bar.init` in a 64-bit form. -/
def barB64 (w : R64) : Src := (form64 w false).b

/-- The barrier number in A of a 64-bit form. -/
def barA64 (w : R64) : Nat := match w.sh with | .rrr _ _ _ _ _ _ a _ => a.toNat | _ => 0

/-- bar.init (R388), 32-bit form. -/
def execBarInit (w : R32) (s : State) : Out := s.barInitStep w.a.toNat (.uni w.b.toNat false)
/-- bar.init (R388), 64-bit form. -/
def execBarInit64 (w : R64) (s : State) : Out := s.barInitStep (barA64 w) (barB64 w)
/-- bar.arrive (R388), 32-bit form. -/
def execBarArrive (w : R32) (s : State) : Out := s.barArriveStep w.a.toNat formNone
/-- bar.arrive (R388), 64-bit form. -/
def execBarArrive64 (w : R64) (s : State) : Out := s.barArriveStep (barA64 w) (form64 w false)
/-- bar.wait (R388), 32-bit form: SO[27] is the parity. -/
def execBarWait (w : R32) (s : State) : Out := s.barWaitStep w.a.toNat (bitAt w.so 0)
/-- bar.wait (R388), 64-bit form. -/
def execBarWait64 (w : R64) (s : State) : Out := s.barWaitStep (barA64 w) (bitAt w.so 0)
/-- bar.sync (R388), 32-bit form. -/
def execBarSync (w : R32) (s : State) : Out := s.barSyncStep w.a.toNat formNone
/-- bar.sync (R388), 64-bit form. -/
def execBarSync64 (w : R64) (s : State) : Out := s.barSyncStep (barA64 w) (form64 w false)

/-! ## wait (R389) -/

/-- The class of a function code. -/
def classOf (f : Nat) : OpClass :=
  match f with
  | 0 => .cpy
  | 1 => .gat
  | 2 => .srt
  | 3 => .coll
  | 4 => .nm
  | _ => .mat

/-- A counter of the issuer. -/
def State.curCtr (s : State) (c : OpClass) : Nat :=
  (if s.curHelm then (s.helm s.curGroup.wg).ctr.get c else (s.group s.curGroup).ctr.get c).toNat

/-- Whether an operation is one of the issuer's. -/
def State.curOwns (s : State) (o : AsyncOp) : Bool :=
  o.wg == s.curGroup.wg && o.grp == (if s.curHelm then none else some s.curGroup.grp)

/-- Whether an operation is an append, which no counter counts (R397). -/
def OpKind.isPush (k : OpKind) : Bool := match k with | .qpush _ _ _ _ => true | _ => false

/-- The address of the instruction behind an append (R397). -/
def OpKind.after (k : OpKind) : Word := match k with | .qpush _ _ _ a => a | _ => 0

/-- The issuer learns of its finished operations of a class (R136, R187). -/
def State.learnDone (s : State) (c : OpClass) : State :=
  let mine := fun (o : AsyncOp) => s.curOwns o && o.cls == c && o.done && !o.kind.isPush
  let s' := (s.ops.filter mine).foldl (fun t o => t.learn (.operation o.id) s.curParty) s
  { s' with ops := s'.ops.filter (fun o => !mine o) }

/-- wait.<class> #n (R389): passes once the counter is at most n. -/
def State.waitStep (s : State) (c : OpClass) (n : Nat) : Out :=
  if 63 < n then .next (s.trapIllegal 3)
  else if s.curCtr c ≤ n then .next (s.learnDone c).advance
  else .next (s.waitAt (.counter c n))

/-- wait (R389), 32-bit form: n in B. -/
def execWait (f : BitVec 3) (w : R32) (s : State) : Out := s.waitStep (classOf f.toNat) w.b.toNat
/-- wait (R389), 64-bit form: n in imm16. -/
def execWait64 (f : BitVec 3) (w : R64) (s : State) : Out := s.waitStep (classOf f.toNat) (immCode w)

end Sys2Proof.Machine
end

