-- ==== Sys2Proof/Machine/Issue.lean ====
section
/-! DEFINITION. The instructions that hand work to the engines, to the queue engines and to semaphores (R377, R390 to
R398). -/

namespace Sys2Proof.Machine

open Sys2Proof

/-! ## Operands of a per-bundle instruction (R376) -/

/-- s register fields of a 32-bit form. -/
def uniA (w : R32) : Src := .uni w.a.toNat false
def uniB (w : R32) : Src := .uni w.b.toNat false

/-- FORMAT and EMPTY of the s registers that a per-bundle instruction reads: all tagged I64 (R376). -/
def State.withUni (s : State) (srcs : List Opnd) (dsts : List Src) (go : State → Out) : Out :=
  match srcs.find? (fun o => s.srcTagOf 0 o.src != 1) with
  | some o => .next (s.trapFormat s.allLanes o.opnd)
  | none =>
    match s.checkFull s.allLanes [] srcs dsts with
    | .trapped t => .next t
    | .blocked => .next s
    | .ok s => go s

/-- Whether a field names a register. -/
def Src.isReg (x : Src) : Bool := match x with | .lane _ _ => true | .uni _ _ => true | _ => false

/-! ## Reading records (R377) -/

/-- A trap of the whole bundle for an address or for a record it reads. -/
def State.trapRecord (s : State) (f : AccFault) : State := s.trapLanes s.curLanes f.cause s.curPc (fun _ => f.addr) (fun _ => f.info)

/-- The bundle as the reader of a record: its issuing thread is its lowest (log entry 19). -/
def State.bundleReq (s : State) : Req := s.laneReq (s.curLanes.headD 0)

/-- Whether a record lies in a page on which the group has side-log entries (R188). -/
def State.recordHeld (s : State) (a : Word) (n : Nat) : Bool :=
  isGlobal a && (s.groupLogged s.curGroup (pageOf a.toNat) || s.groupLogged s.curGroup (pageOf (a.toNat + n - 1)))

/-- What reading records comes to. -/
inductive RecOut where
  | got (recs : List (List Byte)) (s : State)
  | out (s : State)

/-- The record to read next: its address, length and alignment; a place to leave empty; or the end. -/
inductive NextRec where
  | get (a : Word) (n align : Nat)
  | skip
  | stop

/-- One record read as a load of the bundle (R377). -/
def State.readRecord (s : State) (a : Word) (n align : Nat) : ReadOut × State :=
  if a.toNat % align ≠ 0 then (.fault (faultAlign s.bundleReq .read a), s)
  else if s.phasePending s.curGroup || s.recordHeld a n then (.wait, s)
  else s.readRec s.bundleReq .floor spGeneric a n

/-- Records read one after another; the address of each may stand in those before it. -/
def State.readRecords (s : State) (next : List (List Byte) → NextRec) (recs : List (List Byte)) (fuel : Nat) : RecOut :=
  match fuel with
  | 0 => .got recs s
  | fuel + 1 =>
    match next recs with
    | .stop => .got recs s
    | .skip => s.readRecords next (recs ++ [[]]) fuel
    | .get a n align =>
      match s.readRecord a n align with
      | (.wait, t) => .out t
      | (.fault f, t) => .out (t.trapRecord f)
      | (.bytes b, t) => t.readRecords next (recs ++ [b]) fuel

/-- A single record. -/
def oneRecord (a : Word) (n align : Nat) (recs : List (List Byte)) : NextRec :=
  match recs with
  | [] => .get a n align
  | _ => .stop

/-- Two records. -/
def twoRecords (a b : Word) (n align : Nat) (recs : List (List Byte)) : NextRec :=
  match recs with
  | [] => .get a n align
  | [_] => .get b n align
  | _ => .stop

/-! ## Issue (R390) -/

/-- The lines of 128 bytes that `n` bytes from a flat address on lie in. -/
def linesFrom (flat n : Nat) : List Nat := if n = 0 then [] else upFrom (flat / 128) ((flat + n - 1) / 128 + 1 - flat / 128)

/-- The scratchpad lines that byte ranges lie in (R150): those of Ridge memory are scratchpad lines too (R148). -/
def State.linesOf (s : State) (w : Nat) (xs : List Span) : List Nat :=
  (xs.flatMap (fun x => match apertureOf x.1 with
    | some (1, off) => linesFrom (scratchAt w off) x.2
    | some (2, off) => linesFrom (ridgeAt (s.wg w).launch (s.ridgeIndex w) off) x.2
    | _ => [])).eraseDups

/-- The issuer's operations of whose writes it has not learned (R212). -/
def State.unlearned (s : State) : List Nat :=
  (s.ops.filter (fun o => s.curOwns o && (!o.done || s.hist.any (fun e =>
    e.owners.getLast? == some (.operation o.id) && !e.owners.contains s.curParty)))).map (·.id)

/-- The issuer's counter of a class raised. -/
def State.raiseCtr (s : State) (c : OpClass) : State :=
  if s.curHelm then
    let h := s.helm s.curGroup.wg
    s.setHelm s.curGroup.wg { h with ctr := h.ctr.set c (h.ctr.get c + 1) }
  else
    let g := s.group s.curGroup
    s.setGroup s.curGroup { g with ctr := g.ctr.set c (g.ctr.get c + 1) }

/-- An operation handed to an engine: its counter rises, its destination lines are empty, its bytes count at its barrier. -/
def State.issueOp (s : State) (c : OpClass) (kind : OpKind) (bar : Option Nat) (tx : Nat) (dst : List Span) : State :=
  let w := s.curGroup.wg
  let lines := s.linesOf w dst
  let id := s.nextId
  let s := s.raiseCtr c
  let s := match bar with | some n => s.addTx w n tx id | none => s
  { s with
    ops := s.ops ++ [{ id := id, wg := w, grp := if s.curHelm then none else some s.curGroup.grp
                       lane := if s.curHelm then none else s.curLanes.head?, ctx := s.ctxOf w, die := dieOfCore (s.coreOf w)
                       priv := s.curPriv, seq := s.writeSeq, floors := s.floors.length, unseen := s.unlearned, replayed := []
                       order := id, cls := c, kind := kind
                       bar := bar, tx := tx, lines := lines, done := false, held := false, orphan := false }]
    emptyLines := lines ++ s.emptyLines
    nextId := id + 1 }

/-- A failed check's trap (R377, R208): STREAM_OVERLAP names the record that overlaps. -/
def State.trapCheck (s : State) (c : Check) (record : Word) : State :=
  if c = .overlap then s.trapLanes s.curLanes 0x21 s.curPc (fun _ => record) (fun _ => 0) else s.trapIllegal 3

/-- The records kept for this instruction while it blocks at a full counter, and without them. -/
def State.keptRecs (s : State) : Option (List (List Byte)) := FMap.find (s.group s.curGroup).recs s.curPc
def State.dropRecs (s : State) : State := s.setGroup s.curGroup { s.group s.curGroup with recs := FMap.erase (s.group s.curGroup).recs s.curPc }
def State.keepRecs (s : State) (recs : List (List Byte)) : State :=
  s.setGroup s.curGroup { s.group s.curGroup with recs := FMap.set (s.group s.curGroup).recs s.curPc recs }

/-- An engine issue (R390): records read and checked, then a block while the counter stands at 63, then the operation, or
(`error`) the trap that its making meets. `need` is how many operations it raises the counter by. -/
def State.engineTry (s : State) (c : OpClass) (need : Nat) (next : List (List Byte) → NextRec)
    (check : State → List (List Byte) → Check × Word) (make : State → List (List Byte) → Except State State) : Out :=
  if s.pubPending s.curGroup then .next s
  else
    let got := match s.keptRecs with
      | some r => RecOut.got r s
      | none => s.readRecords next [] 40
    match got with
    | .out t => .next t
    | .got recs t =>
      let k := check t recs
      if k.1 ≠ .ok then .next (t.dropRecs.trapCheck k.1 k.2)
      else if 63 < t.curCtr c + need then .next (t.keepRecs recs)
      else match make t.dropRecs recs with
        | .ok u => .next u.advance
        | .error u => .next u

/-- An engine issue whose making cannot fail. -/
def State.engineIssue (s : State) (c : OpClass) (need : Nat) (next : List (List Byte) → NextRec)
    (check : State → List (List Byte) → Check × Word) (make : State → List (List Byte) → State) : Out :=
  s.engineTry c need next check (fun t recs => .ok (make t recs))

/-- The barrier that a D field names (R390). -/
def barOfD (d : Nat) : Option Nat := if d = 0 then none else some (d - 1)

/-- A D field that names no barrier of the workgroup is outside its limits (R138). -/
def State.withBarD (s : State) (d : Nat) (go : Out) : Out := if d = 0 then go else s.withBar (d - 1) go

/-! ## Copies and transforms (R391) -/

/-- The addresses that a copy writes, as ranges. -/
def copyDst (op : Nat) (a b : Layout) (len : Nat) : List Span :=
  if op = 2 ∨ op = 3 ∨ op = 5 then
    (List.range (pageCount (if op = 2 then b else a) len)).map (fun k => (b.base.toNat + 4096 * k, 4096))
  else (movedElems op a b len).map (fun x => ((b.elem x.2).1.toNat, b.elemBytes))

/-- The bytes that a migrate moves: those of the leaf at its SRC, or none where no valid leaf stands there (R217). -/
def State.migrateBytes (s : State) (ctx : Nat) (src : List Byte) : Nat :=
  match s.translate ctx (Layout.ofBytes src).base.toNat .probe true with
  | (.ok l, _) => s.leafSize ctx (Layout.ofBytes src).base.toNat l
  | _ => 0

/-- The limits of a migrate's records (R217), and of the leaf they name where there is one. -/
def State.migrateCheck (s : State) (ctx : Nat) (src dst : List Byte) : Check :=
  let a := Layout.ofBytes src
  let b := Layout.ofBytes dst
  let big := max 4096 (s.migrateBytes ctx src)
  .ofBool (zeroIn src 8 9 && a.ndim == 1 && zeroIn src 10 16 && a.extAt 0 == 1 && zeroIn src 20 64
    && decide (a.base.toNat < 2 ^ 57) && a.base.toNat % big == 0
    && zeroIn dst 5 10 && decide (b.cmode ≤ 2) && zeroIn dst 11 12 && decide (b.tier ≤ 1) && zeroIn dst 13 64
    && b.base.toNat % big == 0 && frameOk b.tier ((b.base.toNat % 2 ^ 40 + big - 1) / 4096) && (b.cmode == 0 || big == 4096))

/-- cpy and xform (R391): SRC record in A, DST record in B, LEN in C, a barrier in D. -/
def State.copyIssue (s : State) (op : Nat) (a b c : Src) (d : Nat) : Out :=
  s.withBarD d
    (if op = 6 ∧ !s.allPriv then .next (s.trapIllegal 4)
     else s.withUni ([{ opnd := 0, src := a }, { opnd := 1, src := b }] ++ (if c.isReg then [{ opnd := 2, src := c }] else [])) []
        (fun s =>
         let sa := s.srcBits 0 a
         let sd := s.srcBits 0 b
         let len := fun (recs : List (List Byte)) =>
           if c.isReg then (s.srcBits 0 c).toNat else (Layout.ofBytes (recs.getD 0 [])).whole
         s.engineIssue .cpy 1 (twoRecords sa sd 64 64)
           (fun t recs => (if op = 6 then t.migrateCheck (t.ctxOf t.curGroup.wg) (recs.getD 0 []) (recs.getD 1 [])
             else t.copyCheck t.bundleReq false op (recs.getD 0 []) (recs.getD 1 []) (len recs), sd))
           (fun t recs =>
             let x := Layout.ofBytes (recs.getD 0 [])
             let y := Layout.ofBytes (recs.getD 1 [])
             let n := len recs
             if op = 6 then t.issueOp .cpy (.copy 6 (recs.getD 0 []) (recs.getD 1 []) 0) (barOfD d)
               (t.migrateBytes (t.ctxOf t.curGroup.wg) (recs.getD 0 [])) []
             else t.issueOp .cpy (.copy op (recs.getD 0 []) (recs.getD 1 []) n) (barOfD d) (copyBytes y x n)
               (if copyIdle op x y then [] else copyDst op x y n))))

/-- C of a 64-bit form, where FC marks it as an operand (R391, R394, R396). -/
def optC (w : R64) : Src :=
  match w.sh with
  | .rrr _ fc c _ _ _ _ _ => if fc then src64 w.fsc c false else .none
  | _ => .none

/-- A, B and D of a 64-bit form. -/
def regA64 (w : R64) : Src := (form64 w false).a
def regB64 (w : R64) : Src := (form64 w false).b
def numD64 (w : R64) : Nat := (form64 w false).d

/-- cpy (R391), 32-bit form. -/
def execCpy (w : R32) (s : State) : Out := s.copyIssue 0 (uniA w) (uniB w) .none w.d.toNat
/-- cpy (R391), 64-bit form. -/
def execCpy64 (w : R64) (s : State) : Out := s.copyIssue 0 (regA64 w) (regB64 w) (optC w) (numD64 w)
/-- xform.transpose (R391), 32-bit form. -/
def execXformTranspose (w : R32) (s : State) : Out := s.copyIssue 1 (uniA w) (uniB w) .none w.d.toNat
/-- xform.transpose (R391), 64-bit form. -/
def execXformTranspose64 (w : R64) (s : State) : Out := s.copyIssue 1 (regA64 w) (regB64 w) (optC w) (numD64 w)
/-- xform.compress (R391), 32-bit form. -/
def execXformCompress (w : R32) (s : State) : Out := s.copyIssue 2 (uniA w) (uniB w) .none w.d.toNat
/-- xform.compress (R391), 64-bit form. -/
def execXformCompress64 (w : R64) (s : State) : Out := s.copyIssue 2 (regA64 w) (regB64 w) (optC w) (numD64 w)
/-- xform.decompress (R391), 32-bit form. -/
def execXformDecompress (w : R32) (s : State) : Out := s.copyIssue 3 (uniA w) (uniB w) .none w.d.toNat
/-- xform.decompress (R391), 64-bit form. -/
def execXformDecompress64 (w : R64) (s : State) : Out := s.copyIssue 3 (regA64 w) (regB64 w) (optC w) (numD64 w)
/-- xform.convert (R391), 32-bit form. -/
def execXformConvert (w : R32) (s : State) : Out := s.copyIssue 4 (uniA w) (uniB w) .none w.d.toNat
/-- xform.convert (R391), 64-bit form. -/
def execXformConvert64 (w : R64) (s : State) : Out := s.copyIssue 4 (regA64 w) (regB64 w) (optC w) (numD64 w)
/-- xform.repack (R391), 32-bit form. -/
def execXformRepack (w : R32) (s : State) : Out := s.copyIssue 5 (uniA w) (uniB w) .none w.d.toNat
/-- xform.repack (R391), 64-bit form. -/
def execXformRepack64 (w : R64) (s : State) : Out := s.copyIssue 5 (regA64 w) (regB64 w) (optC w) (numD64 w)
/-- xform.migrate (R391, R217), 32-bit form: privileged. -/
def execXformMigrate (w : R32) (s : State) : Out := s.copyIssue 6 (uniA w) (uniB w) .none w.d.toNat
/-- xform.migrate (R391, R217), 64-bit form. -/
def execXformMigrate64 (w : R64) (s : State) : Out := s.copyIssue 6 (regA64 w) (regB64 w) (optC w) (numD64 w)

/-! ## Gather and scatter (R392, R393) -/

/-- gat and sct: the gather record in A, a barrier in D of `gat`. -/
def State.gatherIssue (s : State) (scatter : Bool) (a : Src) (d : Nat) : Out :=
  s.withBarD d
    (s.withUni [{ opnd := 0, src := a }] []
      (fun s =>
       s.engineIssue .gat 1 (oneRecord (s.srcBits 0 a) 64 64)
        (fun t recs => (t.gatherCheck t.bundleReq scatter (recs.getD 0 []), 0))
        (fun t recs =>
          let g := GatherRec.ofBytes (recs.getD 0 [])
          if scatter then t.issueOp .gat (.scatter (recs.getD 0 [])) none 0 []
          else t.issueOp .gat (.gather (recs.getD 0 [])) (barOfD d) (g.count * g.rowb) [(g.buf.toNat, g.count * g.rowb)])))

/-- gat (R393), 32-bit form. -/
def execGat (w : R32) (s : State) : Out := s.gatherIssue false (uniA w) w.d.toNat
/-- gat (R393), 64-bit form. -/
def execGat64 (w : R64) (s : State) : Out := s.gatherIssue false (regA64 w) (numD64 w)
/-- sct (R393), 32-bit form. -/
def execSct (w : R32) (s : State) : Out := s.gatherIssue true (uniA w) 0
/-- sct (R393), 64-bit form. -/
def execSct64 (w : R64) (s : State) : Out := s.gatherIssue true (regA64 w) 0

/-! ## srt, coll, nmq, chain (R394, R396) -/

/-- srt sa: every indirect bit and IND zero (R394). -/
def State.sortIssue (s : State) (a : Src) : Out :=
  let sa := s.srcBits 0 a
  s.withUni [{ opnd := 0, src := a }] []
    (fun s =>
     s.engineIssue .srt 1 (oneRecord sa 48 64)
      (fun t recs =>
        let r := recs.getD 0 []
        ((Check.ofBool (fieldLe r 24 8 / 2 % 4 == 0 && zeroIn r 40 48)).both (t.sortCheck t.bundleReq false r), sa))
      (fun t recs => t.issueOp .srt (.sort (recs.getD 0 [])) none 0 []))

/-- srt (R394), 32-bit form. -/
def execSrt (w : R32) (s : State) : Out := s.sortIssue (uniA w)
/-- srt (R394), 64-bit form. -/
def execSrt64 (w : R64) (s : State) : Out := s.sortIssue (regA64 w)

/-- The records of a collective: its body, the communicator, the rank table. -/
def collRecords (sa : Word) (recs : List (List Byte)) : NextRec :=
  match recs with
  | [] => .get sa 48 64
  | [body] => .get (CollBody.ofBytes body).comm 64 64
  | [_, comm] => if commOk comm then .get (Comm.ofBytes comm).rtab (4 * (Comm.ofBytes comm).nrank) 1 else .stop
  | _ => .stop

/-- SEQ taken and raised by an atomic at the record's home slice (R226). -/
def State.takeSeq (s : State) (r : Req) (comm : Word) : Except AccFault Nat × State :=
  let a := comm + 24
  match s.resolve r spGeneric a 8 .atomic with
  | (.error f, t) => (.error f, t)
  | (.ok p, t) =>
    match (t.touchSpot p true).readLoc r .now p.loc 8 with
    | (.poison c k own, u) => (.error (faultPoison r .atomic a c k own), u)
    | (.bytes b, u) => (.ok (ofLe b), u.performLoc r.who none p.loc (.atomic 0 1 false 1 0))

/-- coll sa (R394): started at issue, SEQ taken then (R226). -/
def State.collIssue (s : State) (a : Src) : Out :=
  let sa := s.srcBits 0 a
  s.withUni [{ opnd := 0, src := a }] []
    (fun s =>
     s.engineTry .coll 1 (collRecords sa)
      (fun t recs =>
        let body := recs.getD 0 []
        ((Check.ofBool (zeroIn body 32 48)).both (t.collCheck t.bundleReq false body (recs.getD 1 []) (recs.getD 2 [])), sa))
      (fun t recs =>
        match t.takeSeq t.bundleReq (CollBody.ofBytes (recs.getD 0 [])).comm with
        | (.ok n, u) => .ok (u.issueOp .coll (.coll { body := recs.getD 0 [], comm := recs.getD 1 [], rtab := recs.getD 2 [], seqNo := n }) none 0 [])
        | (.error f, u) => .error (u.trapRecord f)))

/-- coll (R394), 32-bit form. -/
def execColl (w : R32) (s : State) : Out := s.collIssue (uniA w)
/-- coll (R394), 64-bit form. -/
def execColl64 (w : R64) (s : State) : Out := s.collIssue (regA64 w)

/-- The records of `nmq`: each command's record and, for a RUN, its argument block. -/
def nearRecords (sa : Word) (count : Nat) (recs : List (List Byte)) : NextRec :=
  if recs.length % 2 = 0 then
    (if recs.length / 2 < count then .get (sa + BitVec.ofNat 64 (64 * (recs.length / 2))) 64 64 else .stop)
  else match nearArgs (recs.getLastD []) with
    | some a => if a.toNat % 64 = 0 then .get a 64 64 else .skip
    | none => .skip

/-- The check of one command record of `nmq` (R394, R427). -/
def nmqOk (rec args : List Byte) : Bool :=
  nearOk rec args (fieldLe rec 32 4) (fieldLe rec 36 4) && decide (fieldLe rec 36 4 < 2 ^ 30) && zeroIn rec 40 64

/-- One command of `nmq` entered in the command order, with its operation (R428). -/
def State.nmqOne (s : State) (rec args : List Byte) : State :=
  let id := s.nextId
  let s := { s with nextId := id + 1 }
  let op := s.nextId
  (s.issueOp .nm (.near id) none 0 []).nearEnter
    { id := id, ctx := s.ctxOf s.curGroup.wg, source := .operation op, issuer := s.curParty, seq := s.writeSeq, floors := s.floors.length
      priv := s.curPriv, record := rec.take 32, args := args, first := fieldLe rec 32 4, count := fieldLe rec 36 4, begun := false
      window := 0, rows := [], left := allUnits, failed := false, bad := none }

/-- nmq sa, sc (R394). -/
def State.nmqIssue (s : State) (a c : Src) : Out :=
  let count := if c.isReg then (s.srcBits 0 c).toNat else 1
  let sa := s.srcBits 0 a
  s.withUni ([{ opnd := 0, src := a }] ++ (if c.isReg then [{ opnd := 2, src := c }] else [])) []
    (fun s =>
     if count = 0 ∨ 16 < count then .next (s.trapIllegal 3)
     else s.engineIssue .nm count (nearRecords sa count)
      (fun _ recs => (.ofBool ((List.range count).all (fun i => nmqOk (recs.getD (2 * i) []) (recs.getD (2 * i + 1) []))), sa))
      (fun t recs => (List.range count).foldl (fun u i => u.nmqOne (recs.getD (2 * i) []) (recs.getD (2 * i + 1) [])) t))

/-- nmq (R394), 32-bit form. -/
def execNmq (w : R32) (s : State) : Out := s.nmqIssue (uniA w) .none
/-- nmq (R394), 64-bit form. -/
def execNmq64 (w : R64) (s : State) : Out := s.nmqIssue (regA64 w) (optC w)

/-- The records of a chain: the command, the inputs that are present, OUT (R218). -/
def chainRecords (sa : Word) (recs : List (List Byte)) : NextRec :=
  match recs with
  | [] => .get sa 128 64
  | cmd :: rest =>
    let c := ChainRec.ofBytes cmd
    let all := c.ins.filter (fun a => a != 0) ++ [c.out]
    match all[rest.length]? with
    | some a => .get a 64 64
    | none => .stop

/-- chain sa, sc (R396). -/
def State.chainIssue (s : State) (a c : Src) (d : Nat) : Out :=
  let sa := s.srcBits 0 a
  let out := fun (recs : List (List Byte)) => if recs.length < 2 then [] else recs.getLastD []
  let len := fun recs => if c.isReg then (s.srcBits 0 c).toNat else (Layout.ofBytes (out recs)).whole
  s.withBarD d
    (s.withUni ([{ opnd := 0, src := a }] ++ (if c.isReg then [{ opnd := 2, src := c }] else [])) []
      (fun s =>
       s.engineIssue .cpy 1 (chainRecords sa)
        (fun t recs => (t.chainCheck t.bundleReq false (recs.getD 0 []) (recs.drop 1).dropLast (out recs) (len recs), sa))
        (fun t recs =>
          let o := Layout.ofBytes (out recs)
          t.issueOp .cpy (.chain recs (len recs)) (barOfD d) (copyBytes o o (len recs))
            ((List.range (o.inner * len recs)).map (fun k => ((o.elem (o.coords k)).1.toNat, o.elemBytes))))))

/-- chain (R396), 32-bit form. -/
def execChain (w : R32) (s : State) : Out := s.chainIssue (uniA w) .none w.d.toNat
/-- chain (R396), 64-bit form. -/
def execChain64 (w : R64) (s : State) : Out := s.chainIssue (regA64 w) (optC w) (numD64 w)

/-! ## Region maps (R152, R395) -/

/-- The map that a map record describes (R152). -/
def mapOf (rec : List Byte) : RegionMap :=
  { gva := fieldLe rec 0 8, soff := fieldLe rec 8 4, lines := fieldLe rec 12 4, wb := fieldLe rec 16 1 % 2 == 1
    present := [], dirty := [], filling := [] }

/-- The limits of a map record (R152). -/
def State.mapOk (s : State) (w : Nat) (rec : List Byte) : Bool :=
  let m := mapOf rec
  m.gva % 128 == 0 && decide (m.gva < 2 ^ 57) && m.soff % 128 == 0 && decide (1 ≤ m.lines) && decide (m.lines ≤ 4096)
    && decide (m.soff + 128 * m.lines ≤ (s.launchOf w).scratch) && decide (fieldLe rec 16 1 ≤ 1) && zeroIn rec 17 32
    && decide ((s.wg w).maps.length < 4)
    && (s.wg w).maps.all (fun x => Span.apart (x.soff, 128 * x.lines) (m.soff, 128 * m.lines))

/-- Whether some line of a map's range is empty. -/
def State.mapBusy (s : State) (w : Nat) (m : RegionMap) : Bool :=
  (upFrom (scratchAt w m.soff / 128) m.lines).any (fun l => s.emptyLines.contains l)

/-- cpy.map sa (R395). -/
def State.mapIssue (s : State) (a : Src) : Out :=
  let w := s.curGroup.wg
  s.withUni [{ opnd := 0, src := a }] []
    (fun s =>
     if s.pubPending s.curGroup then .next s
     else match s.readRecords (oneRecord (s.srcBits 0 a) 32 32) [] 2 with
      | .out t => .next t
      | .got recs t =>
        if !t.mapOk w (recs.getD 0 []) then .next (t.trapIllegal 3)
        else if t.mapBusy w (mapOf (recs.getD 0 [])) then .next t
        else .next (t.setWg w { t.wg w with maps := (t.wg w).maps ++ [mapOf (recs.getD 0 [])] }).advance)

/-- A line whose contents a map's installation lost and that no access has filled: its bytes are free values (R152). -/
def State.loseLine (s : State) (w line : Nat) : State :=
  (List.range 16).foldl (fun (t : State) i =>
    let v := t.free
    v.2.renew (scratchAt w (128 * line + 8 * i)) (leBytes 8 v.1.toNat)) s

/-- The lines of a removed map that no access has touched (R152). -/
def State.loseLines (s : State) (w : Nat) (m : RegionMap) : State :=
  ((upFrom (m.soff / 128) m.lines).filter (fun l => !m.present.contains l)).foldl (fun t l => t.loseLine w l) s

/-- cpy.unmap sa (R395): the map whose SOFF is in sa. -/
def State.unmapIssue (s : State) (a : Src) : Out :=
  let w := s.curGroup.wg
  let soff := (s.srcBits 0 a).toNat
  s.withUni [{ opnd := 0, src := a }] []
    (fun s =>
     if s.pubPending s.curGroup then .next s
     else match (s.wg w).maps.find? (fun m => m.soff == soff) with
      | none => .next (s.trapIllegal 3)
      | some m =>
        if 63 < s.curCtr .cpy + 1 ∨ !m.filling.isEmpty then .next s
        else
          let t := (s.raiseCtr .cpy).queueUnmap w s.curGroup.grp s.curLanes.head? m false
          .next (((t.setWg w { t.wg w with maps := (t.wg w).maps.filter (fun x => x.soff != soff) }).loseLines w m).advance))

/-- cpy.map (R395), 32-bit form. -/
def execCpyMap (w : R32) (s : State) : Out := s.mapIssue (uniA w)
/-- cpy.map (R395), 64-bit form. -/
def execCpyMap64 (w : R64) (s : State) : Out := s.mapIssue (regA64 w)
/-- cpy.unmap (R395), 32-bit form. -/
def execCpyUnmap (w : R32) (s : State) : Out := s.unmapIssue (uniA w)
/-- cpy.unmap (R395), 64-bit form. -/
def execCpyUnmap64 (w : R64) (s : State) : Out := s.unmapIssue (regA64 w)

/-! ## Queue descriptors (R57) and qpush (R397) -/

/-- A queue descriptor (R57). -/
structure QDesc where
  ring : Word
  widx : Word
  ridx : Word
  crec : Word
  log2n : Nat
  state : Nat
  maxclass : Nat
  vec : Nat
  qeng : Nat
  deriving DecidableEq, Repr

def QDesc.ofBytes (bs : List Byte) : QDesc :=
  { ring := BitVec.ofNat 64 (fieldLe bs 0 8), widx := BitVec.ofNat 64 (fieldLe bs 8 8), ridx := BitVec.ofNat 64 (fieldLe bs 16 8)
    crec := BitVec.ofNat 64 (fieldLe bs 24 8), log2n := fieldLe bs 32 1, state := fieldLe bs 33 1, maxclass := fieldLe bs 34 1
    vec := fieldLe bs 35 1, qeng := fieldLe bs 36 1 }

/-- The limits of R57 on a descriptor. -/
def State.descOk (s : State) (ctx : Nat) (bs : List Byte) : Bool :=
  let d := QDesc.ofBytes bs
  decide (6 ≤ d.log2n) && decide (d.log2n ≤ 16) && d.ring.toNat % (64 * 2 ^ d.log2n) == 0 && d.widx.toNat % 8 == 0
    && d.ridx.toNat % 8 == 0 && decide (d.widx.toNat / 128 ≠ d.ridx.toNat / 128) && d.crec.toNat % 32 == 0
    && decide (d.state ≤ 2) && decide (d.maxclass ≤ 3) && decide (d.vec ≤ 63) && decide (d.qeng ≤ 3) && zeroIn bs 37 64
    && s.onDevice ctx d.ring && s.onDevice ctx d.widx && s.onDevice ctx d.ridx && (d.crec == 0 || s.onDevice ctx d.crec)

/-- The address of a queue's descriptor (R57). -/
def State.descAddr (s : State) (ctx q : Nat) : Word :=
  match FMap.find s.ctxs ctx with
  | some c => c.qtab + BitVec.ofNat 64 (64 * q)
  | none => 0

/-- Queues of a context. -/
def State.queueCount (s : State) (ctx : Nat) : Nat := match FMap.find s.ctxs ctx with | some c => c.qcount | none => 0

/-- The append that lanes of this bundle wait for since its claim, if there is one (R397). -/
def State.pushOf (s : State) : Option AsyncOp :=
  s.ops.find? (fun o => o.kind.isPush && o.wg == s.curGroup.wg && o.grp == some s.curGroup.grp && o.tx == s.curPc.toNat
    && s.curLanes.any (fun l => o.lines.contains l))

/-- The claim of R60 step 1 at `sys` scope. -/
def State.claimIndex (s : State) (a : Word) : Except AccFault Nat × State :=
  let r := s.bundleReq
  match s.resolve r spGeneric a 8 .atomic with
  | (.error f, t) => (.error f, t)
  | (.ok p, t) =>
    match (t.touchSpot p true).readLoc r .now p.loc 8 with
    | (.poison c k own, u) => (.error (faultPoison r .atomic a c k own), u)
    | (.bytes b, u) => (.ok (ofLe b), u.performLoc r.who none p.loc (.atomic 0 1 false 1 0))

/-- The append after its claim: an operation that no counter counts, which the bundle waits for (R397). -/
def State.pushOp (s : State) (q index : Nat) (packet : List Byte) : State :=
  let w := s.curGroup.wg
  { s with
    ops := s.ops ++ [{ id := s.nextId, wg := w, grp := some s.curGroup.grp, lane := s.curLanes.head?, ctx := s.ctxOf w
                       die := dieOfCore (s.coreOf w), priv := s.curPriv, seq := s.writeSeq, floors := s.floors.length, unseen := []
                       replayed := [], order := s.nextId, cls := .cpy, kind := .qpush q index packet (s.curPc + BitVec.ofNat 64 s.curLen), bar := none
                       tx := s.curPc.toNat, lines := s.curLanes, done := false
                       held := false, orphan := false }]
    nextId := s.nextId + 1 }

/-- qpush sd, sa, sb (R397): the checks, the pub, the claim; then the bundle waits for the slot's write. -/
def State.qpushStep (s : State) (d a b : Src) : Out :=
  let ctx := s.ctxOf s.curGroup.wg
  match s.pushOf with
  | some o =>
    if o.done then
      let t := { s.noteIssue with ops := s.ops.filter (fun x => x.id != o.id) }
      .next (t.jump (s.curLanes.filter (fun l => o.lines.contains l)) (fun _ => o.kind.after))
    else .next s
  | none =>
    s.withUni [{ opnd := 0, src := a }, { opnd := 1, src := b }] [d]
      (fun s =>
       let q := (s.srcBits 0 a).toNat
       let img := s.srcBits 0 b
       if s.pubPending s.curGroup then .next s
       else if s.queueCount ctx ≤ q then .next (s.trapIllegal 3)
       else match s.readRecords (twoRecords img (s.descAddr ctx q) 64 64) [] 3 with
        | .out t => .next t
        | .got recs t =>
          let image := recs.getD 0 []
          let desc := QDesc.ofBytes (recs.getD 1 [])
          if fieldLe image 0 1 = 0 ∨ !t.descOk ctx (recs.getD 1 []) then .next (t.trapIllegal 3)
          else if !t.pubReady t.curGroup then .next t
          else match (t.doPub t.curGroup .sys .pub).claimIndex desc.widx with
            | (.error f, u) => .next (u.trapRecord f)
            | (.ok n, u) =>
              let u := u.pushOp q n image
              match u.srcKey 0 d with
              | some k => .next (u.putReg k 1 (BitVec.ofNat 64 n))
              | none => .next u)

/-- D of a 64-bit form as a register. -/
def regD64 (w : R64) : Src := (form64 w false).dstSrc

/-- qpush (R397), 32-bit form. -/
def execQpush (w : R32) (s : State) : Out := s.qpushStep (.uni w.d.toNat false) (uniA w) (uniB w)
/-- qpush (R397), 64-bit form. -/
def execQpush64 (w : R64) (s : State) : Out := s.qpushStep (regD64 w) (regA64 w) (regB64 w)

/-! ## Semaphores (R76, R183, R398) -/

/-- The module semaphore that an index of a context names, if it is below SEM_COUNT (R76). -/
def State.semIndex (s : State) (ctx i : Nat) : Option Nat :=
  match FMap.find s.ctxs ctx with
  | some c => if i < c.semCount then some (c.semBase + i) else none
  | none => none

/-- The value operand of a semaphore instruction: a register, or imm16 zero-extended (R398). -/
def State.semValue (s : State) (b : Src) : Word := match b with | .imm v => v | x => s.srcBits 0 x

/-- A semaphore instruction on index sa (R398). -/
def State.semStep (s : State) (a : Src) (b : List Opnd) (dsts : List Src) (go : State → Nat → Out) : Out :=
  s.withUni ({ opnd := 0, src := a } :: b.filter (fun o => o.src.isReg)) dsts
    (fun s =>
     match s.semIndex (s.ctxOf s.curGroup.wg) (s.srcBits 0 a).toNat with
     | none => .next (s.trapIllegal 3)
     | some i => go s i)

/-- sem.signal: adds, with `.rel` at `sys` scope (R183, R398). -/
def State.semSignalStep (s : State) (a b : Src) : Out :=
  s.semStep a [{ opnd := 1, src := b }] [] (fun s i =>
    if s.relWaits true then .next s
    else
      let t := s.relPub true .sys
      .next (t.setSem i (t.sem i + s.semValue b)).advance)

/-- sem.await: waits until the value is at least the threshold, then `.acq` at `sys` scope (R183, R398). -/
def State.semAwaitStep (s : State) (a b : Src) : Out :=
  s.semStep a [{ opnd := 1, src := b }] [] (fun s i =>
    if s.pubPending s.curGroup then .next s
    else if (s.semValue b).toNat ≤ (s.sem i).toNat then .next (s.acqPull true .sys).advance
    else .next (s.waitAt (.semaphore i (s.semValue b))))

/-- sem.read: the value at one instant, with no ordering (R398). -/
def State.semReadStep (s : State) (d a : Src) : Out :=
  s.semStep a [] [d] (fun s i =>
    if s.pubPending s.curGroup then .next s
    else match s.srcKey 0 d with
      | some k => .next (s.putReg k 1 (s.sem i)).advance
      | none => .next s.advance)

/-- sem.signal (R398), 32-bit form. -/
def execSemSignal (w : R32) (s : State) : Out := s.semSignalStep (uniA w) (uniB w)
/-- sem.signal (R398), 64-bit form. -/
def execSemSignal64 (w : R64) (s : State) : Out := s.semSignalStep (regA64 w) (regB64 w)
/-- sem.await (R398), 32-bit form. -/
def execSemAwait (w : R32) (s : State) : Out := s.semAwaitStep (uniA w) (uniB w)
/-- sem.await (R398), 64-bit form. -/
def execSemAwait64 (w : R64) (s : State) : Out := s.semAwaitStep (regA64 w) (regB64 w)
/-- sem.read (R398), 32-bit form. -/
def execSemRead (w : R32) (s : State) : Out := s.semReadStep (.uni w.d.toNat false) (uniA w)
/-- sem.read (R398), 64-bit form. -/
def execSemRead64 (w : R64) (s : State) : Out := s.semReadStep (regD64 w) (regA64 w)

end Sys2Proof.Machine
end

