-- ==== Sys2Proof/Machine/Streams.lean ====
section
/-! DEFINITION. Stream registers (R144, R145, R399, R400): `wopen`, `wadv`, `wend`, `wclose`, `wld`, `wld.lane`. -/

namespace Sys2Proof.Machine

open Sys2Proof

/-! ## Reads of several lanes -/

/-- Where the bytes of one lane's read lie. -/
structure LaneRead where
  lane : Nat
  addr : Word
  len : Nat
  deriving DecidableEq, Repr

/-- What stands before the reads of several lanes: whether one waits, and the state with fills and requests started. -/
def State.prepReads (s : State) (xs : List LaneRead) : Bool × State :=
  xs.foldl (fun (acc : Bool × State) x =>
    (pieces x.addr.toNat x.len).foldl (fun (b : Bool × State) p =>
      match b.2.prepRead (b.2.laneReq x.lane) spGeneric (x.addr + BitVec.ofNat 64 p.1) p.2 none with
      | (.wait, t) => (true, t)
      | (_, t) => (b.1, t)) acc) (false, s)

/-- Several lanes read one after another. -/
def State.takeReads (s : State) (v : View) (xs : List LaneRead) : List (LaneRead × ReadOut) × State :=
  match xs with
  | [] => ([], s)
  | x :: t =>
    let one := s.readPieces (s.laneReq x.lane) v spGeneric x.addr (pieces x.addr.toNat x.len)
    let rest := one.2.takeReads v t
    ((x, one.1) :: rest.1, rest.2)

/-- Whether a group has side-log entries for a page that one of the reads names (R188). -/
def State.readsHeld (s : State) (xs : List LaneRead) : Bool := xs.any (fun x => s.recordHeld x.addr x.len)

/-- The reads of several lanes: none while one of them waits. -/
def State.laneReads (s : State) (v : View) (xs : List LaneRead) : Option (List (LaneRead × ReadOut)) × State :=
  if s.phasePending s.curGroup || s.readsHeld xs then (none, s)
  else
    let w := s.prepReads xs
    if w.1 then (none, w.2)
    else let r := w.2.takeReads v xs; (some r.1, r.2)

/-! ## Stream registers -/

def Stream.closed : Stream :=
  { isOpen := false, base := 0, stride := 0, len := 0, size := 1, tag := 0, index := none, indexBytes := 0, head := 0
    openSeq := 0, openFloors := 0, fifo := [] }

/-- A stream register of the issuing group. -/
def State.stream (s : State) (n : Nat) : Stream := FMap.getD (s.group s.curGroup).streams n Stream.closed

def State.setStream (s : State) (n : Nat) (x : Stream) : State :=
  s.setGroup s.curGroup { s.group s.curGroup with streams := FMap.set (s.group s.curGroup).streams n x }

/-- An open stream named by a field: its high bits are zero and it is open, or ILLEGAL (R400). -/
def State.withStream (s : State) (n : Nat) (go : Stream → Out) : Out :=
  if 8 ≤ n ∨ !(s.stream n).isOpen then .next (s.trapIllegal 3) else go (s.stream n)

/-! ## wopen (R399, R400) -/

/-- The fields of a descriptor. -/
def descKind (d : List Byte) : Nat := fieldLe d 25 1
def descIxa (d : List Byte) : Word := BitVec.ofNat 64 (fieldLe d 8 8)
def descRow (d : List Byte) : Nat := fieldLe d 28 4

/-- The limits of R399 on a descriptor by itself. -/
def descFieldsOk (d : List Byte) : Bool :=
  decide (fieldLe d 24 1 ≤ 5) && decide (descKind d ≤ 3) && decide (fieldLe d 26 1 ≤ 14) && zeroIn d 27 28
    && (descKind d != 0 || descIxa d == 0) && (descKind d != 3 || fieldLe d 16 4 == 0)

/-- Bytes of a pointer and of an index of a sparse header (R223). -/
def headerPtr (h : List Byte) : Nat := if fieldLe h 0 4 / 2 % 2 = 1 then 8 else 4
def headerIdx (h : List Byte) : Nat := if fieldLe h 0 4 / 4 % 2 = 1 then 4 else 2

/-- The address of pointer `r` of a header. -/
def headerPtrAt (ixa : Word) (h : List Byte) (r : Nat) : Word := ixa + BitVec.ofNat 64 (32 + headerPtr h * r)

/-- The records that `wopen` reads: the descriptor, and for KIND 3 the header and two of its pointers. -/
def streamRecords (a : Word) (recs : List (List Byte)) : NextRec :=
  match recs with
  | [] => .get a 32 32
  | [d] => if descFieldsOk d && descKind d == 3 then .get (descIxa d) 32 8 else .stop
  | [d, h] => if fieldLe h 4 4 ≤ descRow d then .stop else .get (headerPtrAt (descIxa d) h (descRow d)) (headerPtr h) 1
  | [d, h, _] => .get (headerPtrAt (descIxa d) h (descRow d + 1)) (headerPtr h) 1
  | _ => .stop

/-- The stream that the records describe, or none where they break a rule. -/
def streamOf (recs : List (List Byte)) (seq floors : Nat) : Option Stream :=
  match recs with
  | [] => none
  | d :: rest =>
    let x : Stream :=
      { isOpen := true, base := BitVec.ofNat 64 (fieldLe d 0 8), stride := sext 32 (fieldLe d 20 4), len := fieldLe d 16 4
        size := 2 ^ fieldLe d 24 1, tag := BitVec.ofNat 4 (fieldLe d 26 1), index := none, indexBytes := 0, head := 0
        openSeq := seq, openFloors := floors, fifo := [] }
    if !descFieldsOk d then none
    else match descKind d, rest with
      | 0, _ => some x
      | 1, _ => some { x with index := some (descIxa d), indexBytes := 4 }
      | 2, _ => some { x with index := some (descIxa d), indexBytes := 8 }
      | _, [h, p, q] =>
        if ofLe q < ofLe p ∨ fieldLe h 8 8 < ofLe q then none
        else some { x with
          len := ofLe q - ofLe p
          index := some (BitVec.ofNat 64 (fieldLe h 16 8) + BitVec.ofNat 64 (headerIdx h * ofLe p))
          indexBytes := headerIdx h }
      | _, _ => none

/-- wopen wd, sa (R400). -/
def State.wopenStep (s : State) (d : Nat) (a : Src) : Out :=
  if 8 ≤ d then .next (s.trapIllegal 3)
  else s.withUni [{ opnd := 0, src := a }] []
    (fun s =>
     match s.readRecords (streamRecords (s.srcBits 0 a)) [] 4 with
     | .out t => .next t
     | .got recs t =>
       match streamOf recs t.writeSeq t.floors.length with
       | some x => .next (t.setStream d x).advance
       | none => .next (t.trapIllegal 3))

/-- Field D, and field A, of a 64-bit SHAPE 0b00 or 0b01 form. -/
def d64 (w : R64) : Nat :=
  match w.sh with
  | .rrr _ _ _ _ _ _ _ d => d.toNat
  | .imm16 _ _ _ _ _ d => d.toNat
  | .imm32 _ d => d.toNat
def a64 (w : R64) : Nat :=
  match w.sh with
  | .rrr _ _ _ _ _ _ a _ => a.toNat
  | .imm16 _ _ _ _ a _ => a.toNat
  | .imm32 _ _ => 0

/-- wopen (R400), 32-bit form. -/
def execWopen (w : R32) (s : State) : Out := s.wopenStep w.d.toNat (uniA w)
/-- wopen (R400), 64-bit form. -/
def execWopen64 (w : R64) (s : State) : Out := s.wopenStep (d64 w) (form64 w false).a

/-! ## wadv, wend, wclose (R400) -/

/-- A stream with its head moved on; elements behind the head leave the FIFO (R144). -/
def Stream.move (x : Stream) (n : Nat) : Stream :=
  let head := min (x.head + n) (2 ^ 32 - 1)
  { x with head := head, fifo := x.fifo.filter (fun e => decide (head ≤ e.1)) }

/-- wadv wa, #n (R400). -/
def State.wadvStep (s : State) (a n : Nat) : Out := s.withStream a (fun x => .next (s.setStream a (x.move n)).advance)

/-- wadv (R400), 32-bit form: n in B. -/
def execWadv (w : R32) (s : State) : Out := s.wadvStep w.a.toNat w.b.toNat
/-- wadv (R400), 64-bit form: n in imm16. -/
def execWadv64 (w : R64) (s : State) : Out := s.wadvStep (a64 w) (immCode w)

/-- wend kd, wa (R400), in the helper lanes too (R123). -/
def State.wendStep (s : State) (f : Form) (d a : Nat) : Out :=
  s.withStream a (fun x =>
    .next ((s.active f ++ s.activeHelpers f).foldl (fun t l => t.putPred false l d (decide (x.len ≤ x.head))) s).advance)

/-- wend (R400), 32-bit form. -/
def execWend (w : R32) (s : State) : Out := s.wendStep formNone w.d.toNat w.a.toNat
/-- wend (R400), 64-bit form. -/
def execWend64 (w : R64) (s : State) : Out := s.wendStep (form64 w false) (d64 w) (a64 w)

/-- wclose wa (R400): a closed register stays closed. -/
def State.wcloseStep (s : State) (a : Nat) : Out :=
  if 8 ≤ a then .next (s.trapIllegal 3) else .next (s.setStream a Stream.closed).advance

/-- wclose (R400), 32-bit form. -/
def execWclose (w : R32) (s : State) : Out := s.wcloseStep w.a.toNat
/-- wclose (R400), 64-bit form. -/
def execWclose64 (w : R64) (s : State) : Out := s.wcloseStep (a64 w)

/-! ## wld (R145, R400) -/

/-- The element position that a lane reads: the head, or head + L. -/
def streamPos (x : Stream) (perLane : Bool) (l : Nat) : Nat := x.head + (if perLane then l else 0)

/-- The view of an open stream (R144). -/
def State.streamView (s : State) (x : Stream) : View := .stream s.curParty x.openSeq x.openFloors [] []

/-- The element at a position, if the FIFO holds it. -/
def Stream.held (x : Stream) (pos : Nat) : Option (List Byte) := (x.fifo.find? (fun e => e.1 == pos)).map (·.2)

/-- The lanes that read an element: one for a broadcast, each for a per-lane read, where the position is below the length. -/
def streamReaders (x : Stream) (perLane : Bool) (lanes : List Nat) : List Nat :=
  (if perLane then lanes else lanes.take 1).filter (fun l => decide (streamPos x perLane l < x.len))

/-- The lanes that fetch from memory: the FIFO does not hold their element. -/
def streamFetchers (x : Stream) (perLane : Bool) (lanes : List Nat) : List Nat :=
  (streamReaders x perLane lanes).filter (fun l => (x.held (streamPos x perLane l)).isNone)

/-- What the FIFO gives the other lanes. -/
def streamHeld (x : Stream) (perLane : Bool) (lanes : List Nat) : List (LaneRead × ReadOut) :=
  (streamReaders x perLane lanes).filterMap (fun l =>
    (x.held (streamPos x perLane l)).map (fun b => (({ lane := l, addr := 0, len := x.size } : LaneRead), ReadOut.bytes b)))

/-- The stream with the elements just fetched in its FIFO, which holds 8 from the head on (R144). -/
def Stream.keep (x : Stream) (perLane : Bool) (got : List (LaneRead × ReadOut)) : Stream :=
  { x with fifo := x.fifo ++ got.filterMap (fun g =>
      match g.2 with
      | .bytes b => if streamPos x perLane g.1.lane < x.head + 8 then some (streamPos x perLane g.1.lane, b) else none
      | _ => none) }

/-- The index reads of an indirect pattern. -/
def streamIndexReads (x : Stream) (perLane : Bool) (lanes : List Nat) : List LaneRead :=
  match x.index with
  | none => []
  | some ix => (streamFetchers x perLane lanes).map (fun l =>
      { lane := l, addr := ix + BitVec.ofNat 64 (x.indexBytes * streamPos x perLane l), len := x.indexBytes })

/-- The element addresses of the fetching lanes, given what the index reads brought. -/
def streamElems (x : Stream) (perLane : Bool) (lanes : List Nat) (ix : List (LaneRead × ReadOut)) : List LaneRead :=
  match x.index with
  | none => (streamFetchers x perLane lanes).map (fun l =>
      { lane := l, addr := x.base + BitVec.ofNat 64 (streamPos x perLane l) * x.stride, len := x.size })
  | some _ => ix.filterMap (fun r => match r.2 with
      | .bytes b => some { lane := r.1.lane, addr := x.base + BitVec.ofNat 64 (ofLe b) * x.stride, len := x.size }
      | _ => none)

/-- Whether an element address is aligned to min(size, 8) (R400). -/
def streamAligned (x : Stream) (a : Word) : Bool := a.toNat % min x.size 8 == 0

/-- What one lane's stream read does: its registers, zeros past the length, or its trap; a broadcast takes the fetch of
the lane that made it, and a helper lane reads zeros where it would fault (R123). -/
def State.landStream (s : State) (x : Stream) (perLane : Bool) (d : Nat) (others : List Nat)
    (faults : List (Nat × AccFault)) (got : List (LaneRead × ReadOut)) (first : Nat) (l : Nat) : State :=
  let src := if perLane then l else first
  let data := (upFrom d (ceilDiv x.size 8)).map (fun n => Src.lane n false)
  let deliver := fun (t : State) (bs : List Byte) =>
    t.deliverValues l x.tag data ((List.range data.length).map (fun i => (wordOf ((bs.drop (8 * i)).take 8), false)))
  match faults.find? (fun f => f.1 == src) with
  | some f =>
    if others.contains l then deliver s []
    else s.trapThread (s.curThread l) f.2.cause s.curPc f.2.addr f.2.info
  | none =>
    match got.find? (fun g => g.1.lane == src) with
    | some (_, .bytes bs) => deliver s bs
    | _ => deliver s []

/-- The faults that reads met, by lane. -/
def readFaults (xs : List (LaneRead × ReadOut)) : List (Nat × AccFault) :=
  xs.filterMap (fun r => match r.2 with | .fault f => some (r.1.lane, f) | _ => none)

/-- wld and wld.lane (R400). -/
def State.wldStep (s : State) (f : Form) (perLane : Bool) (d a : Nat) : Out :=
  s.withStream a (fun x =>
    let n := ceilDiv x.size 8
    let lanes := s.active f
    let others := s.activeHelpers f
    let all := lanes ++ others
    if 64 < d + n then .next (s.trapIllegal 3)
    else if lanes.isEmpty then .next s.advance
    else
      match s.checkFull lanes others [] ((upFrom d n).map (fun k => .lane k false)) with
      | .trapped u => .next u
      | .blocked => .next s
      | .ok s =>
        match s.laneReads (s.streamView x) (streamIndexReads x perLane all) with
        | (none, t) => .next t
        | (some ix, t) =>
          let elems := streamElems x perLane all ix
          let good := elems.filter (fun e => streamAligned x e.addr)
          match t.laneReads (s.streamView x) good with
          | (none, u) => .next u
          | (some got, u) =>
            let faults := readFaults ix
              ++ (elems.filter (fun e => !streamAligned x e.addr)).map (fun e => (e.lane, faultAlign (s.laneReq e.lane) .read e.addr))
              ++ readFaults got
            let from' := got ++ streamHeld x perLane all
            .next (all.foldl (fun v l => v.landStream x perLane d others faults from' (all.headD 0) l)
              (u.setStream a (x.keep perLane got)).advance))

/-- wld (R400), 32-bit form. -/
def execWld (w : R32) (s : State) : Out := s.wldStep formNone false w.d.toNat w.a.toNat
/-- wld (R400), 64-bit form. -/
def execWld64 (w : R64) (s : State) : Out := s.wldStep (form64 w false) false (d64 w) (a64 w)
/-- wld.lane (R400), 32-bit form. -/
def execWldLane (w : R32) (s : State) : Out := s.wldStep formNone true w.d.toNat w.a.toNat
/-- wld.lane (R400), 64-bit form. -/
def execWldLane64 (w : R64) (s : State) : Out := s.wldStep (form64 w false) true (d64 w) (a64 w)

end Sys2Proof.Machine
end

