-- ==== Sys2Proof/Machine/Gauntlet.lean ====
section
/-! DEFINITION. The Gauntlet matrix engine (R231 to R250, R401 to R409): acceptance of a Helm's instructions, operand
capture, the product, tokens, and the tiles. -/

namespace Sys2Proof.Machine

open Sys2Proof

/-! ## Tiles (R402, R403, R250) -/

def Core.tileIsFull (c : Core) (t : Nat) : Bool := bitAt c.tileFull t
def Core.tileIsLive (c : Core) (t : Nat) : Bool := bitAt c.accLive t
/-- Whether a tile is tagged I32. -/
def Core.tileIsInt (c : Core) (t : Nat) : Bool := bitAt c.tileTag t
def Core.tileIsBad (c : Core) (t : Nat) : Bool := bitAt c.tilePoison t

/-- The stored bits of a tile: 1,024 elements, row by row. -/
def State.tileStored (s : State) (c t : Nat) : List Nat := (List.range 1024).map (fun i => s.numAt (tileAt c t + 4 * i) 4)

/-- The elements that an instruction reads from a tile: zeros while it is not live (R403). -/
def State.tileRead (s : State) (c t : Nat) : List Nat :=
  if (s.core c).tileIsLive t then s.tileStored c t else List.replicate 1024 0

/-- New stored bits of a tile, and its poison. -/
def State.setTile (s : State) (c t : Nat) (els : List Nat) (bad : Bool) : State :=
  let s := s.writeOwn (tileAt c t) (els.flatMap (fun e => leBytes 4 e))
  s.setCore c { s.core c with tilePoison := putBit (s.core c).tilePoison t bad }

/-! ## Input codes (R310, R404) -/

/-- Bits of an element of an input code. -/
def codeBits (code : Nat) : Nat :=
  match code with
  | 0 => 16
  | 1 => 16
  | 6 => 4
  | 11 => 4
  | 12 => 4
  | 14 => 4
  | _ => 8

/-- Whether an input code accumulates in I32. -/
def codeIsInt (code : Nat) : Bool := decide (9 ≤ code) && decide (code ≤ 12)

/-- Whether an input code is block-scaled. -/
def codeIsBx (code : Nat) : Bool := code == 13 || code == 14

/-- The float formats of A and B, of a code that is neither integer nor TS8. -/
def codeFmts (code : Nat) : Fmt × Fmt :=
  match code with
  | 0 => (bf16, bf16)
  | 1 => (f16, f16)
  | 3 => (e5m2, e5m2)
  | 4 => (e4m3, e5m2)
  | 5 => (e5m2, e4m3)
  | 6 => (e2m1, e2m1)
  | 14 => (e2m1, e2m1)
  | _ => (e4m3, e4m3)

/-- The value of an element, a NaN as the canonical quiet one: the Gauntlet propagates no payload and a NaN input sets no
flag (R258, R405). -/
def quietVal (v : FVal) : FVal := if v.isNaN then .canon else v

/-- A value scaled by its block's E8 scale (R255). -/
def scaledVal (v : FVal) (scale : Byte) : FVal := if scale = 0xFF then .canon else v.scale ((scale.toNat : Int) - 127)

/-- The product of two elements with the scales of their blocks, for a floating-point code (R405). -/
def codeProduct (code cls : Nat) (sa sb : Byte) (x y : Nat) : FVal × Word :=
  let f := codeFmts code
  if code = 7 ∨ code = 8 then
    let v := ts8Val x
    let r := classProduct v.1 (quietVal ((if code = 7 then e4m3 else e5m2).decode y)) 0 16
    (quietVal r.1, v.2 ||| r.2)
  else if codeIsBx code then
    if sa = 0xFF ∨ sb = 0xFF then (.canon, 0)
    else
      let r := classProduct (quietVal (f.1.decode x)) (quietVal (f.2.decode y)) cls (max f.1.p f.2.p)
      (r.1.scale ((sa.toNat : Int) + sb.toNat - 254), r.2)
  else classProduct (quietVal (f.1.decode x)) (quietVal (f.2.decode y)) cls (max f.1.p f.2.p)

/-- The integer an element of an integer code stands for. -/
def codeInt (code x : Nat) : Int := if code = 9 ∨ code = 11 then toSigned (codeBits code) x else (x : Int)

/-- One element of the product, with its flags (R405). -/
def matElement (code cls : Nat) (old : Nat) (ps : List (Byte × Byte × Nat × Nat)) : Nat × Word :=
  if codeIsInt code then
    (ofInt 32 (old + (ps.map (fun (p : Byte × Byte × Nat × Nat) =>
      intClassProduct (codeInt code p.2.2.1) (codeInt code p.2.2.2) cls (codeBits code))).foldl (· + ·) 0), 0)
  else
    let r := dotChain f32 (f32.canonise old) (ps.map (fun (p : Byte × Byte × Nat × Nat) => codeProduct code cls p.1 p.2.1 p.2.2.1 p.2.2.2))
    (f32.canonise r.1, r.2)

/-! ## Captured operands (R240, R404) -/

/-- The captured byte at a scratchpad offset. -/
def Latch.byteAt (l : Latch) (off : Nat) : Nat :=
  match l.caps.find? (fun w => w.off == off / 8 * 8) with
  | some w => ((w.val.getD 0).toNat) / 2 ^ (8 * (off % 8)) % 256
  | none => 0

/-- A captured element of `bits` bits: the n-th from an offset; with 4 bits an even n has the low half (R404). -/
def Latch.elemAt (l : Latch) (bits base n : Nat) : Nat :=
  if bits = 4 then l.byteAt (base + n / 2) / 16 ^ (n % 2) % 16
  else (List.range (bits / 8)).foldr (fun i acc => l.byteAt (base + n * (bits / 8) + i) + 256 * acc) 0

/-- The byte distance of `n` elements. -/
def elemDist (bits n : Nat) : Nat := n * bits / 8

/-- The scale of the block at an offset. -/
def Latch.scaleAt (l : Latch) (off : Nat) : Byte := FMap.getD l.scales off 127

/-- A(i, k) with its scale; a row of zeros has no bytes (R404, R406). -/
def Latch.elemA (l : Latch) (i k : Nat) : Nat × Byte :=
  match l.rows.getD i none with
  | none => (0, 127)
  | some r => (l.elemAt (codeBits l.op.code) r k, if codeIsBx l.op.code then l.scaleAt (r + elemDist (codeBits l.op.code) (k / 32 * 32)) else 127)

/-- B(k, j) with its scale (R404). -/
def Latch.elemB (l : Latch) (k j : Nat) : Nat × Byte :=
  let b := codeBits l.op.code
  let n := if l.op.x then 32 * k + j else l.op.depth * j + k
  (l.elemAt b l.baseB n, if codeIsBx l.op.code then l.scaleAt (l.baseB + elemDist b (l.op.depth * j + k / 32 * 32)) else 127)

/-- The whole product onto the tile's elements before, and the flags (R405). -/
def Latch.product (l : Latch) (old : List Nat) : List Nat × Word :=
  let els := (List.range 1024).map (fun n =>
    matElement l.op.code l.op.so (old.getD n 0) ((List.range l.op.depth).map (fun k =>
      ((l.elemA (n / 32) k).2, (l.elemB k (n % 32)).2, (l.elemA (n / 32) k).1, (l.elemB k (n % 32)).1))))
  (els.map (·.1), els.foldl (fun f e => f ||| e.2) 0)

/-- The aligned words that byte ranges of the scratchpad take. -/
def capWords (xs : List (Nat × Nat)) : List CapWord :=
  ((xs.flatMap (fun x => if x.2 = 0 then [] else upFrom (x.1 / 8) ((x.1 + x.2 - 1) / 8 + 1 - x.1 / 8))).eraseDups).map
    (fun w => { off := 8 * w, val := none, bad := false })

/-- The view under which a latch set's operands are read: its Helm's floor at acceptance (R240). -/
def Latch.view (l : Latch) : View := .stream (.helm l.wg) l.seq l.floors [] []

/-- One word captured if its line allows it (R150, R240). -/
def State.captureWord (s : State) (r : Req) (v : View) (wg : Nat) (w : CapWord) : CapWord × State :=
  match w.val with
  | some _ => (w, s)
  | none =>
    match s.prepLine r (scratchAt wg w.off) with
    | (.ready, t) =>
      (match t.readFlat r v (scratchAt wg w.off) 8 with
       | (.bytes b, u) => ({ w with val := some (wordOf b) }, u)
       | (.poison _ _ _, u) => ({ w with val := some 0, bad := true }, u))
    | (_, t) => (w, t)

/-- Words captured as far as their lines allow. -/
def State.captureWords (s : State) (r : Req) (v : View) (wg : Nat) (ws : List CapWord) : List CapWord × State :=
  match ws with
  | [] => ([], s)
  | w :: t =>
    let a := s.captureWord r v wg w
    let b := a.2.captureWords r v wg t
    (a.1 :: b.1, b.2)

/-- The Helm of a workgroup as a requester. -/
def State.helmReq (s : State) (w : Nat) : Req :=
  { who := .helm w, ctx := s.ctxOf w, wg := some w, grp := 0, lane := none, helm := true, priv := false }

/-- The captures of a latch set as far as they go; they are complete once its rows and scales are known. -/
def State.captureLatch (s : State) (l : Latch) : Latch × State :=
  if l.capDone then (l, s)
  else
    let r := s.captureWords (s.helmReq l.wg) l.view l.wg l.caps
    ({ l with caps := r.1, capDone := l.planned && r.1.all (fun w => w.val.isSome), bad := l.bad || r.1.any (fun w => w.bad) }, r.2)

/-- The captures of all latch sets of a list. -/
def State.captureLatches (s : State) (ls : List Latch) : List Latch × State :=
  match ls with
  | [] => ([], s)
  | l :: t =>
    let a := s.captureLatch l
    let b := a.2.captureLatches t
    (a.1 :: b.1, b.2)

/-! ## What stands before acceptance, and what may come after it (R240, R401, R404 to R409) -/

/-- What a part of an instruction's operands comes to: it is known, it waits for a line or for another module, or it is a trap. -/
inductive Taking (α : Type) where
  | got (a : α) (s : State)
  | later (s : State)
  | fault (f : AccFault) (s : State)

/-- What an instruction's operands come to: a latch set to enter, or a stop with its trap or its wait. -/
inductive MatPlan where
  | enter (l : Latch) (s : State)
  | stop (s : State)

/-- The value of an h register. -/
def State.hVal (s : State) (x : Option (Nat × Bool)) : Word :=
  match x with
  | some (n, _) => s.srcBits 0 (.uni n false)
  | none => 0

/-- The core-scratchpad address of an offset. -/
def coreAddr (off : Nat) : Word := genericAddr spCore (BitVec.ofNat 64 off)

/-- A trap of the issuing Helm at an address (R280). -/
def State.helmFault (s : State) (cause : BitVec 8) (addr : Word) (kind : Nat) : State :=
  s.trapHelm s.curGroup.wg cause addr (infoAddr true kind 0)

/-- A latch set for an instruction, nothing captured. -/
def State.emptyLatch (s : State) (op : MatOp) : Latch :=
  let w := s.curGroup.wg
  let c := s.core (s.coreOf w)
  { wg := w, op := op, pc := s.curPc, executing := false, caps := [], rows := [], baseB := 0, scales := []
    addr := 0, stride := 0, bad := false, capDone := true, wasTag := c.tileIsInt op.tile, wasLive := c.tileIsLive op.tile
    asyncId := none, seq := s.writeSeq, floors := s.floors.length, baseA := 0, index := 0, planned := true
    scaleBase := (s.helm w).scaleBase, scaleOrg := (s.helm w).scaleOrg, scaleShift := (s.helm w).scaleShift, waited := 0 }

/-- The bytes of a workgroup's core-scratchpad allocation (R147). -/
def State.scratchOf (s : State) (w : Nat) : Nat := (s.launchOf w).scratch

/-- Those of the issuing workgroup. -/
def State.curScratch (s : State) : Nat := s.scratchOf s.curGroup.wg

/-- The first offset outside the allocation that byte ranges take. -/
def firstOutside (size : Nat) (xs : List (Nat × Nat)) : Option Nat :=
  leastNat ((xs.filter (fun x => x.2 != 0 && decide (size < x.1 + x.2))).map (fun x => max x.1 size))

/-- NONCANON of a Helm at a scratchpad offset. -/
def outsideFault (off : Nat) : AccFault := ⟨0x06, coreAddr off, infoAddr true 0 0⟩
/-- ALIGN of a Helm at a scratchpad offset. -/
def alignFault (off : Nat) : AccFault := ⟨0x05, coreAddr off, infoAddr true 0 0⟩
/-- ILLEGAL with REASON 3 of a Helm at a latched instruction. -/
def Latch.illegal (l : Latch) : AccFault := ⟨0x01, l.pc, infoIllegal l.op.len false 3 true⟩

/-! ### Indices of `mgat` (R406) -/

/-- A read for a latch set in the scratchpad: it waits for empty lines (R240), and traps outside the allocation. -/
def State.helmTake (s : State) (l : Latch) (a : Word) (n : Nat) : Taking Chunk :=
  let r := s.helmReq l.wg
  let ps := pieces a.toNat n
  match prepAll s (ps.map (fun p t => t.prepRead r spGeneric (a + BitVec.ofNat 64 p.1) p.2 none)) with
  | (.wait, t) => .later t
  | (.fault f, t) => .fault f t
  | (.ready, t) =>
    let c := t.takePieces r l.view a ps
    .got c.1 c.2.2

/-- The fields of the index register. -/
def ixHdr (v : Word) : Bool := bitAt v 63
def ixRow (v : Word) : Nat := field v 62 32
def ixOff (v : Word) : Nat := field v 18 0

/-- The row numbers of an index vector of `n` bytes each; all ones is a row of zeros. -/
def indexRows (n : Nat) (bs : List Byte) (count : Nat) : List (Option Nat) :=
  (List.range 32).map (fun i =>
    if count ≤ i then none
    else let x := fieldLe bs (n * i) n; if x = 2 ^ (8 * n) - 1 then none else some x)

/-- Whether a sparse header may serve `mgat` (R223, R406): no reserved bit, COL 0, the row in it, IDX in the core scratchpad. -/
def headerOk (v : Word) (h : List Byte) : Bool :=
  fieldLe h 0 4 % 2 == 0 && decide (fieldLe h 0 4 < 8) && decide (ixRow v < fieldLe h 4 4)
    && (apertureOf (fieldLe h 16 8)).map (·.1) == some spCore

/-- The 32 row numbers that a header's row names, from its pointers on, and whether they were poisoned. -/
def State.headerRows (s : State) (l : Latch) (h : List Byte) : Taking (List (Option Nat) × Bool) :=
  let pw := headerPtr h
  match s.helmTake l (headerPtrAt (coreAddr (ixOff l.index)) h (ixRow l.index)) (2 * pw) with
  | .later u => .later u
  | .fault f u => .fault f u
  | .got p u =>
    if p.bad then .got (List.replicate 32 none, true) u
    else
      let p0 := fieldLe p.bytes 0 pw
      let p1 := fieldLe p.bytes pw pw
      if p1 < p0 ∨ fieldLe h 8 8 < p1 ∨ p0 + 32 < p1 then .fault l.illegal u
      else
        let iw := headerIdx h
        match u.helmTake l (BitVec.ofNat 64 (fieldLe h 16 8) + BitVec.ofNat 64 (iw * p0)) (iw * (p1 - p0)) with
        | .later w => .later w
        | .fault f w => .fault f w
        | .got x w => .got (indexRows iw x.bytes (p1 - p0), x.bad) w

/-- The 32 row numbers that the index register names, and whether they were poisoned. -/
def State.matIndices (s : State) (l : Latch) : Taking (List (Option Nat) × Bool) :=
  let v := l.index
  if field v 31 19 != 0 || (!ixHdr v && ixRow v != 0) then .fault l.illegal s
  else if !ixHdr v then
    if ixOff v % 64 ≠ 0 then .fault (alignFault (ixOff v)) s
    else match s.helmTake l (coreAddr (ixOff v)) 64 with
      | .later t => .later t
      | .fault f t => .fault f t
      | .got c t => .got (indexRows 2 c.bytes 32, c.bad) t
  else if ixOff v % 8 ≠ 0 then .fault (alignFault (ixOff v)) s
  else match s.helmTake l (coreAddr (ixOff v)) 32 with
    | .later t => .later t
    | .fault f t => .fault f t
    | .got h t =>
      if h.bad then .got (List.replicate 32 none, true) t
      else if headerOk v h.bytes then t.headerRows l h.bytes
      else .fault l.illegal t

/-! ### Scales (R243, R244, R250) -/

/-- The address of the scale of a block (R243). -/
def Latch.scaleAddr (l : Latch) (off : Nat) : Word := l.scaleBase + ((coreAddr off - l.scaleOrg) >>> l.scaleShift.toNat)

/-- A Helm's cached scale read: a lasting error drops the entry (R250, R287). -/
def State.cachedScale (s : State) (w : Nat) (a : Word) : Option (Byte × Nat) × State :=
  match FMap.find (s.helm w).scaleCache a.toNat with
  | none => (none, s)
  | some x =>
    let e := s.eccKept (arrayId 6 (s.coreOf w)) (8 + a.toNat) (s.ctxOf w)
    if e.1 then (none, e.2.setHelm w { e.2.helm w with scaleCache := FMap.erase (e.2.helm w).scaleCache a.toNat })
    else (some x, e.2)

/-- A scale fetched; one that was cached counts from its first fetch on (R244). -/
def State.fetchScale (s : State) (l : Latch) (a : Word) (cached : Option (Byte × Nat)) : Taking (Byte × Bool) :=
  let r := s.helmReq l.wg
  match prepAll s [fun t => t.prepRead r spGeneric a 1 none] with
  | (.wait, t) => .later t
  | (.fault f, t) => .fault f t
  | (.ready, t) =>
    let c := t.takePieces r (match cached with | some (_, seq) => .inv seq | none => l.view) a [(0, 1)]
    let b := c.1.bytes.headD 0
    let h := c.2.2.helm l.wg
    let kept := match cached with | some _ => h.scaleCache | none => FMap.set h.scaleCache a.toNat (b, c.2.2.writeSeq)
    .got (b, c.1.bad) (c.2.2.setHelm l.wg { h with scaleCache := if c.1.bad then h.scaleCache else kept })

/-- One scale: a cached one may serve, or any value the byte has held since it was fetched (R244). -/
def State.takeScale (s : State) (l : Latch) (off : Nat) : Taking (Byte × Bool) :=
  let c := s.cachedScale l.wg (l.scaleAddr off)
  match c.1 with
  | none => c.2.fetchScale l (l.scaleAddr off) none
  | some x =>
    let pick := c.2.choose 2
    if pick.1 = 0 then .got (x.1, false) pick.2 else pick.2.fetchScale l (l.scaleAddr off) (some x)

/-- The scales of blocks at several offsets. -/
def State.takeScales (s : State) (l : Latch) (offs : List Nat) : Taking (FMap Nat Byte × Bool) :=
  match offs with
  | [] => .got ([], false) s
  | o :: t =>
    match s.takeScale l o with
    | .later u => .later u
    | .fault f u => .fault f u
    | .got b s1 =>
      match s1.takeScales l t with
      | .later u => .later u
      | .fault f u => .fault f u
      | .got m s2 => .got ((o, b.1) :: m.1, b.2 || m.2) s2

/-! ### The operands of each instruction -/

/-- The byte ranges of the operands of `mma` and `mgat`. -/
def matSpans (op : MatOp) (rows : List (Option Nat)) (ob : Nat) : List (Nat × Nat) :=
  let b := codeBits op.code
  rows.filterMap (fun r => r.map (fun o => (o, elemDist b op.depth))) ++ [(ob, elemDist b (32 * op.depth))]

/-- The offsets of the blocks whose scales apply. -/
def matBlocks (op : MatOp) (rows : List (Option Nat)) (ob : Nat) : List Nat :=
  if !codeIsBx op.code then []
  else
    let b := codeBits op.code
    let block := fun (r : Nat) => (List.range (op.depth / 32)).map (fun m => r + elemDist b (32 * m))
    (((rows.filterMap (fun r => r)).flatMap block)
      ++ (List.range 32).flatMap (fun j => block (ob + elemDist b (op.depth * j)))).eraseDups

/-- The words to capture, those that stand in a latch set kept. -/
def moreCaps (caps : List CapWord) (xs : List (Nat × Nat)) : List CapWord :=
  caps ++ (capWords xs).filter (fun w => !caps.any (fun c => c.off == w.off))

/-- The offsets of A's rows. -/
def Latch.rowsAt (l : Latch) (ns : List (Option Nat)) : List (Option Nat) :=
  ns.map (fun n => n.map (fun x => l.baseA + elemDist (codeBits l.op.code) (l.op.depth * x)))

/-- The rows and scales of a product: the indices of `mgat`, the allocation, then the scales (R404, R406). -/
def State.planRows (s : State) (l : Latch) : Taking Latch :=
  let index : Taking (List (Option Nat) × Bool) :=
    match l.op.kind with
    | .mgat => s.matIndices l
    | _ => .got ((List.range 32).map some, false) s
  match index with
  | .later t => .later t
  | .fault f t => .fault f t
  | .got ns t =>
    let rows := l.rowsAt ns.1
    let spans := matSpans l.op rows l.baseB
    match firstOutside (t.scratchOf l.wg) spans with
    | some o => .fault (outsideFault o) t
    | none =>
      match t.takeScales l (matBlocks l.op rows l.baseB) with
      | .later u => .later u
      | .fault f u => .fault f u
      | .got sc u =>
        .got { l with
          caps := moreCaps l.caps spans
          rows := rows
          scales := sc.1
          bad := l.bad || ns.2 || sc.2
          planned := true } u

/-- The rows of a product that no index decides. -/
def MatOp.plainRows (op : MatOp) (l : Latch) : List (Option Nat) :=
  match op.kind with | .mgat => [] | _ => l.rowsAt ((List.range 32).map some)

/-- `mma` and `mgat` (R404, R406): alignment, the allocation, then scales. Empty lines of indices and scales do not delay acceptance:
the rows and scales are then taken later (R240). -/
def State.planProduct (s : State) (op : MatOp) : MatPlan :=
  let oa := (s.hVal op.a).toNat
  let ob := (s.hVal op.b).toNat
  if oa % 128 ≠ 0 then .stop (s.helmFault 0x05 (coreAddr oa) 0)
  else if ob % 128 ≠ 0 then .stop (s.helmFault 0x05 (coreAddr ob) 0)
  else
    let l := { s.emptyLatch op with
      baseA := oa
      index := s.hVal (op.a.map (fun (x : Nat × Bool) => (x.1 + 1, x.2)))
      baseB := ob
      capDone := false
      planned := false }
    match s.planRows l with
    | .fault f t => .stop (t.trapHelm s.curGroup.wg f.cause f.addr f.info)
    | .got k t => .enter k t
    | .later t =>
      let spans := matSpans op (op.plainRows l) ob
      match firstOutside t.curScratch spans with
      | some o => .stop (t.helmFault 0x06 (coreAddr o) 0)
      | none => .enter { l with caps := capWords spans } t

/-! ### The gather unit (R240) -/

/-- Rows and scales of an accepted product taken once their lines are full. A trap met only then hands the instruction back, with what
its Helm has had accepted after it (log entry 59). -/
def State.planLate (s : State) (c : Nat) (l : Latch) : State :=
  let ls := (s.core c).latches
  if l.planned || !ls.contains l then s
  else
    let back := (ls.dropWhile (fun x => x != l)).filter (fun x => x.wg == l.wg && !x.executing)
    match s.planRows l with
    | .later t => t
    | .got k t => t.setCore c { t.core c with latches := (t.core c).latches.map (fun x => if x == l then k else x) }
    | .fault f t => (t.handBack l.wg back).trapHelm l.wg f.cause f.addr f.info

/-- The gather unit of a core at work (R240). -/
def State.gatherUnit (s : State) (c : Nat) : State :=
  let s := (s.core c).latches.foldl (fun t l => t.planLate c l) s
  let r := s.captureLatches (s.core c).latches
  r.2.setCore c { r.2.core c with latches := r.1 }

/-- The row stride of `mld` and `mst`. -/
def State.matStride (s : State) (op : MatOp) : Word := match op.b with | some _ => s.hVal op.b | none => 128

/-- Whether a stride is a multiple of 16 of magnitude at least `least`. -/
def strideOk (v : Word) (least : Nat) : Bool := v.toInt % 16 == 0 && decide (least ≤ v.toInt.natAbs)

/-- The offset of a row. -/
def rowOff (base stride : Word) (i : Nat) : Word := base + BitVec.ofNat 64 i * stride

/-- `mld` (R407). -/
def State.planLoad (s : State) (op : MatOp) : MatPlan :=
  let o := s.hVal op.a + op.disp
  let st := s.matStride op
  if o.toNat % 16 ≠ 0 then .stop (s.helmFault 0x05 (coreAddr o.toNat) 0)
  else if !strideOk st 128 then .stop (s.trapIllegal 3)
  else
    let spans := (List.range 32).map (fun i => ((rowOff o st i).toNat, 128))
    match firstOutside s.curScratch spans with
    | some x => .stop (s.helmFault 0x06 (coreAddr x) 0)
    | none => .enter { s.emptyLatch op with caps := capWords spans, addr := o, stride := st, capDone := false } s

/-- Bytes of a stored element of `mst` (R408). -/
def mstWidth (so : Nat) : Nat := if so = 0 then 4 else 2

/-- The aligned words that `mst` writes. -/
def mstWords (addr stride : Word) (so : Nat) : List Word :=
  (List.range 32).flatMap (fun i => (List.range (4 * mstWidth so)).map (fun k => rowOff addr stride i + BitVec.ofNat 64 (8 * k)))

/-- `mst` (R408): ALIGN and NONCANON at issue, no translation. -/
def State.planStore (s : State) (op : MatOp) : MatPlan :=
  let a := s.hVal op.a + op.disp
  let st := s.matStride op
  if a.toNat % 16 ≠ 0 then .stop (s.helmFault 0x05 a 1)
  else if !strideOk st (32 * mstWidth op.so) then .stop (s.trapIllegal 3)
  else
    let r := s.helmReq s.curGroup.wg
    match leastNat (((mstWords a st op.so).filter (fun x => (s.decodeAddr r spGeneric x 8).isNone)).map (·.toNat)) with
    | some x => .stop (s.helmFault 0x06 (BitVec.ofNat 64 x) 1)
    | none =>
      if s.curCtr .mat = 63 then .stop s
      else .enter { s.emptyLatch op with addr := a, stride := st } s

/-- What an instruction's operands come to. -/
def State.matPlan (s : State) (op : MatOp) : MatPlan :=
  match op.kind with
  | .mzero => .enter (s.emptyLatch op) s
  | .mfree => .enter (s.emptyLatch op) s
  | .mma => s.planProduct op
  | .mgat => s.planProduct op
  | .mld => s.planLoad op
  | .mst => s.planStore op

/-! ## Acceptance (R112, R113, R236 to R239, R401, R409) -/

/-- The ACCOWN trap that stands before a matrix instruction, if any (R112, R113). -/
def State.accOwn (s : State) : Option State :=
  let w := s.curGroup.wg
  let x := s.wg w
  match x.oldCore with
  | some old =>
    some ((s.setWg w { x with oldCore := none, savedTiles := 0 }).trapHelm w 0x22 s.curPc
      (BitVec.ofNat 64 (x.savedTiles.toNat * 65536 + old * 64 + 1)))
  | none =>
    if (s.core (s.coreOf w)).accOwner.toNat = s.ctxOf w then none
    else some (s.trapHelm w 0x22 s.curPc (BitVec.ofNat 64 (0x3FF * 64 + 1)))

/-- Whether an instruction meets a live tile with a tag that it does not accept: a product a full one (R237, R403, R408). -/
def Core.tileFormat (c : Core) (op : MatOp) : Bool :=
  c.tileIsLive op.tile &&
    (match op.kind with
     | .mma => c.tileIsFull op.tile && c.tileIsInt op.tile != codeIsInt op.code
     | .mgat => c.tileIsFull op.tile && c.tileIsInt op.tile != codeIsInt op.code
     | .mst => op.so != 0 && c.tileIsInt op.tile
     | _ => false)

/-- The h registers that an instruction reads, as operands. -/
def MatOp.srcs (op : MatOp) : List Opnd :=
  (match op.a with
   | some (n, t) =>
     { opnd := 0, src := .uni n t } :: (if op.kind = .mgat then [{ opnd := 0, src := .uni (n + 1) t }] else [])
   | none => [])
  ++ (match op.b with | some (n, t) => [{ opnd := 1, src := .uni n t }] | none => [])

/-- What a tile's state says to an instruction. -/
inductive TileGate where
  | go | block | trap
  deriving DecidableEq, Repr

/-- Whether the eager save of another workgroup has still to write a tile of a core (R113). -/
def State.eagerOwed (s : State) (c tile : Nat) : Bool :=
  s.wgs.any (fun e => e.2.core == c && !e.2.isResident && e.2.status != .ended && (match e.2.eager with | some m => bitAt m tile | none => false))

/-- The gate of a tile (R237, R239, R409): full, or empty only through earlier instructions of the same Helm. Nothing
passes an accepted `mfree` of the tile, or an eager save that has not written it (R113). -/
def State.tileGate (s : State) (op : MatOp) : TileGate :=
  let w := s.curGroup.wg
  let c := s.core (s.coreOf w)
  if c.tileIsFull op.tile || c.latches.all (fun l => !(l.op.tile == op.tile && l.op.kind.writesTile) || l.wg == w) then
    (if c.latches.any (fun l => l.op.tile == op.tile && l.op.kind == .mfree) || s.eagerOwed (s.coreOf w) op.tile then .block else .go)
  else if op.kind = .mfree then (if bitAt s.feAction 1 then .trap else .block)
  else if op.ta || bitAt s.feAction 0 then .trap
  else .block

/-- How far a Helm stands behind the one accepted last (R238). -/
def State.helmRank (s : State) (w : Nat) : Nat := ((s.wg w).helmNo + 8 - (s.core (s.coreOf w)).lastHelm - 1) % 8

/-- The workgroups resident on a core whose Helms have an instruction ready for acceptance. -/
def State.readyHelms (s : State) (c : Nat) : List Nat :=
  (s.wgs.filter (fun e => e.2.core == c && e.2.isResident && (s.helm e.1).acceptWait.isSome)).map (·.1)

/-- Whether a free latch set takes this Helm's instruction now (R231, R238). -/
def State.mayAccept (s : State) : Bool :=
  let w := s.curGroup.wg
  let c := s.coreOf w
  decide ((s.core c).latches.length < 2) && (s.readyHelms c).all (fun v => v == w || decide (s.helmRank w ≤ s.helmRank v))

/-- Acceptance, in one step (R236, R402): the tile is marked, the captures begin, the Helm moves on. -/
def State.accept (s : State) (l : Latch) : State :=
  let w := s.curGroup.wg
  let c := s.coreOf w
  let cap := s.captureLatch l
  let s := cap.2
  let owes := l.op.kind = .mst
  let l := { cap.1 with asyncId := if owes then some s.nextId else none }
  let s := if owes then s.issueOp .mat .tilePending none 0 [] else s
  let k := s.core c
  let k := { k with latches := k.latches ++ [l], lastHelm := (s.wg w).helmNo }
  let k := if l.op.kind.writesTile then
      ({ k with
         tileTag := putBit k.tileTag l.op.tile (match l.op.kind with
           | .mma => codeIsInt l.op.code
           | .mgat => codeIsInt l.op.code
           | _ => l.op.so == 1)
         accLive := putBit k.accLive l.op.tile true }).settleTile l.op.tile
    else k
  (s.setCore c k).advance

/-- Whether a write to ACC_OWNER or ACC_LIVE waits at a core's Gauntlet (R415). -/
def State.ownerChanging (s : State) (c : Nat) : Bool :=
  s.threads.any (fun e => e.2.live && e.2.wait == .gauntlet && (s.wg e.1.wg).isResident && s.coreOf e.1.wg == c)

/-- Whether the Helm's instruction, not ready before, is held back until such a write is made, and checked only then (R415). -/
def State.ownerHolds (s : State) : Bool := (s.helm s.curGroup.wg).acceptWait.isNone && s.ownerChanging (s.coreOf s.curGroup.wg)

/-- A matrix instruction of major 0x78 at issue (R401): ACCOWN, FORMAT, EMPTY, its operands, then acceptance. -/
def State.matIssue (s : State) (op : MatOp) : Out :=
  let w := s.curGroup.wg
  if s.ownerHolds then .next s else
  let s := s.setHelm w { s.helm w with acceptWait := none }
  match s.accOwn with
  | some t => .next t
  | none =>
    match op.srcs.find? (fun o => s.srcTagOf 0 o.src != 1) with
    | some o => .next (s.trapFormat oneLane o.opnd)
    | none =>
      if (s.core (s.coreOf w)).tileFormat op then .next (s.trapFormat oneLane 3)
      else match s.checkFull oneLane [] op.srcs [] with
        | .trapped t => .next t
        | .blocked => .next s
        | .ok s =>
          match s.tileGate op with
          | .trap => .next (s.trapHelm w 0x04 s.curPc (infoOperand 3 true))
          | .block => .next s
          | .go =>
            match s.matPlan op with
            | .stop t => .next t
            | .enter l t =>
              if t.mayAccept then .next (t.accept l)
              else .next (s.setHelm w { s.helm w with acceptWait := some op })

/-! ## Start and token (R234 to R240, R402) -/

/-- Whether an instruction uses the array (R402). -/
def MatKind.usesArray (k : MatKind) : Bool := k == .mma || k == .mgat

/-- Whether the n-th latch set may start: its operands are complete, no earlier instruction on its tile is left, none of its Helm whose
rows are not known yet (log entry 59), and for the array, that is free (R231, R237, R240). -/
def mayStart (ls : List Latch) (n : Nat) : Bool :=
  match ls[n]? with
  | none => false
  | some l =>
    !l.executing && l.capDone && !(ls.take n).any (fun e => e.op.tile == l.op.tile)
      && !(ls.take n).any (fun e => e.wg == l.wg && !e.planned)
      && (!l.op.kind.usesArray || !ls.any (fun e => e.op.kind.usesArray && e.executing))

/-- The first instruction of a core that may start, started. -/
def State.matStart (s : State) (c : Nat) : State :=
  let s := s.gatherUnit c
  let ls := (s.core c).latches
  match (List.range ls.length).find? (mayStart ls) with
  | none => s
  | some n => s.setCore c { s.core c with latches := ls.modify n (fun l => { l with executing := true }) }

/-- The stored format of an element of `mst` (R408); a NaN becomes the canonical one (R258). -/
def mstCode (so x : Nat) : Nat × Word :=
  match so with
  | 1 => let c := bf16.convertVal (f32.decode x) .rne false; (bf16.canonise c.1, c.2)
  | 2 => let c := f16.convertVal (f32.decode x) .rne false; (f16.canonise c.1, c.2)
  | _ => (x, 0)

/-- The writes of an `mst`: aligned words of its rows, poisoned from a poisoned tile. -/
def mstWrites (l : Latch) (els : List Nat) (bad : Bool) : List (Nat × WriteOp) :=
  let w := mstWidth l.op.so
  ((mstWords l.addr l.stride l.op.so).zipIdx).map (fun (x : Word × Nat) =>
    (x.1.toNat, if bad then .poisoned 8
      else .store (((els.drop (x.2 * (8 / w))).take (8 / w)).flatMap (fun e => leBytes w e))))

/-- A latch set released, its tile full unless a later instruction owes it a value (R236, R402). -/
def State.release (s : State) (c : Nat) (l : Latch) : State :=
  let k := s.core c
  s.setCore c (({ k with latches := k.latches.erase l }).settleTile l.op.tile)

/-- A lasting error met in an instruction's latch set (R250, R286). -/
def State.latchError (s : State) (l : Latch) (c : Nat) : Bool × State := s.eccKept (arrayId 6 c) l.op.tile (s.ctxOf l.wg)

/-- A tile about to be read: a lasting error in the accumulator file poisons it (R250, R286). -/
def State.checkTile (s : State) (c tile ctx : Nat) : State :=
  let e := s.eccKept (arrayId 5 c) tile ctx
  if e.1 then e.2.setCore c { e.2.core c with tilePoison := putBit (e.2.core c).tilePoison tile true } else e.2

/-- Whether an instruction reads what its tile stores (R403). -/
def Latch.readsTile (l : Latch) : Bool := l.wasLive && (l.op.kind.usesArray || l.op.kind == .mst)

/-- The elements onto which a product accumulates (R403, R405): the tile's, zeros where it was not live. Where the Helm's instruction
before it left the tile empty and with the other tag (R237), the manual gives no value: free ones (log entry 59). -/
def State.tileBefore (s : State) (c : Nat) (l : Latch) : List Nat × State :=
  if !l.wasLive then (List.replicate 1024 0, s)
  else if l.wasTag = codeIsInt l.op.code then (s.tileStored c l.op.tile, s)
  else ((List.range 1024).map (fun i => (Config.freeWord (s.freeCount + i)).toNat % 2 ^ 32), { s with freeCount := s.freeCount + 1024 })

/-- What an instruction leaves when it completes (R402, R405, R407 to R409, R250). -/
def State.complete (s : State) (c : Nat) (l : Latch) : State :=
  let err := s.latchError l c
  let s := if l.readsTile then err.2.checkTile c l.op.tile (err.2.ctxOf l.wg) else err.2
  let t := l.op.tile
  match l.op.kind with
  | .mzero => (s.setTile c t (List.replicate 1024 0) false).release c l
  | .mld =>
    let els := (List.range 1024).map (fun n => l.elemAt 32 ((rowOff l.addr l.stride (n / 32)).toNat) (n % 32))
    (s.setTile c t els (l.bad || err.1)).release c l
  | .mfree =>
    let s := s.release c l
    s.setCore c { s.core c with accLive := putBit (s.core c).accLive t false }
  | .mst =>
    let bad := l.wasLive && (s.core c).tileIsBad t || err.1
    let els := (if l.wasLive then s.tileStored c t else List.replicate 1024 0).map (mstCode l.op.so)
    let s := s.orHelmFlags l.wg (els.foldl (fun f e => f ||| e.2) 0)
    let ops := s.ops.map (fun (o : AsyncOp) =>
      if some o.id = l.asyncId then { o with kind := .tileStore (mstWrites l (els.map (·.1)) bad) } else o)
    ({ s with ops := ops }).release c l
  | _ =>
    let old := s.tileBefore c l
    let r := l.product old.1
    let s := old.2.orHelmFlags l.wg r.2
    (s.setTile c t r.1 (l.wasLive && (s.core c).tileIsBad t || l.bad || err.1)).release c l

/-- The token of one of the executing instructions returns (R236). -/
def State.matToken (s : State) (c : Nat) : State :=
  let ls := (s.core c).latches.filter (fun l => l.executing)
  match ls with
  | [] => s
  | [l] => s.complete c l
  | _ =>
    let p := s.choose ls.length
    match ls[p.1]? with
    | some l => p.2.complete c l
    | none => s

/-- Every executing instruction of a core runs to its token (R110). -/
def State.finishArray (s : State) (c : Nat) : State :=
  ((s.core c).latches.filter (fun l => l.executing)).foldl (fun t l => t.complete c l) s

/-- The token that has not returned 512 core cycles after its start (R235): the tile is full and poisoned, and a lasting error is
logged; an `mst` then reads its tile and an `mfree` frees it (R402). -/
def State.matTimeout (s : State) (c : Nat) : State :=
  match (s.core c).latches.find? (fun l => l.executing && decide (512 ≤ l.waited)) with
  | none => s
  | some l =>
    let s := s.setCore c { s.core c with tilePoison := putBit (s.core c).tilePoison l.op.tile true }
    let s := s.logError (arrayId 6 c) 2 0 (s.ctxOf l.wg)
    if l.op.kind = .mst ∨ l.op.kind = .mfree then s.complete c l else s.release c l

/-- MATRIX_ACCEPT: the next ready Helm of a core enters a free latch set (R236, R238). -/
def execMatrixAccept (core : Nat) (s : State) : Out :=
  let best := (s.readyHelms core).foldl (fun (acc : Option Nat) w =>
    match acc with
    | none => some w
    | some v => if s.helmRank w < s.helmRank v then some w else some v) none
  match best with
  | none => .next s
  | some w =>
    match (s.helm w).acceptWait with
    | none => .next s
    | some op => ({ s with cur := .helm w (s.helm w).pc op.len }).matIssue op

/-- MATRIX_START (R240). -/
def execMatrixStart (core : Nat) (s : State) : Out := .next (s.matStart core)
/-- MATRIX_TOKEN (R236). -/
def execMatrixToken (core : Nat) (s : State) : Out := .next (s.matToken core)
/-- MATRIX_TOKEN_TIMEOUT (R235). -/
def execMatrixTokenTimeout (core : Nat) (s : State) : Out := .next (s.matTimeout core)

/-! ## The instructions (R405 to R410) -/

/-- A matrix instruction with a tile and no operand. -/
def matPlain (kind : MatKind) (tile so len : Nat) : MatOp :=
  { kind := kind, tile := tile, ta := false, a := none, b := none, disp := 0, code := 0, depth := 0, x := false, so := so, len := len }

/-- A matrix instruction in its 32-bit form: the tile in D[2:0], h A. -/
def mat32 (kind : MatKind) (w : R32) : MatOp :=
  { matPlain kind (w.d.toNat % 8) w.so.toNat 4 with a := match kind with
      | .mld => some (w.a.toNat, false)
      | .mst => some (w.a.toNat, false)
      | _ => none }

/-- A matrix instruction in its 64-bit form (R401, R405, R407). FSB, FB and B all zero in `mld` and `mst` name no stride. -/
def mat64 (kind : MatKind) (w : R64) : MatOp :=
  let p := matPlain kind (d64 w % 8) w.so.toNat 8
  match w.sh with
  | .rrr x _ c fb b fa a _ =>
    (match kind with
     | .mma => { p with ta := w.fsc, a := some (a.toNat, fa), b := some (b.toNat, fb), code := c.toNat / 32, depth := 8 * (c.toNat % 32 + 1), x := x }
     | .mgat => { p with ta := w.fsc, a := some (a.toNat, fa), b := some (b.toNat, fb), code := c.toNat / 32, depth := 8 * (c.toNat % 32 + 1), x := x }
     | .mld => { p with a := some (a.toNat, fa), b := if w.fsb then some (b.toNat, fb) else none }
     | .mst => { p with ta := w.fsc, a := some (a.toNat, fa), b := if w.fsb then some (b.toNat, fb) else none }
     | _ => p)
  | .imm16 _ imm _ fa a _ =>
    (match kind with
     | .mld => { p with a := some (a.toNat, fa), disp := imm.signExtend 64 }
     | .mst => { p with ta := w.fsc, a := some (a.toNat, fa), disp := imm.signExtend 64 }
     | _ => p)
  | .imm32 _ _ => p

/-- mzero (R407), 32-bit form. -/
def execMzero (w : R32) (s : State) : Out := s.matIssue (mat32 .mzero w)
/-- mzero (R407), 64-bit form. -/
def execMzero64 (w : R64) (s : State) : Out := s.matIssue (mat64 .mzero w)
/-- mma (R405). -/
def execMma (w : R64) (s : State) : Out := s.matIssue (mat64 .mma w)
/-- mgat (R405, R406). -/
def execMgat (w : R64) (s : State) : Out := s.matIssue (mat64 .mgat w)
/-- mld (R407), 32-bit form. -/
def execMld (w : R32) (s : State) : Out := s.matIssue (mat32 .mld w)
/-- mld (R407), 64-bit form. -/
def execMld64 (w : R64) (s : State) : Out := s.matIssue (mat64 .mld w)
/-- mst (R408), 32-bit form. -/
def execMst (w : R32) (s : State) : Out := s.matIssue (mat32 .mst w)
/-- mst (R408), 64-bit form. -/
def execMst64 (w : R64) (s : State) : Out := s.matIssue (mat64 .mst w)
/-- mfree (R409), 32-bit form. -/
def execMfree (w : R32) (s : State) : Out := s.matIssue (mat32 .mfree w)
/-- mfree (R409), 64-bit form. -/
def execMfree64 (w : R64) (s : State) : Out := s.matIssue (mat64 .mfree w)

/-- A scale register of the Helm written, and its cached scales dropped (R242, R244, R410). -/
def State.setScale (s : State) (so : Nat) (v : Word) : State :=
  let h := s.helm s.curGroup.wg
  let h := match so with
    | 0 => { h with scaleBase := v }
    | 1 => { h with scaleOrg := v }
    | _ => { h with scaleShift := v.setWidth 6 }
  s.setHelm s.curGroup.wg { h with scaleCache := [] }

/-- msc (R410): SO chooses the register; an address is tagged I64 (R401). -/
def State.mscStep (s : State) (so : Nat) (a : Src) : Out :=
  if so < 2 ∧ s.srcTagOf 0 a ≠ 1 then .next (s.trapFormat oneLane 0)
  else
    match s.checkFull oneLane [] [{ opnd := 0, src := a }] [] with
    | .trapped t => .next t
    | .blocked => .next s
    | .ok s => .next (s.setScale so (s.srcBits 0 a)).advance

/-- msc (R410), 32-bit form. -/
def execMsc (w : R32) (s : State) : Out := s.mscStep w.so.toNat (uniA w)
/-- msc (R410), 64-bit form. -/
def execMsc64 (w : R64) (s : State) : Out := s.mscStep w.so.toNat (form64 w false).a

/-- The Helm's cached scales dropped (R410). -/
def State.dropScales (s : State) : State := s.setHelm s.curGroup.wg { s.helm s.curGroup.wg with scaleCache := [] }

/-- mscinv (R410), 32-bit form. -/
def execMscinv (_ : R32) (s : State) : Out := .next s.dropScales.advance
/-- mscinv (R410), 64-bit form. -/
def execMscinv64 (_ : R64) (s : State) : Out := .next s.dropScales.advance

end Sys2Proof.Machine
end

