-- ==== Sys2Proof/Machine/Legal.lean ====
section
/-! DEFINITION. Which fields each instruction uses and which values they may hold (R296 to R302, R313 steps 3 to 5 and
the instruction chapters), as one table of field uses and one check per instruction length. -/

namespace Sys2Proof.Machine

open Sys2Proof

/-- What a register field names (R296, R301): nothing, a register of the major's own file, a register of either file
of a lane major, an s (in a matrix stream h) register, a k, tile or w register, a number,
what the operands' tags decide at issue (`late`, R360), nothing, but with its file select limited
(`blank`, R342), or an h register that may be left out (`opt`, R407). -/
inductive Fld where
  | none | dst | src | sreg | k | tile | w | num | late | blank | opt
  deriving DecidableEq, Repr

/-- What FC is: zero, the action bit of C, the mark that C is present, or always 1 (R300, R310, R391). -/
inductive FcUse where
  | zero | action | marks | must
  deriving DecidableEq, Repr

/-- The majors an encoding stands in: a lane major (or one with no uniform twin), a uniform major, or either (R303,
R305). -/
inductive Majors where
  | lane | uniform | both
  deriving DecidableEq, Repr

/-- The fields an instruction uses. `so` has the bits of SO that may be set, `classes` its values where SO is a class,
`soMax` its largest value, `shapes` the SHAPEs, `immMask` the bits of imm16, `qMask` of Q; `ta` marks bit [23] as TA and
`bundle` a per-bundle instruction, which is unguarded (R376). -/
structure Use where
  d : Fld := .none
  a : Fld := .none
  b : Fld := .none
  c : Fld := .none
  imm6 : Bool := false
  so : Nat := 0
  classes : List Nat := []
  soMax : Nat := 3
  shapes : List Nat := [0, 1]
  immMask : Nat := 65535
  x : Bool := false
  qMask : Nat := 0
  fd : Bool := false
  fc : FcUse := .zero
  ta : Bool := false
  bundle : Bool := false
  deriving DecidableEq, Repr

/-- What a field of a Cornice word names (R316). -/
inductive CorniceFld where
  | none | c | x | b
  deriving DecidableEq, Repr

/-- The fields a Cornice operation uses (R316). -/
structure CorniceUse where
  d : CorniceFld := .none
  a : CorniceFld := .none
  b : CorniceFld := .none
  c : CorniceFld := .none
  classes : List Nat := [0]
  immMask : Nat := 0
  deriving DecidableEq, Repr

/-- The first finding that holds, by its REASON (R313). -/
def firstBad (l : List (Bool × Nat)) : Option Nat :=
  match l with
  | [] => none
  | (bad, r) :: t => if bad then some r else firstBad t

/-- A field with no bit outside a mask. -/
def within (x mask : Nat) : Bool := x &&& mask == x

/-- The major bit an encoding may have. -/
def Majors.allows (m : Majors) (u : Bool) : Bool := match m with | .lane => !u | .uniform => u | .both => true

/-- The length in bytes that an instruction's first parcel gives (R292). -/
def lengthOf (parcel : BitVec 16) : Nat :=
  if !bitAt parcel 0 then 2 else if !bitAt parcel 1 then 4 else 8

/-! ## The 32-bit form -/

/-- A 6-bit field that is used, or zero. -/
def zero32 (fk : Fld) (n : BitVec 6) : Bool := fk != .none && fk != .blank || n == 0

/-- A 6-bit register number inside its file (R296). -/
def limit32 (fk : Fld) (n : BitVec 6) : Bool := match fk with | .k | .tile | .w => decide (n.toNat < 8) | _ => true

/-- The class a form needs (R313 step 4). -/
def classOk (u : Use) (so : BitVec 2) : Bool := u.classes.isEmpty || u.classes.contains so.toNat

/-- The checks of a standard 32-bit instruction; `res` and `lim` are the conditions its description adds to steps 3
and 5. -/
def check32 (u : Use) (m : Majors) (_h : Bool) (w : R32) (res lim : Bool := true) : Option Nat :=
  firstBad [
    (!m.allows w.u, 0),
    (!(zero32 u.d w.d && zero32 u.a w.a && zero32 u.b w.b && within w.so.toNat (u.so ||| (if u.imm6 then 2 else 0)) && res), 1),
    (!classOk u w.so, 2),
    (!(limit32 u.d w.d && limit32 u.a w.a && limit32 u.b w.b && decide (w.so.toNat ≤ u.soMax) && lim), 3)]

/-- The checks of a 16-bit instruction (R294, R295): none exists in a matrix stream, and `mov v0, v0` is illegal. -/
def check16 (h : Bool) (_w : R16) (zero : Bool) : Option Nat := firstBad [(h || zero, 0)]

/-! ## The 64-bit form -/

/-- SHAPE's code. -/
def shapeCode (sh : Shape64) : Nat := match sh with | .rrr .. => 0 | .imm16 .. => 1 | .imm32 .. => 2

/-- The register number of D. -/
def dNumOf (w : R64) : Nat := match w.sh with | .rrr _ _ _ _ _ _ _ d => d.toNat | .imm16 _ _ _ _ _ d => d.toNat | .imm32 _ d => d.toNat
/-- The register number of A. -/
def aNumOf (w : R64) : Nat := match w.sh with | .rrr _ _ _ _ _ _ a _ => a.toNat | .imm16 _ _ _ _ a _ => a.toNat | .imm32 .. => 0
/-- The register number of B. -/
def bNumOf (w : R64) : Nat := match w.sh with | .rrr _ _ _ _ b _ _ _ => b.toNat | _ => 0
/-- The register number of C. -/
def cNumOf (w : R64) : Nat := match w.sh with | .rrr _ _ c _ _ _ _ _ => c.toNat | _ => 0
/-- The field Q. -/
def qBitsOf (w : R64) : BitVec 4 := match w.sh with | .imm16 q _ _ _ _ _ => q | _ => 0
/-- The field imm16. -/
def immNumOf (w : R64) : Nat := match w.sh with | .imm16 _ imm _ _ _ _ => imm.toNat | _ => 0
/-- The action bit FB. -/
def fbOf (w : R64) : Bool := match w.sh with | .rrr _ _ _ fb _ _ _ _ => fb | _ => false
/-- The bit X. -/
def xBitOf (w : R64) : Bool := match w.sh with | .rrr x _ _ _ _ _ _ _ => x | _ => false

/-- Whether a kind of field holds a register with a full/empty bit, and so has an action bit (R130). -/
def Fld.hasAction (fk : Fld) : Bool := match fk with | .dst | .src | .sreg | .late | .opt => true | _ => false

/-- Whether a kind of field has a file select. -/
def Fld.hasFile (fk : Fld) : Bool := match fk with | .none | .num => false | _ => true

/-- A 9-bit field with its file select and action bit: an unused part is zero. -/
def zero64 (fk : Fld) (fs : Bool) (n : Nat) (act : Bool) : Bool :=
  (fk != .none && fk != .blank || n == 0) && (fk.hasFile || !fs) && (fk.hasAction || !act)

/-- FC and C where SHAPE is 0b00 (R300): `ta` takes bit [23] for itself. -/
def zeroC (u : Use) (fsc fc : Bool) (n : Nat) : Bool :=
  match u.fc with
  | .zero => zero64 u.c (fsc && !u.ta) n fc
  | .action => true
  | .marks => fc || (n == 0 && !fsc)
  | .must => fc && (u.ta || !fsc)

/-- The reserved and unused fields of a 64-bit instruction, its SHAPE and its guard (R313 step 3). -/
def reserved64 (u : Use) (h : Bool) (w : R64) : Bool :=
  u.shapes.contains (shapeCode w.sh) && within w.so.toNat u.so && (w.gk != 0 || !w.gn)
    && (w.gk == 0 || !(w.u || h || u.bundle)) &&
  match w.sh with
  | .rrr x fc c fb b fa a d =>
    (u.x || !x) && zeroC u w.fsc fc c.toNat && zero64 u.b w.fsb b.toNat fb && zero64 u.a w.fsa a.toNat fa
      && zero64 u.d w.fsd d.toNat false
  | .imm16 q imm fd fa a d =>
    within q.toNat u.qMask && within imm.toNat u.immMask && (u.fd || !fd) && !w.fsb && (u.ta || !w.fsc)
      && zero64 u.a w.fsa a.toNat fa && zero64 u.d w.fsd d.toNat false
  | .imm32 _ d => !w.fsa && !w.fsb && !w.fsc && zero64 u.d w.fsd d.toNat false

/-- A register number and its file select inside the limits of R301. `u` is true in a uniform major, `h` in a matrix
stream. -/
def limit64 (fk : Fld) (u h fs : Bool) (n : Nat) : Bool :=
  let uni : Bool := decide (n ≤ (if h then 63 else 511))
  match fk with
  | .none | .num | .late => true
  | .dst => if u then fs && uni else !fs && decide (n ≤ 63)
  | .src => if u then fs && uni else if fs then uni else !h && decide (n ≤ 63)
  | .sreg => fs && uni
  | .k => fs == u && decide (n < 8)
  | .tile | .w => !fs && decide (n < 8)
  | .blank => !fs
  | .opt => if fs then uni else n == 0

/-- The registers of a 64-bit instruction (R313 step 5). -/
def limits64 (u : Use) (h : Bool) (w : R64) : Bool :=
  limit64 u.d w.u h w.fsd (dNumOf w) &&
  match w.sh with
  | .rrr _ fc c _ b _ a _ =>
    limit64 u.a w.u h w.fsa a.toNat && limit64 u.b w.u h w.fsb b.toNat
      && (!(u.fc == .marks) || !fc || limit64 u.c w.u h w.fsc c.toNat)
      && (u.fc == .marks || u.fc == .must || limit64 u.c w.u h w.fsc c.toNat)
  | .imm16 _ _ _ _ a _ => limit64 u.a w.u h w.fsa a.toNat
  | .imm32 .. => true

/-- The checks of a 64-bit instruction. -/
def check64 (u : Use) (m : Majors) (h : Bool) (w : R64) (res lim : Bool := true) : Option Nat :=
  firstBad [
    (!m.allows w.u, 0),
    (!(reserved64 u h w && res), 1),
    (!classOk u w.so, 2),
    (!(limits64 u h w && decide (w.so.toNat ≤ u.soMax) && lim), 3)]

/-! ## Limits of single instructions -/

/-- A space code that exists (R298). -/
def spaceOk (p : BitVec 3) : Bool := decide (p.toNat < 6)
/-- A scope code that exists (R298). -/
def scopeOk (c : BitVec 3) : Bool := decide (c.toNat < 6)
/-- A function code that is assigned. -/
def funcOk (f : BitVec 3) (last : Nat) (r : Option Nat) : Option Nat := if f.toNat ≤ last then r else some 0
/-- A uniform data register needs a uniform base (R379). -/
def uniOkOf (w : R64) : Bool := !w.fsd || w.fsa
/-- The registers of `ldm` and `stm` inside their file (R382). -/
def blockOkOf (w : R64) : Bool := decide (dNumOf w + 2 ^ (w.so.toNat + 1) ≤ (if w.fsd then 512 else 64))
/-- A register pair inside its file (R367). -/
def pairOk (h fs : Bool) (n : Nat) : Bool := decide (n ≤ (if fs && !h then 510 else 62))
/-- The input code of `mma` and `mgat`: 15 is none, and the BX codes need K a multiple of 32 and X 0 (R310, R404). -/
def codeOk (w : R64) : Bool :=
  let code := cNumOf w / 32
  let k := 8 * (cNumOf w % 32 + 1)
  code != 15 && (!(code == 13 || code == 14) || (k % 32 == 0 && !xBitOf w))

/-! ## Cornice words (R316, R317) -/

/-- A register number of a Cornice word. -/
def corniceFldOk (fk : CorniceFld) (n : BitVec 4) : Bool :=
  match fk with | .none => n == 0 | .c => true | .x => decide (n.toNat < 8) | .b => decide (n.toNat < 4)

/-- The checks of a Cornice word. -/
def checkCornice (u : CorniceUse) (w : CW) : Option Nat :=
  firstBad [(!(corniceFldOk u.d w.d && corniceFldOk u.a w.a && corniceFldOk u.b w.b && corniceFldOk u.c w.c
    && u.classes.contains w.cls.toNat && within w.imm.toNat u.immMask), 3)]

/-! ## The table of field uses -/

/-- Fields of add, sub, addc, subc, and, or, xor, andn, shl, shr, sar, rol, bfi, perm, shfl. -/
def useAdd : Use := { d := .dst, a := .src, b := .src, imm6 := true }

/-- Fields of add64, sub64, and64, or64, xor64, andn64 and the like. -/
def useAdd64 : Use := { d := .dst, a := .src, b := .src }

/-- Fields of addc64, subc64, sel64. -/
def useAddc64 : Use := { d := .dst, a := .src, b := .src, c := .k }

/-- Fields of adds, subs, min, max, bfe. -/
def useAdds : Use := { d := .dst, a := .src, b := .src, imm6 := true, so := 1 }

/-- Fields of adds64, subs64, min64, max64, bfe64. -/
def useAdds64 : Use := { d := .dst, a := .src, b := .src, so := 1 }

/-- Fields of neg, abs, mov, not, clz, ctz, popc, brev, fabs, fneg, fclass, qddx, qddy, lredFloat, gover. -/
def useNeg : Use := { d := .dst, a := .src }

/-- Fields of neg64, abs64, mov64, not64, clz64, ctz64 and the like. -/
def useNeg64 : Use := { d := .dst, a := .src, immMask := 0 }

/-- Fields of mul, mul64, mad, rnd, rnd64, fadd, fsub, fmin, fmax. -/
def useMul : Use := { d := .dst, a := .src, b := .src, so := 3, classes := [0] }

/-- Fields of mulhS, mulhS64, idotS, mulhU, mulhU64, idotU, fmul, fma, fnma, fdot, galpha. -/
def useMulhS : Use := { d := .dst, a := .src, b := .src, so := 3, classes := [0, 1, 2] }

/-- Fields of mad64. -/
def useMad64 : Use := { d := .dst, a := .src, b := .src, c := .src, so := 3, classes := [0], fc := .action }

/-- Fields of idotS64, idotU64, fma64, fnma64, fdot64. -/
def useIdotS64 : Use := { d := .dst, a := .src, b := .src, c := .src, so := 3, classes := [0, 1, 2], fc := .action }

/-- Fields of lea, lea64. -/
def useLea : Use := { d := .dst, a := .src, b := .src, so := 3 }

/-- Fields of cmp. -/
def useCmp : Use := { d := .k, a := .src, b := .src, imm6 := true, so := 1 }

/-- Fields of cmp64. -/
def useCmp64 : Use := { d := .k, a := .src, b := .src, so := 1 }

/-- Fields of bfi64. -/
def useBfi64 : Use := { d := .dst, a := .src, b := .src, c := .src, fc := .action }

/-- Fields of perm64. -/
def usePerm64 : Use := { d := .dst, a := .src, b := .src, c := .src, immMask := 255, fc := .action }

/-- Fields of jmpV, ret. -/
def useJmpV : Use := { d := .blank, a := .dst }

/-- Fields of jmpV64, ret64. -/
def useJmpV64 : Use := { d := .blank, a := .dst, immMask := 0 }

/-- Fields of jmpS. -/
def useJmpS : Use := { d := .blank, a := .sreg }

/-- Fields of jmpS64. -/
def useJmpS64 : Use := { d := .blank, a := .sreg, immMask := 0 }

/-- Fields of call. -/
def useCall : Use := { d := .dst, a := .sreg }

/-- Fields of call64. -/
def useCall64 : Use := { d := .dst, a := .sreg, immMask := 0 }

/-- Fields of exit, yield, mscinv, eret, park, halt. -/
def useExit : Use := { }

/-- Fields of exit64, yield64. -/
def useExit64 : Use := { immMask := 0 }

/-- Fields of nap64, trap64. -/
def useNap64 : Use := { shapes := [1] }

/-- Fields of spawn. -/
def useSpawn : Use := { a := .sreg, b := .dst }

/-- Fields of spawn64. -/
def useSpawn64 : Use := { a := .sreg, b := .dst, shapes := [0] }

/-- Fields of fadd64, fsub64, fmin64, fmax64. -/
def useFadd64 : Use := { d := .dst, a := .src, b := .src, so := 3, classes := [0], shapes := [0, 1, 2] }

/-- Fields of fmul64. -/
def useFmul64 : Use := { d := .dst, a := .src, b := .src, so := 3, classes := [0, 1, 2], shapes := [0, 1, 2] }

/-- Fields of frnd, lscan. -/
def useFrnd : Use := { d := .dst, a := .src, so := 3 }

/-- Fields of frnd64, lscan64. -/
def useFrnd64 : Use := { d := .dst, a := .src, so := 3, immMask := 0 }

/-- Fields of swz. -/
def useSwz : Use := { d := .dst, a := .src, b := .num, so := 3 }

/-- Fields of swz64. -/
def useSwz64 : Use := { d := .dst, a := .src, b := .num, so := 3, immMask := 63 }

/-- Fields of fcmp, fcmp64. -/
def useFcmp : Use := { d := .k, a := .src, b := .src }

/-- Fields of specialFunction. -/
def useSpecialFunction : Use := { d := .dst, a := .src, so := 3, classes := [0, 2] }

/-- Fields of specialFunction64. -/
def useSpecialFunction64 : Use := { d := .dst, a := .src, so := 3, classes := [0, 2], shapes := [0] }

/-- Fields of cvt. -/
def useCvt : Use := { d := .dst, a := .src, b := .late, so := 3 }

/-- Fields of cvt64. -/
def useCvt64 : Use := { d := .dst, a := .src, b := .late, c := .num, so := 3, shapes := [0], x := true }

/-- Fields of qswap, qswap64. -/
def useQswap : Use := { d := .dst, a := .src, b := .num }

/-- Fields of voteAny, voteAll, voteEq. -/
def useVoteAny : Use := { d := .k, a := .k }

/-- Fields of voteAny64, voteAll64, voteEq64. -/
def useVoteAny64 : Use := { d := .k, a := .k, immMask := 0 }

/-- Fields of ballot. -/
def useBallot : Use := { d := .sreg, a := .k }

/-- Fields of ballot64. -/
def useBallot64 : Use := { d := .sreg, a := .k, immMask := 0 }

/-- Fields of amask. -/
def useAmask : Use := { d := .sreg }

/-- Fields of amask64. -/
def useAmask64 : Use := { d := .sreg, immMask := 0 }

/-- Fields of tos. -/
def useTos : Use := { d := .sreg, a := .dst }

/-- Fields of tos64. -/
def useTos64 : Use := { d := .sreg, a := .src, immMask := 0 }

/-- Fields of lred. -/
def useLred : Use := { d := .dst, a := .src, so := 1 }

/-- Fields of lred64. -/
def useLred64 : Use := { d := .dst, a := .src, so := 1, immMask := 0 }

/-- Fields of lscanFloat. -/
def useLscanFloat : Use := { d := .dst, a := .src, so := 2 }

/-- Fields of lscanFloat64. -/
def useLscanFloat64 : Use := { d := .dst, a := .src, so := 2, immMask := 0 }

/-- Fields of gkey64. -/
def useGkey64 : Use := { d := .dst, a := .src, b := .src, shapes := [0] }

/-- Fields of galpha64. -/
def useGalpha64 : Use := { d := .dst, a := .src, b := .src, so := 3, classes := [0, 1, 2], shapes := [0] }

/-- Fields of gterm. -/
def useGterm : Use := { d := .k, a := .src }

/-- Fields of gterm64. -/
def useGterm64 : Use := { d := .k, a := .src, immMask := 0 }

/-- Fields of smp. -/
def useSmp : Use := { d := .dst, a := .src, b := .sreg }

/-- Fields of smp64. -/
def useSmp64 : Use := { d := .dst, a := .src, b := .sreg, shapes := [0] }

/-- Fields of ld64. -/
def useLd64 : Use := { d := .src, a := .src, so := 3, shapes := [1], qMask := 1 }

/-- Fields of st64. -/
def useSt64 : Use := { d := .src, a := .src, shapes := [1], fd := true }

/-- Fields of ldsU64, ldsS64. -/
def useLdsU64 : Use := { d := .src, a := .src, so := 3, soMax := 2, shapes := [1] }

/-- Fields of sts64. -/
def useSts64 : Use := { d := .src, a := .src, so := 3, soMax := 2, shapes := [1], fd := true }

/-- Fields of ldm64. -/
def useLdm64 : Use := { d := .src, a := .src, so := 3, shapes := [1], qMask := 15 }

/-- Fields of stm64. -/
def useStm64 : Use := { d := .src, a := .src, so := 3, shapes := [1], fd := true }

/-- Fields of atom64, red64. -/
def useAtom64 : Use := { d := .dst, a := .src, so := 3, shapes := [1], qMask := 15, fd := true }

/-- Fields of pub64, pull64, phase64. -/
def usePub64 : Use := { d := .num, shapes := [0], bundle := true }

/-- Fields of pref64. -/
def usePref64 : Use := { a := .src, shapes := [1], bundle := true }

/-- Fields of barInit. -/
def useBarInit : Use := { a := .num, b := .sreg }

/-- Fields of barInit64. -/
def useBarInit64 : Use := { a := .num, b := .sreg, shapes := [0], bundle := true }

/-- Fields of barArrive, barSync. -/
def useBarArrive : Use := { a := .num }

/-- Fields of barArrive64, barSync64. -/
def useBarArrive64 : Use := { a := .num, shapes := [0] }

/-- Fields of barWait. -/
def useBarWait : Use := { a := .num, so := 1 }

/-- Fields of barWait64. -/
def useBarWait64 : Use := { a := .num, so := 1, shapes := [0], bundle := true }

/-- Fields of wait. -/
def useWait : Use := { b := .num }

/-- Fields of wait64. -/
def useWait64 : Use := { b := .num, shapes := [1], bundle := true }

/-- Fields of cpy, xformTranspose, xformCompress, xformDecompress, xformConvert, xformRepack, xformMigrate. -/
def useCpy : Use := { d := .num, a := .sreg, b := .sreg }

/-- Fields of cpy64, xformTranspose64, xformCompress64, xformDecompress64, xformConvert64, xformRepack64 and the like. -/
def useCpy64 : Use := { d := .num, a := .sreg, b := .sreg, c := .sreg, shapes := [0], fc := .marks, bundle := true }

/-- Fields of gat, chain. -/
def useGat : Use := { d := .num, a := .sreg }

/-- Fields of gat64. -/
def useGat64 : Use := { d := .num, a := .sreg, immMask := 0, bundle := true }

/-- Fields of sct, srt, coll, cpyMap, cpyUnmap, nmq, resume, kill. -/
def useSct : Use := { a := .sreg }

/-- Fields of sct64, srt64, coll64, cpyMap64, cpyUnmap64. -/
def useSct64 : Use := { a := .sreg, immMask := 0, bundle := true }

/-- Fields of qpush. -/
def useQpush : Use := { d := .sreg, a := .sreg, b := .sreg }

/-- Fields of qpush64. -/
def useQpush64 : Use := { d := .sreg, a := .sreg, b := .sreg, shapes := [0], bundle := true }

/-- Fields of semSignal, semAwait. -/
def useSemSignal : Use := { a := .sreg, b := .sreg }

/-- Fields of semSignal64, semAwait64. -/
def useSemSignal64 : Use := { a := .sreg, b := .sreg, bundle := true }

/-- Fields of semRead. -/
def useSemRead : Use := { d := .sreg, a := .sreg }

/-- Fields of semRead64. -/
def useSemRead64 : Use := { d := .sreg, a := .sreg, shapes := [0], bundle := true }

/-- Fields of wopen. -/
def useWopen : Use := { d := .w, a := .sreg }

/-- Fields of wopen64. -/
def useWopen64 : Use := { d := .w, a := .sreg, shapes := [0], bundle := true }

/-- Fields of wadv. -/
def useWadv : Use := { a := .w, b := .num }

/-- Fields of wadv64. -/
def useWadv64 : Use := { a := .w, b := .num, shapes := [1], bundle := true }

/-- Fields of wend. -/
def useWend : Use := { d := .k, a := .w }

/-- Fields of wend64. -/
def useWend64 : Use := { d := .k, a := .w, shapes := [0] }

/-- Fields of wclose. -/
def useWclose : Use := { a := .w }

/-- Fields of wclose64. -/
def useWclose64 : Use := { a := .w, shapes := [0], bundle := true }

/-- Fields of wld, wldLane. -/
def useWld : Use := { d := .dst, a := .w }

/-- Fields of wld64, wldLane64. -/
def useWld64 : Use := { d := .dst, a := .w, shapes := [0] }

/-- Fields of chain64. -/
def useChain64 : Use := { d := .num, a := .sreg, c := .sreg, shapes := [0], fc := .marks, bundle := true }

/-- Fields of nmq64. -/
def useNmq64 : Use := { a := .sreg, c := .sreg, shapes := [0], fc := .marks, bundle := true }

/-- Fields of mzero. -/
def useMzero : Use := { d := .tile, so := 3, soMax := 1 }

/-- Fields of mzero64. -/
def useMzero64 : Use := { d := .tile, so := 3, soMax := 1, shapes := [0], bundle := true }

/-- Fields of mma64, mgat64. -/
def useMma64 : Use := { d := .tile, a := .sreg, b := .sreg, c := .num, so := 3, classes := [0, 1, 2], shapes := [0], x := true, fc := .must, ta := true, bundle := true }

/-- Fields of mld, mrest. -/
def useMld : Use := { d := .tile, a := .sreg, so := 3, soMax := 1 }

/-- Fields of mld64. -/
def useMld64 : Use := { d := .tile, a := .sreg, b := .opt, so := 3, soMax := 1, bundle := true }

/-- Fields of mst. -/
def useMst : Use := { d := .tile, a := .sreg, so := 3, soMax := 2 }

/-- Fields of mst64. -/
def useMst64 : Use := { d := .tile, a := .sreg, b := .opt, so := 3, soMax := 2, ta := true, bundle := true }

/-- Fields of mfree. -/
def useMfree : Use := { d := .tile }

/-- Fields of mfree64. -/
def useMfree64 : Use := { d := .tile, shapes := [0], bundle := true }

/-- Fields of msc. -/
def useMsc : Use := { a := .sreg, so := 3, soMax := 2 }

/-- Fields of msc64. -/
def useMsc64 : Use := { a := .sreg, so := 3, soMax := 2, shapes := [0], bundle := true }

/-- Fields of mscinv64. -/
def useMscinv64 : Use := { shapes := [0], bundle := true }

/-- Fields of msave. -/
def useMsave : Use := { d := .tile, a := .sreg, so := 3, soMax := 0 }

/-- Fields of msave64. -/
def useMsave64 : Use := { d := .tile, a := .sreg, so := 3, soMax := 0, shapes := [0], bundle := true }

/-- Fields of msaveOwn. -/
def useMsaveOwn : Use := { d := .tile, so := 1 }

/-- Fields of msaveOwn64. -/
def useMsaveOwn64 : Use := { d := .tile, so := 1, shapes := [0], bundle := true }

/-- Fields of mrest64. -/
def useMrest64 : Use := { d := .tile, a := .sreg, so := 3, soMax := 1, shapes := [0], bundle := true }

/-- Fields of rdsys64. -/
def useRdsys64 : Use := { d := .src, shapes := [1] }

/-- Fields of wrsys64. -/
def useWrsys64 : Use := { a := .src, shapes := [1] }

/-- Fields of eret64, park64, halt64. -/
def useEret64 : Use := { shapes := [0] }

/-- Fields of resume64, kill64. -/
def useResume64 : Use := { a := .sreg, shapes := [0], bundle := true }

/-- Fields of tlbinvAll. -/
def useTlbinvAll : Use := { b := .sreg }

/-- Fields of tlbinvAll64. -/
def useTlbinvAll64 : Use := { b := .sreg, shapes := [0], bundle := true }

/-- Fields of tlbinvVa. -/
def useTlbinvVa : Use := { a := .sreg, b := .sreg, so := 1 }

/-- Fields of tlbinvVa64. -/
def useTlbinvVa64 : Use := { a := .sreg, b := .sreg, so := 1, shapes := [0], bundle := true }

/-- Fields of movi64. -/
def useMovi64 : Use := { d := .dst, so := 1, shapes := [2] }

/-- Fields of the Cornice operations nop, sync, end (R316). -/
def cwNop : CorniceUse := { }

/-- Fields of the Cornice operations rdrow (R316). -/
def cwRdrow : CorniceUse := { d := .b, a := .x, immMask := 511 }

/-- Fields of the Cornice operations wrrow (R316). -/
def cwWrrow : CorniceUse := { b := .b, a := .x, immMask := 511 }

/-- Fields of the Cornice operations cld (R316). -/
def cwCld : CorniceUse := { d := .c, a := .b, immMask := 15 }

/-- Fields of the Cornice operations cst (R316). -/
def cwCst : CorniceUse := { d := .b, a := .c, immMask := 15 }

/-- Fields of the Cornice operations fadd, fsub, fmax, fmin (R316). -/
def cwFadd : CorniceUse := { d := .c, a := .c, b := .c }

/-- Fields of the Cornice operations fmul (R316). -/
def cwFmul : CorniceUse := { d := .c, a := .c, b := .c, classes := [0, 1, 2] }

/-- Fields of the Cornice operations fma (R316). -/
def cwFma : CorniceUse := { d := .c, a := .c, b := .c, c := .c, classes := [0, 1, 2] }

/-- Fields of the Cornice operations fsqrt, frsq, frcp (R316). -/
def cwFsqrt : CorniceUse := { d := .c, a := .c, classes := [0, 2] }

/-- Fields of the Cornice operations cvt (R316). -/
def cwCvt : CorniceUse := { d := .c, a := .c, immMask := 3 }

/-- Fields of the Cornice operations fscale (R316). -/
def cwFscale : CorniceUse := { d := .c, a := .c, immMask := 511 }

/-- Fields of the Cornice operations addi (R316). -/
def cwAddi : CorniceUse := { d := .x, a := .x, immMask := 511 }

/-- Fields of the Cornice operations ired (R316). -/
def cwIred : CorniceUse := { d := .c, a := .x, b := .x, immMask := 511 }

/-- Fields of the Cornice operations loop (R316). -/
def cwLoop : CorniceUse := { d := .x, immMask := 255 }

/-- Fields of the Cornice operations bnz (R316). -/
def cwBnz : CorniceUse := { a := .x, immMask := 255 }

/-- Fields of the Cornice operations wait (R316). -/
def cwWait : CorniceUse := { a := .b }

/-- The REASON with which an instruction's fields are refused, none where every field is legal (R313 steps 3 to 5; 0
where no word has those fields). The events are no words and have no field to refuse. `h` is true in a matrix stream. -/
def illegal (h : Bool) (i : Instr) : Option Nat :=
  match i with
  | .powerOn => none
  | .fundamentalReset => none
  | .thermalTrip => none
  | .startStepComplete _ => none
  | .startTimeout => none
  | .powerOverLimit _ _ _ => none
  | .temperatureOverLimit _ _ => none
  | .analoguePowerClamp _ => none
  | .pcieConfigRequest => none
  | .bar0RegisterWrite _ _ _ => none
  | .bar2HostRead _ _ => none
  | .bar2HostWrite _ _ => none
  | .hostFetchadd _ _ => none
  | .hostLock _ => none
  | .linkEmit _ => none
  | .pwrLimit _ => none
  | .ctxCreate _ => none
  | .ctxDestroy _ => none
  | .bootReqWarm => none
  | .bootReqCold => none
  | .firmwareUpdate _ => none
  | .firmwareUpdateComplete _ => none
  | .attestationRequest _ => none
  | .attestationComplete => none
  | .preReqHold _ => none
  | .preReqRelease _ => none
  | .hostSemaphoreAdd _ _ => none
  | .errorInject _ => none
  | .fabPortEnable _ _ => none
  | .fabPortDisable _ _ => none
  | .fabPortRetrain _ _ => none
  | .fabRouteWrite _ _ => none
  | .portTrainingComplete _ _ _ => none
  | .laneTrainTimeout _ _ => none
  | .flitReceive _ _ => none
  | .replayRequest _ _ => none
  | .laneReplayLimit _ _ => none
  | .opticalEngineFailure _ => none
  | .fabricInboundRequest _ _ => none
  | .fabricResponse _ _ _ => none
  | .routeChangeApply _ => none
  | .portDrainComplete _ => none
  | .queueWake _ _ => none
  | .queueDescriptorRun _ _ => none
  | .packetDequeue _ _ => none
  | .nodeCapture _ _ => none
  | .packetStart _ => none
  | .launch _ => none
  | .copyPlain _ => none
  | .copyTranspose _ => none
  | .copyCompress _ => none
  | .copyDecompress _ => none
  | .copyConvert _ => none
  | .copyRepack _ => none
  | .copyMigrate _ => none
  | .copyChain _ => none
  | .sort _ => none
  | .collAllReduce _ => none
  | .collReduceScatter _ => none
  | .collAllGather _ => none
  | .collBroadcast _ => none
  | .collOrderedComposite _ => none
  | .nearLoadprog _ => none
  | .nearRun _ => none
  | .nearIreduce _ => none
  | .signal _ => none
  | .await _ => none
  | .nop _ => none
  | .commandComplete _ => none
  | .corniceTransferComplete _ _ => none
  | .corniceStepLimit _ => none
  | .workgroupPlace _ => none
  | .workgroupRestore _ => none
  | .operatingPointStable _ => none
  | .hangLimit _ _ => none
  | .helmHangLimit _ => none
  | .backwardBranchYield _ _ => none
  | .napExpire _ _ => none
  | .spawnBinCountdown _ _ => none
  | .spawnGroupStart _ _ => none
  | .ticketRelease _ => none
  | .longLatencyFill _ => none
  | .asyncOperationComplete _ => none
  | .mapFillComplete _ _ => none
  | .mapWriteback _ _ => none
  | .translationFenceComplete _ => none
  | .l2Writeback _ _ => none
  | .repackService _ => none
  | .hotnessSample _ _ => none
  | .matrixAccept _ => none
  | .matrixStart _ => none
  | .matrixToken _ => none
  | .matrixTokenTimeout _ => none
  | .helmTrapDelivery _ => none
  | .faultRecordPost _ => none
  | .qpushSlotWrite _ => none
  | .add w => check32 useAdd .both h w
  | .add16 w => check16 h w false
  | .add64 w => check64 useAdd64 .both h w
  | .sub w => check32 useAdd .both h w
  | .sub16 w => check16 h w false
  | .sub64 w => check64 useAdd64 .both h w
  | .addc w => check32 useAdd .both h w
  | .addc64 w => check64 useAddc64 .both h w
  | .subc w => check32 useAdd .both h w
  | .subc64 w => check64 useAddc64 .both h w
  | .adds w => check32 useAdds .both h w
  | .adds64 w => check64 useAdds64 .both h w
  | .subs w => check32 useAdds .both h w
  | .subs64 w => check64 useAdds64 .both h w
  | .neg w => check32 useNeg .both h w
  | .neg64 w => check64 useNeg64 .both h w
  | .abs w => check32 useNeg .both h w
  | .abs64 w => check64 useNeg64 .both h w
  | .mul w => check32 useMul .both h w
  | .mul64 w => check64 useMul .both h w
  | .mulhS w => check32 useMulhS .both h w
  | .mulhS64 w => check64 useMulhS .both h w
  | .mad w => check32 useMul .both h w
  | .mad64 w => check64 useMad64 .both h w
  | .idotS w => check32 useMulhS .both h w
  | .idotS64 w => check64 useIdotS64 .both h w
  | .rnd w => check32 useMul .both h w
  | .rnd64 w => check64 useMul .both h w
  | .mulhU w => check32 useMulhS .both h w
  | .mulhU64 w => check64 useMulhS .both h w
  | .idotU w => check32 useMulhS .both h w
  | .idotU64 w => check64 useIdotS64 .both h w
  | .min w => check32 useAdds .both h w
  | .min16 w => check16 h w false
  | .min64 w => check64 useAdds64 .both h w
  | .max w => check32 useAdds .both h w
  | .max16 w => check16 h w false
  | .max64 w => check64 useAdds64 .both h w
  | .sel w => check64 useAddc64 .both h w
  | .mov w => check32 useNeg .both h w
  | .mov16 w => check16 h w (w == ⟨0, 0⟩)
  | .mov64 w => check64 useNeg64 .both h w
  | .lea w => check32 useLea .both h w
  | .lea64 w => check64 useLea .both h w
  | .cmp f w => funcOk f 5 (check32 useCmp .both h w)
  | .cmp64 f w => funcOk f 5 (check64 useCmp64 .both h w)
  | .and w => check32 useAdd .both h w
  | .and16 w => check16 h w false
  | .and64 w => check64 useAdd64 .both h w
  | .or w => check32 useAdd .both h w
  | .or16 w => check16 h w false
  | .or64 w => check64 useAdd64 .both h w
  | .xor w => check32 useAdd .both h w
  | .xor16 w => check16 h w false
  | .xor64 w => check64 useAdd64 .both h w
  | .not w => check32 useNeg .both h w
  | .not64 w => check64 useNeg64 .both h w
  | .andn w => check32 useAdd .both h w
  | .andn64 w => check64 useAdd64 .both h w
  | .shl w => check32 useAdd .both h w
  | .shl16 w => check16 h w false
  | .shl64 w => check64 useAdd64 .both h w
  | .shr w => check32 useAdd .both h w
  | .shr16 w => check16 h w false
  | .shr64 w => check64 useAdd64 .both h w
  | .sar w => check32 useAdd .both h w
  | .sar16 w => check16 h w false
  | .sar64 w => check64 useAdd64 .both h w
  | .rol w => check32 useAdd .both h w
  | .rol64 w => check64 useAdd64 .both h w
  | .clz w => check32 useNeg .both h w
  | .clz64 w => check64 useNeg64 .both h w
  | .ctz w => check32 useNeg .both h w
  | .ctz64 w => check64 useNeg64 .both h w
  | .popc w => check32 useNeg .both h w
  | .popc64 w => check64 useNeg64 .both h w
  | .brev w => check32 useNeg .both h w
  | .brev64 w => check64 useNeg64 .both h w
  | .bfe w => check32 useAdds .both h w
  | .bfe64 w => check64 useAdds64 .both h w
  | .bfi w => check32 useAdd .both h w
  | .bfi64 w => check64 useBfi64 .both h w
  | .perm w => check32 useAdd .both h w
  | .perm64 w => check64 usePerm64 .both h w
  | .movi m => firstBad [(m.t == 15, 3)]
  | .movi64 t w => check64 useMovi64 .both h w true (t != 15)
  | .bra _ => none
  | .bc _ _ _ => none
  | .jmpV w => check32 useJmpV .lane h w
  | .jmpV64 w => check64 useJmpV64 .lane h w
  | .jmpS w => check32 useJmpS .lane h w
  | .jmpS64 w => check64 useJmpS64 .lane h w
  | .call w => check32 useCall .lane h w
  | .call64 w => check64 useCall64 .lane h w
  | .ret w => check32 useJmpV .lane h w
  | .ret64 w => check64 useJmpV64 .lane h w
  | .callRel _ _ => none
  | .exit w => check32 useExit .lane h w
  | .exit64 w => check64 useExit64 .lane h w
  | .yield w => check32 useExit .lane h w
  | .yield64 w => check64 useExit64 .lane h w
  | .nap _ => none
  | .nap64 w => check64 useNap64 .lane h w true (decide ((immNumOf w) ≤ 4095))
  | .trap _ => none
  | .trap64 w => check64 useNap64 .lane h w true (decide ((immNumOf w) ≤ 4095))
  | .spawn w => check32 useSpawn .lane h w true (decide (w.b.toNat ≤ 60))
  | .spawn64 w => check64 useSpawn64 .lane h w true (decide ((bNumOf w) ≤ 60))
  | .fadd w => check32 useMul .lane h w
  | .faddUniform w => check32 useMul .uniform h w
  | .fadd16 w => check16 h w false
  | .fadd64 w => check64 useFadd64 .both h w
  | .fsub w => check32 useMul .lane h w
  | .fsubUniform w => check32 useMul .uniform h w
  | .fsub16 w => check16 h w false
  | .fsub64 w => check64 useFadd64 .both h w
  | .fmul w => check32 useMulhS .lane h w
  | .fmulUniform w => check32 useMulhS .uniform h w
  | .fmul16 w => check16 h w false
  | .fmul64 w => check64 useFmul64 .both h w
  | .fma w => check32 useMulhS .lane h w
  | .fmaUniform w => check32 useMulhS .uniform h w
  | .fma64 w => check64 useIdotS64 .both h w
  | .fnma w => check32 useMulhS .lane h w
  | .fnmaUniform w => check32 useMulhS .uniform h w
  | .fnma64 w => check64 useIdotS64 .both h w
  | .fmin w => check32 useMul .lane h w
  | .fminUniform w => check32 useMul .uniform h w
  | .fmin16 w => check16 h w false
  | .fmin64 w => check64 useFadd64 .both h w
  | .fmax w => check32 useMul .lane h w
  | .fmaxUniform w => check32 useMul .uniform h w
  | .fmax16 w => check16 h w false
  | .fmax64 w => check64 useFadd64 .both h w
  | .fdot w => check32 useMulhS .lane h w
  | .fdotUniform w => check32 useMulhS .uniform h w
  | .fdot64 w => check64 useIdotS64 .both h w
  | .fabs w => check32 useNeg .lane h w
  | .fabsUniform w => check32 useNeg .uniform h w
  | .fabs64 w => check64 useNeg64 .both h w
  | .fneg w => check32 useNeg .lane h w
  | .fnegUniform w => check32 useNeg .uniform h w
  | .fneg64 w => check64 useNeg64 .both h w
  | .fclass w => check32 useNeg .lane h w
  | .fclassUniform w => check32 useNeg .uniform h w
  | .fclass64 w => check64 useNeg64 .both h w
  | .frnd w => check32 useFrnd .lane h w
  | .frndUniform w => check32 useFrnd .uniform h w
  | .frnd64 w => check64 useFrnd64 .both h w
  | .fscale w => check32 useAdd64 .lane h w
  | .fscaleUniform w => check32 useAdd64 .uniform h w
  | .fscale64 w => check64 useAdd64 .both h w
  | .hadd w => check32 useAdd64 .lane h w
  | .haddUniform w => check32 useAdd64 .uniform h w
  | .hadd64 w => check64 useAdd64 .both h w
  | .pack w => check32 useAdd64 .lane h w
  | .packUniform w => check32 useAdd64 .uniform h w
  | .pack64 w => check64 useAdd64 .both h w
  | .swz w => check32 useSwz .lane h w
  | .swzUniform w => check32 useSwz .uniform h w
  | .swz64 w => check64 useSwz64 .both h w (decide ((bNumOf w) < 64))
  | .fcmp _ w => check32 useFcmp .lane h w
  | .fcmpUniform _ w => check32 useFcmp .uniform h w
  | .fcmp64 _ w => check64 useFcmp .both h w
  | .specialFunction _ w => check32 useSpecialFunction .lane h w
  | .specialFunctionUniform _ w => check32 useSpecialFunction .uniform h w
  | .specialFunction64 _ w => check64 useSpecialFunction64 .both h w
  | .cvt t w => check32 useCvt .lane h w true (t != 15)
  | .cvtUniform t w => check32 useCvt .uniform h w true (t != 15)
  | .cvt64 t w => check64 useCvt64 .both h w (decide ((cNumOf w) < 2)) (t != 15)
  | .shfl f w => funcOk f 3 (check32 useAdd .lane h w)
  | .shfl64 f w => funcOk f 3 (check64 useAdd64 .lane h w)
  | .qswap w => check32 useQswap .lane h w
  | .qswap64 w => check64 useQswap .lane h w
  | .qddx w => check32 useNeg .lane h w
  | .qddx64 w => check64 useNeg64 .lane h w
  | .qddy w => check32 useNeg .lane h w
  | .qddy64 w => check64 useNeg64 .lane h w
  | .voteAny w => check32 useVoteAny .lane h w
  | .voteAny64 w => check64 useVoteAny64 .lane h w
  | .voteAll w => check32 useVoteAny .lane h w
  | .voteAll64 w => check64 useVoteAny64 .lane h w
  | .voteEq w => check32 useVoteAny .lane h w
  | .voteEq64 w => check64 useVoteAny64 .lane h w
  | .ballot w => check32 useBallot .lane h w
  | .ballot64 w => check64 useBallot64 .lane h w
  | .amask w => check32 useAmask .lane h w
  | .amask64 w => check64 useAmask64 .lane h w
  | .tos w => check32 useTos .lane h w
  | .tos64 w => check64 useTos64 .lane h w
  | .lred f w => funcOk f 5 (check32 useLred .lane h w)
  | .lred64 f w => funcOk f 5 (check64 useLred64 .lane h w)
  | .lscan f w => funcOk f 5 (check32 useFrnd .lane h w)
  | .lscan64 f w => funcOk f 5 (check64 useFrnd64 .lane h w)
  | .lredFloat f w => funcOk f 2 (check32 useNeg .lane h w)
  | .lredFloat64 f w => funcOk f 2 (check64 useNeg64 .lane h w)
  | .lscanFloat f w => funcOk f 2 (check32 useLscanFloat .lane h w)
  | .lscanFloat64 f w => funcOk f 2 (check64 useLscanFloat64 .lane h w)
  | .gkey w => check32 useAdd64 .lane h w
  | .gkey64 w => check64 useGkey64 .lane h w
  | .galpha w => check32 useMulhS .lane h w true (decide (w.b.toNat ≤ 62))
  | .galpha64 w => check64 useGalpha64 .lane h w true (pairOk h w.fsb (bNumOf w))
  | .gover w => check32 useNeg .lane h w true (decide (w.a.toNat ≤ 62) && decide (w.d.toNat ≤ 62))
  | .gover64 w => check64 useNeg64 .lane h w true (pairOk h w.fsa (aNumOf w) && pairOk h w.fsd (dNumOf w))
  | .gterm w => check32 useGterm .lane h w
  | .gterm64 w => check64 useGterm64 .lane h w
  | .smp f w => funcOk f 3 (check32 useSmp .lane h w true ((decide (f.toNat < 2) || decide (w.a.toNat ≤ 62))))
  | .smp64 f w => funcOk f 3 (check64 useSmp64 .lane h w true ((decide (f.toNat < 2) || pairOk h w.fsa (aNumOf w))))
  | .ld t m => firstBad [(!spaceOk m.p || (t == 3 && m.g == 3), 3)]
  | .ld64 p t w => check64 useLd64 .lane h w true (spaceOk p && !(t == 3 && w.so == 3) && (uniOkOf w))
  | .st m => firstBad [(m.g != 0, 1), (!spaceOk m.p, 3)]
  | .st64 p w => check64 useSt64 .lane h w true (spaceOk p && (uniOkOf w))
  | .ldsU m => firstBad [(!spaceOk m.p || m.g == 3, 3)]
  | .ldsU64 p w => check64 useLdsU64 .lane h w true (spaceOk p && (uniOkOf w))
  | .ldsS m => firstBad [(!spaceOk m.p || m.g == 3, 3)]
  | .ldsS64 p w => check64 useLdsU64 .lane h w true (spaceOk p && (uniOkOf w))
  | .sts m => firstBad [(!spaceOk m.p || m.g == 3, 3)]
  | .sts64 p w => check64 useSts64 .lane h w true (spaceOk p && (uniOkOf w))
  | .ldm p w => check64 useLdm64 .lane h w true (spaceOk p && (uniOkOf w) && (qBitsOf w) != 15 && (blockOkOf w))
  | .stm p w => check64 useStm64 .lane h w true (spaceOk p && (uniOkOf w) && (blockOkOf w))
  | .atom f w => check64 useAtom64 .lane h w ((!bitAt (qBitsOf w) 3 || f == 1 || f == 2)) (scopeOk ((qBitsOf w).setWidth 3) && (f != 7 || decide ((dNumOf w) < 63)))
  | .red f w => funcOk f 5 (check64 useAtom64 .lane h w ((!bitAt (qBitsOf w) 3 || f == 1 || f == 2)) (scopeOk ((qBitsOf w).setWidth 3)))
  | .pub c => firstBad [(!scopeOk c, 3)]
  | .pub64 w => check64 usePub64 .lane h w (decide ((dNumOf w) < 8)) (scopeOk (BitVec.ofNat 3 (dNumOf w)))
  | .pull c => firstBad [(!scopeOk c, 3)]
  | .pull64 w => check64 usePub64 .lane h w (decide ((dNumOf w) < 8)) (scopeOk (BitVec.ofNat 3 (dNumOf w)))
  | .phase c => firstBad [(!scopeOk c, 3)]
  | .phase64 w => check64 usePub64 .lane h w (decide ((dNumOf w) < 8)) (scopeOk (BitVec.ofNat 3 (dNumOf w)))
  | .pref m => firstBad [(m.p != 5, 0), (m.g != 0 || m.d != 0, 1)]
  | .pref64 w => check64 usePref64 .lane h w
  | .barInit w => check32 useBarInit .lane h w
  | .barInit64 w => check64 useBarInit64 .lane h w
  | .barArrive w => check32 useBarArrive .lane h w
  | .barArrive64 w => check64 useBarArrive64 .lane h w
  | .barWait w => check32 useBarWait .lane h w
  | .barWait64 w => check64 useBarWait64 .lane h w
  | .barSync w => check32 useBarArrive .lane h w
  | .barSync64 w => check64 useBarArrive64 .lane h w
  | .wait f w => funcOk f 5 (check32 useWait .lane h w)
  | .wait64 f w => funcOk f 5 (check64 useWait64 .lane h w)
  | .cpy w => check32 useCpy .lane h w
  | .cpy64 w => check64 useCpy64 .lane h w true (decide ((dNumOf w) ≤ 64))
  | .xformTranspose w => check32 useCpy .lane h w
  | .xformTranspose64 w => check64 useCpy64 .lane h w true (decide ((dNumOf w) ≤ 64))
  | .xformCompress w => check32 useCpy .lane h w
  | .xformCompress64 w => check64 useCpy64 .lane h w true (decide ((dNumOf w) ≤ 64))
  | .xformDecompress w => check32 useCpy .lane h w
  | .xformDecompress64 w => check64 useCpy64 .lane h w true (decide ((dNumOf w) ≤ 64))
  | .xformConvert w => check32 useCpy .lane h w
  | .xformConvert64 w => check64 useCpy64 .lane h w true (decide ((dNumOf w) ≤ 64))
  | .xformRepack w => check32 useCpy .lane h w
  | .xformRepack64 w => check64 useCpy64 .lane h w true (decide ((dNumOf w) ≤ 64))
  | .xformMigrate w => check32 useCpy .lane h w
  | .xformMigrate64 w => check64 useCpy64 .lane h w true (decide ((dNumOf w) ≤ 64))
  | .gat w => check32 useGat .lane h w
  | .gat64 w => check64 useGat64 .lane h w true (decide ((dNumOf w) ≤ 64))
  | .sct w => check32 useSct .lane h w
  | .sct64 w => check64 useSct64 .lane h w
  | .srt w => check32 useSct .lane h w
  | .srt64 w => check64 useSct64 .lane h w
  | .coll w => check32 useSct .lane h w
  | .coll64 w => check64 useSct64 .lane h w
  | .qpush w => check32 useQpush .lane h w
  | .qpush64 w => check64 useQpush64 .lane h w
  | .cpyMap w => check32 useSct .lane h w
  | .cpyMap64 w => check64 useSct64 .lane h w
  | .cpyUnmap w => check32 useSct .lane h w
  | .cpyUnmap64 w => check64 useSct64 .lane h w
  | .semSignal w => check32 useSemSignal .lane h w
  | .semSignal64 w => check64 useSemSignal64 .lane h w
  | .semAwait w => check32 useSemSignal .lane h w
  | .semAwait64 w => check64 useSemSignal64 .lane h w
  | .semRead w => check32 useSemRead .lane h w
  | .semRead64 w => check64 useSemRead64 .lane h w
  | .wopen w => check32 useWopen .lane h w
  | .wopen64 w => check64 useWopen64 .lane h w
  | .wadv w => check32 useWadv .lane h w
  | .wadv64 w => check64 useWadv64 .lane h w
  | .wend w => check32 useWend .lane h w
  | .wend64 w => check64 useWend64 .lane h w
  | .wclose w => check32 useWclose .lane h w
  | .wclose64 w => check64 useWclose64 .lane h w
  | .wld w => check32 useWld .lane h w
  | .wld64 w => check64 useWld64 .lane h w
  | .wldLane w => check32 useWld .lane h w
  | .wldLane64 w => check64 useWld64 .lane h w
  | .chain w => check32 useGat .lane h w
  | .chain64 w => check64 useChain64 .lane h w true (decide ((dNumOf w) ≤ 64))
  | .nmq w => check32 useSct .lane h w
  | .nmq64 w => check64 useNmq64 .lane h w
  | .mzero w => check32 useMzero .lane h w
  | .mzero64 w => check64 useMzero64 .lane h w
  | .mma w => check64 useMma64 .lane h w true (codeOk w)
  | .mgat w => check64 useMma64 .lane h w true (decide ((aNumOf w) ≤ 62) && codeOk w)
  | .mld w => check32 useMld .lane h w
  | .mld64 w => check64 useMld64 .lane h w (w.fsb || !fbOf w)
  | .mst w => check32 useMst .lane h w
  | .mst64 w => check64 useMst64 .lane h w (w.fsb || !fbOf w)
  | .mfree w => check32 useMfree .lane h w
  | .mfree64 w => check64 useMfree64 .lane h w
  | .msc w => check32 useMsc .lane h w
  | .msc64 w => check64 useMsc64 .lane h w
  | .mscinv w => check32 useExit .lane h w
  | .mscinv64 w => check64 useMscinv64 .lane h w
  | .msave w => check32 useMsave .lane h w
  | .msave64 w => check64 useMsave64 .lane h w
  | .msaveOwn w => check32 useMsaveOwn .lane h w (bitAt w.so 0)
  | .msaveOwn64 w => check64 useMsaveOwn64 .lane h w (bitAt w.so 0)
  | .mrest w => check32 useMld .lane h w
  | .mrest64 w => check64 useMrest64 .lane h w
  | .rdsys _ _ => none
  | .rdsys64 w => check64 useRdsys64 .lane h w
  | .wrsys _ _ => none
  | .wrsys64 w => check64 useWrsys64 .lane h w
  | .eret w => check32 useExit .lane h w
  | .eret64 w => check64 useEret64 .lane h w
  | .park w => check32 useExit .lane h w
  | .park64 w => check64 useEret64 .lane h w
  | .resume w => check32 useSct .lane h w
  | .resume64 w => check64 useResume64 .lane h w
  | .kill w => check32 useSct .lane h w
  | .kill64 w => check64 useResume64 .lane h w
  | .tlbinvAll w => check32 useTlbinvAll .lane h w (!bitAt w.so 0)
  | .tlbinvAll64 w => check64 useTlbinvAll64 .lane h w (!bitAt w.so 0)
  | .tlbinvVa w => check32 useTlbinvVa .lane h w (bitAt w.so 0)
  | .tlbinvVa64 w => check64 useTlbinvVa64 .lane h w (bitAt w.so 0)
  | .halt w => check32 useExit .lane h w
  | .halt64 w => check64 useEret64 .lane h w
  | .extensionEscape _ _ _ => none
  | .extensionEscape64 _ _ _ => none
  | .corniceNop w => checkCornice cwNop w
  | .corniceRdrow w => checkCornice cwRdrow w
  | .corniceWrrow w => checkCornice cwWrrow w
  | .corniceCld w => checkCornice cwCld w
  | .corniceCst w => checkCornice cwCst w
  | .corniceFadd w => checkCornice cwFadd w
  | .corniceFsub w => checkCornice cwFadd w
  | .corniceFmul w => checkCornice cwFmul w
  | .corniceFma w => checkCornice cwFma w
  | .corniceFmax w => checkCornice cwFadd w
  | .corniceFmin w => checkCornice cwFadd w
  | .corniceFsqrt w => checkCornice cwFsqrt w
  | .corniceFrsq w => checkCornice cwFsqrt w
  | .corniceFrcp w => checkCornice cwFsqrt w
  | .corniceCvt w => checkCornice cwCvt w
  | .corniceFscale w => checkCornice cwFscale w
  | .corniceMovi w => firstBad [(w.a != 0 || decide (7 < w.d.toNat), 3)]
  | .corniceAddi w => checkCornice cwAddi w
  | .corniceIred w => checkCornice cwIred w
  | .corniceLoop w => checkCornice cwLoop w
  | .corniceBnz w => checkCornice cwBnz w
  | .corniceWait w => checkCornice cwWait w
  | .corniceSync w => checkCornice cwNop w
  | .corniceEnd w => checkCornice cwNop w
  | .powerLoss => none

end Sys2Proof.Machine
end

