-- ==== Sys2Proof/Machine/Sample.lean ====
section
/-! DEFINITION. The texture-sampling instructions `smp2` and `smp3` (R372 to R375). -/

namespace Sys2Proof.Machine

open Sys2Proof

/-! ## Coordinates (R372 to R374) -/

/-- An FP32 number in units of 2^−149; an infinity is none, with its sign, and a NaN counts as 0. -/
def coordUnits (x : Nat) : Except Bool Int :=
  match f32.decode x with
  | .num neg m e => .ok ((if neg then -1 else 1) * ((m * 2 ^ (e + 149).toNat : Nat) : Int))
  | .inf neg => .error neg
  | .nan _ _ => .ok 0

/-- An index clamped to 0 to EXT − 1. -/
def clampIndex (ext : Nat) (n : Int) : Nat := min n.toNat (ext - 1)

/-- The index that `near` takes in one dimension (R373). -/
def nearIndex (ext x : Nat) : Nat :=
  match coordUnits x with
  | .ok u => clampIndex ext (u / (2 ^ 149 : Nat))
  | .error neg => if neg then 0 else ext - 1

/-- The two indices and the weight, in units of 2^−16, that `lin` takes in one dimension (R374). The weight of an
infinite coordinate is not stated: `open'` is a free value (log entry 22). -/
def linIndex (ext x open' : Nat) : Nat × Nat × Nat :=
  let x := if (f32.decode x).isNaN then 0 else x
  match coordUnits (f32.subCodes x 0x3F000000).1 with
  | .ok y => (clampIndex ext (y / (2 ^ 149 : Nat)), clampIndex ext (y / (2 ^ 149 : Nat) + 1), (y % (2 ^ 149 : Nat)).toNat / 2 ^ 133)
  | .error neg => let i := if neg then 0 else ext - 1; (i, i, open' % 65536)

/-- term(ω, p) of R374, with ω in units of 2^−16. -/
def lerpTerm (w p : Nat) : Nat := if w = 0 then 0 else (f32.mulCodes 0 (f32.ofVal (.num false w (-16))).1 p).1

/-- lerp(p, q) of R374. -/
def lerpCodes (f p q : Nat) : Nat := (f32.addCodes (lerpTerm (65536 - f) p) (lerpTerm f q)).1

/-! ## The texels of a lane -/

/-- What a lane samples: its texel coordinates in the order in which the sums take them, and the weights. -/
structure SampleLane where
  lane : Nat
  texels : List (List Nat)
  weights : List Nat
  deriving DecidableEq, Repr

/-- The plan of a lane with coordinates `xs`, one for each dimension (R373, R374). -/
def samplePlan (l : Layout) (lin : Bool) (lane : Nat) (xs opens : List Nat) : SampleLane :=
  if !lin then
    { lane := lane, texels := [(xs.zipIdx).map (fun x => nearIndex (l.extAt x.2) x.1)], weights := [] }
  else
    let d := (xs.zipIdx).map (fun x => linIndex (l.extAt x.2) x.1 (opens.getD x.2 0))
    let rows := d.foldl (fun (acc : List (List Nat)) (t : Nat × Nat × Nat) =>
      acc.map (fun c => c ++ [t.1]) ++ acc.map (fun c => c ++ [t.2.1])) [[]]
    { lane := lane, texels := rows, weights := d.map (fun t => t.2.2) }

/-- The reads of a lane's texels (R211, R375). -/
def sampleReads (l : Layout) (p : SampleLane) : List LaneRead :=
  p.texels.map (fun c => { lane := p.lane, addr := (l.elem (c ++ [0, 0])).1, len := l.elemBytes })

/-- A texel's FP32 code: its Decode value, widened exactly (R373). -/
def texelCode (l : Layout) (c : List Nat) (bs : List Byte) : Nat :=
  let raw := if l.bits = 4 then (if (l.elem (c ++ [0, 0])).2 then ofLe bs / 16 else ofLe bs % 16) else ofLe bs
  match fmtElem l.fmt with
  | some (.fl f) => (f32.ofVal (f.decode raw)).1
  | _ => 0

/-- Neighbouring pairs of a list joined with one weight. -/
def lerpPairs (f : Nat) (l : List Nat) : List Nat :=
  match l with
  | p :: q :: t => lerpCodes f p q :: lerpPairs f t
  | _ => []

/-- The sample from the texels' codes: along u, then v, then w (R374). The texels are ordered with u fastest. -/
def sampleValue (weights codes : List Nat) : Nat := (weights.foldl (fun cs f => lerpPairs f cs) codes).headD 0

/-! ## Execution -/

/-- The limits of R372 on a record. -/
def sampleRecordOk (dims : Nat) (bs : List Byte) : Bool :=
  let l := Layout.ofBytes bs
  l.ok bs && l.ndim == dims && decide (5 ≤ l.fmt) && decide (l.fmt ≤ 10) && l.cmode == 0 && l.cvt == 0 && l.tier == 0 && l.aux == 0

/-- The registers with the coordinates. -/
def sampleCoords (f : Form) (three : Bool) : List Src := if three then [f.a, f.a.succ 1] else [f.a]

/-- A lane's coordinates. -/
def State.laneCoords (s : State) (f : Form) (three : Bool) (l : Nat) : List Nat :=
  ([elemAt 32 (s.srcBits l f.a) 0, elemAt 32 (s.srcBits l f.a) 1] : List Nat)
    ++ (if three then [elemAt 32 (s.srcBits l (f.a.succ 1)) 0] else [])

/-- The first FORMAT failure: A's registers are tagged F32X2; B's tag is free (R372). -/
def State.sampleFormat (s : State) (f : Form) (three : Bool) (lanes : List Nat) : Option Nat :=
  if lanes.any (fun l => (sampleCoords f three).any (fun x => s.srcTagOf l x != 7)) then some 0 else none

/-- Whether a fault is taken before another: an address fault before poison (R135), then the lower address (R375). -/
def AccFault.before (f g : AccFault) : Bool :=
  if (f.cause == 0x30) == (g.cause == 0x30) then decide (f.addr.toNat < g.addr.toNat) else g.cause == 0x30

/-- The fault of a lane's texels that is taken (R135, R375). -/
def lowestFault (fs : List (Nat × AccFault)) (l : Nat) : Option AccFault :=
  (fs.filter (fun f => f.1 == l)).foldl (fun (acc : Option AccFault) f =>
    match acc with
    | none => some f.2
    | some g => if f.2.before g then some f.2 else some g) none

/-- What one lane's sample does (R375): its register, or its trap; a helper lane faults with zero (R123). -/
def State.landSample (s : State) (f : Form) (l : Layout) (others : List Nat) (got : List (LaneRead × ReadOut)) (p : SampleLane) :
    State :=
  let mine := got.filter (fun g => g.1.lane == p.lane)
  match lowestFault (readFaults mine) p.lane with
  | some x =>
    if others.contains p.lane then s.deliver (s.laneKey p.lane f.d) true false 7 0 0
    else s.trapThread (s.curThread p.lane) x.cause s.curPc x.addr x.info
  | none =>
    let codes := (p.texels.zip mine).map (fun (t : List Nat × (LaneRead × ReadOut)) =>
      match t.2.2 with | .bytes b => texelCode l t.1 b | _ => 0)
    s.deliver (s.laneKey p.lane f.d) true false 7 (BitVec.ofNat 64 (sampleValue p.weights codes)) 0

/-- smp2 and smp3 (R372 to R375): F[1] chooses three dimensions, F[0] `lin`. -/
def State.sampleStep (s : State) (f : Form) (b : Src) (fn : Nat) : Out :=
  let three := fn / 2 % 2 == 1
  let lin := fn % 2 == 1
  let lanes := s.active f
  let others := s.activeHelpers f
  if lanes.isEmpty then .next s.advance
  else
    match s.sampleFormat f three lanes with
    | some o => .next (s.trapFormat lanes o)
    | none =>
      match s.checkFull lanes others ((sampleCoords f three).map (fun x => { opnd := 0, src := x }) ++ [{ opnd := 1, src := b }])
          [.lane f.d false] with
      | .trapped t => .next t
      | .blocked => .next s
      | .ok s =>
        match s.readRecord (s.srcBits 0 b) 64 64 with
        | (.wait, t) => .next t
        | (.fault x, t) => .next (t.trapLanes lanes x.cause s.curPc (fun _ => x.addr) (fun _ => x.info))
        | (.bytes bs, t) =>
          if !sampleRecordOk (if three then 3 else 2) bs then .next (t.trapAll lanes 0x01 (infoIllegal s.curLen false 3))
          else
            let l := Layout.ofBytes bs
            let plans := (lanes ++ others).map (fun x =>
              samplePlan l lin x (s.laneCoords f three x) ((List.range 3).map (fun i => Config.freeChoice (t.freeCount + 3 * x + i))))
            match ({ t with freeCount := t.freeCount + 96 }).laneReads .floor (plans.flatMap (sampleReads l)) with
            | (none, u) => .next u
            | (some got, u) => .next (plans.foldl (fun v p => v.landSample f l others got p) u.advance)

/-- smp (R372), 32-bit form. -/
def execSmp (fn : BitVec 3) (w : R32) (s : State) : Out := s.sampleStep (form32 w false false) (uniB w) fn.toNat
/-- smp (R372), 64-bit form. -/
def execSmp64 (fn : BitVec 3) (w : R64) (s : State) : Out := s.sampleStep (form64 w false) (form64 w false).b fn.toNat

end Sys2Proof.Machine
end

