-- ==== Sys2Proof/Machine/Splat.lean ====
section
/-! DEFINITION. The splat instructions (R367 to R371). -/

namespace Sys2Proof.Machine

open Sys2Proof

/-! ## What they compute -/

/-- The sortable form of an FP32 depth (R368). -/
def depthOrder (d : Nat) : Nat := if d / 2 ^ 31 % 2 = 0 then d ^^^ 0x80000000 else d ^^^ 0xFFFFFFFF

/-- The tile–depth key (R368). -/
def splatKey (tile depth : Word) : Word :=
  BitVec.ofNat 64 (elemAt 32 tile 0 * 2 ^ 32 + depthOrder (elemAt 32 depth 0))

/-- Minus a half of an FP32 code (R369): an exact scaling, rounded. -/
def minusHalf (q : Nat) : Nat × Word :=
  let v := f32.decode q
  if v.isNaN then ((f32.ofVal v.quiet).1, snan v) else f32.ofVal (v.flip.scale (-1))

/-- α of one splat at one pixel, with the flags of every rounding and invalid case (R369). -/
def splatAlpha (cls : Nat) (dx dy a b c o : Nat) : Nat × Word :=
  let m := fun x y => f32.mulCodes cls x y
  let p1a := m a dx
  let p1 := m p1a.1 dx
  let p2a := m c dy
  let p2 := m p2a.1 dy
  let p3a := m b dx
  let p3 := m p3a.1 dy
  let q := f32.addCodes p1.1 p2.1
  let h := minusHalf q.1
  let power := f32.subCodes h.1 p3.1
  let fl := p1a.2 ||| p1.2 ||| p2a.2 ||| p2.2 ||| p3a.2 ||| p3.2 ||| q.2 ||| h.2 ||| power.2
  let vp := f32.decode power.1
  if vp.isNaN || (FVal.num false 0 0).lt vp then (0, fl)
  else
    let e := m power.1 0x3FB8AA3B
    let g := f32.special 3 (if cls = 2 then 2 else 0) e.1
    let t := m o g.1
    let fl := fl ||| e.2 ||| g.2 ||| t.2
    if (f32.decode t.1).isNaN then (0, fl)
    else
      let al := f32.minCodes t.1 0x3F7F0000
      if (f32.decode al.1).lt (f32.decode 0x3B800000) then (0, fl ||| al.2) else (al.1, fl ||| al.2)

/-- One pixel blended: the accumulator ([R,G], [B,T]) and the colour ([r,g], [b,α]) to the new accumulator (R370). -/
def splatOver (rg bt crg cba : Word) : Word × Word × Word :=
  let w := f32.mulCodes 0 (elemAt 32 bt 1) (elemAt 32 cba 1)
  let ch := fun (acc col : Nat) =>
    let p := f32.mulCodes 0 w.1 col
    let r := f32.addCodes acc p.1
    (r.1, p.2 ||| r.2)
  let r := ch (elemAt 32 rg 0) (elemAt 32 crg 0)
  let g := ch (elemAt 32 rg 1) (elemAt 32 crg 1)
  let b := ch (elemAt 32 bt 0) (elemAt 32 cba 0)
  let t := f32.subCodes (elemAt 32 bt 1) w.1
  (ofElems 32 [r.1, g.1], ofElems 32 [b.1, t.1], w.2 ||| r.2 ||| g.2 ||| b.2 ||| t.2)

/-! ## The instructions -/

/-- The first of some operands whose tag is not F32X2 in a lane. -/
def State.notF32 (s : State) (l : Nat) (os : List Opnd) : Option Nat :=
  os.findSome? (fun o => if s.srcTagOf l o.src != 7 then some o.opnd else none)

/-- gkey (R368): A tagged I64 or I32X2, B tagged F32X2. -/
def State.runGkey (s : State) (f : Form) : Out :=
  s.runLanes f [{ opnd := 0, src := f.a }, { opnd := 1, src := f.b }] [f.dstSrc] false (fun l =>
    let t := s.srcTagOf l f.a
    if t.toNat ≠ 1 ∧ t.toNat ≠ 2 then .error 0
    else if s.srcTagOf l f.b != 7 then .error 1
    else .ok { writes := [(f.dstSrc, 1, splatKey (s.srcBits l f.a) (s.srcBits l f.b))], flags := 0 })

/-- gkey (R368), 32-bit form. -/
def execGkey (w : R32) (s : State) : Out := s.runGkey (form32 w false false)
/-- gkey (R368), 64-bit form. -/
def execGkey64 (w : R64) (s : State) : Out := s.runGkey (form64 w false)

/-- The operands of `galpha`: A, the pair B, and D. -/
def galphaSrcs (f : Form) : List Opnd :=
  [{ opnd := 0, src := f.a }, { opnd := 1, src := f.b }, { opnd := 1, src := f.b.succ 1 }, { opnd := 2, src := f.dstSrc }]

/-- galpha (R369). -/
def State.runGalpha (s : State) (f : Form) (cls : Nat) : Out :=
  s.runLanes f (galphaSrcs f) [f.dstSrc] true (fun l =>
    match s.notF32 l (galphaSrcs f) with
    | some e => .error e
    | none =>
      let a := s.srcBits l f.a
      let b := s.srcBits l f.b
      let c := s.srcBits l (f.b.succ 1)
      let r := splatAlpha cls (elemAt 32 a 0) (elemAt 32 a 1) (elemAt 32 b 0) (elemAt 32 b 1) (elemAt 32 c 0) (elemAt 32 c 1)
      .ok { writes := [(f.dstSrc, 7, ofElems 32 [elemAt 32 (s.srcBits l f.dstSrc) 0, r.1])], flags := r.2 })

/-- galpha (R369), 32-bit form. -/
def execGalpha (w : R32) (s : State) : Out := s.runGalpha (form32 w false false) w.so.toNat
/-- galpha (R369), 64-bit form. -/
def execGalpha64 (w : R64) (s : State) : Out := s.runGalpha (form64 w false) w.so.toNat

/-- The operands of `gover`: the pairs A and D. -/
def goverSrcs (f : Form) : List Opnd :=
  [{ opnd := 0, src := f.a }, { opnd := 0, src := f.a.succ 1 }, { opnd := 2, src := f.dstSrc }, { opnd := 2, src := f.dstSrc.succ 1 }]

/-- gover (R370). -/
def State.runGover (s : State) (f : Form) : Out :=
  s.runLanes f (goverSrcs f) [f.dstSrc, f.dstSrc.succ 1] false (fun l =>
    match s.notF32 l (goverSrcs f) with
    | some e => .error e
    | none =>
      let r := splatOver (s.srcBits l f.dstSrc) (s.srcBits l (f.dstSrc.succ 1)) (s.srcBits l f.a) (s.srcBits l (f.a.succ 1))
      .ok { writes := [(f.dstSrc, 7, r.1), (f.dstSrc.succ 1, 7, r.2.1)], flags := r.2.2 })

/-- gover (R370), 32-bit form. -/
def execGover (w : R32) (s : State) : Out := s.runGover (form32 w false false)
/-- gover (R370), 64-bit form. -/
def execGover64 (w : R64) (s : State) : Out := s.runGover (form64 w false)

/-- `gterm`: whether T is below 2^−13 (R371). -/
def predGterm : Pred :=
  { arity := 1, immVal := fun _ v => v
    check := fun tags => if tags.getD 0 0 = 7 then .ok () else .error 0
    eval := fun _ vs => ((f32.decode (elemAt 32 (vs.getD 0 0) 1)).lt (f32.decode 0x39000000), 0) }

/-- gterm (R371), 32-bit form. -/
def execGterm (w : R32) (s : State) : Out := s.runPred (form32 w false false) predGterm
/-- gterm (R371), 64-bit form. -/
def execGterm64 (w : R64) (s : State) : Out := s.runPred (form64 w false) predGterm

end Sys2Proof.Machine
end

