-- ==== Sys2Proof/Machine/System.lean ====
section
/-! DEFINITION. The system instructions: system registers (R413 to R417), leaving handlers and acting on parked threads
(R277 to R279, R418 to R420), translation fences (R421), saving and restoring tiles (R411), the extension escape (R281, R314). -/

namespace Sys2Proof.Machine

open Sys2Proof

/-! ## The register map (R413 to R416) -/

/-- Whether a register exists per thread. -/
def sysPerThread (n : Nat) : Bool := decide (7 ≤ n) && decide (n ≤ 10)

/-- Whether a number names a register. -/
def sysNamed (n : Nat) : Bool := decide (n ≤ 0x18) && n != 0x0F

/-- Whether a register is read only. -/
def sysReadOnly (n : Nat) : Bool := decide (n ≤ 4) || (decide (0x10 ≤ n) && n != 0x13)

/-- Whether a register needs privileged mode. -/
def sysPrivileged (n : Nat) : Bool := (decide (7 ≤ n) && decide (n ≤ 0x0E)) || n == 0x13

/-- ACC_LIVE as it reads (R415). -/
def Core.accLiveWord (c : Core) : Word :=
  BitVec.ofNat 64 ((~~~ c.tileFull).toNat * 65536 + c.tileTag.toNat * 256 + c.accLive.toNat)

/-- What a register reads in a lane (R413 to R416, R315). -/
def State.sysRead (s : State) (l n : Nat) : Word :=
  let g := s.curGroup
  let t := s.thread (s.curThread l)
  let c := s.coreOf g.wg
  let ctx := s.ctxOf g.wg
  match n with
  | 0x00 => BitVec.ofNat 64 c
  | 0x01 => BitVec.ofNat 64 (ridgeOfCore c)
  | 0x02 => BitVec.ofNat 64 (dieOfCore c)
  | 0x03 => BitVec.ofNat 64 ctx
  | 0x04 => (s.core c).cycles
  | 0x05 => (s.group g).flags
  | 0x06 => (s.group g).feAction.setWidth 64
  | 0x07 => t.trapCause.setWidth 64
  | 0x08 => t.trapPc
  | 0x09 => t.trapAddr
  | 0x0A => t.trapInfo
  | 0x0B => s.trapVec ctx
  | 0x0C => s.ptRoot ctx
  | 0x0D => (s.core c).accOwner.setWidth 64
  | 0x0E => (s.core c).accLiveWord
  | 0x10 => (s.helm g.wg).scaleBase
  | 0x11 => (s.helm g.wg).scaleOrg
  | 0x12 => (s.helm g.wg).scaleShift.setWidth 64
  | 0x13 => s.hotBase
  | 0x14 => BitVec.ofNat 64 ((if (s.launchOf g.wg).det then 1 else 0) + (if (s.wg g.wg).direct then 2 else 0))
  | 0x15 => 0x3F
  | _ => 0

/-- Bits of PT_ROOT and of HOT_BASE that hold a value (R192, R205). -/
def ptRootMask : Word := 0x000FFFFFFFFFF300
def hotBaseMask : Word := 0x0000007FFFE00001

/-- PT_ROOT replaced: translations under the old value stay in use until a fence (R417). -/
def Context.setRoot (c : Context) (v : Word) (seq : Nat) : Context :=
  { c with ptRoot := v &&& ptRootMask, oldRoots := (c.ptRoot, seq) :: c.oldRoots }

/-- A register written in a lane (R417). -/
def State.sysWrite (s : State) (l n : Nat) (v : Word) : State :=
  let g := s.curGroup
  let i := s.curThread l
  let t := s.thread i
  let c := s.coreOf g.wg
  let ctx := s.ctxOf g.wg
  match n with
  | 0x05 => s.setGroup g { s.group g with flags := v &&& 0x1F }
  | 0x06 => s.setGroup g { s.group g with feAction := v.setWidth 2 }
  | 0x07 => s.setThread i { t with trapCause := v.setWidth 8 }
  | 0x08 => s.setThread i { t with trapPc := v &&& ~~~(1 : Word) }
  | 0x09 => s.setThread i { t with trapAddr := v }
  | 0x0A => s.setThread i { t with trapInfo := v }
  | 0x0B => { s with ctxs := FMap.modify s.ctxs ctx (fun x => { x with trapVec := v &&& ~~~(1 : Word) }) }
  | 0x0C => { s with ctxs := FMap.modify s.ctxs ctx (fun x => x.setRoot v s.writeSeq) }
  | 0x0D => s.setCore c { s.core c with accOwner := v.setWidth 16 }
  | 0x0E => s.setCore c { s.core c with accLive := v.setWidth 8 }
  | 0x13 => { s with hotBase := v &&& hotBaseMask }
  | _ => s

/-- Whether an access to FLAGS must wait for results under way (R264). -/
def State.flagsWait (s : State) (n : Nat) : Bool := n == 5 && s.flagsPending s.curGroup

/-- Whether a write to ACC_OWNER or ACC_LIVE must wait for the Gauntlet (R415). -/
def State.accWait (s : State) (n : Nat) : Bool :=
  (n == 0x0D || n == 0x0E) && !(s.core (s.coreOf s.curGroup.wg)).latches.isEmpty

/-- The checks of a system register's number and of privilege (R311, R413). -/
def State.sysCheck (s : State) (write : Bool) (n : Nat) (go : Out) : Out :=
  if !sysNamed n || (write && sysReadOnly n) then .next (s.trapIllegal 3)
  else if sysPrivileged n && !s.allPriv then .next (s.trapIllegal 4)
  else go

/-- rdsys (R417): `d` is its destination. -/
def State.rdsysStep (s : State) (f : Form) (n : Nat) (d : Src) : Out :=
  s.sysCheck false n
    (let lanes := s.active f
     if lanes.isEmpty then .next s.advance
     else
       match s.checkFull lanes (if d.isUni then [] else s.activeHelpers f) [] [d] with
       | .trapped t => .next t
       | .blocked => .next s
       | .ok s =>
         if s.flagsWait n then .next s
         else
           let into := if d.isUni then lanes.take 1 else lanes ++ s.activeHelpers f
           .next (into.foldl (fun t l => match s.srcKey l d with
             | some k => t.putReg k 1 (s.sysRead l n)
             | none => t) s).advance)

/-- wrsys (R417): `a` is its source. -/
def State.wrsysStep (s : State) (f : Form) (n : Nat) (a : Src) : Out :=
  s.sysCheck true n
    (let lanes := s.active f
     if lanes.isEmpty then .next s.advance
     else
       match s.checkFull lanes [] [{ opnd := 0, src := a }] [] with
       | .trapped t => .next t
       | .blocked => .next s
       | .ok s =>
         if s.flagsWait n then .next s
         else if s.accWait n then .next (s.waitAt .gauntlet)
         else
           let into := if sysPerThread n then lanes else (lanes.reverse).take 1
           .next (into.foldl (fun t l => t.sysWrite l n (s.srcBits l a)) s).advance)

/-- rdsys (R417), 32-bit form. -/
def execRdsys (num d : BitVec 6) (s : State) : Out := s.rdsysStep formNone num.toNat (.uni d.toNat false)
/-- rdsys (R417), 64-bit form. -/
def execRdsys64 (w : R64) (s : State) : Out := s.rdsysStep (form64 w false) (immCode w) (form64 w false).dstSrc
/-- wrsys (R417), 32-bit form. -/
def execWrsys (num a : BitVec 6) (s : State) : Out := s.wrsysStep formNone num.toNat (.uni a.toNat false)
/-- wrsys (R417), 64-bit form. -/
def execWrsys64 (w : R64) (s : State) : Out := s.wrsysStep (form64 w false) (immCode w) (form64 w false).a

/-! ## eret, park, halt (R277, R279, R418, R420) -/

/-- Whether every thread of the bundle is in its handler (R313, R418). -/
def State.allInHandler (s : State) : Bool := s.curLanes.all (fun l => (s.thread (s.curThread l)).inHandler)

/-- eret (R277). -/
def State.eretStep (s : State) (f : Form) : Out :=
  if !s.allInHandler then .next (s.trapIllegal 4)
  else .next ((s.active f).foldl (fun t l => t.returnThread (s.curThread l)) s.advance)

/-- One thread parked by its handler, with its record (R279, R418). -/
def State.parkOne (s : State) (t : ThreadId) : State :=
  let x := s.thread t
  let s := s.parkThread t .byPark
  s.postFault (s.ctxOf t.wg)
    (s.threadRec t x.trapCause.toNat 0 (x.trapInfo.toNat % 2 ^ 32) x.trapAddr x.trapPc (s.handleOf t) 0)

/-- park (R279, R418). -/
def State.parkStep (s : State) (f : Form) : Out :=
  if !s.allInHandler then .next (s.trapIllegal 4)
  else .next ((s.active f).foldl (fun t l => t.parkOne (s.curThread l)) s.advance)

/-- One thread halted, with its record (R420). -/
def State.haltOne (s : State) (t : ThreadId) : State :=
  let s := s.parkThread t .byHalt
  s.postFault (s.ctxOf t.wg) (s.threadRec t 0x24 0 0 0 (s.thread t).pc (s.handleOf t) 0)

/-- halt (R420). -/
def State.haltStep (s : State) (f : Form) : Out :=
  if !s.allPriv then .next (s.trapIllegal 4)
  else .next ((s.active f).foldl (fun t l => t.haltOne (s.curThread l)) s.advance)

/-- eret (R277), 32-bit form. -/
def execEret (w : R32) (s : State) : Out := s.eretStep { formNone with uniform := w.u }
/-- eret (R277), 64-bit form. -/
def execEret64 (w : R64) (s : State) : Out := s.eretStep (form64 w false)
/-- park (R279), 32-bit form. -/
def execPark (w : R32) (s : State) : Out := s.parkStep { formNone with uniform := w.u }
/-- park (R279), 64-bit form. -/
def execPark64 (w : R64) (s : State) : Out := s.parkStep (form64 w false)
/-- halt (R420), 32-bit form. -/
def execHalt (w : R32) (s : State) : Out := s.haltStep { formNone with uniform := w.u }
/-- halt (R420), 64-bit form. -/
def execHalt64 (w : R64) (s : State) : Out := s.haltStep (form64 w false)

/-! ## resume and kill (R419) -/

/-- The parked thread of a context that a handle names. -/
def State.parkedBy (s : State) (ctx : Nat) (h : Word) : Option ThreadId :=
  (s.threads.find? (fun e => e.2.live && e.2.park != .running && s.ctxOf e.1.wg == ctx && s.handleOf e.1 == h)).map (·.1)

/-- A parked thread made runnable: as if by `eret` where its handler parked it, else where it stands (R278, R279, R420). -/
def State.resumeThread (s : State) (t : ThreadId) : State :=
  match (s.thread t).park with
  | .byPark => s.returnThread t
  | _ => s.setThread t { s.thread t with park := .running }

/-- A privileged instruction of the bundle that reads s registers (R130, R412). -/
def State.privUni (s : State) (srcs : List Opnd) (go : State → Out) : Out :=
  if !s.allPriv then .next (s.trapIllegal 4)
  else match s.checkFull s.curLanes [] srcs [] with
    | .trapped t => .next t
    | .blocked => .next s
    | .ok s => go s

/-- resume (R419). -/
def State.resumeStep (s : State) (a : Src) : Out :=
  s.privUni [{ opnd := 0, src := a }]
    (fun s =>
     match s.parkedBy (s.ctxOf s.curGroup.wg) (s.srcBits 0 a) with
     | some t => .next (s.advance.resumeThread t)
     | none => .next s.advance)

/-- kill (R419): a parked thread, or the issuing thread by its own handle. -/
def State.killStep (s : State) (a : Src) : Out :=
  s.privUni [{ opnd := 0, src := a }]
    (fun s =>
     let h := s.srcBits 0 a
     let own := (s.curLanes.map s.curThread).find? (fun t => (s.thread t).handle != 0 && s.handleOf t == h)
     match s.parkedBy (s.ctxOf s.curGroup.wg) h, own with
     | some t, _ => .next (s.advance.killThread t)
     | none, some t => .next (s.advance.killThread t)
     | none, none => .next s.advance)

/-- resume (R419), 32-bit form. -/
def execResume (w : R32) (s : State) : Out := s.resumeStep (uniA w)
/-- resume (R419), 64-bit form. -/
def execResume64 (w : R64) (s : State) : Out := s.resumeStep (form64 w false).a
/-- kill (R419), 32-bit form. -/
def execKill (w : R32) (s : State) : Out := s.killStep (uniA w)
/-- kill (R419), 64-bit form. -/
def execKill64 (w : R64) (s : State) : Out := s.killStep (form64 w false).a

/-! ## tlbinv (R421) -/

/-- What the bundle's lowest lane waits at. -/
def State.curWait (s : State) : Wait := (s.thread (s.curThread (s.curLanes.headD 0))).wait

/-- A translation fence begun, under the next free number (R201). -/
def State.startFence (s : State) (ctx : Nat) (va : Option Nat) : State :=
  { s with fences := s.fences ++ [{ id := s.nextId, ctx := ctx, va := va }], nextId := s.nextId + 1 }

/-- tlbinv (R421): a fence is begun and awaited; the instruction goes on when it has completed. -/
def State.tlbinvStep (s : State) (a : Option Src) (b : Src) : Out :=
  s.privUni ((match a with | some x => [{ opnd := 0, src := x }] | none => []) ++ [{ opnd := 1, src := b }])
    (fun s =>
     let va := a.map (fun x => (s.srcBits 0 x).toNat)
     let ctx := (s.srcBits 0 b).toNat
     match s.curWait with
     | .fence id => if s.fences.any (fun f => f.id == id) then .next s else .next s.advance
     | _ =>
       if (match va with | some x => decide (2 ^ 57 ≤ x) | none => false) then .next (s.trapIllegal 3)
       else if (FMap.find s.ctxs ctx).isNone then .next s.advance
       else .next ((s.startFence ctx va).waitAt (.fence s.nextId)))

/-- tlbinv.all (R421), 32-bit form. -/
def execTlbinvAll (w : R32) (s : State) : Out := s.tlbinvStep none (uniB w)
/-- tlbinv.all (R421), 64-bit form. -/
def execTlbinvAll64 (w : R64) (s : State) : Out := s.tlbinvStep none (form64 w false).b
/-- tlbinv.va (R421), 32-bit form. -/
def execTlbinvVa (w : R32) (s : State) : Out := s.tlbinvStep (some (uniA w)) (uniB w)
/-- tlbinv.va (R421), 64-bit form. -/
def execTlbinvVa64 (w : R64) (s : State) : Out := s.tlbinvStep (some (form64 w false).a) (form64 w false).b

/-! ## msave and mrest (R411) -/

/-- The 512 aligned words of a tile at an address. -/
def tileWords (a : Word) : List Word := (List.range 512).map (fun i => a + BitVec.ofNat 64 (8 * i))

/-- All words of a tile's area resolved, or the fault of the lowest that faults (R411). -/
def State.resolveTile (s : State) (r : Req) (space : Nat) (k : AccKind) (ws : List Word) : Except AccFault (List Spot) × State :=
  match ws with
  | [] => (.ok [], s)
  | a :: t =>
    match s.resolve r space a 8 k with
    | (.error f, s') => (.error f, s')
    | (.ok p, s') =>
      match s'.resolveTile r space k t with
      | (.ok ps, s'') => (.ok (p :: ps), s'')
      | e => e

/-- A fault of the bundle's access to a tile's area: every active lane traps. -/
def State.trapTile (s : State) (f : AccFault) : State := s.trapRecord f

/-- The stored bits of a tile as 8-byte writes (R411). -/
def State.tileOps (s : State) (c t : Nat) : List WriteOp :=
  (List.range 512).map (fun i =>
    if (s.core c).tileIsBad t then .poisoned 8 else .store (s.bytesAt (tileAt c t + 8 * i) 8))

/-- Writes of the fabric that a group still awaits below a request number. -/
def State.fabricOwed (s : State) (g : GroupId) (below : Nat) : Bool :=
  s.fabReqs.any (fun q => q.op.isSome && !q.answered && q.who == .group g.wg g.grp && decide (q.id < below))

/-- msave to an address in a space (R411): the tile full, its area checked, then its words stored. -/
def State.msaveTo (s : State) (t : Nat) (r : Req) (space : Nat) (a : Word) : Out :=
  let c := s.coreOf s.curGroup.wg
  match s.curWait with
  | .fabric n => if s.fabricOwed s.curGroup n then .next s else .next s.advance
  | _ =>
    if !(s.core c).tileIsFull t then
      (if bitAt s.feAction 0 then .next (s.trapAll s.curLanes 0x04 (infoOperand 3)) else .next s)
    else if s.pubPending s.curGroup then .next s
    else if a.toNat % 128 ≠ 0 then .next (s.trapTile (faultAlign r .write (genericAddr space a)))
    else match s.resolveTile r space .write (tileWords a) with
      | (.error f, u) => .next (u.trapTile f)
      | (.ok ps, u) =>
        match prepAll u (ps.map (fun (p : Spot) v => match p.loc with | .flat x => v.prepLine r x | _ => (.ready, v))) with
        | (.ready, v) =>
          let v := v.checkTile c t r.ctx
          let w := (ps.zip (v.tileOps c t)).foldl (fun (x : State) (p : Spot × WriteOp) =>
            (x.touchSpot p.1 true).performLoc r.who none p.1.loc p.2) v
          if w.fabricOwed s.curGroup w.nextId then .next (w.waitAt (.fabric w.nextId)) else .next w.advance
        | (_, v) => .next v

/-- msave ad, [sa] (R411). -/
def State.msaveStep (s : State) (t : Nat) (a : Src) : Out :=
  s.privUni [{ opnd := 0, src := a }] (fun s => s.msaveTo t { s.bundleReq with lane := none } spGeneric (s.srcBits 0 a))

/-- msave.own ad (R112, R411): to the owner's area, through the owner's table. -/
def State.msaveOwnStep (s : State) (t : Nat) : Out :=
  if !s.allPriv then .next (s.trapIllegal 4)
  else
    let c := s.coreOf s.curGroup.wg
    let o := (s.core c).accOwner.toNat
    match FMap.find s.ctxs o with
    | none => .next (s.trapIllegal 3)
    | some x =>
      s.msaveTo t { s.bundleReq with lane := none, ctx := o } spGlobal (x.accSave + BitVec.ofNat 64 (32768 * c + 4096 * t))

/-- mrest ad, [sa] (R411): SO is the tag. -/
def State.mrestStep (s : State) (t so : Nat) (a : Src) : Out :=
  s.privUni [{ opnd := 0, src := a }]
    (fun s =>
     let c := s.coreOf s.curGroup.wg
     let r := { s.bundleReq with lane := none }
     let ad := s.srcBits 0 a
     if (s.core c).latches.any (fun l => l.op.tile == t) then .next s
     else if s.phasePending s.curGroup || s.recordHeld ad 4096 then .next s
     else if ad.toNat % 128 ≠ 0 then .next (s.trapTile (faultAlign r .read ad))
     else match s.resolveTile r spGeneric .read (tileWords ad) with
       | (.error f, u) => .next (u.trapTile f)
       | (.ok ps, u) =>
         match prepAll u (ps.map (fun p v => v.prepSpot r p 8 none)) with
         | (.ready, v) =>
           let got := v.takePieces r .floor ad ((List.range 512).map (fun i => (8 * i, 8)))
           let w := (got.2.2.dropAnswers r.who).setTile c t ((List.range 1024).map (fun i => fieldLe got.1.bytes (4 * i) 4)) got.1.bad
           .next (w.setCore c { w.core c with
             tileFull := putBit (w.core c).tileFull t true
             tileTag := putBit (w.core c).tileTag t (so == 1) }).advance
         | (_, v) => .next v)

/-- msave (R411), 32-bit form. -/
def execMsave (w : R32) (s : State) : Out := s.msaveStep (w.d.toNat % 8) (uniA w)
/-- msave (R411), 64-bit form. -/
def execMsave64 (w : R64) (s : State) : Out := s.msaveStep (d64 w % 8) (form64 w false).a
/-- msave.own (R411), 32-bit form. -/
def execMsaveOwn (w : R32) (s : State) : Out := s.msaveOwnStep (w.d.toNat % 8)
/-- msave.own (R411), 64-bit form. -/
def execMsaveOwn64 (w : R64) (s : State) : Out := s.msaveOwnStep (d64 w % 8)
/-- mrest (R411), 32-bit form. -/
def execMrest (w : R32) (s : State) : Out := s.mrestStep (w.d.toNat % 8) w.so.toNat (uniA w)
/-- mrest (R411), 64-bit form. -/
def execMrest64 (w : R64) (s : State) : Out := s.mrestStep (d64 w % 8) w.so.toNat (form64 w false).a

/-! ## The extension escape (R281, R314) -/

/-- The escape (R314): a selector of 0 is illegal; FEAT_B to FEAT_D read 0, so any other raises EMULATE. -/
def State.escapeStep (s : State) (sel : BitVec 2) : Out :=
  if sel = 0 then .next (s.trapIllegal 1) else .next s.trapEmulate

/-- The escape, 32-bit form. -/
def execExtensionEscape (_ : BitVec 15) (_ : BitVec 6) (f : BitVec 2) (s : State) : Out := s.escapeStep f
/-- The escape, 64-bit form. -/
def execExtensionEscape64 (_ : BitVec 47) (_ : BitVec 6) (f : BitVec 2) (s : State) : Out := s.escapeStep f

end Sys2Proof.Machine
end

