-- ==== Sys2Proof/Machine/Bundle.lean ====
section
/-! DEFINITION. Choosing the bundle of a group (R118 to R120), the hang limits (R93, R94), delivering a Helm's trap
(R280), and fetching an instruction (R292, R293). -/

namespace Sys2Proof.Machine

open Sys2Proof

/-! ## Waits (R119) -/

/-- Whether the share of a workgroup can take one more staged entry now (R101). -/
def State.shareOpen (s : State) (w : Nat) : Bool :=
  !s.stages w || !s.shareFull w || ((s.wg w).lin == (s.launchOf w).ticket && !(s.launchOf w).emitWait && !s.wgLogged w)

/-- Whether a wait is over, for a group of a workgroup or (`helm`) for its Helm. A nap ends by NAP_EXPIRE. -/
def State.waitOver (s : State) (g : GroupId) (helm : Bool) (w : Wait) : Bool :=
  match w with
  | .none => true
  | .barrier n p => (s.bar g.wg n).phase != p
  | .released _ => true
  | .counter c n => decide ((if helm then (s.helm g.wg).ctr.get c else (s.group g).ctr.get c).toNat ≤ n)
  | .semaphore i v => decide (v.toNat ≤ (s.sem i).toNat)
  | .nap _ _ => false
  | .spawnBin => decide ((s.core (s.coreOf g.wg)).bins.length < 16)
  | .staged => s.shareOpen g.wg
  | .fence id => !s.fences.any (fun f => f.id == id)
  | .fabric n => !s.fabricOwed g n
  | .gauntlet => (s.core (s.coreOf g.wg)).latches.isEmpty

/-! ## Bundles (R118 to R120) -/

/-- Whether a workgroup's threads and Helm may issue: it stands on a core and is not held for an operating point (R91). -/
def State.mayRun (s : State) (w : Nat) : Bool := s.boot.ready && (s.wg w).isResident && !(s.wg w).heldForPoint

/-- Whether a wait makes a waiting bundle, which the choice passes over (R119). A bundle that waits for its translation fence, for
its tiles' stores over the fabric or for the Gauntlet is blocked, and its group issues nothing. -/
def Wait.passedOver (w : Wait) : Bool :=
  match w with
  | .fence _ => false
  | .fabric _ => false
  | .gauntlet => false
  | _ => true

/-- The threads of a group that may issue: live, not parked, not waiting (R118, R119). -/
def State.issuable (s : State) (g : GroupId) : List ThreadId :=
  (s.liveOf g).filter (fun t => (s.thread t).park == .running && (!(s.thread t).wait.passedOver || s.waitOver g false (s.thread t).wait))

/-- The lowest PC of some threads above a bound. -/
def State.lowestPc (s : State) (ts : List ThreadId) (above : Option Word) : Option Nat :=
  leastNat ((ts.map (fun t => (s.thread t).pc.toNat)).filter (fun p => match above with | none => true | some b => decide (b.toNat < p)))

/-- The PC of the bundle that issues: the lowest above a bundle that yielded, which itself continues if there is none, or the lowest (R119,
R120, R344). -/
def State.bundlePc (s : State) (g : GroupId) : Option Nat :=
  let ts := s.issuable g
  match (s.group g).yieldAbove with
  | none => s.lowestPc ts none
  | some b =>
    match s.lowestPc ts (some b) with
    | some p => some p
    | none => if ts.any (fun t => (s.thread t).pc == b) then some b.toNat else s.lowestPc ts none

/-- The lanes of the bundle at a PC (R118). -/
def State.bundleLanes (s : State) (g : GroupId) (pc : Nat) : List Nat :=
  (List.range 32).filter (fun l => (s.issuable g).any (fun t => t.lane == l && (s.thread t).pc.toNat == pc))

/-- Whether the bundle at a PC is blocked at something that the choice does not pass over (R119). -/
def State.bundleBlocked (s : State) (g : GroupId) (pc : Nat) : Bool :=
  (s.bundleLanes g pc).any (fun l => !s.waitOver g false (s.thread { wg := g.wg, grp := g.grp, lane := l }).wait)

/-- The next issue goes above the bundle that has branched backward 64 times, if a bundle stands there (R120). -/
def State.yieldBackward (s : State) (g : GroupId) : State :=
  let x := s.group g
  s.setGroup g
    { x with
      backCount := 0
      yieldAbove := match s.lowestPc (s.issuable g) none with
        | some p => some (BitVec.ofNat 64 p)
        | none => none }

/-! ## Hang limits (R93, R94) -/

/-- Whether a thread has exceeded its launch's limit. -/
def State.threadHung (s : State) (t : ThreadId) : Bool :=
  let h := (s.launchOf t.wg).hang
  h != 0 && (s.thread t).live && (s.thread t).park == .running && decide (h < (s.thread t).hang)

/-- Whether a Helm has exceeded its launch's limit. -/
def State.helmHung (s : State) (w : Nat) : Bool :=
  let h := (s.launchOf w).hang
  h != 0 && (s.helm w).running && (s.helm w).trap.isNone && decide (h < (s.helm w).hang)

/-- The threads of a group over their limit trap with HANG at the instruction they stand at; their counters start
again, and what was read for an issue that was blocked is given up (R390). -/
def State.hangGroup (s : State) (g : GroupId) : State :=
  ((s.liveOf g).filter s.threadHung).foldl (fun v t =>
    (v.setThread t { v.thread t with hang := 0 }).trapThread t 0x23 (v.thread t).pc 0 0) (s.setGroup g { s.group g with recs := [] })

/-- A Helm over its limit stops with HANG (R94). -/
def State.hangHelm (s : State) (w : Nat) : State :=
  if s.helmHung w then
    (s.setHelm w { s.helm w with hang := 0 }).trapHelm w 0x23 (s.helm w).pc 1
  else s

/-! ## Delivering a Helm's trap (R94, R280) -/

/-- The thread that takes a Helm's trap: the lowest active thread of the lowest group that has one. -/
def State.helmTaker (s : State) (w : Nat) : Option ThreadId :=
  ((List.range ((s.wg w).nextGroup)).flatMap (fun g => (List.range 32).map (fun l => ({ wg := w, grp := g, lane := l } : ThreadId)))).find?
    (fun t => (s.thread t).live && (s.thread t).park == .running)

/-- A Helm's trap taken by its thread, with that thread's own resumption address in TRAP_PC. -/
def State.deliverHelm (s : State) (w : Nat) : State :=
  match (s.helm w).trap with
  | none => s
  | some h =>
    if h.taker.isSome then s
    else match s.helmTaker w with
      | none => s
      | some t =>
        (s.setHelm w { s.helm w with trap := some { h with taker := some t } }).trapThread t h.cause (s.thread t).pc h.addr h.info

/-! ## Fetching (R202, R292, R293) -/

/-- What a fetch brings: the parcels of an instruction as bits, lowest first, and its length; a fault; or a wait. -/
inductive Fetched where
  | word (w : Word) (len : Nat)
  | fault (f : AccFault)
  | wait

/-- A parcel at a resolved place. -/
def State.fetchSpot (s : State) (r : Req) (v : View) (p : Spot) (a : Word) : ReadOut × State :=
  match p.loc with
  | .peer m off c =>
    match s.findFab r.who r.thread none m off 2 with
    | none => (.wait, s.sendFab r.who r.thread none m off c 2)
    | some q =>
      if !q.answered then (.wait, s)
      else if q.poisoned then (.fault (faultPoison r .fetch a true 0 false), s)
      else (.bytes q.bytes, s)
  | _ =>
    match (s.touchSpot p false).readLoc r (p.view v) p.loc 2 with
    | (.bytes b, t) => (.bytes b, t)
    | (.poison c k own, t) => (.fault (faultPoison r .fetch a c k own), t)

/-- One parcel, fetched and translated on its own (R292), as an `.inv` load reads (R293). -/
def State.fetchParcel (s : State) (r : Req) (v : View) (a : Word) : ReadOut × State :=
  match s.resolve r spGlobal a 2 .fetch with
  | (.error f, t) => (.fault f, t)
  | (.ok p, t) => t.fetchSpot r v p a

/-- `n` parcels from an address on. -/
def State.fetchParcels (s : State) (r : Req) (v : View) (a : Word) (n : Nat) : ReadOut × State :=
  match n with
  | 0 => (.bytes [], s)
  | n + 1 =>
    match s.fetchParcel r v a with
    | (.bytes b, t) =>
      match t.fetchParcels r v (a + 2) n with
      | (.bytes bs, u) => (.bytes (b ++ bs), u)
      | o => o
    | o => o

/-- The requests of a fetch that have been answered are done with. -/
def State.dropFetch (s : State) (r : Req) : State :=
  { s with fabReqs := s.fabReqs.filter (fun q => !(q.who == r.who && q.thread == r.thread && q.op.isNone && q.answered && q.len == 2)) }

/-- The instruction at an address: its first parcel, then the rest of its length. -/
def State.fetch (s : State) (r : Req) (v : View) (a : Word) : Fetched × State :=
  match s.fetchParcel r v a with
  | (.wait, t) => (.wait, t)
  | (.fault f, t) => (.fault f, t.dropFetch r)
  | (.bytes b, t) =>
    let n := lengthOf (BitVec.ofNat 16 (ofLe b))
    match t.fetchParcels r v (a + 2) (n / 2 - 1) with
    | (.wait, u) => (.wait, u)
    | (.fault f, u) => (.fault f, u.dropFetch r)
    | (.bytes bs, u) => (.word (BitVec.ofNat 64 (ofLe (b ++ bs))) n, u.dropFetch r)

/-- The view under which a workgroup's code is read (R184, R293; log entry 9). -/
def State.codeView (s : State) (w : Nat) : View := .inv (s.launchOf w).startSeq

/-- A fetch fault: every thread of the bundle traps, or the Helm stops (R202, R246, R292). -/
def State.fetchTrap (s : State) (f : AccFault) : State :=
  if s.curHelm then s.trapHelm s.curGroup.wg f.cause f.addr f.info
  else s.trapLanes s.curLanes f.cause s.curPc (fun _ => f.addr) (fun _ => f.info)

end Sys2Proof.Machine
end

