-- ==== Sys2Proof/Machine/Queues.lean ====
section
/-! DEFINITION. Queues, packets and the node table (R57 to R81): descriptors, dequeue, the checks of a packet, bound fields,
release, start and rejection. -/

namespace Sys2Proof.Machine

open Sys2Proof

/-! ## The queue engine's accesses (R63, R203) -/

/-- Bytes read by a queue engine for a context, as a `pull sys` at that instant. -/
def State.devRead (s : State) (ctx : Nat) (a : Word) (n : Nat) : ReadOut × State := s.readRec (deviceReq ctx) .now spGlobal a n

/-- Where the queue engines and the other units of the device stand. -/
def devicePlace : Place := { who := .device, die := 2, wg := 0, launch := 0, set := 0 }

/-- Bytes written by a queue engine for a context and published at `sys` scope. -/
def State.devWrite (s : State) (ctx : Nat) (a : Word) (bs : List Byte) : WriteOut × State :=
  match s.writeRec (deviceReq ctx) a bs with
  | (.done, t) => (.done, t.pub .sys devicePlace)
  | o => o

/-- A record of a queue engine or of the graph (R283, SOURCE 3). -/
def queueRec (cause q index : Nat) (info addr detail : Word) : FaultRec :=
  faultRec cause 3 (info.toNat % 2 ^ 32) addr 0 0 0 0 0 q (BitVec.ofNat 64 index) detail

/-- A device write whose fault, if it meets one, is posted and that is not made again. -/
def State.devWriteOnce (s : State) (ctx q index : Nat) (a : Word) (bs : List Byte) : State :=
  match s.devWrite ctx a bs with
  | (.done, t) => t
  | (.wait, t) => t
  | (.fault f, t) => t.postFault ctx (queueRec f.cause.toNat q index f.info f.addr 0)

/-! ## Queues -/

def Queue.absent : Queue :=
  { ring := 0, widx := 0, ridx := 0, crec := 0, log2n := 6, maxclass := 0, vec := 0, qeng := 0, served := false, servedSeq := 0, everRun := false
    rindex := 0, head := none, awake := false }

def State.queue (s : State) (ctx q : Nat) : Queue := FMap.getD s.queues (ctx, q) Queue.absent
def State.setQueue (s : State) (ctx q : Nat) (x : Queue) : State := { s with queues := FMap.set s.queues (ctx, q) x }

/-- The slot of a packet index (R58). -/
def Queue.slot (x : Queue) (i : Nat) : Word := x.ring + BitVec.ofNat 64 (64 * (i % 2 ^ x.log2n))
/-- The completion record of a packet index (R58). -/
def Queue.record (x : Queue) (i : Nat) : Word := x.crec + BitVec.ofNat 64 (32 * (i % 2 ^ x.log2n))

/-- Whether the module serves queues and commands at all. -/
def State.serves (s : State) : Bool := s.boot.ready && !s.boot.recovery

/-- Whether a context exists and is not being destroyed. -/
def State.ctxLive (s : State) (ctx : Nat) : Bool := match FMap.find s.ctxs ctx with | some c => !c.dying | none => false

/-- A queue no longer served; a packet that waits at its head is given up (R57, R59). -/
def State.leaveQueue (s : State) (ctx q : Nat) : State :=
  let t := s.setQueue ctx q { s.queue ctx q with served := false, head := none, awake := false }
  match (s.queue ctx q).head with
  | some k => if (s.cmd k).phase = .atHead then t.setCmd k { s.cmd k with phase := .done } else t
  | none => t

/-- A descriptor's STATE set to STOPPED and its queue no longer served (R57, R81). -/
def State.stopQueue (s : State) (ctx q : Nat) : State :=
  let t := s.leaveQueue ctx q
  match t.devWrite ctx (t.descAddr ctx q + 33) [2] with
  | (_, u) => u

/-- A bad descriptor (R57). -/
def State.badDesc (s : State) (ctx q : Nat) : State := (s.stopQueue ctx q).postFault ctx (queueRec 0x101 q 0 0 0 0)

/-- The value of a descriptor's STATE byte before it last changed, if a write tells it (R59). -/
def State.stateBefore (s : State) (ctx q : Nat) : Option Nat :=
  match s.resolve (deviceReq ctx) spGlobal (s.descAddr ctx q + 33) 1 .read with
  | (.ok p, _) =>
    (match p.loc with
     | .flat a => ((s.hist.filter (fun e => e.addr == a && e.old != 1)).head?).map (fun e => e.old.toNat)
     | _ => none)
  | (.error _, _) => none

/-- Whether a descriptor's STATE still reads RUN. -/
def State.stillRuns (s : State) (ctx q : Nat) : Bool :=
  match s.devRead ctx (s.descAddr ctx q + 33) 1 with
  | (.bytes b, _) => ofLe b == 1
  | _ => true

/-- Whether a descriptor's STATE has left RUN since the engine began to serve its queue (R57, R59). -/
def State.leftRun (s : State) (ctx q : Nat) : Bool :=
  !s.stillRuns ctx q ||
    (match s.resolve (deviceReq ctx) spGlobal (s.descAddr ctx q + 33) 1 .read with
     | (.ok p, _) =>
       (match p.loc with
        | .flat a => s.hist.any (fun e => e.addr == a && e.old != 1 && decide ((s.queue ctx q).servedSeq < e.seq))
        | _ => false)
     | (.error _, _) => false)

/-- The engine begins to serve a queue (R59): its index from the read-index word, or kept after STOPPED. -/
def State.serveQueue (s : State) (ctx q : Nat) (d : QDesc) (keep : Bool) : State :=
  let x : Queue := { s.queue ctx q with
    ring := d.ring, widx := d.widx, ridx := d.ridx, crec := d.crec, log2n := d.log2n, maxclass := BitVec.ofNat 2 d.maxclass
    vec := d.vec, qeng := d.qeng, served := true, servedSeq := s.writeSeq, everRun := true, head := none, awake := true }
  if keep then (s.setQueue ctx q x).devWriteOnce ctx q x.rindex x.ridx (leBytes 8 x.rindex)
  else
    match s.devRead ctx d.ridx 8 with
    | (.bytes b, t) => t.setQueue ctx q { x with rindex := ofLe b }
    | (.wait, t) => t
    | (.fault _, t) => t.badDesc ctx q

/-- A descriptor looked at (R57): served if its STATE is RUN and it is in order. -/
def State.lookAtQueue (s : State) (ctx q : Nat) (fresh : Bool) : State :=
  match s.devRead ctx (s.descAddr ctx q) 64 with
  | (.wait, t) => t
  | (.fault _, t) => t.badDesc ctx q
  | (.bytes b, t) =>
    let d := QDesc.ofBytes b
    if d.state ≠ 1 then t
    else if !t.descOk ctx b then t.badDesc ctx q
    else t.serveQueue ctx q d (!fresh && (match t.stateBefore ctx q with
      | some old => old == 2
      | none => (t.queue ctx q).everRun))

/-- QUEUE_DESCRIPTOR_RUN (R57, R59): a descriptor's STATE has changed to RUN. -/
def execQueueDescriptorRun (ctx queue : Nat) (s : State) : Out :=
  if s.serves ∧ s.ctxLive ctx ∧ queue < s.queueCount ctx ∧ (!(s.queue ctx queue).served || s.leftRun ctx queue) then
    .next ((s.leaveQueue ctx queue).lookAtQueue ctx queue false)
  else .next s

/-- QUEUE_WAKE (R62): a write to a watched line wakes the engine. -/
def execQueueWake (ctx queue : Nat) (s : State) : Out :=
  if s.serves ∧ (s.queue ctx queue).served then .next (s.setQueue ctx queue { s.queue ctx queue with awake := true }) else .next s

/-! ## The header, the sync word, the body (R64 to R72) -/

def pktType (p : List Byte) : Nat := fieldLe p 0 1
def pktFlags (p : List Byte) : Nat := fieldLe p 1 1
def pktNode (p : List Byte) : Nat := fieldLe p 2 2
def pktSem (p : List Byte) : Nat := fieldLe p 4 2
def pktAwait (p : List Byte) : Bool := pktFlags p % 2 == 1
def pktSig (p : List Byte) : Bool := pktFlags p / 2 % 2 == 1
def pktRec (p : List Byte) : Bool := pktFlags p / 4 % 2 == 1
def pktIrq (p : List Byte) : Bool := pktFlags p / 8 % 2 == 1
def pktFence (p : List Byte) : Bool := pktFlags p / 16 % 2 == 1
def pktSync (p : List Byte) : Nat := fieldLe p 56 8
def pktSigSem (p : List Byte) : Nat := pktSync p / 2 ^ 52
def pktThresh (p : List Byte) : Nat := pktSync p % 2 ^ 48
def pktInd (p : List Byte) : Nat := fieldLe p 48 8

/-- Semaphores of a context (R76). -/
def State.semCount (s : State) (ctx : Nat) : Nat := match FMap.find s.ctxs ctx with | some c => c.semCount | none => 0
/-- Nodes of a context (R77). -/
def State.nodeCount (s : State) (ctx : Nat) : Nat := match FMap.find s.ctxs ctx with | some c => c.nodeCount | none => 0
/-- Staging shares reserved for a context on each die (R82). -/
def State.detResv (s : State) (ctx : Nat) : Nat := match FMap.find s.ctxs ctx with | some c => c.detResv | none => 0

/-- The limits of the header and the sync word, and of every semaphore index the packet names (R64, R65, R76). -/
def State.headerOk (s : State) (ctx : Nat) (p : List Byte) : Bool :=
  let n := s.semCount ctx
  decide (pktFlags p < 32) && zeroIn p 6 8
    && (if pktAwait p then decide (pktSem p < n) else pktSem p == 0 && pktThresh p == 0)
    && (if pktSig p then decide (pktSigSem p < n) else pktSigSem p == 0)
    && pktSync p / 2 ^ 48 % 16 == 0
    && (!(pktType p == 6 || pktType p == 7) || decide (fieldLe p 8 2 < n))

/-- A bound field (R73): its width in bits, its value in the packet, whether it is indirect. -/
structure BoundField where
  width : Nat
  value : Nat
  indirect : Bool
  deriving DecidableEq, Repr

/-- The bound fields of a packet in the order of j (R66 to R72). -/
def pktBound (p : List Byte) : List BoundField :=
  let ctl := fieldLe p 36 2
  match pktType p with
  | 1 => [⟨32, fieldLe p 24 4, bitAt (BitVec.ofNat 16 ctl) 3⟩, ⟨32, fieldLe p 28 4, bitAt (BitVec.ofNat 16 ctl) 4⟩,
          ⟨32, fieldLe p 32 4, bitAt (BitVec.ofNat 16 ctl) 5⟩]
  | 2 => [⟨32, fieldLe p 24 4, fieldLe p 29 1 % 2 == 1⟩]
  | 3 => [⟨32, fieldLe p 40 4, fieldLe p 32 1 / 2 % 2 == 1⟩, ⟨32, fieldLe p 44 4, fieldLe p 32 1 / 4 % 2 == 1⟩]
  | 4 => [⟨32, fieldLe p 32 4, fieldLe p 40 1 % 2 == 1⟩]
  | 5 => [⟨32, fieldLe p 40 4, fieldLe p 44 4 / 2 ^ 30 % 2 == 1⟩, ⟨30, fieldLe p 44 4 % 2 ^ 30, fieldLe p 44 4 / 2 ^ 31 == 1⟩]
  | 6 => [⟨64, fieldLe p 16 8, fieldLe p 24 1 % 2 == 1⟩]
  | 7 => [⟨64, fieldLe p 16 8, fieldLe p 24 1 % 2 == 1⟩]
  | _ => []

/-- Whether some bound field is indirect. -/
def pktIndirect (p : List Byte) : Bool := (pktBound p).any (fun b => b.indirect)

/-- The values that the packet itself gives; an indirect one stands as 0 until it is read. -/
def pktValues (p : List Byte) : List Nat := (pktBound p).map (fun b => if b.indirect then 0 else b.value)

/-- CTL of a LAUNCH (R66). -/
def launchDet (p : List Byte) : Bool := fieldLe p 36 2 / 2 ^ 15 == 1
def launchClass (p : List Byte) : Nat := fieldLe p 36 2 / 2 ^ 13 % 4
def launchOpp (p : List Byte) : Nat := fieldLe p 36 2 / 2 ^ 9 % 16
def launchRset (p : List Byte) : Nat := fieldLe p 36 2 / 2 ^ 6 % 8

/-- A record with a number put into it. -/
def putLe (bs : List Byte) (start n v : Nat) : List Byte := bs.take start ++ leBytes n v ++ bs.drop (start + n)

/-- The SORT body of bytes 8 to 47 with its bound fields. -/
def sortBody (p : List Byte) (vals : List Nat) : List Byte :=
  putLe (putLe ((p.drop 8).take 40) 32 4 (vals.getD 0 0)) 36 4 (vals.getD 1 0)

/-- The COLL body with its bound field. -/
def collBodyWith (body : List Byte) (vals : List Nat) : List Byte := putLe body 24 4 (vals.getD 0 0)

/-- The limits of a body by itself (R66 to R73). -/
def State.bodyOk (s : State) (ctx q : Nat) (p : List Byte) : Bool :=
  (if pktIndirect p then pktInd p % 8 == 0 else pktInd p == 0)
  && (match pktType p with
      | 1 => fieldLe p 8 8 % 64 == 0 && decide (fieldLe p 8 8 + 64 ≤ 2 ^ 57) && fieldLe p 36 2 % 8 == 0
          && decide ((s.queue ctx q).maxclass.toNat ≤ launchClass p) && (!launchDet p || s.detResv ctx != 0)
          && decide ((pktValues p).foldl (· * ·) 1 < 2 ^ 48)
      | 2 => fieldLe p 8 8 % 64 == 0 && fieldLe p 16 8 % 64 == 0 && decide (fieldLe p 28 1 ≤ 7) && fieldLe p 28 1 != 6
          && (fieldLe p 28 1 != 7 || fieldLe p 16 8 == 0) && decide (fieldLe p 29 1 ≤ 1) && zeroIn p 30 48
      | 3 => s.sortCheck (deviceReq ctx) true (sortBody p (pktValues p)) == .ok
      | 4 => decide (fieldLe p 40 1 ≤ 1) && collBodyOk (p.drop 8) && (CollBody.ofBytes (collBodyWith (p.drop 8) (pktValues p))).countOk
      | 5 => (fieldLe p 8 1 != 1 || zeroIn p 40 48) && nearRecOk ((p.drop 8).take 32) ((pktValues p).getD 0 0) ((pktValues p).getD 1 0)
      | 6 => zeroIn p 10 16 && decide (fieldLe p 24 1 ≤ 1) && zeroIn p 25 48
      | 7 => zeroIn p 10 16 && decide (fieldLe p 24 1 ≤ 1) && zeroIn p 25 48
      | 8 => zeroIn p 8 48
      | _ => false)

/-! ## The records that a packet's check reads (R80, R81, R208) -/

/-- The kernel descriptor (R67). -/
structure KDesc where
  entry : Word
  helm : Word
  threads : Nat
  bars : Nat
  lend : Nat
  scratch : Nat
  deriving DecidableEq, Repr

def KDesc.ofBytes (bs : List Byte) : KDesc :=
  { entry := BitVec.ofNat 64 (fieldLe bs 0 8), helm := BitVec.ofNat 64 (fieldLe bs 8 8), threads := fieldLe bs 16 2, bars := fieldLe bs 18 1
    lend := fieldLe bs 19 1, scratch := fieldLe bs 20 4 }

/-- The limits of R67. -/
def kdescOk (bs : List Byte) : Bool :=
  let k := KDesc.ofBytes bs
  k.entry.toNat % 2 == 0 && k.helm.toNat % 2 == 0 && decide (1 ≤ k.threads) && decide (k.threads ≤ 1024) && decide (k.bars ≤ 64)
    && decide (k.lend ≤ 3) && k.scratch % 128 == 0 && decide (k.scratch + 131072 * k.lend ≤ 524288) && zeroIn bs 24 64

/-- What stands in the list of records before any is read: the parts that the packet itself holds. -/
def pktFirstRecs (p : List Byte) : List (List Byte) :=
  match pktType p with
  | 4 => [(p.drop 8).take 40]
  | 5 => [(p.drop 8).take 32]
  | _ => []

/-- The record to read next. -/
def pktNextRec (p : List Byte) (recs : List (List Byte)) : NextRec :=
  match pktType p with
  | 1 => oneRecord (BitVec.ofNat 64 (fieldLe p 8 8)) 64 64 recs
  | 2 =>
    if fieldLe p 28 1 = 7 then (if recs = [[]] then .stop else chainRecords (BitVec.ofNat 64 (fieldLe p 8 8)) recs)
    else twoRecords (BitVec.ofNat 64 (fieldLe p 8 8)) (BitVec.ofNat 64 (fieldLe p 16 8)) 64 64 recs
  | 4 => collRecords 0 recs
  | 5 =>
    if recs.length ≠ 1 then .stop
    else match nearArgs (recs.headD []) with
      | some a => .get a 64 64
      | none => .skip
  | _ => .stop

/-- What the reading or checking of a packet comes to: its records, a rejection with its STATUS and DETAIL (free where the
spec states none), or a wait for another module. -/
inductive Verdict where
  | ok (recs : List (List Byte))
  | reject (status : Nat) (detail : Option Word)
  | wait

/-- A finding against a packet: the STATUS and the DETAIL that it gives (R80). -/
abbrev Finding := Nat × Option Word

/-- Of two findings the one with the lowest code, of equal ones the first (R80). -/
def lowestFinding (a b : Option Finding) : Option Finding :=
  match a, b with
  | some x, some y => if x.1 ≤ y.1 then a else b
  | none, _ => b
  | _, none => a

/-- What a poisoned or an untranslated read gives (R80). Where the poison is that of a page-table entry, DETAIL holds that entry's
physical address; a non-canonical address gives XLATE (log entry 61). -/
def readFinding (f : AccFault) : Finding := if f.cause = 0x30 then (0x107, some f.addr) else (0x104, none)

/-- What a faulting read of a record gives: like `readFinding`, but a non-canonical record address is a fault of the packet's own
fields (log entry 42). -/
def rejectFor (f : AccFault) : Finding := if f.cause = 0x06 then (0x102, none) else readFinding f

/-- Records read one after another for a packet's check; one that cannot be read stands empty, with the lowest finding beside
them; none where a read must wait. -/
def State.packetRecs (s : State) (ctx : Nat) (p : List Byte) (recs : List (List Byte)) (bad : Option Finding) (fuel : Nat) :
    Option (List (List Byte) × Option Finding) × State :=
  match fuel with
  | 0 => (some (recs, bad), s)
  | fuel + 1 =>
    match pktNextRec p recs with
    | .stop => (some (recs, bad), s)
    | .skip => s.packetRecs ctx p (recs ++ [[]]) bad fuel
    | .get a n align =>
      if a.toNat % align ≠ 0 then (some (recs, some (0x102, none)), s)
      else match s.devRead ctx a n with
        | (.bytes b, t) => t.packetRecs ctx p (recs ++ [b]) bad fuel
        | (.fault f, t) => t.packetRecs ctx p (recs ++ [[]]) (lowestFinding bad (some (rejectFor f))) fuel
        | (.wait, t) => (none, t)

/-- The limits of a packet together with its records and bound values (R66 to R72, R208). -/
def State.pktLimits (s : State) (ctx : Nat) (p : List Byte) (recs : List (List Byte)) (vals : List Nat) : Bool :=
  let r := deviceReq ctx
  match pktType p with
  | 1 => kdescOk (recs.getD 0 []) && decide (vals.foldl (· * ·) 1 < 2 ^ 48)
  | 2 =>
    if fieldLe p 28 1 = 7 then
      s.chainCheck r true (recs.getD 0 []) (recs.drop 1).dropLast (recs.getLastD []) (vals.getD 0 0) == .ok && decide (2 ≤ recs.length)
    else s.copyCheck r true (fieldLe p 28 1) (recs.getD 0 []) (recs.getD 1 []) (vals.getD 0 0) == .ok
  | 3 => s.sortCheck r true (sortBody p vals) == .ok
  | 4 => s.collCheck r true (collBodyWith (recs.getD 0 []) vals) (recs.getD 1 []) (recs.getD 2 []) == .ok
  | 5 => nearOk (recs.getD 0 []) (recs.getD 1 []) (vals.getD 0 0) (vals.getD 1 0)
  | _ => true

/-- The limits that the records which could be read keep or break by themselves (R80: the lowest code is reported). -/
def State.recsAlone (s : State) (ctx : Nat) (p : List Byte) (recs : List (List Byte)) : Bool :=
  let r := deviceReq ctx
  let one := fun (b : List Byte) => b.isEmpty || ((Layout.ofBytes b).ok b && s.layoutInside r true (Layout.ofBytes b))
  match pktType p with
  | 2 =>
    if fieldLe p 28 1 = 7 then (recs.headD []).isEmpty || (chainRecOk (recs.headD []) && (recs.drop 1).all one)
    else recs.all one
  | 4 => (recs.getD 1 []).isEmpty || s.collPairCheck r true (collBodyWith (recs.getD 0 []) (pktValues p)) (recs.getD 1 []) == .ok
  | _ => true

/-- The records of a packet read and checked with the values it gives itself. -/
def State.checkRecs (s : State) (ctx : Nat) (p : List Byte) : Verdict × State :=
  match s.packetRecs ctx p (pktFirstRecs p) none 8 with
  | (none, t) => (.wait, t)
  | (some (recs, none), t) => (if t.pktLimits ctx p recs (pktValues p) then .ok recs else .reject 0x102 none, t)
  | (some (recs, some (st, d)), t) => (if t.recsAlone ctx p recs then .reject st d else .reject 0x102 none, t)

/-! ## Completion records (R78 to R80) -/

/-- The 32 bytes of a completion record (R79). -/
def completionRec (status : BitVec 16) (ty node queue index : Nat) (detail result : Word) : List Byte :=
  leBytes 2 status.toNat ++ leBytes 1 ty ++ leBytes 1 0 ++ leBytes 2 node ++ leBytes 2 queue ++ leBytes 8 index
    ++ leBytes 8 detail.toNat ++ leBytes 8 result.toNat

/-- RESULT of a rejected packet: nothing has been run or moved; free for the types whose RESULT is a value. -/
def State.rejectResult (s : State) (ty : Nat) : Word × State :=
  if (1 ≤ ty ∧ ty ≤ 5) ∨ ty = 8 then (0, s) else s.free

/-- DETAIL of a rejected packet. -/
def State.rejectDetail (s : State) (d : Option Word) : Word × State :=
  match d with
  | some w => (w, s)
  | none => s.free

/-- The completion record of a rejected packet (R81 step 1). -/
def State.recordReject (s : State) (ctx q index : Nat) (p : List Byte) (status : Nat) (detail : Option Word) : State :=
  let x := s.queue ctx q
  let d := s.rejectDetail detail
  let r := d.2.rejectResult (pktType p)
  if x.crec = 0 then s
  else r.2.devWriteOnce ctx q index (x.record index) (completionRec (BitVec.ofNat 16 status) (pktType p) (pktNode p) q index d.1 r.1)

/-- The fault record of a rejected packet (R81 step 3, R284). -/
def State.postReject (s : State) (ctx q index status : Nat) : State :=
  s.postFault ctx (queueRec 0x102 q index 0 0 (BitVec.ofNat 64 status))

/-- A packet rejected at the head of its queue: the queue is stopped there (R81). -/
def State.rejectQueue (s : State) (ctx q index : Nat) (p : List Byte) (status : Nat) (detail : Option Word) : State :=
  ((s.recordReject ctx q index p status detail).stopQueue ctx q).postReject ctx q index status

/-! ## The node table (R77) -/

def State.nodeAddr (s : State) (ctx n : Nat) : Word :=
  match FMap.find s.ctxs ctx with
  | some c => c.ntab + BitVec.ofNat 64 (128 * n)
  | none => 0

def nodePend (e : List Byte) : Nat := fieldLe e 0 2
def nodeInit (e : List Byte) : Nat := fieldLe e 2 2
def nodeSucc (e : List Byte) (k : Nat) : Nat := fieldLe e (4 + 2 * k) 2
def nodeState (e : List Byte) : Nat := fieldLe e 16 1

/-- NSTATE of an entry written. -/
def State.setNodeState (s : State) (ctx q index n v : Nat) : State := s.devWriteOnce ctx q index (s.nodeAddr ctx n + 16) (leBytes 1 v)

/-- A packet rejected at its release (R81): its node is idle again and its queue goes on. -/
def State.rejectNode (s : State) (k status : Nat) (detail : Option Word) : State :=
  let c := s.cmd k
  let t := (s.recordReject c.ctx c.queue c.index c.bytes status detail).setNodeState c.ctx c.queue c.index c.node 0
  (t.postReject c.ctx c.queue c.index status).setCmd k { c with phase := .done }

/-- The checks of a released packet (R77, R81). -/
def State.checkReleased (s : State) (k : Nat) : State :=
  let c := s.cmd k
  if c.phase ≠ .released then s
  else match s.checkRecs c.ctx c.bytes with
    | (.ok recs, t) => t.setCmd k { c with phase := .gate, recs := recs }
    | (.reject st d, t) => t.rejectNode k st d
    | (.wait, t) => t

/-- A node whose PEND is 0 released (R77): PEND from INIT, NSTATE RUNNING, then its packet's remaining checks. -/
def State.releaseNode (s : State) (k : Nat) (e : List Byte) : State :=
  let c := s.cmd k
  let a := s.nodeAddr c.ctx c.node
  let t := s.devWriteOnce c.ctx c.queue c.index a (leBytes 2 (nodeInit e))
  ((t.setNodeState c.ctx c.queue c.index c.node 2).setCmd k { c with phase := .released }).checkReleased k

/-- A packet captured into its idle node (R77). -/
def State.captureNode (s : State) (k : Nat) : State :=
  let c := s.cmd k
  let t := s.devWriteOnce c.ctx c.queue c.index (s.nodeAddr c.ctx c.node + 64) c.bytes
  (t.setNodeState c.ctx c.queue c.index c.node 1).setCmd k { c with phase := .armed }

/-- An armed node released if its PEND is 0, whoever made it so (R77); one whose entry cannot be read stays armed. -/
def State.releaseIfReady (s : State) (k : Nat) : State :=
  let c := s.cmd k
  if c.phase ≠ .armed then s
  else match s.devRead c.ctx (s.nodeAddr c.ctx c.node) 128 with
    | (.bytes e, t) => if nodePend e = 0 ∧ nodeState e = 1 then t.releaseNode k e else t
    | (_, t) => t

/-- The armed commands of a context in ascending node index. -/
def State.armedOf (s : State) (ctx : Nat) : List Nat :=
  ((s.cmds.filter (fun e => e.2.ctx == ctx && e.2.phase == .armed)).mergeSort (fun a b => decide (a.2.node ≤ b.2.node))).map (·.1)

/-- Every armed node of a context whose PEND is 0 released, in ascending node index (R77). -/
def State.releaseReady (s : State) (ctx : Nat) : State := (s.armedOf ctx).foldl State.releaseIfReady s

/-! ## Consumption (R63) -/

/-- Step 6: the header word cleared, the read index advanced, both published in that order. -/
def State.advanceQueue (s : State) (ctx q : Nat) : State :=
  let x := s.queue ctx q
  let t := s.devWriteOnce ctx q x.rindex (x.slot x.rindex) (leBytes 8 0)
  let t := t.devWriteOnce ctx q x.rindex x.ridx (leBytes 8 (x.rindex + 1))
  t.setQueue ctx q { x with rindex := x.rindex + 1, head := none }

/-- A command made from the packet at the read index. -/
def State.makeCmd (s : State) (ctx q : Nat) (p : List Byte) (recs : List (List Byte)) : Nat × State :=
  let k := s.nextId
  (k, { s with
    nextId := k + 1
    cmds := FMap.set s.cmds k { Cmd.absent with ctx := ctx, queue := q, index := (s.queue ctx q).rindex, node := pktNode p, bytes := p
                                                phase := .atHead, order := k, recs := recs } })

/-- The packet waits at the head of its queue. -/
def State.holdHead (s : State) (ctx q k : Nat) : State := s.setQueue ctx q { s.queue ctx q with head := some k }

/-- The engine sleeps until a watched line is written (R62). -/
def State.sleepQueue (s : State) (ctx q : Nat) : State := s.setQueue ctx q { s.queue ctx q with awake := false }

/-- A packet that names a node, at the head of its queue: captured when its node is idle. -/
def State.headNode (s : State) (ctx q k : Nat) : State :=
  let c := s.cmd k
  match s.devRead ctx (s.nodeAddr ctx c.node) 128 with
  | (.wait, t) => t.holdHead ctx q k
  | (.fault f, t) =>
    (t.setCmd k { c with phase := .done }).rejectQueue ctx q c.index c.bytes (readFinding f).1 (readFinding f).2
  | (.bytes e, t) => if nodeState e = 0 then ((t.captureNode k).advanceQueue ctx q).releaseReady ctx else t.holdHead ctx q k

/-- A captured packet checked and handed on (R63 steps 4 to 6). -/
def State.takePacket (s : State) (ctx q : Nat) (p : List Byte) : State :=
  let r := (s.queue ctx q).rindex
  if 9 ≤ pktType p then s.rejectQueue ctx q r p 0x100 none
  else if !s.headerOk ctx p then s.rejectQueue ctx q r p 0x101 none
  else if !s.bodyOk ctx q p then s.rejectQueue ctx q r p 0x102 none
  else if pktNode p ≠ 0 then
    if s.nodeCount ctx ≤ pktNode p then s.rejectQueue ctx q r p 0x105 none
    else
      let c := s.makeCmd ctx q p []
      c.2.headNode ctx q c.1
  else
    match s.checkRecs ctx p with
    | (.wait, t) => t
    | (.reject st d, t) => t.rejectQueue ctx q r p st d
    | (.ok recs, t) =>
      let c := t.makeCmd ctx q p recs
      c.2.holdHead ctx q c.1

/-- The rejection for a fault or poison in the queue's own words and slots, with what is known of the packet (R80, R81). Nothing
captured stands as zeros: TYPE and NODE of the record are then 0 (log entry 61). -/
def State.ringFault (s : State) (ctx q : Nat) (p : List Byte) (f : Finding) : State :=
  let low := if 9 ≤ pktType p then (0x100, none) else if !s.headerOk ctx p then (0x101, none) else f
  s.rejectQueue ctx q (s.queue ctx q).rindex p low.1 low.2

/-- A packet of which nothing is known. -/
def noPacket : List Byte := List.replicate 64 0

/-- The words of a captured packet checked in the queue engine's buffer (R286, R291): the first that fails reads poisoned. -/
def State.packetEcc (s : State) (ctx q : Nat) (a : Word) : Option Finding × State :=
  (List.range 8).foldl (fun r i =>
    let e := r.2.eccKept (arrayId 7 (s.queue ctx q).qeng) (a.toNat / 8 + i) ctx
    (if e.1 && r.1.isNone then some (0x107, some (a + BitVec.ofNat 64 (8 * i))) else r.1, e.2)) (none, s)

/-- Steps 2 and 3 of R63 at a slot: the header observed, then the 64 bytes captured. -/
def State.takeSlot (s : State) (ctx q : Nat) : State :=
  let x := s.queue ctx q
  let a := x.slot x.rindex
  match s.devRead ctx a 8 with
  | (.wait, t) => t
  | (.fault f, t) => t.ringFault ctx q noPacket (readFinding f)
  | (.bytes h, t) =>
    if pktType h = 0 then t.sleepQueue ctx q
    else match t.devRead ctx a 64 with
      | (.wait, u) => u
      | (.fault f, u) => u.ringFault ctx q (h ++ List.replicate 56 0) (readFinding f)
      | (.bytes p, u) =>
        match u.packetEcc ctx q a with
        | (some f, v) => v.ringFault ctx q p f
        | (none, v) => v.takePacket ctx q p

/-- PACKET_DEQUEUE (R63). -/
def execPacketDequeue (ctx queue : Nat) (s : State) : Out :=
  let x := s.queue ctx queue
  if !(s.serves && s.ctxLive ctx && x.served && x.awake && x.head.isNone) then .next s
  else if !s.stillRuns ctx queue then .next (s.leaveQueue ctx queue)
  else
    match s.devRead ctx x.widx 8 with
    | (.wait, t) => .next t
    | (.fault f, t) => .next (t.ringFault ctx queue noPacket (readFinding f))
    | (.bytes b, t) =>
      if ofLe b ≤ x.rindex then .next (t.sleepQueue ctx queue)
      else if 2 ^ x.log2n < ofLe b - x.rindex then .next (t.rejectQueue ctx queue x.rindex noPacket 0x106 none)
      else .next (t.takeSlot ctx queue)

/-- NODE_CAPTURE (R77): armed nodes with nothing outstanding are released, and the packet at the head of its queue captures once
its node is idle. -/
def execNodeCapture (ctx queue : Nat) (s : State) : Out :=
  if !(s.serves && s.ctxLive ctx) then .next s
  else
    let t := s.releaseReady ctx
    let x := t.queue ctx queue
    match x.head with
    | none => .next t
    | some k =>
      if !x.served || (t.cmd k).node == 0 then .next t
      else if !t.stillRuns ctx queue then .next (t.leaveQueue ctx queue)
      else .next (t.headNode ctx queue k)

/-! ## Start (R73, R75) -/

/-- Whether every earlier packet of the same queue has completed (R65). -/
def State.fenceMet (s : State) (k : Nat) : Bool :=
  let c := s.cmd k
  !s.cmds.any (fun e => e.2.ctx == c.ctx && e.2.queue == c.queue && decide (e.2.index < c.index) && e.2.phase != .done)

/-- Whether the AWAIT flag is satisfied (R65, R76). -/
def State.awaitMet (s : State) (ctx : Nat) (p : List Byte) : Bool :=
  !pktAwait p || (match s.semIndex ctx (pktSem p) with | some i => decide (pktThresh p ≤ (s.sem i).toNat) | none => false)

/-- One bound field (R73, R74): its value, 0 where it cannot be read, and what is found against it. An indirect word is read after a
`pull pkg`; of a store that is not yet published it shows the old or the new value. -/
def State.readField (s : State) (ctx ind j : Nat) (f : BoundField) : Option (Nat × Option Finding) × State :=
  if !f.indirect then (some (f.value, none), s)
  else match s.readRec (deviceReq ctx) (.pulled .pkg devicePlace) spGlobal (BitVec.ofNat 64 (ind + 8 * j)) 8 with
    | (.wait, t) => (none, t)
    | (.fault x, t) => (some (0, some (readFinding x)), t)
    | (.bytes b, t) => (some (if ofLe b < 2 ^ f.width then (ofLe b, none) else (0, some (0x103, none))), t)

/-- The bound fields from number `j` on (R73), with the lowest finding against them; none where a read must wait. -/
def State.readBound (s : State) (ctx : Nat) (ind : Nat) (fs : List BoundField) (j : Nat) : Option (List Nat × Option Finding) × State :=
  match fs with
  | [] => (some ([], none), s)
  | f :: rest =>
    match s.readField ctx ind j f with
    | (none, t) => (none, t)
    | (some (v, bad), t) =>
      match t.readBound ctx ind rest (j + 1) with
      | (none, u) => (none, u)
      | (some (vs, more), u) => (some (v :: vs, lowestFinding bad more), u)

/-- A packet rejected at its start, at the head of its queue or out of its node. -/
def State.rejectCmd (s : State) (k status : Nat) (detail : Option Word) : State :=
  let c := s.cmd k
  if c.node = 0 then (s.setCmd k { c with phase := .done }).rejectQueue c.ctx c.queue c.index c.bytes status detail
  else s.rejectNode k status detail

/-- Where a command stands. -/
def State.cmdPlace (s : State) (k : Nat) : Place :=
  { who := .command k, die := (s.queue (s.cmd k).ctx (s.cmd k).queue).qeng / 2, wg := 0, launch := 0, set := 0 }

/-- The launch of a LAUNCH command from its start on (R66, R67, R90): running, with no workgroup eligible yet. -/
def State.makeLaunch (s : State) (k : Nat) (vals : List Nat) : State :=
  let c := s.cmd k
  let d := KDesc.ofBytes (c.recs.getD 0 [])
  let p := c.bytes
  let l : Launch := { Launch.absent with
    cmd := k, ctx := c.ctx, entry := d.entry, helm := d.helm, threads := d.threads, barsN := d.bars, lend := d.lend, scratch := d.scratch
    karg := BitVec.ofNat 64 (fieldLe p 16 8), gx := vals.getD 0 0, gy := vals.getD 1 0, gz := vals.getD 2 0, det := launchDet p
    cls := BitVec.ofNat 2 (launchClass p), opp := launchOpp p, rset := launchRset p
    spawnCd := (if fieldLe p 38 2 = 0 then 65536 else fieldLe p 38 2), hang := fieldLe p 40 8, order := c.order, running := true
    startSeq := s.writeSeq }
  (s.setLaunch k l).retarget

/-- A Cornice command entered in the command order as it starts (R428). -/
def State.enterNear (s : State) (k : Nat) (vals : List Nat) : State :=
  let c := s.cmd k
  let id := s.nextId
  ({ s with nextId := id + 1 }).nearEnter
    { id := id, ctx := c.ctx, source := .command k, issuer := .command k, seq := s.writeSeq, floors := s.floors.length, priv := false
      record := c.recs.getD 0 [], args := c.recs.getD 1 [], first := vals.getD 0 0, count := vals.getD 1 0, begun := false, window := 0, rows := []
      left := allUnits, failed := false, bad := none }

/-- The start instant (R75): a `pull sys` for everything the command reads; then its queue goes on, but an AWAIT holds
its queue until it completes (R72). -/
def State.startCmd (s : State) (k : Nat) (vals : List Nat) : State :=
  let c := s.cmd k
  let c' := { c with
    phase := .started, bound := vals.map (BitVec.ofNat 64), order := s.nextId
    recs := (if pktType c.bytes = 4 then collBodyWith (c.recs.getD 0 []) vals :: c.recs.drop 1 else c.recs) }
  let t := (({ s with nextId := s.nextId + 1 }).setCmd k c').pull .sys (s.cmdPlace k)
  let t := match pktType c.bytes with
    | 1 => t.makeLaunch k vals
    | 5 => t.enterNear k vals
    | _ => t
  if c.node = 0 ∧ pktType c.bytes ≠ 7 then t.advanceQueue c.ctx c.queue else t

/-- SEQ of a collective taken as it starts (R226); the record's fault rejects the packet. -/
def State.startColl (s : State) (k : Nat) (vals : List Nat) : State :=
  let c := s.cmd k
  match s.takeSeq (deviceReq c.ctx) (CollBody.ofBytes (c.recs.getD 0 [])).comm with
  | (.ok n, t) => (t.setCmd k { t.cmd k with seqNo := n }).startCmd k vals
  | (.error f, t) => t.rejectCmd k (readFinding f).1 (readFinding f).2

/-- The records of a packet at its start: the argument block of a RUN is read then, as a `pull sys` (R75, R429), with what is found
against it (R427); none where the read must wait. -/
def State.startRecs (s : State) (k : Nat) : Option (List (List Byte) × Option Finding) × State :=
  let c := s.cmd k
  let record := c.recs.getD 0 []
  match (if pktType c.bytes = 5 then nearArgs record else none) with
  | none => (some (c.recs, none), s)
  | some a =>
    match s.readRec (deviceReq c.ctx) (.pulled .sys devicePlace) spGlobal a 64 with
    | (.wait, t) => (none, t)
    | (.fault x, t) => (some (c.recs, some (rejectFor x)), t)
    | (.bytes b, t) => (some ([record, b], if t.pktLimits c.ctx c.bytes [record, b] (pktValues c.bytes) then none else some (0x102, none)), t)

/-- PACKET_START (R75): a packet at the head of a queue that has left RUN is given up instead. -/
def execPacketStart (cmd : Nat) (s : State) : Out :=
  let s := if s.serves && s.ctxLive (s.cmd cmd).ctx && (s.cmd cmd).phase == .armed then s.releaseReady (s.cmd cmd).ctx else s
  let s := s.checkReleased cmd
  let c := s.cmd cmd
  let here := (c.phase == .atHead && c.node == 0) || c.phase == .gate
  if !(s.serves && s.ctxLive c.ctx && here) then .next s
  else if c.phase == .atHead && !s.stillRuns c.ctx c.queue then .next (s.leaveQueue c.ctx c.queue)
  else if pktFence c.bytes && !s.fenceMet cmd then .next s
  else if !s.awaitMet c.ctx c.bytes then .next s
  else
    match s.readBound c.ctx (pktInd c.bytes) (pktBound c.bytes) 0 with
    | (none, t) => .next t
    | (some (vals, bad), t) =>
      match t.startRecs cmd with
      | (none, u) => .next u
      | (some (recs, worse), u) =>
        let broken : Option Finding := if pktIndirect c.bytes && !u.pktLimits c.ctx c.bytes recs vals then some (0x103, none) else none
        match lowestFinding worse (lowestFinding broken bad) with
        | some f => .next (u.rejectCmd cmd f.1 f.2)
        | none =>
          let u := u.setCmd cmd { u.cmd cmd with recs := recs }
          if pktType c.bytes = 4 then .next (u.startColl cmd vals) else .next (u.startCmd cmd vals)

end Sys2Proof.Machine
end

