-- ==== Sys2Proof/Machine/Commands.lean ====
section
/-! DEFINITION. Packet commands (R66 to R80): what each does once started, and how it completes. -/

namespace Sys2Proof.Machine

open Sys2Proof

/-! ## The engines' commands (R203, R208, R215) -/

/-- STATUS for a command that met a poisoned address or did not (R80, R215). -/
def poisonStatus (bad : Option Word) : BitVec 16 := if bad.isSome then 2 else 1

/-- A command whose data access faults is held until the fence that follows the repair (R203). -/
def State.holdCmd (s : State) (k : Nat) (f : AccFault) : State :=
  let c := s.cmd k
  (s.setCmd k { c with held := true }).postFault c.ctx (c.record f.cause.toNat 2 f.info f.addr 0)

/-- An engine's run on behalf of a command. -/
def State.cmdRun (s : State) (k : Nat) (result : Word) (out : RunOut) : State :=
  match out with
  | .done bad t => t.cmdWorked k (poisonStatus bad) (bad.getD 0) result
  | .held f t => t.holdCmd k f
  | .waiting t => if t.nextId = s.nextId then s else t

/-- Whether a command of a type is started and at work. -/
def State.cmdAtWork (s : State) (k ty : Nat) : Bool :=
  let c := s.cmd k
  c.phase == .started && pktType c.bytes == ty && !c.held

/-- The bound value `j` of a started command. -/
def Cmd.boundAt (c : Cmd) (j : Nat) : Nat := (c.bound.getD j 0).toNat

/-- A COPY command of OP 0 to 5 (R212 to R216). -/
def State.copyCmd (s : State) (k op : Nat) : Out :=
  let c := s.cmd k
  if s.cmdAtWork k 2 && fieldLe c.bytes 28 1 == op then
    let src := c.recs.getD 0 []
    let dst := c.recs.getD 1 []
    .next (s.cmdRun k (BitVec.ofNat 64 (copyWritten op src dst (c.boundAt 0))) (s.copyRun (cmdReq k c.ctx) .floor op src dst (c.boundAt 0)))
  else .next s

/-- COPY_PLAIN (R213). -/
def execCopyPlain (cmd : Nat) (s : State) : Out := s.copyCmd cmd 0
/-- COPY_TRANSPOSE (R213). -/
def execCopyTranspose (cmd : Nat) (s : State) : Out := s.copyCmd cmd 1
/-- COPY_COMPRESS (R216). -/
def execCopyCompress (cmd : Nat) (s : State) : Out := s.copyCmd cmd 2
/-- COPY_DECOMPRESS (R216). -/
def execCopyDecompress (cmd : Nat) (s : State) : Out := s.copyCmd cmd 3
/-- COPY_CONVERT (R214). -/
def execCopyConvert (cmd : Nat) (s : State) : Out := s.copyCmd cmd 4
/-- COPY_REPACK (R216). -/
def execCopyRepack (cmd : Nat) (s : State) : Out := s.copyCmd cmd 5

/-- COPY_MIGRATE (R217): never accepted from a packet. Such a packet is rejected with BAD_BODY before it starts. -/
def execCopyMigrate (cmd : Nat) (s : State) : Out :=
  let c := s.cmd cmd
  if c.phase ≠ .done ∧ pktType c.bytes = 2 ∧ fieldLe c.bytes 28 1 = 6 then .next (s.rejectCmd cmd 0x102 none) else .next s

/-- COPY_CHAIN (R218 to R220). -/
def execCopyChain (cmd : Nat) (s : State) : Out :=
  let c := s.cmd cmd
  if s.cmdAtWork cmd 2 && fieldLe c.bytes 28 1 == 7 then
    let out := c.recs.getLastD []
    let o := Layout.ofBytes out
    .next (s.cmdRun cmd (BitVec.ofNat 64 (copyBytes o o (c.boundAt 0)))
      (s.chainRun (cmdReq cmd c.ctx) .floor (c.recs.getD 0 []) (c.recs.drop 1).dropLast out (c.boundAt 0)))
  else .next s

/-- SORT (R221). -/
def execSort (cmd : Nat) (s : State) : Out :=
  let c := s.cmd cmd
  if s.cmdAtWork cmd 3 then
    .next (s.cmdRun cmd (BitVec.ofNat 64 (c.boundAt 0))
      (s.sortRun (cmdReq cmd c.ctx) .floor (sortBody c.bytes (c.bound.map (fun w => w.toNat)))))
  else .next s

/-- The collective of a command. -/
def State.collJobOf (s : State) (k : Nat) : CollJob :=
  let c := s.cmd k
  { body := c.recs.getD 0 [], comm := c.recs.getD 1 [], rtab := c.recs.getD 2 [], seqNo := c.seqNo }

/-- A COLL command (R226, R227): carried out once every rank of this module has started its own. -/
def State.collCmd (s : State) (k op : Nat) : Out :=
  if s.cmdAtWork k 4 && fieldLe (s.cmd k).bytes 36 1 == op then .next ((s.collRun (s.collJobOf k)).getD s) else .next s

/-- COLL_ALL_REDUCE (R227). -/
def execCollAllReduce (cmd : Nat) (s : State) : Out := s.collCmd cmd 0
/-- COLL_REDUCE_SCATTER (R227). -/
def execCollReduceScatter (cmd : Nat) (s : State) : Out := s.collCmd cmd 1
/-- COLL_ALL_GATHER (R227). -/
def execCollAllGather (cmd : Nat) (s : State) : Out := s.collCmd cmd 2
/-- COLL_BROADCAST (R227). -/
def execCollBroadcast (cmd : Nat) (s : State) : Out := s.collCmd cmd 3
/-- COLL_ORDERED_COMPOSITE (R230). -/
def execCollOrderedComposite (cmd : Nat) (s : State) : Out := s.collCmd cmd 4

/-- A Cornice command taken as far as it goes; once every unit has finished it, its work is done (R428, R439). -/
def State.nearStep (s : State) (p : Party) : Option NearCmd × State :=
  match s.nearFor p with
  | none => (none, s)
  | some c =>
    let t := s.nearAdvance c
    match t.nearFor p with
    | some d => if d.begun && d.left.isEmpty then (some d, (t.closeWindow d).nearRemove d.id) else (none, t)
    | none => (none, t)

/-- A NEAR command of a kind (R71, R439). -/
def State.nearCmd (s : State) (k kind : Nat) : Out :=
  if s.cmdAtWork k 5 && fieldLe (s.cmd k).bytes 8 1 == kind then
    match s.nearStep (.command k) with
    | (some d, t) =>
      .next (t.cmdWorked k (if d.failed || d.bad.isSome then 2 else 1) (d.bad.getD 0) (BitVec.ofNat 64 ((s.cmd k).boundAt 1)))
    | (none, t) => .next t
  else .next s

/-- NEAR_LOADPROG (R424). -/
def execNearLoadprog (cmd : Nat) (s : State) : Out := s.nearCmd cmd 1
/-- NEAR_RUN (R430). -/
def execNearRun (cmd : Nat) (s : State) : Out := s.nearCmd cmd 2
/-- NEAR_IREDUCE (R437). -/
def execNearIreduce (cmd : Nat) (s : State) : Out := s.nearCmd cmd 3

/-! ## LAUNCH, SIGNAL, AWAIT, NOP (R66, R72) -/

/-- Workgroups of a launch. -/
def Launch.total (l : Launch) : Nat := l.gx * l.gy * l.gz

/-- LAUNCH (R66): its workgroups wait for placement from now on. -/
def execLaunch (cmd : Nat) (s : State) : Out :=
  if s.cmdAtWork cmd 1 && !(s.launch cmd).eligible then .next (s.setLaunch cmd { s.launch cmd with eligible := true }) else .next s

/-- The semaphore that a SIGNAL or AWAIT names. -/
def State.targetSem (s : State) (k : Nat) : Nat := (s.semIndex (s.cmd k).ctx (fieldLe (s.cmd k).bytes 8 2)).getD 0

/-- SIGNAL (R72, R76): VALUE added. -/
def execSignal (cmd : Nat) (s : State) : Out :=
  if s.cmdAtWork cmd 6 then
    let i := s.targetSem cmd
    let v := s.sem i + BitVec.ofNat 64 ((s.cmd cmd).boundAt 0)
    .next ((s.setSem i v).cmdWorked cmd 1 0 v)
  else .next s

/-- AWAIT (R72, R76): done once the semaphore is at least THRESH64; with node 0 it has held its queue until then. -/
def execAwait (cmd : Nat) (s : State) : Out :=
  let i := s.targetSem cmd
  let c := s.cmd cmd
  if s.cmdAtWork cmd 7 && decide (c.boundAt 0 ≤ (s.sem i).toNat) then
    let t := s.cmdWorked cmd 1 0 (s.sem i)
    .next (if c.node = 0 ∧ (s.queue c.ctx c.queue).head = some cmd then t.advanceQueue c.ctx c.queue else t)
  else .next s

/-- NOP (R72). -/
def execNop (cmd : Nat) (s : State) : Out := if s.cmdAtWork cmd 8 then .next (s.cmdWorked cmd 1 0 0) else .next s

/-! ## Completion (R78) -/

/-- Whether a map's write-back at the end of one of a launch's workgroups is still under way (R155). -/
def State.unmapsLeft (s : State) (l : Nat) : Bool := s.ops.any (fun o => o.orphan && !o.done && (s.wg o.wg).launch == l)

/-- Whether every workgroup of a launch has ended and every ticket is released (R78). -/
def State.launchOver (s : State) (k : Nat) : Bool :=
  let l := s.launch k
  l.eligible && (l.total == 0 || (l.next == l.total && l.live == 0 && (!l.det || l.ticket == l.total) && !s.unmapsLeft k))

/-- The work of a LAUNCH is done (R79, R80, R97). -/
def State.settleLaunch (s : State) (k : Nat) : State :=
  if s.cmdAtWork k 1 && s.launchOver k then
    let l := s.launch k
    match l.lowestKilled with
    | some i => s.cmdWorked k (if l.det then 3 else 4) (BitVec.ofNat 64 i) (BitVec.ofNat 64 l.run)
    | none => s.cmdWorked k 1 0 (BitVec.ofNat 64 l.run)
  else s

/-- Whether a command's writes to other modules are all acknowledged. -/
def State.cmdAcknowledged (s : State) (k : Nat) : Bool := !s.fabReqs.any (fun q => q.who == .command k && q.op.isSome && !q.answered)

/-- Step 2: the completion record. DETAIL of a command that completed with OK is free. -/
def State.writeRecord (s : State) (k : Nat) : State :=
  let c := s.cmd k
  let x := s.queue c.ctx c.queue
  if !pktRec c.bytes || x.crec == 0 then s.setCmd k { c with phase := .recorded }
  else
    let d := if c.status = 1 then s.free else (c.detail, s)
    match d.2.devWrite c.ctx (x.record c.index)
        (completionRec c.status (pktType c.bytes) c.node c.queue c.index d.1 c.result) with
    | (.done, t) => t.setCmd k { c with phase := .recorded }
    | (.wait, t) => t
    | (.fault f, t) =>
      (t.setCmd k { c with held := true }).postFault c.ctx (queueRec f.cause.toNat c.queue c.index f.info f.addr 0)

/-- Step 3: SIGSEM. -/
def State.signalCmd (s : State) (k : Nat) : State :=
  let c := s.cmd k
  let t := if pktSig c.bytes then
      (match s.semIndex c.ctx (pktSigSem c.bytes) with | some i => s.setSem i (s.sem i + 1) | none => s)
    else s
  t.setCmd k { c with phase := .signalled }

/-- A completion held at successor `j` (R78). -/
def State.holdSuccessor (s : State) (k j n : Nat) (f : AccFault) : State :=
  let c := s.cmd k
  (s.setCmd k { c with phase := .successors j, held := true }).postFault c.ctx
    (queueRec f.cause.toNat c.queue c.index f.info f.addr (BitVec.ofNat 64 n))

/-- PEND of one successor decremented (R77). -/
def State.decrement (s : State) (k j n : Nat) : State :=
  let c := s.cmd k
  let on := { c with phase := .successors (j + 1) }
  if n = 0 then s.setCmd k on
  else if s.nodeCount c.ctx ≤ n then
    (s.setCmd k on).postFault c.ctx (queueRec 0x104 c.queue c.index (BitVec.ofNat 64 n) 0 (BitVec.ofNat 64 c.node))
  else
    match s.devRead c.ctx (s.nodeAddr c.ctx n) 128 with
    | (.wait, t) => t
    | (.fault f, t) => t.holdSuccessor k j n f
    | (.bytes e, t) =>
      if nodePend e = 0 then (t.setCmd k on).postFault c.ctx (queueRec 0x103 c.queue c.index 0 0 (BitVec.ofNat 64 n))
      else
        match t.devWrite c.ctx (t.nodeAddr c.ctx n) (leBytes 2 (nodePend e - 1)) with
        | (.wait, u) => u
        | (.fault f, u) => u.holdSuccessor k j n f
        | (.done, u) => u.setCmd k on

/-- Successor `j` of a completing command. A fault or poison on the command's own entry, read for its SUCC fields, holds the
completion too, with that entry's index in DETAIL (log entry 61). -/
def State.successor (s : State) (k j : Nat) : State :=
  let c := s.cmd k
  match s.devRead c.ctx (s.nodeAddr c.ctx c.node) 128 with
  | (.wait, t) => t
  | (.fault f, t) => t.holdSuccessor k j c.node f
  | (.bytes e, t) => t.decrement k j (nodeSucc e j)

/-- Step 5 and the end: the vector, the node idle again, the launch no longer running. -/
def State.finishCmd (s : State) (k : Nat) : State :=
  let c := s.cmd k
  let t := if pktIrq c.bytes then s.raiseVector (s.queue c.ctx c.queue).vec else s
  let t := if c.node = 0 then t else t.setNodeState c.ctx c.queue c.index c.node 0
  let t := t.setCmd k { c with phase := .done }
  if pktType c.bytes = 1 then (t.setLaunch k { t.launch k with running := false }).retarget else t

/-- A command of a context that is being destroyed ends with nothing shown (R45). -/
def State.dropCmd (s : State) (k : Nat) : State :=
  let c := s.cmd k
  let t := s.setCmd k { c with phase := .done, held := false }
  if pktType c.bytes = 1 then (t.setLaunch k { t.launch k with running := false }).retarget else t

/-- Whether a command's work is done and its completion is under way (R78). -/
def CmdPhase.completing (p : CmdPhase) : Bool :=
  match p with
  | .worked => true
  | .recorded => true
  | .signalled => true
  | .successors _ => true
  | _ => false

/-- One of the steps of R78. -/
def State.completeStep (s : State) (k : Nat) : State :=
  let c := s.cmd k
  if c.held then s
  else match c.phase with
    | .worked => if s.cmdAcknowledged k then (s.pub .sys (s.cmdPlace k)).writeRecord k else s
    | .recorded => s.signalCmd k
    | .signalled => s.setCmd k { c with phase := .successors 0 }
    | .successors j => if c.node = 0 ∨ 6 ≤ j then s.finishCmd k else s.successor k j
    | _ => s

/-- COMMAND_COMPLETE (R78): the steps in order, until one is held; then the nodes with nothing outstanding are released (R77). -/
def execCommandComplete (cmd : Nat) (s : State) : Out :=
  let s := s.settleLaunch cmd
  let c := s.cmd cmd
  if c.phase.completing && !s.ctxLive c.ctx then .next (if s.cmdAcknowledged cmd then s.dropCmd cmd else s)
  else .next (((List.range 10).foldl (fun t _ => t.completeStep cmd) s).releaseReady c.ctx)

end Sys2Proof.Machine
end

