-- ==== Sys2Proof/Machine/Async.lean ====
section
/-! DEFINITION. What finishes outside the issue of instructions: fills, asynchronous operations, appends, region-map fills
and write-backs, translation fences and what they retry, VBD write-back and re-pack, hotness counts, fault records
(R129, R136, R152 to R156, R171 to R173, R201 to R206, R285, R397). -/

namespace Sys2Proof.Machine

open Sys2Proof

/-! ## Long-latency results (R129) -/

/-- A value on its way fills its register, and its flags become sticky (R129, R264). -/
def State.fillNow (s : State) (f : Fill) : State :=
  ({ (s.setReg f.reg { s.reg f.reg with bits := f.value, full := true }) with
     fills := s.fills.filter (fun x => x.id != f.id) }).orGroupFlags f.owner f.flags

/-- LONG_LATENCY_FILL (R129). -/
def execLongLatencyFill (fill : Nat) (s : State) : Out :=
  match s.fills.find? (fun f => f.id == fill) with
  | some f => .next (s.fillNow f)
  | none => .next s

/-! ## Asynchronous operations (R136, R150, R187, R203) -/

def State.opOf (s : State) (id : Nat) : Option AsyncOp := s.ops.find? (fun o => o.id == id)

def State.setOp (s : State) (o : AsyncOp) : State := { s with ops := s.ops.map (fun (x : AsyncOp) => if x.id == o.id then o else x) }

/-- Whether no older operation of the same party and class is unfinished (R136). -/
def State.opOldest (s : State) (o : AsyncOp) : Bool :=
  s.ops.all (fun x => !(x.wg == o.wg && x.grp == o.grp && x.cls == o.cls && decide (x.id < o.id) && !x.done && !x.kind.isPush
    && x.orphan == o.orphan))

/-- The counter of an operation's party falls (R136, R137, R108). -/
def State.dropCtr (s : State) (o : AsyncOp) : State :=
  if o.orphan then s
  else match o.grp with
    | some g =>
      let id : GroupId := { wg := o.wg, grp := g }
      let x := s.group id
      if x.ctr.get o.cls = 0 then s else s.setGroup id { x with ctr := x.ctr.set o.cls (x.ctr.get o.cls - 1) }
    | none =>
      let h := s.helm o.wg
      if h.ctr.get o.cls = 0 then s else s.setHelm o.wg { h with ctr := h.ctr.set o.cls (h.ctr.get o.cls - 1) }

/-- Whether an asynchronous write to a line is outstanding, other than one operation's (R150). -/
def State.lineOwed (s : State) (line but : Nat) : Bool :=
  s.ops.any (fun x => x.id != but && !x.done && x.lines.contains line) || s.lineFilling (128 * line)

/-- The lines of an operation become full where nothing more is owed to them (R150). -/
def State.releaseLines (s : State) (o : AsyncOp) : State :=
  { s with emptyLines := s.emptyLines.filter (fun l => !o.lines.contains l || s.lineOwed l o.id) }

/-- What an operation wrote to core-scratchpad lines is seen through their full bits (R187). -/
def State.showLines (s : State) (o : AsyncOp) : State :=
  let ps : List Party := .helm o.wg :: (s.groupsOf o.wg).map (fun (g : GroupId) => Party.group g.wg g.grp)
  { s with hist := s.hist.map (fun (e : HistEntry) =>
      if e.owners.contains (.operation o.id) && o.lines.contains (e.addr / 128) then
        { e with owners := ps.filter (fun p => !e.owners.contains p) ++ e.owners }
      else e) }

/-- What an operation has written is published when no party is left to learn of it (R155, R186). -/
def State.publishOrphan (s : State) (o : AsyncOp) : State :=
  if o.orphan || !((s.wg o.wg).status != .ended) then s.pub .sys (s.placeOf (.operation o.id) o.wg) else s

/-- An operation finishes: its lines are full, its bytes leave its barrier, its counter falls (R136, R140, R150). -/
def State.retireOp (s : State) (o : AsyncOp) : State :=
  let t := (s.releaseLines o).showLines o
  let t := t.setOp { o with done := true, held := false }
  let t := match o.bar with | some n => if o.kind.isPush then t else t.subTx o.wg n o.tx | none => t
  (t.dropCtr o).publishOrphan o

/-- Write operations of a finished computation performed, or staged where the workgroup stages (R99, R155). -/
def State.storeRun (s : State) (o : AsyncOp) (ws : List (Nat × WriteOp)) : RunOut :=
  let xs := ws.map (fun x => (BitVec.ofNat 64 x.1, x.2))
  let room := if xs.any (fun x => isGlobal x.1) then s.shareRoom o.wg else (true, s)
  let s := room.2
  if !room.1 then .waiting s else
  let now := xs.filter (fun x => !(s.stages o.wg && isGlobal x.1))
  let later := xs.filter (fun x => s.stages o.wg && isGlobal x.1)
  match s.prepRun o.req (now.map (fun x => (x.1, x.2.len, x.2.kind))) with
  | (.wait, t) => .waiting t
  | (.fault f, t) => .held f t
  | (.ready, t) =>
    match t.putOps o.req now with
    | .error f => .held f t
    | .ok u => .done none (u.stageOps o.wg (o.grp.getD 0) o.order o.grp.isNone o.priv later)

/-- Whether words of a write-back still stand in a side log (R203). -/
def State.unmapOwed (s : State) (id : Nat) : Bool := s.cores.any (fun e => e.2.sideLog.any (fun x => x.unmap == some id))

/-- The words of a write-back staged as global stores of the removing group; those that fault leave their entries (R99, R103, R155). -/
def State.stageUnmap (s : State) (o : AsyncOp) (t : ThreadId) (ws : List (Nat × WriteOp)) : State :=
  (ws.foldl (fun u x =>
    match s.storeFault o.req t x.1 x.2 with
    | some f =>
      u.logStore { ctx := o.ctx, thread := t, va := x.1, op := x.2, priv := o.priv, marker := true, cause := f.cause, info := f.info
                   order := u.nextId, unmap := some o.id }
    | none => u) s).stageOps o.wg (o.grp.getD 0) o.order false o.priv (ws.map (fun x => (BitVec.ofNat 64 x.1, x.2)))

/-- The write-back of a removed map: a word that faults retires into the side log as a store of the removing group, and the
operation waits for its replay; where the log has too little room it is held (R155, R156, R203, R204). -/
def State.unmapRun (s : State) (o : AsyncOp) (ws : List (Nat × WriteOp)) : RunOut :=
  let t : ThreadId := { wg := o.wg, grp := o.grp.getD 0, lane := o.lane.getD 0 }
  let faults := ws.filterMap (fun x => s.storeFault o.req t x.1 x.2)
  let room := if ws.isEmpty then (true, s) else s.shareRoom o.wg
  let s := room.2
  if s.unmapOwed o.id || !room.1 then .waiting s
  else match (if s.sideRoom (s.coreOf o.wg) < faults.length then faults.head? else none) with
  | some f => .held f s
  | none =>
    let u := if s.stages o.wg then s.stageUnmap o t ws
      else (ws.foldl (fun (acc : List Nat × State) x => acc.2.storeGlobal o.req t acc.1 x.1 x.2) ([], s)).2
    if u.unmapOwed o.id then .waiting (u.setOp { o with kind := .unmap [] }) else .done none u

/-! ## What a completed fence does (R201, R203, R204, R285) -/

/-- The requester of a replayed entry: the write-back that waits for it, or its group. -/
def SideEntry.req (e : SideEntry) : Req :=
  { who := (match e.unmap with | some o => .operation o | none => .group e.thread.wg e.thread.grp), ctx := e.ctx, wg := some e.thread.wg
    grp := e.thread.grp, lane := some e.thread.lane, helm := false, priv := e.priv }

/-- The places of a replayed store put into the views of the operations that its group issued after it (R187, R188). -/
def State.noteReplay (s : State) (e : SideEntry) (seqs : List Nat) : State :=
  { s with ops := s.ops.map (fun (o : AsyncOp) =>
      if o.wg == e.thread.wg && o.grp == some e.thread.grp && !o.done && decide (e.order < o.order) then { o with replayed := seqs ++ o.replayed }
      else o) }

/-- An entry of a core's log performed at its place, after the error check of the log's word (R204, R286). -/
def State.replayOne (s : State) (c : Nat) (e : SideEntry) (p : Spot) : State :=
  let k := (s.touchSpot p true).eccKept (arrayId 10 c) e.order e.ctx
  let t := k.2.performLoc e.req.who (some e.thread) p.loc (if k.1 then .poisoned e.op.len else e.op)
  t.noteReplay e (upFrom (k.2.writeSeq + 1) (t.writeSeq - k.2.writeSeq))

/-- Entries of core `c`'s log replayed in order; `stopped` are the pages whose replay has stopped, `kept` the entries that
stay (R204): an entry that faults again, with a new record, and those of its page behind it. -/
def State.replayList (s : State) (c ctx : Nat) (es kept : List SideEntry) (stopped : List Nat) : List SideEntry × State :=
  match es with
  | [] => (kept, s)
  | e :: t =>
    if e.ctx ≠ ctx ∨ stopped.contains (pageOf e.va) then s.replayList c ctx t (kept ++ [e]) stopped
    else
      match s.resolve e.req spGlobal (BitVec.ofNat 64 e.va) e.op.len e.op.kind with
      | (.error f, u) => (u.postSide e.thread f).replayList c ctx t (kept ++ [{ e with cause := f.cause, info := f.info }]) (pageOf e.va :: stopped)
      | (.ok p, u) => (if e.marker then u else u.replayOne c e p).replayList c ctx t kept stopped

/-- The replay of one core's log. -/
def State.replayCore (s : State) (ctx c : Nat) : State :=
  let r := s.replayList c ctx (s.core c).sideLog [] []
  r.2.setCore c { r.2.core c with sideLog := r.1 }

/-- What every completed fence of a context retries: side-log pages, held operations and commands, emissions, eager saves
and fault records. -/
def State.retryHeld (s : State) (ctx : Nat) : State :=
  let t := ((s.cores.filter (fun e => e.2.sideLog.any (fun x => x.ctx == ctx))).map (·.1)).foldl (fun (u : State) c => u.replayCore ctx c) s
  { t with
    ops := t.ops.map (fun (o : AsyncOp) => if o.ctx == ctx then { o with held := false } else o)
    cmds := t.cmds.map (fun (e : Nat × Cmd) => if e.2.ctx == ctx then (e.1, { e.2 with held := false }) else e)
    launches := t.launches.map (fun (e : Nat × Launch) => if e.2.ctx == ctx then (e.1, { e.2 with emitWait := false }) else e)
    wgs := t.wgs.map (fun (e : Nat × Workgroup) => if (t.launch e.2.launch).ctx == ctx then (e.1, { e.2 with eagerHeld := false }) else e)
    ctxs := FMap.modify t.ctxs ctx (fun c => { c with fqBlocked := false }) }

/-- Older forms of the entries of a range dropped (R200, R201), at a place of its own in the order of writes: what was replaced
before it, a table root among it, is used no more. -/
def State.dropForms (s : State) (ctx : Nat) (vas : List (Option Nat)) : State :=
  { s with
    writeSeq := s.writeSeq + 1
    fenceMarks := vas.map (fun va => ({ ctx := ctx, va := va, seq := s.writeSeq + 1 } : FenceMark)) ++ s.fenceMarks }

/-- A fence done: the older forms are dropped first, so what it retries walks the tables anew. -/
def State.fenceDone (s : State) (ctx : Nat) (vas : List (Option Nat)) : State := (s.dropForms ctx vas).retryHeld ctx

/-! ## Migration (R207, R217) -/

/-- The pages that one leaf maps: their virtual addresses and old leaves, in ascending order. A leaf of a 64 KiB group stands
for its 16 pages (R199, R207). -/
def State.leafPages (s : State) (ctx va : Nat) (l : Leaf) : List (Nat × Leaf) :=
  if l.level = 3 then (List.range 512).map (fun i => (va + 4096 * i, { l with frame := l.frame + i }))
  else if bitAt l.entry 7 then (s.groupPages ctx va l).getD [(va, l)]
  else [(va, l)]

/-- The logical bytes of a page, through the slices, and which words of it are poisoned. -/
def State.pageBytes (s : State) (ctx : Nat) (l : Leaf) : List Byte × (Nat → Bool) × State :=
  let base := frameAt l.tier l.frame
  if l.cmp = 0 then
    let t := s.eccBytes base 4096 ctx
    (t.bytesAt base 4096, fun i => t.isPoisoned (base + 8 * i), t)
  else
    let t := (List.range 16).foldl (fun (u : State) i => u.vbdFill base (if l.cmp = 1 then 2 else 4) i) s
    (t.bytesAt (vbdAt base) 4096, fun i => t.isPoisoned (vbdAt base + 8 * i), t)

/-- Poison of the blocks of a page image where they are stored. -/
def State.markImage (s : State) (frame : Nat) (image : List Byte) (bad : Nat → Bool) : State :=
  (List.range 16).foldl (fun (t : State) i =>
    if bad i then
      let d := BitVec.ofNat 32 (fieldLe image (4 * i) 4)
      (match field d 31 30 with
       | 0 => t.addPoison (frame + 4 * i) 4
       | 1 => t.addPoison (frame + 0x40 + 128 * i) 128
       | k => t.addPoison (frame + vbdOffset i d) (16 * vbdUnits k))
    else t) s

/-- A page's contents put into a new frame, stored in a form (R166, R207): nothing that the frame held before is read again. -/
def State.putPage (s : State) (frame cmp : Nat) (page : List Byte) (bad : Nat → Bool) : State :=
  let t := { (s.renew (vbdAt frame) (List.replicate 4096 0)) with vbd := s.vbd.filter (fun b => b.frame != frame) }
  match (if cmp = 0 then none else vbdImage (if cmp = 1 then 2 else 4) page) with
  | some image =>
    (t.renew frame (image.take 0xC00)).markImage frame image (fun i => (List.range 32).any (fun w => bad (32 * i + w)))
  | none =>
    (List.range 512).foldl (fun (u : State) i => if bad i then u.addPoison (frame + 8 * i) 8 else u) (t.renew frame page)

/-- The new leaf entry of a page (R207): new tier, frame and CMP, A and D clear. -/
def newLeaf (e : Word) (tier frame cmp : Nat) : Word :=
  (e &&& ~~~(0x070FFFFFFFFFFF00 : Word)) ||| BitVec.ofNat 64 (cmp * 2 ^ 56 + frame * 2 ^ 12 + tier * 2 ^ 8)

/-- One page moved: its bytes, then its entry where it has one of its own (`own`). -/
def State.movePage (s : State) (o : AsyncOp) (own : Bool) (tier frame cmp : Nat) (x : Nat × Leaf) : State :=
  let got := s.pageBytes o.ctx x.2
  let fits := cmp != 0 && (vbdImage (if cmp = 1 then 2 else 4) got.1).isSome
  let t := got.2.2.putPage (frameAt tier frame) (if fits then cmp else 0) got.1 got.2.1
  let old := frameAt x.2.tier x.2.frame
  let t := { t with vbd := t.vbd.filter (fun b => b.frame != old), repackReqs := t.repackReqs.filter (fun f => f != old)
                    overflow := t.overflow.filter (fun f => f.1 != old) }
  if own then t.write (.operation o.id) x.2.entryAt (leBytes 8 (newLeaf x.2.entry tier frame (if fits then cmp else 0)).toNat) else t

/-- xform.migrate (R207, R217): the five steps at one instant. A leaf of TIER 0b10 or 0b11, or an address with no valid leaf,
changes nothing. -/
def State.migrateRun (s : State) (o : AsyncOp) (src dst : List Byte) : RunOut :=
  let va := (Layout.ofBytes src).base.toNat
  let d := Layout.ofBytes dst
  let bad := s.postFault o.ctx (s.opRec o 0x106 0 (BitVec.ofNat 64 va) 0)
  match s.translate o.ctx va .probe true with
  | (.error f, t) => if f.phys.isSome then .held (faultWalk o.req .read (BitVec.ofNat 64 va) f) t else .done none bad
  | (.ok l, t) =>
    if 2 ≤ l.tier then .done none bad
    else
      let pages := t.leafPages o.ctx va l
      let first := d.base.toNat % 2 ^ 40 / 4096
      let u := (pages.zip (List.range pages.length)).foldl (fun (v : State) x => v.movePage o (l.level != 3) d.tier (first + x.2) d.cmode x.1) t
      let u := if l.level = 3 then
          u.write (.operation o.id) l.entryAt (leBytes 8 (newLeaf l.entry d.tier first 0).toNat) else u
      .done none ((u.pub .pkg (u.placeOf (.operation o.id) o.wg)).fenceDone o.ctx (pages.map (fun x => some x.1)))

/-! ## Completion (R136) -/

/-- What an engine does for an operation. -/
def State.opRun (s : State) (o : AsyncOp) : RunOut :=
  match o.kind with
  | .idle => .done none s
  | .copy op src dst len => if op = 6 then s.migrateRun o src dst else s.copyRun o.req o.view op src dst len
  | .chain recs len => s.chainRun o.req o.view (recs.getD 0 []) (recs.drop 1).dropLast (recs.getLastD []) len
  | .gather rec => s.gatherRun o.req o.view rec
  | .scatter rec => s.scatterRun o.req o.view o.order rec
  | .sort rec => s.sortRun o.req o.view rec
  | .coll job =>
    (match s.collRun job with
     | none => .waiting s
     | some t => if (t.opOf o.id).any (fun x => x.kind == .idle) then .done none t else .waiting t)
  | .near _ =>
    (match s.nearStep (.operation o.id) with
     | (some _, t) => .done none t
     | (none, t) => .waiting t)
  | .unmap ws => s.unmapRun o ws
  | .tilePending => .waiting s
  | .tileStore ws => s.storeRun o ws
  | .qpush _ _ _ _ => .waiting s

/-- ASYNC_OPERATION_COMPLETE (R136): the oldest operation of its class finishes, or is held by a fault (R203). -/
def execAsyncOperationComplete (op : Nat) (s : State) : Out :=
  match s.opOf op with
  | none => .next s
  | some o =>
    if o.done || o.held || o.kind.isPush || !s.opOldest o then .next s
    else match s.opRun o with
      | .waiting t => .next t
      | .held f t =>
        .next ((t.setOp { o with held := true }).postFault o.ctx (t.opRec o f.cause.toNat f.info f.addr 0))
      | .done _ t => .next (t.retireOp o)

/-! ## Appends (R60, R397) -/

/-- An append held by a fault until the fence that follows the repair. -/
def State.holdPush (s : State) (o : AsyncOp) (f : AccFault) : State :=
  (s.setOp { o with held := true }).postFault o.ctx (s.opRec o f.cause.toNat f.info f.addr 0)

/-- Bytes 8 to 63 of the slot, then bytes 0 to 7, published at `sys` scope. -/
def State.pushWrite (s : State) (o : AsyncOp) (slot : Word) (packet : List Byte) : State :=
  match s.writeRec o.req (slot + 8) (packet.drop 8) with
  | (.wait, t) => t
  | (.fault f, t) => t.holdPush o f
  | (.done, t) =>
    match t.writeRec o.req slot (packet.take 8) with
    | (.wait, u) => u
    | (.fault f, u) => u.holdPush o f
    | (.done, u) => (u.pub .sys (u.placeOf (.operation o.id) o.wg)).setOp { o with done := true }

/-- QPUSH_SLOT_WRITE (R397): once the read index makes room. -/
def execQpushSlotWrite (op : Nat) (s : State) : Out :=
  match s.opOf op with
  | none => .next s
  | some o =>
    match o.kind with
    | .qpush q w packet _ =>
      if o.done || o.held then .next s
      else
        (match s.devRead o.ctx (s.descAddr o.ctx q) 64 with
         | (.wait, t) => .next t
         | (.fault f, t) => .next (t.holdPush o f)
         | (.bytes b, t) =>
           let d := QDesc.ofBytes b
           (match t.devRead o.ctx d.ridx 8 with
            | (.wait, u) => .next u
            | (.fault f, u) => .next (u.holdPush o f)
            | (.bytes r, u) =>
              if w < ofLe r + 2 ^ d.log2n then .next (u.pushWrite o (d.ring + BitVec.ofNat 64 (64 * (w % 2 ^ d.log2n))) packet)
              else .next u))
    | _ => .next s

/-! ## Region maps (R153 to R156) -/

/-- The map of a workgroup that covers a scratchpad line. -/
def State.mapAt (s : State) (wg line : Nat) : Option RegionMap := (s.wg wg).maps.find? (fun m => m.covers line)

/-- The maps of a workgroup with the one that covers a line changed. -/
def State.onMap (s : State) (wg line : Nat) (f : RegionMap → RegionMap) : State :=
  s.setWg wg { s.wg wg with maps := (s.wg wg).maps.map (fun (m : RegionMap) => if m.covers line then f m else m) }

/-- The global address that a line of a map stands for (R153). -/
def RegionMap.lineVa (m : RegionMap) (line : Nat) : Nat := m.gva + 128 * (line - m.soff / 128)

/-- The toucher of a line as the reader of its global bytes (R154). -/
def State.fillReq (s : State) (wg : Nat) (f : MapFill) : Req :=
  { who := if f.helm then .helm wg else .group wg f.grp, ctx := s.ctxOf wg, wg := some wg, grp := f.grp
    lane := if f.helm then none else some f.lane, helm := f.helm
    priv := !f.helm && f.op.isNone && (s.thread { wg := wg, grp := f.grp, lane := f.lane }).priv }

/-- A fill's fault: a faulting load of the touching thread at the touching instruction, or a fault of the operation that
touched the line (R156, R203). The line is not present again. -/
def State.fillFault (s : State) (wg : Nat) (f : MapFill) (a : AccFault) : State :=
  let t := s.onMap wg f.line (fun m => { m with present := m.present.filter (· != f.line), filling := m.filling.filter (fun x => x.line != f.line) })
  let flat := scratchAt wg (128 * f.line) / 128
  let t := { t with emptyLines := t.emptyLines.filter (fun l => l != flat || t.lineOwed l 0) }
  match f.op with
  | some id =>
    (match t.opOf id with
     | some o => (t.setOp { o with held := true }).postFault o.ctx (t.opRec o a.cause.toNat a.info a.addr 0)
     | none => t)
  | none =>
    if f.helm then t.trapHelm wg a.cause a.addr a.info
    else
      let i : ThreadId := { wg := wg, grp := f.grp, lane := f.lane }
      if (t.thread i).live && (t.thread i).park == .running then t.trapThread i a.cause (t.thread i).pc a.addr a.info else t

/-- The line's bytes arrived: it is full unless another asynchronous write to it is outstanding. -/
def State.fillLine (s : State) (wg line : Nat) (bytes : List Byte) : State :=
  let flat := scratchAt wg (128 * line)
  let t := (s.onMap wg line (fun m => { m with filling := m.filling.filter (fun x => x.line != line) })).renew flat bytes
  { t with emptyLines := t.emptyLines.filter (fun l => l != flat / 128 || t.lineOwed l 0) }

/-- MAP_FILL_COMPLETE (R154). -/
def execMapFillComplete (wg line : Nat) (s : State) : Out :=
  match s.mapAt wg line with
  | none => .next s
  | some m =>
    match m.filling.find? (fun f => f.line == line) with
    | none => .next s
    | some f =>
      if !f.helm && (s.phasePending { wg := wg, grp := f.grp } || s.groupLogged { wg := wg, grp := f.grp } (pageOf (m.lineVa line))) then .next s
      else match s.readRec (s.fillReq wg f) .floor spGlobal (BitVec.ofNat 64 (m.lineVa line)) 128 with
      | (.wait, t) => .next t
      | (.fault a, t) => .next (t.fillFault wg f a)
      | (.bytes b, t) => .next (t.fillLine wg line b)

/-- The unit's early write-back as a store of the lowest-numbered group. -/
def State.mapReq (s : State) (wg : Nat) : Req :=
  { who := .device, ctx := s.ctxOf wg, wg := some wg, grp := 0, lane := some 0, helm := false, priv := false }

/-- MAP_WRITEBACK (R155): the dirty bytes of a line written early. They are written again when the map ends. A deterministic
kernel's map unit chooses no early write-back. -/
def execMapWriteback (wg line : Nat) (s : State) : Out :=
  match s.mapAt wg line with
  | none => .next s
  | some m =>
    let ws := (s.dirtyWrites wg m).filter (fun x => decide (m.lineVa line ≤ x.1) && decide (x.1 < m.lineVa line + 128))
    let t : ThreadId := { wg := wg, grp := 0, lane := 0 }
    if !m.wb || (s.launchOf wg).det || decide (s.sideRoom (s.coreOf wg) < ws.length) then .next s
    else .next (ws.foldl (fun (acc : List Nat × State) x => acc.2.storeGlobal (s.mapReq wg) t acc.1 x.1 x.2) ([], s)).2

/-! ## Translation fences (R103, R201, R203, R204, R285) -/

/-- The context that a party works for, where the party tells it. -/
def State.partyCtx (s : State) (p : Party) : Option Nat :=
  match p with
  | .group w _ => some (s.ctxOf w)
  | .helm w => some (s.ctxOf w)
  | .thread w _ _ => some (s.ctxOf w)
  | .command k => some (s.cmd k).ctx
  | .operation id => (s.opOf id).map (fun o => o.ctx)
  | _ => none

/-- Whether an access of a context is still on its way to another module. -/
def State.ctxInFlight (s : State) (ctx : Nat) : Bool :=
  s.fabReqs.any (fun q => !q.answered && (match s.partyCtx q.who with | some c => c == ctx | none => q.who == .device))

/-- Whether something that a destroyed context started is still at work (R45 step 3), or is held by a fault. -/
def State.ctxAtWork (s : State) (ctx : Nat) (held : Bool) : Bool :=
  s.ops.any (fun o => o.ctx == ctx && !o.done && o.held == held) || s.cmds.any (fun e => e.2.ctx == ctx && e.2.phase != .done && e.2.held == held)
    || (!held && s.cores.any (fun e => e.2.latches.any (fun l => s.ctxOf l.wg == ctx)))

/-- Steps 5 and 6 of R45: accumulator files without an owner, and everything the context held released; its frames count as
those of an ended context (R48). -/
def State.releaseCtx (s : State) (ctx : Nat) : State :=
  { s with
    cores := s.cores.map (fun (e : Nat × Core) => if e.2.accOwner.toNat == ctx then (e.1, { e.2 with accOwner := 0, accLive := 0 }) else e)
    ops := s.ops.filter (fun o => o.ctx != ctx)
    staged := s.staged.filter (fun e => s.ctxOf e.wg != ctx)
    cmds := s.cmds.map (fun (e : Nat × Cmd) => if e.2.ctx == ctx then (e.1, { e.2 with phase := .done, held := false }) else e)
    queues := s.queues.filter (fun e => e.1.1 != ctx)
    ctxs := FMap.erase s.ctxs ctx
    endedFrames := s.endedFrames ++ s.ctxFrames ctx
    host := { s.host with ctxDone := true, ctxBusy := false, ctxErr := 0 } }

/-- A fence completes (R201). -/
def State.completeFence (s : State) (f : Fence) : State :=
  ({ s with fences := s.fences.filter (fun x => x.id != f.id) }).fenceDone f.ctx [f.va]

/-- TRANSLATION_FENCE_COMPLETE (R201): once every access under the old entries has been performed. For a context that is being
destroyed (R45): once nothing of it is at work; what a fault holds is retried, and the rest follows when it too has run to
completion. -/
def execTranslationFenceComplete (fence : Nat) (s : State) : Out :=
  match s.fences.find? (fun f => f.id == fence) with
  | none => .next s
  | some f =>
    let dying := match FMap.find s.ctxs f.ctx with | some c => c.dying | none => false
    if s.ctxInFlight f.ctx then .next s
    else if !dying then .next (s.completeFence f)
    else if s.ctxAtWork f.ctx false then .next s
    else if s.ctxAtWork f.ctx true then .next (s.fenceDone f.ctx [none])
    else .next (({ s with fences := s.fences.filter (fun x => x.ctx != f.ctx) }).releaseCtx f.ctx)

/-! ## VBD write-back and re-pack (R171 to R173) -/

/-- Entries of the overflow ring (R173). -/
def HostRegs.ringSize (h : HostRegs) : Nat := 2 ^ (min h.repackSize.toNat 10 + 6)

/-- One waiting entry written to the ring, if it is enabled and has room. -/
def State.ringOne (s : State) : State :=
  match s.overflow with
  | [] => s
  | (frame, n) :: t =>
    let h := s.host
    if !h.repackEn || decide (h.ringSize ≤ (h.repackWidx - h.repackRidx).toNat) then s
    else
      let a := hbmAt (h.repackBase.toNat * 4096 + 16 * (h.repackWidx.toNat % h.ringSize))
      let word := frame % 2 ^ 128 + (if spaceOf frame = 0 then 0 else 256)
      let u := s.writePublished .device a (leBytes 8 word ++ leBytes 4 n ++ leBytes 4 0)
      ({ u with overflow := t, host := { u.host with repackWidx := u.host.repackWidx + 1 } }).raiseVector h.repackVec.toNat

/-- Every waiting entry that the ring takes. -/
def State.ringAll (s : State) : State := (List.range s.overflow.length).foldl (fun (t : State) _ => t.ringOne) s

/-- Blocks that the home slice of a VBD page's frame holds for a re-pack (R160, R172). -/
def State.heldAt (s : State) (frame : Nat) : Nat := s.heldIn (homeSlice (vbdAt frame))

/-- L2_WRITEBACK (R171): a dirty VBD block, unless its page is held for a re-pack (R172). Lines of plain pages carry no state of their own. -/
def execL2Writeback (frame block : Nat) (s : State) : Out :=
  match s.vbd.find? (fun b => b.frame == frame && b.block == block) with
  | none => .next s
  | some b =>
    if s.vbd.any (fun x => x.frame == frame && x.held) then .next s
    else
      let t := s.vbdWriteback b
      if t.heldAt frame ≠ s.heldAt frame ∧ 16 ≤ s.heldAt frame then .next s else .next t

/-- The 16 blocks of a VBD page as its slice holds them: bytes and poison. -/
def State.pageBlocks (s : State) (frame e : Nat) : List (List Byte × Bool) × State :=
  let t := (List.range 16).foldl (fun (u : State) i => u.vbdFill frame e i) s
  ((List.range 16).map (fun i => (t.bytesAt (vbdAt frame + 256 * i) 256, (t.firstPoison (vbdAt frame + 256 * i) 256).isSome)), t)

/-- REPACK_SERVICE (R172). -/
def execRepackService (frame : Nat) (s : State) : Out :=
  if !s.repackReqs.contains frame then .next s
  else
    let e := match s.vbd.find? (fun b => b.frame == frame) with | some b => b.esz | none => 4
    let got := s.pageBlocks frame e
    let t := { got.2 with repackReqs := got.2.repackReqs.filter (fun f => f != frame) }
    match vbdImage e (got.1.flatMap (fun x => x.1)) with
    | some image =>
      .next ({ ((t.write .device frame (image.take 0xC00)).markImage frame image (fun i => (got.1.getD i ([], false)).2)) with
               vbd := t.vbd.filter (fun b => b.frame != frame) })
    | none => .next ({ t with overflow := t.overflow ++ [(frame, (t.vbd.filter (fun (b : VbdBlock) => b.frame == frame && b.held)).length)] }).ringAll

/-! ## Hotness (R205, R206) -/

/-- The counter of a frame, as a flat address. -/
def State.hotCounter (s : State) (frame : Nat) : Nat :=
  hbmAt (field s.hotBase 38 21 * 2 ^ 21 + frame % 2 ^ 128 / 4096 + (if spaceOf frame = 1 then 2 ^ 27 else 0))

/-- HOTNESS_SAMPLE (R206): a fill of a frame of HBM4E or LPDDR at a slice; the 64th is counted while EN is 1. -/
def execHotnessSample (slice frame : Nat) (s : State) : Out :=
  if 1 < spaceOf frame then .next s
  else
    let n := FMap.getD s.hotFills slice 0 + 1
    let t := { s with hotFills := FMap.set s.hotFills slice (n % 64) }
    if n = 64 ∧ bitAt s.hotBase 0 then
      let a := t.hotCounter frame
      .next (if t.byteAt a = 0xFF then t else t.write .device a [t.byteAt a + 1])
    else .next t

/-! ## Fault records (R285) -/

/-- Posting waits for a fence of the context after a fault (R285). -/
def State.blockPosts (s : State) (ctx : Nat) : State :=
  { s with ctxs := FMap.modify s.ctxs ctx (fun c => { c with fqBlocked := true }) }

/-- The record at the head written, WIDX raised and both published, the vector raised. -/
def State.postHead (s : State) (ctx : Nat) (c : Context) (r : FaultRec) (rest : List FaultRec) : State :=
  match s.devWrite ctx (c.fqBase + BitVec.ofNat 64 (64 * (c.fqWidx % 2 ^ c.fqLog2n))) r with
  | (.wait, t) => t
  | (.fault _, t) => t.blockPosts ctx
  | (.done, t) =>
    match t.devWrite ctx c.fqWidxAddr (leBytes 8 (c.fqWidx + 1)) with
    | (.wait, u) => u
    | (.fault _, u) => u.blockPosts ctx
    | (.done, u) =>
      ({ u with ctxs := FMap.modify u.ctxs ctx (fun x => { x with fqWaiting := rest, fqWidx := (c.fqWidx + 1) % 2 ^ 64 }) }).raiseVector c.fqVec

/-- FAULT_RECORD_POST (R285). -/
def execFaultRecordPost (ctx : Nat) (s : State) : Out :=
  match FMap.find s.ctxs ctx with
  | none => .next s
  | some c =>
    match c.fqWaiting with
    | [] => .next s
    | r :: rest =>
      if c.fqBlocked || c.dying then .next s
      else match s.devRead ctx c.fqRidxAddr 8 with
        | (.wait, t) => .next t
        | (.fault _, t) => .next (t.blockPosts ctx)
        | (.bytes b, t) =>
          if (c.fqWidx + 2 ^ 64 - ofLe b) % 2 ^ 64 < 2 ^ c.fqLog2n then .next (t.postHead ctx c r rest) else .next t

/-! ## Tickets (R100) -/

/-- TICKET_RELEASE (R100, R102): write-backs at the end of the workgroup come before (R155). -/
def execTicketRelease (launch : Nat) (s : State) : Out :=
  match s.ticketHolder launch with
  | none => .next s
  | some w =>
    if (s.launch launch).det && s.ctxLive (s.launch launch).ctx && !s.ops.any (fun o => o.wg == w && o.orphan && !o.done) then .next (s.releaseTicket launch) else .next s

end Sys2Proof.Machine
end

