-- ==== Sys2Proof/Machine/Dispatcher.lean ====
section
/-! DEFINITION. Dispatch (R83 to R93, R105 to R113, R117, R125 to R127): placing workgroups and Ridge sets, starting groups,
pre-emption and restoration, spawned groups, and the events of waiting groups. -/

namespace Sys2Proof.Machine

open Sys2Proof

/-! ## What stands on a core (R83, R84) -/

/-- The workgroups resident on a core. -/
def State.residents (s : State) (c : Nat) : List (Nat × Workgroup) := s.wgs.filter (fun e => e.2.isResident && e.2.core == c)

/-- The live groups that were spawned for a workgroup. -/
def State.spawnedOf (s : State) (w : Nat) : List GroupId :=
  (s.groupsOf w).filter (fun g => (s.group g).spawned && !(s.liveOf g).isEmpty)

/-- Group slots taken on a core (R83, R126). -/
def State.usedSlots (s : State) (c : Nat) : List Nat :=
  (s.residents c).flatMap (fun e => e.2.slots ++ (s.spawnedOf e.1).map (fun g => (s.group g).slot))

/-- Free group slots of a core, lowest first. -/
def State.freeSlots (s : State) (c : Nat) : List Nat := (List.range 32).filter (fun i => !(s.usedSlots c).contains i)

/-- Free Helm numbers of a core, lowest first. -/
def State.freeHelms (s : State) (c : Nat) : List Nat :=
  (List.range 8).filter (fun i => !(s.residents c).any (fun e => e.2.helmNo == i))

/-- Scratchpad bytes and barriers taken on a core. -/
def State.usedScratch (s : State) (c : Nat) : Nat := ((s.residents c).map (fun e => (s.launchOf e.1).scratch)).foldl (· + ·) 0
def State.usedBars (s : State) (c : Nat) : Nat := ((s.residents c).map (fun e => (s.launchOf e.1).barsN)).foldl (· + ·) 0

/-- The launch that holds a Ridge's Ridge memory, if one does (R84). -/
def State.ridgeHolder (s : State) (r : Nat) : Option Nat :=
  (s.wgs.find? (fun e => e.2.isResident && ridgeOfCore e.2.core == r && (s.launch e.2.launch).lend != 0)).map (fun e => e.2.launch)

/-- LEND of the launch that holds a Ridge. -/
def State.ridgeLend (s : State) (r : Nat) : Nat := match s.ridgeHolder r with | some l => (s.launch l).lend | none => 0

/-- The cores of a Ridge. -/
def coresOfRidge (r : Nat) : List Nat := upFrom (8 * r) 8

/-! ## Fitting (R83 to R88, R98) -/

/-- Whether a workgroup of a launch that needs `slots` group slots fits on a core, with LEND of its Ridge known. -/
def State.coreFits (s : State) (l : Launch) (slots lend c : Nat) : Bool :=
  decide (slots ≤ (s.freeSlots c).length) && !(s.freeHelms c).isEmpty && decide (s.usedBars c + l.barsN ≤ 64)
    && decide (s.usedScratch c + l.scratch + 131072 * lend ≤ 524288)

/-- Whether a launch may have work on a Ridge at all: no hold, its own Summit Ridge if it is Summit, no other launch's Ridge
memory there, and room on every core for what it would lend (R84, R86). -/
def State.ridgeFits (s : State) (id : Nat) (l : Launch) (r : Nat) : Bool :=
  let c := FMap.find s.ctxs l.ctx
  let held := match c with | some x => bitAt x.holdRidges r | none => true
  let summit := match c with | some x => bitAt x.summit r | none => false
  !held && (l.cls != 0 || summit)
    && (l.lend == 0 || (match s.ridgeHolder r with
        | none => (coresOfRidge r).all (fun k => decide (s.usedScratch k + 131072 * l.lend ≤ 524288))
        | some h => h == id))

/-- LEND of a Ridge once a workgroup of a launch stands there. -/
def State.lendWith (s : State) (l : Launch) (r : Nat) : Nat := max l.lend (s.ridgeLend r)

/-- Staging shares of a context in use on a die. -/
def State.sharesUsed (s : State) (ctx die : Nat) : Nat :=
  (s.wgs.filter (fun e => e.2.share == some die && (s.launch e.2.launch).ctx == ctx)).length

/-- Workgroups of a context that are resident or saved (R87). -/
def State.keptCount (s : State) (ctx : Nat) : Nat :=
  (s.wgs.filter (fun e => e.2.status != .ended && (s.launch e.2.launch).ctx == ctx)).length

/-- A piece of work that waits: a set of new workgroups of a launch, by linear index, or a saved set (R85, R87, R106). -/
structure Item where
  launch : Nat
  lins : List Nat
  saved : List Nat
  deriving DecidableEq, Repr

/-- Workgroups of an item. -/
def Item.count (i : Item) : Nat := if i.saved.isEmpty then i.lins.length else i.saved.length

/-- Group slots that member `n` of an item needs: its launch's groups and its live spawned groups. -/
def State.itemSlots (s : State) (i : Item) (n : Nat) : Nat :=
  (s.launch i.launch).groups + (match i.saved[n]? with | some w => (s.spawnedOf w).length | none => 0)

/-- Whether an item may be taken at all, wherever it stands: SAVE_SLOTS, and an eager save that is held (R87, R113). -/
def State.itemFree (s : State) (i : Item) : Bool :=
  let l := s.launch i.launch
  if i.saved.isEmpty then
    decide (s.keptCount l.ctx + i.count ≤ (match FMap.find s.ctxs l.ctx with | some c => c.saveSlots | none => 0))
  else i.saved.all (fun w => !(s.wg w).eagerHeld)

/-- Whether the shares of a new deterministic set are free on a die (R98). -/
def State.sharesFit (s : State) (i : Item) (die : Nat) : Bool :=
  let l := s.launch i.launch
  !l.det || !i.saved.isEmpty || decide (s.sharesUsed l.ctx die + i.count ≤ s.detResv l.ctx)

/-- Whether an item fits on the named cores: distinct cores of one Ridge, one to a workgroup (R85). -/
def State.itemFitsOn (s : State) (i : Item) (cores : List Nat) : Bool :=
  let l := s.launch i.launch
  let r := ridgeOfCore (cores.headD 0)
  s.itemFree i && cores.length == i.count && allDistinct cores && cores.all (fun c => decide (c < 320) && ridgeOfCore c == r)
    && s.ridgeFits i.launch l r && s.sharesFit i (dieOfCore (cores.headD 0))
    && (cores.zip (List.range cores.length)).all (fun x => s.coreFits l (s.itemSlots i x.2) (s.lendWith l r) x.1)

/-- Whether the members of an item find distinct cores of a Ridge: each, the neediest first, the first core left that fits. -/
def State.seatAll (s : State) (l : Launch) (lend : Nat) (needs cores : List Nat) : Bool :=
  match needs with
  | [] => true
  | n :: t =>
    match cores.find? (fun c => s.coreFits l n lend c) with
    | none => false
    | some c => s.seatAll l lend t (cores.filter (fun x => x != c))

/-- A list of numbers in descending order. -/
def sortDown (l : List Nat) : List Nat :=
  l.foldl (fun acc x => acc.takeWhile (fun y => decide (x ≤ y)) ++ [x] ++ acc.dropWhile (fun y => decide (x ≤ y))) []

/-- The cores of a Ridge, those with the most free slots last, so that the neediest member takes the last that it can. -/
def State.seatOrder (s : State) (r : Nat) : List Nat :=
  (sortDown ((coresOfRidge r).map (fun c => (s.freeSlots c).length * 512 + c))).map (fun x => x % 512)

/-- Whether an item fits on a Ridge. -/
def State.itemFitsRidge (s : State) (i : Item) (r : Nat) : Bool :=
  let l := s.launch i.launch
  s.ridgeFits i.launch l r && s.sharesFit i (r / 20)
    && s.seatAll l (s.lendWith l r) (sortDown ((List.range i.count).map (s.itemSlots i))) (s.seatOrder r)

/-- Whether an item fits anywhere now (R86). -/
def State.itemFits (s : State) (i : Item) : Bool := s.itemFree i && (List.range 40).any (s.itemFitsRidge i)

/-! ## The order of waiting work (R85 to R87) -/

/-- The next new set of a launch. -/
def Launch.nextSet (l : Launch) : List Nat := upFrom l.next (min (l.rset + 1) (l.total - l.next))

/-- The saved sets of a launch, as lists of workgroups. -/
def State.savedSets (s : State) (l : Nat) : List Item :=
  let mine := s.wgs.filter (fun e => e.2.launch == l && (match e.2.status with | .saved _ => true | _ => false))
  ((mine.map (fun e => e.2.set)).eraseDups).map (fun j => { launch := l, lins := [], saved := (mine.filter (fun e => e.2.set == j)).map (·.1) })

/-- The linear index by which an item is ordered within its launch. -/
def State.itemIndex (s : State) (i : Item) : Nat :=
  match i.saved with
  | w :: _ => (s.wg w).lin
  | [] => i.lins.headD 0

/-- The items that wait, of every running launch of a context that is not being destroyed. -/
def State.items (s : State) : List Item :=
  s.launches.flatMap (fun e =>
    if e.2.running && e.2.eligible && s.ctxLive e.2.ctx then
      s.savedSets e.1 ++ (if e.2.next < e.2.total then [{ launch := e.1, lins := e.2.nextSet, saved := [] }] else [])
    else [])

/-- Whether one item goes before another: by class, start order, index (R87). -/
def State.itemBefore (s : State) (a b : Item) : Bool :=
  let x := s.launch a.launch
  let y := s.launch b.launch
  if x.cls ≠ y.cls then decide (x.cls < y.cls)
  else if x.order ≠ y.order then decide (x.order < y.order)
  else decide (s.itemIndex a ≤ s.itemIndex b)

/-- An item put into its place. -/
def State.insertItem (s : State) (l : List Item) (i : Item) : List Item :=
  match l with
  | [] => [i]
  | a :: t => if s.itemBefore a i then a :: s.insertItem t i else i :: a :: t

/-- The waiting work in its order. -/
def State.itemOrder (s : State) : List Item := s.items.foldl s.insertItem []

/-! ## Starting groups (R115, R117, R126, R412) -/

/-- A preloaded register: full and tagged I64. -/
def preload (n : Nat) : Reg := { bits := BitVec.ofNat 64 n, tag := 1, full := true }

/-- The start values of a group's registers; `s7` is its spawn-record pointer. -/
def State.startRegs (s : State) (w grp s7 : Nat) : State :=
  let l := s.launchOf w
  let n := (s.wg w).lin
  let uni := [l.karg.toNat, n % l.gx, n / l.gx % l.gy, n / (l.gx * l.gy), grp, n, l.groups, s7]
  let t := (uni.zip (List.range 8)).foldl (fun (u : State) x => u.setReg (.s w grp x.2) (preload x.1)) s
  (List.range 32).foldl (fun (u : State) lane =>
    (u.setReg (.v w grp lane 0) (preload (32 * grp + lane))).setReg (.v w grp lane 1) (preload lane)) t

/-- The start values of a Helm's registers. -/
def State.startHelmRegs (s : State) (w : Nat) : State :=
  let l := s.launchOf w
  let n := (s.wg w).lin
  ([l.karg.toNat, n, n % l.gx, n / l.gx % l.gy, n / (l.gx * l.gy)].zip (List.range 5)).foldl
    (fun (u : State) x => u.setReg (.h w x.2) (preload x.1)) s

/-- Whether threads that start at an address start in privileged mode: the leaf of their first fetch has PV = 1. -/
def State.startPriv (s : State) (ctx : Nat) (entry : Word) : Bool :=
  match s.translate ctx entry.toNat .probe true with
  | (.ok l, _) => decide (entry.toNat < 2 ^ 57) && bitAt l.entry 6
  | (.error _, _) => false

/-- A group started with threads in its lowest `n` lanes. -/
def State.startGroup (s : State) (w grp n slot : Nat) (entry : Word) (spawned : Bool) (block s7 : Nat) : State :=
  let priv := s.startPriv (s.ctxOf w) entry
  let t := (s.setGroup { wg := w, grp := grp } { Group.absent with present := true, spawned := spawned, slot := slot, block := block }).startRegs w grp s7
  (List.range n).foldl (fun (u : State) lane =>
    u.setThread { wg := w, grp := grp, lane := lane } { Thread.absent with live := true, pc := entry, priv := priv }) t

/-- A party that starts to work for a command sees what the command's start pulled (R75). -/
def State.startView (s : State) (cmd : Nat) (who : Party) : State :=
  { s with floors := (s.floors.filter (fun f => f.who == .command cmd)).map (fun f => { f with who := who }) ++ s.floors }

/-! ## Placing (R83 to R91, R138, R149) -/

/-- What placing on a Ridge does to its Ridge memory: the launch's first workgroup there finds zeros (R84, R149). -/
def State.takeRidge (s : State) (id core : Nat) : State :=
  let r := ridgeOfCore core
  if (s.launch id).lend = 0 ∨ s.ridgeHolder r = some id then s
  else
    let a := ridgeAt id r 0
    let t := s.clearRange a (2 ^ 23)
    { t with
      hist := t.hist.filter (fun e => decide (e.addr < a) || decide (a + 2 ^ 23 ≤ e.addr))
      emptyLines := t.emptyLines.filter (fun x => decide (128 * x < a) || decide (a + 2 ^ 23 ≤ 128 * x)) }

/-- Whether a die has not reached the point of a launch other than Summit, as far as its ceiling lets it (R91). -/
def State.belowPoint (s : State) (l : Launch) (die : Nat) : Bool := l.cls != 0 && decide ((s.die die).point < min l.opp (s.die die).ceiling)

/-- Whether the first workgroup of a launch on a die waits for its operating point (R91). -/
def State.waitsForPoint (s : State) (l : Launch) (die : Nat) : Bool := !l.dieSeen.contains die && s.belowPoint l die

/-- A workgroup of a launch stands on a die (R91). -/
def Launch.seeDie (l : Launch) (die : Nat) : Launch := { l with dieSeen := if l.dieSeen.contains die then l.dieSeen else die :: l.dieSeen }

/-- A new workgroup of a launch on a core: its resources, barriers, Helm and groups. -/
def State.placeOne (s : State) (id lin core : Nat) : State :=
  let s := s.takeRidge id core
  let l := s.launch id
  let die := dieOfCore core
  let w := s.nextId
  let slots := (s.freeSlots core).take l.groups
  let expect := l.threads + (if l.helm = 0 then 0 else 1)
  let x : Workgroup := { Workgroup.absent with
    launch := id, lin := lin, set := lin / (l.rset + 1), core := core, status := .resident, slots := slots
    helmNo := (s.freeHelms core).headD 0, share := (if l.det then some die else none), nextGroup := l.groups
    bars := (List.range l.barsN).map (fun n => (n, { Barrier.reset with expect := BitVec.ofNat 11 expect }))
    placedAt := w, heldForPoint := s.waitsForPoint l die }
  let t := ({ s with nextId := w + 1 }).setWg w x
  let t := t.setLaunch id { l.seeDie die with next := l.next + 1, live := l.live + 1 }
  let t := (t.setHelm w { Helm.absent with running := l.helm != 0, pc := l.helm, number := x.helmNo }).startHelmRegs w
  (slots.zip (List.range l.groups)).foldl (fun (u : State) y =>
    (u.startGroup w y.2 (min 32 (l.threads - 32 * y.2)) y.1 l.entry false 0 0).startView l.cmd (.group w y.2)) (t.startView l.cmd (.helm w))

/-- A new set placed. -/
def State.placeSet (s : State) (i : Item) (cores : List Nat) : State :=
  (i.lins.zip cores).foldl (fun (t : State) x => t.placeOne i.launch x.1 x.2) s

/-! ## Pre-emption (R88, R105, R106, R110) -/

/-- The lowest free save slot of a context. -/
def State.freeSave (s : State) (ctx : Nat) : Nat :=
  let used := s.wgs.filterMap (fun e => match e.2.status with | .saved k => if (s.launch e.2.launch).ctx = ctx then some k else none | _ => none)
  ((List.range (used.length + 1)).find? (fun k => !used.contains k)).getD 0

/-- The fills of a workgroup arrive (R106 step 1). -/
def State.finishFills (s : State) (w : Nat) : State :=
  (s.fills.filter (fun f => f.owner.wg == w)).foldl (fun (t : State) f => t.fillNow f) s

/-- A workgroup's records in the bins of its core, with their countdowns. -/
def State.binsOf (s : State) (w : Nat) : List SpawnBin :=
  ((s.core (s.coreOf w)).bins.map (fun (b : SpawnBin) => { b with recs := b.recs.filter (fun r => r.wg == w) })).filter (fun b => !b.recs.isEmpty)

/-- The same taken out of the bins. -/
def State.dropBins (s : State) (w : Nat) : State :=
  let c := s.coreOf w
  s.setCore c { s.core c with
    bins := ((s.core c).bins.map (fun (b : SpawnBin) => { b with recs := b.recs.filter (fun r => r.wg != w) })).filter (fun b => !b.recs.isEmpty) }

/-- A waiting thread at a pre-emption: a nap ends behind its instruction, and a wait for a spawn bin or for the Gauntlet is given up
(R344, R347, R415). -/
def Thread.endWait (t : Thread) : Thread :=
  match t.wait with
  | .nap _ next => { t with wait := .none, pc := next }
  | .spawnBin => { t with wait := .none }
  | .gauntlet => { t with wait := .none }
  | _ => t

/-- The lanes that wait for an append after its claim resume behind it; the device finishes it (R397). -/
def State.leavePushes (s : State) (w : Nat) : State :=
  let mine := s.ops.filter (fun o => o.wg == w && o.kind.isPush)
  { s with
    threads := s.threads.map (fun (e : ThreadId × Thread) =>
      match mine.find? (fun o => e.1.wg == w && o.grp == some e.1.grp && o.lines.contains e.1.lane && o.tx == e.2.pc.toNat) with
      | some o => (e.1, { e.2 with pc := o.kind.after, wait := .none })
      | none => e)
    ops := (s.ops.filter (fun o => !(o.wg == w && o.kind.isPush && o.done))).map (fun (o : AsyncOp) =>
      if o.wg == w && o.kind.isPush then { o with lines := [] } else o) }

/-- What the stop at an instruction boundary does to a workgroup's waits (R106 step 1): records read for an issue that was blocked and
elements that streams have fetched ahead are given up too. -/
def State.endWaits (s : State) (w : Nat) : State :=
  let t := s.leavePushes w
  { t with
    threads := t.threads.map (fun (e : ThreadId × Thread) => if e.1.wg == w then (e.1, e.2.endWait) else e)
    groups := t.groups.map (fun (e : GroupId × Group) =>
      if e.1.wg == w then (e.1, { e.2 with recs := [], streams := e.2.streams.map (fun (x : Nat × Stream) => (x.1, { x.2 with fifo := [] })) })
      else e) }

/-- The address of a save record (R82, R106). -/
def State.saveAddr (s : State) (ctx slot : Nat) : Nat :=
  match FMap.find s.ctxs ctx with | some c => c.saveBase.toNat + 2 ^ 21 * slot | none => 0

/-- One word of a save record: its contents are not given (log entry 31). -/
def State.saveWord (s : State) (ctx a : Nat) : State :=
  match s.resolve (deviceReq ctx) spGlobal (BitVec.ofNat 64 a) 8 .write with
  | (.ok p, t) =>
    { ((t.touchSpot p true).performLoc .device none p.loc (.store (leBytes 8 (Config.freeWord t.freeCount).toNat))) with
      freeCount := t.freeCount + 1 }
  | (.error _, _) => s

/-- The save record of a workgroup written (R106 step 5). Only memory shows it: the state itself is kept under the workgroup. -/
def State.saveRecord (s : State) (w slot : Nat) : State :=
  let r := (List.range (min Config.saveRecordWords 262144)).foldl
    (fun (u : State) i => u.saveWord (s.ctxOf w) (s.saveAddr (s.ctxOf w) slot + 8 * i)) s
  { s with mem := r.mem, hist := r.hist, writeSeq := r.writeSeq, poison := r.poison, freeCount := r.freeCount, vbd := r.vbd }

/-- One workgroup saved: its loads arrive, its Gauntlet reaches the quiescent point, its bins are taken, its record is written (R106). -/
def State.saveOne (s : State) (w : Nat) : State :=
  let t := ((s.finishFills w).finishArray (s.coreOf w)).handBackHelm w
  let slot := t.freeSave (t.ctxOf w)
  let bins := t.binsOf w ++ (t.wg w).savedBins
  let t := (((t.dropBins w).endWaits w).saveRecord w slot)
  t.setWg w { t.wg w with status := .saved slot, slots := [], savedBins := bins, saveSeal := t.writeSeq }

/-- The lines of operations at work renumbered with a range of Ridge memory that is moved or, for some workgroups, copied (R108). -/
def State.moveLines (s : State) (src dst n : Nat) (ws : List Nat) : State :=
  { s with ops := s.ops.map (fun (o : AsyncOp) =>
      if ws.contains o.wg && !o.kind.isPush then { o with lines := o.lines.map (movedAddr (src / 128) (dst / 128) (n / 128)) } else o) }

/-- The lines of a range to which something is owed made empty, the others full (R150). -/
def State.reowe (s : State) (a n : Nat) : State :=
  let owed := ((s.ops.filter (fun o => !o.done && !o.kind.isPush)).flatMap (fun o => o.lines)).filter (fun l =>
    decide (a ≤ 128 * l) && decide (128 * l < a + n))
  { s with emptyLines := owed.eraseDups ++ s.emptyLines.filter (fun l => decide (128 * l < a) || decide (a + n ≤ 128 * l)) }

/-- The Ridge memory of saved workgroups of a launch put into their image, or of restored ones taken out of it: their operations follow
it. It is copied where `keep` says that other sets stay (R106, R108, R109). -/
def State.shiftRidge (s : State) (src dst : Nat) (keep : Bool) (ws : List Nat) : State :=
  let t := (if keep then s.copyRange src dst (2 ^ 23) else s.moveRange src dst (2 ^ 23)).moveLines src dst (2 ^ 23) ws
  (t.reowe src (2 ^ 23)).reowe dst (2 ^ 23)

/-- A Ridge set saved as a unit (R85), with its share of Ridge memory: what stood there, which other sets of the launch on the
Ridge keep too. -/
def State.saveSet (s : State) (id set : Nat) : State :=
  let mine := (s.wgs.filter (fun e => e.2.launch == id && e.2.set == set && e.2.isResident)).map (·.1)
  match mine with
  | [] => s
  | w :: _ =>
    let r := ridgeOfCore (s.coreOf w)
    let t := mine.foldl (fun (u : State) x => u.saveOne x) s
    if (t.launch id).lend = 0 then t
    else t.shiftRidge (ridgeAt id r 0) (ridgeAt id (64 + set) 0) (t.ridgeHolder r == some id) mine

/-- Every set that has a workgroup of a context on some Ridges is pre-empted (R105). -/
def State.preempt (s : State) (ctx : Nat) (ridges : BitVec 40) : State :=
  (((s.wgs.filter (fun e => e.2.isResident && bitAt ridges (ridgeOfCore e.2.core) && (s.launch e.2.launch).ctx == ctx)).map
    (fun e => (e.2.launch, e.2.set))).eraseDups).foldl (fun (t : State) x => t.saveSet x.1 x.2) s

/-! ## Summit pre-emption (R88) -/

/-- The sets that Summit work of a context may pre-empt, first to go first: Background before Normal before High, the most
recently placed first. -/
def State.victims (s : State) (summit : BitVec 40) : List (Nat × Nat) :=
  let ws := s.wgs.filter (fun e => e.2.isResident && bitAt summit (ridgeOfCore e.2.core) && (s.launch e.2.launch).cls != 0)
  let ranks := sortDown (ws.map (fun e => (s.launch e.2.launch).cls.toNat * 2 ^ 64 + e.2.placedAt))
  (ranks.filterMap (fun k =>
    (ws.find? (fun e => (s.launch e.2.launch).cls.toNat * 2 ^ 64 + e.2.placedAt == k)).map (fun e => (e.2.launch, e.2.set)))).eraseDups

/-- Sets pre-empted one after another until an item fits. -/
def State.makeRoom (s : State) (i : Item) (vs : List (Nat × Nat)) : State :=
  match vs with
  | [] => s
  | v :: t => if s.itemFits i then s else (s.saveSet v.1 v.2).makeRoom i t

/-- The Summit Ridges of a launch's context. -/
def State.summitOf (s : State) (id : Nat) : BitVec 40 :=
  match FMap.find s.ctxs (s.launch id).ctx with
  | some c => c.summit
  | none => 0

/-- Room made for a Summit item that does not fit, if pre-empting every other class there makes it fit. -/
def State.roomFor (s : State) (i : Item) : Option State :=
  if s.itemFits i then some s
  else if (s.launch i.launch).cls ≠ 0 then none
  else
    let vs := s.victims (s.summitOf i.launch)
    if (vs.foldl (fun (t : State) v => t.saveSet v.1 v.2) s).itemFits i then some (s.makeRoom i vs) else none

/-- The work that the device takes next, with the room made for it (R87, R88). -/
def State.nextItem (s : State) : Option (Item × State) := s.itemOrder.findSome? (fun i => (s.roomFor i).map (fun t => (i, t)))

/-- WORKGROUP_PLACE (R87): the next new set on cores where it fits. -/
def execWorkgroupPlace (cores : List Nat) (s : State) : Out :=
  if !s.serves then .next s
  else match s.nextItem with
    | none => .next s
    | some (i, t) =>
      if !i.saved.isEmpty then .next s
      else if t.itemFitsOn i cores then .next (t.placeSet i cores)
      else .next t

/-! ## Restoration (R109, R113) -/

/-- Whether a save record has been written since it was sealed, or is poisoned (R109, R288). -/
def State.recordBad (s : State) (w slot : Nat) : Bool :=
  let ctx := s.ctxOf w
  let base := s.saveAddr ctx slot
  let sealFresh := (s.wg w).saveSeal
  let frames := fun (_ : Unit) => (List.range 512).filterMap (fun i =>
    match s.translate ctx (base + 4096 * i) .probe true with
    | (.ok l, _) => some (frameAt l.tier l.frame / 4096)
    | (.error _, _) => none)
  (s.hist.any (fun e => decide (sealFresh < e.seq)) && s.hist.any (fun e => decide (sealFresh < e.seq) && (frames ()).contains (e.addr / 4096)))
    || (!s.poison.isEmpty && s.poison.any (fun p => (frames ()).contains (p / 512)))

/-- A record that fails its check: its workgroup is killed, and BAD_SAVE posted (R109). -/
def State.badSave (s : State) (w slot : Nat) : State :=
  let t := s.killWg w
  t.postFault (t.ctxOf w) (t.threadRec { wg := w, grp := 0, lane := 0 } 0x105 4 0 0 0 0 (BitVec.ofNat 64 slot))

/-- What an eager save comes to: done, held by a fault, or waiting for a tile. -/
inductive EagerOut where
  | done (s : State)
  | stop (s : State)

/-- A tile of a core written to the owner's save area (R113): its bit leaves the mask of those still to write. -/
def State.eagerTile (s : State) (w old t : Nat) : EagerOut :=
  let ctx := s.ctxOf w
  let r := deviceReq ctx
  let s := s.checkTile old t ctx
  let area := match FMap.find s.ctxs ctx with | some c => c.accSave | none => 0
  let xs := (List.range 512).map (fun i =>
    (area + BitVec.ofNat 64 (32768 * old + 4096 * t + 8 * i),
      if (s.core old).tileIsBad t then WriteOp.poisoned 8 else .store (s.bytesAt (tileAt old t + 8 * i) 8)))
  match s.prepRun r (xs.map (fun x => (x.1, 8, .write))) with
  | (.wait, u) => .stop u
  | (.fault f, u) =>
    .stop ((u.setWg w { u.wg w with eagerHeld := true }).postFault (u.ctxOf w)
      (u.threadRec { wg := w, grp := 0, lane := 0 } f.cause.toNat 4 (f.info.toNat % 2 ^ 32) f.addr 0 0 0))
  | (.ready, u) =>
    match u.putOps r xs with
    | .error _ => .stop s
    | .ok v => .done (v.setWg w { v.wg w with eager := (v.wg w).eager.map (fun m => putBit m t false) })

/-- Those of some tiles that are full written, each as it is (R113). -/
def State.eagerTiles (s : State) (w old : Nat) (tiles : List Nat) : EagerOut :=
  match tiles with
  | [] => .done s
  | t :: rest =>
    if !(s.core old).tileIsFull t then s.eagerTiles w old rest
    else match s.eagerTile w old t with
      | .stop u => .stop u
      | .done u => u.eagerTiles w old rest

/-- An eager save with every tile written: the old core's file has no owner any more, unless another workgroup of the context is
resident there (R113). -/
def State.eagerEnd (s : State) (w old : Nat) : State :=
  let ctx := s.ctxOf w
  let others := s.wgs.any (fun e => e.1 != w && e.2.isResident && e.2.core == old && (s.launch e.2.launch).ctx == ctx)
  let u := if others || (s.core old).accOwner.toNat != ctx then s else s.setCore old { s.core old with accOwner := 0, accLive := 0 }
  u.setWg w { u.wg w with oldCore := some old, eager := some 0 }

/-- The eager save before a workgroup is restored on a different core, where its context's tiles are live (R113): begun at the first
attempt, and taken as far as tiles are full. Where another context has taken the file meanwhile, its handler has saved the rest. -/
def State.eagerSave (s : State) (w core : Nat) : EagerOut :=
  let old := s.coreOf w
  let owns := (s.core old).accOwner.toNat == s.ctxOf w
  match (if core = old then some 0 else (s.wg w).eager) with
  | some m =>
    if m = 0 then .done s
    else if !owns then .done (s.eagerEnd w old)
    else match s.eagerTiles w old ((List.range 8).filter (fun t => bitAt m t)) with
      | .stop t => .stop t
      | .done t => if (t.wg w).eager = some 0 then .done (t.eagerEnd w old) else .stop t
  | none =>
    let live := (s.core old).accLive
    if !owns || live == 0 then .done s
    else
      match (s.setWg w { s.wg w with eager := some live, savedTiles := live }).eagerTiles w old ((List.range 8).filter (fun t => bitAt live t)) with
      | .stop t => .stop t
      | .done t => if (t.wg w).eager = some 0 then .done (t.eagerEnd w old) else .stop t

/-- Whether a bin takes all the records of another (R124): the same key, room, and neither one of a deterministic kernel, whose order
R127 fixes. -/
def SpawnBin.takes (a b : SpawnBin) : Bool :=
  a.launch == b.launch && a.entry == b.entry && a.wg.isNone && b.wg.isNone && decide (a.recs.length + b.recs.length ≤ 32)

/-- Records joined to a bin: it counts down from the smaller count (R125). -/
def SpawnBin.join (a b : SpawnBin) : SpawnBin :=
  { a with recs := a.recs ++ b.recs, countdown := min a.countdown b.countdown, fired := a.fired || b.fired || decide (32 ≤ a.recs.length + b.recs.length) }

/-- A saved bin put back among the bins of a core: into one that takes it, or an empty one; none where all 16 are taken (R109, R124). -/
def putBin (bins : List SpawnBin) (b : SpawnBin) : Option (List SpawnBin) :=
  match bins.findIdx? (fun a => a.takes b) with
  | some i => some (bins.modify i (fun a => a.join b))
  | none => if bins.length < 16 then some (bins ++ [b]) else none

/-- Saved bins put back in their order, and those that find no bin. -/
def putBinList (bins left : List SpawnBin) : List SpawnBin × List SpawnBin :=
  match left with
  | [] => (bins, [])
  | b :: t => match putBin bins b with
    | some bs => putBinList bs t
    | none => (bins, left)

/-- The spawn records of a workgroup put into bins of its core, as far as there are bins; the rest waits (R109, R124). -/
def State.putBins (s : State) (w core : Nat) : State :=
  let r := putBinList (s.core core).bins (s.wg w).savedBins
  let t := s.setCore core { s.core core with bins := r.1 }
  t.setWg w { t.wg w with savedBins := r.2 }

/-- The side-log entries of a workgroup moved to the end of its new core's log, in their order (R109). -/
def State.moveLog (s : State) (w core : Nat) : State :=
  let old := s.coreOf w
  let mine := (s.core old).sideLog.filter (fun e => e.thread.wg == w)
  let t := s.setCore old { s.core old with sideLog := (s.core old).sideLog.filter (fun e => e.thread.wg != w) }
  t.setCore core { t.core core with sideLog := (t.core core).sideLog ++ mine }

/-- New slots for the spawned groups of a restored workgroup. -/
def State.reslot (s : State) (w : Nat) (slots : List Nat) : State :=
  ((s.spawnedOf w).zip slots).foldl (fun (t : State) x => t.setGroup x.1 { t.group x.1 with slot := x.2 }) s

/-- One workgroup back on a core (R109), held there for its operating point as R91 says. -/
def State.restoreOne (s : State) (w core : Nat) : State :=
  let l := s.launchOf w
  let slots := s.freeSlots core
  let t := ((s.moveLog w core).reslot w (slots.drop l.groups)).putBins w core
  let helm := (t.freeHelms core).headD 0
  let die := dieOfCore core
  let first := if dieOfCore (s.coreOf w) = die then (s.wg w).heldForPoint else !l.dieSeen.contains die
  let t := t.setWg w { t.wg w with
    core := core, status := .resident, slots := slots.take l.groups, helmNo := helm, placedAt := t.nextId, eager := none
    heldForPoint := first && s.belowPoint l die }
  let t := t.setLaunch (t.wg w).launch ((t.launchOf w).seeDie die)
  ({ t with nextId := t.nextId + 1 }).setHelm w { t.helm w with number := helm }

/-- Room in the new cores' side logs for the entries that come back. -/
def State.logFits (s : State) (i : Item) (cores : List Nat) : Bool :=
  (i.saved.zip cores).all (fun x =>
    decide (((s.core (s.coreOf x.1)).sideLog.filter (fun e => e.thread.wg == x.1)).length ≤ s.sideRoom x.2))

/-- A saved set back on one Ridge, its Ridge memory with it. -/
def State.restoreAll (s : State) (i : Item) (cores : List Nat) : State :=
  let l := s.launch i.launch
  let r := ridgeOfCore (cores.headD 0)
  let set := (s.wg (i.saved.headD 0)).set
  let t := if l.lend = 0 then s
    else s.shiftRidge (ridgeAt i.launch (64 + set) 0) (ridgeAt i.launch r 0) false i.saved
  (i.saved.zip cores).foldl (fun (u : State) x => u.restoreOne x.1 x.2) t

/-- The eager saves of a set, one workgroup after another. -/
def State.eagerAll (s : State) (xs : List (Nat × Nat)) : EagerOut :=
  match xs with
  | [] => .done s
  | x :: t =>
    match s.eagerSave x.1 x.2 with
    | .stop u => .stop u
    | .done u => u.eagerAll t

/-- The members of a saved set whose records fail their check, with their slots. -/
def State.badMembers (s : State) (i : Item) : List (Nat × Nat) :=
  i.saved.filterMap (fun w => match (s.wg w).status with
    | .saved slot => if s.recordBad w slot then some (w, slot) else none
    | _ => none)

/-- WORKGROUP_RESTORE (R109): the next saved set on cores where it fits. -/
def execWorkgroupRestore (cores : List Nat) (s : State) : Out :=
  if !s.serves then .next s
  else match s.nextItem with
    | none => .next s
    | some (i, t) =>
      if i.saved.isEmpty then .next s
      else
        match t.badMembers i with
        | [] =>
          if t.itemFitsOn i cores && t.logFits i cores then
            (match t.eagerAll (i.saved.zip cores) with
             | .stop u => .next u
             | .done u => .next (u.restoreAll i cores))
          else .next t
        | bad => .next (bad.foldl (fun (u : State) x => u.badSave x.1 x.2) t)

/-! ## Hangs, naps, yields, Helm traps (R93, R94, R120, R280, R344) -/

/-- HANG_LIMIT (R93). -/
def execHangLimit (wg grp : Nat) (s : State) : Out :=
  if s.mayRun wg then .next (s.hangGroup { wg := wg, grp := grp }) else .next s

/-- HELM_HANG_LIMIT (R94). -/
def execHelmHangLimit (wg : Nat) (s : State) : Out := if s.mayRun wg then .next (s.hangHelm wg) else .next s

/-- HELM_TRAP_DELIVERY (R280). -/
def execHelmTrapDelivery (wg : Nat) (s : State) : Out := if s.mayRun wg then .next (s.deliverHelm wg) else .next s

/-- BACKWARD_BRANCH_YIELD (R120). -/
def execBackwardBranchYield (wg grp : Nat) (s : State) : Out :=
  let g : GroupId := { wg := wg, grp := grp }
  if s.mayRun wg && decide (64 ≤ (s.group g).backCount) then .next (s.yieldBackward g) else .next s

/-- A napping thread whose cycles have passed goes on (R344). -/
def Thread.wake (t : Thread) : Thread :=
  match t.wait with
  | .nap 0 next => { t with wait := .none, pc := next }
  | _ => t

/-- NAP_EXPIRE (R344). -/
def execNapExpire (wg grp : Nat) (s : State) : Out :=
  if s.mayRun wg then
    .next { s with threads := s.threads.map (fun (e : ThreadId × Thread) =>
      if e.1.wg == wg && e.1.grp == grp then (e.1, e.2.wake) else e) }
  else .next s

/-! ## Spawned groups (R124 to R127) -/

/-- SPAWN_BIN_COUNTDOWN (R125). -/
def execSpawnBinCountdown (core bin : Nat) (s : State) : Out :=
  match (s.core core).bins[bin]? with
  | some b =>
    if b.countdown = 0 ∧ !b.fired then .next (s.setCore core { s.core core with bins := (s.core core).bins.set bin { b with fired := true } })
    else .next s
  | none => .next s

/-- Held records in the order of R127: by spawner, then by sequence number. -/
def insertHeld (r : Word × SpawnRec) (l : List (Word × SpawnRec)) : List (Word × SpawnRec) :=
  match l with
  | [] => [r]
  | a :: t =>
    if a.2.spawner < r.2.spawner ∨ (a.2.spawner = r.2.spawner ∧ a.2.seq ≤ r.2.seq) then a :: insertHeld r t else r :: a :: t

/-- The bins that sorted records of one entry form, 32 records to each. -/
def binsFrom (launch wg : Nat) (entry : Word) (recs : List SpawnRec) : List SpawnBin :=
  (List.range (ceilDiv recs.length 32)).map (fun i =>
    { launch := launch, entry := entry, wg := some wg, recs := (recs.drop (32 * i)).take 32, countdown := 0, fired := true })

/-- The next generation of a deterministic workgroup formed, once every group of the one before has exited (R127). Where its records name
several entry addresses, its groups stand in the order in which the addresses first appear in the sorted list (log entry 62). -/
def State.formGeneration (s : State) (w : Nat) : State :=
  let held := s.spawnHeld.filter (fun h => h.1 == w)
  let c := s.coreOf w
  if held.isEmpty || (s.threadsOf w).any (fun t => (s.thread t).live) || (s.core c).bins.any (fun b => b.wg == some w)
      || !(s.wg w).savedBins.isEmpty then s
  else
    let sorted := (held.map (fun h => (h.2.1, h.2.2))).foldl (fun acc r => insertHeld r acc) []
    let bins := ((sorted.map (fun r => r.1)).eraseDups).flatMap (fun e =>
      binsFrom (s.wg w).launch w e ((sorted.filter (fun r => r.1 == e)).map (·.2)))
    (({ s with spawnHeld := s.spawnHeld.filter (fun h => h.1 != w) }).setWg w { s.wg w with savedBins := bins }).putBins w c

/-- The bins that a core's resident workgroups wait for, then the generations that may form. -/
def State.formGenerations (s : State) (c : Nat) : State :=
  ((s.residents c).map (·.1)).foldl (fun (t : State) w => (if (t.wg w).savedBins.isEmpty then t else t.putBins w c).formGeneration w) s

/-- A group slot for a spawned group whose record block no live spawned group still has (R126). -/
def State.spawnSlot (s : State) (c : Nat) : Option Nat :=
  (s.freeSlots c).find? (fun i => !s.groups.any (fun e => e.2.spawned && e.2.block == spawnBlock c i && !(s.liveOf e.1).isEmpty))

/-- A fired bin's group started (R125, R126, R347): its records in its block, its threads in dense lanes; its start is a `pull pkg`. -/
def State.startSpawned (s : State) (c bin : Nat) (b : SpawnBin) (slot : Nat) : State :=
  let w := (b.recs.map (fun r => r.wg)).headD 0
  let grp := (s.wg w).nextGroup
  let block := spawnBlock c slot
  let t := s.setCore c { s.core c with bins := (s.core c).bins.eraseIdx bin }
  let t := t.renew (chipAt block) (b.recs.flatMap (fun r => r.bytes))
  let t := t.setWg w { t.wg w with nextGroup := grp + 1 }
  let u := t.startGroup w grp b.recs.length slot b.entry true block (genericAddr spChip (BitVec.ofNat 64 block)).toNat
  let u := (u.startView (u.launchOf w).cmd (.group w grp)).pull .pkg (u.groupPlace { wg := w, grp := grp })
  -- a workgroup whose last records have joined another's group may be over
  ((b.recs.map (fun r => r.wg)).eraseDups).foldl (fun (v : State) x => if x = w then v else v.settleWg x) u

/-- SPAWN_GROUP_START (R125, R127): a fired bin's group starts in a free slot; a deterministic workgroup's in their order. -/
def execSpawnGroupStart (core bin : Nat) (s : State) : Out :=
  let s := s.formGenerations core
  match (s.core core).bins[bin]? with
  | none => .next s
  | some b =>
    let first := b.wg.isNone || !((s.core core).bins.take bin).any (fun x => x.wg == b.wg)
    match s.spawnSlot core with
    | some slot => if s.boot.ready && b.fired && first then .next (s.startSpawned core bin b slot) else .next s
    | none => .next s

end Sys2Proof.Machine
end

