-- ==== Sys2Proof/Machine/Float.lean ====
section
/-! DEFINITION. The meanings of the floating-point instructions (R349 to R360). -/

namespace Sys2Proof.Machine

open Sys2Proof

/-- The operands of a 64-bit floating-point form: in SHAPE 0b10, A is D itself (R351). -/
def formF (w : R64) : Form :=
  match w.sh with
  | .imm32 _ _ => { form64 w false with a := (form64 w false).dstSrc }
  | _ => form64 w false

/-- The format of a 64-bit form's immediate: FP32 in SHAPE 0b10, else BF16 (R351). -/
def immFmt (w : R64) : Fmt := match w.sh with | .imm32 _ _ => f32 | _ => bf16

/-- Whether B is an immediate. -/
def hasImm16 (w : R64) : Bool := match w.sh with | .imm16 _ _ _ _ _ _ => true | _ => false

/-- The pattern of `swz` (R356): bits [7:6] are SO. -/
def swzPattern (w : R64) : Nat :=
  w.so.toNat * 64 + (match w.sh with | .rrr _ _ _ _ b _ _ _ => b.toNat % 64 | .imm16 _ imm _ _ _ _ => imm.toNat % 64 | _ => 0)

/-- fadd (R352), 32-bit form. -/
def execFadd (w : R32) (s : State) : Out := s.runAlu (form32 w false false) (aluFadd bf16)
/-- fadd (R352), 32-bit uniform form. -/
def execFaddUniform (w : R32) (s : State) : Out := s.runAlu (form32 w false false) (aluFadd bf16)
/-- fadd (R352), 64-bit form. -/
def execFadd64 (w : R64) (s : State) : Out := s.runAlu (formF w) (aluFadd (immFmt w))
/-- fadd (R352), 16-bit form (R295). -/
def execFadd16 (w : R16) (s : State) : Out := s.runAlu (form16 w false) (aluFadd bf16)
/-- fsub (R352), 32-bit form. -/
def execFsub (w : R32) (s : State) : Out := s.runAlu (form32 w false false) (aluFsub bf16)
/-- fsub (R352), 32-bit uniform form. -/
def execFsubUniform (w : R32) (s : State) : Out := s.runAlu (form32 w false false) (aluFsub bf16)
/-- fsub (R352), 64-bit form. -/
def execFsub64 (w : R64) (s : State) : Out := s.runAlu (formF w) (aluFsub (immFmt w))
/-- fsub (R352), 16-bit form (R295). -/
def execFsub16 (w : R16) (s : State) : Out := s.runAlu (form16 w false) (aluFsub bf16)
/-- fmul (R352), 32-bit form. -/
def execFmul (w : R32) (s : State) : Out := s.runAlu (form32 w false false) (aluFmul bf16 w.so.toNat)
/-- fmul (R352), 32-bit uniform form. -/
def execFmulUniform (w : R32) (s : State) : Out := s.runAlu (form32 w false false) (aluFmul bf16 w.so.toNat)
/-- fmul (R352), 64-bit form. -/
def execFmul64 (w : R64) (s : State) : Out := s.runAlu (formF w) (aluFmul (immFmt w) w.so.toNat)
/-- fmul (R352), 16-bit form (R295). -/
def execFmul16 (w : R16) (s : State) : Out := s.runAlu (form16 w false) (aluFmul bf16 0)
/-- fma (R352), 32-bit form. -/
def execFma (w : R32) (s : State) : Out := s.runAlu (form32 w false false) (aluFma w.so.toNat false)
/-- fma (R352), 32-bit uniform form. -/
def execFmaUniform (w : R32) (s : State) : Out := s.runAlu (form32 w false false) (aluFma w.so.toNat false)
/-- fma (R352), 64-bit form. -/
def execFma64 (w : R64) (s : State) : Out := s.runAlu (form64 w false) (aluFma w.so.toNat false)
/-- fnma (R352), 32-bit form. -/
def execFnma (w : R32) (s : State) : Out := s.runAlu (form32 w false false) (aluFma w.so.toNat true)
/-- fnma (R352), 32-bit uniform form. -/
def execFnmaUniform (w : R32) (s : State) : Out := s.runAlu (form32 w false false) (aluFma w.so.toNat true)
/-- fnma (R352), 64-bit form. -/
def execFnma64 (w : R64) (s : State) : Out := s.runAlu (form64 w false) (aluFma w.so.toNat true)
/-- fmin (R352), 32-bit form. -/
def execFmin (w : R32) (s : State) : Out := s.runAlu (form32 w false false) (aluFmin bf16)
/-- fmin (R352), 32-bit uniform form. -/
def execFminUniform (w : R32) (s : State) : Out := s.runAlu (form32 w false false) (aluFmin bf16)
/-- fmin (R352), 64-bit form. -/
def execFmin64 (w : R64) (s : State) : Out := s.runAlu (formF w) (aluFmin (immFmt w))
/-- fmin (R352), 16-bit form (R295). -/
def execFmin16 (w : R16) (s : State) : Out := s.runAlu (form16 w false) (aluFmin bf16)
/-- fmax (R352), 32-bit form. -/
def execFmax (w : R32) (s : State) : Out := s.runAlu (form32 w false false) (aluFmax bf16)
/-- fmax (R352), 32-bit uniform form. -/
def execFmaxUniform (w : R32) (s : State) : Out := s.runAlu (form32 w false false) (aluFmax bf16)
/-- fmax (R352), 64-bit form. -/
def execFmax64 (w : R64) (s : State) : Out := s.runAlu (formF w) (aluFmax (immFmt w))
/-- fmax (R352), 16-bit form (R295). -/
def execFmax16 (w : R16) (s : State) : Out := s.runAlu (form16 w false) (aluFmax bf16)
/-- fdot (R354), 32-bit form. -/
def execFdot (w : R32) (s : State) : Out := s.runAlu (form32 w false false) (aluFdot w.so.toNat)
/-- fdot (R354), 32-bit uniform form. -/
def execFdotUniform (w : R32) (s : State) : Out := s.runAlu (form32 w false false) (aluFdot w.so.toNat)
/-- fdot (R354), 64-bit form. -/
def execFdot64 (w : R64) (s : State) : Out := s.runAlu (form64 w false) (aluFdot w.so.toNat)
/-- fabs (R355), 32-bit form. -/
def execFabs (w : R32) (s : State) : Out := s.runAlu (form32 w false false) (aluFabs)
/-- fabs (R355), 32-bit uniform form. -/
def execFabsUniform (w : R32) (s : State) : Out := s.runAlu (form32 w false false) (aluFabs)
/-- fabs (R355), 64-bit form. -/
def execFabs64 (w : R64) (s : State) : Out := s.runAlu (form64 w false) (aluFabs)
/-- fneg (R355), 32-bit form. -/
def execFneg (w : R32) (s : State) : Out := s.runAlu (form32 w false false) (aluFneg)
/-- fneg (R355), 32-bit uniform form. -/
def execFnegUniform (w : R32) (s : State) : Out := s.runAlu (form32 w false false) (aluFneg)
/-- fneg (R355), 64-bit form. -/
def execFneg64 (w : R64) (s : State) : Out := s.runAlu (form64 w false) (aluFneg)
/-- fclass (R355), 32-bit form. -/
def execFclass (w : R32) (s : State) : Out := s.runAlu (form32 w false false) (aluFclass)
/-- fclass (R355), 32-bit uniform form. -/
def execFclassUniform (w : R32) (s : State) : Out := s.runAlu (form32 w false false) (aluFclass)
/-- fclass (R355), 64-bit form. -/
def execFclass64 (w : R64) (s : State) : Out := s.runAlu (form64 w false) (aluFclass)
/-- frnd (R355), 32-bit form. -/
def execFrnd (w : R32) (s : State) : Out := s.runAlu (form32 w false false) (aluFrnd (Mode.ofCode w.so.toNat))
/-- frnd (R355), 32-bit uniform form. -/
def execFrndUniform (w : R32) (s : State) : Out := s.runAlu (form32 w false false) (aluFrnd (Mode.ofCode w.so.toNat))
/-- frnd (R355), 64-bit form. -/
def execFrnd64 (w : R64) (s : State) : Out := s.runAlu (form64 w false) (aluFrnd (Mode.ofCode w.so.toNat))
/-- fscale (R355), 32-bit form. -/
def execFscale (w : R32) (s : State) : Out := s.runAlu (form32 w false false) (aluFscale false)
/-- fscale (R355), 32-bit uniform form. -/
def execFscaleUniform (w : R32) (s : State) : Out := s.runAlu (form32 w false false) (aluFscale false)
/-- fscale (R355), 64-bit form. -/
def execFscale64 (w : R64) (s : State) : Out := s.runAlu (form64 w true) (aluFscale (hasImm16 w))
/-- hadd (R356), 32-bit form. -/
def execHadd (w : R32) (s : State) : Out := s.runAlu (form32 w false false) (aluHadd)
/-- hadd (R356), 32-bit uniform form. -/
def execHaddUniform (w : R32) (s : State) : Out := s.runAlu (form32 w false false) (aluHadd)
/-- hadd (R356), 64-bit form. -/
def execHadd64 (w : R64) (s : State) : Out := s.runAlu (form64 w false) (aluHadd)
/-- pack (R356), 32-bit form. -/
def execPack (w : R32) (s : State) : Out := s.runAlu (form32 w false false) (aluPack)
/-- pack (R356), 32-bit uniform form. -/
def execPackUniform (w : R32) (s : State) : Out := s.runAlu (form32 w false false) (aluPack)
/-- pack (R356), 64-bit form. -/
def execPack64 (w : R64) (s : State) : Out := s.runAlu (form64 w false) (aluPack)
/-- swz (R356), 32-bit form. -/
def execSwz (w : R32) (s : State) : Out := s.runAlu (form32 w false false) (aluSwz (w.so.toNat * 64 + w.b.toNat))
/-- swz (R356), 32-bit uniform form. -/
def execSwzUniform (w : R32) (s : State) : Out := s.runAlu (form32 w false false) (aluSwz (w.so.toNat * 64 + w.b.toNat))
/-- swz (R356), 64-bit form. -/
def execSwz64 (w : R64) (s : State) : Out := s.runAlu (form64 w false) (aluSwz (swzPattern w))
/-- fcmp (R357). -/
def execFcmp (f : BitVec 3) (w : R32) (s : State) : Out := s.runPred (form32 w false false) (predFcmp f.toNat)
/-- fcmp (R357), 32-bit uniform form. -/
def execFcmpUniform (f : BitVec 3) (w : R32) (s : State) : Out := s.runPred (form32 w false false) (predFcmp f.toNat)
/-- fcmp (R357). -/
def execFcmp64 (f : BitVec 3) (w : R64) (s : State) : Out := s.runPred (form64 w false) (predFcmp f.toNat)
/-- The special functions (R358, R359). -/
def execSpecialFunction (f : BitVec 3) (w : R32) (s : State) : Out := s.runAlu (form32 w false false) (aluSpecial f.toNat w.so.toNat)
/-- The special functions (R358, R359), 32-bit uniform form. -/
def execSpecialFunctionUniform (f : BitVec 3) (w : R32) (s : State) : Out := s.runAlu (form32 w false false) (aluSpecial f.toNat w.so.toNat)
/-- The special functions (R358, R359). -/
def execSpecialFunction64 (f : BitVec 3) (w : R64) (s : State) : Out := s.runAlu (form64 w false) (aluSpecial f.toNat w.so.toNat)

/-! ## Conversion (R360) -/

/-- The operands of a conversion beside its form: mode, saturation, signedness, the B field as a number, its action and
file bits, and whether the B field may name a register of its file (R301). -/
structure CvtOps where
  mode : Mode
  sat : Bool
  unsigned : Bool
  bnum : Nat
  bbits : Bool
  regOk : Bool

/-- The REASON of R313 that the B field of a conversion breaks in a lane, if any (R360). -/
def cvtIllegal (o : CvtOps) (src dst : Tag) : Option Nat :=
  match cvtRole src dst with
  | .unchecked => none
  | .register => if o.regOk then none else some 3
  | .zero => if o.bnum ≠ 0 ∨ o.bbits then some 1 else none
  | .offset =>
    if o.bbits then some 1
    else if o.bnum % (64 / tagWidth dst) ≠ 0 ∨ 64 / tagWidth src ≤ o.bnum then some 3 else none

/-- What a conversion writes in a lane, or the operand that fails its tag check. -/
def State.cvtLane (s : State) (f : Form) (o : CvtOps) (dst : Tag) (l : Nat) : Except Nat LaneOut :=
  let src := s.srcTagOf l f.a
  if !cvtSource src then .error 0
  else if !cvtTarget dst then .error 3
  else if cvtRole src dst = .register ∧ s.srcTagOf l f.b ≠ src then .error 1
  else
    let r := cvtEval src dst o.mode o.sat o.unsigned o.bnum (s.srcBits l f.a) (s.srcBits l f.b)
    .ok { writes := [(f.dstSrc, dst, r.1)], flags := r.2 }

/-- The registers that a conversion reads in a lane: B too where it names one. -/
def State.cvtSrcs (s : State) (f : Form) (dst : Tag) (l : Nat) : List Opnd :=
  { opnd := 0, src := f.a } :: (if cvtRole (s.srcTagOf l f.a) dst = .register then [{ opnd := 1, src := f.b }] else [])

/-- `cvt`: the checks of the B field in every thread of the bundle, whatever the guard (R313), then as any other instruction (R360). -/
def State.runCvt (s : State) (f : Form) (o : CvtOps) (dst : Tag) : Out :=
  let bad := (if f.uniform || s.curHelm then oneLane else s.curLanes).filterMap (fun l => cvtIllegal o (s.srcTagOf l f.a) dst)
  if bad.contains 1 then .next (s.trapIllegal 1)
  else if bad.contains 3 then .next (s.trapIllegal 3)
  else s.runLanesBy f (s.cvtSrcs f dst) [f.dstSrc] false (s.cvtLane f o dst)

/-- cvt (R360), 32-bit form: no saturation, signed integers. -/
def cvtOps32 (w : R32) : CvtOps :=
  { mode := Mode.ofCode w.so.toNat, sat := false, unsigned := false, bnum := w.b.toNat, bbits := false, regOk := true }

/-- cvt (R360), 64-bit form: X is sat, C[0] is U. -/
def cvtOps64 (w : R64) (helm : Bool) : CvtOps :=
  match w.sh with
  | .rrr x _ c fb b _ _ _ =>
    { mode := Mode.ofCode w.so.toNat, sat := x, unsigned := c.toNat % 2 == 1, bnum := b.toNat, bbits := fb || w.fsb
      regOk := (!w.u || w.fsb) && (w.fsb && !helm || decide (b.toNat < 64)) }
  | _ => { mode := Mode.ofCode w.so.toNat, sat := false, unsigned := false, bnum := 0, bbits := false, regOk := true }

/-- cvt (R360), 32-bit form. -/
def execCvt (t : Tag) (w : R32) (s : State) : Out := s.runCvt (form32 w false false) (cvtOps32 w) t
/-- cvt (R360), 32-bit uniform form. -/
def execCvtUniform (t : Tag) (w : R32) (s : State) : Out := s.runCvt (form32 w false false) (cvtOps32 w) t
/-- cvt (R360), 64-bit form. -/
def execCvt64 (t : Tag) (w : R64) (s : State) : Out := s.runCvt (form64 w false) (cvtOps64 w s.curHelm) t

end Sys2Proof.Machine
end

