-- ==== Sys2Proof/Machine/HostBlock.lean ====
section
/-! DEFINITION. What the host does to the module (R6, R27 to R45, R51 to R55, R76, R105, R173, R291): the registers of BAR 0,
the aperture of BAR 2, contexts, firmware update, attestation, pre-emption. -/

namespace Sys2Proof.Machine

open Sys2Proof

/-! ## Reading BAR 0 (R6, R27 to R55, R105, R173, R291) -/

/-- A register's value from fields: each a number and the bit where it begins. -/
def regOf (fs : List (Nat × Nat)) : Word := BitVec.ofNat 64 ((fs.map (fun f => f.1 * 2 ^ f.2)).foldl (· + ·) 0)

/-- A flag as a field's number. -/
def flagNat (b : Bool) : Nat := if b then 1 else 0

/-- ID_PART (R6). -/
def idPart : Word := regOf [(0x0960, 48), (0x01, 40), (0x01, 32), (Config.stepping.toNat, 24), (0x02, 16), (0x5659, 0)]

/-- Whether the recovery image runs: a start of it has verified it (R49, R50). -/
def Boot.recoveryRuns (b : Boot) : Bool := b.recovery && b.stage != 1 && b.stage != 0xFF

/-- BOOT_STATUS (R50). -/
def Boot.status (b : Boot) : Word :=
  regOf [(flagNat b.ready, 16), (flagNat b.warm, 15), (flagNat b.recoveryRuns, 14), (b.coldFails.toNat % 4, 12), (b.warmFails.toNat, 8),
    (b.stage.toNat, 0)]

/-- FAB_PORT (R28). -/
def Port.word (p : Port) : Word :=
  regOf [(p.nbrId.toNat, 48), (flagNat p.nbrSw, 47), (p.retries.toNat, 24), (flagNat p.capRed, 19), (flagNat p.capVbd, 18),
    (p.lanes.toNat, 16), (p.state.toNat, 4), (p.laneFail.toNat, 2), (flagNat p.retrain, 1), (flagNat p.en, 0)]

/-- A FAB_ROUTE entry as it reads: the last value written (R30). -/
def State.routeEntry (s : State) (m : Nat) : BitVec 32 := FMap.getD s.routePending m (FMap.getD s.fabRoute m routeReset)

/-- Bytes 8 i to 8 i + 7 of ATT_NONCE (R54). -/
def HostRegs.nonceBytes (h : HostRegs) : List Byte := (h.attNonce ++ List.replicate 32 0).take 32

/-- ERR_STAT and ERR_INFO of an array's log, and ERR_INJ (R291). -/
def ErrLog.stat (l : ErrLog) : Word :=
  regOf [(l.lasting.toNat, 48), (l.corrected.toNat, 32), (l.transient.toNat, 16), (flagNat l.held, 1), (flagNat l.valid, 0)]
def ErrLog.info (l : ErrLog) : Word := regOf [(l.ctx.toNat, 48), (l.cls.toNat, 32), (l.syndrome.toNat, 0)]
def ErrInj.word (i : ErrInj) : Word := regOf [(i.entry.toNat, 8), (flagNat i.arm, 7), (flagNat i.sticky, 6), (i.nbits.toNat, 4)]

/-- The log and the injection of the selected array. -/
def State.selLog (s : State) : ErrLog := FMap.getD s.errLogs s.host.errSel.toNat ErrLog.reset
def State.selInj (s : State) : ErrInj := FMap.getD s.errInjs s.host.errSel.toNat ErrInj.reset

/-- The host control block's registers that stand alone. That ATT_CTL.GO reads 1 while a request is in progress is a DESIGN CHOICE (log
entry 60). -/
def State.controlWord (s : State) (off : Nat) : Word :=
  let h := s.host
  match off with
  | 0x0000 => idPart
  | 0x1000 => regOf [(flagNat h.lock, 0)]
  | 0x1008 => regOf [(flagNat h.emit, 0)]
  | 0x1010 => h.powerLimit.setWidth 64
  | 0x1018 => h.powerNow.setWidth 64
  | 0x1020 => s.boot.status
  | 0x1030 => regOf [(h.hbmOrg.toNat, 28)]
  | 0x1040 => regOf [(flagNat h.preHold, 56), (h.preRidges.toNat, 16), (h.preCtx.toNat, 0)]
  | 0x1048 => regOf [(flagNat h.preDone, 1), (flagNat h.preBusy, 0)]
  | 0x1060 => regOf [(h.repackBase.toNat, 12), (h.repackSize.toNat, 0)]
  | 0x1068 => regOf [(h.repackWidx.toNat, 32), (h.repackRidx.toNat, 16), (h.repackVec.toNat, 2), (flagNat h.repackEn, 0)]
  | 0x1080 => regOf [(h.ctxRec.toNat, 8)]
  | 0x1088 => h.ctxCmd.setWidth 64
  | 0x1090 => regOf [(h.ctxErr.toNat, 8), (flagNat h.ctxDone, 1), (flagNat h.ctxBusy, 0)]
  | 0x10A0 => regOf [(h.fwSrc.toNat, 12)]
  | 0x10A8 => h.fwLen.setWidth 64
  | 0x10B0 => regOf [(h.fwCode.toNat, 8), (flagNat h.fwErr, 2), (flagNat h.fwDone, 1), (flagNat h.fwGo, 0)]
  | 0x3020 => h.attAddr
  | 0x3028 => regOf [(flagNat h.attErr, 2), (flagNat h.attDone, 1), (flagNat h.attGo, 0)]
  | 0x40000 => h.errSel.setWidth 64
  | 0x40008 => s.selLog.stat
  | 0x40010 => s.selLog.addr
  | 0x40018 => s.selLog.info
  | 0x40020 => s.selInj.word
  | 0x100000 => s.fabSelf.setWidth 64
  | _ => 0

/-- A 32-bit register file read as 64 bits: words `2 i` and `2 i + 1`. -/
def pairWord (f : Nat → BitVec 32) (i : Nat) : Word := regOf [((f (2 * i)).toNat, 0), ((f (2 * i + 1)).toNat, 32)]

/-- The 8 bytes of BAR 0 at an offset, a multiple of 8, of a module that answers for all of it. -/
def State.bar0Word (s : State) (off : Nat) : Word :=
  if 0x2000 ≤ off ∧ off < 0x2100 then
    (if off / 8 % 2 = 0 then FMap.getD s.host.hmwBase ((off - 0x2000) / 16) 0 else FMap.getD s.host.hmwLimit ((off - 0x2000) / 16) 0)
  else if 0x3000 ≤ off ∧ off < 0x3020 then BitVec.ofNat 64 (fieldLe s.host.nonceBytes (off - 0x3000) 8)
  else if 0x101000 ≤ off ∧ off < 0x101300 then (s.port ((off - 0x101000) / 8)).word
  else if 0x102000 ≤ off ∧ off < 0x102400 then FMap.getD s.fabInb ((off - 0x102000) / 8) 0
  else if 0x110000 ≤ off ∧ off < 0x118000 then pairWord s.routeEntry ((off - 0x110000) / 8)
  else if 0x200000 ≤ off ∧ off < 0x208000 then s.sem ((off - 0x200000) / 8)
  else if 0x300000 ≤ off ∧ off < 0x300400 then pairWord s.host.msixWord ((off - 0x300000) / 8)
  else if off = 0x301000 then s.host.msixPending
  else s.controlWord off

/-- Whether an offset answers a read now: all of them once READY, two before, five and three under the recovery image (R35,
R51). -/
def State.bar0Reads (s : State) (off : Nat) : Bool :=
  if !s.boot.ready then off == 0 || off == 0x1020
  else !s.boot.recovery || [0, 0x1020, 0x1028, 0x10A0, 0x10A8, 0x10B0].contains off

/-- What a naturally aligned read of 8 bytes of BAR 0 returns (R35). -/
def State.bar0Read (s : State) (off : Nat) : Word := if s.bar0Reads off then s.bar0Word off else 0

/-- What a read of BAR 0 is answered: `none` is Unsupported Request status (R35); 4 bytes are the half of their register that they name. -/
def State.bar0Answer (s : State) (off size : Nat) : Option (List Byte) :=
  if (size ≠ 4 ∧ size ≠ 8) ∨ off % size ≠ 0 then none
  else some (((leBytes 8 (s.bar0Read (off / 8 * 8)).toNat).drop (off % 8)).take size)

/-- A read of BAR 0 by the host (R35). -/
def State.hostBar0Read (s : State) (off size : Nat) : State :=
  if !s.boot.powered || decide (0x400000 ≤ off) then s
  else match s.bar0Answer off size with
    | none => { s with log := .unsupported off :: s.log }
    | some b => { s with hostReads := s.hostReads ++ [(b, false)] }

/-- The certificate of the identity key read from the attestation block (R53): where it stands there is not given (log entry 37). -/
def State.readCertificate (s : State) : State :=
  if s.boot.ready && !s.boot.recovery then { s with hostReads := s.hostReads ++ [(Config.certificate, false)] } else s

/-- Whether an offset takes a write now (R35, R51). -/
def State.bar0Writes (s : State) (off : Nat) : Bool :=
  if !s.boot.ready then off == 0x1028
  else !s.boot.recovery || [0x1028, 0x10A0, 0x10A8, 0x10B0].contains off

/-! ## Contexts (R43 to R45, R82, R158, R282) -/

/-- The fields of a context record (R43). -/
def ctxIdOf (r : List Byte) : Nat := fieldLe r 0 2

/-- The context that a record describes. -/
def ctxOfRecord (r : List Byte) : Context :=
  { dying := false, qcount := fieldLe r 4 2, semBase := fieldLe r 28 2, semCount := fieldLe r 6 2
    qtab := BitVec.ofNat 64 (fieldLe r 8 8), ntab := BitVec.ofNat 64 (fieldLe r 16 8), nodeCount := fieldLe r 24 4
    summit := BitVec.ofNat 40 (fieldLe r 48 8), saveBase := BitVec.ofNat 64 (fieldLe r 56 8), saveSlots := fieldLe r 64 4
    detResv := fieldLe r 68 2, accSave := BitVec.ofNat 64 (fieldLe r 72 8)
    fqBase := BitVec.ofNat 64 (fieldLe r 112 8), fqWidxAddr := BitVec.ofNat 64 (fieldLe r 120 8)
    fqRidxAddr := BitVec.ofNat 64 (fieldLe r 128 8), fqLog2n := fieldLe r 136 1, fqVec := fieldLe r 137 1, fqWidx := 0
    fqWaiting := [], fqBlocked := false
    g0First := fieldLe r 144 2, g0Count := fieldLe r 146 2, g1First := fieldLe r 148 2, g1Count := fieldLe r 150 2
    ptRoot := BitVec.ofNat 64 (fieldLe r 32 8) &&& ptRootMask, oldRoots := []
    trapVec := BitVec.ofNat 64 (fieldLe r 40 8) &&& ~~~(1 : Word), holdRidges := 0 }

/-- A grant's range (R43): no first share without a count, else shares from 80 to 639. -/
def grantOk (first count : Nat) : Bool := if count = 0 then first == 0 else decide (80 ≤ first) && decide (first + count ≤ 640)

/-- The record's own limits (R43). -/
def ctxRecordOk (r : List Byte) : Bool :=
  let c := ctxOfRecord r
  zeroIn r 2 4 && zeroIn r 30 32 && zeroIn r 152 256
    && decide (1 ≤ c.qcount) && decide (c.qcount ≤ 1024) && decide (1 ≤ c.semCount) && decide (c.semCount ≤ 4096)
    && decide (c.semBase + c.semCount ≤ 4096) && c.qtab.toNat % 64 == 0 && c.ntab.toNat % 128 == 0
    && decide (1 ≤ c.nodeCount) && decide (c.nodeCount ≤ 65536) && grantOk c.g0First c.g0Count && grantOk c.g1First c.g1Count

/-- The scheduling block's limits on each field (R82). -/
def schedOk (r : List Byte) : Bool :=
  let c := ctxOfRecord r
  decide (fieldLe r 48 8 < 2 ^ 40) && c.saveBase.toNat % 2 ^ 21 == 0 && decide (c.detResv ≤ 560) && zeroIn r 70 72
    && c.accSave.toNat % 4096 == 0 && zeroIn r 80 112

/-- The fault-queue descriptor's limits (R282). -/
def fqOk (r : List Byte) : Bool :=
  let c := ctxOfRecord r
  c.fqBase.toNat % 64 == 0 && c.fqWidxAddr.toNat % 8 == 0 && c.fqRidxAddr.toNat % 8 == 0
    && decide (c.fqWidxAddr.toNat / 128 ≠ c.fqRidxAddr.toNat / 128) && decide (4 ≤ c.fqLog2n) && decide (c.fqLog2n ≤ 12)
    && decide (c.fqVec ≤ 63) && zeroIn r 138 144

/-- Shares that a context takes of a die. -/
def Context.shares (c : Context) (die : Nat) : Nat := c.detResv + (if die = 0 then c.g0Count else c.g1Count)

/-- Whether two ranges of shares meet. -/
def sharesMeet (f n g m : Nat) : Bool := n != 0 && m != 0 && decide (f < g + m) && decide (g < f + n)

/-- Whether the share totals allow one more context (R158). -/
def State.sharesOk (s : State) (c : Context) : Bool :=
  (List.range 2).all (fun d => decide (((s.ctxs.map (fun e => e.2.shares d)).foldl (· + ·) 0) + c.shares d ≤ 560))
    && s.ctxs.all (fun e => !sharesMeet e.2.g0First e.2.g0Count c.g0First c.g0Count
      && !sharesMeet e.2.g1First e.2.g1Count c.g1First c.g1Count)

/-- Whether every page of a fault queue's ring lies on TIER 00 or TIER 01 (R282). -/
def State.ringOnDevice (s : State) (id : Nat) (c : Context) : Bool :=
  let a := c.fqBase.toNat
  s.onDevice id c.fqBase && (upFrom (a / 4096 + 1) ((a + 64 * 2 ^ c.fqLog2n - 1) / 4096 - a / 4096)).all (fun p => s.onDevice id (BitVec.ofNat 64 (4096 * p)))

/-- The index words of the fault queue at creation: the write index, or none where the creation is refused (R282). -/
def State.fqIndices (s : State) (id : Nat) (c : Context) : Option Nat × State :=
  if !(s.ringOnDevice id c && s.onDevice id c.fqWidxAddr && s.onDevice id c.fqRidxAddr) then (none, s)
  else match s.devRead id c.fqWidxAddr 8 with
    | (.bytes w, t) =>
      (match t.devRead id c.fqRidxAddr 8 with
       | (.bytes r, u) => (if (ofLe w + 2 ^ 64 - ofLe r) % 2 ^ 64 ≤ 2 ^ c.fqLog2n then some (ofLe w) else none, u)
       | (_, u) => (none, u))
    | (_, t) => (none, t)

/-- CTX_STATUS after a command that has finished (R44). -/
def State.ctxResult (s : State) (err : BitVec 8) : State :=
  { s with host := { s.host with ctxErr := err, ctxDone := true, ctxBusy := false } }

/-- Step 3 of R44: the context registered; nothing older is cached for it, and it owns no core's accumulator file (step 5). -/
def State.addCtx (s : State) (id : Nat) (c : Context) : State :=
  { s with
    cores := s.cores.map (fun (e : Nat × Core) => if e.2.accOwner.toNat == id then (e.1, { e.2 with accOwner := 0, accLive := 0 }) else e)
    ctxs := FMap.set s.ctxs id c
    queues := s.queues.filter (fun e => e.1.1 != id)
    fenceMarks := { ctx := id, va := none, seq := s.writeSeq } :: s.fenceMarks.filter (fun f => f.ctx != id) }

/-- The first check of a record that fails, before its fault queue is read (R43, R44, R82, R282). -/
def State.ctxCheck (s : State) (r : List Byte) : Option (BitVec 8) :=
  let c := ctxOfRecord r
  if !ctxRecordOk r then some 0x01
  else if ctxIdOf r = 0 ∨ (FMap.find s.ctxs (ctxIdOf r)).isSome then some 0x02
  else if !schedOk r then some 0x01
  else if s.ctxs.any (fun e => e.2.summit &&& c.summit != 0) then some 0x03
  else if c.saveSlots < 2560 then some 0x04
  else if !fqOk r then some 0x01
  else none

/-- CREATE (R44): the record read at one instant, checked, and the context registered and served. -/
def State.createCtx (s : State) : State :=
  let got := s.readOutside (hbmAt (s.host.ctxRec.toNat * 256)) 256
  let s := got.2.2
  let r := got.1
  let c := ctxOfRecord r
  let id := ctxIdOf r
  if got.2.1 then s.ctxResult 0x06
  else match s.ctxCheck r with
    | some e => s.ctxResult e
    | none =>
      let made := (s.addCtx id c).fqIndices id c
      match made.1 with
      | none => s.ctxResult 0x01
      | some w =>
        if !s.sharesOk c then s.ctxResult 0x05
        else
          let t := made.2.addCtx id { c with fqWidx := w }
          ((List.range c.qcount).foldl (fun (u : State) q => u.lookAtQueue id q true) t).ctxResult 0

/-- Steps 1 to 4 of R45; the fence's completion does the rest. -/
def State.destroyCtx (s : State) (id : Nat) : State :=
  if !s.ctxLive id then s.ctxResult 0x07
  else
    let t := { s with
      ctxs := FMap.modify s.ctxs id (fun c => { c with dying := true, fqWaiting := [] })
      queues := s.queues.map (fun (e : (Nat × Nat) × Queue) =>
        if e.1.1 == id then (e.1, { e.2 with served := false, head := none, awake := false }) else e)
      host := { s.host with ctxBusy := true } }
    let idle := fun (p : CmdPhase) => p == .atHead || p == .armed || p == .released || p == .gate
    let t := { t with cmds := t.cmds.map (fun (e : Nat × Cmd) =>
      if e.2.ctx == id && idle e.2.phase then (e.1, { e.2 with phase := .done }) else e) }
    let t := ((t.wgs.filter (fun e => (t.launch e.2.launch).ctx == id)).map (·.1)).foldl (fun (u : State) w => u.killWg w) t
    let t := ((t.cmds.filter (fun e => e.2.ctx == id && e.2.phase != .done && pktType e.2.bytes == 1)).map (·.1)).foldl
      (fun (u : State) k => u.dropCmd k) t
    let t := { t with
      cores := t.cores.map (fun (e : Nat × Core) => (e.1, { e.2 with sideLog := e.2.sideLog.filter (fun x => x.ctx != id) }))
      staged := t.staged.filter (fun e => t.ctxOf e.wg != id)
      spawnHeld := t.spawnHeld.filter (fun h => t.ctxOf h.1 != id) }
    t.startFence id none

/-- CTX_CMD written (R44); ignored while a command is in progress. That DONE and ERR of the command before stand until this one finishes is
a DESIGN CHOICE (log entry 60). -/
def State.ctxCommand (s : State) (new : Word) (op : Nat) : State :=
  if s.host.ctxBusy then s
  else
    let t := { s with host := { s.host with ctxCmd := new.setWidth 16 } }
    if op = 1 then t.createCtx
    else if op = 2 then t.destroyCtx (new.toNat % 2 ^ 16)
    else t

/-! ## Pre-emption by the host (R105) -/

/-- PRE_REQ written: its context is pre-empted and held on the named Ridges, or the hold is lifted there. -/
def State.preRequest (s : State) (new : Word) : State :=
  if s.host.preBusy then s
  else
    let ctx := new.toNat % 2 ^ 16
    let ridges := BitVec.ofNat 40 (field new 55 16)
    let hold := bitAt new 56
    let t := { s with host := { s.host with preHold := hold, preRidges := ridges, preCtx := new.setWidth 16, preDone := true } }
    if (FMap.find s.ctxs ctx).isNone then t
    else if hold then
      { t with ctxs := FMap.modify t.ctxs ctx (fun c => { c with holdRidges := c.holdRidges ||| ridges }) }.preempt ctx ridges
    else { t with ctxs := FMap.modify t.ctxs ctx (fun c => { c with holdRidges := c.holdRidges &&& ~~~ridges }) }

/-! ## Attestation (R54, R55) -/

/-- Bytes of a report. -/
def reportLen : Nat := 560

/-- The first byte of a report that no window grants (R41). -/
def State.attMiss (s : State) : Option Nat :=
  ((List.range reportLen).map (fun i => s.host.attAddr.toNat + i)).find? (fun a => !s.host.granted a false true)

/-- Whether ATT_ADDR is aligned and inside enabled windows that grant writes, byte by byte (R41, R54). That a misaligned address sets ERR
is a DESIGN CHOICE (log entry 60). -/
def State.attAddrOk (s : State) : Bool := s.host.attAddr.toNat % 16 == 0 && s.attMiss.isNone

/-- A request that ends with ERR; a byte that no window grants is recorded (R41, R54). -/
def State.attFail (s : State) : State :=
  { s with
    host := { s.host with attGo := false, attErr := true }
    log := match s.attMiss with | some a => .windowMiss a :: s.log | none => s.log }

/-- ATT_CTL written: bits [2:1] cleared by ones; GO starts a request or sets ERR. -/
def State.attControl (s : State) (w1 : Word) : State :=
  let h := s.host
  let t := { s with host := { h with attDone := h.attDone && !bitAt w1 1, attErr := h.attErr && !bitAt w1 2 } }
  if !bitAt w1 0 then t
  else if !s.boot.ready || h.attGo then { t with host := { t.host with attErr := true } }
  else if !s.attAddrOk then t.attFail
  else { t with host := { t.host with attGo := true } }

/-- A list of exactly `n` bytes. -/
def exactly (n : Nat) (bs : List Byte) : List Byte := (bs ++ List.replicate n 0).take n

/-- What M2 is the hash of (R55). -/
def State.m2Bytes (s : State) : List Byte :=
  ([s.bar0Word 0x1000, s.bar0Word 0x1008, s.bar0Word 0x100000] ++ (List.range 32).map (fun i => s.bar0Word (0x2000 + 8 * i))).flatMap
    (fun w => leBytes 8 w.toNat)

/-- The signed part of a report (R55). -/
def State.reportBody (s : State) : List Byte :=
  leBytes 2 1 ++ leBytes 2 0x230 ++ leBytes 4 0 ++ leBytes 8 idPart.toNat ++ (List.range 16).map Config.serial ++ s.host.nonceBytes
    ++ exactly 32 s.trust.m0 ++ exactly 32 s.trust.m1 ++ exactly 32 (Config.sha256 s.m2Bytes) ++ leBytes 8 s.boot.status.toNat
    ++ leBytes 8 s.trust.secVersion.toNat

/-- ATTESTATION_COMPLETE (R54, R55). The salt of the signature is the module's own. -/
def execAttestationComplete (s : State) : Out :=
  if !s.host.attGo then .next s
  else if !s.attAddrOk then .next (s.attFail)
  else
    let body := s.reportBody
    let t := s.writePublished .device (hostAt s.host.attAddr.toNat) (body ++ exactly 384 (Config.attestSign body s.freeCount))
    .next { t with freeCount := t.freeCount + 1, host := { t.host with attGo := false, attDone := true } }

/-! ## Firmware update (R51, R52) -/

/-- FW_CTL written: ERR and DONE cleared by ones; GO starts an update under the recovery image. That ERR, DONE and CODE of the update before
stand until this one ends is a DESIGN CHOICE (log entry 60). -/
def State.fwControl (s : State) (w1 : Word) : State :=
  let h := s.host
  { s with host := { h with
      fwErr := h.fwErr && !bitAt w1 2
      fwDone := h.fwDone && !bitAt w1 1
      fwGo := h.fwGo || (bitAt w1 0 && s.boot.recoveryRuns) } }

/-- An update that ends badly. -/
def State.fwFail (s : State) (code : BitVec 8) : State :=
  { s with host := { s.host with fwGo := false, fwErr := true, fwCode := code } }

/-- FIRMWARE_UPDATE_COMPLETE (R51): the image is read, verified, written to flash and compared. -/
def execFirmwareUpdateComplete (flashOk : Bool) (s : State) : Out :=
  let src := s.host.fwSrc.toNat * 4096
  let len := s.host.fwLen.toNat
  if !s.host.fwGo then .next s
  else if len < 1024 ∨ 16777216 < len ∨ 2 ^ 39 < src + len then .next (s.fwFail 1)
  else
    let got := s.readOutside (hbmAt src) len
    if got.2.1 then .next (got.2.2.fwFail 4)
    else if !got.2.2.imageOk got.1 then .next (got.2.2.fwFail 2)
    else if !flashOk then .next (got.2.2.fwFail 3)
    else
      let t := got.2.2
      .next { t with
        trust := { t.trust with firmware := got.1 }
        boot := { t.boot with coldFails := 0, warmFails := 0 }
        host := { t.host with fwGo := false, fwDone := true, fwCode := 0 } }

/-! ## Writing BAR 0 (R35, R37) -/

/-- A write to a locked field, which the housekeeping log records (R37). -/
def State.unlessLocked (s : State) (off : Nat) (go : State) : State :=
  if s.host.lock then { s with log := .lockedWrite off :: s.log } else go

/-- Bits of HMW_BASE and of HMW_LIMIT that hold a value (R42). -/
def hmwBaseMask : Word := 0x000FFFFFFFFFF007
def hmwLimitMask : Word := 0x000FFFFFFFFFF000

/-- ERR_STAT written: the counts are set, HELD and VALID are cleared by ones (R291). -/
def ErrLog.write (l : ErrLog) (new w1 : Word) : ErrLog :=
  { l with
    lasting := BitVec.ofNat 16 (field new 63 48)
    corrected := BitVec.ofNat 16 (field new 47 32)
    transient := BitVec.ofNat 16 (field new 31 16)
    held := l.held && !bitAt w1 1
    valid := l.valid && !bitAt w1 0 }

/-- The entries of FAB_ROUTE in one aligned 8-byte word that a write covers. -/
def State.routeWrites (s : State) (off : Nat) (mask new : Word) : State :=
  let m := (off - 0x110000) / 4
  let t := if bitAt mask 0 then s.routeWrite m (BitVec.ofNat 32 (field new 27 0)) else s
  if bitAt mask 32 then t.routeWrite (m + 1) (BitVec.ofNat 32 (field new 59 32)) else t

/-- Bits of a vector table word that hold a value, by its place (log entry 14). -/
def msixMask (i : Nat) : BitVec 32 := if i % 4 = 0 then 0xFFFFFFFC else if i % 4 = 3 then 1 else 0xFFFFFFFF

/-- The vector table words in one aligned 8-byte word that a write covers. -/
def State.msixWrites (s : State) (off : Nat) (mask new : Word) : State :=
  let i := (off - 0x300000) / 4
  let put := fun (m : FMap Nat (BitVec 32)) (k hi lo : Nat) => FMap.set m k (BitVec.ofNat 32 (field new hi lo) &&& msixMask k)
  let m := if bitAt mask 0 then put s.host.msix i 31 0 else s.host.msix
  let m := if bitAt mask 32 then put m (i + 1) 63 32 else m
  ({ s with host := { s.host with msix := m } }).settleVectors

/-- A register that stands alone written: `new` is its value with the written bits merged, `w1` the ones among the written
bits, `mask` the bits written. -/
def State.controlWrite (s : State) (off : Nat) (mask new w1 : Word) : State :=
  let h := s.host
  match off with
  | 0x1000 => if h.lock || !bitAt w1 0 then s else s.setLock
  | 0x1008 => if bitAt mask 0 then s.unlessLocked off (s.setEmit (bitAt new 0)) else s
  | 0x1010 => if 32 < new.toNat % 64 then s else { s with host := { h with powerLimit := new.setWidth 6 } }
  | 0x1028 => s.bootReq (w1.toNat % 4)
  | 0x1030 => { s with host := { h with hbmOrg := BitVec.ofNat 11 (field new 38 28) } }
  | 0x1040 => s.preRequest new
  | 0x1048 => { s with host := { h with preDone := h.preDone && !bitAt w1 1 } }
  | 0x1060 => { s with host := { h with repackBase := BitVec.ofNat 40 (field new 51 12), repackSize := new.setWidth 4 } }.ringAll
  | 0x1068 =>
    { s with host := { h with repackRidx := BitVec.ofNat 16 (field new 31 16), repackVec := BitVec.ofNat 6 (field new 7 2)
                              repackEn := bitAt new 0 } }.ringAll
  | 0x1080 => { s with host := { h with ctxRec := BitVec.ofNat 31 (field new 38 8) } }
  | 0x1088 => s.ctxCommand new (field w1 19 16)
  | 0x1090 => { s with host := { h with ctxDone := h.ctxDone && !bitAt w1 1 } }
  | 0x10A0 => { s with host := { h with fwSrc := BitVec.ofNat 27 (field new 38 12) } }
  | 0x10A8 => { s with host := { h with fwLen := new.setWidth 25 } }
  | 0x10B0 => s.fwControl w1
  | 0x3020 => { s with host := { h with attAddr := new } }
  | 0x3028 => s.attControl w1
  | 0x40000 => { s with host := { h with errSel := new.setWidth 16 } }
  | 0x40008 => { s with errLogs := FMap.set s.errLogs h.errSel.toNat (s.selLog.write new w1) }
  | 0x40020 =>
    let arm : ErrInj :=
      { entry := BitVec.ofNat 40 (field new 47 8), arm := bitAt new 7, sticky := bitAt new 6, nbits := BitVec.ofNat 2 (field new 5 4) }
    { s with errInjs := FMap.set s.errInjs h.errSel.toNat arm }
  | 0x100000 => s.unlessLocked off { s with fabSelf := new.setWidth 13 }
  | _ => s

/-- An aligned 8-byte word of BAR 0 written in the bits of `mask`, of a module that takes all writes. -/
def State.bar0Apply (s : State) (off : Nat) (mask val : Word) : State :=
  let new := (s.bar0Word off &&& ~~~mask) ||| (val &&& mask)
  let w1 := val &&& mask
  if 0x2000 ≤ off ∧ off < 0x2100 then
    s.unlessLocked off
      (if off / 8 % 2 = 0 then { s with host := { s.host with hmwBase := FMap.set s.host.hmwBase ((off - 0x2000) / 16) (new &&& hmwBaseMask) } }
       else { s with host := { s.host with hmwLimit := FMap.set s.host.hmwLimit ((off - 0x2000) / 16) (new &&& hmwLimitMask) } })
  else if 0x3000 ≤ off ∧ off < 0x3020 then
    { s with host := { s.host with attNonce := putLe s.host.nonceBytes (off - 0x3000) 8 new.toNat } }
  else if 0x101000 ≤ off ∧ off < 0x101300 then s.portWrite ((off - 0x101000) / 8) mask val
  else if 0x102000 ≤ off ∧ off < 0x102400 then { s with fabInb := FMap.set s.fabInb ((off - 0x102000) / 8) new }
  else if 0x110000 ≤ off ∧ off < 0x118000 then s.routeWrites off mask new
  else if 0x200000 ≤ off ∧ off < 0x208000 then
    (if mask = BitVec.allOnes 64 then s.setSem ((off - 0x200000) / 8) (s.sem ((off - 0x200000) / 8) + val) else s)
  else if 0x300000 ≤ off ∧ off < 0x300400 then s.msixWrites off mask new
  else s.controlWrite off mask new w1

/-- The bits of an aligned 8-byte word that a write of 4 or 8 bytes covers. -/
def writeMask (off size : Nat) : Word := if size = 8 then BitVec.allOnes 64 else BitVec.ofNat 64 ((2 ^ 32 - 1) * 2 ^ (32 * (off / 4 % 2)))

/-- A host write to BAR 0 (R35): naturally aligned and of 4 or 8 bytes, else completed with Unsupported Request. -/
def State.bar0Write (s : State) (off size : Nat) (data : Word) : State :=
  if !s.boot.powered || decide (0x400000 ≤ off) then s
  else if (size ≠ 4 ∧ size ≠ 8) ∨ off % size ≠ 0 then { s with log := .unsupported off :: s.log }
  else if !s.bar0Writes (off / 8 * 8) then s
  else s.bar0Apply (off / 8 * 8) (writeMask off size) (if size = 8 then data else BitVec.ofNat 64 (data.toNat % 2 ^ 32 * 2 ^ (32 * (off / 4 % 2))))

/-! ## The rows that are writes to BAR 0 -/

/-- BAR0_REGISTER_WRITE (R35). -/
def execBar0RegisterWrite (off size : Nat) (data : Word) (s : State) : Out := .next (s.bar0Write off size data)
/-- HOST_LOCK (R37). -/
def execHostLock (data : Word) (s : State) : Out := .next (s.bar0Write 0x1000 8 data)
/-- LINK_EMIT (R38). -/
def execLinkEmit (data : Word) (s : State) : Out := .next (s.bar0Write 0x1008 8 data)
/-- PWR_LIMIT (R39). -/
def execPwrLimit (data : Word) (s : State) : Out := .next (s.bar0Write 0x1010 8 data)
/-- CTX_CREATE (R44): a write of CTX_CMD with OP 1. -/
def execCtxCreate (data : Word) (s : State) : Out := if field data 19 16 = 1 then .next (s.bar0Write 0x1088 8 data) else .next s
/-- CTX_DESTROY (R45): a write of CTX_CMD with OP 2. -/
def execCtxDestroy (data : Word) (s : State) : Out := if field data 19 16 = 2 then .next (s.bar0Write 0x1088 8 data) else .next s
/-- BOOT_REQ_WARM (R46). -/
def execBootReqWarm (s : State) : Out := .next (s.bar0Write 0x1028 8 1)
/-- BOOT_REQ_COLD (R46). -/
def execBootReqCold (s : State) : Out := .next (s.bar0Write 0x1028 8 2)
/-- FIRMWARE_UPDATE (R51): a write of FW_CTL.GO. -/
def execFirmwareUpdate (data : Word) (s : State) : Out := if bitAt data 0 then .next (s.bar0Write 0x10B0 8 data) else .next s
/-- ATTESTATION_REQUEST (R54): a write of ATT_CTL.GO. -/
def execAttestationRequest (data : Word) (s : State) : Out := if bitAt data 0 then .next (s.bar0Write 0x3028 8 data) else .next s
/-- PRE_REQ_HOLD (R105): a write of PRE_REQ with HOLD 1. -/
def execPreReqHold (data : Word) (s : State) : Out := if bitAt data 56 then .next (s.bar0Write 0x1040 8 data) else .next s
/-- PRE_REQ_RELEASE (R105): a write of PRE_REQ with HOLD 0. -/
def execPreReqRelease (data : Word) (s : State) : Out := if bitAt data 56 then .next s else .next (s.bar0Write 0x1040 8 data)
/-- HOST_SEMAPHORE_ADD (R76). -/
def execHostSemaphoreAdd (index : Nat) (value : Word) (s : State) : Out :=
  if index < 4096 then .next (s.bar0Write (0x200000 + 8 * index) 8 value) else .next s
/-- ERROR_INJECT (R291). -/
def execErrorInject (data : Word) (s : State) : Out := .next (s.bar0Write 0x40020 8 data)
/-- FAB_PORT_ENABLE (R28, R29): a write of FAB_PORT with EN 1. -/
def execFabPortEnable (port : Nat) (data : Word) (s : State) : Out :=
  if port < 96 ∧ bitAt data 0 then .next (s.bar0Write (0x101000 + 8 * port) 8 data) else .next s
/-- FAB_PORT_DISABLE (R28): a write of FAB_PORT with EN 0. -/
def execFabPortDisable (port : Nat) (data : Word) (s : State) : Out :=
  if port < 96 ∧ !bitAt data 0 then .next (s.bar0Write (0x101000 + 8 * port) 8 data) else .next s
/-- FAB_PORT_RETRAIN (R28): a write of FAB_PORT with RETRAIN 1. -/
def execFabPortRetrain (port : Nat) (data : Word) (s : State) : Out :=
  if port < 96 ∧ bitAt data 1 then .next (s.bar0Write (0x101000 + 8 * port) 8 data) else .next s
/-- FAB_ROUTE_WRITE (R30). -/
def execFabRouteWrite (target : Nat) (data : BitVec 32) (s : State) : Out :=
  if target < 8192 then .next (s.bar0Write (0x110000 + 4 * target) 4 (data.setWidth 64)) else .next s

/-! ## BAR 2 (R36, R51, R60) -/

/-- Whether the module answers at BAR 2: its start is over. That accesses before READY find nothing is a DESIGN CHOICE (log entry 60). -/
def State.bar2Open (s : State) : Bool := s.boot.ready

/-- The physical origin of BAR 2 (R40). -/
def State.bar2Org (s : State) : Nat := s.host.hbmOrg.toNat * 2 ^ 28

/-- Bytes of an access that lie within HBM4E (R36). -/
def State.bar2Inside (s : State) (off n : Nat) : Nat := min n (2 ^ 39 - s.bar2Org - off)

/-- BAR2_HOST_READ (R36): bytes beyond HBM4E read as ones. -/
def execBar2HostRead (off len : Nat) (s : State) : Out :=
  if !s.bar2Open then .next s
  else
    let n := s.bar2Inside off len
    let r := s.readOutside (hbmAt (s.bar2Org + off)) n
    .next { r.2.2 with hostReads := r.2.2.hostReads ++ [(r.1 ++ List.replicate (len - n) 0xFF, r.2.1)] }

/-- Words that a write of the host covers only in part, under the recovery image: they read back poisoned (R51). -/
def State.spoilPartial (s : State) (a n : Nat) : State :=
  if !s.boot.recovery then s
  else (pieces a n).foldl (fun (t : State) p => if p.2 = 8 then t else t.addPoison (a + p.1) p.2) s

/-- BAR2_HOST_WRITE (R36). -/
def execBar2HostWrite (off : Nat) (bytes : List Byte) (s : State) : Out :=
  if !s.bar2Open then .next s
  else
    let bs := bytes.take (s.bar2Inside off bytes.length)
    let a := hbmAt (s.bar2Org + off)
    .next ((s.writePublished .host a bs).spoilPartial a bs.length)

/-- Where the host stands. -/
def hostPlace : Place := { who := .host, die := 2, wg := 0, launch := 0, set := 0 }

/-- HOST_FETCHADD (R36, R60): an aligned 64-bit add at the home slice, its old value returned. -/
def execHostFetchadd (off : Nat) (value : Word) (s : State) : Out :=
  if !s.bar2Open || off % 8 != 0 || s.bar2Inside off 8 != 8 then .next s
  else
    let a := hbmAt (s.bar2Org + off)
    let r := s.readOutside a 8
    let t := { r.2.2 with hostReads := r.2.2.hostReads ++ [(r.1, r.2.1)] }
    if r.2.1 then .next t else .next ((t.performFlat .host a (.atomic 0 1 false value 0)).pub .sys hostPlace)

end Sys2Proof.Machine
end

