-- ==== Sys2Proof/Machine/Integer.lean ====
section
/-! DEFINITION. The meanings of the integer instructions (R325 to R339). -/

namespace Sys2Proof.Machine

open Sys2Proof

/-- add (R329), 32-bit form. -/
def execAdd (w : R32) (s : State) : Out := s.runAlu (form32 w true true) (aluAdd)
/-- add (R329), 64-bit form. -/
def execAdd64 (w : R64) (s : State) : Out := s.runAlu (form64 w true) (aluAdd)
/-- add (R329), 16-bit form (R295). -/
def execAdd16 (w : R16) (s : State) : Out := s.runAlu (form16 w false) (aluAdd)
/-- sub (R329), 32-bit form. -/
def execSub (w : R32) (s : State) : Out := s.runAlu (form32 w true true) (aluSub)
/-- sub (R329), 64-bit form. -/
def execSub64 (w : R64) (s : State) : Out := s.runAlu (form64 w true) (aluSub)
/-- sub (R329), 16-bit form (R295). -/
def execSub16 (w : R16) (s : State) : Out := s.runAlu (form16 w false) (aluSub)
/-- neg (R329), 32-bit form. -/
def execNeg (w : R32) (s : State) : Out := s.runAlu (form32 w false true) (aluNeg)
/-- neg (R329), 64-bit form. -/
def execNeg64 (w : R64) (s : State) : Out := s.runAlu (form64 w true) (aluNeg)
/-- abs (R329), 32-bit form. -/
def execAbs (w : R32) (s : State) : Out := s.runAlu (form32 w false true) (aluAbs)
/-- abs (R329), 64-bit form. -/
def execAbs64 (w : R64) (s : State) : Out := s.runAlu (form64 w true) (aluAbs)
/-- adds (R329), 32-bit form. -/
def execAdds (w : R32) (s : State) : Out := s.runAlu (form32 w true (!bitAt w.so 0)) (aluAdds (!bitAt w.so 0))
/-- adds (R329), 64-bit form. -/
def execAdds64 (w : R64) (s : State) : Out := s.runAlu (form64 w (!bitAt w.so 0)) (aluAdds (!bitAt w.so 0))
/-- subs (R329), 32-bit form. -/
def execSubs (w : R32) (s : State) : Out := s.runAlu (form32 w true (!bitAt w.so 0)) (aluSubs (!bitAt w.so 0))
/-- subs (R329), 64-bit form. -/
def execSubs64 (w : R64) (s : State) : Out := s.runAlu (form64 w (!bitAt w.so 0)) (aluSubs (!bitAt w.so 0))
/-- mul (R330), 32-bit form. -/
def execMul (w : R32) (s : State) : Out := s.runAlu (form32 w false true) (aluMul)
/-- mul (R330), 64-bit form. -/
def execMul64 (w : R64) (s : State) : Out := s.runAlu (form64 w true) (aluMul)
/-- mulh_s (R330), 32-bit form. -/
def execMulhS (w : R32) (s : State) : Out := s.runAlu (form32 w false true) (aluMulh true w.so.toNat)
/-- mulh_s (R330), 64-bit form. -/
def execMulhS64 (w : R64) (s : State) : Out := s.runAlu (form64 w true) (aluMulh true w.so.toNat)
/-- mulh_u (R330), 32-bit form. -/
def execMulhU (w : R32) (s : State) : Out := s.runAlu (form32 w false true) (aluMulh false w.so.toNat)
/-- mulh_u (R330), 64-bit form. -/
def execMulhU64 (w : R64) (s : State) : Out := s.runAlu (form64 w true) (aluMulh false w.so.toNat)
/-- mad (R330), 32-bit form. -/
def execMad (w : R32) (s : State) : Out := s.runAlu (form32 w false true) (aluMad)
/-- mad (R330), 64-bit form. -/
def execMad64 (w : R64) (s : State) : Out := s.runAlu (form64 w true) (aluMad)
/-- idot_s (R330), 32-bit form. -/
def execIdotS (w : R32) (s : State) : Out := s.runAlu (form32 w false true) (aluIdot true w.so.toNat)
/-- idot_s (R330), 64-bit form. -/
def execIdotS64 (w : R64) (s : State) : Out := s.runAlu (form64 w true) (aluIdot true w.so.toNat)
/-- idot_u (R330), 32-bit form. -/
def execIdotU (w : R32) (s : State) : Out := s.runAlu (form32 w false true) (aluIdot false w.so.toNat)
/-- idot_u (R330), 64-bit form. -/
def execIdotU64 (w : R64) (s : State) : Out := s.runAlu (form64 w true) (aluIdot false w.so.toNat)
/-- rnd (R331), 32-bit form. -/
def execRnd (w : R32) (s : State) : Out := s.runAlu (form32 w false true) (aluRnd)
/-- rnd (R331), 64-bit form. -/
def execRnd64 (w : R64) (s : State) : Out := s.runAlu (form64 w true) (aluRnd)
/-- min (R332), 32-bit form. -/
def execMin (w : R32) (s : State) : Out := s.runAlu (form32 w true (!bitAt w.so 0)) (aluMin (!bitAt w.so 0))
/-- min (R332), 64-bit form. -/
def execMin64 (w : R64) (s : State) : Out := s.runAlu (form64 w (!bitAt w.so 0)) (aluMin (!bitAt w.so 0))
/-- min (R332), 16-bit form (R295). -/
def execMin16 (w : R16) (s : State) : Out := s.runAlu (form16 w false) (aluMin true)
/-- max (R332), 32-bit form. -/
def execMax (w : R32) (s : State) : Out := s.runAlu (form32 w true (!bitAt w.so 0)) (aluMax (!bitAt w.so 0))
/-- max (R332), 64-bit form. -/
def execMax64 (w : R64) (s : State) : Out := s.runAlu (form64 w (!bitAt w.so 0)) (aluMax (!bitAt w.so 0))
/-- max (R332), 16-bit form (R295). -/
def execMax16 (w : R16) (s : State) : Out := s.runAlu (form16 w false) (aluMax true)
/-- mov (R332), 32-bit form. -/
def execMov (w : R32) (s : State) : Out := s.runAlu (form32 w false true) (aluMov)
/-- mov (R332), 64-bit form. -/
def execMov64 (w : R64) (s : State) : Out := s.runAlu (form64 w true) (aluMov)
/-- mov (R332), 16-bit form (R295); `mov v0, v0` is the parcel 0x0000, which is illegal. -/
def execMov16 (w : R16) (s : State) : Out :=
  if w.s = 0 ∧ w.d = 0 then .next (s.trapIllegal 0) else s.runAlu (form16 w true) (aluMov)
/-- lea (R332), 32-bit form. -/
def execLea (w : R32) (s : State) : Out := s.runAlu (form32 w false true) (aluLea w.so.toNat)
/-- lea (R332), 64-bit form. -/
def execLea64 (w : R64) (s : State) : Out := s.runAlu (form64 w true) (aluLea w.so.toNat)
/-- and (R334), 32-bit form. -/
def execAnd (w : R32) (s : State) : Out := s.runAlu (form32 w true false) (aluAnd)
/-- and (R334), 64-bit form. -/
def execAnd64 (w : R64) (s : State) : Out := s.runAlu (form64 w false) (aluAnd)
/-- and (R334), 16-bit form (R295). -/
def execAnd16 (w : R16) (s : State) : Out := s.runAlu (form16 w false) (aluAnd)
/-- or (R334), 32-bit form. -/
def execOr (w : R32) (s : State) : Out := s.runAlu (form32 w true false) (aluOr)
/-- or (R334), 64-bit form. -/
def execOr64 (w : R64) (s : State) : Out := s.runAlu (form64 w false) (aluOr)
/-- or (R334), 16-bit form (R295). -/
def execOr16 (w : R16) (s : State) : Out := s.runAlu (form16 w false) (aluOr)
/-- xor (R334), 32-bit form. -/
def execXor (w : R32) (s : State) : Out := s.runAlu (form32 w true false) (aluXor)
/-- xor (R334), 64-bit form. -/
def execXor64 (w : R64) (s : State) : Out := s.runAlu (form64 w false) (aluXor)
/-- xor (R334), 16-bit form (R295). -/
def execXor16 (w : R16) (s : State) : Out := s.runAlu (form16 w false) (aluXor)
/-- not (R334), 32-bit form. -/
def execNot (w : R32) (s : State) : Out := s.runAlu (form32 w false false) (aluNot)
/-- not (R334), 64-bit form. -/
def execNot64 (w : R64) (s : State) : Out := s.runAlu (form64 w false) (aluNot)
/-- andn (R334), 32-bit form. -/
def execAndn (w : R32) (s : State) : Out := s.runAlu (form32 w true false) (aluAndn)
/-- andn (R334), 64-bit form. -/
def execAndn64 (w : R64) (s : State) : Out := s.runAlu (form64 w false) (aluAndn)
/-- shl (R335), 32-bit form. -/
def execShl (w : R32) (s : State) : Out := s.runAlu (form32 w true false) (aluShl)
/-- shl (R335), 64-bit form. -/
def execShl64 (w : R64) (s : State) : Out := s.runAlu (form64 w false) (aluShl)
/-- shl (R335), 16-bit form (R295). -/
def execShl16 (w : R16) (s : State) : Out := s.runAlu (form16 w false) (aluShl)
/-- shr (R335), 32-bit form. -/
def execShr (w : R32) (s : State) : Out := s.runAlu (form32 w true false) (aluShr)
/-- shr (R335), 64-bit form. -/
def execShr64 (w : R64) (s : State) : Out := s.runAlu (form64 w false) (aluShr)
/-- shr (R335), 16-bit form (R295). -/
def execShr16 (w : R16) (s : State) : Out := s.runAlu (form16 w false) (aluShr)
/-- sar (R335), 32-bit form. -/
def execSar (w : R32) (s : State) : Out := s.runAlu (form32 w true false) (aluSar)
/-- sar (R335), 64-bit form. -/
def execSar64 (w : R64) (s : State) : Out := s.runAlu (form64 w false) (aluSar)
/-- sar (R335), 16-bit form (R295). -/
def execSar16 (w : R16) (s : State) : Out := s.runAlu (form16 w false) (aluSar)
/-- rol (R335), 32-bit form. -/
def execRol (w : R32) (s : State) : Out := s.runAlu (form32 w true false) (aluRol)
/-- rol (R335), 64-bit form. -/
def execRol64 (w : R64) (s : State) : Out := s.runAlu (form64 w false) (aluRol)
/-- clz (R336), 32-bit form. -/
def execClz (w : R32) (s : State) : Out := s.runAlu (form32 w false false) (aluClz)
/-- clz (R336), 64-bit form. -/
def execClz64 (w : R64) (s : State) : Out := s.runAlu (form64 w false) (aluClz)
/-- ctz (R336), 32-bit form. -/
def execCtz (w : R32) (s : State) : Out := s.runAlu (form32 w false false) (aluCtz)
/-- ctz (R336), 64-bit form. -/
def execCtz64 (w : R64) (s : State) : Out := s.runAlu (form64 w false) (aluCtz)
/-- popc (R336), 32-bit form. -/
def execPopc (w : R32) (s : State) : Out := s.runAlu (form32 w false false) (aluPopc)
/-- popc (R336), 64-bit form. -/
def execPopc64 (w : R64) (s : State) : Out := s.runAlu (form64 w false) (aluPopc)
/-- brev (R336), 32-bit form. -/
def execBrev (w : R32) (s : State) : Out := s.runAlu (form32 w false false) (aluBrev)
/-- brev (R336), 64-bit form. -/
def execBrev64 (w : R64) (s : State) : Out := s.runAlu (form64 w false) (aluBrev)
/-- bfe (R337), 32-bit form. -/
def execBfe (w : R32) (s : State) : Out := s.runAlu (form32 w true false) (aluBfe (!bitAt w.so 0) (bitAt w.so 1))
/-- bfe (R337), 64-bit form. -/
def execBfe64 (w : R64) (s : State) : Out := s.runAlu (form64 w false) (aluBfe (!bitAt w.so 0) false)
/-- bfi (R337), 32-bit form. -/
def execBfi (w : R32) (s : State) : Out := s.runAlu (form32 w true false) (aluBfi (bitAt w.so 1))
/-- bfi (R337), 64-bit form. -/
def execBfi64 (w : R64) (s : State) : Out := s.runAlu (form64 w false) (aluBfi false)
/-- perm (R338), 32-bit form. -/
def execPerm (w : R32) (s : State) : Out := s.runAlu (form32 w true false) (aluPerm)
/-- perm (R338), 64-bit form. -/
def execPerm64 (w : R64) (s : State) : Out := s.runAlu (form64 w false) (aluPerm)

/-! ## Carries, selection, comparison, constants -/

/-- `addc` and `subc` of a lane: I64 sources, the carry in from a predicate (R329). -/
def carryAlu (g : Word → Word → Bool → Word × Bool) (c : Bool) : Alu :=
  { arity := 2, check := sameTags isI64, immVal := fun _ v => v, slow := fun _ => false
    eval := fun _ _ vs => ((g (vs.getD 0 0) (vs.getD 1 0) c).1, 0) }

/-- The predicate register as a source of its own in a uniform major (R325). -/
def Form.predSrc (f : Form) : List Opnd := if f.uniform then [{ opnd := 2, src := .uni f.kc false }] else []

/-- `addc`, `subc`: D and the carry register written (R329). -/
def State.runCarry (s : State) (f : Form) (g : Word → Word → Bool → Word × Bool) : Out :=
  s.runAluBy f 2 (fun l => carryAlu g (s.getPred f.uniform l f.kc)) f.predSrc
    (fun t l => t.putPred f.uniform l f.kc
      (g (s.srcVal (fun _ v => v) l f.a 1) (s.srcVal (fun _ v => v) l f.b 1) (s.getPred f.uniform l f.kc)).2)

/-- addc (R329), 32-bit form. -/
def execAddc (w : R32) (s : State) : Out := s.runCarry (form32 w true true) addCarry
/-- addc (R329), 64-bit form. -/
def execAddc64 (w : R64) (s : State) : Out := s.runCarry (form64 w true) addCarry
/-- subc (R329), 32-bit form. -/
def execSubc (w : R32) (s : State) : Out := s.runCarry (form32 w true true) subCarry
/-- subc (R329), 64-bit form. -/
def execSubc64 (w : R64) (s : State) : Out := s.runCarry (form64 w true) subCarry

/-- `sel` of a lane: A or B, with its tag (R332). -/
def selAlu (c : Bool) : Alu :=
  { arity := 2, check := fun tags => .ok (tags.getD (if c then 0 else 1) 0), immVal := immSplat, slow := fun _ => false
    eval := fun _ _ vs => (vs.getD (if c then 0 else 1) 0, 0) }

/-- sel (R332). -/
def execSel (w : R64) (s : State) : Out :=
  s.runAluBy (form64 w true) 2 (fun l => selAlu (s.getPred w.u l (form64 w true).kc)) (form64 w true).predSrc (fun t _ => t)

/-- Whether a comparison takes its elements and its immediate as signed: U has no effect on `.eq` and `.ne` (R333). -/
def cmpSigned (f : BitVec 3) (so : BitVec 2) : Bool := f.toNat < 2 || !bitAt so 0

/-- cmp (R333), 32-bit form. -/
def execCmp (f : BitVec 3) (w : R32) (s : State) : Out :=
  s.runPred (form32 w true (cmpSigned f w.so)) (predCmp f.toNat (cmpSigned f w.so))
/-- cmp (R333), 64-bit form. -/
def execCmp64 (f : BitVec 3) (w : R64) (s : State) : Out :=
  s.runPred (form64 w (cmpSigned f w.so)) (predCmp f.toNat (cmpSigned f w.so))

/-- `movi` (R339): with H, D's low half is kept, so D is a source. -/
def State.runMovi (s : State) (f : Form) (t : Tag) (h : Bool) (imm : Word) : Out :=
  if h then s.runAlu { f with a := f.dstSrc } { aluMovi t true imm with arity := 1 }
  else s.runAlu f (aluMovi t false imm)

/-- movi (R339), 32-bit form: a 12-bit immediate. -/
def execMovi (m : Movi32) (s : State) : Out :=
  s.runMovi { uniform := m.u, d := m.d.toNat, dUni := m.u, a := .none, b := .none, c := .none, kc := 7, so := 0, gk := 0,
              gn := false, act := false } m.t m.h (m.k.signExtend 64)

/-- movi (R339), 64-bit form: a 32-bit immediate, H in bit [12]. -/
def execMovi64 (t : Tag) (w : R64) (s : State) : Out :=
  s.runMovi (form64 w true) t (bitAt w.so 0)
    (match w.sh with | .imm32 imm _ => imm.signExtend 64 | _ => 0)

end Sys2Proof.Machine
end

