-- ==== Sys2Proof/Machine/Lanes.lean ====
section
/-! DEFINITION. The cross-lane and quad instructions (R361 to R366). -/

namespace Sys2Proof.Machine

open Sys2Proof

/-- What a cross-lane instruction gives a lane: a tag, bits and flags. -/
structure LaneVal where
  tag : Tag
  bits : Word
  flags : Word

/-- The helper lanes whose leader is a given active lane (R361). -/
def State.followers (s : State) (l : Nat) : List Nat := s.helpers.filter (fun h => s.leader h == some l)

/-- A value written to D of a lane and of the helper lanes that follow it. -/
def State.putWithFollowers (s pre : State) (f : Form) (slow : Bool) (l : Nat) (v : LaneVal) : State :=
  (pre.followers l).foldl (fun t h => t.deliver (pre.dstKey f h) slow false v.tag v.bits 0)
    (s.deliver (pre.dstKey f l) slow true v.tag v.bits v.flags)

/-- An instruction whose result in each active lane depends on the other active lanes: `fault` is the operand that
fails its tag check (R361). A helper lane's destination must be full too (R131). -/
def State.runCross (s : State) (f : Form) (srcs : List Opnd) (slow : Bool) (fault : Option Nat) (value : Nat → LaneVal) : Out :=
  let lanes := s.active f
  match fault with
  | some e => .next (s.trapFormat lanes e)
  | none =>
    match s.checkFull lanes [] srcs [f.dstSrc] with
    | .trapped t => .next t
    | .blocked => .next s
    | .ok s =>
      if (lanes.flatMap s.followers).any (fun l => s.isEmpty l f.dstSrc) then .next s
      else .next (lanes.foldl (fun t l => t.putWithFollowers s f slow l (value l)) s).advance

/-! ## Shuffles (R362) -/

/-- The source lane of a shuffle and its element offset: kinds 0 idx, 1 up, 2 down, 3 xor. -/
def shuffleSource (kind l : Nat) (n : Word) : Option Nat × Nat :=
  let d := n.toNat % 32
  match kind with
  | 0 => (some d, n.toNat / 32 % 32)
  | 1 => (if d ≤ l then some (l - d) else none, 0)
  | 2 => (some (l + d), 0)
  | _ => (some (l ^^^ d), 0)

/-- Elements of a register for rotation; RAW and BX are one element. -/
def rotateElems (t : Tag) (x : Word) (e : Nat) : Word :=
  let w := tagWidth t
  let m := 64 / w
  ofElems w ((List.range m).map (fun j => elemAt w x ((j + e) % m)))

/-- The lane's count operand. -/
def State.shuffleCount (s : State) (f : Form) (l : Nat) : Word :=
  match f.b with
  | .imm v => v
  | x => s.srcBits l x

/-- What a shuffle gives a lane. -/
def State.shuffleValue (s : State) (f : Form) (kind l : Nat) : LaneVal :=
  let p := shuffleSource kind l (s.shuffleCount f l)
  let from_ := match p.1 with
    | some m => if (s.active f).contains m then m else l
    | none => l
  let t := s.srcTagOf from_ f.a
  { tag := t, bits := rotateElems t (s.srcBits from_ f.a) p.2, flags := 0 }

/-- A shuffle (R362): a count in a register must be tagged I64. -/
def State.runShfl (s : State) (f : Form) (kind : Nat) : Out :=
  let isReg := match f.b with | .imm _ => false | _ => true
  let fault := if isReg && (s.active f).any (fun l => s.srcTagOf l f.b != 1) then some 1 else none
  s.runCross f [{ opnd := 0, src := f.a }, { opnd := 1, src := f.b }] true fault (s.shuffleValue f kind)

/-- shfl (R362), 32-bit form. -/
def execShfl (f : BitVec 3) (w : R32) (s : State) : Out := s.runShfl (form32 w true false) f.toNat
/-- shfl (R362), 64-bit form. -/
def execShfl64 (f : BitVec 3) (w : R64) (s : State) : Out := s.runShfl (form64 w false) f.toNat

/-! ## Quads (R363) -/

/-- The lanes whose A a quad instruction reads in a lane: modes 1 to 3 of qswap, 4 qddx, 5 qddy. -/
def quadReads (kind l : Nat) : List Nat :=
  match kind with
  | 4 => [l ||| 1, l - l % 2]
  | 5 => [l ||| 2, l - (l / 2 % 2) * 2]
  | m => [l ^^^ m]

/-- Whether a lane of a quad that holds a live thread holds one itself or is a helper lane (R123): only such a lane is read (R363). -/
def State.inQuad (s : State) (l : Nat) : Bool := (s.thread (s.curThread l)).live || !(s.thread (s.curThread l)).killed

/-- A register that a quad instruction reads in lane `m` for lane `l`: zero, with the tag of `l`'s own, where `m` holds no thread (R363;
log entry 63). -/
def State.quadReg (s : State) (f : Form) (l m : Nat) : Tag × Word :=
  if s.inQuad m then (s.srcTagOf m f.a, s.srcBits m f.a) else (s.srcTagOf l f.a, 0)

/-- What a quad instruction gives a lane, or the failing operand. -/
def State.quadValue (s : State) (f : Form) (kind l : Nat) : Except Nat LaneOut :=
  match (quadReads kind l).map (s.quadReg f l) with
  | [m] => .ok { writes := [(f.dstSrc, m.1, m.2)], flags := 0 }
  | [hi, lo] =>
    if !isPackedFp hi.1 || lo.1 != hi.1 then .error 0
    else
      let r := fltEval (fun fm xs => fm.subCodes (xs.getD 0 0) (xs.getD 1 0)) hi.1 [hi.2, lo.2]
      .ok { writes := [(f.dstSrc, hi.1, r.1)], flags := r.2 }
  | _ => .error 0

/-- The lanes whose A a quad instruction reads for a lane. -/
def State.quadLanes (s : State) (kind l : Nat) : List Nat := (quadReads kind l).filter s.inQuad

/-- Whether a quad instruction finds an empty source in a lane. -/
def State.quadEmpty (s : State) (f : Form) (kind l : Nat) : Bool := (s.quadLanes kind l).any (fun m => s.isEmpty m f.a)

/-- The error checks of the registers that a quad instruction reads: one that fails traps the lanes that read it (R135, R289). -/
def State.quadRead (s : State) (f : Form) (kind : Nat) (lanes : List Nat) : Ready :=
  if s.errInjs.isEmpty then .ok s
  else
    let r := s.readKeys (lanes.flatMap (fun l => (s.quadLanes kind l).map (fun m => (l, s.srcKey m f.a))))
    match r.1 with
    | [] => .ok r.2
    | (_, a) :: _ => .trapped (r.2.trapReg (r.1.map (·.1)) a)

/-- A quad instruction (R122, R363): the registers of quad-mates count as sources of each lane. -/
def State.runQuad (s : State) (f : Form) (kind : Nat) : Out :=
  let lanes := s.active f
  let others := s.activeHelpers f
  match lanes.findSome? (fun l => match s.quadValue f kind l with | .error e => some e | .ok _ => none) with
  | some e => .next (s.trapFormat lanes e)
  | none =>
    if s.srcTraps f.a && lanes.any (s.quadEmpty f kind) then
      .next (s.trapLanes (lanes.filter (s.quadEmpty f kind)) 0x04 s.curPc (fun _ => 0) (fun _ => infoOperand 0 false))
    else if (lanes ++ others).any (s.quadEmpty f kind) then .next s
    else match s.quadRead f kind lanes with
      | .trapped t => .next t
      | .blocked => .next s
      | .ok t => t.runLanes f [] [f.dstSrc] false (s.quadValue f kind)

/-- The mode of `qswap`: the B field. -/
def qswapMode (w : R64) : Nat :=
  match w.sh with
  | .rrr _ _ _ _ b _ _ _ => b.toNat
  | .imm16 _ imm _ _ _ _ => imm.toNat
  | _ => 0

/-- qswap (R363): modes 1 to 3. -/
def State.qswapStep (s : State) (f : Form) (mode : Nat) : Out :=
  if mode = 0 ∨ 3 < mode then .next (s.trapIllegal 3) else s.runQuad f mode

/-- qswap (R363), 32-bit form. -/
def execQswap (w : R32) (s : State) : Out := s.qswapStep (form32 w false false) w.b.toNat
/-- qswap (R363), 64-bit form. -/
def execQswap64 (w : R64) (s : State) : Out := s.qswapStep (form64 w false) (qswapMode w)
/-- qddx (R363), 32-bit form. -/
def execQddx (w : R32) (s : State) : Out := s.runQuad (form32 w false false) 4
/-- qddx (R363), 64-bit form. -/
def execQddx64 (w : R64) (s : State) : Out := s.runQuad (form64 w false) 4
/-- qddy (R363), 32-bit form. -/
def execQddy (w : R32) (s : State) : Out := s.runQuad (form32 w false false) 5
/-- qddy (R363), 64-bit form. -/
def execQddy64 (w : R64) (s : State) : Out := s.runQuad (form64 w false) 5

/-! ## Votes and masks (R364) -/

/-- The number that a k field of a source names. -/
def Src.num (x : Src) : Nat :=
  match x with
  | .lane n _ => n
  | .uni n _ => n
  | _ => 0

/-- The active lanes whose k register is 1. -/
def State.voters (s : State) (f : Form) : List Nat :=
  (s.active f).filter (fun l => (s.thread (s.curThread l)).kAt f.a.num)

/-- A predicate of the active lanes written to k in each of them and in the helper lanes that follow. -/
def State.runVote (s : State) (f : Form) (v : Bool) : Out :=
  let put := fun (t : State) (l : Nat) => t.putPred false l f.d v
  .next (((s.active f).foldl (fun t l => (s.followers l).foldl put (put t l)) s).advance)

/-- A mask of lanes as a word. -/
def laneMask (lanes : List Nat) : Word := BitVec.ofNat 64 ((lanes.map (fun l => 2 ^ l)).foldl (· + ·) 0)

/-- A value written once to the s register D; with no active lane nothing is written (R302). -/
def State.runToUniform (s : State) (f : Form) (srcs : List Opnd) (t : Tag) (v : Word) : Out :=
  let lanes := s.active f
  if lanes.isEmpty then .next s.advance
  else
    match s.checkFull lanes [] srcs [.uni f.d false] with
    | .trapped u => .next u
    | .blocked => .next s
    | .ok s => .next (s.putReg (s.uniKey f.d) t v).advance

/-- `tos`: A of the lowest active lane, with its tag. -/
def State.runTos (s : State) (f : Form) : Out :=
  let l := (s.active f).headD 0
  s.runToUniform f [{ opnd := 0, src := f.a }] (s.srcTagOf l f.a) (s.srcBits l f.a)

def State.voteAny (s : State) (f : Form) : Out := s.runVote f (!(s.voters f).isEmpty)
def State.voteAll (s : State) (f : Form) : Out := s.runVote f ((s.voters f).length == (s.active f).length)
def State.voteEq (s : State) (f : Form) : Out :=
  s.runVote f ((s.voters f).isEmpty || (s.voters f).length == (s.active f).length)

/-- vote.any (R364), 32-bit form. -/
def execVoteAny (w : R32) (s : State) : Out := s.voteAny (form32 w false false)
/-- vote.any (R364), 64-bit form. -/
def execVoteAny64 (w : R64) (s : State) : Out := s.voteAny (form64 w false)
/-- vote.all (R364), 32-bit form. -/
def execVoteAll (w : R32) (s : State) : Out := s.voteAll (form32 w false false)
/-- vote.all (R364), 64-bit form. -/
def execVoteAll64 (w : R64) (s : State) : Out := s.voteAll (form64 w false)
/-- vote.eq (R364), 32-bit form. -/
def execVoteEq (w : R32) (s : State) : Out := s.voteEq (form32 w false false)
/-- vote.eq (R364), 64-bit form. -/
def execVoteEq64 (w : R64) (s : State) : Out := s.voteEq (form64 w false)
/-- ballot (R364), 32-bit form. -/
def execBallot (w : R32) (s : State) : Out := s.runToUniform (form32 w false false) [] 1 (laneMask (s.voters (form32 w false false)))
/-- ballot (R364), 64-bit form. -/
def execBallot64 (w : R64) (s : State) : Out := s.runToUniform (form64 w false) [] 1 (laneMask (s.voters (form64 w false)))
/-- amask (R364), 32-bit form. -/
def execAmask (w : R32) (s : State) : Out := s.runToUniform (form32 w false false) [] 1 (laneMask (s.active (form32 w false false)))
/-- amask (R364), 64-bit form. -/
def execAmask64 (w : R64) (s : State) : Out := s.runToUniform (form64 w false) [] 1 (laneMask (s.active (form64 w false)))
/-- tos (R364), 32-bit form. -/
def execTos (w : R32) (s : State) : Out := s.runTos (form32 w false false)
/-- tos (R364), 64-bit form. -/
def execTos64 (w : R64) (s : State) : Out := s.runTos (form64 w false)

/-! ## Reductions and scans (R365, R366) -/

/-- The identity of an integer reduction (R365). -/
def redIdentity (op w : Nat) (signed : Bool) : Nat :=
  match op with
  | 1 => ofInt w (intMax w signed)
  | 2 => ofInt w (intMin w signed)
  | 3 => 2 ^ w - 1
  | _ => 0

/-- One step of a floating-point reduction: 0 fadd, 1 fmin, 2 fmax. -/
def redFloat (op : Nat) (f : Fmt) (a b : Nat) : Nat × Word :=
  match op with
  | 0 => f.addCodes a b
  | 1 => f.minCodes a b
  | _ => f.maxCodes a b

/-- What the lowest lane of an exclusive floating-point scan receives (R366). -/
def redFloatIdentity (op : Nat) (f : Fmt) : Nat :=
  match op with
  | 0 => f.signed true 0
  | 1 => f.infCode
  | _ => f.signed true f.infCode

/-- A combination of registers: two words to a word and flags, and its identity. -/
structure Fold where
  step : Word → Word → Word × Word
  identity : Word

def foldInt (op : Nat) (signed : Bool) (t : Tag) : Fold :=
  { step := fun a b => (zipElems (tagWidth t) (redInt op (tagWidth t) signed) a b, 0)
    identity := splat (tagWidth t) (redIdentity op (tagWidth t) signed) }

def foldFloat (op : Nat) (t : Tag) : Fold :=
  { step := fun a b => fltEval (fun f xs => redFloat op f (xs.getD 0 0) (xs.getD 1 0)) t [a, b]
    identity := splat (tagWidth t) (redFloatIdentity op (fmtD t)) }

/-- The left fold over the words of ascending lanes (R366); the first lane starts it. -/
def Fold.over (g : Fold) (vs : List Word) : Word × Word :=
  match vs with
  | [] => (g.identity, 0)
  | v :: rest => rest.foldl (fun acc x => ((g.step acc.1 x).1, acc.2 ||| (g.step acc.1 x).2)) (v, 0)

/-- The words of the active lanes that a lane's result combines: all of them, or those up to or below it. -/
def State.foldLanes (s : State) (f : Form) (scan excl : Bool) (l : Nat) : List Nat :=
  if !scan then s.active f
  else (s.active f).filter (fun m => if excl then decide (m < l) else decide (m ≤ l))

/-- A reduction or a scan (R365, R366): one accepted tag in every active lane. The flags of every step are ORed once,
with the last lane's result. -/
def State.runFold (s : State) (f : Form) (ok : Tag → Bool) (g : Tag → Fold) (scan excl : Bool) : Out :=
  let lanes := s.active f
  let t := s.srcTagOf (lanes.headD 0) f.a
  let fault := if lanes.any (fun l => !ok (s.srcTagOf l f.a) || s.srcTagOf l f.a != t) then some 0 else none
  s.runCross f [{ opnd := 0, src := f.a }] true fault (fun l =>
    let r := (g t).over ((s.foldLanes f scan excl l).map (fun m => s.srcBits m f.a))
    { tag := t, bits := r.1, flags := ((g t).over (lanes.map (fun m => s.srcBits m f.a))).2 })

/-- lred (R365), 32-bit form. -/
def execLred (f : BitVec 3) (w : R32) (s : State) : Out :=
  s.runFold (form32 w false false) isIntTag (foldInt f.toNat (!bitAt w.so 0)) false false
/-- lred (R365), 64-bit form. -/
def execLred64 (f : BitVec 3) (w : R64) (s : State) : Out :=
  s.runFold (form64 w false) isIntTag (foldInt f.toNat (!bitAt w.so 0)) false false
/-- lscan (R365), 32-bit form. -/
def execLscan (f : BitVec 3) (w : R32) (s : State) : Out :=
  s.runFold (form32 w false false) isIntTag (foldInt f.toNat (!bitAt w.so 0)) true (bitAt w.so 1)
/-- lscan (R365), 64-bit form. -/
def execLscan64 (f : BitVec 3) (w : R64) (s : State) : Out :=
  s.runFold (form64 w false) isIntTag (foldInt f.toNat (!bitAt w.so 0)) true (bitAt w.so 1)
/-- lred of floating point (R366), 32-bit form. -/
def execLredFloat (f : BitVec 3) (w : R32) (s : State) : Out := s.runFold (form32 w false false) isFpTag (foldFloat f.toNat) false false
/-- lred of floating point (R366), 64-bit form. -/
def execLredFloat64 (f : BitVec 3) (w : R64) (s : State) : Out := s.runFold (form64 w false) isFpTag (foldFloat f.toNat) false false
/-- lscan of floating point (R366), 32-bit form. -/
def execLscanFloat (f : BitVec 3) (w : R32) (s : State) : Out :=
  s.runFold (form32 w false false) isFpTag (foldFloat f.toNat) true (bitAt w.so 1)
/-- lscan of floating point (R366), 64-bit form. -/
def execLscanFloat64 (f : BitVec 3) (w : R64) (s : State) : Out :=
  s.runFold (form64 w false) isFpTag (foldFloat f.toNat) true (bitAt w.so 1)

end Sys2Proof.Machine
end

