-- ==== Sys2Proof/Machine/Dispatch.lean ====
section
/-! DEFINITION. The dispatch of every instruction and event to its meaning, one arm per constructor. -/

namespace Sys2Proof.Machine

open Sys2Proof

def exec (i : Instr) (s : State) : Host.Outcome State Fault Refusal :=
  match i with
  | .powerOn => Sys2Proof.Machine.execPowerOn s
  | .fundamentalReset => Sys2Proof.Machine.execFundamentalReset s
  | .thermalTrip => Sys2Proof.Machine.execThermalTrip s
  | .startStepComplete ok => Sys2Proof.Machine.execStartStepComplete ok s
  | .startTimeout => Sys2Proof.Machine.execStartTimeout s
  | .powerOverLimit watts ceiling0 ceiling1 => Sys2Proof.Machine.execPowerOverLimit watts ceiling0 ceiling1 s
  | .temperatureOverLimit die ceiling => Sys2Proof.Machine.execTemperatureOverLimit die ceiling s
  | .analoguePowerClamp watts => Sys2Proof.Machine.execAnaloguePowerClamp watts s
  | .pcieConfigRequest => Sys2Proof.Machine.execPcieConfigRequest s
  | .bar0RegisterWrite off size data => Sys2Proof.Machine.execBar0RegisterWrite off size data s
  | .bar2HostRead off len => Sys2Proof.Machine.execBar2HostRead off len s
  | .bar2HostWrite off bytes => Sys2Proof.Machine.execBar2HostWrite off bytes s
  | .hostFetchadd off value => Sys2Proof.Machine.execHostFetchadd off value s
  | .hostLock data => Sys2Proof.Machine.execHostLock data s
  | .linkEmit data => Sys2Proof.Machine.execLinkEmit data s
  | .pwrLimit data => Sys2Proof.Machine.execPwrLimit data s
  | .ctxCreate data => Sys2Proof.Machine.execCtxCreate data s
  | .ctxDestroy data => Sys2Proof.Machine.execCtxDestroy data s
  | .bootReqWarm => Sys2Proof.Machine.execBootReqWarm s
  | .bootReqCold => Sys2Proof.Machine.execBootReqCold s
  | .firmwareUpdate data => Sys2Proof.Machine.execFirmwareUpdate data s
  | .firmwareUpdateComplete flashOk => Sys2Proof.Machine.execFirmwareUpdateComplete flashOk s
  | .attestationRequest data => Sys2Proof.Machine.execAttestationRequest data s
  | .attestationComplete => Sys2Proof.Machine.execAttestationComplete s
  | .preReqHold data => Sys2Proof.Machine.execPreReqHold data s
  | .preReqRelease data => Sys2Proof.Machine.execPreReqRelease data s
  | .hostSemaphoreAdd index value => Sys2Proof.Machine.execHostSemaphoreAdd index value s
  | .errorInject data => Sys2Proof.Machine.execErrorInject data s
  | .fabPortEnable port data => Sys2Proof.Machine.execFabPortEnable port data s
  | .fabPortDisable port data => Sys2Proof.Machine.execFabPortDisable port data s
  | .fabPortRetrain port data => Sys2Proof.Machine.execFabPortRetrain port data s
  | .fabRouteWrite target data => Sys2Proof.Machine.execFabRouteWrite target data s
  | .portTrainingComplete port trained nbr => Sys2Proof.Machine.execPortTrainingComplete port trained nbr s
  | .laneTrainTimeout port lane => Sys2Proof.Machine.execLaneTrainTimeout port lane s
  | .flitReceive port flit => Sys2Proof.Machine.execFlitReceive port flit s
  | .replayRequest port fromSeq => Sys2Proof.Machine.execReplayRequest port fromSeq s
  | .laneReplayLimit port lane => Sys2Proof.Machine.execLaneReplayLimit port lane s
  | .opticalEngineFailure engine => Sys2Proof.Machine.execOpticalEngineFailure engine s
  | .fabricInboundRequest source req => Sys2Proof.Machine.execFabricInboundRequest source req s
  | .fabricResponse id bytes ok => Sys2Proof.Machine.execFabricResponse id bytes ok s
  | .routeChangeApply target => Sys2Proof.Machine.execRouteChangeApply target s
  | .portDrainComplete port => Sys2Proof.Machine.execPortDrainComplete port s
  | .queueWake ctx queue => Sys2Proof.Machine.execQueueWake ctx queue s
  | .queueDescriptorRun ctx queue => Sys2Proof.Machine.execQueueDescriptorRun ctx queue s
  | .packetDequeue ctx queue => Sys2Proof.Machine.execPacketDequeue ctx queue s
  | .nodeCapture ctx queue => Sys2Proof.Machine.execNodeCapture ctx queue s
  | .packetStart cmd => Sys2Proof.Machine.execPacketStart cmd s
  | .launch cmd => Sys2Proof.Machine.execLaunch cmd s
  | .copyPlain cmd => Sys2Proof.Machine.execCopyPlain cmd s
  | .copyTranspose cmd => Sys2Proof.Machine.execCopyTranspose cmd s
  | .copyCompress cmd => Sys2Proof.Machine.execCopyCompress cmd s
  | .copyDecompress cmd => Sys2Proof.Machine.execCopyDecompress cmd s
  | .copyConvert cmd => Sys2Proof.Machine.execCopyConvert cmd s
  | .copyRepack cmd => Sys2Proof.Machine.execCopyRepack cmd s
  | .copyMigrate cmd => Sys2Proof.Machine.execCopyMigrate cmd s
  | .copyChain cmd => Sys2Proof.Machine.execCopyChain cmd s
  | .sort cmd => Sys2Proof.Machine.execSort cmd s
  | .collAllReduce cmd => Sys2Proof.Machine.execCollAllReduce cmd s
  | .collReduceScatter cmd => Sys2Proof.Machine.execCollReduceScatter cmd s
  | .collAllGather cmd => Sys2Proof.Machine.execCollAllGather cmd s
  | .collBroadcast cmd => Sys2Proof.Machine.execCollBroadcast cmd s
  | .collOrderedComposite cmd => Sys2Proof.Machine.execCollOrderedComposite cmd s
  | .nearLoadprog cmd => Sys2Proof.Machine.execNearLoadprog cmd s
  | .nearRun cmd => Sys2Proof.Machine.execNearRun cmd s
  | .nearIreduce cmd => Sys2Proof.Machine.execNearIreduce cmd s
  | .signal cmd => Sys2Proof.Machine.execSignal cmd s
  | .await cmd => Sys2Proof.Machine.execAwait cmd s
  | .nop cmd => Sys2Proof.Machine.execNop cmd s
  | .commandComplete cmd => Sys2Proof.Machine.execCommandComplete cmd s
  | .corniceTransferComplete unit buf => Sys2Proof.Machine.execCorniceTransferComplete unit buf s
  | .corniceStepLimit unit => Sys2Proof.Machine.execCorniceStepLimit unit s
  | .workgroupPlace cores => Sys2Proof.Machine.execWorkgroupPlace cores s
  | .workgroupRestore cores => Sys2Proof.Machine.execWorkgroupRestore cores s
  | .operatingPointStable die => Sys2Proof.Machine.execOperatingPointStable die s
  | .hangLimit wg grp => Sys2Proof.Machine.execHangLimit wg grp s
  | .helmHangLimit wg => Sys2Proof.Machine.execHelmHangLimit wg s
  | .backwardBranchYield wg grp => Sys2Proof.Machine.execBackwardBranchYield wg grp s
  | .napExpire wg grp => Sys2Proof.Machine.execNapExpire wg grp s
  | .spawnBinCountdown core bin => Sys2Proof.Machine.execSpawnBinCountdown core bin s
  | .spawnGroupStart core bin => Sys2Proof.Machine.execSpawnGroupStart core bin s
  | .ticketRelease launch => Sys2Proof.Machine.execTicketRelease launch s
  | .longLatencyFill fill => Sys2Proof.Machine.execLongLatencyFill fill s
  | .asyncOperationComplete op => Sys2Proof.Machine.execAsyncOperationComplete op s
  | .mapFillComplete wg line => Sys2Proof.Machine.execMapFillComplete wg line s
  | .mapWriteback wg line => Sys2Proof.Machine.execMapWriteback wg line s
  | .translationFenceComplete fence => Sys2Proof.Machine.execTranslationFenceComplete fence s
  | .l2Writeback frame block => Sys2Proof.Machine.execL2Writeback frame block s
  | .repackService frame => Sys2Proof.Machine.execRepackService frame s
  | .hotnessSample slice frame => Sys2Proof.Machine.execHotnessSample slice frame s
  | .matrixAccept core => Sys2Proof.Machine.execMatrixAccept core s
  | .matrixStart core => Sys2Proof.Machine.execMatrixStart core s
  | .matrixToken core => Sys2Proof.Machine.execMatrixToken core s
  | .matrixTokenTimeout core => Sys2Proof.Machine.execMatrixTokenTimeout core s
  | .helmTrapDelivery wg => Sys2Proof.Machine.execHelmTrapDelivery wg s
  | .faultRecordPost ctx => Sys2Proof.Machine.execFaultRecordPost ctx s
  | .qpushSlotWrite op => Sys2Proof.Machine.execQpushSlotWrite op s
  | .add w => Sys2Proof.Machine.execAdd w s
  | .add16 w => Sys2Proof.Machine.execAdd16 w s
  | .add64 w => Sys2Proof.Machine.execAdd64 w s
  | .sub w => Sys2Proof.Machine.execSub w s
  | .sub16 w => Sys2Proof.Machine.execSub16 w s
  | .sub64 w => Sys2Proof.Machine.execSub64 w s
  | .addc w => Sys2Proof.Machine.execAddc w s
  | .addc64 w => Sys2Proof.Machine.execAddc64 w s
  | .subc w => Sys2Proof.Machine.execSubc w s
  | .subc64 w => Sys2Proof.Machine.execSubc64 w s
  | .adds w => Sys2Proof.Machine.execAdds w s
  | .adds64 w => Sys2Proof.Machine.execAdds64 w s
  | .subs w => Sys2Proof.Machine.execSubs w s
  | .subs64 w => Sys2Proof.Machine.execSubs64 w s
  | .neg w => Sys2Proof.Machine.execNeg w s
  | .neg64 w => Sys2Proof.Machine.execNeg64 w s
  | .abs w => Sys2Proof.Machine.execAbs w s
  | .abs64 w => Sys2Proof.Machine.execAbs64 w s
  | .mul w => Sys2Proof.Machine.execMul w s
  | .mul64 w => Sys2Proof.Machine.execMul64 w s
  | .mulhS w => Sys2Proof.Machine.execMulhS w s
  | .mulhS64 w => Sys2Proof.Machine.execMulhS64 w s
  | .mad w => Sys2Proof.Machine.execMad w s
  | .mad64 w => Sys2Proof.Machine.execMad64 w s
  | .idotS w => Sys2Proof.Machine.execIdotS w s
  | .idotS64 w => Sys2Proof.Machine.execIdotS64 w s
  | .rnd w => Sys2Proof.Machine.execRnd w s
  | .rnd64 w => Sys2Proof.Machine.execRnd64 w s
  | .mulhU w => Sys2Proof.Machine.execMulhU w s
  | .mulhU64 w => Sys2Proof.Machine.execMulhU64 w s
  | .idotU w => Sys2Proof.Machine.execIdotU w s
  | .idotU64 w => Sys2Proof.Machine.execIdotU64 w s
  | .min w => Sys2Proof.Machine.execMin w s
  | .min16 w => Sys2Proof.Machine.execMin16 w s
  | .min64 w => Sys2Proof.Machine.execMin64 w s
  | .max w => Sys2Proof.Machine.execMax w s
  | .max16 w => Sys2Proof.Machine.execMax16 w s
  | .max64 w => Sys2Proof.Machine.execMax64 w s
  | .sel w => Sys2Proof.Machine.execSel w s
  | .mov w => Sys2Proof.Machine.execMov w s
  | .mov16 w => Sys2Proof.Machine.execMov16 w s
  | .mov64 w => Sys2Proof.Machine.execMov64 w s
  | .lea w => Sys2Proof.Machine.execLea w s
  | .lea64 w => Sys2Proof.Machine.execLea64 w s
  | .cmp f w => Sys2Proof.Machine.execCmp f w s
  | .cmp64 f w => Sys2Proof.Machine.execCmp64 f w s
  | .and w => Sys2Proof.Machine.execAnd w s
  | .and16 w => Sys2Proof.Machine.execAnd16 w s
  | .and64 w => Sys2Proof.Machine.execAnd64 w s
  | .or w => Sys2Proof.Machine.execOr w s
  | .or16 w => Sys2Proof.Machine.execOr16 w s
  | .or64 w => Sys2Proof.Machine.execOr64 w s
  | .xor w => Sys2Proof.Machine.execXor w s
  | .xor16 w => Sys2Proof.Machine.execXor16 w s
  | .xor64 w => Sys2Proof.Machine.execXor64 w s
  | .not w => Sys2Proof.Machine.execNot w s
  | .not64 w => Sys2Proof.Machine.execNot64 w s
  | .andn w => Sys2Proof.Machine.execAndn w s
  | .andn64 w => Sys2Proof.Machine.execAndn64 w s
  | .shl w => Sys2Proof.Machine.execShl w s
  | .shl16 w => Sys2Proof.Machine.execShl16 w s
  | .shl64 w => Sys2Proof.Machine.execShl64 w s
  | .shr w => Sys2Proof.Machine.execShr w s
  | .shr16 w => Sys2Proof.Machine.execShr16 w s
  | .shr64 w => Sys2Proof.Machine.execShr64 w s
  | .sar w => Sys2Proof.Machine.execSar w s
  | .sar16 w => Sys2Proof.Machine.execSar16 w s
  | .sar64 w => Sys2Proof.Machine.execSar64 w s
  | .rol w => Sys2Proof.Machine.execRol w s
  | .rol64 w => Sys2Proof.Machine.execRol64 w s
  | .clz w => Sys2Proof.Machine.execClz w s
  | .clz64 w => Sys2Proof.Machine.execClz64 w s
  | .ctz w => Sys2Proof.Machine.execCtz w s
  | .ctz64 w => Sys2Proof.Machine.execCtz64 w s
  | .popc w => Sys2Proof.Machine.execPopc w s
  | .popc64 w => Sys2Proof.Machine.execPopc64 w s
  | .brev w => Sys2Proof.Machine.execBrev w s
  | .brev64 w => Sys2Proof.Machine.execBrev64 w s
  | .bfe w => Sys2Proof.Machine.execBfe w s
  | .bfe64 w => Sys2Proof.Machine.execBfe64 w s
  | .bfi w => Sys2Proof.Machine.execBfi w s
  | .bfi64 w => Sys2Proof.Machine.execBfi64 w s
  | .perm w => Sys2Proof.Machine.execPerm w s
  | .perm64 w => Sys2Proof.Machine.execPerm64 w s
  | .movi m => Sys2Proof.Machine.execMovi m s
  | .movi64 t w => Sys2Proof.Machine.execMovi64 t w s
  | .bra o => Sys2Proof.Machine.execBra o s
  | .bc o n k => Sys2Proof.Machine.execBc o n k s
  | .jmpV w => Sys2Proof.Machine.execJmpV w s
  | .jmpV64 w => Sys2Proof.Machine.execJmpV64 w s
  | .jmpS w => Sys2Proof.Machine.execJmpS w s
  | .jmpS64 w => Sys2Proof.Machine.execJmpS64 w s
  | .call w => Sys2Proof.Machine.execCall w s
  | .call64 w => Sys2Proof.Machine.execCall64 w s
  | .ret w => Sys2Proof.Machine.execRet w s
  | .ret64 w => Sys2Proof.Machine.execRet64 w s
  | .callRel o d => Sys2Proof.Machine.execCallRel o d s
  | .exit w => Sys2Proof.Machine.execExit w s
  | .exit64 w => Sys2Proof.Machine.execExit64 w s
  | .yield w => Sys2Proof.Machine.execYield w s
  | .yield64 w => Sys2Proof.Machine.execYield64 w s
  | .nap n => Sys2Proof.Machine.execNap n s
  | .nap64 w => Sys2Proof.Machine.execNap64 w s
  | .trap n => Sys2Proof.Machine.execTrap n s
  | .trap64 w => Sys2Proof.Machine.execTrap64 w s
  | .spawn w => Sys2Proof.Machine.execSpawn w s
  | .spawn64 w => Sys2Proof.Machine.execSpawn64 w s
  | .fadd w => Sys2Proof.Machine.execFadd w s
  | .faddUniform w => Sys2Proof.Machine.execFaddUniform w s
  | .fadd16 w => Sys2Proof.Machine.execFadd16 w s
  | .fadd64 w => Sys2Proof.Machine.execFadd64 w s
  | .fsub w => Sys2Proof.Machine.execFsub w s
  | .fsubUniform w => Sys2Proof.Machine.execFsubUniform w s
  | .fsub16 w => Sys2Proof.Machine.execFsub16 w s
  | .fsub64 w => Sys2Proof.Machine.execFsub64 w s
  | .fmul w => Sys2Proof.Machine.execFmul w s
  | .fmulUniform w => Sys2Proof.Machine.execFmulUniform w s
  | .fmul16 w => Sys2Proof.Machine.execFmul16 w s
  | .fmul64 w => Sys2Proof.Machine.execFmul64 w s
  | .fma w => Sys2Proof.Machine.execFma w s
  | .fmaUniform w => Sys2Proof.Machine.execFmaUniform w s
  | .fma64 w => Sys2Proof.Machine.execFma64 w s
  | .fnma w => Sys2Proof.Machine.execFnma w s
  | .fnmaUniform w => Sys2Proof.Machine.execFnmaUniform w s
  | .fnma64 w => Sys2Proof.Machine.execFnma64 w s
  | .fmin w => Sys2Proof.Machine.execFmin w s
  | .fminUniform w => Sys2Proof.Machine.execFminUniform w s
  | .fmin16 w => Sys2Proof.Machine.execFmin16 w s
  | .fmin64 w => Sys2Proof.Machine.execFmin64 w s
  | .fmax w => Sys2Proof.Machine.execFmax w s
  | .fmaxUniform w => Sys2Proof.Machine.execFmaxUniform w s
  | .fmax16 w => Sys2Proof.Machine.execFmax16 w s
  | .fmax64 w => Sys2Proof.Machine.execFmax64 w s
  | .fdot w => Sys2Proof.Machine.execFdot w s
  | .fdotUniform w => Sys2Proof.Machine.execFdotUniform w s
  | .fdot64 w => Sys2Proof.Machine.execFdot64 w s
  | .fabs w => Sys2Proof.Machine.execFabs w s
  | .fabsUniform w => Sys2Proof.Machine.execFabsUniform w s
  | .fabs64 w => Sys2Proof.Machine.execFabs64 w s
  | .fneg w => Sys2Proof.Machine.execFneg w s
  | .fnegUniform w => Sys2Proof.Machine.execFnegUniform w s
  | .fneg64 w => Sys2Proof.Machine.execFneg64 w s
  | .fclass w => Sys2Proof.Machine.execFclass w s
  | .fclassUniform w => Sys2Proof.Machine.execFclassUniform w s
  | .fclass64 w => Sys2Proof.Machine.execFclass64 w s
  | .frnd w => Sys2Proof.Machine.execFrnd w s
  | .frndUniform w => Sys2Proof.Machine.execFrndUniform w s
  | .frnd64 w => Sys2Proof.Machine.execFrnd64 w s
  | .fscale w => Sys2Proof.Machine.execFscale w s
  | .fscaleUniform w => Sys2Proof.Machine.execFscaleUniform w s
  | .fscale64 w => Sys2Proof.Machine.execFscale64 w s
  | .hadd w => Sys2Proof.Machine.execHadd w s
  | .haddUniform w => Sys2Proof.Machine.execHaddUniform w s
  | .hadd64 w => Sys2Proof.Machine.execHadd64 w s
  | .pack w => Sys2Proof.Machine.execPack w s
  | .packUniform w => Sys2Proof.Machine.execPackUniform w s
  | .pack64 w => Sys2Proof.Machine.execPack64 w s
  | .swz w => Sys2Proof.Machine.execSwz w s
  | .swzUniform w => Sys2Proof.Machine.execSwzUniform w s
  | .swz64 w => Sys2Proof.Machine.execSwz64 w s
  | .fcmp f w => Sys2Proof.Machine.execFcmp f w s
  | .fcmpUniform f w => Sys2Proof.Machine.execFcmpUniform f w s
  | .fcmp64 f w => Sys2Proof.Machine.execFcmp64 f w s
  | .specialFunction f w => Sys2Proof.Machine.execSpecialFunction f w s
  | .specialFunctionUniform f w => Sys2Proof.Machine.execSpecialFunctionUniform f w s
  | .specialFunction64 f w => Sys2Proof.Machine.execSpecialFunction64 f w s
  | .cvt t w => Sys2Proof.Machine.execCvt t w s
  | .cvtUniform t w => Sys2Proof.Machine.execCvtUniform t w s
  | .cvt64 t w => Sys2Proof.Machine.execCvt64 t w s
  | .shfl f w => Sys2Proof.Machine.execShfl f w s
  | .shfl64 f w => Sys2Proof.Machine.execShfl64 f w s
  | .qswap w => Sys2Proof.Machine.execQswap w s
  | .qswap64 w => Sys2Proof.Machine.execQswap64 w s
  | .qddx w => Sys2Proof.Machine.execQddx w s
  | .qddx64 w => Sys2Proof.Machine.execQddx64 w s
  | .qddy w => Sys2Proof.Machine.execQddy w s
  | .qddy64 w => Sys2Proof.Machine.execQddy64 w s
  | .voteAny w => Sys2Proof.Machine.execVoteAny w s
  | .voteAny64 w => Sys2Proof.Machine.execVoteAny64 w s
  | .voteAll w => Sys2Proof.Machine.execVoteAll w s
  | .voteAll64 w => Sys2Proof.Machine.execVoteAll64 w s
  | .voteEq w => Sys2Proof.Machine.execVoteEq w s
  | .voteEq64 w => Sys2Proof.Machine.execVoteEq64 w s
  | .ballot w => Sys2Proof.Machine.execBallot w s
  | .ballot64 w => Sys2Proof.Machine.execBallot64 w s
  | .amask w => Sys2Proof.Machine.execAmask w s
  | .amask64 w => Sys2Proof.Machine.execAmask64 w s
  | .tos w => Sys2Proof.Machine.execTos w s
  | .tos64 w => Sys2Proof.Machine.execTos64 w s
  | .lred f w => Sys2Proof.Machine.execLred f w s
  | .lred64 f w => Sys2Proof.Machine.execLred64 f w s
  | .lscan f w => Sys2Proof.Machine.execLscan f w s
  | .lscan64 f w => Sys2Proof.Machine.execLscan64 f w s
  | .lredFloat f w => Sys2Proof.Machine.execLredFloat f w s
  | .lredFloat64 f w => Sys2Proof.Machine.execLredFloat64 f w s
  | .lscanFloat f w => Sys2Proof.Machine.execLscanFloat f w s
  | .lscanFloat64 f w => Sys2Proof.Machine.execLscanFloat64 f w s
  | .gkey w => Sys2Proof.Machine.execGkey w s
  | .gkey64 w => Sys2Proof.Machine.execGkey64 w s
  | .galpha w => Sys2Proof.Machine.execGalpha w s
  | .galpha64 w => Sys2Proof.Machine.execGalpha64 w s
  | .gover w => Sys2Proof.Machine.execGover w s
  | .gover64 w => Sys2Proof.Machine.execGover64 w s
  | .gterm w => Sys2Proof.Machine.execGterm w s
  | .gterm64 w => Sys2Proof.Machine.execGterm64 w s
  | .smp f w => Sys2Proof.Machine.execSmp f w s
  | .smp64 f w => Sys2Proof.Machine.execSmp64 f w s
  | .ld t m => Sys2Proof.Machine.execLd t m s
  | .ld64 p t w => Sys2Proof.Machine.execLd64 p t w s
  | .st m => Sys2Proof.Machine.execSt m s
  | .st64 p w => Sys2Proof.Machine.execSt64 p w s
  | .ldsU m => Sys2Proof.Machine.execLdsU m s
  | .ldsU64 p w => Sys2Proof.Machine.execLdsU64 p w s
  | .ldsS m => Sys2Proof.Machine.execLdsS m s
  | .ldsS64 p w => Sys2Proof.Machine.execLdsS64 p w s
  | .sts m => Sys2Proof.Machine.execSts m s
  | .sts64 p w => Sys2Proof.Machine.execSts64 p w s
  | .ldm p w => Sys2Proof.Machine.execLdm p w s
  | .stm p w => Sys2Proof.Machine.execStm p w s
  | .atom f w => Sys2Proof.Machine.execAtom f w s
  | .red f w => Sys2Proof.Machine.execRed f w s
  | .pub c => Sys2Proof.Machine.execPub c s
  | .pub64 w => Sys2Proof.Machine.execPub64 w s
  | .pull c => Sys2Proof.Machine.execPull c s
  | .pull64 w => Sys2Proof.Machine.execPull64 w s
  | .phase c => Sys2Proof.Machine.execPhase c s
  | .phase64 w => Sys2Proof.Machine.execPhase64 w s
  | .pref m => Sys2Proof.Machine.execPref m s
  | .pref64 w => Sys2Proof.Machine.execPref64 w s
  | .barInit w => Sys2Proof.Machine.execBarInit w s
  | .barInit64 w => Sys2Proof.Machine.execBarInit64 w s
  | .barArrive w => Sys2Proof.Machine.execBarArrive w s
  | .barArrive64 w => Sys2Proof.Machine.execBarArrive64 w s
  | .barWait w => Sys2Proof.Machine.execBarWait w s
  | .barWait64 w => Sys2Proof.Machine.execBarWait64 w s
  | .barSync w => Sys2Proof.Machine.execBarSync w s
  | .barSync64 w => Sys2Proof.Machine.execBarSync64 w s
  | .wait f w => Sys2Proof.Machine.execWait f w s
  | .wait64 f w => Sys2Proof.Machine.execWait64 f w s
  | .cpy w => Sys2Proof.Machine.execCpy w s
  | .cpy64 w => Sys2Proof.Machine.execCpy64 w s
  | .xformTranspose w => Sys2Proof.Machine.execXformTranspose w s
  | .xformTranspose64 w => Sys2Proof.Machine.execXformTranspose64 w s
  | .xformCompress w => Sys2Proof.Machine.execXformCompress w s
  | .xformCompress64 w => Sys2Proof.Machine.execXformCompress64 w s
  | .xformDecompress w => Sys2Proof.Machine.execXformDecompress w s
  | .xformDecompress64 w => Sys2Proof.Machine.execXformDecompress64 w s
  | .xformConvert w => Sys2Proof.Machine.execXformConvert w s
  | .xformConvert64 w => Sys2Proof.Machine.execXformConvert64 w s
  | .xformRepack w => Sys2Proof.Machine.execXformRepack w s
  | .xformRepack64 w => Sys2Proof.Machine.execXformRepack64 w s
  | .xformMigrate w => Sys2Proof.Machine.execXformMigrate w s
  | .xformMigrate64 w => Sys2Proof.Machine.execXformMigrate64 w s
  | .gat w => Sys2Proof.Machine.execGat w s
  | .gat64 w => Sys2Proof.Machine.execGat64 w s
  | .sct w => Sys2Proof.Machine.execSct w s
  | .sct64 w => Sys2Proof.Machine.execSct64 w s
  | .srt w => Sys2Proof.Machine.execSrt w s
  | .srt64 w => Sys2Proof.Machine.execSrt64 w s
  | .coll w => Sys2Proof.Machine.execColl w s
  | .coll64 w => Sys2Proof.Machine.execColl64 w s
  | .qpush w => Sys2Proof.Machine.execQpush w s
  | .qpush64 w => Sys2Proof.Machine.execQpush64 w s
  | .cpyMap w => Sys2Proof.Machine.execCpyMap w s
  | .cpyMap64 w => Sys2Proof.Machine.execCpyMap64 w s
  | .cpyUnmap w => Sys2Proof.Machine.execCpyUnmap w s
  | .cpyUnmap64 w => Sys2Proof.Machine.execCpyUnmap64 w s
  | .semSignal w => Sys2Proof.Machine.execSemSignal w s
  | .semSignal64 w => Sys2Proof.Machine.execSemSignal64 w s
  | .semAwait w => Sys2Proof.Machine.execSemAwait w s
  | .semAwait64 w => Sys2Proof.Machine.execSemAwait64 w s
  | .semRead w => Sys2Proof.Machine.execSemRead w s
  | .semRead64 w => Sys2Proof.Machine.execSemRead64 w s
  | .wopen w => Sys2Proof.Machine.execWopen w s
  | .wopen64 w => Sys2Proof.Machine.execWopen64 w s
  | .wadv w => Sys2Proof.Machine.execWadv w s
  | .wadv64 w => Sys2Proof.Machine.execWadv64 w s
  | .wend w => Sys2Proof.Machine.execWend w s
  | .wend64 w => Sys2Proof.Machine.execWend64 w s
  | .wclose w => Sys2Proof.Machine.execWclose w s
  | .wclose64 w => Sys2Proof.Machine.execWclose64 w s
  | .wld w => Sys2Proof.Machine.execWld w s
  | .wld64 w => Sys2Proof.Machine.execWld64 w s
  | .wldLane w => Sys2Proof.Machine.execWldLane w s
  | .wldLane64 w => Sys2Proof.Machine.execWldLane64 w s
  | .chain w => Sys2Proof.Machine.execChain w s
  | .chain64 w => Sys2Proof.Machine.execChain64 w s
  | .nmq w => Sys2Proof.Machine.execNmq w s
  | .nmq64 w => Sys2Proof.Machine.execNmq64 w s
  | .mzero w => Sys2Proof.Machine.execMzero w s
  | .mzero64 w => Sys2Proof.Machine.execMzero64 w s
  | .mma w => Sys2Proof.Machine.execMma w s
  | .mgat w => Sys2Proof.Machine.execMgat w s
  | .mld w => Sys2Proof.Machine.execMld w s
  | .mld64 w => Sys2Proof.Machine.execMld64 w s
  | .mst w => Sys2Proof.Machine.execMst w s
  | .mst64 w => Sys2Proof.Machine.execMst64 w s
  | .mfree w => Sys2Proof.Machine.execMfree w s
  | .mfree64 w => Sys2Proof.Machine.execMfree64 w s
  | .msc w => Sys2Proof.Machine.execMsc w s
  | .msc64 w => Sys2Proof.Machine.execMsc64 w s
  | .mscinv w => Sys2Proof.Machine.execMscinv w s
  | .mscinv64 w => Sys2Proof.Machine.execMscinv64 w s
  | .msave w => Sys2Proof.Machine.execMsave w s
  | .msave64 w => Sys2Proof.Machine.execMsave64 w s
  | .msaveOwn w => Sys2Proof.Machine.execMsaveOwn w s
  | .msaveOwn64 w => Sys2Proof.Machine.execMsaveOwn64 w s
  | .mrest w => Sys2Proof.Machine.execMrest w s
  | .mrest64 w => Sys2Proof.Machine.execMrest64 w s
  | .rdsys num d => Sys2Proof.Machine.execRdsys num d s
  | .rdsys64 w => Sys2Proof.Machine.execRdsys64 w s
  | .wrsys num a => Sys2Proof.Machine.execWrsys num a s
  | .wrsys64 w => Sys2Proof.Machine.execWrsys64 w s
  | .eret w => Sys2Proof.Machine.execEret w s
  | .eret64 w => Sys2Proof.Machine.execEret64 w s
  | .park w => Sys2Proof.Machine.execPark w s
  | .park64 w => Sys2Proof.Machine.execPark64 w s
  | .resume w => Sys2Proof.Machine.execResume w s
  | .resume64 w => Sys2Proof.Machine.execResume64 w s
  | .kill w => Sys2Proof.Machine.execKill w s
  | .kill64 w => Sys2Proof.Machine.execKill64 w s
  | .tlbinvAll w => Sys2Proof.Machine.execTlbinvAll w s
  | .tlbinvAll64 w => Sys2Proof.Machine.execTlbinvAll64 w s
  | .tlbinvVa w => Sys2Proof.Machine.execTlbinvVa w s
  | .tlbinvVa64 w => Sys2Proof.Machine.execTlbinvVa64 w s
  | .halt w => Sys2Proof.Machine.execHalt w s
  | .halt64 w => Sys2Proof.Machine.execHalt64 w s
  | .extensionEscape x b f => Sys2Proof.Machine.execExtensionEscape x b f s
  | .extensionEscape64 x b f => Sys2Proof.Machine.execExtensionEscape64 x b f s
  | .corniceNop w => Sys2Proof.Machine.execCorniceNop w s
  | .corniceRdrow w => Sys2Proof.Machine.execCorniceRdrow w s
  | .corniceWrrow w => Sys2Proof.Machine.execCorniceWrrow w s
  | .corniceCld w => Sys2Proof.Machine.execCorniceCld w s
  | .corniceCst w => Sys2Proof.Machine.execCorniceCst w s
  | .corniceFadd w => Sys2Proof.Machine.execCorniceFadd w s
  | .corniceFsub w => Sys2Proof.Machine.execCorniceFsub w s
  | .corniceFmul w => Sys2Proof.Machine.execCorniceFmul w s
  | .corniceFma w => Sys2Proof.Machine.execCorniceFma w s
  | .corniceFmax w => Sys2Proof.Machine.execCorniceFmax w s
  | .corniceFmin w => Sys2Proof.Machine.execCorniceFmin w s
  | .corniceFsqrt w => Sys2Proof.Machine.execCorniceFsqrt w s
  | .corniceFrsq w => Sys2Proof.Machine.execCorniceFrsq w s
  | .corniceFrcp w => Sys2Proof.Machine.execCorniceFrcp w s
  | .corniceCvt w => Sys2Proof.Machine.execCorniceCvt w s
  | .corniceFscale w => Sys2Proof.Machine.execCorniceFscale w s
  | .corniceMovi w => Sys2Proof.Machine.execCorniceMovi w s
  | .corniceAddi w => Sys2Proof.Machine.execCorniceAddi w s
  | .corniceIred w => Sys2Proof.Machine.execCorniceIred w s
  | .corniceLoop w => Sys2Proof.Machine.execCorniceLoop w s
  | .corniceBnz w => Sys2Proof.Machine.execCorniceBnz w s
  | .corniceWait w => Sys2Proof.Machine.execCorniceWait w s
  | .corniceSync w => Sys2Proof.Machine.execCorniceSync w s
  | .corniceEnd w => Sys2Proof.Machine.execCorniceEnd w s
  | .powerLoss => Sys2Proof.Machine.execPowerLoss s

end Sys2Proof.Machine
end

