-- ==== Sys2Proof/WellFormed.lean ====
section
/-! DEFINITION. When an instruction is well-formed: its fields are those that some word of the spec's encoding has. -/

namespace Sys2Proof

/-- The instruction's fields pass steps 3 to 5 of R313 in a group stream, or (`h`) in a matrix stream. -/
def Instr.wellFormed (h : Bool) (i : Instr) : Bool := (Machine.illegal h i).isNone

end Sys2Proof
end

