-- ==== Sys2Proof/Decode.lean ====
section
/-! DEFINITION. The words of the instructions: their layouts (R292 to R300, R316), the opcode map (R303 to R311), the
decoder, total on any word (R313), and the encoder. -/

namespace Sys2Proof

open Sys2Proof.Machine

/- Lean's compiler makes code for at most 244 constructors that have fields, and Instr has more; so what builds an
Instr is left to the kernel, which evaluates it. -/
noncomputable section

/-! ## Layouts -/

/-- A 16-bit word (R294): bit [15], VS, VD, OP. -/
structure Raw16 where
  top : BitVec 1
  s : BitVec 5
  d : BitVec 5
  op : BitVec 4
  deriving DecidableEq, Repr

/-- The word of R294's fields. -/
def Raw16.word (r : Raw16) : BitVec 16 := r.top ++ r.s ++ r.d ++ r.op ++ 0#1

/-- R294's fields of a word. -/
def Raw16.ofWord (w : BitVec 16) : Raw16 :=
  { top := w.extractLsb' 15 1, s := w.extractLsb' 10 5, d := w.extractLsb' 5 5, op := w.extractLsb' 1 4 }

/-- A 32-bit word in the standard layout (R296). -/
structure Raw32 where
  f : BitVec 3
  so : BitVec 2
  b : BitVec 6
  a : BitVec 6
  d : BitVec 6
  maj : BitVec 7
  deriving DecidableEq, Repr

/-- The word of R296's fields. -/
def Raw32.word (r : Raw32) : BitVec 32 := r.f ++ r.so ++ r.b ++ r.a ++ r.d ++ r.maj ++ 1#2

/-- R296's fields of a word. -/
def Raw32.ofWord (w : BitVec 32) : Raw32 :=
  { f := w.extractLsb' 29 3, so := w.extractLsb' 27 2, b := w.extractLsb' 21 6, a := w.extractLsb' 15 6
    d := w.extractLsb' 9 6, maj := w.extractLsb' 2 7 }

/-- A 64-bit word (R299), its bits [63:24] whole. -/
structure Raw64 where
  rest : BitVec 40
  fs : BitVec 4
  sh : BitVec 2
  gn : BitVec 1
  gk : BitVec 3
  so : BitVec 2
  f : BitVec 3
  maj : BitVec 7
  deriving DecidableEq, Repr

/-- The word of R299's fields. -/
def Raw64.word (r : Raw64) : BitVec 64 := r.rest ++ r.fs ++ r.sh ++ r.gn ++ r.gk ++ r.so ++ r.f ++ r.maj ++ 3#2

/-- R299's fields of a word. -/
def Raw64.ofWord (w : BitVec 64) : Raw64 :=
  { rest := w.extractLsb' 24 40, fs := w.extractLsb' 20 4, sh := w.extractLsb' 18 2, gn := w.extractLsb' 17 1
    gk := w.extractLsb' 14 3, so := w.extractLsb' 12 2, f := w.extractLsb' 9 3, maj := w.extractLsb' 2 7 }

/-- Bits [63:24] of each SHAPE (R300). -/
def shapeBits (sh : Shape64) : BitVec 40 :=
  match sh with
  | .rrr x fc c fb b fa a d =>
    BitVec.ofBool x ++ BitVec.ofBool fc ++ c ++ BitVec.ofBool fb ++ b ++ BitVec.ofBool fa ++ a ++ d
  | .imm16 q imm fd fa a d => q ++ imm ++ BitVec.ofBool fd ++ BitVec.ofBool fa ++ a ++ d
  | .imm32 imm d => imm ++ d

/-- The SHAPE fields of bits [63:24]; 0b11 is no SHAPE (R299). -/
def shapeOf (sh : BitVec 2) (x : BitVec 40) : Option Shape64 :=
  match sh.toNat with
  | 0 => some (.rrr (bitAt x 39) (bitAt x 38) (x.extractLsb' 29 9) (bitAt x 28) (x.extractLsb' 19 9) (bitAt x 18)
      (x.extractLsb' 9 9) (x.extractLsb' 0 9))
  | 1 => some (.imm16 (x.extractLsb' 36 4) (x.extractLsb' 20 16) (bitAt x 19) (bitAt x 18) (x.extractLsb' 9 9)
      (x.extractLsb' 0 9))
  | 2 => some (.imm32 (x.extractLsb' 8 32) (x.extractLsb' 0 8))
  | _ => none

/-- The operands of a 64-bit word, none where SHAPE is 0b11. -/
def Raw64.operands (r : Raw64) (u : Bool) : Option R64 :=
  match shapeOf r.sh r.rest with
  | none => none
  | some sh => some { u := u, fsc := bitAt r.fs 3, fsb := bitAt r.fs 2, fsa := bitAt r.fs 1, fsd := bitAt r.fs 0
                      gn := bitAt r.gn 0, gk := r.gk, so := r.so, sh := sh }

/-! ## The opcode map -/

/-- The forms of one function of a major: what its 32-bit word is (none where a reserved bit is set), and its 64-bit
word. -/
structure Forms where
  w32 : Option (Raw32 → Option Instr)
  w64 : Option (R64 → Instr)

/-- A function that is not assigned. -/
def unassigned : Forms := { w32 := none, w64 := none }

/-- The operands of a standard 32-bit word (R296). -/
def Raw32.operands (r : Raw32) (u : Bool) : R32 := { u := u, so := r.so, b := r.b, a := r.a, d := r.d }

/-- A standard 32-bit form and a 64-bit form. -/
def both (u : Bool) (k : R32 → Instr) (k64 : R64 → Instr) : Forms :=
  { w32 := some (fun r => some (k (r.operands u))), w64 := some k64 }

/-- A 64-bit form only. -/
def long (k : R64 → Instr) : Forms := { w32 := none, w64 := some k }

/-- The 32-bit memory layout (R298). -/
def Raw32.memory (r : Raw32) : M32 :=
  { p := r.f, g := r.so, f := bitAt r.b 5, o := r.b.setWidth 5, a := r.a, d := r.d }

/-- A memory form of R298 and its 64-bit form. -/
def memory (k : M32 → Instr) (k64 : R64 → Instr) : Forms := { w32 := some (fun r => some (k r.memory)), w64 := some k64 }

/-- Majors 0x60 to 0x63 (R308). -/
def loads (t : BitVec 2) (p : BitVec 3) : Forms := memory (.ld t) (.ld64 p t)

/-- `movi` of a tag (R298, R303). -/
def movis (u : Bool) (t : Tag) : Forms :=
  { w32 := some (fun r => if bitAt r.so 1 then none
      else some (.movi { u := u, t := t, h := bitAt r.so 0, k := r.b ++ r.a, d := r.d }))
    w64 := some (.movi64 t) }

/-- `cvt` to a tag (R305). -/
def cvts (u : Bool) (t : Tag) : Forms := both u (if u then .cvtUniform t else .cvt t) (.cvt64 t)

/-- A 32-bit form whose bits [31:9] are its operand (R298). -/
def branch (k : BitVec 23 → Instr) : Forms :=
  { w32 := some (fun r => some (k (r.f ++ r.so ++ r.b ++ r.a ++ r.d))), w64 := none }

/-- Major 0x00 and its uniform twin 0x10 (R303). -/
def major00 (u : Bool) (f : BitVec 3) : Forms :=
  match f.toNat with
  | 0 => both u .add .add64
  | 1 => both u .sub .sub64
  | 2 => both u .addc .addc64
  | 3 => both u .subc .subc64
  | 4 => both u .adds .adds64
  | 5 => both u .subs .subs64
  | 6 => both u .neg .neg64
  | 7 => both u .abs .abs64
  | _ => unassigned

/-- Major 0x01 and its uniform twin 0x11 (R303). -/
def major01 (u : Bool) (f : BitVec 3) : Forms :=
  match f.toNat with
  | 0 => both u .mul .mul64
  | 1 => both u .mulhS .mulhS64
  | 2 => both u .mad .mad64
  | 3 => both u .idotS .idotS64
  | 4 => both u .rnd .rnd64
  | 5 => both u .mulhU .mulhU64
  | 6 => both u .idotU .idotU64
  | _ => unassigned

/-- Major 0x02 and its uniform twin 0x12 (R303). -/
def major02 (u : Bool) (f : BitVec 3) : Forms :=
  match f.toNat with
  | 0 => both u .min .min64
  | 1 => both u .max .max64
  | 2 => long .sel
  | 3 => both u .mov .mov64
  | 4 => both u .lea .lea64
  | _ => unassigned

/-- Major 0x03 and its uniform twin 0x13 (R303). -/
def major03 (u : Bool) (f : BitVec 3) : Forms :=
  if f.toNat ≤ 5 then both u (.cmp f) (.cmp64 f) else unassigned

/-- Major 0x04 and its uniform twin 0x14 (R303). -/
def major04 (u : Bool) (f : BitVec 3) : Forms :=
  match f.toNat with
  | 0 => both u .and .and64
  | 1 => both u .or .or64
  | 2 => both u .xor .xor64
  | 3 => both u .not .not64
  | 4 => both u .andn .andn64
  | _ => unassigned

/-- Major 0x05 and its uniform twin 0x15 (R303). -/
def major05 (u : Bool) (f : BitVec 3) : Forms :=
  match f.toNat with
  | 0 => both u .shl .shl64
  | 1 => both u .shr .shr64
  | 2 => both u .sar .sar64
  | 3 => both u .rol .rol64
  | _ => unassigned

/-- Major 0x06 and its uniform twin 0x16 (R303). -/
def major06 (u : Bool) (f : BitVec 3) : Forms :=
  match f.toNat with
  | 0 => both u .clz .clz64
  | 1 => both u .ctz .ctz64
  | 2 => both u .popc .popc64
  | 3 => both u .brev .brev64
  | _ => unassigned

/-- Major 0x07 and its uniform twin 0x17 (R303). -/
def major07 (u : Bool) (f : BitVec 3) : Forms :=
  match f.toNat with
  | 0 => both u .bfe .bfe64
  | 1 => both u .bfi .bfi64
  | 2 => both u .perm .perm64
  | _ => unassigned

/-- Major 0x22 (R304). -/
def major22 (f : BitVec 3) : Forms :=
  match f.toNat with
  | 0 => both false .jmpV .jmpV64
  | 1 => both false .jmpS .jmpS64
  | 2 => both false .call .call64
  | 3 => both false .ret .ret64
  | _ => unassigned

/-- Major 0x25 (R304). -/
def major25 (f : BitVec 3) : Forms :=
  match f.toNat with
  | 0 => both false .spawn .spawn64
  | _ => unassigned

/-- Major 0x30 and its uniform twin 0x40 (R305). -/
def major30 (u : Bool) (f : BitVec 3) : Forms :=
  match f.toNat with
  | 0 => both u (if u then .faddUniform else .fadd) .fadd64
  | 1 => both u (if u then .fsubUniform else .fsub) .fsub64
  | 2 => both u (if u then .fmulUniform else .fmul) .fmul64
  | 3 => both u (if u then .fmaUniform else .fma) .fma64
  | 4 => both u (if u then .fnmaUniform else .fnma) .fnma64
  | 5 => both u (if u then .fminUniform else .fmin) .fmin64
  | 6 => both u (if u then .fmaxUniform else .fmax) .fmax64
  | 7 => both u (if u then .fdotUniform else .fdot) .fdot64
  | _ => unassigned

/-- Major 0x31 and its uniform twin 0x41 (R305). -/
def major31 (u : Bool) (f : BitVec 3) : Forms :=
  match f.toNat with
  | 0 => both u (if u then .fabsUniform else .fabs) .fabs64
  | 1 => both u (if u then .fnegUniform else .fneg) .fneg64
  | 2 => both u (if u then .fclassUniform else .fclass) .fclass64
  | 3 => both u (if u then .frndUniform else .frnd) .frnd64
  | 4 => both u (if u then .fscaleUniform else .fscale) .fscale64
  | 5 => both u (if u then .haddUniform else .hadd) .hadd64
  | 6 => both u (if u then .packUniform else .pack) .pack64
  | 7 => both u (if u then .swzUniform else .swz) .swz64
  | _ => unassigned

/-- Major 0x32 and its uniform twin 0x42 (R305). -/
def major32 (u : Bool) (f : BitVec 3) : Forms :=
  both u (if u then .fcmpUniform f else .fcmp f) (.fcmp64 f)

/-- Major 0x33 and its uniform twin 0x43 (R305). -/
def major33 (u : Bool) (f : BitVec 3) : Forms :=
  both u (if u then .specialFunctionUniform f else .specialFunction f) (.specialFunction64 f)

/-- Major 0x50 (R306). -/
def major50 (f : BitVec 3) : Forms :=
  match f.toNat with
  | 0 => both false (.shfl f) (.shfl64 f)
  | 1 => both false (.shfl f) (.shfl64 f)
  | 2 => both false (.shfl f) (.shfl64 f)
  | 3 => both false (.shfl f) (.shfl64 f)
  | 4 => both false .qswap .qswap64
  | 5 => both false .qddx .qddx64
  | 6 => both false .qddy .qddy64
  | _ => unassigned

/-- Major 0x51 (R306). -/
def major51 (f : BitVec 3) : Forms :=
  match f.toNat with
  | 0 => both false .voteAny .voteAny64
  | 1 => both false .voteAll .voteAll64
  | 2 => both false .voteEq .voteEq64
  | 3 => both false .ballot .ballot64
  | 4 => both false .amask .amask64
  | 5 => both false .tos .tos64
  | _ => unassigned

/-- Major 0x52 (R306). -/
def major52 (f : BitVec 3) : Forms :=
  if f.toNat ≤ 5 then both false (.lred f) (.lred64 f) else unassigned

/-- Major 0x53 (R306). -/
def major53 (f : BitVec 3) : Forms :=
  if f.toNat ≤ 5 then both false (.lscan f) (.lscan64 f) else unassigned

/-- Major 0x54 (R306). -/
def major54 (f : BitVec 3) : Forms :=
  if f.toNat ≤ 2 then both false (.lredFloat f) (.lredFloat64 f) else unassigned

/-- Major 0x55 (R306). -/
def major55 (f : BitVec 3) : Forms :=
  if f.toNat ≤ 2 then both false (.lscanFloat f) (.lscanFloat64 f) else unassigned

/-- Major 0x58 (R307). -/
def major58 (f : BitVec 3) : Forms :=
  match f.toNat with
  | 0 => both false .gkey .gkey64
  | 1 => both false .galpha .galpha64
  | 2 => both false .gover .gover64
  | 3 => both false .gterm .gterm64
  | _ => unassigned

/-- Major 0x59 (R307). -/
def major59 (f : BitVec 3) : Forms :=
  if f.toNat ≤ 3 then both false (.smp f) (.smp64 f) else unassigned

/-- Major 0x70 (R309). -/
def major70 (f : BitVec 3) : Forms :=
  match f.toNat with
  | 0 => both false .barInit .barInit64
  | 1 => both false .barArrive .barArrive64
  | 2 => both false .barWait .barWait64
  | 3 => both false .barSync .barSync64
  | _ => unassigned

/-- Major 0x71 (R309). -/
def major71 (f : BitVec 3) : Forms :=
  if f.toNat ≤ 5 then both false (.wait f) (.wait64 f) else unassigned

/-- Major 0x72 (R309). -/
def major72 (f : BitVec 3) : Forms :=
  match f.toNat with
  | 0 => both false .cpy .cpy64
  | 1 => both false .xformTranspose .xformTranspose64
  | 2 => both false .xformCompress .xformCompress64
  | 3 => both false .xformDecompress .xformDecompress64
  | 4 => both false .xformConvert .xformConvert64
  | 5 => both false .xformRepack .xformRepack64
  | 6 => both false .xformMigrate .xformMigrate64
  | _ => unassigned

/-- Major 0x73 (R309). -/
def major73 (f : BitVec 3) : Forms :=
  match f.toNat with
  | 0 => both false .gat .gat64
  | 1 => both false .sct .sct64
  | 2 => both false .srt .srt64
  | 3 => both false .coll .coll64
  | 4 => both false .qpush .qpush64
  | 5 => both false .cpyMap .cpyMap64
  | 6 => both false .cpyUnmap .cpyUnmap64
  | _ => unassigned

/-- Major 0x74 (R309). -/
def major74 (f : BitVec 3) : Forms :=
  match f.toNat with
  | 0 => both false .semSignal .semSignal64
  | 1 => both false .semAwait .semAwait64
  | 2 => both false .semRead .semRead64
  | _ => unassigned

/-- Major 0x75 (R309). -/
def major75 (f : BitVec 3) : Forms :=
  match f.toNat with
  | 0 => both false .wopen .wopen64
  | 1 => both false .wadv .wadv64
  | 2 => both false .wend .wend64
  | 3 => both false .wclose .wclose64
  | 4 => both false .wld .wld64
  | 5 => both false .wldLane .wldLane64
  | _ => unassigned

/-- Major 0x76 (R309). -/
def major76 (f : BitVec 3) : Forms :=
  match f.toNat with
  | 0 => both false .chain .chain64
  | _ => unassigned

/-- Major 0x77 (R309). -/
def major77 (f : BitVec 3) : Forms :=
  match f.toNat with
  | 0 => both false .nmq .nmq64
  | _ => unassigned

/-- Major 0x78 (R310). -/
def major78 (f : BitVec 3) : Forms :=
  match f.toNat with
  | 0 => both false .mzero .mzero64
  | 1 => long .mma
  | 2 => long .mgat
  | 3 => both false .mld .mld64
  | 4 => both false .mst .mst64
  | 5 => both false .mfree .mfree64
  | _ => unassigned

/-- `nap` and `trap`: the 12-bit count of R298 and the 64-bit form. -/
def counted (k : BitVec 12 → Instr) (k64 : R64 → Instr) : Forms :=
  { w32 := some (fun r => if r.so != 0 || r.d != 0 then none else some (k (r.b ++ r.a))), w64 := some k64 }

/-- Major 0x24 (R304). -/
def major24 (f : BitVec 3) : Forms :=
  match f.toNat with
  | 0 => both false .exit .exit64
  | 1 => both false .yield .yield64
  | 2 => counted .nap .nap64
  | 3 => counted .trap .trap64
  | _ => unassigned

/-- `pub`, `pull` and `phase`: the scope of R298 and the 64-bit form. -/
def withScope (k : BitVec 3 → Instr) (k64 : R64 → Instr) : Forms :=
  { w32 := some (fun r => if r.so != 0 || r.b != 0 || r.a != 0 || decide (7 < r.d.toNat) then none else some (k (r.d.setWidth 3)))
    w64 := some k64 }

/-- Major 0x6C (R308); `pref` has no space code of its own, and addresses the generic space. -/
def major6C (f : BitVec 3) : Forms :=
  match f.toNat with
  | 0 => withScope .pub .pub64
  | 1 => withScope .pull .pull64
  | 2 => withScope .phase .phase64
  | 3 => memory (fun m => .pref { m with p := 5 }) .pref64
  | _ => unassigned

/-- Major 0x79 (R310): SO 1 makes `msave` `msave.own` (R411). -/
def major79 (f : BitVec 3) : Forms :=
  match f.toNat with
  | 0 => both false .msc .msc64
  | 1 => both false .mscinv .mscinv64
  | 2 => both false (fun w => if w.so == 1 then .msaveOwn w else .msave w) (fun w => if w.so == 1 then .msaveOwn64 w else .msave64 w)
  | 3 => both false .mrest .mrest64
  | _ => unassigned

/-- Major 0x7C (R311): the system-register number stands in B (R298). -/
def major7C (f : BitVec 3) : Forms :=
  match f.toNat with
  | 0 => { w32 := some (fun r => if r.so != 0 || r.a != 0 then none else some (.rdsys r.b r.d)), w64 := some .rdsys64 }
  | 1 => { w32 := some (fun r => if r.so != 0 || r.d != 0 then none else some (.wrsys r.b r.a)), w64 := some .wrsys64 }
  | _ => unassigned

/-- Major 0x7D (R311): bit 0 of SO makes `tlbinv` name an address. -/
def major7D (f : BitVec 3) : Forms :=
  match f.toNat with
  | 0 => both false .eret .eret64
  | 1 => both false .park .park64
  | 2 => both false .resume .resume64
  | 3 => both false .kill .kill64
  | 4 => both false (fun w => if bitAt w.so 0 then .tlbinvVa w else .tlbinvAll w)
      (fun w => if bitAt w.so 0 then .tlbinvVa64 w else .tlbinvAll64 w)
  | 5 => both false .halt .halt64
  | _ => unassigned

/-- Whether a major is uniform (R303, R305). -/
def uniformMajor (maj : BitVec 7) : Bool :=
  decide (0x10 ≤ maj.toNat ∧ maj.toNat ≤ 0x19) || decide (0x40 ≤ maj.toNat ∧ maj.toNat ≤ 0x45)

/-- The opcode map (R303 to R311). -/
def forms (maj : BitVec 7) (f : BitVec 3) : Forms :=
  match maj.toNat with
  | 0x00 => major00 false f
  | 0x01 => major01 false f
  | 0x02 => major02 false f
  | 0x03 => major03 false f
  | 0x04 => major04 false f
  | 0x05 => major05 false f
  | 0x06 => major06 false f
  | 0x07 => major07 false f
  | 0x08 => movis false (0#1 ++ f)
  | 0x09 => movis false (1#1 ++ f)
  | 0x22 => major22 f
  | 0x24 => major24 f
  | 0x25 => major25 f
  | 0x30 => major30 false f
  | 0x31 => major31 false f
  | 0x32 => major32 false f
  | 0x33 => major33 false f
  | 0x34 => cvts false (0#1 ++ f)
  | 0x35 => cvts false (1#1 ++ f)
  | 0x50 => major50 f
  | 0x51 => major51 f
  | 0x52 => major52 f
  | 0x53 => major53 f
  | 0x54 => major54 f
  | 0x55 => major55 f
  | 0x58 => major58 f
  | 0x59 => major59 f
  | 0x60 => loads 0 f
  | 0x61 => loads 1 f
  | 0x62 => loads 2 f
  | 0x63 => loads 3 f
  | 0x64 => memory .st (.st64 f)
  | 0x65 => memory .ldsU (.ldsU64 f)
  | 0x66 => memory .ldsS (.ldsS64 f)
  | 0x67 => memory .sts (.sts64 f)
  | 0x68 => long (.ldm f)
  | 0x69 => long (.stm f)
  | 0x6A => long (.atom f)
  | 0x6B => if f.toNat ≤ 5 then long (.red f) else unassigned
  | 0x6C => major6C f
  | 0x70 => major70 f
  | 0x71 => major71 f
  | 0x72 => major72 f
  | 0x73 => major73 f
  | 0x74 => major74 f
  | 0x75 => major75 f
  | 0x76 => major76 f
  | 0x77 => major77 f
  | 0x78 => major78 f
  | 0x79 => major79 f
  | 0x7C => major7C f
  | 0x7D => major7D f
  | 0x10 => major00 true f
  | 0x11 => major01 true f
  | 0x12 => major02 true f
  | 0x13 => major03 true f
  | 0x14 => major04 true f
  | 0x15 => major05 true f
  | 0x16 => major06 true f
  | 0x17 => major07 true f
  | 0x18 => movis true (0#1 ++ f)
  | 0x19 => movis true (1#1 ++ f)
  | 0x40 => major30 true f
  | 0x41 => major31 true f
  | 0x42 => major32 true f
  | 0x43 => major33 true f
  | 0x44 => cvts true (0#1 ++ f)
  | 0x45 => cvts true (1#1 ++ f)
  | 0x20 => branch (fun x => .bra x)
  | 0x21 => branch (fun x => .bc (x.extractLsb' 4 19) (bitAt x 3) (x.setWidth 3))
  | 0x23 => branch (fun x => .callRel (x.extractLsb' 6 17) (x.setWidth 6))
  | _ => unassigned

/-- What a stream accepts (R312): `h` is true in a matrix stream. -/
def accepts (h : Bool) (maj : BitVec 7) (f : BitVec 3) : Bool :=
  let m := maj.toNat
  let matrixOnly := m == 0x78 || (m == 0x79 && decide (f.toNat < 2))
  if h then
    matrixOnly || decide (0x10 ≤ m ∧ m ≤ 0x19) || m == 0x20 || m == 0x21 || m == 0x70 || m == 0x71 || (m == 0x24 && f == 0)
  else !matrixOnly

/-! ## Decoding -/

/-- What a word is: an instruction of a length in bytes, or a refused word, whose trap is ILLEGAL with this REASON. -/
inductive Decoded where
  | instr (i : Instr) (len : Nat)
  | illegal (reason : Nat) (len : Nat)
  deriving DecidableEq, Repr

/-- An instruction whose fields pass R313's steps 3 to 5, or its REASON. -/
def settle (h : Bool) (i : Instr) (len : Nat) : Decoded :=
  match illegal h i with
  | none => .instr i len
  | some r => .illegal r len

/-- The 16-bit operations (R295). -/
def op16 (op : BitVec 4) : Option (R16 → Instr) :=
  match op.toNat with
  | 0 => some .mov16
  | 1 => some .add16
  | 2 => some .sub16
  | 3 => some .and16
  | 4 => some .or16
  | 5 => some .xor16
  | 6 => some .shl16
  | 7 => some .shr16
  | 8 => some .sar16
  | 9 => some .min16
  | 10 => some .max16
  | 11 => some .fadd16
  | 12 => some .fsub16
  | 13 => some .fmul16
  | 14 => some .fmin16
  | 15 => some .fmax16
  | _ => none

/-- A 16-bit word (R294, R295). -/
def decode16 (h : Bool) (w : BitVec 16) : Decoded :=
  let r := Raw16.ofWord w
  match op16 r.op with
  | none => .illegal 0 2
  | some k =>
    match settle h (k { s := r.s, d := r.d }) 2 with
    | .illegal n len => .illegal (if n == 0 && !h && r.top != 0 then 1 else n) len
    | .instr i len => if r.top != 0 then .illegal 1 2 else .instr i len

/-- A 32-bit word (R296 to R298, R313, R314). -/
def decode32 (h : Bool) (w : BitVec 32) : Decoded :=
  let r := Raw32.ofWord w
  if r.maj == 0x7F then
    if h then .illegal 0 4 else .instr (.extensionEscape (w.extractLsb' 17 15) (w.extractLsb' 11 6) (w.extractLsb' 9 2)) 4
  else if !accepts h r.maj r.f then .illegal 0 4
  else match (forms r.maj r.f).w32 with
    | none => .illegal 0 4
    | some k =>
      match k r with
      | none => .illegal 1 4
      | some i => settle h i 4

/-- A 64-bit word (R299 to R302, R313, R314). -/
def decode64 (h : Bool) (w : BitVec 64) : Decoded :=
  let r := Raw64.ofWord w
  if r.maj == 0x7F then
    if h then .illegal 0 8 else .instr (.extensionEscape64 (w.extractLsb' 17 47) (w.extractLsb' 11 6) (w.extractLsb' 9 2)) 8
  else if !accepts h r.maj r.f then .illegal 0 8
  else match (forms r.maj r.f).w64 with
    | none => .illegal 0 8
    | some k =>
      match r.operands (uniformMajor r.maj) with
      | none => .illegal 1 8
      | some o => settle h (k o) 8

/-- The instruction at the start of 64 bits of a stream, lowest parcel first (R292). Bits above its length count for
nothing. -/
def decode (h : Bool) (w : BitVec 64) : Decoded :=
  match lengthOf (w.setWidth 16) with
  | 2 => decode16 h (w.setWidth 16)
  | 4 => decode32 h (w.setWidth 32)
  | _ => decode64 h w

/-- The operation of a Cornice word (R316). -/
def corniceOp (opc : BitVec 5) : Option (CW → Instr) :=
  match opc.toNat with
  | 0x00 => some .corniceNop
  | 0x01 => some .corniceRdrow
  | 0x02 => some .corniceWrrow
  | 0x03 => some .corniceCld
  | 0x04 => some .corniceCst
  | 0x05 => some .corniceFadd
  | 0x06 => some .corniceFsub
  | 0x07 => some .corniceFmul
  | 0x08 => some .corniceFma
  | 0x09 => some .corniceFmax
  | 0x0A => some .corniceFmin
  | 0x0B => some .corniceFsqrt
  | 0x0C => some .corniceFrsq
  | 0x0D => some .corniceFrcp
  | 0x0E => some .corniceCvt
  | 0x0F => some .corniceFscale
  | 0x10 => some .corniceMovi
  | 0x11 => some .corniceAddi
  | 0x12 => some .corniceIred
  | 0x13 => some .corniceLoop
  | 0x14 => some .corniceBnz
  | 0x15 => some .corniceWait
  | 0x16 => some .corniceSync
  | 0x17 => some .corniceEnd
  | _ => none

/-- The fields of a Cornice word (R316). -/
def corniceFields (w : BitVec 32) : CW :=
  { d := w.extractLsb' 23 4, a := w.extractLsb' 19 4, b := w.extractLsb' 15 4, c := w.extractLsb' 11 4
    cls := w.extractLsb' 9 2, imm := w.extractLsb' 0 9 }

/-- A Cornice word, none where it fails (R317). -/
def decodeCornice (w : BitVec 32) : Option Instr :=
  match corniceOp (w.extractLsb' 27 5) with
  | none => none
  | some k => if illegal false (k (corniceFields w)) == none then some (k (corniceFields w)) else none

/-! ## Encoding -/

/-- The word of an instruction. -/
inductive Coded where
  | w16 (w : BitVec 16)
  | w32 (w : BitVec 32)
  | w64 (w : BitVec 64)
  | near (w : BitVec 32)
  deriving DecidableEq, Repr

/-- A major, or its uniform twin. -/
def twin (maj : BitVec 7) (u : Bool) : BitVec 7 := if u then maj + 0x10 else maj

/-- The major of a tag: bit 3 of the tag is bit 0 of the major (R303, R305). -/
def tagMajor (maj : BitVec 7) (t : Tag) : BitVec 7 := maj + (t.extractLsb' 3 1).setWidth 7

/-- A 16-bit word (R294). -/
def r16 (op : BitVec 4) (w : R16) : Option Coded := some (.w16 (Raw16.word ⟨0, w.s, w.d, op⟩))

/-- A standard 32-bit word (R296). -/
def r32 (maj : BitVec 7) (f : BitVec 3) (w : R32) : Option Coded := some (.w32 (Raw32.word ⟨f, w.so, w.b, w.a, w.d, twin maj w.u⟩))

/-- A 64-bit word (R299, R300). -/
def r64 (maj : BitVec 7) (f : BitVec 3) (w : R64) : Option Coded :=
  some (.w64 (Raw64.word
    { rest := shapeBits w.sh
      fs := BitVec.ofBool w.fsc ++ BitVec.ofBool w.fsb ++ BitVec.ofBool w.fsa ++ BitVec.ofBool w.fsd
      sh := BitVec.ofNat 2 (shapeCode w.sh), gn := BitVec.ofBool w.gn, gk := w.gk, so := w.so, f := f
      maj := twin maj w.u }))

/-- A memory word (R298). -/
def mem32 (maj : BitVec 7) (m : M32) : Option Coded :=
  some (.w32 (Raw32.word ⟨m.p, m.g, BitVec.ofBool m.f ++ m.o, m.a, m.d, maj⟩))

/-- A `movi` word (R298). -/
def movi32 (m : Movi32) : Option Coded :=
  some (.w32 (Raw32.word
    { f := m.t.setWidth 3, so := 0#1 ++ BitVec.ofBool m.h, b := m.k.extractLsb' 6 6, a := m.k.extractLsb' 0 6, d := m.d
      maj := tagMajor (twin 0x08 m.u) m.t }))

/-- A word whose bits [31:9] are its operand (R298). -/
def wide32 (maj : BitVec 7) (x : BitVec 23) : Option Coded := some (.w32 (x ++ maj ++ 1#2))

/-- A word with the 12-bit count of R298. -/
def count32 (f : BitVec 3) (n : BitVec 12) : Option Coded :=
  some (.w32 (Raw32.word ⟨f, 0, n.extractLsb' 6 6, n.extractLsb' 0 6, 0, 0x24⟩))

/-- A word with a scope (R298). -/
def scope32 (f : BitVec 3) (c : BitVec 3) : Option Coded := some (.w32 (Raw32.word ⟨f, 0, 0, 0, c.setWidth 6, 0x6C⟩))

/-- A Cornice word (R316). -/
def near (opc : BitVec 5) (w : CW) : Option Coded := some (.near (opc ++ w.d ++ w.a ++ w.b ++ w.c ++ w.cls ++ w.imm))

/-- The word of an instruction, from the layouts and the opcode map; an event has none. -/
def encode (i : Instr) : Option Coded :=
  match i with
  | .powerOn => none
  | .fundamentalReset => none
  | .thermalTrip => none
  | .startStepComplete _ => none
  | .startTimeout => none
  | .powerOverLimit _ _ _ => none
  | .temperatureOverLimit _ _ => none
  | .analoguePowerClamp _ => none
  | .pcieConfigRequest => none
  | .bar0RegisterWrite _ _ _ => none
  | .bar2HostRead _ _ => none
  | .bar2HostWrite _ _ => none
  | .hostFetchadd _ _ => none
  | .hostLock _ => none
  | .linkEmit _ => none
  | .pwrLimit _ => none
  | .ctxCreate _ => none
  | .ctxDestroy _ => none
  | .bootReqWarm => none
  | .bootReqCold => none
  | .firmwareUpdate _ => none
  | .firmwareUpdateComplete _ => none
  | .attestationRequest _ => none
  | .attestationComplete => none
  | .preReqHold _ => none
  | .preReqRelease _ => none
  | .hostSemaphoreAdd _ _ => none
  | .errorInject _ => none
  | .fabPortEnable _ _ => none
  | .fabPortDisable _ _ => none
  | .fabPortRetrain _ _ => none
  | .fabRouteWrite _ _ => none
  | .portTrainingComplete _ _ _ => none
  | .laneTrainTimeout _ _ => none
  | .flitReceive _ _ => none
  | .replayRequest _ _ => none
  | .laneReplayLimit _ _ => none
  | .opticalEngineFailure _ => none
  | .fabricInboundRequest _ _ => none
  | .fabricResponse _ _ _ => none
  | .routeChangeApply _ => none
  | .portDrainComplete _ => none
  | .queueWake _ _ => none
  | .queueDescriptorRun _ _ => none
  | .packetDequeue _ _ => none
  | .nodeCapture _ _ => none
  | .packetStart _ => none
  | .launch _ => none
  | .copyPlain _ => none
  | .copyTranspose _ => none
  | .copyCompress _ => none
  | .copyDecompress _ => none
  | .copyConvert _ => none
  | .copyRepack _ => none
  | .copyMigrate _ => none
  | .copyChain _ => none
  | .sort _ => none
  | .collAllReduce _ => none
  | .collReduceScatter _ => none
  | .collAllGather _ => none
  | .collBroadcast _ => none
  | .collOrderedComposite _ => none
  | .nearLoadprog _ => none
  | .nearRun _ => none
  | .nearIreduce _ => none
  | .signal _ => none
  | .await _ => none
  | .nop _ => none
  | .commandComplete _ => none
  | .corniceTransferComplete _ _ => none
  | .corniceStepLimit _ => none
  | .workgroupPlace _ => none
  | .workgroupRestore _ => none
  | .operatingPointStable _ => none
  | .hangLimit _ _ => none
  | .helmHangLimit _ => none
  | .backwardBranchYield _ _ => none
  | .napExpire _ _ => none
  | .spawnBinCountdown _ _ => none
  | .spawnGroupStart _ _ => none
  | .ticketRelease _ => none
  | .longLatencyFill _ => none
  | .asyncOperationComplete _ => none
  | .mapFillComplete _ _ => none
  | .mapWriteback _ _ => none
  | .translationFenceComplete _ => none
  | .l2Writeback _ _ => none
  | .repackService _ => none
  | .hotnessSample _ _ => none
  | .matrixAccept _ => none
  | .matrixStart _ => none
  | .matrixToken _ => none
  | .matrixTokenTimeout _ => none
  | .helmTrapDelivery _ => none
  | .faultRecordPost _ => none
  | .qpushSlotWrite _ => none
  | .add w => r32 0x00 0 w
  | .add16 w => r16 1 w
  | .add64 w => r64 0x00 0 w
  | .sub w => r32 0x00 1 w
  | .sub16 w => r16 2 w
  | .sub64 w => r64 0x00 1 w
  | .addc w => r32 0x00 2 w
  | .addc64 w => r64 0x00 2 w
  | .subc w => r32 0x00 3 w
  | .subc64 w => r64 0x00 3 w
  | .adds w => r32 0x00 4 w
  | .adds64 w => r64 0x00 4 w
  | .subs w => r32 0x00 5 w
  | .subs64 w => r64 0x00 5 w
  | .neg w => r32 0x00 6 w
  | .neg64 w => r64 0x00 6 w
  | .abs w => r32 0x00 7 w
  | .abs64 w => r64 0x00 7 w
  | .mul w => r32 0x01 0 w
  | .mul64 w => r64 0x01 0 w
  | .mulhS w => r32 0x01 1 w
  | .mulhS64 w => r64 0x01 1 w
  | .mad w => r32 0x01 2 w
  | .mad64 w => r64 0x01 2 w
  | .idotS w => r32 0x01 3 w
  | .idotS64 w => r64 0x01 3 w
  | .rnd w => r32 0x01 4 w
  | .rnd64 w => r64 0x01 4 w
  | .mulhU w => r32 0x01 5 w
  | .mulhU64 w => r64 0x01 5 w
  | .idotU w => r32 0x01 6 w
  | .idotU64 w => r64 0x01 6 w
  | .min w => r32 0x02 0 w
  | .min16 w => r16 9 w
  | .min64 w => r64 0x02 0 w
  | .max w => r32 0x02 1 w
  | .max16 w => r16 10 w
  | .max64 w => r64 0x02 1 w
  | .sel w => r64 0x02 2 w
  | .mov w => r32 0x02 3 w
  | .mov16 w => r16 0 w
  | .mov64 w => r64 0x02 3 w
  | .lea w => r32 0x02 4 w
  | .lea64 w => r64 0x02 4 w
  | .cmp f w => r32 0x03 f w
  | .cmp64 f w => r64 0x03 f w
  | .and w => r32 0x04 0 w
  | .and16 w => r16 3 w
  | .and64 w => r64 0x04 0 w
  | .or w => r32 0x04 1 w
  | .or16 w => r16 4 w
  | .or64 w => r64 0x04 1 w
  | .xor w => r32 0x04 2 w
  | .xor16 w => r16 5 w
  | .xor64 w => r64 0x04 2 w
  | .not w => r32 0x04 3 w
  | .not64 w => r64 0x04 3 w
  | .andn w => r32 0x04 4 w
  | .andn64 w => r64 0x04 4 w
  | .shl w => r32 0x05 0 w
  | .shl16 w => r16 6 w
  | .shl64 w => r64 0x05 0 w
  | .shr w => r32 0x05 1 w
  | .shr16 w => r16 7 w
  | .shr64 w => r64 0x05 1 w
  | .sar w => r32 0x05 2 w
  | .sar16 w => r16 8 w
  | .sar64 w => r64 0x05 2 w
  | .rol w => r32 0x05 3 w
  | .rol64 w => r64 0x05 3 w
  | .clz w => r32 0x06 0 w
  | .clz64 w => r64 0x06 0 w
  | .ctz w => r32 0x06 1 w
  | .ctz64 w => r64 0x06 1 w
  | .popc w => r32 0x06 2 w
  | .popc64 w => r64 0x06 2 w
  | .brev w => r32 0x06 3 w
  | .brev64 w => r64 0x06 3 w
  | .bfe w => r32 0x07 0 w
  | .bfe64 w => r64 0x07 0 w
  | .bfi w => r32 0x07 1 w
  | .bfi64 w => r64 0x07 1 w
  | .perm w => r32 0x07 2 w
  | .perm64 w => r64 0x07 2 w
  | .movi m => movi32 m
  | .movi64 t w => r64 (tagMajor 0x08 t) (t.setWidth 3) w
  | .bra o => wide32 0x20 o
  | .bc o n k => wide32 0x21 (o ++ BitVec.ofBool n ++ k)
  | .jmpV w => r32 0x22 0 w
  | .jmpV64 w => r64 0x22 0 w
  | .jmpS w => r32 0x22 1 w
  | .jmpS64 w => r64 0x22 1 w
  | .call w => r32 0x22 2 w
  | .call64 w => r64 0x22 2 w
  | .ret w => r32 0x22 3 w
  | .ret64 w => r64 0x22 3 w
  | .callRel o d => wide32 0x23 (o ++ d)
  | .exit w => r32 0x24 0 w
  | .exit64 w => r64 0x24 0 w
  | .yield w => r32 0x24 1 w
  | .yield64 w => r64 0x24 1 w
  | .nap n => count32 2 n
  | .nap64 w => r64 0x24 2 w
  | .trap n => count32 3 n
  | .trap64 w => r64 0x24 3 w
  | .spawn w => r32 0x25 0 w
  | .spawn64 w => r64 0x25 0 w
  | .fadd w => r32 0x30 0 w
  | .faddUniform w => r32 0x30 0 w
  | .fadd16 w => r16 11 w
  | .fadd64 w => r64 0x30 0 w
  | .fsub w => r32 0x30 1 w
  | .fsubUniform w => r32 0x30 1 w
  | .fsub16 w => r16 12 w
  | .fsub64 w => r64 0x30 1 w
  | .fmul w => r32 0x30 2 w
  | .fmulUniform w => r32 0x30 2 w
  | .fmul16 w => r16 13 w
  | .fmul64 w => r64 0x30 2 w
  | .fma w => r32 0x30 3 w
  | .fmaUniform w => r32 0x30 3 w
  | .fma64 w => r64 0x30 3 w
  | .fnma w => r32 0x30 4 w
  | .fnmaUniform w => r32 0x30 4 w
  | .fnma64 w => r64 0x30 4 w
  | .fmin w => r32 0x30 5 w
  | .fminUniform w => r32 0x30 5 w
  | .fmin16 w => r16 14 w
  | .fmin64 w => r64 0x30 5 w
  | .fmax w => r32 0x30 6 w
  | .fmaxUniform w => r32 0x30 6 w
  | .fmax16 w => r16 15 w
  | .fmax64 w => r64 0x30 6 w
  | .fdot w => r32 0x30 7 w
  | .fdotUniform w => r32 0x30 7 w
  | .fdot64 w => r64 0x30 7 w
  | .fabs w => r32 0x31 0 w
  | .fabsUniform w => r32 0x31 0 w
  | .fabs64 w => r64 0x31 0 w
  | .fneg w => r32 0x31 1 w
  | .fnegUniform w => r32 0x31 1 w
  | .fneg64 w => r64 0x31 1 w
  | .fclass w => r32 0x31 2 w
  | .fclassUniform w => r32 0x31 2 w
  | .fclass64 w => r64 0x31 2 w
  | .frnd w => r32 0x31 3 w
  | .frndUniform w => r32 0x31 3 w
  | .frnd64 w => r64 0x31 3 w
  | .fscale w => r32 0x31 4 w
  | .fscaleUniform w => r32 0x31 4 w
  | .fscale64 w => r64 0x31 4 w
  | .hadd w => r32 0x31 5 w
  | .haddUniform w => r32 0x31 5 w
  | .hadd64 w => r64 0x31 5 w
  | .pack w => r32 0x31 6 w
  | .packUniform w => r32 0x31 6 w
  | .pack64 w => r64 0x31 6 w
  | .swz w => r32 0x31 7 w
  | .swzUniform w => r32 0x31 7 w
  | .swz64 w => r64 0x31 7 w
  | .fcmp f w => r32 0x32 f w
  | .fcmpUniform f w => r32 0x32 f w
  | .fcmp64 f w => r64 0x32 f w
  | .specialFunction f w => r32 0x33 f w
  | .specialFunctionUniform f w => r32 0x33 f w
  | .specialFunction64 f w => r64 0x33 f w
  | .cvt t w => r32 (tagMajor 0x34 t) (t.setWidth 3) w
  | .cvtUniform t w => r32 (tagMajor 0x34 t) (t.setWidth 3) w
  | .cvt64 t w => r64 (tagMajor 0x34 t) (t.setWidth 3) w
  | .shfl f w => r32 0x50 f w
  | .shfl64 f w => r64 0x50 f w
  | .qswap w => r32 0x50 4 w
  | .qswap64 w => r64 0x50 4 w
  | .qddx w => r32 0x50 5 w
  | .qddx64 w => r64 0x50 5 w
  | .qddy w => r32 0x50 6 w
  | .qddy64 w => r64 0x50 6 w
  | .voteAny w => r32 0x51 0 w
  | .voteAny64 w => r64 0x51 0 w
  | .voteAll w => r32 0x51 1 w
  | .voteAll64 w => r64 0x51 1 w
  | .voteEq w => r32 0x51 2 w
  | .voteEq64 w => r64 0x51 2 w
  | .ballot w => r32 0x51 3 w
  | .ballot64 w => r64 0x51 3 w
  | .amask w => r32 0x51 4 w
  | .amask64 w => r64 0x51 4 w
  | .tos w => r32 0x51 5 w
  | .tos64 w => r64 0x51 5 w
  | .lred f w => r32 0x52 f w
  | .lred64 f w => r64 0x52 f w
  | .lscan f w => r32 0x53 f w
  | .lscan64 f w => r64 0x53 f w
  | .lredFloat f w => r32 0x54 f w
  | .lredFloat64 f w => r64 0x54 f w
  | .lscanFloat f w => r32 0x55 f w
  | .lscanFloat64 f w => r64 0x55 f w
  | .gkey w => r32 0x58 0 w
  | .gkey64 w => r64 0x58 0 w
  | .galpha w => r32 0x58 1 w
  | .galpha64 w => r64 0x58 1 w
  | .gover w => r32 0x58 2 w
  | .gover64 w => r64 0x58 2 w
  | .gterm w => r32 0x58 3 w
  | .gterm64 w => r64 0x58 3 w
  | .smp f w => r32 0x59 f w
  | .smp64 f w => r64 0x59 f w
  | .ld t m => mem32 (0x60 + t.setWidth 7) m
  | .ld64 p t w => r64 (0x60 + t.setWidth 7) p w
  | .st m => mem32 0x64 m
  | .st64 p w => r64 0x64 p w
  | .ldsU m => mem32 0x65 m
  | .ldsU64 p w => r64 0x65 p w
  | .ldsS m => mem32 0x66 m
  | .ldsS64 p w => r64 0x66 p w
  | .sts m => mem32 0x67 m
  | .sts64 p w => r64 0x67 p w
  | .ldm p w => r64 0x68 p w
  | .stm p w => r64 0x69 p w
  | .atom f w => r64 0x6A f w
  | .red f w => r64 0x6B f w
  | .pub c => scope32 0 c
  | .pub64 w => r64 0x6C 0 w
  | .pull c => scope32 1 c
  | .pull64 w => r64 0x6C 1 w
  | .phase c => scope32 2 c
  | .phase64 w => r64 0x6C 2 w
  | .pref m => mem32 0x6C { m with p := 3 }
  | .pref64 w => r64 0x6C 3 w
  | .barInit w => r32 0x70 0 w
  | .barInit64 w => r64 0x70 0 w
  | .barArrive w => r32 0x70 1 w
  | .barArrive64 w => r64 0x70 1 w
  | .barWait w => r32 0x70 2 w
  | .barWait64 w => r64 0x70 2 w
  | .barSync w => r32 0x70 3 w
  | .barSync64 w => r64 0x70 3 w
  | .wait f w => r32 0x71 f w
  | .wait64 f w => r64 0x71 f w
  | .cpy w => r32 0x72 0 w
  | .cpy64 w => r64 0x72 0 w
  | .xformTranspose w => r32 0x72 1 w
  | .xformTranspose64 w => r64 0x72 1 w
  | .xformCompress w => r32 0x72 2 w
  | .xformCompress64 w => r64 0x72 2 w
  | .xformDecompress w => r32 0x72 3 w
  | .xformDecompress64 w => r64 0x72 3 w
  | .xformConvert w => r32 0x72 4 w
  | .xformConvert64 w => r64 0x72 4 w
  | .xformRepack w => r32 0x72 5 w
  | .xformRepack64 w => r64 0x72 5 w
  | .xformMigrate w => r32 0x72 6 w
  | .xformMigrate64 w => r64 0x72 6 w
  | .gat w => r32 0x73 0 w
  | .gat64 w => r64 0x73 0 w
  | .sct w => r32 0x73 1 w
  | .sct64 w => r64 0x73 1 w
  | .srt w => r32 0x73 2 w
  | .srt64 w => r64 0x73 2 w
  | .coll w => r32 0x73 3 w
  | .coll64 w => r64 0x73 3 w
  | .qpush w => r32 0x73 4 w
  | .qpush64 w => r64 0x73 4 w
  | .cpyMap w => r32 0x73 5 w
  | .cpyMap64 w => r64 0x73 5 w
  | .cpyUnmap w => r32 0x73 6 w
  | .cpyUnmap64 w => r64 0x73 6 w
  | .semSignal w => r32 0x74 0 w
  | .semSignal64 w => r64 0x74 0 w
  | .semAwait w => r32 0x74 1 w
  | .semAwait64 w => r64 0x74 1 w
  | .semRead w => r32 0x74 2 w
  | .semRead64 w => r64 0x74 2 w
  | .wopen w => r32 0x75 0 w
  | .wopen64 w => r64 0x75 0 w
  | .wadv w => r32 0x75 1 w
  | .wadv64 w => r64 0x75 1 w
  | .wend w => r32 0x75 2 w
  | .wend64 w => r64 0x75 2 w
  | .wclose w => r32 0x75 3 w
  | .wclose64 w => r64 0x75 3 w
  | .wld w => r32 0x75 4 w
  | .wld64 w => r64 0x75 4 w
  | .wldLane w => r32 0x75 5 w
  | .wldLane64 w => r64 0x75 5 w
  | .chain w => r32 0x76 0 w
  | .chain64 w => r64 0x76 0 w
  | .nmq w => r32 0x77 0 w
  | .nmq64 w => r64 0x77 0 w
  | .mzero w => r32 0x78 0 w
  | .mzero64 w => r64 0x78 0 w
  | .mma w => r64 0x78 1 w
  | .mgat w => r64 0x78 2 w
  | .mld w => r32 0x78 3 w
  | .mld64 w => r64 0x78 3 w
  | .mst w => r32 0x78 4 w
  | .mst64 w => r64 0x78 4 w
  | .mfree w => r32 0x78 5 w
  | .mfree64 w => r64 0x78 5 w
  | .msc w => r32 0x79 0 w
  | .msc64 w => r64 0x79 0 w
  | .mscinv w => r32 0x79 1 w
  | .mscinv64 w => r64 0x79 1 w
  | .msave w => r32 0x79 2 w
  | .msave64 w => r64 0x79 2 w
  | .msaveOwn w => r32 0x79 2 w
  | .msaveOwn64 w => r64 0x79 2 w
  | .mrest w => r32 0x79 3 w
  | .mrest64 w => r64 0x79 3 w
  | .rdsys num d => some (.w32 (Raw32.word ⟨0, 0, num, 0, d, 0x7C⟩))
  | .rdsys64 w => r64 0x7C 0 w
  | .wrsys num a => some (.w32 (Raw32.word ⟨1, 0, num, a, 0, 0x7C⟩))
  | .wrsys64 w => r64 0x7C 1 w
  | .eret w => r32 0x7D 0 w
  | .eret64 w => r64 0x7D 0 w
  | .park w => r32 0x7D 1 w
  | .park64 w => r64 0x7D 1 w
  | .resume w => r32 0x7D 2 w
  | .resume64 w => r64 0x7D 2 w
  | .kill w => r32 0x7D 3 w
  | .kill64 w => r64 0x7D 3 w
  | .tlbinvAll w => r32 0x7D 4 w
  | .tlbinvAll64 w => r64 0x7D 4 w
  | .tlbinvVa w => r32 0x7D 4 w
  | .tlbinvVa64 w => r64 0x7D 4 w
  | .halt w => r32 0x7D 5 w
  | .halt64 w => r64 0x7D 5 w
  | .extensionEscape x b f => some (.w32 (x ++ b ++ f ++ 0x7F#7 ++ 1#2))
  | .extensionEscape64 x b f => some (.w64 (x ++ b ++ f ++ 0x7F#7 ++ 3#2))
  | .corniceNop w => near 0x00 w
  | .corniceRdrow w => near 0x01 w
  | .corniceWrrow w => near 0x02 w
  | .corniceCld w => near 0x03 w
  | .corniceCst w => near 0x04 w
  | .corniceFadd w => near 0x05 w
  | .corniceFsub w => near 0x06 w
  | .corniceFmul w => near 0x07 w
  | .corniceFma w => near 0x08 w
  | .corniceFmax w => near 0x09 w
  | .corniceFmin w => near 0x0A w
  | .corniceFsqrt w => near 0x0B w
  | .corniceFrsq w => near 0x0C w
  | .corniceFrcp w => near 0x0D w
  | .corniceCvt w => near 0x0E w
  | .corniceFscale w => near 0x0F w
  | .corniceMovi w => near 0x10 w
  | .corniceAddi w => near 0x11 w
  | .corniceIred w => near 0x12 w
  | .corniceLoop w => near 0x13 w
  | .corniceBnz w => near 0x14 w
  | .corniceWait w => near 0x15 w
  | .corniceSync w => near 0x16 w
  | .corniceEnd w => near 0x17 w
  | .powerLoss => none

/-- What the decoder of the instruction's kind of stream reads from a word: `h` is true in a matrix stream. -/
def decodeCoded (h : Bool) (c : Coded) : Option Instr :=
  match c with
  | .w16 w => match decode16 h w with | .instr i _ => some i | .illegal .. => none
  | .w32 w => match decode32 h w with | .instr i _ => some i | .illegal .. => none
  | .w64 w => match decode64 h w with | .instr i _ => some i | .illegal .. => none
  | .near w => decodeCornice w

/-- Whether a stream accepts an instruction's word (R312): `h` is a matrix stream. Cornice words stand in no stream. -/
def Instr.inStream (h : Bool) (i : Instr) : Bool :=
  match encode i with
  | some (.w16 _) => !h
  | some (.w32 w) => accepts h (Raw32.ofWord w).maj (Raw32.ofWord w).f && !(h && (Raw32.ofWord w).maj == 0x7F)
  | some (.w64 w) => accepts h (Raw64.ofWord w).maj (Raw64.ofWord w).f && !(h && (Raw64.ofWord w).maj == 0x7F)
  | some (.near _) => true
  | none => false

/-- Whether an instruction is an event of the part or its host: it has no word. -/
def Instr.isEvent (i : Instr) : Bool := (encode i).isNone

/-! ## Words of the opcode table -/

/-- Where a word of the opcode table is an instruction: a group stream, a matrix stream, or a Cornice program. -/
inductive WordHome where
  | group
  | matrix
  | cornice
  deriving DecidableEq, Repr

/-- An instruction of a group or matrix stream whose length is the word's. -/
def decodeExact (h : Bool) (nbits w : Nat) : Option Instr :=
  match decode h (BitVec.ofNat 64 w) with
  | .instr i len => if 8 * len = nbits then some i else none
  | .illegal .. => none

/-- The streams in which a word of `nbits` bits is an instruction, the first that is: a group stream, then a matrix
stream, then a Cornice program; last a word whose upper parcels the table leaves out. -/
def tableWord (nbits w : Nat) : Option (WordHome × Instr) :=
  match decodeExact false nbits w with
  | some i => some (.group, i)
  | none =>
    match decodeExact true nbits w with
    | some i => some (.matrix, i)
    | none =>
      match (if nbits = 32 then decodeCornice (BitVec.ofNat 32 w) else none) with
      | some i => some (.cornice, i)
      | none =>
        match decode false (BitVec.ofNat 64 (w % 2 ^ nbits)) with
        | .instr i _ => some (.group, i)
        | .illegal .. => none

/-- The instruction the decoder reads from a word numbered as the opcode table numbers it. -/
def decodeTableWord (nbits w : Nat) : Option Instr :=
  match tableWord nbits w with
  | some p => some p.2
  | none => none

end

end Sys2Proof
end

