-- ==== Sys2Proof/Machine/Turn.lean ====
section
/-! DEFINITION. What a step does: the next turn of the agenda, or with nothing on the agenda a turn that the state
itself offers (log entry 3); an issuing bundle, Helm or Cornice unit fetches and decodes its instruction. -/

namespace Sys2Proof.Machine

open Sys2Proof

/- What builds an Instr is left to the kernel: see Sys2Proof.Decode. -/
noncomputable section

/-- What a turn comes to: an instruction to execute in a state, or a next state. -/
inductive Planned where
  | run (i : Instr) (s : State)
  | done (s : State)

/-- Nobody issues between steps. -/
def State.rest (s : State) : State := { s with cur := .nobody }

/-- An issuer whose instruction has been fetched: it executes, or takes the trap of a word that is none (R313). -/
def State.planWord (s : State) (helm : Bool) (w : Word) : Planned :=
  match decode helm w with
  | .instr i _ => .run i s
  | .illegal reason _ => .done (s.trapIllegal reason).rest

/-- The state with the length of the issuing instruction known. -/
def State.curWithLen (s : State) (len : Nat) : State :=
  match s.cur with
  | .group wg grp lanes pc _ => { s with cur := .group wg grp lanes pc len }
  | .helm wg pc _ => { s with cur := .helm wg pc len }
  | _ => s

/-- The issuer fetches, and what it fetched is planned. -/
def State.planFetch (s : State) (r : Req) (w : Nat) : Planned :=
  match s.fetch r (s.codeView w) s.curPc with
  | (.wait, t) => .done t.rest
  | (.fault f, t) => .done (t.fetchTrap f).rest
  | (.word x len, t) => (t.curWithLen len).planWord s.curHelm x

/-- The bundle of a group that is chosen to issue, as the issuer (R118 to R120). -/
def State.withBundle (s : State) (g : GroupId) (pc : Nat) : State :=
  { s with cur := .group g.wg g.grp (s.bundleLanes g pc) (BitVec.ofNat 64 pc) 2 }

/-- Whether a Helm's trap is to be taken by a thread of the group now (R280). -/
def State.helmTrapHere (s : State) (g : GroupId) : Bool :=
  match (s.helm g.wg).trap with
  | some h => h.taker.isNone && (match s.helmTaker g.wg with | some t => t.grp == g.grp | none => false)
  | none => false

/-- A group's turn: a Helm's trap, a hang, a yield, or its bundle. -/
def State.planGroup (s : State) (g : GroupId) : Planned :=
  if !s.mayRun g.wg then .done s
  else if s.helmTrapHere g then .done (s.deliverHelm g.wg)
  else if (s.liveOf g).any s.threadHung then .done (s.hangGroup g)
  else if 64 ≤ (s.group g).backCount then .done (s.yieldBackward g)
  else
    let s := s.settlePubs g
    match s.bundlePc g with
    | none => .done s
    | some pc =>
      if s.bundleBlocked g pc then .done s
      else
        let t := s.withBundle g pc
        t.planFetch t.fetchReq g.wg

/-- Whether a Helm may issue: not stopped at a trap, not waiting, not ready for acceptance. -/
def State.helmIssuable (s : State) (w : Nat) : Bool :=
  let h := s.helm w
  s.mayRun w && h.running && h.trap.isNone && h.acceptWait.isNone && s.waitOver { wg := w, grp := 0 } true h.wait

/-- The Helm that a core's issue port serves next: of those with an instruction ready, the first in rotation by Helm number after the
one served last (R246). -/
def State.portHelm (s : State) (c : Nat) : Option Nat :=
  let ready := (s.wgs.filter (fun e => e.2.isResident && e.2.core == c && s.helmIssuable e.1)).map (·.1)
  (List.range 8).findSome? (fun i => ready.find? (fun w => (s.helm w).number == ((s.core c).lastPort + 1 + i) % 8))

/-- A core's port notes which Helm it serves. -/
def State.servePort (s : State) (w : Nat) : State :=
  let c := s.coreOf w
  s.setCore c { s.core c with lastPort := (s.helm w).number }

/-- A Helm's turn. -/
def State.planHelm (s : State) (w : Nat) : Planned :=
  if !s.mayRun w then .done s
  else if s.helmHung w then .done (s.hangHelm w)
  else if s.portHelm (s.coreOf w) ≠ some w then .done s
  else
    let t := { s.servePort w with cur := .helm w (s.helm w).pc 2 }
    t.planFetch (t.helmReq w) w

/-- A Cornice unit's turn: it begins the next command, or executes its next word (R428, R432). -/
def State.planUnit (s : State) (u : Nat) : Planned :=
  let s := s.unitReady u
  let x := s.unit u
  if x.running.isNone then .done s
  else if 256 ≤ x.pc || 65536 ≤ x.steps then .done (s.unitFail u 7 0)
  else match decodeCornice (FMap.getD s.progStore x.pc 0xB8000000) with
    | none => .done (s.unitFail u 6 0)
    | some i => .run i { s with cur := .cornice u }

/-! ## Cycles (R92, R93, R125) -/

/-- The bundle's wait counted down. -/
def Wait.elapse (w : Wait) (n : Nat) : Wait := match w with | .nap c next => .nap (c - n) next | x => x

/-- A thread through `n` cycles in which it does not issue: its hang counter advances unless it is parked or its workgroup is stalled
at a full share (R93, R101). -/
def Thread.elapse (t : Thread) (stalled : Bool) (n : Nat) : Thread :=
  if !t.live || t.park != .running then t
  else { t with hang := if stalled then t.hang else t.hang + n, wait := t.wait.elapse n }

/-- Whether a workgroup is stalled at a full share: its threads then count as parked (R101). -/
def State.stalled (s : State) (w : Nat) : Bool :=
  (s.threadsOf w).any (fun t => (s.thread t).live && (s.thread t).wait == .staged) || (s.helm w).wait == .staged

/-- A core through `n` cycles: CYCLES, the spawn countdowns, and the tokens of its Gauntlet that are out (R92, R125, R235). -/
def Core.elapse (c : Core) (n : Nat) : Core :=
  { c with
    cycles := c.cycles + BitVec.ofNat 64 n
    bins := c.bins.map (fun (b : SpawnBin) => { b with countdown := b.countdown - n })
    latches := c.latches.map (fun (l : Latch) => if l.executing then { l with waited := l.waited + n } else l) }

/-- `n` cycles pass on a core without an issue. -/
def State.elapse (s : State) (c n : Nat) : State :=
  let here := fun (w : Nat) => (s.wg w).isResident && (s.wg w).core == c
  { s with
    cores := FMap.set s.cores c ((s.core c).elapse n)
    threads := s.threads.map (fun (e : ThreadId × Thread) => if here e.1.wg then (e.1, e.2.elapse (s.stalled e.1.wg) n) else e)
    helms := s.helms.map (fun (e : Nat × Helm) =>
      if here e.1 && e.2.running then (e.1, { e.2 with hang := e.2.hang + n }) else e) }

/-! ## Turns -/

/-- One turn. An instruction of a stream is no event, so it does nothing on the agenda. -/
def State.planTurn (s : State) (t : Turn) : Planned :=
  match t with
  | .event i => if i.isEvent then .run i s else .done s
  | .group wg grp => s.planGroup { wg := wg, grp := grp }
  | .helm wg => s.planHelm wg
  | .cornice u => s.planUnit u
  | .elapse c n => .done (s.elapse c n)
  | .bar0Read off size => .done (s.hostBar0Read off size)
  | .certificate => .done s.readCertificate
  | .hostStore a bs => .done (s.writePublished .host (hostAt a) bs)
  | .upset array inj => .done { s with errInjs := FMap.set s.errInjs array inj }

/-- The first group that has a bundle to issue. -/
def State.readyGroup (s : State) : Option GroupId :=
  (s.groups.map (·.1)).find? (fun g => s.mayRun g.wg && (s.bundlePc g).isSome)

/-- The first Helm that its core's port would serve. -/
def State.readyHelm (s : State) : Option Nat := (s.helms.map (·.1)).find? (fun w => s.helmIssuable w && s.portHelm (s.coreOf w) == some w)

/-- The turn that the state offers when the agenda is empty: the start, then an outstanding fill, then whoever can
issue, lowest first. -/
def State.ownTurn (s : State) : Option Turn :=
  if !s.boot.powered then some (.event .powerOn)
  else if s.boot.running && !s.boot.ready then some (.event (.startStepComplete true))
  else match s.fills with
    | f :: _ => some (.event (.longLatencyFill f.id))
    | [] =>
      match s.readyGroup with
      | some g => some (.group g.wg g.grp)
      | none =>
        match s.readyHelm with
        | some w => some (.helm w)
        | none => none

/-- The state with the turn that is taken off the agenda. -/
def State.popped (s : State) : State := { s with agenda := s.agenda.tail }

/-- What the next step does. -/
def State.plan (s : State) : Planned :=
  match s.agenda with
  | t :: _ => s.popped.planTurn t
  | [] =>
    match s.ownTurn with
    | some t => s.planTurn t
    | none => .done s

/-! ## Fault records that find no room (R285) -/

/-- The die that holds a waiting record: that of its core, or of the queue engine. -/
def State.recordDie (s : State) (ctx : Nat) (r : FaultRec) : Nat :=
  if fieldLe r 2 1 = 3 then (s.queue ctx (fieldLe r 46 2)).qeng / 2 else dieOfCore (fieldLe r 44 2)

/-- Records that wait in a die. -/
def State.recordsHeld (s : State) (die : Nat) : Nat :=
  (s.ctxs.map (fun e => (e.2.fqWaiting.filter (fun r => s.recordDie e.1 r == die)).length)).foldl (· + ·) 0

/-- Whether what has happened posts records for which a die that holds some has no room (R285; log entry 55). -/
def State.heldPast (before after : State) : Bool :=
  ([0, 1] : List Nat).any (fun d =>
    decide (64 < after.recordsHeld d) && decide (0 < before.recordsHeld d) && decide (before.recordsHeld d < after.recordsHeld d))

/-- What has happened, or the state before it where it waits at its point for room for its records (R285). -/
def State.orWait (before after : State) : State := if before.heldPast after then before else after

end

end Sys2Proof.Machine
end

