-- ==== Sys2Proof/Machine/Place.lean ====
section
/-! DEFINITION. Placing one word as the next instruction (log entry 4): the state that a host and a driver reach by
starting the module, creating a context, mapping a page and launching a kernel, or by loading a Cornice program. -/

namespace Sys2Proof.Machine

open Sys2Proof

noncomputable section

/-- Where the placed instruction stands: its virtual address, and its frame's physical address in HBM4E. -/
def placedVa : Nat := 0x1000
def placedPa : Nat := 0x201000

/-- The page tables of the placed context (R193, R194): three levels of tables, then one 2 MiB leaf with RD, WR, EX and AT. -/
def State.placeTables (s : State) : State :=
  (((s.renew (hbmAt 0x1000) (leBytes 8 0x2001)).renew (hbmAt 0x2000) (leBytes 8 0x3001)).renew (hbmAt 0x3000)
    (leBytes 8 0x4001)).renew (hbmAt 0x4000) (leBytes 8 0x20003F)

/-- A context whose tables are those of `placeTables`. -/
def placedCtx : Context :=
  { dying := false, qcount := 0, semBase := 0, semCount := 0, qtab := 0, ntab := 0, nodeCount := 0, summit := 0, saveBase := 0
    saveSlots := 2560, detResv := 0, accSave := 0, fqBase := 0, fqWidxAddr := 0, fqRidxAddr := 0, fqLog2n := 4, fqVec := 0
    fqWidx := 0, fqWaiting := [], fqBlocked := false, g0First := 0, g0Count := 0, g1First := 0, g1Count := 0, ptRoot := 0x1001, oldRoots := []
    trapVec := 0, holdRidges := 0 }

/-- A launch of one thread. -/
def State.placedLaunch (s : State) : Launch :=
  { Launch.absent with
    ctx := 1, entry := BitVec.ofNat 64 placedVa, helm := BitVec.ofNat 64 placedVa, threads := 1, gx := 1, gy := 1, gz := 1
    live := 1, next := 1, running := true, startSeq := s.writeSeq }

/-- Its workgroup, on core 0. -/
def placedWg : Workgroup := { Workgroup.absent with launch := 1, status := .resident, slots := [0], nextGroup := 1 }

/-- Its thread, standing at the instruction. -/
def placedThread : Thread := { Thread.absent with live := true, pc := BitVec.ofNat 64 placedVa }

/-- The module started, with one kernel of one thread in a context, its instruction in memory, and the registers of
its group and its Helm as a start leaves them (R117, R412). -/
def State.placeKernel (s : State) (bs : List Byte) : State :=
  let t := s.placeTables.renew (hbmAt placedPa) bs
  let u : State := { t with
    boot := { t.boot with powered := true, running := true, ready := true }
    errInjs := []
    fenceMarks := t.fenceMarks.filter (fun f => f.ctx != 1)
    ctxs := FMap.set t.ctxs 1 placedCtx
    launches := FMap.set t.launches 1 t.placedLaunch
    wgs := FMap.set t.wgs 1 placedWg
    groups := FMap.set (t.groups.filter (fun e => e.1.wg != 1)) { wg := 1, grp := 0 } { Group.absent with present := true }
    threads := FMap.set (t.threads.filter (fun e => e.1.wg != 1)) { wg := 1, grp := 0, lane := 0 } placedThread
    helms := FMap.set t.helms 1 { Helm.absent with running := true, pc := BitVec.ofNat 64 placedVa } }
  (u.startRegs 1 0 0).startHelmRegs 1

/-- A RUN of one stripe on Cornice unit 0 whose first word is the placed one. -/
def placedNear : NearCmd :=
  { id := 0, ctx := 1, source := .host, issuer := .host, seq := 0, floors := 0, priv := false
    record := [2, 0, 1, 1] ++ List.replicate 28 0, args := List.replicate 64 0, first := 0, count := 1, begun := true
    window := 0, rows := [[(0, 0)]], left := [0], failed := false, bad := none }

/-- The module started, with unit 0 at a word of its program store. -/
def State.placeCornice (s : State) (w : BitVec 32) : State :=
  { s with
    boot := { s.boot with powered := true, running := true, ready := true }
    progStore := FMap.set s.progStore 0 w
    near := [placedNear]
    units := FMap.set s.units 0 (CorniceUnit.begin placedNear)
    agenda := [.cornice 0] }

/-- The state in which the next step fetches and executes a word of the opcode table. -/
def State.placeWord (s : State) (nbits w : Nat) : State :=
  let v := w % 2 ^ nbits
  match tableWord nbits v with
  | some (.cornice, _) => s.placeCornice (BitVec.ofNat 32 v)
  | some (.matrix, _) => { s.placeKernel (leBytes 8 v) with agenda := [.helm 1] }
  | _ => { s.placeKernel (leBytes 8 v) with agenda := [.group 1 0] }

end

end Sys2Proof.Machine
end

