-- ==== Sys2Proof/Machine/Step.lean ====
section
/-! DEFINITION. One step, and the placing of a word as the next instruction. -/

namespace Sys2Proof.Machine

open Sys2Proof

noncomputable section

/-- One step: what `plan` says, unless it must wait for room for its fault records (R285); between steps nobody issues. -/
def step (s : State) : Host.Outcome State Fault Refusal :=
  match s.plan with
  | .done t => .next (s.popped.orWait t)
  | .run i t =>
    match exec i t with
    | .next u => .next (t.orWait u).rest
    | .fault f => .fault f
    | .refused r => .refused r

/-- The state in which a word of the opcode table is the instruction that the next step fetches (log entry 4). -/
def State.withFetchWord (s : State) (nbits w : Nat) : State := s.placeWord nbits w

end

end Sys2Proof.Machine
end

