-- ==== Sys2Proof/Safety.lean ====
section
/-! DEFINITION. What a step may and must do, in the terms that claims use: completing, the lanes in which an instruction
executes, readable operands, what a write of a register is, and what a state may differ in from another. -/

namespace Sys2Proof

open Sys2Proof.Machine

/-! ## Steps -/

/-- What every step keeps: memory in its canonical form, nobody issuing between steps, and no entry of the coherence order
later than the latest write (R176). -/
structure Inv (s : State) : Prop where
  mem : Memory.wf s.mem = true
  cur : s.cur = .nobody
  hist : ∀ e ∈ s.hist, e.seq ≤ s.writeSeq

/-- An instruction completes: exec answers a next state, and `P` holds of it. -/
def Completes (i : Instr) (s : State) (P : State → Prop) : Prop := ∃ t, exec i s = .next t ∧ P t

/-! ## Operands -/

/-- Helper lanes in which an instruction of a form executes too (R123): none in a uniform major. -/
def helperLanes (s : State) (f : Form) : List Nat := if f.uniform then [] else s.activeHelpers f

/-- Every lane in which an instruction of a form executes. -/
def allLanes (s : State) (f : Form) : List Nat := s.execLanes f ++ helperLanes s f

/-- No error is injected, and in the given lanes no register that an instruction reads or writes is empty (R130, R131). -/
structure ReadableIn (s : State) (lanes : List Nat) (srcs dsts : List Src) : Prop where
  quiet : s.errInjs = []
  srcs : ∀ l ∈ lanes, ∀ x ∈ srcs, s.isEmpty l x = false
  dsts : ∀ l ∈ lanes, ∀ x ∈ dsts, s.isEmpty l x = false

/-- The operands of an instruction are readable in every lane in which it executes. -/
abbrev Readable (s : State) (f : Form) (srcs dsts : List Src) : Prop := ReadableIn s (s.trapSet f ++ helperLanes s f) srcs dsts

/-- What the lanes of an issuing bundle are: they hold live threads and stand in ascending order (R119, R121). -/
structure Bundle (s : State) : Prop where
  live : ∀ l ∈ s.curLanes, (s.thread (s.curThread l)).live = true
  ascending : s.curLanes.Pairwise (· < ·)

/-- The values of the sources of an instruction in a lane. -/
def srcVals (s : State) (f : Form) (arity : Nat) (imm : Tag → Word → Word) (l : Nat) : List Word :=
  (f.srcs arity).map (fun o => s.srcVal imm l o.src (s.srcTag l o.src f.a))

/-! ## Results -/

/-- A register holds a result: full with its tag, or, of a long-latency producer, empty with its new tag and the value on
its way (R129, R134). -/
def Wrote (s t : State) (k : RegKey) (late : Bool) (tag : Tag) (v : Word) : Prop :=
  if late then t.reg k = { bits := (s.reg k).bits, tag := tag, full := false } ∧ ∃ x ∈ t.fills, x.reg = k ∧ x.value = v ∧ x.owner = s.curGroup
  else t.reg k = { bits := v, tag := tag, full := true }

/-- FLAGS of the issuer (R262). -/
def curFlags (s : State) : Word := if s.curHelm then (s.helm s.curGroup.wg).flags else (s.group s.curGroup).flags

/-- FLAGS of the issuer alone differ from `s` moved on, among groups and Helms. -/
def OnlyFlags (s t : State) : Prop :=
  if s.curHelm then
    t.groups = s.advance.groups ∧
    ∀ w, t.helm w = if w = s.curGroup.wg then { s.advance.helm w with flags := (t.helm w).flags } else s.advance.helm w
  else
    t.helms = s.advance.helms ∧
    ∀ g, t.group g = if g = s.curGroup then { s.advance.group g with flags := (t.group g).flags } else s.advance.group g

/-- Nothing but registers, fills begun and the issuer's FLAGS differ from `s` moved on to the next instruction. -/
def OnlyResults (s t : State) : Prop :=
  t = { s.advance with regs := t.regs, fills := t.fills, nextId := t.nextId, groups := t.groups, helms := t.helms } ∧
  (∃ begun, t.fills = s.fills ++ begun) ∧ OnlyFlags s t

/-- An instruction of one destination: where its tags are accepted and its operands readable it completes. Each lane's
result and flags obey `R` of the result tag, the source tags and the source values; every other register is unchanged,
the flags of the active lanes are ORed into FLAGS unless they are on their way, and the issuer moves on. -/
def Computes (i : Instr) (f : Form) (arity : Nat) (check : List Tag → Except Nat Tag) (imm : Tag → Word → Word)
    (late : Tag → Bool) (R : Tag → List Tag → List Word → Word × Word → Prop) : Prop :=
  ∀ s : State, f.dUni = f.uniform → Readable s f ((f.srcs arity).map (·.src)) [f.dstSrc] →
    (∀ l ∈ s.execLanes f, ∃ g, check (s.srcTags f arity l) = .ok g) →
    Completes i s (fun t => OnlyResults s t ∧ ∃ out : Nat → Word × Word,
      (∀ l ∈ allLanes s f, ∀ g, check (s.srcTags f arity l) = .ok g →
        R g (s.srcTags f arity l) (srcVals s f arity imm l) (out l) ∧ Wrote s t (s.dstKey f l) (late g) g (out l).1) ∧
      (∀ k, (∀ l ∈ allLanes s f, k ≠ s.dstKey f l) → t.reg k = s.reg k) ∧
      curFlags t = (s.execLanes f).foldl (fun a l =>
        match check (s.srcTags f arity l) with | .ok g => if late g then a else a ||| (out l).2 | .error _ => a) (curFlags s))

/-- A predicate of each lane written: k of the lane's thread (k0 keeps, R116), or in a uniform major the register of that
number, 1 or 0 tagged I64 (R325); no other thread differs from having moved on. -/
def PutsPred (s t : State) (uniform : Bool) (lanes : List Nat) (n : Nat) (v : Nat → Bool) : Prop :=
  if uniform then
    (∀ l ∈ lanes, t.reg (s.uniKey n) = { bits := if v l then 1 else 0, tag := 1, full := true }) ∧ t.threads = s.advance.threads
  else
    (∀ l ∈ lanes, t.thread (s.curThread l) = (s.advance.thread (s.curThread l)).setK n (v l)) ∧
    ∀ id, (∀ l ∈ lanes, id ≠ s.curThread l) → t.thread id = s.advance.thread id

/-- An instruction that writes a predicate: where its tags are accepted and its operands readable it completes. `R` relates
the source tags and values to the truth value and flags of a lane. -/
def Tests (i : Instr) (f : Form) (arity : Nat) (check : List Tag → Except Nat Unit) (imm : Tag → Word → Word)
    (R : List Tag → List Word → Bool × Word → Prop) : Prop :=
  ∀ s : State, Readable s f ((f.srcs arity).map (·.src)) (if f.uniform then [.uni f.d false] else []) →
    (∀ l ∈ s.execLanes f, check (s.srcTags f arity l) = .ok ()) →
    Completes i s (fun t => ∃ out : Nat → Bool × Word,
      (∀ l, R (s.srcTags f arity l) (srcVals s f arity imm l) (out l)) ∧
      PutsPred s t f.uniform ((allLanes s f).filter (fun l => (check (s.srcTags f arity l)).isOk)) f.d (fun l => (out l).1) ∧
      OnlyFlags s t ∧ curFlags t = (s.execLanes f).foldl (fun a l => a ||| (out l).2) (curFlags s) ∧
      t = { s.advance with regs := t.regs, threads := t.threads, groups := t.groups, helms := t.helms } ∧
      ∀ k, (f.uniform = true → k ≠ s.uniKey f.d) → t.reg k = s.reg k)

/-- An instruction that writes any number of registers in each lane: where `pre` holds, `compute` gives, from the state
before, what each lane writes and its flags (R327), or the operand that its tag check refuses. -/
def ComputesMany (i : Instr) (f : Form) (srcs : State → List Src) (dsts : List Src) (late : Bool) (pre : State → Prop)
    (compute : State → Nat → Except Nat LaneOut) : Prop :=
  ∀ s : State, f.dUni = f.uniform → pre s → Readable s f (srcs s) dsts →
    (∀ l ∈ s.execLanes f, ∃ o, compute s l = .ok o) →
    Completes i s (fun t => OnlyResults s t ∧
      (∀ l ∈ allLanes s f, ∀ o, compute s l = .ok o → ∀ w ∈ o.writes, ∀ k, s.srcKey l w.1 = some k → Wrote s t k late w.2.1 w.2.2) ∧
      (∀ k, (∀ l ∈ allLanes s f, ∀ o, compute s l = .ok o → ∀ w ∈ o.writes, s.srcKey l w.1 ≠ some k) → t.reg k = s.reg k) ∧
      curFlags t = (if late then curFlags s else (s.execLanes f).foldl (fun a l =>
        match compute s l with | .ok o => a ||| o.flags | .error _ => a) (curFlags s)))

/-- `addc` or `subc`: `exact` is the exact sum or difference of A, B and the carry register; D takes it modulo 2^64, the
carry register whether it lies outside 0 to 2^64 − 1 (R329). -/
def Carries (i : Instr) (f : Form) (exact : Int → Int → Int → Int) : Prop :=
  ∀ s : State, f.dUni = f.uniform → (f.uniform = true → f.d ≠ f.kc) →
    Readable s f ([f.a, f.b] ++ if f.uniform then [.uni f.kc false] else []) [f.dstSrc] →
    (∀ l ∈ s.execLanes f, s.srcTags f 2 l = [1, 1]) →
    let value := fun (l : Nat) =>
      exact (s.srcVal (fun _ v => v) l f.a 1).toNat (s.srcVal (fun _ v => v) l f.b 1).toNat (if s.getPred f.uniform l f.kc then 1 else 0)
    Completes i s (fun t =>
      (∀ l ∈ allLanes s f, s.srcTags f 2 l = [1, 1] → t.reg (s.dstKey f l) = { bits := BitVec.ofInt 64 (value l), tag := 1, full := true }) ∧
      PutsPred s t f.uniform (allLanes s f) f.kc (fun l => decide (value l < 0 ∨ (2 : Int) ^ 64 ≤ value l)) ∧
      (∀ k, (∀ l ∈ allLanes s f, k ≠ s.dstKey f l) → (f.uniform = true → k ≠ s.uniKey f.kc) → t.reg k = s.reg k) ∧
      curFlags t = curFlags s ∧ OnlyFlags s t ∧
      t = { s.advance with regs := t.regs, threads := t.threads, groups := t.groups, helms := t.helms })

/-- A cross-lane instruction (R361): where its operands and the destinations of the helper lanes led by its lanes are readable (R131)
and `pre` holds it completes. `R` relates an active
lane to the tag and the bits that it and the helper lanes it leads receive, on their way; nothing else is written. -/
def Crosses (i : Instr) (f : Form) (srcs : List Src) (pre : State → Prop) (R : State → Nat → Tag → Word → Prop) : Prop :=
  ∀ s : State, f.dUni = false → Bundle s → ReadableIn s (s.active f) srcs [f.dstSrc] →
    (∀ l ∈ s.active f, ∀ m ∈ s.followers l, s.isEmpty m f.dstSrc = false) → pre s →
    Completes i s (fun t => OnlyResults s t ∧ ∃ out : Nat → Tag × Word, (∀ l ∈ s.active f, R s l (out l).1 (out l).2) ∧
      (∀ l ∈ s.active f, ∀ m, m = l ∨ m ∈ s.followers l → Wrote s t (s.laneKey m f.d) true (out l).1 (out l).2) ∧
      (∀ k, (∀ l ∈ s.active f, ∀ m, m = l ∨ m ∈ s.followers l → k ≠ s.laneKey m f.d) → t.reg k = s.reg k) ∧
      curFlags t = curFlags s)

/-- No long-latency producer for any tag (R129). -/
def never : Tag → Bool := fun _ => false
/-- A long-latency producer for every tag. -/
def always : Tag → Bool := fun _ => true
/-- A long-latency producer for I64 alone (R330). -/
def onI64 : Tag → Bool := fun t => t == 1

/-- The elements of a register, element 0 first. -/
def elems (n : Nat) (x : Word) : List Nat := (List.range (64 / n)).map (elemAt n x)

/-- The tag check of an instruction that writes a predicate: its sources share one accepted tag (R326, R349). -/
def sameTagsOnly (ok : Tag → Bool) (tags : List Tag) : Except Nat Unit :=
  match sameTags ok tags with
  | .ok _ => .ok ()
  | .error e => .error e

/-- Each element of the result is `r` of the sources' elements of the same index; no flag. -/
def Each1 (r : Nat → Nat → Nat) (g : Tag) (_ : List Tag) (vs : List Word) (o : Word × Word) : Prop :=
  o.2 = 0 ∧ ∀ j < 64 / tagWidth g, elemAt (tagWidth g) o.1 j = r (tagWidth g) (elemAt (tagWidth g) (vs.getD 0 0) j)
def Each2 (r : Nat → Nat → Nat → Nat) (g : Tag) (_ : List Tag) (vs : List Word) (o : Word × Word) : Prop :=
  o.2 = 0 ∧ ∀ j < 64 / tagWidth g,
    elemAt (tagWidth g) o.1 j = r (tagWidth g) (elemAt (tagWidth g) (vs.getD 0 0) j) (elemAt (tagWidth g) (vs.getD 1 0) j)
def Each3 (r : Nat → Nat → Nat → Nat → Nat) (g : Tag) (_ : List Tag) (vs : List Word) (o : Word × Word) : Prop :=
  o.2 = 0 ∧ ∀ j < 64 / tagWidth g, elemAt (tagWidth g) o.1 j =
    r (tagWidth g) (elemAt (tagWidth g) (vs.getD 0 0) j) (elemAt (tagWidth g) (vs.getD 1 0) j) (elemAt (tagWidth g) (vs.getD 2 0) j)
/-- The result is one word of the sources' words; no flag. -/
def Word1 (r : Word → Word) (_ : Tag) (_ : List Tag) (vs : List Word) (o : Word × Word) : Prop := o = (r (vs.getD 0 0), 0)
def Word2 (r : Word → Word → Word) (_ : Tag) (_ : List Tag) (vs : List Word) (o : Word × Word) : Prop :=
  o = (r (vs.getD 0 0) (vs.getD 1 0), 0)

/-- Each element of the result, and its flags, are `r` of the format and of the sources' elements (R262, R350). -/
def EachFloat (r : Fmt → List Nat → Nat × Word) (g : Tag) (_ : List Tag) (vs : List Word) (o : Word × Word) : Prop :=
  o.2 = (List.range (64 / tagWidth g)).foldl (fun a j => a ||| (r (fmtD g) (vs.map (fun v => elemAt (tagWidth g) v j))).2) 0 ∧
  ∀ j < 64 / tagWidth g,
    elemAt (tagWidth g) o.1 j = (r (fmtD g) (vs.map (fun v => elemAt (tagWidth g) v j))).1 % 2 ^ tagWidth g

/-- A property of the 32-bit and of the 64-bit form of an instruction of standard operands. -/
def Both (c32 : R32 → Instr) (c64 : R64 → Instr) (hasI signed : Bool) (P : Instr → Form → Prop) : Prop :=
  (∀ w, P (c32 w) (form32 w hasI signed)) ∧ (∀ w, P (c64 w) (form64 w signed))

/-- A property of the lane, uniform, and 64-bit form of a floating-point instruction. -/
def Triple (c32 cU : R32 → Instr) (c64 : R64 → Instr) (P : Instr → Form → Prop) : Prop :=
  (∀ w, P (c32 w) (form32 w false false)) ∧ (∀ w, P (cU w) (form32 w false false)) ∧ (∀ w, P (c64 w) (form64 w false))

/-- Integer instructions that work element by element on operands of one integer tag (R326). -/
def Int1 (i : Instr) (f : Form) (r : Nat → Nat → Nat) : Prop := Computes i f 1 (sameTags isIntTag) immSplat never (Each1 r)
def Int2 (i : Instr) (f : Form) (r : Nat → Nat → Nat → Nat) : Prop := Computes i f 2 (sameTags isIntTag) immSplat never (Each2 r)

/-- Floating-point instructions that work element by element on operands of one arithmetic tag (R350). -/
def Flt (arity : Nat) (imm : Fmt) (r : Fmt → List Nat → Nat × Word) (i : Instr) (f : Form) : Prop :=
  Computes i f arity (sameTags isFpTag) (immFloat imm) never (EachFloat r)

/-! ## Memory instructions -/

/-- Every word of the listed lanes of a memory instruction is aligned and lies on chip, at a place that is present and not
empty (R147, R150, R154, R380, R381). -/
def OnChip (s : State) (m : MemArgs) (lanes : List Nat) : Prop :=
  ∀ l ∈ lanes, (s.memAddr m l).toNat % m.size = 0 ∧
    ∀ a ∈ s.memWords m l, ∃ x, s.decodeAddr (s.laneReq l) m.space a m.size = some (.chip x) ∧ s.lineAbsent x = false ∧ s.lineEmpty x = false

/-- Where a word of a lane lies on chip. -/
def chipPlace (s : State) (m : MemArgs) (l : Nat) (a : Word) : Nat :=
  match s.decodeAddr (s.laneReq l) m.space a m.size with
  | some (.chip x) => x
  | _ => 0

/-- Bytes that an access through translation may change beside those it stores: the A and D bits of its leaf (R198), and
the block of a VBD page as its users see it, filled from the stored page (R170). -/
def spotTouches (p : Spot) (a : Nat) : Bool :=
  (match p.leaf with | some f => a == f.entryAt + 1 | none => false) ||
  (match p.loc with
   | .vbd frame _ off => decide (vbdAt (frame + 256 * (off / 256)) ≤ a) && decide (a < vbdAt (frame + 256 * (off / 256)) + 256)
   | _ => false)

/-- Whether a word of a lane's store may change a byte: what enters the side log or a staging share changes none. -/
def wordReaches (s : State) (m : MemArgs) (l : Nat) (x : Word × WriteOp) (a : Nat) : Bool :=
  match s.decodeAddr (s.laneReq l) m.space x.1 m.size with
  | none => false
  | some (.chip p) => decide (p ≤ a) && decide (a < p + x.2.len)
  | some (.global va) =>
    if s.stages s.curGroup.wg || (s.storeFault (s.laneReq l) (s.curThread l) va x.2).isSome then false
    else match (s.resolve (s.laneReq l) spGlobal (BitVec.ofNat 64 va) x.2.len x.2.kind).1 with
      | .error _ => false
      | .ok p => spotTouches p a || (match p.loc with | .flat f => decide (f ≤ a) && decide (a < f + x.2.len) | _ => false)

/-- Whether one of a lane's words, each put where it belongs before the next, may change a byte. -/
def laneReaches (s : State) (m : MemArgs) (l : Nat) (acc : List Nat) (ops : List (Word × WriteOp)) (a : Nat) : Bool :=
  match ops with
  | [] => false
  | x :: t => wordReaches s m l x a || laneReaches (s.storeWord m l acc x).2 m l (s.storeWord m l acc x).1 t a

/-- Whether one of the lanes of a store, in their order, may change a byte. -/
def lanesReach (s : State) (m : MemArgs) (k : AccKind) (mk : Nat → Src → WriteOp) (lanes : List Nat) (a : Nat) : Bool :=
  match lanes with
  | [] => false
  | l :: t => laneReaches s m l [] (s.storeOps m mk l) a || lanesReach (State.storeOrTrap m k mk (s, []) l).1 m k mk t a

/-- Nothing but registers and fills begun differ from `s` moved on to the next instruction. -/
def OnlyRegs (s t : State) : Prop :=
  t = { s.advance with regs := t.regs, fills := t.fills, nextId := t.nextId } ∧ ∃ begun, t.fills = s.fills ++ begun

/-- A property of every form of a load: its operands, its tag, whether it is `.inv`, and what its bytes stand for (R379, R382). -/
def EveryLoad (P : Instr → MemArgs → Tag → Bool → (List Byte → Word) → Prop) : Prop :=
  (∀ t m, P (.ld t m) (Machine.mem32 m 8) (BitVec.ofNat 4 (4 * t.toNat + m.g.toNat)) false wordOf) ∧
  (∀ p t w, P (.ld64 p t w) (mem64 p w 8 1) (BitVec.ofNat 4 (4 * t.toNat + w.so.toNat)) (bitAt (quad w) 0) wordOf) ∧
  (∀ m, P (.ldsU m) (Machine.mem32 m (2 ^ m.g.toNat)) 1 false wordOf) ∧ (∀ p w, P (.ldsU64 p w) (mem64 p w (2 ^ w.so.toNat) 1) 1 false wordOf) ∧
  (∀ m, P (.ldsS m) (Machine.mem32 m (2 ^ m.g.toNat)) 1 false signedOf) ∧ (∀ p w, P (.ldsS64 p w) (mem64 p w (2 ^ w.so.toNat) 1) 1 false signedOf) ∧
  (∀ p w, P (.ldm p w) (mem64 p w 8 (2 ^ (w.so.toNat + 1))) (quad w) false wordOf)

/-- A property of every form of a plain store (R379, R382). -/
def EveryStore (P : Instr → MemArgs → Prop) : Prop :=
  (∀ m, P (.st m) (Machine.mem32 m 8)) ∧ (∀ p w, P (.st64 p w) (mem64 p w 8 1)) ∧
  (∀ m, P (.sts m) (Machine.mem32 m (2 ^ m.g.toNat))) ∧ (∀ p w, P (.sts64 p w) (mem64 p w (2 ^ w.so.toNat) 1)) ∧
  (∀ p w, P (.stm p w) (mem64 p w 8 (2 ^ (w.so.toNat + 1))))

/-! ## Traps and transfers -/

/-- A thread took a trap (R275), or, in its handler already or with TRAP_VEC 0, was parked by it (R278). -/
def TookTrap (s t : State) (id : ThreadId) (cause : BitVec 8) (pc addr info : Word) : Prop :=
  let x := s.thread id
  let y := t.thread id
  y.trapCause = cause ∧ y.trapPc = pc &&& ~~~1 ∧ y.trapAddr = addr ∧ y.trapInfo = info ∧ y.wait = .none ∧ y.k = x.k ∧ y.live = x.live ∧
  if x.inHandler = true ∨ s.trapVec (s.ctxOf id.wg) = 0 then
    y.park = .byNested ∧ y.priv = x.priv ∧ y.inHandler = x.inHandler ∧ y.pc = pc &&& ~~~1
  else y.park = x.park ∧ y.priv = true ∧ y.inHandler = true ∧ y.pc = s.trapVec (s.ctxOf id.wg)

/-- The lanes of the bundle that take a transfer stand at their targets, the others at the next instruction; an odd target
traps with ALIGN in its lane (R340). A backward branch of the group's lowest bundle is counted (R120). -/
def Transfers (s t : State) (taken : Nat → Bool) (target : Nat → Word) : Prop :=
  let next := s.curPc + BitVec.ofNat 64 s.curLen
  let back := s.curLanes.any (fun l => taken l && !bitAt (target l) 0 && decide ((target l).toNat ≤ s.curPc.toNat))
  (∀ l ∈ s.curLanes,
    if taken l && bitAt (target l) 0 then TookTrap s t (s.curThread l) 0x05 s.curPc (target l) (infoAddr false 3 0)
    else t.thread (s.curThread l) =
      { s.thread (s.curThread l) with pc := if taken l then target l else next, wait := .none, hang := 0 }) ∧
  (∀ id, (∀ l ∈ s.curLanes, id ≠ s.curThread l) → t.thread id = s.thread id) ∧
  (∀ g, t.group g = if g = s.curGroup then
      { s.advance.group g with backCount := (s.advance.group g).backCount + if back && s.isLowestBundle then 1 else 0 }
    else s.group g) ∧
  t.mem = s.mem ∧
  ((∀ l ∈ s.curLanes, taken l = true → bitAt (target l) 0 = false) →
    t = { s.advance with threads := t.threads, groups := t.groups, regs := t.regs })

/-! ## Where the issuer goes -/

/-- Every lane of the bundle, or the Helm, stands at the next instruction and waits for nothing. -/
def MovesOn (s t : State) : Prop :=
  if s.curHelm then (t.helm s.curGroup.wg).pc = s.curPc + BitVec.ofNat 64 s.curLen ∧ (t.helm s.curGroup.wg).wait = .none
  else ∀ l ∈ s.curLanes, (t.thread (s.curThread l)).pc = s.curPc + BitVec.ofNat 64 s.curLen ∧ (t.thread (s.curThread l)).wait = .none

/-- The issuer stands where it stood and waits at something; nothing else differs. -/
def WaitsAt (s t : State) (w : Wait) : Prop :=
  t = { s with threads := t.threads, helms := t.helms } ∧
  (∀ v, t.helm v = if s.curHelm = true ∧ v = s.curGroup.wg then { s.helm v with wait := w } else s.helm v) ∧
  (∀ l ∈ s.curLanes, t.thread (s.curThread l) = { s.thread (s.curThread l) with wait := w }) ∧
  ∀ id, (∀ l ∈ s.curLanes, id ≠ s.curThread l) → t.thread id = s.thread id

/-- The lanes that a per-bundle instruction checks its registers for: the bundle's, or the Helm's one (R376). -/
def bundleLanes (s : State) : List Nat := if s.curHelm then [0] else s.curLanes

/-- Whether the listed registers of a per-bundle instruction are tagged I64 and readable (R376). -/
def BundleReads (s : State) (srcs dsts : List Src) : Prop :=
  (∀ x ∈ srcs, s.srcTagOf 0 x = 1) ∧ ReadableIn s (bundleLanes s) srcs dsts

/-- ILLEGAL of every thread of the bundle, with a reason (R275, R276, R313); no register and no byte of memory changes. -/
def TrapsIllegal (s t : State) (cause : BitVec 8) (reason : Nat) : Prop :=
  (∀ l ∈ s.curLanes, TookTrap s t (s.curThread l) cause s.curPc 0 (infoIllegal s.curLen false reason false)) ∧
  (∀ id, (∀ l ∈ s.curLanes, id ≠ s.curThread l) → t.thread id = s.thread id) ∧
  t.regs = s.regs ∧ t.mem = s.mem ∧ t.groups = s.groups ∧ t.cores = s.cores

/-! ## Engines (R136, R390) -/

/-- An operation was handed to an engine: `r` is the state once the records are read. Its counter rises by one, its destination lines
are empty, its bytes are owed at its barrier, and the bundle moves on. -/
def IssuesOp (s r t : State) (cls : OpClass) (kind : OpKind) (bar : Option Nat) (tx : Nat) (lines : List Nat) : Prop :=
  (∃ o : AsyncOp, t.ops = r.ops ++ [o] ∧ o.id = r.nextId ∧ o.wg = s.curGroup.wg ∧ o.grp = some s.curGroup.grp ∧
    o.lane = s.curLanes.head? ∧ o.cls = cls ∧ o.kind = kind ∧ o.bar = bar ∧ o.tx = tx ∧ o.lines = lines ∧ o.priv = s.curPriv ∧
    o.seq = r.writeSeq ∧ o.done = false ∧ o.held = false) ∧
  t.nextId = r.nextId + 1 ∧ t.curCtr cls = s.curCtr cls + 1 ∧ (∀ c, c ≠ cls → t.curCtr c = s.curCtr c) ∧
  t.emptyLines = lines ++ r.emptyLines ∧
  (match bar with
   | none => t.wgs = r.wgs
   | some n => t.bar s.curGroup.wg n = { r.bar s.curGroup.wg n with
       tx := (r.bar s.curGroup.wg n).tx + BitVec.ofNat 32 tx, txOps := r.nextId :: (r.bar s.curGroup.wg n).txOps }) ∧
  t.regs = s.regs ∧ t.mem = r.mem ∧ MovesOn s t

/-- An engine issue (R390): where its operands are ready and its records read and accepted, the operation enters its class while the
counter is below 63; at 63 the bundle stays where it is and keeps the records. -/
def Issues (i : Instr) (cls : OpClass) (srcs : List Src) (ready : State → Prop) (records : State → List (List Byte) → NextRec)
    (accepts : State → State → List (List Byte) → Prop) (op : State → State → List (List Byte) → OpKind × Option Nat × Nat × List Nat) : Prop :=
  ∀ (s r : State) (recs : List (List Byte)), s.curHelm = false → Bundle s → BundleReads s srcs [] → ready s →
    s.pubPending s.curGroup = false → s.keptRecs = none → s.readRecords (records s) [] 40 = .got recs r → accepts s r recs →
    let o := op s r recs
    (s.curCtr cls < 63 → Completes i s (fun t => IssuesOp s r t cls o.1 o.2.1 o.2.2.1 o.2.2.2)) ∧
    (s.curCtr cls = 63 → Completes i s (fun t => t.ops = r.ops ∧ t.regs = s.regs ∧ t.mem = r.mem ∧ t.threads = s.threads ∧ t.keptRecs = some recs))

/-- A D field that names no barrier, or a barrier of the workgroup (R138, R390). -/
def BarrierField (s : State) (d : Nat) : Prop := d ≤ (s.launchOf s.curGroup.wg).barsN

/-! ## The Gauntlet (R236, R401, R402) -/

/-- A matrix instruction ready for acceptance, `s1` being its Helm as the issuer: with a latch set free and its turn come, it enters the
latch sets, its tile is empty, live and tagged if it will write it, and the Helm moves on; else it waits, ready. -/
def Accepts (i : Instr) (s s1 : State) (op : MatOp) : Prop :=
  let w := s1.curGroup.wg
  let c := s1.coreOf w
  ∀ (l : Latch) (r : State), op.tile < 8 → s1.accOwn = none → (∀ o ∈ op.srcs, s1.srcTagOf 0 o.src = 1) → (s1.core c).tileFormat op = false →
    ReadableIn s1 [0] (op.srcs.map (·.src)) [] → s1.tileGate op = .go → s1.matPlan op = .enter l r →
    (r.mayAccept = true → Completes i s (fun t =>
      (∃ n : Latch, (t.core c).latches = (r.core c).latches ++ [n] ∧ n.op = op ∧ n.wg = w ∧ n.pc = s1.curPc ∧ n.executing = false ∧
        n.rows = l.rows ∧ n.planned = l.planned ∧ n.baseB = l.baseB ∧ n.scales = l.scales ∧ n.addr = l.addr ∧ n.stride = l.stride ∧
        n.caps.map (·.off) = l.caps.map (·.off)) ∧
      (t.core c).lastHelm = (s1.wg w).helmNo ∧
      (op.kind.writesTile = true → (t.core c).tileIsFull op.tile = false ∧ (t.core c).tileIsLive op.tile = true ∧
        (t.core c).tileIsInt op.tile = (match op.kind with | .mma => codeIsInt op.code | .mgat => codeIsInt op.code | _ => op.so == 1)) ∧
      (∀ n, (n ≠ op.tile ∨ op.kind.writesTile = false) → n < 8 → (t.core c).tileIsFull n = (s1.core c).tileIsFull n ∧
        (t.core c).tileIsLive n = (s1.core c).tileIsLive n ∧ (t.core c).tileIsInt n = (s1.core c).tileIsInt n) ∧
      (t.helm w).pc = s1.curPc + BitVec.ofNat 64 s1.curLen ∧ (t.helm w).acceptWait = none ∧ t.regs = s.regs ∧
      (t.helm w).ctr.get .mat = (s1.helm w).ctr.get .mat + (if op.kind = .mst then 1 else 0))) ∧
    (r.mayAccept = false → Completes i s (fun t => t = s1.setHelm w { s1.helm w with acceptWait := some op }))

/-- A Helm as the issuer of a matrix instruction, not yet ready for acceptance. -/
def issuingHelm (s : State) : State := s.setHelm s.curGroup.wg { s.helm s.curGroup.wg with acceptWait := none }

end Sys2Proof
end

