-- ==== Sys2Proof/Certificates/Slice0/Obligations.lean ====
section
/-! DEFINITION. The statements for the provers. -/

open Sys2Proof Sys2Proof.Machine

/-! ## Integer instructions (R326 to R339) -/

/-- R329: add, sub, neg and abs wrap modulo 2^w in every element; addc and subc take and write the carry register, a borrow
for subc. R329: adds and subs limit the exact result to the element's signed or unsigned range; SO[27] chooses. -/
def Obligations.IntegerAddSubResults : Prop :=
  (
  (∀ w, Carries (.addc w) (form32 w true true) (fun a b c => a + b + c)) ∧
  (∀ w, Carries (.addc64 w) (form64 w true) (fun a b c => a + b + c)) ∧
  (∀ w, Carries (.subc w) (form32 w true true) (fun a b c => a - b - c)) ∧
  (∀ w, Carries (.subc64 w) (form64 w true) (fun a b c => a - b - c)) ∧
  Both .add .add64 true true (Int2 · · (fun n a b => (a + b) % 2 ^ n)) ∧
  (∀ w, Int2 (.add16 w) (form16 w false) (fun n a b => (a + b) % 2 ^ n)) ∧
  Both .sub .sub64 true true (Int2 · · (fun n a b => (a + 2 ^ n - b) % 2 ^ n)) ∧
  (∀ w, Int2 (.sub16 w) (form16 w false) (fun n a b => (a + 2 ^ n - b) % 2 ^ n)) ∧
  Both .neg .neg64 false true (Int1 · · (fun n a => (2 ^ n - a) % 2 ^ n)) ∧
  Both .abs .abs64 false true (Int1 · · (fun n a => if a < 2 ^ (n - 1) then a else (2 ^ n - a) % 2 ^ n))
  ) ∧
  (
  let clamp := fun (n : Nat) (u : Bool) (x : Int) => ofInt n (max (intMin n (!u)) (min (intMax n (!u)) x))
  (∀ w, Int2 (.adds w) (form32 w true (!bitAt w.so 0))
    (fun n a b => clamp n (bitAt w.so 0) (elemInt n (!bitAt w.so 0) a + elemInt n (!bitAt w.so 0) b))) ∧
  (∀ w, Int2 (.adds64 w) (form64 w (!bitAt w.so 0))
    (fun n a b => clamp n (bitAt w.so 0) (elemInt n (!bitAt w.so 0) a + elemInt n (!bitAt w.so 0) b))) ∧
  (∀ w, Int2 (.subs w) (form32 w true (!bitAt w.so 0))
    (fun n a b => clamp n (bitAt w.so 0) (elemInt n (!bitAt w.so 0) a - elemInt n (!bitAt w.so 0) b))) ∧
  (∀ w, Int2 (.subs64 w) (form64 w (!bitAt w.so 0))
    (fun n a b => clamp n (bitAt w.so 0) (elemInt n (!bitAt w.so 0) a - elemInt n (!bitAt w.so 0) b)))
  )

/-- R328, R330: mul, mulh, mad and idot; the I64 forms of the first three are long-latency producers. -/
def Obligations.MultiplyFamilyResults : Prop :=
  let high := fun (sg : Bool) (cls n a b : Nat) => ofInt n (intClassProduct (elemInt n sg a) (elemInt n sg b) cls n / (2 ^ n : Nat))
  let dot := fun (sg : Bool) (cls : Nat) (_ : Tag) (tags : List Tag) (vs : List Word) (o : Word × Word) =>
    let n := tagWidth (tags.getD 0 0)
    let m := 64 / n
    o.2 = 0 ∧ ∀ h < 2, elemAt 32 o.1 h = ofInt 32 ((elemAt 32 (vs.getD 2 0) h : Nat) +
      ((List.range (m / 2)).map (fun j => intClassProduct (elemInt n sg (elemAt n (vs.getD 0 0) (j + h * (m / 2))))
        (elemInt n sg (elemAt n (vs.getD 1 0) (j + h * (m / 2)))) cls n)).sum)
  Both .mul .mul64 false true (fun i f => Computes i f 2 (sameTags isIntTag) immSplat onI64 (Each2 (fun n a b => a * b % 2 ^ n))) ∧
  (∀ w, Computes (.mulhS w) (form32 w false true) 2 (sameTags isIntTag) immSplat onI64 (Each2 (high true w.so.toNat))) ∧
  (∀ w, Computes (.mulhS64 w) (form64 w true) 2 (sameTags isIntTag) immSplat onI64 (Each2 (high true w.so.toNat))) ∧
  (∀ w, Computes (.mulhU w) (form32 w false true) 2 (sameTags isIntTag) immSplat onI64 (Each2 (high false w.so.toNat))) ∧
  (∀ w, Computes (.mulhU64 w) (form64 w true) 2 (sameTags isIntTag) immSplat onI64 (Each2 (high false w.so.toNat))) ∧
  Both .mad .mad64 false true
    (fun i f => Computes i f 3 (sameTags isIntTag) immSplat onI64 (Each3 (fun n a b c => (a * b + c) % 2 ^ n))) ∧
  (∀ w, Computes (.idotS w) (form32 w false true) 3 idotCheck immSplat never (dot true w.so.toNat)) ∧
  (∀ w, Computes (.idotS64 w) (form64 w true) 3 idotCheck immSplat never (dot true w.so.toNat)) ∧
  (∀ w, Computes (.idotU w) (form32 w false true) 3 idotCheck immSplat never (dot false w.so.toNat)) ∧
  (∀ w, Computes (.idotU64 w) (form64 w true) 3 idotCheck immSplat never (dot false w.so.toNat))

/-- R331: rnd is the counter hash of counter A and key B, bit for bit, tagged I64 and late; it is 0 where they are equal. -/
def Obligations.CounterHashResults : Prop :=
  let hash := fun (a b : Word) =>
    let round := fun (x : Word) => (x ^^^ (x >>> 31)) * 0x9E3779B97F4A7C15
    let x := round (round (round (a ^^^ b)))
    x ^^^ (x >>> 29)
  Both .rnd .rnd64 false true (fun i f => Computes i f 2 (sameTags isI64) (fun _ v => v) always (Word2 hash)) ∧ ∀ a, hash a a = 0

/-- R332: min and max choose an element, sel chooses A or B, with its tag, by a predicate, mov copies a register with its tag, lea forms A + B × 2^SO. -/
def Obligations.SelectionAndAddressResults : Prop :=
  let smaller := fun (sg : Bool) (n a b : Nat) => if elemInt n sg b < elemInt n sg a then b else a
  let larger := fun (sg : Bool) (n a b : Nat) => if elemInt n sg a < elemInt n sg b then b else a
  let ownTag := fun (tags : List Tag) => (.ok (tags.getD 0 0) : Except Nat Tag)
  (∀ w, Int2 (.min w) (form32 w true (!bitAt w.so 0)) (smaller (!bitAt w.so 0))) ∧
  (∀ w, Int2 (.min64 w) (form64 w (!bitAt w.so 0)) (smaller (!bitAt w.so 0))) ∧
  (∀ w, Int2 (.min16 w) (form16 w false) (smaller true)) ∧
  (∀ w, Int2 (.max w) (form32 w true (!bitAt w.so 0)) (larger (!bitAt w.so 0))) ∧
  (∀ w, Int2 (.max64 w) (form64 w (!bitAt w.so 0)) (larger (!bitAt w.so 0))) ∧
  (∀ w, Int2 (.max16 w) (form16 w false) (larger true)) ∧
  Both .mov .mov64 false true (fun i f => Computes i f 1 ownTag (fun _ v => v) never (Word1 (fun a => a))) ∧
  (∀ w : R16, (w.s ≠ 0 ∨ w.d ≠ 0) → Computes (.mov16 w) (form16 w true) 1 ownTag (fun _ v => v) never (Word1 (fun a => a))) ∧
  (∀ w, Computes (.lea w) (form32 w false true) 2 (sameTags isI64) (fun _ v => v) never
    (Word2 (fun a b => a + b * BitVec.ofNat 64 (2 ^ w.so.toNat)))) ∧
  (∀ w, Computes (.lea64 w) (form64 w true) 2 (sameTags isI64) (fun _ v => v) never
    (Word2 (fun a b => a + b * BitVec.ofNat 64 (2 ^ w.so.toNat)))) ∧
  (∀ (w : R64) (s : State), let f := form64 w true
    f.dUni = f.uniform → Readable s f ([f.a, f.b] ++ if f.uniform then [.uni f.kc false] else []) [f.dstSrc] →
    Completes (.sel w) s (fun t => OnlyResults s t ∧ t.fills = s.fills ∧ curFlags t = curFlags s ∧
      (∀ l ∈ allLanes s f,
        let x := if s.getPred f.uniform l f.kc then f.a else f.b
        t.reg (s.dstKey f l) = { bits := s.srcVal immSplat l x (s.srcTag l x f.a), tag := s.srcTag l x f.a, full := true }) ∧
      ∀ k, (∀ l ∈ allLanes s f, k ≠ s.dstKey f l) → t.reg k = s.reg k))

/-- R334: the logic instructions work on all 64 bits; the result has the sources' tag if they share one, else RAW. R335: the
shifts and the rotation, by B[j] mod w. R336 to R339: bit counts, bit fields, byte permutation and constants. -/
def Obligations.LogicShiftFieldResults : Prop :=
  (
  let logic2 := fun (r : Word → Word → Word) (i : Instr) (f : Form) => Computes i f 2 logicTag immSplat never (Word2 r)
  Both .and .and64 true false (logic2 (· &&& ·)) ∧ (∀ w, logic2 (· &&& ·) (.and16 w) (form16 w false)) ∧
  Both .or .or64 true false (logic2 (· ||| ·)) ∧ (∀ w, logic2 (· ||| ·) (.or16 w) (form16 w false)) ∧
  Both .xor .xor64 true false (logic2 (· ^^^ ·)) ∧ (∀ w, logic2 (· ^^^ ·) (.xor16 w) (form16 w false)) ∧
  Both .andn .andn64 true false (logic2 (fun a b => a &&& ~~~b)) ∧
  Both .not .not64 false false (fun i f => Computes i f 1 logicTag immSplat never (Word1 (fun a => ~~~a)))
  ) ∧
  (
  let shl := fun (n a b : Nat) => a * 2 ^ (b % n) % 2 ^ n
  let shr := fun (n a b : Nat) => a / 2 ^ (b % n)
  let sar := fun (n a b : Nat) => ofInt n (toSigned n a / (2 ^ (b % n) : Nat))
  let rol := fun (n a b : Nat) => (a * 2 ^ (b % n) + a / 2 ^ (n - b % n)) % 2 ^ n
  Both .shl .shl64 true false (Int2 · · shl) ∧ (∀ w, Int2 (.shl16 w) (form16 w false) shl) ∧
  Both .shr .shr64 true false (Int2 · · shr) ∧ (∀ w, Int2 (.shr16 w) (form16 w false) shr) ∧
  Both .sar .sar64 true false (Int2 · · sar) ∧ (∀ w, Int2 (.sar16 w) (form16 w false) sar) ∧
  Both .rol .rol64 true false (Int2 · · rol)
  ) ∧
  (
  let zeros := fun (l : List Nat) (a : Nat) => (l.takeWhile (fun i => !a.testBit i)).length
  let bfe := fun (sg imm : Bool) (n a c : Nat) =>
    let pos := c % 128
    let len := if imm then n - pos else min (c / 256 % 128) (n - pos)
    if n ≤ pos ∨ len = 0 then 0 else if sg then ofInt n (toSigned len (a / 2 ^ pos)) else a / 2 ^ pos % 2 ^ len
  let bfi := fun (imm : Bool) (n a c t : Nat) =>
    let pos := c % 128
    let len := if imm then n - pos else min (c / 256 % 128) (n - pos)
    if n ≤ pos ∨ len = 0 then t else t % 2 ^ pos + a % 2 ^ len * 2 ^ pos + t / 2 ^ (pos + len) * 2 ^ (pos + len)
  let perm := fun (_ : Tag) (_ : List Tag) (vs : List Word) (o : Word × Word) =>
    o.2 = 0 ∧ ∀ i < 8, let sel := elemAt 8 (vs.getD 1 0) i
      elemAt 8 o.1 i = if sel.testBit 7 then 0 else if sel % 16 < 8 then elemAt 8 (vs.getD 0 0) (sel % 16)
        else elemAt 8 (vs.getD 2 0) (sel % 16 - 8)
  let named := fun (t : Tag) (_ : List Tag) => (.ok t : Except Nat Tag)
  let keepLow := fun (imm d : Word) => BitVec.ofNat 64 (imm.toNat % 2 ^ 32 * 2 ^ 32 + d.toNat % 2 ^ 32)
  Both .clz .clz64 false false (Int1 · · (fun n a => zeros (List.range n).reverse a)) ∧
  Both .ctz .ctz64 false false (Int1 · · (fun n a => zeros (List.range n) a)) ∧
  Both .popc .popc64 false false (Int1 · · (fun n a => ((List.range n).filter (fun i => a.testBit i)).length)) ∧
  Both .brev .brev64 false false
    (Int1 · · (fun n a => ((List.range n).map (fun i => if a.testBit i then 2 ^ (n - 1 - i) else 0)).sum)) ∧
  (∀ w, Computes (.bfe w) (form32 w true false) 2 (sameTags isBitField) immSplat never (Each2 (bfe (!bitAt w.so 0) (bitAt w.so 1)))) ∧
  (∀ w, Computes (.bfe64 w) (form64 w false) 2 (sameTags isBitField) immSplat never (Each2 (bfe (!bitAt w.so 0) false))) ∧
  (∀ w, Computes (.bfi w) (form32 w true false) 3 (sameTags isBitField) immSplat never (Each3 (bfi (bitAt w.so 1)))) ∧
  (∀ w, Computes (.bfi64 w) (form64 w false) 3 (sameTags isBitField) immSplat never (Each3 (bfi false))) ∧
  Both .perm .perm64 true false (fun i f => Computes i f 3 aluPerm.check (fun _ v => splat 8 v.toNat) never perm) ∧
  (∀ m : Movi32, m.h = false → Computes (.movi m) { formNone with uniform := m.u, d := m.d.toNat, dUni := m.u } 0 (named m.t)
    (fun _ v => v) never (fun _ _ _ o => o = (m.k.signExtend 64, 0))) ∧
  (∀ m : Movi32, m.h = true →
    let f := { formNone with uniform := m.u, d := m.d.toNat, dUni := m.u }
    Computes (.movi m) { f with a := f.dstSrc } 1 (named m.t) (fun _ v => v) never (Word1 (keepLow (m.k.signExtend 64)))) ∧
  (∀ (t : Tag) (w : R64) (imm : BitVec 32) (d : BitVec 8), w.sh = .imm32 imm d → bitAt w.so 0 = false →
    Computes (.movi64 t w) (form64 w true) 0 (named t) (fun _ v => v) never (fun _ _ _ o => o = (imm.signExtend 64, 0))) ∧
  (∀ (t : Tag) (w : R64) (imm : BitVec 32) (d : BitVec 8), w.sh = .imm32 imm d → bitAt w.so 0 = true →
    Computes (.movi64 t w) { form64 w true with a := (form64 w true).dstSrc } 1 (named t) (fun _ v => v) never
      (Word1 (keepLow (imm.signExtend 64))))
  )

/-! ## Floating-point instructions (R349 to R360) -/

/-- R352: fadd, fsub, fmul, fma, fnma, fmin and fmax in every element of the format; flags are ORed. -/
def Obligations.FloatArithmeticResults : Prop :=
  let x := fun (l : List Nat) (n : Nat) => l.getD n 0
  let two := fun (r : Fmt → Nat → Nat → Nat × Word) (c32 cU : R32 → Instr) (c64 : R64 → Instr) =>
    (∀ w, Flt 2 bf16 (fun m l => r m (x l 0) (x l 1)) (c32 w) (form32 w false false)) ∧
    (∀ w, Flt 2 bf16 (fun m l => r m (x l 0) (x l 1)) (cU w) (form32 w false false)) ∧
    (∀ w, Flt 2 (immFmt w) (fun m l => r m (x l 0) (x l 1)) (c64 w) (formF w))
  let short := fun (r : Fmt → Nat → Nat → Nat × Word) (c : R16 → Instr) =>
    ∀ w, Flt 2 bf16 (fun m l => r m (x l 0) (x l 1)) (c w) (form16 w false)
  two Fmt.addCodes .fadd .faddUniform .fadd64 ∧ short Fmt.addCodes .fadd16 ∧
  two Fmt.subCodes .fsub .fsubUniform .fsub64 ∧ short Fmt.subCodes .fsub16 ∧
  two Fmt.minCodes .fmin .fminUniform .fmin64 ∧ short Fmt.minCodes .fmin16 ∧
  two Fmt.maxCodes .fmax .fmaxUniform .fmax64 ∧ short Fmt.maxCodes .fmax16 ∧
  (∀ w, Flt 2 bf16 (fun m l => m.mulCodes w.so.toNat (x l 0) (x l 1)) (.fmul w) (form32 w false false)) ∧
  (∀ w, Flt 2 bf16 (fun m l => m.mulCodes w.so.toNat (x l 0) (x l 1)) (.fmulUniform w) (form32 w false false)) ∧
  (∀ w, Flt 2 (immFmt w) (fun m l => m.mulCodes w.so.toNat (x l 0) (x l 1)) (.fmul64 w) (formF w)) ∧
  short (fun m => m.mulCodes 0) .fmul16 ∧
  (∀ w, Flt 3 bf16 (fun m l => m.fmaCodes w.so.toNat false (x l 0) (x l 1) (x l 2)) (.fma w) (form32 w false false)) ∧
  (∀ w, Flt 3 bf16 (fun m l => m.fmaCodes w.so.toNat false (x l 0) (x l 1) (x l 2)) (.fmaUniform w) (form32 w false false)) ∧
  (∀ w, Flt 3 bf16 (fun m l => m.fmaCodes w.so.toNat false (x l 0) (x l 1) (x l 2)) (.fma64 w) (form64 w false)) ∧
  (∀ w, Flt 3 bf16 (fun m l => m.fmaCodes w.so.toNat true (x l 0) (x l 1) (x l 2)) (.fnma w) (form32 w false false)) ∧
  (∀ w, Flt 3 bf16 (fun m l => m.fmaCodes w.so.toNat true (x l 0) (x l 1) (x l 2)) (.fnmaUniform w) (form32 w false false)) ∧
  (∀ w, Flt 3 bf16 (fun m l => m.fmaCodes w.so.toNat true (x l 0) (x l 1) (x l 2)) (.fnma64 w) (form64 w false))

/-- R355, R356: fabs and fneg change the sign bit alone, fclass writes a class mask under the integer tag of equal element
count, frnd and fscale work element by element, hadd, pack and swz move elements across a register. -/
def Obligations.FloatUnaryAndPackResults : Prop :=
  let x := fun (l : List Nat) (n : Nat) => l.getD n 0
  let build := fun (r : Nat → List Word → Nat → Nat) (g : Tag) (_ : List Tag) (vs : List Word) (o : Word × Word) =>
    o.2 = 0 ∧ ∀ j < 64 / tagWidth g, elemAt (tagWidth g) o.1 j = r (tagWidth g) vs j
  let halves := fun (n : Nat) (vs : List Word) (j : Nat) =>
    if j < 64 / n / 2 then elemAt n (vs.getD 0 0) j else elemAt n (vs.getD 1 0) (j - 64 / n / 2)
  let sums := fun (g : Tag) (_ : List Tag) (vs : List Word) (o : Word × Word) =>
    ∀ j < 64 / tagWidth g,
      let v := if j < 64 / tagWidth g / 2 then vs.getD 0 0 else vs.getD 1 0
      let k := if j < 64 / tagWidth g / 2 then j else j - 64 / tagWidth g / 2
      elemAt (tagWidth g) o.1 j =
        ((fmtD g).addCodes (elemAt (tagWidth g) v (2 * k)) (elemAt (tagWidth g) v (2 * k + 1))).1 % 2 ^ tagWidth g
  let pattern := fun (p n : Nat) (vs : List Word) (j : Nat) =>
    elemAt n (vs.getD 0 0) (if n = 16 then p / 4 ^ j % 4 else p / 2 ^ j % 2)
  let swz := fun (p : Nat) (i : Instr) (f : Form) =>
    Computes i f 1 (sameTags isSwzTag) (fun _ v => v) never (build (pattern p))
  Triple .fabs .fabsUniform .fabs64 (Flt 1 bf16 (fun m l => (x l 0 % 2 ^ (m.width - 1), 0))) ∧
  Triple .fneg .fnegUniform .fneg64 (Flt 1 bf16 (fun m l => ((x l 0 + 2 ^ (m.width - 1)) % 2 ^ m.width, 0))) ∧
  Triple .fclass .fclassUniform .fclass64 (fun i f => Computes i f 1 aluFclass.check (fun _ v => v) never (fun _ tags vs o =>
    let n := tagWidth (tags.getD 0 0)
    o.2 = 0 ∧ ∀ j < 64 / n, elemAt n o.1 j = (fmtD (tags.getD 0 0)).classMask (elemAt n (vs.getD 0 0) j) % 2 ^ n)) ∧
  (∀ w, Flt 1 bf16 (fun m l => m.roundIntegral (Mode.ofCode w.so.toNat) (x l 0)) (.frnd w) (form32 w false false)) ∧
  (∀ w, Flt 1 bf16 (fun m l => m.roundIntegral (Mode.ofCode w.so.toNat) (x l 0)) (.frndUniform w) (form32 w false false)) ∧
  (∀ w, Flt 1 bf16 (fun m l => m.roundIntegral (Mode.ofCode w.so.toNat) (x l 0)) (.frnd64 w) (form64 w false)) ∧
  (∀ w, Computes (.fscale w) (form32 w false false) 2 (fscaleCheck false) immSplat never
    (EachFloat (fun m l => m.scaleCode (x l 0) (toSigned m.width (x l 1))))) ∧
  (∀ w, Computes (.fscaleUniform w) (form32 w false false) 2 (fscaleCheck false) immSplat never
    (EachFloat (fun m l => m.scaleCode (x l 0) (toSigned m.width (x l 1))))) ∧
  (∀ w, Computes (.fscale64 w) (form64 w true) 2 (fscaleCheck (hasImm16 w)) immSplat never
    (EachFloat (fun m l => m.scaleCode (x l 0) (toSigned m.width (x l 1))))) ∧
  Triple .hadd .haddUniform .hadd64 (fun i f => Computes i f 2 (sameTags isPackedFp) (immFloat bf16) never sums) ∧
  Triple .pack .packUniform .pack64 (fun i f => Computes i f 2 (sameTags isPackTag) (immFloat bf16) never (build halves)) ∧
  (∀ w : R32, swz (w.so.toNat * 64 + w.b.toNat) (.swz w) (form32 w false false)) ∧
  (∀ w : R32, swz (w.so.toNat * 64 + w.b.toNat) (.swzUniform w) (form32 w false false)) ∧
  (∀ w : R64, swz (swzPattern w) (.swz64 w) (form64 w false))

/-- R354: fdot adds, in each half, a chain of class products to the FP32 addend. R358, R359: the special functions of
each element, as long-latency producers. -/
def Obligations.DotAndSpecialFunctionResults : Prop :=
  let dot := fun (cls : Nat) (_ : Tag) (tags : List Tag) (vs : List Word) (o : Word × Word) =>
    let n := tagWidth (tags.getD 0 0)
    let half := fun (h : Nat) => dotChain f32 (elemAt 32 (vs.getD 2 0) h) ((List.range (64 / n / 2)).map (fun j =>
      dotProduct (tags.getD 0 0) (tags.getD 1 0) cls (elemAt n (vs.getD 0 0) (j + h * (64 / n / 2)))
        (elemAt n (vs.getD 1 0) (j + h * (64 / n / 2)))))
    o.2 = (half 0).2 ||| (half 1).2 ∧ ∀ h < 2, elemAt 32 o.1 h = (half h).1 % 2 ^ 32
  let special := fun (fn cls : Nat) (i : Instr) (f : Form) =>
    Computes i f 1 (sameTags isPackedFp) (fun _ v => v) always (EachFloat (fun m l => m.special fn cls (l.getD 0 0)))
  (∀ w, Computes (.fdot w) (form32 w false false) 3 fdotCheck (immFloat bf16) never (dot w.so.toNat)) ∧
  (∀ w, Computes (.fdotUniform w) (form32 w false false) 3 fdotCheck (immFloat bf16) never (dot w.so.toNat)) ∧
  (∀ w, Computes (.fdot64 w) (form64 w false) 3 fdotCheck (immFloat bf16) never (dot w.so.toNat)) ∧
  (∀ (fn : BitVec 3) (w : R32), special fn.toNat w.so.toNat (.specialFunction fn w) (form32 w false false)) ∧
  (∀ (fn : BitVec 3) (w : R32), special fn.toNat w.so.toNat (.specialFunctionUniform fn w) (form32 w false false)) ∧
  (∀ (fn : BitVec 3) (w : R64), special fn.toNat w.so.toNat (.specialFunction64 fn w) (form64 w false))

/-! ## Carries, selection, predicates -/

/-- R333, R357, R371: cmp, fcmp and gterm write true only where the relation holds for every element; U has no effect on eq and ne; an
unordered element makes fcmp's eq, lt, le, gt, ge and ord false and its ne and uno true. -/
def Obligations.ComparisonResults : Prop :=
  let cmp := fun (fn : Nat) (sg : Bool) (tags : List Tag) (vs : List Word) (o : Bool × Word) =>
    let n := tagWidth (tags.getD 0 0)
    let rel := fun (a b : Int) => match fn with
      | 0 => a = b | 1 => a ≠ b | 2 => a < b | 3 => a ≤ b | 4 => b < a | _ => b ≤ a
    o.2 = 0 ∧ (o.1 = true ↔ ∀ j < 64 / n, rel (elemInt n sg (elemAt n (vs.getD 0 0) j)) (elemInt n sg (elemAt n (vs.getD 1 0) j)))
  let fcmp := fun (fn : Nat) (tags : List Tag) (vs : List Word) (o : Bool × Word) =>
    let n := tagWidth (tags.getD 0 0)
    let va := fun (j : Nat) => (fmtD (tags.getD 0 0)).decode (elemAt n (vs.getD 0 0) j)
    let vb := fun (j : Nat) => (fmtD (tags.getD 0 0)).decode (elemAt n (vs.getD 1 0) j)
    let un := fun (j : Nat) => (va j).isNaN = true ∨ (vb j).isNaN = true
    let rel := fun (j : Nat) => match fn with
      | 0 => ¬un j ∧ (va j).eqv (vb j) = true | 1 => un j ∨ (va j).eqv (vb j) = false
      | 2 => ¬un j ∧ (va j).lt (vb j) = true | 3 => ¬un j ∧ (vb j).lt (va j) = false
      | 4 => ¬un j ∧ (vb j).lt (va j) = true | 5 => ¬un j ∧ (va j).lt (vb j) = false
      | 6 => ¬un j | _ => un j
    let invalid := fun (j : Nat) =>
      if 2 ≤ fn ∧ fn ≤ 5 then un j else (va j).signalling = true ∨ (vb j).signalling = true
    (o.1 = true ↔ ∀ j < 64 / n, rel j) ∧ ((∃ j < 64 / n, invalid j) → o.2 = flagNV) ∧ ((∀ j < 64 / n, ¬invalid j) → o.2 = 0)
  let gterm := fun (_ : List Tag) (vs : List Word) (o : Bool × Word) =>
    o = ((f32.decode (elemAt 32 (vs.getD 0 0) 1)).lt (.num false 1 (-13)), 0)
  let signed := fun (fn : BitVec 3) (so : BitVec 2) => decide (fn.toNat < 2) || !bitAt so 0
  (∀ (fn : BitVec 3) (w : R32), Tests (.cmp fn w) (form32 w true (signed fn w.so)) 2 (sameTagsOnly isIntTag) immSplat (cmp fn.toNat (signed fn w.so))) ∧
  (∀ (fn : BitVec 3) (w : R64), Tests (.cmp64 fn w) (form64 w (signed fn w.so)) 2 (sameTagsOnly isIntTag) immSplat (cmp fn.toNat (signed fn w.so))) ∧
  (∀ (fn : BitVec 3) (w : R32), Tests (.fcmp fn w) (form32 w false false) 2 (sameTagsOnly isFpTag) (immFloat bf16) (fcmp fn.toNat)) ∧
  (∀ (fn : BitVec 3) (w : R32), Tests (.fcmpUniform fn w) (form32 w false false) 2 (sameTagsOnly isFpTag) (immFloat bf16) (fcmp fn.toNat)) ∧
  (∀ (fn : BitVec 3) (w : R64), Tests (.fcmp64 fn w) (form64 w false) 2 (sameTagsOnly isFpTag) (immFloat bf16) (fcmp fn.toNat)) ∧
  Both .gterm .gterm64 false false (fun i f => Tests i f 1 predGterm.check (fun _ v => v) gterm)

/-- R360: cvt converts each element: into a narrower format A's elements and then those of the register B, into a wider
one A's elements from the offset on. The B field is checked in every thread of the bundle, whatever the guard (R313). -/
def Obligations.ConversionResults : Prop :=
  let role := fun (s : State) (f : Form) (t : Tag) (l : Nat) => cvtRole (s.srcTagOf l f.a) t
  let legal := fun (f : Form) (ops : State → CvtOps) (t : Tag) (s : State) =>
    (∀ l ∈ (if f.uniform || s.curHelm then [0] else s.curLanes), cvtIllegal (ops s) (s.srcTagOf l f.a) t = none) ∧
    ∀ l ∈ s.trapSet f ++ helperLanes s f, role s f t l = .register → s.isEmpty l f.b = false
  let compute := fun (f : Form) (ops : State → CvtOps) (t : Tag) (s : State) (l : Nat) =>
    let src := s.srcTagOf l f.a
    let n := tagWidth src
    match cvtElem src (ops s).unsigned, cvtElem t (ops s).unsigned with
    | some es, some ed =>
      if !cvtTarget t then .error 3
      else if role s f t l = .register ∧ s.srcTagOf l f.b ≠ src then .error 1
      else
        let codes := if tagWidth t < n then elems n (s.srcBits l f.a) ++ elems n (s.srcBits l f.b)
          else (List.range (64 / tagWidth t)).map (fun j => elemAt n (s.srcBits l f.a) ((ops s).bnum + j))
        let r := codes.map (fun c => convert c es ed (ops s).mode (ops s).sat)
        (.ok { writes := [(f.dstSrc, t, ofElems (tagWidth t) (r.map (·.1)))], flags := (r.map (·.2)).foldl (· ||| ·) 0 } : Except Nat LaneOut)
    | some _, none => .error 3
    | none, _ => .error 0
  let one := fun (i : Instr) (f : Form) (ops : State → CvtOps) (t : Tag) =>
    ComputesMany i f (fun _ => [f.a]) [f.dstSrc] false (legal f ops t) (compute f ops t)
  (∀ t w, one (.cvt t w) (form32 w false false) (fun _ => cvtOps32 w) t) ∧
  (∀ t w, one (.cvtUniform t w) (form32 w false false) (fun _ => cvtOps32 w) t) ∧
  (∀ t w, one (.cvt64 t w) (form64 w false) (fun s => cvtOps64 w s.curHelm) t)

/-! ## Lanes and splats (R361 to R371) -/

/-- R362: a shuffle copies a lane's register, its elements rotated; a lane out of range or not active gives a lane its own.
R363: qswap copies the register of a quad-mate; qddx and qddy subtract along a row and a column; a mate that holds no thread reads as
zero, with the reading lane's own tag by the model's choice (log entry 63). -/
def Obligations.ShuffleAndQuadResults : Prop :=
  (
  let pre := fun (f : Form) (s : State) => ∀ l ∈ s.active f, (∃ v, f.b = .imm v) ∨ s.srcTagOf l f.b = 1
  let value := fun (kind : Nat) (f : Form) (s : State) (l : Nat) (t : Tag) (v : Word) =>
    let n := match f.b with | .imm v => v.toNat | _ => (s.srcBits l f.b).toNat
    let wanted : Int := match kind with
      | 0 => (n % 32 : Nat) | 1 => (l : Int) - (n % 32 : Nat) | 2 => (l : Int) + (n % 32 : Nat) | _ => (l ^^^ (n % 32) : Nat)
    let rotate := if kind = 0 then n / 32 % 32 else 0
    ∃ m : Nat, (if 0 ≤ wanted ∧ wanted.toNat ∈ s.active f then m = wanted.toNat else m = l) ∧ t = s.srcTagOf m f.a ∧
      ∀ j < 64 / tagWidth t, elemAt (tagWidth t) v j = elemAt (tagWidth t) (s.srcBits m f.a) ((j + rotate) % (64 / tagWidth t))
  (∀ (k : BitVec 3) (w : R32), k.toNat < 4 →
    Crosses (.shfl k w) (form32 w true false) [(form32 w true false).a, (form32 w true false).b] (pre (form32 w true false))
      (value k.toNat (form32 w true false))) ∧
  (∀ (k : BitVec 3) (w : R64), k.toNat < 4 →
    Crosses (.shfl64 k w) (form64 w false) [(form64 w false).a, (form64 w false).b] (pre (form64 w false)) (value k.toNat (form64 w false)))
  ) ∧
  (
  let holds := fun (s : State) (m : Nat) => (s.thread (s.curThread m)).live = true ∨ (s.thread (s.curThread m)).killed = false
  let readable := fun (f : Form) (reads : Nat → List Nat) (s : State) =>
    f.uniform = false ∧ ∀ l ∈ s.active f ++ s.activeHelpers f, ∀ m ∈ reads l, holds s m → s.isEmpty m f.a = false
  let read := fun (f : Form) (s : State) (l m : Nat) =>
    if holds s m then (s.srcTagOf m f.a, s.srcBits m f.a) else (s.srcTagOf l f.a, 0)
  let swap := fun (mode : Nat) (f : Form) (s : State) (l : Nat) =>
    (.ok { writes := [(f.dstSrc, read f s l (l ^^^ mode))], flags := 0 } : Except Nat LaneOut)
  let diff := fun (bit : Nat) (f : Form) (s : State) (l : Nat) =>
    let hi := l ||| bit
    let lo := hi ^^^ bit
    let t := (read f s l hi).1
    let r := ((elems (tagWidth t) (read f s l hi).2).zip (elems (tagWidth t) (read f s l lo).2)).map (fun p => (fmtD t).subCodes p.1 p.2)
    if isPackedFp t = true ∧ (read f s l lo).1 = t then
      (.ok { writes := [(f.dstSrc, t, ofElems (tagWidth t) (r.map (·.1)))], flags := (r.map (·.2)).foldl (· ||| ·) 0 } : Except Nat LaneOut)
    else .error 0
  let swaps := fun (mode : Nat) (i : Instr) (f : Form) => (mode = 1 ∨ mode = 2 ∨ mode = 3) →
    ComputesMany i f (fun _ => []) [f.dstSrc] false (readable f (fun l => [l ^^^ mode])) (swap mode f)
  let diffs := fun (bit : Nat) (i : Instr) (f : Form) =>
    ComputesMany i f (fun _ => []) [f.dstSrc] false (readable f (fun l => [l ||| bit, (l ||| bit) ^^^ bit])) (diff bit f)
  (∀ w, swaps w.b.toNat (.qswap w) (form32 w false false)) ∧ (∀ w, swaps (qswapMode w) (.qswap64 w) (form64 w false)) ∧
  Both .qddx .qddx64 false false (diffs 1) ∧ Both .qddy .qddy64 false false (diffs 2)
  )

/-- R365: lred gives every active lane the combination over all active lanes; lscan over those up to it, or below it. R366:
the floating-point reductions and scans are left folds in ascending lane order, rounded at each step. -/
def Obligations.ReductionAndScanResults : Prop :=
  (
  let smaller := fun (sg : Bool) (n a b : Nat) => if elemInt n sg b < elemInt n sg a then b else a
  let larger := fun (sg : Bool) (n a b : Nat) => if elemInt n sg a < elemInt n sg b then b else a
  let op := fun (k : Nat) (sg : Bool) (n a b : Nat) => match k with
    | 0 => (a + b) % 2 ^ n | 1 => smaller sg n a b | 2 => larger sg n a b | 3 => a &&& b | 4 => a ||| b | _ => a ^^^ b
  let identity := fun (k : Nat) (sg : Bool) (n : Nat) => match k with
    | 1 => if sg then 2 ^ (n - 1) - 1 else 2 ^ n - 1 | 2 => if sg then 2 ^ (n - 1) else 0 | 3 => 2 ^ n - 1 | _ => 0
  let same := fun (f : Form) (s : State) => ∃ g, isIntTag g = true ∧ ∀ l ∈ s.active f, s.srcTagOf l f.a = g
  let value := fun (k : Nat) (sg : Bool) (joins : Nat → Nat → Bool) (f : Form) (s : State) (l : Nat) (t : Tag) (v : Word) =>
    t = s.srcTagOf l f.a ∧ ∀ j < 64 / tagWidth t, elemAt (tagWidth t) v j =
      (((s.active f).filter (joins l)).map (fun m => elemAt (tagWidth t) (s.srcBits m f.a) j)).foldl (op k sg (tagWidth t)) (identity k sg (tagWidth t))
  let all := fun (_ _ : Nat) => true
  let upTo := fun (excl : Bool) (l m : Nat) => if excl then decide (m < l) else decide (m ≤ l)
  (∀ (k : BitVec 3) (w : R32), Crosses (.lred k w) (form32 w false false) [(form32 w false false).a] (same (form32 w false false))
    (value k.toNat (!bitAt w.so 0) all (form32 w false false))) ∧
  (∀ (k : BitVec 3) (w : R64), Crosses (.lred64 k w) (form64 w false) [(form64 w false).a] (same (form64 w false))
    (value k.toNat (!bitAt w.so 0) all (form64 w false))) ∧
  (∀ (k : BitVec 3) (w : R32), Crosses (.lscan k w) (form32 w false false) [(form32 w false false).a] (same (form32 w false false))
    (value k.toNat (!bitAt w.so 0) (upTo (bitAt w.so 1)) (form32 w false false))) ∧
  (∀ (k : BitVec 3) (w : R64), Crosses (.lscan64 k w) (form64 w false) [(form64 w false).a] (same (form64 w false))
    (value k.toNat (!bitAt w.so 0) (upTo (bitAt w.so 1)) (form64 w false)))
  ) ∧
  (
  let op := fun (k : Nat) (f : Fmt) (a b : Nat) =>
    (match k with | 0 => f.addCodes a b | 1 => f.minCodes a b | _ => f.maxCodes a b).1 % 2 ^ f.width
  let identity := fun (k : Nat) (f : Fmt) => match k with
    | 0 => 2 ^ (f.width - 1) | 1 => f.infCode | _ => 2 ^ (f.width - 1) + f.infCode
  let same := fun (f : Form) (s : State) => ∃ g, isFpTag g = true ∧ ∀ l ∈ s.active f, s.srcTagOf l f.a = g
  let value := fun (k : Nat) (joins : Nat → Nat → Bool) (f : Form) (s : State) (l : Nat) (t : Tag) (v : Word) =>
    t = s.srcTagOf l f.a ∧ ∀ j < 64 / tagWidth t, elemAt (tagWidth t) v j =
      match ((s.active f).filter (joins l)).map (fun m => elemAt (tagWidth t) (s.srcBits m f.a) j) with
      | [] => identity k (fmtD t)
      | x :: rest => rest.foldl (op k (fmtD t)) x
  let all := fun (_ _ : Nat) => true
  let upTo := fun (excl : Bool) (l m : Nat) => if excl then decide (m < l) else decide (m ≤ l)
  (∀ (k : BitVec 3) (w : R32), Crosses (.lredFloat k w) (form32 w false false) [(form32 w false false).a] (same (form32 w false false))
    (value k.toNat all (form32 w false false))) ∧
  (∀ (k : BitVec 3) (w : R64), Crosses (.lredFloat64 k w) (form64 w false) [(form64 w false).a] (same (form64 w false))
    (value k.toNat all (form64 w false))) ∧
  (∀ (k : BitVec 3) (w : R32), Crosses (.lscanFloat k w) (form32 w false false) [(form32 w false false).a] (same (form32 w false false))
    (value k.toNat (upTo (bitAt w.so 1)) (form32 w false false))) ∧
  (∀ (k : BitVec 3) (w : R64), Crosses (.lscanFloat64 k w) (form64 w false) [(form64 w false).a] (same (form64 w false))
    (value k.toNat (upTo (bitAt w.so 1)) (form64 w false)))
  )

/-- R364: the votes write one answer to k of every active lane; ballot and amask write lane masks and tos the register of
the lowest active lane to an s register, once, and nothing where no lane is active. -/
def Obligations.VoteAndMaskResults : Prop :=
  let votes := fun (v : List Bool → Bool) (i : Instr) (f : Form) => ∀ s : State,
    Completes i s (fun t => t = { s.advance with threads := t.threads } ∧
      PutsPred s t false ((s.active f).flatMap (fun l => l :: s.followers l)) f.d
        (fun _ => v ((s.active f).map (fun l => (s.thread (s.curThread l)).kAt f.a.num))))
  let writes := fun (reads : Bool) (R : State → Form → Tag → Word → Prop) (i : Instr) (f : Form) => ∀ s : State, Bundle s →
    ReadableIn s (s.active f) (if reads then [f.a] else []) [.uni f.d false] →
    Completes i s (fun t => if s.active f = [] then t = s.advance else ∃ g v, R s f g v ∧ t = (s.putReg (s.uniKey f.d) g v).advance)
  let mask := fun (p : State → Form → Nat → Bool) (s : State) (f : Form) (g : Tag) (v : Word) =>
    g = 1 ∧ ∀ l < 64, v.getLsbD l = decide (l ∈ s.active f ∧ p s f l = true)
  Both .voteAny .voteAny64 false false (votes (fun ks => ks.any id)) ∧
  Both .voteAll .voteAll64 false false (votes (fun ks => ks.all id)) ∧
  Both .voteEq .voteEq64 false false (votes (fun ks => ks.all id || !ks.any id)) ∧
  Both .ballot .ballot64 false false (writes false (mask (fun s f l => (s.thread (s.curThread l)).kAt f.a.num))) ∧
  Both .amask .amask64 false false (writes false (mask (fun _ _ _ => true))) ∧
  Both .tos .tos64 false false (writes true (fun s f g v =>
    ∃ l ∈ s.active f, (∀ m ∈ s.active f, l ≤ m) ∧ g = s.srcTagOf l f.a ∧ v = s.srcBits l f.a))

/-- R368 to R370: gkey joins a tile and a sortable depth, galpha computes α from the conic and the opacity, gover blends a
colour into an accumulator. -/
def Obligations.SplatResults : Prop :=
  let notF32 := fun (s : State) (l : Nat) (os : List (Nat × Src)) => os.find? (fun o => s.srcTagOf l o.2 != 7)
  let key := fun (f : Form) (s : State) (l : Nat) =>
    if s.srcTagOf l f.a ≠ 1 ∧ s.srcTagOf l f.a ≠ 2 then (.error 0 : Except Nat LaneOut)
    else if s.srcTagOf l f.b ≠ 7 then .error 1
    else
      let d := elemAt 32 (s.srcBits l f.b) 0
      let order := if d < 2 ^ 31 then d + 2 ^ 31 else 2 ^ 32 - 1 - d
      .ok { writes := [(f.dstSrc, 1, BitVec.ofNat 64 (elemAt 32 (s.srcBits l f.a) 0 * 2 ^ 32 + order))], flags := 0 }
  let alpha := fun (cls : Nat) (f : Form) (s : State) (l : Nat) =>
    match notF32 s l [(0, f.a), (1, f.b), (1, f.b.succ 1), (2, f.dstSrc)] with
    | some o => (.error o.1 : Except Nat LaneOut)
    | none =>
      let x := fun (r : Src) (j : Nat) => elemAt 32 (s.srcBits l r) j
      let r := splatAlpha cls (x f.a 0) (x f.a 1) (x f.b 0) (x f.b 1) (x (f.b.succ 1) 0) (x (f.b.succ 1) 1)
      .ok { writes := [(f.dstSrc, 7, ofElems 32 [x f.dstSrc 0, r.1])], flags := r.2 }
  let blends := fun (f : Form) (s : State) (l : Nat) =>
    match notF32 s l [(0, f.a), (0, f.a.succ 1), (2, f.dstSrc), (2, f.dstSrc.succ 1)] with
    | some o => (.error o.1 : Except Nat LaneOut)
    | none =>
      let x := fun (r : Src) (j : Nat) => elemAt 32 (s.srcBits l r) j
      let w := f32.mulCodes 0 (x (f.dstSrc.succ 1) 1) (x (f.a.succ 1) 1)
      let blend := fun (acc col : Nat) =>
        let p := f32.mulCodes 0 w.1 col
        ((f32.addCodes acc p.1).1, p.2 ||| (f32.addCodes acc p.1).2)
      let r := blend (x f.dstSrc 0) (x f.a 0)
      let g := blend (x f.dstSrc 1) (x f.a 1)
      let b := blend (x (f.dstSrc.succ 1) 0) (x (f.a.succ 1) 0)
      let t := f32.subCodes (x (f.dstSrc.succ 1) 1) w.1
      .ok { writes := [(f.dstSrc, 7, ofElems 32 [r.1, g.1]), (f.dstSrc.succ 1, 7, ofElems 32 [b.1, t.1])]
            flags := w.2 ||| r.2 ||| g.2 ||| b.2 ||| t.2 }
  let many := fun (srcs : Form → List Src) (dsts : Form → List Src) (late : Bool) (c : Form → State → Nat → Except Nat LaneOut) (i : Instr) (f : Form) =>
    ComputesMany i f (fun _ => srcs f) (dsts f) late (fun _ => True) (c f)
  let alphas := fun (cls : Nat) => many (fun f => [f.a, f.b, f.b.succ 1, f.dstSrc]) (fun f => [f.dstSrc]) true (alpha cls)
  Both .gkey .gkey64 false false (many (fun f => [f.a, f.b]) (fun f => [f.dstSrc]) false key) ∧
  (∀ w, alphas w.so.toNat (.galpha w) (form32 w false false)) ∧ (∀ w, alphas w.so.toNat (.galpha64 w) (form64 w false)) ∧
  Both .gover .gover64 false false
    (many (fun f => [f.a, f.a.succ 1, f.dstSrc, f.dstSrc.succ 1]) (fun f => [f.dstSrc, f.dstSrc.succ 1]) false blends)

/-! ## Numbers (R251 to R261) -/

/-- R259: the canonical NaN of each format that has one. R256: rounding to nearest is off by at most half a unit, and by half
a unit only onto an even multiple; the directed modes never pass the value on their side. R256, R258: a value that a format
holds is its own rounding, with no flag, in every format of R251 and every mode. R357: the order of two finite numbers is that
of their rational values, whatever their exponents. R369: α of a splat at a pixel is +0, or lies between 1/256 and the
greatest FP32 number below 255/256 + ε that the rule names. -/
def Obligations.NumberFormatLaws : Prop :=
  (
  f64.canonNaN = 0x7FF8000000000000 ∧ f32.canonNaN = 0x7FC00000 ∧ f16.canonNaN = 0x7E00 ∧ bf16.canonNaN = 0x7FC0 ∧
  e4m3.canonNaN = 0x7F ∧ e5m2.canonNaN = 0x7E
  ) ∧
  (
  let near := fun (r m d : Nat) => 2 * (r * d) ≤ 2 * m + d ∧ 2 * m ≤ 2 * (r * d) + d ∧
    (2 * (r * d) = 2 * m + d ∨ 2 * m = 2 * (r * d) + d → r % 2 = 0)
  let below := fun (r m d : Nat) => r * d ≤ m ∧ m < (r + 1) * d
  let above := fun (r m d : Nat) => m ≤ r * d ∧ r * d < m + d
  ∀ (neg : Bool) (m : Nat) (e q : Int) (d : Nat), e < q → d = 2 ^ (q - e).toNat →
    near (roundAt .rne neg m e q).1 m d ∧ below (roundAt .rz neg m e q).1 m d ∧
    (if neg then below (roundAt .rp neg m e q).1 m d else above (roundAt .rp neg m e q).1 m d) ∧
    (if neg then above (roundAt .rm neg m e q).1 m d else below (roundAt .rm neg m e q).1 m d)
  ) ∧
  (
  ∀ f ∈ [f64, f32, f16, bf16, e4m3, e5m2, e2m1], ∀ (code : Nat) (mode : Mode) (sat neg : Bool) (m : Nat) (e : Int),
    code < 2 ^ f.width → f.decode code = .num neg m e → f.round mode sat neg m e = (code, 0)
  ) ∧
  (
  ∀ (na nb : Bool) (ma mb : Nat) (ea eb : Int),
    let value := fun (neg : Bool) (m : Nat) (e : Int) => (if neg then (-1 : ℚ) else 1) * m * (2 : ℚ) ^ e
    ((FVal.num na ma ea).lt (.num nb mb eb) = true ↔ value na ma ea < value nb mb eb) ∧
    ((FVal.num na ma ea).eqv (.num nb mb eb) = true ↔ value na ma ea = value nb mb eb)
  ) ∧
  (
  ∀ cls dx dy a b c o : Nat, let r := (splatAlpha cls dx dy a b c o).1
    r = 0 ∨ 0x3B800000 ≤ r ∧ r ≤ 0x3F7F0000
  )

/-! ## Control flow (R340 to R348) -/

/-- R340 to R342: bra, bc, jmp, call and ret move the lanes that take them to their targets and write no register but the
return address of a call. R340, R341: a Helm's bra and bc move its PC alone; bc tests the h register of its number. -/
def Obligations.BranchResults : Prop :=
  (
  let parcels := fun (n : Nat) (o : BitVec n) => BitVec.ofInt 64 (2 * o.toInt)
  let jumps := fun (link : Bool) (f : Form) (i : Instr) => ∀ s : State, s.curHelm = false → Bundle s →
    (∀ l ∈ s.active f, s.srcTagOf l f.a = 1) →
    ReadableIn s (s.active f ++ if link then s.activeHelpers f else []) [f.a] (if link then [.lane f.d false] else []) →
    Completes i s (fun t => Transfers s t (fun l => decide (l ∈ s.active f)) (fun l => s.srcBits l f.a) ∧
      (∀ k, (∀ l ∈ s.active f ++ s.activeHelpers f, link = true → k ≠ s.laneKey l f.d) → t.reg k = s.reg k) ∧
      (link = true → ∀ l ∈ s.active f, bitAt (s.srcBits l f.a) 0 = false →
        t.reg (s.laneKey l f.d) = { bits := s.curPc + BitVec.ofNat 64 s.curLen, tag := 1, full := true }))
  (∀ (o : BitVec 23) (s : State), s.curHelm = false → Bundle s →
    Completes (.bra o) s (fun t => Transfers s t (fun _ => true) (fun _ => s.curPc + parcels 23 o) ∧ t.regs = s.regs)) ∧
  (∀ (o : BitVec 19) (n : Bool) (k : BitVec 3) (s : State), s.curHelm = false → Bundle s →
    Completes (.bc o n k) s (fun t => t.regs = s.regs ∧
      Transfers s t (fun l => (s.thread (s.curThread l)).kAt k.toNat != n) (fun _ => s.curPc + parcels 19 o))) ∧
  (∀ (o : BitVec 17) (d : BitVec 6) (s : State), s.curHelm = false → Bundle s →
    ReadableIn s (s.curLanes ++ s.helpers) [] [.lane d.toNat false] →
    Completes (.callRel o d) s (fun t => Transfers s t (fun _ => true) (fun _ => s.curPc + parcels 17 o) ∧
      (∀ l ∈ s.curLanes, t.reg (s.laneKey l d.toNat) = { bits := s.curPc + BitVec.ofNat 64 s.curLen, tag := 1, full := true }) ∧
      ∀ k, (∀ l ∈ s.curLanes ++ s.helpers, k ≠ s.laneKey l d.toNat) → t.reg k = s.reg k)) ∧
  (∀ w, jumps false (form32 w false false) (.jmpV w)) ∧ (∀ w, jumps false (form64 w false) (.jmpV64 w)) ∧
  (∀ w, jumps false (formUniA w) (.jmpS w)) ∧ (∀ w, jumps false (form64 w false) (.jmpS64 w)) ∧
  (∀ w, jumps true (formUniA w) (.call w)) ∧ (∀ w, jumps true (form64 w false) (.call64 w)) ∧
  (∀ w, jumps false (form32 w false false) (.ret w)) ∧ (∀ w, jumps false (form64 w false) (.ret64 w))
  ) ∧
  (
  let parcels := fun (n : Nat) (o : BitVec n) => BitVec.ofInt 64 (2 * o.toInt)
  let moved := fun (s : State) (pc : Word) => s.setHelm s.curGroup.wg { s.helm s.curGroup.wg with pc := pc, wait := .none, hang := 0 }
  (∀ (o : BitVec 23) (s : State), s.curHelm = true → Completes (.bra o) s (fun t => t = moved s (s.curPc + parcels 23 o))) ∧
  (∀ (o : BitVec 19) (n : Bool) (k : BitVec 3) (s : State), s.curHelm = true → ReadableIn s [0] [.uni k.toNat false] [] →
    Completes (.bc o n k) s (fun t => t = moved s (if ((s.reg (s.uniKey k.toNat)).bits != 0) != n then s.curPc + parcels 19 o
      else s.curPc + BitVec.ofNat 64 s.curLen)))
  )

/-- R343: exit ends the threads of its active lanes, and in a matrix stream the Helm; the others move on. It waits while the
group's last threads have operations unfinished, or its publication cannot complete. R344: yield gives the group's next issue
to a bundle above it and clears the backward-branch count; nap makes the active lanes wait 16 × n cycles where they stand, and
nap #0 is yield. R275, R345: trap takes TRAPINSN in every active lane, with TRAP_PC at the next instruction and the code in
TRAP_INFO; registers and memory keep their values. -/
def Obligations.ExitYieldNapTrapResults : Prop :=
  (
  let ready := fun (s : State) (f : Form) =>
    (s.lastLanes s.curGroup (s.active f) = true → (s.group s.curGroup).ctr = Counters.zero) ∧
    (s.group s.curGroup).pendingPub = [] ∧ s.pubReady s.curGroup = true
  let ends := fun (i : Instr) (f : Form) => ∀ s : State, Bundle s →
    (s.curHelm = false → s.active f = [] → exec i s = .next s.advance) ∧
    (s.curHelm = false → s.active f ≠ [] → ¬ready s f → exec i s = .next s) ∧
    (s.curHelm = false → s.active f ≠ [] → ready s f → Completes i s (fun t =>
      (∀ l ∈ s.active f, (t.thread (s.curThread l)).live = false) ∧
      (∀ l ∈ s.curLanes, l ∉ s.active f → (t.thread (s.curThread l)).live = true ∧
        (t.thread (s.curThread l)).pc = s.curPc + BitVec.ofNat 64 s.curLen) ∧
      (∀ id, (∀ l ∈ s.curLanes, id ≠ s.curThread l) → (t.thread id).live = (s.thread id).live ∧ (t.thread id).pc = (s.thread id).pc) ∧
      t.regs = s.regs ∧ t.mem = s.mem)) ∧
    (s.curHelm = true → s.capturePending s.curGroup.wg = true → exec i s = .next s) ∧
    (s.curHelm = true → s.capturePending s.curGroup.wg = false → Completes i s (fun t =>
      (t.helm s.curGroup.wg).running = false ∧ t.regs = s.regs ∧ t.mem = s.mem))
  Both .exit .exit64 false false ends
  ) ∧
  (
  let yields := fun (f : Form) (s t : State) => if s.active f = [] then t = s.advance else
    t = s.advance.setGroup s.curGroup { s.advance.group s.curGroup with backCount := 0, yieldAbove := some (s.curPc + BitVec.ofNat 64 s.curLen) }
  let naps := fun (f : Form) (n : Nat) (s t : State) => if n = 0 then yields f s t else
    t = { s.advance with threads := t.threads } ∧
    (∀ l ∈ s.curLanes, let x := s.thread (s.curThread l)
      t.thread (s.curThread l) = if l ∈ s.active f then
          { x with pc := s.curPc, wait := .nap (16 * n) (s.curPc + BitVec.ofNat 64 s.curLen), hang := 0 }
        else { x with pc := s.curPc + BitVec.ofNat 64 s.curLen, wait := .none, hang := 0 }) ∧
    ∀ id, (∀ l ∈ s.curLanes, id ≠ s.curThread l) → t.thread id = s.thread id
  Both .yield .yield64 false false (fun i f => ∀ s, Completes i s (yields f s)) ∧
  (∀ (n : BitVec 12) (s : State), Completes (.nap n) s (naps formNone n.toNat s)) ∧
  (∀ (w : R64) (s : State), Completes (.nap64 w) s (naps (form64 w false) (immCode w) s))
  ) ∧
  (
  let traps := fun (i : Instr) (f : Form) (code : Nat) => ∀ s : State, s.curHelm = false → Bundle s → Completes i s (fun t =>
    (∀ l ∈ s.active f, TookTrap s t (s.curThread l) 0x24 (s.curPc + BitVec.ofNat 64 s.curLen) 0 (BitVec.ofNat 64 code)) ∧
    (∀ id, (∀ l ∈ s.active f, id ≠ s.curThread l) → t.thread id = s.advance.thread id) ∧
    t.regs = s.regs ∧ t.mem = s.mem ∧ t.groups = s.advance.groups)
  (∀ n : BitVec 12, traps (.trap n) formNone n.toNat) ∧ (∀ w, traps (.trap64 w) (form64 w false) (immCode w))
  )

/-- R346, R347: spawn enters one record for each active lane, all of them or none: the bytes of four v registers, the
spawner and its spawn count, which rises. -/
def Obligations.SpawnEntersRecords : Prop :=
  let spawns := fun (i : Instr) (f : Form) (a b : Nat) => ∀ s : State, s.curHelm = false → Bundle s → s.active f ≠ [] →
    let entry := (s.reg (s.uniKey a)).bits
    let l := s.launchOf s.curGroup.wg
    (s.reg (s.uniKey a)).tag = 1 → bitAt entry 0 = false →
    ReadableIn s (s.active f) (f.a :: [b, b + 1, b + 2, b + 3].map (fun n => .lane n (match f.b with | .lane _ t => t | _ => false))) [] →
    (l.det = true → s.heldCount s.curGroup.wg + (s.active f).length ≤ 1024) → (s.group s.curGroup).pendingPub = [] →
    (l.det = false → (s.core (s.coreOf s.curGroup.wg)).binsTake (s.wg s.curGroup.wg).launch entry (s.active f).length = true) →
    Completes i s (fun t =>
      (∀ x ∈ s.active f, ∃ r : SpawnRec, r.wg = s.curGroup.wg ∧ r.spawner = 32 * s.curGroup.grp + x ∧
        r.seq = (s.thread (s.curThread x)).spawnSeq ∧ r.bytes.length = 32 ∧
        (∀ q < 4, ∀ j < 8, r.bytes[8 * q + j]? = some (BitVec.ofNat 8 ((s.reg (s.laneKey x (b + q))).bits.toNat / 2 ^ (8 * j)))) ∧
        if l.det then (s.curGroup.wg, entry, r) ∈ t.spawnHeld
        else ∃ bin ∈ (t.core (s.coreOf s.curGroup.wg)).bins, bin.launch = (s.wg s.curGroup.wg).launch ∧ bin.entry = entry ∧ r ∈ bin.recs) ∧
      (∀ x ∈ s.active f, (t.thread (s.curThread x)).spawnSeq = (s.thread (s.curThread x)).spawnSeq + 1) ∧
      (∀ x ∈ s.curLanes, (t.thread (s.curThread x)).pc = s.curPc + BitVec.ofNat 64 s.curLen) ∧
      t = { s.advance with threads := t.threads, cores := t.cores, spawnHeld := t.spawnHeld })
  (∀ w : R32, spawns (.spawn w) (formUniA w) w.a.toNat w.b.toNat) ∧
  (∀ (w : R64) (a b : Nat) (ea eb : Bool), (form64 w false).a = .uni a ea → (form64 w false).b = .lane b eb →
    spawns (.spawn64 w) (form64 w false) a b)

/-! ## Texture sampling (R372 to R375) -/

/-- R372 to R375: smp reads each lane's texels and delivers one FP32 sample tagged F32X2 to each lane, later; `near` takes the
texel whose index is the coordinate's floor, clamped. -/
def Obligations.SampleResults : Prop :=
  let samples := fun (i : Instr) (f : Form) (b : Src) (fn : Nat) => ∀ s : State, Bundle s →
    let three := fn / 2 % 2 == 1
    let lanes := s.active f ++ s.activeHelpers f
    s.active f ≠ [] → (∀ l ∈ s.active f, ∀ x ∈ sampleCoords f three, s.srcTagOf l x = 7) →
    ReadableIn s lanes (b :: sampleCoords f three) [.lane f.d false] →
    ∀ bs t, s.readRecord (s.srcBits 0 b) 64 64 = (.bytes bs, t) → sampleRecordOk (if three then 3 else 2) bs = true →
    let lay := Layout.ofBytes bs
    let plan := fun (l : Nat) =>
      samplePlan lay (fn % 2 == 1) l (s.laneCoords f three l) ((List.range 3).map (fun d => Config.freeChoice (t.freeCount + 3 * l + d)))
    ∀ got u, State.laneReads { t with freeCount := t.freeCount + 96 } .floor (lanes.flatMap (fun l => sampleReads lay (plan l))) = (some got, u) →
    (∀ g ∈ got, ∃ x, g.2 = .bytes x) →
    Completes i s (fun r =>
      (∀ l ∈ lanes, ∃ codes : List Nat, codes.length = (plan l).texels.length ∧
        (∀ (j : Nat) (c : List Nat), (plan l).texels[j]? = some c → ∃ g ∈ got, ∃ x, g.1.lane = l ∧ g.1.addr = (lay.elem (c ++ [0, 0])).1 ∧ g.2 = .bytes x ∧
          codes[j]? = some (texelCode lay c x)) ∧
        Wrote s r (s.laneKey l f.d) true 7 (BitVec.ofNat 64 (sampleValue (plan l).weights codes))) ∧
      (∀ k, (∀ l ∈ lanes, k ≠ s.laneKey l f.d) → r.reg k = s.reg k) ∧
      r.threads = s.advance.threads ∧ r.groups = s.advance.groups ∧ r.mem = u.mem)
  (∀ fn w, samples (.smp fn w) (form32 w false false) (.uni w.b.toNat false) fn.toNat) ∧
  (∀ fn w, samples (.smp64 fn w) (form64 w false) (form64 w false).b fn.toNat) ∧
  ∀ (ext x : Nat) (neg : Bool) (m : Nat) (e : Int), 1 ≤ ext → f32.decode x = .num neg m e →
    ((nearIndex ext x : Nat) : Int) = max 0 (min ((ext : Int) - 1) ⌊(if neg then -(m : Rat) else m) * (2 : Rat) ^ e⌋)

/-! ## Memory (R376 to R387) -/

/-- R380, R382: a load whose words lie on chip at places ready and with one permitted value each writes that value to each
data register: within the instruction from lane-private memory and core scratchpad, later from elsewhere; it changes nothing
else. R380, R382: a load whose words resolve and are read without a fault writes what it read to each data register and no
other register; no byte changes but the A bits and VBD blocks that its accesses touch. -/
def Obligations.LoadResults : Prop :=
  (
  EveryLoad (fun i m tag inv value => ∀ s : State, Bundle s →
    let lanes := s.memLanes m ++ s.memHelpers m
    let near := fun (x : Nat) => decide (spaceOf x = 5 ∨ spaceOf x = 7)
    ReadableIn s (s.active m.form ++ s.memHelpers m) [m.base] m.data → s.phasePending s.curGroup = false → OnChip s m lanes →
    (∀ l ∈ lanes, ∀ a ∈ s.memWords m l, let x := chipPlace s m l a
      s.firstPoison x m.size = none ∧ (spaceOf x = 7 ∨
        if inv then s.instantsSince (s.launchOf s.curGroup.wg).startSeq x m.size = [] else s.olderInstants s.curParty x m.size = [])) →
    Completes i s (fun t => OnlyRegs s t ∧
      (∀ l ∈ lanes, ∀ (j : Nat) d a k, m.data[j]? = some d → (s.memWords m l)[j]? = some a → s.srcKey l d = some k →
        Wrote s t k (!near (chipPlace s m l a)) tag (value (s.bytesAt (chipPlace s m l a) m.size))) ∧
      ∀ k, (∀ l ∈ lanes, ∀ d ∈ m.data, s.srcKey l d ≠ some k) → t.reg k = s.reg k))
  ) ∧
  (
  EveryLoad (fun i m tag inv value => ∀ s : State, Bundle s →
    let lanes := s.memLanes m ++ s.memHelpers m
    ReadableIn s (s.active m.form ++ s.memHelpers m) [m.base] m.data → s.phasePending s.curGroup = false → s.pageHeld m lanes = false →
    ∀ (xs : List LaneSpots) (u v : State) (got : List (Nat × LaneGot)) (r : State), s.resolveLanes m .read lanes = (xs, u) → u.prepLanes m.size xs = (false, v) →
    v.readLanes m (if inv then .inv (s.launchOf s.curGroup.wg).startSeq else .floor) value xs = (got, r) →
    (∀ x ∈ got, ∃ vs, x.2 = .values vs) →
    Completes i s (fun t =>
      (∀ l ∈ lanes, ∃ vs : List (Word × Bool), (l, .values vs) ∈ got ∧ vs.length = m.data.length ∧
        ∀ (j : Nat) d y k, m.data[j]? = some d → vs[j]? = some y → s.srcKey l d = some k → Wrote s t k (!y.2) tag y.1) ∧
      (∀ k, (∀ l ∈ lanes, ∀ d ∈ m.data, s.srcKey l d ≠ some k) → t.reg k = s.reg k) ∧
      t.threads = s.advance.threads ∧ t.groups = s.advance.groups ∧ t.mem = r.mem ∧
      ∀ a, (∀ x ∈ xs, ∀ ps, x.2 = .ok ps → ∀ q ∈ ps, spotTouches q.2 a = false) → t.byteAt a = s.byteAt a))
  )

/-- R381 to R384: stores and reductions whose words lie on chip at places ready perform them lane by lane in ascending order;
every other byte and every register keep their values. The frame of every store and reduction that nothing holds up, whether
its lanes store, stage, enter the side log or trap: no register changes, nor any byte beside those its words reach one after
another. R99, R381: one lane's store of one word to global memory: with no fault it is performed at the place its address
translates to and changes no other byte but the leaf's A and D byte; in a deterministic kernel it is staged, unless its workgroup
was killed (R102), and changes no byte. R182: the pull of an `.acq` reduction may stay under way in its group. -/
def Obligations.StoreResults : Prop :=
  (
  let places := fun (s : State) (m : MemArgs) =>
    (s.memLanes m).flatMap (fun l => ((s.memWords m l).zip m.data).map (fun x => (l, chipPlace s m l x.1, x.2)))
  let only := fun (acq : Bool) (s : State) (m : MemArgs) (t : State) => t.regs = s.regs ∧ t.threads = s.advance.threads ∧
    (if acq then ∀ g, t.group g = if g = s.curGroup then { s.advance.group g with pendingPub := (t.group g).pendingPub } else s.advance.group g
     else t.groups = s.advance.groups) ∧
    ∀ a, (∀ x ∈ places s m, a < x.2.1 ∨ x.2.1 + m.size ≤ a) → t.byteAt a = s.byteAt a
  EveryStore (fun i m => ∀ s : State, Bundle s → ReadableIn s (s.active m.form) (m.base :: m.data) [] →
    s.pubPending s.curGroup = false → OnChip s m (s.memLanes m) →
    Completes i s (fun t => only false s m t ∧
      t.mem = (places s m).foldl (fun c x => memSetMany c x.2.1 (leBytes m.size (s.srcBits x.1 x.2.2).toNat)) s.mem)) ∧
  ∀ (f : BitVec 3) (w : R64) (s : State), let m := mem64 5 w 8 1
    s.curHelm = false → Bundle s → s.active m.form ≠ [] → m.data ≠ [] → (∀ l ∈ s.active m.form, ∀ d ∈ m.data, redTagOk f.toNat (s.srcTagOf l d) = true) →
    ReadableIn s (s.active m.form) (m.base :: m.data) [] → s.relWaits (atomRel w) = false → m.uni = false →
    OnChip s m (s.active m.form) → (∀ x ∈ places s m, s.isPoisoned x.2.1 = false) →
    Completes (.red f w) s (fun t => only (atomAcq w) s m t ∧
      t.mem = (places s m).foldl (fun c x => memSetMany c x.2.1 (leBytes 8 (mergeWord f.toNat (s.srcTagOf x.1 x.2.2) (atomU w)
        (BitVec.ofNat 64 (ofLe (memGetMany c x.2.1 8))) (s.srcBits x.1 x.2.2)).toNat)) s.mem)
  ) ∧
  (
  EveryStore (fun i m => ∀ s : State, Bundle s → ReadableIn s (s.active m.form) (m.base :: m.data) [] →
    s.pubPending s.curGroup = false → (s.prepStores m .write (s.memLanes m)).1 = false → (s.stages s.curGroup.wg && s.shareFull s.curGroup.wg) = false →
    Completes i s (fun t => t.regs = s.regs ∧ ∀ a,
      lanesReach s.advance m .write (fun l d => .store (leBytes m.size (s.srcBits l d).toNat)) (s.memLanes m) a = false → t.byteAt a = s.byteAt a)) ∧
  ∀ (f : BitVec 3) (w : R64) (s : State), let m := mem64 5 w 8 1
    s.curHelm = false → Bundle s → (∀ l ∈ s.active m.form, ∀ d ∈ m.data, redTagOk f.toNat (s.srcTagOf l d) = true) →
    ReadableIn s (s.active m.form) (m.base :: m.data) [] → s.relWaits (atomRel w) = false → m.uni = false →
    (s.prepStores m .reduce (s.active m.form)).1 = false → (s.stages s.curGroup.wg && s.shareFull s.curGroup.wg) = false →
    Completes (.red f w) s (fun t => t.regs = s.regs ∧ ∀ a,
      lanesReach (s.relPub (atomRel w) (atomScope w)).advance m .reduce
        (fun l d => .reduce f (s.srcTagOf l d) (atomU w) (s.srcBits l d)) (s.active m.form) a = false → t.byteAt a = s.byteAt a)
  ) ∧
  (
  EveryStore (fun i m => ∀ (s : State) (l : Nat) (d : Src) (va : Nat), Bundle s → Memory.wf s.mem = true → s.memLanes m = [l] → m.data = [d] →
    ReadableIn s (s.active m.form) (m.base :: m.data) [] → s.pubPending s.curGroup = false → (s.memAddr m l).toNat % m.size = 0 →
    (s.prepStores m .write (s.memLanes m)).1 = false → s.decodeAddr (s.laneReq l) m.space (s.memAddr m l) m.size = some (.global va) →
    let bs := leBytes m.size (s.srcBits l d).toNat
    (s.stages s.curGroup.wg = false → s.loggedBefore (s.curThread l) (pageOf va) = none → ∀ p x,
      (s.advance.resolve (s.laneReq l) spGlobal (BitVec.ofNat 64 va) m.size .write).1 = .ok p → p.loc = .flat x →
      Completes i s (fun t => t.regs = s.regs ∧ t.threads = s.advance.threads ∧ t.bytesAt x m.size = bs ∧
        ∀ a, (a < x ∨ x + m.size ≤ a) → spotTouches p a = false → t.byteAt a = s.byteAt a)) ∧
    (s.stages s.curGroup.wg = true → s.shareFull s.curGroup.wg = false → s.advance.storeFault (s.laneReq l) (s.curThread l) va (.store bs) = none →
      let priv := !s.curHelm && (s.thread (s.curThread l)).priv
      Completes i s (fun t => t.mem = s.mem ∧ t.regs = s.regs ∧ t.staged = if (s.wg s.curGroup.wg).killed then s.staged else
        s.staged ++ [{ wg := s.curGroup.wg, grp := s.curGroup.grp, order := s.nextId, helm := false, va := va, op := .store bs, priv := priv }])))
  )

/-- R384: atom on words on chip: lane by lane in ascending order, each lane reads its word, replaces it by the operation's result and
puts the old word in D, which keeps its tag; `add`, `min`, `max`, the bitwise ones, `xchg` and `cas` as R383 and R384 say. -/
def Obligations.AtomicReadModifyWrite : Prop :=
  (∀ (f : BitVec 3) (w : R64) (n : Nat) (e : Bool) (s : State), let m := mem64 5 w 8 1
    let cas := f.toNat == 7
    let lanes := s.active m.form
    let at' := fun (l : Nat) => chipPlace s m l (s.memAddr m l)
    let old := fun (c : List Host.Cell) (l : Nat) => BitVec.ofNat 64 (ofLe (memGetMany c (at' l) 8))
    let one := fun (c : List Host.Cell) (l : Nat) =>
      match atomNew f.toNat (s.srcTagOf l (.lane n e)) (atomU w) (old c l)
          (s.srcBits l (if cas then .lane (n + 1) e else .lane n e)) (if cas then s.srcBits l (.lane n e) else 0) with
      | some x => memSetMany c (at' l) (leBytes 8 x.toNat)
      | none => c
    s.curHelm = false → Bundle s → lanes ≠ [] → m.data = [.lane n e] →
    (∀ l ∈ lanes, atomTagOk f.toNat (s.srcTagOf l (.lane n e)) = true ∧ (cas = true → s.srcTagOf l (.lane n e) = s.srcTagOf l (.lane (n + 1) e))) →
    ReadableIn s lanes ([m.base, .lane n e] ++ if cas then [.lane (n + 1) e] else []) [] →
    s.relWaits (atomRel w) = false → s.phasePending s.curGroup = false → OnChip s m lanes →
    (∀ l ∈ lanes, s.firstPoison (at' l) 8 = none) →
    Completes (.atom f w) s (fun t => t.threads = s.advance.threads ∧ t.groups = s.advance.groups ∧ t.mem = lanes.foldl one s.mem ∧
      (∀ pre l post, lanes = pre ++ l :: post → Wrote s t (s.laneKey l n) (!decide (spaceOf (at' l) = 5 ∨ spaceOf (at' l) = 7))
        (s.srcTagOf l (.lane n e)) (old (pre.foldl one s.mem) l)) ∧
      ∀ k, (∀ l ∈ lanes, k ≠ s.laneKey l n) → t.reg k = s.reg k)) ∧
  (∀ (old v c : Word) (u : Bool) (t : Tag),
    atomNew 0 1 u old v c = some (old + v) ∧
    atomNew 1 1 u old v c = some (if (if u then old.toNat ≤ v.toNat else old.toInt ≤ v.toInt) then old else v) ∧
    atomNew 2 1 u old v c = some (if (if u then v.toNat ≤ old.toNat else v.toInt ≤ old.toInt) then old else v) ∧
    atomNew 3 t u old v c = some (old &&& v) ∧ atomNew 4 t u old v c = some (old ||| v) ∧ atomNew 5 t u old v c = some (old ^^^ v) ∧
    atomNew 6 t u old v c = some v ∧ atomNew 7 t u old v c = (if old = c then some v else none)) ∧
  ∀ (old v : Word) (j : Nat), j < 2 → elemAt 32 (mergeWord 0 2 false old v) j = (elemAt 32 old j + elemAt 32 v j) % 2 ^ 32

/-! ## Memory order (R175 to R180, R386) -/

/-- R176, R177: a load inside one word returns, for all its bytes together, their values at one instant no older than the
party's floor for them; from then on the party reads nothing older than that instant, and no party's floor falls. R176: a
write inside one word is one write in the coherence order: its bytes read as written just after it, every byte reads as before
just before it, and its party's floor for its bytes is that write. R179, R180: what a party publishes at a scope that covers
another, the other must see after a pull at a scope that covers the first: its floor for every byte so written is that write
or a later one. Publishing and pulling change no byte and lower no floor. -/
def Obligations.CoherenceAndScopes : Prop :=
  (
  ∀ (s : State) (who : Party) (a n : Nat), (∀ e ∈ s.hist, e.seq ≤ s.writeSeq) → let r := s.readWhole who a n
    (∃ at', s.floorOfMany who a n ≤ at' ∧ (n ≠ 0 → at' ≤ r.2.floorOfMany who a n) ∧ r.1 = (List.range n).map (fun i => s.byteAsOf at' (a + i))) ∧
    (∀ p b, s.floorOf p b ≤ r.2.floorOf p b) ∧ r.2.mem = s.mem ∧ r.2.hist = s.hist
  ) ∧
  (
  ∀ (s : State) (who : Party) (a : Nat) (bs : List Byte), Memory.wf s.mem = true → (∀ e ∈ s.hist, e.seq ≤ s.writeSeq) → let t := s.writeWhole who a bs
    t.writeSeq = s.writeSeq + 1 ∧ (∀ e ∈ t.hist, e.seq ≤ t.writeSeq) ∧
    (∀ b, t.byteAsOf t.writeSeq b = if a ≤ b ∧ b < a + bs.length then bs.getD (b - a) 0 else s.byteAt b) ∧
    (∀ b k, k ≤ s.writeSeq → t.byteAsOf k b = s.byteAsOf k b) ∧
    ∀ b, a ≤ b → b < a + bs.length → t.floorOf who b = max t.writeSeq (s.floorOf who b)
  ) ∧
  (
  ∀ (s : State) (x y : Scope) (p q : Place), let t := (s.pub x p).pull y q
    (x.covers p q = true → y.covers q p = true → ∀ e ∈ s.hist, p.who ∈ e.owners → e.seq ≤ t.floorOf q.who e.addr) ∧
    t.mem = s.mem ∧ t.writeSeq = s.writeSeq ∧ (∀ who a, s.floorOf who a ≤ t.floorOf who a) ∧ ∀ who a, who ≠ q.who → t.floorOf who a = s.floorOf who a
  )

/-- R386, R387: pub publishes the group's writes, pull pulls, phase does both: at once where what they publish has been performed and
no pub stands before them, else in turn when it has been; the bundle of a pub or a phase moves on either way, a pull waits for the
pubs before it (R180). A prefetch does nothing. -/
def Obligations.PhaseBoundaries : Prop :=
  let issues := fun (i : Instr) (c : Nat) (kind : PubKind) => ∀ s : State, s.curHelm = false → Bundle s → c < 6 →
    Completes i s (fun t => t.regs = s.regs ∧ t.mem = s.mem ∧ MovesOn s t ∧
      if s.pubReady s.curGroup = true then
        (t.group s.curGroup).pendingPub = [] ∧
        ((s.group s.curGroup).pendingPub = [] → t.hist = pubHist s.hist (scopeOf c) s.curPlace ∧
          t.floors = if kind = .phase then ((s.pub (scopeOf c) s.curPlace).pull (scopeOf c) s.curPlace).floors else s.floors)
      else (t.group s.curGroup).pendingPub = (s.group s.curGroup).pendingPub ++ [(scopeOf c, kind)] ∧ t.hist = s.hist ∧ t.floors = s.floors)
  let pulls := fun (i : Instr) (c : Nat) => ∀ s : State, c < 6 →
    ((s.group s.curGroup).pendingPub = [] → Completes i s (fun t => t = (s.pull (scopeOf c) s.curPlace).advance)) ∧
    ((s.group s.curGroup).pendingPub ≠ [] → exec i s = .next s)
  (∀ c : BitVec 3, issues (.pub c) c.toNat .pub ∧ issues (.phase c) c.toNat .phase ∧ pulls (.pull c) c.toNat) ∧
  (∀ w : R64, issues (.pub64 w) (scope64 w) .pub ∧ issues (.phase64 w) (scope64 w) .phase ∧ pulls (.pull64 w) (scope64 w)) ∧
  (∀ m s, exec (.pref m) s = .next s.advance) ∧ (∀ w s, exec (.pref64 w) s = .next s.advance)

/-! ## Barriers, counters, semaphores (R138 to R142, R388, R389, R398) -/

/-- R139, R388: bar.init sets EXPECT; bar.arrive counts the active lanes, or the Helm once its operands are captured (R241); the phase
completes when enough have arrived and no bytes are owed: PHASE turns, the count starts again and EXPECT falls by the exits counted.
R142, R388: bar.wait passes where PHASE differs from its parity, and the issuer then sees what the phase made visible; else it waits,
but for the lanes whose phase completed while they waited. bar.sync arrives and waits for the end of the phase that it arrived in. -/
def Obligations.BarrierResults : Prop :=
  let settled := fun (b : Barrier) => if b.ready then b.complete else b
  let sees := fun (s t : State) (d : BarDone) =>
    (∀ o ∈ d.ops, ∀ e ∈ s.hist, .operation o ∈ e.owners → e.seq ≤ t.floorOf s.curParty e.addr) ∧
    (s.curHelm = false → (t.group s.curGroup).flags = (s.group s.curGroup).flags ||| d.flags)
  let byHelm := fun (s : State) (b : Barrier) => { b with
    arrived := b.arrived + 1
    helmOps := s.helmLearned s.curGroup.wg
    helmFlags := b.helmFlags ||| (s.helm s.curGroup.wg).flags }
  (
  let after := fun (s t : State) (n : Nat) (b : Barrier) =>
    t.bar s.curGroup.wg n = settled b ∧ (∀ m, m ≠ n → t.bar s.curGroup.wg m = s.bar s.curGroup.wg m) ∧ MovesOn s t ∧ t.regs = s.regs ∧ t.mem = s.mem
  let inits := fun (i : Instr) (n : Nat) (b : Src) => ∀ s : State, (s.curHelm = false → Bundle s) → n < (s.launchOf s.curGroup.wg).barsN →
    BundleReads s [b] [] → s.srcBits 0 b ≠ 0 → (s.srcBits 0 b).toNat ≤ 2047 →
    Completes i s (fun t => after s t n { s.bar s.curGroup.wg n with expect := (s.srcBits 0 b).setWidth 11 })
  let arrives := fun (i : Instr) (n : Nat) (f : Form) => ∀ s : State, n < (s.launchOf s.curGroup.wg).barsN →
    (s.curHelm = false → Bundle s → s.active f ≠ [] → Completes i s (fun t =>
      after s t n { s.bar s.curGroup.wg n with arrived := (s.bar s.curGroup.wg n).arrived + BitVec.ofNat 11 (s.active f).length })) ∧
    (s.curHelm = false → s.active f = [] → exec i s = .next s.advance) ∧
    (s.curHelm = true → s.capturePending s.curGroup.wg = false → Completes i s (fun t => after s t n (byHelm s (s.bar s.curGroup.wg n)))) ∧
    (s.curHelm = true → s.capturePending s.curGroup.wg = true → exec i s = .next s)
  (∀ w, inits (.barInit w) w.a.toNat (.uni w.b.toNat false)) ∧ (∀ w, inits (.barInit64 w) (barA64 w) (form64 w false).b) ∧
  (∀ w, arrives (.barArrive w) w.a.toNat formNone) ∧ (∀ w, arrives (.barArrive64 w) (barA64 w) (form64 w false)) ∧
  ∀ b : Barrier, (b.ready = true ↔ b.expect.toNat ≤ b.arrived.toNat ∧ b.tx = 0) ∧ b.complete.phase = !b.phase ∧ b.complete.arrived = 0 ∧
    b.complete.expect.toNat = b.expect.toNat - b.pexit.toNat ∧ b.complete.pexit = 0 ∧ b.complete.tx = b.tx ∧
    b.complete.txOps = [] ∧ b.complete.helmOps = [] ∧ b.complete.helmFlags = 0 ∧ b.complete.done (!b.phase) = b.done (!b.phase) ∧
    (∀ o, o ∈ (b.complete.done b.phase).ops ↔ o ∈ b.txOps ∨ o ∈ b.helmOps ∨ o ∈ (b.done b.phase).ops) ∧
    (b.complete.done b.phase).flags = (b.done b.phase).flags ||| b.helmFlags
  ) ∧
  (
  let waits := fun (i : Instr) (n : Nat) (p : Bool) => ∀ s : State, (s.curHelm = false → Bundle s) → n < (s.launchOf s.curGroup.wg).barsN →
    let b := s.bar s.curGroup.wg n
    let lanes := bundleLanes s
    (b.phase ≠ p → Completes i s (fun t => MovesOn s t ∧ sees s t (b.done p) ∧ t.regs = s.regs ∧ t.mem = s.mem)) ∧
    (b.phase = p → (∀ l ∈ lanes, s.laneWait l = .released n) → exec i s = .next s.advance) ∧
    (b.phase = p → lanes ≠ [] → (∀ l ∈ lanes, s.laneWait l ≠ .released n) → Completes i s (fun t => WaitsAt s t (.barrier n p))) ∧
    (b.phase = p → s.curHelm = false → (∃ l ∈ lanes, s.laneWait l = .released n) → (∃ l ∈ lanes, s.laneWait l ≠ .released n) →
      Completes i s (fun t => t = { s.advance with threads := t.threads } ∧ ∀ l ∈ lanes, let x := t.thread (s.curThread l)
        if s.laneWait l = .released n then x.pc = s.curPc + BitVec.ofNat 64 s.curLen ∧ x.wait = .none
        else x.pc = s.curPc ∧ x.wait = .barrier n p))
  let syncs := fun (i : Instr) (n : Nat) (f : Form) => ∀ s : State, n < (s.launchOf s.curGroup.wg).barsN →
    let b := s.bar s.curGroup.wg n
    let fresh := (s.active f).filter (fun l => !s.atBar n l)
    let b1 := { b with arrived := b.arrived + BitVec.ofNat 11 fresh.length }
    let b2 := byHelm s b
    (s.curHelm = false → Bundle s → fresh = [] → exec i s = .next s.advance) ∧
    (s.curHelm = false → Bundle s → fresh ≠ [] → Completes i s (fun t => t.regs = s.regs ∧ t.mem = s.mem ∧ t.bar s.curGroup.wg n = settled b1 ∧
      if b1.ready then MovesOn s t ∧ sees s t (b1.complete.done b.phase) else
        ∀ l ∈ s.curLanes, let x := t.thread (s.curThread l)
          if l ∈ fresh then x.pc = s.curPc ∧ x.wait = .barrier n b.phase ∧ n ∈ x.arrived
          else x.pc = s.curPc + BitVec.ofNat 64 s.curLen ∧ x.wait = .none)) ∧
    (s.curHelm = true → s.atBar n 0 = true → exec i s = .next s.advance) ∧
    (s.curHelm = true → s.atBar n 0 = false → s.capturePending s.curGroup.wg = true → exec i s = .next s) ∧
    (s.curHelm = true → s.atBar n 0 = false → s.capturePending s.curGroup.wg = false → Completes i s (fun t => t.regs = s.regs ∧ t.mem = s.mem ∧
      t.bar s.curGroup.wg n = settled b2 ∧
      if b2.ready then MovesOn s t ∧ sees s t (b2.complete.done b.phase) else
        (t.helm s.curGroup.wg).pc = (s.helm s.curGroup.wg).pc ∧ (t.helm s.curGroup.wg).wait = .barrier n b.phase ∧
          n ∈ (t.helm s.curGroup.wg).arrived))
  (∀ w, waits (.barWait w) w.a.toNat (bitAt w.so 0)) ∧ (∀ w, waits (.barWait64 w) (barA64 w) (bitAt w.so 0)) ∧
  (∀ w, syncs (.barSync w) w.a.toNat formNone) ∧ (∀ w, syncs (.barSync64 w) (barA64 w) (form64 w false))
  )

/-- R136, R389: wait.<class> passes where the issuer's counter is at most n and takes in the writes of its finished operations
of the class; else it waits. R183, R398: sem.signal publishes at `sys` scope and adds; sem.await passes where the value is at
least the threshold and pulls at `sys` scope, else waits; sem.read puts the value in D tagged I64. -/
def Obligations.CounterWaitAndSemaphoreResults : Prop :=
  (
  let waits := fun (i : Instr) (f : BitVec 3) (n : Nat) => ∀ s : State, (s.curHelm = false → Bundle s) → n ≤ 63 →
    Completes i s (fun t => if s.curCtr (classOf f.toNat) ≤ n then
        MovesOn s t ∧ t.regs = s.regs ∧ t.mem = s.mem ∧
        (∀ o ∈ s.ops, s.curOwns o = true → o.cls = classOf f.toNat → o.done = true → o.kind.isPush = false →
          o ∉ t.ops ∧ ∀ e ∈ s.hist, .operation o.id ∈ e.owners → e.seq ≤ t.floorOf s.curParty e.addr) ∧
        ∀ o ∈ s.ops, (s.curOwns o = false ∨ o.cls ≠ classOf f.toNat ∨ o.done = false ∨ o.kind.isPush = true) → o ∈ t.ops
      else WaitsAt s t (.counter (classOf f.toNat) n))
  (∀ f w, waits (.wait f w) f w.b.toNat) ∧ (∀ f w, waits (.wait64 f w) f (immCode w))
  ) ∧
  (
  let named := fun (s : State) (a : Src) (n : Nat) => s.semIndex (s.ctxOf s.curGroup.wg) (s.srcBits 0 a).toNat = some n
  let signals := fun (i : Instr) (a b : Src) => ∀ (s : State) (n : Nat), s.curHelm = false → Bundle s →
    BundleReads s (a :: if b.isReg then [b] else []) [] → named s a n → s.relWaits true = false →
    Completes i s (fun t => t = State.advance { s with hist := pubHist s.hist .sys s.curPlace, sems := t.sems } ∧
      ∀ m, t.sem m = if m = n then s.sem n + s.semValue b else s.sem m)
  let awaits := fun (i : Instr) (a b : Src) => ∀ (s : State) (n : Nat), s.curHelm = false → Bundle s →
    BundleReads s (a :: if b.isReg then [b] else []) [] → named s a n → s.pubPending s.curGroup = false →
    Completes i s (fun t => if (s.semValue b).toNat ≤ (s.sem n).toNat then t = (s.pull .sys s.curPlace).advance
      else WaitsAt s t (.semaphore n (s.semValue b)))
  let reads := fun (i : Instr) (d a : Src) => ∀ (s : State) (n : Nat) (k : RegKey), s.curHelm = false → Bundle s →
    BundleReads s [a] [d] → named s a n → s.pubPending s.curGroup = false → s.srcKey 0 d = some k →
    Completes i s (fun t => t = { s.advance with regs := t.regs } ∧ t.reg k = { bits := s.sem n, tag := 1, full := true } ∧
      ∀ x, x ≠ k → t.reg x = s.reg x)
  (∀ w, signals (.semSignal w) (uniA w) (uniB w)) ∧ (∀ w, signals (.semSignal64 w) (form64 w false).a (form64 w false).b) ∧
  (∀ w, awaits (.semAwait w) (uniA w) (uniB w)) ∧ (∀ w, awaits (.semAwait64 w) (form64 w false).a (form64 w false).b) ∧
  (∀ w, reads (.semRead w) (.uni w.d.toNat false) (uniA w)) ∧ (∀ w, reads (.semRead64 w) (form64 w false).dstSrc (form64 w false).a)
  )

/-! ## Engine issues (R390 to R397) -/

/-- R391: cpy and xform hand the engine the operation, SRC, DST and LEN; the bytes moved are owed at the barrier that D names. -/
def Obligations.CopyIssueResults : Prop :=
  let copies := fun (i : Instr) (op : Nat) (a b c : Src) (d : Nat) =>
    let len := fun (s : State) (recs : List (List Byte)) => if c.isReg then (s.srcBits 0 c).toNat else (Layout.ofBytes (recs.getD 0 [])).whole
    Issues i .cpy (a :: b :: if c.isReg then [c] else []) (fun s => (op = 6 → s.allPriv = true) ∧ BarrierField s d)
      (fun s => twoRecords (s.srcBits 0 a) (s.srcBits 0 b) 64 64)
      (fun s r recs => if op = 6 then r.migrateCheck (r.ctxOf r.curGroup.wg) (recs.getD 0 []) (recs.getD 1 []) = .ok
        else r.copyCheck r.bundleReq false op (recs.getD 0 []) (recs.getD 1 []) (len s recs) = .ok)
      (fun s r recs =>
        let x := Layout.ofBytes (recs.getD 0 [])
        let y := Layout.ofBytes (recs.getD 1 [])
        if op = 6 then (.copy 6 (recs.getD 0 []) (recs.getD 1 []) 0, barOfD d, r.migrateBytes (r.ctxOf s.curGroup.wg) (recs.getD 0 []), [])
        else (.copy op (recs.getD 0 []) (recs.getD 1 []) (len s recs), barOfD d, copyBytes y x (len s recs),
          r.linesOf s.curGroup.wg (if copyIdle op x y then [] else copyDst op x y (len s recs))))
  let both := fun (c32 : R32 → Instr) (c64 : R64 → Instr) (op : Nat) =>
    (∀ w, copies (c32 w) op (uniA w) (uniB w) .none w.d.toNat) ∧
    (∀ w, copies (c64 w) op (form64 w false).a (form64 w false).b (optC w) (form64 w false).d)
  both .cpy .cpy64 0 ∧ both .xformTranspose .xformTranspose64 1 ∧ both .xformCompress .xformCompress64 2 ∧
  both .xformDecompress .xformDecompress64 3 ∧ both .xformConvert .xformConvert64 4 ∧ both .xformRepack .xformRepack64 5 ∧
  both .xformMigrate .xformMigrate64 6

/-- R393, R394, R396: gat, sct, srt and chain hand the engine their record; gat owes COUNT × ROWB bytes at its barrier. -/
def Obligations.GatherSortChainIssueResults : Prop :=
  let gathers := fun (i : Instr) (a : Src) (d : Nat) =>
    Issues i .gat [a] (BarrierField · d) (fun s => oneRecord (s.srcBits 0 a) 64 64)
      (fun _ r recs => r.gatherCheck r.bundleReq false (recs.getD 0 []) = .ok)
      (fun s r recs => let g := GatherRec.ofBytes (recs.getD 0 [])
        (.gather (recs.getD 0 []), barOfD d, g.count * g.rowb, r.linesOf s.curGroup.wg [(g.buf.toNat, g.count * g.rowb)]))
  let scatters := fun (i : Instr) (a : Src) =>
    Issues i .gat [a] (fun _ => True) (fun s => oneRecord (s.srcBits 0 a) 64 64)
      (fun _ r recs => r.gatherCheck r.bundleReq true (recs.getD 0 []) = .ok) (fun _ _ recs => (.scatter (recs.getD 0 []), none, 0, []))
  let sorts := fun (i : Instr) (a : Src) =>
    Issues i .srt [a] (fun _ => True) (fun s => oneRecord (s.srcBits 0 a) 48 64)
      (fun _ r recs => fieldLe (recs.getD 0 []) 24 8 / 2 % 4 = 0 ∧ zeroIn (recs.getD 0 []) 40 48 = true ∧ r.sortCheck r.bundleReq false (recs.getD 0 []) = .ok)
      (fun _ _ recs => (.sort (recs.getD 0 []), none, 0, []))
  let chains := fun (i : Instr) (a c : Src) (d : Nat) =>
    let out := fun (recs : List (List Byte)) => if recs.length < 2 then [] else recs.getLastD []
    let len := fun (s : State) (recs : List (List Byte)) => if c.isReg then (s.srcBits 0 c).toNat else (Layout.ofBytes (out recs)).whole
    Issues i .cpy (a :: if c.isReg then [c] else []) (BarrierField · d) (fun s => chainRecords (s.srcBits 0 a))
      (fun s r recs => r.chainCheck r.bundleReq false (recs.getD 0 []) (recs.drop 1).dropLast (out recs) (len s recs) = .ok)
      (fun s r recs => let o := Layout.ofBytes (out recs)
        (.chain recs (len s recs), barOfD d, copyBytes o o (len s recs),
          r.linesOf s.curGroup.wg ((List.range (o.inner * len s recs)).map (fun k => ((o.elem (o.coords k)).1.toNat, o.elemBytes)))))
  (∀ w, gathers (.gat w) (uniA w) w.d.toNat) ∧ (∀ w, gathers (.gat64 w) (form64 w false).a (form64 w false).d) ∧
  (∀ w, scatters (.sct w) (uniA w)) ∧ (∀ w, scatters (.sct64 w) (form64 w false).a) ∧
  (∀ w, sorts (.srt w) (uniA w)) ∧ (∀ w, sorts (.srt64 w) (form64 w false).a) ∧
  (∀ w, chains (.chain w) (uniA w) .none w.d.toNat) ∧ (∀ w, chains (.chain64 w) (form64 w false).a (optC w) (form64 w false).d)

/-- R226, R394: coll takes its SEQ by one atomic add of 1 at the communicator record and hands the engine the collective; nmq enters its
commands at the end of the module's command order, one operation each. -/
def Obligations.CollectiveAndNearIssueResults : Prop :=
  let colls := fun (i : Instr) (a : Src) => ∀ (s r u : State) (recs : List (List Byte)) (n : Nat), s.curHelm = false → Bundle s → BundleReads s [a] [] →
    s.pubPending s.curGroup = false → s.keptRecs = none → s.readRecords (collRecords (s.srcBits 0 a)) [] 40 = .got recs r →
    zeroIn (recs.getD 0 []) 32 48 = true → r.collCheck r.bundleReq false (recs.getD 0 []) (recs.getD 1 []) (recs.getD 2 []) = .ok →
    r.dropRecs.takeSeq r.bundleReq (CollBody.ofBytes (recs.getD 0 [])).comm = (.ok n, u) → s.curCtr .coll < 63 →
    Completes i s (fun t => IssuesOp s u t .coll (.coll { body := recs.getD 0 [], comm := recs.getD 1 [], rtab := recs.getD 2 [], seqNo := n }) none 0 [])
  let nears := fun (i : Instr) (a c : Src) => ∀ (s r : State) (recs : List (List Byte)), let count := if c.isReg then (s.srcBits 0 c).toNat else 1
    s.curHelm = false → Bundle s → BundleReads s (a :: if c.isReg then [c] else []) [] → 1 ≤ count → count ≤ 16 →
    s.pubPending s.curGroup = false → s.keptRecs = none → s.readRecords (nearRecords (s.srcBits 0 a) count) [] 40 = .got recs r →
    (∀ j < count, nmqOk (recs.getD (2 * j) []) (recs.getD (2 * j + 1) []) = true) → s.curCtr .nm + count ≤ 63 →
    Completes i s (fun t => t.curCtr .nm = s.curCtr .nm + count ∧ t.regs = s.regs ∧ t.mem = r.mem ∧ MovesOn s t ∧
      ∃ (ops : List AsyncOp) (cmds : List NearCmd), t.ops = r.ops ++ ops ∧ t.near = r.near ++ cmds ∧ ops.length = count ∧ cmds.length = count ∧
        ∀ j < count, ∃ o c', ops[j]? = some o ∧ cmds[j]? = some c' ∧ o.kind = .near c'.id ∧ o.cls = .nm ∧ o.done = false ∧ c'.source = .operation o.id ∧
          c'.record = (recs.getD (2 * j) []).take 32 ∧ c'.args = recs.getD (2 * j + 1) [] ∧ c'.first = fieldLe (recs.getD (2 * j) []) 32 4 ∧
          c'.count = fieldLe (recs.getD (2 * j) []) 36 4 ∧ c'.begun = false ∧ c'.left = allUnits)
  (∀ w, colls (.coll w) (uniA w)) ∧ (∀ w, colls (.coll64 w) (form64 w false).a) ∧
  (∀ w, nears (.nmq w) (uniA w) .none) ∧ (∀ w, nears (.nmq64 w) (form64 w false).a (optC w))

/-- R395: cpy.map installs a map with every line not present and nothing dirty, once no line of its range is empty; cpy.unmap
removes the map that starts at SOFF and queues its dirty bytes' write-back, word by word, with their values at issue; the lines that
no access filled hold free values from then on (R152). R60, R397: qpush publishes at `sys` scope, claims one index of the queue by an
atomic add of 1, puts the index in D tagged I64, and its lanes stay until their packet is in the slot; then they move on. -/
def Obligations.RegionMapAndPushResults : Prop :=
  (
  let maps := fun (i : Instr) (a : Src) => ∀ (s r : State) (recs : List (List Byte)), s.curHelm = false → Bundle s → BundleReads s [a] [] →
    s.pubPending s.curGroup = false → s.readRecords (oneRecord (s.srcBits 0 a) 32 32) [] 2 = .got recs r → r.mapOk s.curGroup.wg (recs.getD 0 []) = true →
    let m := mapOf (recs.getD 0 [])
    (r.mapBusy s.curGroup.wg m = true → exec i s = .next r) ∧
    (r.mapBusy s.curGroup.wg m = false → m.present = [] ∧ m.dirty = [] ∧ Completes i s (fun t =>
      (t.wg s.curGroup.wg).maps = (r.wg s.curGroup.wg).maps ++ [m] ∧ t.regs = s.regs ∧ t.mem = r.mem ∧ t.emptyLines = r.emptyLines ∧ MovesOn s t))
  let unmaps := fun (i : Instr) (a : Src) => ∀ (s : State) (m : RegionMap), s.curHelm = false → Bundle s → BundleReads s [a] [] →
    s.pubPending s.curGroup = false → (s.wg s.curGroup.wg).maps.find? (fun m => m.soff == (s.srcBits 0 a).toNat) = some m →
    m.filling = [] → s.curCtr .cpy < 63 →
    let at' := fun (off : Nat) => scratchAt s.curGroup.wg off
    let whole := fun (word : Nat) => ∀ b < 8, 8 * word + b ∈ m.dirty
    let put := fun (word : Nat) => if s.isPoisoned (at' (8 * word)) then WriteOp.poisoned 8
      else if whole word then .store (s.bytesAt (at' (8 * word)) 8)
      else .masked ((List.range 8).map (fun b => if 8 * word + b ∈ m.dirty then some (s.byteAt (at' (8 * word) + b)) else none))
    Completes i s (fun t => t.curCtr .cpy = s.curCtr .cpy + 1 ∧
      (t.wg s.curGroup.wg).maps = (s.wg s.curGroup.wg).maps.filter (fun x => x.soff != m.soff) ∧
      (∃ o ws, t.ops = s.ops ++ [o] ∧ o.cls = .cpy ∧ o.done = false ∧ o.kind = .unmap ws ∧ (m.wb = false → ws = []) ∧
        (∀ x ∈ ws, ∃ d ∈ m.dirty, x = (m.gva + (8 * (d / 8) - m.soff), put (d / 8))) ∧
        (m.wb = true → ∀ d ∈ m.dirty, (m.gva + (8 * (d / 8) - m.soff), put (d / 8)) ∈ ws)) ∧
      (∀ x, (∀ ln, m.soff / 128 ≤ ln → ln < m.soff / 128 + m.lines → ln ∉ m.present → x < at' (128 * ln) ∨ at' (128 * ln) + 128 ≤ x) →
        t.byteAt x = s.byteAt x) ∧
      t.regs = s.regs ∧ MovesOn s t)
  (∀ w, maps (.cpyMap w) (uniA w)) ∧ (∀ w, maps (.cpyMap64 w) (form64 w false).a) ∧
  (∀ w, unmaps (.cpyUnmap w) (uniA w)) ∧ (∀ w, unmaps (.cpyUnmap64 w) (form64 w false).a)
  ) ∧
  (
  let pushes := fun (i : Instr) (d a b : Src) => ∀ s : State, s.curHelm = false → Bundle s →
    (∀ o, s.pushOf = some o → o.done = true → Completes i s (fun t => t = { s.noteIssue with ops := s.ops.filter (fun x => x.id != o.id), threads := t.threads } ∧
      (∀ l ∈ s.curLanes, t.thread (s.curThread l) =
        if l ∈ o.lines then { s.thread (s.curThread l) with pc := o.kind.after, wait := .none, hang := 0 } else s.thread (s.curThread l)) ∧
      ∀ id, (∀ l ∈ s.curLanes, id ≠ s.curThread l) → t.thread id = s.thread id)) ∧
    (∀ o, s.pushOf = some o → o.done = false → exec i s = .next s) ∧
    ∀ (r u : State) (recs : List (List Byte)) (n : Nat) (k : RegKey), s.pushOf = none → BundleReads s [a, b] [d] → s.pubPending s.curGroup = false →
      s.curLanes ≠ [] → (s.srcBits 0 a).toNat < s.queueCount (s.ctxOf s.curGroup.wg) → s.srcKey 0 d = some k →
      s.readRecords (twoRecords (s.srcBits 0 b) (s.descAddr (s.ctxOf s.curGroup.wg) (s.srcBits 0 a).toNat) 64 64) [] 3 = .got recs r →
      fieldLe (recs.getD 0 []) 0 1 ≠ 0 → r.descOk (s.ctxOf s.curGroup.wg) (recs.getD 1 []) = true → r.pubReady s.curGroup = true →
      (r.pub .sys s.curPlace).claimIndex (QDesc.ofBytes (recs.getD 1 [])).widx = (.ok n, u) →
      Completes i s (fun t => t.reg k = { bits := BitVec.ofNat 64 n, tag := 1, full := true } ∧ (∀ x, x ≠ k → t.reg x = s.reg x) ∧
        t.threads = s.threads ∧ t.mem = u.mem ∧ ∃ o, t.ops = u.ops ++ [o] ∧ o.done = false ∧ o.lines = s.curLanes ∧ t.pushOf.isSome = true ∧
          o.kind = .qpush (s.srcBits 0 a).toNat n (recs.getD 0 []) (s.curPc + BitVec.ofNat 64 s.curLen))
  (∀ w, pushes (.qpush w) (.uni w.d.toNat false) (uniA w) (uniB w)) ∧
  (∀ w, pushes (.qpush64 w) (form64 w false).dstSrc (form64 w false).a (form64 w false).b)
  )

/-! ## Stream registers (R399, R400) -/

/-- R144, R400: wopen opens a stream at head 0 with an empty FIFO as its descriptor says, wadv moves the head past the elements behind
it, wend tests it against the length in helper lanes too (R123), wclose closes and discards; no byte of memory changes but by the
descriptor's reading. R399, R400: wld gives each active lane, and each helper lane, the element at the head, wld.lane the one at head
+ its lane number, in ceiling(size / 8) registers with the stream's tag, later: from the FIFO where that holds it, else as fetched; an
element at or beyond the length reads zero. The head stays, and the FIFO keeps what was fetched within 8 elements of it. -/
def Obligations.StreamResults : Prop :=
  (
  let only := fun (s r t : State) (n : Nat) => t.stream n = r.stream n ∧ (∀ m, m ≠ n → t.stream m = s.stream m) ∧ t.regs = s.regs ∧ MovesOn s t
  let opens := fun (i : Instr) (d : Nat) (a : Src) => ∀ (s r : State) (recs : List (List Byte)) (x : Stream), s.curHelm = false → Bundle s → d < 8 →
    BundleReads s [a] [] → s.readRecords (streamRecords (s.srcBits 0 a)) [] 4 = .got recs r → streamOf recs r.writeSeq r.floors.length = some x →
    Completes i s (fun t => only s (r.setStream d x) t d ∧ t.mem = r.mem ∧ x.isOpen = true ∧ x.head = 0 ∧ x.fifo = [])
  let moves := fun (i : Instr) (a n : Nat) => ∀ s : State, s.curHelm = false → Bundle s → a < 8 → (s.stream a).isOpen = true →
    let head := min ((s.stream a).head + n) (2 ^ 32 - 1)
    Completes i s (fun t => only s (s.setStream a { s.stream a with head := head, fifo := (s.stream a).fifo.filter (fun e => decide (head ≤ e.1)) }) t a ∧
      t.mem = s.mem)
  let ends := fun (i : Instr) (f : Form) (d a : Nat) => ∀ s : State, s.curHelm = false → Bundle s → a < 8 → (s.stream a).isOpen = true →
    Completes i s (fun t => PutsPred s t false (s.active f ++ s.activeHelpers f) d (fun _ => decide ((s.stream a).len ≤ (s.stream a).head)) ∧
      t.regs = s.regs ∧ t.mem = s.mem ∧ t.groups = s.advance.groups)
  let closes := fun (i : Instr) (a : Nat) => ∀ s : State, s.curHelm = false → Bundle s → a < 8 →
    Completes i s (fun t => (t.stream a).isOpen = false ∧ (t.stream a).fifo = [] ∧ (∀ m, m ≠ a → t.stream m = s.stream m) ∧ t.regs = s.regs ∧ t.mem = s.mem ∧ MovesOn s t)
  (∀ w, opens (.wopen w) w.d.toNat (uniA w)) ∧ (∀ w, opens (.wopen64 w) (d64 w) (form64 w false).a) ∧
  (∀ w, moves (.wadv w) w.a.toNat w.b.toNat) ∧ (∀ w, moves (.wadv64 w) (a64 w) (immCode w)) ∧
  (∀ w, ends (.wend w) formNone w.d.toNat w.a.toNat) ∧ (∀ w, ends (.wend64 w) (form64 w false) (d64 w) (a64 w)) ∧
  (∀ w, closes (.wclose w) w.a.toNat) ∧ (∀ w, closes (.wclose64 w) (a64 w))
  ) ∧
  (
  let reads := fun (i : Instr) (f : Form) (perLane : Bool) (d a : Nat) => ∀ (s r u : State) (ix got : List (LaneRead × ReadOut)),
    let x := s.stream a
    let n := ceilDiv x.size 8
    let all := s.active f ++ s.activeHelpers f
    let from' := fun (l : Nat) => if perLane then l else all.headD 0
    s.curHelm = false → Bundle s → a < 8 → x.isOpen = true → d + n ≤ 64 → s.active f ≠ [] →
    ReadableIn s all [] ((upFrom d n).map (fun k => .lane k false)) →
    s.laneReads (s.streamView x) (streamIndexReads x perLane all) = (some ix, r) → (∀ g ∈ ix, ∃ b, g.2 = .bytes b) →
    (∀ e ∈ streamElems x perLane all ix, streamAligned x e.addr = true) →
    r.laneReads (s.streamView x) (streamElems x perLane all ix) = (some got, u) → (∀ g ∈ got, ∃ b, g.2 = .bytes b) →
    Completes i s (fun t =>
      (∀ l ∈ all, ∀ j < n, x.len ≤ streamPos x perLane (from' l) → Wrote s t (s.laneKey l (d + j)) true x.tag 0) ∧
      (∀ l ∈ all, ∀ j < n, ∀ b, streamPos x perLane (from' l) < x.len → x.held (streamPos x perLane (from' l)) = some b →
        Wrote s t (s.laneKey l (d + j)) true x.tag (wordOf ((b.drop (8 * j)).take 8))) ∧
      (∀ l ∈ all, ∀ j < n, streamPos x perLane (from' l) < x.len → x.held (streamPos x perLane (from' l)) = none → ∃ e ∈ streamElems x perLane all ix, ∃ b, e.lane = from' l ∧ (e, .bytes b) ∈ got ∧
        Wrote s t (s.laneKey l (d + j)) true x.tag (wordOf ((b.drop (8 * j)).take 8))) ∧
      (∀ e ∈ streamElems x perLane all ix, x.index = none → e.len = x.size ∧ e.addr = x.base + BitVec.ofNat 64 (streamPos x perLane e.lane) * x.stride) ∧
      (∀ k, (∀ l ∈ all, ∀ j < n, k ≠ s.laneKey l (d + j)) → t.reg k = s.reg k) ∧
      t.stream a = { x with fifo := (t.stream a).fifo } ∧ (∀ e ∈ x.fifo, e ∈ (t.stream a).fifo) ∧
      (∀ e ∈ (t.stream a).fifo, e ∈ x.fifo ∨ ∃ g ∈ got, g.2 = .bytes e.2 ∧ e.1 = streamPos x perLane g.1.lane ∧ e.1 < x.head + 8) ∧
      t.threads = s.advance.threads ∧ t.mem = u.mem)
  (∀ w, reads (.wld w) formNone false w.d.toNat w.a.toNat) ∧ (∀ w, reads (.wld64 w) (form64 w false) false (d64 w) (a64 w)) ∧
  (∀ w, reads (.wldLane w) formNone true w.d.toNat w.a.toNat) ∧ (∀ w, reads (.wldLane64 w) (form64 w false) true (d64 w) (a64 w))
  )

/-! ## Matrix instructions (R401 to R411) -/

/-- R236, R401, R402: a matrix instruction whose checks pass is accepted as a whole, or waits ready for acceptance. R415: one that
becomes ready while a write to ACC_OWNER or ACC_LIVE waits stays unchecked where it is. -/
def Obligations.MatrixAcceptance : Prop :=
  let at' := fun (i : Instr) (op : MatOp) => ∀ s : State, s.curHelm = true →
    (s.ownerHolds = false → Accepts i s (issuingHelm s) op) ∧ (s.ownerHolds = true → Completes i s (fun t => t = s))
  (∀ w, at' (.mzero w) (mat32 .mzero w)) ∧ (∀ w, at' (.mzero64 w) (mat64 .mzero w)) ∧ (∀ w, at' (.mma w) (mat64 .mma w)) ∧
  (∀ w, at' (.mgat w) (mat64 .mgat w)) ∧ (∀ w, at' (.mld w) (mat32 .mld w)) ∧ (∀ w, at' (.mld64 w) (mat64 .mld w)) ∧
  (∀ w, at' (.mst w) (mat32 .mst w)) ∧ (∀ w, at' (.mst64 w) (mat64 .mst w)) ∧ (∀ w, at' (.mfree w) (mat32 .mfree w)) ∧
  (∀ w, at' (.mfree64 w) (mat64 .mfree w)) ∧
  ∀ (s : State) (core w : Nat) (op : MatOp), w ∈ s.readyHelms core → (s.helm w).acceptWait = some op →
    (∀ v ∈ s.readyHelms core, v ≠ w → s.helmRank w < s.helmRank v) →
    Accepts (.matrixAccept core) s (issuingHelm { s with cur := .helm w (s.helm w).pc op.len }) op

/-- R404, R406 to R408: the operands of an accepted instruction: aligned offsets and strides within the allocation enter with their rows;
those that break a rule trap the Helm with the cause the rule names. -/
def Obligations.MatrixOperands : Prop :=
  ∀ (s : State) (op : MatOp), s.curHelm = true →
    let oa := (s.hVal op.a).toNat
    let ob := (s.hVal op.b).toNat
    let o := s.hVal op.a + op.disp
    let stride := match op.b with | some _ => s.hVal op.b | none => 128
    let trapped := fun (t : State) (cause : BitVec 8) => (t.helm s.curGroup.wg).trap.map (·.cause) = some cause ∧ t.regs = s.regs ∧ t.mem = s.mem
    let row := fun (i : Nat) => o + BitVec.ofNat 64 i * stride
    (op.kind = .mma → codeIsBx op.code = false →
      let rows := (List.range 32).map (fun i => oa + op.depth * i * codeBits op.code / 8)
      (oa % 128 ≠ 0 ∨ ob % 128 ≠ 0 → ∃ t, s.matPlan op = .stop t ∧ trapped t 0x05) ∧
      (oa % 128 = 0 → ob % 128 = 0 → (∀ r ∈ rows, r + op.depth * codeBits op.code / 8 ≤ s.curScratch) → ob + 32 * op.depth * codeBits op.code / 8 ≤ s.curScratch →
        ∃ l, s.matPlan op = .enter l s ∧ l.rows = rows.map some ∧ l.baseB = ob ∧ l.scales = [] ∧ l.bad = false ∧ l.planned = true)) ∧
    (op.kind = .mld → (o.toNat % 16 ≠ 0 → ∃ t, s.matPlan op = .stop t ∧ trapped t 0x05) ∧
      (o.toNat % 16 = 0 → (stride.toInt % 16 ≠ 0 ∨ stride.toInt.natAbs < 128) → ∃ t, s.matPlan op = .stop t ∧ trapped t 0x01) ∧
      (o.toNat % 16 = 0 → stride.toInt % 16 = 0 → 128 ≤ stride.toInt.natAbs → (∀ i < 32, (row i).toNat + 128 ≤ s.curScratch) →
        ∃ l, s.matPlan op = .enter l s ∧ l.addr = o ∧ l.stride = stride ∧
          ∀ off, off ∈ l.caps.map (·.off) ↔ ∃ i < 32, (row i).toNat / 8 * 8 ≤ off ∧ off < (row i).toNat + 128 ∧ off % 8 = 0)) ∧
    (op.kind = .mst → (o.toNat % 16 ≠ 0 → ∃ t, s.matPlan op = .stop t ∧ trapped t 0x05) ∧
      (o.toNat % 16 = 0 → (stride.toInt % 16 ≠ 0 ∨ stride.toInt.natAbs < 32 * (if op.so = 0 then 4 else 2)) → ∃ t, s.matPlan op = .stop t ∧ trapped t 0x01))

/-- R405, R407, R409, R236: at its token a product leaves every element of its tile as the chain over K products onto the
element before, or onto 0 if the tile was not live; mzero leaves zeros, mld the captured bytes, mfree clears the live bit;
other tiles keep their bits. For integer inputs of class E the element is the exact sum modulo 2^32. R258, R408: a NaN that mst
narrows becomes the canonical one. R235, R240: an instruction starts once its operands are captured, no earlier one on its tile is
left, and, for a product, no other product executes; by the model's choice (log entry 59) none of its Helm's before it still waits for
its rows. A token that has not returned 512 core cycles after the start leaves the tile poisoned and a lasting error logged, mst and
mfree then doing their part. -/
def Obligations.MatrixIssueAndStart : Prop :=
  (
  (∀ (s : State) (c : Nat) (l : Latch), (s.core c).latches.filter (fun l => l.executing) = [l] → s.errInjs = [] → l.op.tile < 8 →
    let stored := fun (els : List Nat) (bad : Bool) => mstWrites l ((if l.wasLive then els else List.replicate 1024 0).map (fun e => (mstCode l.op.so e).1)) bad
    Completes (.matrixToken c) s (fun t => t.regs = s.regs ∧ t.threads = s.threads ∧
      (t.core c).latches = (s.core c).latches.erase l ∧
      (∀ n < 8, n ≠ l.op.tile → t.tileStored c n = s.tileStored c n ∧ (t.core c).tileIsLive n = (s.core c).tileIsLive n ∧
        (t.core c).tileIsFull n = (s.core c).tileIsFull n ∧ (t.core c).tileIsBad n = (s.core c).tileIsBad n) ∧
      (t.core c).tileIsFull l.op.tile = !(((s.core c).latches.erase l).any (fun e => e.op.tile == l.op.tile && e.op.kind.writesTile)) ∧
      ((l.op.kind = .mma ∨ l.op.kind = .mgat) → (t.core c).tileIsBad l.op.tile = (l.wasLive && (s.core c).tileIsBad l.op.tile || l.bad) ∧
        ((l.wasLive = true → l.wasTag = codeIsInt l.op.code) → ∀ i < 32, ∀ j < 32,
          let before := if l.wasLive then (s.tileStored c l.op.tile).getD (32 * i + j) 0 else 0
          let ps := (List.range l.op.depth).map (fun k => ((l.elemA i k).2, (l.elemB k j).2, (l.elemA i k).1, (l.elemB k j).1))
          (t.tileStored c l.op.tile).getD (32 * i + j) 0 = (matElement l.op.code l.op.so before ps).1 % 2 ^ 32 ∧
          (matElement l.op.code l.op.so before ps).2 &&& ~~~(t.helm l.wg).flags = 0)) ∧
      (l.op.kind = .mzero → (t.core c).tileIsBad l.op.tile = false ∧ ∀ i < 1024, (t.tileStored c l.op.tile).getD i 0 = 0) ∧
      (l.op.kind = .mld → (t.core c).tileIsBad l.op.tile = l.bad ∧ ∀ i < 32, ∀ j < 32,
        (t.tileStored c l.op.tile).getD (32 * i + j) 0 = l.elemAt 32 (l.addr + BitVec.ofNat 64 i * l.stride).toNat j % 2 ^ 32) ∧
      (l.op.kind = .mfree → (t.core c).tileIsLive l.op.tile = false ∧ t.tileStored c l.op.tile = s.tileStored c l.op.tile) ∧
      (l.op.kind = .mst → t.tileStored c l.op.tile = s.tileStored c l.op.tile ∧ ∀ o ∈ s.ops, some o.id = l.asyncId →
        { o with kind := .tileStore (stored (s.tileStored c l.op.tile) (l.wasLive && (s.core c).tileIsBad l.op.tile)) } ∈ t.ops))) ∧
  (∀ (code old : Nat) (ps : List (Byte × Byte × Nat × Nat)), 9 ≤ code → code ≤ 12 → (∀ p ∈ ps, p.2.2.1 < 2 ^ codeBits code ∧ p.2.2.2 < 2 ^ codeBits code) →
    ((matElement code 0 old ps).1 : Int) = ((old : Int) + (ps.map (fun p => codeInt code p.2.2.1 * codeInt code p.2.2.2)).sum) % 2 ^ 32 ∧ (matElement code 0 old ps).2 = 0) ∧
  ∀ x < 2 ^ 32, (f32.decode x).isNaN = true → (mstCode 1 x).1 = 0x7FC0 ∧ (mstCode 2 x).1 = 0x7E00
  ) ∧
  (
  (∀ (s : State) (c n : Nat), let g := s.gatherUnit c
    let ls := (g.core c).latches
    let may := fun (n : Nat) => ∃ l, ls[n]? = some l ∧ l.executing = false ∧ l.capDone = true ∧ (∀ e ∈ ls.take n, e.op.tile ≠ l.op.tile) ∧
      (∀ e ∈ ls.take n, e.wg = l.wg → e.planned = true) ∧
      ((l.op.kind = .mma ∨ l.op.kind = .mgat) → ∀ e ∈ ls, (e.op.kind = .mma ∨ e.op.kind = .mgat) → e.executing = false)
    may n → (∀ m < n, ¬may m) →
    Completes (.matrixStart c) s (fun t => (t.core c).latches = ls.modify n (fun l => { l with executing := true }) ∧ t.regs = s.regs ∧ t.threads = s.threads)) ∧
  ∀ (s : State) (c : Nat) (l : Latch), s.errInjs = [] → (s.core c).latches.find? (fun l => l.executing && decide (512 ≤ l.waited)) = some l → l.op.tile < 8 →
    Completes (.matrixTokenTimeout c) s (fun t => (t.core c).tileIsBad l.op.tile = true ∧ (t.core c).latches = (s.core c).latches.erase l ∧
      t.mem = s.mem ∧ t.regs = s.regs ∧ ((FMap.find t.errLogs (arrayId 6 c)).map (fun e => e.lasting)) =
        some (satInc (FMap.getD s.errLogs (arrayId 6 c) ErrLog.reset).lasting) ∧
      (l.op.kind = .mfree → (t.core c).tileIsLive l.op.tile = false) ∧
      (l.op.kind = .mst → ∀ o ∈ s.ops, some o.id = l.asyncId → ∃ ws, { o with kind := .tileStore ws } ∈ t.ops ∧ (l.wasLive = true → ∀ w ∈ ws, w.2 = .poisoned 8)))
  )

/-- R242, R410: msc puts an h register's value in SCALE_BASE, SCALE_ORG or SCALE_SHIFT and drops the Helm's cached scales;
mscinv drops them. R411: msave stores a full tile's 4 KiB at its area and changes nothing else but A and D bits; mrest puts 4
KiB in a tile with the tag of SO, full; neither changes ACC_OWNER or ACC_LIVE. -/
def Obligations.ScaleAndTileResults : Prop :=
  (
  let sets := fun (i : Instr) (so : Nat) (a : Src) => ∀ s : State, s.curHelm = true → (so < 2 → s.srcTagOf 0 a = 1) → ReadableIn s [0] [a] [] →
    let h := s.helm s.curGroup.wg
    Completes i s (fun t => t = State.advance (s.setHelm s.curGroup.wg { h with
      scaleBase := if so = 0 then s.srcBits 0 a else h.scaleBase
      scaleOrg := if so = 1 then s.srcBits 0 a else h.scaleOrg
      scaleShift := if 2 ≤ so then (s.srcBits 0 a).setWidth 6 else h.scaleShift
      scaleCache := [] }))
  let drops := fun (i : Instr) => ∀ s : State, s.curHelm = true →
    Completes i s (fun t => t = State.advance (s.setHelm s.curGroup.wg { s.helm s.curGroup.wg with scaleCache := [] }))
  (∀ w, sets (.msc w) w.so.toNat (uniA w)) ∧ (∀ w, sets (.msc64 w) w.so.toNat (form64 w false).a) ∧ (∀ w, drops (.mscinv w)) ∧ (∀ w, drops (.mscinv64 w))
  ) ∧
  (
  let saves := fun (i : Instr) (n : Nat) (srcs : List Src) (req : State → Req) (space : Nat) (addr : State → Word) => ∀ (s u : State) (ps : List Spot) (x : Nat),
    let c := s.coreOf s.curGroup.wg
    Memory.wf s.mem = true → s.curHelm = false → Bundle s → s.allPriv = true → (∀ m, s.curWait ≠ .fabric m) → ReadableIn s s.curLanes srcs [] →
    (s.core c).tileIsFull n = true → (s.core c).tileIsBad n = false → s.pubPending s.curGroup = false → (addr s).toNat % 128 = 0 → s.fabReqs = [] →
    s.resolveTile (req s) space .write ((List.range 512).map (fun i => addr s + BitVec.ofNat 64 (8 * i))) = (.ok ps, u) →
    (∀ j < 512, ∃ p, ps[j]? = some p ∧ p.loc = .flat (x + 8 * j) ∧ u.lineAbsent (x + 8 * j) = false ∧ u.lineEmpty (x + 8 * j) = false ∧
      ∀ a, x ≤ a → a < x + 4096 → spotTouches p a = false) →
    Completes i s (fun t => t.bytesAt x 4096 = s.bytesAt (tileAt c n) 4096 ∧ t.regs = s.regs ∧ t.cores = s.cores ∧ MovesOn s t ∧
      ∀ a, (a < x ∨ x + 4096 ≤ a) → (∀ p ∈ ps, spotTouches p a = false) → t.byteAt a = s.byteAt a)
  let owns := fun (i : Instr) (n : Nat) => saves i n [] (fun s => { s.bundleReq with lane := none, ctx := (s.core (s.coreOf s.curGroup.wg)).accOwner.toNat }) spGlobal
    (fun s => match FMap.find s.ctxs (s.core (s.coreOf s.curGroup.wg)).accOwner.toNat with
      | some x => x.accSave + BitVec.ofNat 64 (32768 * s.coreOf s.curGroup.wg + 4096 * n)
      | none => 1)
  let restores := fun (i : Instr) (n so : Nat) (a : Src) => ∀ (s u : State) (ps : List Spot),
    let c := s.coreOf s.curGroup.wg
    let r : Req := { s.bundleReq with lane := none }
    let ad := s.srcBits 0 a
    s.curHelm = false → Bundle s → s.allPriv = true → ReadableIn s s.curLanes [a] [] → (∀ l ∈ (s.core c).latches, l.op.tile ≠ n) →
    s.phasePending s.curGroup = false → s.recordHeld ad 4096 = false → ad.toNat % 128 = 0 →
    s.resolveTile r spGeneric .read ((List.range 512).map (fun i => ad + BitVec.ofNat 64 (8 * i))) = (.ok ps, u) →
    (∀ p ∈ ps, u.sliceFull p = false ∧ ∃ y, p.loc = .flat y ∧ u.lineAbsent y = false ∧ u.lineEmpty y = false) →
    let got := u.takePieces r .floor ad ((List.range 512).map (fun i => (8 * i, 8)))
    Completes i s (fun t => (∀ j < 1024, (t.tileStored c n).getD j 0 = fieldLe got.1.bytes (4 * j) 4) ∧
      (t.core c).tileIsFull n = true ∧ (t.core c).tileIsInt n = (so == 1) ∧ (t.core c).tileIsBad n = got.1.bad ∧
      (t.core c).accOwner = (s.core c).accOwner ∧ (t.core c).accLive = (s.core c).accLive ∧ t.regs = s.regs ∧ MovesOn s t)
  (∀ w, saves (.msave w) (w.d.toNat % 8) [uniA w] (fun s => { s.bundleReq with lane := none }) spGeneric (fun s => s.srcBits 0 (uniA w))) ∧
  (∀ w, saves (.msave64 w) (d64 w % 8) [(form64 w false).a] (fun s => { s.bundleReq with lane := none }) spGeneric (fun s => s.srcBits 0 (form64 w false).a)) ∧
  (∀ w, owns (.msaveOwn w) (w.d.toNat % 8)) ∧ (∀ w, owns (.msaveOwn64 w) (d64 w % 8)) ∧
  (∀ w, restores (.mrest w) (w.d.toNat % 8) w.so.toNat (uniA w)) ∧ (∀ w, restores (.mrest64 w) (d64 w % 8) w.so.toNat (form64 w false).a)
  )

/-! ## System registers (R413 to R417) -/

/-- R413 to R417: rdsys puts the value at issue of the register in D, full and tagged I64: each active lane's own, and each helper
lane's (R123), in a v register, the lowest active lane's in an s register; privileged registers in privileged mode only, FLAGS once no result is
under way. R262, R274, R415, R417: wrsys writes a register that is per thread in every active lane, any other from the highest
active lane; it then reads the written value without its reserved bits, and nothing else changes but the issuer's moving on; a write to
ACC_OWNER or ACC_LIVE waits while the Gauntlet holds an instruction.
-/
def Obligations.SystemRegisterResults : Prop :=
  (
  let reads := fun (i : Instr) (f : Form) (n : Nat) (d : Src) => ∀ s : State, s.curHelm = false → Bundle s → s.active f ≠ [] →
    n ≤ 0x18 → n ≠ 0x0F → (s.allPriv = true ∨ (n < 7 ∨ (0x10 ≤ n ∧ n ≠ 0x13))) → ReadableIn s (s.active f ++ if d.isUni then [] else s.activeHelpers f) [] [d] →
    (n = 5 → s.flagsPending s.curGroup = false) →
    let into := if d.isUni then (s.active f).take 1 else s.active f ++ s.activeHelpers f
    Completes i s (fun t => t = { s.advance with regs := t.regs } ∧
      (∀ l ∈ into, ∀ k, s.srcKey l d = some k → t.reg k = { bits := s.sysRead l n, tag := 1, full := true }) ∧
      ∀ k, (∀ l ∈ into, s.srcKey l d ≠ some k) → t.reg k = s.reg k)
  (∀ n d : BitVec 6, reads (.rdsys n d) formNone n.toNat (.uni d.toNat false)) ∧
  (∀ w, reads (.rdsys64 w) (form64 w false) (immCode w) (form64 w false).dstSrc) ∧
  ∀ (s : State) (l : Nat),
    let g := s.curGroup
    let x := s.thread (s.curThread l)
    let c := s.core (s.coreOf g.wg)
    s.sysRead l 0x00 = BitVec.ofNat 64 (s.coreOf g.wg) ∧ s.sysRead l 0x01 = BitVec.ofNat 64 (s.coreOf g.wg / 8) ∧
    s.sysRead l 0x02 = BitVec.ofNat 64 (s.coreOf g.wg / 160) ∧ s.sysRead l 0x03 = BitVec.ofNat 64 (s.ctxOf g.wg) ∧
    s.sysRead l 0x04 = c.cycles ∧ s.sysRead l 0x05 = (s.group g).flags ∧ s.sysRead l 0x06 = (s.group g).feAction.setWidth 64 ∧
    s.sysRead l 0x07 = x.trapCause.setWidth 64 ∧ s.sysRead l 0x08 = x.trapPc ∧ s.sysRead l 0x09 = x.trapAddr ∧ s.sysRead l 0x0A = x.trapInfo ∧
    s.sysRead l 0x0B = s.trapVec (s.ctxOf g.wg) ∧ s.sysRead l 0x0C = s.ptRoot (s.ctxOf g.wg) ∧ s.sysRead l 0x0D = c.accOwner.setWidth 64 ∧
    (∀ n < 8, bitAt (s.sysRead l 0x0E) n = c.tileIsLive n ∧ bitAt (s.sysRead l 0x0E) (8 + n) = c.tileIsInt n ∧
      bitAt (s.sysRead l 0x0E) (16 + n) = !c.tileIsFull n) ∧ (s.sysRead l 0x0E).toNat < 2 ^ 24 ∧
    s.sysRead l 0x10 = (s.helm g.wg).scaleBase ∧ s.sysRead l 0x11 = (s.helm g.wg).scaleOrg ∧ s.sysRead l 0x12 = (s.helm g.wg).scaleShift.setWidth 64 ∧
    s.sysRead l 0x13 = s.hotBase ∧ bitAt (s.sysRead l 0x14) 0 = (s.launchOf g.wg).det ∧ bitAt (s.sysRead l 0x14) 1 = (s.wg g.wg).direct ∧
    (s.sysRead l 0x14).toNat < 4 ∧ s.sysRead l 0x16 = 0 ∧ s.sysRead l 0x17 = 0 ∧ s.sysRead l 0x18 = 0
  ) ∧
  (
  let writes := fun (i : Instr) (f : Form) (n : Nat) (a : Src) => ∀ s : State, s.curHelm = false → Bundle s → s.active f ≠ [] →
    n ∈ [5, 6, 7, 8, 9, 0x0A, 0x0B, 0x0C, 0x0D, 0x0E, 0x13] → (s.allPriv = true ∨ n < 7) → ReadableIn s (s.active f) [a] [] →
    (n = 5 → s.flagsPending s.curGroup = false) → (FMap.find s.ctxs (s.ctxOf s.curGroup.wg)).isSome = true →
    ((n = 0x0D ∨ n = 0x0E) → (s.core (s.coreOf s.curGroup.wg)).latches ≠ [] → Completes i s (fun t => WaitsAt s t .gauntlet)) ∧
    (((n = 0x0D ∨ n = 0x0E) → (s.core (s.coreOf s.curGroup.wg)).latches = []) →
    let last := s.srcBits ((s.active f).getLastD 0) a
    Completes i s (fun t =>
      (∀ l ∈ s.active f, let v := s.srcBits l a
        t.sysRead l n = (match n with
          | 5 => last &&& 0x1F | 6 => last &&& 3 | 7 => v &&& 0xFF | 8 => v &&& ~~~1 | 9 => v | 0x0A => v | 0x0B => last &&& ~~~1
          | 0x0C => last &&& 0x000FFFFFFFFFF300 | 0x0D => last &&& 0xFFFF | 0x0E => (s.sysRead l n &&& 0xFFFF00) ||| (last &&& 0xFF)
          | _ => last &&& 0x0000007FFFE00001)) ∧
      (∀ l ∈ s.curLanes, ∀ m, m ≠ n → t.sysRead l m = s.sysRead l m) ∧
      (∀ l ∈ s.curLanes, l ∉ s.active f → 7 ≤ n → n ≤ 0x0A → t.sysRead l n = s.sysRead l n) ∧
      t.regs = s.regs ∧ t.mem = s.mem ∧ t.wgs = s.wgs ∧ t.helms = s.helms ∧ MovesOn s t))
  (∀ n a : BitVec 6, writes (.wrsys n a) formNone n.toNat (.uni a.toNat false)) ∧
  (∀ w, writes (.wrsys64 w) (form64 w false) (immCode w) (form64 w false).a)
  )

/-! ## Traps, handlers, parked threads (R275 to R280, R418 to R421) -/

/-- R277, R279, R418, R420: eret takes each active thread to user mode at its TRAP_PC, out of its handler, and frees a Helm
whose trap it took; park and halt park each active thread, whose state stays, and post one fault record. R97, R278, R279,
R284, R419, R420: resume makes the parked thread of the context that the handle names runnable, as by eret where its handler
parked it; kill ends it; a handle that names none does nothing. The bundle moves on at once. R201, R421: tlbinv begins a
translation fence of the context, for all addresses or for one, and waits for it; where it has completed, or the context does
not exist, the bundle moves on. -/
def Obligations.HandlerResults : Prop :=
  (
  let rets := fun (i : Instr) (f : Form) => ∀ s : State, s.curHelm = false → Bundle s → (∀ l ∈ s.curLanes, (s.thread (s.curThread l)).inHandler = true) →
    Completes i s (fun t =>
      (∀ l ∈ s.active f, t.thread (s.curThread l) = { s.thread (s.curThread l) with
        priv := false, inHandler := false, pc := (s.thread (s.curThread l)).trapPc, park := .running, wait := .none, hang := 0 }) ∧
      (∀ id, (∀ l ∈ s.active f, id ≠ s.curThread l) → t.thread id = s.advance.thread id) ∧
      (∀ h l, (s.helm s.curGroup.wg).trap = some h → l ∈ s.active f → h.taker = some (s.curThread l) → (t.helm s.curGroup.wg).trap = none) ∧
      (∀ h, (s.helm s.curGroup.wg).trap = some h → (∀ l ∈ s.active f, h.taker ≠ some (s.curThread l)) → t.helms = s.helms) ∧
      t.regs = s.regs ∧ t.mem = s.mem ∧ t.groups = s.advance.groups)
  let parks := fun (i : Instr) (f : Form) (kind : ParkKind) (cause : Thread → Nat) (pre : State → Prop) => ∀ s : State, s.curHelm = false → Bundle s → pre s →
    Completes i s (fun t =>
      (∀ l ∈ s.active f, let x := s.advance.thread (s.curThread l)
        let y := t.thread (s.curThread l)
        y = { x with park := kind, handle := y.handle } ∧
        ∀ c, FMap.find s.ctxs (s.ctxOf s.curGroup.wg) = some c → c.dying = false → ∃ c' r, FMap.find t.ctxs (s.ctxOf s.curGroup.wg) = some c' ∧
          r ∈ c'.fqWaiting ∧ r.length = 64 ∧ fieldLe r 0 2 = cause (s.thread (s.curThread l)) ∧ fieldLe r 2 1 = 0 ∧
          BitVec.ofNat 64 (fieldLe r 24 8) = t.handleOf (s.curThread l)) ∧
      (∀ id, (∀ l ∈ s.active f, id ≠ s.curThread l) → t.thread id = s.advance.thread id) ∧
      t.regs = s.regs ∧ t.mem = s.mem ∧ t.helms = s.helms ∧ t.groups = s.advance.groups)
  let inHandler := fun (s : State) => ∀ l ∈ s.curLanes, (s.thread (s.curThread l)).inHandler = true
  let form := fun (w : R32) => { formNone with uniform := w.u }
  (∀ w, rets (.eret w) (form w)) ∧ (∀ w, rets (.eret64 w) (form64 w false)) ∧
  (∀ w, parks (.park w) (form w) .byPark (fun x => x.trapCause.toNat) inHandler) ∧
  (∀ w, parks (.park64 w) (form64 w false) .byPark (fun x => x.trapCause.toNat) inHandler) ∧
  (∀ w, parks (.halt w) (form w) .byHalt (fun _ => 0x24) (fun s => s.allPriv = true)) ∧
  (∀ w, parks (.halt64 w) (form64 w false) .byHalt (fun _ => 0x24) (fun s => s.allPriv = true))
  ) ∧
  (
  let acts := fun (i : Instr) (a : Src) (effect : State → State → ThreadId → Prop) => ∀ s : State, s.curHelm = false → Bundle s → s.allPriv = true →
    ReadableIn s s.curLanes [a] [] →
    (∀ id, s.parkedBy (s.ctxOf s.curGroup.wg) (s.srcBits 0 a) = some id → Completes i s (fun t => effect s t id ∧ t.regs = s.regs)) ∧
    (s.parkedBy (s.ctxOf s.curGroup.wg) (s.srcBits 0 a) = none → (∀ l ∈ s.curLanes, s.handleOf (s.curThread l) ≠ s.srcBits 0 a) → exec i s = .next s.advance)
  let resumed := fun (s t : State) (id : ThreadId) => let x := s.advance.thread id
    t.thread id = (if x.park = .byPark then { x with priv := false, inHandler := false, pc := x.trapPc, park := .running, wait := .none, hang := 0 }
      else { x with park := .running }) ∧ (∀ o, o ≠ id → t.thread o = s.advance.thread o) ∧ t.mem = s.mem ∧ t.groups = s.advance.groups
  let killed := fun (s t : State) (id : ThreadId) => (t.thread id).live = false ∧ (t.wg id.wg).killed = true ∧
    (∀ e ∈ (t.core (s.coreOf id.wg)).sideLog, e.thread ≠ id) ∧
    ∀ o, o ≠ id → (t.thread o).live = (s.thread o).live ∧ (t.thread o).pc = (s.advance.thread o).pc
  (∀ w, acts (.resume w) (uniA w) resumed) ∧ (∀ w, acts (.resume64 w) (form64 w false).a resumed) ∧
  (∀ w, acts (.kill w) (uniA w) killed) ∧ (∀ w, acts (.kill64 w) (form64 w false).a killed)
  ) ∧
  (
  let fences := fun (i : Instr) (a : Option Src) (b : Src) => ∀ s : State, s.curHelm = false → Bundle s → s.allPriv = true →
    let va := a.map (fun x => (s.srcBits 0 x).toNat)
    let ctx := (s.srcBits 0 b).toNat
    ReadableIn s s.curLanes (b :: a.toList) [] → (∀ x, va = some x → x < 2 ^ 57) →
    ((∀ n, s.curWait ≠ .fence n) → (FMap.find s.ctxs ctx).isSome = true → Completes i s (fun t =>
      t.fences = s.fences ++ [{ id := s.nextId, ctx := ctx, va := va }] ∧
      WaitsAt { s with fences := t.fences, nextId := s.nextId + 1 } t (.fence s.nextId))) ∧
    ((∀ n, s.curWait ≠ .fence n) → FMap.find s.ctxs ctx = none → exec i s = .next s.advance) ∧
    (∀ n, s.curWait = .fence n → (∀ f ∈ s.fences, f.id ≠ n) → exec i s = .next s.advance) ∧
    (∀ n, s.curWait = .fence n → (∃ f ∈ s.fences, f.id = n) → exec i s = .next s)
  (∀ w, fences (.tlbinvAll w) none (uniB w)) ∧ (∀ w, fences (.tlbinvAll64 w) none (form64 w false).b) ∧
  (∀ w, fences (.tlbinvVa w) (some (uniA w)) (uniB w)) ∧ (∀ w, fences (.tlbinvVa64 w) (some (form64 w false).a) (form64 w false).b)
  )

/-- R281, R314: the extension escape traps every thread of the bundle: ILLEGAL, REASON 1 with selector 0; EMULATE with any
other, the feature being absent. R138, R311, R386, R389, R391, R395, R398, R400, R412, R417 to R421: an operand outside its
limits traps every thread of the bundle with ILLEGAL, REASON 3, and a privileged instruction in user mode with REASON 4;
nothing else happens. -/
def Obligations.EscapesAndIllegalOperands : Prop :=
  (
  let traps := fun (i : Instr) (f : BitVec 2) => ∀ s : State, s.curHelm = false → Bundle s →
    Completes i s (fun t => if f = 0 then TrapsIllegal s t 0x01 1 else TrapsIllegal s t 0x02 0)
  (∀ x b f, traps (.extensionEscape x b f) f) ∧ (∀ x b f, traps (.extensionEscape64 x b f) f)
  ) ∧
  (
  let traps := fun (i : Instr) (when' : State → Prop) (reason : Nat) => ∀ s : State, s.curHelm = false → Bundle s → when' s →
    Completes i s (fun t => TrapsIllegal s t 0x01 reason)
  let user := fun (s : State) => s.allPriv = false
  let beyondD := fun (d : Nat) (s : State) => ¬BarrierField s d
  let outside := fun (s : State) => ∃ l ∈ s.curLanes, (s.thread (s.curThread l)).inHandler = false
  (∀ c : BitVec 3, 6 ≤ c.toNat → traps (.pub c) (fun _ => True) 3 ∧ traps (.pull c) (fun _ => True) 3 ∧ traps (.phase c) (fun _ => True) 3) ∧
  (∀ w, 6 ≤ scope64 w → traps (.pub64 w) (fun _ => True) 3 ∧ traps (.pull64 w) (fun _ => True) 3 ∧ traps (.phase64 w) (fun _ => True) 3) ∧
  (∀ w, let beyond := fun (s : State) => (s.launchOf s.curGroup.wg).barsN ≤ w.a.toNat
    traps (.barInit w) beyond 3 ∧ traps (.barArrive w) beyond 3 ∧ traps (.barWait w) beyond 3 ∧ traps (.barSync w) beyond 3) ∧
  (∀ w, let beyond := fun (s : State) => (s.launchOf s.curGroup.wg).barsN ≤ barA64 w
    traps (.barInit64 w) beyond 3 ∧ traps (.barArrive64 w) beyond 3 ∧ traps (.barWait64 w) beyond 3 ∧ traps (.barSync64 w) beyond 3) ∧
  (∀ f w, 63 < immCode w → traps (.wait64 f w) (fun _ => True) 3) ∧
  (∀ w, let bad := fun (s : State) => 8 ≤ w.a.toNat ∨ (s.stream w.a.toNat).isOpen = false
    traps (.wadv w) bad 3 ∧ traps (.wend w) bad 3 ∧ traps (.wld w) bad 3 ∧ traps (.wldLane w) bad 3) ∧
  (∀ n x : BitVec 6, (0x18 < n.toNat ∨ n.toNat = 0x0F) → traps (.rdsys n x) (fun _ => True) 3 ∧ traps (.wrsys n x) (fun _ => True) 3) ∧
  (∀ n x : BitVec 6, (n.toNat ≤ 4 ∨ (0x10 ≤ n.toNat ∧ n.toNat ≠ 0x13)) → traps (.wrsys n x) (fun _ => True) 3) ∧
  (∀ n x : BitVec 6, ((7 ≤ n.toNat ∧ n.toNat ≤ 0x0E) ∨ n.toNat = 0x13) → traps (.rdsys n x) user 4 ∧ traps (.wrsys n x) user 4) ∧
  (∀ w : R32, let d := beyondD w.d.toNat
    traps (.cpy w) d 3 ∧ traps (.xformTranspose w) d 3 ∧ traps (.xformCompress w) d 3 ∧ traps (.xformDecompress w) d 3 ∧ traps (.xformConvert w) d 3 ∧
    traps (.xformRepack w) d 3 ∧ traps (.xformMigrate w) d 3 ∧ traps (.gat w) d 3 ∧ traps (.chain w) d 3) ∧
  (∀ w : R64, let d := beyondD (form64 w false).d
    traps (.cpy64 w) d 3 ∧ traps (.xformTranspose64 w) d 3 ∧ traps (.xformCompress64 w) d 3 ∧ traps (.xformDecompress64 w) d 3 ∧
    traps (.xformConvert64 w) d 3 ∧ traps (.xformRepack64 w) d 3 ∧ traps (.xformMigrate64 w) d 3 ∧ traps (.gat64 w) d 3 ∧ traps (.chain64 w) d 3) ∧
  (∀ w, traps (.eret w) outside 4 ∧ traps (.park w) outside 4) ∧ (∀ w, traps (.eret64 w) outside 4 ∧ traps (.park64 w) outside 4) ∧
  (∀ w, traps (.halt w) user 4 ∧ traps (.resume w) user 4 ∧ traps (.kill w) user 4 ∧ traps (.tlbinvAll w) user 4 ∧ traps (.tlbinvVa w) user 4 ∧
    traps (.xformMigrate w) (fun s => user s ∧ BarrierField s w.d.toNat) 4 ∧ traps (.msave w) user 4 ∧ traps (.msaveOwn w) user 4 ∧ traps (.mrest w) user 4) ∧
  (∀ w, traps (.halt64 w) user 4 ∧ traps (.resume64 w) user 4 ∧ traps (.kill64 w) user 4 ∧ traps (.tlbinvAll64 w) user 4 ∧ traps (.tlbinvVa64 w) user 4 ∧
    traps (.xformMigrate64 w) (fun s => user s ∧ BarrierField s (form64 w false).d) 4 ∧ traps (.msave64 w) user 4 ∧ traps (.msaveOwn64 w) user 4 ∧ traps (.mrest64 w) user 4)
  )

/-! ## Cornice units (R422, R430 to R436) -/

/-- R432, R434: a lane operation of a Cornice unit writes its result to every lane of D, poisoned where a register that feeds it is,
and goes to the next word; conversions by Convert, fscale by the signed immediate. -/
def Obligations.CorniceLaneResults : Prop :=
  let lane := fun (i : Instr) (d : Nat) (srcs : List Nat) (g : List Nat → Nat) =>
    ∀ (s : State) (u : Nat), s.cur = .cornice u → FMap.find s.errInjs (arrayId 15 u) = none → Completes i s (fun t =>
      (∀ j < 16, ((t.unit u).cAt d)[j]? = some (BitVec.ofNat 32 (g (srcs.map (fun n => (((s.unit u).cAt n).getD j 0).toNat))))) ∧
      (∀ p < 8, bitAt ((t.unit u).cBad d) p = srcs.any (fun n => bitAt ((s.unit u).cBad n) p)) ∧
      (∀ n, n ≠ d → (t.unit u).cAt n = (s.unit u).cAt n ∧ (t.unit u).cBad n = (s.unit u).cBad n) ∧
      t = s.setUnit u { s.unit u with
        c := (t.unit u).c, cPoison := (t.unit u).cPoison, pc := (s.unit u).pc + 1, steps := (s.unit u).steps + 1 })
  let x := fun (l : List Nat) (n : Nat) => l.getD n 0
  ∀ w : CW,
    let a := w.a.toNat
    let b := w.b.toNat
    let cls := w.cls.toNat
    lane (.corniceFadd w) w.d.toNat [a, b] (fun l => (f32.addCodes (x l 0) (x l 1)).1) ∧
    lane (.corniceFsub w) w.d.toNat [a, b] (fun l => (f32.subCodes (x l 0) (x l 1)).1) ∧
    lane (.corniceFmul w) w.d.toNat [a, b] (fun l => (f32.mulCodes cls (x l 0) (x l 1)).1) ∧
    lane (.corniceFma w) w.d.toNat [a, b, w.c.toNat] (fun l =>
      if !(f32.decode (x l 0)).isNaN && !(f32.decode (x l 1)).isNaN && (f32.decode (x l 2)).isNaN then x l 2 ||| 0x400000
      else (f32.fmaCodes cls false (x l 0) (x l 1) (x l 2)).1) ∧
    lane (.corniceFmax w) w.d.toNat [a, b] (fun l => (f32.maxCodes (x l 0) (x l 1)).1) ∧
    lane (.corniceFmin w) w.d.toNat [a, b] (fun l => (f32.minCodes (x l 0) (x l 1)).1) ∧
    lane (.corniceFrcp w) w.d.toNat [a] (fun l => (f32.special 0 cls (x l 0)).1) ∧
    lane (.corniceFrsq w) w.d.toNat [a] (fun l => (f32.special 1 cls (x l 0)).1) ∧
    lane (.corniceFsqrt w) w.d.toNat [a] (fun l => (f32.special 2 cls (x l 0)).1) ∧
    lane (.corniceCvt w) w.d.toNat [a] (fun l =>
      if bitAt w.imm 0 then
        (convert (x l 0 % 2 ^ 16) (.fl (if bitAt w.imm 1 then f16 else bf16)) (.fl f32) .rne false).1
      else (convert (x l 0) (.fl f32) (.fl (if bitAt w.imm 1 then f16 else bf16)) .rne false).1) ∧
    lane (.corniceFscale w) w.d.toNat [a] (fun l => (f32.ofVal ((f32.decode (x l 0)).scale w.imm.toInt)).1)

/-- R430, R433, R435, R436: row transfers, slices of a buffer, waits, the integer and control words of a Cornice unit, the end of a
stripe and the pooling step. A word that waits leaves every state as it is; one that goes on changes only its unit. -/
def Obligations.CorniceTransferAndControlResults : Prop :=
  ∀ (w : CW) (s : State) (u : Nat), s.cur = .cornice u → FMap.find s.errInjs (arrayId 15 u) = none →
    let x := s.unit u
    let moved := { x with pc := x.pc + 1, steps := x.steps + 1 }
    let label := (w.imm.setWidth 8).toNat
    let put := fun (i : Instr) (v : BitVec 32) (d : Nat) (pc : Nat) => Completes i s (fun t =>
      (∀ n, (t.unit u).xAt n = if n = d then v else x.xAt n) ∧
      t = s.setUnit u { moved with x := (t.unit u).x, pc := pc })
    let local' := (x.xAt w.a.toNat + w.imm.signExtend 32 * 256).toNat
    let row := fun (i : Instr) (buf : Nat) (write : Bool) =>
      (x.busy buf = true → (s.unitCmd u).isSome → Completes i s (fun t => t = s)) ∧
      (∀ c, s.unitCmd u = some c → x.busy buf = false → local' % 256 = 0 → c.grants write local' 1024 = true →
        Completes i s (fun t => t = s.setUnit u { moved with transfers := x.transfers ++ [{ buf := buf, write := write, addr := local' }] }))
    let k := w.imm.toNat % 16
    Completes (.corniceNop w) s (fun t => t = s.setUnit u moved) ∧
    put (.corniceMovi w) ((w.b ++ w.c ++ w.cls ++ w.imm : BitVec 19).signExtend 32) w.d.toNat (x.pc + 1) ∧
    put (.corniceAddi w) (x.xAt w.a.toNat + w.imm.signExtend 32) w.d.toNat (x.pc + 1) ∧
    put (.corniceLoop w) (x.xAt w.d.toNat - 1) w.d.toNat (if x.xAt w.d.toNat = 1 then x.pc + 1 else label) ∧
    Completes (.corniceBnz w) s (fun t => t = s.setUnit u { moved with pc := if x.xAt w.a.toNat = 0 then x.pc + 1 else label }) ∧
    row (.corniceRdrow w) w.d.toNat false ∧
    row (.corniceWrrow w) w.b.toNat true ∧
    (if x.busy w.a.toNat then Completes (.corniceWait w) s (fun t => t = s) ∧ Completes (.corniceCld w) s (fun t => t = s)
     else Completes (.corniceWait w) s (fun t => t = s.setUnit u moved) ∧
      Completes (.corniceCld w) s (fun t =>
        (∀ j < 16, ((t.unit u).cAt w.d.toNat)[j]? = some (BitVec.ofNat 32 (fieldLe (x.bAt w.a.toNat) (64 * k + 4 * j) 4))) ∧
        (∀ p < 8, bitAt ((t.unit u).cBad w.d.toNat) p = (x.bBad w.a.toNat).contains (8 * k + p)) ∧
        (∀ n, n ≠ w.d.toNat → (t.unit u).cAt n = x.cAt n ∧ (t.unit u).cBad n = x.cBad n) ∧
        t = s.setUnit u { moved with c := (t.unit u).c, cPoison := (t.unit u).cPoison })) ∧
    (if x.busy w.d.toNat then Completes (.corniceCst w) s (fun t => t = s)
     else Completes (.corniceCst w) s (fun t =>
        ((x.bAt w.d.toNat).length = 1024 → (x.cAt w.a.toNat).length = 16 →
          ∀ o < 1024, ((t.unit u).bAt w.d.toNat)[o]? =
            if o / 64 = k then ((x.cAt w.a.toNat)[o % 64 / 4]?).map (fun v => BitVec.ofNat 8 (v.toNat / 256 ^ (o % 4) % 256))
            else (x.bAt w.d.toNat)[o]?) ∧
        (∀ i < 128, ((t.unit u).bBad w.d.toNat).contains i =
          if i / 8 = k then bitAt (x.cBad w.a.toNat) (i % 8) else (x.bBad w.d.toNat).contains i) ∧
        (∀ n, n ≠ w.d.toNat → (t.unit u).bAt n = x.bAt n ∧ (t.unit u).bBad n = x.bBad n) ∧
        t = s.setUnit u { moved with b := (t.unit u).b, bPoison := (t.unit u).bPoison })) ∧
    Completes (.corniceSync w) s (fun t => t = if x.transfers = [] then s.setUnit u moved else s) ∧
    (x.transfers ≠ [] → Completes (.corniceEnd w) s (fun t => t = s)) ∧
    (∀ c, s.unitCmd u = some c → x.transfers = [] →
      (x.stripe + 1 < c.first + c.count → Completes (.corniceEnd w) s (fun t =>
        t = s.setUnit u (t.unit u) ∧ (t.unit u).pc = fieldLe c.record 1 1 ∧ (t.unit u).stripe = x.stripe + 1 ∧
        (t.unit u).xAt 4 = BitVec.ofNat 32 (x.stripe + 1) ∧ (∀ n, 4 < n → (t.unit u).xAt n = x.xAt n) ∧
        (t.unit u).c = x.c ∧ (t.unit u).b = x.b ∧ (t.unit u).running = x.running)) ∧
      (c.first + c.count ≤ x.stripe + 1 → Completes (.corniceEnd w) s (fun t =>
        t = { s with units := t.units, near := t.near } ∧ (t.unit u).running = none ∧
        (∀ v, v ≠ u → t.unit v = s.unit v) ∧ ∀ y, t.nearOf c.id = some y → u ∉ y.left))) ∧
    (∀ c, s.unitCmd u = some c →
      let n := w.imm.toNat
      let ia := (x.xAt w.a.toNat).toNat
      let index := s.poolWord (s.nearReq c) c.window u (ia / 8 * 8)
      let la := (x.xAt w.b.toNat).toNat + 64 * n * fieldLe index.1.bytes (ia % 8) 4
      let got := index.2.poolWords (s.nearReq c) c.window u (la / 8 * 8) (8 * n + (if la % 8 = 0 then 0 else 1))
      let bytes : Source := (sourceOf got.1).drop (la % 8)
      0 < n → n ≤ 16 → w.d.toNat + n ≤ 16 → ia % 4 = 0 → c.grants false ia 4 = true → index.1.bad = false →
      c.grants false la (64 * n) = true → Completes (.corniceIred w) s (fun t =>
        (∀ m < n, ∀ j < 16, ((t.unit u).cAt (w.d.toNat + m))[j]? = some (BitVec.ofNat 32
          (f32.addCodes (((x.cAt (w.d.toNat + m)).getD j 0).toNat) (ofLe (bytes.at (64 * m + 4 * j) 4))).1)) ∧
        (∀ r, r < w.d.toNat ∨ w.d.toNat + n ≤ r → (t.unit u).cAt r = x.cAt r ∧ (t.unit u).cBad r = x.cBad r) ∧
        (∀ r, (t.unit u).xAt r = if r = w.a.toNat then x.xAt r + 4 else x.xAt r) ∧
        (t.unit u).pc = x.pc + 1 ∧ (t.unit u).b = x.b ∧ (∀ v, v ≠ u → t.unit v = s.unit v) ∧ t.mem = got.2.mem ∧ t.regs = s.regs))

/-! ## Starting, power limits (R12 to R15, R46 to R50, R90) -/

/-- R46, R47, R49: what triggers a start. A start that it cuts short counts as failed; a warm one is taken while fewer than 3 have
failed, the recovery image after 2 failed cold ones. A start that is not warm leaves nothing of the running module; power that has
been lost leaves host memory alone, and a warm start keeps memory, semaphores, the lock and the lockable fields. -/
def Obligations.StartTriggers : Prop :=
  ∀ s : State,
    let b := if s.boot.running then s.boot.countFail else s.boot
    let warm := decide (b.warmFails.toNat < 3)
    let recovery := decide (2 ≤ b.coldFails.toNat)
    let empty := fun (t : State) =>
      t.regs = [] ∧ t.threads = [] ∧ t.groups = [] ∧ t.helms = [] ∧ t.wgs = [] ∧ t.launches = [] ∧ t.cmds = [] ∧ t.queues = [] ∧
      t.ctxs = [] ∧ t.cores = [] ∧ t.ops = [] ∧ t.fills = [] ∧ t.near = [] ∧ t.units = [] ∧ t.trust = s.trust
    let keeps := fun (t : State) (kept : List Nat) => t.mem = s.mem.filter (fun e => kept.contains (spaceOf e.1))
    let begins := fun (t : State) (isWarm : Bool) =>
      let lost := if isWarm then s.cutStart.liveFrames else []
      t.boot = { b with powered := true, running := true, ready := false, warm := isWarm, recovery := recovery, stage := 1, lostFrames := lost } ∧ empty t
    let cold := fun (t : State) (kept : List Nat) =>
      begins t false ∧ keeps t kept ∧ t.host = HostRegs.reset ∧ t.sems = [] ∧ t.fabSelf = 0 ∧ t.fabInb = [] ∧ t.fabRoute = []
    let warmed := fun (t : State) =>
      begins t true ∧ keeps t [0, 1, 2, 9, 10] ∧ t.sems = (if recovery then [] else s.sems) ∧ t.fabSelf = s.fabSelf ∧
      t.host = { HostRegs.reset with lock := s.host.lock, emit := s.host.emit, hmwBase := s.host.hmwBase, hmwLimit := s.host.hmwLimit }
    (s.boot.powered = false → Completes .powerOn s (fun t => cold t [2])) ∧
    (s.boot.powered = true →
      Completes .fundamentalReset s (fun t => if warm then warmed t else cold t [0, 1, 2]) ∧
      Completes .thermalTrip s (fun t => cold t [2] ∧ LogEntry.thermalTrip ∈ t.log) ∧
      Completes .powerLoss s (fun t => empty t ∧ keeps t [2] ∧
        t.boot = { b with powered := false, running := false, ready := false, recovery := false, stage := 0 }) ∧
      (s.boot.running = false →
        Completes .bootReqWarm s (fun t => if warm then warmed t else cold t [0, 1, 2]) ∧
        Completes .bootReqCold s (fun t => cold t [0, 1, 2])) ∧
      (s.boot.running = true →
        Completes .bootReqWarm s (fun t => t = s) ∧ Completes .bootReqCold s (fun t => t = s)))

/-- R47, R49: the steps of a start and its failures, each followed by the next; R33: the answer to a configuration request. -/
def Obligations.StartSteps : Prop :=
  ∀ s : State,
    let img := if s.boot.recovery then s.trust.recovery else s.trust.firmware
    let accepted := Config.sha256 (Config.imageKey img) = (List.range 32).map Config.vendorKeyHash ∧
      Config.imageSignatureOk img = true ∧ s.trust.secVersion.toNat ≤ (Config.imageVersion img).toNat
    let fails := fun (t : State) =>
      t.boot = { s.boot.countFail with running := false, ready := false } ∧ LogEntry.startFailed s.boot.stage ∈ t.log ∧ t.mem = s.mem
    let noImage := fun (t : State) => s.boot.recovery = true ∧ t.boot = { s.boot with running := false, ready := false, stage := 0xFF } ∧ t.mem = s.mem
    let done := fun (P : State → Prop) => Completes (.startStepComplete true) s P
    (s.boot.running = true →
      (s.boot.stage = 1 → accepted → done (fun t => t.boot = { s.boot with stage := 2 } ∧
        t.trust = { s.trust with m0 := Config.sha256 (Config.imageBody img), secVersion := Config.imageVersion img })) ∧
      (s.boot.stage = 1 → ¬accepted → done (fun t => if s.boot.recovery then noImage t else fails t)) ∧
      (s.boot.stage = 2 → done (fun t =>
        t.boot = { s.boot with stage := if s.boot.recovery then 6 else 3 } ∧ t.trust = { s.trust with trained := true })) ∧
      (s.boot.stage = 3 → s.boot.warm = false → done (fun t => t.boot = { s.boot with stage := 4 } ∧
        (∀ a, spaceOf a ≠ 2 → t.byteAt a = 0) ∧ ∀ a, spaceOf a = 2 → t.byteAt a = s.byteAt a)) ∧
      (s.boot.stage = 3 → s.boot.warm = true → done (fun t => t.boot = { s.boot with stage := 4 } ∧ t.endedFrames = [] ∧
        (∀ f ∈ s.endedFrames, ∀ i < 4096, t.byteAt (f + i) = 0) ∧
        ∀ a, (∀ f ∈ s.endedFrames, ∀ i < 4096, a ≠ f + i ∧ a ≠ spaceBase 9 + f + i) → t.byteAt a = s.byteAt a)) ∧
      (s.boot.stage = 4 → done (fun t => t = { s with boot := { s.boot with stage := 5 } })) ∧
      (s.boot.stage = 5 → done (fun t => t = { s with
        boot := { s.boot with stage := 6 }, progStore := [], trust := { s.trust with m1 := Config.sha256 Config.microcode } })) ∧
      (s.boot.stage = 6 → done (fun t => t = { s with boot := { s.boot with
        running := false, ready := true
        coldFails := if s.boot.recovery then s.boot.coldFails else 0, warmFails := if s.boot.recovery then s.boot.warmFails else 0 } })) ∧
      Completes (.startStepComplete false) s (fun t => if s.boot.stage = 1 ∧ s.boot.recovery = true then noImage t else fails t) ∧
      Completes .startTimeout s fails) ∧
    (s.boot.powered = true → Completes .pcieConfigRequest s (fun t =>
      t = { s with log := .pcieConfig (!(s.boot.ready || s.boot.stage == 6 || s.boot.stage == 0xFF)) :: s.log }))

/-- R14, R90, R91: over a limit the firmware lowers a ceiling at least, a die's target is the smaller of its ceiling and the highest hint
of a running launch, a lower point is taken at once; the clamp bounds the power at 2,310 W; a stable point releases first workgroups.
How far a ceiling is lowered is the model's choice (log entry 27). -/
def Obligations.PowerAndOperatingPoints : Prop :=
  ∀ s : State,
    let hints := (s.launches.filter (fun e => e.2.running)).map (fun e => e.2.opp)
    let lowered := fun (t : State) (d c : Nat) =>
      (t.die d).ceiling = min (s.die d).ceiling c ∧ (t.die d).target = min (greatest hints) (min (s.die d).ceiling c) ∧
      (t.die d).point = min (s.die d).point (t.die d).target ∧ (t.die d).rising = decide ((s.die d).point < (t.die d).target)
    let same := fun (t : State) => t.mem = s.mem ∧ t.regs = s.regs ∧ t.threads = s.threads ∧ t.launches = s.launches ∧ t.boot = s.boot
    let power := fun (t : State) (watts : BitVec 16) =>
      t.host = { s.host with powerNow := t.host.powerNow } ∧ t.host.powerNow.toNat = min watts.toNat 2310
    (∀ (watts : BitVec 16) (c0 c1 : Nat), s.boot.powered = true → 1400 + 25 * s.host.powerLimit.toNat < min watts.toNat 2310 →
      Completes (.powerOverLimit watts c0 c1) s (fun t => power t watts ∧ same t ∧
        if c0 < (s.die 0).ceiling ∨ c1 < (s.die 1).ceiling then lowered t 0 c0 ∧ lowered t 1 c1
        else lowered t 0 ((s.die 0).ceiling - 1) ∧ lowered t 1 ((s.die 1).ceiling - 1))) ∧
    (∀ d c : Nat, s.boot.powered = true → d < 2 → Completes (.temperatureOverLimit d c) s (fun t =>
      t.host = s.host ∧ lowered t d (min c ((s.die d).ceiling - 1)) ∧ same t)) ∧
    (∀ watts : BitVec 16, s.boot.powered = true → Completes (.analoguePowerClamp watts) s (fun t =>
      t = { s with host := t.host } ∧ power t watts)) ∧
    (∀ d : Nat, (s.die d).rising = true → Completes (.operatingPointStable d) s (fun t =>
      t.die d = { s.die d with point := (s.die d).target, rising := false } ∧ (∀ e, e ≠ d → t.die e = s.die e) ∧
      (∀ w, t.wg w = { s.wg w with heldForPoint := (s.wg w).heldForPoint &&
        !(dieOfCore (s.wg w).core == d && decide (min (s.launch (s.wg w).launch).opp (s.die d).ceiling ≤ (s.die d).target)) }) ∧
      t.host = s.host ∧ same t))

/-! ## The host (R33 to R45, R51, R54, R60, R76, R105, R291) -/

/-- R35, R37 to R44, R51, R54, R76, R291: what a host write does to the registers of a module that takes all writes: locked fields are
logged and kept, plain fields read back as written in the bytes written, a semaphore adds the 8 bytes written, reserved and read-only
offsets take nothing. A write that is not aligned, or of another size, is an unsupported request; one that is not taken yet changes
nothing. A module without power, or an offset beyond the registers, answers nothing. The named rows are such writes. -/
def Obligations.HostRegisterWrites : Prop :=
  ∀ (s : State) (data : Word),
    let write := fun (off : Nat) => Instr.bar0RegisterWrite off 8 data
    let refused := fun (off : Nat) => { s with log := .lockedWrite off :: s.log }
    -- R25: new requests are held for the targets of which a port that comes into use or leaves it is a candidate, and for no others
    let holds := fun (t : State) (moved : Nat → Prop) =>
      (∀ m v, FMap.find s.routePending m = some v → FMap.find t.routePending m = some v) ∧
      (∀ m e p, FMap.find s.fabRoute m = some e → moved p → p ∈ routeCandidates e → (FMap.find t.routePending m).isSome = true) ∧
      ∀ m v, FMap.find t.routePending m = some v →
        FMap.find s.routePending m = some v ∨ ((m, v) ∈ s.fabRoute ∧ ∃ p, moved p ∧ p ∈ routeCandidates v)
    (∀ off size, s.boot.powered = false ∨ 0x400000 ≤ off → Completes (.bar0RegisterWrite off size data) s (fun t => t = s)) ∧
    (∀ off size, s.boot.powered = true → off < 0x400000 → (size ≠ 4 ∧ size ≠ 8) ∨ off % size ≠ 0 →
      Completes (.bar0RegisterWrite off size data) s (fun t => t = { s with log := .unsupported off :: s.log })) ∧
    (∀ off size, s.boot.powered = true → off < 0x400000 → (size = 4 ∨ size = 8) → off % size = 0 →
      (s.boot.ready = false ∧ off / 8 * 8 ≠ 0x1028) ∨
        (s.boot.ready = true ∧ s.boot.recovery = true ∧ off / 8 * 8 ∉ [0x1028, 0x10A0, 0x10A8, 0x10B0]) →
      Completes (.bar0RegisterWrite off size data) s (fun t => t = s)) ∧
    (exec (.hostLock data) s = exec (write 0x1000) s ∧ exec (.linkEmit data) s = exec (write 0x1008) s ∧
      exec (.pwrLimit data) s = exec (write 0x1010) s ∧ exec (.errorInject data) s = exec (write 0x40020) s ∧
      (field data 19 16 = 1 → exec (.ctxCreate data) s = exec (write 0x1088) s) ∧
      (field data 19 16 = 2 → exec (.ctxDestroy data) s = exec (write 0x1088) s) ∧
      (bitAt data 0 = true → exec (.firmwareUpdate data) s = exec (write 0x10B0) s ∧ exec (.attestationRequest data) s = exec (write 0x3028) s) ∧
      (∀ i < 4096, exec (.hostSemaphoreAdd i data) s = exec (write (0x200000 + 8 * i)) s)) ∧
    (s.boot.powered = true → s.boot.ready = true → s.boot.recovery = false →
      (∀ x ∈ [(0x1030, 0x7FF0000000), (0x1080, 0x7FFFFFFF00), (0x10A0, 0x7FFFFFF000), (0x10A8, 0x1FFFFFF),
              (0x3020, 0xFFFFFFFFFFFFFFFF), (0x40000, 0xFFFF)],
        Completes (write x.1) s (fun t => t.bar0Read x.1 = data &&& BitVec.ofNat 64 x.2 ∧ t = { s with host := t.host }) ∧
        ∀ h < 2, Completes (.bar0RegisterWrite (x.1 + 4 * h) 4 data) s (fun t => t = { s with host := t.host } ∧
          ∀ i < 64, bitAt (t.bar0Read x.1) i =
            if i / 32 = h then bitAt data (i % 32) && x.2.testBit i else bitAt (s.bar0Read x.1) i)) ∧
      (∀ off ∈ [0, 0x1018, 0x1020, 0x1038, 0x40010, 0x40018], Completes (write off) s (fun t => t = s)) ∧
      (∀ k < 128, Completes (write (0x102000 + 8 * k)) s (fun t =>
        t.bar0Read (0x102000 + 8 * k) = data ∧ t = { s with fabInb := FMap.set s.fabInb k data })) ∧
      (∀ k < 4, Completes (write (0x3000 + 8 * k)) s (fun t => t.bar0Read (0x3000 + 8 * k) = data ∧
        (∀ j < 4, j ≠ k → t.bar0Read (0x3000 + 8 * j) = s.bar0Read (0x3000 + 8 * j)) ∧ t = { s with host := { s.host with attNonce := t.host.attNonce } })) ∧
      (∀ k < 128, Completes (write (0x300000 + 8 * k)) s (fun t =>
        (∀ i, t.host.msixWord i = if i = 2 * k then data.setWidth 32 &&& (if k % 2 = 0 then 0xFFFFFFFC else 0xFFFFFFFF)
          else if i = 2 * k + 1 then (data >>> 32).setWidth 32 &&& (if k % 2 = 0 then 0xFFFFFFFF else 1) else s.host.msixWord i) ∧
        (∀ v < 64, bitAt t.host.msixPending v = (bitAt s.host.msixPending v && bitAt (t.host.msixWord (4 * v + 3)) 0)) ∧
        t.regs = s.regs ∧ t.ctxs = s.ctxs ∧ t.boot = s.boot)) ∧
      Completes (write 0x1090) s (fun t => t = { s with host := { s.host with ctxDone := s.host.ctxDone && !bitAt data 1 } }) ∧
      Completes (write 0x1048) s (fun t => t = { s with host := { s.host with preDone := s.host.preDone && !bitAt data 1 } }) ∧
      Completes (write 0x40008) s (fun t => ∃ x : ErrLog, t = { s with errLogs := FMap.set s.errLogs s.host.errSel.toNat x } ∧
        x = { s.selLog with
          lasting := BitVec.ofNat 16 (field data 63 48), corrected := BitVec.ofNat 16 (field data 47 32), transient := BitVec.ofNat 16 (field data 31 16)
          held := s.selLog.held && !bitAt data 1, valid := s.selLog.valid && !bitAt data 0 }) ∧
      (∀ i < 4096, ∀ h < 2, Completes (.bar0RegisterWrite (0x200000 + 8 * i + 4 * h) 4 data) s (fun t => t = s)) ∧
      (∀ k < 16, Completes (write (0x2000 + 16 * k)) s (fun t => if s.host.lock then t = refused (0x2000 + 16 * k) else
        t.bar0Read (0x2000 + 16 * k) = data &&& 0x000FFFFFFFFFF007 ∧ t = { s with host := t.host })) ∧
      (∀ k < 16, Completes (write (0x2008 + 16 * k)) s (fun t => if s.host.lock then t = refused (0x2008 + 16 * k) else
        t.bar0Read (0x2008 + 16 * k) = data &&& 0x000FFFFFFFFFF000 ∧ t = { s with host := t.host })) ∧
      Completes (write 0x100000) s (fun t => t = if s.host.lock then refused 0x100000 else { s with fabSelf := data.setWidth 13 }) ∧
      Completes (.hostLock data) s (fun t => t = { s with host := { s.host with lock := t.host.lock }, ports := t.ports, routePending := t.routePending } ∧
        t.host.lock = (s.host.lock || bitAt data 0) ∧
        let raised := fun (p : Nat) => p < 96 ∧ s.host.lock = false ∧ bitAt data 0 = true ∧ (s.port p).state = portTraining ∧ (s.port p).trained = true
        holds t raised ∧ ∀ p, t.port p = if p < 96 ∧ s.host.lock = false ∧ bitAt data 0 = true ∧ (s.port p).state = portTraining ∧ (s.port p).trained = true
          then { s.port p with state := if (s.port p).lanes = 3 then portUp else portDegraded } else s.port p) ∧
      Completes (.linkEmit data) s (fun t => if s.host.lock then t = refused 0x1008 else
        t = { s with host := { s.host with emit := bitAt data 0 }, ports := t.ports, routePending := t.routePending } ∧
        holds t (fun p => p < 96 ∧ bitAt data 0 = false ∧ ((s.port p).state = portUp ∨ (s.port p).state = portDegraded)) ∧
        ∀ p, let x := s.port p
          t.port p = if 96 ≤ p then x
            else if bitAt data 0 then
              (if x.en = true ∧ x.state = portOff then { x with state := portTraining, lanes := 0, trained := false, outLanes := 0, draining := false } else x)
            else if x.state = portUp ∨ x.state = portDegraded then { x with draining := true }
            else { x with state := portOff, lanes := 0, trained := false, retrain := false }) ∧
      Completes (.pwrLimit data) s (fun t => t =
        if data.toNat % 64 ≤ 32 then { s with host := { s.host with powerLimit := data.setWidth 6 } } else s) ∧
      (∀ i < 4096, ∀ v : Word, Completes (.hostSemaphoreAdd i v) s (fun t => t = s.setSem i (s.sem i + v))) ∧
      Completes (.errorInject data) s (fun t => ∃ x : ErrInj, t = { s with errInjs := FMap.set s.errInjs s.host.errSel.toNat x } ∧
        x.entry.toNat = field data 47 8 ∧ x.arm = bitAt data 7 ∧ x.sticky = bitAt data 6 ∧ x.nbits.toNat = field data 5 4) ∧
      (bitAt data 0 = true → Completes (.attestationRequest data) s (fun t =>
        let ok := s.host.attGo = false ∧ s.host.attAddr.toNat % 16 = 0 ∧ ∀ i < 560, s.host.granted (s.host.attAddr.toNat + i) false true = true
        t = { s with host := { s.host with attGo := t.host.attGo, attDone := t.host.attDone, attErr := t.host.attErr }, log := t.log } ∧
        (s.host.attGo = true ∨ s.attMiss = none → t.log = s.log) ∧
        (s.host.attGo = false → ∀ a, s.attMiss = some a → t.log = .windowMiss a :: s.log) ∧
        (ok → t.host.attGo = true ∧ t.host.attErr = (s.host.attErr && !bitAt data 2)) ∧
        (¬ok → t.host.attGo = s.host.attGo ∧ t.host.attErr = true) ∧ t.host.attDone = (s.host.attDone && !bitAt data 1))))

/-- R44, R45, R51, R54, R105: contexts, firmware update, attestation and pre-emption as the host commands them. -/
def Obligations.HostCommandResults : Prop :=
  ∀ (s : State) (data : Word), s.boot.powered = true → s.boot.ready = true →
    (s.boot.recovery = false → s.host.ctxBusy = false → field data 19 16 = 1 →
      let got := s.readOutside (hbmAt (s.host.ctxRec.toNat * 256)) 256
      let r := { got.2.2 with host := { got.2.2.host with ctxCmd := data.setWidth 16 } }
      let c := ctxOfRecord got.1
      let ends := fun (P : State → Prop) => Completes (.ctxCreate data) s (fun t =>
        t.host.ctxDone = true ∧ t.host.ctxBusy = false ∧ t.host.ctxCmd = data.setWidth 16 ∧ P t)
      (got.2.1 = true → ends (fun t => t.host.ctxErr = 0x06 ∧ t.ctxs = s.ctxs)) ∧
      (got.2.1 = false → ∀ e, s.ctxCheck got.1 = some e → ends (fun t => t.host.ctxErr = e ∧ t.ctxs = s.ctxs)) ∧
      (got.2.1 = false → s.ctxCheck got.1 = none → ∀ x : State, (r.addCtx (ctxIdOf got.1) c).fqIndices (ctxIdOf got.1) c = (none, x) →
        ends (fun t => t.host.ctxErr = 0x01 ∧ t.ctxs = s.ctxs)) ∧
      (got.2.1 = false → s.ctxCheck got.1 = none → ∀ (w : Nat) (x : State), (r.addCtx (ctxIdOf got.1) c).fqIndices (ctxIdOf got.1) c = (some w, x) →
        (s.sharesOk c = false → ends (fun t => t.host.ctxErr = 0x05 ∧ t.ctxs = s.ctxs)) ∧
        (s.sharesOk c = true → ends (fun t => t.host.ctxErr = 0 ∧ ∃ y, FMap.find t.ctxs (ctxIdOf got.1) = some y ∧
          y.ptRoot = c.ptRoot ∧ y.qtab = c.qtab ∧ y.qcount = c.qcount ∧ y.fqWidx = w ∧ y.dying = false ∧
          ∀ k, k ≠ ctxIdOf got.1 → FMap.find t.ctxs k = FMap.find s.ctxs k)))) ∧
    (s.boot.recovery = false → s.host.ctxBusy = true → Completes (.ctxCreate data) s (fun t => t = s) ∧ Completes (.ctxDestroy data) s (fun t => t = s)) ∧
    (s.boot.recovery = false → s.host.ctxBusy = false → field data 19 16 = 2 →
      if s.ctxLive (data.toNat % 2 ^ 16) then Completes (.ctxDestroy data) s (fun t =>
        t.host.ctxBusy = true ∧ (∃ y, FMap.find t.ctxs (data.toNat % 2 ^ 16) = some y ∧ y.dying = true) ∧
        ∃ f ∈ t.fences, f.ctx = data.toNat % 2 ^ 16 ∧ f.va = none)
      else Completes (.ctxDestroy data) s (fun t =>
        t = { s with host := { s.host with ctxCmd := data.setWidth 16, ctxErr := 0x07, ctxDone := true, ctxBusy := false } })) ∧
    (s.boot.recovery = false → s.host.preBusy = false →
      let ctx := data.toNat % 2 ^ 16
      let ridges := BitVec.ofNat 40 (field data 55 16)
      let host := { s.host with preHold := bitAt data 56, preRidges := ridges, preCtx := data.setWidth 16, preDone := true }
      (bitAt data 56 = true → Completes (.preReqHold data) s (fun t =>
        if (FMap.find s.ctxs ctx).isNone then t = { s with host := host } else
          t = { s with host := host, ctxs := FMap.modify s.ctxs ctx (fun c => { c with holdRidges := c.holdRidges ||| ridges }) }.preempt ctx ridges)) ∧
      (bitAt data 56 = false → Completes (.preReqRelease data) s (fun t => t =
        { s with host := host, ctxs := FMap.modify s.ctxs ctx (fun c => { c with holdRidges := c.holdRidges &&& ~~~ridges }) }))) ∧
    (bitAt data 0 = true → Completes (.firmwareUpdate data) s (fun t => t = { s with host := { s.host with
      fwErr := s.host.fwErr && !bitAt data 2, fwDone := s.host.fwDone && !bitAt data 1, 
      fwGo := s.host.fwGo || (s.boot.recovery && s.boot.stage != 1 && s.boot.stage != 0xFF) } })) ∧
    (s.host.fwGo = true → ∀ flashOk : Bool,
      let src := s.host.fwSrc.toNat * 4096
      let len := s.host.fwLen.toNat
      let got := s.readOutside (hbmAt src) len
      let range := 1024 ≤ len ∧ len ≤ 16777216 ∧ src + len ≤ 2 ^ 39
      let fails := fun (code : BitVec 8) => Completes (.firmwareUpdateComplete flashOk) s (fun t =>
        t.host = { s.host with fwGo := false, fwErr := true, fwCode := code } ∧ t.trust = s.trust ∧ t.boot = s.boot ∧ t.mem = s.mem)
      (¬range → fails 1) ∧ (range → got.2.1 = true → fails 4) ∧
      (range → got.2.1 = false → s.imageOk got.1 = false → fails 2) ∧
      (range → got.2.1 = false → s.imageOk got.1 = true → flashOk = false → fails 3) ∧
      (range → got.2.1 = false → s.imageOk got.1 = true → flashOk = true → Completes (.firmwareUpdateComplete flashOk) s (fun t =>
        t.host = { s.host with fwGo := false, fwDone := true, fwCode := 0 } ∧ t.trust = { s.trust with firmware := s.bytesAt (hbmAt src) len } ∧
        t.boot = { s.boot with coldFails := 0, warmFails := 0 } ∧ t.mem = s.mem))) ∧
    (s.host.attGo = true → Memory.wf s.mem = true →
      if s.attAddrOk then Completes .attestationComplete s (fun t =>
        t.host = { s.host with attGo := false, attDone := true } ∧ t.bytesAt (hostAt s.host.attAddr.toNat) 176 = s.reportBody ∧
        (∀ a, a < hostAt s.host.attAddr.toNat ∨ hostAt s.host.attAddr.toNat + 560 ≤ a → t.byteAt a = s.byteAt a) ∧ t.regs = s.regs)
      else Completes .attestationComplete s (fun t => t = { s with host := { s.host with attGo := false, attErr := true }, log := t.log } ∧
        t.log = (match s.attMiss with | some a => [LogEntry.windowMiss a] | none => []) ++ s.log))

/-- R36, R51, R60: the host's reads, writes and atomic adds through BAR 2, from its origin on; bytes beyond HBM4E read as ones and take no
write, and an atomic add on poison changes nothing. A write of the host is published; it clears the poison of the words that it covers
whole, and under the recovery image poisons those that it covers in part. Without errors to come, a read tells poison exactly. -/
def Obligations.HostApertureResults : Prop :=
  ∀ (s : State) (off : Nat), s.boot.ready = true → Memory.wf s.mem = true →
    let org := s.host.hbmOrg.toNat * 2 ^ 28
    let at' := fun (i : Nat) => org + off + i
    let inside := fun (n : Nat) => min n (2 ^ 39 - org - off)
    let told := fun (n : Nat) => (s.firstPoison (at' 0) n).isSome
    (∀ len : Nat, Completes (.bar2HostRead off len) s (fun t => ∃ (bs : List Byte) (bad : Bool), t.hostReads = s.hostReads ++ [(bs, bad)] ∧
      bs.length = len ∧ (∀ i < len, bs[i]? = some (if at' i < 2 ^ 39 then s.byteAt (at' i) else 0xFF)) ∧
      (told (inside len) = true → bad = true) ∧ (s.errInjs = [] → bad = told (inside len) ∧ t = { s with hostReads := t.hostReads }) ∧
      t.mem = s.mem ∧ t.regs = s.regs)) ∧
    (∀ bytes : List Byte, Completes (.bar2HostWrite off bytes) s (fun t =>
      (∀ i, ∀ v : Byte, bytes[i]? = some v → at' i < 2 ^ 39 → t.byteAt (at' i) = v) ∧
      (∀ a, (∀ i < bytes.length, at' i < 2 ^ 39 → a ≠ at' i) → t.byteAt a = s.byteAt a) ∧
      (∀ w : Nat, let first := at' 0
        let last := at' (inside bytes.length)
        t.isPoisoned (8 * w) = if first ≤ 8 * w ∧ 8 * w + 8 ≤ last then false
          else s.isPoisoned (8 * w) || (s.boot.recovery && decide (first < last ∧ first < 8 * w + 8 ∧ 8 * w < last))) ∧
      (∀ e ∈ t.hist, e.owners.contains .host = true → (Scope.sys, hostPlace) ∈ e.pubs) ∧
      t = { s with mem := t.mem, hist := t.hist, writeSeq := t.writeSeq, poison := t.poison })) ∧
    (∀ value : Word, off % 8 = 0 → org + off + 8 ≤ 2 ^ 39 → Completes (.hostFetchadd off value) s (fun t =>
      ∃ bad : Bool, t.hostReads = s.hostReads ++ [(s.bytesAt (at' 0) 8, bad)] ∧ (told 8 = true → bad = true) ∧ (s.errInjs = [] → bad = told 8) ∧
      (if bad then t.mem = s.mem else t.numAt (at' 0) 8 = (s.numAt (at' 0) 8 + value.toNat) % 2 ^ 64 ∧
        (∀ a, a < at' 0 ∨ at' 0 + 8 ≤ a → t.byteAt a = s.byteAt a) ∧
        ∀ e ∈ t.hist, e.owners.contains .host = true → (Scope.sys, hostPlace) ∈ e.pubs) ∧
      t.regs = s.regs ∧ t.threads = s.threads ∧ t.ctxs = s.ctxs)) ∧
    (∀ value : Word, off % 8 ≠ 0 → Completes (.hostFetchadd off value) s (fun t => t = s))

/-! ## The fabric (R17 to R32) -/

/-- R18 to R20, R25, R28, R29: enabling, disabling and retraining a port, the ends of training and draining, failed lanes and engines;
no other port changes. -/
def Obligations.PortResults : Prop :=
  ∀ (s : State) (p : Nat), p < 96 → s.boot.powered = true →
    let x := s.port p
    let alone := fun (t : State) => (∀ q, q ≠ p → t.port q = s.port q) ∧ t.mem = s.mem ∧ t.regs = s.regs ∧ t.host = s.host
    let runs := fun (i : Instr) (P : Port → Prop) => Completes i s (fun t => P (t.port p) ∧ alone t)
    (s.boot.ready = true → s.boot.recovery = false → ∀ data : Word,
      let y := fun (en : Bool) => { x with
        retries := BitVec.ofNat 16 (field data 39 24), laneFail := x.laneFail &&& ~~~(BitVec.ofNat 2 (field data 3 2)), en := en }
      (bitAt data 0 = true → bitAt data 1 = false → runs (.fabPortEnable p data) (fun z => z =
        if s.host.emit ∧ x.state = portOff then { y true with state := portTraining, lanes := 0, trained := false, outLanes := 0, draining := false }
        else y true)) ∧
      (bitAt data 0 = false → bitAt data 1 = false → runs (.fabPortDisable p data) (fun z => z =
        if x.en = false then y false else if x.carries then { y false with draining := true }
        else { y false with state := portOff, lanes := 0, trained := false, retrain := false })) ∧
      (bitAt data 0 = true → bitAt data 1 = true →
        (x.state = portDegraded → runs (.fabPortRetrain p data) (fun z => z = { y true with retrain := true, outLanes := 0 })) ∧
        (x.state = portFailed → s.host.emit = true → runs (.fabPortRetrain p data) (fun z => z =
          { y true with retrain := true, state := portTraining, lanes := 0, trained := false, outLanes := 0 })) ∧
        (x.state = portUp ∨ x.state = portTraining ∨ (x.state = portFailed ∧ s.host.emit = false) → runs (.fabPortRetrain p data) (fun z => z = y true)) ∧
        (x.state = portOff → runs (.fabPortRetrain p data) (fun z => z =
          if s.host.emit then { y true with state := portTraining, lanes := 0, trained := false, outLanes := 0, draining := false } else y true)) ∧
        exec (.fabPortEnable p data) s = exec (.fabPortRetrain p data) s) ∧
      (bitAt data 0 = false → bitAt data 1 = true →
        exec (.fabPortDisable p data) s = exec (.fabPortRetrain p data) s ∧
        (x.state = portFailed ∨ x.state = portTraining → runs (.fabPortRetrain p data) (fun z => z =
          if x.en = false then y false else { y false with state := portOff, lanes := 0, trained := false, retrain := false })))) ∧
    (x.inTraining = true →
      (∀ (trained : BitVec 2) (nbr : Neighbour), runs (.portTrainingComplete p trained nbr) (fun z =>
        z.lanes = x.lanes ||| (trained &&& ~~~x.outLanes) ∧ z.laneFail = x.laneFail ||| ~~~z.lanes ∧ z.retrain = false ∧
        z.nbrId = nbr.id ∧ z.nbrSw = nbr.isSwitch ∧ z.capRed = nbr.capRed ∧ z.capVbd = nbr.capVbd ∧
        z.state = if x.state = portDegraded ∨ (z.lanes ≠ 0 ∧ s.host.lock = true) then (if z.lanes = 3 then portUp else portDegraded)
          else if z.lanes = 0 then portFailed else portTraining)) ∧
      (∀ lane : Nat, lane < 2 → bitAt x.lanes lane = false → runs (.laneTrainTimeout p lane) (fun z =>
        z.lanes = x.lanes ∧ bitAt z.laneFail lane = true ∧
        (x.state = portTraining → x.lanes = 0 → putBit x.outLanes lane true = 3 → z.state = portFailed) ∧
        (putBit x.outLanes lane true ||| x.lanes ≠ 3 → z.state = x.state ∧ z.outLanes = putBit x.outLanes lane true)))) ∧
    (∀ lane : Nat, lane < 2 → x.carries = true → bitAt x.lanes lane = true → 64 ≤ (if lane = 0 then x.replays0 else x.replays1) →
      runs (.laneReplayLimit p lane) (fun z => z.lanes = putBit x.lanes lane false ∧ z.laneFail = putBit x.laneFail lane true ∧
        (z.lanes = 0 → z.state = (if s.host.emit then portFailed else portOff)) ∧
        (z.lanes ≠ 0 → z.state = portDegraded ∧ z.resend = x.retry.map (fun e => e.seq)))) ∧
    (∀ engine : Nat, engine < 12 → Completes (.opticalEngineFailure engine) s (fun t =>
      t.port p = (if p / 8 = engine then { x with state := (if s.host.emit then portFailed else portOff), lanes := 0, laneFail := 3, draining := false, retrain := false, trained := false }
        else x) ∧ t.mem = s.mem ∧ t.regs = s.regs ∧ t.host = s.host)) ∧
    (x.draining = true → (∀ q ∈ s.fabReqs, q.port = some p → q.answered = true) → runs (.portDrainComplete p) (fun z => z =
      { x with state := if x.en && s.host.emit then portTraining else portOff
               lanes := 0, trained := false, draining := false, retrain := false, outLanes := if x.en && s.host.emit then 0 else x.outLanes }))

/-- R17: flits are delivered in sequence and once, one that fails a check asks for a replay from its number and counts on the lanes that
failed; that one out of sequence asks for nothing is the model's choice (log entry 44). R22, R23: requests of other modules are served at
home or dropped and recorded, whether a peer's write is published by then is free; R24 to R26, R30, R31: route entries and answers. -/
def Obligations.FabricTrafficResults : Prop :=
  ∀ s : State,
    (∀ (p : Nat) (f : Flit), p < 96 → (s.port p).carries = true → Completes (.flitReceive p f) s (fun t =>
      let x := s.port p
      let z := t.port p
      let lane := fun (b : Nat) => if x.lanes = 3 then b % 2 else if bitAt x.lanes 1 then 1 else 0
      let failed := fun (k : Nat) => ∃ b < 8, b ∈ f.badBeats ∧ lane b = k
      let good := f.crcOk = true ∧ ∀ b < 8, b ∉ f.badBeats
      let counted := fun (n : Nat) => if 2 ^ 24 ≤ x.windowFlits + 1 then 0 else n
      t = s.setPort p { x with
        windowFlits := (if 2 ^ 24 ≤ x.windowFlits + 1 then 0 else x.windowFlits + 1)
        delivered := z.delivered, expectSeq := z.expectSeq, askReplay := z.askReplay, retries := z.retries, replays0 := z.replays0, replays1 := z.replays1 } ∧
      (good → z.retries = x.retries ∧ z.replays0 = counted x.replays0 ∧ z.replays1 = counted x.replays1) ∧
      (good → f.seq = x.expectSeq → z.delivered = x.delivered ++ [f.payload] ∧ z.expectSeq = x.expectSeq + 1 ∧ z.askReplay = none) ∧
      (¬good ∨ f.seq ≠ x.expectSeq → z.delivered = x.delivered ∧ z.expectSeq = x.expectSeq) ∧
      (good → f.seq ≠ x.expectSeq → z.askReplay = x.askReplay) ∧
      (¬good → z.askReplay = some (match x.askReplay with | some n => min n f.seq | none => f.seq) ∧
        z.retries.toNat = min 0xFFFF (x.retries.toNat + 1) ∧
        (failed 0 → z.replays0 = counted x.replays0 + 1) ∧ (¬failed 0 → z.replays0 = counted x.replays0) ∧
        (failed 1 → z.replays1 = counted x.replays1 + 1) ∧ (¬failed 1 → z.replays1 = counted x.replays1)))) ∧
    (∀ p n : Nat, p < 96 → (s.port p).carries = true → FMap.find s.errInjs (arrayId 13 p) = none → Completes (.replayRequest p n) s (fun t =>
      t = s.setPort p { s.port p with resend := ((s.port p).retry.map (fun e => e.seq)).filter (fun k => decide (n ≤ k)) })) ∧
    (∀ (m : Nat) (data : BitVec 32), m < 8192 → s.boot.powered = true → s.boot.ready = true → s.boot.recovery = false →
      Completes (.fabRouteWrite m data) s (fun t => t = { s with routePending := FMap.set s.routePending m (data &&& 0x0FFFFFFF) })) ∧
    (∀ (m : Nat) (e : BitVec 32), FMap.find s.routePending m = some e →
      (s.fabReqs.any (fun q => q.target == m && q.inFlight) = true → Completes (.routeChangeApply m) s (fun t => t = s)) ∧
      (s.fabReqs.any (fun q => q.target == m && q.inFlight) = false → Completes (.routeChangeApply m) s (fun t =>
        t.fabRoute = FMap.set s.fabRoute m e ∧ t.routePending = FMap.erase s.routePending m ∧
        (∀ q ∈ t.fabReqs, q.target = m → q.port.isSome = true ∨ q.answered = true) ∧ t.mem = s.mem ∧ t.regs = s.regs))) ∧
    (∀ source : Nat, s.boot.powered = true → s.boot.recovery = false →
      let answered := fun (t : State) (bytes : List Byte) (bad : Bool) => t.peerAnswers = s.peerAnswers ++ [(source, bytes, bad)]
      (∀ q, bitAt (FMap.getD s.fabInb (source / 64) 0) (source % 64) = false → Completes (.fabricInboundRequest source q) s (fun t =>
        t = { s with log := .inboundDropped source :: s.log, ports := t.ports, peerAnswers := t.peerAnswers } ∧ answered t [] true)) ∧
      (∀ q, Completes (.fabricInboundRequest source q) s (fun t =>
        (∃ bytes bad, answered t bytes bad) ∧ t.regs = s.regs ∧ t.threads = s.threads ∧ t.groups = s.groups ∧ t.ctxs = s.ctxs)) ∧
      (bitAt (FMap.getD s.fabInb (source / 64) 0) (source % 64) = true → Memory.wf s.mem = true → s.errInjs = [] → ∀ off : Nat, off < 2 ^ 39 →
        (∀ n, Completes (.fabricInboundRequest source (.read off 0 n)) s (fun t =>
          answered t (s.bytesAt off n) (s.firstPoison off n).isSome ∧ t = { s with ports := t.ports, peerAnswers := t.peerAnswers })) ∧
        (∀ bs : List Byte, off + bs.length ≤ 2 ^ 39 → Completes (.fabricInboundRequest source (.write off 0 bs)) s (fun t =>
          answered t [] false ∧ t.bytesAt off bs.length = bs ∧ ∀ a, a < off ∨ off + bs.length ≤ a → t.byteAt a = s.byteAt a)) ∧
        (off + 8 ≤ 2 ^ 39 → let bad := (s.firstPoison off 8).isSome
          (∀ (op : BitVec 3) (tag : Tag) (un : Bool) (v : Word), off % 8 = 0 → Completes (.fabricInboundRequest source (.reduce off 0 op tag un v)) s (fun t =>
            answered t [] false ∧ (bad = true → t.mem = s.mem) ∧ (∀ a, a < off ∨ off + 8 ≤ a → t.byteAt a = s.byteAt a) ∧
            (bad = false → t.numAt off 8 = (mergeWord op.toNat tag un (BitVec.ofNat 64 (s.numAt off 8)) v).toNat))) ∧
          (∀ (op : BitVec 3) (is64 un : Bool) (v c : Word), Completes (.fabricInboundRequest source (.atomic off 0 op is64 un v c)) s (fun t =>
            answered t (if bad then [] else s.bytesAt off 8) bad ∧ (∀ a, a < off ∨ off + 8 ≤ a → t.byteAt a = s.byteAt a) ∧
            (bad = true → t.mem = s.mem) ∧ (bad = false → t.numAt off 8 =
              ((atomNew op.toNat (widthTag is64) un (BitVec.ofNat 64 (s.numAt off 8)) v c).getD (BitVec.ofNat 64 (s.numAt off 8))).toNat)))))) ∧
    (∀ (id : Nat) (bytes : List Byte) (q : FabReq), s.fabReqs.find? (fun q => q.id == id && q.inFlight) = some q →
      FMap.find s.errInjs (arrayId 13 (q.port.getD 0)) = none →
      let data := if q.cmp = 0 then bytes else unwireBlock q.cmp q.off q.len bytes
      let poisoned := { s with log := .requestPoisoned q.target q.off :: s.log }
      (q.awaited = true → data.length = q.len → Completes (.fabricResponse id bytes true) s (fun t =>
        t = { s with fabReqs := s.fabReqs.map (fun (r : FabReq) => if r.id == id then { r with answered := true, poisoned := false, bytes := data } else r) })) ∧
      (q.awaited = true → Completes (.fabricResponse id bytes false) s (fun t => t = { poisoned with
        fabReqs := s.fabReqs.map (fun (r : FabReq) => if r.id == id then { r with answered := true, poisoned := true, bytes := bytes } else r) })) ∧
      (q.awaited = false → bytes = [] → Completes (.fabricResponse id bytes true) s (fun t =>
        t = { s with fabReqs := s.fabReqs.filter (fun r => r.id != id) })) ∧
      (q.awaited = false → Completes (.fabricResponse id bytes false) s (fun t =>
        t = { poisoned with fabReqs := s.fabReqs.filter (fun r => r.id != id), cmds := t.cmds } ∧
        ∀ k, t.cmd k = if q.who = .command k ∧ (s.cmd k).status = 1 ∧ (FMap.find s.cmds k).isSome
          then { s.cmd k with status := 2, detail := BitVec.ofNat 64 q.off } else s.cmd k)))

/-! ## Queues and commands (R57 to R81) -/

/-- R57, R59, R62, R63, R75, R77, R81: a queue is served, given up when its STATE leaves RUN, woken, read packet by packet and stopped; a
packet is captured by its node and starts once its fence and semaphore allow. -/
def Obligations.QueueServiceResults : Prop :=
  ∀ (s : State) (ctx q : Nat), s.serves = true → s.ctxLive ctx = true →
    let x := s.queue ctx q
    (x.served = true → Completes (.queueWake ctx q) s (fun t => t = s.setQueue ctx q { x with awake := true })) ∧
    (x.served = true → s.leftRun ctx q = false → Completes (.queueDescriptorRun ctx q) s (fun t => t = s)) ∧
    (x.served = false ∨ s.leftRun ctx q = true → q < s.queueCount ctx →
      let z := s.leaveQueue ctx q
      ∀ (b : List Byte) (r : State), z.devRead ctx (z.descAddr ctx q) 64 = (.bytes b, r) →
      let d := QDesc.ofBytes b
      let served := { r.queue ctx q with ring := d.ring, widx := d.widx, ridx := d.ridx, crec := d.crec, log2n := d.log2n
                                         maxclass := BitVec.ofNat 2 d.maxclass, vec := d.vec, qeng := d.qeng, served := true
                                         servedSeq := r.writeSeq, everRun := true, head := none, awake := true }
      let keeps := match r.stateBefore ctx q with
        | some old => old == 2
        | none => (r.queue ctx q).everRun
      (d.state ≠ 1 → Completes (.queueDescriptorRun ctx q) s (fun t => t = r)) ∧
      (d.state = 1 → r.descOk ctx b = false → Completes (.queueDescriptorRun ctx q) s (fun t =>
        (t.queue ctx q).served = false ∧ (t.queue ctx q).head = none)) ∧
      (d.state = 1 → r.descOk ctx b = true →
        (keeps = true → Completes (.queueDescriptorRun ctx q) s (fun t => t.queue ctx q = served)) ∧
        (keeps = false → ∀ (i : List Byte) (u : State), r.devRead ctx d.ridx 8 = (.bytes i, u) →
          Completes (.queueDescriptorRun ctx q) s (fun t => t = u.setQueue ctx q { served with rindex := ofLe i })))) ∧
    (x.served = true → x.awake = true → x.head = none →
      let takes := fun (P : State → Prop) => Completes (.packetDequeue ctx q) s P
      let stops := takes (fun t => (t.queue ctx q).served = false ∧ (t.queue ctx q).head = none)
      let sleeps := fun (r : State) => takes (fun t => t = r.setQueue ctx q { r.queue ctx q with awake := false })
      (s.stillRuns ctx q = false → takes (fun t => t = s.setQueue ctx q { x with served := false, awake := false })) ∧
      (s.stillRuns ctx q = true → ∀ (b : List Byte) (r : State), s.devRead ctx x.widx 8 = (.bytes b, r) →
        (ofLe b ≤ x.rindex → sleeps r) ∧
        (x.rindex + 2 ^ x.log2n < ofLe b → stops) ∧
        (x.rindex < ofLe b → ofLe b ≤ x.rindex + 2 ^ x.log2n →
          let slot := (r.queue ctx q).slot (r.queue ctx q).rindex
          ∀ (h : List Byte) (v : State), r.devRead ctx slot 8 = (.bytes h, v) →
          (pktType h = 0 → sleeps v) ∧
          (pktType h ≠ 0 → ∀ (p : List Byte) (u : State), v.devRead ctx slot 64 = (.bytes p, u) → u.errInjs = [] →
            (9 ≤ pktType p ∨ u.headerOk ctx p = false ∨ u.bodyOk ctx q p = false → stops) ∧
            (pktType p ≤ 8 → u.headerOk ctx p = true → u.bodyOk ctx q p = true →
              (pktNode p = 0 →
                (∀ (recs : List (List Byte)) (w : State), u.checkRecs ctx p = (.ok recs, w) → takes (fun t =>
                  (t.queue ctx q).head = some w.nextId ∧ (t.queue ctx q).rindex = (w.queue ctx q).rindex ∧
                  (t.cmd w.nextId).bytes = p ∧ (t.cmd w.nextId).phase = .atHead ∧ (t.cmd w.nextId).recs = recs ∧
                  (t.cmd w.nextId).index = (w.queue ctx q).rindex ∧ (t.cmd w.nextId).node = 0 ∧ t.mem = w.mem)) ∧
                (∀ (st : Nat) (d : Option Word) (w : State), u.checkRecs ctx p = (.reject st d, w) → stops)) ∧
              (pktNode p ≠ 0 → u.nodeCount ctx ≤ pktNode p → stops)))))) ∧
    (let z := s.releaseReady ctx
     let y := z.queue ctx q
     (y.head = none → Completes (.nodeCapture ctx q) s (fun t => t = z)) ∧
     (∀ k : Nat, y.served = true → y.head = some k → (z.cmd k).node ≠ 0 → z.stillRuns ctx q = true → ∀ (e : List Byte) (r : State),
      z.devRead ctx (z.nodeAddr ctx (z.cmd k).node) 128 = (.bytes e, r) →
      (nodeState e ≠ 0 → Completes (.nodeCapture ctx q) s (fun t => t = r.setQueue ctx q { r.queue ctx q with head := some k })) ∧
      (nodeState e = 0 → Completes (.nodeCapture ctx q) s (fun t =>
        (t.cmd k).phase ≠ .atHead ∧ (t.cmd k).bytes = (z.cmd k).bytes ∧ (t.queue ctx q).head = none ∧
        (t.queue ctx q).rindex = (r.queue ctx q).rindex + 1)))) ∧
    (∀ k : Nat,
      let c := s.cmd k
      let atHead := c.phase = .atHead ∧ c.node = 0 ∧ s.stillRuns ctx q = true
      c.ctx = ctx → c.queue = q →
      (c.phase = .atHead → c.node = 0 → s.stillRuns ctx q = false → Completes (.packetStart k) s (fun t => t = s.leaveQueue ctx q)) ∧
      (atHead ∨ c.phase = .gate → pktFence c.bytes = true → s.fenceMet k = false → Completes (.packetStart k) s (fun t => t = s)) ∧
      (atHead ∨ c.phase = .gate → s.awaitMet ctx c.bytes = false → Completes (.packetStart k) s (fun t => t = s)) ∧
      (atHead ∨ (c.phase = .gate ∧ c.node ≠ 0) → (pktFence c.bytes = true → s.fenceMet k = true) → s.awaitMet ctx c.bytes = true →
        pktIndirect c.bytes = false → pktType c.bytes ≠ 4 → ∀ (recs : List (List Byte)) (u : State), s.startRecs k = (some (recs, none), u) →
        (pktType c.bytes ≠ 5 → recs = c.recs ∧ u = s) ∧
        Completes (.packetStart k) s (fun t =>
          (t.cmd k).phase = .started ∧ (t.cmd k).bound = (pktBound c.bytes).map (fun f => BitVec.ofNat 64 f.value) ∧
          (pktType c.bytes ≠ 7 → c.node = 0 → (t.queue ctx q).rindex = (u.queue ctx q).rindex + 1 ∧ (t.queue ctx q).head = none) ∧
          (pktType c.bytes = 7 ∨ c.node ≠ 0 → t.queue ctx q = u.queue ctx q) ∧
          (pktType c.bytes = 1 →
            let l := t.launch k
            let d := KDesc.ofBytes (c.recs.getD 0 [])
            l.running = true ∧ l.eligible = false ∧ l.ctx = ctx ∧ l.entry = d.entry ∧ l.helm = d.helm ∧ l.threads = d.threads ∧
            l.barsN = d.bars ∧ l.lend = d.lend ∧ l.scratch = d.scratch ∧ l.karg = BitVec.ofNat 64 (fieldLe c.bytes 16 8) ∧
            l.gx = fieldLe c.bytes 24 4 ∧ l.gy = fieldLe c.bytes 28 4 ∧ l.gz = fieldLe c.bytes 32 4 ∧ l.det = launchDet c.bytes ∧
            l.cls = BitVec.ofNat 2 (launchClass c.bytes) ∧ l.opp = launchOpp c.bytes ∧ l.rset = launchRset c.bytes) ∧
          (pktType c.bytes = 5 → ∃ n ∈ t.near, n.source = .command k ∧ n.record = recs.getD 0 [] ∧ n.args = recs.getD 1 [] ∧
            n.begun = false))))

/-- R66, R71, R72, R78 to R80, R203, R208 to R230: what each started command does, and that its work is then done with its status; a data
fault holds it. -/
def Obligations.CommandResults : Prop :=
  ∀ (s : State) (k : Nat),
    let c := s.cmd k
    let work := fun (ty : Nat) => c.phase = .started ∧ pktType c.bytes = ty ∧ c.held = false
    let worked := fun (r : State) (status : BitVec 16) (detail result : Word) =>
      let noted := status = 1 ∧ (r.cmd k).status = 2
      r.setCmd k { r.cmd k with
        phase := .worked, status := (if noted then 2 else status), detail := (if noted then (r.cmd k).detail else detail)
        result := result, held := false }
    let engine := fun (i : Instr) (result : Word) (out : RunOut) => match out with
      | .done bad r => Completes i s (fun t => t = worked r (if bad.isSome then 2 else 1) (bad.getD 0) result)
      | .held _ r => Completes i s (fun t => (t.cmd k).held = true ∧ (t.cmd k).phase = (r.cmd k).phase ∧ t.mem = r.mem)
      | .waiting r => Completes i s (fun t => t = if r.nextId = s.nextId then s else r)
    let copy := fun (i : Instr) (op : Nat) => work 2 → fieldLe c.bytes 28 1 = op →
      engine i (BitVec.ofNat 64 (copyWritten op (c.recs.getD 0 []) (c.recs.getD 1 []) (c.boundAt 0)))
        (s.copyRun (cmdReq k c.ctx) .floor op (c.recs.getD 0 []) (c.recs.getD 1 []) (c.boundAt 0))
    let coll := fun (i : Instr) (op : Nat) => work 4 → fieldLe c.bytes 36 1 = op →
      Completes i s (fun t => some t = s.collRun { body := c.recs.getD 0 [], comm := c.recs.getD 1 [], rtab := c.recs.getD 2 [], seqNo := c.seqNo } ∨
        (s.collRun { body := c.recs.getD 0 [], comm := c.recs.getD 1 [], rtab := c.recs.getD 2 [], seqNo := c.seqNo } = none ∧ t = s))
    let near := fun (i : Instr) (kind : Nat) => work 5 → fieldLe c.bytes 8 1 = kind →
      ∀ n, s.nearFor (.command k) = some n →
        let r := s.nearAdvance n
        ∀ d, r.nearFor (.command k) = some d →
          (d.begun = true → d.left = [] → Completes i s (fun t => t = worked ((r.closeWindow d).nearRemove d.id)
            (if d.failed || d.bad.isSome then 2 else 1) (d.bad.getD 0) (BitVec.ofNat 64 (c.boundAt 1)))) ∧
          (d.begun = false ∨ d.left ≠ [] → Completes i s (fun t => t = r))
    copy (.copyPlain k) 0 ∧ copy (.copyTranspose k) 1 ∧ copy (.copyCompress k) 2 ∧ copy (.copyDecompress k) 3 ∧
    copy (.copyConvert k) 4 ∧ copy (.copyRepack k) 5 ∧
    (c.phase ≠ .done → pktType c.bytes = 2 → fieldLe c.bytes 28 1 = 6 → Completes (.copyMigrate k) s (fun t => (t.cmd k).phase = .done)) ∧
    (work 2 → fieldLe c.bytes 28 1 = 7 →
      let out := c.recs.getLastD []
      engine (.copyChain k) (BitVec.ofNat 64 (copyBytes (Layout.ofBytes out) (Layout.ofBytes out) (c.boundAt 0)))
        (s.chainRun (cmdReq k c.ctx) .floor (c.recs.getD 0 []) (c.recs.drop 1).dropLast out (c.boundAt 0))) ∧
    (work 3 → engine (.sort k) (BitVec.ofNat 64 (c.boundAt 0))
      (s.sortRun (cmdReq k c.ctx) .floor (sortBody c.bytes (c.bound.map (fun w => w.toNat))))) ∧
    coll (.collAllReduce k) 0 ∧ coll (.collReduceScatter k) 1 ∧ coll (.collAllGather k) 2 ∧ coll (.collBroadcast k) 3 ∧
    coll (.collOrderedComposite k) 4 ∧
    near (.nearLoadprog k) 1 ∧ near (.nearRun k) 2 ∧ near (.nearIreduce k) 3 ∧
    (work 1 → Completes (.launch k) s (fun t => t =
      if (s.launch k).eligible then s else s.setLaunch k { s.launch k with eligible := true })) ∧
    (∀ i, s.semIndex c.ctx (fieldLe c.bytes 8 2) = some i →
      (work 6 → Completes (.signal k) s (fun t =>
        t = worked (s.setSem i (s.sem i + BitVec.ofNat 64 (c.boundAt 0))) 1 0 (s.sem i + BitVec.ofNat 64 (c.boundAt 0)))) ∧
      (work 7 → Completes (.await k) s (fun t => t = if c.boundAt 0 ≤ (s.sem i).toNat then
          (if c.node = 0 ∧ (s.queue c.ctx c.queue).head = some k then (worked s 1 0 (s.sem i)).advanceQueue c.ctx c.queue else worked s 1 0 (s.sem i)) else s))) ∧
    (work 8 → Completes (.nop k) s (fun t => t = worked s 1 0 0)) ∧
    (c.phase = .worked → c.held = false → s.ctxLive c.ctx = true → c.node = 0 → s.cmdAcknowledged k = true →
      let ends := fun (r t : State) => (t.cmd k).phase = .done ∧ (t.cmd k).status = c.status ∧ (t.cmd k).result = c.result ∧
        (pktType c.bytes = 1 → (t.launch k).running = false) ∧ t.queues = r.queues ∧ t.regs = r.regs ∧
        t.sems = (if pktSig c.bytes then match r.semIndex c.ctx (pktSigSem c.bytes) with
          | some i => (r.setSem i (r.sem i + 1)).sems
          | none => r.sems else r.sems) ∧ (pktIrq c.bytes = false → s.armedOf c.ctx = [] → t.mem = r.mem)
      let p := s.pub .sys (s.cmdPlace k)
      let d := if c.status = 1 then p.free else (c.detail, p)
      let record := d.2.devWrite c.ctx ((s.queue c.ctx c.queue).record c.index)
        (leBytes 2 c.status.toNat ++ leBytes 1 (pktType c.bytes) ++ leBytes 1 0 ++ leBytes 2 0 ++ leBytes 2 c.queue ++ leBytes 8 c.index
          ++ leBytes 8 d.1.toNat ++ leBytes 8 c.result.toNat)
      (pktRec c.bytes = false ∨ (s.queue c.ctx c.queue).crec = 0 → Completes (.commandComplete k) s (ends s)) ∧
      (pktRec c.bytes = true → (s.queue c.ctx c.queue).crec ≠ 0 →
        (∀ r : State, record = (.done, r) → Completes (.commandComplete k) s (ends r)) ∧
        (∀ (f : AccFault) (r : State), record = (.fault f, r) → Completes (.commandComplete k) s (fun t =>
          (t.cmd k).held = true ∧ (t.cmd k).phase = .worked ∧ t.queues = r.queues ∧ t.sems = r.sems ∧ t.regs = r.regs)))) ∧
    (work 1 → s.launchOver k = true → s.ctxLive c.ctx = true → c.node = 0 → s.cmdAcknowledged k = true → pktRec c.bytes = false →
      let l := s.launch k
      Completes (.commandComplete k) s (fun t => (t.cmd k).phase = .done ∧ (t.launch k).running = false ∧ (t.cmd k).result = BitVec.ofNat 64 l.run ∧
        match l.lowestKilled with
        | some i => (t.cmd k).status = (if l.det then 3 else 4) ∧ (t.cmd k).detail = BitVec.ofNat 64 i
        | none => (t.cmd k).status = if c.status = 2 then 2 else 1))

/-! ## Dispatch and what happens beside the instructions (R83 to R127, R136, R153 to R156, R171 to R173, R201 to R206, R280, R285) -/

/-- R85 to R87, R117, R126, R138, R109: a new set is placed in linear order, its barriers expect its threads and its Helm, and its groups
start with their registers preloaded; a saved set comes back to the cores named; a fired bin starts a spawned group. -/
def Obligations.PlacementResults : Prop :=
  ∀ s : State,
    (∀ (cores : List Nat) (i : Item) (r : State), s.serves = true → s.nextItem = some (i, r) → i.saved = [] → r.itemFitsOn i cores = true →
      Completes (.workgroupPlace cores) s (fun t =>
        let l := r.launch i.launch
        (t.launch i.launch).next = l.next + i.lins.length ∧ (t.launch i.launch).live = l.live + i.lins.length ∧
        ∀ j lin core : Nat, i.lins[j]? = some lin → cores[j]? = some core →
          let w := r.nextId + j
          (t.wg w).launch = i.launch ∧ (t.wg w).lin = lin ∧ (t.wg w).core = core ∧ (t.wg w).status = .resident ∧
          (∀ b < l.barsN, (t.bar w b).expect = BitVec.ofNat 11 (l.threads + if l.helm = 0 then 0 else 1) ∧ (t.bar w b).arrived = 0) ∧
          (t.helm w).running = (l.helm != 0) ∧ (t.helm w).pc = l.helm ∧ t.reg (.h w 0) = preload l.karg.toNat ∧ t.reg (.h w 1) = preload lin ∧
          ∀ g lane : Nat, lane < 32 → 32 * g + lane < l.threads →
            (t.thread { wg := w, grp := g, lane := lane }).live = true ∧ (t.thread { wg := w, grp := g, lane := lane }).pc = l.entry ∧
            t.reg (.v w g lane 0) = preload (32 * g + lane) ∧ t.reg (.v w g lane 1) = preload lane ∧
            t.reg (.s w g 0) = preload l.karg.toNat ∧ t.reg (.s w g 1) = preload (lin % l.gx) ∧ t.reg (.s w g 2) = preload (lin / l.gx % l.gy) ∧
            t.reg (.s w g 3) = preload (lin / (l.gx * l.gy)) ∧ t.reg (.s w g 4) = preload g ∧ t.reg (.s w g 5) = preload lin ∧
            t.reg (.s w g 6) = preload l.groups)) ∧
    (∀ (cores : List Nat) (i : Item) (r : State), s.serves = true → s.nextItem = some (i, r) → i.saved ≠ [] → i.saved.Nodup →
      (r.badMembers i = [] → r.itemFitsOn i cores = true → r.logFits i cores = true → ∀ u, r.eagerAll (i.saved.zip cores) = .done u →
        Completes (.workgroupRestore cores) s (fun t =>
          (∀ j w core : Nat, i.saved[j]? = some w → cores[j]? = some core → (t.wg w).status = .resident ∧ (t.wg w).core = core ∧
            (t.wg w).lin = (u.wg w).lin ∧ (t.wg w).bars = (u.wg w).bars) ∧
          t.regs = u.regs ∧ t.threads = u.threads)) ∧
      (∀ w slot : Nat, (w, slot) ∈ r.badMembers i → Completes (.workgroupRestore cores) s (fun t => (t.wg w).killed = true))) ∧
    (∀ (core n : Nat) (b : SpawnBin), (s.core core).bins[n]? = some b → b.countdown = 0 → b.fired = false →
      Completes (.spawnBinCountdown core n) s (fun t => t = s.setCore core { s.core core with bins := (s.core core).bins.set n { b with fired := true } })) ∧
    (∀ (core n slot : Nat) (b : SpawnBin),
      let r := s.formGenerations core
      r.boot.ready = true → Memory.wf r.mem = true → (r.core core).bins[n]? = some b → b.fired = true → r.spawnSlot core = some slot →
      (b.wg = none ∨ ∀ x ∈ (r.core core).bins.take n, x.wg ≠ b.wg) →
      Completes (.spawnGroupStart core n) s (fun t =>
        let w := (b.recs.map (fun x => x.wg)).headD 0
        let g : GroupId := { wg := w, grp := (r.wg w).nextGroup }
        let bytes := b.recs.flatMap (fun x => x.bytes)
        (t.group g).present = true ∧ (t.group g).spawned = true ∧ (t.group g).slot = slot ∧ (t.group g).block = spawnBlock core slot ∧
        (t.wg w).nextGroup = g.grp + 1 ∧ t.bytesAt (chipAt (spawnBlock core slot)) bytes.length = bytes ∧
        (∀ lane < b.recs.length, (t.thread { wg := w, grp := g.grp, lane := lane }).live = true ∧
          (t.thread { wg := w, grp := g.grp, lane := lane }).pc = b.entry) ∧
        t.reg (.s w g.grp 7) = preload (genericAddr spChip (BitVec.ofNat 64 (spawnBlock core slot))).toNat))

/-- R93, R94, R120, R280, R344: hangs trap, a branching bundle yields, a nap ends, and a Helm's trap is taken by its thread. -/
def Obligations.WaitingGroupEvents : Prop :=
  ∀ (s : State) (w grp : Nat), s.mayRun w = true →
    let g : GroupId := { wg := w, grp := grp }
    ((s.threads.map (·.1)).Nodup → Completes (.hangLimit w grp) s (fun t =>
      (∀ id ∈ s.liveOf g, s.threadHung id = true → TookTrap s t id 0x23 (s.thread id).pc 0 0) ∧
      (∀ id, (id ∉ s.liveOf g ∨ s.threadHung id = false) → t.thread id = s.thread id) ∧ t.regs = s.regs ∧ t.mem = s.mem)) ∧
    Completes (.helmHangLimit w) s (fun t => t = if s.helmHung w then s.setHelm w { s.helm w with
      hang := 0, trap := some { cause := 0x23, addr := (s.helm w).pc, info := 1, taker := none }, wait := .none, acceptWait := none } else s) ∧
    (∀ (h : HelmTrap) (id : ThreadId), (s.helm w).trap = some h → h.taker = none → s.helmTaker w = some id →
      Completes (.helmTrapDelivery w) s (fun t => TookTrap s t id h.cause (s.thread id).pc h.addr h.info ∧
        t.helm w = { s.helm w with trap := some { h with taker := some id } } ∧ (∀ x, x ≠ id → t.thread x = s.thread x) ∧
        t.regs = s.regs ∧ t.mem = s.mem)) ∧
    (64 ≤ (s.group g).backCount → Completes (.backwardBranchYield w grp) s (fun t => t = s.setGroup g { s.group g with
      backCount := 0, yieldAbove := (leastNat ((s.issuable g).map (fun x => (s.thread x).pc.toNat))).map (BitVec.ofNat 64) })) ∧
    Completes (.napExpire w grp) s (fun t => t = { s with threads := t.threads } ∧
      ∀ id, t.thread id = match (s.thread id).wait with
        | .nap 0 next => if id.wg = w ∧ id.grp = grp then { s.thread id with wait := .none, pc := next } else s.thread id
        | _ => s.thread id)

/-- R129, R136, R203, R397, R100: a value arrives at its register, an engine's operation finishes or is held, an append is written where
its queue has room, and a ticket is released. -/
def Obligations.AsynchronousResults : Prop :=
  ∀ s : State,
    (∀ (id : Nat) (f : Fill), s.fills.find? (fun x => x.id == id) = some f → Completes (.longLatencyFill id) s (fun t =>
      t.reg f.reg = { s.reg f.reg with bits := f.value, full := true } ∧ (∀ k, k ≠ f.reg → t.reg k = s.reg k) ∧
      (∀ x ∈ t.fills, x ∈ s.fills ∧ x.id ≠ id) ∧
      t.group f.owner = { s.group f.owner with flags := (s.group f.owner).flags ||| f.flags } ∧ (∀ g, g ≠ f.owner → t.group g = s.group g) ∧
      t.mem = s.mem ∧ t.threads = s.threads)) ∧
    (∀ (id : Nat) (o : AsyncOp), s.opOf id = some o → o.done = false → o.held = false → o.kind.isPush = false → s.opOldest o = true →
      match s.opRun o with
      | .waiting r => Completes (.asyncOperationComplete id) s (fun t => t = r)
      | .held _ r => Completes (.asyncOperationComplete id) s (fun t =>
          (∀ x ∈ t.ops, x.id = id → x.held = true ∧ x.done = false) ∧ t.mem = r.mem ∧ t.regs = r.regs ∧ t.groups = r.groups)
      | .done _ r => Completes (.asyncOperationComplete id) s (fun t =>
          (∀ x ∈ t.ops, x.id = id → x.done = true ∧ x.held = false) ∧ t.mem = r.mem ∧ t.regs = r.regs ∧
          (∀ x ∈ t.emptyLines, x ∈ r.emptyLines) ∧ (∀ x ∈ r.emptyLines, x ∉ o.lines → x ∈ t.emptyLines) ∧
          (∀ n, o.bar = some n → (t.bar o.wg n).tx = (r.bar o.wg n).tx - BitVec.ofNat 32 o.tx) ∧
          ∀ g, o.orphan = false → o.grp = some g → (r.group { wg := o.wg, grp := g }).ctr.get o.cls ≠ 0 →
            (t.group { wg := o.wg, grp := g }).ctr.get o.cls = (r.group { wg := o.wg, grp := g }).ctr.get o.cls - 1)) ∧
    (∀ (id q w : Nat) (packet : List Byte) (after : Word) (o : AsyncOp), s.opOf id = some o → o.kind = .qpush q w packet after → o.done = false → o.held = false →
      ∀ (b c : List Byte) (r u : State), s.devRead o.ctx (s.descAddr o.ctx q) 64 = (.bytes b, r) →
      r.devRead o.ctx (QDesc.ofBytes b).ridx 8 = (.bytes c, u) →
      (ofLe c + 2 ^ (QDesc.ofBytes b).log2n ≤ w → Completes (.qpushSlotWrite id) s (fun t => t = u)) ∧
      (w < ofLe c + 2 ^ (QDesc.ofBytes b).log2n →
        let slot := (QDesc.ofBytes b).ring + BitVec.ofNat 64 (64 * (w % 2 ^ (QDesc.ofBytes b).log2n))
        ∀ x y : State, u.writeRec o.req (slot + 8) (packet.drop 8) = (.done, x) → x.writeRec o.req slot (packet.take 8) = (.done, y) →
          Completes (.qpushSlotWrite id) s (fun t => t.mem = y.mem ∧ (∀ z ∈ t.ops, z.id = id → z.done = true) ∧ t.regs = y.regs))) ∧
    (∀ l w : Nat, s.ticketHolder l = some w → (s.launch l).det = true → s.ctxLive (s.launch l).ctx = true → s.ops.any (fun o => o.wg == w && o.orphan && !o.done) = false →
      let free := ((s.wg w).status = .ended ∨ (s.wg w).killed = true) ∧ s.wgLogged w = false ∧ (s.launch l).emitWait = false
      (¬free → Completes (.ticketRelease l) s (fun t => t = s)) ∧
      (free → ∀ r, s.emitWg w = (true, r) → Completes (.ticketRelease l) s (fun t =>
        t = (r.setLaunch l { r.launch l with ticket := (r.launch l).ticket + 1 }).setWg w { r.wg w with share := none })))

/-- R153 to R155, R171, R172, R201, R203, R206, R285, R45: map fills and early write-backs, fences and what they release, write-back and
re-packing of VBD blocks, hotness counts, fault records. -/
def Obligations.MemoryServiceResults : Prop :=
  ∀ s : State, Memory.wf s.mem = true →
    (∀ (wg line : Nat) (m : RegionMap) (f : MapFill) (b : List Byte) (r : State), s.mapAt wg line = some m →
      m.filling.find? (fun f => f.line == line) = some f → Memory.wf r.mem = true →
      let waits := s.phasePending { wg := wg, grp := f.grp } || s.groupLogged { wg := wg, grp := f.grp } (pageOf (m.lineVa line))
      (f.helm = false → waits = true → Completes (.mapFillComplete wg line) s (fun t => t = s)) ∧
      (f.helm = true ∨ waits = false → s.readRec (s.fillReq wg f) .floor spGlobal (BitVec.ofNat 64 (m.lineVa line)) 128 = (.bytes b, r) →
      Completes (.mapFillComplete wg line) s (fun t => t.bytesAt (scratchAt wg (128 * line)) b.length = b ∧
        (∀ a, a < scratchAt wg (128 * line) ∨ scratchAt wg (128 * line) + b.length ≤ a → t.byteAt a = r.byteAt a) ∧
        (∀ x ∈ (t.wg wg).maps, x.covers line = true → ∀ y ∈ x.filling, y.line ≠ line) ∧ t.regs = r.regs))) ∧
    (∀ (wg line : Nat) (m : RegionMap), s.mapAt wg line = some m →
      let ws := (s.dirtyWrites wg m).filter (fun x => decide (m.lineVa line ≤ x.1) && decide (x.1 < m.lineVa line + 128))
      (m.wb = false ∨ (s.launchOf wg).det = true ∨ s.sideRoom (s.coreOf wg) < ws.length → Completes (.mapWriteback wg line) s (fun t => t = s)) ∧
      (m.wb = true → (s.launchOf wg).det = false → ws.length ≤ s.sideRoom (s.coreOf wg) → Completes (.mapWriteback wg line) s (fun t =>
        t = (ws.foldl (fun (acc : List Nat × State) x =>
          acc.2.storeGlobal (s.mapReq wg) { wg := wg, grp := 0, lane := 0 } acc.1 x.1 x.2) ([], s)).2))) ∧
    (∀ (id : Nat) (f : Fence), s.fences.find? (fun x => x.id == id) = some f →
      (s.ctxInFlight f.ctx = true → Completes (.translationFenceComplete id) s (fun t => t = s)) ∧
      (s.ctxInFlight f.ctx = false → (∀ c, FMap.find s.ctxs f.ctx = some c → c.dying = false) →
        Completes (.translationFenceComplete id) s (fun t => (∀ x ∈ t.fences, x.id ≠ f.id) ∧
          (∃ m ∈ t.fenceMarks, m.ctx = f.ctx ∧ m.va = f.va ∧ m.seq = s.writeSeq + 1) ∧
          (∀ o ∈ t.ops, o.ctx = f.ctx → o.held = false) ∧ (∀ e ∈ t.cmds, e.2.ctx = f.ctx → e.2.held = false) ∧
          (∀ c, FMap.find t.ctxs f.ctx = some c → c.fqBlocked = false) ∧ t.regs = s.regs)) ∧
      (s.ctxInFlight f.ctx = false → ∀ c, FMap.find s.ctxs f.ctx = some c → c.dying = true → s.ctxAtWork f.ctx false = true →
        Completes (.translationFenceComplete id) s (fun t => t = s)) ∧
      (s.ctxInFlight f.ctx = false → ∀ c, FMap.find s.ctxs f.ctx = some c → c.dying = true → s.ctxAtWork f.ctx false = false →
        s.ctxAtWork f.ctx true = true → Completes (.translationFenceComplete id) s (fun t => t = s.fenceDone f.ctx [none])) ∧
      (s.ctxInFlight f.ctx = false → ∀ c, FMap.find s.ctxs f.ctx = some c → c.dying = true → s.ctxAtWork f.ctx false = false →
        s.ctxAtWork f.ctx true = false → Completes (.translationFenceComplete id) s (fun t => FMap.find t.ctxs f.ctx = none ∧ (∀ k, k ≠ f.ctx → FMap.find t.ctxs k = FMap.find s.ctxs k) ∧
          t.host = { s.host with ctxDone := true, ctxBusy := false, ctxErr := 0 } ∧ t.endedFrames = s.endedFrames ++ s.ctxFrames f.ctx ∧
          (∀ o ∈ t.ops, o.ctx ≠ f.ctx) ∧ (∀ e ∈ t.queues, e.1.1 ≠ f.ctx) ∧ t.mem = s.mem))) ∧
    (∀ (frame block : Nat) (b : VbdBlock), s.vbd.find? (fun b => b.frame == frame && b.block == block) = some b →
      let form := vbdEncode b.esz (s.bytesAt (vbdAt (frame + 256 * block)) 256)
      let slot := frame + 0x40 + 128 * block
      ((∃ x ∈ s.vbd, x.frame = frame ∧ x.held = true) → Completes (.l2Writeback frame block) s (fun t => t = s)) ∧
      ((∀ x ∈ s.vbd, x.frame = frame → x.held = false) → Completes (.l2Writeback frame block) s (fun t => t.regs = s.regs ∧
        (t = s ∨ frame ∈ t.repackReqs ∨ ∀ x ∈ t.vbd, ¬(x.frame = frame ∧ x.block = block)) ∧
        (form.1 ≤ 1 → block < 16 → frame + 4096 < 2 ^ 128 →
          t.numAt (frame + 4 * block) 4 = (vbdDesc form.1 form.2.1 0).toNat ∧ (∀ x ∈ t.vbd, ¬(x.frame = frame ∧ x.block = block)) ∧
          (form.1 = 1 → t.bytesAt slot form.2.2.length = form.2.2))))) ∧
    (∀ frame : Nat, frame ∈ s.repackReqs →
      let e := match s.vbd.find? (fun b => b.frame == frame) with | some b => b.esz | none => 4
      Completes (.repackService frame) s (fun t => frame ∉ t.repackReqs ∧ t.regs = s.regs ∧
        ∀ image, vbdImage e ((s.pageBlocks frame e).1.flatMap (fun x => x.1)) = some image →
          t.bytesAt frame (image.take 0xC00).length = image.take 0xC00 ∧ ∀ x ∈ t.vbd, x.frame ≠ frame)) ∧
    (∀ slice frame : Nat, spaceOf frame ≤ 1 → Completes (.hotnessSample slice frame) s (fun t =>
      FMap.getD t.hotFills slice 0 = (FMap.getD s.hotFills slice 0 + 1) % 64 ∧ t.regs = s.regs ∧
      (∀ a, a ≠ s.hotCounter frame → t.byteAt a = s.byteAt a) ∧
      t.byteAt (s.hotCounter frame) =
        if FMap.getD s.hotFills slice 0 = 63 ∧ bitAt s.hotBase 0 = true ∧ s.byteAt (s.hotCounter frame) ≠ 0xFF
        then s.byteAt (s.hotCounter frame) + 1 else s.byteAt (s.hotCounter frame))) ∧
    (∀ (ctx : Nat) (c : Context) (x : FaultRec) (rest : List FaultRec) (b : List Byte) (r : State), FMap.find s.ctxs ctx = some c →
      c.fqWaiting = x :: rest → c.fqBlocked = false → c.dying = false → s.devRead ctx c.fqRidxAddr 8 = (.bytes b, r) →
      (2 ^ c.fqLog2n ≤ (c.fqWidx + 2 ^ 64 - ofLe b) % 2 ^ 64 → Completes (.faultRecordPost ctx) s (fun t => t = r)) ∧
      ((c.fqWidx + 2 ^ 64 - ofLe b) % 2 ^ 64 < 2 ^ c.fqLog2n →
        ∀ u v : State, r.devWrite ctx (c.fqBase + BitVec.ofNat 64 (64 * (c.fqWidx % 2 ^ c.fqLog2n))) x = (.done, u) →
        u.devWrite ctx c.fqWidxAddr (leBytes 8 (c.fqWidx + 1)) = (.done, v) → Completes (.faultRecordPost ctx) s (fun t =>
          FMap.find t.ctxs ctx = (FMap.find v.ctxs ctx).map (fun y => { y with fqWaiting := rest, fqWidx := (c.fqWidx + 1) % 2 ^ 64 }) ∧
          t.regs = v.regs)))

/-- R432, R433, R439: the oldest row transfer of a buffer performed: a write puts the buffer's 1 KiB at its local address, zeros
where a word of it is poisoned, and changes no other byte but in the leaf entries of written rows (R198); a read fills the buffer, with
what memory holds where nobody has written since the command's window began (R191).
A unit that has executed 65,536 words in a stripe fails its command and is finished with it. -/
def Obligations.CorniceUnitEvents : Prop :=
  ∀ (s : State) (u : Nat) (c : NearCmd), u < 512 → s.unitCmd u = some c →
    let x := s.unit u
    (65536 ≤ x.steps → Completes (.corniceStepLimit u) s (fun t => (t.unit u).running = none ∧
      ∀ y, t.nearOf c.id = some y → u ∉ y.left ∧ y.failed = true)) ∧
    (∀ buf, x.nextOn buf = none → Completes (.corniceTransferComplete u buf) s (fun t => t = s)) ∧
    ∀ (buf : Nat) (tr : RowTransfer), x.nextOn buf = some tr → s.errInjs = [] → Memory.wf s.mem = true →
      tr.addr % 256 = 0 → tr.addr < 2 ^ 32 →
      let place := fun (o : Nat) => hbmAt (localPa u (tr.addr + o))
      (tr.write = true → (x.bAt tr.buf).length = 1024 → Completes (.corniceTransferComplete u buf) s (fun t =>
        (∀ o < 1024, t.byteAt (place o) = if o / 8 ∈ x.bBad tr.buf then 0 else (x.bAt tr.buf).getD o 0) ∧
        (∀ o < 1024, t.isPoisoned (place o) = decide (o / 8 ∈ x.bBad tr.buf)) ∧
        (∀ a, (∀ o < 1024, a ≠ place o) → (∀ g ∈ c.granted true, a ≠ g.2 + 1) → t.byteAt a = s.byteAt a) ∧
        t.unit u = { x with transfers := x.transfers.erase tr })) ∧
      (tr.write = false → (∀ e ∈ s.hist, e.seq ≤ c.window) → Completes (.corniceTransferComplete u buf) s (fun t =>
        (∀ o < 1024, ((t.unit u).bAt tr.buf).getD o 0 = if s.isPoisoned (place o) then 0 else s.byteAt (place o)) ∧
        (∀ i < 128, i ∈ (t.unit u).bBad tr.buf ↔ s.isPoisoned (place (8 * i)) = true) ∧
        (∀ n, n ≠ tr.buf → (t.unit u).bAt n = x.bAt n) ∧
        t.mem = s.mem ∧ (t.unit u).transfers = x.transfers.erase tr))

/-! ## Steps and decoding (R292 to R300, R302, R316) -/

/-- R119, R246, R292, R293, R428: a step runs what is decoded. The next turn of the agenda is an event, executed; or a group, a Helm or a
Cornice unit that may issue, which fetches the word at its PC, decodes it in its kind of stream and executes it, after the group's
finished publications have been noted; then nobody issues. What would post more fault records than a die has room for has not
happened (R285). A word that is no instruction traps. The lanes that a group issues in hold live threads at that PC. A core's port
serves its ready Helms in rotation by number. A parcel is the two bytes where its address resolves. Which issuer goes next is the
agenda's choice (log entry 3). -/
def Obligations.StepRunsDecoded : Prop :=
  let ends := fun (s before after : State) =>
    (before.heldPast after = false → step s = .next { after with cur := .nobody }) ∧
    (before.heldPast after = true → step s = .next { before with cur := .nobody })
  let runs := fun (s t : State) (i : Instr) => ∀ v, exec i t = .next v → ends s t v
  (∀ (s : State) (i : Instr) rest, s.agenda = .event i :: rest → i.isEvent = true → runs s { s with agenda := rest } i) ∧
  (∀ (s : State) (w grp : Nat) rest, s.agenda = .group w grp :: rest →
    let g : GroupId := { wg := w, grp := grp }
    let r := State.settlePubs { s with agenda := rest } g
    let old : State := { s with agenda := rest }
    old.mayRun w = true → old.helmTrapHere g = false → (old.liveOf g).any old.threadHung = false → (old.group g).backCount < 64 →
    ∀ pc, r.bundlePc g = some pc → r.bundleBlocked g pc = false → let t := r.withBundle g pc
    ∀ x len v, t.fetch t.fetchReq (t.codeView w) t.curPc = (.word x len, v) → let y := v.curWithLen len
      (∀ i n, decode false x = .instr i n → runs s y i) ∧
      (∀ reason n, decode false x = .illegal reason n → let z := { y.trapIllegal reason with cur := .nobody }
        old.heldPast z = false → step s = .next z) ∧
      y.cur = .group w grp (r.bundleLanes g pc) (BitVec.ofNat 64 pc) len ∧
      Bundle t ∧ ∀ l ∈ t.curLanes, (t.thread (t.curThread l)).pc = t.curPc) ∧
  (∀ (s : State) (w : Nat) rest, s.agenda = .helm w :: rest →
    let r : State := { s with agenda := rest }
    r.mayRun w = true → r.helmHung w = false → r.portHelm (r.coreOf w) = some w →
    let t : State := { r.servePort w with cur := .helm w (r.helm w).pc 2 }
    ∀ x len v, t.fetch (t.helmReq w) (t.codeView w) t.curPc = (.word x len, v) → let y := v.curWithLen len
      (∀ i n, decode true x = .instr i n → runs s y i) ∧
      (∀ reason n, decode true x = .illegal reason n → let z := { y.trapIllegal reason with cur := .nobody }
        r.heldPast z = false → step s = .next z) ∧
      y.cur = .helm w (r.helm w).pc len ∧ (t.core (t.coreOf w)).lastPort = (r.helm w).number) ∧
  (∀ (s : State) (c w v : Nat), s.portHelm c = some w →
    let after := fun (h : Nat) => ((s.helm h).number + 7 - (s.core c).lastPort) % 8
    (s.core c).lastPort < 8 → (s.helm v).number < 8 → (FMap.find s.wgs v).isSome = true → (s.wg v).isResident = true → (s.wg v).core = c →
    s.helmIssuable v = true → s.helmIssuable w = true ∧ after w ≤ after v) ∧
  (∀ (s : State) (u : Nat) rest, s.agenda = .cornice u :: rest →
    let r := State.unitReady { s with agenda := rest } u
    (r.unit u).running.isSome = true → (r.unit u).pc < 256 → (r.unit u).steps < 65536 →
    ∀ i, decodeCornice (FMap.getD r.progStore (r.unit u).pc 0xB8000000) = some i → runs s { r with cur := .cornice u } i) ∧
  (∀ (s : State) (r : Req) (since : Nat) (a : Word) (p : Spot) (b : Nat) (t : State),
    s.resolve r spGlobal a 2 .fetch = (.ok p, t) → p.loc = .flat b → (∀ l, p.leaf = some l → l.nc = false) → spaceOf b = 0 →
    let u := t.touchSpot p false
    u.errInjs = [] → u.isPoisoned b = false → u.isPoisoned (b + 1) = false →
    (∀ e ∈ u.hist, since < e.seq → e.addr ≠ b ∧ e.addr ≠ b + 1) →
    s.fetchParcel r (.inv since) a = (.bytes [u.byteAt b, u.byteAt (b + 1)], u))

/-- R296, R298, R300, R302, R316: words written out from the encodings decode to their instructions. -/
def Obligations.DecodeKnownWords : Prop :=
  decode false 0x20050421 = .instr (.movi { u := false, t := 1, h := false, k := 10, d := 2 }) 4 ∧
  decode false 0x4040820D = .instr (.cmp 2 { u := false, so := 0, b := 2, a := 1, d := 1 }) 4 ∧
  decode false 0x0000C285 = .instr (.bc 6 false 1) 4 ∧
  decode false 0x20408601 = .instr (.sub { u := false, so := 0, b := 2, a := 1, d := 3 }) 4 ∧
  decode false 0x00000881 = .instr (.bra 4) 4 ∧
  decode false 0x00408601 = .instr (.add { u := false, so := 0, b := 2, a := 1, d := 3 }) 4 ∧
  decode false 0x04020791 = .instr (.st { p := 0, g := 0, f := true, o := 0, a := 4, d := 3 }) 4 ∧
  decode false 0x00000091 = .instr (.exit { u := false, so := 0, b := 0, a := 0, d := 0 }) 4 ∧
  decode false 0x7F4A7C1514180263 = .instr (.movi64 1
    { u := true, fsc := false, fsb := false, fsa := false, fsd := true, gn := false, gk := 0, so := 0, sh := .imm32 0x7F4A7C15 0x14 }) 8 ∧
  decode false 0x016503C9 = .instr (.cpy { u := false, so := 0, b := 11, a := 10, d := 1 }) 4 ∧
  decode false 0x600001C1 = .instr (.barSync { u := false, so := 0, b := 0, a := 0, d := 0 }) 4 ∧
  decode false 0x000009B1 = .instr (.pub 4) 4 ∧
  decode false 0x28218F81 = .instr (.ld 0 { p := 1, g := 1, f := false, o := 1, a := 3, d := 7 }) 4 ∧
  decode true 0x40E03008026023E3 = .instr (.mma
    { u := false, fsc := false, fsb := true, fsa := true, fsd := false, gn := false, gk := 0, so := 2
      sh := .rrr false true 7 false 6 false 4 2 }) 8 ∧
  decode true 0x800405E1 = .instr (.mst { u := false, so := 0, b := 0, a := 8, d := 2 }) 4 ∧
  decode false 0x01C015F1 = .instr (.rdsys 0x0E 10) 4 ∧
  decode false 0x21C481F1 = .instr (.wrsys 0x0E 9) 4 ∧
  decode false 0x88A201F5 = .instr (.tlbinvVa { u := false, so := 1, b := 5, a := 4, d := 0 }) 4 ∧
  decodeCornice 0x08080000 = some (.corniceRdrow { d := 0, a := 1, b := 0, c := 0, cls := 0, imm := 0 }) ∧
  decodeCornice 0x10000000 = some (.corniceWrrow { d := 0, a := 0, b := 0, c := 0, cls := 0, imm := 0 }) ∧
  decodeCornice 0xB8000000 = some (.corniceEnd { d := 0, a := 0, b := 0, c := 0, cls := 0, imm := 0 })

/-- R294 to R300, R302 to R316: decode and encode agree. Every instruction that is legal and that its kind of stream accepts is what
the decoder of that stream reads from its word, with every operand at every value. -/
def Obligations.DecodeOfEncode : Prop :=
  ∀ (h : Bool) (i : Instr) (c : Coded), encode i = some c → i.wellFormed h = true → i.inStream h = true → decodeCoded h c = some i

/-! ## Invariant and reset -/

/-- Every step keeps memory in its canonical form, leaves nobody issuing, and keeps every entry of the coherence order at or before
the latest write (R176). The canonical form and the issuer are the model's (log entries 2, 3). -/
def Obligations.InvariantKept : Prop :=
  ∀ s t : State, Inv s → step s = .next t → Inv t

/-- R27, R28, R37 to R42, R46, R50: the module before power is applied. The invariant holds, the control registers hold their reset
values, no port is enabled, and the first step applies power, which begins a cold start. -/
def Obligations.ResetState : Prop :=
  Inv State.reset ∧
  (∀ off ∈ [0x1000, 0x1008, 0x1018, 0x1020, 0x1028, 0x1030, 0x1038, 0x1040, 0x1048, 0x1060, 0x1068, 0x1080, 0x1088, 0x1090,
    0x10A0, 0x10A8, 0x10B0, 0x40000, 0x40020, 0x100000], State.reset.bar0Word off = 0) ∧
  State.reset.bar0Word 0x1010 = 32 ∧
  (∀ n < 16, State.reset.bar0Word (0x2000 + 16 * n) = 0 ∧ State.reset.bar0Word (0x2008 + 16 * n) = 0) ∧
  (∀ p < 96, State.reset.bar0Word (0x101000 + 8 * p) = 0) ∧
  ∃ t, step State.reset = .next t ∧ t.boot.powered = true ∧ t.boot.ready = false ∧ t.boot.warm = false ∧ t.boot.stage = 1
end

