-- ==== Sys2Proof/Laws/Maps.lean ====
section
/-! SUPPORT. Reading after writing in the finite maps of the state. -/

namespace Sys2Proof.Laws

open Sys2Proof Sys2Proof.Machine

variable {κ α : Type} [DecidableEq κ]

@[simp] theorem find_set_same (m : FMap κ α) (k : κ) (v : α) : FMap.find (FMap.set m k v) k = some v := by
  induction m with
  | nil => simp [FMap.set, FMap.find]
  | cons e t ih =>
    obtain ⟨a, b⟩ := e
    by_cases h : a = k <;> simp [FMap.set, FMap.find, h, ih]

theorem find_set_other (m : FMap κ α) {k j : κ} (v : α) (h : j ≠ k) : FMap.find (FMap.set m k v) j = FMap.find m j := by
  induction m with
  | nil => simp [FMap.set, FMap.find, h.symm]
  | cons e t ih =>
    obtain ⟨a, b⟩ := e
    by_cases hk : a = k
    · subst hk; simp [FMap.set, FMap.find, h.symm]
    · by_cases hj : a = j
      · subst hj; simp [FMap.set, FMap.find, hk]
      · simp [FMap.set, FMap.find, hk, hj, ih]

/-- What a map reads as after one key is set. -/
theorem getD_set (m : FMap κ α) (k j : κ) (v d : α) : FMap.getD (FMap.set m k v) j d = if j = k then v else FMap.getD m j d := by
  by_cases h : j = k
  · subst h; simp [FMap.getD]
  · simp [FMap.getD, find_set_other m v h, h]

@[simp] theorem getD_set_same (m : FMap κ α) (k : κ) (v d : α) : FMap.getD (FMap.set m k v) k d = v := by simp [getD_set]

theorem getD_set_other (m : FMap κ α) {k j : κ} (v d : α) (h : j ≠ k) : FMap.getD (FMap.set m k v) j d = FMap.getD m j d := by
  simp [getD_set, h]

theorem find_erase_same (m : FMap κ α) (k : κ) : FMap.find (FMap.erase m k) k = none := by
  induction m with
  | nil => rfl
  | cons e t ih =>
    obtain ⟨a, b⟩ := e
    by_cases h : a = k
    · simpa [FMap.erase, h] using ih
    · simpa [FMap.erase, h, FMap.find] using ih

theorem find_erase_other (m : FMap κ α) {k j : κ} (h : j ≠ k) : FMap.find (FMap.erase m k) j = FMap.find m j := by
  induction m with
  | nil => rfl
  | cons e t ih =>
    obtain ⟨a, b⟩ := e
    by_cases ha : a = k
    · subst ha
      have : FMap.find (FMap.erase ((a, b) :: t) a) j = FMap.find (FMap.erase t a) j := by simp [FMap.erase]
      rw [this, ih]; simp [FMap.find, h.symm]
    · have : FMap.erase ((a, b) :: t) k = (a, b) :: FMap.erase t k := by simp [FMap.erase, ha]
      rw [this]; simp [FMap.find, ih]

theorem find_modify (m : FMap κ α) (k j : κ) (f : α → α) :
    FMap.find (FMap.modify m k f) j = if j = k then (FMap.find m k).map f else FMap.find m j := by
  unfold FMap.modify
  by_cases h : j = k
  · subst h; cases hm : FMap.find m j <;> simp [hm]
  · cases hm : FMap.find m k <;> simp [h, find_set_other m _ h]

/-- A value set twice is the value set last. -/
theorem set_set (m : FMap κ α) (k : κ) (v w : α) : FMap.set (FMap.set m k v) k w = FMap.set m k w := by
  induction m with
  | nil => simp [FMap.set]
  | cons e t ih =>
    obtain ⟨a, b⟩ := e
    by_cases h : a = k
    · subst h; simp [FMap.set]
    · simp [FMap.set, h, ih]

end Sys2Proof.Laws
end

