-- ==== Sys2Proof/Laws/State.lean ====
section
/-! SUPPORT. Every field of the state after every single update of it: the field written, or the field as it was. -/

namespace Sys2Proof.Laws

open Sys2Proof Sys2Proof.Machine

/-! ## setReg -/

@[simp] theorem setReg_agenda (s : State) (k : RegKey) (x : Reg) : (s.setReg k x).agenda = s.agenda := rfl
@[simp] theorem setReg_freeCount (s : State) (k : RegKey) (x : Reg) : (s.setReg k x).freeCount = s.freeCount := rfl
@[simp] theorem setReg_nextId (s : State) (k : RegKey) (x : Reg) : (s.setReg k x).nextId = s.nextId := rfl
@[simp] theorem setReg_cur (s : State) (k : RegKey) (x : Reg) : (s.setReg k x).cur = s.cur := rfl
@[simp] theorem setReg_mem (s : State) (k : RegKey) (x : Reg) : (s.setReg k x).mem = s.mem := rfl
@[simp] theorem setReg_poison (s : State) (k : RegKey) (x : Reg) : (s.setReg k x).poison = s.poison := rfl
@[simp] theorem setReg_hist (s : State) (k : RegKey) (x : Reg) : (s.setReg k x).hist = s.hist := rfl
@[simp] theorem setReg_floors (s : State) (k : RegKey) (x : Reg) : (s.setReg k x).floors = s.floors := rfl
@[simp] theorem setReg_writeSeq (s : State) (k : RegKey) (x : Reg) : (s.setReg k x).writeSeq = s.writeSeq := rfl
@[simp] theorem setReg_regs (s : State) (k : RegKey) (x : Reg) : (s.setReg k x).regs = FMap.set s.regs k x := rfl
@[simp] theorem setReg_threads (s : State) (k : RegKey) (x : Reg) : (s.setReg k x).threads = s.threads := rfl
@[simp] theorem setReg_groups (s : State) (k : RegKey) (x : Reg) : (s.setReg k x).groups = s.groups := rfl
@[simp] theorem setReg_helms (s : State) (k : RegKey) (x : Reg) : (s.setReg k x).helms = s.helms := rfl
@[simp] theorem setReg_wgs (s : State) (k : RegKey) (x : Reg) : (s.setReg k x).wgs = s.wgs := rfl
@[simp] theorem setReg_launches (s : State) (k : RegKey) (x : Reg) : (s.setReg k x).launches = s.launches := rfl
@[simp] theorem setReg_cmds (s : State) (k : RegKey) (x : Reg) : (s.setReg k x).cmds = s.cmds := rfl
@[simp] theorem setReg_queues (s : State) (k : RegKey) (x : Reg) : (s.setReg k x).queues = s.queues := rfl
@[simp] theorem setReg_ctxs (s : State) (k : RegKey) (x : Reg) : (s.setReg k x).ctxs = s.ctxs := rfl
@[simp] theorem setReg_cores (s : State) (k : RegKey) (x : Reg) : (s.setReg k x).cores = s.cores := rfl
@[simp] theorem setReg_dies (s : State) (k : RegKey) (x : Reg) : (s.setReg k x).dies = s.dies := rfl
@[simp] theorem setReg_ports (s : State) (k : RegKey) (x : Reg) : (s.setReg k x).ports = s.ports := rfl
@[simp] theorem setReg_fabSelf (s : State) (k : RegKey) (x : Reg) : (s.setReg k x).fabSelf = s.fabSelf := rfl
@[simp] theorem setReg_fabInb (s : State) (k : RegKey) (x : Reg) : (s.setReg k x).fabInb = s.fabInb := rfl
@[simp] theorem setReg_fabRoute (s : State) (k : RegKey) (x : Reg) : (s.setReg k x).fabRoute = s.fabRoute := rfl
@[simp] theorem setReg_routePending (s : State) (k : RegKey) (x : Reg) : (s.setReg k x).routePending = s.routePending := rfl
@[simp] theorem setReg_fabReqs (s : State) (k : RegKey) (x : Reg) : (s.setReg k x).fabReqs = s.fabReqs := rfl
@[simp] theorem setReg_sems (s : State) (k : RegKey) (x : Reg) : (s.setReg k x).sems = s.sems := rfl
@[simp] theorem setReg_emptyLines (s : State) (k : RegKey) (x : Reg) : (s.setReg k x).emptyLines = s.emptyLines := rfl
@[simp] theorem setReg_host (s : State) (k : RegKey) (x : Reg) : (s.setReg k x).host = s.host := rfl
@[simp] theorem setReg_boot (s : State) (k : RegKey) (x : Reg) : (s.setReg k x).boot = s.boot := rfl
@[simp] theorem setReg_trust (s : State) (k : RegKey) (x : Reg) : (s.setReg k x).trust = s.trust := rfl
@[simp] theorem setReg_errLogs (s : State) (k : RegKey) (x : Reg) : (s.setReg k x).errLogs = s.errLogs := rfl
@[simp] theorem setReg_errInjs (s : State) (k : RegKey) (x : Reg) : (s.setReg k x).errInjs = s.errInjs := rfl
@[simp] theorem setReg_log (s : State) (k : RegKey) (x : Reg) : (s.setReg k x).log = s.log := rfl
@[simp] theorem setReg_fills (s : State) (k : RegKey) (x : Reg) : (s.setReg k x).fills = s.fills := rfl
@[simp] theorem setReg_ops (s : State) (k : RegKey) (x : Reg) : (s.setReg k x).ops = s.ops := rfl
@[simp] theorem setReg_fences (s : State) (k : RegKey) (x : Reg) : (s.setReg k x).fences = s.fences := rfl
@[simp] theorem setReg_fenceMarks (s : State) (k : RegKey) (x : Reg) : (s.setReg k x).fenceMarks = s.fenceMarks := rfl
@[simp] theorem setReg_vbd (s : State) (k : RegKey) (x : Reg) : (s.setReg k x).vbd = s.vbd := rfl
@[simp] theorem setReg_repackReqs (s : State) (k : RegKey) (x : Reg) : (s.setReg k x).repackReqs = s.repackReqs := rfl
@[simp] theorem setReg_overflow (s : State) (k : RegKey) (x : Reg) : (s.setReg k x).overflow = s.overflow := rfl
@[simp] theorem setReg_staged (s : State) (k : RegKey) (x : Reg) : (s.setReg k x).staged = s.staged := rfl
@[simp] theorem setReg_spawnHeld (s : State) (k : RegKey) (x : Reg) : (s.setReg k x).spawnHeld = s.spawnHeld := rfl
@[simp] theorem setReg_hotBase (s : State) (k : RegKey) (x : Reg) : (s.setReg k x).hotBase = s.hotBase := rfl
@[simp] theorem setReg_hotFills (s : State) (k : RegKey) (x : Reg) : (s.setReg k x).hotFills = s.hotFills := rfl
@[simp] theorem setReg_units (s : State) (k : RegKey) (x : Reg) : (s.setReg k x).units = s.units := rfl
@[simp] theorem setReg_progStore (s : State) (k : RegKey) (x : Reg) : (s.setReg k x).progStore = s.progStore := rfl
@[simp] theorem setReg_near (s : State) (k : RegKey) (x : Reg) : (s.setReg k x).near = s.near := rfl
@[simp] theorem setReg_hostReads (s : State) (k : RegKey) (x : Reg) : (s.setReg k x).hostReads = s.hostReads := rfl
@[simp] theorem setReg_endedFrames (s : State) (k : RegKey) (x : Reg) : (s.setReg k x).endedFrames = s.endedFrames := rfl
@[simp] theorem setReg_peerAnswers (s : State) (k : RegKey) (x : Reg) : (s.setReg k x).peerAnswers = s.peerAnswers := rfl

/-! ## setThread -/

@[simp] theorem setThread_agenda (s : State) (k : ThreadId) (x : Thread) : (s.setThread k x).agenda = s.agenda := rfl
@[simp] theorem setThread_freeCount (s : State) (k : ThreadId) (x : Thread) : (s.setThread k x).freeCount = s.freeCount := rfl
@[simp] theorem setThread_nextId (s : State) (k : ThreadId) (x : Thread) : (s.setThread k x).nextId = s.nextId := rfl
@[simp] theorem setThread_cur (s : State) (k : ThreadId) (x : Thread) : (s.setThread k x).cur = s.cur := rfl
@[simp] theorem setThread_mem (s : State) (k : ThreadId) (x : Thread) : (s.setThread k x).mem = s.mem := rfl
@[simp] theorem setThread_poison (s : State) (k : ThreadId) (x : Thread) : (s.setThread k x).poison = s.poison := rfl
@[simp] theorem setThread_hist (s : State) (k : ThreadId) (x : Thread) : (s.setThread k x).hist = s.hist := rfl
@[simp] theorem setThread_floors (s : State) (k : ThreadId) (x : Thread) : (s.setThread k x).floors = s.floors := rfl
@[simp] theorem setThread_writeSeq (s : State) (k : ThreadId) (x : Thread) : (s.setThread k x).writeSeq = s.writeSeq := rfl
@[simp] theorem setThread_regs (s : State) (k : ThreadId) (x : Thread) : (s.setThread k x).regs = s.regs := rfl
@[simp] theorem setThread_threads (s : State) (k : ThreadId) (x : Thread) : (s.setThread k x).threads = FMap.set s.threads k x := rfl
@[simp] theorem setThread_groups (s : State) (k : ThreadId) (x : Thread) : (s.setThread k x).groups = s.groups := rfl
@[simp] theorem setThread_helms (s : State) (k : ThreadId) (x : Thread) : (s.setThread k x).helms = s.helms := rfl
@[simp] theorem setThread_wgs (s : State) (k : ThreadId) (x : Thread) : (s.setThread k x).wgs = s.wgs := rfl
@[simp] theorem setThread_launches (s : State) (k : ThreadId) (x : Thread) : (s.setThread k x).launches = s.launches := rfl
@[simp] theorem setThread_cmds (s : State) (k : ThreadId) (x : Thread) : (s.setThread k x).cmds = s.cmds := rfl
@[simp] theorem setThread_queues (s : State) (k : ThreadId) (x : Thread) : (s.setThread k x).queues = s.queues := rfl
@[simp] theorem setThread_ctxs (s : State) (k : ThreadId) (x : Thread) : (s.setThread k x).ctxs = s.ctxs := rfl
@[simp] theorem setThread_cores (s : State) (k : ThreadId) (x : Thread) : (s.setThread k x).cores = s.cores := rfl
@[simp] theorem setThread_dies (s : State) (k : ThreadId) (x : Thread) : (s.setThread k x).dies = s.dies := rfl
@[simp] theorem setThread_ports (s : State) (k : ThreadId) (x : Thread) : (s.setThread k x).ports = s.ports := rfl
@[simp] theorem setThread_fabSelf (s : State) (k : ThreadId) (x : Thread) : (s.setThread k x).fabSelf = s.fabSelf := rfl
@[simp] theorem setThread_fabInb (s : State) (k : ThreadId) (x : Thread) : (s.setThread k x).fabInb = s.fabInb := rfl
@[simp] theorem setThread_fabRoute (s : State) (k : ThreadId) (x : Thread) : (s.setThread k x).fabRoute = s.fabRoute := rfl
@[simp] theorem setThread_routePending (s : State) (k : ThreadId) (x : Thread) : (s.setThread k x).routePending = s.routePending := rfl
@[simp] theorem setThread_fabReqs (s : State) (k : ThreadId) (x : Thread) : (s.setThread k x).fabReqs = s.fabReqs := rfl
@[simp] theorem setThread_sems (s : State) (k : ThreadId) (x : Thread) : (s.setThread k x).sems = s.sems := rfl
@[simp] theorem setThread_emptyLines (s : State) (k : ThreadId) (x : Thread) : (s.setThread k x).emptyLines = s.emptyLines := rfl
@[simp] theorem setThread_host (s : State) (k : ThreadId) (x : Thread) : (s.setThread k x).host = s.host := rfl
@[simp] theorem setThread_boot (s : State) (k : ThreadId) (x : Thread) : (s.setThread k x).boot = s.boot := rfl
@[simp] theorem setThread_trust (s : State) (k : ThreadId) (x : Thread) : (s.setThread k x).trust = s.trust := rfl
@[simp] theorem setThread_errLogs (s : State) (k : ThreadId) (x : Thread) : (s.setThread k x).errLogs = s.errLogs := rfl
@[simp] theorem setThread_errInjs (s : State) (k : ThreadId) (x : Thread) : (s.setThread k x).errInjs = s.errInjs := rfl
@[simp] theorem setThread_log (s : State) (k : ThreadId) (x : Thread) : (s.setThread k x).log = s.log := rfl
@[simp] theorem setThread_fills (s : State) (k : ThreadId) (x : Thread) : (s.setThread k x).fills = s.fills := rfl
@[simp] theorem setThread_ops (s : State) (k : ThreadId) (x : Thread) : (s.setThread k x).ops = s.ops := rfl
@[simp] theorem setThread_fences (s : State) (k : ThreadId) (x : Thread) : (s.setThread k x).fences = s.fences := rfl
@[simp] theorem setThread_fenceMarks (s : State) (k : ThreadId) (x : Thread) : (s.setThread k x).fenceMarks = s.fenceMarks := rfl
@[simp] theorem setThread_vbd (s : State) (k : ThreadId) (x : Thread) : (s.setThread k x).vbd = s.vbd := rfl
@[simp] theorem setThread_repackReqs (s : State) (k : ThreadId) (x : Thread) : (s.setThread k x).repackReqs = s.repackReqs := rfl
@[simp] theorem setThread_overflow (s : State) (k : ThreadId) (x : Thread) : (s.setThread k x).overflow = s.overflow := rfl
@[simp] theorem setThread_staged (s : State) (k : ThreadId) (x : Thread) : (s.setThread k x).staged = s.staged := rfl
@[simp] theorem setThread_spawnHeld (s : State) (k : ThreadId) (x : Thread) : (s.setThread k x).spawnHeld = s.spawnHeld := rfl
@[simp] theorem setThread_hotBase (s : State) (k : ThreadId) (x : Thread) : (s.setThread k x).hotBase = s.hotBase := rfl
@[simp] theorem setThread_hotFills (s : State) (k : ThreadId) (x : Thread) : (s.setThread k x).hotFills = s.hotFills := rfl
@[simp] theorem setThread_units (s : State) (k : ThreadId) (x : Thread) : (s.setThread k x).units = s.units := rfl
@[simp] theorem setThread_progStore (s : State) (k : ThreadId) (x : Thread) : (s.setThread k x).progStore = s.progStore := rfl
@[simp] theorem setThread_near (s : State) (k : ThreadId) (x : Thread) : (s.setThread k x).near = s.near := rfl
@[simp] theorem setThread_hostReads (s : State) (k : ThreadId) (x : Thread) : (s.setThread k x).hostReads = s.hostReads := rfl
@[simp] theorem setThread_endedFrames (s : State) (k : ThreadId) (x : Thread) : (s.setThread k x).endedFrames = s.endedFrames := rfl
@[simp] theorem setThread_peerAnswers (s : State) (k : ThreadId) (x : Thread) : (s.setThread k x).peerAnswers = s.peerAnswers := rfl

/-! ## setGroup -/

@[simp] theorem setGroup_agenda (s : State) (k : GroupId) (x : Group) : (s.setGroup k x).agenda = s.agenda := rfl
@[simp] theorem setGroup_freeCount (s : State) (k : GroupId) (x : Group) : (s.setGroup k x).freeCount = s.freeCount := rfl
@[simp] theorem setGroup_nextId (s : State) (k : GroupId) (x : Group) : (s.setGroup k x).nextId = s.nextId := rfl
@[simp] theorem setGroup_cur (s : State) (k : GroupId) (x : Group) : (s.setGroup k x).cur = s.cur := rfl
@[simp] theorem setGroup_mem (s : State) (k : GroupId) (x : Group) : (s.setGroup k x).mem = s.mem := rfl
@[simp] theorem setGroup_poison (s : State) (k : GroupId) (x : Group) : (s.setGroup k x).poison = s.poison := rfl
@[simp] theorem setGroup_hist (s : State) (k : GroupId) (x : Group) : (s.setGroup k x).hist = s.hist := rfl
@[simp] theorem setGroup_floors (s : State) (k : GroupId) (x : Group) : (s.setGroup k x).floors = s.floors := rfl
@[simp] theorem setGroup_writeSeq (s : State) (k : GroupId) (x : Group) : (s.setGroup k x).writeSeq = s.writeSeq := rfl
@[simp] theorem setGroup_regs (s : State) (k : GroupId) (x : Group) : (s.setGroup k x).regs = s.regs := rfl
@[simp] theorem setGroup_threads (s : State) (k : GroupId) (x : Group) : (s.setGroup k x).threads = s.threads := rfl
@[simp] theorem setGroup_groups (s : State) (k : GroupId) (x : Group) : (s.setGroup k x).groups = FMap.set s.groups k x := rfl
@[simp] theorem setGroup_helms (s : State) (k : GroupId) (x : Group) : (s.setGroup k x).helms = s.helms := rfl
@[simp] theorem setGroup_wgs (s : State) (k : GroupId) (x : Group) : (s.setGroup k x).wgs = s.wgs := rfl
@[simp] theorem setGroup_launches (s : State) (k : GroupId) (x : Group) : (s.setGroup k x).launches = s.launches := rfl
@[simp] theorem setGroup_cmds (s : State) (k : GroupId) (x : Group) : (s.setGroup k x).cmds = s.cmds := rfl
@[simp] theorem setGroup_queues (s : State) (k : GroupId) (x : Group) : (s.setGroup k x).queues = s.queues := rfl
@[simp] theorem setGroup_ctxs (s : State) (k : GroupId) (x : Group) : (s.setGroup k x).ctxs = s.ctxs := rfl
@[simp] theorem setGroup_cores (s : State) (k : GroupId) (x : Group) : (s.setGroup k x).cores = s.cores := rfl
@[simp] theorem setGroup_dies (s : State) (k : GroupId) (x : Group) : (s.setGroup k x).dies = s.dies := rfl
@[simp] theorem setGroup_ports (s : State) (k : GroupId) (x : Group) : (s.setGroup k x).ports = s.ports := rfl
@[simp] theorem setGroup_fabSelf (s : State) (k : GroupId) (x : Group) : (s.setGroup k x).fabSelf = s.fabSelf := rfl
@[simp] theorem setGroup_fabInb (s : State) (k : GroupId) (x : Group) : (s.setGroup k x).fabInb = s.fabInb := rfl
@[simp] theorem setGroup_fabRoute (s : State) (k : GroupId) (x : Group) : (s.setGroup k x).fabRoute = s.fabRoute := rfl
@[simp] theorem setGroup_routePending (s : State) (k : GroupId) (x : Group) : (s.setGroup k x).routePending = s.routePending := rfl
@[simp] theorem setGroup_fabReqs (s : State) (k : GroupId) (x : Group) : (s.setGroup k x).fabReqs = s.fabReqs := rfl
@[simp] theorem setGroup_sems (s : State) (k : GroupId) (x : Group) : (s.setGroup k x).sems = s.sems := rfl
@[simp] theorem setGroup_emptyLines (s : State) (k : GroupId) (x : Group) : (s.setGroup k x).emptyLines = s.emptyLines := rfl
@[simp] theorem setGroup_host (s : State) (k : GroupId) (x : Group) : (s.setGroup k x).host = s.host := rfl
@[simp] theorem setGroup_boot (s : State) (k : GroupId) (x : Group) : (s.setGroup k x).boot = s.boot := rfl
@[simp] theorem setGroup_trust (s : State) (k : GroupId) (x : Group) : (s.setGroup k x).trust = s.trust := rfl
@[simp] theorem setGroup_errLogs (s : State) (k : GroupId) (x : Group) : (s.setGroup k x).errLogs = s.errLogs := rfl
@[simp] theorem setGroup_errInjs (s : State) (k : GroupId) (x : Group) : (s.setGroup k x).errInjs = s.errInjs := rfl
@[simp] theorem setGroup_log (s : State) (k : GroupId) (x : Group) : (s.setGroup k x).log = s.log := rfl
@[simp] theorem setGroup_fills (s : State) (k : GroupId) (x : Group) : (s.setGroup k x).fills = s.fills := rfl
@[simp] theorem setGroup_ops (s : State) (k : GroupId) (x : Group) : (s.setGroup k x).ops = s.ops := rfl
@[simp] theorem setGroup_fences (s : State) (k : GroupId) (x : Group) : (s.setGroup k x).fences = s.fences := rfl
@[simp] theorem setGroup_fenceMarks (s : State) (k : GroupId) (x : Group) : (s.setGroup k x).fenceMarks = s.fenceMarks := rfl
@[simp] theorem setGroup_vbd (s : State) (k : GroupId) (x : Group) : (s.setGroup k x).vbd = s.vbd := rfl
@[simp] theorem setGroup_repackReqs (s : State) (k : GroupId) (x : Group) : (s.setGroup k x).repackReqs = s.repackReqs := rfl
@[simp] theorem setGroup_overflow (s : State) (k : GroupId) (x : Group) : (s.setGroup k x).overflow = s.overflow := rfl
@[simp] theorem setGroup_staged (s : State) (k : GroupId) (x : Group) : (s.setGroup k x).staged = s.staged := rfl
@[simp] theorem setGroup_spawnHeld (s : State) (k : GroupId) (x : Group) : (s.setGroup k x).spawnHeld = s.spawnHeld := rfl
@[simp] theorem setGroup_hotBase (s : State) (k : GroupId) (x : Group) : (s.setGroup k x).hotBase = s.hotBase := rfl
@[simp] theorem setGroup_hotFills (s : State) (k : GroupId) (x : Group) : (s.setGroup k x).hotFills = s.hotFills := rfl
@[simp] theorem setGroup_units (s : State) (k : GroupId) (x : Group) : (s.setGroup k x).units = s.units := rfl
@[simp] theorem setGroup_progStore (s : State) (k : GroupId) (x : Group) : (s.setGroup k x).progStore = s.progStore := rfl
@[simp] theorem setGroup_near (s : State) (k : GroupId) (x : Group) : (s.setGroup k x).near = s.near := rfl
@[simp] theorem setGroup_hostReads (s : State) (k : GroupId) (x : Group) : (s.setGroup k x).hostReads = s.hostReads := rfl
@[simp] theorem setGroup_endedFrames (s : State) (k : GroupId) (x : Group) : (s.setGroup k x).endedFrames = s.endedFrames := rfl
@[simp] theorem setGroup_peerAnswers (s : State) (k : GroupId) (x : Group) : (s.setGroup k x).peerAnswers = s.peerAnswers := rfl

/-! ## setHelm -/

@[simp] theorem setHelm_agenda (s : State) (k : Nat) (x : Helm) : (s.setHelm k x).agenda = s.agenda := rfl
@[simp] theorem setHelm_freeCount (s : State) (k : Nat) (x : Helm) : (s.setHelm k x).freeCount = s.freeCount := rfl
@[simp] theorem setHelm_nextId (s : State) (k : Nat) (x : Helm) : (s.setHelm k x).nextId = s.nextId := rfl
@[simp] theorem setHelm_cur (s : State) (k : Nat) (x : Helm) : (s.setHelm k x).cur = s.cur := rfl
@[simp] theorem setHelm_mem (s : State) (k : Nat) (x : Helm) : (s.setHelm k x).mem = s.mem := rfl
@[simp] theorem setHelm_poison (s : State) (k : Nat) (x : Helm) : (s.setHelm k x).poison = s.poison := rfl
@[simp] theorem setHelm_hist (s : State) (k : Nat) (x : Helm) : (s.setHelm k x).hist = s.hist := rfl
@[simp] theorem setHelm_floors (s : State) (k : Nat) (x : Helm) : (s.setHelm k x).floors = s.floors := rfl
@[simp] theorem setHelm_writeSeq (s : State) (k : Nat) (x : Helm) : (s.setHelm k x).writeSeq = s.writeSeq := rfl
@[simp] theorem setHelm_regs (s : State) (k : Nat) (x : Helm) : (s.setHelm k x).regs = s.regs := rfl
@[simp] theorem setHelm_threads (s : State) (k : Nat) (x : Helm) : (s.setHelm k x).threads = s.threads := rfl
@[simp] theorem setHelm_groups (s : State) (k : Nat) (x : Helm) : (s.setHelm k x).groups = s.groups := rfl
@[simp] theorem setHelm_helms (s : State) (k : Nat) (x : Helm) : (s.setHelm k x).helms = FMap.set s.helms k x := rfl
@[simp] theorem setHelm_wgs (s : State) (k : Nat) (x : Helm) : (s.setHelm k x).wgs = s.wgs := rfl
@[simp] theorem setHelm_launches (s : State) (k : Nat) (x : Helm) : (s.setHelm k x).launches = s.launches := rfl
@[simp] theorem setHelm_cmds (s : State) (k : Nat) (x : Helm) : (s.setHelm k x).cmds = s.cmds := rfl
@[simp] theorem setHelm_queues (s : State) (k : Nat) (x : Helm) : (s.setHelm k x).queues = s.queues := rfl
@[simp] theorem setHelm_ctxs (s : State) (k : Nat) (x : Helm) : (s.setHelm k x).ctxs = s.ctxs := rfl
@[simp] theorem setHelm_cores (s : State) (k : Nat) (x : Helm) : (s.setHelm k x).cores = s.cores := rfl
@[simp] theorem setHelm_dies (s : State) (k : Nat) (x : Helm) : (s.setHelm k x).dies = s.dies := rfl
@[simp] theorem setHelm_ports (s : State) (k : Nat) (x : Helm) : (s.setHelm k x).ports = s.ports := rfl
@[simp] theorem setHelm_fabSelf (s : State) (k : Nat) (x : Helm) : (s.setHelm k x).fabSelf = s.fabSelf := rfl
@[simp] theorem setHelm_fabInb (s : State) (k : Nat) (x : Helm) : (s.setHelm k x).fabInb = s.fabInb := rfl
@[simp] theorem setHelm_fabRoute (s : State) (k : Nat) (x : Helm) : (s.setHelm k x).fabRoute = s.fabRoute := rfl
@[simp] theorem setHelm_routePending (s : State) (k : Nat) (x : Helm) : (s.setHelm k x).routePending = s.routePending := rfl
@[simp] theorem setHelm_fabReqs (s : State) (k : Nat) (x : Helm) : (s.setHelm k x).fabReqs = s.fabReqs := rfl
@[simp] theorem setHelm_sems (s : State) (k : Nat) (x : Helm) : (s.setHelm k x).sems = s.sems := rfl
@[simp] theorem setHelm_emptyLines (s : State) (k : Nat) (x : Helm) : (s.setHelm k x).emptyLines = s.emptyLines := rfl
@[simp] theorem setHelm_host (s : State) (k : Nat) (x : Helm) : (s.setHelm k x).host = s.host := rfl
@[simp] theorem setHelm_boot (s : State) (k : Nat) (x : Helm) : (s.setHelm k x).boot = s.boot := rfl
@[simp] theorem setHelm_trust (s : State) (k : Nat) (x : Helm) : (s.setHelm k x).trust = s.trust := rfl
@[simp] theorem setHelm_errLogs (s : State) (k : Nat) (x : Helm) : (s.setHelm k x).errLogs = s.errLogs := rfl
@[simp] theorem setHelm_errInjs (s : State) (k : Nat) (x : Helm) : (s.setHelm k x).errInjs = s.errInjs := rfl
@[simp] theorem setHelm_log (s : State) (k : Nat) (x : Helm) : (s.setHelm k x).log = s.log := rfl
@[simp] theorem setHelm_fills (s : State) (k : Nat) (x : Helm) : (s.setHelm k x).fills = s.fills := rfl
@[simp] theorem setHelm_ops (s : State) (k : Nat) (x : Helm) : (s.setHelm k x).ops = s.ops := rfl
@[simp] theorem setHelm_fences (s : State) (k : Nat) (x : Helm) : (s.setHelm k x).fences = s.fences := rfl
@[simp] theorem setHelm_fenceMarks (s : State) (k : Nat) (x : Helm) : (s.setHelm k x).fenceMarks = s.fenceMarks := rfl
@[simp] theorem setHelm_vbd (s : State) (k : Nat) (x : Helm) : (s.setHelm k x).vbd = s.vbd := rfl
@[simp] theorem setHelm_repackReqs (s : State) (k : Nat) (x : Helm) : (s.setHelm k x).repackReqs = s.repackReqs := rfl
@[simp] theorem setHelm_overflow (s : State) (k : Nat) (x : Helm) : (s.setHelm k x).overflow = s.overflow := rfl
@[simp] theorem setHelm_staged (s : State) (k : Nat) (x : Helm) : (s.setHelm k x).staged = s.staged := rfl
@[simp] theorem setHelm_spawnHeld (s : State) (k : Nat) (x : Helm) : (s.setHelm k x).spawnHeld = s.spawnHeld := rfl
@[simp] theorem setHelm_hotBase (s : State) (k : Nat) (x : Helm) : (s.setHelm k x).hotBase = s.hotBase := rfl
@[simp] theorem setHelm_hotFills (s : State) (k : Nat) (x : Helm) : (s.setHelm k x).hotFills = s.hotFills := rfl
@[simp] theorem setHelm_units (s : State) (k : Nat) (x : Helm) : (s.setHelm k x).units = s.units := rfl
@[simp] theorem setHelm_progStore (s : State) (k : Nat) (x : Helm) : (s.setHelm k x).progStore = s.progStore := rfl
@[simp] theorem setHelm_near (s : State) (k : Nat) (x : Helm) : (s.setHelm k x).near = s.near := rfl
@[simp] theorem setHelm_hostReads (s : State) (k : Nat) (x : Helm) : (s.setHelm k x).hostReads = s.hostReads := rfl
@[simp] theorem setHelm_endedFrames (s : State) (k : Nat) (x : Helm) : (s.setHelm k x).endedFrames = s.endedFrames := rfl
@[simp] theorem setHelm_peerAnswers (s : State) (k : Nat) (x : Helm) : (s.setHelm k x).peerAnswers = s.peerAnswers := rfl

/-! ## setCore -/

@[simp] theorem setCore_agenda (s : State) (k : Nat) (x : Core) : (s.setCore k x).agenda = s.agenda := rfl
@[simp] theorem setCore_freeCount (s : State) (k : Nat) (x : Core) : (s.setCore k x).freeCount = s.freeCount := rfl
@[simp] theorem setCore_nextId (s : State) (k : Nat) (x : Core) : (s.setCore k x).nextId = s.nextId := rfl
@[simp] theorem setCore_cur (s : State) (k : Nat) (x : Core) : (s.setCore k x).cur = s.cur := rfl
@[simp] theorem setCore_mem (s : State) (k : Nat) (x : Core) : (s.setCore k x).mem = s.mem := rfl
@[simp] theorem setCore_poison (s : State) (k : Nat) (x : Core) : (s.setCore k x).poison = s.poison := rfl
@[simp] theorem setCore_hist (s : State) (k : Nat) (x : Core) : (s.setCore k x).hist = s.hist := rfl
@[simp] theorem setCore_floors (s : State) (k : Nat) (x : Core) : (s.setCore k x).floors = s.floors := rfl
@[simp] theorem setCore_writeSeq (s : State) (k : Nat) (x : Core) : (s.setCore k x).writeSeq = s.writeSeq := rfl
@[simp] theorem setCore_regs (s : State) (k : Nat) (x : Core) : (s.setCore k x).regs = s.regs := rfl
@[simp] theorem setCore_threads (s : State) (k : Nat) (x : Core) : (s.setCore k x).threads = s.threads := rfl
@[simp] theorem setCore_groups (s : State) (k : Nat) (x : Core) : (s.setCore k x).groups = s.groups := rfl
@[simp] theorem setCore_helms (s : State) (k : Nat) (x : Core) : (s.setCore k x).helms = s.helms := rfl
@[simp] theorem setCore_wgs (s : State) (k : Nat) (x : Core) : (s.setCore k x).wgs = s.wgs := rfl
@[simp] theorem setCore_launches (s : State) (k : Nat) (x : Core) : (s.setCore k x).launches = s.launches := rfl
@[simp] theorem setCore_cmds (s : State) (k : Nat) (x : Core) : (s.setCore k x).cmds = s.cmds := rfl
@[simp] theorem setCore_queues (s : State) (k : Nat) (x : Core) : (s.setCore k x).queues = s.queues := rfl
@[simp] theorem setCore_ctxs (s : State) (k : Nat) (x : Core) : (s.setCore k x).ctxs = s.ctxs := rfl
@[simp] theorem setCore_cores (s : State) (k : Nat) (x : Core) : (s.setCore k x).cores = FMap.set s.cores k x := rfl
@[simp] theorem setCore_dies (s : State) (k : Nat) (x : Core) : (s.setCore k x).dies = s.dies := rfl
@[simp] theorem setCore_ports (s : State) (k : Nat) (x : Core) : (s.setCore k x).ports = s.ports := rfl
@[simp] theorem setCore_fabSelf (s : State) (k : Nat) (x : Core) : (s.setCore k x).fabSelf = s.fabSelf := rfl
@[simp] theorem setCore_fabInb (s : State) (k : Nat) (x : Core) : (s.setCore k x).fabInb = s.fabInb := rfl
@[simp] theorem setCore_fabRoute (s : State) (k : Nat) (x : Core) : (s.setCore k x).fabRoute = s.fabRoute := rfl
@[simp] theorem setCore_routePending (s : State) (k : Nat) (x : Core) : (s.setCore k x).routePending = s.routePending := rfl
@[simp] theorem setCore_fabReqs (s : State) (k : Nat) (x : Core) : (s.setCore k x).fabReqs = s.fabReqs := rfl
@[simp] theorem setCore_sems (s : State) (k : Nat) (x : Core) : (s.setCore k x).sems = s.sems := rfl
@[simp] theorem setCore_emptyLines (s : State) (k : Nat) (x : Core) : (s.setCore k x).emptyLines = s.emptyLines := rfl
@[simp] theorem setCore_host (s : State) (k : Nat) (x : Core) : (s.setCore k x).host = s.host := rfl
@[simp] theorem setCore_boot (s : State) (k : Nat) (x : Core) : (s.setCore k x).boot = s.boot := rfl
@[simp] theorem setCore_trust (s : State) (k : Nat) (x : Core) : (s.setCore k x).trust = s.trust := rfl
@[simp] theorem setCore_errLogs (s : State) (k : Nat) (x : Core) : (s.setCore k x).errLogs = s.errLogs := rfl
@[simp] theorem setCore_errInjs (s : State) (k : Nat) (x : Core) : (s.setCore k x).errInjs = s.errInjs := rfl
@[simp] theorem setCore_log (s : State) (k : Nat) (x : Core) : (s.setCore k x).log = s.log := rfl
@[simp] theorem setCore_fills (s : State) (k : Nat) (x : Core) : (s.setCore k x).fills = s.fills := rfl
@[simp] theorem setCore_ops (s : State) (k : Nat) (x : Core) : (s.setCore k x).ops = s.ops := rfl
@[simp] theorem setCore_fences (s : State) (k : Nat) (x : Core) : (s.setCore k x).fences = s.fences := rfl
@[simp] theorem setCore_fenceMarks (s : State) (k : Nat) (x : Core) : (s.setCore k x).fenceMarks = s.fenceMarks := rfl
@[simp] theorem setCore_vbd (s : State) (k : Nat) (x : Core) : (s.setCore k x).vbd = s.vbd := rfl
@[simp] theorem setCore_repackReqs (s : State) (k : Nat) (x : Core) : (s.setCore k x).repackReqs = s.repackReqs := rfl
@[simp] theorem setCore_overflow (s : State) (k : Nat) (x : Core) : (s.setCore k x).overflow = s.overflow := rfl
@[simp] theorem setCore_staged (s : State) (k : Nat) (x : Core) : (s.setCore k x).staged = s.staged := rfl
@[simp] theorem setCore_spawnHeld (s : State) (k : Nat) (x : Core) : (s.setCore k x).spawnHeld = s.spawnHeld := rfl
@[simp] theorem setCore_hotBase (s : State) (k : Nat) (x : Core) : (s.setCore k x).hotBase = s.hotBase := rfl
@[simp] theorem setCore_hotFills (s : State) (k : Nat) (x : Core) : (s.setCore k x).hotFills = s.hotFills := rfl
@[simp] theorem setCore_units (s : State) (k : Nat) (x : Core) : (s.setCore k x).units = s.units := rfl
@[simp] theorem setCore_progStore (s : State) (k : Nat) (x : Core) : (s.setCore k x).progStore = s.progStore := rfl
@[simp] theorem setCore_near (s : State) (k : Nat) (x : Core) : (s.setCore k x).near = s.near := rfl
@[simp] theorem setCore_hostReads (s : State) (k : Nat) (x : Core) : (s.setCore k x).hostReads = s.hostReads := rfl
@[simp] theorem setCore_endedFrames (s : State) (k : Nat) (x : Core) : (s.setCore k x).endedFrames = s.endedFrames := rfl
@[simp] theorem setCore_peerAnswers (s : State) (k : Nat) (x : Core) : (s.setCore k x).peerAnswers = s.peerAnswers := rfl

/-! ## setDie -/

@[simp] theorem setDie_agenda (s : State) (k : Nat) (x : Die) : (s.setDie k x).agenda = s.agenda := rfl
@[simp] theorem setDie_freeCount (s : State) (k : Nat) (x : Die) : (s.setDie k x).freeCount = s.freeCount := rfl
@[simp] theorem setDie_nextId (s : State) (k : Nat) (x : Die) : (s.setDie k x).nextId = s.nextId := rfl
@[simp] theorem setDie_cur (s : State) (k : Nat) (x : Die) : (s.setDie k x).cur = s.cur := rfl
@[simp] theorem setDie_mem (s : State) (k : Nat) (x : Die) : (s.setDie k x).mem = s.mem := rfl
@[simp] theorem setDie_poison (s : State) (k : Nat) (x : Die) : (s.setDie k x).poison = s.poison := rfl
@[simp] theorem setDie_hist (s : State) (k : Nat) (x : Die) : (s.setDie k x).hist = s.hist := rfl
@[simp] theorem setDie_floors (s : State) (k : Nat) (x : Die) : (s.setDie k x).floors = s.floors := rfl
@[simp] theorem setDie_writeSeq (s : State) (k : Nat) (x : Die) : (s.setDie k x).writeSeq = s.writeSeq := rfl
@[simp] theorem setDie_regs (s : State) (k : Nat) (x : Die) : (s.setDie k x).regs = s.regs := rfl
@[simp] theorem setDie_threads (s : State) (k : Nat) (x : Die) : (s.setDie k x).threads = s.threads := rfl
@[simp] theorem setDie_groups (s : State) (k : Nat) (x : Die) : (s.setDie k x).groups = s.groups := rfl
@[simp] theorem setDie_helms (s : State) (k : Nat) (x : Die) : (s.setDie k x).helms = s.helms := rfl
@[simp] theorem setDie_wgs (s : State) (k : Nat) (x : Die) : (s.setDie k x).wgs = s.wgs := rfl
@[simp] theorem setDie_launches (s : State) (k : Nat) (x : Die) : (s.setDie k x).launches = s.launches := rfl
@[simp] theorem setDie_cmds (s : State) (k : Nat) (x : Die) : (s.setDie k x).cmds = s.cmds := rfl
@[simp] theorem setDie_queues (s : State) (k : Nat) (x : Die) : (s.setDie k x).queues = s.queues := rfl
@[simp] theorem setDie_ctxs (s : State) (k : Nat) (x : Die) : (s.setDie k x).ctxs = s.ctxs := rfl
@[simp] theorem setDie_cores (s : State) (k : Nat) (x : Die) : (s.setDie k x).cores = s.cores := rfl
@[simp] theorem setDie_dies (s : State) (k : Nat) (x : Die) : (s.setDie k x).dies = FMap.set s.dies k x := rfl
@[simp] theorem setDie_ports (s : State) (k : Nat) (x : Die) : (s.setDie k x).ports = s.ports := rfl
@[simp] theorem setDie_fabSelf (s : State) (k : Nat) (x : Die) : (s.setDie k x).fabSelf = s.fabSelf := rfl
@[simp] theorem setDie_fabInb (s : State) (k : Nat) (x : Die) : (s.setDie k x).fabInb = s.fabInb := rfl
@[simp] theorem setDie_fabRoute (s : State) (k : Nat) (x : Die) : (s.setDie k x).fabRoute = s.fabRoute := rfl
@[simp] theorem setDie_routePending (s : State) (k : Nat) (x : Die) : (s.setDie k x).routePending = s.routePending := rfl
@[simp] theorem setDie_fabReqs (s : State) (k : Nat) (x : Die) : (s.setDie k x).fabReqs = s.fabReqs := rfl
@[simp] theorem setDie_sems (s : State) (k : Nat) (x : Die) : (s.setDie k x).sems = s.sems := rfl
@[simp] theorem setDie_emptyLines (s : State) (k : Nat) (x : Die) : (s.setDie k x).emptyLines = s.emptyLines := rfl
@[simp] theorem setDie_host (s : State) (k : Nat) (x : Die) : (s.setDie k x).host = s.host := rfl
@[simp] theorem setDie_boot (s : State) (k : Nat) (x : Die) : (s.setDie k x).boot = s.boot := rfl
@[simp] theorem setDie_trust (s : State) (k : Nat) (x : Die) : (s.setDie k x).trust = s.trust := rfl
@[simp] theorem setDie_errLogs (s : State) (k : Nat) (x : Die) : (s.setDie k x).errLogs = s.errLogs := rfl
@[simp] theorem setDie_errInjs (s : State) (k : Nat) (x : Die) : (s.setDie k x).errInjs = s.errInjs := rfl
@[simp] theorem setDie_log (s : State) (k : Nat) (x : Die) : (s.setDie k x).log = s.log := rfl
@[simp] theorem setDie_fills (s : State) (k : Nat) (x : Die) : (s.setDie k x).fills = s.fills := rfl
@[simp] theorem setDie_ops (s : State) (k : Nat) (x : Die) : (s.setDie k x).ops = s.ops := rfl
@[simp] theorem setDie_fences (s : State) (k : Nat) (x : Die) : (s.setDie k x).fences = s.fences := rfl
@[simp] theorem setDie_fenceMarks (s : State) (k : Nat) (x : Die) : (s.setDie k x).fenceMarks = s.fenceMarks := rfl
@[simp] theorem setDie_vbd (s : State) (k : Nat) (x : Die) : (s.setDie k x).vbd = s.vbd := rfl
@[simp] theorem setDie_repackReqs (s : State) (k : Nat) (x : Die) : (s.setDie k x).repackReqs = s.repackReqs := rfl
@[simp] theorem setDie_overflow (s : State) (k : Nat) (x : Die) : (s.setDie k x).overflow = s.overflow := rfl
@[simp] theorem setDie_staged (s : State) (k : Nat) (x : Die) : (s.setDie k x).staged = s.staged := rfl
@[simp] theorem setDie_spawnHeld (s : State) (k : Nat) (x : Die) : (s.setDie k x).spawnHeld = s.spawnHeld := rfl
@[simp] theorem setDie_hotBase (s : State) (k : Nat) (x : Die) : (s.setDie k x).hotBase = s.hotBase := rfl
@[simp] theorem setDie_hotFills (s : State) (k : Nat) (x : Die) : (s.setDie k x).hotFills = s.hotFills := rfl
@[simp] theorem setDie_units (s : State) (k : Nat) (x : Die) : (s.setDie k x).units = s.units := rfl
@[simp] theorem setDie_progStore (s : State) (k : Nat) (x : Die) : (s.setDie k x).progStore = s.progStore := rfl
@[simp] theorem setDie_near (s : State) (k : Nat) (x : Die) : (s.setDie k x).near = s.near := rfl
@[simp] theorem setDie_hostReads (s : State) (k : Nat) (x : Die) : (s.setDie k x).hostReads = s.hostReads := rfl
@[simp] theorem setDie_endedFrames (s : State) (k : Nat) (x : Die) : (s.setDie k x).endedFrames = s.endedFrames := rfl
@[simp] theorem setDie_peerAnswers (s : State) (k : Nat) (x : Die) : (s.setDie k x).peerAnswers = s.peerAnswers := rfl

/-! ## setPort -/

@[simp] theorem setPort_agenda (s : State) (k : Nat) (x : Port) : (s.setPort k x).agenda = s.agenda := rfl
@[simp] theorem setPort_freeCount (s : State) (k : Nat) (x : Port) : (s.setPort k x).freeCount = s.freeCount := rfl
@[simp] theorem setPort_nextId (s : State) (k : Nat) (x : Port) : (s.setPort k x).nextId = s.nextId := rfl
@[simp] theorem setPort_cur (s : State) (k : Nat) (x : Port) : (s.setPort k x).cur = s.cur := rfl
@[simp] theorem setPort_mem (s : State) (k : Nat) (x : Port) : (s.setPort k x).mem = s.mem := rfl
@[simp] theorem setPort_poison (s : State) (k : Nat) (x : Port) : (s.setPort k x).poison = s.poison := rfl
@[simp] theorem setPort_hist (s : State) (k : Nat) (x : Port) : (s.setPort k x).hist = s.hist := rfl
@[simp] theorem setPort_floors (s : State) (k : Nat) (x : Port) : (s.setPort k x).floors = s.floors := rfl
@[simp] theorem setPort_writeSeq (s : State) (k : Nat) (x : Port) : (s.setPort k x).writeSeq = s.writeSeq := rfl
@[simp] theorem setPort_regs (s : State) (k : Nat) (x : Port) : (s.setPort k x).regs = s.regs := rfl
@[simp] theorem setPort_threads (s : State) (k : Nat) (x : Port) : (s.setPort k x).threads = s.threads := rfl
@[simp] theorem setPort_groups (s : State) (k : Nat) (x : Port) : (s.setPort k x).groups = s.groups := rfl
@[simp] theorem setPort_helms (s : State) (k : Nat) (x : Port) : (s.setPort k x).helms = s.helms := rfl
@[simp] theorem setPort_wgs (s : State) (k : Nat) (x : Port) : (s.setPort k x).wgs = s.wgs := rfl
@[simp] theorem setPort_launches (s : State) (k : Nat) (x : Port) : (s.setPort k x).launches = s.launches := rfl
@[simp] theorem setPort_cmds (s : State) (k : Nat) (x : Port) : (s.setPort k x).cmds = s.cmds := rfl
@[simp] theorem setPort_queues (s : State) (k : Nat) (x : Port) : (s.setPort k x).queues = s.queues := rfl
@[simp] theorem setPort_ctxs (s : State) (k : Nat) (x : Port) : (s.setPort k x).ctxs = s.ctxs := rfl
@[simp] theorem setPort_cores (s : State) (k : Nat) (x : Port) : (s.setPort k x).cores = s.cores := rfl
@[simp] theorem setPort_dies (s : State) (k : Nat) (x : Port) : (s.setPort k x).dies = s.dies := rfl
@[simp] theorem setPort_ports (s : State) (k : Nat) (x : Port) : (s.setPort k x).ports = FMap.set s.ports k x := rfl
@[simp] theorem setPort_fabSelf (s : State) (k : Nat) (x : Port) : (s.setPort k x).fabSelf = s.fabSelf := rfl
@[simp] theorem setPort_fabInb (s : State) (k : Nat) (x : Port) : (s.setPort k x).fabInb = s.fabInb := rfl
@[simp] theorem setPort_fabRoute (s : State) (k : Nat) (x : Port) : (s.setPort k x).fabRoute = s.fabRoute := rfl
@[simp] theorem setPort_routePending (s : State) (k : Nat) (x : Port) : (s.setPort k x).routePending = s.routePending := rfl
@[simp] theorem setPort_fabReqs (s : State) (k : Nat) (x : Port) : (s.setPort k x).fabReqs = s.fabReqs := rfl
@[simp] theorem setPort_sems (s : State) (k : Nat) (x : Port) : (s.setPort k x).sems = s.sems := rfl
@[simp] theorem setPort_emptyLines (s : State) (k : Nat) (x : Port) : (s.setPort k x).emptyLines = s.emptyLines := rfl
@[simp] theorem setPort_host (s : State) (k : Nat) (x : Port) : (s.setPort k x).host = s.host := rfl
@[simp] theorem setPort_boot (s : State) (k : Nat) (x : Port) : (s.setPort k x).boot = s.boot := rfl
@[simp] theorem setPort_trust (s : State) (k : Nat) (x : Port) : (s.setPort k x).trust = s.trust := rfl
@[simp] theorem setPort_errLogs (s : State) (k : Nat) (x : Port) : (s.setPort k x).errLogs = s.errLogs := rfl
@[simp] theorem setPort_errInjs (s : State) (k : Nat) (x : Port) : (s.setPort k x).errInjs = s.errInjs := rfl
@[simp] theorem setPort_log (s : State) (k : Nat) (x : Port) : (s.setPort k x).log = s.log := rfl
@[simp] theorem setPort_fills (s : State) (k : Nat) (x : Port) : (s.setPort k x).fills = s.fills := rfl
@[simp] theorem setPort_ops (s : State) (k : Nat) (x : Port) : (s.setPort k x).ops = s.ops := rfl
@[simp] theorem setPort_fences (s : State) (k : Nat) (x : Port) : (s.setPort k x).fences = s.fences := rfl
@[simp] theorem setPort_fenceMarks (s : State) (k : Nat) (x : Port) : (s.setPort k x).fenceMarks = s.fenceMarks := rfl
@[simp] theorem setPort_vbd (s : State) (k : Nat) (x : Port) : (s.setPort k x).vbd = s.vbd := rfl
@[simp] theorem setPort_repackReqs (s : State) (k : Nat) (x : Port) : (s.setPort k x).repackReqs = s.repackReqs := rfl
@[simp] theorem setPort_overflow (s : State) (k : Nat) (x : Port) : (s.setPort k x).overflow = s.overflow := rfl
@[simp] theorem setPort_staged (s : State) (k : Nat) (x : Port) : (s.setPort k x).staged = s.staged := rfl
@[simp] theorem setPort_spawnHeld (s : State) (k : Nat) (x : Port) : (s.setPort k x).spawnHeld = s.spawnHeld := rfl
@[simp] theorem setPort_hotBase (s : State) (k : Nat) (x : Port) : (s.setPort k x).hotBase = s.hotBase := rfl
@[simp] theorem setPort_hotFills (s : State) (k : Nat) (x : Port) : (s.setPort k x).hotFills = s.hotFills := rfl
@[simp] theorem setPort_units (s : State) (k : Nat) (x : Port) : (s.setPort k x).units = s.units := rfl
@[simp] theorem setPort_progStore (s : State) (k : Nat) (x : Port) : (s.setPort k x).progStore = s.progStore := rfl
@[simp] theorem setPort_near (s : State) (k : Nat) (x : Port) : (s.setPort k x).near = s.near := rfl
@[simp] theorem setPort_hostReads (s : State) (k : Nat) (x : Port) : (s.setPort k x).hostReads = s.hostReads := rfl
@[simp] theorem setPort_endedFrames (s : State) (k : Nat) (x : Port) : (s.setPort k x).endedFrames = s.endedFrames := rfl
@[simp] theorem setPort_peerAnswers (s : State) (k : Nat) (x : Port) : (s.setPort k x).peerAnswers = s.peerAnswers := rfl

/-! ## setUnit -/

@[simp] theorem setUnit_agenda (s : State) (k : Nat) (x : CorniceUnit) : (s.setUnit k x).agenda = s.agenda := rfl
@[simp] theorem setUnit_freeCount (s : State) (k : Nat) (x : CorniceUnit) : (s.setUnit k x).freeCount = s.freeCount := rfl
@[simp] theorem setUnit_nextId (s : State) (k : Nat) (x : CorniceUnit) : (s.setUnit k x).nextId = s.nextId := rfl
@[simp] theorem setUnit_cur (s : State) (k : Nat) (x : CorniceUnit) : (s.setUnit k x).cur = s.cur := rfl
@[simp] theorem setUnit_mem (s : State) (k : Nat) (x : CorniceUnit) : (s.setUnit k x).mem = s.mem := rfl
@[simp] theorem setUnit_poison (s : State) (k : Nat) (x : CorniceUnit) : (s.setUnit k x).poison = s.poison := rfl
@[simp] theorem setUnit_hist (s : State) (k : Nat) (x : CorniceUnit) : (s.setUnit k x).hist = s.hist := rfl
@[simp] theorem setUnit_floors (s : State) (k : Nat) (x : CorniceUnit) : (s.setUnit k x).floors = s.floors := rfl
@[simp] theorem setUnit_writeSeq (s : State) (k : Nat) (x : CorniceUnit) : (s.setUnit k x).writeSeq = s.writeSeq := rfl
@[simp] theorem setUnit_regs (s : State) (k : Nat) (x : CorniceUnit) : (s.setUnit k x).regs = s.regs := rfl
@[simp] theorem setUnit_threads (s : State) (k : Nat) (x : CorniceUnit) : (s.setUnit k x).threads = s.threads := rfl
@[simp] theorem setUnit_groups (s : State) (k : Nat) (x : CorniceUnit) : (s.setUnit k x).groups = s.groups := rfl
@[simp] theorem setUnit_helms (s : State) (k : Nat) (x : CorniceUnit) : (s.setUnit k x).helms = s.helms := rfl
@[simp] theorem setUnit_wgs (s : State) (k : Nat) (x : CorniceUnit) : (s.setUnit k x).wgs = s.wgs := rfl
@[simp] theorem setUnit_launches (s : State) (k : Nat) (x : CorniceUnit) : (s.setUnit k x).launches = s.launches := rfl
@[simp] theorem setUnit_cmds (s : State) (k : Nat) (x : CorniceUnit) : (s.setUnit k x).cmds = s.cmds := rfl
@[simp] theorem setUnit_queues (s : State) (k : Nat) (x : CorniceUnit) : (s.setUnit k x).queues = s.queues := rfl
@[simp] theorem setUnit_ctxs (s : State) (k : Nat) (x : CorniceUnit) : (s.setUnit k x).ctxs = s.ctxs := rfl
@[simp] theorem setUnit_cores (s : State) (k : Nat) (x : CorniceUnit) : (s.setUnit k x).cores = s.cores := rfl
@[simp] theorem setUnit_dies (s : State) (k : Nat) (x : CorniceUnit) : (s.setUnit k x).dies = s.dies := rfl
@[simp] theorem setUnit_ports (s : State) (k : Nat) (x : CorniceUnit) : (s.setUnit k x).ports = s.ports := rfl
@[simp] theorem setUnit_fabSelf (s : State) (k : Nat) (x : CorniceUnit) : (s.setUnit k x).fabSelf = s.fabSelf := rfl
@[simp] theorem setUnit_fabInb (s : State) (k : Nat) (x : CorniceUnit) : (s.setUnit k x).fabInb = s.fabInb := rfl
@[simp] theorem setUnit_fabRoute (s : State) (k : Nat) (x : CorniceUnit) : (s.setUnit k x).fabRoute = s.fabRoute := rfl
@[simp] theorem setUnit_routePending (s : State) (k : Nat) (x : CorniceUnit) : (s.setUnit k x).routePending = s.routePending := rfl
@[simp] theorem setUnit_fabReqs (s : State) (k : Nat) (x : CorniceUnit) : (s.setUnit k x).fabReqs = s.fabReqs := rfl
@[simp] theorem setUnit_sems (s : State) (k : Nat) (x : CorniceUnit) : (s.setUnit k x).sems = s.sems := rfl
@[simp] theorem setUnit_emptyLines (s : State) (k : Nat) (x : CorniceUnit) : (s.setUnit k x).emptyLines = s.emptyLines := rfl
@[simp] theorem setUnit_host (s : State) (k : Nat) (x : CorniceUnit) : (s.setUnit k x).host = s.host := rfl
@[simp] theorem setUnit_boot (s : State) (k : Nat) (x : CorniceUnit) : (s.setUnit k x).boot = s.boot := rfl
@[simp] theorem setUnit_trust (s : State) (k : Nat) (x : CorniceUnit) : (s.setUnit k x).trust = s.trust := rfl
@[simp] theorem setUnit_errLogs (s : State) (k : Nat) (x : CorniceUnit) : (s.setUnit k x).errLogs = s.errLogs := rfl
@[simp] theorem setUnit_errInjs (s : State) (k : Nat) (x : CorniceUnit) : (s.setUnit k x).errInjs = s.errInjs := rfl
@[simp] theorem setUnit_log (s : State) (k : Nat) (x : CorniceUnit) : (s.setUnit k x).log = s.log := rfl
@[simp] theorem setUnit_fills (s : State) (k : Nat) (x : CorniceUnit) : (s.setUnit k x).fills = s.fills := rfl
@[simp] theorem setUnit_ops (s : State) (k : Nat) (x : CorniceUnit) : (s.setUnit k x).ops = s.ops := rfl
@[simp] theorem setUnit_fences (s : State) (k : Nat) (x : CorniceUnit) : (s.setUnit k x).fences = s.fences := rfl
@[simp] theorem setUnit_fenceMarks (s : State) (k : Nat) (x : CorniceUnit) : (s.setUnit k x).fenceMarks = s.fenceMarks := rfl
@[simp] theorem setUnit_vbd (s : State) (k : Nat) (x : CorniceUnit) : (s.setUnit k x).vbd = s.vbd := rfl
@[simp] theorem setUnit_repackReqs (s : State) (k : Nat) (x : CorniceUnit) : (s.setUnit k x).repackReqs = s.repackReqs := rfl
@[simp] theorem setUnit_overflow (s : State) (k : Nat) (x : CorniceUnit) : (s.setUnit k x).overflow = s.overflow := rfl
@[simp] theorem setUnit_staged (s : State) (k : Nat) (x : CorniceUnit) : (s.setUnit k x).staged = s.staged := rfl
@[simp] theorem setUnit_spawnHeld (s : State) (k : Nat) (x : CorniceUnit) : (s.setUnit k x).spawnHeld = s.spawnHeld := rfl
@[simp] theorem setUnit_hotBase (s : State) (k : Nat) (x : CorniceUnit) : (s.setUnit k x).hotBase = s.hotBase := rfl
@[simp] theorem setUnit_hotFills (s : State) (k : Nat) (x : CorniceUnit) : (s.setUnit k x).hotFills = s.hotFills := rfl
@[simp] theorem setUnit_units (s : State) (k : Nat) (x : CorniceUnit) : (s.setUnit k x).units = FMap.set s.units k x := rfl
@[simp] theorem setUnit_progStore (s : State) (k : Nat) (x : CorniceUnit) : (s.setUnit k x).progStore = s.progStore := rfl
@[simp] theorem setUnit_near (s : State) (k : Nat) (x : CorniceUnit) : (s.setUnit k x).near = s.near := rfl
@[simp] theorem setUnit_hostReads (s : State) (k : Nat) (x : CorniceUnit) : (s.setUnit k x).hostReads = s.hostReads := rfl
@[simp] theorem setUnit_endedFrames (s : State) (k : Nat) (x : CorniceUnit) : (s.setUnit k x).endedFrames = s.endedFrames := rfl
@[simp] theorem setUnit_peerAnswers (s : State) (k : Nat) (x : CorniceUnit) : (s.setUnit k x).peerAnswers = s.peerAnswers := rfl

/-! ## setSem -/

@[simp] theorem setSem_agenda (s : State) (k : Nat) (x : Word) : (s.setSem k x).agenda = s.agenda := rfl
@[simp] theorem setSem_freeCount (s : State) (k : Nat) (x : Word) : (s.setSem k x).freeCount = s.freeCount := rfl
@[simp] theorem setSem_nextId (s : State) (k : Nat) (x : Word) : (s.setSem k x).nextId = s.nextId := rfl
@[simp] theorem setSem_cur (s : State) (k : Nat) (x : Word) : (s.setSem k x).cur = s.cur := rfl
@[simp] theorem setSem_mem (s : State) (k : Nat) (x : Word) : (s.setSem k x).mem = s.mem := rfl
@[simp] theorem setSem_poison (s : State) (k : Nat) (x : Word) : (s.setSem k x).poison = s.poison := rfl
@[simp] theorem setSem_hist (s : State) (k : Nat) (x : Word) : (s.setSem k x).hist = s.hist := rfl
@[simp] theorem setSem_floors (s : State) (k : Nat) (x : Word) : (s.setSem k x).floors = s.floors := rfl
@[simp] theorem setSem_writeSeq (s : State) (k : Nat) (x : Word) : (s.setSem k x).writeSeq = s.writeSeq := rfl
@[simp] theorem setSem_regs (s : State) (k : Nat) (x : Word) : (s.setSem k x).regs = s.regs := rfl
@[simp] theorem setSem_threads (s : State) (k : Nat) (x : Word) : (s.setSem k x).threads = s.threads := rfl
@[simp] theorem setSem_groups (s : State) (k : Nat) (x : Word) : (s.setSem k x).groups = s.groups := rfl
@[simp] theorem setSem_helms (s : State) (k : Nat) (x : Word) : (s.setSem k x).helms = s.helms := rfl
@[simp] theorem setSem_wgs (s : State) (k : Nat) (x : Word) : (s.setSem k x).wgs = s.wgs := rfl
@[simp] theorem setSem_launches (s : State) (k : Nat) (x : Word) : (s.setSem k x).launches = s.launches := rfl
@[simp] theorem setSem_cmds (s : State) (k : Nat) (x : Word) : (s.setSem k x).cmds = s.cmds := rfl
@[simp] theorem setSem_queues (s : State) (k : Nat) (x : Word) : (s.setSem k x).queues = s.queues := rfl
@[simp] theorem setSem_ctxs (s : State) (k : Nat) (x : Word) : (s.setSem k x).ctxs = s.ctxs := rfl
@[simp] theorem setSem_cores (s : State) (k : Nat) (x : Word) : (s.setSem k x).cores = s.cores := rfl
@[simp] theorem setSem_dies (s : State) (k : Nat) (x : Word) : (s.setSem k x).dies = s.dies := rfl
@[simp] theorem setSem_ports (s : State) (k : Nat) (x : Word) : (s.setSem k x).ports = s.ports := rfl
@[simp] theorem setSem_fabSelf (s : State) (k : Nat) (x : Word) : (s.setSem k x).fabSelf = s.fabSelf := rfl
@[simp] theorem setSem_fabInb (s : State) (k : Nat) (x : Word) : (s.setSem k x).fabInb = s.fabInb := rfl
@[simp] theorem setSem_fabRoute (s : State) (k : Nat) (x : Word) : (s.setSem k x).fabRoute = s.fabRoute := rfl
@[simp] theorem setSem_routePending (s : State) (k : Nat) (x : Word) : (s.setSem k x).routePending = s.routePending := rfl
@[simp] theorem setSem_fabReqs (s : State) (k : Nat) (x : Word) : (s.setSem k x).fabReqs = s.fabReqs := rfl
@[simp] theorem setSem_sems (s : State) (k : Nat) (x : Word) : (s.setSem k x).sems = FMap.set s.sems k x := rfl
@[simp] theorem setSem_emptyLines (s : State) (k : Nat) (x : Word) : (s.setSem k x).emptyLines = s.emptyLines := rfl
@[simp] theorem setSem_host (s : State) (k : Nat) (x : Word) : (s.setSem k x).host = s.host := rfl
@[simp] theorem setSem_boot (s : State) (k : Nat) (x : Word) : (s.setSem k x).boot = s.boot := rfl
@[simp] theorem setSem_trust (s : State) (k : Nat) (x : Word) : (s.setSem k x).trust = s.trust := rfl
@[simp] theorem setSem_errLogs (s : State) (k : Nat) (x : Word) : (s.setSem k x).errLogs = s.errLogs := rfl
@[simp] theorem setSem_errInjs (s : State) (k : Nat) (x : Word) : (s.setSem k x).errInjs = s.errInjs := rfl
@[simp] theorem setSem_log (s : State) (k : Nat) (x : Word) : (s.setSem k x).log = s.log := rfl
@[simp] theorem setSem_fills (s : State) (k : Nat) (x : Word) : (s.setSem k x).fills = s.fills := rfl
@[simp] theorem setSem_ops (s : State) (k : Nat) (x : Word) : (s.setSem k x).ops = s.ops := rfl
@[simp] theorem setSem_fences (s : State) (k : Nat) (x : Word) : (s.setSem k x).fences = s.fences := rfl
@[simp] theorem setSem_fenceMarks (s : State) (k : Nat) (x : Word) : (s.setSem k x).fenceMarks = s.fenceMarks := rfl
@[simp] theorem setSem_vbd (s : State) (k : Nat) (x : Word) : (s.setSem k x).vbd = s.vbd := rfl
@[simp] theorem setSem_repackReqs (s : State) (k : Nat) (x : Word) : (s.setSem k x).repackReqs = s.repackReqs := rfl
@[simp] theorem setSem_overflow (s : State) (k : Nat) (x : Word) : (s.setSem k x).overflow = s.overflow := rfl
@[simp] theorem setSem_staged (s : State) (k : Nat) (x : Word) : (s.setSem k x).staged = s.staged := rfl
@[simp] theorem setSem_spawnHeld (s : State) (k : Nat) (x : Word) : (s.setSem k x).spawnHeld = s.spawnHeld := rfl
@[simp] theorem setSem_hotBase (s : State) (k : Nat) (x : Word) : (s.setSem k x).hotBase = s.hotBase := rfl
@[simp] theorem setSem_hotFills (s : State) (k : Nat) (x : Word) : (s.setSem k x).hotFills = s.hotFills := rfl
@[simp] theorem setSem_units (s : State) (k : Nat) (x : Word) : (s.setSem k x).units = s.units := rfl
@[simp] theorem setSem_progStore (s : State) (k : Nat) (x : Word) : (s.setSem k x).progStore = s.progStore := rfl
@[simp] theorem setSem_near (s : State) (k : Nat) (x : Word) : (s.setSem k x).near = s.near := rfl
@[simp] theorem setSem_hostReads (s : State) (k : Nat) (x : Word) : (s.setSem k x).hostReads = s.hostReads := rfl
@[simp] theorem setSem_endedFrames (s : State) (k : Nat) (x : Word) : (s.setSem k x).endedFrames = s.endedFrames := rfl
@[simp] theorem setSem_peerAnswers (s : State) (k : Nat) (x : Word) : (s.setSem k x).peerAnswers = s.peerAnswers := rfl

/-! ## setWg -/

@[simp] theorem setWg_agenda (s : State) (k : Nat) (x : Workgroup) : (s.setWg k x).agenda = s.agenda := rfl
@[simp] theorem setWg_freeCount (s : State) (k : Nat) (x : Workgroup) : (s.setWg k x).freeCount = s.freeCount := rfl
@[simp] theorem setWg_nextId (s : State) (k : Nat) (x : Workgroup) : (s.setWg k x).nextId = s.nextId := rfl
@[simp] theorem setWg_cur (s : State) (k : Nat) (x : Workgroup) : (s.setWg k x).cur = s.cur := rfl
@[simp] theorem setWg_mem (s : State) (k : Nat) (x : Workgroup) : (s.setWg k x).mem = s.mem := rfl
@[simp] theorem setWg_poison (s : State) (k : Nat) (x : Workgroup) : (s.setWg k x).poison = s.poison := rfl
@[simp] theorem setWg_hist (s : State) (k : Nat) (x : Workgroup) : (s.setWg k x).hist = s.hist := rfl
@[simp] theorem setWg_floors (s : State) (k : Nat) (x : Workgroup) : (s.setWg k x).floors = s.floors := rfl
@[simp] theorem setWg_writeSeq (s : State) (k : Nat) (x : Workgroup) : (s.setWg k x).writeSeq = s.writeSeq := rfl
@[simp] theorem setWg_regs (s : State) (k : Nat) (x : Workgroup) : (s.setWg k x).regs = s.regs := rfl
@[simp] theorem setWg_threads (s : State) (k : Nat) (x : Workgroup) : (s.setWg k x).threads = s.threads := rfl
@[simp] theorem setWg_groups (s : State) (k : Nat) (x : Workgroup) : (s.setWg k x).groups = s.groups := rfl
@[simp] theorem setWg_helms (s : State) (k : Nat) (x : Workgroup) : (s.setWg k x).helms = s.helms := rfl
@[simp] theorem setWg_wgs (s : State) (k : Nat) (x : Workgroup) : (s.setWg k x).wgs = FMap.set s.wgs k x := rfl
@[simp] theorem setWg_launches (s : State) (k : Nat) (x : Workgroup) : (s.setWg k x).launches = s.launches := rfl
@[simp] theorem setWg_cmds (s : State) (k : Nat) (x : Workgroup) : (s.setWg k x).cmds = s.cmds := rfl
@[simp] theorem setWg_queues (s : State) (k : Nat) (x : Workgroup) : (s.setWg k x).queues = s.queues := rfl
@[simp] theorem setWg_ctxs (s : State) (k : Nat) (x : Workgroup) : (s.setWg k x).ctxs = s.ctxs := rfl
@[simp] theorem setWg_cores (s : State) (k : Nat) (x : Workgroup) : (s.setWg k x).cores = s.cores := rfl
@[simp] theorem setWg_dies (s : State) (k : Nat) (x : Workgroup) : (s.setWg k x).dies = s.dies := rfl
@[simp] theorem setWg_ports (s : State) (k : Nat) (x : Workgroup) : (s.setWg k x).ports = s.ports := rfl
@[simp] theorem setWg_fabSelf (s : State) (k : Nat) (x : Workgroup) : (s.setWg k x).fabSelf = s.fabSelf := rfl
@[simp] theorem setWg_fabInb (s : State) (k : Nat) (x : Workgroup) : (s.setWg k x).fabInb = s.fabInb := rfl
@[simp] theorem setWg_fabRoute (s : State) (k : Nat) (x : Workgroup) : (s.setWg k x).fabRoute = s.fabRoute := rfl
@[simp] theorem setWg_routePending (s : State) (k : Nat) (x : Workgroup) : (s.setWg k x).routePending = s.routePending := rfl
@[simp] theorem setWg_fabReqs (s : State) (k : Nat) (x : Workgroup) : (s.setWg k x).fabReqs = s.fabReqs := rfl
@[simp] theorem setWg_sems (s : State) (k : Nat) (x : Workgroup) : (s.setWg k x).sems = s.sems := rfl
@[simp] theorem setWg_emptyLines (s : State) (k : Nat) (x : Workgroup) : (s.setWg k x).emptyLines = s.emptyLines := rfl
@[simp] theorem setWg_host (s : State) (k : Nat) (x : Workgroup) : (s.setWg k x).host = s.host := rfl
@[simp] theorem setWg_boot (s : State) (k : Nat) (x : Workgroup) : (s.setWg k x).boot = s.boot := rfl
@[simp] theorem setWg_trust (s : State) (k : Nat) (x : Workgroup) : (s.setWg k x).trust = s.trust := rfl
@[simp] theorem setWg_errLogs (s : State) (k : Nat) (x : Workgroup) : (s.setWg k x).errLogs = s.errLogs := rfl
@[simp] theorem setWg_errInjs (s : State) (k : Nat) (x : Workgroup) : (s.setWg k x).errInjs = s.errInjs := rfl
@[simp] theorem setWg_log (s : State) (k : Nat) (x : Workgroup) : (s.setWg k x).log = s.log := rfl
@[simp] theorem setWg_fills (s : State) (k : Nat) (x : Workgroup) : (s.setWg k x).fills = s.fills := rfl
@[simp] theorem setWg_ops (s : State) (k : Nat) (x : Workgroup) : (s.setWg k x).ops = s.ops := rfl
@[simp] theorem setWg_fences (s : State) (k : Nat) (x : Workgroup) : (s.setWg k x).fences = s.fences := rfl
@[simp] theorem setWg_fenceMarks (s : State) (k : Nat) (x : Workgroup) : (s.setWg k x).fenceMarks = s.fenceMarks := rfl
@[simp] theorem setWg_vbd (s : State) (k : Nat) (x : Workgroup) : (s.setWg k x).vbd = s.vbd := rfl
@[simp] theorem setWg_repackReqs (s : State) (k : Nat) (x : Workgroup) : (s.setWg k x).repackReqs = s.repackReqs := rfl
@[simp] theorem setWg_overflow (s : State) (k : Nat) (x : Workgroup) : (s.setWg k x).overflow = s.overflow := rfl
@[simp] theorem setWg_staged (s : State) (k : Nat) (x : Workgroup) : (s.setWg k x).staged = s.staged := rfl
@[simp] theorem setWg_spawnHeld (s : State) (k : Nat) (x : Workgroup) : (s.setWg k x).spawnHeld = s.spawnHeld := rfl
@[simp] theorem setWg_hotBase (s : State) (k : Nat) (x : Workgroup) : (s.setWg k x).hotBase = s.hotBase := rfl
@[simp] theorem setWg_hotFills (s : State) (k : Nat) (x : Workgroup) : (s.setWg k x).hotFills = s.hotFills := rfl
@[simp] theorem setWg_units (s : State) (k : Nat) (x : Workgroup) : (s.setWg k x).units = s.units := rfl
@[simp] theorem setWg_progStore (s : State) (k : Nat) (x : Workgroup) : (s.setWg k x).progStore = s.progStore := rfl
@[simp] theorem setWg_near (s : State) (k : Nat) (x : Workgroup) : (s.setWg k x).near = s.near := rfl
@[simp] theorem setWg_hostReads (s : State) (k : Nat) (x : Workgroup) : (s.setWg k x).hostReads = s.hostReads := rfl
@[simp] theorem setWg_endedFrames (s : State) (k : Nat) (x : Workgroup) : (s.setWg k x).endedFrames = s.endedFrames := rfl
@[simp] theorem setWg_peerAnswers (s : State) (k : Nat) (x : Workgroup) : (s.setWg k x).peerAnswers = s.peerAnswers := rfl

/-! ## setLaunch -/

@[simp] theorem setLaunch_agenda (s : State) (k : Nat) (x : Launch) : (s.setLaunch k x).agenda = s.agenda := rfl
@[simp] theorem setLaunch_freeCount (s : State) (k : Nat) (x : Launch) : (s.setLaunch k x).freeCount = s.freeCount := rfl
@[simp] theorem setLaunch_nextId (s : State) (k : Nat) (x : Launch) : (s.setLaunch k x).nextId = s.nextId := rfl
@[simp] theorem setLaunch_cur (s : State) (k : Nat) (x : Launch) : (s.setLaunch k x).cur = s.cur := rfl
@[simp] theorem setLaunch_mem (s : State) (k : Nat) (x : Launch) : (s.setLaunch k x).mem = s.mem := rfl
@[simp] theorem setLaunch_poison (s : State) (k : Nat) (x : Launch) : (s.setLaunch k x).poison = s.poison := rfl
@[simp] theorem setLaunch_hist (s : State) (k : Nat) (x : Launch) : (s.setLaunch k x).hist = s.hist := rfl
@[simp] theorem setLaunch_floors (s : State) (k : Nat) (x : Launch) : (s.setLaunch k x).floors = s.floors := rfl
@[simp] theorem setLaunch_writeSeq (s : State) (k : Nat) (x : Launch) : (s.setLaunch k x).writeSeq = s.writeSeq := rfl
@[simp] theorem setLaunch_regs (s : State) (k : Nat) (x : Launch) : (s.setLaunch k x).regs = s.regs := rfl
@[simp] theorem setLaunch_threads (s : State) (k : Nat) (x : Launch) : (s.setLaunch k x).threads = s.threads := rfl
@[simp] theorem setLaunch_groups (s : State) (k : Nat) (x : Launch) : (s.setLaunch k x).groups = s.groups := rfl
@[simp] theorem setLaunch_helms (s : State) (k : Nat) (x : Launch) : (s.setLaunch k x).helms = s.helms := rfl
@[simp] theorem setLaunch_wgs (s : State) (k : Nat) (x : Launch) : (s.setLaunch k x).wgs = s.wgs := rfl
@[simp] theorem setLaunch_launches (s : State) (k : Nat) (x : Launch) : (s.setLaunch k x).launches = FMap.set s.launches k x := rfl
@[simp] theorem setLaunch_cmds (s : State) (k : Nat) (x : Launch) : (s.setLaunch k x).cmds = s.cmds := rfl
@[simp] theorem setLaunch_queues (s : State) (k : Nat) (x : Launch) : (s.setLaunch k x).queues = s.queues := rfl
@[simp] theorem setLaunch_ctxs (s : State) (k : Nat) (x : Launch) : (s.setLaunch k x).ctxs = s.ctxs := rfl
@[simp] theorem setLaunch_cores (s : State) (k : Nat) (x : Launch) : (s.setLaunch k x).cores = s.cores := rfl
@[simp] theorem setLaunch_dies (s : State) (k : Nat) (x : Launch) : (s.setLaunch k x).dies = s.dies := rfl
@[simp] theorem setLaunch_ports (s : State) (k : Nat) (x : Launch) : (s.setLaunch k x).ports = s.ports := rfl
@[simp] theorem setLaunch_fabSelf (s : State) (k : Nat) (x : Launch) : (s.setLaunch k x).fabSelf = s.fabSelf := rfl
@[simp] theorem setLaunch_fabInb (s : State) (k : Nat) (x : Launch) : (s.setLaunch k x).fabInb = s.fabInb := rfl
@[simp] theorem setLaunch_fabRoute (s : State) (k : Nat) (x : Launch) : (s.setLaunch k x).fabRoute = s.fabRoute := rfl
@[simp] theorem setLaunch_routePending (s : State) (k : Nat) (x : Launch) : (s.setLaunch k x).routePending = s.routePending := rfl
@[simp] theorem setLaunch_fabReqs (s : State) (k : Nat) (x : Launch) : (s.setLaunch k x).fabReqs = s.fabReqs := rfl
@[simp] theorem setLaunch_sems (s : State) (k : Nat) (x : Launch) : (s.setLaunch k x).sems = s.sems := rfl
@[simp] theorem setLaunch_emptyLines (s : State) (k : Nat) (x : Launch) : (s.setLaunch k x).emptyLines = s.emptyLines := rfl
@[simp] theorem setLaunch_host (s : State) (k : Nat) (x : Launch) : (s.setLaunch k x).host = s.host := rfl
@[simp] theorem setLaunch_boot (s : State) (k : Nat) (x : Launch) : (s.setLaunch k x).boot = s.boot := rfl
@[simp] theorem setLaunch_trust (s : State) (k : Nat) (x : Launch) : (s.setLaunch k x).trust = s.trust := rfl
@[simp] theorem setLaunch_errLogs (s : State) (k : Nat) (x : Launch) : (s.setLaunch k x).errLogs = s.errLogs := rfl
@[simp] theorem setLaunch_errInjs (s : State) (k : Nat) (x : Launch) : (s.setLaunch k x).errInjs = s.errInjs := rfl
@[simp] theorem setLaunch_log (s : State) (k : Nat) (x : Launch) : (s.setLaunch k x).log = s.log := rfl
@[simp] theorem setLaunch_fills (s : State) (k : Nat) (x : Launch) : (s.setLaunch k x).fills = s.fills := rfl
@[simp] theorem setLaunch_ops (s : State) (k : Nat) (x : Launch) : (s.setLaunch k x).ops = s.ops := rfl
@[simp] theorem setLaunch_fences (s : State) (k : Nat) (x : Launch) : (s.setLaunch k x).fences = s.fences := rfl
@[simp] theorem setLaunch_fenceMarks (s : State) (k : Nat) (x : Launch) : (s.setLaunch k x).fenceMarks = s.fenceMarks := rfl
@[simp] theorem setLaunch_vbd (s : State) (k : Nat) (x : Launch) : (s.setLaunch k x).vbd = s.vbd := rfl
@[simp] theorem setLaunch_repackReqs (s : State) (k : Nat) (x : Launch) : (s.setLaunch k x).repackReqs = s.repackReqs := rfl
@[simp] theorem setLaunch_overflow (s : State) (k : Nat) (x : Launch) : (s.setLaunch k x).overflow = s.overflow := rfl
@[simp] theorem setLaunch_staged (s : State) (k : Nat) (x : Launch) : (s.setLaunch k x).staged = s.staged := rfl
@[simp] theorem setLaunch_spawnHeld (s : State) (k : Nat) (x : Launch) : (s.setLaunch k x).spawnHeld = s.spawnHeld := rfl
@[simp] theorem setLaunch_hotBase (s : State) (k : Nat) (x : Launch) : (s.setLaunch k x).hotBase = s.hotBase := rfl
@[simp] theorem setLaunch_hotFills (s : State) (k : Nat) (x : Launch) : (s.setLaunch k x).hotFills = s.hotFills := rfl
@[simp] theorem setLaunch_units (s : State) (k : Nat) (x : Launch) : (s.setLaunch k x).units = s.units := rfl
@[simp] theorem setLaunch_progStore (s : State) (k : Nat) (x : Launch) : (s.setLaunch k x).progStore = s.progStore := rfl
@[simp] theorem setLaunch_near (s : State) (k : Nat) (x : Launch) : (s.setLaunch k x).near = s.near := rfl
@[simp] theorem setLaunch_hostReads (s : State) (k : Nat) (x : Launch) : (s.setLaunch k x).hostReads = s.hostReads := rfl
@[simp] theorem setLaunch_endedFrames (s : State) (k : Nat) (x : Launch) : (s.setLaunch k x).endedFrames = s.endedFrames := rfl
@[simp] theorem setLaunch_peerAnswers (s : State) (k : Nat) (x : Launch) : (s.setLaunch k x).peerAnswers = s.peerAnswers := rfl

/-! ## rest -/

@[simp] theorem rest_agenda (s : State) : s.rest.agenda = s.agenda := rfl
@[simp] theorem rest_freeCount (s : State) : s.rest.freeCount = s.freeCount := rfl
@[simp] theorem rest_nextId (s : State) : s.rest.nextId = s.nextId := rfl
@[simp] theorem rest_cur (s : State) : s.rest.cur = .nobody := rfl
@[simp] theorem rest_mem (s : State) : s.rest.mem = s.mem := rfl
@[simp] theorem rest_poison (s : State) : s.rest.poison = s.poison := rfl
@[simp] theorem rest_hist (s : State) : s.rest.hist = s.hist := rfl
@[simp] theorem rest_floors (s : State) : s.rest.floors = s.floors := rfl
@[simp] theorem rest_writeSeq (s : State) : s.rest.writeSeq = s.writeSeq := rfl
@[simp] theorem rest_regs (s : State) : s.rest.regs = s.regs := rfl
@[simp] theorem rest_threads (s : State) : s.rest.threads = s.threads := rfl
@[simp] theorem rest_groups (s : State) : s.rest.groups = s.groups := rfl
@[simp] theorem rest_helms (s : State) : s.rest.helms = s.helms := rfl
@[simp] theorem rest_wgs (s : State) : s.rest.wgs = s.wgs := rfl
@[simp] theorem rest_launches (s : State) : s.rest.launches = s.launches := rfl
@[simp] theorem rest_cmds (s : State) : s.rest.cmds = s.cmds := rfl
@[simp] theorem rest_queues (s : State) : s.rest.queues = s.queues := rfl
@[simp] theorem rest_ctxs (s : State) : s.rest.ctxs = s.ctxs := rfl
@[simp] theorem rest_cores (s : State) : s.rest.cores = s.cores := rfl
@[simp] theorem rest_dies (s : State) : s.rest.dies = s.dies := rfl
@[simp] theorem rest_ports (s : State) : s.rest.ports = s.ports := rfl
@[simp] theorem rest_fabSelf (s : State) : s.rest.fabSelf = s.fabSelf := rfl
@[simp] theorem rest_fabInb (s : State) : s.rest.fabInb = s.fabInb := rfl
@[simp] theorem rest_fabRoute (s : State) : s.rest.fabRoute = s.fabRoute := rfl
@[simp] theorem rest_routePending (s : State) : s.rest.routePending = s.routePending := rfl
@[simp] theorem rest_fabReqs (s : State) : s.rest.fabReqs = s.fabReqs := rfl
@[simp] theorem rest_sems (s : State) : s.rest.sems = s.sems := rfl
@[simp] theorem rest_emptyLines (s : State) : s.rest.emptyLines = s.emptyLines := rfl
@[simp] theorem rest_host (s : State) : s.rest.host = s.host := rfl
@[simp] theorem rest_boot (s : State) : s.rest.boot = s.boot := rfl
@[simp] theorem rest_trust (s : State) : s.rest.trust = s.trust := rfl
@[simp] theorem rest_errLogs (s : State) : s.rest.errLogs = s.errLogs := rfl
@[simp] theorem rest_errInjs (s : State) : s.rest.errInjs = s.errInjs := rfl
@[simp] theorem rest_log (s : State) : s.rest.log = s.log := rfl
@[simp] theorem rest_fills (s : State) : s.rest.fills = s.fills := rfl
@[simp] theorem rest_ops (s : State) : s.rest.ops = s.ops := rfl
@[simp] theorem rest_fences (s : State) : s.rest.fences = s.fences := rfl
@[simp] theorem rest_fenceMarks (s : State) : s.rest.fenceMarks = s.fenceMarks := rfl
@[simp] theorem rest_vbd (s : State) : s.rest.vbd = s.vbd := rfl
@[simp] theorem rest_repackReqs (s : State) : s.rest.repackReqs = s.repackReqs := rfl
@[simp] theorem rest_overflow (s : State) : s.rest.overflow = s.overflow := rfl
@[simp] theorem rest_staged (s : State) : s.rest.staged = s.staged := rfl
@[simp] theorem rest_spawnHeld (s : State) : s.rest.spawnHeld = s.spawnHeld := rfl
@[simp] theorem rest_hotBase (s : State) : s.rest.hotBase = s.hotBase := rfl
@[simp] theorem rest_hotFills (s : State) : s.rest.hotFills = s.hotFills := rfl
@[simp] theorem rest_units (s : State) : s.rest.units = s.units := rfl
@[simp] theorem rest_progStore (s : State) : s.rest.progStore = s.progStore := rfl
@[simp] theorem rest_near (s : State) : s.rest.near = s.near := rfl
@[simp] theorem rest_hostReads (s : State) : s.rest.hostReads = s.hostReads := rfl
@[simp] theorem rest_endedFrames (s : State) : s.rest.endedFrames = s.endedFrames := rfl
@[simp] theorem rest_peerAnswers (s : State) : s.rest.peerAnswers = s.peerAnswers := rfl

/-! ## Reads after updates -/

theorem reg_setReg (s : State) (k j : RegKey) (x : Reg) : (s.setReg k x).reg j = if j = k then x else s.reg j := getD_set _ _ _ _ _
@[simp] theorem reg_setReg_same (s : State) (k : RegKey) (x : Reg) : (s.setReg k x).reg k = x := getD_set_same _ _ _ _
@[simp] theorem reg_setThread (s : State) (j : RegKey) (k : ThreadId) (x : Thread) : (s.setThread k x).reg j = s.reg j := rfl
@[simp] theorem reg_setGroup (s : State) (j : RegKey) (k : GroupId) (x : Group) : (s.setGroup k x).reg j = s.reg j := rfl
@[simp] theorem reg_setHelm (s : State) (j : RegKey) (k : Nat) (x : Helm) : (s.setHelm k x).reg j = s.reg j := rfl
@[simp] theorem reg_setCore (s : State) (j : RegKey) (k : Nat) (x : Core) : (s.setCore k x).reg j = s.reg j := rfl
@[simp] theorem reg_setDie (s : State) (j : RegKey) (k : Nat) (x : Die) : (s.setDie k x).reg j = s.reg j := rfl
@[simp] theorem reg_setPort (s : State) (j : RegKey) (k : Nat) (x : Port) : (s.setPort k x).reg j = s.reg j := rfl
@[simp] theorem reg_setUnit (s : State) (j : RegKey) (k : Nat) (x : CorniceUnit) : (s.setUnit k x).reg j = s.reg j := rfl
@[simp] theorem reg_setSem (s : State) (j : RegKey) (k : Nat) (x : Word) : (s.setSem k x).reg j = s.reg j := rfl
@[simp] theorem reg_setWg (s : State) (j : RegKey) (k : Nat) (x : Workgroup) : (s.setWg k x).reg j = s.reg j := rfl
@[simp] theorem reg_setLaunch (s : State) (j : RegKey) (k : Nat) (x : Launch) : (s.setLaunch k x).reg j = s.reg j := rfl

theorem thread_setThread (s : State) (k j : ThreadId) (x : Thread) : (s.setThread k x).thread j = if j = k then x else s.thread j := getD_set _ _ _ _ _
@[simp] theorem thread_setThread_same (s : State) (k : ThreadId) (x : Thread) : (s.setThread k x).thread k = x := getD_set_same _ _ _ _
@[simp] theorem thread_setReg (s : State) (j : ThreadId) (k : RegKey) (x : Reg) : (s.setReg k x).thread j = s.thread j := rfl
@[simp] theorem thread_setGroup (s : State) (j : ThreadId) (k : GroupId) (x : Group) : (s.setGroup k x).thread j = s.thread j := rfl
@[simp] theorem thread_setHelm (s : State) (j : ThreadId) (k : Nat) (x : Helm) : (s.setHelm k x).thread j = s.thread j := rfl
@[simp] theorem thread_setCore (s : State) (j : ThreadId) (k : Nat) (x : Core) : (s.setCore k x).thread j = s.thread j := rfl
@[simp] theorem thread_setDie (s : State) (j : ThreadId) (k : Nat) (x : Die) : (s.setDie k x).thread j = s.thread j := rfl
@[simp] theorem thread_setPort (s : State) (j : ThreadId) (k : Nat) (x : Port) : (s.setPort k x).thread j = s.thread j := rfl
@[simp] theorem thread_setUnit (s : State) (j : ThreadId) (k : Nat) (x : CorniceUnit) : (s.setUnit k x).thread j = s.thread j := rfl
@[simp] theorem thread_setSem (s : State) (j : ThreadId) (k : Nat) (x : Word) : (s.setSem k x).thread j = s.thread j := rfl
@[simp] theorem thread_setWg (s : State) (j : ThreadId) (k : Nat) (x : Workgroup) : (s.setWg k x).thread j = s.thread j := rfl
@[simp] theorem thread_setLaunch (s : State) (j : ThreadId) (k : Nat) (x : Launch) : (s.setLaunch k x).thread j = s.thread j := rfl

theorem group_setGroup (s : State) (k j : GroupId) (x : Group) : (s.setGroup k x).group j = if j = k then x else s.group j := getD_set _ _ _ _ _
@[simp] theorem group_setGroup_same (s : State) (k : GroupId) (x : Group) : (s.setGroup k x).group k = x := getD_set_same _ _ _ _
@[simp] theorem group_setReg (s : State) (j : GroupId) (k : RegKey) (x : Reg) : (s.setReg k x).group j = s.group j := rfl
@[simp] theorem group_setThread (s : State) (j : GroupId) (k : ThreadId) (x : Thread) : (s.setThread k x).group j = s.group j := rfl
@[simp] theorem group_setHelm (s : State) (j : GroupId) (k : Nat) (x : Helm) : (s.setHelm k x).group j = s.group j := rfl
@[simp] theorem group_setCore (s : State) (j : GroupId) (k : Nat) (x : Core) : (s.setCore k x).group j = s.group j := rfl
@[simp] theorem group_setDie (s : State) (j : GroupId) (k : Nat) (x : Die) : (s.setDie k x).group j = s.group j := rfl
@[simp] theorem group_setPort (s : State) (j : GroupId) (k : Nat) (x : Port) : (s.setPort k x).group j = s.group j := rfl
@[simp] theorem group_setUnit (s : State) (j : GroupId) (k : Nat) (x : CorniceUnit) : (s.setUnit k x).group j = s.group j := rfl
@[simp] theorem group_setSem (s : State) (j : GroupId) (k : Nat) (x : Word) : (s.setSem k x).group j = s.group j := rfl
@[simp] theorem group_setWg (s : State) (j : GroupId) (k : Nat) (x : Workgroup) : (s.setWg k x).group j = s.group j := rfl
@[simp] theorem group_setLaunch (s : State) (j : GroupId) (k : Nat) (x : Launch) : (s.setLaunch k x).group j = s.group j := rfl

theorem helm_setHelm (s : State) (k j : Nat) (x : Helm) : (s.setHelm k x).helm j = if j = k then x else s.helm j := getD_set _ _ _ _ _
@[simp] theorem helm_setHelm_same (s : State) (k : Nat) (x : Helm) : (s.setHelm k x).helm k = x := getD_set_same _ _ _ _
@[simp] theorem helm_setReg (s : State) (j : Nat) (k : RegKey) (x : Reg) : (s.setReg k x).helm j = s.helm j := rfl
@[simp] theorem helm_setThread (s : State) (j : Nat) (k : ThreadId) (x : Thread) : (s.setThread k x).helm j = s.helm j := rfl
@[simp] theorem helm_setGroup (s : State) (j : Nat) (k : GroupId) (x : Group) : (s.setGroup k x).helm j = s.helm j := rfl
@[simp] theorem helm_setCore (s : State) (j : Nat) (k : Nat) (x : Core) : (s.setCore k x).helm j = s.helm j := rfl
@[simp] theorem helm_setDie (s : State) (j : Nat) (k : Nat) (x : Die) : (s.setDie k x).helm j = s.helm j := rfl
@[simp] theorem helm_setPort (s : State) (j : Nat) (k : Nat) (x : Port) : (s.setPort k x).helm j = s.helm j := rfl
@[simp] theorem helm_setUnit (s : State) (j : Nat) (k : Nat) (x : CorniceUnit) : (s.setUnit k x).helm j = s.helm j := rfl
@[simp] theorem helm_setSem (s : State) (j : Nat) (k : Nat) (x : Word) : (s.setSem k x).helm j = s.helm j := rfl
@[simp] theorem helm_setWg (s : State) (j : Nat) (k : Nat) (x : Workgroup) : (s.setWg k x).helm j = s.helm j := rfl
@[simp] theorem helm_setLaunch (s : State) (j : Nat) (k : Nat) (x : Launch) : (s.setLaunch k x).helm j = s.helm j := rfl

theorem core_setCore (s : State) (k j : Nat) (x : Core) : (s.setCore k x).core j = if j = k then x else s.core j := getD_set _ _ _ _ _
@[simp] theorem core_setCore_same (s : State) (k : Nat) (x : Core) : (s.setCore k x).core k = x := getD_set_same _ _ _ _
@[simp] theorem core_setReg (s : State) (j : Nat) (k : RegKey) (x : Reg) : (s.setReg k x).core j = s.core j := rfl
@[simp] theorem core_setThread (s : State) (j : Nat) (k : ThreadId) (x : Thread) : (s.setThread k x).core j = s.core j := rfl
@[simp] theorem core_setGroup (s : State) (j : Nat) (k : GroupId) (x : Group) : (s.setGroup k x).core j = s.core j := rfl
@[simp] theorem core_setHelm (s : State) (j : Nat) (k : Nat) (x : Helm) : (s.setHelm k x).core j = s.core j := rfl
@[simp] theorem core_setDie (s : State) (j : Nat) (k : Nat) (x : Die) : (s.setDie k x).core j = s.core j := rfl
@[simp] theorem core_setPort (s : State) (j : Nat) (k : Nat) (x : Port) : (s.setPort k x).core j = s.core j := rfl
@[simp] theorem core_setUnit (s : State) (j : Nat) (k : Nat) (x : CorniceUnit) : (s.setUnit k x).core j = s.core j := rfl
@[simp] theorem core_setSem (s : State) (j : Nat) (k : Nat) (x : Word) : (s.setSem k x).core j = s.core j := rfl
@[simp] theorem core_setWg (s : State) (j : Nat) (k : Nat) (x : Workgroup) : (s.setWg k x).core j = s.core j := rfl
@[simp] theorem core_setLaunch (s : State) (j : Nat) (k : Nat) (x : Launch) : (s.setLaunch k x).core j = s.core j := rfl

theorem die_setDie (s : State) (k j : Nat) (x : Die) : (s.setDie k x).die j = if j = k then x else s.die j := getD_set _ _ _ _ _
@[simp] theorem die_setDie_same (s : State) (k : Nat) (x : Die) : (s.setDie k x).die k = x := getD_set_same _ _ _ _
@[simp] theorem die_setReg (s : State) (j : Nat) (k : RegKey) (x : Reg) : (s.setReg k x).die j = s.die j := rfl
@[simp] theorem die_setThread (s : State) (j : Nat) (k : ThreadId) (x : Thread) : (s.setThread k x).die j = s.die j := rfl
@[simp] theorem die_setGroup (s : State) (j : Nat) (k : GroupId) (x : Group) : (s.setGroup k x).die j = s.die j := rfl
@[simp] theorem die_setHelm (s : State) (j : Nat) (k : Nat) (x : Helm) : (s.setHelm k x).die j = s.die j := rfl
@[simp] theorem die_setCore (s : State) (j : Nat) (k : Nat) (x : Core) : (s.setCore k x).die j = s.die j := rfl
@[simp] theorem die_setPort (s : State) (j : Nat) (k : Nat) (x : Port) : (s.setPort k x).die j = s.die j := rfl
@[simp] theorem die_setUnit (s : State) (j : Nat) (k : Nat) (x : CorniceUnit) : (s.setUnit k x).die j = s.die j := rfl
@[simp] theorem die_setSem (s : State) (j : Nat) (k : Nat) (x : Word) : (s.setSem k x).die j = s.die j := rfl
@[simp] theorem die_setWg (s : State) (j : Nat) (k : Nat) (x : Workgroup) : (s.setWg k x).die j = s.die j := rfl
@[simp] theorem die_setLaunch (s : State) (j : Nat) (k : Nat) (x : Launch) : (s.setLaunch k x).die j = s.die j := rfl

theorem port_setPort (s : State) (k j : Nat) (x : Port) : (s.setPort k x).port j = if j = k then x else s.port j := getD_set _ _ _ _ _
@[simp] theorem port_setPort_same (s : State) (k : Nat) (x : Port) : (s.setPort k x).port k = x := getD_set_same _ _ _ _
@[simp] theorem port_setReg (s : State) (j : Nat) (k : RegKey) (x : Reg) : (s.setReg k x).port j = s.port j := rfl
@[simp] theorem port_setThread (s : State) (j : Nat) (k : ThreadId) (x : Thread) : (s.setThread k x).port j = s.port j := rfl
@[simp] theorem port_setGroup (s : State) (j : Nat) (k : GroupId) (x : Group) : (s.setGroup k x).port j = s.port j := rfl
@[simp] theorem port_setHelm (s : State) (j : Nat) (k : Nat) (x : Helm) : (s.setHelm k x).port j = s.port j := rfl
@[simp] theorem port_setCore (s : State) (j : Nat) (k : Nat) (x : Core) : (s.setCore k x).port j = s.port j := rfl
@[simp] theorem port_setDie (s : State) (j : Nat) (k : Nat) (x : Die) : (s.setDie k x).port j = s.port j := rfl
@[simp] theorem port_setUnit (s : State) (j : Nat) (k : Nat) (x : CorniceUnit) : (s.setUnit k x).port j = s.port j := rfl
@[simp] theorem port_setSem (s : State) (j : Nat) (k : Nat) (x : Word) : (s.setSem k x).port j = s.port j := rfl
@[simp] theorem port_setWg (s : State) (j : Nat) (k : Nat) (x : Workgroup) : (s.setWg k x).port j = s.port j := rfl
@[simp] theorem port_setLaunch (s : State) (j : Nat) (k : Nat) (x : Launch) : (s.setLaunch k x).port j = s.port j := rfl

theorem unit_setUnit (s : State) (k j : Nat) (x : CorniceUnit) : (s.setUnit k x).unit j = if j = k then x else s.unit j := getD_set _ _ _ _ _
@[simp] theorem unit_setUnit_same (s : State) (k : Nat) (x : CorniceUnit) : (s.setUnit k x).unit k = x := getD_set_same _ _ _ _
@[simp] theorem unit_setReg (s : State) (j : Nat) (k : RegKey) (x : Reg) : (s.setReg k x).unit j = s.unit j := rfl
@[simp] theorem unit_setThread (s : State) (j : Nat) (k : ThreadId) (x : Thread) : (s.setThread k x).unit j = s.unit j := rfl
@[simp] theorem unit_setGroup (s : State) (j : Nat) (k : GroupId) (x : Group) : (s.setGroup k x).unit j = s.unit j := rfl
@[simp] theorem unit_setHelm (s : State) (j : Nat) (k : Nat) (x : Helm) : (s.setHelm k x).unit j = s.unit j := rfl
@[simp] theorem unit_setCore (s : State) (j : Nat) (k : Nat) (x : Core) : (s.setCore k x).unit j = s.unit j := rfl
@[simp] theorem unit_setDie (s : State) (j : Nat) (k : Nat) (x : Die) : (s.setDie k x).unit j = s.unit j := rfl
@[simp] theorem unit_setPort (s : State) (j : Nat) (k : Nat) (x : Port) : (s.setPort k x).unit j = s.unit j := rfl
@[simp] theorem unit_setSem (s : State) (j : Nat) (k : Nat) (x : Word) : (s.setSem k x).unit j = s.unit j := rfl
@[simp] theorem unit_setWg (s : State) (j : Nat) (k : Nat) (x : Workgroup) : (s.setWg k x).unit j = s.unit j := rfl
@[simp] theorem unit_setLaunch (s : State) (j : Nat) (k : Nat) (x : Launch) : (s.setLaunch k x).unit j = s.unit j := rfl

theorem sem_setSem (s : State) (k j : Nat) (x : Word) : (s.setSem k x).sem j = if j = k then x else s.sem j := getD_set _ _ _ _ _
@[simp] theorem sem_setSem_same (s : State) (k : Nat) (x : Word) : (s.setSem k x).sem k = x := getD_set_same _ _ _ _
@[simp] theorem sem_setReg (s : State) (j : Nat) (k : RegKey) (x : Reg) : (s.setReg k x).sem j = s.sem j := rfl
@[simp] theorem sem_setThread (s : State) (j : Nat) (k : ThreadId) (x : Thread) : (s.setThread k x).sem j = s.sem j := rfl
@[simp] theorem sem_setGroup (s : State) (j : Nat) (k : GroupId) (x : Group) : (s.setGroup k x).sem j = s.sem j := rfl
@[simp] theorem sem_setHelm (s : State) (j : Nat) (k : Nat) (x : Helm) : (s.setHelm k x).sem j = s.sem j := rfl
@[simp] theorem sem_setCore (s : State) (j : Nat) (k : Nat) (x : Core) : (s.setCore k x).sem j = s.sem j := rfl
@[simp] theorem sem_setDie (s : State) (j : Nat) (k : Nat) (x : Die) : (s.setDie k x).sem j = s.sem j := rfl
@[simp] theorem sem_setPort (s : State) (j : Nat) (k : Nat) (x : Port) : (s.setPort k x).sem j = s.sem j := rfl
@[simp] theorem sem_setUnit (s : State) (j : Nat) (k : Nat) (x : CorniceUnit) : (s.setUnit k x).sem j = s.sem j := rfl
@[simp] theorem sem_setWg (s : State) (j : Nat) (k : Nat) (x : Workgroup) : (s.setWg k x).sem j = s.sem j := rfl
@[simp] theorem sem_setLaunch (s : State) (j : Nat) (k : Nat) (x : Launch) : (s.setLaunch k x).sem j = s.sem j := rfl

theorem wg_setWg (s : State) (k j : Nat) (x : Workgroup) : (s.setWg k x).wg j = if j = k then x else s.wg j := getD_set _ _ _ _ _
@[simp] theorem wg_setWg_same (s : State) (k : Nat) (x : Workgroup) : (s.setWg k x).wg k = x := getD_set_same _ _ _ _
@[simp] theorem wg_setReg (s : State) (j : Nat) (k : RegKey) (x : Reg) : (s.setReg k x).wg j = s.wg j := rfl
@[simp] theorem wg_setThread (s : State) (j : Nat) (k : ThreadId) (x : Thread) : (s.setThread k x).wg j = s.wg j := rfl
@[simp] theorem wg_setGroup (s : State) (j : Nat) (k : GroupId) (x : Group) : (s.setGroup k x).wg j = s.wg j := rfl
@[simp] theorem wg_setHelm (s : State) (j : Nat) (k : Nat) (x : Helm) : (s.setHelm k x).wg j = s.wg j := rfl
@[simp] theorem wg_setCore (s : State) (j : Nat) (k : Nat) (x : Core) : (s.setCore k x).wg j = s.wg j := rfl
@[simp] theorem wg_setDie (s : State) (j : Nat) (k : Nat) (x : Die) : (s.setDie k x).wg j = s.wg j := rfl
@[simp] theorem wg_setPort (s : State) (j : Nat) (k : Nat) (x : Port) : (s.setPort k x).wg j = s.wg j := rfl
@[simp] theorem wg_setUnit (s : State) (j : Nat) (k : Nat) (x : CorniceUnit) : (s.setUnit k x).wg j = s.wg j := rfl
@[simp] theorem wg_setSem (s : State) (j : Nat) (k : Nat) (x : Word) : (s.setSem k x).wg j = s.wg j := rfl
@[simp] theorem wg_setLaunch (s : State) (j : Nat) (k : Nat) (x : Launch) : (s.setLaunch k x).wg j = s.wg j := rfl

theorem launch_setLaunch (s : State) (k j : Nat) (x : Launch) : (s.setLaunch k x).launch j = if j = k then x else s.launch j := getD_set _ _ _ _ _
@[simp] theorem launch_setLaunch_same (s : State) (k : Nat) (x : Launch) : (s.setLaunch k x).launch k = x := getD_set_same _ _ _ _
@[simp] theorem launch_setReg (s : State) (j : Nat) (k : RegKey) (x : Reg) : (s.setReg k x).launch j = s.launch j := rfl
@[simp] theorem launch_setThread (s : State) (j : Nat) (k : ThreadId) (x : Thread) : (s.setThread k x).launch j = s.launch j := rfl
@[simp] theorem launch_setGroup (s : State) (j : Nat) (k : GroupId) (x : Group) : (s.setGroup k x).launch j = s.launch j := rfl
@[simp] theorem launch_setHelm (s : State) (j : Nat) (k : Nat) (x : Helm) : (s.setHelm k x).launch j = s.launch j := rfl
@[simp] theorem launch_setCore (s : State) (j : Nat) (k : Nat) (x : Core) : (s.setCore k x).launch j = s.launch j := rfl
@[simp] theorem launch_setDie (s : State) (j : Nat) (k : Nat) (x : Die) : (s.setDie k x).launch j = s.launch j := rfl
@[simp] theorem launch_setPort (s : State) (j : Nat) (k : Nat) (x : Port) : (s.setPort k x).launch j = s.launch j := rfl
@[simp] theorem launch_setUnit (s : State) (j : Nat) (k : Nat) (x : CorniceUnit) : (s.setUnit k x).launch j = s.launch j := rfl
@[simp] theorem launch_setSem (s : State) (j : Nat) (k : Nat) (x : Word) : (s.setSem k x).launch j = s.launch j := rfl
@[simp] theorem launch_setWg (s : State) (j : Nat) (k : Nat) (x : Workgroup) : (s.setWg k x).launch j = s.launch j := rfl

end Sys2Proof.Laws
end

