-- ==== Sys2Proof/Laws/Operands.lean ====
section
/-! SUPPORT. What the shared operations of Ops and Operands do: moving on, readable operands, results delivered. -/

namespace Sys2Proof.Laws

open Sys2Proof Sys2Proof.Machine

/-! ## Moving on -/

/-- The threads of some lanes changed one after another, as a change of the threads alone. -/
theorem foldl_setThread (lanes : List Nat) (key : Nat → ThreadId) (g : Nat → Thread → Thread) (s : State) :
    lanes.foldl (fun t l => t.setThread (key l) (g l (t.thread (key l)))) s =
      { s with threads := lanes.foldl (fun m l => FMap.set m (key l) (g l (FMap.getD m (key l) Thread.absent))) s.threads } := by
  induction lanes generalizing s with
  | nil => rfl
  | cons l t ih => exact ih _

/-- What a thread is after the threads of some lanes of one group changed, when the change may be made again. -/
theorem getD_foldl_set (lanes : List Nat) (wg grp : Nat) (g : Thread → Thread) (hg : ∀ x, g (g x) = g x)
    (m : FMap ThreadId Thread) (id : ThreadId) :
    FMap.getD (lanes.foldl (fun m l => FMap.set m ⟨wg, grp, l⟩ (g (FMap.getD m ⟨wg, grp, l⟩ Thread.absent))) m) id Thread.absent =
      if id.wg = wg ∧ id.grp = grp ∧ id.lane ∈ lanes then g (FMap.getD m id Thread.absent) else FMap.getD m id Thread.absent := by
  induction lanes generalizing m with
  | nil => simp
  | cons l t ih =>
    obtain ⟨a, b, c⟩ := id
    rw [List.foldl_cons, ih, getD_set]
    by_cases h1 : a = wg <;> by_cases h2 : b = grp <;> by_cases h3 : c = l <;> by_cases h4 : c ∈ t <;> simp_all

/-- A thread that has moved to an address and waits for nothing. -/
def movedTo (pc : Word) (x : Thread) : Thread := { x with pc := pc, wait := .none, hang := 0 }

theorem noteIssue_group (s : State) (wg grp : Nat) (lanes : List Nat) (pc : Word) (len : Nat) (h : s.cur = .group wg grp lanes pc len) :
    s.noteIssue = s.setGroup ⟨wg, grp⟩ { s.group ⟨wg, grp⟩ with
      yieldAbove := none, backLanes := lanes
      backCount := if lanes.any (fun l => (s.group ⟨wg, grp⟩).backLanes.contains l) then (s.group ⟨wg, grp⟩).backCount else 0 } := by
  simp only [State.noteIssue, h]

/-- What moving on does for a bundle. -/
theorem advance_group (s : State) (wg grp : Nat) (lanes : List Nat) (pc : Word) (len : Nat) (h : s.cur = .group wg grp lanes pc len) :
    s.advance = { s.noteIssue with
      threads := lanes.foldl (fun m l => FMap.set m ⟨wg, grp, l⟩ (movedTo (pc + BitVec.ofNat 64 len) (FMap.getD m ⟨wg, grp, l⟩ Thread.absent))) s.threads } := by
  have hn : s.noteIssue.threads = s.threads := by rw [noteIssue_group s wg grp lanes pc len h]; rfl
  rw [← hn]
  simp only [State.advance, h]
  exact foldl_setThread lanes (fun l => ⟨wg, grp, l⟩) (fun _ x => movedTo _ x) _

/-- A group one of whose bundles has issued. -/
def issuedGroup (lanes : List Nat) (g : Group) : Group :=
  { g with yieldAbove := none, backLanes := lanes, backCount := if lanes.any (fun l => g.backLanes.contains l) then g.backCount else 0 }

theorem group_advance (s : State) (wg grp : Nat) (lanes : List Nat) (pc : Word) (len : Nat) (h : s.cur = .group wg grp lanes pc len)
    (g : GroupId) : s.advance.group g = if g = ⟨wg, grp⟩ then issuedGroup lanes (s.group ⟨wg, grp⟩) else s.group g := by
  rw [advance_group s wg grp lanes pc len h, noteIssue_group s wg grp lanes pc len h]
  exact group_setGroup s ⟨wg, grp⟩ g _

theorem helms_advance (s : State) (wg grp : Nat) (lanes : List Nat) (pc : Word) (len : Nat) (h : s.cur = .group wg grp lanes pc len) :
    s.advance.helms = s.helms := by
  rw [advance_group s wg grp lanes pc len h, noteIssue_group s wg grp lanes pc len h]
  rfl

theorem advance_helm (s : State) (wg : Nat) (pc : Word) (len : Nat) (h : s.cur = .helm wg pc len) :
    s.advance = s.setHelm wg { s.helm wg with pc := pc + BitVec.ofNat 64 len, wait := .none, hang := 0 } := by
  simp only [State.advance, h]

theorem advance_cornice (s : State) (u : Nat) (h : s.cur = .cornice u) : s.advance = s := by simp only [State.advance, h]

theorem advance_nobody (s : State) (h : s.cur = .nobody) : s.advance = s := by simp only [State.advance, h]

theorem advance_thread (s : State) (wg grp : Nat) (lanes : List Nat) (pc : Word) (len : Nat) (h : s.cur = .group wg grp lanes pc len)
    (id : ThreadId) :
    s.advance.thread id = if id.wg = wg ∧ id.grp = grp ∧ id.lane ∈ lanes then movedTo (pc + BitVec.ofNat 64 len) (s.thread id) else s.thread id := by
  rw [advance_group s wg grp lanes pc len h]
  exact getD_foldl_set lanes wg grp (movedTo _) (fun _ => rfl) s.threads id

/-- Moving on changes threads, groups and Helms only. -/
theorem advance_frame (s : State) : s.advance = { s with threads := s.advance.threads, groups := s.advance.groups, helms := s.advance.helms } := by
  cases h : s.cur with
  | group wg grp lanes pc len =>
    rw [advance_group s wg grp lanes pc len h, noteIssue_group s wg grp lanes pc len h, ← h]
    rfl
  | helm wg pc len => rw [advance_helm s wg pc len h, ← h]; rfl
  | cornice u => rw [advance_cornice s u h, ← h]
  | nobody => rw [advance_nobody s h, ← h]

/-- Two states with the same issuer and threads move their threads alike, whatever else they differ in. -/
theorem advance_congr (s t : State) (hc : t.cur = s.cur) (ht : t.threads = s.threads) :
    t.advance = { t with threads := s.advance.threads, groups := t.advance.groups, helms := t.advance.helms } := by
  rw [advance_frame t]
  have : t.advance.threads = s.advance.threads := by
    cases h : s.cur with
    | group wg grp lanes pc len => rw [advance_group t _ _ _ _ _ (hc.trans h), advance_group s _ _ _ _ _ h, ht]
    | helm wg pc len => rw [advance_helm t _ _ _ (hc.trans h), advance_helm s _ _ _ h]; exact ht
    | cornice u => simp only [State.advance, hc, h, ht]
    | nobody => simp only [State.advance, hc, h, ht]
  rw [this]

/-! ## Readable operands -/

/-- A lane in which no register is empty does not trap. -/
theorem emptyIn_none (s : State) (l : Nat) (srcs : List Opnd) (dsts : List Src) (hs : ∀ o ∈ srcs, s.isEmpty l o.src = false)
    (hd : ∀ x ∈ dsts, s.isEmpty l x = false) : s.emptyIn l srcs dsts = [] := by
  have e1 : srcs.filter (fun o => s.srcTraps o.src && s.isEmpty l o.src) = [] := by
    rw [List.filter_eq_nil_iff]; intro o ho; simp [hs o ho]
  have e2 : dsts.filter (s.isEmpty l) = [] := by
    rw [List.filter_eq_nil_iff]; intro x hx; simp [hd x hx]
  simp [State.emptyIn, e1, e2]

/-- The full and empty check of operands none of which is empty, where no error is injected: nothing changes. -/
theorem checkBy_ok (s : State) (lanes others : List Nat) (srcs : Nat → List Opnd) (dsts : List Src) (q : s.errInjs = [])
    (hs : ∀ l ∈ lanes ++ others, ∀ o ∈ srcs l, s.isEmpty l o.src = false)
    (hd : ∀ l ∈ lanes ++ others, ∀ x ∈ dsts, s.isEmpty l x = false) : s.checkBy lanes others srcs dsts = .ok s := by
  have e1 : lanes.filter (fun l => !(s.emptyIn l (srcs l) dsts).isEmpty) = [] := by
    rw [List.filter_eq_nil_iff]
    intro l hl
    have h := List.mem_append_left others hl
    simp [emptyIn_none s l (srcs l) dsts (hs l h) (hd l h)]
  have e2 : (lanes ++ others).any (fun l => (srcs l).any (fun o => s.isEmpty l o.src) || dsts.any (s.isEmpty l)) = false := by
    rw [List.any_eq_false]
    intro l hl
    simp only [Bool.or_eq_true, List.any_eq_true, not_or, not_exists, not_and]
    exact ⟨fun o ho => by simp [hs l hl o ho], fun x hx => by simp [hd l hl x hx]⟩
  simp [State.checkBy, e1, e2, State.readSrcs, q]

/-- The full and empty check of operands none of which is empty, where no error is injected: nothing changes. -/
theorem checkFull_ok (s : State) (lanes others : List Nat) (srcs : List Opnd) (dsts : List Src) (q : s.errInjs = [])
    (hs : ∀ l ∈ lanes ++ others, ∀ o ∈ srcs, s.isEmpty l o.src = false)
    (hd : ∀ l ∈ lanes ++ others, ∀ x ∈ dsts, s.isEmpty l x = false) : s.checkFull lanes others srcs dsts = .ok s :=
  checkBy_ok s lanes others (fun _ => srcs) dsts q hs hd

end Sys2Proof.Laws
end

