-- ==== Sys2Proof/Laws/Results.lean ====
section
/-! SUPPORT. What delivering results does, and the one lemma about every instruction of one destination. -/

namespace Sys2Proof.Laws

open Sys2Proof Sys2Proof.Machine

/-- FLAGS of the issuer alone differ between the groups and Helms of two states. -/
def FlagsOnly (s t : State) : Prop :=
  if s.curHelm then
    t.groups = s.groups ∧ ∀ w, t.helm w = if w = s.curGroup.wg then { s.helm w with flags := (t.helm w).flags } else s.helm w
  else
    t.helms = s.helms ∧ ∀ g, t.group g = if g = s.curGroup then { s.group g with flags := (t.group g).flags } else s.group g

/-- What delivering results does beside writing registers. -/
structure Delivers (s t : State) : Prop where
  frame : t = { s with regs := t.regs, fills := t.fills, nextId := t.nextId, groups := t.groups, helms := t.helms }
  begun : ∃ b, t.fills = s.fills ++ b
  flags : FlagsOnly s t

theorem Delivers.cur {s t : State} (h : Delivers s t) : t.cur = s.cur := by rw [h.frame]
theorem Delivers.threads {s t : State} (h : Delivers s t) : t.threads = s.threads := by rw [h.frame]
theorem curHelm_congr {s t : State} (h : t.cur = s.cur) : t.curHelm = s.curHelm := by simp only [State.curHelm, h]
theorem curGroup_congr {s t : State} (h : t.cur = s.cur) : t.curGroup = s.curGroup := by simp only [State.curGroup, h]

theorem FlagsOnly.refl (s : State) : FlagsOnly s s := by
  unfold FlagsOnly
  split
  · exact ⟨rfl, fun w => by split <;> rfl⟩
  · exact ⟨rfl, fun g => by split <;> rfl⟩

theorem Delivers.refl (s : State) : Delivers s s := ⟨rfl, ⟨[], by simp⟩, .refl s⟩

theorem Delivers.trans {s t u : State} (h : Delivers s t) (k : Delivers t u) : Delivers s u := by
  refine ⟨?_, ?_, ?_⟩
  · have h1 := h.frame
    have h2 := k.frame
    rw [h1] at h2
    exact h2
  · obtain ⟨a, ha⟩ := h.begun
    obtain ⟨b, hb⟩ := k.begun
    exact ⟨a ++ b, by rw [hb, ha, List.append_assoc]⟩
  · have h1 := h.flags
    have h2 := k.flags
    unfold FlagsOnly at *
    rw [curHelm_congr h.cur, curGroup_congr h.cur] at h2
    split at h1
    · rename_i hh
      rw [if_pos hh] at h2 ⊢
      refine ⟨h2.1.trans h1.1, fun w => ?_⟩
      have a := h1.2 w
      have b := h2.2 w
      split
      · rename_i hw
        rw [if_pos hw] at a b
        rw [b, a]
      · rename_i hw
        rw [if_neg hw] at a b
        rw [b, a]
    · rename_i hh
      rw [if_neg hh] at h2 ⊢
      refine ⟨h2.1.trans h1.1, fun w => ?_⟩
      have a := h1.2 w
      have b := h2.2 w
      split
      · rename_i hw
        rw [if_pos hw] at a b
        rw [b, a]
      · rename_i hw
        rw [if_neg hw] at a b
        rw [b, a]

/-! ## FLAGS -/

theorem orFlags_zero (s : State) : s.orFlags 0 = s := by simp [State.orFlags]

theorem delivers_orFlags (s : State) (f : Word) : Delivers s (s.orFlags f) := by
  by_cases hf : f = 0
  · subst hf; rw [orFlags_zero]; exact .refl s
  by_cases hh : s.curHelm = true
  · have e : s.orFlags f = s.setHelm s.curGroup.wg { s.helm s.curGroup.wg with flags := (s.helm s.curGroup.wg).flags ||| f } := by
      rw [State.orFlags, if_neg hf, if_pos hh]
    rw [e]
    refine ⟨rfl, ⟨[], by simp⟩, ?_⟩
    simp only [FlagsOnly, hh, if_true]
    refine ⟨rfl, fun w => ?_⟩
    rw [helm_setHelm]
    split
    · rename_i hw; subst hw; rfl
    · rfl
  · have e : s.orFlags f = s.setGroup s.curGroup { s.group s.curGroup with flags := (s.group s.curGroup).flags ||| f } := by
      rw [State.orFlags, if_neg hf, if_neg hh]
    rw [e]
    refine ⟨rfl, ⟨[], by simp⟩, ?_⟩
    simp only [FlagsOnly, hh]
    refine ⟨rfl, fun g => ?_⟩
    rw [group_setGroup]
    split
    · rename_i hg; subst hg; rfl
    · rfl

theorem curFlags_orFlags (s : State) (f : Word) : curFlags (s.orFlags f) = curFlags s ||| f := by
  by_cases hf : f = 0
  · subst hf; rw [orFlags_zero]; exact (BitVec.or_zero ..).symm
  by_cases hh : s.curHelm = true
  · have e : s.orFlags f = s.setHelm s.curGroup.wg { s.helm s.curGroup.wg with flags := (s.helm s.curGroup.wg).flags ||| f } := by
      rw [State.orFlags, if_neg hf, if_pos hh]
    have h1 : (s.setHelm s.curGroup.wg { s.helm s.curGroup.wg with flags := (s.helm s.curGroup.wg).flags ||| f }).curHelm = true := hh
    have h2 : ∀ x, (s.setHelm s.curGroup.wg x).curGroup = s.curGroup := fun _ => rfl
    simp only [e, curFlags, hh, h1, h2, if_true, helm_setHelm_same]
  · have e : s.orFlags f = s.setGroup s.curGroup { s.group s.curGroup with flags := (s.group s.curGroup).flags ||| f } := by
      rw [State.orFlags, if_neg hf, if_neg hh]
    have h1 : ∀ x, (s.setGroup s.curGroup x).curHelm = s.curHelm := fun _ => rfl
    have h2 : ∀ x, (s.setGroup s.curGroup x).curGroup = s.curGroup := fun _ => rfl
    simp only [e, curFlags, h1, h2, hh, group_setGroup_same]
    simp

@[simp] theorem reg_orFlags (s : State) (f : Word) (k : RegKey) : (s.orFlags f).reg k = s.reg k := by
  have h := (delivers_orFlags s f)
  unfold State.orFlags
  split
  · rfl
  · split <;> rfl

@[simp] theorem fills_orFlags (s : State) (f : Word) : (s.orFlags f).fills = s.fills := by
  unfold State.orFlags
  split
  · rfl
  · split <;> rfl

/-! ## One result -/

theorem delivers_deliver (s : State) (k : RegKey) (late counts : Bool) (g : Tag) (v f : Word) :
    Delivers s (s.deliver k late counts g v f) := by
  unfold State.deliver
  split
  · exact ⟨rfl, ⟨_, rfl⟩, FlagsOnly.refl s⟩
  · exact Delivers.trans (t := s.putReg k g v) ⟨rfl, ⟨[], by simp [State.putReg]⟩, FlagsOnly.refl s⟩ (delivers_orFlags _ _)

theorem reg_deliver (s : State) (k j : RegKey) (late counts : Bool) (g : Tag) (v f : Word) :
    (s.deliver k late counts g v f).reg j =
      if j = k then (if late then { bits := (s.reg k).bits, tag := g, full := false } else { bits := v, tag := g, full := true }) else s.reg j := by
  unfold State.deliver
  cases late
  · simp only [Bool.false_eq_true, if_false, reg_orFlags]
    exact getD_set _ _ _ _ _
  · simp only [if_true]
    exact getD_set _ _ _ _ _

theorem curFlags_deliver (s : State) (k : RegKey) (late counts : Bool) (g : Tag) (v f : Word) :
    curFlags (s.deliver k late counts g v f) = if late then curFlags s else curFlags s ||| (if counts then f else 0) := by
  unfold State.deliver
  cases late
  · simp only [Bool.false_eq_true, if_false, curFlags_orFlags]
    rfl
  · rfl

/-! ## The results of many lanes -/

theorem deliverAll_cons_ok (s pre : State) (f : Form) (op : Nat → Alu) (counts : Bool) (l : Nat) (t : List Nat) (r : Tag × Word × Word)
    (h : pre.aluResult f (op l) l = .ok r) : s.deliverAll pre f op counts (l :: t) =
      (s.deliver (pre.dstKey f l) ((op l).slow r.1) counts r.1 r.2.1 r.2.2).deliverAll pre f op counts t := by
  simp only [State.deliverAll, List.foldl_cons, h]

theorem deliverAll_cons_error (s pre : State) (f : Form) (op : Nat → Alu) (counts : Bool) (l : Nat) (t : List Nat) (e : Nat)
    (h : pre.aluResult f (op l) l = .error e) : s.deliverAll pre f op counts (l :: t) = s.deliverAll pre f op counts t := by
  simp only [State.deliverAll, List.foldl_cons, h]

theorem delivers_deliverAll (s pre : State) (f : Form) (op : Nat → Alu) (counts : Bool) (lanes : List Nat) :
    Delivers s (s.deliverAll pre f op counts lanes) := by
  unfold State.deliverAll
  induction lanes generalizing s with
  | nil => exact .refl s
  | cons l t ih =>
    rw [List.foldl_cons]
    split
    · exact (delivers_deliver s _ _ _ _ _ _).trans (ih _)
    · exact ih s

/-- A register that no lane writes. -/
theorem reg_deliverAll_other (s pre : State) (f : Form) (op : Nat → Alu) (counts : Bool) (lanes : List Nat) (k : RegKey)
    (h : ∀ l ∈ lanes, k ≠ pre.dstKey f l) : (s.deliverAll pre f op counts lanes).reg k = s.reg k := by
  unfold State.deliverAll
  induction lanes generalizing s with
  | nil => rfl
  | cons l t ih =>
    rw [List.foldl_cons]
    have ht : ∀ m ∈ t, k ≠ pre.dstKey f m := fun m hm => h m (List.mem_cons_of_mem _ hm)
    split
    · rw [ih _ ht, reg_deliver, if_neg (h l (List.mem_cons_self ..))]
    · exact ih s ht

/-- The fills that a lane's result begins are never taken back by the results after it. -/
theorem fills_deliverAll_mem (s pre : State) (f : Form) (op : Nat → Alu) (counts : Bool) (lanes : List Nat) (x : Fill)
    (h : x ∈ s.fills) : x ∈ (s.deliverAll pre f op counts lanes).fills := by
  obtain ⟨b, hb⟩ := (delivers_deliverAll s pre f op counts lanes).begun
  rw [hb]
  exact List.mem_append_left _ h

/-- The register of a lane that writes, after all lanes have: `base` is a state before any of them has. -/
theorem wrote_deliverAll (base s pre : State) (f : Form) (op : Nat → Alu) (counts : Bool) (lanes : List Nat) (l : Nat)
    (hl : l ∈ lanes) (inj : ∀ m ∈ lanes, pre.dstKey f m = pre.dstKey f l → m = l) (g : Tag) (v fl : Word)
    (hr : pre.aluResult f (op l) l = .ok (g, v, fl)) (hb : (s.reg (pre.dstKey f l)).bits = (base.reg (pre.dstKey f l)).bits ∨ (op l).slow g = false)
    (hg : s.curGroup = base.curGroup) :
    Wrote base (s.deliverAll pre f op counts lanes) (pre.dstKey f l) ((op l).slow g) g v := by
  induction lanes generalizing s with
  | nil => simp at hl
  | cons m t ih =>
    have ht : ∀ n ∈ t, pre.dstKey f n = pre.dstKey f l → n = l := fun n hn => inj n (List.mem_cons_of_mem _ hn)
    by_cases hin : l ∈ t
    · -- a later lane of the same number writes again
      cases hm : pre.aluResult f (op m) m with
      | error e => rw [deliverAll_cons_error _ _ _ _ _ _ _ _ hm]; exact ih s hin ht hb hg
      | ok r =>
        rw [deliverAll_cons_ok _ _ _ _ _ _ _ _ hm]
        refine ih _ hin ht ?_ ((curGroup_congr (delivers_deliver s _ _ _ _ _ _).cur).trans hg)
        rcases hb with hb | hb
        · by_cases hk : pre.dstKey f l = pre.dstKey f m
          · have : m = l := inj m (List.mem_cons_self ..) hk.symm
            subst this
            rw [hr] at hm
            cases hm
            cases hs : (op m).slow g
            · exact .inr rfl
            · left; rw [reg_deliver]; simp [hb]
          · left; rw [reg_deliver, if_neg hk]; exact hb
        · exact .inr hb
    · have hml : m = l := by
        rcases List.mem_cons.1 hl with h | h
        · exact h.symm
        · exact absurd h hin
      subst hml
      have ho : ∀ n ∈ t, pre.dstKey f m ≠ pre.dstKey f n := fun n hn hk => hin (ht n hn hk.symm ▸ hn)
      rw [deliverAll_cons_ok _ _ _ _ _ _ _ _ hr]
      have hreg := reg_deliverAll_other (s.deliver (pre.dstKey f m) ((op m).slow g) counts g v fl) pre f op counts t _ ho
      unfold Wrote
      rw [hreg, reg_deliver, if_pos rfl]
      cases hs : (op m).slow g
      · simp
      · rcases hb with hb | hb
        · refine ⟨by simp [hb], ⟨s.nextId, pre.dstKey f m, v, if counts then fl else 0, s.curGroup⟩, ?_, rfl, rfl, hg⟩
          apply fills_deliverAll_mem
          simp [State.deliver, State.startFill]
        · rw [hb] at hs; simp at hs

theorem curFlags_deliverAll (s pre : State) (f : Form) (op : Nat → Alu) (lanes : List Nat) :
    curFlags (s.deliverAll pre f op true lanes) = lanes.foldl (fun a l =>
      match pre.aluResult f (op l) l with | .ok r => if (op l).slow r.1 then a else a ||| r.2.2 | .error _ => a) (curFlags s) := by
  unfold State.deliverAll
  induction lanes generalizing s with
  | nil => rfl
  | cons l t ih =>
    rw [List.foldl_cons, List.foldl_cons]
    cases h : pre.aluResult f (op l) l with
    | ok r => rw [ih, curFlags_deliver]; simp
    | error e => rw [ih]

theorem curFlags_deliverAll_helpers (s pre : State) (f : Form) (op : Nat → Alu) (lanes : List Nat) :
    curFlags (s.deliverAll pre f op false lanes) = curFlags s := by
  unfold State.deliverAll
  induction lanes generalizing s with
  | nil => rfl
  | cons l t ih =>
    rw [List.foldl_cons]
    split
    · rw [ih, curFlags_deliver]; simp
    · exact ih s

/-! ## Moving on after results -/

theorem curFlags_advance (s : State) : curFlags s.advance = curFlags s := by
  have hc : s.advance.cur = s.cur := by rw [advance_frame]
  unfold curFlags
  rw [curHelm_congr hc, curGroup_congr hc]
  cases h : s.cur with
  | group wg grp lanes pc len =>
    have hh : s.curHelm = false := by simp [State.curHelm, h]
    have hg : s.curGroup = ⟨wg, grp⟩ := by simp [State.curGroup, h]
    simp only [hh, hg, Bool.false_eq_true, if_false, group_advance s _ _ _ _ _ h, if_true]
    rfl
  | helm wg pc len =>
    have hh : s.curHelm = true := by simp [State.curHelm, h]
    have hg : s.curGroup.wg = wg := by simp [State.curGroup, h]
    rw [advance_helm s _ _ _ h]
    simp only [hh, hg, if_true, helm_setHelm_same]
  | cornice u => rw [advance_cornice s u h]
  | nobody => rw [advance_nobody s h]

theorem reg_advance (s : State) (k : RegKey) : s.advance.reg k = s.reg k := by
  show FMap.getD s.advance.regs k _ = _
  rw [advance_frame]
  rfl

/-- Moving on keeps what differs in FLAGS alone. -/
theorem onlyFlags_advance {s t : State} (hcur : t.cur = s.cur) (hf : FlagsOnly s t) : OnlyFlags s t.advance := by
  unfold FlagsOnly at hf
  unfold OnlyFlags
  cases hc : s.cur with
  | group wg grp lanes pc len =>
    have hh : s.curHelm = false := by simp [State.curHelm, hc]
    have hg : s.curGroup = ⟨wg, grp⟩ := by simp [State.curGroup, hc]
    simp only [hh, hg, Bool.false_eq_true, if_false] at hf ⊢
    rw [helms_advance t _ _ _ _ _ (hcur.trans hc), helms_advance s _ _ _ _ _ hc]
    refine ⟨hf.1, fun g => ?_⟩
    rw [group_advance t _ _ _ _ _ (hcur.trans hc), group_advance s _ _ _ _ _ hc]
    have a := hf.2 g
    split
    · rename_i hgg
      rw [if_pos hgg] at a
      subst hgg
      rw [a]
      rfl
    · rename_i hgg
      rw [if_neg hgg] at a
      exact a
  | helm wg pc len =>
    have hh : s.curHelm = true := by simp [State.curHelm, hc]
    have hg : s.curGroup.wg = wg := by simp [State.curGroup, hc]
    simp only [hh, hg, if_true] at hf ⊢
    rw [advance_helm t _ _ _ (hcur.trans hc), advance_helm s _ _ _ hc]
    refine ⟨hf.1, fun w => ?_⟩
    rw [helm_setHelm, helm_setHelm]
    have a := hf.2 w
    split
    · rename_i hw
      rw [if_pos hw] at a
      subst hw
      rw [a]
    · rename_i hw
      rw [if_neg hw] at a
      exact a
  | cornice u =>
    have hh : s.curHelm = false := by simp [State.curHelm, hc]
    rw [advance_cornice t u (hcur.trans hc), advance_cornice s u hc]
    simpa [hh] using hf
  | nobody =>
    have hh : s.curHelm = false := by simp [State.curHelm, hc]
    rw [advance_nobody t (hcur.trans hc), advance_nobody s hc]
    simpa [hh] using hf

/-- Moving on after delivering results differs from moving on in the results alone. -/
theorem onlyResults_advance {s t : State} (h : Delivers s t) : OnlyResults s t.advance := by
  refine ⟨?_, ?_, onlyFlags_advance h.cur h.flags⟩
  · rw [advance_congr s t h.cur h.threads, advance_frame s]
    have := h.frame
    rw [this]
  · obtain ⟨b, hb⟩ := h.begun
    exact ⟨b, by rw [advance_frame]; exact hb⟩

/-! ## Instructions of one destination -/

theorem allLanes_inj (s : State) (f : Form) (hu : f.dUni = f.uniform) (l m : Nat) (hl : l ∈ allLanes s f) (hm : m ∈ allLanes s f)
    (h : s.dstKey f m = s.dstKey f l) : m = l := by
  cases hf : f.uniform
  · simp only [State.dstKey, hu, hf, Bool.false_eq_true, if_false, State.laneKey] at h
    exact (RegKey.v.inj h).2.2.1
  · simp only [allLanes, State.execLanes, helperLanes, hf, if_true, List.append_nil, oneLane, List.mem_singleton] at hl hm
    rw [hl, hm]

theorem formatFault_none (s : State) (f : Form) (op : Nat → Alu) (lanes : List Nat)
    (h : ∀ l ∈ lanes, ∃ r, s.aluResult f (op l) l = .ok r) : s.formatFault f op lanes = none := by
  unfold State.formatFault
  rw [List.findSome?_eq_none_iff]
  intro l hl
  obtain ⟨r, hr⟩ := h l hl
  rw [hr]

theorem aluResult_ok (s : State) (f : Form) (op : Alu) (l : Nat) (g : Tag) (h : op.check (s.srcTags f op.arity l) = .ok g) :
    s.aluResult f op l = .ok (g, op.eval g (s.srcTags f op.arity l) (srcVals s f op.arity op.immVal l)) := by
  simp only [State.aluResult, h]
  rfl

theorem aluResult_error (s : State) (f : Form) (op : Alu) (l : Nat) (e : Nat) (h : op.check (s.srcTags f op.arity l) = .error e) :
    s.aluResult f op l = .error e := by
  simp only [State.aluResult, h]

/-- The results of every lane that executes, helper lanes last. -/
def deliveredAll (s : State) (f : Form) (op : Nat → Alu) : State :=
  (s.deliverAll s f op true (s.execLanes f)).deliverAll s f op false (helperLanes s f)

theorem wrote_lanes (s : State) (f : Form) (op : Nat → Alu) (hu : f.dUni = f.uniform) (l : Nat) (hl : l ∈ allLanes s f) (g : Tag)
    (v fl : Word) (hres : s.aluResult f (op l) l = .ok (g, v, fl)) :
    Wrote s (deliveredAll s f op) (s.dstKey f l) ((op l).slow g) g v := by
  have inj := fun m hm => allLanes_inj s f hu l m hl hm
  by_cases ho : l ∈ helperLanes s f
  · refine wrote_deliverAll s _ s f op false _ l ho (fun m hm => inj m (List.mem_append_right _ hm)) g _ _ hres ?_
      (curGroup_congr (delivers_deliverAll _ _ _ _ _ _).cur)
    by_cases hin : l ∈ s.execLanes f
    · have := wrote_deliverAll s s s f op true _ l hin (fun m hm => inj m (List.mem_append_left _ hm)) g _ _ hres (.inl rfl) rfl
      cases hs : (op l).slow g
      · exact .inr rfl
      · left
        simp only [Wrote, hs, if_true] at this
        rw [this.1]
    · left
      rw [reg_deliverAll_other]
      intro m hm hk'
      exact hin (inj m (List.mem_append_left _ hm) hk'.symm ▸ hm)
  · have hin : l ∈ s.execLanes f := by
      rcases List.mem_append.1 hl with h | h
      · exact h
      · exact absurd h ho
    have h1 := wrote_deliverAll s s s f op true _ l hin (fun m hm => inj m (List.mem_append_left _ hm)) g _ _ hres (.inl rfl) rfl
    have h2 : (deliveredAll s f op).reg (s.dstKey f l) = (s.deliverAll s f op true (s.execLanes f)).reg (s.dstKey f l) :=
      reg_deliverAll_other _ _ _ _ _ _ _ (fun m hm hk' => ho (inj m (List.mem_append_right _ hm) hk'.symm ▸ hm))
    unfold Wrote at h1 ⊢
    rw [h2]
    split at h1
    · rename_i hs
      rw [if_pos hs]
      obtain ⟨a, x, hx', b⟩ := h1
      exact ⟨a, x, fills_deliverAll_mem _ _ _ _ _ _ _ hx', b⟩
    · rename_i hs
      rw [if_neg hs]
      exact h1

theorem delivers_all (s : State) (f : Form) (op : Nat → Alu) : Delivers s (deliveredAll s f op) :=
  (delivers_deliverAll _ _ _ _ _ _).trans (delivers_deliverAll _ _ _ _ _ _)

theorem reg_all_other (s : State) (f : Form) (op : Nat → Alu) (k : RegKey) (h : ∀ l ∈ allLanes s f, k ≠ s.dstKey f l) :
    (deliveredAll s f op).reg k = s.reg k := by
  rw [deliveredAll, reg_deliverAll_other _ _ _ _ _ _ _ (fun m hm => h m (List.mem_append_right _ hm)),
    reg_deliverAll_other _ _ _ _ _ _ _ (fun m hm => h m (List.mem_append_left _ hm))]

theorem curFlags_all (s : State) (f : Form) (op : Nat → Alu) :
    curFlags (deliveredAll s f op) = (s.execLanes f).foldl (fun a l =>
      match s.aluResult f (op l) l with | .ok r => if (op l).slow r.1 then a else a ||| r.2.2 | .error _ => a) (curFlags s) := by
  rw [deliveredAll, curFlags_deliverAll_helpers, curFlags_deliverAll]

/-- What `runAluBy` answers where its tags are accepted and its operands readable. -/
theorem runAluBy_eq (s : State) (f : Form) (arity : Nat) (op : Nat → Alu) (extra : List Opnd) (post : State → Nat → State)
    (srcs : List Src) (ho : ∀ o ∈ f.srcs arity ++ extra, o.src ∈ srcs) (hr : Readable s f srcs [f.dstSrc])
    (hc : ∀ l ∈ s.execLanes f, ∃ r, s.aluResult f (op l) l = .ok r) :
    s.runAluBy f arity op extra post = .next ((allLanes s f).foldl post (deliveredAll s f op)).advance := by
  have hf := formatFault_none s f op _ hc
  have hk : s.checkFull (s.trapSet f) (helperLanes s f) (f.srcs arity ++ extra) [f.dstSrc] = .ok s :=
    checkFull_ok _ _ _ _ _ hr.quiet (fun l hl o h => hr.srcs l hl _ (ho o h)) hr.dsts
  rw [State.runAluBy, hf]
  show (match s.checkFull (s.trapSet f) (helperLanes s f) (f.srcs arity ++ extra) [f.dstSrc] with
    | .trapped t => Host.Outcome.next t | .blocked => .next s
    | .ok u => .next (((s.execLanes f ++ helperLanes s f).foldl post ((u.deliverAll u f op true (s.execLanes f)).deliverAll u f op false
        (helperLanes s f))).advance) : Out) = _
  rw [hk]
  rfl

/-- An instruction that is one use of `runAlu` computes what its operation computes. -/
theorem computes_of_runAlu (i : Instr) (f : Form) (op : Alu) (hx : ∀ s, exec i s = s.runAlu f op)
    (R : Tag → List Tag → List Word → Word × Word → Prop)
    (hR : ∀ g tags vs, op.check tags = .ok g → R g tags vs (op.eval g tags vs)) :
    Computes i f op.arity op.check op.immVal op.slow R := by
  intro s hu hr hc
  have hf : s.formatFault f (fun _ => op) (s.execLanes f) = none := formatFault_none _ _ _ _ (fun l hl => by
    obtain ⟨g, hg⟩ := hc l hl
    exact ⟨_, aluResult_ok s f op l g hg⟩)
  have hk : s.checkFull (s.trapSet f) (helperLanes s f) (f.srcs op.arity ++ []) [f.dstSrc] = .ok s :=
    checkFull_ok _ _ _ _ _ hr.quiet (fun l hl o ho => hr.srcs l hl _ (List.mem_map_of_mem (by simpa using ho))) hr.dsts
  let d := (s.deliverAll s f (fun _ => op) true (s.execLanes f)).deliverAll s f (fun _ => op) false (helperLanes s f)
  have hd : Delivers s d := (delivers_deliverAll _ _ _ _ _ _).trans (delivers_deliverAll _ _ _ _ _ _)
  have post : ∀ (ls : List Nat) (u : State), ls.foldl (fun t _ => t) u = u := by
    intro ls; induction ls <;> simp_all
  refine ⟨d.advance, ?_, onlyResults_advance hd, fun l => match op.check (s.srcTags f op.arity l) with
    | .ok g => op.eval g (s.srcTags f op.arity l) (srcVals s f op.arity op.immVal l) | .error _ => (0, 0), ?_, ?_, ?_⟩
  · rw [hx, State.runAlu, State.runAluBy, hf]
    show (match s.checkFull (s.trapSet f) (helperLanes s f) (f.srcs op.arity ++ []) [f.dstSrc] with
      | .trapped t => Host.Outcome.next t | .blocked => .next s
      | .ok u => .next ((((s.execLanes f ++ helperLanes s f).foldl (fun t _ => t)
          ((u.deliverAll u f (fun _ => op) true (s.execLanes f)).deliverAll u f (fun _ => op) false (helperLanes s f))).advance)) : Out) = _
    rw [hk]
    show Host.Outcome.next _ = _
    rw [post]
  · intro l hl g hg
    refine ⟨by simp only [hg]; exact hR g _ _ hg, ?_⟩
    simp only [hg]
    have hw := wrote_lanes s f (fun _ => op) hu l hl g _ _ (aluResult_ok s f op l g hg)
    unfold Wrote at hw ⊢
    rw [reg_advance, show d.advance.fills = d.fills by rw [advance_frame]]
    exact hw
  · intro k hk'
    rw [reg_advance]
    show State.reg (State.deliverAll _ _ _ _ _ _) k = _
    rw [reg_deliverAll_other _ _ _ _ _ _ _ (fun m hm => hk' m (List.mem_append_right _ hm)),
      reg_deliverAll_other _ _ _ _ _ _ _ (fun m hm => hk' m (List.mem_append_left _ hm))]
  · rw [curFlags_advance]
    show curFlags (State.deliverAll _ _ _ _ _ _) = _
    rw [curFlags_deliverAll_helpers, curFlags_deliverAll]
    congr 1
    funext a l
    cases hg : op.check (s.srcTags f op.arity l) with
    | ok g => simp only [aluResult_ok s f op l g hg, hg]
    | error e => simp only [aluResult_error s f op l e hg]

end Sys2Proof.Laws
end

