-- ==== Sys2Proof/Laws/Lanes.lean ====
section
/-! SUPPORT. Instructions that write many registers or a predicate: the lemmas about runLanes and runPred. -/

namespace Sys2Proof.Laws

open Sys2Proof Sys2Proof.Machine

/-! ## Many writes -/

/-- One write of a register. -/
structure Put where
  key : RegKey
  late : Bool
  counts : Bool
  tag : Tag
  val : Word
  flags : Word

/-- Registers written one after another. -/
def putMany (s : State) (ws : List Put) : State := ws.foldl (fun t w => t.deliver w.key w.late w.counts w.tag w.val w.flags) s

theorem putMany_append (s : State) (a b : List Put) : putMany s (a ++ b) = putMany (putMany s a) b := List.foldl_append ..

theorem delivers_putMany (s : State) (ws : List Put) : Delivers s (putMany s ws) := by
  induction ws generalizing s with
  | nil => exact .refl s
  | cons w t ih => exact (delivers_deliver s _ _ _ _ _ _).trans (ih _)

theorem reg_putMany_other (s : State) (ws : List Put) (k : RegKey) (h : ∀ w ∈ ws, k ≠ w.key) : (putMany s ws).reg k = s.reg k := by
  induction ws generalizing s with
  | nil => rfl
  | cons w t ih =>
    refine (ih _ (fun x hx => h x (List.mem_cons_of_mem _ hx))).trans ?_
    rw [reg_deliver, if_neg (h w (List.mem_cons_self ..))]

theorem fills_putMany_mem (s : State) (ws : List Put) (x : Fill) (h : x ∈ s.fills) : x ∈ (putMany s ws).fills := by
  obtain ⟨b, hb⟩ := (delivers_putMany s ws).begun
  rw [hb]
  exact List.mem_append_left _ h

/-- A register written, where all writes of it agree. -/
theorem wrote_putMany (base s : State) (ws : List Put) (w : Put) (hw : w ∈ ws)
    (agree : ∀ x ∈ ws, x.key = w.key → x.late = w.late ∧ x.tag = w.tag ∧ x.val = w.val)
    (hb : (s.reg w.key).bits = (base.reg w.key).bits) (hg : s.curGroup = base.curGroup) :
    Wrote base (putMany s ws) w.key w.late w.tag w.val := by
  induction ws generalizing s with
  | nil => simp at hw
  | cons x t ih =>
    have ht : ∀ y ∈ t, y.key = w.key → y.late = w.late ∧ y.tag = w.tag ∧ y.val = w.val := fun y hy => agree y (List.mem_cons_of_mem _ hy)
    by_cases hin : ∃ y ∈ t, y.key = w.key
    · obtain ⟨y, hy, hk⟩ := hin
      obtain ⟨e1, e2, e3⟩ := ht y hy hk
      by_cases hlate : w.late = true
      · have hb' : ((s.deliver x.key x.late x.counts x.tag x.val x.flags).reg w.key).bits = (base.reg w.key).bits := by
          rw [reg_deliver]
          split
          · rename_i hx
            have := (agree x (List.mem_cons_self ..) hx.symm).1
            rw [this, hlate, if_pos rfl]
            exact hx ▸ hb
          · exact hb
        have hg' := (curGroup_congr (delivers_deliver s x.key x.late x.counts x.tag x.val x.flags).cur).trans hg
        by_cases hwt : w ∈ t
        · exact ih _ hwt ht hb' hg'
        · -- some later write of the same register writes the same
          have hwx : w = x := by
            rcases List.mem_cons.1 hw with h | h
            · exact h
            · exact absurd h hwt
          subst hwx
          have hfill : ∃ z ∈ (putMany s (w :: t)).fills, z.reg = w.key ∧ z.value = w.val ∧ z.owner = base.curGroup := by
            refine ⟨⟨s.nextId, w.key, w.val, if w.counts then w.flags else 0, s.curGroup⟩, ?_, rfl, rfl, hg⟩
            apply fills_putMany_mem (s.deliver w.key w.late w.counts w.tag w.val w.flags) t
            simp [State.deliver, hlate, State.startFill]
          have hreg : ∀ (u : State) (l : List Put), (∀ y ∈ l, y.key = w.key → y.late = w.late ∧ y.tag = w.tag ∧ y.val = w.val) →
              u.reg w.key = ⟨(base.reg w.key).bits, w.tag, false⟩ → (putMany u l).reg w.key = ⟨(base.reg w.key).bits, w.tag, false⟩ := by
            intro u l
            induction l generalizing u with
            | nil => exact fun _ h => h
            | cons y l ihl =>
              intro hl hu
              refine ihl _ (fun z hz => hl z (List.mem_cons_of_mem _ hz)) ?_
              rw [reg_deliver]
              split
              · rename_i hy
                obtain ⟨a, b, _⟩ := hl y (List.mem_cons_self ..) hy.symm
                rw [a, hlate, if_pos rfl, b, ← hy, hu]
              · exact hu
          unfold Wrote
          rw [if_pos hlate]
          refine ⟨hreg _ t ht ?_, hfill⟩
          rw [reg_deliver, if_pos rfl, if_pos hlate, hb]
      · -- written at once: the last write of the register counts
        have hreg : ∀ (u : State) (l : List Put), (∀ y ∈ l, y.key = w.key → y.late = w.late ∧ y.tag = w.tag ∧ y.val = w.val) →
            (∃ y ∈ l, y.key = w.key) → (putMany u l).reg w.key = ⟨w.val, w.tag, true⟩ := by
          intro u l
          induction l generalizing u with
          | nil => rintro - ⟨_, h, _⟩; simp at h
          | cons y l ihl =>
            intro hl _
            by_cases hrest : ∃ z ∈ l, z.key = w.key
            · exact ihl _ (fun z hz => hl z (List.mem_cons_of_mem _ hz)) hrest
            · have hy : y.key = w.key := by
                rename_i hex
                obtain ⟨z, hz, hk⟩ := hex
                rcases List.mem_cons.1 hz with h | h
                · exact h ▸ hk
                · exact absurd ⟨z, h, hk⟩ hrest
              obtain ⟨a, b, c⟩ := hl y (List.mem_cons_self ..) hy
              refine (reg_putMany_other _ l _ (fun z hz hk => hrest ⟨z, hz, hk.symm⟩)).trans ?_
              rw [reg_deliver, if_pos hy.symm, a, if_neg hlate, b, c]
        unfold Wrote
        rw [if_neg hlate]
        exact hreg s (x :: t) agree ⟨w, hw, rfl⟩
    · have hwx : w = x := by
        rcases List.mem_cons.1 hw with h | h
        · exact h
        · exact absurd ⟨w, h, rfl⟩ hin
      subst hwx
      have hreg := reg_putMany_other (s.deliver w.key w.late w.counts w.tag w.val w.flags) t w.key (fun y hy hk => hin ⟨y, hy, hk.symm⟩)
      unfold Wrote
      show if w.late = true then (putMany _ t).reg w.key = _ ∧ _ else (putMany _ t).reg w.key = _
      rw [hreg, reg_deliver, if_pos rfl]
      split
      · rename_i hl
        refine ⟨by rw [hb], ⟨s.nextId, w.key, w.val, if w.counts then w.flags else 0, s.curGroup⟩, ?_, rfl, rfl, hg⟩
        apply fills_putMany_mem (s.deliver w.key w.late w.counts w.tag w.val w.flags) t
        simp [State.deliver, hl, State.startFill]
      · rfl

theorem curFlags_putMany (s : State) (ws : List Put) :
    curFlags (putMany s ws) = ws.foldl (fun a w => if w.late then a else a ||| (if w.counts then w.flags else 0)) (curFlags s) := by
  induction ws generalizing s with
  | nil => rfl
  | cons w t ih => exact (ih _).trans (by rw [curFlags_deliver]; rfl)

/-! ## runLanes -/

/-- The writes of one lane. -/
def outPuts (s : State) (l : Nat) (late counts : Bool) (o : LaneOut) : List Put :=
  match o.writes with
  | [] => []
  | (d, t, v) :: rest =>
    (match s.srcKey l d with | some k => [⟨k, late, counts, t, v, o.flags⟩] | none => []) ++
    rest.filterMap (fun w => (s.srcKey l w.1).map (fun k => ⟨k, late, false, w.2.1, w.2.2, 0⟩))

theorem srcKey_congr {s t : State} (h : t.cur = s.cur) (l : Nat) (x : Src) : t.srcKey l x = s.srcKey l x := by
  simp only [State.srcKey, State.laneKey, State.uniKey, curHelm_congr h, curGroup_congr h]

theorem deliverOut_eq (s base : State) (hc : s.cur = base.cur) (l : Nat) (late counts : Bool) (o : LaneOut) (hne : o.writes ≠ []) :
    s.deliverOut l late counts o = putMany s (outPuts base l late counts o) := by
  have key : ∀ (u : State) (ws : List (Src × Tag × Word)), u.cur = base.cur →
      ws.foldl (fun u w => match u.srcKey l w.1 with | some k => u.deliver k late false w.2.1 w.2.2 0 | none => u) u =
        putMany u (ws.filterMap (fun w => (base.srcKey l w.1).map (fun k => ⟨k, late, false, w.2.1, w.2.2, 0⟩))) := by
    intro u ws
    induction ws generalizing u with
    | nil => exact fun _ => rfl
    | cons w t ih =>
      intro hu
      rw [List.foldl_cons, srcKey_congr hu]
      cases hk : base.srcKey l w.1 with
      | none => simpa [hk] using ih u hu
      | some k =>
        rw [List.filterMap_cons, hk]
        exact ih _ ((delivers_deliver u _ _ _ _ _ _).cur.trans hu)
  cases hw : o.writes with
  | nil => exact absurd hw hne
  | cons w t =>
    obtain ⟨d, g, v⟩ := w
    simp only [State.deliverOut, outPuts, hw, srcKey_congr hc]
    cases hk : base.srcKey l d with
    | none => exact key s t hc
    | some k => exact key _ t ((delivers_deliver s _ _ _ _ _ _).cur.trans hc)

/-- The writes of several lanes. -/
def lanePuts (s : State) (late counts : Bool) (compute : Nat → Except Nat LaneOut) (lanes : List Nat) : List Put :=
  lanes.flatMap (fun l => match compute l with | .ok o => outPuts s l late counts o | .error _ => [])

theorem foldl_deliverOut (s base : State) (hc : s.cur = base.cur) (late counts : Bool) (compute : Nat → Except Nat LaneOut)
    (hne : ∀ l o, compute l = .ok o → o.writes ≠ []) (lanes : List Nat) :
    lanes.foldl (fun t l => match compute l with | .ok o => t.deliverOut l late counts o | .error _ => t) s =
      putMany s (lanePuts base late counts compute lanes) := by
  induction lanes generalizing s with
  | nil => rfl
  | cons l t ih =>
    rw [List.foldl_cons]
    cases h : compute l with
    | error e => simpa [lanePuts, h] using ih s hc
    | ok o =>
      rw [show lanePuts base late counts compute (l :: t) = outPuts base l late counts o ++ lanePuts base late counts compute t by
        simp [lanePuts, h], putMany_append, ← deliverOut_eq s base hc l late counts o (hne l o h)]
      exact ih (s.deliverOut l late counts o) (by rw [deliverOut_eq s base hc l late counts o (hne l o h)]; exact (delivers_putMany _ _).cur.trans hc)

theorem mem_outPuts {s : State} {l : Nat} {late counts : Bool} {o : LaneOut} {p : Put} (h : p ∈ outPuts s l late counts o) :
    ∃ w ∈ o.writes, s.srcKey l w.1 = some p.key ∧ p.late = late ∧ p.tag = w.2.1 ∧ p.val = w.2.2 := by
  unfold outPuts at h
  split at h
  · simp at h
  · rename_i d t v rest hw
    rcases List.mem_append.1 h with h | h
    · split at h
      · rename_i k hk
        simp only [List.mem_singleton] at h
        subst h
        exact ⟨(d, t, v), by simp [hw], hk, rfl, rfl, rfl⟩
      · simp at h
    · simp only [List.mem_filterMap, Option.map_eq_some_iff] at h
      obtain ⟨w, hw', k, hk, rfl⟩ := h
      exact ⟨w, by simp [hw, hw'], hk, rfl, rfl, rfl⟩

theorem outPuts_mem {s : State} {l : Nat} {late counts : Bool} {o : LaneOut} {w : Src × Tag × Word} {k : RegKey} (h : w ∈ o.writes)
    (hk : s.srcKey l w.1 = some k) : ∃ p ∈ outPuts s l late counts o, p.key = k ∧ p.late = late ∧ p.tag = w.2.1 ∧ p.val = w.2.2 := by
  unfold outPuts
  cases hw : o.writes with
  | nil => simp [hw] at h
  | cons x rest =>
    rw [hw] at h
    rcases List.mem_cons.1 h with h | h
    · subst h
      exact ⟨⟨k, late, counts, w.2.1, w.2.2, o.flags⟩, by simp [hk], rfl, rfl, rfl, rfl⟩
    · refine ⟨⟨k, late, false, w.2.1, w.2.2, 0⟩, List.mem_append_right _ ?_, rfl, rfl, rfl, rfl⟩
      simp only [List.mem_filterMap, Option.map_eq_some_iff]
      exact ⟨w, h, k, hk, rfl⟩

theorem mem_lanePuts {s : State} {late counts : Bool} {compute : Nat → Except Nat LaneOut} {lanes : List Nat} {p : Put}
    (h : p ∈ lanePuts s late counts compute lanes) :
    ∃ l ∈ lanes, ∃ o, compute l = .ok o ∧ ∃ w ∈ o.writes, s.srcKey l w.1 = some p.key ∧ p.late = late ∧ p.tag = w.2.1 ∧ p.val = w.2.2 := by
  simp only [lanePuts, List.mem_flatMap] at h
  obtain ⟨l, hl, h⟩ := h
  cases hc : compute l with
  | error e => simp [hc] at h
  | ok o =>
    rw [hc] at h
    exact ⟨l, hl, o, hc, mem_outPuts h⟩

theorem flags_outPuts (s : State) (l : Nat) (o : LaneOut) (a : Word)
    (hne : ∃ d t v rest k, o.writes = (d, t, v) :: rest ∧ s.srcKey l d = some k) :
    (outPuts s l false true o).foldl (fun a w => if w.late then a else a ||| (if w.counts then w.flags else 0)) a = a ||| o.flags := by
  obtain ⟨d, t, v, rest, k, hw, hk⟩ := hne
  have hz : ∀ (ws : List (Src × Tag × Word)) (b : Word),
      (ws.filterMap (fun w => (s.srcKey l w.1).map (fun k => (⟨k, false, false, w.2.1, w.2.2, 0⟩ : Put)))).foldl
        (fun a w => if w.late then a else a ||| (if w.counts then w.flags else 0)) b = b := by
    intro ws
    induction ws with
    | nil => exact fun _ => rfl
    | cons w t ih =>
      intro b
      rw [List.filterMap_cons]
      cases s.srcKey l w.1 with
      | none => exact ih b
      | some k => exact (ih _).trans (by simp)
  simp only [outPuts, hw, hk, List.singleton_append, List.foldl_cons]
  exact (hz rest _).trans (by simp)

theorem foldl_late (ws : List Put) (h : ∀ w ∈ ws, w.late = true) (a : Word) :
    ws.foldl (fun a w => if w.late then a else a ||| (if w.counts then w.flags else 0)) a = a := by
  induction ws generalizing a with
  | nil => rfl
  | cons w t ih =>
    rw [List.foldl_cons, if_pos (h w (List.mem_cons_self ..))]
    exact ih (fun x hx => h x (List.mem_cons_of_mem _ hx)) a

theorem foldl_uncounted (ws : List Put) (h : ∀ w ∈ ws, w.counts = false) (a : Word) :
    ws.foldl (fun a w => if w.late then a else a ||| (if w.counts then w.flags else 0)) a = a := by
  induction ws generalizing a with
  | nil => rfl
  | cons w t ih =>
    rw [List.foldl_cons, h w (List.mem_cons_self ..)]
    simpa using ih (fun x hx => h x (List.mem_cons_of_mem _ hx)) a

theorem counts_lanePuts (s : State) (late : Bool) (compute : Nat → Except Nat LaneOut) (lanes : List Nat) :
    ∀ p ∈ lanePuts s late false compute lanes, p.counts = false := by
  intro p hp
  simp only [lanePuts, List.mem_flatMap] at hp
  obtain ⟨l, _, h⟩ := hp
  split at h
  · unfold outPuts at h
    split at h
    · simp at h
    · rcases List.mem_append.1 h with h | h
      · split at h <;> simp at h
        rw [h]
      · simp only [List.mem_filterMap, Option.map_eq_some_iff] at h
        obtain ⟨_, _, _, _, rfl⟩ := h
        rfl
  · simp at h

/-- An instruction that is one use of `runLanes` does what its computation says, where every write of a register agrees. -/
theorem computesMany_of_runLanes (i : Instr) (f : Form) (srcs : State → List Src) (opnds : State → List Opnd) (dsts : List Src) (late : Bool)
    (pre : State → Prop) (compute : State → Nat → Except Nat LaneOut) (ho : ∀ s, ∀ o ∈ opnds s, o.src ∈ srcs s)
    (hx : ∀ s, pre s → Readable s f (srcs s) dsts → (∀ l ∈ s.execLanes f, ∃ o, compute s l = .ok o) →
      exec i s = s.runLanes f (opnds s) dsts late (compute s))
    (hne : ∀ s l o, compute s l = .ok o → ∃ d t v rest k, o.writes = (d, t, v) :: rest ∧ s.srcKey l d = some k)
    (agree : ∀ s, f.dUni = f.uniform → ∀ l ∈ allLanes s f, ∀ m ∈ allLanes s f, ∀ o p, compute s l = .ok o → compute s m = .ok p →
      ∀ x ∈ o.writes, ∀ y ∈ p.writes, ∀ k, s.srcKey l x.1 = some k → s.srcKey m y.1 = some k → x.2 = y.2) :
    ComputesMany i f srcs dsts late pre compute := by
  intro s hu hp hr hc
  have hn : ∀ l o, compute s l = .ok o → o.writes ≠ [] := fun l o h => by
    obtain ⟨d, t, v, rest, k, hw, _⟩ := hne s l o h
    rw [hw]; simp
  have hf : (s.execLanes f).findSome? (fun l => match compute s l with | .error e => some e | .ok _ => none) = none := by
    rw [List.findSome?_eq_none_iff]
    intro l hl
    obtain ⟨o, ho⟩ := hc l hl
    rw [ho]
  have hk : s.checkFull (s.trapSet f) (helperLanes s f) (opnds s) dsts = .ok s :=
    checkFull_ok _ _ _ _ _ hr.quiet (fun l hl o h => hr.srcs l hl _ (ho s o h)) hr.dsts
  let ws := lanePuts s late true (compute s) (s.execLanes f) ++ lanePuts s late false (compute s) (helperLanes s f)
  have hmem : ∀ p ∈ ws, ∃ l ∈ allLanes s f, ∃ o, compute s l = .ok o ∧ ∃ w ∈ o.writes,
      s.srcKey l w.1 = some p.key ∧ p.late = late ∧ p.tag = w.2.1 ∧ p.val = w.2.2 := by
    intro p hp
    rcases List.mem_append.1 hp with h | h
    · obtain ⟨l, hl, q⟩ := mem_lanePuts h
      exact ⟨l, List.mem_append_left _ hl, q⟩
    · obtain ⟨l, hl, q⟩ := mem_lanePuts h
      exact ⟨l, List.mem_append_right _ hl, q⟩
  have hd := delivers_putMany s ws
  have e1 := foldl_deliverOut s s rfl late true (compute s) hn (s.execLanes f)
  have e2 := foldl_deliverOut (putMany s (lanePuts s late true (compute s) (s.execLanes f))) s (delivers_putMany _ _).cur late false
    (compute s) hn (helperLanes s f)
  refine ⟨(putMany s ws).advance, ?_, onlyResults_advance hd, ?_, ?_, ?_⟩
  · rw [hx s hp hr hc, State.runLanes, State.runLanesBy]
    show (match (s.execLanes f).findSome? (fun l => match compute s l with | .error e => some e | .ok _ => none) with
      | some e => Host.Outcome.next (s.trapFormat (s.trapSet f) e)
      | none => match s.checkFull (s.trapSet f) (helperLanes s f) (opnds s) dsts with
      | .trapped t => Host.Outcome.next t | .blocked => .next s
      | .ok u => .next (State.advance ((helperLanes s f).foldl (fun t l => match compute s l with | .ok o => t.deliverOut l late false o | .error _ => t)
          ((s.execLanes f).foldl (fun t l => match compute s l with | .ok o => t.deliverOut l late true o | .error _ => t) u))) : Out) = _
    rw [hf]
    show (match s.checkFull (s.trapSet f) (helperLanes s f) (opnds s) dsts with
      | .trapped t => Host.Outcome.next t | .blocked => .next s
      | .ok u => .next (State.advance ((helperLanes s f).foldl (fun t l => match compute s l with | .ok o => t.deliverOut l late false o | .error _ => t)
          ((s.execLanes f).foldl (fun t l => match compute s l with | .ok o => t.deliverOut l late true o | .error _ => t) u))) : Out) = _
    rw [hk]
    show Host.Outcome.next _ = _
    rw [e1, e2, ← putMany_append]
  · intro l hl o ho w hw k hk'
    have hex : ∃ p ∈ ws, p.key = k ∧ p.late = late ∧ p.tag = w.2.1 ∧ p.val = w.2.2 := by
      rcases List.mem_append.1 hl with h | h
      · obtain ⟨p, hp, q⟩ := outPuts_mem (counts := true) (late := late) hw hk'
        exact ⟨p, List.mem_append_left _ (List.mem_flatMap.2 ⟨l, h, by rw [ho]; exact hp⟩), q⟩
      · obtain ⟨p, hp, q⟩ := outPuts_mem (counts := false) (late := late) hw hk'
        exact ⟨p, List.mem_append_right _ (List.mem_flatMap.2 ⟨l, h, by rw [ho]; exact hp⟩), q⟩
    obtain ⟨p, hp, q1, q2, q3, q4⟩ := hex
    have := wrote_putMany s s ws p hp (fun x hx' hkey => by
      obtain ⟨m, hm, o', ho', w', hw', hk2, l2, t2, v2⟩ := hmem x hx'
      have := agree s hu l hl m hm o o' ho ho' w hw w' hw' k hk' (by rw [hk2, hkey, q1])
      rw [l2, q2, t2, q3, v2, q4, this]
      exact ⟨rfl, rfl, rfl⟩) rfl rfl
    rw [q1, q2, q3, q4] at this
    unfold Wrote at this ⊢
    rw [reg_advance, show (putMany s ws).advance.fills = (putMany s ws).fills by rw [advance_frame]]
    exact this
  · intro k hk'
    rw [reg_advance]
    refine reg_putMany_other s ws k (fun p hp hkey => ?_)
    obtain ⟨l, hl, o, ho, w, hw, hk2, _⟩ := hmem p hp
    exact hk' l hl o ho w hw (by rw [hk2, hkey])
  · rw [curFlags_advance, curFlags_putMany]
    cases late with
    | true =>
      rw [if_pos rfl]
      exact foldl_late ws (fun p hp => by obtain ⟨_, _, _, _, _, _, _, h, _⟩ := hmem p hp; exact h) _
    | false =>
      simp only [Bool.false_eq_true, if_false]
      show List.foldl _ _ (_ ++ _) = _
      rw [List.foldl_append, foldl_uncounted _ (counts_lanePuts s false (compute s) (helperLanes s f))]
      have : ∀ (ls : List Nat) (a : Word), (lanePuts s false true (compute s) ls).foldl
          (fun a w => if w.late then a else a ||| (if w.counts then w.flags else 0)) a =
          ls.foldl (fun a l => match compute s l with | .ok o => a ||| o.flags | .error _ => a) a := by
        intro ls
        induction ls with
        | nil => exact fun _ => rfl
        | cons l t ih =>
          intro a
          rw [List.foldl_cons]
          cases h : compute s l with
          | error e => simpa [lanePuts, h] using ih a
          | ok o =>
            rw [show lanePuts s false true (compute s) (l :: t) = outPuts s l false true o ++ lanePuts s false true (compute s) t by
              simp [lanePuts, h], List.foldl_append, flags_outPuts s l o a (hne s l o h)]
            exact ih _
      exact this _ _

end Sys2Proof.Laws
end

