-- ==== Sys2Proof/Laws/Cross.lean ====
section
/-! SUPPORT. The cross-lane instructions: the one lemma about runCross. -/

namespace Sys2Proof.Laws

open Sys2Proof Sys2Proof.Machine

/-- The writes of one active lane and of the helper lanes it leads. -/
def crossPuts (s : State) (f : Form) (l : Nat) (v : LaneVal) : List Put :=
  ⟨s.dstKey f l, true, true, v.tag, v.bits, v.flags⟩ :: (s.followers l).map (fun h => ⟨s.dstKey f h, true, false, v.tag, v.bits, 0⟩)

theorem putWithFollowers_eq (t s : State) (f : Form) (l : Nat) (v : LaneVal) :
    t.putWithFollowers s f true l v = putMany t (crossPuts s f l v) := by
  simp only [State.putWithFollowers, putMany, crossPuts, List.foldl_cons, List.foldl_map]

theorem foldl_cross (t s : State) (f : Form) (value : Nat → LaneVal) (lanes : List Nat) :
    lanes.foldl (fun t l => t.putWithFollowers s f true l (value l)) t = putMany t (lanes.flatMap (fun l => crossPuts s f l (value l))) := by
  induction lanes generalizing t with
  | nil => rfl
  | cons l r ih => rw [List.foldl_cons, List.flatMap_cons, putMany_append, ← putWithFollowers_eq]; exact ih _

theorem mem_crossPuts {s : State} {f : Form} {value : Nat → LaneVal} {lanes : List Nat} {p : Put}
    (h : p ∈ lanes.flatMap (fun l => crossPuts s f l (value l))) :
    ∃ l ∈ lanes, ∃ m, (m = l ∨ m ∈ s.followers l) ∧ p.key = s.dstKey f m ∧ p.late = true ∧ p.tag = (value l).tag ∧ p.val = (value l).bits := by
  simp only [List.mem_flatMap, crossPuts, List.mem_cons, List.mem_map] at h
  obtain ⟨l, hl, rfl | ⟨m, hm, rfl⟩⟩ := h
  · exact ⟨l, hl, l, .inl rfl, rfl, rfl, rfl, rfl⟩
  · exact ⟨l, hl, m, .inr hm, rfl, rfl, rfl, rfl⟩

/-- A lane belongs to one active lane: itself, or the leader that it follows. -/
theorem owner_unique {s : State} (hb : Bundle s) {l l' m : Nat} (hl : l ∈ s.curLanes) (hl' : l' ∈ s.curLanes)
    (h : m = l ∨ m ∈ s.followers l) (h' : m = l' ∨ m ∈ s.followers l') : l = l' := by
  have dead : ∀ x, m ∈ s.followers x → (s.thread (s.curThread m)).live = false := by
    intro x hx
    simp only [State.followers, List.mem_filter, State.helpers] at hx
    split at hx
    · simp at hx
    · simp only [List.mem_filter, Bool.and_eq_true, Bool.not_eq_true'] at hx
      exact hx.1.2.1.1
  have lead : ∀ x, m ∈ s.followers x → s.leader m = some x := by
    intro x hx
    simpa [State.followers] using (List.mem_filter.1 hx).2
  rcases h with rfl | h <;> rcases h' with h' | h'
  · exact h'
  · exact absurd (hb.live _ hl) (by simp [dead _ h'])
  · subst h'; exact absurd (hb.live _ hl') (by simp [dead _ h])
  · exact Option.some.inj ((lead l h).symm.trans (lead l' h'))

/-- An instruction that is one use of `runCross` gives each active lane its value. -/
theorem crosses_of_runCross (i : Instr) (f : Form) (srcs : List Src) (opnds : List Opnd) (pre : State → Prop)
    (fault : State → Option Nat) (value : State → Nat → LaneVal) (ho : ∀ o ∈ opnds, o.src ∈ srcs)
    (hx : ∀ s, exec i s = s.runCross f opnds true (fault s) (value s)) (hf : ∀ s, pre s → fault s = none)
    (R : State → Nat → Tag → Word → Prop) (hR : ∀ s, pre s → ∀ l ∈ s.active f, R s l (value s l).tag (value s l).bits) :
    Crosses i f srcs pre R := by
  intro s hu hb hr hd' hp
  have hk : s.checkFull (s.active f) [] opnds [f.dstSrc] = .ok s :=
    checkFull_ok _ _ _ _ _ hr.quiet (fun l hl o h => hr.srcs l (by simpa using hl) _ (ho o h)) (fun l hl => hr.dsts l (by simpa using hl))
  let ws := (s.active f).flatMap (fun l => crossPuts s f l (value s l))
  have hd := delivers_putMany s ws
  have hkey : ∀ m, s.dstKey f m = s.laneKey m f.d := by intro m; simp [State.dstKey, hu]
  have act : ∀ l ∈ s.active f, l ∈ s.curLanes := fun l hl => (List.mem_filter.1 hl).1
  refine ⟨(putMany s ws).advance, ?_, onlyResults_advance hd, fun l => ((value s l).tag, (value s l).bits), fun l hl => hR s hp l hl, ?_, ?_, ?_⟩
  · rw [hx, hf s hp]
    show (match s.checkFull (s.active f) [] opnds [f.dstSrc] with
      | .trapped t => Host.Outcome.next t
      | .blocked => .next s
      | .ok u => if ((s.active f).flatMap u.followers).any (fun l => u.isEmpty l f.dstSrc) then .next u
        else .next ((s.active f).foldl (fun t l => t.putWithFollowers u f true l (value s l)) u).advance : Out) = _
    rw [hk]
    have : ((s.active f).flatMap s.followers).any (fun l => s.isEmpty l f.dstSrc) = false := by
      rw [List.any_eq_false]
      intro m hm
      obtain ⟨l, hl, h⟩ := List.mem_flatMap.1 hm
      simp [hd' l hl m h]
    simp only [this, Bool.false_eq_true, if_false]
    rw [foldl_cross]
  · intro l hl m hm
    have hex : ∃ p ∈ ws, p.key = s.dstKey f m ∧ p.late = true ∧ p.tag = (value s l).tag ∧ p.val = (value s l).bits := by
      rcases hm with rfl | hm
      · exact ⟨_, List.mem_flatMap.2 ⟨m, hl, List.mem_cons_self ..⟩, rfl, rfl, rfl, rfl⟩
      · exact ⟨_, List.mem_flatMap.2 ⟨l, hl, List.mem_cons_of_mem _ (List.mem_map_of_mem hm)⟩, rfl, rfl, rfl, rfl⟩
    obtain ⟨p, hpm, q1, q2, q3, q4⟩ := hex
    have := wrote_putMany s s ws p hpm (fun x hx' hkx => by
      obtain ⟨l', hl', m', hm', k', a, b, c⟩ := mem_crossPuts hx'
      have hmm : m' = m := by
        have := (k'.symm.trans hkx).trans q1
        rw [hkey, hkey] at this
        exact (RegKey.v.inj this).2.2.1
      subst hmm
      have := owner_unique hb (act _ hl) (act _ hl') hm hm'
      subst this
      exact ⟨a.trans q2.symm, b.trans q3.symm, c.trans q4.symm⟩) rfl rfl
    rw [q1, q2, q3, q4, hkey] at this
    unfold Wrote at this ⊢
    rw [reg_advance, show (putMany s ws).advance.fills = (putMany s ws).fills by rw [advance_frame]]
    exact this
  · intro k hk'
    rw [reg_advance]
    refine reg_putMany_other s ws k (fun p hpm hkx => ?_)
    obtain ⟨l, hl, m, hm, k', _⟩ := mem_crossPuts hpm
    exact hk' l hl m hm (by rw [hkx, k', hkey])
  · rw [curFlags_advance, curFlags_putMany]
    exact foldl_late ws (fun p hpm => by obtain ⟨_, _, _, _, _, h, _⟩ := mem_crossPuts hpm; exact h) _

end Sys2Proof.Laws
end

