-- ==== Sys2Proof/Laws/Elements.lean ====
section
/-! SUPPORT. Elements of registers: an element of a register made of elements is that element. -/

namespace Sys2Proof.Laws

open Sys2Proof Sys2Proof.Machine

/-- The number that elements make. -/
def joined (w : Nat) (els : List Nat) : Nat := els.foldr (fun e acc => e % 2 ^ w + 2 ^ w * acc) 0

theorem joined_lt (w : Nat) (els : List Nat) : joined w els < 2 ^ (w * els.length) := by
  induction els with
  | nil => simp [joined]
  | cons e t ih =>
    show e % 2 ^ w + 2 ^ w * joined w t < _
    have h1 : e % 2 ^ w < 2 ^ w := Nat.mod_lt _ (Nat.two_pow_pos w)
    have h2 : 2 ^ (w * (e :: t).length) = 2 ^ w * 2 ^ (w * t.length) := by rw [← Nat.pow_add, List.length_cons]; congr 1; ring
    rw [h2]
    calc e % 2 ^ w + 2 ^ w * joined w t < 2 ^ w + 2 ^ w * joined w t := by omega
      _ = 2 ^ w * (joined w t + 1) := by ring
      _ ≤ 2 ^ w * 2 ^ (w * t.length) := Nat.mul_le_mul_left _ ih

theorem joined_elem (w : Nat) (els : List Nat) (j : Nat) (h : j < els.length) :
    joined w els / 2 ^ (w * j) % 2 ^ w = els.getD j 0 % 2 ^ w := by
  induction els generalizing j with
  | nil => simp at h
  | cons e t ih =>
    show (e % 2 ^ w + 2 ^ w * joined w t) / 2 ^ (w * j) % 2 ^ w = _
    have hp : 0 < 2 ^ w := Nat.two_pow_pos w
    cases j with
    | zero => simp
    | succ j =>
      have h2 : 2 ^ (w * (j + 1)) = 2 ^ w * 2 ^ (w * j) := by rw [← Nat.pow_add]; congr 1; ring
      rw [h2, ← Nat.div_div_eq_div_mul, Nat.add_mul_div_left _ _ hp, Nat.div_eq_of_lt (Nat.mod_lt _ hp), Nat.zero_add,
        ih j (by simpa using h)]
      simp

theorem elemAt_ofElems (w : Nat) (els : List Nat) (j : Nat) (hl : w * els.length ≤ 64) (h : j < els.length) :
    elemAt w (ofElems w els) j = els.getD j 0 % 2 ^ w := by
  have hlt : joined w els < 2 ^ 64 := lt_of_lt_of_le (joined_lt w els) (Nat.pow_le_pow_right (by decide) hl)
  show (BitVec.ofNat 64 (joined w els)).toNat / 2 ^ (w * j) % 2 ^ w = _
  rw [BitVec.toNat_ofNat, Nat.mod_eq_of_lt hlt, joined_elem w els j h]

theorem elemAt_lt (w : Nat) (x : Word) (j : Nat) : elemAt w x j < 2 ^ w := Nat.mod_lt _ (Nat.two_pow_pos w)

theorem elemAt_mod (w : Nat) (x : Word) (j : Nat) : elemAt w x j % 2 ^ w = elemAt w x j := Nat.mod_eq_of_lt (elemAt_lt w x j)

theorem range_getD (n : Nat) (f : Nat → Nat) (j : Nat) (h : j < n) : ((List.range n).map f).getD j 0 = f j := by
  simp [List.getD_eq_getElem?_getD, h]

/-- An element of a register made from a function of the index. -/
theorem elemAt_build (w : Nat) (f : Nat → Nat) (j : Nat) (h : j < 64 / w) :
    elemAt w (ofElems w ((List.range (64 / w)).map f)) j = f j % 2 ^ w := by
  rw [elemAt_ofElems _ _ _ (by simpa using Nat.mul_div_le 64 w) (by simpa using h), range_getD _ _ _ h]

theorem elemAt_mapElems (w : Nat) (f : Nat → Nat) (x : Word) (j : Nat) (h : j < 64 / w) :
    elemAt w (mapElems w f x) j = f (elemAt w x j) % 2 ^ w := elemAt_build w _ j h

theorem elemAt_zipElems (w : Nat) (f : Nat → Nat → Nat) (x y : Word) (j : Nat) (h : j < 64 / w) :
    elemAt w (zipElems w f x y) j = f (elemAt w x j) (elemAt w y j) % 2 ^ w := elemAt_build w _ j h

theorem elemAt_zip3Elems (w : Nat) (f : Nat → Nat → Nat → Nat) (x y z : Word) (j : Nat) (h : j < 64 / w) :
    elemAt w (zip3Elems w f x y z) j = f (elemAt w x j) (elemAt w y j) (elemAt w z j) % 2 ^ w := elemAt_build w _ j h

/-! ## Elementwise integer instructions -/

theorem int1_of_runAlu (i : Instr) (f : Form) (g r : Nat → Nat → Nat) (hx : ∀ s, exec i s = s.runAlu f (alu1 g))
    (h : ∀ n a, a < 2 ^ n → g n a % 2 ^ n = r n a) : Int1 i f r :=
  computes_of_runAlu i f (alu1 g) hx _ (fun _ _ _ _ =>
    ⟨rfl, fun _ hj => (elemAt_mapElems _ _ _ _ hj).trans (h _ _ (elemAt_lt _ _ _))⟩)

theorem int2_of_runAlu (i : Instr) (f : Form) (g r : Nat → Nat → Nat → Nat) (hx : ∀ s, exec i s = s.runAlu f (alu2 g))
    (h : ∀ n a b, a < 2 ^ n → b < 2 ^ n → g n a b % 2 ^ n = r n a b) : Int2 i f r :=
  computes_of_runAlu i f (alu2 g) hx _ (fun _ _ _ _ =>
    ⟨rfl, fun _ hj => (elemAt_zipElems _ _ _ _ _ hj).trans (h _ _ _ (elemAt_lt _ _ _) (elemAt_lt _ _ _))⟩)

end Sys2Proof.Laws
end

