-- ==== Sys2Proof/Laws/Memory.lean ====
section
/-! SUPPORT. Memory: reading after writing, and that every operation on it keeps its canonical form. -/

namespace Sys2Proof.Laws

open Sys2Proof Sys2Proof.Machine

/-! ## The byte list -/

theorem wfFrom_mono {lo hi : Nat} (m : List Host.Cell) (h : lo ≤ hi) (w : Memory.wfFrom hi m = true) : Memory.wfFrom lo m = true := by
  cases m with
  | nil => rfl
  | cons e t =>
    obtain ⟨a, v⟩ := e
    simp only [Memory.wfFrom, Bool.and_eq_true, decide_eq_true_eq] at w ⊢
    exact ⟨⟨by omega, w.1.2⟩, w.2⟩

/-- Below its first address a canonical list has nothing. -/
theorem memGet_below {lo : Nat} (m : List Host.Cell) {a : Nat} (w : Memory.wfFrom lo m = true) (h : a < lo) : memGet m a = unlistedByte := by
  induction m generalizing lo with
  | nil => rfl
  | cons e t ih =>
    obtain ⟨b, v⟩ := e
    simp only [Memory.wfFrom, Bool.and_eq_true, decide_eq_true_eq] at w
    have : b ≠ a := by omega
    simp [memGet, this, ih w.2 (by omega)]

theorem wfFrom_memSet {lo : Nat} (m : List Host.Cell) (a : Nat) (v : Byte) (w : Memory.wfFrom lo m = true) (h : lo ≤ a) :
    Memory.wfFrom lo (memSet m a v) = true := by
  induction m generalizing lo with
  | nil => by_cases hv : v = unlistedByte <;> simp [memSet, hv, Memory.wfFrom, h]
  | cons e t ih =>
    obtain ⟨b, x⟩ := e
    simp only [Memory.wfFrom, Bool.and_eq_true, decide_eq_true_eq] at w
    unfold memSet
    split
    · split
      · simp [Memory.wfFrom, w]
      · simp [Memory.wfFrom, *]
    · split
      · split
        · exact wfFrom_mono t (by omega) w.2
        · rename_i h1 h2 h3
          subst h2
          simp [Memory.wfFrom, w, h3]
      · simp only [Memory.wfFrom, Bool.and_eq_true, decide_eq_true_eq]
        exact ⟨w.1, ih w.2 (by omega)⟩

/-- A byte read after a byte written. -/
theorem memGet_memSet {lo : Nat} (m : List Host.Cell) (a b : Nat) (v : Byte) (w : Memory.wfFrom lo m = true) :
    memGet (memSet m a v) b = if b = a then v else memGet m b := by
  induction m generalizing lo with
  | nil =>
    by_cases hv : v = unlistedByte <;> by_cases hb : b = a <;> simp [memSet, memGet, hv, hb]
    exact fun h => absurd h.symm hb
  | cons e t ih =>
    obtain ⟨c, x⟩ := e
    simp only [Memory.wfFrom, Bool.and_eq_true, decide_eq_true_eq] at w
    unfold memSet
    by_cases h1 : a < c
    · by_cases hv : v = unlistedByte
      · simp only [h1, hv, if_true]
        by_cases hb : b = a
        · subst hb
          have : c ≠ b := by omega
          simp [memGet, this, memGet_below t w.2 (show b < c + 1 by omega)]
        · simp [hb]
      · simp only [h1, hv, if_true, if_false, memGet]
        by_cases hb : b = a
        · subst hb; simp
        · have : a ≠ b := fun h => hb h.symm
          simp [hb, this]
    · by_cases h2 : a = c
      · subst h2
        by_cases hv : v = unlistedByte
        · simp only [h1, hv, if_true, if_false]
          by_cases hb : b = a
          · subst hb; simp [memGet_below t w.2 (show b < b + 1 by omega)]
          · have : a ≠ b := fun h => hb h.symm
            simp [memGet, hb, this]
        · simp only [h1, hv, if_false, if_true, memGet]
          by_cases hb : b = a
          · subst hb; simp
          · have : a ≠ b := fun h => hb h.symm
            simp [hb, this]
      · simp only [h1, h2, if_false, memGet]
        by_cases hc : c = b
        · subst hc; simp [show c ≠ a by omega]
        · simp [hc, ih w.2]

theorem wf_memSet (m : List Host.Cell) (a : Nat) (v : Byte) (w : Memory.wf m = true) : Memory.wf (memSet m a v) = true :=
  wfFrom_memSet m a v w (Nat.zero_le a)

theorem wf_memSetMany (m : List Host.Cell) (a : Nat) (bs : List Byte) (w : Memory.wf m = true) : Memory.wf (memSetMany m a bs) = true := by
  induction bs generalizing m a with
  | nil => exact w
  | cons b t ih => exact ih _ _ (wf_memSet m a b w)

/-- A byte outside a run of written bytes reads as before. -/
theorem memGet_memSetMany_outside (m : List Host.Cell) (a : Nat) (bs : List Byte) (b : Nat) (w : Memory.wf m = true)
    (h : b < a ∨ a + bs.length ≤ b) : memGet (memSetMany m a bs) b = memGet m b := by
  induction bs generalizing m a with
  | nil => rfl
  | cons x t ih =>
    simp only [List.length_cons] at h
    rw [memSetMany, ih _ _ (wf_memSet m a x w) (by omega), memGet_memSet m a b x w]
    simp [show b ≠ a by omega]

/-- A byte inside a run of written bytes reads as written. -/
theorem memGet_memSetMany_inside (m : List Host.Cell) (a : Nat) (bs : List Byte) (i : Nat) (w : Memory.wf m = true)
    (h : i < bs.length) : memGet (memSetMany m a bs) (a + i) = bs.getD i 0 := by
  induction bs generalizing m a i with
  | nil => simp at h
  | cons x t ih =>
    cases i with
    | zero =>
      rw [memSetMany, memGet_memSetMany_outside _ _ _ _ (wf_memSet m a x w) (by omega), memGet_memSet m a _ x w]
      simp
    | succ i =>
      simp only [List.length_cons] at h
      have := ih (memSet m a x) (a + 1) i (wf_memSet m a x w) (by omega)
      rw [memSetMany, show a + (i + 1) = a + 1 + i by omega, this]
      simp

theorem wfFrom_filter {lo : Nat} (m : List Host.Cell) (p : Host.Cell → Bool) (w : Memory.wfFrom lo m = true) :
    Memory.wfFrom lo (m.filter p) = true := by
  induction m generalizing lo with
  | nil => rfl
  | cons e t ih =>
    obtain ⟨a, v⟩ := e
    simp only [Memory.wfFrom, Bool.and_eq_true, decide_eq_true_eq] at w
    by_cases hp : p (a, v) = true
    · simp [hp, Memory.wfFrom, w, ih w.2]
    · simpa [hp] using wfFrom_mono _ (by omega) (ih w.2)

theorem wf_filter (m : List Host.Cell) (p : Host.Cell → Bool) (w : Memory.wf m = true) : Memory.wf (m.filter p) = true :=
  wfFrom_filter m p w

theorem wf_foldl_memSet (l : List Host.Cell) (g : Host.Cell → Nat) (m : List Host.Cell) (w : Memory.wf m = true) :
    Memory.wf (l.foldl (fun m e => memSet m (g e) e.2) m) = true := by
  induction l generalizing m with
  | nil => exact w
  | cons e t ih => exact ih _ (wf_memSet m _ _ w)

/-! ## The operations of the state -/

theorem reset_wf : Memory.wf State.reset.mem = true := rfl

theorem wf_writeWhole (s : State) (who : Party) (a : Nat) (bs : List Byte) (w : Memory.wf s.mem = true) :
    Memory.wf (s.writeWhole who a bs).mem = true := wf_memSetMany _ _ _ w

theorem wf_writeFuel (s : State) (who : Party) (a : Nat) (bs : List Byte) (n : Nat) (w : Memory.wf s.mem = true) :
    Memory.wf (s.writeFuel who a bs n).mem = true := by
  induction n generalizing s a bs with
  | zero => exact w
  | succ n ih =>
    cases bs with
    | nil => exact w
    | cons b t => exact ih _ _ _ (wf_writeWhole s who a _ w)

theorem wf_write (s : State) (who : Party) (a : Nat) (bs : List Byte) (w : Memory.wf s.mem = true) :
    Memory.wf (s.write who a bs).mem = true := wf_writeFuel s who a bs _ w

theorem wf_writeOwn (s : State) (a : Nat) (bs : List Byte) (w : Memory.wf s.mem = true) :
    Memory.wf (s.writeOwn a bs).mem = true := wf_memSetMany _ _ _ w

theorem wf_writePublished (s : State) (who : Party) (a : Nat) (bs : List Byte) (w : Memory.wf s.mem = true) :
    Memory.wf (s.writePublished who a bs).mem = true := wf_write s who a bs w

theorem wf_renew (s : State) (a : Nat) (bs : List Byte) (w : Memory.wf s.mem = true) :
    Memory.wf (s.renew a bs).mem = true := wf_memSetMany _ _ _ w

theorem wf_clearRange (s : State) (a n : Nat) (w : Memory.wf s.mem = true) : Memory.wf (s.clearRange a n).mem = true :=
  wf_filter _ _ w

theorem wf_copyRange (s : State) (src dst n : Nat) (w : Memory.wf s.mem = true) :
    Memory.wf (s.copyRange src dst n).mem = true := wf_foldl_memSet _ _ _ (wf_filter _ _ w)

theorem wf_moveRange (s : State) (src dst n : Nat) (w : Memory.wf s.mem = true) :
    Memory.wf (s.moveRange src dst n).mem = true := wf_foldl_memSet _ _ _ (wf_filter _ _ w)

@[simp] theorem mem_pub (s : State) (x : Scope) (p : Place) : (s.pub x p).mem = s.mem := rfl
@[simp] theorem mem_pull (s : State) (y : Scope) (q : Place) : (s.pull y q).mem = s.mem := rfl
@[simp] theorem mem_learn (s : State) (a b : Party) : (s.learn a b).mem = s.mem := rfl
@[simp] theorem mem_addPoison (s : State) (a n : Nat) : (s.addPoison a n).mem = s.mem := rfl

/-- A load changes no byte. -/
@[simp] theorem mem_readWhole (s : State) (who : Party) (a n : Nat) : (s.readWhole who a n).2.mem = s.mem := by
  unfold State.readWhole
  split
  · rfl
  · dsimp only
    split <;> rfl

@[simp] theorem mem_readFuel (s : State) (who : Party) (a n k : Nat) : (s.readFuel who a n k).2.mem = s.mem := by
  induction k generalizing s a n with
  | zero => rfl
  | succ k ih =>
    unfold State.readFuel
    split
    · rfl
    · simp [ih]

@[simp] theorem mem_read (s : State) (who : Party) (a n : Nat) : (s.read who a n).2.mem = s.mem := mem_readFuel s who a n n

/-- A byte outside a write reads as before. -/
theorem byteAt_writeFuel_outside (s : State) (who : Party) (a : Nat) (bs : List Byte) (n b : Nat) (w : Memory.wf s.mem = true)
    (h : b < a ∨ a + bs.length ≤ b) : (s.writeFuel who a bs n).byteAt b = s.byteAt b := by
  induction n generalizing s a bs with
  | zero => rfl
  | succ n ih =>
    cases bs with
    | nil => rfl
    | cons x t =>
      have hl : headLen a (x :: t).length ≤ (x :: t).length := Nat.min_le_left _ _
      show ((s.writeWhole who a _).writeFuel who _ _ n).byteAt b = _
      rw [ih _ _ _ (wf_writeWhole s who a _ w) (by rw [List.length_drop]; omega)]
      exact memGet_memSetMany_outside _ _ _ _ w (by rw [List.length_take]; omega)

theorem byteAt_write_outside (s : State) (who : Party) (a : Nat) (bs : List Byte) (b : Nat) (w : Memory.wf s.mem = true)
    (h : b < a ∨ a + bs.length ≤ b) : (s.write who a bs).byteAt b = s.byteAt b :=
  byteAt_writeFuel_outside s who a bs _ b w h

end Sys2Proof.Laws
end

