-- ==== Sys2Proof/Laws/Preds.lean ====
section
/-! SUPPORT. Instructions that write a predicate in each lane: the one lemma about runPred. -/

namespace Sys2Proof.Laws

open Sys2Proof Sys2Proof.Machine

/-- What writing predicates and flags may do. -/
structure Marks (s t : State) : Prop where
  frame : t = { s with regs := t.regs, threads := t.threads, groups := t.groups, helms := t.helms }
  flags : FlagsOnly s t

theorem Marks.cur {s t : State} (h : Marks s t) : t.cur = s.cur := by rw [h.frame]

theorem Marks.refl (s : State) : Marks s s := ⟨rfl, .refl s⟩

theorem Marks.trans {s t u : State} (h : Marks s t) (k : Marks t u) : Marks s u := by
  refine ⟨?_, ?_⟩
  · have h1 := h.frame
    have h2 := k.frame
    rw [h1] at h2
    exact h2
  · have h1 := h.flags
    have h2 := k.flags
    unfold FlagsOnly at *
    rw [curHelm_congr h.cur, curGroup_congr h.cur] at h2
    by_cases hh : s.curHelm = true
    · rw [if_pos hh] at h1 h2 ⊢
      refine ⟨h2.1.trans h1.1, fun w => ?_⟩
      have a := h1.2 w
      have b := h2.2 w
      split <;> rename_i hw
      · rw [if_pos hw] at a b
        rw [b, a]
      · rw [if_neg hw] at a b
        rw [b, a]
    · rw [if_neg hh] at h1 h2 ⊢
      refine ⟨h2.1.trans h1.1, fun w => ?_⟩
      have a := h1.2 w
      have b := h2.2 w
      split <;> rename_i hw
      · rw [if_pos hw] at a b
        rw [b, a]
      · rw [if_neg hw] at a b
        rw [b, a]

theorem marks_orFlags (s : State) (x : Word) : Marks s (s.orFlags x) := by
  refine ⟨?_, (delivers_orFlags s x).flags⟩
  unfold State.orFlags
  split
  · rfl
  · split <;> rfl

theorem marks_putPred (s : State) (u : Bool) (l n : Nat) (v : Bool) : Marks s (s.putPred u l n v) := by
  unfold State.putPred
  split
  · exact ⟨rfl, FlagsOnly.refl s⟩
  · exact ⟨rfl, FlagsOnly.refl s⟩

@[simp] theorem threads_orFlags (s : State) (x : Word) : (s.orFlags x).threads = s.threads := (delivers_orFlags s x).threads

theorem curFlags_putPred (s : State) (u : Bool) (l n : Nat) (v : Bool) : curFlags (s.putPred u l n v) = curFlags s := by
  unfold State.putPred
  split <;> rfl

theorem reg_putReg (s : State) (k j : RegKey) (g : Tag) (v : Word) :
    (s.putReg k g v).reg j = if j = k then { bits := v, tag := g, full := true } else s.reg j := getD_set _ _ _ _ _

/-- One predicate and its flags written. -/
def putTest (u : Bool) (n : Nat) (out : Nat → Bool × Word) (counts : Bool) (t : State) (l : Nat) : State :=
  (t.putPred u l n (out l).1).orFlags (if counts then (out l).2 else 0)

theorem marks_foldl (u : Bool) (n : Nat) (out : Nat → Bool × Word) (counts : Bool) (lanes : List Nat) (s : State) :
    Marks s (lanes.foldl (putTest u n out counts) s) := by
  induction lanes generalizing s with
  | nil => exact .refl s
  | cons l t ih => exact ((marks_putPred s u l n _).trans (marks_orFlags _ _)).trans (ih _)

theorem curFlags_tests (u : Bool) (n : Nat) (out : Nat → Bool × Word) (counts : Bool) (lanes : List Nat) (s : State) :
    curFlags (lanes.foldl (putTest u n out counts) s) = lanes.foldl (fun a l => a ||| (if counts then (out l).2 else 0)) (curFlags s) := by
  induction lanes generalizing s with
  | nil => rfl
  | cons l t ih => exact (ih _).trans (by rw [putTest, curFlags_orFlags, curFlags_putPred]; rfl)

theorem foldl_or_zero (lanes : List Nat) (a : Word) : lanes.foldl (fun a _ => a ||| (0 : Word)) a = a := by
  induction lanes generalizing a with
  | nil => rfl
  | cons l t ih => exact (ih _).trans (BitVec.or_zero ..)

theorem setK_setK (t : Thread) (n : Nat) (v : Bool) : (t.setK n v).setK n v = t.setK n v := by
  unfold Thread.setK
  split
  · rfl
  · cases v <;> simp [BitVec.and_assoc, BitVec.or_assoc]

/-- Predicates of lanes written. -/
theorem tests_thread (n : Nat) (out : Nat → Bool × Word) (counts : Bool) (lanes : List Nat) (s : State) (id : ThreadId) :
    (lanes.foldl (putTest false n out counts) s).thread id =
      if id.wg = s.curGroup.wg ∧ id.grp = s.curGroup.grp ∧ id.lane ∈ lanes then (s.thread id).setK n (out id.lane).1 else s.thread id := by
  induction lanes generalizing s with
  | nil => simp
  | cons l t ih =>
    have hc : (putTest false n out counts s l).cur = s.cur := ((marks_putPred s false l n _).trans (marks_orFlags _ _)).cur
    rw [List.foldl_cons, ih, curGroup_congr hc]
    have ht : ∀ j, (putTest false n out counts s l).thread j =
        if j = s.curThread l then (s.thread (s.curThread l)).setK n (out l).1 else s.thread j := by
      intro j
      show FMap.getD (putTest false n out counts s l).threads j _ = _
      simp only [putTest, threads_orFlags, State.putPred, Bool.false_eq_true, if_false, setThread_threads]
      exact getD_set _ _ _ _ _
    obtain ⟨a, b, c⟩ := id
    rw [ht]
    by_cases h1 : a = s.curGroup.wg <;> by_cases h2 : b = s.curGroup.grp <;> by_cases h3 : c = l <;> by_cases h4 : c ∈ t <;>
      simp_all [State.curThread, setK_setK]

theorem tests_reg_lane (n : Nat) (out : Nat → Bool × Word) (counts : Bool) (lanes : List Nat) (s : State) (k : RegKey) :
    (lanes.foldl (putTest false n out counts) s).reg k = s.reg k := by
  induction lanes generalizing s with
  | nil => rfl
  | cons l t ih => exact (ih _).trans (by rw [putTest, reg_orFlags]; rfl)

theorem movedTo_setK (pc : Word) (t : Thread) (n : Nat) (v : Bool) : movedTo pc (t.setK n v) = (movedTo pc t).setK n v := by
  unfold Thread.setK movedTo
  split <;> rfl

theorem thread_congr {s t : State} (h : t.threads = s.threads) (id : ThreadId) : t.thread id = s.thread id := by
  simp only [State.thread, h]

/-- An instruction that is one use of `runPred` tests what its operation tests. -/
theorem tests_of_runPred (i : Instr) (f : Form) (op : Pred) (hx : ∀ s, exec i s = s.runPred f op)
    (R : List Tag → List Word → Bool × Word → Prop) (hR : ∀ tags vs, R tags vs (op.eval tags vs)) :
    Tests i f op.arity op.check op.immVal R := by
  intro s hr hc
  let out : Nat → Bool × Word := fun l => op.eval (s.srcTags f op.arity l) (srcVals s f op.arity op.immVal l)
  have hok : ∀ l, op.check (s.srcTags f op.arity l) = .ok () → s.predResult f op l = .ok (out l) := by
    intro l h
    simp only [State.predResult, h]
    rfl
  have hbad : ∀ l e, op.check (s.srcTags f op.arity l) = .error e → s.predResult f op l = .error e := by
    intro l e h
    simp only [State.predResult, h]
  have hput : ∀ (counts : Bool) (lanes : List Nat) (u : State), lanes.foldl (fun t l => match s.predResult f op l with
      | .ok r => (t.putPred f.uniform l f.d r.1).orFlags (if counts then r.2 else 0) | .error _ => t) u =
      (lanes.filter (fun l => (op.check (s.srcTags f op.arity l)).isOk)).foldl (putTest f.uniform f.d out counts) u := by
    intro counts lanes
    induction lanes with
    | nil => exact fun _ => rfl
    | cons l t ih =>
      intro u
      rw [List.foldl_cons, List.filter_cons]
      cases h : op.check (s.srcTags f op.arity l) with
      | error e => rw [hbad l e h]; simpa [Except.isOk, Except.toBool] using ih u
      | ok x => rw [hok l h]; simpa [Except.isOk, Except.toBool, putTest] using ih _
  have hexec : (s.execLanes f).filter (fun l => (op.check (s.srcTags f op.arity l)).isOk) = s.execLanes f := by
    rw [List.filter_eq_self]
    intro l hl
    rw [hc l hl]
    rfl
  have hf : (s.execLanes f).findSome? (fun l => match s.predResult f op l with | .error e => some e | .ok _ => none) = none := by
    rw [List.findSome?_eq_none_iff]
    intro l hl
    rw [hok l (hc l hl)]
  have hk : s.checkFull (s.trapSet f) (helperLanes s f) (f.srcs op.arity) (if f.uniform then [.uni f.d false] else []) = .ok s :=
    checkFull_ok _ _ _ _ _ hr.quiet (fun l hl o ho => hr.srcs l hl _ (List.mem_map_of_mem ho)) hr.dsts
  let others := (helperLanes s f).filter (fun l => (op.check (s.srcTags f op.arity l)).isOk)
  let mid := (s.execLanes f).foldl (putTest f.uniform f.d out true) s
  let u := others.foldl (putTest f.uniform f.d out false) mid
  have m1 : Marks s mid := marks_foldl _ _ _ _ _ _
  have m2 : Marks s u := m1.trans (marks_foldl _ _ _ _ _ _)
  have hlanes : (allLanes s f).filter (fun l => (op.check (s.srcTags f op.arity l)).isOk) = s.execLanes f ++ others := by
    rw [allLanes, List.filter_append, hexec]
  refine ⟨u.advance, ?_, out, fun l => hR _ _, ?_, onlyFlags_advance m2.cur m2.flags, ?_, ?_, ?_⟩
  · rw [hx, State.runPred]
    show (match (s.execLanes f).findSome? (fun l => match s.predResult f op l with | .error e => some e | .ok _ => none) with
      | some e => Host.Outcome.next (s.trapFormat (s.trapSet f) e)
      | none => match s.checkFull (s.trapSet f) (helperLanes s f) (f.srcs op.arity) (if f.uniform then [.uni f.d false] else []) with
        | .trapped t => .next t
        | .blocked => .next s
        | .ok u => .next (State.advance ((helperLanes s f).foldl (fun t l => match u.predResult f op l with
            | .ok r => (t.putPred f.uniform l f.d r.1).orFlags (if false then r.2 else 0) | .error _ => t)
          ((s.execLanes f).foldl (fun t l => match u.predResult f op l with
            | .ok r => (t.putPred f.uniform l f.d r.1).orFlags (if true then r.2 else 0) | .error _ => t) u))) : Out) = _
    rw [hf]
    show (match s.checkFull (s.trapSet f) (helperLanes s f) (f.srcs op.arity) (if f.uniform then [.uni f.d false] else []) with
        | .trapped t => .next t
        | .blocked => .next s
        | .ok u => .next (State.advance ((helperLanes s f).foldl (fun t l => match u.predResult f op l with
            | .ok r => (t.putPred f.uniform l f.d r.1).orFlags (if false then r.2 else 0) | .error _ => t)
          ((s.execLanes f).foldl (fun t l => match u.predResult f op l with
            | .ok r => (t.putPred f.uniform l f.d r.1).orFlags (if true then r.2 else 0) | .error _ => t) u))) : Out) = _
    rw [hk]
    show Host.Outcome.next _ = _
    rw [hput true, hput false, hexec]
  · rw [hlanes]
    unfold PutsPred
    cases hu : f.uniform
    · rw [if_neg (by simp)]
      have hth : ∀ id, u.thread id = if id.wg = s.curGroup.wg ∧ id.grp = s.curGroup.grp ∧ id.lane ∈ s.execLanes f ++ others then
          (s.thread id).setK f.d (out id.lane).1 else s.thread id := by
        intro id
        show (others.foldl (putTest f.uniform f.d out false) ((s.execLanes f).foldl (putTest f.uniform f.d out true) s)).thread id = _
        have hcm : mid.curGroup = s.curGroup := curGroup_congr m1.cur
        simp only [hu, mid] at hcm ⊢
        rw [tests_thread, hcm, tests_thread]
        obtain ⟨a, b, c⟩ := id
        by_cases h1 : a = s.curGroup.wg <;> by_cases h2 : b = s.curGroup.grp <;> by_cases h3 : c ∈ others <;>
          by_cases h4 : c ∈ s.execLanes f <;> simp_all [setK_setK]
      have hadv : ∀ id, u.advance.thread id = if id.wg = s.curGroup.wg ∧ id.grp = s.curGroup.grp ∧ id.lane ∈ s.execLanes f ++ others then
          (s.advance.thread id).setK f.d (out id.lane).1 else s.advance.thread id := by
        intro id
        cases hcur : s.cur with
        | group wg grp lanes pc len =>
          rw [advance_thread u _ _ _ _ _ (m2.cur.trans hcur), advance_thread s _ _ _ _ _ hcur, hth]
          split <;> split <;> simp_all [movedTo_setK]
        | helm wg pc len => rw [advance_helm u _ _ _ (m2.cur.trans hcur), advance_helm s _ _ _ hcur]; exact hth id
        | cornice n => rw [advance_cornice u n (m2.cur.trans hcur), advance_cornice s n hcur]; exact hth id
        | nobody => rw [advance_nobody u (m2.cur.trans hcur), advance_nobody s hcur]; exact hth id
      refine ⟨fun l hl => ?_, fun id hid => ?_⟩
      · rw [hadv, if_pos ⟨rfl, rfl, hl⟩]
        rfl
      · rw [hadv, if_neg]
        rintro ⟨h1, h2, h3⟩
        exact hid _ h3 (by obtain ⟨a, b, c⟩ := id; simp_all [State.curThread])
    · rw [if_pos rfl]
      have he : s.execLanes f = oneLane := by simp [State.execLanes, hu]
      have ho : others = [] := by simp [others, helperLanes, hu]
      have hu' : u = (s.putReg (s.uniKey f.d) 1 (if (out 0).1 then 1 else 0)).orFlags (out 0).2 := by
        show others.foldl _ ((s.execLanes f).foldl _ s) = _
        rw [ho, he]
        simp [oneLane, putTest, State.putPred, hu]
      refine ⟨fun l hl => ?_, ?_⟩
      · have hl0 : l = 0 := by rw [he, ho] at hl; simpa [oneLane] using hl
        rw [reg_advance, hu', reg_orFlags, hl0, reg_putReg, if_pos rfl]
      · have ht : u.threads = s.threads := by rw [hu', threads_orFlags]; rfl
        rw [advance_congr s u m2.cur ht]
  · rw [curFlags_advance]
    show curFlags (others.foldl (putTest f.uniform f.d out false) ((s.execLanes f).foldl (putTest f.uniform f.d out true) s)) = _
    rw [curFlags_tests, curFlags_tests]
    simp
  · rw [advance_frame u, m2.frame, advance_frame s]
  · intro k hk'
    rw [reg_advance]
    cases hu : f.uniform
    · show (others.foldl (putTest f.uniform f.d out false) ((s.execLanes f).foldl (putTest f.uniform f.d out true) s)).reg k = _
      rw [hu, tests_reg_lane, tests_reg_lane]
    · have he : s.execLanes f = oneLane := by simp [State.execLanes, hu]
      have ho : others = [] := by simp [others, helperLanes, hu]
      show (others.foldl (putTest f.uniform f.d out false) ((s.execLanes f).foldl (putTest f.uniform f.d out true) s)).reg k = _
      rw [ho, he]
      simp only [List.foldl_nil, oneLane, List.foldl_cons, putTest, reg_orFlags, State.putPred, hu, if_true, reg_putReg]
      rw [if_neg (hk' hu)]

/-! ## Carries -/

theorem Marks.of_delivers {s t : State} (h : Delivers s t) (hf : t.fills = s.fills) (hn : t.nextId = s.nextId) : Marks s t := by
  refine ⟨?_, h.flags⟩
  have := h.frame
  rw [hf, hn] at this
  rw [this, ← h.threads]

theorem nextId_orFlags (s : State) (x : Word) : (s.orFlags x).nextId = s.nextId := by
  unfold State.orFlags
  split
  · rfl
  · split <;> rfl

theorem deliverAll_fast (s pre : State) (f : Form) (op : Nat → Alu) (counts : Bool) (lanes : List Nat)
    (h : ∀ l g, (op l).slow g = false) :
    (s.deliverAll pre f op counts lanes).fills = s.fills ∧ (s.deliverAll pre f op counts lanes).nextId = s.nextId := by
  unfold State.deliverAll
  induction lanes generalizing s with
  | nil => exact ⟨rfl, rfl⟩
  | cons l t ih =>
    rw [List.foldl_cons]
    cases pre.aluResult f (op l) l with
    | error e => exact ih s
    | ok r =>
      refine ⟨(ih _).1.trans ?_, (ih _).2.trans ?_⟩
      · simp only [State.deliver, h, Bool.false_eq_true, if_false, fills_orFlags]
        rfl
      · simp only [State.deliver, h, Bool.false_eq_true, if_false, nextId_orFlags]
        rfl

theorem marks_all (s : State) (f : Form) (op : Nat → Alu) (h : ∀ l g, (op l).slow g = false) : Marks s (deliveredAll s f op) := by
  refine .of_delivers (delivers_all s f op) ?_ ?_
  · rw [deliveredAll, (deliverAll_fast _ _ _ _ _ _ h).1, (deliverAll_fast _ _ _ _ _ _ h).1]
  · rw [deliveredAll, (deliverAll_fast _ _ _ _ _ _ h).2, (deliverAll_fast _ _ _ _ _ _ h).2]

theorem carries_of_runCarry (i : Instr) (f : Form) (g : Word → Word → Bool → Word × Bool) (exact : Int → Int → Int → Int)
    (hx : ∀ s, exec i s = s.runCarry f g)
    (hg : ∀ a b c, g a b c = (BitVec.ofInt 64 (exact a.toNat b.toNat (if c then 1 else 0)),
      decide (exact a.toNat b.toNat (if c then 1 else 0) < 0 ∨ (2 : Int) ^ 64 ≤ exact a.toNat b.toNat (if c then 1 else 0)))) :
    Carries i f exact := by
  intro s hu hdk hr hc value
  let op : Nat → Alu := fun l => carryAlu g (s.getPred f.uniform l f.kc)
  let carry : Nat → Bool := fun l => decide (value l < 0 ∨ (2 : Int) ^ 64 ≤ value l)
  have hval : ∀ l, g (s.srcVal (fun _ v => v) l f.a 1) (s.srcVal (fun _ v => v) l f.b 1) (s.getPred f.uniform l f.kc) =
      (BitVec.ofInt 64 (value l), carry l) := fun l => hg _ _ _
  have himm : ∀ l x t, s.srcVal (fun _ v => v) l x t = s.srcVal (fun _ v => v) l x 1 := by
    intro l x t
    cases x <;> rfl
  have hres : ∀ l, s.srcTags f 2 l = [1, 1] → s.aluResult f (op l) l = .ok (1, BitVec.ofInt 64 (value l), 0) := by
    intro l ht
    have hch : (op l).check (s.srcTags f (op l).arity l) = .ok 1 := by
      show sameTags isI64 (s.srcTags f 2 l) = _
      rw [ht]
      rfl
    rw [aluResult_ok s f (op l) l 1 hch]
    have : (op l).eval 1 (s.srcTags f (op l).arity l) (srcVals s f (op l).arity (op l).immVal l) =
        ((g (s.srcVal (fun _ v => v) l f.a (s.srcTag l f.a f.a)) (s.srcVal (fun _ v => v) l f.b (s.srcTag l f.b f.a))
          (s.getPred f.uniform l f.kc)).1, 0) := rfl
    rw [this, himm, himm l f.b, hval]
  have slow : ∀ l g, (op l).slow g = false := fun _ _ => rfl
  have m0 : Marks s (deliveredAll s f op) := marks_all s f op slow
  let out : Nat → Bool × Word := fun l => (carry l, 0)
  have hpost : ∀ (ls : List Nat) (u : State), ls.foldl (fun t l => t.putPred f.uniform l f.kc
      (g (s.srcVal (fun _ v => v) l f.a 1) (s.srcVal (fun _ v => v) l f.b 1) (s.getPred f.uniform l f.kc)).2) u =
      ls.foldl (putTest f.uniform f.kc out true) u := by
    intro ls
    induction ls with
    | nil => exact fun _ => rfl
    | cons l t ih =>
      intro u
      rw [List.foldl_cons, List.foldl_cons, ih, hval]
      show _ = List.foldl _ ((u.putPred f.uniform l f.kc (carry l)).orFlags (if true then 0 else 0)) t
      simp only [if_true, orFlags_zero]
  let u := (allLanes s f).foldl (putTest f.uniform f.kc out true) (deliveredAll s f op)
  have m1 : Marks (deliveredAll s f op) u := marks_foldl _ _ _ _ _ _
  have m2 : Marks s u := m0.trans m1
  have hreg : ∀ k, (f.uniform = true → k ≠ s.uniKey f.kc) → u.advance.reg k = (deliveredAll s f op).reg k := by
    intro k hk
    rw [reg_advance]
    show ((allLanes s f).foldl (putTest f.uniform f.kc out true) (deliveredAll s f op)).reg k = _
    cases hu2 : f.uniform
    · rw [tests_reg_lane]
    · have hl : allLanes s f = oneLane := by simp [allLanes, State.execLanes, helperLanes, hu2]
      have hkey : (deliveredAll s f op).uniKey f.kc = s.uniKey f.kc := by
        simp only [State.uniKey, curHelm_congr m0.cur, curGroup_congr m0.cur]
      rw [hl]
      simp only [oneLane, List.foldl_cons, List.foldl_nil, putTest, reg_orFlags, State.putPred, if_true, reg_putReg, hkey]
      rw [if_neg (hk hu2)]
  refine ⟨u.advance, ?_, ?_, ?_, ?_, ?_, onlyFlags_advance m2.cur m2.flags, ?_⟩
  · rw [hx, State.runCarry, runAluBy_eq s f 2 op f.predSrc _ _ ?_ hr (fun l hl => ⟨_, hres l (hc l hl)⟩), hpost]
    intro o ho
    rcases List.mem_append.1 ho with h | h
    · simp only [Form.srcs, List.take, List.mem_cons, List.not_mem_nil, or_false] at h
      rcases h with rfl | rfl <;> simp
    · unfold Form.predSrc at h
      cases hu2 : f.uniform <;> simp_all
  · intro l hl ht
    have hw := wrote_lanes s f op hu l hl 1 _ _ (hres l ht)
    rw [slow] at hw
    rw [hreg _ ?_]
    · exact hw
    · intro hu2 hk
      simp only [State.dstKey, hu, hu2, if_true] at hk
      unfold State.uniKey at hk
      split at hk
      · exact hdk hu2 (RegKey.h.inj hk).2
      · exact hdk hu2 (RegKey.s.inj hk).2.2
  · unfold PutsPred
    have hcm : (deliveredAll s f op).curGroup = s.curGroup := curGroup_congr m0.cur
    have hth0 : (deliveredAll s f op).threads = s.threads := (delivers_all s f op).threads
    cases hu2 : f.uniform
    · rw [if_neg (by simp)]
      have hth : ∀ id, u.thread id = if id.wg = s.curGroup.wg ∧ id.grp = s.curGroup.grp ∧ id.lane ∈ allLanes s f then
          (s.thread id).setK f.kc (carry id.lane) else s.thread id := by
        intro id
        show ((allLanes s f).foldl (putTest f.uniform f.kc out true) (deliveredAll s f op)).thread id = _
        rw [hu2, tests_thread, hcm, thread_congr hth0]
      have hadv : ∀ id, u.advance.thread id = if id.wg = s.curGroup.wg ∧ id.grp = s.curGroup.grp ∧ id.lane ∈ allLanes s f then
          (s.advance.thread id).setK f.kc (carry id.lane) else s.advance.thread id := by
        intro id
        cases hcur : s.cur with
        | group wg grp lanes pc len =>
          rw [advance_thread u _ _ _ _ _ (m2.cur.trans hcur), advance_thread s _ _ _ _ _ hcur, hth]
          split <;> split <;> simp_all [movedTo_setK]
        | helm wg pc len => rw [advance_helm u _ _ _ (m2.cur.trans hcur), advance_helm s _ _ _ hcur]; exact hth id
        | cornice n => rw [advance_cornice u n (m2.cur.trans hcur), advance_cornice s n hcur]; exact hth id
        | nobody => rw [advance_nobody u (m2.cur.trans hcur), advance_nobody s hcur]; exact hth id
      refine ⟨fun l hl => ?_, fun id hid => ?_⟩
      · rw [hadv, if_pos ⟨rfl, rfl, hl⟩]
        rfl
      · rw [hadv, if_neg]
        rintro ⟨h1, h2, h3⟩
        exact hid _ h3 (by obtain ⟨a, b, c⟩ := id; simp_all [State.curThread])
    · rw [if_pos rfl]
      have hl : allLanes s f = oneLane := by simp [allLanes, State.execLanes, helperLanes, hu2]
      have hkey : (deliveredAll s f op).uniKey f.kc = s.uniKey f.kc := by
        simp only [State.uniKey, curHelm_congr m0.cur, curGroup_congr m0.cur]
      have hu' : u = ((deliveredAll s f op).putReg (s.uniKey f.kc) 1 (if carry 0 then 1 else 0)).orFlags 0 := by
        show (allLanes s f).foldl _ _ = _
        rw [hl]
        simp only [oneLane, List.foldl_cons, List.foldl_nil, putTest, State.putPred, hu2, if_true, hkey]
        rfl
      refine ⟨fun l hl' => ?_, ?_⟩
      · have hl0 : l = 0 := by rw [hl] at hl'; simpa [oneLane] using hl'
        rw [reg_advance, hu', reg_orFlags, hl0, reg_putReg, if_pos rfl]
      · have ht : u.threads = s.threads := by rw [hu', threads_orFlags]; exact hth0
        rw [advance_congr s u m2.cur ht]
  · intro k h1 h2
    rw [hreg k h2, reg_all_other s f op k h1]
  · rw [curFlags_advance]
    show curFlags ((allLanes s f).foldl (putTest f.uniform f.kc out true) (deliveredAll s f op)) = _
    rw [curFlags_tests, curFlags_all]
    have : ∀ (ls : List Nat) (a : Word), ls.foldl (fun a l => a ||| (if true then (out l).2 else 0)) a = a := by
      intro ls a
      simp only [if_true, out]
      exact foldl_or_zero ls a
    rw [this]
    have : ∀ (ls : List Nat) (a : Word), (∀ l ∈ ls, s.srcTags f 2 l = [1, 1]) → ls.foldl (fun a l =>
        match s.aluResult f (op l) l with | .ok r => if (op l).slow r.1 then a else a ||| r.2.2 | .error _ => a) a = a := by
      intro ls
      induction ls with
      | nil => exact fun _ _ => rfl
      | cons l t ih =>
        intro a h
        rw [List.foldl_cons, hres l (h l (List.mem_cons_self ..))]
        exact (ih _ (fun m hm => h m (List.mem_cons_of_mem _ hm))).trans (by simp [slow])
    exact this _ _ hc
  · rw [advance_frame u, m2.frame, advance_frame s]

end Sys2Proof.Laws
end

