-- ==== Sys2Proof/Laws/Words.lean ====
section
/-! SUPPORT. The layouts of R294 to R300 lose no bit: the fields read from a word made of fields are those fields. -/

namespace Sys2Proof.Laws

open Sys2Proof Sys2Proof.Machine

/-- Fields side by side, as a number. -/
theorem append_toNat {n m : Nat} (x : BitVec n) (y : BitVec m) : (x ++ y).toNat = x.toNat * 2 ^ m + y.toNat := by
  rw [BitVec.toNat_append, ← Nat.shiftLeft_add_eq_or_of_lt y.isLt, Nat.shiftLeft_eq]

theorem raw16_toNat (r : Raw16) :
    r.word.toNat = (((r.top.toNat * 32 + r.s.toNat) * 32 + r.d.toNat) * 16 + r.op.toNat) * 2 := by
  unfold Raw16.word
  erw [append_toNat, append_toNat, append_toNat, append_toNat]
  rfl

theorem raw32_toNat (r : Raw32) :
    r.word.toNat = (((((r.f.toNat * 4 + r.so.toNat) * 64 + r.b.toNat) * 64 + r.a.toNat) * 64 + r.d.toNat) * 128
      + r.maj.toNat) * 4 + 1 := by
  unfold Raw32.word
  erw [append_toNat, append_toNat, append_toNat, append_toNat, append_toNat, append_toNat]
  rfl

theorem raw64_toNat (r : Raw64) :
    r.word.toNat = (((((((r.rest.toNat * 16 + r.fs.toNat) * 4 + r.sh.toNat) * 2 + r.gn.toNat) * 8 + r.gk.toNat) * 4
      + r.so.toNat) * 8 + r.f.toNat) * 128 + r.maj.toNat) * 4 + 3 := by
  unfold Raw64.word
  erw [append_toNat, append_toNat, append_toNat, append_toNat, append_toNat, append_toNat, append_toNat, append_toNat]
  rfl

theorem raw16_ofWord_word (r : Raw16) : Raw16.ofWord r.word = r := by
  have h := raw16_toNat r
  cases r
  simp only [Raw16.ofWord, Raw16.mk.injEq]
  refine ⟨?_, ?_, ?_, ?_⟩ <;>
    (apply BitVec.eq_of_toNat_eq; simp only [BitVec.extractLsb'_toNat, Nat.shiftRight_eq_div_pow, h]; omega)

theorem raw32_ofWord_word (r : Raw32) : Raw32.ofWord r.word = r := by
  have h := raw32_toNat r
  cases r
  simp only [Raw32.ofWord, Raw32.mk.injEq]
  refine ⟨?_, ?_, ?_, ?_, ?_, ?_⟩ <;>
    (apply BitVec.eq_of_toNat_eq; simp only [BitVec.extractLsb'_toNat, Nat.shiftRight_eq_div_pow, h]; omega)

theorem raw64_ofWord_word (r : Raw64) : Raw64.ofWord r.word = r := by
  have h := raw64_toNat r
  cases r
  simp only [Raw64.ofWord, Raw64.mk.injEq]
  refine ⟨?_, ?_, ?_, ?_, ?_, ?_, ?_, ?_⟩ <;>
    (apply BitVec.eq_of_toNat_eq; simp only [BitVec.extractLsb'_toNat, Nat.shiftRight_eq_div_pow, h]; omega)

end Sys2Proof.Laws
end

