-- ==== Sys2Proof/Tests/Slice0.lean ====
section
/-! SUPPORT. The model's own tests: words of the spec decoded, ill-formed terms refused, worked examples of the spec run,
and a witness for the hypotheses of each statement. -/

namespace Sys2Proof.Tests

open Sys2Proof Sys2Proof.Machine

noncomputable section

/-! ## Decoding: words that the spec writes out (R338, R371, R386, R389, R391, R411, R421) -/

theorem test_decode_integer_family :
    decode false 0x7F4A7C1514180263 = .instr (.movi64 1
      { u := true, fsc := false, fsb := false, fsa := false, fsd := true, gn := false, gk := 0, so := 0, sh := .imm32 0x7F4A7C15 0x14 }) 8 ∧
    decode false 0x9E3779B914181263 = .instr (.movi64 1
      { u := true, fsc := false, fsb := false, fsa := false, fsd := true, gn := false, gk := 0, so := 1, sh := .imm32 0x9E3779B9 0x14 }) 8 ∧
    decode false 0x20050421 = .instr (.movi { u := false, t := 1, h := false, k := 10, d := 2 }) 4 ∧
    decode false 0x4040820D = .instr (.cmp 2 { u := false, so := 0, b := 2, a := 1, d := 1 }) 4 ∧
    decode false 0x20408601 = .instr (.sub { u := false, so := 0, b := 2, a := 1, d := 3 }) 4 ∧
    decode false 0x000000000420380B = .instr (.lea64
      { u := false, fsc := false, fsb := false, fsa := true, fsd := false, gn := false, gk := 0, so := 3
        sh := .rrr false false 0 false 0 false 0 4 }) 8 := by
  refine ⟨?_, ?_, ?_, ?_, ?_, ?_⟩ <;> rfl

theorem test_decode_control_family :
    decode false 0x0000C285 = .instr (.bc 6 false 1) 4 ∧ decode false 0x00000881 = .instr (.bra 4) 4 ∧
    decode false 0x00000091 = .instr (.exit { u := false, so := 0, b := 0, a := 0, d := 0 }) 4 := by
  refine ⟨?_, ?_, ?_⟩ <;> rfl

theorem test_decode_float_and_lane_families :
    decode false 0xE0420AD1 = .instr (.cvt 7 { u := false, so := 0, b := 2, a := 4, d := 5 }) 4 ∧
    decode false 0x31C41961 = .instr (.galpha { u := false, so := 2, b := 14, a := 8, d := 12 }) 4 ∧
    decode false (0x40000000 + 12 * 0x8000 + 10 * 0x200 + 0x160 + 1) = .instr (.gover { u := false, so := 0, b := 0, a := 12, d := 10 }) 4 ∧
    decode false 0x60058361 = .instr (.gterm { u := false, so := 0, b := 0, a := 11, d := 1 }) 4 ∧
    decode false 0x20008545 = .instr (.voteAll { u := false, so := 0, b := 0, a := 1, d := 2 }) 4 := by
  refine ⟨?_, ?_, ?_, ?_, ?_⟩ <;> rfl

theorem test_decode_memory_family :
    decode false 0x04020791 = .instr (.st { p := 0, g := 0, f := true, o := 0, a := 4, d := 3 }) 4 ∧
    decode false 0x28218F81 = .instr (.ld 0 { p := 1, g := 1, f := false, o := 1, a := 3, d := 7 }) 4 ∧
    decode false 0x4000000406041FAB = .instr (.atom 7
      { u := false, fsc := false, fsb := false, fsa := false, fsd := false, gn := false, gk := 0, so := 1
        sh := .imm16 4 0 false false 2 6 }) 8 := by
  refine ⟨?_, ?_, ?_⟩ <;> rfl

theorem test_decode_order_and_engine_families :
    decode false 0x000009B1 = .instr (.pub 4) 4 ∧ decode false 0x200009B1 = .instr (.pull 4) 4 ∧ decode false 0x40000BB1 = .instr (.phase 5) 4 ∧
    decode false 0x000001C5 = .instr (.wait 0 { u := false, so := 0, b := 0, a := 0, d := 0 }) 4 ∧
    decode false 0xA00001C5 = .instr (.wait 5 { u := false, so := 0, b := 0, a := 0, d := 0 }) 4 ∧
    decode false 0x016503C9 = .instr (.cpy { u := false, so := 0, b := 11, a := 10, d := 1 }) 4 ∧
    decode false 0x600001C1 = .instr (.barSync { u := false, so := 0, b := 0, a := 0, d := 0 }) 4 := by
  refine ⟨?_, ?_, ?_, ?_, ?_, ?_, ?_⟩ <;> rfl

theorem test_decode_matrix_and_system_families :
    decode true 0x40E03008026023E3 = .instr (.mma
      { u := false, fsc := false, fsb := true, fsa := true, fsd := false, gn := false, gk := 0, so := 2
        sh := .rrr false true 7 false 6 false 4 2 }) 8 ∧
    decode true 0x40003008026003E3 = .instr (.mma
      { u := false, fsc := false, fsb := true, fsa := true, fsd := false, gn := false, gk := 0, so := 0
        sh := .rrr false true 0 false 6 false 4 2 }) 8 ∧
    decode true 0x800405E1 = .instr (.mst { u := false, so := 0, b := 0, a := 8, d := 2 }) 4 ∧
    decode true 0xA00005E1 = .instr (.mfree { u := false, so := 0, b := 0, a := 0, d := 2 }) 4 ∧
    decode false 0x400607E5 = .instr (.msave { u := false, so := 0, b := 0, a := 12, d := 3 }) 4 ∧
    decode false 0x600607E5 = .instr (.mrest { u := false, so := 0, b := 0, a := 12, d := 3 }) 4 ∧
    decode false 0x01C015F1 = .instr (.rdsys 0x0E 10) 4 ∧ decode false 0x21C481F1 = .instr (.wrsys 0x0E 9) 4 ∧
    decode false 0x88A201F5 = .instr (.tlbinvVa { u := false, so := 1, b := 5, a := 4, d := 0 }) 4 ∧
    decode false 0x000001F5 = .instr (.eret { u := false, so := 0, b := 0, a := 0, d := 0 }) 4 := by
  refine ⟨?_, ?_, ?_, ?_, ?_, ?_, ?_, ?_, ?_, ?_⟩ <;> rfl

/-- `rdrow` and `end` (R316), and `fma.lg c3, c1, c2, c3`, summed from the fields of R316: OPC [31:27], D [26:23], A [22:19],
B [18:15], C [14:11], CLS [10:9]. -/
theorem test_decode_cornice_family :
    decodeCornice 0x08080000 = some (.corniceRdrow { d := 0, a := 1, b := 0, c := 0, cls := 0, imm := 0 }) ∧
    decodeCornice 0xB8000000 = some (.corniceEnd { d := 0, a := 0, b := 0, c := 0, cls := 0, imm := 0 }) ∧
    decodeCornice (0x40000000 + 3 * 0x800000 + 0x80000 + 2 * 0x8000 + 3 * 0x800 + 2 * 0x200) =
      some (.corniceFma { d := 3, a := 1, b := 2, c := 3, cls := 2, imm := 0 }) := by
  refine ⟨?_, ?_, ?_⟩ <;> rfl

/-- An unassigned major and a reserved bit are ILLEGAL, REASON 0 and 1, with their length (R313). -/
theorem test_decode_refuses :
    decode false 0x80000091 = .illegal 0 4 ∧ decode false 0x00008091 = .illegal 1 4 := by
  refine ⟨?_, ?_⟩ <;> rfl

/-- The encoder gives back a word that the decoder reads: `add v3, v1, v2` and `exit`. -/
theorem test_encode :
    encode (.add { u := false, so := 0, b := 2, a := 1, d := 3 }) = some (.w32 0x00408601) ∧
    encode (.exit { u := false, so := 0, b := 0, a := 0, d := 0 }) = some (.w32 0x00000091) := by
  refine ⟨?_, ?_⟩ <;> rfl


/-! ## Well-formedness: an ill-formed term for each check of R313, which the check refuses -/

/-- A 64-bit instruction with operands A, B, D in SHAPE 0b00. -/
def rrr (so : BitVec 2) (c b a d : BitVec 9) : R64 :=
  { u := false, fsc := false, fsb := false, fsa := false, fsd := false, gn := false, gk := 0, so := so, sh := .rrr false false c false b false a d }

/-- A 64-bit instruction with operands A, imm16, D in SHAPE 0b01. -/
def ri (so : BitVec 2) (imm : BitVec 16) (a d : BitVec 9) : R64 :=
  { u := false, fsc := false, fsb := false, fsa := false, fsd := false, gn := false, gk := 0, so := so, sh := .imm16 0 imm false false a d }

theorem test_wf_accepts :
    Instr.wellFormed false (.add ⟨true, 2, 63, 63, 63⟩) = true ∧ Instr.wellFormed false (.add64 (rrr 0 0 63 63 63)) = true ∧
    Instr.wellFormed false (.fma (⟨false, 2, 0, 0, 0⟩)) = true ∧ Instr.wellFormed true (.mma { rrr 0 0 6 4 2 with fsb := true, fsa := true, sh := .rrr false true 0 false 6 false 4 2 }) = true := by
  refine ⟨?_, ?_, ?_, ?_⟩ <;> rfl

/-- REASON 0: no such encoding. -/
theorem test_wf_no_encoding :
    illegal false (.fadd ⟨true, 0, 0, 0, 0⟩) = some 0 ∧ illegal false (.faddUniform ⟨false, 0, 0, 0, 0⟩) = some 0 ∧
    illegal false (.mov16 ⟨0, 0⟩) = some 0 ∧ illegal true (.add16 ⟨1, 2⟩) = some 0 ∧ illegal false (.cmp 6 ⟨false, 0, 0, 0, 0⟩) = some 0 ∧
    illegal false (.cmp64 7 (rrr 0 0 0 0 0)) = some 0 ∧ illegal false (.shfl 4 ⟨false, 0, 0, 0, 0⟩) = some 0 ∧
    illegal false (.lredFloat 3 ⟨false, 0, 0, 0, 0⟩) = some 0 ∧ illegal false (.red 6 (rrr 0 0 0 0 0)) = some 0 ∧
    illegal false (.pref { p := 0, g := 0, f := false, o := 0, a := 0, d := 0 }) = some 0 := by
  refine ⟨?_, ?_, ?_, ?_, ?_, ?_, ?_, ?_, ?_, ?_⟩ <;> rfl

/-- REASON 1: a reserved or unused field that is not zero. -/
theorem test_wf_reserved :
    illegal false (.exit ⟨false, 0, 0, 1, 0⟩) = some 1 ∧ illegal false (.add ⟨false, 1, 0, 0, 0⟩) = some 1 ∧
    illegal false (.add64 { rrr 0 0 0 0 0 with gn := true }) = some 1 ∧
    illegal false (.add64 { rrr 0 0 0 0 0 with sh := .rrr true false 0 false 0 false 0 0 }) = some 1 ∧
    illegal false (.neg64 (ri 0 1 0 0)) = some 1 ∧ illegal false (.exit64 { rrr 0 0 0 0 0 with sh := .imm32 0 0 }) = some 1 ∧
    illegal false (.add64 { rrr 0 0 0 0 0 with u := true, fsa := true, fsb := true, fsd := true, gk := 1 }) = some 1 ∧
    illegal false (.swz64 (rrr 0 0 64 0 0)) = some 1 ∧ illegal false (.cvt64 1 (rrr 0 2 0 0 0)) = some 1 ∧
    illegal false (.msaveOwn ⟨false, 0, 0, 0, 0⟩) = some 1 ∧ illegal false (.tlbinvAll ⟨false, 1, 0, 0, 0⟩) = some 1 ∧
    illegal false (.st { p := 0, g := 1, f := false, o := 0, a := 0, d := 0 }) = some 1 ∧
    illegal true (.mld64 { rrr 0 0 0 0 0 with fsa := true, sh := .rrr false false 0 true 0 false 0 0 }) = some 1 := by
  refine ⟨?_, ?_, ?_, ?_, ?_, ?_, ?_, ?_, ?_, ?_, ?_, ?_, ?_⟩ <;> rfl

/-- REASON 2: a class that the instruction does not have. -/
theorem test_wf_class :
    illegal false (.fma ⟨false, 3, 0, 0, 0⟩) = some 2 ∧ illegal false (.fadd ⟨false, 1, 0, 0, 0⟩) = some 2 ∧
    illegal false (.mul64 (rrr 1 0 0 0 0)) = some 2 ∧ illegal false (.specialFunction 0 ⟨false, 1, 0, 0, 0⟩) = some 2 := by
  refine ⟨?_, ?_, ?_, ?_⟩ <;> rfl

/-- REASON 3: an operand outside its limits. -/
theorem test_wf_limits :
    illegal false (.cmp 0 ⟨false, 0, 0, 0, 8⟩) = some 3 ∧ illegal false (.add64 (rrr 0 0 64 0 0)) = some 3 ∧
    illegal false (.add64 (rrr 0 0 0 0 64)) = some 3 ∧ illegal false (.movi { u := false, t := 15, h := false, k := 0, d := 0 }) = some 3 ∧
    illegal false (.cvt 15 ⟨false, 0, 0, 0, 0⟩) = some 3 ∧ illegal false (.spawn ⟨false, 0, 61, 0, 0⟩) = some 3 ∧
    illegal false (.galpha ⟨false, 0, 63, 0, 0⟩) = some 3 ∧ illegal false (.gover ⟨false, 0, 0, 63, 0⟩) = some 3 ∧
    illegal false (.smp 2 ⟨false, 0, 0, 63, 0⟩) = some 3 ∧ illegal false (.nap64 (ri 0 4096 0 0)) = some 3 ∧
    illegal false (.ld 3 { p := 0, g := 3, f := false, o := 0, a := 0, d := 0 }) = some 3 ∧
    illegal false (.ldsU { p := 6, g := 0, f := false, o := 0, a := 0, d := 0 }) = some 3 ∧
    illegal false (.ldm 0 { ri 3 0 0 60 with sh := .imm16 1 0 false false 0 60 }) = some 3 ∧
    illegal false (.stm 0 { ri 0 0 0 0 with fsd := true }) = some 3 ∧ illegal false (.atom 7 (ri 0 0 0 63)) = some 3 ∧
    illegal false (.pub 6) = some 3 ∧ illegal false (.cpy64 { rrr 0 0 0 0 65 with fsb := true, fsa := true }) = some 3 ∧
    illegal true (.mma { rrr 0 0 0 0 0 with fsb := true, fsa := true, sh := .rrr false true 0x1E0 false 6 false 4 2 }) = some 3 ∧
    illegal true (.mzero ⟨false, 0, 0, 0, 8⟩) = some 3 ∧
    illegal false (.corniceRdrow { d := 4, a := 1, b := 0, c := 0, cls := 0, imm := 0 }) = some 3 ∧
    illegal false (.corniceMovi { d := 8, a := 0, b := 0, c := 0, cls := 0, imm := 0 }) = some 3 := by
  refine ⟨?_, ?_, ?_, ?_, ?_, ?_, ?_, ?_, ?_, ?_, ?_, ?_, ?_, ?_, ?_, ?_, ?_, ?_, ?_, ?_, ?_⟩ <;> rfl

/-! ## Small states -/

/-- Registers 0 to 8, 62 and 63 of lane 0's v file, of the group's s file and of the Helm's h file. -/
def filledRegs (t u : Tag) : FMap RegKey Reg :=
  [0, 1, 2, 3, 4, 5, 6, 7, 8, 62, 63].flatMap (fun n =>
    let r : Reg := { bits := 1, tag := if n ≤ 2 then t else u, full := true }
    [(.v 1 0 0 n, r), (.s 1 0 n, r), (.h 1 n, r)])

/-- A barrier with nothing arrived and nothing owed. -/
def bar0 (expect : BitVec 11) : Barrier :=
  { expect := expect, arrived := 0, tx := 0, pexit := 0, phase := false, txOps := [], helmOps := [], helmFlags := 0
    done0 := { ops := [], flags := 0 }, done1 := { ops := [], flags := 0 } }

/-- A group of one live thread that issues at 0x1000; registers 0 to 2 are tagged `t`, the others `u`, each holds 1. -/
def lanes2 (t u : Tag) : State :=
  { State.reset with
    cur := .group 1 0 [0] 0x1000 4
    ctxs := [(1, { placedCtx with trapVec := 0x2000, semCount := 4, qcount := 1 })]
    launches := [(1, { Launch.absent with ctx := 1, threads := 1, barsN := 2, gx := 1, gy := 1, gz := 1, live := 1, next := 1, running := true })]
    wgs := [(1, { placedWg with bars := [(0, bar0 1)] })]
    groups := [({ wg := 1, grp := 0 }, { Group.absent with present := true })]
    threads := [({ wg := 1, grp := 0, lane := 0 }, { Thread.absent with live := true, pc := 0x1000 })]
    helms := [(1, { Helm.absent with running := true, pc := 0x1000 })]
    regs := filledRegs t u }

/-- As `lanes2`, all registers of one tag. -/
def lanes (t : Tag) : State := lanes2 t t

/-- As `lanes`, with values in v1, v2 and v3. -/
def values (t : Tag) (a b c : Word) : State :=
  (((lanes t).setReg (.v 1 0 0 1) { bits := a, tag := t, full := true }).setReg (.v 1 0 0 2) { bits := b, tag := t, full := true }).setReg
    (.v 1 0 0 3) { bits := c, tag := t, full := true }

/-- The state after an instruction, or the state before it. -/
def after (i : Instr) (s : State) : State := match exec i s with | .next t => t | _ => s

/-- Bits of a v register of lane 0. -/
def v (s : State) (n : Nat) : Word := (s.reg (.v 1 0 0 n)).bits

/-- D 3, A 1, B 2. -/
def w3 (so : BitVec 2) : R32 := ⟨false, so, 2, 1, 3⟩

/-! ## Worked examples of the spec -/

/-- The table of R338: A = 0x0123_4567_89AB_CDEF, control 0x0C08 (position 8, length 12). -/
theorem test_bit_fields :
    v (after (.bfe (w3 1)) (values 1 0x0123456789ABCDEF 0x0C08 0)) 3 = 0xBCD ∧
    v (after (.bfe (w3 0)) (values 1 0x0123456789ABCDEF 0x0C08 0)) 3 = 0xFFFFFFFFFFFFFBCD ∧
    v (after (.bfi (w3 0)) (values 1 0xFFF 0x0C08 0x0123456789ABCDEF)) 3 = 0x0123456789AFFFEF := by decide

theorem test_permute_and_rotate :
    v (after (.perm (w3 0)) (values 1 0x0123456789ABCDEF 0x0001020304050607 0)) 3 = 0xEFCDAB8967452301 ∧
    v (after (.rol (w3 0)) (values 1 0x0123456789ABCDEF 8 0)) 3 = 0x23456789ABCDEF01 ∧
    v (after (.brev ⟨false, 0, 0, 1, 3⟩) (values 1 0x0123456789ABCDEF 0 0)) 3 = 0xF7B3D591E6A2C480 := by decide

/-- R331: 0 where counter and key are equal. -/
theorem test_rnd_equal : (after (.rnd (w3 0)) (values 1 77 77 5)).fills.map (·.value) = [0] := by decide

/-- R329: a sum wraps, a borrow comes in and goes out. -/
theorem test_add_wraps :
    v (after (.add (w3 0)) (values 1 0xFFFFFFFFFFFFFFFF 2 0)) 3 = 1 ∧
    ((after (.subc (w3 0)) (values 1 0 0 0)).thread { wg := 1, grp := 0, lane := 0 }).kAt 7 = false := by decide

/-- R355: frnd of 2.5 gives 2.0 to nearest and 3.0 upwards; R356: fscale of 1.5 by −150 gives the smallest subnormal. -/
theorem test_rounding :
    (f32.roundIntegral .rne 0x40200000).1 = 0x40000000 ∧ (f32.roundIntegral .rp 0x40200000).1 = 0x40400000 ∧
    (f32.scaleCode 0x3FC00000 (-150)).1 = 1 := by decide

/-- R261: the worked example, 464.0 into E4M3, gives 448, code 0x7E. R259: the canonical NaN of FP16. -/
theorem test_number_formats : f16.canonNaN = 0x7E00 ∧ (convert 0x43E80000 (.fl f32) (.fl e4m3) .rne true).1 = 0x7E := by decide

/-- R366: 2^24 + 1 rounds back to 2^24 at each step, and the left fold of R366's example ends at 0. -/
theorem test_left_fold :
    (f32.addCodes 0x4B800000 0x3F800000).1 = 0x4B800000 ∧ (f32.addCodes 0x4B800000 0xCB800000).1 = 0 := by decide

/-- R368: a depth of 1.0 on tile 3. -/
theorem test_gkey :
    v (after (.gkey (w3 0)) ((values 1 3 0 0).setReg (.v 1 0 0 2) { bits := 0x3F800000, tag := 7, full := true })) 3 = 0x00000003BF800000 := by
  decide

/-- R369, R371: the splat of the worked example at its three pixels. -/
theorem test_splat :
    (splatAlpha 2 0 0 0x40000000 0 0x3F800000 0x3F000000).1 = 0x3F000000 ∧
    (splatAlpha 2 0x3F800000 0 0x40000000 0 0x3F800000 0x3F000000).1 = 0x3E4755C5 ∧
    (splatAlpha 2 0x40800000 0 0x40000000 0 0x3F800000 0x3F000000).1 = 0 := by decide

/-- R343: exit of the last thread ends the workgroup. R345: trap #9 enters the handler at TRAP_VEC in privileged mode. -/
theorem test_exit_and_trap :
    ((after (.exit ⟨false, 0, 0, 0, 0⟩) (lanes 1)).thread { wg := 1, grp := 0, lane := 0 }).live = false ∧
    ((after (.trap 9) (lanes 1)).thread { wg := 1, grp := 0, lane := 0 }).pc = 0x2000 ∧
    ((after (.trap 9) (lanes 1)).thread { wg := 1, grp := 0, lane := 0 }).trapPc = 0x1004 ∧
    ((after (.trap 9) (lanes 1)).thread { wg := 1, grp := 0, lane := 0 }).trapInfo = 9 ∧
    ((after (.trap 9) (lanes 1)).thread { wg := 1, grp := 0, lane := 0 }).priv = true := by decide

/-- R139: with EXPECT 1, the one arrival completes the phase. -/
theorem test_barrier : ((after (.barArrive ⟨false, 0, 0, 0, 0⟩) (lanes 1)).bar 1 0).phase = true := by decide

/-- The state after a step. -/
def afterStep (s : State) : State := match step s with | .next t => t | _ => s

/-- R119, R292: a step fetches, decodes and executes the word placed: `movi.i64 v2, #10`. -/
theorem test_step :
    (afterStep (State.reset.withFetchWord 32 0x20050421)).reg (.v 1 0 0 2) = { bits := 10, tag := 1, full := true } ∧
    ((afterStep (State.reset.withFetchWord 32 0x20050421)).thread { wg := 1, grp := 0, lane := 0 }).pc = 0x1004 := by decide

/-! ## Witnesses: states and operands that meet the hypotheses of each statement -/

/-- Whether the listed registers are full in the listed lanes and no error is injected. -/
def readableB (s : State) (lanes : List Nat) (srcs dsts : List Src) : Bool :=
  s.errInjs.isEmpty && lanes.all (fun l => srcs.all (fun x => !s.isEmpty l x) && dsts.all (fun x => !s.isEmpty l x))

theorem readable_of {s : State} {lanes : List Nat} {srcs dsts : List Src} (h : readableB s lanes srcs dsts = true) :
    ReadableIn s lanes srcs dsts := by
  simp only [readableB, Bool.and_eq_true, List.isEmpty_iff, List.all_eq_true, Bool.not_eq_true'] at h
  exact ⟨h.1, fun l hl x hx => (h.2 l hl).1 x hx, fun l hl x hx => (h.2 l hl).2 x hx⟩

/-- Whether the issuing lanes are a bundle. -/
def bundleB (s : State) : Bool := s.curLanes.all (fun l => (s.thread (s.curThread l)).live) && decide (s.curLanes.Pairwise (· < ·))

theorem bundle_of {s : State} (h : bundleB s = true) : Bundle s := by
  simp only [bundleB, Bool.and_eq_true, List.all_eq_true, decide_eq_true_eq] at h
  exact ⟨h.1, h.2⟩

/-- The operands are readable and the tags accepted of an instruction that executes in some lane. -/
def MeetsTags (s : State) (f : Form) (arity : Nat) (dsts : List Src) (ok : List Tag → Prop) : Prop :=
  s.execLanes f ≠ [] ∧ Readable s f ((f.srcs arity).map (·.src)) dsts ∧ ∀ l ∈ s.execLanes f, ok (s.srcTags f arity l)

theorem meets_tags {s : State} {f : Form} {arity : Nat} {dsts : List Src} {ok : List Tag → Prop} (p : List Tag → Bool)
    (hp : ∀ l, p l = true → ok l)
    (h : (!(s.execLanes f).isEmpty && readableB s (s.trapSet f ++ helperLanes s f) ((f.srcs arity).map (·.src)) dsts
      && (s.execLanes f).all (fun l => p (s.srcTags f arity l))) = true) : MeetsTags s f arity dsts ok := by
  simp only [Bool.and_eq_true, List.all_eq_true, Bool.not_eq_true', List.isEmpty_eq_false_iff] at h
  exact ⟨h.1.1, readable_of h.1.2, fun l hl => hp _ (h.2 l hl)⟩

/-- The hypotheses of `Computes`, of an instruction that executes in some lane. -/
abbrev MeetsComputes (s : State) (f : Form) (arity : Nat) (check : List Tag → Except Nat Tag) : Prop :=
  f.dUni = f.uniform ∧ MeetsTags s f arity [f.dstSrc] (fun tags => ∃ g, check tags = .ok g)

/-- Whether an answer accepts. -/
def accepts {α β : Type} (x : Except α β) : Bool := match x with | .ok _ => true | .error _ => false

theorem accepts_ok {α β : Type} {x : Except α β} (h : accepts x = true) : ∃ y, x = .ok y := by
  cases x with
  | ok y => exact ⟨y, rfl⟩
  | error _ => cases h

theorem meets_computes {s : State} {f : Form} {arity : Nat} {check : List Tag → Except Nat Tag}
    (h : (f.dUni == f.uniform && (!(s.execLanes f).isEmpty
      && readableB s (s.trapSet f ++ helperLanes s f) ((f.srcs arity).map (·.src)) [f.dstSrc]
      && (s.execLanes f).all (fun l => accepts (check (s.srcTags f arity l))))) = true) : MeetsComputes s f arity check := by
  rw [Bool.and_eq_true, beq_iff_eq] at h
  exact ⟨h.1, meets_tags (fun l => accepts (check l)) (fun _ => accepts_ok) h.2⟩

/-- The hypotheses of `Tests`, of an instruction that executes in some lane. -/
abbrev MeetsTests (s : State) (f : Form) (arity : Nat) (check : List Tag → Except Nat Unit) : Prop :=
  MeetsTags s f arity (if f.uniform then [.uni f.d false] else []) (fun tags => check tags = .ok ())

theorem meets_tests {s : State} {f : Form} {arity : Nat} {check : List Tag → Except Nat Unit}
    (h : (!(s.execLanes f).isEmpty
      && readableB s (s.trapSet f ++ helperLanes s f) ((f.srcs arity).map (·.src)) (if f.uniform then [.uni f.d false] else [])
      && (s.execLanes f).all (fun l => accepts (check (s.srcTags f arity l)))) = true) : MeetsTests s f arity check :=
  meets_tags (fun l => accepts (check l)) (fun _ h => (accepts_ok h).choose_spec) h

/-- The hypotheses of `Crosses` but for `pre`, with an active lane. -/
abbrev MeetsCrosses (s : State) (f : Form) (srcs : List Src) : Prop :=
  f.dUni = false ∧ Bundle s ∧ s.active f ≠ [] ∧ ReadableIn s (s.active f) srcs [f.dstSrc] ∧
  ∀ l ∈ s.active f, ∀ m ∈ s.followers l, s.isEmpty m f.dstSrc = false

theorem meets_crosses {s : State} {f : Form} {srcs : List Src}
    (h : (!f.dUni && bundleB s && (!(s.active f).isEmpty && (readableB s (s.active f) srcs [f.dstSrc] &&
      (s.active f).all (fun l => (s.followers l).all (fun m => !s.isEmpty m f.dstSrc))))) = true) : MeetsCrosses s f srcs := by
  simp only [Bool.and_eq_true, Bool.not_eq_true', List.isEmpty_eq_false_iff, List.all_eq_true] at h
  exact ⟨h.1.1, bundle_of h.1.2, h.2.1, readable_of h.2.2.1, h.2.2.2⟩

/-- The uniform form of a 32-bit instruction, and its immediate form. -/
def u3 (so : BitVec 2) : R32 := ⟨true, so, 2, 1, 3⟩
/-- Its greatest register numbers. -/
def top : R32 := ⟨false, 0, 63, 62, 63⟩
/-- D 3, A 1, B 2, C 0 of a 64-bit form, lane and uniform. -/
def r3 : R64 := rrr 0 0 2 1 3
def ru3 : R64 := { u := true, fsc := true, fsb := true, fsa := true, fsd := true, gn := false, gk := 0, so := 0, sh := .rrr false false 8 false 2 false 1 3 }

/-- A group of four live threads in one quad that issues at 0x1000 with all of them; v0 to v8 are tagged `t`. -/
def quad (t : Tag) : State :=
  { lanes t with
    cur := .group 1 0 [0, 1, 2, 3] 0x1000 4
    threads := [0, 1, 2, 3].map (fun l => ({ wg := 1, grp := 0, lane := l }, { Thread.absent with live := true, pc := 0x1000 }))
    regs := [0, 1, 2, 3].flatMap (fun l => (List.range 9).map (fun n =>
      (RegKey.v 1 0 l n, ({ bits := BitVec.ofNat 64 (16 * l + n), tag := t, full := true } : Reg)))) ++ filledRegs t t }

/-- The Helm of the workgroup issues; its h registers 0 to 8, 62 and 63 are tagged `t`. -/
def helm (t : Tag) : State := { lanes t with cur := .helm 1 0x1000 4 }

/-- A latch set of `mzero` on tile 2, its operands not yet captured. -/
def latch0 : Latch :=
  { wg := 1, op := { kind := .mzero, tile := 2, ta := false, a := none, b := none, disp := 0, code := 0, depth := 8, x := false, so := 0, len := 4 }
    pc := 0x1000, executing := false, caps := [], rows := [], baseB := 0, scales := [], addr := 0, stride := 128, bad := false, capDone := false
    wasTag := false, wasLive := false, asyncId := none, seq := 0, floors := 0, baseA := 0, index := 0, planned := true, scaleBase := 0, scaleOrg := 0
    scaleShift := 0, waited := 0 }

/-- The quad's workgroup with 1,024 bytes of core scratchpad; v0 of lane l holds 16 × l, v8 16 × l + 8. -/
def near (t : Tag) : State :=
  { quad t with launches := FMap.modify (quad t).launches 1 (fun l => { l with scratch := 1024 }) }

/-- The state of `placeKernel` with its group issuing at 0x1000; v4 to v7 and s4 to s7 hold global address `a`, tagged I64. -/
def placed (a : Word) : State :=
  let s := State.reset.placeKernel []
  { s with
    cur := .group 1 0 [0] 0x1000 4
    regs := [4, 5, 6, 7].flatMap (fun n =>
      let r : Reg := { bits := a, tag := 1, full := true }
      [(RegKey.v 1 0 0 n, r), (RegKey.s 1 0 n, r), (RegKey.h 1 n, r)]) ++ s.regs }

/-- The generic address of an offset of core scratchpad. -/
def fd (off : Nat) : Word := BitVec.ofNat 64 (0xFD * 2 ^ 56 + off)

/-- One lane with 8 KiB of core scratchpad that holds the given bytes at the given offsets; s4 and s5 name offsets 0 and 64. -/
def scr (xs : List (Nat × List Byte)) : State :=
  let s := { lanes 1 with launches := FMap.modify (lanes 1).launches 1 (fun l => { l with scratch := 8192 }) }
  let t := xs.foldl (fun t x => t.renew (scratchAt 1 x.1) x.2) s
  (t.setReg (.s 1 0 4) { bits := fd 0, tag := 1, full := true }).setReg (.s 1 0 5) { bits := fd 64, tag := 1, full := true }

/-- A number of 0 bytes. -/
def zeros (n : Nat) : List Byte := List.replicate n 0

/-- A layout record: BASE, FMT, NDIM, CMODE, the first two extents, the stride of dimension 1. -/
def layoutRec (base fmt ndim cmode e0 e1 st : Nat) : List Byte :=
  leBytes 8 base ++ leBytes 1 fmt ++ leBytes 1 ndim ++ leBytes 1 cmode ++ zeros 5 ++ leBytes 4 e0 ++ leBytes 4 e1 ++ leBytes 4 1 ++ leBytes 4 1 ++
    leBytes 8 st ++ zeros 24

/-- D 1 (barrier 0), A s4, B s5. -/
def e3 : R32 := ⟨false, 0, 5, 4, 1⟩

/-- O1: 16-, 32- and 64-bit forms, lane and uniform, an immediate, the greatest register numbers; addc in lanes and in the uniform file. -/
theorem witness_IntegerAddSubResults :
    MeetsComputes (lanes 1) (form32 (w3 0) true true) 2 (sameTags isIntTag) ∧ MeetsComputes (lanes 5) (form32 (u3 2) true true) 2 (sameTags isIntTag) ∧
    MeetsComputes (lanes 2) (form16 ⟨1, 2⟩ false) 2 (sameTags isIntTag) ∧ MeetsComputes (lanes 3) (form64 ru3 true) 2 (sameTags isIntTag) ∧
    MeetsComputes (lanes 4) (form32 top false true) 1 (sameTags isIntTag) ∧
    (MeetsTags (lanes 1) (form32 (w3 0) true true) 2 [(form32 (w3 0) true true).dstSrc] (· = [1, 1])) ∧
    (form64 ru3 true).d ≠ (form64 ru3 true).kc ∧
    Readable (lanes 1) (form64 ru3 true) ([(form64 ru3 true).a, (form64 ru3 true).b, .uni (form64 ru3 true).kc false]) [(form64 ru3 true).dstSrc] ∧
    (lanes 1).srcTags (form64 ru3 true) 2 0 = [1, 1] :=
  ⟨meets_computes (by decide), meets_computes (by decide), meets_computes (by decide), meets_computes (by decide), meets_computes (by decide),
    meets_tags (· == [1, 1]) (fun _ h => beq_iff_eq.mp h) (by decide), by decide, readable_of (by decide), by decide⟩

theorem witness_MultiplyFamilyResults :
    MeetsComputes (lanes 1) (form32 (w3 2) false true) 2 (sameTags isIntTag) ∧ MeetsComputes (lanes 2) (form64 r3 true) 3 (sameTags isIntTag) ∧
    MeetsComputes (lanes2 5 2) (form32 (w3 0) false true) 3 idotCheck ∧ MeetsComputes (lanes2 3 2) (form32 (u3 0) false true) 3 idotCheck :=
  ⟨meets_computes (by decide), meets_computes (by decide), meets_computes (by decide), meets_computes (by decide)⟩

theorem witness_CounterHashResults :
    MeetsComputes (lanes 1) (form32 (w3 0) false true) 2 (sameTags isI64) ∧ MeetsComputes (lanes 1) (form64 ru3 true) 2 (sameTags isI64) :=
  ⟨meets_computes (by decide), meets_computes (by decide)⟩

theorem witness_SelectionAndAddressResults :
    MeetsComputes (lanes 5) (form32 (w3 0) true true) 2 (sameTags isIntTag) ∧ MeetsComputes (lanes 2) (form64 r3 false) 2 (sameTags isIntTag) ∧
    MeetsComputes (lanes 14) (form32 (u3 0) false true) 1 (fun tags => .ok (tags.getD 0 0)) ∧ ((0 : BitVec 4) ≠ 0 ∨ (3 : BitVec 4) ≠ 0) ∧
    MeetsComputes (lanes 0) (form16 ⟨0, 3⟩ true) 1 (fun tags => .ok (tags.getD 0 0)) ∧
    MeetsComputes (lanes 1) (form64 r3 true) 2 (sameTags isI64) ∧
    Readable (lanes2 7 1) (form64 r3 true) [(form64 r3 true).a, (form64 r3 true).b] [(form64 r3 true).dstSrc] ∧
    (form64 ru3 true).dUni = (form64 ru3 true).uniform ∧
    Readable (lanes2 7 1) (form64 ru3 true) [(form64 ru3 true).a, (form64 ru3 true).b, .uni (form64 ru3 true).kc false] [(form64 ru3 true).dstSrc] :=
  ⟨meets_computes (by decide), meets_computes (by decide), meets_computes (by decide), by decide, meets_computes (by decide), meets_computes (by decide),
    readable_of (by decide), by decide, readable_of (by decide)⟩

theorem witness_LogicShiftFieldResults :
    MeetsComputes (lanes2 7 14) (form32 ⟨true, 0, 3, 1, 4⟩ true false) 2 logicTag ∧ MeetsComputes (lanes 0) (form16 ⟨1, 2⟩ false) 2 logicTag ∧
    MeetsComputes (lanes 5) (form32 (w3 2) true false) 2 (sameTags isIntTag) ∧ MeetsComputes (lanes 1) (form64 (ri 0 63 1 3) false) 2 (sameTags isIntTag) ∧
    MeetsComputes (lanes 4) (form64 r3 false) 1 (sameTags isIntTag) ∧ MeetsComputes (lanes 2) (form32 (w3 2) true false) 2 (sameTags isBitField) ∧
    MeetsComputes (lanes 1) (form64 r3 false) 3 (sameTags isBitField) ∧ MeetsComputes (lanes2 7 4) (form32 (w3 0) true false) 3 aluPerm.check ∧
    MeetsComputes (lanes 1) { formNone with uniform := true, d := 63, dUni := true } 0 (fun _ => .ok 14) ∧
    MeetsComputes (lanes 1) { formNone with a := .lane 3 false, d := 3 } 1 (fun _ => .ok 7) ∧
    MeetsComputes (lanes 1) (form64 { r3 with sh := .imm32 0x80000000 3 } true) 0 (fun _ => .ok 1) :=
  ⟨meets_computes (by decide), meets_computes (by decide), meets_computes (by decide), meets_computes (by decide), meets_computes (by decide),
    meets_computes (by decide), meets_computes (by decide), meets_computes (by decide), meets_computes (by decide), meets_computes (by decide),
    meets_computes (by decide)⟩

theorem witness_FloatArithmeticResults :
    MeetsComputes (lanes 7) (form32 (w3 0) false false) 2 (sameTags isFpTag) ∧ MeetsComputes (lanes 9) (form32 (u3 0) false false) 2 (sameTags isFpTag) ∧
    MeetsComputes (lanes 6) (formF { r3 with sh := .imm32 0x3F800000 3 }) 2 (sameTags isFpTag) ∧
    MeetsComputes (lanes 8) (formF (ri 0 0x3F80 1 3)) 2 (sameTags isFpTag) ∧ MeetsComputes (lanes 6) (form16 ⟨1, 2⟩ false) 2 (sameTags isFpTag) ∧
    MeetsComputes (lanes 9) (form32 (w3 2) false false) 3 (sameTags isFpTag) ∧ MeetsComputes (lanes 6) (form64 ru3 false) 3 (sameTags isFpTag) :=
  ⟨meets_computes (by decide), meets_computes (by decide), meets_computes (by decide), meets_computes (by decide), meets_computes (by decide),
    meets_computes (by decide), meets_computes (by decide)⟩

theorem witness_FloatUnaryAndPackResults :
    MeetsComputes (lanes 6) (form32 (w3 0) false false) 1 (sameTags isFpTag) ∧ MeetsComputes (lanes 9) (form64 ru3 false) 1 aluFclass.check ∧
    MeetsComputes (lanes2 7 2) (form32 ⟨false, 0, 4, 1, 3⟩ false false) 2 (fscaleCheck false) ∧
    MeetsComputes (lanes 6) (form64 (ri 0 0xFFFF 1 3) true) 2 (fscaleCheck (hasImm16 (ri 0 0xFFFF 1 3))) ∧
    MeetsComputes (lanes 7) (form32 (u3 0) false false) 2 (sameTags isPackedFp) ∧ MeetsComputes (lanes 5) (form32 (w3 0) false false) 2 (sameTags isPackTag) ∧
    MeetsComputes (lanes 12) (form64 (ri 0 0x3F80 1 3) false) 2 (sameTags isPackTag) ∧ MeetsComputes (lanes 3) (form32 (w3 3) false false) 1 (sameTags isSwzTag) :=
  ⟨meets_computes (by decide), meets_computes (by decide), meets_computes (by decide), meets_computes (by decide), meets_computes (by decide),
    meets_computes (by decide), meets_computes (by decide), meets_computes (by decide)⟩

theorem witness_DotAndSpecialFunctionResults :
    MeetsComputes (lanes2 8 7) (form32 (w3 2) false false) 3 fdotCheck ∧ MeetsComputes (lanes2 12 7) (form32 (u3 0) false false) 3 fdotCheck ∧
    MeetsComputes ((lanes2 11 7).setReg (.v 1 0 0 1) { bits := 1, tag := 13, full := true }) (form32 (w3 0) false false) 3 fdotCheck ∧
    MeetsComputes (lanes 7) (form32 (w3 2) false false) 1 (sameTags isPackedFp) ∧ MeetsComputes (lanes 9) (form64 ru3 false) 1 (sameTags isPackedFp) :=
  ⟨meets_computes (by decide), meets_computes (by decide), meets_computes (by decide), meets_computes (by decide), meets_computes (by decide)⟩

theorem witness_ComparisonResults :
    MeetsTests (lanes 1) (form32 (w3 3) true true) 2 (sameTagsOnly isIntTag) ∧ MeetsTests (lanes 5) (form32 (u3 0) true true) 2 (sameTagsOnly isIntTag) ∧
    MeetsTests (lanes 2) (form64 (ri 0 0xFFFF 1 7) true) 2 (sameTagsOnly isIntTag) ∧ MeetsTests (lanes 6) (form32 (w3 0) false false) 2 (sameTagsOnly isFpTag) ∧
    MeetsTests (lanes 9) (form64 ru3 false) 2 (sameTagsOnly isFpTag) ∧ MeetsTests (lanes 7) (form32 (u3 0) false false) 1 predGterm.check :=
  ⟨meets_tests (by decide), meets_tests (by decide), meets_tests (by decide), meets_tests (by decide), meets_tests (by decide), meets_tests (by decide)⟩

/-- Whether a conversion is legal in every thread of the bundle and its tags accepted in every executing lane. -/
def convertsB (s : State) (f : Form) (o : CvtOps) (t : Tag) : Bool :=
  f.dUni == f.uniform && readableB s (s.trapSet f ++ helperLanes s f) [f.a] [f.dstSrc] && !(s.execLanes f).isEmpty && cvtTarget t &&
  (if f.uniform || s.curHelm then [0] else s.curLanes).all (fun l => cvtIllegal o (s.srcTagOf l f.a) t == none) &&
  (s.trapSet f ++ helperLanes s f).all (fun l => cvtRole (s.srcTagOf l f.a) t != .register || !s.isEmpty l f.b) &&
  (s.execLanes f).all (fun l => let src := s.srcTagOf l f.a
    (cvtElem src o.unsigned).isSome && (cvtElem t o.unsigned).isSome && (cvtRole src t != .register || s.srcTagOf l f.b == src))

/-- Into a narrower format, one of equal width, a wider one at its last offset; from TS8X8; in the uniform file. -/
theorem witness_ConversionResults :
    convertsB (lanes 7) (form32 (w3 0) false false) (cvtOps32 (w3 0)) 8 = true ∧
    convertsB (lanes 7) (form32 ⟨true, 3, 0, 1, 3⟩ false false) (cvtOps32 ⟨true, 3, 0, 1, 3⟩) 2 = true ∧
    convertsB (lanes 10) (form32 ⟨false, 0, 6, 1, 3⟩ false false) (cvtOps32 ⟨false, 0, 6, 1, 3⟩) 7 = true ∧
    convertsB (lanes 13) (form64 (rrr 0 1 0 1 3) false) (cvtOps64 (rrr 0 1 0 1 3) false) 10 = true ∧
    convertsB (lanes 1) (form64 ru3 false) (cvtOps64 ru3 false) 5 = true := by decide

/-- The quad with lane 2 exited, which lane 0 leads, and lane 3 killed, which holds no thread. -/
def three (t : Tag) : State :=
  { quad t with
    cur := .group 1 0 [0, 1] 0x1000 4
    threads := [0, 1, 2, 3].map (fun l => ({ wg := 1, grp := 0, lane := l },
      { Thread.absent with live := decide (l < 2), killed := decide (l = 3), pc := 0x1000 })) }

/-- Lanes out of range keep their own: one lane, and a quad; every mode of qswap; a helper lane; a mate that holds no thread. -/
theorem witness_ShuffleAndQuadResults :
    (MeetsCrosses (three 1) (form64 r3 false) [.lane 1 false, .lane 2 false] ∧ (three 1).followers 0 = [2] ∧
      ((three 1).thread ((three 1).curThread 3)).live = false ∧ ((three 1).thread ((three 1).curThread 3)).killed = true) ∧
    MeetsCrosses (lanes 1) (form32 (w3 0) true false) [.lane 1 false, .lane 2 false] ∧ ((3 : BitVec 3).toNat < 4) ∧
    (lanes 1).srcTagOf 0 (.lane 2 false) = 1 ∧ MeetsCrosses (quad 12) (form32 ⟨false, 2, 63, 1, 3⟩ true false) [.lane 1 false, .imm 63] ∧
    MeetsCrosses (quad 1) (form64 r3 false) [.lane 1 false, .lane 2 false] ∧ (∀ l ∈ (quad 1).active (form64 r3 false), (quad 1).srcTagOf l (.lane 2 false) = 1) ∧
    (∀ mode ∈ [1, 2, 3], (form32 (w3 0) false false).uniform = false ∧
      ∀ l ∈ (quad 7).active (form32 (w3 0) false false) ++ (quad 7).activeHelpers (form32 (w3 0) false false), (quad 7).isEmpty (l ^^^ mode) (.lane 1 false) = false) ∧
    (∀ l ∈ (quad 7).active (form32 (w3 0) false false), ∀ bit ∈ [1, 2], isPackedFp ((quad 7).srcTagOf (l ||| bit) (.lane 1 false)) = true ∧
      (quad 7).srcTagOf ((l ||| bit) ^^^ bit) (.lane 1 false) = (quad 7).srcTagOf (l ||| bit) (.lane 1 false)) ∧
    Readable (quad 7) (form32 (w3 0) false false) [] [.lane 3 false] ∧ (quad 7).active (form32 (w3 0) false false) = [0, 1, 2, 3] :=
  ⟨⟨meets_crosses (by decide), by decide, by decide, by decide⟩,
    meets_crosses (by decide), by decide, by decide, meets_crosses (by decide), meets_crosses (by decide), by decide, by decide, by decide,
    readable_of (by decide), by decide⟩

/-- An integer and a floating-point reduction over a quad, and over one lane. -/
theorem witness_ReductionAndScanResults :
    MeetsCrosses (quad 5) (form32 (w3 0) false false) [.lane 1 false] ∧ isIntTag 5 = true ∧
    (∀ l ∈ (quad 5).active (form32 (w3 0) false false), (quad 5).srcTagOf l (.lane 1 false) = 5) ∧
    MeetsCrosses (quad 9) (form64 r3 false) [.lane 1 false] ∧ isFpTag 9 = true ∧
    (∀ l ∈ (quad 9).active (form64 r3 false), (quad 9).srcTagOf l (.lane 1 false) = 9) ∧
    MeetsCrosses (lanes 6) (form32 (w3 0) false false) [.lane 1 false] ∧ (lanes 6).srcTagOf 0 (.lane 1 false) = 6 :=
  ⟨meets_crosses (by decide), by decide, by decide, meets_crosses (by decide), by decide, by decide, meets_crosses (by decide), by decide⟩

/-- With four active lanes; with none, the guard !k0 failing. -/
theorem witness_VoteAndMaskResults :
    Bundle (quad 1) ∧ (quad 1).active (form32 (w3 0) false false) = [0, 1, 2, 3] ∧
    ReadableIn (quad 1) [0, 1, 2, 3] [.lane 1 false] [.uni 3 false] ∧ ReadableIn (quad 1) [0, 1, 2, 3] [] [.uni 63 false] ∧
    (quad 1).active (form64 { r3 with gn := true } false) = [] ∧ ReadableIn (quad 1) [] [.lane 1 false] [.uni 3 false] :=
  ⟨bundle_of (by decide), by decide, readable_of (by decide), readable_of (by decide), by decide, readable_of (by decide)⟩

theorem witness_SplatResults :
    Readable (lanes2 1 7) (form32 ⟨false, 0, 3, 1, 5⟩ false false) [.lane 1 false, .lane 3 false] [.lane 5 false] ∧
    (lanes2 1 7).srcTagOf 0 (.lane 1 false) = 1 ∧ (lanes2 1 7).srcTagOf 0 (.lane 3 false) = 7 ∧
    Readable (lanes2 2 7) (form32 ⟨true, 0, 3, 1, 5⟩ false false) [.uni 1 false, .uni 3 false] [.uni 5 false] ∧
    Readable (quad 7) (form32 (w3 2) false false) [.lane 1 false, .lane 2 false, .lane 3 false, .lane 3 false] [.lane 3 false] ∧
    (∀ l ∈ [0, 1, 2, 3], ∀ n ∈ [1, 2, 3, 4], (quad 7).srcTagOf l (.lane n false) = 7) ∧
    Readable (quad 7) (form64 r3 false) [.lane 1 false, .lane 2 false, .lane 3 false, .lane 4 false] [.lane 3 false, .lane 4 false] :=
  ⟨readable_of (by decide), by decide, by decide, readable_of (by decide), readable_of (by decide), by decide, readable_of (by decide)⟩

/-- R256's premises at both ends of a binade; FP32 1.0 decodes to a number; the order's clauses have no premise. -/
theorem witness_NumberFormatLaws :
    ((-1 : Int) < 0 ∧ (2 : Nat) = 2 ^ ((0 : Int) - -1).toNat) ∧ f32 ∈ [f64, f32, f16, bf16, e4m3, e5m2, e2m1] ∧
    0x3F800000 < 2 ^ f32.width ∧ f32.decode 0x3F800000 = .num false 8388608 (-23) ∧ f32.decode 1 = .num false 1 (-149) ∧
    e2m1.decode 7 = .num false 3 1 := by decide

/-- A group's and a Helm's branch; a jump to the even address in v1 and one to an odd address; the Helm's bc on h3. -/
theorem witness_BranchResults :
    (lanes 1).curHelm = false ∧ Bundle (lanes 1) ∧ ReadableIn (lanes 1) ((lanes 1).curLanes ++ (lanes 1).helpers) [] [.lane 63 false] ∧
    (∀ l ∈ (quad 1).active (form32 (w3 0) false false), (quad 1).srcTagOf l (.lane 1 false) = 1) ∧
    ReadableIn (quad 1) ((quad 1).active (form64 r3 false) ++ (quad 1).activeHelpers (form64 r3 false)) [.lane 2 false] [.lane 3 false] ∧
    bitAt ((quad 1).srcBits 0 (.lane 2 false)) 0 = false ∧ bitAt ((quad 1).srcBits 0 (.lane 1 false)) 0 = true ∧
    (helm 1).curHelm = true ∧ ReadableIn (helm 1) [0] [.uni 3 false] [] :=
  ⟨by decide, bundle_of (by decide), readable_of (by decide), by decide, readable_of (by decide), by decide, by decide, by decide, readable_of (by decide)⟩

/-- exit with lanes active and ready, with none active, not ready while an operation is unfinished; a Helm's exit; a trap. -/
theorem witness_ExitYieldNapTrapResults :
    let f := form32 ⟨false, 0, 0, 0, 0⟩ false false
    Bundle (quad 1) ∧ (quad 1).curHelm = false ∧ (quad 1).active f ≠ [] ∧
    ((quad 1).group (quad 1).curGroup).ctr = Counters.zero ∧ ((quad 1).group (quad 1).curGroup).pendingPub = [] ∧
    (quad 1).pubReady (quad 1).curGroup = true ∧ (quad 1).active (form64 { r3 with gn := true } false) = [] ∧
    (let s := (quad 1).setGroup { wg := 1, grp := 0 } { Group.absent with present := true, ctr := Counters.zero.set .cpy 1 }
     bundleB s = true ∧ s.lastLanes s.curGroup (s.active f) = true ∧ (s.group s.curGroup).ctr ≠ Counters.zero) ∧
    (helm 1).curHelm = true ∧ (helm 1).capturePending 1 = false ∧
    (let s := (helm 1).setCore 0 { (helm 1).core 0 with latches := [latch0] }
     s.curHelm = true ∧ s.capturePending s.curGroup.wg = true) := by
  refine ⟨bundle_of (by decide), ?_⟩
  decide

/-- Two spawns of a quad: into a bin with room, and into the generation of a deterministic kernel with none before. -/
theorem witness_SpawnEntersRecords :
    let s := (quad 1).setReg (.s 1 0 1) { bits := 0x4000, tag := 1, full := true }
    let d := { s with launches := FMap.modify s.launches 1 (fun l => { l with det := true }) }
    let f := formUniA ⟨false, 0, 2, 1, 0⟩
    s.curHelm = false ∧ Bundle s ∧ s.active f = [0, 1, 2, 3] ∧ (s.reg (s.uniKey 1)).tag = 1 ∧ bitAt (s.reg (s.uniKey 1)).bits 0 = false ∧
    ReadableIn s (s.active f) [.uni 1 false, .lane 2 false, .lane 3 false, .lane 4 false, .lane 5 false] [] ∧
    (s.group s.curGroup).pendingPub = [] ∧ (s.launchOf 1).det = false ∧
    (s.core (s.coreOf 1)).binsTake (s.wg 1).launch 0x4000 4 = true ∧
    (d.launchOf 1).det = true ∧ d.heldCount 1 + 4 ≤ 1024 ∧ Bundle d := by
  refine ⟨by decide, bundle_of (by decide), by decide, by decide, by decide, readable_of (by decide), by decide, by decide, by decide, by decide,
    by decide, bundle_of (by decide)⟩

/-- Whether the words of a memory instruction lie on chip, as `OnChip` says. -/
def onChipB (s : State) (m : MemArgs) (lanes : List Nat) : Bool :=
  !lanes.isEmpty && lanes.all (fun l => (s.memAddr m l).toNat % m.size == 0 &&
    (s.memWords m l).all (fun a => match s.decodeAddr (s.laneReq l) m.space a m.size with
      | some (.chip x) => !s.lineAbsent x && !s.lineEmpty x
      | _ => false))

theorem onChip_of {s : State} {m : MemArgs} {lanes : List Nat} (h : onChipB s m lanes = true) : lanes ≠ [] ∧ OnChip s m lanes := by
  simp only [onChipB, Bool.and_eq_true, List.all_eq_true, beq_iff_eq, Bool.not_eq_true', List.isEmpty_eq_false_iff] at h
  refine ⟨h.1, fun l hl => ⟨(h.2 l hl).1, fun a ha => ?_⟩⟩
  have := (h.2 l hl).2 a ha
  split at this
  · rename_i x hx
    simp only [Bool.and_eq_true, Bool.not_eq_true'] at this
    exact ⟨x, hx, this.1, this.2⟩
  · cases this

/-- Whether a load resolves, waits for nothing and reads without a fault. -/
def loadsB (s : State) (m : MemArgs) : Bool :=
  let lanes := s.memLanes m ++ s.memHelpers m
  let x := s.resolveLanes m .read lanes
  let p := x.2.prepLanes m.size x.1
  !lanes.isEmpty && !s.phasePending s.curGroup && !s.pageHeld m lanes && !p.1 &&
    (p.2.readLanes m .floor wordOf x.1).1.all (fun g => match g.2 with | .values _ => true | _ => false)

theorem loads_of {s : State} {m : MemArgs} (h : loadsB s m = true) :
    let lanes := s.memLanes m ++ s.memHelpers m
    lanes ≠ [] ∧ s.phasePending s.curGroup = false ∧ s.pageHeld m lanes = false ∧
    ∃ (xs : List LaneSpots) (u v : State) (got : List (Nat × LaneGot)) (r : State), s.resolveLanes m .read lanes = (xs, u) ∧
      u.prepLanes m.size xs = (false, v) ∧ v.readLanes m .floor wordOf xs = (got, r) ∧ ∀ x ∈ got, ∃ vs, x.2 = .values vs := by
  simp only [loadsB, Bool.and_eq_true, Bool.not_eq_true', List.isEmpty_eq_false_iff, List.all_eq_true] at h
  refine ⟨h.1.1.1.1, h.1.1.1.2, h.1.1.2, _, _, _, _, _, rfl, Prod.ext h.1.2 rfl, rfl, fun x hx => ?_⟩
  have := h.2 x hx
  split at this
  · exact ⟨_, by assumption⟩
  · cases this

/-- Operands of 8 bytes: data v3, base a v register. -/
def mem8 (p : BitVec 3) (a : BitVec 6) (o : BitVec 5) : M32 := { p := p, g := 1, f := true, o := o, a := a, d := 3 }

/-- The quad in `near`, s5 holding the generic address of scratchpad offset 8. -/
def generic (t : Tag) : State := (near t).setReg (.s 1 0 5) { bits := 0xFD00000000000008, tag := 1, full := true }

/-- An atomic's operands: base s5, data v3. -/
def atomW (q : BitVec 4) : R64 := { ri 0 0 5 3 with fsa := true, sh := .imm16 q 0 false false 5 3 }

/-- Whether each word of a load on chip has one permitted value and no poison. -/
def settledB (s : State) (m : MemArgs) (inv : Bool) : Bool :=
  (s.memLanes m ++ s.memHelpers m).all (fun l => (s.memWords m l).all (fun a => let x := chipPlace s m l a
    decide (s.firstPoison x m.size = none ∧ (spaceOf x = 7 ∨
      if inv then s.instantsSince (s.launchOf s.curGroup.wg).startSeq x m.size = [] else s.olderInstants s.curParty x m.size = []))))

/-- Core scratchpad at the greatest offset, lane-private memory up to its last byte, global memory through a mapped page. -/
theorem witness_LoadResults :
    let a := Machine.mem32 (mem8 1 0 31) 8
    let b := Machine.mem32 (mem8 4 0 25) 8
    let c := Machine.mem32 (mem8 0 4 0) 8
    Bundle (near 1) ∧ ReadableIn (near 1) ((near 1).active a.form ++ (near 1).memHelpers a) [a.base] a.data ∧
    (near 1).phasePending (near 1).curGroup = false ∧ OnChip (near 1) a ((near 1).memLanes a ++ (near 1).memHelpers a) ∧
    settledB (near 1) a false = true ∧ settledB (near 1) a true = true ∧
    OnChip (near 1) b ((near 1).memLanes b ++ (near 1).memHelpers b) ∧ settledB (near 1) b false = true ∧
    Bundle (placed 0x1100) ∧ ReadableIn (placed 0x1100) [0] [c.base] c.data ∧
    (let s := placed 0x1100
     let lanes := s.memLanes c ++ s.memHelpers c
     lanes ≠ [] ∧ s.phasePending s.curGroup = false ∧ s.pageHeld c lanes = false ∧
     ∃ (xs : List LaneSpots) (u v : State) (got : List (Nat × LaneGot)) (r : State), s.resolveLanes c .read lanes = (xs, u) ∧
       u.prepLanes c.size xs = (false, v) ∧ v.readLanes c .floor wordOf xs = (got, r) ∧ ∀ x ∈ got, ∃ vs, x.2 = .values vs) :=
  ⟨bundle_of (by decide), readable_of (by decide), by decide, (onChip_of (by decide)).2, by decide, by decide, (onChip_of (by decide)).2, by decide,
    bundle_of (by decide), readable_of (by decide), loads_of (by decide)⟩

theorem ok_and {α β : Type} {x : Except α β} {P : β → Prop} (p : β → Bool) (hp : ∀ y, p y = true → P y)
    (h : (match x with | .ok y => p y | .error _ => false) = true) : ∃ y, x = .ok y ∧ P y := by
  cases x with
  | ok y => exact ⟨y, rfl, hp y h⟩
  | error _ => cases h

/-- The operands of the stores below: core scratchpad at its greatest offset, a reduction there, and global memory. -/
def chipStore : MemArgs := Machine.mem32 (mem8 1 0 31) 8
def redArgs : MemArgs := mem64 5 (atomW 0) 8 1
def globalStore : MemArgs := Machine.mem32 (mem8 0 4 0) 8

/-- A quad's store on chip. -/
theorem witness_StoreResults_chip :
    Bundle (near 1) ∧ ReadableIn (near 1) ((near 1).active chipStore.form) (chipStore.base :: chipStore.data) [] ∧
    (near 1).pubPending (near 1).curGroup = false ∧ OnChip (near 1) chipStore ((near 1).memLanes chipStore) ∧
    (near 1).stages (near 1).curGroup.wg = false :=
  ⟨bundle_of (by decide), readable_of (by decide), by decide, (onChip_of (by decide)).2, by decide⟩

theorem witness_StoreResults_room :
    ((near 1).prepStores chipStore .write ((near 1).memLanes chipStore)).1 = false ∧
    ((generic 1).prepStores redArgs .reduce ((generic 1).active redArgs.form)).1 = false := by decide +kernel

/-- A quad's reduction on chip. -/
theorem witness_StoreResults_reduction :
    let s := generic 1
    s.curHelm = false ∧ Bundle s ∧ s.active redArgs.form = [0, 1, 2, 3] ∧ redArgs.data = [.lane 3 false] ∧
    (∀ l ∈ s.active redArgs.form, ∀ x ∈ redArgs.data, redTagOk 0 (s.srcTagOf l x) = true) ∧
    ReadableIn s (s.active redArgs.form) (redArgs.base :: redArgs.data) [] ∧ s.relWaits (atomRel (atomW 0)) = false ∧
    redArgs.uni = false ∧ OnChip s redArgs (s.active redArgs.form) :=
  ⟨by decide, bundle_of (by decide), by decide, by decide, by decide, readable_of (by decide), by decide, by decide, (onChip_of (by decide)).2⟩

theorem witness_StoreResults_words :
    ∀ l ∈ (generic 1).active redArgs.form, ∀ a ∈ (generic 1).memWords redArgs l,
      (generic 1).isPoisoned (chipPlace (generic 1) redArgs l a) = false :=
  have h : ((generic 1).active redArgs.form).all (fun l => ((generic 1).memWords redArgs l).all (fun a =>
    !(generic 1).isPoisoned (chipPlace (generic 1) redArgs l a))) = true := by decide +kernel
  fun l hl a ha => (Bool.not_eq_true' _).mp (List.all_eq_true.mp (List.all_eq_true.mp h l hl) a ha)

/-- One lane's store to global memory, and one that is staged in a deterministic kernel. -/
theorem witness_StoreResults_global :
    let s := placed 0x1100
    Bundle s ∧ Memory.wf s.mem = true ∧ s.memLanes globalStore = [0] ∧ ReadableIn s (s.active globalStore.form) (globalStore.base :: globalStore.data) [] ∧
    s.pubPending s.curGroup = false ∧ (s.memAddr globalStore 0).toNat % globalStore.size = 0 ∧
    s.decodeAddr (s.laneReq 0) globalStore.space (s.memAddr globalStore 0) globalStore.size = some (.global 0x1100) ∧
    s.stages s.curGroup.wg = false ∧ s.loggedBefore (s.curThread 0) (pageOf 0x1100) = none ∧ (s.prepStores globalStore .write [0]).1 = false :=
  ⟨bundle_of (by decide), by decide, by decide, readable_of (by decide), by decide, by decide, by decide +kernel, by decide, by decide +kernel,
    by decide +kernel⟩

theorem witness_StoreResults_place :
    ∃ p, ((placed 0x1100).advance.resolve ((placed 0x1100).laneReq 0) spGlobal (BitVec.ofNat 64 0x1100) 8 .write).1 = .ok p ∧ p.loc = .flat 0x201100 :=
  ok_and (fun p => p.loc == .flat 0x201100) (fun _ h => beq_iff_eq.mp h) (by decide +kernel)

theorem witness_StoreResults_staged :
    let d := { placed 0x1100 with launches := FMap.modify (placed 0x1100).launches 1 (fun l => { l with det := true }) }
    (d.prepStores globalStore .write [0]).1 = false ∧ d.stages d.curGroup.wg = true ∧ d.shareFull d.curGroup.wg = false ∧
    d.advance.storeFault (d.laneReq 0) (d.curThread 0) 0x1100 (.store (leBytes 8 1)) = none :=
  ⟨by decide +kernel, by decide, decide_eq_false (show ¬1024 + Config.stagingEntries ≤ 0 by omega), by decide +kernel⟩

/-- The first and the last function; cas needs v4's tag. -/
theorem witness_AtomicReadModifyWrite :
    let m := mem64 5 (atomW 8) 8 1
    let s := generic 1
    s.curHelm = false ∧ Bundle s ∧ s.active m.form = [0, 1, 2, 3] ∧ m.data = [.lane 3 false] ∧
    (∀ l ∈ s.active m.form, atomTagOk 0 (s.srcTagOf l (.lane 3 false)) = true ∧ atomTagOk 7 (s.srcTagOf l (.lane 3 false)) = true ∧
      s.srcTagOf l (.lane 3 false) = s.srcTagOf l (.lane 4 false)) ∧
    ReadableIn s (s.active m.form) [m.base, .lane 3 false, .lane 4 false] [] ∧ s.relWaits (atomRel (atomW 8)) = false ∧
    s.phasePending s.curGroup = false ∧ OnChip s m (s.active m.form) ∧
    ∀ l ∈ s.active m.form, s.firstPoison (chipPlace s m l (s.memAddr m l)) 8 = none :=
  ⟨by decide, bundle_of (by decide), by decide, by decide, by decide, readable_of (by decide), by decide, by decide, (onChip_of (by decide)).2, by decide⟩

/-- Whether records are read and what they then meet. -/
def recordsB (s : State) (next : List (List Byte) → NextRec) (fuel : Nat) (p : State → List (List Byte) → Bool) : Bool :=
  match s.readRecords next [] fuel with
  | .got recs r => p r recs
  | .out _ => false

theorem records_of {s : State} {next : List (List Byte) → NextRec} {fuel : Nat} (p : State → List (List Byte) → Bool) {P : State → List (List Byte) → Prop}
    (hp : ∀ r recs, p r recs = true → P r recs) (h : recordsB s next fuel p = true) : ∃ r recs, s.readRecords next [] fuel = .got recs r ∧ P r recs := by
  unfold recordsB at h
  split at h
  · exact ⟨_, _, by assumption, hp _ _ h⟩
  · cases h

/-- A bundle that issues, with its operands readable and nothing before it. -/
def issuingB (s : State) (srcs : List Src) : Bool :=
  !s.curHelm && bundleB s && srcs.all (fun x => s.srcTagOf 0 x == 1) && readableB s (bundleLanes s) srcs [] && !s.pubPending s.curGroup && s.keptRecs == none

/-- The hypotheses that every engine issue shares. -/
abbrev Issuing (s : State) (srcs : List Src) : Prop :=
  s.curHelm = false ∧ Bundle s ∧ BundleReads s srcs [] ∧ s.pubPending s.curGroup = false ∧ s.keptRecs = none

theorem issuing_of {s : State} {srcs : List Src} (h : issuingB s srcs = true) : Issuing s srcs := by
  simp only [issuingB, Bool.and_eq_true, Bool.not_eq_true', List.all_eq_true, beq_iff_eq] at h
  exact ⟨h.1.1.1.1.1, bundle_of h.1.1.1.1.2, ⟨h.1.1.1.2, readable_of h.1.1.2⟩, h.1.2, h.2⟩

/-- A copy of two layout records in scratchpad, LEN the whole extent. -/
def copiesB (op : Nat) (a b : List Byte) : Bool :=
  recordsB (scr [(0, a), (64, b)]) (twoRecords (fd 0) (fd 64) 64 64) 40 (fun r recs =>
    r.copyCheck r.bundleReq false op (recs.getD 0 []) (recs.getD 1 []) (Layout.ofBytes (recs.getD 0 [])).whole == .ok)

/-- The hypotheses on a copy's records. -/
abbrev Copies (op : Nat) (a b : List Byte) : Prop :=
  Issuing (scr [(0, a), (64, b)]) [uniA e3, uniB e3] ∧ ∃ r recs, (scr [(0, a), (64, b)]).readRecords (twoRecords (fd 0) (fd 64) 64 64) [] 40 = .got recs r ∧
    r.copyCheck r.bundleReq false op (recs.getD 0 []) (recs.getD 1 []) (Layout.ofBytes (recs.getD 0 [])).whole = .ok

theorem copies_of {op : Nat} {a b : List Byte} (h : issuingB (scr [(0, a), (64, b)]) [uniA e3, uniB e3] = true) (k : copiesB op a b = true) :
    Copies op a b := ⟨issuing_of h, records_of _ (fun _ _ h => beq_iff_eq.mp h) k⟩

/-- Every function of cpy and xform; the barrier numbers 0 (none) to BARS; a counter at 0. -/
theorem witness_CopyIssueResults :
    Copies 0 (layoutRec 0x100000 5 1 0 16 1 0) (layoutRec 0x200000 11 1 0 16 1 0) ∧
    Copies 1 (layoutRec 0x100000 5 2 0 2 3 8) (layoutRec 0x200000 5 2 0 3 2 12) ∧
    Copies 2 (layoutRec 0x100000 5 1 0 1024 1 0) (layoutRec 0x200000 5 1 2 1024 1 0) ∧
    Copies 3 (layoutRec 0x100000 5 1 2 1024 1 0) (layoutRec 0x200000 5 1 0 1024 1 0) ∧
    Copies 4 (layoutRec 0x100000 5 1 0 16 1 0) (layoutRec 0x200000 6 1 0 16 1 0) ∧
    Copies 5 (layoutRec 0x100000 5 1 2 1024 1 0) (layoutRec 0x200000 5 1 2 1024 1 0) ∧
    (let s := scr [(0, leBytes 8 0x100000 ++ [0, 1, 0, 0, 0, 0, 0, 0, 1, 0, 0, 0] ++ zeros 44), (64, leBytes 8 0x200000 ++ zeros 56)]
     let p := { s with threads := [({ wg := 1, grp := 0, lane := 0 }, { Thread.absent with live := true, pc := 0x1000, priv := true })] }
     Issuing p [uniA e3, uniB e3] ∧ p.allPriv = true ∧ ∃ r recs, p.readRecords (twoRecords (fd 0) (fd 64) 64 64) [] 40 = .got recs r ∧
       r.migrateCheck (r.ctxOf r.curGroup.wg) (recs.getD 0 []) (recs.getD 1 []) = .ok) ∧
    (∀ d ∈ [0, 1, 2], BarrierField (scr []) d) ∧ (scr []).curCtr .cpy < 63 ∧
    ((scr []).setGroup { wg := 1, grp := 0 } { Group.absent with present := true, ctr := Counters.zero.set .cpy 63 }).curCtr .cpy = 63 :=
  ⟨copies_of (by decide +kernel) (by decide +kernel), copies_of (by decide +kernel) (by decide +kernel), copies_of (by decide +kernel) (by decide +kernel), copies_of (by decide +kernel) (by decide +kernel),
    copies_of (by decide +kernel) (by decide +kernel), copies_of (by decide +kernel) (by decide +kernel),
    ⟨issuing_of (by decide), by decide, records_of (fun r recs => r.migrateCheck (r.ctxOf r.curGroup.wg) (recs.getD 0 []) (recs.getD 1 []) == .ok)
      (fun _ _ h => beq_iff_eq.mp h) (by decide +kernel)⟩,
    fun d h => (show d ≤ 2 by simp only [List.mem_cons, List.not_mem_nil, or_false] at h; omega), by decide, by decide⟩

/-- A gather of 4 rows of 64 bytes. -/
def gatRec : List Byte :=
  leBytes 8 0x100000 ++ leBytes 8 0x200000 ++ leBytes 8 0x300000 ++ leBytes 4 4 ++ leBytes 4 64 ++ leBytes 8 64 ++ leBytes 8 100 ++ zeros 16
/-- A sort of 16 pairs of 4-byte keys. -/
def srtRec : List Byte :=
  leBytes 8 0x100000 ++ leBytes 8 0x200000 ++ leBytes 8 0x300000 ++ leBytes 8 0 ++ leBytes 4 16 ++ zeros 12
/-- A chain of one operation (OPC 7 of its one input), its input's record at offset 128, its output's at 192. -/
def chainRec : List Byte :=
  leBytes 8 (fd 128).toNat ++ zeros 16 ++ leBytes 8 (fd 192).toNat ++ [1, 0, 0, 0] ++ zeros 28 ++ leBytes 4 (7 * 2 ^ 27) ++ zeros 60

theorem witness_GatherSortChainIssueResults :
    (let s := scr [(0, gatRec)]
     Issuing s [uniA e3] ∧ BarrierField s 1 ∧ BarrierField s 2 ∧ s.curCtr .gat < 63 ∧
     (∃ r recs, s.readRecords (oneRecord (fd 0) 64 64) [] 40 = .got recs r ∧ r.gatherCheck r.bundleReq false (recs.getD 0 []) = .ok) ∧
     ∃ r recs, s.readRecords (oneRecord (fd 0) 64 64) [] 40 = .got recs r ∧ r.gatherCheck r.bundleReq true (recs.getD 0 []) = .ok) ∧
    (let s := scr [(0, srtRec)]
     Issuing s [uniA e3] ∧ s.curCtr .srt < 63 ∧ ∃ r recs, s.readRecords (oneRecord (fd 0) 48 64) [] 40 = .got recs r ∧
       fieldLe (recs.getD 0 []) 24 8 / 2 % 4 = 0 ∧ zeroIn (recs.getD 0 []) 40 48 = true ∧ r.sortCheck r.bundleReq false (recs.getD 0 []) = .ok) ∧
    (let s := scr [(0, chainRec), (128, layoutRec 0x100000 5 1 0 16 1 0), (192, layoutRec 0x200000 5 1 0 16 1 0)]
     Issuing s [uniA e3] ∧ BarrierField s 1 ∧ ∃ r recs, s.readRecords (chainRecords (fd 0)) [] 40 = .got recs r ∧ recs.length = 3 ∧
       r.chainCheck r.bundleReq false (recs.getD 0 []) (recs.drop 1).dropLast (recs.getLastD []) (Layout.ofBytes (recs.getLastD [])).whole = .ok) :=
  ⟨⟨issuing_of (by decide), show 1 ≤ 2 by decide, show 2 ≤ 2 by decide, by decide,
      records_of (fun r recs => r.gatherCheck r.bundleReq false (recs.getD 0 []) == .ok) (fun _ _ h => beq_iff_eq.mp h) (by decide +kernel),
      records_of (fun r recs => r.gatherCheck r.bundleReq true (recs.getD 0 []) == .ok) (fun _ _ h => beq_iff_eq.mp h) (by decide +kernel)⟩,
    ⟨issuing_of (by decide), by decide,
      records_of (fun r recs => decide (fieldLe (recs.getD 0 []) 24 8 / 2 % 4 = 0 ∧ zeroIn (recs.getD 0 []) 40 48 = true ∧
        r.sortCheck r.bundleReq false (recs.getD 0 []) = .ok)) (fun _ _ h => of_decide_eq_true h) (by decide +kernel)⟩,
    ⟨issuing_of (by decide), show 1 ≤ 2 by decide,
      records_of (fun r recs => decide (recs.length = 3 ∧ r.chainCheck r.bundleReq false (recs.getD 0 []) (recs.drop 1).dropLast (recs.getLastD [])
        (Layout.ofBytes (recs.getLastD [])).whole = .ok)) (fun _ _ h => of_decide_eq_true h) (by decide +kernel)⟩⟩

/-- A LOADPROG of 1 word, and a RUN of one stripe of one array. -/
def loadRec : List Byte := [1, 0, 1, 0, 0, 0, 0, 0] ++ leBytes 8 0x100000 ++ zeros 48
def runRec : List Byte := [2, 0, 1, 1, 0, 0, 0, 0] ++ leBytes 8 (fd 64).toNat ++ zeros 20 ++ leBytes 4 1 ++ zeros 24
def runArgs : List Byte := leBytes 8 0x80000 ++ zeros 56

/-- `placed`, its records at 0x4000 on in device memory. -/
def collecting : State :=
  let s := placed 0x4000
  ((s.renew (hbmAt 0x204000) (leBytes 8 0x100000 ++ leBytes 8 0x101000 ++ leBytes 8 0x4100 ++ leBytes 4 16 ++ zeros 20)).renew (hbmAt 0x204100)
    (leBytes 4 1 ++ leBytes 4 0 ++ leBytes 8 0x4200 ++ zeros 48)).renew (hbmAt 0x204200) (leBytes 4 0)

/-- A collective that takes SEQ 0; nmq with 1 command, and with 16. -/
theorem witness_CollectiveAndNearIssueResults :
    (let s := collecting
     Issuing s [uniA e3] ∧ s.curCtr .coll < 63 ∧ ∃ r recs, s.readRecords (collRecords 0x4000) [] 40 = .got recs r ∧
       zeroIn (recs.getD 0 []) 32 48 = true ∧ r.collCheck r.bundleReq false (recs.getD 0 []) (recs.getD 1 []) (recs.getD 2 []) = .ok ∧
       accepts (r.dropRecs.takeSeq r.bundleReq (CollBody.ofBytes (recs.getD 0 [])).comm).1 = true) ∧
    (let s := scr [(0, runRec), (64, runArgs)]
     Issuing s [uniA e3] ∧ s.curCtr .nm + 1 ≤ 63 ∧ ∃ r recs, s.readRecords (nearRecords (fd 0) 1) [] 40 = .got recs r ∧
       ∀ j < 1, nmqOk (recs.getD (2 * j) []) (recs.getD (2 * j + 1) []) = true) ∧
    (let s := (scr [(0, (List.replicate 16 loadRec).flatten)]).setReg (.s 1 0 6) { bits := 16, tag := 1, full := true }
     Issuing s [.uni 4 false, .uni 6 false] ∧ s.curCtr .nm + (s.srcBits 0 (.uni 6 false)).toNat ≤ 63 ∧
     ∃ r recs, s.readRecords (nearRecords (fd 0) 16) [] 40 = .got recs r ∧
       ∀ j < 16, nmqOk (recs.getD (2 * j) []) (recs.getD (2 * j + 1) []) = true) :=
  ⟨⟨issuing_of (by decide), by decide, records_of (fun r recs => decide (zeroIn (recs.getD 0 []) 32 48 = true ∧
      r.collCheck r.bundleReq false (recs.getD 0 []) (recs.getD 1 []) (recs.getD 2 []) = .ok ∧
      accepts (r.dropRecs.takeSeq r.bundleReq (CollBody.ofBytes (recs.getD 0 [])).comm).1 = true)) (fun _ _ h => of_decide_eq_true h) (by decide +kernel)⟩,
    ⟨issuing_of (by decide), by decide, records_of (fun _ recs => (List.range 1).all (fun j => nmqOk (recs.getD (2 * j) []) (recs.getD (2 * j + 1) [])))
      (fun _ _ h j hj => List.all_eq_true.mp h j (List.mem_range.mpr hj)) (by decide +kernel)⟩,
    ⟨issuing_of (by decide), by decide, records_of (fun _ recs => (List.range 16).all (fun j => nmqOk (recs.getD (2 * j) []) (recs.getD (2 * j + 1) [])))
      (fun _ _ h j hj => List.all_eq_true.mp h j (List.mem_range.mpr hj)) (by decide +kernel)⟩⟩

/-- O23: an entry of the coherence order, a canonical memory, two scopes that cover each other's party. -/
theorem witness_CoherenceAndScopes :
    (let s := (lanes 1).writeWhole (.group 1 0) (hbmAt 0x1000) [1, 2]
     s.hist.length = 2 ∧ (∀ e ∈ s.hist, e.seq ≤ s.writeSeq) ∧ Memory.wf s.mem = true ∧
     (∀ e ∈ s.hist, Party.group 1 0 ∈ e.owners)) ∧
    Scope.covers .sys (lanes 1).curPlace (lanes 1).curPlace = true ∧ Scope.covers .grp (lanes 1).curPlace (lanes 1).curPlace = true := by decide

/-- The scope codes 0 and 5; nothing pending, and a pub pending. -/
theorem witness_PhaseBoundaries :
    (lanes 1).curHelm = false ∧ Bundle (lanes 1) ∧ (0 : BitVec 3).toNat < 6 ∧ (5 : BitVec 3).toNat < 6 ∧ scope64 (rrr 0 0 0 0 5) < 6 ∧
    ((lanes 1).group (lanes 1).curGroup).pendingPub = [] ∧ (lanes 1).pubReady (lanes 1).curGroup = true :=
  ⟨by decide, bundle_of (by decide), by decide, by decide, by decide, by decide, by decide⟩

/-- The quad, lanes from `n` on released at barrier 0. -/
def releasedFrom (n : Nat) : State :=
  { quad 1 with threads := [0, 1, 2, 3].map (fun l => ({ wg := 1, grp := 0, lane := l },
      { Thread.absent with live := true, pc := 0x1000, wait := if n ≤ l then .released 0 else .none })) }

/-- Barriers 0 and BARS − 1; EXPECT 1 and 2,047; a group and a Helm; lanes that have not arrived, and one that has; lanes released
while they waited, all of them, some and none. -/
theorem witness_BarrierResults :
    ((∀ l ∈ bundleLanes (releasedFrom 0), (releasedFrom 0).laneWait l = .released 0) ∧
      (∃ l ∈ bundleLanes (releasedFrom 2), (releasedFrom 2).laneWait l = .released 0) ∧
      (∃ l ∈ bundleLanes (releasedFrom 2), (releasedFrom 2).laneWait l ≠ .released 0) ∧
      bundleLanes (quad 1) ≠ [] ∧ (∀ l ∈ bundleLanes (quad 1), (quad 1).laneWait l ≠ .released 0) ∧ ((releasedFrom 2).bar 1 0).phase = false) ∧
    ((lanes 1).launchOf 1).barsN = 2 ∧ (quad 1).curHelm = false ∧ Bundle (quad 1) ∧ (quad 1).active formNone = [0, 1, 2, 3] ∧
    BundleReads (lanes 1) [.uni 2 false] [] ∧ (lanes 1).srcBits 0 (.uni 2 false) = 1 ∧
    (let s := (lanes 1).setReg (.s 1 0 2) { bits := 2047, tag := 1, full := true }
     BundleReads s [.uni 2 false] [] ∧ s.srcBits 0 (.uni 2 false) ≠ 0 ∧ (s.srcBits 0 (.uni 2 false)).toNat ≤ 2047) ∧
    BundleReads (helm 1) [.uni 2 false] [] ∧ (helm 1).srcBits 0 (.uni 2 false) = 1 ∧ (helm 1).curHelm = true ∧ (helm 1).capturePending 1 = false ∧
    ((lanes 1).bar 1 0).phase = false ∧ (∀ l ∈ (quad 1).active formNone, (quad 1).atBar 1 l = false) ∧
    (let s := after (.barSync ⟨false, 0, 0, 1, 0⟩) { quad 1 with wgs := [(1, { placedWg with bars := [(1, bar0 9)] })] }
     Bundle s ∧ ∀ l ∈ s.active formNone, s.atBar 1 l = true) :=
  ⟨by decide, by decide, by decide, bundle_of (by decide), by decide, ⟨by decide, readable_of (by decide)⟩, by decide,
    ⟨⟨by decide, readable_of (by decide)⟩, by decide, by decide⟩, ⟨by decide, readable_of (by decide)⟩, by decide, by decide, by decide, by decide,
    by decide, ⟨bundle_of (by decide), by decide⟩⟩

/-- A counter at most n and above it; the first and the last semaphore of the context; a threshold met and not met. -/
theorem witness_CounterWaitAndSemaphoreResults :
    (let s := lanes 1
     Bundle s ∧ s.curCtr .cpy ≤ 0 ∧ s.curCtr .cpy ≤ 63 ∧ (s.setGroup { wg := 1, grp := 0 } { Group.absent with present := true, ctr := Counters.zero.set .cpy 1 }).curCtr .cpy > 0 ∧
     BundleReads s [.uni 1 false, .uni 2 false] [] ∧ s.semIndex (s.ctxOf 1) (s.srcBits 0 (.uni 1 false)).toNat = some 1 ∧ s.semIndex 1 0 = some 0 ∧
     s.semIndex 1 3 = some 3 ∧ s.relWaits true = false ∧ s.pubPending s.curGroup = false ∧
     ¬(s.semValue (.uni 2 false)).toNat ≤ (s.sem 1).toNat ∧ (s.semValue (.uni 2 false)).toNat ≤ ((s.setSem 1 5).sem 1).toNat ∧
     BundleReads s [.uni 1 false] [.uni 3 false] ∧ s.srcKey 0 (.uni 3 false) = some (.s 1 0 3)) :=
  ⟨bundle_of (by decide), by decide, by decide, by decide, ⟨by decide, readable_of (by decide)⟩, by decide, by decide, by decide, by decide, by decide,
    by decide, by decide, ⟨by decide, readable_of (by decide)⟩, by decide⟩

/-- A map of 8 lines at offset 1,024; its range with no line empty and with one; a map to remove. A push onto queue 0 of a context whose
queue table, ring and indices lie in its 2 MiB page, a push whose packet is written, and one whose packet is not. -/
def mapRec : List Byte := leBytes 8 0x100000 ++ leBytes 4 1024 ++ leBytes 4 8 ++ zeros 16
/-- A descriptor of a running queue of 64 slots: RING 0x10000, WIDX 0x3000, RIDX 0x3080. -/
def descRec : List Byte := leBytes 8 0x10000 ++ leBytes 8 0x3000 ++ leBytes 8 0x3080 ++ leBytes 8 0 ++ [6, 1, 3, 0, 0] ++ zeros 27
/-- `placed` with that queue at 0x2000, a NOP packet at 0x4000, and a zero in s6. -/
def queued : State :=
  let s := placed 0x4000
  let t := { s with ctxs := [(1, { placedCtx with qtab := 0x2000, qcount := 1, semCount := 4 })] }
  ((t.renew (hbmAt 0x202000) descRec).renew (hbmAt 0x204000) (8 :: zeros 63)).setReg (.s 1 0 6) { bits := 0, tag := 1, full := true }
/-- A push of the issuing bundle, in the slot or not. -/
def pushing (done : Bool) : State :=
  let t := queued.pushOp 0 0 (8 :: zeros 63)
  { t with ops := t.ops.map (fun o => { o with done := done }) }

theorem witness_RegionMapAndPushResults :
    (let s := scr [(0, mapRec)]
     s.curHelm = false ∧ Bundle s ∧ BundleReads s [.uni 4 false] [] ∧ s.pubPending s.curGroup = false ∧
     ∃ r recs, s.readRecords (oneRecord (fd 0) 32 32) [] 2 = .got recs r ∧ r.mapOk 1 (recs.getD 0 []) = true ∧ r.mapBusy 1 (mapOf (recs.getD 0 [])) = false) ∧
    ({ scr [] with emptyLines := [scratchAt 1 1024 / 128] }).mapBusy 1 (mapOf mapRec) = true ∧
    (let s := ((scr []).setWg 1 { (scr []).wg 1 with maps := [{ mapOf mapRec with wb := true, dirty := [1024] }] }).setReg (.s 1 0 4) { bits := 1024, tag := 1, full := true }
     BundleReads s [.uni 4 false] [] ∧ s.curCtr .cpy < 63 ∧ ∃ m, (s.wg s.curGroup.wg).maps.find? (fun m => m.soff == (s.srcBits 0 (.uni 4 false)).toNat) = some m ∧ m.filling = []) ∧
    queued.curHelm = false ∧ Bundle queued ∧ queued.curLanes ≠ [] ∧ queued.pushOf = none ∧ BundleReads queued [.uni 6 false, .uni 4 false] [.uni 5 false] ∧
    queued.pubPending queued.curGroup = false ∧ (queued.srcBits 0 (.uni 6 false)).toNat < queued.queueCount (queued.ctxOf queued.curGroup.wg) ∧
    queued.descAddr 1 0 = 0x2000 ∧
    (∃ r recs, queued.readRecords (twoRecords 0x4000 0x2000 64 64) [] 3 = .got recs r ∧ fieldLe (recs.getD 0 []) 0 1 ≠ 0 ∧
      r.descOk (queued.ctxOf queued.curGroup.wg) (recs.getD 1 []) = true ∧ r.pubReady queued.curGroup = true ∧
      accepts ((r.pub .sys queued.curPlace).claimIndex (QDesc.ofBytes (recs.getD 1 [])).widx).1 = true) ∧
    (∃ o, (pushing true).pushOf = some o ∧ o.done = true) ∧ ∃ o, (pushing false).pushOf = some o ∧ o.done = false :=
  ⟨⟨by decide, bundle_of (by decide), ⟨by decide, readable_of (by decide)⟩, by decide,
      records_of (fun r recs => decide (r.mapOk 1 (recs.getD 0 []) = true ∧ r.mapBusy 1 (mapOf (recs.getD 0 [])) = false)) (fun _ _ h => of_decide_eq_true h) (by decide)⟩,
    by decide, ⟨⟨by decide, readable_of (by decide)⟩, by decide, ⟨_, rfl, rfl⟩⟩,
    by decide, bundle_of (by decide), by decide +kernel, by decide +kernel, ⟨by decide, readable_of (by decide)⟩, by decide +kernel, by decide +kernel, by decide +kernel,
    records_of (fun r recs => decide (fieldLe (recs.getD 0 []) 0 1 ≠ 0 ∧ r.descOk (queued.ctxOf queued.curGroup.wg) (recs.getD 1 []) = true ∧
      r.pubReady queued.curGroup = true ∧ accepts ((r.pub .sys queued.curPlace).claimIndex (QDesc.ofBytes (recs.getD 1 [])).widx).1 = true))
      (fun _ _ h => of_decide_eq_true h) (by decide +kernel),
    ⟨_, rfl, rfl⟩, ⟨_, rfl, rfl⟩⟩

/-- A dense stream of 4-byte elements tagged I32X2 over scratchpad: LEN 3, stride 4. -/
def streamRec : List Byte := leBytes 8 (fd 512).toNat ++ leBytes 8 0 ++ leBytes 4 3 ++ leBytes 4 4 ++ [2, 0, 2, 0] ++ zeros 4
/-- The group with that stream open as stream 7, its head at the last element. -/
def streaming : State :=
  (scr []).setStream 7 { isOpen := true, base := fd 512, stride := 4, len := 3, size := 4, tag := 2, index := none, indexBytes := 0, head := 2
                         openSeq := 0, openFloors := 0, fifo := [(3, zeros 4)] }

/-- Whether the reads of lanes all bring bytes. -/
def takesB (r : Option (List (LaneRead × ReadOut)) × State) : Bool :=
  match r.1 with
  | some got => got.all (fun g => match g.2 with | .bytes _ => true | _ => false)
  | none => false

theorem takes_of {r : Option (List (LaneRead × ReadOut)) × State} (h : takesB r = true) :
    ∃ got u, r = (some got, u) ∧ ∀ g ∈ got, ∃ b, g.2 = .bytes b := by
  obtain ⟨o, u⟩ := r
  cases o with
  | none => cases h
  | some got =>
    refine ⟨got, u, rfl, fun g hg => ?_⟩
    have := List.all_eq_true.mp h g hg
    split at this
    · exact ⟨_, by assumption⟩
    · cases this

/-- Opening stream 0; moving, testing, closing and reading streams 0 and 7; the element at the head, and beyond the length. -/
theorem witness_StreamResults :
    (let s := scr [(0, streamRec)]
     s.curHelm = false ∧ Bundle s ∧ BundleReads s [.uni 4 false] [] ∧ ∃ r recs, s.readRecords (streamRecords (fd 0)) [] 4 = .got recs r ∧
       (streamOf recs r.writeSeq r.floors.length).isSome = true) ∧
    (let s := streaming
     let x := s.stream 7
     let all := s.active formNone ++ s.activeHelpers formNone
     s.curHelm = false ∧ Bundle s ∧ 7 < 8 ∧ x.isOpen = true ∧ 63 + ceilDiv x.size 8 ≤ 64 ∧ all = [0, 1, 2, 3] ∧
     ReadableIn s all [] ((upFrom 63 (ceilDiv x.size 8)).map (fun k => .lane k false)) ∧
     (∃ r, s.laneReads (s.streamView x) (streamIndexReads x true all) = (some [], r) ∧
       (∀ e ∈ streamElems x true all [], streamAligned x e.addr = true) ∧ (streamElems x true all []).length = 1 ∧
       ∃ got u, r.laneReads (s.streamView x) (streamElems x true all []) = (some got, u) ∧ ∀ g ∈ got, ∃ b, g.2 = .bytes b) ∧
     x.head < x.len ∧ ({ x with head := 3 } : Stream).len ≤ 3) := by
  refine ⟨⟨by decide, bundle_of (by decide), ⟨by decide, readable_of (by decide)⟩,
      records_of (fun r recs => (streamOf recs r.writeSeq r.floors.length).isSome) (fun _ _ h => h) (by decide)⟩,
    by decide, bundle_of (by decide), by decide, by decide, by decide, by decide, readable_of (by decide),
    ⟨_, rfl, by decide, by decide, takes_of (by decide)⟩, by decide, by decide⟩

/-- A texture of 4 × 4 FP32 texels; lane 0 samples at (0.5, 1.5) and reads the record from s4. -/
def texRec : List Byte := layoutRec (fd 512).toNat 5 2 0 4 4 16
def sampling : State := (scr [(0, texRec)]).setReg (.v 1 0 0 1) { bits := 0x3FC000003F000000, tag := 7, full := true }

/-- Both the nearest and the linear function of two coordinates; the index of a coordinate below 0 and beyond the extent has no premise. -/
theorem witness_SampleResults :
    let s := sampling
    let f := form32 (⟨false, 0, 4, 1, 3⟩ : R32) false false
    Bundle s ∧ s.active f = [0] ∧ (∀ l ∈ s.active f, ∀ x ∈ sampleCoords f false, s.srcTagOf l x = 7) ∧ s.srcTagOf 0 (.uni 4 false) = 1 ∧
    ReadableIn s (s.active f ++ s.activeHelpers f) (.uni 4 false :: sampleCoords f false) [.lane f.d false] ∧
    (∃ bs t, s.readRecord (s.srcBits 0 (.uni 4 false)) 64 64 = (.bytes bs, t) ∧ sampleRecordOk 2 bs = true ∧
      ∀ fn < 2, ∃ got u, State.laneReads { t with freeCount := t.freeCount + 96 } .floor ((s.active f ++ s.activeHelpers f).flatMap (fun l => sampleReads (Layout.ofBytes bs)
        (samplePlan (Layout.ofBytes bs) (fn % 2 == 1) l (s.laneCoords f false l) ((List.range 3).map (fun d => Config.freeChoice (t.freeCount + 3 * l + d)))))) =
          (some got, u) ∧ ∀ g ∈ got, ∃ b, g.2 = .bytes b) ∧
    1 ≤ 4 ∧ f32.decode 0x3F000000 = .num false 8388608 (-24) := by
  refine ⟨bundle_of (by decide), by decide, by decide, by decide, readable_of (by decide), ⟨_, _, rfl, by decide, fun fn h => ?_⟩, by decide, by decide⟩
  interval_cases fn
  · exact takes_of (by decide +kernel)
  · exact takes_of (by decide +kernel)

/-- The Helm of context 1, which owns its core's tiles; 16 KiB of scratchpad; h1 to h5 hold 0, 8,192, 64, −128 and 128, h6 a generic
address, h7 a stride that is no multiple of 16. -/
def mat : State :=
  let s := helm 1
  let t := { s with launches := FMap.modify s.launches 1 (fun l => { l with scratch := 16384 }), cores := [(0, { s.core 0 with accOwner := 1 })] }
  [(1, 0), (2, 8192), (3, 64), (4, 0xFFFFFFFFFFFFFF80), (5, 128), (6, 0xFD00000000000000), (7, 100)].foldl
    (fun (t : State) (x : Nat × Word) => t.setReg (.h 1 x.1) { bits := x.2, tag := 1, full := true }) t

/-- A matrix instruction with operands h registers: C (code and K), B, A, D. -/
def mw (c b a d : BitVec 9) : R64 := { rrr 0 c b a d with fsb := true, fsa := true }

/-- Whether every check of a matrix instruction passes, and whether its turn comes now. -/
def acceptsB (s : State) (op : MatOp) (now : Bool) : Bool :=
  decide (op.tile < 8) && s.accOwn.isNone && op.srcs.all (fun o => s.srcTagOf 0 o.src == 1) && !(s.core (s.coreOf s.curGroup.wg)).tileFormat op &&
  readableB s [0] (op.srcs.map (·.src)) [] && s.tileGate op == .go &&
  (match s.matPlan op with | .enter _ r => r.mayAccept == now | .stop _ => false)

/-- The hypotheses of `Accepts`. -/
abbrev MeetsAccepts (s : State) (op : MatOp) (now : Bool) : Prop :=
  op.tile < 8 ∧ s.accOwn = none ∧ (∀ o ∈ op.srcs, s.srcTagOf 0 o.src = 1) ∧ (s.core (s.coreOf s.curGroup.wg)).tileFormat op = false ∧
  ReadableIn s [0] (op.srcs.map (·.src)) [] ∧ s.tileGate op = .go ∧ ∃ l r, s.matPlan op = .enter l r ∧ r.mayAccept = now

theorem meets_accepts {s : State} {op : MatOp} {now : Bool} (h : acceptsB s op now = true) : MeetsAccepts s op now := by
  simp only [acceptsB, Bool.and_eq_true, decide_eq_true_eq, Option.isNone_iff_eq_none, List.all_eq_true, beq_iff_eq, Bool.not_eq_true'] at h
  obtain ⟨⟨⟨⟨⟨⟨h1, h2⟩, h3⟩, h4⟩, h5⟩, h6⟩, h7⟩ := h
  refine ⟨h1, h2, h3, h4, readable_of h5, h6, ?_⟩
  split at h7
  · exact ⟨_, _, by assumption, beq_iff_eq.mp h7⟩
  · cases h7

/-- Every kind, on the first and the last tile; with both latch sets taken the Helm waits; the event with one ready Helm; a write to
ACC_OWNER that waits and none. -/
theorem witness_MatrixAcceptance :
    mat.curHelm = true ∧ mat.ownerHolds = false ∧
    ({ mat with threads := [({ wg := 1, grp := 0, lane := 0 }, { Thread.absent with live := true, wait := .gauntlet })] }).ownerHolds = true ∧ MeetsAccepts (issuingHelm mat) (mat32 .mzero ⟨false, 1, 0, 0, 7⟩) true ∧ MeetsAccepts (issuingHelm mat) (mat64 .mzero (rrr 0 0 0 0 0)) true ∧
    MeetsAccepts (issuingHelm mat) (mat64 .mma (mw 0 2 1 0)) true ∧ MeetsAccepts (issuingHelm mat) (mat64 .mgat (mw 0 2 1 7)) true ∧
    MeetsAccepts (issuingHelm mat) (mat32 .mld ⟨false, 0, 0, 1, 0⟩) true ∧ MeetsAccepts (issuingHelm mat) (mat64 .mld (mw 0 5 1 0)) true ∧
    MeetsAccepts (issuingHelm mat) (mat32 .mst ⟨false, 0, 0, 6, 0⟩) true ∧ MeetsAccepts (issuingHelm mat) (mat32 .mfree ⟨false, 0, 0, 0, 0⟩) true ∧
    MeetsAccepts (issuingHelm (mat.setCore 0 { mat.core 0 with latches := [latch0, latch0] })) (mat32 .mzero ⟨false, 1, 0, 0, 7⟩) false ∧
    (let s := mat.setHelm 1 { mat.helm 1 with acceptWait := some (mat32 .mzero ⟨false, 1, 0, 0, 7⟩) }
     s.readyHelms 0 = [1] ∧ (s.helm 1).acceptWait = some (mat32 .mzero ⟨false, 1, 0, 0, 7⟩) ∧
     MeetsAccepts (issuingHelm { s with cur := .helm 1 (s.helm 1).pc 4 }) (mat32 .mzero ⟨false, 1, 0, 0, 7⟩) true) :=
  ⟨by decide, by decide, by decide, meets_accepts (by decide +kernel), meets_accepts (by decide +kernel), meets_accepts (by decide +kernel), meets_accepts (by decide +kernel),
    meets_accepts (by decide +kernel), meets_accepts (by decide +kernel), meets_accepts (by decide +kernel), meets_accepts (by decide +kernel),
    meets_accepts (by decide +kernel), by decide +kernel, by decide +kernel, meets_accepts (by decide +kernel)⟩

/-- Offsets on and off a multiple of 128 or 16; strides of 128, −128 and 100; rows that lie within the allocation. -/
theorem witness_MatrixOperands :
    mat.curHelm = true ∧ (mat64 .mma (mw 0 2 1 0)).kind = .mma ∧ codeIsBx (mat64 .mma (mw 0 2 1 0)).code = false ∧
    (mat.hVal (some (1, false))).toNat % 128 = 0 ∧ (mat.hVal (some (2, false))).toNat % 128 = 0 ∧ (mat.hVal (some (3, false))).toNat % 128 ≠ 0 ∧
    (∀ r ∈ (List.range 32).map (fun i => 0 + 8 * i * codeBits 0 / 8), r + 8 * codeBits 0 / 8 ≤ mat.curScratch) ∧
    8192 + 32 * 8 * codeBits 0 / 8 ≤ mat.curScratch ∧ (mat64 .mld (mw 0 5 1 0)).kind = .mld ∧ (mat64 .mst (mw 0 7 6 0)).kind = .mst ∧
    (mat.hVal (some (5, false))).toInt % 16 = 0 ∧ 128 ≤ (mat.hVal (some (5, false))).toInt.natAbs ∧
    (∀ i < 32, (mat.hVal (some (1, false)) + BitVec.ofNat 64 i * mat.hVal (some (5, false))).toNat + 128 ≤ mat.curScratch) ∧
    128 ≤ (mat.hVal (some (4, false))).toInt.natAbs ∧ (mat.hVal (some (4, false))).toInt % 16 = 0 ∧ (mat.hVal (some (7, false))).toInt % 16 ≠ 0 ∧
    (mat.hVal (some (7, false))).toNat % 16 ≠ 0 := by decide

/-- An executing product on tile 0 and on tile 7; an integer product's codes at their greatest; a captured instruction that may start. -/
def mmaLatch (t : Nat) : Latch :=
  { latch0 with op := { latch0.op with kind := .mma, tile := t, code := 9 }, executing := true, capDone := true, waited := 512 }

theorem witness_MatrixIssueAndStart :
    (∀ t ∈ [0, 7], let s := mat.setCore 0 { mat.core 0 with latches := [mmaLatch t, latch0] }
      (s.core 0).latches.filter (fun l => l.executing) = [mmaLatch t] ∧ s.errInjs = [] ∧ (mmaLatch t).op.tile < 8 ∧
      (s.core 0).latches.find? (fun l => l.executing && decide (512 ≤ l.waited)) = some (mmaLatch t)) ∧
    (let p : Byte × Byte × Nat × Nat := (0, 0, 2 ^ codeBits 9 - 1, 2 ^ codeBits 9 - 1)
     9 ≤ 12 ∧ ∀ q ∈ [p], q.2.2.1 < 2 ^ codeBits 9 ∧ q.2.2.2 < 2 ^ codeBits 9) ∧
    (let s := mat.setCore 0 { mat.core 0 with latches := [{ latch0 with capDone := true }] }
     let ls := ((s.gatherUnit 0).core 0).latches
     ∃ l, ls[0]? = some l ∧ l.executing = false ∧ l.capDone = true ∧ (∀ e ∈ ls.take 0, e.op.tile ≠ l.op.tile) ∧ (∀ e ∈ ls.take 0, e.wg = l.wg → e.planned = true) ∧ l.op.kind = .mzero) := by
  refine ⟨by decide +kernel, by decide, ⟨_, rfl, by decide +kernel, by decide +kernel, by decide +kernel, by decide +kernel, by decide +kernel⟩⟩

/-- A privileged thread with a tile to save at scratchpad offset 0, and with room to restore from there. -/
def tiles : State :=
  let s := scr []
  { s with threads := [({ wg := 1, grp := 0, lane := 0 }, { Thread.absent with live := true, pc := 0x1000, priv := true })] }

/-- Whether a tile's 512 words resolve to consecutive places that are ready. -/
def tileSpotsB (s : State) (r : Req) (k : AccKind) (a : Word) (x : Nat) : Bool :=
  match s.resolveTile r spGeneric k ((List.range 512).map (fun i => a + BitVec.ofNat 64 (8 * i))) with
  | (.ok ps, u) => (List.range 512).all (fun j => match ps[j]? with
      | some p => p.loc == .flat (x + 8 * j) && p.leaf.all (fun f => decide (f.entryAt + 1 < x ∨ x + 4096 ≤ f.entryAt + 1)) && !u.sliceFull p &&
          !u.lineAbsent (x + 8 * j) && !u.lineEmpty (x + 8 * j)
      | none => false)
  | (.error _, _) => false

theorem witness_ScaleAndTileResults :
    mat.curHelm = true ∧ mat.srcTagOf 0 (.uni 63 false) = 1 ∧ ReadableIn mat [0] [.uni 63 false] [] ∧
    Memory.wf tiles.mem = true ∧ tiles.curHelm = false ∧ Bundle tiles ∧ tiles.curLanes ≠ [] ∧ tiles.allPriv = true ∧ tiles.curWait = .none ∧
    ReadableIn tiles tiles.curLanes [.uni 4 false] [] ∧ (tiles.core 0).tileIsFull 0 = true ∧ (tiles.core 0).tileIsFull 7 = true ∧
    (tiles.core 0).tileIsBad 7 = false ∧ tiles.pubPending tiles.curGroup = false ∧ (tiles.srcBits 0 (.uni 4 false)).toNat % 128 = 0 ∧ tiles.fabReqs = [] ∧
    tileSpotsB tiles { tiles.bundleReq with lane := none } .write (fd 0) (scratchAt 1 0) = true ∧
    (tiles.core 0).latches = [] ∧ tiles.phasePending tiles.curGroup = false ∧ tiles.recordHeld (fd 0) 4096 = false ∧
    tileSpotsB tiles { tiles.bundleReq with lane := none } .read (fd 0) (scratchAt 1 0) = true :=
  ⟨by decide, by decide, readable_of (by decide), by decide +kernel, by decide, bundle_of (by decide), by decide, by decide, by decide, readable_of (by decide),
    by decide, by decide, by decide, by decide, by decide, by decide, by decide +kernel, by decide, by decide, by decide, by decide +kernel⟩

/-- As `placed`, its thread privileged, on a core whose tiles context 1 owns. -/
def owning : State :=
  let s := placed 0
  { s with threads := [({ wg := 1, grp := 0, lane := 0 }, { Thread.absent with live := true, pc := 0x1000, priv := true })]
           cores := [(0, { s.core 0 with accOwner := 1 })] }

/-- Tile 7 of the owner, whose area begins at a multiple of 128 in its mapped page; its words resolve as those of an area named by a
register do. -/
theorem witness_ScaleAndTileResults_own :
    Bundle owning ∧ ReadableIn owning owning.curLanes [] [] ∧ Memory.wf owning.mem = true ∧ owning.curHelm = false ∧ owning.allPriv = true ∧
    owning.curWait = .none ∧ (owning.core 0).tileIsFull 7 = true ∧ (owning.core 0).tileIsBad 7 = false ∧
    owning.pubPending owning.curGroup = false ∧ owning.fabReqs = [] ∧ FMap.find owning.ctxs (owning.core (owning.coreOf 1)).accOwner.toNat = some placedCtx :=
  ⟨bundle_of (by decide +kernel), readable_of (by decide +kernel), by decide +kernel⟩


/-- The quad in its handler, privileged; threads 5 and 6 of its group are parked, by `park` and by `halt`; s1 to s3 name the first, the second, none. -/
def handler : State :=
  let t : Thread := { Thread.absent with live := true, pc := 0x1000, priv := true, inHandler := true, trapPc := 0x3000, trapCause := 5 }
  let p : Thread := { t with park := .byPark, handle := 7 }
  let s := { quad 1 with
    threads := [0, 1, 2, 3].map (fun l => ({ wg := 1, grp := 0, lane := l }, t)) ++
      [({ wg := 1, grp := 0, lane := 5 }, p), ({ wg := 1, grp := 0, lane := 6 }, { p with park := .byHalt, handle := 8 })] }
  [(1, 7), (2, 8), (3, 9)].foldl (fun s x => s.setReg (.s 1 0 x.1) { bits := BitVec.ofNat 64 (2 ^ 48 + x.2), tag := 1, full := true }) s

/-- O36: the registers of user mode at both ends of their ranges, those of privileged mode; into an s and a v register; lanes that execute. -/
theorem witness_SystemRegisterResults :
    (quad 1).curHelm = false ∧ Bundle (quad 1) ∧ (quad 1).active formNone = [0, 1, 2, 3] ∧ (quad 1).active (form64 r3 false) = [0, 1, 2, 3] ∧
    (∀ n ∈ [0, 6, 0x10, 0x12, 0x14, 0x18], n ≤ 0x18 ∧ n ≠ 0x0F ∧ ((quad 1).allPriv = true ∨ (n < 7 ∨ (0x10 ≤ n ∧ n ≠ 0x13)))) ∧
    handler.allPriv = true ∧ Bundle handler ∧ handler.active formNone = [0, 1, 2, 3] ∧ handler.active (form64 ru3 false) = [0, 1, 2, 3] ∧
    ReadableIn handler [0, 1, 2, 3] [.uni 63 false, .lane 1 false] [.uni 63 false, .lane 3 false] ∧ handler.flagsPending handler.curGroup = false ∧
    (handler.core (handler.coreOf handler.curGroup.wg)).latches = [] ∧ (FMap.find handler.ctxs (handler.ctxOf handler.curGroup.wg)).isSome = true ∧
    (let h := handler.setCore 0 { handler.core 0 with latches := [latch0] }
     Bundle h ∧ h.allPriv = true ∧ h.active formNone = [0, 1, 2, 3] ∧ ReadableIn h [0, 1, 2, 3] [.uni 63 false] [] ∧
     (h.core (h.coreOf h.curGroup.wg)).latches ≠ [] ∧ (FMap.find h.ctxs (h.ctxOf h.curGroup.wg)).isSome = true) :=
  ⟨by decide, bundle_of (by decide), by decide, by decide, by decide, by decide, bundle_of (by decide), by decide, by decide, readable_of (by decide),
    by decide, by decide, by decide, bundle_of (by decide), by decide, by decide, readable_of (by decide), by decide, by decide⟩

/-- O37: in the handler, a Helm's trap taken by lane 0 and none; privileged; handles of a parked, a halted and of no thread; fences. -/
theorem witness_HandlerResults :
    handler.curHelm = false ∧ Bundle handler ∧ (∀ l ∈ handler.curLanes, (handler.thread (handler.curThread l)).inHandler = true) ∧
    (let h := handler.setHelm 1 { Helm.absent with trap := some { cause := 1, addr := 0, info := 0, taker := some { wg := 1, grp := 0, lane := 0 } } }
     Bundle h ∧ (∀ l ∈ h.curLanes, (h.thread (h.curThread l)).inHandler = true) ∧ h.active formNone = [0, 1, 2, 3] ∧
     ∃ x, (h.helm h.curGroup.wg).trap = some x ∧ x.taker = some (h.curThread 0)) ∧
    handler.allPriv = true ∧ (∃ c, FMap.find handler.ctxs (handler.ctxOf handler.curGroup.wg) = some c ∧ c.dying = false) ∧
    ReadableIn handler handler.curLanes [.uni 1 false, .uni 2 false, .uni 3 false] [] ∧
    handler.parkedBy 1 (handler.srcBits 0 (.uni 1 false)) = some { wg := 1, grp := 0, lane := 5 } ∧
    handler.parkedBy 1 (handler.srcBits 0 (.uni 2 false)) = some { wg := 1, grp := 0, lane := 6 } ∧
    handler.parkedBy 1 (handler.srcBits 0 (.uni 3 false)) = none ∧
    (∀ l ∈ handler.curLanes, handler.handleOf (handler.curThread l) ≠ handler.srcBits 0 (.uni 3 false)) :=
  ⟨by decide, bundle_of (by decide), by decide, ⟨bundle_of (by decide), by decide, by decide,
      { cause := 1, addr := 0, info := 0, taker := some { wg := 1, grp := 0, lane := 0 } }, by decide, by decide⟩, by decide,
    ⟨{ placedCtx with trapVec := 0x2000, semCount := 4, qcount := 1 }, by decide, by decide⟩,
    readable_of (by decide), by decide, by decide, by decide, by decide⟩

/-- tlbinv: not yet begun, of a context that exists (s5 holds 1) and of one that does not (s4); begun and under way; complete. -/
theorem witness_HandlerResults_fences :
    let s := (handler.setReg (.s 1 0 5) { bits := 1, tag := 1, full := true }).setReg (.s 1 0 4) { bits := 2 ^ 57 - 1, tag := 1, full := true }
    let w := after (.tlbinvAll ⟨false, 0, 5, 0, 0⟩) s
    ReadableIn s s.curLanes [.uni 5 false, .uni 4 false] [] ∧ s.curWait = .none ∧ (FMap.find s.ctxs (s.srcBits 0 (.uni 5 false)).toNat).isSome = true ∧
    FMap.find s.ctxs (s.srcBits 0 (.uni 4 false)).toNat = none ∧ (s.srcBits 0 (.uni 4 false)).toNat < 2 ^ 57 ∧
    w.curWait = .fence s.nextId ∧ (∃ f ∈ w.fences, f.id = s.nextId) ∧ Bundle w ∧ w.allPriv = true ∧ ∀ f ∈ { w with fences := [] }.fences, f.id ≠ s.nextId := by
  refine ⟨readable_of (by decide), by decide, by decide, by decide, by decide, by decide, by decide, bundle_of (by decide), by decide, by decide⟩

/-- O38: user mode, outside a handler; the least barrier that the launch lacks; a stream that is not open; the scope codes 6 and 7. -/
theorem witness_EscapesAndIllegalOperands :
    (quad 1).curHelm = false ∧ Bundle (quad 1) ∧ (quad 1).allPriv = false ∧
    (∃ l ∈ (quad 1).curLanes, ((quad 1).thread ((quad 1).curThread l)).inHandler = false) ∧
    ((quad 1).launchOf (quad 1).curGroup.wg).barsN ≤ (2 : BitVec 6).toNat ∧ ((quad 1).stream 0).isOpen = false ∧ ((quad 1).stream 7).isOpen = false ∧
    6 ≤ (6 : BitVec 3).toNat ∧ 6 ≤ scope64 (rrr 0 0 0 0 6) ∧ 63 < immCode (ri 0 64 0 0) ∧ 0x18 < (0x19 : BitVec 6).toNat ∧
    ¬BarrierField (quad 1) 3 ∧ BarrierField (quad 1) 2 :=
  ⟨by decide, bundle_of (by decide), by decide, by decide, by decide, by decide, by decide, by decide, by decide, by decide, by decide,
    show ¬3 ≤ 2 by decide, show 2 ≤ 2 by decide⟩

/-- Cornice unit 0 executes a RUN of one stripe; its buffer 1 is busy; its row holds an index of 1 at local address 0. -/
def unit0 : State := { State.reset.placeCornice 0 with cur := .cornice 0 }
def busy0 : State := unit0.setUnit 0 { unit0.unit 0 with transfers := [{ buf := 1, write := false, addr := 0 }] }
/-- As `unit0`, of a RUN of two stripes. -/
def two0 : State := { unit0 with near := [{ placedNear with count := 2 }] }

/-- O39: a Cornice unit executes. -/
theorem witness_CorniceLaneResults : unit0.cur = .cornice 0 ∧ FMap.find unit0.errInjs (arrayId 15 0) = none := by decide

/-- O40: buffers busy and not; a row granted; transfers under way and none; the last stripe and one before it; an index and a row of 16 elements. -/
theorem witness_CorniceTransferAndControlResults :
    unit0.cur = .cornice 0 ∧ busy0.cur = .cornice 0 ∧ FMap.find busy0.errInjs (arrayId 15 0) = none ∧ (busy0.unit 0).busy 1 = true ∧ (busy0.unitCmd 0).isSome = true ∧
    unit0.unitCmd 0 = some placedNear ∧ (unit0.unit 0).busy 1 = false ∧ placedNear.grants false 0 1024 = true ∧ placedNear.grants true 0 1024 = true ∧
    (busy0.unit 0).transfers ≠ [] ∧ (unit0.unit 0).transfers = [] ∧ placedNear.first + placedNear.count ≤ (unit0.unit 0).stripe + 1 ∧
    two0.unitCmd 0 = some { placedNear with count := 2 } ∧ (two0.unit 0).stripe + 1 < 0 + 2 := by decide +kernel

theorem witness_CorniceTransferAndControlResults_buffers :
    ((unit0.unit 0).bAt 0).length = 1024 ∧ ((unit0.unit 0).cAt 8).length = 16 ∧ ((unit0.unit 0).xAt 0).toNat = 0 ∧
    (unit0.poolWord (unit0.nearReq placedNear) placedNear.window 0 0).1.bad = false ∧ fieldLe (unit0.poolWord (unit0.nearReq placedNear) placedNear.window 0 0).1.bytes 0 4 = 0 ∧
    placedNear.grants false 0 4 = true ∧ placedNear.grants false 0 (64 * 16) = true := by decide +kernel

/-- The module started, nothing placed. -/
def on : State := { State.reset with boot := { State.reset.boot with powered := true, ready := true } }

/-- O41: without power; running a start; powered, with few and with many failed starts, warm and cold. -/
theorem witness_StartTriggers :
    State.reset.boot.powered = false ∧ on.boot.powered = true ∧ on.boot.running = false ∧ on.boot.warmFails.toNat < 3 ∧ on.boot.coldFails.toNat < 2 ∧
    ({ on with boot := { on.boot with running := true, warmFails := 3, coldFails := 2 } }).boot.countFail.warmFails.toNat = 3 := by decide

/-- O42: a start at each of its steps, cold, warm, of the recovery image. -/
theorem witness_StartSteps :
    ∀ n ∈ [1, 2, 3, 4, 5, 6], ∀ w ∈ [false, true],
      let b : Boot := { on.boot with running := true, ready := false, stage := n, warm := w, recovery := w }
      b.powered = true ∧ b.running = true ∧ b.stage = n ∧ b.warm = w := by decide

/-- O43: a power just over the limit, one over the clamp; both dies; a rising die with a workgroup that waits for it. -/
theorem witness_PowerAndOperatingPoints :
    on.boot.powered = true ∧ 1400 + 25 * on.host.powerLimit.toNat < (2201 : BitVec 16).toNat ∧ (2311 : BitVec 16).toNat > 2310 ∧
    ((lanes 1).setDie 1 { Die.reset with target := 9, rising := true } |>.die 1).rising = true ∧ ((1 : Nat) < 2 ∧ (0 : Nat) < 2) := by decide

/-- O44: ready and not recovering, locked and not; offsets beyond the registers. -/
theorem witness_HostRegisterWrites :
    (0x1001 % 8 ≠ 0 ∧ 0x3FFFFC % 4 = 0 ∧ 0x3FFFFC < 0x400000 ∧ ({ on with boot := { on.boot with recovery := true } }).boot.recovery = true ∧
      0x1000 / 8 * 8 ∉ [0x1028, 0x10A0, 0x10A8, 0x10B0] ∧ field (0x10005 : Word) 19 16 = 1 ∧ field (0x20005 : Word) 19 16 = 2) ∧
    on.boot.powered = true ∧ on.boot.ready = true ∧ on.boot.recovery = false ∧ (0x400000 ≤ 0x400000) ∧ State.reset.boot.powered = false ∧
    on.host.lock = false ∧ ({ on with host := { on.host with lock := true } }).host.lock = true ∧ bitAt (1 : Word) 0 = true ∧
    (let s := { on with host := { on.host with hmwBase := [(0, 7)], hmwLimit := [(0, 0x1000)] } }
     s.host.attGo = false ∧ s.host.attAddr.toNat % 16 = 0 ∧ (List.range 560).all (fun i => s.host.granted (s.host.attAddr.toNat + i) false true) = true) := by
  decide +kernel

/-- A context record: id 5, one queue, one semaphore, the tables of `placeTables`, 2,560 slots, a fault queue of 16 slots with
`first` and `count` shares of die 0. -/
def ctxRec (id first count : Nat) : List Byte :=
  leBytes 2 id ++ zeros 2 ++ leBytes 2 1 ++ leBytes 2 1 ++ zeros 8 ++ zeros 8 ++ leBytes 4 1 ++ zeros 2 ++ zeros 2 ++ leBytes 8 0x1000 ++ zeros 8 ++
  zeros 8 ++ zeros 8 ++ leBytes 4 2560 ++ zeros 2 ++ zeros 2 ++ zeros 8 ++ zeros 32 ++ leBytes 8 0x8000 ++ leBytes 8 0x9000 ++ leBytes 8 0x9080 ++
  [4, 0] ++ zeros 6 ++ leBytes 2 first ++ leBytes 2 count ++ zeros 4 ++ zeros 104

/-- A started module whose CTX_REC names such a record. -/
def creating (id first count : Nat) : State :=
  { (on.placeTables.renew (hbmAt 0x8000) (ctxRec id first count)) with host := { on.host with ctxRec := 0x80 } }

/-- Whether a record passes the checks, its fault queue's indices are read, and its shares are free or not. -/
def createsB (s : State) (free : Bool) : Bool :=
  let got := s.readOutside (hbmAt (s.host.ctxRec.toNat * 256)) 256
  let r := { got.2.2 with host := { got.2.2.host with ctxCmd := 0 } }
  let c := ctxOfRecord got.1
  !got.2.1 && s.ctxCheck got.1 == none && ((r.addCtx (ctxIdOf got.1) c).fqIndices (ctxIdOf got.1) c).1 == some 0 && s.sharesOk c == free

/-- O45: a record read whole and poisoned; refused with ERR 2; accepted, with its shares free and not; its fault queue's indices not
readable. -/
theorem witness_HostCommandResults_create :
    createsB (creating 5 80 560) true = true ∧
    createsB { creating 5 80 560 with ctxs := [(9, { placedCtx with g0First := 639, g0Count := 1, summit := 0 })] } false = true ∧
    (let s := (creating 5 80 560).addPoison (hbmAt 0x209000) 8
     let got := s.readOutside (hbmAt (s.host.ctxRec.toNat * 256)) 256
     let r := { got.2.2 with host := { got.2.2.host with ctxCmd := 0 } }
     got.2.1 = false ∧ s.ctxCheck got.1 = none ∧ ((r.addCtx (ctxIdOf got.1) (ctxOfRecord got.1)).fqIndices (ctxIdOf got.1) (ctxOfRecord got.1)).1 = none) ∧
    (let s := creating 0 0 0
     let got := s.readOutside (hbmAt (s.host.ctxRec.toNat * 256)) 256
     got.2.1 = false ∧ s.ctxCheck got.1 = some 2) ∧
    (let s := (creating 5 0 0).addPoison (hbmAt 0x8000) 8
     (s.readOutside (hbmAt (s.host.ctxRec.toNat * 256)) 256).2.1 = true) ∧
    (creating 5 0 0).host.ctxBusy = false ∧ field (0x10005 : Word) 19 16 = 1 := by decide +kernel

/-- DESTROY of a context that is live; PRE_REQ with HOLD and without; an update and an attestation under way, their address good and not. -/
theorem witness_HostCommandResults :
    field (0x20001 : Word) 19 16 = 2 ∧ ({ on with ctxs := [(1, placedCtx)] }).ctxLive ((0x20001 : Word).toNat % 2 ^ 16) = true ∧
    on.ctxLive 1 = false ∧ on.host.preBusy = false ∧ bitAt (2 ^ 56 : Word) 56 = true ∧ bitAt (0 : Word) 56 = false ∧
    (let s := { on with host := { on.host with fwGo := true, fwLen := 1024 } }
     let src := s.host.fwSrc.toNat * 4096
     s.host.fwGo = true ∧ 1024 ≤ s.host.fwLen.toNat ∧ src + s.host.fwLen.toNat ≤ 2 ^ 39 ∧ (s.readOutside (hbmAt src) 1024).2.1 = false ∧
     ((s.addPoison (hbmAt 8) 8).readOutside (hbmAt src) 1024).2.1 = true) ∧
    (let s := { on with host := { on.host with attGo := true, hmwBase := [(0, 7)], hmwLimit := [(0, 0x1000)] } }
     s.host.attGo = true ∧ Memory.wf s.mem = true ∧ s.attAddrOk = true ∧ s.attMiss = none) ∧
    on.attAddrOk = false ∧ on.attMiss.isSome = true := by decide +kernel

/-- O46: at the origin, 8 bytes below the end of HBM4E, and at an address that is not aligned. -/
theorem witness_HostApertureResults :
    on.boot.ready = true ∧ Memory.wf on.mem = true ∧ on.errInjs = [] ∧ 4 % 8 ≠ 0 ∧ (2 ^ 39 - 8) % 8 = 0 ∧ on.host.hbmOrg.toNat * 2 ^ 28 + (2 ^ 39 - 8) + 8 ≤ 2 ^ 39 ∧
    ((on.addPoison (2 ^ 39 - 8) 8).firstPoison (2 ^ 39 - 8) 8).isSome = true := by decide +kernel

/-- Port 95 in a state, enabled; lane 0 carries. -/
def ported (st : BitVec 4) (lanes : BitVec 2) (f : Port → Port) : State :=
  on.setPort 95 (f { Port.reset with en := true, state := st, lanes := lanes, replays0 := 64 })

/-- O47: a port off, in training, degraded, failed, carrying with a lane at its 64th replay, draining with nothing outstanding. -/
theorem witness_PortResults :
    (95 < 96 ∧ on.boot.powered = true ∧ on.boot.ready = true ∧ on.boot.recovery = false) ∧
    bitAt (1 : Word) 0 = true ∧ bitAt (1 : Word) 1 = false ∧ bitAt (3 : Word) 1 = true ∧
    ((ported portDegraded 1 id).port 95).state = portDegraded ∧
    (let s := { ported portFailed 0 id with host := { on.host with emit := true } }
     (s.port 95).state = portFailed ∧ s.host.emit = true) ∧
    ((ported portTraining 0 id).port 95).inTraining = true ∧ ((ported portDegraded 1 (fun p => { p with retrain := true })).port 95).inTraining = true ∧
    bitAt ((ported portTraining 0 id).port 95).lanes 1 = false ∧
    (let s := ported portTraining 0 (fun p => { p with outLanes := 1 })
     (s.port 95).inTraining = true ∧ (s.port 95).state = portTraining ∧ (s.port 95).lanes = 0 ∧ putBit (s.port 95).outLanes 1 true = 3) ∧
    (let s := ported portUp 3 id
     (s.port 95).carries = true ∧ bitAt (s.port 95).lanes 0 = true ∧ 64 ≤ (s.port 95).replays0 ∧ putBit (s.port 95).lanes 0 false ≠ 0) ∧
    ((ported portUp 3 (fun p => { p with draining := true })).port 95).draining = true ∧
    (∀ q ∈ (ported portUp 3 (fun p => { p with draining := true })).fabReqs, q.port = some 95 → q.answered = true) := by decide

/-- A request of this module to module 7: a read, or a write. -/
def request (op : Option WriteOp) (port : Option Nat) : FabReq :=
  { id := 3, who := .host, thread := none, op := op, target := 7, off := 64, len := 8, port := port, answered := false, poisoned := false, bytes := []
    cmp := 0 }

/-- O48: a flit in sequence, a later one, an earlier one, a damaged one; sources 0 (dropped) and 8,191 (admitted); a changed route with a
request under way and with none; a read and a write to be answered. -/
theorem witness_FabricTrafficResults :
    (let s := ported portUp 3 (fun p => { p with expectSeq := 1 })
     (s.port 95).carries = true ∧ (1 : Nat) = (s.port 95).expectSeq ∧ (s.port 95).expectSeq < 2 ∧ 0 < (s.port 95).expectSeq) ∧
    (8191 < 8192 ∧ on.boot.powered = true ∧ on.boot.ready = true ∧ on.boot.recovery = false ∧ Memory.wf on.mem = true ∧ on.errInjs = [] ∧ 2 ^ 39 - 1 < 2 ^ 39 ∧
      2 ^ 39 - 8 + 8 ≤ 2 ^ 39 ∧ (2 ^ 39 - 8) % 8 = 0) ∧
    bitAt (FMap.getD on.fabInb (0 / 64) 0) (0 % 64) = false ∧
    (let s := { on with fabInb := [(127, 2 ^ 63)] }
     bitAt (FMap.getD s.fabInb (8191 / 64) 0) (8191 % 64) = true) ∧
    (let s := { on with routePending := [(7, 0)], fabReqs := [request none (some 95)] }
     FMap.find s.routePending 7 = some 0 ∧ s.fabReqs.any (fun q => q.target == 7 && q.inFlight) = true ∧
     s.fabReqs.find? (fun q => q.id == 3 && q.inFlight) = some (request none (some 95)) ∧ (request none (some 95)).awaited = true ∧
     (zeros 8).length = (request none (some 95)).len) ∧
    (let s := { on with routePending := [(7, 0)], fabReqs := [request none none] }
     s.fabReqs.any (fun q => q.target == 7 && q.inFlight) = false) ∧
    (request (some (.store (zeros 8))) (some 95)).awaited = false := by decide +kernel

/-- A started module with context 1 of one queue, two nodes and one semaphore; bytes at virtual addresses of its one page. -/
def packets (xs : List (Nat × List Byte)) : State :=
  let c : Context := { placedCtx with qcount := 1, qtab := 0x8000, ntab := 0xC000, nodeCount := 2, semCount := 1 }
  xs.foldl (fun s x => s.renew (hbmAt (0x200000 + x.1)) x.2) { on.placeTables with ctxs := [(1, c)] }

/-- A queue descriptor of 2^n slots. -/
def qdesc (n st : Nat) : List Byte := leBytes 8 0x10000 ++ leBytes 8 0x9000 ++ leBytes 8 0x9080 ++ leBytes 8 0xA000 ++ leBytes 1 n ++ leBytes 1 st ++ zeros 30

/-- A packet with nothing but its type, flags and node. -/
def pkt (ty flags node : Nat) : List Byte := leBytes 1 ty ++ leBytes 1 flags ++ leBytes 2 node ++ zeros 60

/-- As `packets`, its queue served and awake with a write index and a packet in slot 0. -/
def serving (widx : Nat) (p : List Byte) (head : Option Nat) : State :=
  (packets [(0x8000, qdesc 6 1), (0x9000, leBytes 8 widx), (0x10000, p)]).setQueue 1 0
    { Queue.absent with ring := 0x10000, widx := 0x9000, ridx := 0x9080, crec := 0xA000, served := true, awake := true, head := head }

/-- Whether bytes are read and what they and the state meet. -/
def readsB (s : State) (a : Word) (n : Nat) (p : List Byte → State → Bool) : Bool :=
  match s.devRead 1 a n with
  | (.bytes b, r) => p b r
  | _ => false

theorem reads_of {s : State} {a : Word} {n : Nat} (p : List Byte → State → Bool) {P : List Byte → State → Prop}
    (hp : ∀ b r, p b r = true → P b r) (h : readsB s a n p = true) : ∃ b r, s.devRead 1 a n = (.bytes b, r) ∧ P b r := by
  unfold readsB at h
  split at h
  · exact ⟨_, _, by assumption, hp _ _ h⟩
  · cases h

/-- O49: a queue served, and not; a descriptor stopped, out of order, run after STOPPED and for the first time. -/
theorem witness_QueueServiceResults_descriptor :
    let s := packets [(0x8000, qdesc 6 2)]
    let run := fun n => (packets [(0x8000, qdesc n 2)]).writeWhole .host (hbmAt 0x208021) [1]
    (serving 0 [] none).serves = true ∧ (serving 0 [] none).ctxLive 1 = true ∧ ((serving 0 [] none).queue 1 0).served = true ∧
    (serving 0 [] none).leftRun 1 0 = false ∧ ((serving 0 [] (some 3)).writeWhole .host (hbmAt 0x208021) [0]).leftRun 1 0 = true ∧
    (s.queue 1 0).served = false ∧ 0 < s.queueCount 1 ∧ readsB (s.leaveQueue 1 0) (s.descAddr 1 0) 64 (fun b _ => (QDesc.ofBytes b).state != 1) = true ∧
    readsB ((run 5).leaveQueue 1 0) (s.descAddr 1 0) 64 (fun b r => (QDesc.ofBytes b).state == 1 && !r.descOk 1 b) = true ∧
    readsB ((run 6).leaveQueue 1 0) (s.descAddr 1 0) 64 (fun b r => (QDesc.ofBytes b).state == 1 && r.descOk 1 b && r.stateBefore 1 0 == some 2) = true ∧
    readsB (((packets [(0x8000, qdesc 6 0)]).writeWhole .host (hbmAt 0x208021) [1]).leaveQueue 1 0) (s.descAddr 1 0) 64 (fun b r => (QDesc.ofBytes b).state == 1 &&
      r.descOk 1 b && r.stateBefore 1 0 == some 0 && readsB r (QDesc.ofBytes b).ridx 8 (fun i _ => ofLe i == 0)) = true := by decide +kernel

/-- Whether the queue reads its write index, then a header that meets `h`, and, where that is one, its packet, which meets `p`. -/
def packetB (s : State) (h : List Byte → Bool) (p : List Byte → State → Bool) : Bool :=
  readsB s (s.queue 1 0).widx 8 (fun b r => decide ((s.queue 1 0).rindex < ofLe b) && decide (ofLe b ≤ (s.queue 1 0).rindex + 64) &&
    readsB r ((r.queue 1 0).slot (r.queue 1 0).rindex) 8 (fun w v => h w &&
      (pktType w == 0 || readsB v ((r.queue 1 0).slot (r.queue 1 0).rindex) 64 (fun b u => u.errInjs.isEmpty && p b u))))
/-- As `packetB`, of a header that is one. -/
def packetsB (s : State) (p : List Byte → State → Bool) : Bool := packetB s (fun h => pktType h != 0) p

/-- The queue stopped by its descriptor, empty, full and over-full; a packet of type 0, 9, a bad header, a bad body, and a good one at each end. -/
theorem witness_QueueServiceResults_packet :
    (serving 0 [] none).stillRuns 1 0 = true ∧ ((serving 0 [] none).renew (hbmAt 0x208021) [2]).stillRuns 1 0 = false ∧
    readsB (serving 0 [] none) 0x9000 8 (fun b _ => ofLe b == 0) = true ∧ readsB (serving 65 [] none) 0x9000 8 (fun b _ => decide (64 < ofLe b)) = true ∧
    packetB (serving 1 (pkt 0 0 0) none) (fun h => pktType h == 0) (fun _ _ => false) = true ∧ packetsB (serving 64 (pkt 9 0 0) none) (fun p _ => pktType p == 9) = true ∧
    packetsB (serving 1 (pkt 1 32 0) none) (fun p u => pktType p == 1 && !u.headerOk 1 p) = true ∧
    packetsB (serving 1 (pkt 2 0 0 |>.set 28 8) none) (fun p u => pktType p == 2 && u.headerOk 1 p && !u.bodyOk 1 0 p) = true ∧
    packetsB (serving 64 (pkt 8 0 0) none) (fun p u => pktType p == 8 && u.headerOk 1 p && u.bodyOk 1 0 p && pktNode p == 0 &&
      match u.checkRecs 1 p with | (.ok recs, _) => recs == [] | _ => false) = true ∧
    packetsB (serving 1 (pkt 1 0 0) none) (fun p u => pktType p == 1 && u.headerOk 1 p && u.bodyOk 1 0 p && pktNode p == 0 &&
      match u.checkRecs 1 p with | (.reject _ _, _) => true | _ => false) = true ∧
    packetsB (serving 1 (pkt 8 0 2) none) (fun p u => u.headerOk 1 p && u.bodyOk 1 0 p && pktNode p == 2 && decide (u.nodeCount 1 ≤ pktNode p)) = true := by
  decide +kernel

/-- A queue whose head is command 3, a packet of node 1. -/
def capturing (entry : List Byte) : State := (serving 1 (pkt 8 0 1) (some 3)).renew (hbmAt 0x20C080) entry |>.setCmd 3
  { Cmd.absent with ctx := 1, node := 1, bytes := pkt 8 0 1, phase := .atHead }

/-- The node busy; idle with two predecessors outstanding. -/
theorem witness_QueueServiceResults_node :
    (let z := (capturing []).releaseReady 1
     (z.cmd 3).node ≠ 0 ∧ (z.queue 1 0).head = some 3 ∧ (z.queue 1 0).served = true ∧ z.stillRuns 1 0 = true) ∧
    readsB ((capturing (zeros 16 ++ [1])).releaseReady 1) ((capturing []).nodeAddr 1 1) 128 (fun e _ => nodeState e == 1) = true ∧
    readsB ((capturing [2, 0, 2, 0]).releaseReady 1) ((capturing []).nodeAddr 1 1) 128 (fun e _ => nodeState e == 0 && nodePend e == 2) = true := by decide +kernel

/-- A queue whose head is command 3. -/
def heading (p : List Byte) (recs : List (List Byte)) : State :=
  (serving 1 p (some 3)).setCmd 3 { Cmd.absent with ctx := 1, index := 1, bytes := p, phase := .atHead, recs := recs }

/-- FENCE with an earlier packet unfinished and with none; AWAIT above and at its semaphore; LAUNCH, AWAIT, NEAR and NOP packets that start. -/
theorem witness_QueueServiceResults_start :
    pktFence (pkt 8 16 0) = true ∧ ((heading (pkt 8 16 0) []).setCmd 2 { Cmd.absent with ctx := 1, phase := .started }).fenceMet 3 = false ∧
    (heading (pkt 8 16 0) []).fenceMet 3 = true ∧
    (heading (pkt 8 1 0) []).awaitMet 1 ((pkt 8 1 0).set 56 1) = false ∧ (heading (pkt 8 1 0) []).awaitMet 1 (pkt 8 1 0) = true ∧
    (∀ ty ∈ [1, 5, 7, 8], let s := heading (pkt ty 0 0) [zeros 64]
      (s.cmd 3).ctx = 1 ∧ (s.cmd 3).phase = .atHead ∧ (s.cmd 3).node = 0 ∧ (s.cmd 3).queue = 0 ∧ pktFence (pkt ty 0 0) = false ∧
      s.stillRuns 1 0 = true ∧ s.awaitMet 1 (pkt ty 0 0) = true ∧ pktIndirect (pkt ty 0 0) = false ∧ pktType (pkt ty 0 0) = ty ∧
      (match s.startRecs 3 with | (some (_, none), _) => true | _ => false) = true) ∧
    (match (heading (pkt 5 0 0) [[2, 0, 1, 0, 0, 0, 0, 0] ++ leBytes 8 0x9040 ++ zeros 16, []]).startRecs 3 with
     | (some ([_, b], none), _) => b == zeros 64
     | _ => false) = true ∧
    ((heading (pkt 8 0 0) []).renew (hbmAt 0x208021) [2]).stillRuns 1 0 = false := by decide +kernel

/-- A state whose command 3 is at work on a packet. -/
def working (p : List Byte) : State :=
  (serving 1 p none).setCmd 3 { Cmd.absent with ctx := 1, bytes := p, phase := .started, bound := [5] }

/-- Whether bytes are written, and the state then. -/
def writesB (s : State) (a : Word) (bs : List Byte) (p : State → Bool) : Bool :=
  match s.devWrite 1 a bs with
  | (.done, r) => p r
  | _ => false

theorem writes_of {s : State} {a : Word} {bs : List Byte} (h : writesB s a bs (fun _ => true) = true) : ∃ r, s.devWrite 1 a bs = (.done, r) := by
  unfold writesB at h
  split at h
  · exact ⟨_, by assumption⟩
  · cases h

/-- Whether command 3 has its Cornice command and, advanced, it is as asked. -/
def nearB (s : State) (p : NearCmd → Bool) : Bool :=
  match s.nearFor (.command 3) with
  | some n => (match (s.nearAdvance n).nearFor (.command 3) with | some d => p d | none => false)
  | none => false

/-- O50: every function of a COPY and of a COLL, every kind of a NEAR with its units finished and not, the other types. -/
theorem witness_CommandResults :
    (∀ ty ∈ [1, 3, 6, 7, 8], let c := (working (pkt ty 0 0)).cmd 3
      c.phase = .started ∧ pktType c.bytes = ty ∧ c.held = false) ∧
    (∀ op ∈ [0, 5, 6, 7], let c := (working ((pkt 2 0 0).set 28 (BitVec.ofNat 8 op))).cmd 3
      c.phase = .started ∧ c.phase ≠ .done ∧ pktType c.bytes = 2 ∧ fieldLe c.bytes 28 1 = op) ∧
    (∀ op ∈ [0, 4], let c := (working ((pkt 4 0 0).set 36 (BitVec.ofNat 8 op))).cmd 3
      pktType c.bytes = 4 ∧ fieldLe c.bytes 36 1 = op) ∧
    (∀ kind ∈ [1, 3], let s := { working ((pkt 5 0 0).set 8 (BitVec.ofNat 8 kind)) with near := [{ placedNear with source := .command 3, left := [] }] }
      pktType (s.cmd 3).bytes = 5 ∧ fieldLe (s.cmd 3).bytes 8 1 = kind ∧
      nearB s (fun d => d.begun && d.left.isEmpty) = true) ∧
    (let s := { working ((pkt 5 0 0).set 8 2) with near := [{ placedNear with source := .command 3 }] }
     nearB s (fun d => !d.left.isEmpty) = true) ∧
    (working (pkt 6 0 0)).semIndex 1 (fieldLe (pkt 6 0 0) 8 2) = some 0 ∧ ((working (pkt 7 0 0)).cmd 3).boundAt 0 = 5 := by decide +kernel

/-- A command whose work is done, with flags and a status. -/
def worked (flags : Nat) (status : BitVec 16) : State :=
  (working (pkt 8 flags 0)).setCmd 3 { Cmd.absent with ctx := 1, bytes := pkt 8 flags 0, phase := .worked, status := status }

/-- It completes with no record, with SIG alone, and with a record that is written. -/
theorem witness_CommandResults_completion :
    (∀ f ∈ [0, 2, 4], let c := (worked f 2).cmd 3
      c.phase = .worked ∧ c.held = false ∧ (worked f 2).ctxLive c.ctx = true ∧ c.node = 0 ∧ (worked f 2).cmdAcknowledged 3 = true) ∧
    pktRec ((worked 0 1).cmd 3).bytes = false ∧ pktRec ((worked 4 2).cmd 3).bytes = true ∧ ((worked 4 2).queue 1 0).crec ≠ 0 ∧
    ((worked 4 2).cmd 3).status ≠ 1 ∧ (worked 4 2).armedOf 1 = [] ∧
    (let s := (working (pkt 1 0 0)).setLaunch 3 { Launch.absent with ctx := 1, cmd := 3, running := true, eligible := true }
     s.launchOver 3 = true ∧ s.cmdAcknowledged 3 = true ∧ (s.cmd 3).node = 0) ∧
    writesB ((worked 4 2).pub .sys ((worked 4 2).cmdPlace 3)) (((worked 4 2).queue 1 0).record 0) (leBytes 2 2 ++ zeros 30) (fun _ => true) = true := by
  decide +kernel

/-- A launch of one thread that waits for placement; workgroup 7 of it stands as given. -/
def waiting (f : Workgroup → Workgroup) : State :=
  { on with
    ctxs := [(1, placedCtx)]
    launches := [(1, { Launch.absent with ctx := 1, threads := 33, barsN := 1, gx := 1, gy := 1, gz := 1, running := true, eligible := true, cls := 3 })]
    wgs := [(7, f { Workgroup.absent with launch := 1, status := .ended })] }

/-- Whether the next item is as asked. -/
def itemB (s : State) (p : Item → State → Bool) : Bool := match s.nextItem with | some (i, r) => p i r | none => false

/-- O51: a new set that fits on core 0 and on core 319; a saved one that comes back to the last core. -/
theorem witness_PlacementResults :
    (waiting id).serves = true ∧
    itemB (waiting id) (fun i r => i.saved == [] && i.lins == [0] && r.itemFitsOn i [0] && r.itemFitsOn i [319]) = true ∧
    itemB { waiting (fun w => { w with status := .saved 0 }) with
        launches := FMap.modify (waiting id).launches 1 (fun l => { l with next := 1, live := 1 }) } (fun i r => i.saved == [7] && r.badMembers i == [] &&
      r.itemFitsOn i [319] && r.logFits i [319] && (match r.eagerAll (i.saved.zip [319]) with | .done _ => true | .stop _ => false)) = true ∧
    itemB { (waiting (fun w => { w with status := .saved 0 })).placeTables.addPoison (hbmAt 0x200000) 8 with
        launches := FMap.modify (waiting id).launches 1 (fun l => { l with next := 1, live := 1 }) } (fun i r => r.badMembers i == [(7, 0)]) = true := by
  decide +kernel

/-- A bin of one record in core 0. -/
def spawning (fired : Bool) : State :=
  (lanes 1).setCore 0 { Core.reset with bins := [{ launch := 1, entry := 0x4000, wg := none, recs := [{ wg := 1, spawner := 0, seq := 0, bytes := zeros 32 }]
                                                   countdown := 0, fired := fired }] }

/-- A bin at 0 that has not fired; a fired one that starts in a free slot. -/
theorem witness_PlacementResults_spawn :
    ((spawning false).core 0).bins[0]?.map (fun b => (b.countdown, b.fired)) = some (0, false) ∧
    (let r := State.formGenerations { spawning true with boot := on.boot } 0
     r.boot.ready = true ∧ Memory.wf r.mem = true ∧ (r.core 0).bins[0]?.map (fun b => (b.fired, b.wg)) = some (true, none) ∧
     (r.spawnSlot 0).isSome = true) := by decide +kernel

/-- The quad in a resident workgroup of a started module, over its hang limit, having branched back 64 times, lane 0 in a nap that is over. -/
def watched : State :=
  let s := { quad 1 with boot := on.boot, launches := FMap.modify (quad 1).launches 1 (fun l => { l with hang := 5 }) }
  let s := s.setGroup { wg := 1, grp := 0 } { Group.absent with present := true, backCount := 64 }
  let s := s.setThread { wg := 1, grp := 0, lane := 1 } { s.thread { wg := 1, grp := 0, lane := 1 } with hang := 6 }
  let s := s.setThread { wg := 1, grp := 0, lane := 0 } { s.thread { wg := 1, grp := 0, lane := 0 } with wait := .nap 0 0x1004 }
  s.setHelm 1 { Helm.absent with running := true, trap := some { cause := 1, addr := 0, info := 0, taker := none } }

/-- O52: a thread over its limit and one at it; a Helm's trap with its taker; the 64th branch. -/
theorem witness_WaitingGroupEvents :
    watched.mayRun 1 = true ∧ (watched.threads.map (·.1)).Nodup ∧ watched.threadHung { wg := 1, grp := 0, lane := 1 } = true ∧
    watched.threadHung { wg := 1, grp := 0, lane := 2 } = false ∧
    (watched.helm 1).trap = some { cause := 1, addr := 0, info := 0, taker := none } ∧ watched.helmTaker 1 = some { wg := 1, grp := 0, lane := 0 } ∧
    64 ≤ (watched.group { wg := 1, grp := 0 }).backCount := by decide

/-- An operation of the quad's group. -/
def op (kind : OpKind) : AsyncOp :=
  { id := 4, wg := 1, grp := some 0, lane := some 0, ctx := 1, die := 0, priv := false, seq := 0, floors := 0, unseen := [], replayed := [], order := 4, cls := .cpy, kind := kind
    bar := none, tx := 0, lines := [], done := false, held := false, orphan := false }

/-- A fill of v3. -/
def fill : Fill := { id := 2, reg := .v 1 0 0 3, value := 7, flags := 1, owner := { wg := 1, grp := 0 } }

/-- A launch in linear order with its ticket at workgroup 0. -/
def ticketed (st : WgStatus) : State :=
  { lanes 1 with launches := [(1, { Launch.absent with ctx := 1, det := true, gx := 1, gy := 1, gz := 1 })], wgs := [(1, { placedWg with status := st })] }

/-- O53: a fill; an operation that is its group's oldest; a ticket whose workgroup has ended, and has not. -/
theorem witness_AsynchronousResults :
    ({ lanes 1 with fills := [fill] }).fills.find? (fun x => x.id == 2) = some fill ∧
    (let s := { lanes 1 with ops := [op (.unmap [])] }
     s.opOf 4 = some (op (.unmap [])) ∧ (op (.unmap [])).kind.isPush = false ∧ s.opOldest (op (.unmap [])) = true) ∧
    (ticketed .ended).ticketHolder 1 = some 1 ∧ ((ticketed .ended).launch 1).det = true ∧
    (ticketed .ended).ops.any (fun o => o.wg == 1 && o.orphan && !o.done) = false ∧ ((ticketed .ended).wg 1).status = .ended ∧
    (ticketed .ended).wgLogged 1 = false ∧ ((ticketed .ended).launch 1).emitWait = false ∧ ((ticketed .ended).emitWg 1).1 = true ∧
    ((ticketed .resident).wg 1).status ≠ .ended ∧ ((ticketed .resident).wg 1).killed = false := by decide

/-- A state with an append of a packet at index `w`. -/
def appending (w : Nat) : State := { packets [(0x8000, qdesc 6 1)] with ops := [op (.qpush 0 w (pkt 8 0 0) 0x1004)] }

/-- Its queue with room for the last index, and full; the slot's two writes. -/
theorem witness_AsynchronousResults_append :
    (appending 63).opOf 4 = some (op (.qpush 0 63 (pkt 8 0 0) 0x1004)) ∧
    (∀ w ∈ [63, 64], readsB (appending w) ((appending w).descAddr 1 0) 64 (fun b r => readsB r (QDesc.ofBytes b).ridx 8 (fun c u =>
      decide (w < ofLe c + 2 ^ (QDesc.ofBytes b).log2n) == (w == 63) &&
      match u.writeRec (op .idle).req ((QDesc.ofBytes b).ring + BitVec.ofNat 64 (64 * w % 4096) + 8) (zeros 56) with
      | (.done, x) => (match x.writeRec (op .idle).req ((QDesc.ofBytes b).ring + BitVec.ofNat 64 (64 * w % 4096)) (zeros 8) with | (.done, _) => true | _ => false)
      | _ => false)) = true) := by decide +kernel

/-- A map of 2 lines of scratchpad onto global 0x1000, its first line being filled, one byte of its second dirty. -/
def map0 : RegionMap :=
  { gva := 0x1000, soff := 0, lines := 2, wb := true, present := [0, 1], dirty := [128], filling := [{ line := 0, grp := 0, lane := 0, helm := false, op := none }] }
def mapped : State := let s := placed 0x1100; s.setWg 1 { s.wg 1 with maps := [map0] }

/-- O54: a line whose fill is under way; a dirty line; the launch not in linear order. -/
theorem witness_MemoryServiceResults_maps :
    Memory.wf mapped.mem = true ∧ mapped.mapAt 1 0 = some map0 ∧ mapped.mapAt 1 1 = some map0 ∧
    map0.filling.find? (fun f => f.line == 0) = some { line := 0, grp := 0, lane := 0, helm := false, op := none } ∧
    (match mapped.readRec (mapped.fillReq 1 { line := 0, grp := 0, lane := 0, helm := false, op := none }) .floor spGlobal (BitVec.ofNat 64 (map0.lineVa 0)) 128 with
      | (.bytes _, r) => Memory.wf r.mem
      | _ => false) = true ∧
    map0.wb = true ∧ (mapped.launchOf 1).det = false ∧ (mapped.dirtyWrites 1 map0).length ≤ mapped.sideRoom (mapped.coreOf 1) := by decide +kernel

/-- A fence of context 1, alive or being destroyed. -/
def fencing (dying : Bool) : State :=
  { on with ctxs := [(1, { placedCtx with dying := dying })], fences := [{ id := 2, ctx := 1, va := none }] }

/-- A fence with nothing under way, and with a request under way; a VBD block; a frame to re-pack; the 64th fill; a fault record with room. -/
theorem witness_MemoryServiceResults :
    (fencing false).fences.find? (fun x => x.id == 2) = some { id := 2, ctx := 1, va := none } ∧ (fencing false).ctxInFlight 1 = false ∧
    ({ fencing false with fabReqs := [{ request none (some 95) with who := .device }] }).ctxInFlight 1 = true ∧
    FMap.find (fencing true).ctxs 1 = some { placedCtx with dying := true } ∧ (fencing true).ctxAtWork 1 false = false ∧
    (fencing true).ctxAtWork 1 true = false ∧ ({ fencing true with ops := [{ op .idle with held := true }] }).ctxAtWork 1 true = true ∧
    ({ fencing true with ops := [op .idle] }).ctxAtWork 1 false = true ∧
    ({ on with vbd := [{ frame := 0x1000, block := 15, esz := 4, held := false }] }).vbd.find? (fun (b : VbdBlock) => b.frame == 0x1000 && b.block == 15) =
      some { frame := 0x1000, block := 15, esz := 4, held := false } ∧ 0x1000 ∉ on.repackReqs ∧ 0x1000 ∈ ({ on with repackReqs := [0x1000] }).repackReqs ∧
    (vbdEncode 4 (on.bytesAt (vbdAt (0x1000 + 256 * 15)) 256)).1 = 0 ∧
    spaceOf (lpddrAt 0x1000) ≤ 1 ∧ FMap.getD ({ on with hotFills := [(0, 63)], hotBase := 1 }).hotFills 0 0 = 63 := by decide +kernel

/-- A context with one fault record to post, its queue of 16 slots empty (or full). -/
def posting (widx : Nat) : State :=
  { packets [] with ctxs := [(1, { placedCtx with fqBase := 0x8000, fqWidxAddr := 0x9000, fqRidxAddr := 0x9080, fqWidx := widx, fqWaiting := [zeros 64] })] }

theorem witness_MemoryServiceResults_fault :
    readsB (posting 15) 0x9080 8 (fun b r => decide ((15 + 2 ^ 64 - ofLe b) % 2 ^ 64 < 2 ^ 4) &&
      writesB r (0x8000 + 64 * 15) (zeros 64) (fun u => writesB u 0x9000 (leBytes 8 16) (fun _ => true))) = true ∧
    readsB (posting 16) 0x9080 8 (fun b _ => decide (2 ^ 4 ≤ (16 + 2 ^ 64 - ofLe b) % 2 ^ 64)) = true ∧
    ((FMap.find (posting 15).ctxs 1).map (fun c => (c.fqBlocked, c.dying)) = some (false, false)) := by decide +kernel

/-- Unit 0 with a transfer on buffer 1. -/
def moving (write : Bool) : State := unit0.setUnit 0 { unit0.unit 0 with transfers := [{ buf := 1, write := write, addr := 256 }] }

/-- O55: the step limit; a buffer with no transfer; a read and a write. -/
theorem witness_CorniceUnitEvents :
    (moving true).unitCmd 0 = some placedNear ∧ ((moving true).unit 0).nextOn 0 = none ∧
    (∀ w ∈ [false, true], ((moving w).unit 0).nextOn 1 = some { buf := 1, write := w, addr := 256 } ∧ (moving w).errInjs = [] ∧ Memory.wf (moving w).mem = true ∧
      ∀ e ∈ (moving w).hist, e.seq ≤ placedNear.window) ∧
    ((moving true).unit 0).bAt 1 = List.replicate 1024 0 ∧ ((unit0.setUnit 0 { unit0.unit 0 with steps := 65536 }).unit 0).steps = 65536 := by decide +kernel

/-- Whether an issuer fetches a word that decodes, and how. -/
def fetchesB (s : State) (r : Req) (h : Bool) (p : Decoded → Bool) : Bool :=
  match s.fetch r (s.codeView 1) s.curPc with
  | (.word x _, _) => p (decode h x)
  | _ => false

/-- O56: a group's turn and a Helm's, with a word that is an instruction and one that is none. -/
theorem witness_StepRunsDecoded :
    (∀ w ∈ [0x20050421, 0x800405E1], let s := { State.reset.withFetchWord 32 w with agenda := [] }
     let g : GroupId := { wg := 1, grp := 0 }
     s.mayRun 1 = true ∧ s.helmTrapHere g = false ∧ (s.liveOf g).any s.threadHung = false ∧ (s.group g).backCount < 64 ∧
     (State.settlePubs s g).bundlePc g = some 0x1000 ∧ (State.settlePubs s g).bundleBlocked g 0x1000 = false ∧
     (let t := (State.settlePubs s g).withBundle g 0x1000
      fetchesB t t.fetchReq false (fun d => match d with | .instr _ _ => w == 0x20050421 | .illegal _ _ => w != 0x20050421) = true)) ∧
    (let s := { State.reset.placeKernel (leBytes 8 0x800405E1) with agenda := [] }
     let t := { s with cur := .helm 1 0x1000 2 }
     s.helmHung 1 = false ∧ s.portHelm (s.coreOf 1) = some 1 ∧ (s.core 0).lastPort < 8 ∧ (s.helm 1).number < 8 ∧ s.helmIssuable 1 = true ∧ (s.helm 1).pc = 0x1000 ∧
     fetchesB t (t.helmReq 1) true (fun d => match d with | .instr _ _ => true | .illegal _ _ => false) = true) := by decide +kernel

/-- An event; a Cornice unit at a word of its program. -/
theorem witness_StepRunsDecoded_others :
    (Instr.queueWake 1 0).isEvent = true ∧
    (let r := State.unitReady (State.reset.placeCornice 0x08080000) 0
     (r.unit 0).running.isSome = true ∧ (r.unit 0).pc < 256 ∧ (r.unit 0).steps < 65536 ∧
     (decodeCornice (FMap.getD r.progStore (r.unit 0).pc 0xB8000000)).isSome = true) ∧
    (let s := { State.reset.placeKernel (leBytes 8 0x20050421) with agenda := [], cur := .group 1 0 [0] 0x1000 2 }
     (match s.resolve (s.laneReq 0) spGlobal 0x1000 2 .fetch with
     | (.ok p, t) =>
       let u := t.touchSpot p false
       p.loc == .flat 0x201000 && p.leaf.all (fun l => !l.nc) && spaceOf 0x201000 == 0 && u.errInjs.isEmpty && !u.isPoisoned 0x201000 && !u.isPoisoned 0x201001 &&
         u.hist.all (fun e => decide (0 < e.seq → e.addr ≠ 0x201000 ∧ e.addr ≠ 0x201001))
     | _ => false) = true) := by decide +kernel

/-- O58: a 16-, a 32- and a 64-bit instruction of a group, one of a Helm, a Cornice word. -/
theorem witness_DecodeOfEncode :
    (∀ i ∈ [Instr.add (w3 0), Instr.bra 4, Instr.addc64 r3], (encode i).isSome = true ∧ i.wellFormed false = true ∧ i.inStream false = true) ∧
    (let i := Instr.mst { u := false, so := 0, b := 0, a := 8, d := 2 }
     (encode i).isSome = true ∧ i.wellFormed true = true ∧ i.inStream true = true) ∧
    (encode (.corniceEnd { d := 0, a := 0, b := 0, c := 0, cls := 0, imm := 0 })).isSome = true := by decide

/-- O59: the invariant holds of the state before power is applied and of a placed kernel, and both take a step. -/
theorem witness_InvariantKept :
    Inv State.reset ∧ Inv (State.reset.withFetchWord 32 0x20050421) ∧ (∃ t, step State.reset = .next t) ∧
    ∃ t, step (State.reset.withFetchWord 32 0x20050421) = .next t :=
  have go : ∀ s, (match step s with | .next _ => true | _ => false) = true → ∃ t, step s = .next t := fun s h => by
    split at h
    · exact ⟨_, by assumption⟩
    · cases h
  ⟨⟨by decide, by decide, by decide⟩, ⟨by decide +kernel, by decide +kernel, by decide +kernel⟩, go _ (by decide +kernel), go _ (by decide +kernel)⟩

end

end Sys2Proof.Tests
end

section
/-! The module before power (R37 to R50). -/

namespace Sys2Proof.Proofs

open Sys2Proof Sys2Proof.Machine Sys2Proof.Laws

/-- Power is what the reset state plans first (R46). -/
theorem plan_reset : State.reset.plan = .run .powerOn State.reset := rfl

/-- Where no context is registered no fault record waits, so nothing that happens has to wait for room (R285). -/
theorem orWait_of_no_ctxs (s t : State) (h : t.ctxs = []) : s.orWait t = t := by
  have hr : ∀ d, t.recordsHeld d = 0 := fun d => by simp [State.recordsHeld, h]
  simp [State.orWait, State.heldPast, hr]

/-- The first step applies power, which begins a cold start (R46). -/
theorem step_reset : step State.reset = .next (State.reset.beginStart false State.losePower) := by
  have hx : exec .powerOn State.reset = .next (State.reset.beginStart false State.losePower) := rfl
  have hw := orWait_of_no_ctxs State.reset (State.reset.beginStart false State.losePower) rfl
  simp only [step, plan_reset, hx, hw]
  rfl

/-- The control registers whose reset value is 0 (R37 to R42, R50). -/
theorem bar0Word_reset : ∀ off ∈ [0x1000, 0x1008, 0x1018, 0x1020, 0x1028, 0x1030, 0x1038, 0x1040, 0x1048, 0x1060, 0x1068, 0x1080,
    0x1088, 0x1090, 0x10A0, 0x10A8, 0x10B0, 0x40000, 0x40020, 0x100000], State.reset.bar0Word off = 0 := by
  decide +kernel

/-- Settles O60: the registers by evaluation of the one reset state, the first step by `step_reset`. -/
theorem resetState : Obligations.ResetState := by
  refine ⟨⟨reset_wf, rfl, ?_⟩, bar0Word_reset, ?_, ?_, ?_, _, step_reset, ?_⟩
  · decide
  · decide +kernel
  · decide +kernel
  · decide +kernel
  · decide +kernel

end Sys2Proof.Proofs
end

section
/-! Limits, the clamp and operating points (R14, R90, R91). -/

namespace Sys2Proof.Proofs

open Sys2Proof Sys2Proof.Machine Sys2Proof.Laws

/-! ## One die -/

/-- A die whose target is computed anew under the highest hint (R90). -/
def retargeted (hint : Nat) (x : Die) : Die :=
  let t := min hint x.ceiling
  if t ≤ x.point then { x with target := t, point := t, rising := false } else { x with target := t, rising := true }

/-- A die whose ceiling is lowered. -/
def ceiled (c : Nat) (x : Die) : Die := { x with ceiling := min x.ceiling c }

theorem retargeted_fields (hint : Nat) (x : Die) :
    let y := retargeted hint x
    y.ceiling = x.ceiling ∧ y.target = min hint x.ceiling ∧ y.point = min x.point y.target ∧ y.rising = decide (x.point < y.target) := by
  unfold retargeted
  by_cases h : min hint x.ceiling ≤ x.point
  · simp only [if_pos h]
    exact ⟨trivial, trivial, (Nat.min_eq_right h).symm, (decide_eq_false (by omega)).symm⟩
  · simp only [if_neg h]
    exact ⟨trivial, trivial, (Nat.min_eq_left (by omega)).symm, (decide_eq_true (by omega)).symm⟩

/-! ## The state -/

@[simp] theorem die_releaseHolds (s : State) (d e : Nat) : (s.releaseHolds d).die e = s.die e := rfl

theorem die_retargetDie (s : State) (d e : Nat) :
    (s.retargetDie d).die e = if e = d then retargeted s.maxHint (s.die d) else s.die e := by
  simp only [State.retargetDie, die_releaseHolds, die_setDie]
  rfl

theorem die_retarget (s : State) {d : Nat} (h : d < 2) : s.retarget.die d = retargeted s.maxHint (s.die d) := by
  have hm : (s.retargetDie 0).maxHint = s.maxHint := rfl
  rw [State.retarget, die_retargetDie, hm, die_retargetDie, die_retargetDie]
  obtain rfl | rfl : d = 0 ∨ d = 1 := by omega
  · simp
  · simp

theorem die_lowerCeiling (s : State) (d c e : Nat) : (s.lowerCeiling d c).die e = if e = d then ceiled c (s.die d) else s.die e :=
  die_setDie s d e _

/-- What lowering a die's ceiling and computing its target anew does to it (R14, R90). -/
theorem retargeted_ceiled (hint c : Nat) (x : Die) :
    let y := retargeted hint (ceiled c x)
    y.ceiling = min x.ceiling c ∧ y.target = min hint (min x.ceiling c) ∧ y.point = min x.point y.target ∧
      y.rising = decide (x.point < y.target) := retargeted_fields hint (ceiled c x)

theorem clamped_toNat (watts : BitVec 16) : (clamped watts).toNat = min watts.toNat 2310 :=
  Nat.mod_eq_of_lt (by show min watts.toNat 2310 < _; omega)

/-- What a map reads as after each of its entries is changed under its key. -/
theorem find_mapped {κ α : Type} [DecidableEq κ] (m : FMap κ α) (g : κ × α → κ × α) (hg : ∀ e, (g e).1 = e.1) (k : κ) :
    FMap.find (m.map g) k = (FMap.find m k).map (fun v => (g (k, v)).2) := by
  induction m with
  | nil => rfl
  | cons e t ih =>
    obtain ⟨a, v⟩ := e
    have hstep : FMap.find (((a, v) :: t).map g) k = if (g (a, v)).1 = k then some (g (a, v)).2 else FMap.find (t.map g) k := rfl
    rw [hstep, hg, ih]
    by_cases h : a = k
    · subst h
      simp [FMap.find]
    · simp [FMap.find, h]

/-- A workgroup of a die after the workgroups held for its point are looked at (R91). -/
def released (d : Nat) (point : Nat) (need : Nat) (x : Workgroup) : Workgroup :=
  { x with heldForPoint := x.heldForPoint && !(dieOfCore x.core == d && decide (need ≤ point)) }

/-- A flag of a workgroup that is cleared where it is set and a condition holds. -/
theorem clear_held (x : Workgroup) (b : Bool) :
    (if (x.heldForPoint && b) = true then { x with heldForPoint := false } else x) = { x with heldForPoint := x.heldForPoint && !b } := by
  cases b
  · simp
  · cases x
    simp_all

theorem wg_releaseHolds (s : State) (d w : Nat) :
    (s.releaseHolds d).wg w = released d (s.die d).point (min (s.launch (s.wg w).launch).opp (s.die d).ceiling) (s.wg w) := by
  unfold State.wg FMap.getD State.releaseHolds
  rw [find_mapped _ _ (by intro e; split <;> rfl)]
  cases FMap.find s.wgs w with
  | none => rfl
  | some x =>
    rw [released, ← clear_held, ← Bool.and_assoc]
    simp only [Option.map_some]
    split <;> rfl

/-! ## The events -/

/-- What a change of ceilings, targets and points leaves as it was. -/
def SameRun (s t : State) : Prop :=
  t.mem = s.mem ∧ t.regs = s.regs ∧ t.threads = s.threads ∧ t.launches = s.launches ∧ t.boot = s.boot

theorem sameRun_retarget {s t : State} (h : SameRun s t) : SameRun s t.retarget := h

@[simp] theorem host_retarget (s : State) : s.retarget.host = s.host := rfl

/-- A die's fields in `t` are those of a die of `s` whose ceiling was lowered and target computed anew. -/
def Lowered (s t : State) (d c : Nat) : Prop :=
  (t.die d).ceiling = min (s.die d).ceiling c ∧ (t.die d).target = min s.maxHint (min (s.die d).ceiling c) ∧
  (t.die d).point = min (s.die d).point (t.die d).target ∧ (t.die d).rising = decide ((s.die d).point < (t.die d).target)

theorem lowered_of_ceiled {s t : State} {d c : Nat} (h : t.die d = retargeted s.maxHint (ceiled c (s.die d))) : Lowered s t d c := by
  unfold Lowered
  rw [h]
  exact retargeted_ceiled s.maxHint c (s.die d)

theorem lowered_retarget_one (s : State) (d c : Nat) (hd : d < 2) : Lowered s (s.lowerCeiling d c).retarget d c := by
  refine lowered_of_ceiled ?_
  rw [die_retarget _ hd, die_lowerCeiling, if_pos rfl]
  rfl

theorem lowered_retarget_both (s : State) (c0 c1 : Nat) :
    let t := ((s.lowerCeiling 0 c0).lowerCeiling 1 c1).retarget
    Lowered s t 0 c0 ∧ Lowered s t 1 c1 := by
  refine ⟨lowered_of_ceiled ?_, lowered_of_ceiled ?_⟩
  · rw [die_retarget _ (by omega), die_lowerCeiling, if_neg (by omega), die_lowerCeiling, if_pos rfl]
    rfl
  · rw [die_retarget _ (by omega), die_lowerCeiling, if_pos rfl, die_lowerCeiling, if_neg (by omega)]
    rfl

/-- The state with its measured power told to the host (R39). -/
def measured (s : State) (watts : BitVec 16) : State := { s with host := { s.host with powerNow := clamped watts } }

/-- A die's new ceiling in POWER_OVER_LIMIT: the one given where some given one is lower, else one below its own (R14). -/
def newCeiling (s : State) (c0 c1 d given : Nat) : Nat :=
  if c0 < (s.die 0).ceiling ∨ c1 < (s.die 1).ceiling then given else (s.die d).ceiling - 1

theorem exec_powerOverLimit (s : State) (watts : BitVec 16) (c0 c1 : Nat) (hp : s.boot.powered = true)
    (hw : 1400 + 25 * s.host.powerLimit.toNat < min watts.toNat 2310) :
    exec (.powerOverLimit watts c0 c1) s =
      .next (((measured s watts).lowerCeiling 0 (newCeiling s c0 c1 0 c0)).lowerCeiling 1 (newCeiling s c0 c1 1 c1)).retarget :=
  if_pos ⟨hp, by rw [clamped_toNat]; exact hw⟩

/-- POWER_OVER_LIMIT lowers the ceilings given, or each by one where none of them is lower (R14). -/
theorem powerOverLimit_completes (s : State) (watts : BitVec 16) (c0 c1 : Nat) (hp : s.boot.powered = true)
    (hw : 1400 + 25 * s.host.powerLimit.toNat < min watts.toNat 2310) :
    Completes (.powerOverLimit watts c0 c1) s (fun t => t.host = { s.host with powerNow := clamped watts } ∧ SameRun s t ∧
      if c0 < (s.die 0).ceiling ∨ c1 < (s.die 1).ceiling then Lowered s t 0 c0 ∧ Lowered s t 1 c1
      else Lowered s t 0 ((s.die 0).ceiling - 1) ∧ Lowered s t 1 ((s.die 1).ceiling - 1)) := by
  have hlow := lowered_retarget_both (measured s watts) (newCeiling s c0 c1 0 c0) (newCeiling s c0 c1 1 c1)
  refine ⟨_, exec_powerOverLimit s watts c0 c1 hp hw, by rw [host_retarget]; rfl, sameRun_retarget ⟨rfl, rfl, rfl, rfl, rfl⟩, ?_⟩
  by_cases h : c0 < (s.die 0).ceiling ∨ c1 < (s.die 1).ceiling
  · simp only [newCeiling, if_pos h] at hlow ⊢
    exact hlow
  · simp only [newCeiling, if_neg h] at hlow ⊢
    exact hlow

theorem exec_temperatureOverLimit (s : State) (d c : Nat) (hp : s.boot.powered = true) (hd : d < 2) :
    exec (.temperatureOverLimit d c) s = .next (s.lowerCeiling d (min c ((s.die d).ceiling - 1))).retarget := if_pos ⟨hp, hd⟩

theorem exec_analoguePowerClamp (s : State) (watts : BitVec 16) (hp : s.boot.powered = true) :
    exec (.analoguePowerClamp watts) s = .next { s with host := { s.host with powerNow := clamped watts } } := if_pos hp

/-- OPERATING_POINT_STABLE: the die stands at its target, and its first workgroups that waited for no more are released (R91). -/
theorem operatingPointStable_completes (s : State) (d : Nat) (hr : (s.die d).rising = true) :
    Completes (.operatingPointStable d) s (fun t =>
      t.die d = { s.die d with point := (s.die d).target, rising := false } ∧ (∀ e, e ≠ d → t.die e = s.die e) ∧
      (∀ w, t.wg w = released d (s.die d).target (min (s.launch (s.wg w).launch).opp (s.die d).ceiling) (s.wg w)) ∧
      t.host = s.host ∧ SameRun s t) := by
  refine ⟨_, if_pos hr, ?_, fun e he => ?_, fun w => ?_, rfl, ⟨rfl, rfl, rfl, rfl, rfl⟩⟩
  · rw [die_releaseHolds, die_setDie_same]
  · rw [die_releaseHolds, die_setDie, if_neg he]
  · rw [wg_releaseHolds, die_setDie_same]
    rfl

/-- Settles O43: the three events that lower a ceiling or a point, and the clamp, by what `retarget` and `releaseHolds` do. -/
theorem powerAndOperatingPoints : Obligations.PowerAndOperatingPoints := by
  intro s
  refine ⟨fun watts c0 c1 hp hw => ?_, fun d c hp hd => ?_, fun watts hp => ?_, fun d hr => operatingPointStable_completes s d hr⟩
  · obtain ⟨t, hx, hhost, hsame, hlow⟩ := powerOverLimit_completes s watts c0 c1 hp hw
    exact ⟨t, hx, ⟨by rw [hhost], by rw [hhost]; show (clamped watts).toNat = _; exact clamped_toNat watts⟩, hsame, hlow⟩
  · exact ⟨_, exec_temperatureOverLimit s d c hp hd, host_retarget _, lowered_retarget_one s d _ hd, sameRun_retarget ⟨rfl, rfl, rfl, rfl, rfl⟩⟩
  · exact ⟨_, exec_analoguePowerClamp s watts hp, rfl, rfl, clamped_toNat watts⟩

end Sys2Proof.Proofs
end

section
/-! Ports: enabling, disabling, retraining, training, draining, failed lanes and engines (R18 to R20, R25, R28, R29). Each operation of
the state on a port is a function of that port and of LINK_EMIT, and leaves the other ports, memory, registers and the host block alone. -/

namespace Sys2Proof.Proofs

open Sys2Proof Sys2Proof.Machine Sys2Proof.Laws

/-! ## What an operation on one port leaves alone -/

/-- No port but `p` differs, nor do memory, registers or the host block. -/
def PortAlone (p : Nat) (s t : State) : Prop := (∀ q, q ≠ p → t.port q = s.port q) ∧ t.mem = s.mem ∧ t.regs = s.regs ∧ t.host = s.host

theorem PortAlone.refl (p : Nat) (s : State) : PortAlone p s s := ⟨fun _ _ => rfl, rfl, rfl, rfl⟩

theorem PortAlone.trans {p : Nat} {s t u : State} (h : PortAlone p s t) (k : PortAlone p t u) : PortAlone p s u := by
  obtain ⟨hp, hm, hr, hh⟩ := h
  obtain ⟨kp, km, kr, kh⟩ := k
  exact ⟨fun q hq => (kp q hq).trans (hp q hq), km.trans hm, kr.trans hr, kh.trans hh⟩

theorem PortAlone.host {p : Nat} {s t : State} (h : PortAlone p s t) : t.host = s.host := h.2.2.2

theorem portAlone_setPort (s : State) (p : Nat) (x : Port) : PortAlone p s (s.setPort p x) :=
  ⟨fun q hq => by rw [port_setPort, if_neg hq], rfl, rfl, rfl⟩

theorem portAlone_holdTargets (s : State) (p q : Nat) : PortAlone p s (s.holdTargets q) := ⟨fun _ _ => rfl, rfl, rfl, rfl⟩

/-- `t` is `s` after its port `p` alone became `x`. -/
def Becomes (p : Nat) (s : State) (x : Port) (t : State) : Prop := t.port p = x ∧ PortAlone p s t

theorem becomes_setPort (s : State) (p : Nat) (x : Port) : Becomes p s x (s.setPort p x) := ⟨port_setPort_same s p x, portAlone_setPort s p x⟩

theorem becomes_refl (s : State) (p : Nat) : Becomes p s (s.port p) s := ⟨rfl, .refl p s⟩

theorem becomes_held_setPort (s : State) (p : Nat) (x : Port) : Becomes p s x ((s.holdTargets p).setPort p x) :=
  ⟨port_setPort_same _ p x, (portAlone_holdTargets s p p).trans (portAlone_setPort _ p x)⟩

theorem Becomes.trans {p : Nat} {s t u : State} {x y : Port} (h : Becomes p s x t) (k : Becomes p t y u) : Becomes p s y u :=
  ⟨k.1, h.2.trans k.2⟩

theorem becomes_ite {p : Nat} {s t u : State} {x y : Port} {c : Prop} [Decidable c] (h : c → Becomes p s x t) (k : ¬c → Becomes p s y u) :
    Becomes p s (if c then x else y) (if c then t else u) := by
  by_cases hc : c
  · simpa only [if_pos hc] using h hc
  · simpa only [if_neg hc] using k hc

/-- An instruction completes: `P` holds of the port `p`, and what `PortAlone` names is as it was. -/
def PortRuns (i : Instr) (s : State) (p : Nat) (P : Port → Prop) : Prop := Completes i s (fun t => P (t.port p) ∧ PortAlone p s t)

theorem Becomes.runs {i : Instr} {s t : State} {p : Nat} {x : Port} (h : Becomes p s x t) (hx : exec i s = .next t) {P : Port → Prop}
    (hP : P x) : PortRuns i s p P := ⟨t, hx, by rw [h.1]; exact hP, h.2⟩

/-! ## The operations as functions of a port -/

/-- An enabled port trains from OFF while LINK_EMIT allows (R29, R38). -/
def startTraining (emit : Bool) (x : Port) : Port :=
  if x.en && emit && x.state == portOff then { x with state := portTraining, lanes := 0, trained := false, outLanes := 0, draining := false } else x

/-- A port taken out of use drains if it carries traffic, and is OFF otherwise (R28). -/
def takenOut (x : Port) : Port :=
  if x.carries then { x with draining := true } else { x with state := portOff, lanes := 0, trained := false, retrain := false }

/-- RETRAIN set on a DEGRADED or a FAILED port (R28, R29). -/
def retrained (emit : Bool) (x : Port) : Port :=
  if x.state == portDegraded then { x with retrain := true, outLanes := 0 }
  else if x.state == portFailed && x.en && emit then { x with retrain := true, state := portTraining, lanes := 0, trained := false, outLanes := 0 }
  else x

/-- A trained port enters UP or DEGRADED once FAB_SELF is locked (R21). -/
def raised (lock : Bool) (x : Port) : Port :=
  if x.state == portTraining && x.trained && lock then { x with state := if x.lanes = 3 then portUp else portDegraded } else x

/-- A port out of service (R18, R19). -/
def outOfService (emit : Bool) (x : Port) : Port :=
  { x with state := if emit then portFailed else portOff, lanes := 0, draining := false, retrain := false, trained := false }

theorem becomes_trainPort (s : State) (p : Nat) : Becomes p s (startTraining s.host.emit (s.port p)) (s.trainPort p) :=
  becomes_ite (fun _ => becomes_setPort s p _) (fun _ => becomes_refl s p)

/-- An operation given as a function of the host block and the port, after the port has become another. -/
theorem Becomes.andThen {p : Nat} {s t : State} {x : Port} {op : State → State} (f : HostRegs → Port → Port) (h : Becomes p s x t)
    (k : ∀ u : State, Becomes p u (f u.host (u.port p)) (op u)) : Becomes p s (f s.host x) (op t) := by
  have hk := k t
  rw [h.1, h.2.host] at hk
  exact h.trans hk

theorem becomes_drainPort (s : State) (p : Nat) : Becomes p s (takenOut (s.port p)) (s.drainPort p) :=
  becomes_ite (fun _ => becomes_held_setPort s p _) (fun _ => becomes_setPort s p _)

theorem becomes_retrainPort (s : State) (p : Nat) : Becomes p s (retrained s.host.emit (s.port p)) (s.retrainPort p) :=
  becomes_ite (fun _ => becomes_setPort s p _) (fun _ => becomes_ite (fun _ => becomes_setPort s p _) (fun _ => becomes_refl s p))

theorem becomes_raisePort (s : State) (p : Nat) : Becomes p s (raised s.host.lock (s.port p)) (s.raisePort p) :=
  becomes_ite (fun _ => becomes_held_setPort s p _) (fun _ => becomes_refl s p)

theorem becomes_failPort (s : State) (p : Nat) (x : Port) : Becomes p s (outOfService s.host.emit x) (s.failPort p x) :=
  becomes_held_setPort s p _

/-! ## Writes of FAB_PORT (R28) -/

/-- The fields of FAB_PORT that a write of all its bits with EN `en` sets. -/
def portFields (data : Word) (en : Bool) (x : Port) : Port :=
  { x with retries := BitVec.ofNat 16 (field data 39 24), laneFail := x.laneFail &&& ~~~(BitVec.ofNat 2 (field data 3 2)), en := en }

/-- A port after a write of all bits of FAB_PORT. -/
def writtenPort (emit : Bool) (data : Word) (x : Port) : Port :=
  let y := portFields data (bitAt data 0) x
  let z := startTraining emit (if x.en && !y.en then takenOut y else y)
  if bitAt data 1 then retrained emit z else z

/-- A write of all bits of FAB_PORT: its fields, then what EN and RETRAIN ask for. -/
theorem portWrite_all (s : State) (p : Nat) (data : Word) :
    s.portWrite p (BitVec.allOnes 64) data =
      let x := s.port p
      let y := portFields data (bitAt data 0) x
      let t := s.setPort p y
      let u := (if x.en && !y.en then t.drainPort p else t).trainPort p
      if bitAt data 1 then u.retrainPort p else u := by
  have h0 : bitAt (BitVec.allOnes 64) 0 = true := by decide
  simp only [State.portWrite, BitVec.not_allOnes, BitVec.and_zero, BitVec.zero_or, BitVec.and_allOnes, BitVec.allOnes_and, h0, if_true]
  rfl

theorem becomes_portWrite (s : State) (p : Nat) (data : Word) :
    Becomes p s (writtenPort s.host.emit data (s.port p)) (s.portWrite p (BitVec.allOnes 64) data) := by
  rw [portWrite_all]
  have hset := becomes_setPort s p (portFields data (bitAt data 0) (s.port p))
  have hout := hset.andThen (fun _ => takenOut) (becomes_drainPort · p)
  have htrain := (becomes_ite (c := (s.port p).en && !(portFields data (bitAt data 0) (s.port p)).en) (fun _ => hout) (fun _ => hset)).andThen
    (fun h => startTraining h.emit) (becomes_trainPort · p)
  exact becomes_ite (fun _ => htrain.andThen (fun h => retrained h.emit) (becomes_retrainPort · p)) (fun _ => htrain)

theorem bar0Write_port (s : State) (p : Nat) (data : Word) (hp : p < 96) (hpow : s.boot.powered = true) (hrdy : s.boot.ready = true)
    (hrec : s.boot.recovery = false) : s.bar0Write (0x101000 + 8 * p) 8 data = s.portWrite p (BitVec.allOnes 64) data := by
  have hoff : (0x101000 + 8 * p) / 8 * 8 = 0x101000 + 8 * p := by omega
  have hw : s.bar0Writes (0x101000 + 8 * p) = true := by simp [State.bar0Writes, hrdy, hrec]
  have happly : s.bar0Apply (0x101000 + 8 * p) (BitVec.allOnes 64) data = s.portWrite p (BitVec.allOnes 64) data := by
    unfold State.bar0Apply
    rw [if_neg (by omega), if_neg (by omega), if_pos (by omega)]
    congr 1
    omega
  unfold State.bar0Write
  rw [if_neg (by simp [hpow]; omega), if_neg (by omega), hoff, if_neg (by simp [hw])]
  exact happly


theorem exec_fabPortEnable (s : State) (p : Nat) (data : Word) (hp : p < 96) (hd : bitAt data 0 = true) :
    exec (.fabPortEnable p data) s = .next (s.bar0Write (0x101000 + 8 * p) 8 data) := if_pos ⟨hp, hd⟩

theorem exec_fabPortDisable (s : State) (p : Nat) (data : Word) (hp : p < 96) (hd : bitAt data 0 = false) :
    exec (.fabPortDisable p data) s = .next (s.bar0Write (0x101000 + 8 * p) 8 data) := if_pos ⟨hp, by simp [hd]⟩

theorem exec_fabPortRetrain (s : State) (p : Nat) (data : Word) (hp : p < 96) (hd : bitAt data 1 = true) :
    exec (.fabPortRetrain p data) s = .next (s.bar0Write (0x101000 + 8 * p) 8 data) := if_pos ⟨hp, hd⟩

/-- A row that writes FAB_PORT, on a module that takes the write: the port alone becomes as written. -/
theorem portWriteRow_completes {i : Instr} {s : State} {p : Nat} {data : Word} (h : exec i s = .next (s.bar0Write (0x101000 + 8 * p) 8 data))
    (hp : p < 96) (hpow : s.boot.powered = true) (hrdy : s.boot.ready = true) (hrec : s.boot.recovery = false) {z : Port}
    (hz : writtenPort s.host.emit data (s.port p) = z) : PortRuns i s p (· = z) := by
  refine (becomes_portWrite s p data).runs ?_ hz
  rw [← bar0Write_port s p data hp hpow hrdy hrec]
  exact h

/-! ### What a written port is, by EN, RETRAIN and its state -/

section
variable {emit : Bool} {data : Word} {x : Port}

theorem startTraining_of_state (h : x.state ≠ portOff) : startTraining emit x = x := if_neg (by simp [h])

theorem startTraining_of_disabled (h : x.en = false) : startTraining emit x = x := if_neg (by simp [h])

theorem retrained_degraded (h : x.state = portDegraded) : retrained emit x = { x with retrain := true, outLanes := 0 } := if_pos (by simp [h])

theorem retrained_failed (h : x.state = portFailed) (hen : x.en = true) (hem : emit = true) :
    retrained emit x = { x with retrain := true, state := portTraining, lanes := 0, trained := false, outLanes := 0 } := by
  rw [retrained, if_neg (by rw [h]; decide), if_pos (by simp [h, hen, hem])]

/-- RETRAIN finds nothing to train. -/
theorem retrained_other (hd : x.state ≠ portDegraded) (hf : x.state ≠ portFailed ∨ x.en = false ∨ emit = false) : retrained emit x = x := by
  rw [retrained, if_neg (by simp [hd]), if_neg]
  rcases hf with h | h | h <;> simp [h]

/-- EN written 1: the port stays in use, or comes into use. -/
theorem writtenPort_enabled (h0 : bitAt data 0 = true) : writtenPort emit data x =
    let z := startTraining emit (portFields data true x)
    if bitAt data 1 then retrained emit z else z := by
  simp [writtenPort, portFields, h0]

/-- EN written 0: the port is taken out of use where it was in use. -/
theorem writtenPort_disabled (h0 : bitAt data 0 = false) : writtenPort emit data x =
    let z := if x.en = false then portFields data false x else takenOut (portFields data false x)
    if bitAt data 1 then retrained emit z else z := by
  have hen : (if x.en = false then portFields data false x else takenOut (portFields data false x)).en = false := by
    unfold takenOut
    split_ifs <;> rfl
  have hz : (if (x.en && !(portFields data false x).en) = true then takenOut (portFields data false x) else portFields data false x) =
      if x.en = false then portFields data false x else takenOut (portFields data false x) := by
    cases x.en <;> rfl
  simp only [writtenPort, h0, hz, startTraining_of_disabled hen]

theorem startTraining_portFields : startTraining emit (portFields data true x) =
    if emit = true ∧ x.state = portOff then
      { portFields data true x with state := portTraining, lanes := 0, trained := false, outLanes := 0, draining := false }
    else portFields data true x := by
  unfold startTraining
  split_ifs with h1 h2 h2
  · rfl
  · exact absurd (by simpa [portFields] using h1) h2
  · exact absurd (by simpa [portFields] using h2) h1
  · rfl

theorem takenOut_portFields : takenOut (portFields data false x) =
    if x.carries then { portFields data false x with draining := true }
    else { portFields data false x with state := portOff, lanes := 0, trained := false, retrain := false } := rfl

/-- RETRAIN written with EN 0 to a port that carries nothing (R28). -/
theorem writtenPort_disabled_idle (h0 : bitAt data 0 = false) (hx : x.state = portFailed ∨ x.state = portTraining) :
    writtenPort emit data x = if x.en = false then portFields data false x
      else { portFields data false x with state := portOff, lanes := 0, trained := false, retrain := false } := by
  have hc : x.carries = false := by rcases hx with h | h <;> (rw [Port.carries, h]; decide)
  have hd : x.state ≠ portDegraded := by rcases hx with h | h <;> (rw [h]; decide)
  rw [writtenPort_disabled h0, takenOut_portFields, hc, if_neg Bool.false_ne_true]
  have hz : ∀ z : Port, z.state ≠ portDegraded → z.en = false → (if bitAt data 1 = true then retrained emit z else z) = z := by
    intro z hzd hze
    rw [retrained_other hzd (.inr (.inl hze)), ite_self]
  refine hz _ ?_ ?_
  · split_ifs
    · exact hd
    · show portOff ≠ portDegraded
      decide
  · split_ifs <;> rfl

end

/-! ## Training -/

/-- The fields of a port when its training ends with some lanes trained (R18, R20, R29). -/
def trainedFields (trained : BitVec 2) (nbr : Option Neighbour) (x : Port) : Port :=
  { x with
    lanes := x.lanes ||| (trained &&& ~~~x.outLanes)
    laneFail := x.laneFail ||| ~~~(x.lanes ||| (trained &&& ~~~x.outLanes))
    retrain := false
    outLanes := 0
    nbrId := (match nbr with | some n => n.id | none => x.nbrId)
    nbrSw := (match nbr with | some n => n.isSwitch | none => x.nbrSw)
    capRed := (match nbr with | some n => n.capRed | none => x.capRed)
    capVbd := (match nbr with | some n => n.capVbd | none => x.capVbd) }

/-- The state that training leads to: a DEGRADED port goes on, another one is FAILED without lanes and waits for the lock with some. -/
def trainingEnded (lock : Bool) (x y : Port) : Port :=
  if x.state == portDegraded then { y with state := if y.lanes = 3 then portUp else portDegraded }
  else if y.lanes = 0 then { y with state := portFailed, trained := false }
  else raised lock { y.fresh with trained := true }

theorem endTraining_eq (s : State) (p : Nat) (trained : BitVec 2) (nbr : Option Neighbour) :
    s.endTraining p trained nbr =
      let x := s.port p
      let y := trainedFields trained nbr x
      if x.state == portDegraded then s.setPort p { y with state := if y.lanes = 3 then portUp else portDegraded }
      else if y.lanes = 0 then s.setPort p { y with state := portFailed, trained := false }
      else (s.setPort p { y.fresh with trained := true }).raisePort p := rfl

theorem becomes_endTraining (s : State) (p : Nat) (trained : BitVec 2) (nbr : Option Neighbour) :
    Becomes p s (trainingEnded s.host.lock (s.port p) (trainedFields trained nbr (s.port p))) (s.endTraining p trained nbr) := by
  rw [endTraining_eq]
  exact becomes_ite (fun _ => becomes_setPort s p _) (fun _ => becomes_ite (fun _ => becomes_setPort s p _) (fun _ =>
    (becomes_setPort s p _).andThen (op := (State.raisePort · p)) (fun h => raised h.lock) (becomes_raisePort · p)))

/-- What the end of training leaves of the fields that it was given. -/
theorem trainingEnded_keeps (lock : Bool) (x y : Port) :
    let z := trainingEnded lock x y
    z.lanes = y.lanes ∧ z.laneFail = y.laneFail ∧ z.retrain = y.retrain ∧ z.nbrId = y.nbrId ∧ z.nbrSw = y.nbrSw ∧
      z.capRed = y.capRed ∧ z.capVbd = y.capVbd := by
  unfold trainingEnded raised
  split_ifs <;> exact ⟨rfl, rfl, rfl, rfl, rfl, rfl, rfl⟩

theorem inTraining_state {x : Port} (h : x.inTraining = true) : x.state = portTraining ∨ x.state = portDegraded := by
  simp only [Port.inTraining, Bool.or_eq_true, Bool.and_eq_true, beq_iff_eq] at h
  exact h.imp (·.1) (·.2)

theorem trainingEnded_state {lock : Bool} {x : Port} (trained : BitVec 2) (nbr : Option Neighbour) (h : x.inTraining = true) :
    let y := trainedFields trained nbr x
    (trainingEnded lock x y).state =
      if x.state = portDegraded ∨ (y.lanes ≠ 0 ∧ lock = true) then (if y.lanes = 3 then portUp else portDegraded)
      else if y.lanes = 0 then portFailed else portTraining := by
  intro y
  rcases inTraining_state h with ht | hd
  · have hne : x.state ≠ portDegraded := by rw [ht]; decide
    have hyt : y.state = portTraining := ht
    by_cases h0 : y.lanes = 0
    · simp [trainingEnded, hne, h0]
    · have hl : ¬y.lanes = 0#2 := h0
      cases lock <;> simp [trainingEnded, raised, Port.fresh, hne, hl, hyt]
  · simp [trainingEnded, hd]

theorem exec_portTrainingComplete {s : State} {p : Nat} (trained : BitVec 2) (nbr : Neighbour) (hpow : s.boot.powered = true) (hp : p < 96)
    (ht : (s.port p).inTraining = true) : exec (.portTrainingComplete p trained nbr) s = .next (s.endTraining p trained (some nbr)) :=
  if_pos ⟨hpow, hp, ht⟩

/-- A port in training one of whose lanes has not trained in time. -/
def laneTimedOut (lane : Nat) (x : Port) : Port := { x with outLanes := putBit x.outLanes lane true, laneFail := putBit x.laneFail lane true }

theorem exec_laneTrainTimeout {s : State} {p lane : Nat} (hpow : s.boot.powered = true) (hp : p < 96) (hl : lane < 2)
    (ht : (s.port p).inTraining = true) (hn : bitAt (s.port p).lanes lane = false) :
    exec (.laneTrainTimeout p lane) s = .next (
      let t := s.setPort p (laneTimedOut lane (s.port p))
      if putBit (s.port p).outLanes lane true ||| (s.port p).lanes = 3 then t.endTraining p 0 none else t) := by
  have hx : exec (.laneTrainTimeout p lane) s =
      if putBit (s.port p).outLanes lane true ||| (s.port p).lanes = 3 then
        .next ((s.setPort p (laneTimedOut lane (s.port p))).endTraining p 0 none) else .next (s.setPort p (laneTimedOut lane (s.port p))) :=
    if_pos ⟨hpow, hp, hl, ht, by simp [hn]⟩
  rw [hx]
  split_ifs <;> rfl

/-! ## Failures -/

/-- A port without one of its lanes. -/
def withoutLane (lane : Nat) (x : Port) : Port := { x with lanes := putBit x.lanes lane false, laneFail := putBit x.laneFail lane true }

/-- A port one of whose lanes has failed (R18). -/
def laneFailed (emit : Bool) (lane : Nat) (x : Port) : Port :=
  if putBit x.lanes lane false = 0 then outOfService emit (withoutLane lane x)
  else { withoutLane lane x with state := portDegraded, resend := x.retry.map (fun e => e.seq) }

theorem becomes_failLane (s : State) (p lane : Nat) : Becomes p s (laneFailed s.host.emit lane (s.port p)) (s.failLane p lane) :=
  becomes_ite (fun _ => becomes_failPort s p _) (fun _ => becomes_setPort s p _)

theorem exec_laneReplayLimit {s : State} {p lane : Nat} (hp : p < 96) (hl : lane < 2) (hc : (s.port p).carries = true)
    (hb : bitAt (s.port p).lanes lane = true) (hr : 64 ≤ (if lane = 0 then (s.port p).replays0 else (s.port p).replays1)) :
    exec (.laneReplayLimit p lane) s = .next (s.failLane p lane) := if_pos ⟨hp, hl, hc, hb, hr⟩

/-- An operation on one port after another: each of the ports becomes what the operation makes of it. -/
theorem foldl_ports {op : State → Nat → State} {f : HostRegs → Port → Port} (k : ∀ u p, Becomes p u (f u.host (u.port p)) (op u p))
    (l : List Nat) (hl : l.Nodup) (s : State) :
    let t := l.foldl op s
    (∀ p, t.port p = if p ∈ l then f s.host (s.port p) else s.port p) ∧ t.mem = s.mem ∧ t.regs = s.regs ∧ t.host = s.host := by
  induction l generalizing s with
  | nil => simp
  | cons a l ih =>
    obtain ⟨ha, hl⟩ := List.nodup_cons.1 hl
    obtain ⟨hat, hother, hm, hr, hh⟩ := k s a
    obtain ⟨ip, im, ir, ihh⟩ := ih hl (op s a)
    refine ⟨fun p => ?_, im.trans hm, ir.trans hr, ihh.trans hh⟩
    rw [List.foldl_cons, ip, hh]
    by_cases hpa : p = a
    · subst hpa
      simp [ha, hat]
    · simp [hpa, hother p hpa]

theorem nodup_upFrom (a n : Nat) : (upFrom a n).Nodup := List.nodup_range.map (fun _ _ h => Nat.add_right_cancel h)

theorem mem_upFrom {a n x : Nat} : x ∈ upFrom a n ↔ a ≤ x ∧ x < a + n := by
  simp only [upFrom, List.mem_map, List.mem_range]
  constructor
  · rintro ⟨i, hi, rfl⟩
    omega
  · exact fun h => ⟨x - a, by omega, by omega⟩

theorem exec_opticalEngineFailure {s : State} {engine : Nat} (hpow : s.boot.powered = true) (he : engine < 12) :
    exec (.opticalEngineFailure engine) s =
      .next ((upFrom (8 * engine) 8).foldl (fun t p => t.failPort p { t.port p with laneFail := 3 }) s) := if_pos ⟨hpow, he⟩

/-! ## The end of draining -/

/-- A port that has drained, before it trains again. -/
def drained (x : Port) : Port := { x with state := portOff, lanes := 0, trained := false, draining := false, retrain := false }

theorem exec_portDrainComplete {s : State} {p : Nat} (hd : (s.port p).draining = true)
    (hq : ∀ q ∈ s.fabReqs, q.port = some p → q.answered = true) :
    exec (.portDrainComplete p) s = .next ((s.setPort p (drained (s.port p))).trainPort p) := by
  refine if_pos ⟨hd, ?_⟩
  simp only [Bool.not_eq_true', List.any_eq_false, Bool.and_eq_true, beq_iff_eq, not_and, FabReq.inFlight]
  intro q hm hp
  simp [hq q hm hp]

theorem startTraining_drained (emit : Bool) (x : Port) : startTraining emit (drained x) =
    { x with
      state := if x.en && emit then portTraining else portOff
      lanes := 0, trained := false, draining := false, retrain := false, outLanes := if x.en && emit then 0 else x.outLanes } := by
  unfold startTraining drained
  cases x.en <;> cases emit <;> rfl

/-! ## Bits of lane masks -/

theorem bitAt_eq_getLsbD {w : Nat} (x : BitVec w) (n : Nat) : bitAt x n = x.getLsbD n := by
  rw [bitAt, BitVec.getLsbD, Nat.testBit_eq_decide_div_mod_eq]
  rfl

theorem bitAt_or {w : Nat} (x y : BitVec w) (n : Nat) : bitAt (x ||| y) n = (bitAt x n || bitAt y n) := by
  simp [bitAt_eq_getLsbD]

theorem bitAt_putBit_true {w : Nat} (x : BitVec w) {n : Nat} (h : n < w) : bitAt (putBit x n true) n = true := by
  simp only [bitAt_eq_getLsbD, putBit, if_true, BitVec.getLsbD_or, BitVec.getLsbD_ofNat, Nat.testBit_two_pow_self, h, decide_true,
    Bool.and_true, Bool.or_true]

/-! ## The statement -/

theorem portTrainingComplete_completes {s : State} {p : Nat} (hp : p < 96) (hpow : s.boot.powered = true) (trained : BitVec 2) (nbr : Neighbour)
    (ht : (s.port p).inTraining = true) :
    let x := s.port p
    PortRuns (.portTrainingComplete p trained nbr) s p (fun z =>
      z.lanes = x.lanes ||| (trained &&& ~~~x.outLanes) ∧ z.laneFail = x.laneFail ||| ~~~z.lanes ∧ z.retrain = false ∧
      z.nbrId = nbr.id ∧ z.nbrSw = nbr.isSwitch ∧ z.capRed = nbr.capRed ∧ z.capVbd = nbr.capVbd ∧
      z.state = if x.state = portDegraded ∨ (z.lanes ≠ 0 ∧ s.host.lock = true) then (if z.lanes = 3 then portUp else portDegraded)
        else if z.lanes = 0 then portFailed else portTraining) := by
  refine (becomes_endTraining s p trained (some nbr)).runs (exec_portTrainingComplete trained nbr hpow hp ht) ?_
  obtain ⟨hl, hf, hr, hi, hw, hcr, hcv⟩ := trainingEnded_keeps s.host.lock (s.port p) (trainedFields trained (some nbr) (s.port p))
  refine ⟨hl, ?_, hr, hi, hw, hcr, hcv, ?_⟩
  · rw [hf, hl]
    rfl
  · rw [trainingEnded_state trained (some nbr) ht, hl]

theorem laneTrainTimeout_completes {s : State} {p lane : Nat} (hp : p < 96) (hpow : s.boot.powered = true) (hl : lane < 2)
    (ht : (s.port p).inTraining = true) (hn : bitAt (s.port p).lanes lane = false) :
    let x := s.port p
    PortRuns (.laneTrainTimeout p lane) s p (fun z =>
      z.lanes = x.lanes ∧ bitAt z.laneFail lane = true ∧
      (x.state = portTraining → x.lanes = 0 → putBit x.outLanes lane true = 3 → z.state = portFailed) ∧
      (putBit x.outLanes lane true ||| x.lanes ≠ 3 → z.state = x.state ∧ z.outLanes = putBit x.outLanes lane true)) := by
  have hset := becomes_setPort s p (laneTimedOut lane (s.port p))
  have hend := hset.andThen (fun h x => trainingEnded h.lock x (trainedFields 0 none x)) (becomes_endTraining · p 0 none)
  refine (becomes_ite (fun _ => hend) (fun _ => hset)).runs (exec_laneTrainTimeout hpow hp hl ht hn) ?_
  have hbit : bitAt (putBit (s.port p).laneFail lane true) lane = true := bitAt_putBit_true _ hl
  split_ifs with h
  · obtain ⟨hl', hf, -⟩ := trainingEnded_keeps s.host.lock (laneTimedOut lane (s.port p)) (trainedFields 0 none (laneTimedOut lane (s.port p)))
    have hlanes : (trainedFields 0 none (laneTimedOut lane (s.port p))).lanes = (s.port p).lanes := by simp [trainedFields, laneTimedOut]
    refine ⟨hl'.trans hlanes, ?_, fun hst h0 _ => ?_, fun hne => absurd h hne⟩
    · rw [hf, trainedFields, bitAt_or, laneTimedOut, hbit, Bool.true_or]
    · rw [trainingEnded_state 0 none (show (laneTimedOut lane (s.port p)).inTraining = true from ht), hlanes, h0]
      have hd : (laneTimedOut lane (s.port p)).state ≠ portDegraded := by rw [show (laneTimedOut lane (s.port p)).state = portTraining from hst]; decide
      simp [hd]
  · exact ⟨rfl, hbit, fun _ h0 h3 => absurd (by rw [h0, h3]; rfl) h, fun _ => ⟨rfl, rfl⟩⟩

theorem laneReplayLimit_completes {s : State} {p lane : Nat} (hp : p < 96) (hl : lane < 2) (hc : (s.port p).carries = true)
    (hb : bitAt (s.port p).lanes lane = true) (hr : 64 ≤ (if lane = 0 then (s.port p).replays0 else (s.port p).replays1)) :
    let x := s.port p
    PortRuns (.laneReplayLimit p lane) s p (fun z =>
      z.lanes = putBit x.lanes lane false ∧ z.laneFail = putBit x.laneFail lane true ∧
      (z.lanes = 0 → z.state = (if s.host.emit then portFailed else portOff)) ∧
      (z.lanes ≠ 0 → z.state = portDegraded ∧ z.resend = x.retry.map (fun e => e.seq))) := by
  refine (becomes_failLane s p lane).runs (exec_laneReplayLimit hp hl hc hb hr) ?_
  by_cases h : putBit (s.port p).lanes lane false = 0
  · rw [laneFailed, if_pos h]
    exact ⟨h.symm, rfl, fun _ => rfl, fun hne => absurd rfl hne⟩
  · rw [laneFailed, if_neg h]
    exact ⟨rfl, rfl, fun h0 => absurd h0 h, fun _ => ⟨rfl, rfl⟩⟩

theorem opticalEngineFailure_completes {s : State} {engine : Nat} (hpow : s.boot.powered = true) (he : engine < 12) (p : Nat) :
    Completes (.opticalEngineFailure engine) s (fun t =>
      t.port p = (if p / 8 = engine then outOfService s.host.emit { s.port p with laneFail := 3 } else s.port p) ∧
      t.mem = s.mem ∧ t.regs = s.regs ∧ t.host = s.host) := by
  obtain ⟨hport, hm, hr, hh⟩ := foldl_ports (op := fun t p => t.failPort p { t.port p with laneFail := 3 })
    (f := fun h x => outOfService h.emit { x with laneFail := 3 }) (fun u p => becomes_failPort u p _) (upFrom (8 * engine) 8) (nodup_upFrom _ _) s
  refine ⟨_, exec_opticalEngineFailure hpow he, ?_, hm, hr, hh⟩
  have hmem : p ∈ upFrom (8 * engine) 8 ↔ p / 8 = engine := mem_upFrom.trans (by omega)
  rw [hport]
  simp only [hmem]

/-- What RETRAIN with EN 1 makes of a port (R28). -/
theorem writtenPort_retrain {emit : Bool} {data : Word} {x : Port} (h0 : bitAt data 0 = true) (h1 : bitAt data 1 = true) :
    (x.state = portDegraded → writtenPort emit data x = { portFields data true x with retrain := true, outLanes := 0 }) ∧
    (x.state = portFailed → emit = true → writtenPort emit data x =
      { portFields data true x with retrain := true, state := portTraining, lanes := 0, trained := false, outLanes := 0 }) ∧
    (x.state = portUp ∨ x.state = portTraining ∨ (x.state = portFailed ∧ emit = false) → writtenPort emit data x = portFields data true x) ∧
    (x.state = portOff → writtenPort emit data x = if emit then
      { portFields data true x with state := portTraining, lanes := 0, trained := false, outLanes := 0, draining := false }
      else portFields data true x) := by
  have hw : writtenPort emit data x = retrained emit (startTraining emit (portFields data true x)) := by
    rw [writtenPort_enabled h0, h1]
    rfl
  have hon : x.state ≠ portOff → writtenPort emit data x = retrained emit (portFields data true x) := fun h => by
    rw [hw, startTraining_of_state (show (portFields data true x).state ≠ portOff from h)]
  refine ⟨fun h => ?_, fun h hem => ?_, fun h => ?_, fun h => ?_⟩
  · rw [hon (by rw [h]; decide)]
    exact retrained_degraded h
  · rw [hon (by rw [h]; decide)]
    exact retrained_failed h rfl hem
  · have hne : x.state ≠ portOff ∧ x.state ≠ portDegraded ∧ (x.state ≠ portFailed ∨ emit = false) := by
      rcases h with h | h | ⟨h, hem⟩
      · rw [h]; exact ⟨by decide, by decide, .inl (by decide)⟩
      · rw [h]; exact ⟨by decide, by decide, .inl (by decide)⟩
      · rw [h]; exact ⟨by decide, by decide, .inr hem⟩
    obtain ⟨hoff, hdeg, hf⟩ := hne
    rw [hon hoff]
    exact retrained_other hdeg (hf.imp_right .inr)
  · rw [hw, startTraining_portFields]
    cases emit
    · exact retrained_other (by show x.state ≠ _; rw [h]; decide) (.inr (.inr rfl))
    · simp only [h, and_self, if_true]
      exact retrained_other (show portTraining ≠ portDegraded by decide) (.inl (show portTraining ≠ portFailed by decide))

/-- Settles O47: each row is an operation on one port, which `Becomes` gives as a function of that port. -/
theorem portResults : Obligations.PortResults := by
  intro s p hp hpow
  refine ⟨fun hrdy hrec data => ?_,
    fun ht => ⟨fun trained nbr => portTrainingComplete_completes hp hpow trained nbr ht, fun lane hl hn => laneTrainTimeout_completes hp hpow hl ht hn⟩,
    fun lane hl hc hb hr => laneReplayLimit_completes hp hl hc hb hr,
    fun engine he => opticalEngineFailure_completes hpow he p,
    fun hd hq => ?_⟩
  · have retrains : ∀ (h1 : bitAt data 1 = true) {z : Port}, writtenPort s.host.emit data (s.port p) = z →
        PortRuns (.fabPortRetrain p data) s p (· = z) := fun h1 _ =>
      portWriteRow_completes (exec_fabPortRetrain s p data hp h1) hp hpow hrdy hrec
    refine ⟨fun h0 h1 => ?_, fun h0 h1 => ?_, fun h0 h1 => ?_, fun h0 h1 => ⟨?_, fun hx => ?_⟩⟩
    · refine portWriteRow_completes (exec_fabPortEnable s p data hp h0) hp hpow hrdy hrec ?_
      rw [writtenPort_enabled h0, h1, startTraining_portFields]
      rfl
    · refine portWriteRow_completes (exec_fabPortDisable s p data hp h0) hp hpow hrdy hrec ?_
      rw [writtenPort_disabled h0, h1]
      rfl
    · obtain ⟨hdeg, hfail, hother, hoff⟩ := writtenPort_retrain (emit := s.host.emit) (x := s.port p) h0 h1
      exact ⟨fun h => retrains h1 (hdeg h), fun h hem => retrains h1 (hfail h hem), fun h => retrains h1 (hother h),
        fun h => retrains h1 (hoff h), (exec_fabPortEnable s p data hp h0).trans (exec_fabPortRetrain s p data hp h1).symm⟩
    · exact (exec_fabPortDisable s p data hp h0).trans (exec_fabPortRetrain s p data hp h1).symm
    · exact retrains h1 (writtenPort_disabled_idle h0 hx)
  · have htrain := (becomes_setPort s p (drained (s.port p))).andThen (fun h => startTraining h.emit) (becomes_trainPort · p)
    exact htrain.runs (P := (· = _)) (exec_portDrainComplete hd hq) (startTraining_drained s.host.emit (s.port p))

end Sys2Proof.Proofs
end

section
/-! Flits, replays, route entries and answers (R17, R18, R25, R26, R30, R31). -/

namespace Sys2Proof.Proofs

open Sys2Proof Sys2Proof.Machine Sys2Proof.Laws

/-! ## Flits (R17, R18) -/

/-- A replay count through the flit received: a window of 2^24 flits that ends begins it again. -/
def countedReplays (x : Port) (n : Nat) : Nat := if 2 ^ 24 ≤ x.windowFlits + 1 then 0 else n

/-- The window after the flit received. -/
def countedWindow (x : Port) : Nat := if 2 ^ 24 ≤ x.windowFlits + 1 then 0 else x.windowFlits + 1

theorem countFlit_eq (x : Port) : x.countFlit =
    { x with windowFlits := countedWindow x, replays0 := countedReplays x x.replays0, replays1 := countedReplays x x.replays1 } := by
  unfold Port.countFlit countedWindow countedReplays
  split_ifs <;> rfl

theorem laneBad_iff (x : Port) (f : Flit) (k : Nat) : x.laneBad f k = true ↔ ∃ b < 8, b ∈ f.badBeats ∧ x.beatLane b = k := by
  simp [Port.laneBad]

theorem beatLane_zero_or_one (x : Port) (b : Nat) : x.beatLane b = 0 ∨ x.beatLane b = 1 := by
  unfold Port.beatLane
  split_ifs <;> omega

/-- A flit is discarded exactly where a check over it fails. -/
theorem flitBad_iff (x : Port) (f : Flit) :
    (!f.crcOk || x.laneBad f 0 || x.laneBad f 1) = true ↔ ¬(f.crcOk = true ∧ ∀ b < 8, b ∉ f.badBeats) := by
  have hlanes : (∃ b < 8, b ∈ f.badBeats) ↔ x.laneBad f 0 = true ∨ x.laneBad f 1 = true := by
    rw [laneBad_iff, laneBad_iff]
    constructor
    · rintro ⟨b, hb, hm⟩
      exact (beatLane_zero_or_one x b).imp (fun h => ⟨b, hb, hm, h⟩) (fun h => ⟨b, hb, hm, h⟩)
    · rintro (⟨b, hb, hm, -⟩ | ⟨b, hb, hm, -⟩) <;> exact ⟨b, hb, hm⟩
  rw [not_and_or, Bool.or_eq_true, Bool.or_eq_true, or_assoc, ← hlanes]
  simp

theorem receive_bad {x : Port} {f : Flit} (h : ¬(f.crcOk = true ∧ ∀ b < 8, b ∉ f.badBeats)) :
    x.receive f = x.countFlit.requestReplay f.seq (x.laneBad f 0) (x.laneBad f 1) := if_pos ((flitBad_iff x f).2 h)

theorem receive_good {x : Port} {f : Flit} (h : f.crcOk = true ∧ ∀ b < 8, b ∉ f.badBeats) :
    x.receive f = if f.seq = x.expectSeq then
      { x.countFlit with expectSeq := x.expectSeq + 1, delivered := x.delivered ++ [f.payload], askReplay := none } else x.countFlit :=
  if_neg (fun hb => (flitBad_iff x f).1 hb h)

theorem satInc_toNat (c : BitVec 16) : (satInc c).toNat = min 0xFFFF (c.toNat + 1) := by
  unfold satInc
  split_ifs with h
  · subst h; rfl
  · have hne : c.toNat ≠ 0xFFFF := fun hc => h (BitVec.eq_of_toNat_eq hc)
    have hlt := c.isLt
    rw [BitVec.toNat_add, Nat.mod_eq_of_lt (by simp; omega)]
    show c.toNat + 1 = min 0xFFFF (c.toNat + 1)
    omega

theorem exec_flitReceive {s : State} {p : Nat} (f : Flit) (hp : p < 96) (hc : (s.port p).carries = true) :
    exec (.flitReceive p f) s = .next (s.setPort p ((s.port p).receive f)) := if_pos ⟨hp, hc⟩

/-- What a flit received changes of its port. -/
theorem receive_frame (x : Port) (f : Flit) : x.receive f =
    { x with windowFlits := countedWindow x, delivered := (x.receive f).delivered, expectSeq := (x.receive f).expectSeq
             askReplay := (x.receive f).askReplay, retries := (x.receive f).retries, replays0 := (x.receive f).replays0
             replays1 := (x.receive f).replays1 } := by
  by_cases h : f.crcOk = true ∧ ∀ b < 8, b ∉ f.badBeats
  · rw [receive_good h, countFlit_eq]
    split_ifs <;> rfl
  · rw [receive_bad h, countFlit_eq]
    rfl

/-! ## Replays (R17) -/

/-- A read of an array in which no error is injected. -/
theorem eccKept_quiet {s : State} {array : Nat} (h : FMap.find s.errInjs array = none) (key ctx : Nat) : s.eccKept array key ctx = (false, s) :=
  if_pos (by simp [h])

theorem exec_replayRequest {s : State} {p : Nat} (n : Nat) (hp : p < 96) (hc : (s.port p).carries = true) :
    exec (.replayRequest p n) s = .next ((s.eccKept (arrayId 13 p) n 0).2.setPort p
      { s.port p with resend := ((s.port p).retry.map (fun e => e.seq)).filter (fun k => decide (n ≤ k)) }) := if_pos ⟨hp, hc⟩

/-! ## Route entries (R25, R30) -/

theorem getLsbD_field {w : Nat} (x : BitVec w) (hi lo i : Nat) (h : i < hi + 1 - lo) : (field x hi lo).testBit i = x.getLsbD (lo + i) := by
  rw [field, Nat.testBit_mod_two_pow, decide_eq_true h, Bool.true_and, Nat.testBit_div_two_pow, BitVec.getLsbD, Nat.add_comm]

/-- The low 28 bits of one half of a word into which an entry was merged are the entry's. -/
theorem routeEntry_merged (old : Word) (data : BitVec 32) (h : Nat) (hh : h < 2) :
    let mask : Word := BitVec.ofNat 64 ((2 ^ 32 - 1) * 2 ^ (32 * h))
    let val : Word := BitVec.ofNat 64 (data.toNat * 2 ^ (32 * h))
    BitVec.ofNat 32 (field ((old &&& ~~~mask) ||| (val &&& mask)) (32 * h + 27) (32 * h)) = data &&& 0x0FFFFFFF := by
  intro mask val
  have hmask : ∀ i < 28, mask.getLsbD (32 * h + i) = true := by
    intro i hi
    show (BitVec.ofNat 64 ((2 ^ 32 - 1) * 2 ^ (32 * h))).getLsbD (32 * h + i) = true
    rw [BitVec.getLsbD_ofNat, Nat.testBit_mul_two_pow, Nat.add_sub_cancel_left, Nat.testBit_two_pow_sub_one]
    simp only [decide_eq_true_eq, Bool.and_eq_true]
    omega
  have hval : ∀ i < 28, val.getLsbD (32 * h + i) = data.getLsbD i := by
    intro i hi
    show (BitVec.ofNat 64 (data.toNat * 2 ^ (32 * h))).getLsbD (32 * h + i) = _
    rw [BitVec.getLsbD_ofNat, Nat.testBit_mul_two_pow, Nat.add_sub_cancel_left, BitVec.getLsbD]
    simp only [show 32 * h + i < 64 by omega, decide_true, Bool.true_and, Nat.le_add_right]
  have hlow : ∀ i < 32, (0x0FFFFFFF : BitVec 32).getLsbD i = decide (i < 28) := by decide
  refine BitVec.eq_of_getLsbD_eq (fun i hi => ?_)
  rw [BitVec.getLsbD_ofNat, BitVec.getLsbD_and, hlow i hi, decide_eq_true hi, Bool.true_and]
  by_cases h28 : i < 28
  · rw [getLsbD_field _ _ _ _ (by omega), BitVec.getLsbD_or, BitVec.getLsbD_and, BitVec.getLsbD_and, BitVec.getLsbD_not, hmask i h28, hval i h28]
    simp [h28]
  · have hzero : (field ((old &&& ~~~mask) ||| (val &&& mask)) (32 * h + 27) (32 * h)).testBit i = false := by
      rw [field, Nat.testBit_mod_two_pow, decide_eq_false (by omega), Bool.false_and]
    simp [hzero, h28]

/-- One entry written in an aligned 8-byte word of FAB_ROUTE: the first for `h` 0, the second for 1. -/
theorem routeWrites_one (s : State) (k h : Nat) (hh : h < 2) (new : Word) :
    s.routeWrites (0x110000 + 8 * k) (BitVec.ofNat 64 ((2 ^ 32 - 1) * 2 ^ (32 * h))) new =
      s.routeWrite (2 * k + h) (BitVec.ofNat 32 (field new (32 * h + 27) (32 * h))) := by
  have hk : (0x110000 + 8 * k - 0x110000) / 4 = 2 * k := by omega
  obtain rfl | rfl : h = 0 ∨ h = 1 := by omega
  · have h0 : bitAt (BitVec.ofNat 64 ((2 ^ 32 - 1) * 2 ^ (32 * 0))) 0 = true := by decide
    have h32 : bitAt (BitVec.ofNat 64 ((2 ^ 32 - 1) * 2 ^ (32 * 0))) 32 = false := by decide
    simp only [State.routeWrites, hk, h0, h32]
    rfl
  · have h0 : bitAt (BitVec.ofNat 64 ((2 ^ 32 - 1) * 2 ^ (32 * 1))) 0 = false := by decide
    have h32 : bitAt (BitVec.ofNat 64 ((2 ^ 32 - 1) * 2 ^ (32 * 1))) 32 = true := by decide
    simp only [State.routeWrites, hk, h0, h32]
    rfl

theorem bar0Write_route (s : State) (m : Nat) (data : BitVec 32) (hm : m < 8192) (hpow : s.boot.powered = true) (hrdy : s.boot.ready = true)
    (hrec : s.boot.recovery = false) : s.bar0Write (0x110000 + 4 * m) 4 (data.setWidth 64) = s.routeWrite m (data &&& 0x0FFFFFFF) := by
  have hword : (0x110000 + 4 * m) / 8 * 8 = 0x110000 + 8 * (m / 2) := by omega
  have hhalf : (0x110000 + 4 * m) / 4 % 2 = m % 2 := by omega
  have hmask : writeMask (0x110000 + 4 * m) 4 = BitVec.ofNat 64 ((2 ^ 32 - 1) * 2 ^ (32 * (m % 2))) := by rw [← hhalf]; rfl
  have hdata : (data.setWidth 64).toNat % 2 ^ 32 = data.toNat := by
    have := data.isLt
    rw [BitVec.toNat_setWidth]
    omega
  have hw : s.bar0Writes (0x110000 + 8 * (m / 2)) = true := by simp [State.bar0Writes, hrdy, hrec]
  unfold State.bar0Write
  rw [if_neg (by simp [hpow]; omega), if_neg (by omega), hword, if_neg (by simp [hw]), if_neg (by omega), hmask, hhalf, hdata]
  unfold State.bar0Apply
  rw [if_neg (by omega), if_neg (by omega), if_neg (by omega), if_neg (by omega), if_pos (by omega),
    routeWrites_one s (m / 2) (m % 2) (Nat.mod_lt _ (by omega)), routeEntry_merged _ data (m % 2) (Nat.mod_lt _ (by omega))]
  congr 1
  omega

theorem exec_fabRouteWrite {s : State} {m : Nat} (data : BitVec 32) (hm : m < 8192) :
    exec (.fabRouteWrite m data) s = .next (s.bar0Write (0x110000 + 4 * m) 4 (data.setWidth 64)) := if_pos hm

/-! ## Route changes (R25) -/

/-- A request that has a port, or has its answer: it is not held. -/
def Unheld (q : FabReq) : Prop := q.port.isSome = true ∨ q.answered = true

/-- What sending a held request leaves as it was. -/
def SendFrame (s t : State) : Prop := t = { s with ports := t.ports, fabReqs := t.fabReqs, cmds := t.cmds, log := t.log }

theorem SendFrame.trans {s t u : State} (h : SendFrame s t) (k : SendFrame t u) : SendFrame s u := by
  unfold SendFrame at h k
  rw [h] at k
  exact k

theorem sendHeld_frame (s : State) (q : FabReq) : SendFrame s (s.sendHeld q) := by
  unfold State.sendHeld
  split_ifs <;> rfl

/-- After a held request is sent, a request is not held, or it is one of those before and another one. -/
theorem mem_sendHeld {s : State} {q r : FabReq} (h : r ∈ (s.sendHeld q).fabReqs) : Unheld r ∨ (r ∈ s.fabReqs ∧ r ≠ q) := by
  unfold State.sendHeld at h
  split_ifs at h with hs
  · by_cases hrq : r = q
    · subst hrq
      exact .inl (by simpa [Unheld] using hs)
    · exact .inr ⟨h, hrq⟩
  · obtain ⟨x, hx, rfl⟩ := List.mem_map.1 (List.mem_of_mem_filter h)
    by_cases hid : x.id = q.id
    · left
      simp only [hid, beq_self_eq_true, if_true, Unheld]
      cases s.routePort q.target q.off <;> simp
    · right
      simp only [beq_iff_eq, hid, if_false]
      exact ⟨hx, fun hxq => hid (by rw [hxq])⟩

theorem foldl_sendHeld (l : List FabReq) (s : State) :
    SendFrame s (l.foldl State.sendHeld s) ∧
    ∀ r ∈ (l.foldl State.sendHeld s).fabReqs, Unheld r ∨ (r ∈ s.fabReqs ∧ r ∉ l) := by
  induction l generalizing s with
  | nil => exact ⟨rfl, fun r hr => .inr ⟨hr, List.not_mem_nil⟩⟩
  | cons q l ih =>
    obtain ⟨hf, hm⟩ := ih (s.sendHeld q)
    refine ⟨(sendHeld_frame s q).trans hf, fun r hr => ?_⟩
    rcases hm r hr with h | ⟨h, hl⟩
    · exact .inl h
    · exact (mem_sendHeld h).imp_right (fun ⟨hs, hq⟩ => ⟨hs, by simp [hq, hl]⟩)

theorem routeChangeApply_waits {s : State} {m : Nat} {e : BitVec 32} (he : FMap.find s.routePending m = some e)
    (hq : s.fabReqs.any (fun q => q.target == m && q.inFlight) = true) : exec (.routeChangeApply m) s = .next s := by
  show execRouteChangeApply m s = _
  simp only [execRouteChangeApply, he, hq, if_true]

theorem routeChangeApply_applies {s : State} {m : Nat} {e : BitVec 32} (he : FMap.find s.routePending m = some e)
    (hq : s.fabReqs.any (fun q => q.target == m && q.inFlight) = false) :
    exec (.routeChangeApply m) s = .next ((s.fabReqs.filter (fun q => q.target == m)).foldl State.sendHeld
      { s with fabRoute := FMap.set s.fabRoute m e, routePending := FMap.erase s.routePending m }) := by
  show execRouteChangeApply m s = _
  simp only [execRouteChangeApply, he, hq, Bool.false_eq_true, if_false]

/-- A route change that applies: the new entry holds, and no request to its target is held any longer. -/
theorem routeChangeApply_completes {s : State} {m : Nat} {e : BitVec 32} (he : FMap.find s.routePending m = some e)
    (hq : s.fabReqs.any (fun q => q.target == m && q.inFlight) = false) :
    Completes (.routeChangeApply m) s (fun t =>
      t.fabRoute = FMap.set s.fabRoute m e ∧ t.routePending = FMap.erase s.routePending m ∧
      (∀ q ∈ t.fabReqs, q.target = m → q.port.isSome = true ∨ q.answered = true) ∧ t.mem = s.mem ∧ t.regs = s.regs) := by
  obtain ⟨hf, hm⟩ := foldl_sendHeld (s.fabReqs.filter (fun q => q.target == m))
    { s with fabRoute := FMap.set s.fabRoute m e, routePending := FMap.erase s.routePending m }
  refine ⟨_, routeChangeApply_applies he hq, by rw [hf], by rw [hf], fun q hmem ht => ?_, by rw [hf], by rw [hf]⟩
  rcases hm q hmem with h | ⟨hs, hn⟩
  · exact h
  · exact absurd (List.mem_filter.2 ⟨hs, by simp [ht]⟩) hn

/-! ## Answers (R26, R31) -/

/-- The state in which an answer is taken: a request that failed is recorded (R26). -/
def failureLogged (q : FabReq) (ok : Bool) (s : State) : State := if ok then s else { s with log := .requestPoisoned q.target q.off :: s.log }

theorem execFabricResponse_found {s : State} {id : Nat} {bytes : List Byte} {ok : Bool} {q : FabReq}
    (hq : s.fabReqs.find? (fun q => q.id == id && q.inFlight) = some q) (he : FMap.find s.errInjs (arrayId 13 (q.port.getD 0)) = none) :
    exec (.fabricResponse id bytes ok) s =
      let data := if ok then unwireBlock q.cmp q.off q.answerLen bytes else bytes
      let t := failureLogged q ok s
      if ok && data.length != q.answerLen then .next s
      else if q.awaited then
        .next { t with fabReqs := t.fabReqs.map (fun (x : FabReq) =>
          if x.id == id then { x with answered := true, poisoned := !ok, bytes := data } else x) }
      else if ok then .next (t.dropFab id) else .next ((t.dropFab id).noteFailed q.who (BitVec.ofNat 64 q.off)) := by
  show execFabricResponse id bytes ok s = _
  simp only [execFabricResponse, hq, eccKept_quiet he, Bool.or_false, Bool.not_false, Bool.and_true]
  cases ok <;> rfl

/-- What a command is after a write of a party completed as poisoned (R26, R80). -/
theorem cmd_noteFailed (s : State) (who : Party) (addr : Word) (k : Nat) :
    (s.noteFailed who addr).cmd k =
      if who = .command k ∧ (s.cmd k).status = 1 ∧ (FMap.find s.cmds k).isSome then { s.cmd k with status := 2, detail := addr } else s.cmd k := by
  cases who with
  | command c =>
    simp only [State.noteFailed, State.cmd, FMap.getD, find_modify, Party.command.injEq]
    by_cases hk : k = c
    · subst hk
      cases FMap.find s.cmds k with
      | none => simp
      | some x => by_cases h1 : x.status = 1 <;> simp [h1]
    · simp [hk, Ne.symm hk]
  | _ => simp [State.noteFailed]

theorem noteFailed_frame (s : State) (who : Party) (addr : Word) : s.noteFailed who addr = { s with cmds := (s.noteFailed who addr).cmds } := by
  cases who <;> rfl

end Sys2Proof.Proofs
end

section
/-! Memory written and read by whole operations (R36, R176, R289). -/

namespace Sys2Proof.Proofs

open Sys2Proof Sys2Proof.Machine Sys2Proof.Laws

/-! ## Numbers as bytes (R2) -/

@[simp] theorem length_leBytes (n x : Nat) : (leBytes n x).length = n := by
  induction n generalizing x with
  | zero => rfl
  | succ n ih => simp [leBytes, ih]

theorem ofLe_leBytes (n x : Nat) : ofLe (leBytes n x) = x % 256 ^ n := by
  induction n generalizing x with
  | zero => simp [leBytes, ofLe, Nat.mod_one]
  | succ n ih =>
    have hbyte : (BitVec.ofNat 8 (x % 256)).toNat = x % 256 := Nat.mod_mod x 256
    rw [leBytes, ofLe, ih, hbyte, Nat.pow_succ', Nat.mod_mul]

theorem ofLe_lt (bs : List Byte) : ofLe bs < 256 ^ bs.length := by
  induction bs with
  | nil => simp [ofLe]
  | cons b t ih =>
    have hb : b.toNat < 256 := b.isLt
    rw [ofLe, List.length_cons, Nat.pow_succ']
    omega

/-! ## The byte list -/

theorem memSetMany_append (m : List Host.Cell) (a : Nat) (xs ys : List Byte) :
    memSetMany m a (xs ++ ys) = memSetMany (memSetMany m a xs) (a + xs.length) ys := by
  induction xs generalizing m a with
  | nil => rfl
  | cons x t ih =>
    rw [List.cons_append, memSetMany, memSetMany, ih, List.length_cons]
    congr 1
    omega

@[simp] theorem length_memGetMany (m : List Host.Cell) (a n : Nat) : (memGetMany m a n).length = n := by
  induction n generalizing a with
  | zero => rfl
  | succ n ih => simp [memGetMany, ih]

/-- What was written to a run of bytes is read from it. -/
theorem memGetMany_memSetMany (m : List Host.Cell) (a : Nat) (bs : List Byte) (w : Memory.wf m = true) :
    memGetMany (memSetMany m a bs) a bs.length = bs := by
  induction bs generalizing m a with
  | nil => rfl
  | cons b t ih =>
    have hw := wf_memSet m a b w
    rw [List.length_cons, memGetMany, memSetMany, ih _ _ hw, memGet_memSetMany_outside _ _ _ _ hw (by omega), memGet_memSet m a a b w, if_pos rfl]

/-! ## Writes of the state (R176) -/

theorem mem_writeFuel (s : State) (who : Party) (a : Nat) (bs : List Byte) (n : Nat) (h : bs.length ≤ n) :
    (s.writeFuel who a bs n).mem = memSetMany s.mem a bs := by
  induction n generalizing s a bs with
  | zero =>
    obtain rfl := List.eq_nil_of_length_eq_zero (Nat.le_zero.1 h)
    rfl
  | succ n ih =>
    cases bs with
    | nil => rfl
    | cons b t =>
      set bs := b :: t
      have hpos : 0 < headLen a bs.length := by simp only [headLen, bs, List.length_cons]; omega
      have hle : headLen a bs.length ≤ bs.length := Nat.min_le_left _ _
      have hlen : (bs.take (headLen a bs.length)).length = headLen a bs.length := by rw [List.length_take]; omega
      show ((s.writeWhole who a (bs.take (headLen a bs.length))).writeFuel who (a + headLen a bs.length) (bs.drop (headLen a bs.length)) n).mem = _
      rw [ih _ _ _ (by rw [List.length_drop]; omega)]
      show memSetMany (memSetMany s.mem a (bs.take (headLen a bs.length))) _ _ = _
      have happ := memSetMany_append s.mem a (bs.take (headLen a bs.length)) (bs.drop (headLen a bs.length))
      rw [List.take_append_drop, hlen] at happ
      exact happ.symm

/-- A write leaves its bytes in memory, whatever its words are. -/
theorem mem_write (s : State) (who : Party) (a : Nat) (bs : List Byte) : (s.write who a bs).mem = memSetMany s.mem a bs :=
  mem_writeFuel s who a bs _ (Nat.le_refl _)

@[simp] theorem mem_markDirty (s : State) (a n : Nat) : (s.markDirty a n).mem = s.mem := by
  unfold State.markDirty
  split
  · rfl
  · dsimp only
    split <;> rfl

/-- Memory after a run of bytes is written to it: the bytes there, and every other byte. -/
theorem bytes_of_mem {s t : State} {a : Nat} {bs : List Byte} (w : Memory.wf s.mem = true) (h : t.mem = memSetMany s.mem a bs) :
    t.bytesAt a bs.length = bs ∧ ∀ b, b < a ∨ a + bs.length ≤ b → t.byteAt b = s.byteAt b := by
  refine ⟨?_, fun b hb => ?_⟩
  · rw [State.bytesAt, h]
    exact memGetMany_memSetMany s.mem a bs w
  · rw [State.byteAt, h]
    exact memGet_memSetMany_outside s.mem a bs b w hb

/-- An aligned or unaligned 8-byte number written whole. -/
theorem numAt_of_mem {s t : State} {a : Nat} {v : Word} (w : Memory.wf s.mem = true) (h : t.mem = memSetMany s.mem a (leBytes 8 v.toNat)) :
    t.numAt a 8 = v.toNat ∧ ∀ b, b < a ∨ a + 8 ≤ b → t.byteAt b = s.byteAt b := by
  obtain ⟨hb, ho⟩ := bytes_of_mem w h
  rw [length_leBytes] at hb ho
  refine ⟨?_, ho⟩
  rw [State.numAt, hb, ofLe_leBytes]
  exact Nat.mod_eq_of_lt v.isLt

theorem numAt_lt (s : State) (a n : Nat) : s.numAt a n < 256 ^ n := by
  have h := ofLe_lt (s.bytesAt a n)
  rwa [State.bytesAt, length_memGetMany] at h

/-- The 64-bit word of an 8-byte number is that number. -/
theorem toNat_numAt (s : State) (a : Nat) : (BitVec.ofNat 64 (s.numAt a 8)).toNat = s.numAt a 8 := Nat.mod_eq_of_lt (numAt_lt s a 8)

/-! ## Poison (R288) -/

theorem firstPoison_isSome_iff (s : State) (a n : Nat) : (s.firstPoison a n).isSome = true ↔ ∃ i < n, s.isPoisoned (a + i) = true := by
  induction n generalizing a with
  | zero => simp [State.firstPoison]
  | succ n ih =>
    rw [State.firstPoison]
    split_ifs with h
    · simp only [Option.isSome_some, true_iff]
      exact ⟨0, by omega, h⟩
    · rw [ih]
      constructor
      · rintro ⟨i, hi, hp⟩
        exact ⟨i + 1, by omega, by rwa [show a + (i + 1) = a + 1 + i by omega]⟩
      · rintro ⟨i, hi, hp⟩
        cases i with
        | zero => exact absurd hp h
        | succ i => exact ⟨i, by omega, by rwa [show a + 1 + i = a + (i + 1) by omega]⟩

/-- An aligned word is poisoned in all of its bytes or in none. -/
theorem isPoisoned_eq_firstPoison (s : State) {a : Nat} (h : a % 8 = 0) : s.isPoisoned a = (s.firstPoison a 8).isSome := by
  refine Bool.eq_iff_iff.2 ?_
  rw [firstPoison_isSome_iff]
  refine ⟨fun hp => ⟨0, by omega, hp⟩, fun ⟨i, hi, hp⟩ => ?_⟩
  rwa [State.isPoisoned, show (a + i) / 8 = a / 8 by omega] at hp

/-! ## Reads without errors to come (R286, R289) -/

theorem eccRead_quiet {s : State} (h : s.errInjs = []) (array entry : Nat) (addr : Word) (ctx : Nat) : s.eccRead array entry addr ctx = (false, s) := by
  unfold State.eccRead
  rw [h]
  rfl

theorem eccWord_quiet {s : State} (h : s.errInjs = []) (a ctx : Nat) : s.eccWord a ctx = (false, s) := by
  have h2 : s.eccSlice a ctx = (false, s) := by
    unfold State.eccSlice
    split_ifs
    · exact eccRead_quiet h _ _ _ _
    · rfl
  have h3 : s.eccStored a ctx = (false, s) := by
    unfold State.eccStored
    split
    · rfl
    · exact eccRead_quiet h _ _ _ _
  simp only [State.eccWord, h2, h3, Bool.or_false]

theorem readOutside_quiet {s : State} (h : s.errInjs = []) (a n : Nat) :
    s.readOutside a n = (s.bytesAt a n, (s.firstPoison a n).isSome, s) := by
  have hfold : ∀ ps : List (Nat × Nat), ps.foldl (fun (acc : Bool × State) p =>
      let e := acc.2.eccWord (a + p.1) 0
      (acc.1 || e.1, if e.1 then e.2.addPoison (a + p.1) 1 else e.2)) (false, s) = (false, s) := by
    intro ps
    induction ps with
    | nil => rfl
    | cons p ps ih =>
      simp only [List.foldl_cons, eccWord_quiet h, Bool.or_false, Bool.false_eq_true, if_false] at ih ⊢
      exact ih
  simp only [State.readOutside, hfold, Bool.false_or]

end Sys2Proof.Proofs
end

section
/-! Requests of other modules, served at this module's HBM4E or dropped (R22, R23, R163, R174). -/

namespace Sys2Proof.Proofs

open Sys2Proof Sys2Proof.Machine Sys2Proof.Laws

/-! ## What serving a request may change -/

/-- `t` differs from `s` in memory and its records, in the error logs, and in what a failed request notes alone. -/
def Serves (s t : State) : Prop :=
  t = { s with
    mem := t.mem, poison := t.poison, hist := t.hist, floors := t.floors, writeSeq := t.writeSeq, freeCount := t.freeCount, wgs := t.wgs
    cmds := t.cmds, errLogs := t.errLogs, errInjs := t.errInjs, log := t.log, vbd := t.vbd }

theorem Serves.refl (s : State) : Serves s s := rfl

theorem Serves.trans {s t u : State} (h : Serves s t) (k : Serves t u) : Serves s u := by
  unfold Serves at h k
  rw [h] at k
  exact k

theorem Serves.ite {s t u : State} {c : Prop} [Decidable c] (h : Serves s t) (k : Serves s u) : Serves s (if c then t else u) := by
  split_ifs
  · exact h
  · exact k

theorem Serves.foldl {α : Type} {op : State → α → State} (k : ∀ u x, Serves u (op u x)) (l : List α) (s : State) : Serves s (l.foldl op s) := by
  induction l generalizing s with
  | nil => exact .refl s
  | cons x l ih => exact (k s x).trans (ih _)

/-- A fold that carries a value beside the state. -/
theorem Serves.foldl_snd {α β : Type} {op : β × State → α → β × State} (k : ∀ u x, Serves u.2 (op u x).2) (l : List α) (u : β × State) :
    Serves u.2 (l.foldl op u).2 := by
  induction l generalizing u with
  | nil => exact .refl u.2
  | cons x l ih => exact (k u x).trans (ih _)

theorem serves_writeFuel (s : State) (who : Party) (a : Nat) (bs : List Byte) (n : Nat) : Serves s (s.writeFuel who a bs n) := by
  induction n generalizing s a bs with
  | zero => exact .refl s
  | succ n ih =>
    cases bs with
    | nil => exact .refl s
    | cons b t => exact Serves.trans (t := s.writeWhole who a _) rfl (ih _ _ _)

theorem serves_write (s : State) (who : Party) (a : Nat) (bs : List Byte) : Serves s (s.write who a bs) := serves_writeFuel s who a bs _

theorem serves_markDirty (s : State) (a n : Nat) : Serves s (s.markDirty a n) := by
  unfold State.markDirty
  split
  · exact .refl s
  · exact .ite rfl (.refl s)

theorem serves_eccRead (s : State) (array entry : Nat) (addr : Word) (ctx : Nat) : Serves s (s.eccRead array entry addr ctx).2 := by
  unfold State.eccRead
  split
  · exact .refl s
  · split_ifs <;> rfl

theorem serves_eccStored (s : State) (a ctx : Nat) : Serves s (s.eccStored a ctx).2 := by
  unfold State.eccStored
  split
  · exact .refl s
  · exact serves_eccRead s _ _ _ _

theorem serves_eccSlice (s : State) (a ctx : Nat) : Serves s (s.eccSlice a ctx).2 := by
  unfold State.eccSlice
  split_ifs
  · exact serves_eccRead s _ _ _ _
  · exact .refl s

theorem serves_eccWord (s : State) (a ctx : Nat) : Serves s (s.eccWord a ctx).2 := (serves_eccSlice s a ctx).trans (serves_eccStored _ a ctx)

theorem serves_addPoison (s : State) (a n : Nat) : Serves s (s.addPoison a n) := rfl

theorem serves_eccBytes (s : State) (a n ctx : Nat) : Serves s (s.eccBytes a n ctx) :=
  .ite (.refl s) (Serves.foldl (fun u _ => .ite ((serves_eccStored u _ ctx).trans (serves_addPoison _ _ _)) (serves_eccStored u _ ctx)) _ s)

theorem serves_vbdFill (s : State) (frame e block : Nat) : Serves s (s.vbdFill frame e block) := by
  have h1 := serves_eccBytes s (frame + 4 * block) 4 0
  unfold State.vbdFill
  dsimp only
  refine .ite (.refl s) (.ite ?_ ?_)
  · exact h1.trans ((serves_eccBytes _ _ _ 0).trans (.ite rfl rfl))
  · exact h1.trans rfl

theorem serves_vbdMark (s : State) (frame e block : Nat) : Serves s (s.vbdMark frame e block) := .ite (.refl s) rfl

theorem serves_performFlat (s : State) (who : Party) (a : Nat) (op : WriteOp) : Serves s (s.performFlat who a op) := by
  have hput : ∀ (u : State) (b : Nat) (bs : List Byte) (n : Nat), Serves u ((u.write who b bs).markDirty b n) := fun u b bs n =>
    (serves_write u who b bs).trans (serves_markDirty _ b n)
  cases op with
  | store bs => exact .ite rfl (hput s a bs _)
  | masked bs =>
    refine Serves.foldl (fun u x => ?_) _ s
    split
    · exact hput u _ _ 1
    · exact .refl u
  | poisoned n => exact ((serves_write s who a _).trans (serves_addPoison _ a n)).trans (serves_markDirty _ a n)
  | reduce o tag u v => exact .ite (.refl s) (.ite rfl (hput s a _ 8))
  | atomic o tag u v c =>
    simp only [State.performFlat]
    split
    · exact .ite rfl (hput s a _ 8)
    · rfl

theorem serves_noteFailed (s : State) (who : Party) (addr : Word) : Serves s (s.noteFailed who addr) := by
  cases who <;> rfl

theorem serves_performLoc_inbound (s : State) (who : Party) (off cmp : Nat) (op : WriteOp) :
    Serves s (s.performLoc who none (inboundLoc off cmp) op) := by
  unfold inboundLoc
  dsimp only
  split_ifs
  · exact serves_performFlat s who _ op
  · refine .ite (Serves.trans ?_ (serves_noteFailed _ who _)) ?_
    · rfl
    · exact ((serves_vbdFill s _ _ _).trans (serves_performFlat _ who _ op)).trans (serves_vbdMark _ _ _ _)

theorem serves_fillInbound (s : State) (off cmp n : Nat) : Serves s (s.fillInbound off cmp n).2.2 := by
  unfold State.fillInbound
  dsimp only
  split_ifs
  · exact .refl s
  · exact Serves.foldl_snd (fun u _ => serves_vbdFill u.2 _ _ _) _ (false, s)

theorem serves_readOutside (s : State) (a n : Nat) : Serves s (s.readOutside a n).2.2 :=
  Serves.foldl_snd (fun u _ => .ite ((serves_eccWord u.2 _ 0).trans (serves_addPoison _ _ _)) (serves_eccWord u.2 _ 0)) _ (false, s)

theorem serves_peerPub (s : State) (who : Party) : Serves s (s.peerPub who) := .ite rfl rfl

/-! ## Answers -/

/-- `t` is a state in which a request of `source` has been served, with an answer of these bytes. -/
def Answers (source : Nat) (s : State) (bytes : List Byte) (bad : Bool) (t : State) : Prop :=
  ∃ u, Serves s u ∧ t = { u with ports := t.ports, peerAnswers := u.peerAnswers ++ [(source, bytes, bad)] }

theorem answers_answerPeer {s u : State} (h : Serves s u) (source off cmp : Nat) (bytes : List Byte) (bad : Bool) :
    Answers source s bytes bad (u.answerPeer source off cmp bytes bad) := ⟨u, h, rfl⟩

theorem Answers.told {source : Nat} {s t : State} {bytes : List Byte} {bad : Bool} (h : Answers source s bytes bad t) :
    t.peerAnswers = s.peerAnswers ++ [(source, bytes, bad)] ∧ t.regs = s.regs ∧ t.threads = s.threads ∧ t.groups = s.groups ∧ t.ctxs = s.ctxs := by
  obtain ⟨u, hu, ht⟩ := h
  rw [ht, hu]
  exact ⟨rfl, rfl, rfl, rfl, rfl⟩

theorem serve_write_answers (s : State) (source off cmp : Nat) (bs : List Byte) :
    Answers source s [] false (s.serve source (.write off cmp bs)) :=
  answers_answerPeer ((Serves.foldl (fun u _ => serves_performLoc_inbound u _ _ cmp _) _ s).trans (serves_peerPub _ _)) source off 0 _ _

theorem serve_reduce_answers (s : State) (source off cmp : Nat) (op : BitVec 3) (tag : Tag) (un : Bool) (v : Word) :
    Answers source s [] false (s.serve source (.reduce off cmp op tag un v)) :=
  answers_answerPeer ((serves_performLoc_inbound s _ off cmp _).trans (serves_peerPub _ _)) source off 0 _ _

/-- Every request that is served is answered. -/
theorem serve_answers (s : State) (source : Nat) (q : InboundReq) : ∃ bytes bad, Answers source s bytes bad (s.serve source q) := by
  cases q with
  | read off cmp n =>
    exact ⟨_, _, answers_answerPeer ((serves_fillInbound s off cmp n).trans (serves_readOutside _ _ n)) source off cmp _ _⟩
  | write off cmp bs => exact ⟨_, _, serve_write_answers s source off cmp bs⟩
  | reduce off cmp op tag u v => exact ⟨_, _, serve_reduce_answers s source off cmp op tag u v⟩
  | atomic off cmp op is64 u v c =>
    have hr := (serves_fillInbound s off cmp 8).trans (serves_readOutside _ (s.fillInbound off cmp 8).1 8)
    simp only [State.serve]
    split_ifs
    · exact ⟨_, _, answers_answerPeer hr source off 0 _ _⟩
    · exact ⟨_, _, answers_answerPeer (hr.trans ((serves_performLoc_inbound _ _ off cmp _).trans (serves_peerPub _ _))) source off 0 _ _⟩

/-! ## Bytes at home: pages without CMP -/

theorem hbmAt_eq (pa : Nat) : hbmAt pa = pa := by simp [hbmAt, spaceBase]

theorem inboundLoc_flat {off : Nat} (h : off < 2 ^ 39) : inboundLoc off 0 = .flat off := by
  rw [inboundLoc, Nat.mod_eq_of_lt h, hbmAt_eq, if_pos rfl]

theorem fillInbound_flat (s : State) {off : Nat} (h : off < 2 ^ 39) (n : Nat) : s.fillInbound off 0 n = (off, false, s) := by
  rw [State.fillInbound, Nat.mod_eq_of_lt h, hbmAt_eq, if_pos rfl]

/-- HBM4E is no lane's own memory. -/
theorem spaceOf_hbm {off : Nat} (h : off < 2 ^ 39) : spaceOf off ≠ 7 := by
  unfold spaceOf
  omega

theorem mem_performFlat_store (s : State) (who : Party) {a : Nat} (h : spaceOf a ≠ 7) (bs : List Byte) :
    (s.performFlat who a (.store bs)).mem = memSetMany s.mem a bs := by
  show (if spaceOf a = 7 then s.writeOwn a bs else (s.write who a bs).markDirty a bs.length).mem = _
  rw [if_neg h, mem_markDirty, mem_write]

/-- A reduction leaves the merged word, or nothing on poison (R161, R288). -/
theorem mem_performFlat_reduce (s : State) (who : Party) {a : Nat} (h : spaceOf a ≠ 7) (op : BitVec 3) (tag : Tag) (un : Bool) (v : Word) :
    (s.performFlat who a (.reduce op tag un v)).mem = if s.isPoisoned a then s.mem
      else memSetMany s.mem a (leBytes 8 (mergeWord op.toNat tag un (BitVec.ofNat 64 (s.numAt a 8)) v).toNat) := by
  show (if s.isPoisoned a then s else if spaceOf a = 7 then s.writeOwn a _ else (s.write who a _).markDirty a 8).mem = _
  rw [if_neg h]
  split_ifs
  · rfl
  · rw [mem_markDirty, mem_write]

/-- An atomic leaves its new word, or nothing where it writes none (R384). -/
theorem mem_performFlat_atomic (s : State) (who : Party) {a : Nat} (h : spaceOf a ≠ 7) (op : BitVec 3) (tag : Tag) (un : Bool) (v c : Word) :
    (s.performFlat who a (.atomic op tag un v c)).mem =
      ((atomNew op.toNat tag un (BitVec.ofNat 64 (s.numAt a 8)) v c).map (fun new => memSetMany s.mem a (leBytes 8 new.toNat))).getD s.mem := by
  cases hn : atomNew op.toNat tag un (BitVec.ofNat 64 (s.numAt a 8)) v c with
  | none =>
    simp only [State.performFlat, hn]
    rfl
  | some new =>
    simp only [State.performFlat, hn]
    rw [if_neg h, mem_markDirty, mem_write]
    rfl

theorem mem_peerPub (s : State) (who : Party) : (s.peerPub who).mem = s.mem := by
  unfold State.peerPub
  dsimp only
  split_ifs <;> rfl

/-- One piece of an inbound write performed. -/
def putPiece (who : Party) (off : Nat) (bs : List Byte) (s : State) (p : Nat × Nat) : State :=
  s.performLoc who none (inboundLoc (off + p.1) 0) (.store ((bs.drop p.1).take p.2))

/-- The pieces of a write from one on leave its bytes from there on. -/
theorem mem_putPieces (who : Party) (off : Nat) (bs : List Byte) (hoff : off + bs.length ≤ 2 ^ 39) (fuel o : Nat) (s : State)
    (ho : o ≤ bs.length) (hf : bs.length - o ≤ fuel) :
    ((piecesFuel (off + o) (bs.length - o) o fuel).foldl (putPiece who off bs) s).mem = memSetMany s.mem (off + o) (bs.drop o) := by
  have hnil : bs.length - o = 0 → bs.drop o = [] := fun h => List.drop_eq_nil_of_le (by omega)
  induction fuel generalizing o s with
  | zero => rw [hnil (by omega)]; rfl
  | succ fuel ih =>
    rw [piecesFuel]
    split_ifs with h0
    · rw [hnil h0]; rfl
    · set n := headLen (off + o) (bs.length - o) with hn
      have hpos : 0 < n ∧ n ≤ bs.length - o := by rw [hn]; unfold headLen; omega
      have hmem : (putPiece who off bs s (o, n)).mem = memSetMany s.mem (off + o) ((bs.drop o).take n) := by
        unfold putPiece
        rw [inboundLoc_flat (by show off + o < _; omega)]
        exact mem_performFlat_store s who (spaceOf_hbm (by omega)) _
      have hlen : ((bs.drop o).take n).length = n := by rw [List.length_take, List.length_drop]; omega
      have happ := memSetMany_append s.mem (off + o) ((bs.drop o).take n) ((bs.drop o).drop n)
      rw [List.take_append_drop, hlen, List.drop_drop] at happ
      have hrest := ih (o + n) (putPiece who off bs s (o, n)) (by omega) (by omega) (fun h => List.drop_eq_nil_of_le (by omega))
      rw [List.foldl_cons, happ, ← hmem, Nat.add_assoc, ← hrest, Nat.sub_sub]

/-- A write of another module leaves its bytes. -/
theorem mem_serve_write (s : State) (source off : Nat) (bs : List Byte) (hoff : off + bs.length ≤ 2 ^ 39) :
    (s.serve source (.write off 0 bs)).mem = memSetMany s.mem off bs := by
  have h := mem_putPieces (.peer source) off bs hoff bs.length 0 s (by omega) (by omega)
  simp only [Nat.sub_zero, Nat.add_zero, List.drop_zero] at h
  exact (mem_peerPub _ _).trans h

/-! ## The events -/

theorem exec_fabricInboundRequest {s : State} (source : Nat) (q : InboundReq) (hpow : s.boot.powered = true) (hrec : s.boot.recovery = false) :
    exec (.fabricInboundRequest source q) s = .next (if bitAt (FMap.getD s.fabInb (source / 64) 0) (source % 64) then s.serve source q
      else ({ s with log := .inboundDropped source :: s.log }).answerPeer source (inboundOff q) 0 [] true) := by
  show execFabricInboundRequest source q s = _
  unfold execFabricInboundRequest
  rw [if_neg (by simp [hpow, hrec])]
  unfold State.inbound
  split_ifs <;> rfl

theorem inbound_answered {s : State} (source : Nat) (q : InboundReq) (hpow : s.boot.powered = true) (hrec : s.boot.recovery = false) :
    Completes (.fabricInboundRequest source q) s (fun t =>
      (∃ bytes bad, t.peerAnswers = s.peerAnswers ++ [(source, bytes, bad)]) ∧ t.regs = s.regs ∧ t.threads = s.threads ∧ t.groups = s.groups ∧
      t.ctxs = s.ctxs) := by
  refine ⟨_, exec_fabricInboundRequest source q hpow hrec, ?_⟩
  split_ifs
  · obtain ⟨bytes, bad, h⟩ := serve_answers s source q
    obtain ⟨ha, hr, ht, hg, hc⟩ := h.told
    exact ⟨⟨bytes, bad, ha⟩, hr, ht, hg, hc⟩
  · exact ⟨⟨[], true, rfl⟩, rfl, rfl, rfl, rfl⟩

theorem inbound_dropped {s : State} (source : Nat) (q : InboundReq) (hpow : s.boot.powered = true) (hrec : s.boot.recovery = false)
    (hin : bitAt (FMap.getD s.fabInb (source / 64) 0) (source % 64) = false) :
    Completes (.fabricInboundRequest source q) s (fun t =>
      t = { s with log := .inboundDropped source :: s.log, ports := t.ports, peerAnswers := t.peerAnswers } ∧
      t.peerAnswers = s.peerAnswers ++ [(source, [], true)]) := by
  refine ⟨_, exec_fabricInboundRequest source q hpow hrec, ?_⟩
  rw [if_neg (by rw [hin]; decide)]
  exact ⟨rfl, rfl⟩

/-! ### Requests of a module with permission, to a page without CMP and without errors to come -/

section
variable {s : State} {source off : Nat}

theorem exec_inbound_served (q : InboundReq) (hpow : s.boot.powered = true) (hrec : s.boot.recovery = false)
    (hin : bitAt (FMap.getD s.fabInb (source / 64) 0) (source % 64) = true) :
    exec (.fabricInboundRequest source q) s = .next (s.serve source q) := by
  rw [exec_fabricInboundRequest source q hpow hrec, if_pos hin]

theorem serve_read_flat (hq : s.errInjs = []) (hoff : off < 2 ^ 39) (n : Nat) :
    s.serve source (.read off 0 n) = s.answerPeer source off 0 (s.bytesAt off n) (s.firstPoison off n).isSome := by
  simp only [State.serve, fillInbound_flat s hoff, readOutside_quiet hq, Bool.false_or]

theorem serve_reduce_flat (hw : Memory.wf s.mem = true) (hoff : off + 8 ≤ 2 ^ 39) (h8 : off % 8 = 0) (op : BitVec 3) (tag : Tag) (un : Bool) (v : Word) :
    let t := s.serve source (.reduce off 0 op tag un v)
    let bad := (s.firstPoison off 8).isSome
    (bad = true → t.mem = s.mem) ∧ (∀ a, a < off ∨ off + 8 ≤ a → t.byteAt a = s.byteAt a) ∧
      (bad = false → t.numAt off 8 = (mergeWord op.toNat tag un (BitVec.ofNat 64 (s.numAt off 8)) v).toNat) := by
  intro t bad
  have hmem : t.mem = if bad then s.mem
      else memSetMany s.mem off (leBytes 8 (mergeWord op.toNat tag un (BitVec.ofNat 64 (s.numAt off 8)) v).toNat) := by
    refine (mem_peerPub _ _).trans ?_
    rw [inboundLoc_flat (by omega)]
    refine (mem_performFlat_reduce s _ (spaceOf_hbm (by omega)) op tag un v).trans ?_
    rw [isPoisoned_eq_firstPoison s h8]
  obtain hb | hb := Bool.eq_false_or_eq_true bad
  · rw [hb, if_pos rfl] at hmem
    exact ⟨fun _ => hmem, fun a _ => by rw [State.byteAt, hmem]; rfl, fun h => absurd (hb.symm.trans h) (by decide)⟩
  · rw [hb, if_neg Bool.false_ne_true] at hmem
    obtain ⟨hnum, hout⟩ := numAt_of_mem hw hmem
    exact ⟨fun h => absurd (hb.symm.trans h) (by decide), hout, fun _ => hnum⟩

theorem serve_atomic_flat (hq : s.errInjs = []) (hoff : off + 8 ≤ 2 ^ 39) (op : BitVec 3) (is64 un : Bool) (v c : Word) :
    s.serve source (.atomic off 0 op is64 un v c) =
      if (s.firstPoison off 8).isSome then s.answerPeer source off 0 [] true
      else ((s.performLoc (.peer source) none (inboundLoc off 0) (.atomic op (widthTag is64) un v c)).peerPub (.peer source)).answerPeer source off 0
        (s.bytesAt off 8) false := by
  simp only [State.serve, fillInbound_flat s (show off < 2 ^ 39 by omega), readOutside_quiet hq, Bool.false_or]

theorem mem_atomic_flat (hw : Memory.wf s.mem = true) (hoff : off + 8 ≤ 2 ^ 39) (op : BitVec 3) (tag : Tag) (un : Bool) (v c : Word) {t : State}
    (ht : t.mem = (s.performLoc (.peer source) none (inboundLoc off 0) (.atomic op tag un v c)).mem) :
    (∀ a, a < off ∨ off + 8 ≤ a → t.byteAt a = s.byteAt a) ∧ t.numAt off 8 =
      ((atomNew op.toNat tag un (BitVec.ofNat 64 (s.numAt off 8)) v c).getD (BitVec.ofNat 64 (s.numAt off 8))).toNat := by
  rw [inboundLoc_flat (by omega)] at ht
  have hmem := ht.trans (mem_performFlat_atomic s _ (spaceOf_hbm (by omega)) op tag un v c)
  cases hn : atomNew op.toNat tag un (BitVec.ofNat 64 (s.numAt off 8)) v c with
  | none =>
    rw [hn] at hmem
    refine ⟨fun a _ => by rw [State.byteAt, hmem]; rfl, ?_⟩
    rw [Option.getD_none, toNat_numAt, State.numAt, State.bytesAt, hmem]
    rfl
  | some new =>
    rw [hn] at hmem
    obtain ⟨hnum, hout⟩ := numAt_of_mem hw hmem
    exact ⟨hout, hnum⟩

/-- What a request of a module with permission reads, writes or changes at home. -/
theorem inbound_served (hpow : s.boot.powered = true) (hrec : s.boot.recovery = false)
    (hin : bitAt (FMap.getD s.fabInb (source / 64) 0) (source % 64) = true) (hw : Memory.wf s.mem = true) (hq : s.errInjs = [])
    (hoff : off < 2 ^ 39) :
    let answered := fun (t : State) (bytes : List Byte) (bad : Bool) => t.peerAnswers = s.peerAnswers ++ [(source, bytes, bad)]
    let outside := fun (t : State) (n : Nat) => ∀ a, a < off ∨ off + n ≤ a → t.byteAt a = s.byteAt a
    let bad := (s.firstPoison off 8).isSome
    (∀ n, Completes (.fabricInboundRequest source (.read off 0 n)) s (fun t =>
      answered t (s.bytesAt off n) (s.firstPoison off n).isSome ∧ t = { s with ports := t.ports, peerAnswers := t.peerAnswers })) ∧
    (∀ bs : List Byte, off + bs.length ≤ 2 ^ 39 → Completes (.fabricInboundRequest source (.write off 0 bs)) s (fun t =>
      answered t [] false ∧ t.bytesAt off bs.length = bs ∧ outside t bs.length)) ∧
    (off + 8 ≤ 2 ^ 39 →
      (∀ (op : BitVec 3) (tag : Tag) (un : Bool) (v : Word), off % 8 = 0 → Completes (.fabricInboundRequest source (.reduce off 0 op tag un v)) s (fun t =>
        answered t [] false ∧ (bad = true → t.mem = s.mem) ∧ outside t 8 ∧
        (bad = false → t.numAt off 8 = (mergeWord op.toNat tag un (BitVec.ofNat 64 (s.numAt off 8)) v).toNat))) ∧
      (∀ (op : BitVec 3) (is64 un : Bool) (v c : Word), Completes (.fabricInboundRequest source (.atomic off 0 op is64 un v c)) s (fun t =>
        answered t (if bad then [] else s.bytesAt off 8) bad ∧ outside t 8 ∧ (bad = true → t.mem = s.mem) ∧ (bad = false → t.numAt off 8 =
          ((atomNew op.toNat (widthTag is64) un (BitVec.ofNat 64 (s.numAt off 8)) v c).getD (BitVec.ofNat 64 (s.numAt off 8))).toNat)))) := by
  intro answered outside bad
  refine ⟨fun n => ⟨_, exec_inbound_served _ hpow hrec hin, ?_⟩, fun bs hbs => ⟨_, exec_inbound_served _ hpow hrec hin, ?_⟩,
    fun h8 => ⟨fun op tag un v ha => ⟨_, exec_inbound_served _ hpow hrec hin, ?_⟩, fun op is64 un v c => ⟨_, exec_inbound_served _ hpow hrec hin, ?_⟩⟩⟩
  · rw [serve_read_flat hq hoff n]
    exact ⟨rfl, rfl⟩
  · exact ⟨(serve_write_answers s source off 0 bs).told.1, bytes_of_mem hw (mem_serve_write s source off bs hbs)⟩
  · exact ⟨(serve_reduce_answers s source off 0 op tag un v).told.1, serve_reduce_flat hw h8 ha op tag un v⟩
  · rw [serve_atomic_flat hq h8]
    obtain hb | hb := Bool.eq_false_or_eq_true bad
    · rw [if_pos hb, hb]
      exact ⟨rfl, fun _ _ => rfl, fun _ => rfl, fun h => absurd h (by decide)⟩
    · rw [if_neg (show ¬bad = true by rw [hb]; decide), hb]
      obtain ⟨hout, hnum⟩ := mem_atomic_flat hw h8 op (widthTag is64) un v c (mem_peerPub _ _)
      refine ⟨?_, hout, fun h => absurd h (by decide), fun _ => hnum⟩
      exact (answers_answerPeer ((serves_performLoc_inbound s _ off 0 _).trans (serves_peerPub _ _)) source off 0 _ _).told.1

end

end Sys2Proof.Proofs
end

section
/-! Flits, replays, route entries, requests from other modules and answers, as the statement puts them (R16 to R18, R22 to R26, R30, R31). -/

namespace Sys2Proof.Proofs

open Sys2Proof Sys2Proof.Machine Sys2Proof.Laws

/-! ## A flit received -/

theorem receive_good_counts {x : Port} {f : Flit} (h : f.crcOk = true ∧ ∀ b < 8, b ∉ f.badBeats) :
    (x.receive f).retries = x.retries ∧ (x.receive f).replays0 = countedReplays x x.replays0 ∧
      (x.receive f).replays1 = countedReplays x x.replays1 := by
  rw [receive_good h, countFlit_eq]
  split_ifs <;> exact ⟨rfl, rfl, rfl⟩

theorem receive_in_sequence {x : Port} {f : Flit} (h : f.crcOk = true ∧ ∀ b < 8, b ∉ f.badBeats) (hs : f.seq = x.expectSeq) :
    (x.receive f).delivered = x.delivered ++ [f.payload] ∧ (x.receive f).expectSeq = x.expectSeq + 1 ∧ (x.receive f).askReplay = none := by
  rw [receive_good h, if_pos hs]
  exact ⟨rfl, rfl, rfl⟩

/-- A flit out of sequence is discarded, and asks for nothing (log entry 44). -/
theorem receive_out_of_sequence {x : Port} {f : Flit} (h : f.crcOk = true ∧ ∀ b < 8, b ∉ f.badBeats) (hs : f.seq ≠ x.expectSeq) :
    (x.receive f).delivered = x.delivered ∧ (x.receive f).expectSeq = x.expectSeq ∧ (x.receive f).askReplay = x.askReplay := by
  rw [receive_good h, if_neg hs, countFlit_eq]
  exact ⟨rfl, rfl, rfl⟩

theorem receive_bad_kept {x : Port} {f : Flit} (h : ¬(f.crcOk = true ∧ ∀ b < 8, b ∉ f.badBeats)) :
    (x.receive f).delivered = x.delivered ∧ (x.receive f).expectSeq = x.expectSeq := by
  rw [receive_bad h, countFlit_eq]
  exact ⟨rfl, rfl⟩

/-- A flit that fails a check asks for a replay and counts on the lanes that failed (R17, R18). -/
theorem receive_bad_asks {x : Port} {f : Flit} (h : ¬(f.crcOk = true ∧ ∀ b < 8, b ∉ f.badBeats)) :
    let z := x.receive f
    let failed := fun (k : Nat) => ∃ b < 8, b ∈ f.badBeats ∧ x.beatLane b = k
    z.askReplay = some (match x.askReplay with | some n => min n f.seq | none => f.seq) ∧ z.retries.toNat = min 0xFFFF (x.retries.toNat + 1) ∧
      (failed 0 → z.replays0 = countedReplays x x.replays0 + 1) ∧ (¬failed 0 → z.replays0 = countedReplays x x.replays0) ∧
      (failed 1 → z.replays1 = countedReplays x x.replays1 + 1) ∧ (¬failed 1 → z.replays1 = countedReplays x x.replays1) := by
  intro z failed
  have hz : z = x.countFlit.requestReplay f.seq (x.laneBad f 0) (x.laneBad f 1) := receive_bad h
  rw [hz, countFlit_eq]
  refine ⟨rfl, satInc_toNat x.retries, fun h0 => ?_, fun h0 => ?_, fun h1 => ?_, fun h1 => ?_⟩
  · exact if_pos ((laneBad_iff x f 0).2 h0)
  · exact if_neg (fun hb => h0 ((laneBad_iff x f 0).1 hb))
  · exact if_pos ((laneBad_iff x f 1).2 h1)
  · exact if_neg (fun hb => h1 ((laneBad_iff x f 1).1 hb))

/-! ## An answer -/

/-- The data that an answer brings a request of a page with its CMP (R174). -/
def answerData (q : FabReq) (bytes : List Byte) : List Byte := if q.cmp = 0 then bytes else unwireBlock q.cmp q.off q.len bytes

theorem unwireBlock_eq_answerData (q : FabReq) (bytes : List Byte) : unwireBlock q.cmp q.off q.len bytes = answerData q bytes := by
  unfold answerData
  split_ifs with h0
  · exact if_pos (.inl h0)
  · rfl

section
variable {s : State} {id : Nat} {bytes : List Byte} {q : FabReq}
  (hq : s.fabReqs.find? (fun q => q.id == id && q.inFlight) = some q) (he : FMap.find s.errInjs (arrayId 13 (q.port.getD 0)) = none)
include hq he

/-- An answer to a request that its requester takes. -/
theorem response_awaited (ha : q.awaited = true) (ok : Bool) (hlen : ok = true → (answerData q bytes).length = q.len) :
    exec (.fabricResponse id bytes ok) s =
      let t := failureLogged q ok s
      .next { t with fabReqs := t.fabReqs.map (fun (x : FabReq) =>
        if x.id == id then { x with answered := true, poisoned := !ok, bytes := if ok then answerData q bytes else bytes } else x) } := by
  have hl : q.answerLen = q.len := if_pos ha
  have hfull : (ok && (if ok then answerData q bytes else bytes).length != q.len) = false := by
    cases ok with
    | false => rfl
    | true => simp [hlen rfl]
  rw [execFabricResponse_found hq he]
  simp only [hl, unwireBlock_eq_answerData, hfull, ha, if_true, Bool.false_eq_true, if_false]

/-- An acknowledgement that nobody waits for. -/
theorem response_unawaited_ok (ha : q.awaited = false) (hb : bytes = []) :
    exec (.fabricResponse id bytes true) s = .next { s with fabReqs := s.fabReqs.filter (fun r => r.id != id) } := by
  have hl : q.answerLen = 0 := if_neg (by rw [ha]; decide)
  have hd : unwireBlock q.cmp q.off 0 [] = [] := if_pos (.inr rfl)
  rw [execFabricResponse_found hq he, hb]
  simp only [hl, hd, ha]
  rfl

/-- The failure of a request that nobody waits for: its command, if it has one, notes it (R26, R80). -/
theorem response_unawaited_failed (ha : q.awaited = false) :
    exec (.fabricResponse id bytes false) s = .next
      (((failureLogged q false s).dropFab id).noteFailed q.who (BitVec.ofNat 64 q.off)) := by
  rw [execFabricResponse_found hq he]
  simp only [ha, Bool.false_and, Bool.false_eq_true, if_false]

end

/-- Settles O48: flits by `Port.receive`, route changes by the fold of `sendHeld`, inbound requests by `serve`, answers by their request. -/
theorem fabricTrafficResults : Obligations.FabricTrafficResults := by
  intro s
  refine ⟨fun p f hp hc => ?_, fun p n hp hc he => ?_, fun m data hm hpow hrdy hrec => ?_, fun m e he => ⟨fun hq => ?_, fun hq => ?_⟩,
    fun source hpow hrec => ⟨fun q hin => ?_, fun q => ?_, fun hin hw hq off hoff => ?_⟩,
    fun id bytes q hq he => ⟨fun ha hlen => ?_, fun ha => ?_, fun ha hb => ?_, fun ha => ?_⟩⟩
  · refine ⟨_, exec_flitReceive f hp hc, ?_⟩
    simp only [port_setPort_same]
    refine ⟨congrArg (s.setPort p) (receive_frame (s.port p) f), receive_good_counts, receive_in_sequence, fun h => ?_,
      fun h hs => (receive_out_of_sequence h hs).2.2, receive_bad_asks⟩
    by_cases hg : f.crcOk = true ∧ ∀ b < 8, b ∉ f.badBeats
    · obtain ⟨hd, hx, -⟩ := receive_out_of_sequence hg (h.resolve_left (fun hn => hn hg))
      exact ⟨hd, hx⟩
    · exact receive_bad_kept hg
  · exact ⟨_, exec_replayRequest n hp hc, by rw [eccKept_quiet he]⟩
  · exact ⟨_, exec_fabRouteWrite data hm, bar0Write_route s m data hm hpow hrdy hrec⟩
  · exact ⟨s, routeChangeApply_waits he hq, rfl⟩
  · exact routeChangeApply_completes he hq
  · exact inbound_dropped source q hpow hrec hin
  · exact inbound_answered source q hpow hrec
  · exact inbound_served hpow hrec hin hw hq hoff
  · exact ⟨_, response_awaited hq he ha true (fun _ => hlen), rfl⟩
  · exact ⟨_, response_awaited hq he ha false (fun h => absurd h (by decide)), rfl⟩
  · exact ⟨_, response_unawaited_ok hq he ha hb, rfl⟩
  · refine ⟨_, response_unawaited_failed hq he ha, noteFailed_frame _ _ _, fun k => cmd_noteFailed _ q.who _ k⟩

end Sys2Proof.Proofs
end

section
/-! Writes of BAR 0: which are taken, and which operation on the state each is (R35, R37, R51). -/

namespace Sys2Proof.Proofs

open Sys2Proof Sys2Proof.Machine Sys2Proof.Laws

/-! ## Which writes are taken (R35, R51) -/

theorem bar0Write_unanswered {s : State} {off : Nat} (size : Nat) (data : Word) (h : s.boot.powered = false ∨ 0x400000 ≤ off) :
    s.bar0Write off size data = s := if_pos (by simpa using h)

theorem bar0Write_unsupported {s : State} {off size : Nat} (data : Word) (hpow : s.boot.powered = true) (hoff : off < 0x400000)
    (h : (size ≠ 4 ∧ size ≠ 8) ∨ off % size ≠ 0) : s.bar0Write off size data = { s with log := .unsupported off :: s.log } := by
  rw [State.bar0Write, if_neg (by simp [hpow, hoff]), if_pos h]

theorem bar0Write_refused {s : State} {off size : Nat} (data : Word) (hpow : s.boot.powered = true) (hoff : off < 0x400000)
    (hsize : size = 4 ∨ size = 8) (halign : off % size = 0) (h : s.bar0Writes (off / 8 * 8) = false) : s.bar0Write off size data = s := by
  rw [State.bar0Write, if_neg (by simp [hpow, hoff]), if_neg (by omega), if_pos (by simp [h])]

theorem bar0Writes_running {s : State} (hrdy : s.boot.ready = true) (hrec : s.boot.recovery = false) (off : Nat) : s.bar0Writes off = true := by
  simp [State.bar0Writes, hrdy, hrec]

theorem bar0Writes_starting {s : State} (hrdy : s.boot.ready = false) {off : Nat} (h : off ≠ 0x1028) : s.bar0Writes off = false := by
  simp [State.bar0Writes, hrdy, h]

theorem bar0Writes_recovery {s : State} (hrdy : s.boot.ready = true) (hrec : s.boot.recovery = true) (off : Nat) :
    s.bar0Writes off = true ↔ off ∈ [0x1028, 0x10A0, 0x10A8, 0x10B0] := by
  simp only [State.bar0Writes, hrdy, hrec, Bool.not_true, Bool.false_eq_true, if_false, Bool.false_or, List.contains_iff_mem]

/-- BOOT_REQ takes a write whatever the module's start has come to. -/
theorem bar0Writes_bootReq (s : State) : s.bar0Writes 0x1028 = true := by
  unfold State.bar0Writes
  split_ifs
  · rfl
  · simp

/-! ## Whole registers and halves of them -/

/-- A write of a whole register. -/
theorem bar0Write_word {s : State} {off : Nat} (data : Word) (hpow : s.boot.powered = true) (hoff : off < 0x400000) (halign : off % 8 = 0)
    (h : s.bar0Writes off = true) : s.bar0Write off 8 data = s.bar0Apply off (BitVec.allOnes 64) data := by
  have hword : off / 8 * 8 = off := by omega
  rw [State.bar0Write, if_neg (by simp [hpow, hoff]), if_neg (by omega), hword, if_neg (by simp [h])]
  rfl

/-- The bits of half `h` of a register. -/
def halfMask (h : Nat) : Word := BitVec.ofNat 64 ((2 ^ 32 - 1) * 2 ^ (32 * h))

/-- Four bytes of data at half `h` of a register. -/
def halfData (h : Nat) (data : Word) : Word := BitVec.ofNat 64 (data.toNat % 2 ^ 32 * 2 ^ (32 * h))

/-- A write of half of a register. -/
theorem bar0Write_half {s : State} {off h : Nat} (data : Word) (hpow : s.boot.powered = true) (hoff : off < 0x400000) (halign : off % 8 = 0)
    (hh : h < 2) (hw : s.bar0Writes off = true) : s.bar0Write (off + 4 * h) 4 data = s.bar0Apply off (halfMask h) (halfData h data) := by
  have hword : (off + 4 * h) / 8 * 8 = off := by omega
  have hhalf : (off + 4 * h) / 4 % 2 = h := by omega
  rw [State.bar0Write, if_neg (by simp [hpow]; omega), if_neg (by omega), hword, if_neg (by simp [hw]), if_neg (by decide), writeMask,
    if_neg (by decide), hhalf]
  rfl

/-! ## Registers that stand alone -/

/-- An offset outside the files of registers. -/
def StandsAlone (off : Nat) : Prop := off < 0x2000 ∨ (0x3020 ≤ off ∧ off < 0x101000)

theorem bar0Apply_control {s : State} {off : Nat} (h : StandsAlone off) (mask val : Word) :
    s.bar0Apply off mask val = s.controlWrite off mask ((s.bar0Word off &&& ~~~mask) ||| (val &&& mask)) (val &&& mask) := by
  unfold StandsAlone at h
  rw [State.bar0Apply, if_neg (by omega), if_neg (by omega), if_neg (by omega), if_neg (by omega), if_neg (by omega), if_neg (by omega),
    if_neg (by omega)]

theorem bar0Word_control {s : State} {off : Nat} (h : StandsAlone off) : s.bar0Word off = s.controlWord off := by
  unfold StandsAlone at h
  rw [State.bar0Word, if_neg (by omega), if_neg (by omega), if_neg (by omega), if_neg (by omega), if_neg (by omega), if_neg (by omega),
    if_neg (by omega), if_neg (by omega)]

/-- The value of a register of which all bits are written is the value written. -/
theorem merged_allOnes (old val : Word) : (old &&& ~~~BitVec.allOnes 64) ||| (val &&& BitVec.allOnes 64) = val := by
  rw [BitVec.not_allOnes, BitVec.and_zero, BitVec.zero_or, BitVec.and_allOnes]

/-- A whole register that stands alone, written. -/
theorem bar0Write_control {s : State} {off : Nat} (data : Word) (hpow : s.boot.powered = true) (hoff : StandsAlone off) (halign : off % 8 = 0)
    (h : s.bar0Writes off = true) : s.bar0Write off 8 data = s.controlWrite off (BitVec.allOnes 64) data data := by
  rw [bar0Write_word data hpow (by unfold StandsAlone at hoff; omega) halign h, bar0Apply_control hoff, merged_allOnes, BitVec.and_allOnes]

end Sys2Proof.Proofs
end

section
/-! What begins a start, and what it keeps (R46 to R49). -/

namespace Sys2Proof.Proofs

open Sys2Proof Sys2Proof.Machine Sys2Proof.Laws

/-! ## What of a state a start leaves -/

/-- Nothing of a running module is left: its work, its contexts and what they hold. -/
def NothingRuns (t : State) : Prop :=
  t.regs = [] ∧ t.threads = [] ∧ t.groups = [] ∧ t.helms = [] ∧ t.wgs = [] ∧ t.launches = [] ∧ t.cmds = [] ∧ t.queues = [] ∧
  t.ctxs = [] ∧ t.cores = [] ∧ t.ops = [] ∧ t.fills = [] ∧ t.near = [] ∧ t.units = []

/-- Memory of the listed spaces alone is left. -/
def KeepsSpaces (s t : State) (kept : List Nat) : Prop := t.mem = s.mem.filter (fun e => kept.contains (spaceOf e.1))

/-- The registers outside the start block that a start which is not warm leaves at their reset values. -/
def ColdRegisters (t : State) : Prop := t.host = HostRegs.reset ∧ t.sems = [] ∧ t.fabSelf = 0 ∧ t.fabInb = [] ∧ t.fabRoute = []

/-- What a start that is not warm has dropped, with the memory of some spaces kept. -/
structure Dropped (s t : State) (kept : List Nat) : Prop where
  empty : NothingRuns t
  keeps : KeepsSpaces s t kept
  cold : ColdRegisters t
  trust : t.trust = s.trust
  log : s.log ⊆ t.log

theorem nothingRuns_dropRecovery {t : State} (h : NothingRuns t) : NothingRuns t.dropRecovery := h

theorem keepsSpaces_of_iff {s t : State} {kept : Nat → Bool} {l : List Nat} (h : t.mem = s.mem.filter (fun e => kept (spaceOf e.1)))
    (hk : ∀ k, kept k = true ↔ k ∈ l) : KeepsSpaces s t l := by
  rw [KeepsSpaces, h]
  congr 1
  funext e
  exact Bool.eq_iff_iff.2 ((hk _).trans List.contains_iff_mem.symm)

theorem dropped_losePower (s : State) : Dropped s s.losePower [2] :=
  ⟨⟨rfl, rfl, rfl, rfl, rfl, rfl, rfl, rfl, rfl, rfl, rfl, rfl, rfl, rfl⟩,
    keepsSpaces_of_iff (kept := fun k => k == 2) rfl (by simp), ⟨rfl, rfl, rfl, rfl, rfl⟩, rfl, List.Subset.refl _⟩

theorem dropped_dropCold (s : State) : Dropped s s.dropCold [0, 1, 2] :=
  ⟨⟨rfl, rfl, rfl, rfl, rfl, rfl, rfl, rfl, rfl, rfl, rfl, rfl, rfl, rfl⟩,
    keepsSpaces_of_iff (kept := fun k => k == 2 || decide (k ≤ 1)) rfl (fun k => by simp; omega),
    ⟨rfl, rfl, rfl, rfl, rfl⟩, rfl, List.Subset.refl _⟩

theorem Dropped.recovery {s t : State} {kept : List Nat} (h : Dropped s t kept) (r : Bool) :
    Dropped s (if r then t.dropRecovery else t) kept := by
  obtain ⟨he, hk, ⟨hh, hs, hf⟩, ht, hl⟩ := h
  cases r
  · exact ⟨he, hk, ⟨hh, hs, hf⟩, ht, hl⟩
  · exact ⟨nothingRuns_dropRecovery he, hk, ⟨hh, rfl, hf⟩, ht, hl⟩

/-! ## The start block -/

/-- The start block after a trigger, once a start that it cuts short has been counted as failed (R49). -/
def countedBoot (s : State) : Boot := if s.boot.running then s.boot.countFail else s.boot

/-- The start block of a start that begins. -/
def begunBoot (s : State) (warm : Bool) : Boot :=
  { countedBoot s with
    powered := true, running := true, ready := false, warm := warm, recovery := decide (2 ≤ (countedBoot s).coldFails.toNat), stage := 1
    lostFrames := if warm then s.cutStart.liveFrames else [] }

/-- A start that is cut short shows in the start block and in the log alone. -/
theorem cutStart_frame (s : State) : s.cutStart = { s with boot := s.cutStart.boot, log := s.cutStart.log } := by
  unfold State.cutStart
  split_ifs <;> rfl

theorem boot_beginStart (s : State) (asked : Bool) (drop : State → State) :
    (s.beginStart asked drop).boot = begunBoot s (asked && decide ((countedBoot s).warmFails.toNat < 3)) := by
  cases hr : s.boot.running <;> simp [State.beginStart, begunBoot, countedBoot, State.cutStart, State.failStart, hr]

theorem coldFails_cutStart (s : State) : s.cutStart.boot.coldFails = (countedBoot s).coldFails := by
  cases hr : s.boot.running <;> simp [countedBoot, State.cutStart, State.failStart, hr]

theorem warmFails_cutStart (s : State) : s.cutStart.boot.warmFails = (countedBoot s).warmFails := by
  cases hr : s.boot.running <;> simp [countedBoot, State.cutStart, State.failStart, hr]

theorem Dropped.of_cutStart {s t : State} {kept : List Nat} (h : Dropped s.cutStart t kept) : Dropped s t kept := by
  have hf := cutStart_frame s
  have hlog : s.log ⊆ s.cutStart.log := by
    unfold State.cutStart
    split_ifs
    · exact List.subset_cons_self _ _
    · exact List.Subset.refl _
  obtain ⟨he, hk, hc, ht, hl⟩ := h
  exact ⟨he, by rw [hf] at hk; exact hk, hc, by rw [hf] at ht; exact ht, fun _ h => hl (hlog h)⟩

/-- A start that is not warm drops what its trigger says (R46, R49). -/
theorem beginStart_cold {s : State} {asked : Bool} {drop : State → State} {kept : List Nat} (hdrop : ∀ u, Dropped u (drop u) kept)
    (hw : (asked && decide ((countedBoot s).warmFails.toNat < 3)) = false) :
    Dropped s (s.beginStart asked drop) kept ∧ (s.beginStart asked drop).boot = begunBoot s false := by
  refine ⟨?_, by rw [boot_beginStart, hw]⟩
  have hd := ((hdrop s.cutStart).recovery (decide (2 ≤ s.cutStart.boot.coldFails.toNat))).of_cutStart
  simp only [State.beginStart, warmFails_cutStart, hw, Bool.false_eq_true, if_false]
  obtain ⟨he, hk, hc, ht, hl⟩ := hd
  exact ⟨he, hk, hc, ht, hl⟩

/-- What a warm start has kept: device memory, the lock and the lockable fields, and semaphores unless the recovery image starts. -/
structure Warmed (s t : State) (recovery : Bool) : Prop where
  empty : NothingRuns t
  keeps : KeepsSpaces s t [0, 1, 2, 9, 10]
  sems : t.sems = if recovery then [] else s.sems
  fabSelf : t.fabSelf = s.fabSelf
  host : t.host = { HostRegs.reset with lock := s.host.lock, emit := s.host.emit, hmwBase := s.host.hmwBase, hmwLimit := s.host.hmwLimit }
  trust : t.trust = s.trust

theorem warmed_dropWarm (s : State) : Warmed s s.dropWarm false :=
  ⟨⟨rfl, rfl, rfl, rfl, rfl, rfl, rfl, rfl, rfl, rfl, rfl, rfl, rfl, rfl⟩,
    keepsSpaces_of_iff (kept := fun k => k == 2 || decide (k ≤ 1) || k == 9 || k == 10) rfl (fun k => by simp; omega), rfl, rfl, rfl, rfl⟩

theorem Warmed.recovery {s t : State} (h : Warmed s t false) (r : Bool) : Warmed s (if r then t.dropRecovery else t) r := by
  cases r
  · exact h
  · obtain ⟨he, hk, -, hf, hh, ht⟩ := h
    exact ⟨nothingRuns_dropRecovery he, hk, rfl, hf, hh, ht⟩

theorem Warmed.of_cutStart {s t : State} {r : Bool} (h : Warmed s.cutStart t r) : Warmed s t r := by
  have hf := cutStart_frame s
  obtain ⟨he, hk, hs, hfs, hh, ht⟩ := h
  rw [hf] at hk hs hfs hh ht
  exact ⟨he, hk, hs, hfs, hh, ht⟩

/-- A warm start (R46, R48). -/
theorem beginStart_warm {s : State} {drop : State → State} (hw : (countedBoot s).warmFails.toNat < 3) :
    Warmed s (s.beginStart true drop) (decide (2 ≤ (countedBoot s).coldFails.toNat)) ∧ (s.beginStart true drop).boot = begunBoot s true := by
  refine ⟨?_, by rw [boot_beginStart, decide_eq_true hw]; rfl⟩
  have hd := ((warmed_dropWarm s.cutStart).recovery (decide (2 ≤ s.cutStart.boot.coldFails.toNat))).of_cutStart
  rw [coldFails_cutStart] at hd
  simp only [State.beginStart, warmFails_cutStart, coldFails_cutStart, decide_eq_true hw, Bool.and_true, if_true]
  obtain ⟨he, hk, hs, hfs, hh, ht⟩ := hd
  exact ⟨he, hk, hs, hfs, hh, ht⟩

/-! ## The triggers -/

theorem exec_powerOn {s : State} (h : s.boot.powered = false) : exec .powerOn s = .next (s.beginStart false State.losePower) :=
  if_neg (by rw [h]; decide)

theorem exec_fundamentalReset {s : State} (h : s.boot.powered = true) : exec .fundamentalReset s = .next (s.beginStart true State.dropCold) :=
  if_pos h

theorem exec_thermalTrip {s : State} (h : s.boot.powered = true) :
    exec .thermalTrip s = .next (({ s with log := .thermalTrip :: s.log } : State).beginStart false State.losePower) := if_pos h

theorem exec_powerLoss {s : State} (h : s.boot.powered = true) :
    exec .powerLoss s = .next { s.cutStart.losePower with
      boot := { s.cutStart.boot with powered := false, running := false, ready := false, recovery := false, stage := 0 } } := if_pos h

/-- A write of BOOT_REQ begins a start of the kind that it names, unless one is in progress (R46, R50). -/
theorem bar0Write_bootReq {s : State} (h : s.boot.powered = true) (v : Word) : s.bar0Write 0x1028 8 v = s.bootReq (v.toNat % 4) :=
  bar0Write_control v h (.inl (by decide)) (by decide) (bar0Writes_bootReq s)

theorem exec_bootReqWarm {s : State} (h : s.boot.powered = true) :
    exec .bootReqWarm s = .next (if s.boot.running then s else s.beginStart true State.dropCold) := by
  show Host.Outcome.next (s.bar0Write 0x1028 8 1) = _
  rw [bar0Write_bootReq h]
  rfl

theorem exec_bootReqCold {s : State} (h : s.boot.powered = true) :
    exec .bootReqCold s = .next (if s.boot.running then s else s.beginStart false State.dropCold) := by
  show Host.Outcome.next (s.bar0Write 0x1028 8 2) = _
  rw [bar0Write_bootReq h]
  rfl

/-! ## The statement -/

/-- What holds once a start that is not warm has begun. -/
def BegunCold (s t : State) (kept : List Nat) : Prop := Dropped s t kept ∧ t.boot = begunBoot s false

/-- What holds once a warm start has begun. -/
def BegunWarm (s t : State) : Prop := Warmed s t (decide (2 ≤ (countedBoot s).coldFails.toNat)) ∧ t.boot = begunBoot s true

/-- A note in the log before a start begins is still in the log. -/
theorem BegunCold.of_logged {s t : State} {kept : List Nat} {e : LogEntry} (h : BegunCold ({ s with log := e :: s.log } : State) t kept) :
    BegunCold s t kept ∧ e ∈ t.log := by
  obtain ⟨⟨he, hk, hc, ht, hl⟩, hb⟩ := h
  exact ⟨⟨⟨he, hk, hc, ht, fun _ h => hl (List.mem_cons_of_mem _ h)⟩, hb⟩, hl (List.mem_cons_self ..)⟩

theorem boot_powerLoss (s : State) :
    ({ s.cutStart.boot with powered := false, running := false, ready := false, recovery := false, stage := 0 } : Boot) =
      { countedBoot s with powered := false, running := false, ready := false, recovery := false, stage := 0 } := by
  cases hr : s.boot.running <;> simp [countedBoot, State.cutStart, State.failStart, hr]

/-- Settles O41: each trigger begins a start or takes power away, and `beginStart` drops what its kind does not keep. -/
theorem startTriggers : Obligations.StartTriggers := by
  intro s b warm recovery empty keeps begins cold warmed
  have hcold : ∀ {t kept}, BegunCold s t kept → cold t kept := by
    rintro t kept ⟨⟨he, hk, hc, ht, -⟩, hb⟩
    obtain ⟨h1, h2, h3, h4, h5, h6, h7, h8, h9, h10, h11, h12, h13, h14⟩ := he
    exact ⟨⟨hb, h1, h2, h3, h4, h5, h6, h7, h8, h9, h10, h11, h12, h13, h14, ht⟩, hk, hc⟩
  have hwarm : ∀ {t}, BegunWarm s t → warmed t := by
    rintro t ⟨⟨he, hk, hs, hf, hh, ht⟩, hb⟩
    obtain ⟨h1, h2, h3, h4, h5, h6, h7, h8, h9, h10, h11, h12, h13, h14⟩ := he
    exact ⟨⟨hb, h1, h2, h3, h4, h5, h6, h7, h8, h9, h10, h11, h12, h13, h14, ht⟩, hk, hs, hf, hh⟩
  have hasked : if warm = true then warmed (s.beginStart true State.dropCold) else cold (s.beginStart true State.dropCold) [0, 1, 2] := by
    by_cases hw : warm = true
    · rw [if_pos hw]
      exact hwarm (beginStart_warm (of_decide_eq_true hw))
    · rw [if_neg hw]
      exact hcold (beginStart_cold dropped_dropCold (Bool.eq_false_of_not_eq_true hw))
  refine ⟨fun hp => ⟨_, exec_powerOn hp, hcold (beginStart_cold dropped_losePower rfl)⟩, fun hp =>
    ⟨⟨_, exec_fundamentalReset hp, hasked⟩, ⟨_, exec_thermalTrip hp, ?_⟩, ⟨_, exec_powerLoss hp, ?_⟩, fun hr => ⟨⟨_, exec_bootReqWarm hp, ?_⟩,
      ⟨_, exec_bootReqCold hp, ?_⟩⟩, fun hr => ⟨⟨_, exec_bootReqWarm hp, if_pos hr⟩, ⟨_, exec_bootReqCold hp, if_pos hr⟩⟩⟩⟩
  · obtain ⟨hc, hl⟩ := BegunCold.of_logged (beginStart_cold (s := { s with log := .thermalTrip :: s.log }) (asked := false) dropped_losePower rfl)
    exact ⟨hcold hc, hl⟩
  · obtain ⟨⟨h1, h2, h3, h4, h5, h6, h7, h8, h9, h10, h11, h12, h13, h14⟩, hk, -, ht, -⟩ := (dropped_losePower s.cutStart).of_cutStart
    exact ⟨⟨h1, h2, h3, h4, h5, h6, h7, h8, h9, h10, h11, h12, h13, h14, ht⟩, hk, boot_powerLoss s⟩
  · rw [if_neg (by simp [hr])]
    exact hasked
  · rw [if_neg (by simp [hr])]
    exact hcold (beginStart_cold dropped_dropCold rfl)

end Sys2Proof.Proofs
end

section
/-! The steps of a start, its failures and its answer to a configuration request (R33, R46 to R49, R52). -/

namespace Sys2Proof.Proofs

open Sys2Proof Sys2Proof.Machine Sys2Proof.Laws

/-! ## Memory cleared -/

/-- Memory of which only the bytes at some addresses are left. -/
theorem memGet_filter (m : List Host.Cell) (p : Nat → Bool) (a : Nat) :
    memGet (m.filter (fun e => p e.1)) a = if p a then memGet m a else 0 := by
  induction m with
  | nil => exact (ite_self _).symm
  | cons e t ih =>
    obtain ⟨b, v⟩ := e
    by_cases hb : b = a
    · subst hb
      cases hp : p b
      · simpa [hp] using ih
      · simp [hp, memGet]
    · cases hp : p b <;> simpa [hp, memGet, hb] using ih

theorem byteAt_clearRange (s : State) (a n b : Nat) :
    (s.clearRange a n).byteAt b = if a ≤ b ∧ b < a + n then 0 else s.byteAt b := by
  have h := memGet_filter s.mem (fun c => decide (c < a) || decide (a + n ≤ c)) b
  show memGet (s.mem.filter _) b = _
  rw [h]
  by_cases hb : a ≤ b ∧ b < a + n
  · rw [if_pos hb, if_neg (by simp; omega)]
  · rw [if_neg hb, if_pos (by simp; omega)]
    rfl

/-- A frame as step 3 clears it, in memory and as the users of a VBD page see it (R47, R48). -/
def clearFrame (s : State) (f : Nat) : State := (s.clearRange f 4096).clearRange (spaceBase 9 + f) 4096

/-- A byte of a frame, or of the VBD page that it may hold. -/
def InFrame (f b : Nat) : Prop := (f ≤ b ∧ b < f + 4096) ∨ (spaceBase 9 + f ≤ b ∧ b < spaceBase 9 + f + 4096)

theorem byteAt_clearFrame_inside (s : State) {f b : Nat} (h : InFrame f b) : (clearFrame s f).byteAt b = 0 := by
  unfold InFrame at h
  rw [clearFrame, byteAt_clearRange, byteAt_clearRange]
  split_ifs with h1 h2
  · rfl
  · rfl
  · exact absurd h (by omega)

theorem byteAt_clearFrame_outside (s : State) {f b : Nat} (h : ¬InFrame f b) : (clearFrame s f).byteAt b = s.byteAt b := by
  unfold InFrame at h
  rw [clearFrame, byteAt_clearRange, byteAt_clearRange, if_neg (by omega), if_neg (by omega)]

theorem byteAt_clearFrames_outside (fs : List Nat) (s : State) {b : Nat} (h : ∀ f ∈ fs, ¬InFrame f b) :
    (fs.foldl clearFrame s).byteAt b = s.byteAt b := by
  induction fs generalizing s with
  | nil => rfl
  | cons f fs ih =>
    rw [List.foldl_cons, ih _ (fun g hg => h g (List.mem_cons_of_mem _ hg)), byteAt_clearFrame_outside s (h f (List.mem_cons_self ..))]

/-- What is clear stays clear, and a byte of some frame is cleared. -/
theorem byteAt_clearFrames_inside (fs : List Nat) (s : State) {b : Nat} (h : s.byteAt b = 0 ∨ ∃ f ∈ fs, InFrame f b) :
    (fs.foldl clearFrame s).byteAt b = 0 := by
  induction fs generalizing s with
  | nil => exact h.resolve_right (by simp)
  | cons f fs ih =>
    refine ih _ ?_
    by_cases hf : InFrame f b
    · exact .inl (byteAt_clearFrame_inside s hf)
    · rw [byteAt_clearFrame_outside s hf]
      refine h.imp_right ?_
      rintro ⟨g, hg, hb⟩
      obtain rfl | hg := List.mem_cons.1 hg
      · exact absurd hb hf
      · exact ⟨g, hg, hb⟩

/-! ## The fabric's ports alone -/

/-- `t` differs from `s` in its ports and in the route changes that wait alone. -/
def FabricOnly (s t : State) : Prop := t = { s with ports := t.ports, routePending := t.routePending }

theorem FabricOnly.refl (s : State) : FabricOnly s s := rfl

theorem FabricOnly.trans {s t u : State} (h : FabricOnly s t) (k : FabricOnly t u) : FabricOnly s u := by
  unfold FabricOnly at h k
  rw [h] at k
  exact k

theorem FabricOnly.ite {s t u : State} {c : Prop} [Decidable c] (h : FabricOnly s t) (k : FabricOnly s u) : FabricOnly s (if c then t else u) := by
  split_ifs
  · exact h
  · exact k

theorem FabricOnly.foldl {op : State → Nat → State} (k : ∀ u p, FabricOnly u (op u p)) (l : List Nat) (s : State) : FabricOnly s (l.foldl op s) := by
  induction l generalizing s with
  | nil => exact .refl s
  | cons p l ih => exact (k s p).trans (ih _)

theorem fabricOnly_setPort (s : State) (p : Nat) (x : Port) : FabricOnly s (s.setPort p x) := rfl

theorem fabricOnly_holdTargets (s : State) (p : Nat) : FabricOnly s (s.holdTargets p) := rfl

theorem fabricOnly_trainPort (s : State) (p : Nat) : FabricOnly s (s.trainPort p) := .ite (fabricOnly_setPort s p _) (.refl s)

theorem fabricOnly_raisePort (s : State) (p : Nat) : FabricOnly s (s.raisePort p) :=
  .ite ((fabricOnly_holdTargets s p).trans (fabricOnly_setPort _ p _)) (.refl s)

theorem fabricOnly_drainPort (s : State) (p : Nat) : FabricOnly s (s.drainPort p) :=
  .ite ((fabricOnly_holdTargets s p).trans (fabricOnly_setPort _ p _)) (fabricOnly_setPort s p _)

theorem fabricOnly_trainAtStart (s : State) (p : Nat) : FabricOnly s (s.trainAtStart p) :=
  .ite ((fabricOnly_setPort s p _).trans (fabricOnly_trainPort _ p)) (fabricOnly_trainPort s p)

/-! ## The steps (R47) -/

theorem enterStage_eq (s : State) {n : Nat} (h : n ≠ 4) : s.enterStage n = { s with boot := { s.boot with stage := BitVec.ofNat 8 n } } :=
  if_neg h

/-- Step 4 entered: ports train, and nothing else changes. -/
theorem fabricOnly_enterStage4 (s : State) : FabricOnly { s with boot := { s.boot with stage := 4 } } (s.enterStage 4) :=
  FabricOnly.foldl fabricOnly_trainAtStart _ _

theorem imageOk_iff (s : State) (img : List Byte) : s.imageOk img = true ↔
    Config.sha256 (Config.imageKey img) = (List.range 32).map Config.vendorKeyHash ∧ Config.imageSignatureOk img = true ∧
      s.trust.secVersion.toNat ≤ (Config.imageVersion img).toNat := by
  simp only [State.imageOk, Bool.and_eq_true, beq_iff_eq, decide_eq_true_eq, and_assoc]

/-- How a failed start ends (R49). -/
def FailedStart (s t : State) : Prop :=
  t.boot = { s.boot.countFail with running := false, ready := false } ∧ LogEntry.startFailed s.boot.stage ∈ t.log ∧ t.mem = s.mem

theorem failedStart_failStart (s : State) : FailedStart s s.failStart := ⟨rfl, List.mem_cons_self .., rfl⟩

/-- How a start of the recovery image ends that finds no valid image (R49). -/
def NoImage (s t : State) : Prop :=
  s.boot.recovery = true ∧ t.boot = { s.boot with running := false, ready := false, stage := 0xFF } ∧ t.mem = s.mem

theorem noImage_noImage {s : State} (h : s.boot.recovery = true) : NoImage s s.noImage := by
  have hc : s.boot.countFail = s.boot := by rw [Boot.countFail, if_pos h]
  refine ⟨h, ?_, rfl⟩
  show ({ s.boot.countFail with running := false, ready := false, stage := 0xFF } : Boot) = _
  rw [hc]

section
variable {s : State} (hrun : s.boot.running = true)
include hrun

theorem exec_startStepDone : exec (.startStepComplete true) s = .next s.stepDone := if_neg (by simp [hrun])

theorem exec_startStepFailed : exec (.startStepComplete false) s = .next (if s.boot.stage = 1 ∧ s.boot.recovery = true then s.noImage else s.failStart) := by
  show (if !s.boot.running then .next s else if false then .next s.stepDone else if s.boot.stage = 1 && s.boot.recovery then .next s.noImage
    else .next s.failStart : Out) = _
  simp only [hrun, Bool.not_true, Bool.false_eq_true, if_false, Bool.and_eq_true, decide_eq_true_eq]
  split_ifs <;> rfl

theorem exec_startTimeout : exec .startTimeout s = .next s.failStart := if_pos hrun

theorem startStepFailed_completes :
    Completes (.startStepComplete false) s (fun t => if s.boot.stage = 1 ∧ s.boot.recovery = true then NoImage s t else FailedStart s t) := by
  refine ⟨_, exec_startStepFailed hrun, ?_⟩
  split_ifs with h
  · exact noImage_noImage h.2
  · exact failedStart_failStart s

/-- The end of a step is what `stepDone` makes of it. -/
theorem completes_of_stepDone {P : State → Prop} {t : State} (ht : s.stepDone = t) (h : P t) : Completes (.startStepComplete true) s P :=
  ⟨_, exec_startStepDone hrun, ht ▸ h⟩

end

/-- Step 1 (R49, R52). -/
theorem stepDone_verify {s : State} (h : s.boot.stage = 1) : s.stepDone =
    if s.imageOk s.startImage then { s.acceptImage s.startImage with boot := { s.boot with stage := 2 } }
    else if s.boot.recovery then s.noImage else s.failStart := by
  simp only [State.stepDone, h]
  rfl

/-- Step 2 (R20, R47, R49). -/
theorem stepDone_train {s : State} (h : s.boot.stage = 2) : s.stepDone =
    { s with trust := { s.trust with trained := true }, boot := { s.boot with stage := if s.boot.recovery then 6 else 3 } } := by
  simp only [State.stepDone, h]
  split_ifs <;> rfl

/-- Step 3 (R47, R48). -/
theorem stepDone_clear {s : State} (h : s.boot.stage = 3) : s.stepDone = s.clearStep.enterStage 4 := by
  simp only [State.stepDone, h]
  rfl

theorem stepDone_links {s : State} (h : s.boot.stage = 4) : s.stepDone = { s with boot := { s.boot with stage := 5 } } := by
  simp only [State.stepDone, h]
  rfl

theorem stepDone_stores {s : State} (h : s.boot.stage = 5) : s.stepDone =
    { s with boot := { s.boot with stage := 6 }, progStore := [], trust := { s.trust with m1 := Config.sha256 Config.microcode } } := by
  simp only [State.stepDone, h]
  rfl

theorem stepDone_last {s : State} (h : s.boot.stage = 6) : s.stepDone = s.startDone := by
  simp only [State.stepDone, h]
  rfl

/-! ## Step 3 -/

/-- What follows step 3: ports train, and the rest is as the step left it. -/
theorem enterStage4_fields (s : State) :
    (s.enterStage 4).boot = { s.boot with stage := 4 } ∧ (s.enterStage 4).endedFrames = s.endedFrames ∧ (s.enterStage 4).mem = s.mem := by
  rw [fabricOnly_enterStage4 s]
  exact ⟨rfl, rfl, rfl⟩

theorem clearStep_cold {s : State} (h : s.boot.warm = false) (a : Nat) :
    s.clearStep.byteAt a = if spaceOf a = 2 then s.byteAt a else 0 := by
  have hm := memGet_filter s.mem (fun b => spaceOf b == 2) a
  simp only [beq_iff_eq] at hm
  rw [← State.byteAt] at hm
  rw [State.clearStep, if_neg (by simp [h])]
  exact hm

theorem boot_clearFrames (fs : List Nat) (s : State) : (fs.foldl clearFrame s).boot = s.boot := by
  induction fs generalizing s with
  | nil => rfl
  | cons f fs ih => exact ih _

theorem boot_clearStep (s : State) : s.clearStep.boot = s.boot := by
  unfold State.clearStep
  split_ifs
  · exact boot_clearFrames s.endedFrames s
  · rfl

theorem clearStep_warm {s : State} (h : s.boot.warm = true) :
    s.clearStep.endedFrames = [] ∧ ∀ a, s.clearStep.byteAt a = (s.endedFrames.foldl clearFrame s).byteAt a := by
  rw [State.clearStep, if_pos h]
  exact ⟨rfl, fun _ => rfl⟩

/-- Settles O42: each step by what `stepDone` makes of it, step 3 by what is cleared, failures by `failStart` and `noImage`. -/
theorem startSteps : Obligations.StartSteps := by
  intro s img accepted fails noImage done
  have hok : s.imageOk s.startImage = true ↔ accepted := imageOk_iff s _
  refine ⟨fun hrun => ⟨fun h1 ha => ?_, fun h1 ha => ?_, fun h2 => ?_, fun h3 hw => ?_, fun h3 hw => ?_, fun h4 => ?_, fun h5 => ?_, fun h6 => ?_,
    startStepFailed_completes hrun, ⟨_, exec_startTimeout hrun, failedStart_failStart s⟩⟩, fun hp => ⟨_, if_pos hp, rfl⟩⟩
  · exact completes_of_stepDone hrun ((stepDone_verify h1).trans (if_pos (hok.2 ha))) ⟨rfl, rfl⟩
  · refine completes_of_stepDone hrun ((stepDone_verify h1).trans (if_neg (fun h => ha (hok.1 h)))) ?_
    by_cases hr : s.boot.recovery = true
    · simp only [if_pos hr]
      exact noImage_noImage hr
    · simp only [if_neg hr]
      exact failedStart_failStart s
  · exact completes_of_stepDone hrun (stepDone_train h2) ⟨rfl, rfl⟩
  · obtain ⟨hb, -, hm⟩ := enterStage4_fields s.clearStep
    have hbyte : ∀ a, (s.clearStep.enterStage 4).byteAt a = s.clearStep.byteAt a := fun a => by rw [State.byteAt, hm]; rfl
    refine completes_of_stepDone hrun (stepDone_clear h3) ⟨by rw [hb, boot_clearStep], fun a ha => ?_, fun a ha => ?_⟩
    · rw [hbyte, clearStep_cold hw, if_neg ha]
    · rw [hbyte, clearStep_cold hw, if_pos ha]
  · obtain ⟨hb, he, hm⟩ := enterStage4_fields s.clearStep
    obtain ⟨hend, hclear⟩ := clearStep_warm hw
    have hbyte : ∀ a, (s.clearStep.enterStage 4).byteAt a = (s.endedFrames.foldl clearFrame s).byteAt a := fun a => by
      rw [← hclear, State.byteAt, hm]
      rfl
    refine completes_of_stepDone hrun (stepDone_clear h3) ⟨by rw [hb, boot_clearStep], he.trans hend, fun f hf i hi => ?_, fun a ha => ?_⟩
    · rw [hbyte]
      exact byteAt_clearFrames_inside _ _ (.inr ⟨f, hf, .inl (by omega)⟩)
    · rw [hbyte]
      refine byteAt_clearFrames_outside _ _ (fun f hf hin => ?_)
      rcases hin with h | h
      · exact (ha f hf (a - f) (by omega)).1 (by omega)
      · exact (ha f hf (a - (spaceBase 9 + f)) (by omega)).2 (by omega)
  · exact completes_of_stepDone hrun (stepDone_links h4) rfl
  · exact completes_of_stepDone hrun (stepDone_stores h5) rfl
  · exact completes_of_stepDone hrun (stepDone_last h6) rfl

end Sys2Proof.Proofs
end

section
/-! Reads at the home slices and writes of the host, in memory, poison and history (R36, R51, R176, R179, R286 to R289). -/

namespace Sys2Proof.Proofs

open Sys2Proof Sys2Proof.Machine Sys2Proof.Laws

/-! ## What the error checks of a read change (R286, R289) -/

/-- `t` is `s` after error checks: logs and injections may differ, and words may be poisoned that were not. -/
structure Checked (s t : State) : Prop where
  frame : t = { s with poison := t.poison, errLogs := t.errLogs, errInjs := t.errInjs, freeCount := t.freeCount }
  grows : s.poison ⊆ t.poison

theorem Checked.refl (s : State) : Checked s s := ⟨rfl, List.Subset.refl _⟩

theorem Checked.trans {s t u : State} (h : Checked s t) (k : Checked t u) : Checked s u := by
  obtain ⟨hf, hg⟩ := h
  obtain ⟨kf, kg⟩ := k
  refine ⟨?_, List.Subset.trans hg kg⟩
  rw [hf] at kf
  exact kf

theorem Checked.ite {s t u : State} {c : Prop} [Decidable c] (h : Checked s t) (k : Checked s u) : Checked s (if c then t else u) := by
  split_ifs
  · exact h
  · exact k

theorem Checked.mem {s t : State} (h : Checked s t) : t.mem = s.mem := by rw [h.frame]

theorem Checked.isPoisoned {s t : State} (h : Checked s t) {a : Nat} (hp : s.isPoisoned a = true) : t.isPoisoned a = true := by
  rw [State.isPoisoned, List.contains_iff_mem] at *
  exact h.grows hp

theorem checked_addPoison (s : State) (a n : Nat) : Checked s (s.addPoison a n) := ⟨rfl, List.subset_append_right _ _⟩

theorem checked_eccRead (s : State) (array entry : Nat) (addr : Word) (ctx : Nat) : Checked s (s.eccRead array entry addr ctx).2 := by
  unfold State.eccRead
  split
  · exact .refl s
  · split_ifs <;> exact ⟨rfl, List.Subset.refl _⟩

theorem checked_eccWord (s : State) (a ctx : Nat) : Checked s (s.eccWord a ctx).2 := by
  have hslice : ∀ u : State, Checked u (u.eccSlice a ctx).2 := fun u => by
    unfold State.eccSlice
    split_ifs
    · exact checked_eccRead u _ _ _ _
    · exact .refl u
  have hstored : ∀ u : State, Checked u (u.eccStored a ctx).2 := fun u => by
    unfold State.eccStored
    split
    · exact .refl u
    · exact checked_eccRead u _ _ _ _
  exact (hslice s).trans (hstored _)

/-- One word of a read at its home slice. -/
def checkWord (a : Nat) (acc : Bool × State) (p : Nat × Nat) : Bool × State :=
  let e := acc.2.eccWord (a + p.1) 0
  (acc.1 || e.1, if e.1 then e.2.addPoison (a + p.1) 1 else e.2)

theorem checked_checkWord (a : Nat) (acc : Bool × State) (p : Nat × Nat) : Checked acc.2 (checkWord a acc p).2 :=
  .ite ((checked_eccWord acc.2 _ 0).trans (checked_addPoison _ _ _)) (checked_eccWord acc.2 _ 0)

theorem checked_checkWords (a : Nat) (ps : List (Nat × Nat)) (acc : Bool × State) : Checked acc.2 (ps.foldl (checkWord a) acc).2 := by
  induction ps generalizing acc with
  | nil => exact .refl acc.2
  | cons p ps ih => exact (checked_checkWord a acc p).trans (ih _)

theorem checked_readOutside (s : State) (a n : Nat) : Checked s (s.readOutside a n).2.2 := checked_checkWords a (pieces a n) (false, s)

theorem bytes_readOutside (s : State) (a n : Nat) : (s.readOutside a n).1 = s.bytesAt a n := rfl

/-- A read of poison tells it, whatever errors are to come. -/
theorem readOutside_told (s : State) (a n : Nat) (h : (s.firstPoison a n).isSome = true) : (s.readOutside a n).2.1 = true := by
  obtain ⟨i, hi, hp⟩ := (firstPoison_isSome_iff s a n).1 h
  refine Bool.or_eq_true_iff.2 (.inr ((firstPoison_isSome_iff _ a n).2 ⟨i, hi, ?_⟩))
  exact (checked_readOutside s a n).isPoisoned hp

/-! ## What a write changes (R176, R288) -/

/-- `t` differs from `s` in memory, its poison and its history alone. -/
def WritesOnly (s t : State) : Prop := t = { s with mem := t.mem, hist := t.hist, writeSeq := t.writeSeq, poison := t.poison }

theorem WritesOnly.refl (s : State) : WritesOnly s s := rfl

theorem WritesOnly.trans {s t u : State} (h : WritesOnly s t) (k : WritesOnly t u) : WritesOnly s u := by
  unfold WritesOnly at h k
  rw [h] at k
  exact k

theorem writesOnly_writeFuel (s : State) (who : Party) (a : Nat) (bs : List Byte) (n : Nat) : WritesOnly s (s.writeFuel who a bs n) := by
  induction n generalizing s a bs with
  | zero => exact .refl s
  | succ n ih =>
    cases bs with
    | nil => exact .refl s
    | cons b t => exact WritesOnly.trans (t := s.writeWhole who a _) rfl (ih _ _ _)

theorem writesOnly_write (s : State) (who : Party) (a : Nat) (bs : List Byte) : WritesOnly s (s.write who a bs) := writesOnly_writeFuel s who a bs _

theorem writesOnly_pub (s : State) (x : Scope) (p : Place) : WritesOnly s (s.pub x p) := rfl

theorem writesOnly_writePublished (s : State) (who : Party) (a : Nat) (bs : List Byte) : WritesOnly s (s.writePublished who a bs) :=
  (writesOnly_write s who a bs).trans (writesOnly_pub _ _ _)

theorem mem_writePublished (s : State) (who : Party) (a : Nat) (bs : List Byte) : (s.writePublished who a bs).mem = memSetMany s.mem a bs :=
  mem_write s who a bs

/-- Whether the 8-byte word `w` lies in the bytes from `x` to before `y`. -/
def Covers (x y w : Nat) : Prop := x ≤ 8 * w ∧ 8 * w + 8 ≤ y

/-- Whether the bytes from `x` to before `y` meet the word `w` and do not hold it whole. -/
def Meets (x y w : Nat) : Prop := x < y ∧ x < 8 * w + 8 ∧ 8 * w < y ∧ ¬Covers x y w

theorem headLen_bounds {a n : Nat} (h : 0 < n) : 0 < headLen a n ∧ headLen a n ≤ n ∧ (headLen a n = n ∨ (a + headLen a n) % 8 = 0) ∧
    a / 8 = (a + headLen a n - 1) / 8 := by
  unfold headLen
  omega

theorem not_covers_empty (a w : Nat) : ¬Covers a (a + 0) w := by
  unfold Covers
  omega

theorem not_meets_empty (a w : Nat) : ¬Meets a (a + 0) w := fun h => Nat.lt_irrefl a h.1

/-- A run of bytes holds a word where its first piece or the rest holds it. -/
theorem covers_head {a n w : Nat} (h : 0 < n) : Covers a (a + n) w ↔ Covers a (a + headLen a n) w ∨ Covers (a + headLen a n) (a + n) w := by
  have hb := headLen_bounds (a := a) h
  unfold Covers
  omega

/-- A run of bytes meets a word in part where its first piece is less than that word, or the rest meets it in part. -/
theorem meets_head {a n w : Nat} (h : 0 < n) :
    Meets a (a + n) w ↔ (headLen a n ≠ 8 ∧ w = a / 8) ∨ Meets (a + headLen a n) (a + n) w := by
  have hb := headLen_bounds (a := a) h
  have h8 : headLen a n ≤ 8 - a % 8 := Nat.min_le_right _ _
  unfold Meets Covers
  omega

theorem mem_poison_writeWhole (s : State) (who : Party) (a : Nat) (bs : List Byte) (w : Nat) :
    w ∈ (s.writeWhole who a bs).poison ↔ w ∈ s.poison ∧ ¬Covers a (a + bs.length) w := by
  show w ∈ poisonAfterStore _ _ _ ↔ _
  simp only [poisonAfterStore, List.mem_filter, Covers, Bool.not_eq_true', Bool.and_eq_false_iff, decide_eq_false_iff_not]
  exact and_congr_right fun _ => by omega

/-- A write clears the poison of the words that it covers whole. -/
theorem mem_poison_writeFuel (s : State) (who : Party) (a : Nat) (bs : List Byte) (n w : Nat) (h : bs.length ≤ n) :
    w ∈ (s.writeFuel who a bs n).poison ↔ w ∈ s.poison ∧ ¬Covers a (a + bs.length) w := by
  induction n generalizing s a bs with
  | zero =>
    obtain rfl := List.eq_nil_of_length_eq_zero (Nat.le_zero.1 h)
    exact (and_iff_left (not_covers_empty a w)).symm
  | succ n ih =>
    cases bs with
    | nil => exact (and_iff_left (not_covers_empty a w)).symm
    | cons b t =>
      set bs := b :: t
      have hpos : 0 < bs.length := by simp [bs]
      obtain ⟨h0, hle, -⟩ := headLen_bounds (a := a) hpos
      have htake : (bs.take (headLen a bs.length)).length = headLen a bs.length := by rw [List.length_take]; omega
      have hdrop : a + headLen a bs.length + (bs.drop (headLen a bs.length)).length = a + bs.length := by rw [List.length_drop]; omega
      show w ∈ ((s.writeWhole who a _).writeFuel who (a + headLen a bs.length) (bs.drop (headLen a bs.length)) n).poison ↔ _
      rw [ih _ _ _ (by rw [List.length_drop]; omega), mem_poison_writeWhole, htake, hdrop, covers_head hpos, and_assoc,
        ← not_or]

theorem mem_poison_write (s : State) (who : Party) (a : Nat) (bs : List Byte) (w : Nat) :
    w ∈ (s.write who a bs).poison ↔ w ∈ s.poison ∧ ¬Covers a (a + bs.length) w := mem_poison_writeFuel s who a bs _ w (Nat.le_refl _)

theorem mem_poison_addPoison (s : State) (a n w : Nat) : w ∈ (s.addPoison a n).poison ↔ w ∈ s.poison ∨ (a / 8 ≤ w ∧ w < (a + n + 7) / 8) := by
  show w ∈ List.filter _ (upFrom _ _) ++ s.poison ↔ _
  rw [List.mem_append, List.mem_filter, mem_upFrom]
  by_cases hw : w ∈ s.poison
  · simp [hw]
  · simp [hw]
    omega

/-- The poison that one piece of a write leaves under the recovery image (R51). -/
def spoilPiece (a : Nat) (t : State) (p : Nat × Nat) : State := if p.2 = 8 then t else t.addPoison (a + p.1) p.2

/-- Under the recovery image the words that a write meets in part are poisoned. -/
theorem mem_poison_spoil (a : Nat) (fuel n o : Nat) (s : State) (w : Nat) (h : n ≤ fuel) :
    w ∈ ((piecesFuel (a + o) n o fuel).foldl (spoilPiece a) s).poison ↔ w ∈ s.poison ∨ Meets (a + o) (a + o + n) w := by
  induction fuel generalizing n o s with
  | zero =>
    obtain rfl := Nat.le_zero.1 h
    exact (or_iff_left (not_meets_empty _ w)).symm
  | succ fuel ih =>
    rw [piecesFuel]
    split_ifs with h0
    · rw [h0]
      exact (or_iff_left (not_meets_empty _ w)).symm
    · have hpos : 0 < n := Nat.pos_of_ne_zero h0
      obtain ⟨hh, hle, -, hword⟩ := headLen_bounds (a := a + o) hpos
      have hroom : headLen (a + o) n ≤ 8 - (a + o) % 8 := Nat.min_le_right _ _
      have hpiece : w ∈ (spoilPiece a s (o, headLen (a + o) n)).poison ↔ w ∈ s.poison ∨ (headLen (a + o) n ≠ 8 ∧ w = (a + o) / 8) := by
        unfold spoilPiece
        split_ifs with h8
        · exact (or_iff_left fun hw => hw.1 h8).symm
        · rw [mem_poison_addPoison]
          simp only at h8 ⊢
          exact or_congr_right (by omega)
      rw [List.foldl_cons, Nat.add_assoc, ih _ _ _ (by omega), hpiece, ← Nat.add_assoc, meets_head hpos, or_assoc,
        show a + o + headLen (a + o) n + (n - headLen (a + o) n) = a + o + n by omega]

/-! ## Published writes (R179) -/

theorem pubs_of_pub (s : State) (x : Scope) (p : Place) : ∀ e ∈ (s.pub x p).hist, e.owners.contains p.who = true → (x, p) ∈ e.pubs := by
  intro e he ho
  obtain ⟨d, -, rfl⟩ := List.mem_map.1 he
  split_ifs at ho ⊢ with h
  · exact List.mem_cons_self ..
  · simp only [ho, Bool.true_and, Bool.not_eq_true', Bool.not_eq_false] at h
    exact List.contains_iff_mem.1 h

end Sys2Proof.Proofs
end

section
/-! Reads, writes and atomic adds of the host through BAR 2 (R36, R51, R60). -/

namespace Sys2Proof.Proofs

open Sys2Proof Sys2Proof.Machine Sys2Proof.Laws

/-! ## The three accesses of a module whose start is over -/

/-- The flat address of an offset into BAR 2. -/
def bar2At (s : State) (off : Nat) : Nat := s.bar2Org + off

/-- What a read at BAR 2 of `n` bytes leaves that answers the bytes `bs`. -/
def bar2Read (s : State) (a n : Nat) (bs : List Byte) : State :=
  { (s.readOutside a n).2.2 with hostReads := (s.readOutside a n).2.2.hostReads ++ [(bs, (s.readOutside a n).2.1)] }

/-- The bytes of HBM4E that a read answers, then ones (R36). -/
def bar2Bytes (s : State) (a len n : Nat) : List Byte := s.bytesAt a n ++ List.replicate (len - n) 0xFF

theorem exec_bar2HostRead (s : State) (off len : Nat) (h : s.boot.ready = true) :
    exec (.bar2HostRead off len) s =
      .next (bar2Read s (bar2At s off) (s.bar2Inside off len) (bar2Bytes s (bar2At s off) len (s.bar2Inside off len))) := by
  show execBar2HostRead off len s = _
  rw [execBar2HostRead, State.bar2Open, h, hbmAt_eq]
  rfl

theorem exec_bar2HostWrite (s : State) (off : Nat) (bytes : List Byte) (h : s.boot.ready = true) :
    exec (.bar2HostWrite off bytes) s = .next ((s.writePublished .host (bar2At s off) (bytes.take (s.bar2Inside off bytes.length))).spoilPartial
      (bar2At s off) (bytes.take (s.bar2Inside off bytes.length)).length) := by
  show execBar2HostWrite off bytes s = _
  rw [execBar2HostWrite, State.bar2Open, h, hbmAt_eq]
  rfl

/-- What an atomic add through BAR 2 leaves. -/
def bar2Add (s : State) (a : Nat) (value : Word) : State :=
  if (s.readOutside a 8).2.1 then bar2Read s a 8 (s.bytesAt a 8)
  else ((bar2Read s a 8 (s.bytesAt a 8)).performFlat .host a (.atomic 0 1 false value 0)).pub .sys hostPlace

theorem exec_hostFetchadd (s : State) (off : Nat) (value : Word) (h : s.boot.ready = true) (hoff : off % 8 = 0)
    (hin : s.bar2Inside off 8 = 8) : exec (.hostFetchadd off value) s = .next (bar2Add s (bar2At s off) value) := by
  have hopen : (!s.bar2Open || off % 8 != 0 || s.bar2Inside off 8 != 8) = false := by simp [State.bar2Open, h, hoff, hin]
  show execHostFetchadd off value s = _
  rw [execHostFetchadd, if_neg (by rw [hopen]; decide), hbmAt_eq, bar2Add, apply_ite Host.Outcome.next]
  rfl

/-- An atomic add that is not aligned changes nothing (log entry 5). -/
theorem exec_hostFetchadd_misaligned (s : State) (off : Nat) (value : Word) (hoff : off % 8 ≠ 0) :
    exec (.hostFetchadd off value) s = .next s :=
  if_pos (by rw [(bne_iff_ne).2 hoff]; simp)

/-! ## What a read answers -/

theorem frame_bar2Read (s : State) (a n : Nat) (bs : List Byte) :
    bar2Read s a n bs = { s with
      poison := (bar2Read s a n bs).poison, errLogs := (bar2Read s a n bs).errLogs, errInjs := (bar2Read s a n bs).errInjs
      freeCount := (bar2Read s a n bs).freeCount, hostReads := (bar2Read s a n bs).hostReads } := by
  have h := (checked_readOutside s a n).frame
  unfold bar2Read
  rw [h]

theorem hostReads_bar2Read (s : State) (a n : Nat) (bs : List Byte) :
    (bar2Read s a n bs).hostReads = s.hostReads ++ [(bs, (s.readOutside a n).2.1)] := by
  have h := (checked_readOutside s a n).frame
  unfold bar2Read
  rw [h]

theorem mem_bar2Read (s : State) (a n : Nat) (bs : List Byte) : (bar2Read s a n bs).mem = s.mem := (checked_readOutside s a n).mem

theorem bar2Read_quiet {s : State} (h : s.errInjs = []) (a n : Nat) (bs : List Byte) :
    bar2Read s a n bs = { s with hostReads := (bar2Read s a n bs).hostReads } := by
  unfold bar2Read
  rw [readOutside_quiet h]

theorem told_quiet {s : State} (h : s.errInjs = []) (a n : Nat) : (s.readOutside a n).2.1 = (s.firstPoison a n).isSome := by
  rw [readOutside_quiet h]

theorem byteAt_of_mem_eq {s t : State} (h : t.mem = s.mem) (a : Nat) : t.byteAt a = s.byteAt a := congrArg (memGet · a) h

theorem numAt_of_mem_eq {s t : State} (h : t.mem = s.mem) (a n : Nat) : t.numAt a n = s.numAt a n := congrArg (fun m => ofLe (memGetMany m a n)) h

theorem getElem?_bytesAt (s : State) (a n i : Nat) (h : i < n) : (s.bytesAt a n)[i]? = some (s.byteAt (a + i)) := by
  unfold State.bytesAt State.byteAt
  induction n generalizing a i with
  | zero => omega
  | succ n ih =>
    cases i with
    | zero => rfl
    | succ i =>
      rw [memGetMany, List.getElem?_cons_succ, ih (a + 1) i (by omega)]
      congr 2
      omega

/-- The bytes answered: those of HBM4E, then ones (R36). -/
theorem getElem?_bar2 (s : State) (a len i : Nat) (h : i < len) :
    (bar2Bytes s a len (min len (2 ^ 39 - a)))[i]? = some (if a + i < 2 ^ 39 then s.byteAt (a + i) else 0xFF) := by
  unfold bar2Bytes
  have hlen : (s.bytesAt a (min len (2 ^ 39 - a))).length = min len (2 ^ 39 - a) := length_memGetMany _ _ _
  split_ifs with hi
  · rw [List.getElem?_append_left (by omega), getElem?_bytesAt _ _ _ _ (by omega)]
  · rw [List.getElem?_append_right (by omega), List.getElem?_replicate, if_pos (by omega)]

/-! ## What a write leaves -/

theorem spoilPartial_frame (s : State) (a n : Nat) : s.spoilPartial a n = { s with poison := (s.spoilPartial a n).poison } := by
  have hfold (ps : List (Nat × Nat)) (u : State) : ps.foldl (spoilPiece a) u = { u with poison := (ps.foldl (spoilPiece a) u).poison } := by
    induction ps generalizing u with
    | nil => rfl
    | cons p ps ih =>
      have hp : spoilPiece a u p = { u with poison := (spoilPiece a u p).poison } := by
        unfold spoilPiece
        split_ifs <;> rfl
      have h := ih (spoilPiece a u p)
      rw [hp] at h
      rw [List.foldl_cons, hp]
      exact h
  unfold State.spoilPartial
  split_ifs
  · rfl
  · exact hfold _ s

theorem mem_poison_spoilPartial (s : State) (a n w : Nat) :
    w ∈ (s.spoilPartial a n).poison ↔ w ∈ s.poison ∨ (s.boot.recovery = true ∧ Meets a (a + n) w) := by
  unfold State.spoilPartial
  cases hr : s.boot.recovery with
  | false => simp
  | true =>
    rw [if_neg (by decide)]
    exact (mem_poison_spoil a n n 0 s w (Nat.le_refl n)).trans (by simp)

/-- The poison of a word after a write of the host (R51, R288). -/
theorem isPoisoned_hostWrite (s : State) (who : Party) (a : Nat) (bs : List Byte) (w : Nat) :
    ((s.writePublished who a bs).spoilPartial a bs.length).isPoisoned (8 * w) =
      if a ≤ 8 * w ∧ 8 * w + 8 ≤ a + bs.length then false
      else s.isPoisoned (8 * w) || (s.boot.recovery && decide (a < a + bs.length ∧ a < 8 * w + 8 ∧ 8 * w < a + bs.length)) := by
  have hb : (s.writePublished who a bs).boot = s.boot := by rw [writesOnly_writePublished s who a bs]
  have hp : w ∈ (s.writePublished who a bs).poison ↔ w ∈ s.poison ∧ ¬Covers a (a + bs.length) w := mem_poison_write s who a bs w
  have h8 : 8 * w / 8 = w := Nat.mul_div_cancel_left w (by decide)
  rw [Bool.eq_iff_iff, State.isPoisoned, State.isPoisoned, h8, List.contains_iff_mem, mem_poison_spoilPartial, hp, hb]
  split_ifs with hc
  · have hcov : Covers a (a + bs.length) w := hc
    simp [hcov, Meets]
  · have hcov : ¬Covers a (a + bs.length) w := hc
    simp [hcov, Meets]

/-- Each byte after a write of the part within HBM4E (R36). -/
theorem byteAt_bar2Write {s t : State} (w : Memory.wf s.mem = true) (a : Nat) (bytes : List Byte)
    (h : t.mem = memSetMany s.mem a (bytes.take (min bytes.length (2 ^ 39 - a)))) :
    (∀ i, ∀ v : Byte, bytes[i]? = some v → a + i < 2 ^ 39 → t.byteAt (a + i) = v) ∧
    (∀ b, (∀ i < bytes.length, a + i < 2 ^ 39 → b ≠ a + i) → t.byteAt b = s.byteAt b) := by
  have hlen : (bytes.take (min bytes.length (2 ^ 39 - a))).length = min bytes.length (2 ^ 39 - a) := by
    rw [List.length_take]
    omega
  refine ⟨fun i v hv hi => ?_, fun b hb => ?_⟩
  · obtain ⟨hlt, rfl⟩ := List.getElem?_eq_some_iff.1 hv
    rw [State.byteAt, h, memGet_memSetMany_inside _ _ _ _ w (by omega), List.getD_eq_getElem?_getD, List.getElem?_take, if_pos (by omega), hv]
    rfl
  · rw [State.byteAt, h, memGet_memSetMany_outside _ _ _ _ w]
    · rfl
    · by_contra hin
      exact hb (b - a) (by omega) (by omega) (by omega)

/-! ## What an atomic add leaves -/

theorem elemAt_whole (x : Word) : elemAt 64 x 0 = x.toNat := by
  rw [elemAt, Nat.mul_zero, Nat.pow_zero, Nat.div_one]
  exact Nat.mod_eq_of_lt x.isLt

/-- An atomic add of 64-bit words (R384). -/
theorem atomNew_add (old v : Word) : ∃ new : Word, atomNew 0 1 false old v 0 = some new ∧ new.toNat = (old.toNat + v.toNat) % 2 ^ 64 := by
  refine ⟨_, rfl, ?_⟩
  have h := elemAt_zipElems 64 (fun a b => (a + b) % 2 ^ 64) old v 0 (by decide)
  rw [elemAt_whole, elemAt_whole, elemAt_whole, Nat.mod_mod] at h
  exact h

theorem numAt_atomicAdd {s : State} (w : Memory.wf s.mem = true) (who : Party) {a : Nat} (ha : spaceOf a ≠ 7) (v : Word) :
    let t := s.performFlat who a (.atomic 0 1 false v 0)
    t.numAt a 8 = (s.numAt a 8 + v.toNat) % 2 ^ 64 ∧ ∀ b, b < a ∨ a + 8 ≤ b → t.byteAt b = s.byteAt b := by
  obtain ⟨new, hnew, hval⟩ := atomNew_add (BitVec.ofNat 64 (s.numAt a 8)) v
  have hmem := mem_performFlat_atomic s who ha 0 1 false v 0
  rw [show (0 : BitVec 3).toNat = 0 from rfl, hnew] at hmem
  rw [toNat_numAt] at hval
  obtain ⟨hn, ho⟩ := numAt_of_mem w hmem
  exact ⟨hn.trans hval, ho⟩

theorem bar2Add_poisoned {s : State} {a : Nat} (h : (s.readOutside a 8).2.1 = true) (v : Word) : bar2Add s a v = bar2Read s a 8 (s.bytesAt a 8) := if_pos h

theorem bar2Add_sound {s : State} {a : Nat} (h : (s.readOutside a 8).2.1 = false) (v : Word) :
    bar2Add s a v = ((bar2Read s a 8 (s.bytesAt a 8)).performFlat .host a (.atomic 0 1 false v 0)).pub .sys hostPlace := if_neg (by rw [h]; decide)

/-- What an atomic add answers, and what it leaves alone. -/
theorem frame_bar2Add (s : State) (a : Nat) (v : Word) :
    (bar2Add s a v).hostReads = s.hostReads ++ [(s.bytesAt a 8, (s.readOutside a 8).2.1)] ∧ (bar2Add s a v).regs = s.regs ∧
    (bar2Add s a v).threads = s.threads ∧ (bar2Add s a v).ctxs = s.ctxs := by
  have hread := frame_bar2Read s a 8 (s.bytesAt a 8)
  have hfirst := hostReads_bar2Read s a 8 (s.bytesAt a 8)
  cases hbad : (s.readOutside a 8).2.1 with
  | true =>
    rw [bar2Add_poisoned hbad]
    rw [hbad] at hfirst
    exact ⟨hfirst, by rw [hread], by rw [hread], by rw [hread]⟩
  | false =>
    have hserve : Serves (bar2Read s a 8 (s.bytesAt a 8)) (bar2Add s a v) := by
      rw [bar2Add_sound hbad]
      exact (serves_performFlat _ _ _ _).trans rfl
    unfold Serves at hserve
    rw [hbad] at hfirst
    exact ⟨by rw [hserve]; exact hfirst, by rw [hserve, hread], by rw [hserve, hread], by rw [hserve, hread]⟩

/-- What an atomic add leaves in memory and its history, on poison and without. -/
theorem effect_bar2Add {s : State} (w : Memory.wf s.mem = true) {a : Nat} (ha : a < 2 ^ 39) (v : Word) :
    if (s.readOutside a 8).2.1 = true then (bar2Add s a v).mem = s.mem
    else (bar2Add s a v).numAt a 8 = (s.numAt a 8 + v.toNat) % 2 ^ 64 ∧
      (∀ b, b < a ∨ a + 8 ≤ b → (bar2Add s a v).byteAt b = s.byteAt b) ∧
      ∀ e ∈ (bar2Add s a v).hist, e.owners.contains .host = true → (Scope.sys, hostPlace) ∈ e.pubs := by
  have hmem := mem_bar2Read s a 8 (s.bytesAt a 8)
  split_ifs with hp
  · rw [bar2Add_poisoned hp]
    exact hmem
  · rw [bar2Add_sound (Bool.eq_false_of_not_eq_true hp)]
    obtain ⟨hnum, hout⟩ := numAt_atomicAdd (s := bar2Read s a 8 (s.bytesAt a 8)) (by rwa [hmem]) .host (spaceOf_hbm ha) v
    refine ⟨?_, fun b hb => ?_, pubs_of_pub _ .sys hostPlace⟩
    · rw [← numAt_of_mem_eq hmem]
      exact hnum
    · rw [← byteAt_of_mem_eq hmem]
      exact hout b hb

/-- Settles O46: a read is `bar2Read`, a write is `writePublished` with the words it meets in part spoilt under recovery, an atomic add is
`bar2Add`; their bytes, poison and history follow from the rules of memory. -/
theorem hostApertureResults : Obligations.HostApertureResults := by
  unfold Obligations.HostApertureResults
  intro s off hready hwf org at' inside told
  have hfit : org + off = bar2At s off := rfl
  have hat (i : Nat) : at' i = bar2At s off + i := congrArg (· + i) hfit
  have hin (n : Nat) : s.bar2Inside off n = min n (2 ^ 39 - bar2At s off) := by rw [State.bar2Inside, bar2At, Nat.sub_sub]
  have hinside (n : Nat) : inside n = s.bar2Inside off n := rfl
  have htold (n : Nat) : told n = (s.firstPoison (bar2At s off) n).isSome := by
    show (s.firstPoison (at' 0) n).isSome = _
    rw [hat, Nat.add_zero]
  clear_value told inside at'
  simp only [htold, hinside, hat, Nat.add_zero]
  refine ⟨fun len => ?_, fun bytes => ?_, fun value halign hfits => ?_, fun value hbad => ?_⟩
  · refine ⟨_, exec_bar2HostRead s off len hready, _, _, hostReads_bar2Read _ _ _ _, ?_, fun i hi => ?_, fun h => readOutside_told s _ _ h,
      fun hq => ⟨told_quiet hq _ _, bar2Read_quiet hq _ _ _⟩, mem_bar2Read _ _ _ _, by rw [frame_bar2Read]⟩
    · rw [bar2Bytes, List.length_append, List.length_replicate, State.bytesAt, length_memGetMany]
      exact Nat.add_sub_cancel' (Nat.min_le_left _ _)
    · rw [hin]
      exact getElem?_bar2 s (bar2At s off) len i hi
  · have hlen : (bytes.take (s.bar2Inside off bytes.length)).length = s.bar2Inside off bytes.length := by
      rw [List.length_take]
      exact Nat.min_eq_left (Nat.min_le_left _ _)
    have hexec := exec_bar2HostWrite s off bytes hready
    have hword := isPoisoned_hostWrite s .host (bar2At s off) (bytes.take (s.bar2Inside off bytes.length))
    set bs := bytes.take (s.bar2Inside off bytes.length)
    set t := (s.writePublished .host (bar2At s off) bs).spoilPartial (bar2At s off) bs.length
    have hspoil : t = { s.writePublished .host (bar2At s off) bs with poison := t.poison } := spoilPartial_frame _ _ _
    have hmem : t.mem = memSetMany s.mem (bar2At s off) bs := by
      rw [hspoil]
      exact mem_writePublished _ _ _ _
    obtain ⟨hinBytes, houtBytes⟩ := byteAt_bar2Write hwf (bar2At s off) bytes (t := t) (by rw [← hin]; exact hmem)
    rw [hlen] at hword
    refine ⟨t, hexec, hinBytes, houtBytes, hword, ?_, ?_⟩
    · rw [hspoil]
      exact pubs_of_pub _ .sys hostPlace
    · exact (writesOnly_writePublished s .host (bar2At s off) bs).trans (u := t) (by rw [hspoil]; rfl)
  · have hin8 : s.bar2Inside off 8 = 8 := by
      rw [hin]
      exact Nat.min_eq_left (by omega)
    obtain ⟨hreads, hregs, hthreads, hctxs⟩ := frame_bar2Add s (bar2At s off) value
    refine ⟨_, exec_hostFetchadd s off value hready halign hin8, _, hreads, fun h => readOutside_told s _ _ h, fun hq => told_quiet hq _ _,
      effect_bar2Add hwf (by omega) value, hregs,
      hthreads, hctxs⟩
  · exact ⟨_, exec_hostFetchadd_misaligned s off value hbad, rfl⟩

end Sys2Proof.Proofs
end

section
/-! Registers of BAR 0 that read back as written: plain fields, the nonce and the vector table (R33, R35, R54). -/

namespace Sys2Proof.Proofs

open Sys2Proof Sys2Proof.Machine Sys2Proof.Laws

theorem bar0Read_running {s : State} (hrdy : s.boot.ready = true) (hrec : s.boot.recovery = false) (off : Nat) : s.bar0Read off = s.bar0Word off :=
  if_pos (by simp [State.bar0Reads, hrdy, hrec])

/-! ## Bits of a register and of half a write -/

theorem getLsbD_halfMask (h i : Nat) (hi : i < 64) : (halfMask h).getLsbD i = decide (i / 32 = h) := by
  rw [halfMask, BitVec.getLsbD_ofNat, decide_eq_true hi, Bool.true_and, Nat.testBit_mul_two_pow, Nat.testBit_two_pow_sub_one, Bool.eq_iff_iff]
  simp only [Bool.and_eq_true, decide_eq_true_eq]
  omega

theorem getLsbD_halfData (h i : Nat) (data : Word) (hi : i < 64) (hh : i / 32 = h) : (halfData h data).getLsbD i = data.getLsbD (i % 32) := by
  have hlow : 32 * h ≤ i := by omega
  have hmod : i - 32 * h = i % 32 := by omega
  have h32 : i % 32 < 32 := by omega
  rw [halfData, BitVec.getLsbD_ofNat, decide_eq_true hi, Bool.true_and, Nat.testBit_mul_two_pow, decide_eq_true hlow, Bool.true_and, hmod,
    Nat.testBit_mod_two_pow, decide_eq_true h32, Bool.true_and, BitVec.getLsbD]

/-- A register of which half is written: the bits of the half are the data's. -/
theorem getLsbD_merged_half (old data : Word) (h i : Nat) (hi : i < 64) :
    ((old &&& ~~~halfMask h) ||| (halfData h data &&& halfMask h)).getLsbD i = if i / 32 = h then data.getLsbD (i % 32) else old.getLsbD i := by
  rw [BitVec.getLsbD_or, BitVec.getLsbD_and, BitVec.getLsbD_and, BitVec.getLsbD_not, getLsbD_halfMask h i hi]
  split_ifs with hc
  · simp [hc, getLsbD_halfData h i data hi hc]
  · simp [hc, hi]

/-- A field as it stands in its register. -/
theorem field_placed (x : Word) (hi lo : Nat) :
    BitVec.ofNat 64 (field x hi lo * 2 ^ lo) = x &&& BitVec.ofNat 64 ((2 ^ (hi + 1 - lo) - 1) * 2 ^ lo) := by
  refine BitVec.eq_of_getLsbD_eq (fun i h64 => ?_)
  rw [BitVec.getLsbD_and, BitVec.getLsbD_ofNat, BitVec.getLsbD_ofNat, Nat.testBit_mul_two_pow, Nat.testBit_mul_two_pow, Nat.testBit_two_pow_sub_one,
    decide_eq_true h64, Bool.true_and, Bool.true_and]
  by_cases hlo : lo ≤ i
  · by_cases hhi : i - lo < hi + 1 - lo
    · rw [getLsbD_field _ _ _ _ hhi, decide_eq_true hhi, show lo + (i - lo) = i by omega, decide_eq_true hlo]
      simp
    · rw [field, Nat.testBit_mod_two_pow, decide_eq_false hhi]
      simp
  · simp [hlo]

/-! ## Plain registers -/

/-- A state with another host block. -/
def withHost (s : State) (h : HostRegs) : State := { s with host := h }

/-- A register that keeps the bits of `m` as written and reads the others as 0, its field being one of the host block. -/
structure PlainRegister (off m : Nat) : Prop where
  alone : StandsAlone off
  aligned : off % 8 = 0
  bounded : ∀ s : State, s.controlWord off &&& BitVec.ofNat 64 m = s.controlWord off
  written : ∀ (s : State) (mask new w1 : Word), ∃ h : HostRegs,
    s.controlWrite off mask new w1 = withHost s h ∧ (withHost s h).controlWord off = new &&& BitVec.ofNat 64 m

theorem toNat_ofNat_field (x : Word) {w : Nat} (hi lo : Nat) (hw : w = hi + 1 - lo) : (BitVec.ofNat w (field x hi lo)).toNat = field x hi lo := by
  subst hw
  exact Nat.mod_eq_of_lt (Nat.mod_lt _ (Nat.two_pow_pos _))

/-- A register with one field. -/
theorem regOf_field (x : Word) {w : Nat} (hi lo m : Nat) (hw : w = hi + 1 - lo) (hm : (2 ^ (hi + 1 - lo) - 1) * 2 ^ lo = m) :
    regOf [((BitVec.ofNat w (field x hi lo)).toNat, lo)] = x &&& BitVec.ofNat 64 m := by
  rw [← hm, ← field_placed x hi lo, toNat_ofNat_field x hi lo hw]
  show BitVec.ofNat 64 (0 + _) = _
  rw [Nat.zero_add]

theorem regOf_bounded {w lo m : Nat} (x : BitVec w) (hm : (2 ^ w - 1) * 2 ^ lo = m) :
    regOf [(x.toNat, lo)] &&& BitVec.ofNat 64 m = regOf [(x.toNat, lo)] := by
  subst hm
  refine BitVec.eq_of_getLsbD_eq (fun i h64 => ?_)
  have hreg : regOf [(x.toNat, lo)] = BitVec.ofNat 64 (x.toNat * 2 ^ lo) := by
    show BitVec.ofNat 64 (0 + _) = _
    rw [Nat.zero_add]
  rw [hreg, BitVec.getLsbD_and, BitVec.getLsbD_ofNat, BitVec.getLsbD_ofNat, Nat.testBit_mul_two_pow, Nat.testBit_mul_two_pow,
    Nat.testBit_two_pow_sub_one, ← BitVec.getLsbD]
  by_cases hx : x.getLsbD (i - lo) = true
  · have hlt : i - lo < w := BitVec.lt_of_getLsbD hx
    cases decide (i < 64) <;> cases decide (lo ≤ i) <;> simp [hlt]
  · simp [hx]

theorem setWidth_setWidth_masked (x : Word) {w m : Nat} (hm : 2 ^ w - 1 = m) : (x.setWidth w).setWidth 64 = x &&& BitVec.ofNat 64 m := by
  subst hm
  refine BitVec.eq_of_getLsbD_eq (fun i h64 => ?_)
  rw [BitVec.getLsbD_setWidth, BitVec.getLsbD_setWidth, BitVec.getLsbD_and, BitVec.getLsbD_ofNat, Nat.testBit_two_pow_sub_one, decide_eq_true h64]
  simp [Bool.and_comm]

theorem setWidth_bounded {w m : Nat} (x : BitVec w) (hm : 2 ^ w - 1 = m) : x.setWidth 64 &&& BitVec.ofNat 64 m = x.setWidth 64 := by
  subst hm
  refine BitVec.eq_of_getLsbD_eq (fun i h64 => ?_)
  rw [BitVec.getLsbD_and, BitVec.getLsbD_setWidth, BitVec.getLsbD_ofNat, Nat.testBit_two_pow_sub_one, decide_eq_true h64]
  by_cases hx : x.getLsbD i = true
  · simp [BitVec.lt_of_getLsbD hx]
  · simp [hx]

theorem and_allBits (x : Word) : x &&& BitVec.ofNat 64 0xFFFFFFFFFFFFFFFF = x := by
  rw [show BitVec.ofNat 64 0xFFFFFFFFFFFFFFFF = BitVec.allOnes 64 from rfl, BitVec.and_allOnes]

theorem plain_hbmOrg : PlainRegister 0x1030 0x7FF0000000 :=
  ⟨.inl (by decide), rfl, fun s => regOf_bounded s.host.hbmOrg rfl,
    fun _ _ new _ => ⟨_, rfl, regOf_field new 38 28 _ rfl rfl⟩⟩

theorem plain_ctxRec : PlainRegister 0x1080 0x7FFFFFFF00 :=
  ⟨.inl (by decide), rfl, fun s => regOf_bounded s.host.ctxRec rfl, fun _ _ new _ => ⟨_, rfl, regOf_field new 38 8 _ rfl rfl⟩⟩

theorem plain_fwSrc : PlainRegister 0x10A0 0x7FFFFFF000 :=
  ⟨.inl (by decide), rfl, fun s => regOf_bounded s.host.fwSrc rfl, fun _ _ new _ => ⟨_, rfl, regOf_field new 38 12 _ rfl rfl⟩⟩

theorem plain_fwLen : PlainRegister 0x10A8 0x1FFFFFF :=
  ⟨.inl (by decide), rfl, fun s => setWidth_bounded s.host.fwLen rfl, fun _ _ new _ => ⟨_, rfl, setWidth_setWidth_masked new rfl⟩⟩

theorem plain_attAddr : PlainRegister 0x3020 0xFFFFFFFFFFFFFFFF :=
  ⟨.inr (by decide), rfl, fun s => and_allBits s.host.attAddr, fun _ _ new _ => ⟨_, rfl, (and_allBits new).symm⟩⟩

theorem plain_errSel : PlainRegister 0x40000 0xFFFF :=
  ⟨.inr (by decide), rfl, fun s => setWidth_bounded s.host.errSel rfl, fun _ _ new _ => ⟨_, rfl, setWidth_setWidth_masked new rfl⟩⟩

/-- The plain registers, with the bits that each keeps. -/
theorem plainRegisters : ∀ x ∈ [(0x1030, 0x7FF0000000), (0x1080, 0x7FFFFFFF00), (0x10A0, 0x7FFFFFF000), (0x10A8, 0x1FFFFFF),
    (0x3020, 0xFFFFFFFFFFFFFFFF), (0x40000, 0xFFFF)], PlainRegister x.1 x.2 := by
  simp only [List.forall_mem_cons]
  exact ⟨plain_hbmOrg, plain_ctxRec, plain_fwSrc, plain_fwLen, plain_attAddr, plain_errSel, by simp⟩

section
variable {s : State} (hpow : s.boot.powered = true) (hrdy : s.boot.ready = true) (hrec : s.boot.recovery = false)
include hpow hrdy hrec

theorem plain_word {off m : Nat} (p : PlainRegister off m) (data : Word) :
    Completes (.bar0RegisterWrite off 8 data) s (fun t => t.bar0Read off = data &&& BitVec.ofNat 64 m ∧ t = { s with host := t.host }) := by
  obtain ⟨h, hw, hr⟩ := p.written s (BitVec.allOnes 64) data data
  have hword := bar0Write_control data hpow p.alone p.aligned (bar0Writes_running hrdy hrec off)
  rw [hw] at hword
  refine ⟨_, congrArg Host.Outcome.next hword, ?_, rfl⟩
  rw [bar0Read_running (s := withHost s h) hrdy hrec, bar0Word_control p.alone]
  exact hr

theorem plain_half {off m : Nat} (p : PlainRegister off m) (data : Word) {h : Nat} (hh : h < 2) :
    Completes (.bar0RegisterWrite (off + 4 * h) 4 data) s (fun t => t = { s with host := t.host } ∧ ∀ i < 64,
      bitAt (t.bar0Read off) i = if i / 32 = h then bitAt data (i % 32) && m.testBit i else bitAt (s.bar0Read off) i) := by
  have hoff : off < 0x400000 := by
    have := p.alone
    unfold StandsAlone at this
    omega
  have hhalf := bar0Write_half data hpow hoff p.aligned hh (bar0Writes_running hrdy hrec off)
  rw [bar0Apply_control p.alone, bar0Word_control p.alone] at hhalf
  obtain ⟨host, hw, hr⟩ := p.written s (halfMask h) ((s.controlWord off &&& ~~~halfMask h) ||| (halfData h data &&& halfMask h))
    (halfData h data &&& halfMask h)
  rw [hw] at hhalf
  refine ⟨_, congrArg Host.Outcome.next hhalf, rfl, fun i hi => ?_⟩
  rw [bar0Read_running (s := withHost s host) hrdy hrec, bar0Read_running (s := s) hrdy hrec, bar0Word_control p.alone, bar0Word_control p.alone, hr, bitAt_eq_getLsbD,
    bitAt_eq_getLsbD, bitAt_eq_getLsbD, BitVec.getLsbD_and, getLsbD_merged_half _ _ _ _ hi, BitVec.getLsbD_ofNat, decide_eq_true hi, Bool.true_and]
  split_ifs with hc
  · rfl
  · rw [← p.bounded s, BitVec.getLsbD_and, BitVec.getLsbD_ofNat, decide_eq_true hi, Bool.true_and, Bool.and_assoc, Bool.and_self]

/-- A whole register of a file, written and read back. -/
theorem write_file {off : Nat} (data : Word) (hoff : off < 0x400000) (halign : off % 8 = 0) :
    exec (.bar0RegisterWrite off 8 data) s = .next (s.bar0Apply off (BitVec.allOnes 64) data) :=
  congrArg Host.Outcome.next (bar0Write_word data hpow hoff halign (bar0Writes_running hrdy hrec off))

theorem write_control {off : Nat} (data : Word) (hoff : StandsAlone off) (halign : off % 8 = 0) :
    exec (.bar0RegisterWrite off 8 data) s = .next (s.controlWrite off (BitVec.allOnes 64) data data) :=
  congrArg Host.Outcome.next (bar0Write_control data hpow hoff halign (bar0Writes_running hrdy hrec off))

end

/-! ## The nonce (R54) -/

theorem getElem?_putLe (bs : List Byte) (start n v i : Nat) (h : start + n ≤ bs.length) :
    (putLe bs start n v)[i]? = if start ≤ i ∧ i < start + n then (leBytes n v)[i - start]? else bs[i]? := by
  have htake : (bs.take start).length = start := by rw [List.length_take]; omega
  unfold putLe
  by_cases h1 : i < start
  · rw [List.append_assoc, List.getElem?_append_left (by omega), List.getElem?_take, if_pos h1, if_neg (by omega)]
  · rw [List.append_assoc, List.getElem?_append_right (by omega), htake]
    by_cases h2 : i < start + n
    · rw [if_pos (by omega), List.getElem?_append_left (by rw [length_leBytes]; omega)]
    · rw [if_neg (by omega), List.getElem?_append_right (by rw [length_leBytes]; omega), length_leBytes, List.getElem?_drop]
      congr 1
      omega

theorem length_putLe (bs : List Byte) (start n v : Nat) (h : start + n ≤ bs.length) : (putLe bs start n v).length = bs.length := by
  simp only [putLe, List.length_append, List.length_take, length_leBytes, List.length_drop]
  omega

theorem fieldLe_putLe_same (bs : List Byte) (start n v : Nat) (h : start + n ≤ bs.length) : fieldLe (putLe bs start n v) start n = v % 256 ^ n := by
  have hbytes : ((putLe bs start n v).drop start).take n = leBytes n v := by
    refine List.ext_getElem? (fun i => ?_)
    rw [List.getElem?_take, List.getElem?_drop, getElem?_putLe bs start n v _ h]
    split_ifs with h1 h2
    · rw [Nat.add_sub_cancel_left]
    · omega
    · exact (List.getElem?_eq_none (by rw [length_leBytes]; omega)).symm
  rw [Machine.fieldLe, hbytes, ofLe_leBytes]

theorem fieldLe_putLe_other (bs : List Byte) (start n v a k : Nat) (h : start + n ≤ bs.length) (hout : a + k ≤ start ∨ start + n ≤ a) :
    fieldLe (putLe bs start n v) a k = fieldLe bs a k := by
  have hbytes : ((putLe bs start n v).drop a).take k = (bs.drop a).take k := by
    refine List.ext_getElem? (fun i => ?_)
    rw [List.getElem?_take, List.getElem?_take, List.getElem?_drop, List.getElem?_drop, getElem?_putLe bs start n v _ h]
    split_ifs
    · omega
    · rfl
    · rfl
  rw [Machine.fieldLe, hbytes, Machine.fieldLe]

theorem length_nonceBytes (h : HostRegs) : h.nonceBytes.length = 32 := by
  simp [HostRegs.nonceBytes]

theorem nonceBytes_of_length {h : HostRegs} (hlen : h.attNonce.length = 32) : h.nonceBytes = h.attNonce := by
  rw [HostRegs.nonceBytes, List.take_append_of_le_length (Nat.le_of_eq hlen.symm), List.take_of_length_le (Nat.le_of_eq hlen)]

/-- A word of the nonce, and the words beside it. -/
theorem bar0Word_nonce {s : State} {k : Nat} (hk : k < 4) : s.bar0Word (0x3000 + 8 * k) = BitVec.ofNat 64 (fieldLe s.host.nonceBytes (8 * k) 8) := by
  rw [State.bar0Word, if_neg (by omega), if_pos (by omega), Nat.add_sub_cancel_left]

theorem bar0Apply_nonce (s : State) {k : Nat} (hk : k < 4) (data : Word) : s.bar0Apply (0x3000 + 8 * k) (BitVec.allOnes 64) data =
    { s with host := { s.host with attNonce := putLe s.host.nonceBytes (8 * k) 8 data.toNat } } := by
  rw [State.bar0Apply, if_neg (by omega), if_pos (by omega), Nat.add_sub_cancel_left, merged_allOnes]

theorem nonce_written {s t : State} {k : Nat} (hk : k < 4) (data : Word) (ht : t.host.attNonce = putLe s.host.nonceBytes (8 * k) 8 data.toNat) :
    t.bar0Word (0x3000 + 8 * k) = data ∧ ∀ j < 4, j ≠ k → t.bar0Word (0x3000 + 8 * j) = s.bar0Word (0x3000 + 8 * j) := by
  have hlen := length_nonceBytes s.host
  have hput := length_putLe s.host.nonceBytes (8 * k) 8 data.toNat (by omega)
  have hbytes : t.host.nonceBytes = putLe s.host.nonceBytes (8 * k) 8 data.toNat := by
    rw [nonceBytes_of_length (by rw [ht, hput, hlen]), ht]
  refine ⟨?_, fun j hj hjk => ?_⟩
  · rw [bar0Word_nonce hk, hbytes, fieldLe_putLe_same _ _ _ _ (by omega)]
    exact BitVec.eq_of_toNat_eq (by rw [BitVec.toNat_ofNat]; have := data.isLt; omega)
  · rw [bar0Word_nonce hj, bar0Word_nonce hj, hbytes, fieldLe_putLe_other _ _ _ _ _ _ (by omega) (by omega)]

/-! ## The vector table (R33) -/

/-- `t` differs from `s` as the sending and the pending of vectors make it differ: in memory, its records and the pending bits. -/
def Signals (s t : State) : Prop :=
  t = { s with
    mem := t.mem, hist := t.hist, writeSeq := t.writeSeq, poison := t.poison, log := t.log
    host := { s.host with msixPending := t.host.msixPending } }

theorem Signals.refl (s : State) : Signals s s := rfl

theorem Signals.trans {s t u : State} (h : Signals s t) (k : Signals t u) : Signals s u := by
  unfold Signals at h k
  rw [h] at k
  exact k

theorem Signals.ite {s t u : State} {c : Prop} [Decidable c] (h : Signals s t) (k : Signals s u) : Signals s (if c then t else u) := by
  split_ifs
  · exact h
  · exact k

theorem WritesOnly.signals {s t : State} (h : WritesOnly s t) : Signals s t := by
  unfold WritesOnly at h
  rw [h]
  rfl

theorem signals_sendVector (s : State) (v : Nat) : Signals s (s.sendVector v) := .ite (writesOnly_writePublished s _ _ _).signals rfl

theorem signals_raiseVector (s : State) (v : Nat) : Signals s (s.raiseVector v) := .ite rfl (signals_sendVector s v)

theorem Signals.msix {s t : State} (h : Signals s t) (i : Nat) : t.host.msixWord i = s.host.msixWord i := by
  unfold Signals at h
  rw [h]
  rfl

theorem host_sendVector (s : State) (v : Nat) : (s.sendVector v).host = s.host := by
  unfold State.sendVector
  dsimp only
  split_ifs
  · rw [writesOnly_writePublished]
  · rfl

theorem bitAt_putBit {w : Nat} (x : BitVec w) (n i : Nat) (b : Bool) (hi : i < w) : bitAt (putBit x n b) i = if i = n then b else bitAt x i := by
  have hone : (BitVec.ofNat w (2 ^ n)).getLsbD i = decide (i = n) := by
    rw [BitVec.getLsbD_ofNat, decide_eq_true hi, Bool.true_and, Nat.testBit_two_pow, Bool.eq_iff_iff]
    simp only [decide_eq_true_eq]
    exact eq_comm
  cases b <;> simp only [putBit, bitAt_eq_getLsbD, if_true, Bool.false_eq_true, if_false, BitVec.getLsbD_or, BitVec.getLsbD_and, BitVec.getLsbD_not, hone,
    hi, decide_true, Bool.true_and] <;> by_cases h : i = n <;> simp [h]

/-- One vector that is pending and no longer masked, sent. -/
def settleVector (t : State) (v : Nat) : State :=
  if bitAt t.host.msixPending v && !bitAt (t.host.msixWord (4 * v + 3)) 0 then
    ({ t with host := { t.host with msixPending := putBit t.host.msixPending v false } }).sendVector v
  else t

theorem signals_settleVector (t : State) (v : Nat) : Signals t (settleVector t v) :=
  .ite (Signals.trans (t := { t with host := { t.host with msixPending := putBit t.host.msixPending v false } }) rfl (signals_sendVector _ v)) (.refl t)

theorem signals_settleVectors (s : State) (vs : List Nat) : Signals s (vs.foldl settleVector s) := by
  induction vs generalizing s with
  | nil => exact .refl s
  | cons v vs ih => exact (signals_settleVector s v).trans (ih _)

theorem pending_settleVector (t : State) (v i : Nat) (hi : i < 64) : bitAt (settleVector t v).host.msixPending i =
    (bitAt t.host.msixPending i && (decide (i ≠ v) || bitAt (t.host.msixWord (4 * i + 3)) 0)) := by
  unfold settleVector
  split_ifs with h
  · rw [host_sendVector, bitAt_putBit _ _ _ _ hi]
    by_cases hiv : i = v
    · subst hiv
      simp only [Bool.and_eq_true, Bool.not_eq_true'] at h
      simp [h.2]
    · simp [hiv]
  · by_cases hiv : i = v
    · subst hiv
      cases hp : bitAt t.host.msixPending i <;> simp_all
    · simp [hiv]

theorem pending_settleVectors (s : State) (vs : List Nat) (i : Nat) (hi : i < 64) : bitAt (vs.foldl settleVector s).host.msixPending i =
    (bitAt s.host.msixPending i && (decide (i ∉ vs) || bitAt (s.host.msixWord (4 * i + 3)) 0)) := by
  induction vs generalizing s with
  | nil => simp
  | cons v vs ih =>
    rw [List.foldl_cons, ih, pending_settleVector s v i hi, (signals_settleVector s v).msix]
    by_cases hv : i = v <;> by_cases hm : i ∈ vs <;> simp [hv, hm, Bool.and_assoc] <;> simp_all

/-- The vector table after a write of two of its words. -/
def tableWith (m : FMap Nat (BitVec 32)) (k : Nat) (data : Word) : FMap Nat (BitVec 32) :=
  FMap.set (FMap.set m (2 * k) (BitVec.ofNat 32 (field data 31 0) &&& msixMask (2 * k))) (2 * k + 1)
    (BitVec.ofNat 32 (field data 63 32) &&& msixMask (2 * k + 1))

/-- A write of two words of the vector table, before the vectors that it unmasks are sent. -/
def tableWritten (s : State) (k : Nat) (data : Word) : State := withHost s { s.host with msix := tableWith s.host.msix k data }

theorem bar0Apply_msix (s : State) {k : Nat} (hk : k < 128) (data : Word) :
    s.bar0Apply (0x300000 + 8 * k) (BitVec.allOnes 64) data = (List.range 64).foldl settleVector (tableWritten s k data) := by
  have hi : (0x300000 + 8 * k - 0x300000) / 4 = 2 * k := by omega
  have h0 : bitAt (BitVec.allOnes 64) 0 = true := by decide
  have h32 : bitAt (BitVec.allOnes 64) 32 = true := by decide
  rw [State.bar0Apply, if_neg (by omega), if_neg (by omega), if_neg (by omega), if_neg (by omega), if_neg (by omega), if_neg (by omega),
    if_pos (by omega), merged_allOnes, State.msixWrites, hi, h0, h32, if_pos rfl, if_pos rfl]
  rfl

theorem low_word (data : Word) : BitVec.ofNat 32 (field data 31 0) = data.setWidth 32 :=
  BitVec.eq_of_toNat_eq (by simp only [BitVec.toNat_ofNat, BitVec.toNat_setWidth, field]; omega)

theorem high_word (data : Word) : BitVec.ofNat 32 (field data 63 32) = (data >>> 32).setWidth 32 :=
  BitVec.eq_of_toNat_eq (by simp only [BitVec.toNat_ofNat, BitVec.toNat_setWidth, BitVec.toNat_ushiftRight, Nat.shiftRight_eq_div_pow, field]; omega)

theorem msixWord_tableWritten (s : State) (k : Nat) (data : Word) (i : Nat) : (tableWritten s k data).host.msixWord i =
    if i = 2 * k then data.setWidth 32 &&& (if k % 2 = 0 then 0xFFFFFFFC else 0xFFFFFFFF)
    else if i = 2 * k + 1 then (data >>> 32).setWidth 32 &&& (if k % 2 = 0 then 0xFFFFFFFF else 1) else s.host.msixWord i := by
  have heven : msixMask (2 * k) = if k % 2 = 0 then 0xFFFFFFFC else 0xFFFFFFFF := by
    unfold msixMask
    rw [if_neg (by omega : ¬2 * k % 4 = 3)]
    exact if_congr (by omega) rfl rfl
  have hodd : msixMask (2 * k + 1) = if k % 2 = 0 then 0xFFFFFFFF else 1 := by
    unfold msixMask
    rw [if_neg (by omega : ¬(2 * k + 1) % 4 = 0), if_congr (by omega : (2 * k + 1) % 4 = 3 ↔ ¬k % 2 = 0) rfl rfl, ite_not]
  show FMap.getD (tableWith s.host.msix k data) i _ = _
  rw [tableWith, low_word, high_word, heven, hodd, getD_set, getD_set]
  by_cases h0 : i = 2 * k
  · rw [if_neg (by omega), if_pos h0, if_pos h0]
  · rw [if_neg h0, if_neg h0]
    rfl

end Sys2Proof.Proofs
end

section
/-! New requests held while ports come into use or leave it (R25), and HOST_LOCK and LINK_EMIT over all ports (R37, R38). -/

namespace Sys2Proof.Proofs

open Sys2Proof Sys2Proof.Machine Sys2Proof.Laws

/-! ## Targets held -/

/-- New requests are held in `t` for the targets of which a port of `moved` is a candidate, and for no others that `s` does not hold (R25). -/
structure HoldsFor (s t : State) (moved : Nat → Prop) : Prop where
  kept : ∀ m v, FMap.find s.routePending m = some v → FMap.find t.routePending m = some v
  held : ∀ m e p, FMap.find s.fabRoute m = some e → moved p → p ∈ routeCandidates e → (FMap.find t.routePending m).isSome = true
  only : ∀ m v, FMap.find t.routePending m = some v →
    FMap.find s.routePending m = some v ∨ ((m, v) ∈ s.fabRoute ∧ ∃ p, moved p ∧ p ∈ routeCandidates v)

theorem HoldsFor.none {s t : State} (h : t.routePending = s.routePending) {moved : Nat → Prop} (hm : ∀ p, ¬moved p) : HoldsFor s t moved :=
  ⟨fun _ _ hf => by rwa [h], fun _ _ p _ hp => absurd hp (hm p), fun _ _ hf => .inl (by rwa [h] at hf)⟩

theorem HoldsFor.congr {s t : State} {moved other : Nat → Prop} (h : HoldsFor s t moved) (hm : ∀ p, moved p ↔ other p) : HoldsFor s t other := by
  obtain rfl : moved = other := funext fun p => propext (hm p)
  exact h

theorem HoldsFor.trans {s t u : State} {a b : Nat → Prop} (h : HoldsFor s t a) (k : HoldsFor t u b) (hr : t.fabRoute = s.fabRoute) :
    HoldsFor s u (fun p => a p ∨ b p) := by
  refine ⟨fun m v hf => k.kept m v (h.kept m v hf), fun m e p hf hp hc => ?_, fun m v hf => ?_⟩
  · obtain ha | hb := hp
    · obtain ⟨v, hv⟩ := Option.isSome_iff_exists.1 (h.held m e p hf ha hc)
      rw [k.kept m v hv]
      rfl
    · exact k.held m e p (by rwa [hr]) hb hc
  · obtain ht | ⟨hmem, p, hp, hc⟩ := k.only m v hf
    · obtain hs | ⟨hmem, p, hp, hc⟩ := h.only m v ht
      · exact .inl hs
      · exact .inr ⟨hmem, p, .inl hp, hc⟩
    · exact .inr ⟨hr ▸ hmem, p, .inr hp, hc⟩

/-- One entry of FAB_ROUTE looked at for a port. -/
def holdEntry (p : Nat) (m : FMap Nat (BitVec 32)) (e : Nat × BitVec 32) : FMap Nat (BitVec 32) :=
  if (routeCandidates e.2).contains p && (FMap.find m e.1).isNone then FMap.set m e.1 e.2 else m

theorem find_holdEntry (p : Nat) (m : FMap Nat (BitVec 32)) (e : Nat × BitVec 32) (k : Nat) : FMap.find (holdEntry p m e) k =
    if p ∈ routeCandidates e.2 ∧ FMap.find m k = none ∧ k = e.1 then some e.2 else FMap.find m k := by
  by_cases h : p ∈ routeCandidates e.2 ∧ FMap.find m e.1 = none
  · have hset : holdEntry p m e = FMap.set m e.1 e.2 := if_pos (by simp [h])
    rw [hset]
    by_cases hk : k = e.1
    · subst hk
      rw [find_set_same, if_pos ⟨h.1, h.2, rfl⟩]
    · rw [find_set_other m e.2 hk, if_neg (fun hc => hk hc.2.2)]
  · have hkeep : holdEntry p m e = m := if_neg (by simpa using h)
    rw [hkeep, if_neg]
    rintro ⟨hc, hn, rfl⟩
    exact h ⟨hc, hn⟩

theorem find_holdEntries_kept (p : Nat) (es : List (Nat × BitVec 32)) (m : FMap Nat (BitVec 32)) (k : Nat) (v : BitVec 32)
    (h : FMap.find m k = some v) : FMap.find (es.foldl (holdEntry p) m) k = some v := by
  induction es generalizing m with
  | nil => exact h
  | cons e es ih => exact ih _ (by rw [find_holdEntry, h]; simp)

theorem find_holdEntries_held (p : Nat) (es : List (Nat × BitVec 32)) (m : FMap Nat (BitVec 32)) (k : Nat) (v : BitVec 32)
    (hmem : (k, v) ∈ es) (hc : p ∈ routeCandidates v) : (FMap.find (es.foldl (holdEntry p) m) k).isSome = true := by
  induction es generalizing m with
  | nil => simp at hmem
  | cons e es ih =>
    obtain rfl | hmem := List.mem_cons.1 hmem
    · have hsome : ∃ w, FMap.find (holdEntry p m (k, v)) k = some w := by
        rw [find_holdEntry]
        cases hf : FMap.find m k with
        | none => exact ⟨v, if_pos ⟨hc, rfl, rfl⟩⟩
        | some w => exact ⟨w, if_neg (by simp)⟩
      obtain ⟨w, hw⟩ := hsome
      rw [List.foldl_cons, find_holdEntries_kept p es _ k w hw]
      rfl
    · exact ih _ hmem

theorem find_holdEntries_only (p : Nat) (es : List (Nat × BitVec 32)) (m : FMap Nat (BitVec 32)) (k : Nat) (v : BitVec 32)
    (h : FMap.find (es.foldl (holdEntry p) m) k = some v) : FMap.find m k = some v ∨ ((k, v) ∈ es ∧ p ∈ routeCandidates v) := by
  induction es generalizing m with
  | nil => exact .inl h
  | cons e es ih =>
    obtain hfirst | ⟨hmem, hc⟩ := ih _ h
    · rw [find_holdEntry] at hfirst
      split_ifs at hfirst with hc
      · obtain ⟨hcand, -, rfl⟩ := hc
        obtain rfl := Option.some.inj hfirst
        exact .inr ⟨List.mem_cons_self .., hcand⟩
      · exact .inl hfirst
    · exact .inr ⟨List.mem_cons_of_mem _ hmem, hc⟩

theorem mem_of_find {κ α : Type} [DecidableEq κ] {m : FMap κ α} {k : κ} {v : α} (h : FMap.find m k = some v) : (k, v) ∈ m := by
  induction m with
  | nil => simp [FMap.find] at h
  | cons e t ih =>
    obtain ⟨a, b⟩ := e
    rw [FMap.find] at h
    split_ifs at h with hk
    · subst hk
      obtain rfl := Option.some.inj h
      exact List.mem_cons_self ..
    · exact List.mem_cons_of_mem _ (ih h)

theorem holdsFor_holdTargets (s : State) (p : Nat) : HoldsFor s (s.holdTargets p) (fun q => q = p) := by
  have hpending : (s.holdTargets p).routePending = s.fabRoute.foldl (holdEntry p) s.routePending := rfl
  refine ⟨fun m v hf => ?_, fun m e q hf hq hc => ?_, fun m v hf => ?_⟩
  · rw [hpending]
    exact find_holdEntries_kept p _ _ m v hf
  · rw [hpending]
    exact find_holdEntries_held p _ _ m e (mem_of_find hf) (hq ▸ hc)
  · rw [hpending] at hf
    obtain h | ⟨hmem, hc⟩ := find_holdEntries_only p _ _ m v hf
    · exact .inl h
    · exact .inr ⟨hmem, p, rfl, hc⟩

/-! ## One operation on a port after another -/

/-- An operation of a port that holds its targets where `moves` says so of the host block and the port. -/
theorem foldl_holds {op : State → Nat → State} {f : HostRegs → Port → Port} {moves : HostRegs → Port → Prop}
    (k : ∀ u p, Becomes p u (f u.host (u.port p)) (op u p)) (hr : ∀ u p, FabricOnly u (op u p))
    (hh : ∀ u p, HoldsFor u (op u p) (fun q => q = p ∧ moves u.host (u.port p))) (l : List Nat) (hl : l.Nodup) (s : State) :
    HoldsFor s (l.foldl op s) (fun q => q ∈ l ∧ moves s.host (s.port q)) := by
  induction l generalizing s with
  | nil => exact .none rfl (by simp)
  | cons a l ih =>
    obtain ⟨ha, hl⟩ := List.nodup_cons.1 hl
    obtain ⟨-, hother, -, -, hhost⟩ := k s a
    have hroute : (op s a).fabRoute = s.fabRoute := by rw [hr s a]
    refine ((hh s a).trans (ih hl (op s a)) hroute).congr (fun q => ?_)
    rw [hhost, List.mem_cons]
    by_cases hq : q = a
    · subst hq
      simp [ha]
    · rw [hother q hq]
      simp [hq]

theorem holdsFor_setPort {s t : State} {moved : Nat → Prop} (h : HoldsFor s t moved) (p : Nat) (x : Port) : HoldsFor s (t.setPort p x) moved :=
  ⟨h.kept, h.held, h.only⟩

theorem holdsFor_raisePort (s : State) (p : Nat) :
    HoldsFor s (s.raisePort p) (fun q => q = p ∧ ((s.port p).state == portTraining && (s.port p).trained && s.host.lock) = true) := by
  by_cases h : ((s.port p).state == portTraining && (s.port p).trained && s.host.lock) = true
  · rw [show s.raisePort p = (s.holdTargets p).setPort p _ from if_pos h]
    exact (holdsFor_setPort (holdsFor_holdTargets s p) p _).congr (fun q => by simp [h])
  · rw [show s.raisePort p = s from if_neg h]
    exact .none rfl (fun _ hq => h hq.2)

theorem holdsFor_drainPort (s : State) (p : Nat) : HoldsFor s (s.drainPort p) (fun q => q = p ∧ (s.port p).carries = true) := by
  by_cases h : (s.port p).carries = true
  · rw [show s.drainPort p = (s.holdTargets p).setPort p _ from if_pos h]
    exact (holdsFor_setPort (holdsFor_holdTargets s p) p _).congr (fun q => by simp [h])
  · rw [show s.drainPort p = s.setPort p _ from if_neg h]
    exact holdsFor_setPort (.none rfl (fun _ hq => h hq.2)) p _

theorem routePending_trainPorts (l : List Nat) (s : State) : (l.foldl State.trainPort s).routePending = s.routePending := by
  induction l generalizing s with
  | nil => rfl
  | cons p l ih =>
    refine (ih _).trans ?_
    unfold State.trainPort
    dsimp only
    split_ifs <;> rfl

/-! ## HOST_LOCK and LINK_EMIT -/

theorem mem_allPorts (p : Nat) : p ∈ allPorts ↔ p < 96 := List.mem_range

theorem nodup_allPorts : allPorts.Nodup := List.nodup_range

/-- HOST_LOCK set: every trained port is raised (R21, R37). -/
theorem setLock_ports (s : State) :
    (∀ p, s.setLock.port p = if p < 96 then raised true (s.port p) else s.port p) ∧
    HoldsFor s s.setLock (fun p => p < 96 ∧ (s.port p).state = portTraining ∧ (s.port p).trained = true) ∧
    s.setLock = { s with host := { s.host with lock := true }, ports := s.setLock.ports, routePending := s.setLock.routePending } := by
  obtain ⟨hp, -⟩ := foldl_ports (f := fun h x => raised h.lock x) becomes_raisePort allPorts nodup_allPorts (withHost s { s.host with lock := true })
  have hh := foldl_holds (f := fun h x => raised h.lock x)
    (moves := fun h x => (x.state == portTraining && x.trained && h.lock) = true) becomes_raisePort fabricOnly_raisePort holdsFor_raisePort
    allPorts nodup_allPorts (withHost s { s.host with lock := true })
  refine ⟨fun p => ?_, ?_, FabricOnly.foldl fabricOnly_raisePort allPorts (withHost s { s.host with lock := true })⟩
  · exact (hp p).trans (if_congr (mem_allPorts p) rfl rfl)
  · obtain ⟨hk, hheld, honly⟩ := hh.congr (other := fun p => p < 96 ∧ (s.port p).state = portTraining ∧ (s.port p).trained = true)
      (fun p => by
        rw [mem_allPorts]
        show p < 96 ∧ ((s.port p).state == portTraining && (s.port p).trained && true) = true ↔ _
        simp)
    exact ⟨hk, hheld, honly⟩

/-- LINK_EMIT set: every enabled port that is OFF trains, and no target is held (R38). -/
theorem setEmit_on (s : State) :
    (∀ p, (s.setEmit true).port p = if p < 96 then startTraining true (s.port p) else s.port p) ∧
    (s.setEmit true).routePending = s.routePending ∧
    s.setEmit true = { s with host := { s.host with emit := true }, ports := (s.setEmit true).ports, routePending := (s.setEmit true).routePending } := by
  obtain ⟨hp, -⟩ := foldl_ports (f := fun h x => startTraining h.emit x) becomes_trainPort allPorts nodup_allPorts (withHost s { s.host with emit := true })
  exact ⟨fun p => (hp p).trans (if_congr (mem_allPorts p) rfl rfl), routePending_trainPorts allPorts (withHost s { s.host with emit := true }),
    FabricOnly.foldl fabricOnly_trainPort allPorts (withHost s { s.host with emit := true })⟩

/-- LINK_EMIT cleared: every port is taken out of use (R28, R38). -/
theorem setEmit_off (s : State) :
    (∀ p, (s.setEmit false).port p = if p < 96 then takenOut (s.port p) else s.port p) ∧
    HoldsFor s (s.setEmit false) (fun p => p < 96 ∧ (s.port p).carries = true) ∧
    s.setEmit false = { s with host := { s.host with emit := false }, ports := (s.setEmit false).ports, routePending := (s.setEmit false).routePending } := by
  obtain ⟨hp, -⟩ := foldl_ports (f := fun _ x => takenOut x) becomes_drainPort allPorts nodup_allPorts (withHost s { s.host with emit := false })
  obtain ⟨hk, hheld, honly⟩ := (foldl_holds (f := fun _ x => takenOut x) (moves := fun _ x => x.carries = true) becomes_drainPort fabricOnly_drainPort
    holdsFor_drainPort allPorts nodup_allPorts (withHost s { s.host with emit := false })).congr
      (other := fun p => p < 96 ∧ (s.port p).carries = true) (fun p => and_congr (mem_allPorts p) Iff.rfl)
  exact ⟨fun p => (hp p).trans (if_congr (mem_allPorts p) rfl rfl), ⟨hk, hheld, honly⟩,
    FabricOnly.foldl fabricOnly_drainPort allPorts (withHost s { s.host with emit := false })⟩

end Sys2Proof.Proofs
end

section
/-! What a host write does to each kind of register (R35, R37 to R42, R51, R54, R76, R291). -/

namespace Sys2Proof.Proofs

open Sys2Proof Sys2Proof.Machine Sys2Proof.Laws

theorem bar0Read_withHost {s : State} (hrdy : s.boot.ready = true) (hrec : s.boot.recovery = false) (h : HostRegs) (off : Nat) :
    (withHost s h).bar0Read off = (withHost s h).bar0Word off := bar0Read_running (s := withHost s h) hrdy hrec off

/-! ## The windows' registers -/

theorem bar0Apply_window (s : State) {off : Nat} (hlow : 0x2000 ≤ off) (hhigh : off < 0x2100) (data : Word) :
    s.bar0Apply off (BitVec.allOnes 64) data = s.unlessLocked off
      (if off / 8 % 2 = 0 then withHost s { s.host with hmwBase := FMap.set s.host.hmwBase ((off - 0x2000) / 16) (data &&& hmwBaseMask) }
       else withHost s { s.host with hmwLimit := FMap.set s.host.hmwLimit ((off - 0x2000) / 16) (data &&& hmwLimitMask) }) := by
  rw [State.bar0Apply, if_pos ⟨hlow, hhigh⟩, merged_allOnes]
  rfl

theorem bar0Word_window (s : State) {off : Nat} (hlow : 0x2000 ≤ off) (hhigh : off < 0x2100) : s.bar0Word off =
    if off / 8 % 2 = 0 then FMap.getD s.host.hmwBase ((off - 0x2000) / 16) 0 else FMap.getD s.host.hmwLimit ((off - 0x2000) / 16) 0 :=
  if_pos ⟨hlow, hhigh⟩

theorem bar0Apply_fabInb (s : State) {k : Nat} (hk : k < 128) (data : Word) :
    s.bar0Apply (0x102000 + 8 * k) (BitVec.allOnes 64) data = { s with fabInb := FMap.set s.fabInb k data } := by
  have hi : (0x102000 + 8 * k - 0x102000) / 8 = k := by omega
  rw [State.bar0Apply, if_neg (by omega), if_neg (by omega), if_neg (by omega), if_pos (by omega), hi, merged_allOnes]

theorem bar0Word_fabInb (s : State) {k : Nat} (hk : k < 128) : s.bar0Word (0x102000 + 8 * k) = FMap.getD s.fabInb k 0 := by
  have hi : (0x102000 + 8 * k - 0x102000) / 8 = k := by omega
  rw [State.bar0Word, if_neg (by omega), if_neg (by omega), if_neg (by omega), if_pos (by omega), hi]

/-! ## Semaphores (R76) -/

theorem bar0Apply_sem (s : State) {i : Nat} (hi : i < 4096) (mask data : Word) : s.bar0Apply (0x200000 + 8 * i) mask data =
    if mask = BitVec.allOnes 64 then s.setSem i (s.sem i + data) else s := by
  have hidx : (0x200000 + 8 * i - 0x200000) / 8 = i := by omega
  rw [State.bar0Apply, if_neg (by omega), if_neg (by omega), if_neg (by omega), if_neg (by omega), if_neg (by omega), if_pos (by omega), hidx]

theorem halfMask_ne_allOnes {h : Nat} (hh : h < 2) : halfMask h ≠ BitVec.allOnes 64 := by
  have hcase : h = 0 ∨ h = 1 := by omega
  obtain rfl | rfl := hcase <;> decide

/-! ## Attestation requested (R54) -/

theorem attMiss_eq_none_iff (s : State) : s.attMiss = none ↔ ∀ i < 560, s.host.granted (s.host.attAddr.toNat + i) false true = true := by
  simp [State.attMiss, reportLen]

theorem attAddrOk_iff (s : State) : s.attAddrOk = true ↔
    s.host.attAddr.toNat % 16 = 0 ∧ ∀ i < 560, s.host.granted (s.host.attAddr.toNat + i) false true = true := by
  rw [State.attAddrOk, Bool.and_eq_true, Option.isNone_iff_eq_none, attMiss_eq_none_iff, beq_iff_eq]

/-- The bits of ATT_CTL that ones clear, cleared. -/
def attCleared (s : State) (data : Word) : State :=
  withHost s { s.host with attDone := s.host.attDone && !bitAt data 1, attErr := s.host.attErr && !bitAt data 2 }

/-- What a write of ATT_CTL with GO makes of a running module. -/
theorem attControl_go {s : State} (hrdy : s.boot.ready = true) {data : Word} (hgo : bitAt data 0 = true) : s.attControl data =
    if s.host.attGo = true then withHost s { (attCleared s data).host with attErr := true }
    else if s.attAddrOk = true then withHost s { (attCleared s data).host with attGo := true }
    else (attCleared s data).attFail := by
  simp only [State.attControl, hgo, hrdy, Bool.not_true, Bool.false_eq_true, if_false, Bool.false_or, Bool.not_eq_true', ite_not,
    ← Bool.not_eq_true]
  split_ifs <;> rfl

/-! ## HOST_LOCK and LINK_EMIT written -/

theorem controlWrite_lock_kept {s : State} {w1 : Word} (h : (s.host.lock || !bitAt w1 0) = true) (mask new : Word) :
    s.controlWrite 0x1000 mask new w1 = s := if_pos h

theorem controlWrite_lock_set {s : State} {w1 : Word} (h : ¬(s.host.lock || !bitAt w1 0) = true) (mask new : Word) :
    s.controlWrite 0x1000 mask new w1 = s.setLock := if_neg h

theorem controlWrite_emit (s : State) (new w1 : Word) :
    s.controlWrite 0x1008 (BitVec.allOnes 64) new w1 = s.unlessLocked 0x1008 (s.setEmit (bitAt new 0)) := by
  have h : bitAt (BitVec.allOnes 64) 0 = true := by decide
  exact (if_pos h : (if bitAt (BitVec.allOnes 64) 0 = true then s.unlessLocked 0x1008 (s.setEmit (bitAt new 0)) else s) = _)

/-! ## The statement -/

section
variable {s : State} (hpow : s.boot.powered = true) (hrdy : s.boot.ready = true) (hrec : s.boot.recovery = false)
include hpow hrdy hrec

theorem window_base {k : Nat} (hk : k < 16) (data : Word) : Completes (.bar0RegisterWrite (0x2000 + 16 * k) 8 data) s (fun t =>
    if s.host.lock then t = { s with log := .lockedWrite (0x2000 + 16 * k) :: s.log } else
      t.bar0Read (0x2000 + 16 * k) = data &&& 0x000FFFFFFFFFF007 ∧ t = { s with host := t.host }) := by
  have heven : (0x2000 + 16 * k) / 8 % 2 = 0 := by omega
  refine ⟨_, write_file hpow hrdy hrec data (by omega) (by omega), ?_⟩
  rw [bar0Apply_window s (by omega) (by omega), if_pos heven, State.unlessLocked]
  split_ifs with hl
  · rfl
  · refine ⟨(bar0Read_withHost hrdy hrec _ _).trans ?_, rfl⟩
    rw [bar0Word_window _ (by omega) (by omega), if_pos heven]
    exact getD_set_same _ _ _ _

theorem window_limit {k : Nat} (hk : k < 16) (data : Word) : Completes (.bar0RegisterWrite (0x2008 + 16 * k) 8 data) s (fun t =>
    if s.host.lock then t = { s with log := .lockedWrite (0x2008 + 16 * k) :: s.log } else
      t.bar0Read (0x2008 + 16 * k) = data &&& 0x000FFFFFFFFFF000 ∧ t = { s with host := t.host }) := by
  have hodd : ¬(0x2008 + 16 * k) / 8 % 2 = 0 := by omega
  refine ⟨_, write_file hpow hrdy hrec data (by omega) (by omega), ?_⟩
  rw [bar0Apply_window s (by omega) (by omega), if_neg hodd, State.unlessLocked]
  split_ifs with hl
  · rfl
  · refine ⟨(bar0Read_withHost hrdy hrec _ _).trans ?_, rfl⟩
    rw [bar0Word_window _ (by omega) (by omega), if_neg hodd]
    exact getD_set_same _ _ _ _

theorem vector_table {k : Nat} (hk : k < 128) (data : Word) : Completes (.bar0RegisterWrite (0x300000 + 8 * k) 8 data) s (fun t =>
    (∀ i, t.host.msixWord i = if i = 2 * k then data.setWidth 32 &&& (if k % 2 = 0 then 0xFFFFFFFC else 0xFFFFFFFF)
      else if i = 2 * k + 1 then (data >>> 32).setWidth 32 &&& (if k % 2 = 0 then 0xFFFFFFFF else 1) else s.host.msixWord i) ∧
    (∀ v < 64, bitAt t.host.msixPending v = (bitAt s.host.msixPending v && bitAt (t.host.msixWord (4 * v + 3)) 0)) ∧
    t.regs = s.regs ∧ t.ctxs = s.ctxs ∧ t.boot = s.boot) := by
  have hsig := signals_settleVectors (tableWritten s k data) (List.range 64)
  refine ⟨_, write_file hpow hrdy hrec data (by omega) (by omega), ?_⟩
  rw [bar0Apply_msix s hk data]
  refine ⟨fun i => (hsig.msix i).trans (msixWord_tableWritten s k data i), fun v hv => ?_, ?_⟩
  · rw [pending_settleVectors _ _ _ hv, hsig.msix]
    simp only [List.mem_range, hv, not_true_eq_false, decide_false, Bool.false_or]
    rfl
  · unfold Signals at hsig
    rw [hsig]
    exact ⟨rfl, rfl, rfl⟩

/-- HOST_LOCK written (R21, R37). -/
theorem hostLock_completes (data : Word) : Completes (.hostLock data) s (fun t =>
    t = { s with host := { s.host with lock := t.host.lock }, ports := t.ports, routePending := t.routePending } ∧
    t.host.lock = (s.host.lock || bitAt data 0) ∧
    HoldsFor s t (fun p => p < 96 ∧ s.host.lock = false ∧ bitAt data 0 = true ∧ (s.port p).state = portTraining ∧ (s.port p).trained = true) ∧
    ∀ p, t.port p = if p < 96 ∧ s.host.lock = false ∧ bitAt data 0 = true ∧ (s.port p).state = portTraining ∧ (s.port p).trained = true
      then { s.port p with state := if (s.port p).lanes = 3 then portUp else portDegraded } else s.port p) := by
  refine ⟨_, write_control hpow hrdy hrec data (.inl (by decide)) rfl, ?_⟩
  by_cases h : (s.host.lock || !bitAt data 0) = true
  · rw [controlWrite_lock_kept h]
    have hno : ∀ p, ¬(p < 96 ∧ s.host.lock = false ∧ bitAt data 0 = true ∧ (s.port p).state = portTraining ∧ (s.port p).trained = true) := by
      rintro p ⟨-, hl, hd, -⟩
      simp [hl, hd] at h
    refine ⟨rfl, ?_, .none rfl hno, fun p => (if_neg (hno p)).symm⟩
    cases hl : s.host.lock <;> simp_all
  · rw [controlWrite_lock_set h]
    simp only [Bool.or_eq_true, Bool.not_eq_true', not_or, Bool.not_eq_true, Bool.not_eq_false] at h
    obtain ⟨hl, hd⟩ := h
    obtain ⟨hport, hholds, hframe⟩ := setLock_ports s
    have hlock : s.setLock.host.lock = true := by rw [hframe]
    simp only [hl, hd, true_and]
    refine ⟨by rw [hlock]; exact hframe, hlock, hholds, fun p => ?_⟩
    rw [hport]
    by_cases hp : p < 96
    · simp [hp, raised]
    · simp [hp]

/-- LINK_EMIT written (R28, R38). -/
theorem linkEmit_completes (data : Word) : Completes (.linkEmit data) s (fun t =>
    if s.host.lock then t = { s with log := .lockedWrite 0x1008 :: s.log } else
    t = { s with host := { s.host with emit := bitAt data 0 }, ports := t.ports, routePending := t.routePending } ∧
    HoldsFor s t (fun p => p < 96 ∧ bitAt data 0 = false ∧ ((s.port p).state = portUp ∨ (s.port p).state = portDegraded)) ∧
    ∀ p, let x := s.port p
      t.port p = if 96 ≤ p then x
        else if bitAt data 0 then
          (if x.en = true ∧ x.state = portOff then { x with state := portTraining, lanes := 0, trained := false, outLanes := 0, draining := false } else x)
        else if x.state = portUp ∨ x.state = portDegraded then { x with draining := true }
        else { x with state := portOff, lanes := 0, trained := false, retrain := false }) := by
  refine ⟨_, write_control hpow hrdy hrec data (.inl (by decide)) rfl, ?_⟩
  rw [controlWrite_emit, State.unlessLocked]
  by_cases hl : s.host.lock = true
  · simp only [if_pos hl]
  · simp only [if_neg hl]
    cases hd : bitAt data 0 with
    | true =>
      obtain ⟨hport, hpend, hframe⟩ := setEmit_on s
      refine ⟨hframe, .none hpend (by simp), fun p => ?_⟩
      rw [hport]
      by_cases hp : p < 96
      · simp [hp, Nat.not_le.2 hp, startTraining]
      · simp [hp, Nat.not_lt.1 hp]
    | false =>
      obtain ⟨hport, hholds, hframe⟩ := setEmit_off s
      refine ⟨hframe, hholds.congr (fun p => by simp [Port.carries]), fun p => ?_⟩
      rw [hport]
      by_cases hp : p < 96
      · simp [hp, Nat.not_le.2 hp, takenOut, Port.carries]
      · simp [hp, Nat.not_lt.1 hp]

/-- An attestation requested (R41, R54). -/
theorem attestationRequest_completes {data : Word} (hgo : bitAt data 0 = true) : Completes (.attestationRequest data) s (fun t =>
    let ok := s.host.attGo = false ∧ s.host.attAddr.toNat % 16 = 0 ∧ ∀ i < 560, s.host.granted (s.host.attAddr.toNat + i) false true = true
    t = { s with host := { s.host with attGo := t.host.attGo, attDone := t.host.attDone, attErr := t.host.attErr }, log := t.log } ∧
    (s.host.attGo = true ∨ s.attMiss = none → t.log = s.log) ∧
    (s.host.attGo = false → ∀ a, s.attMiss = some a → t.log = .windowMiss a :: s.log) ∧
    (ok → t.host.attGo = true ∧ t.host.attErr = (s.host.attErr && !bitAt data 2)) ∧
    (¬ok → t.host.attGo = s.host.attGo ∧ t.host.attErr = true) ∧ t.host.attDone = (s.host.attDone && !bitAt data 1)) := by
  refine ⟨_, (if_pos hgo : exec (.attestationRequest data) s = _).trans (write_control hpow hrdy hrec data (.inr (by decide)) rfl), ?_⟩
  rw [show s.controlWrite 0x3028 (BitVec.allOnes 64) data data = s.attControl data from rfl, attControl_go hrdy hgo, ← attAddrOk_iff]
  have hmiss : (attCleared s data).attMiss = s.attMiss := rfl
  cases hatt : s.host.attGo with
  | true =>
    rw [if_pos rfl]
    exact ⟨by rw [← hatt]; rfl, fun _ => rfl, by simp, by simp, fun _ => ⟨hatt, rfl⟩, rfl⟩
  | false =>
    rw [if_neg (by decide)]
    split_ifs with hok
    · have hnone : s.attMiss = none := (attMiss_eq_none_iff s).2 ((attAddrOk_iff s).1 hok).2
      exact ⟨rfl, fun _ => rfl, fun _ a ha => by simp [hnone] at ha, fun _ => ⟨rfl, rfl⟩, by simp [hok], rfl⟩
    · cases hm : s.attMiss with
      | none =>
        rw [State.attFail, hmiss, hm]
        exact ⟨rfl, fun _ => rfl, by simp, by simp [hok], fun _ => ⟨rfl, rfl⟩, rfl⟩
      | some a =>
        rw [State.attFail, hmiss, hm]
        refine ⟨rfl, by simp, fun _ b hb => ?_, by simp [hok], fun _ => ⟨rfl, rfl⟩, rfl⟩
        obtain rfl := Option.some.inj hb
        rfl

end

/-- Settles O44: a write is refused, or is the operation that its register's offset names. -/
theorem hostRegisterWrites : Obligations.HostRegisterWrites := by
  unfold Obligations.HostRegisterWrites
  intro s data write refused holds
  have hholds : ∀ {t : State} {moved : Nat → Prop}, HoldsFor s t moved → holds t moved := fun h => ⟨h.kept, h.held, h.only⟩
  refine ⟨fun off size h => ⟨_, rfl, bar0Write_unanswered size data h⟩, fun off size hpow hoff h => ⟨_, rfl, bar0Write_unsupported data hpow hoff h⟩,
    fun off size hpow hoff hsize halign h => ⟨_, rfl, bar0Write_refused data hpow hoff hsize halign ?_⟩,
    ⟨rfl, rfl, rfl, rfl, fun h => if_pos h, fun h => if_pos h, fun h => ⟨if_pos h, if_pos h⟩, fun i hi => if_pos hi⟩, fun hpow hrdy hrec => ?_⟩
  · obtain ⟨hr, hn⟩ | ⟨hr, hrec, hn⟩ := h
    · exact bar0Writes_starting hr hn
    · exact Bool.eq_false_of_not_eq_true (fun hc => hn ((bar0Writes_recovery hr hrec _).1 hc))
  · have hword {off : Nat} (hoff : StandsAlone off) (halign : off % 8 = 0) := write_control hpow hrdy hrec data hoff halign
    refine ⟨fun x hx => ⟨plain_word hpow hrdy hrec (plainRegisters x hx) data, fun h hh => plain_half hpow hrdy hrec (plainRegisters x hx) data hh⟩,
      ?_, fun k hk => ?_, fun k hk => ?_, fun k hk => vector_table hpow hrdy hrec hk data,
      ⟨_, hword (.inl (by decide)) rfl, rfl⟩, ⟨_, hword (.inl (by decide)) rfl, rfl⟩, ⟨_, hword (.inr (by decide)) rfl, _, rfl, rfl⟩,
      fun i hi h hh => ?_, fun k hk => window_base hpow hrdy hrec hk data, fun k hk => window_limit hpow hrdy hrec hk data,
      ⟨_, hword (.inr (by decide)) rfl, rfl⟩, ?_, ?_, ⟨_, hword (.inl (by decide)) rfl, ?_⟩, fun i hi v => ?_,
      ⟨_, hword (.inr (by decide)) rfl, _, rfl, ?_, rfl, rfl, ?_⟩, fun hgo => attestationRequest_completes hpow hrdy hrec hgo⟩
    · simp only [List.forall_mem_cons]
      exact ⟨⟨_, hword (.inl (by decide)) rfl, rfl⟩, ⟨_, hword (.inl (by decide)) rfl, rfl⟩, ⟨_, hword (.inl (by decide)) rfl, rfl⟩,
        ⟨_, hword (.inl (by decide)) rfl, rfl⟩, ⟨_, hword (.inr (by decide)) rfl, rfl⟩, ⟨_, hword (.inr (by decide)) rfl, rfl⟩, by simp⟩
    · refine ⟨_, write_file hpow hrdy hrec data (by omega) (by omega), ?_⟩
      rw [bar0Apply_fabInb s hk]
      refine ⟨?_, rfl⟩
      rw [bar0Read_running (s := { s with fabInb := FMap.set s.fabInb k data }) hrdy hrec, bar0Word_fabInb _ hk]
      exact getD_set_same _ _ _ _
    · refine ⟨_, write_file hpow hrdy hrec data (by omega) (by omega), ?_⟩
      rw [bar0Apply_nonce s hk]
      obtain ⟨hsame, hother⟩ := nonce_written (s := s) (t := withHost s { s.host with attNonce := putLe s.host.nonceBytes (8 * k) 8 data.toNat })
        hk data rfl
      refine ⟨(bar0Read_withHost hrdy hrec _ _).trans hsame, fun j hj hjk => ?_, rfl⟩
      exact ((bar0Read_withHost hrdy hrec _ _).trans (hother j hj hjk)).trans (bar0Read_running hrdy hrec _).symm
    · refine ⟨_, congrArg Host.Outcome.next (bar0Write_half data hpow (by omega) (by omega) hh (bar0Writes_running hrdy hrec _)), ?_⟩
      rw [bar0Apply_sem s hi, if_neg (halfMask_ne_allOnes hh)]
    · obtain ⟨t, he, hf, hl, hh, hp⟩ := hostLock_completes hpow hrdy hrec data
      exact ⟨t, he, hf, hl, hholds hh, hp⟩
    · obtain ⟨t, he, ht⟩ := linkEmit_completes hpow hrdy hrec data
      refine ⟨t, he, ?_⟩
      by_cases hl : s.host.lock = true
      · rw [if_pos hl] at ht ⊢
        exact ht
      · rw [if_neg hl] at ht ⊢
        obtain ⟨hf, hh, hp⟩ := ht
        exact ⟨hf, hholds hh, hp⟩
    · show (if 32 < data.toNat % 64 then s else _) = _
      by_cases h : data.toNat % 64 ≤ 32
      · rw [if_neg (by omega), if_pos h]
      · rw [if_pos (by omega), if_neg h]
    · have hexec : exec (.hostSemaphoreAdd i v) s = .next (s.bar0Write (0x200000 + 8 * i) 8 v) := if_pos hi
      have hwrite : exec (.bar0RegisterWrite (0x200000 + 8 * i) 8 v) s = _ := write_file hpow hrdy hrec v (by omega) (by omega)
      refine ⟨_, hexec.trans hwrite, ?_⟩
      rw [bar0Apply_sem s hi, if_pos rfl]
    · exact toNat_ofNat_field data 47 8 rfl
    · exact toNat_ofNat_field data 5 4 rfl

end Sys2Proof.Proofs
end

section
/-! What an access of a unit of the device may change (R147, R193, R198, R203): memory and its records, what waits for it, and requests of
the fabric. -/

namespace Sys2Proof.Proofs

open Sys2Proof Sys2Proof.Machine Sys2Proof.Laws

/-- `t` differs from `s` in memory and its records, in the lines and maps that an access waits for, in error logs, and in the fabric's
requests and what a failed one notes alone. -/
def Accesses (s t : State) : Prop :=
  t = { s with
    mem := t.mem, poison := t.poison, hist := t.hist, floors := t.floors, writeSeq := t.writeSeq, freeCount := t.freeCount, nextId := t.nextId
    wgs := t.wgs, cmds := t.cmds, ports := t.ports, fabReqs := t.fabReqs, emptyLines := t.emptyLines, errLogs := t.errLogs
    errInjs := t.errInjs, log := t.log, vbd := t.vbd }

theorem Accesses.refl (s : State) : Accesses s s := rfl

theorem Accesses.trans {s t u : State} (h : Accesses s t) (k : Accesses t u) : Accesses s u := by
  unfold Accesses at h k
  rw [h] at k
  exact k

theorem Accesses.ite {s t u : State} {c : Prop} [Decidable c] (h : Accesses s t) (k : Accesses s u) : Accesses s (if c then t else u) := by
  split_ifs
  · exact h
  · exact k

/-- A choice between two answers, each with its state. -/
theorem Accesses.ite_snd {α : Type} {s : State} {x y : α × State} {c : Prop} [Decidable c] (h : Accesses s x.2) (k : Accesses s y.2) :
    Accesses s (if c then x else y).2 := by
  split_ifs
  · exact h
  · exact k

theorem Serves.accesses {s t : State} (h : Serves s t) : Accesses s t := by
  unfold Serves at h
  rw [h]
  rfl

theorem Accesses.fields {s t : State} (h : Accesses s t) : t.ctxs = s.ctxs ∧ t.host = s.host ∧ t.regs = s.regs ∧ t.queues = s.queues := by
  unfold Accesses at h
  rw [h]
  exact ⟨rfl, rfl, rfl, rfl⟩

/-! ## Translation (R193, R198) -/

theorem accesses_choose (s : State) (n : Nat) : Accesses s (s.choose n).2 := rfl

theorem accesses_eccKept (s : State) (array key ctx : Nat) : Accesses s (s.eccKept array key ctx).2 :=
  .ite_snd (.refl s) (serves_eccRead s _ _ _ ctx).accesses

theorem accesses_entryUsed (s : State) (ctx va level ea : Nat) (k : AccKind) : Accesses s (s.entryUsed ctx va level ea k).2 := by
  unfold State.entryUsed
  split
  · exact .refl s
  · dsimp only
    split <;> rfl

theorem accesses_walk (s : State) (ctx va : Nat) (k : AccKind) (priv : Bool) (tier frame level fuel : Nat) :
    Accesses s (s.walk ctx va k priv tier frame level fuel).2 := by
  induction fuel generalizing s tier frame level with
  | zero => exact .refl s
  | succ fuel ih =>
    have hecc : Accesses s (s.eccWord (frameAt tier frame + 8 * levelIndex va level) ctx).2 := (serves_eccWord s _ ctx).accesses
    have hused := hecc.trans (accesses_entryUsed _ ctx va level (frameAt tier frame + 8 * levelIndex va level) k)
    rw [State.walk]
    refine .ite_snd (hecc.trans (serves_addPoison _ _ _).accesses) (.ite_snd hecc (.ite_snd hused (.ite_snd hused (.ite_snd ?_ (hused.trans (ih _ _ _ _))))))
    split <;> exact hused

theorem accesses_rootUsed (s : State) (ctx va : Nat) : Accesses s (s.rootUsed ctx va).2 := by
  unfold State.rootUsed
  split
  · exact .refl s
  · rfl

theorem accesses_translate (s : State) (ctx va : Nat) (k : AccKind) (priv : Bool) : Accesses s (s.translate ctx va k priv).2 :=
  .ite_snd (accesses_rootUsed s ctx va) ((accesses_rootUsed s ctx va).trans (accesses_walk _ _ _ _ _ _ _ _ _))

theorem accesses_resolve (s : State) (r : Req) (space : Nat) (a : Word) (n : Nat) (k : AccKind) : Accesses s (s.resolve r space a n k).2 := by
  unfold State.resolve
  split
  · exact .refl s
  · exact .refl s
  · rename_i va _
    have h := (accesses_eccKept s (arrayId 11 (s.translatorOf r)) (va / 4096) r.ctx).trans (accesses_translate _ r.ctx va k r.priv)
    unfold State.eccClean
    split <;> rename_i heq <;> rw [heq] at h <;> exact h

theorem accesses_touchSpot (s : State) (p : Spot) (write : Bool) : Accesses s (s.touchSpot p write) := by
  unfold State.touchSpot
  split
  · exact .ite (.refl s) rfl
  · exact .refl s

/-! ## What stands before an access (R31, R150, R154) -/

theorem accesses_prepLine (s : State) (r : Req) (x : Nat) : Accesses s (s.prepLine r x).2 := by
  refine .ite_snd ?_ (.ite_snd (.refl s) (.refl s))
  unfold State.startMapFill
  split
  · exact .refl s
  · rfl

theorem accesses_noteFailed (s : State) (who : Party) (addr : Word) : Accesses s (s.noteFailed who addr) := (serves_noteFailed s who addr).accesses

theorem accesses_sendFab (s : State) (who : Party) (thread : Option ThreadId) (op : Option WriteOp) (target off cmp len : Nat) :
    Accesses s (s.sendFab who thread op target off cmp len) := by
  unfold State.sendFab
  dsimp only
  exact Accesses.trans (.ite (accesses_noteFailed s who _) (.refl s)) rfl

theorem accesses_prepPeer (s : State) (r : Req) (op : Option WriteOp) (m off c n : Nat) : Accesses s (s.prepPeer r op m off c n).2 := by
  unfold State.prepPeer
  split
  · exact accesses_sendFab s _ _ _ _ _ _ _
  · exact .ite_snd (.refl s) (.refl s)

theorem accesses_prepSpot (s : State) (r : Req) (p : Spot) (n : Nat) (op : Option WriteOp) : Accesses s (s.prepSpot r p n op).2 := by
  have hchosen : Accesses s (if s.sliceFull p then (s.choose 2).2 else s) := .ite (accesses_choose s 2) (.refl s)
  refine .ite_snd (accesses_choose s 2) ?_
  generalize (if s.sliceFull p then (s.choose 2).2 else s) = u at hchosen ⊢
  dsimp only
  split
  · exact hchosen.trans (accesses_prepLine _ r _)
  · exact hchosen.trans (accesses_prepPeer _ r op _ _ _ n)
  · exact hchosen

theorem accesses_prepRead (s : State) (r : Req) (space : Nat) (a : Word) (n : Nat) (op : Option WriteOp) : Accesses s (s.prepRead r space a n op).2 := by
  have h := accesses_resolve s r space a n (if op.isSome then .atomic else .read)
  unfold State.prepRead
  split <;> rename_i heq <;> rw [heq] at h
  · exact h
  · exact h.trans (accesses_prepSpot _ r _ n op)

theorem accesses_prepAll (fs : List (State → Prep × State)) (hf : ∀ f ∈ fs, ∀ u, Accesses u (f u).2) (s : State) : Accesses s (prepAll s fs).2 := by
  induction fs generalizing s with
  | nil => exact .refl s
  | cons f fs ih =>
    have h := hf f (List.mem_cons_self ..) s
    have hrest := ih (fun g hg => hf g (List.mem_cons_of_mem _ hg))
    rw [prepAll]
    split <;> rename_i heq <;> rw [heq] at h
    · exact h.trans (hrest _)
    · exact h
    · exact h.trans (hrest _)

/-! ## Reads (R177, R289) -/

theorem accesses_readWhole (s : State) (who : Party) (a n : Nat) : Accesses s (s.readWhole who a n).2 := by
  unfold State.readWhole
  split
  · exact .refl s
  · dsimp only
    split <;> rfl

theorem accesses_readSince (s : State) (since a n : Nat) : Accesses s (s.readSince since a n).2 := by
  unfold State.readSince
  split
  · exact .refl s
  · dsimp only
    split <;> rfl

theorem accesses_readView (s : State) (who : Party) (v : View) (a n : Nat) : Accesses s (s.readView who v a n).2 := by
  cases v with
  | floor => exact accesses_readWhole s who a n
  | inv since => exact accesses_readSince s since a n
  | stream p q f unseen replayed => exact .ite_snd (accesses_readSince s _ a n) rfl
  | home => rfl
  | pulled y q => exact accesses_readSince s _ a n
  | now => exact .refl s

theorem accesses_eccCheck (s : State) (flat ctx : Nat) : Accesses s (s.eccCheck flat ctx).2 := by
  unfold State.eccCheck
  split
  · exact accesses_eccKept s _ _ ctx
  · exact (serves_eccWord s flat ctx).accesses

theorem accesses_eccL1 (s : State) (r : Req) (v : View) (flat : Nat) : Accesses s (s.eccL1 r v flat) := by
  unfold State.eccL1
  split
  · exact .ite (accesses_eccKept s _ _ r.ctx) (.refl s)
  · exact .ite (accesses_eccKept s _ _ r.ctx) (.refl s)
  · exact .refl s

theorem accesses_readFlat (s : State) (r : Req) (v : View) (a n : Nat) : Accesses s (s.readFlat r v a n).2 := by
  have h := (accesses_eccL1 s r v a).trans (accesses_eccCheck _ a r.ctx)
  exact .ite_snd (h.trans (serves_addPoison _ a 1).accesses) (.ite_snd h (.ite_snd h (h.trans (accesses_readView _ r.who v a n))))

theorem accesses_vbdNote (s : State) (frame block : Nat) : Accesses s (s.vbdNote frame block) := rfl

theorem accesses_readLoc (s : State) (r : Req) (v : View) (loc : Loc) (n : Nat) : Accesses s (s.readLoc r v loc n).2 := by
  cases loc with
  | flat a => exact accesses_readFlat s r v a n
  | vbd frame esz off =>
    exact .ite_snd (accesses_vbdNote s frame _) ((serves_vbdFill s frame esz _).accesses.trans (accesses_readFlat _ r v _ n))
  | badWindow bus => rfl
  | peer m off c => exact .refl s

theorem accesses_readSpot (s : State) (r : Req) (v : View) (p : Spot) (addr : Word) (n : Nat) : Accesses s (s.readSpot r v p addr n).2 := by
  unfold State.readSpot
  split
  · split
    · exact accesses_sendFab s _ _ _ _ _ _ _
    · exact .ite_snd (.refl s) (.ite_snd rfl rfl)
  · have h := (accesses_touchSpot s p false).trans (accesses_readLoc _ r (p.view v) p.loc n)
    split <;> rename_i heq <;> rw [heq] at h <;> exact h

theorem accesses_readPiece (s : State) (r : Req) (v : View) (space : Nat) (a : Word) (n : Nat) : Accesses s (s.readPiece r v space a n).2 := by
  have h := accesses_resolve s r space a n .read
  unfold State.readPiece
  split <;> rename_i heq <;> rw [heq] at h
  · exact h
  · exact h.trans (accesses_readSpot _ r v _ _ n)

theorem accesses_readPieces (s : State) (r : Req) (v : View) (space : Nat) (a : Word) (ps : List (Nat × Nat)) :
    Accesses s (s.readPieces r v space a ps).2 := by
  induction ps generalizing s with
  | nil => exact .refl s
  | cons p ps ih =>
    obtain ⟨off, n⟩ := p
    have h := accesses_readPiece s r v space (a + BitVec.ofNat 64 off) n
    rw [State.readPieces]
    split
    · rename_i b s' heq
      rw [heq] at h
      have hrest := h.trans (ih s')
      split
      · rename_i heq'
        rw [heq'] at hrest
        exact hrest
      · exact hrest
    · exact h

theorem accesses_readRec (s : State) (r : Req) (v : View) (space : Nat) (a : Word) (n : Nat) : Accesses s (s.readRec r v space a n).2 := by
  have h := accesses_prepAll ((pieces a.toNat n).map (fun p t => t.prepRead r space (a + BitVec.ofNat 64 p.1) p.2 none))
    (List.forall_mem_map.2 (fun p _ u => accesses_prepRead u r space _ p.2 none)) s
  unfold State.readRec
  dsimp only
  split <;> rename_i heq <;> rw [heq] at h
  · exact h
  · exact h
  · exact h.trans (accesses_readPieces _ r v space a _)

theorem accesses_devRead (s : State) (ctx : Nat) (a : Word) (n : Nat) : Accesses s (s.devRead ctx a n).2 := accesses_readRec s _ _ _ a n

/-! ## Writes (R176, R203) -/

theorem accesses_performLoc (s : State) (who : Party) (thread : Option ThreadId) (loc : Loc) (op : WriteOp) :
    Accesses s (s.performLoc who thread loc op) := by
  cases loc with
  | flat a => exact (serves_performFlat s who a op).accesses
  | vbd frame esz off =>
    refine .ite (Accesses.trans ?_ (accesses_noteFailed _ who _)) ?_
    · rfl
    · exact (((serves_vbdFill s frame esz _).trans (serves_performFlat _ who _ op)).trans (serves_vbdMark _ frame esz _)).accesses
  | badWindow bus => exact Accesses.trans (t := { s with log := .windowMiss bus :: s.log }) rfl (accesses_noteFailed _ who _)
  | peer m off c => exact accesses_sendFab s who thread _ m off c _

theorem accesses_writePiece (s : State) (r : Req) (a : Word) (op : WriteOp) (k : AccKind) : Accesses s (s.writePiece r a op k).2 := by
  have h := accesses_resolve s r spGeneric a op.len k
  unfold State.writePiece
  split <;> rename_i heq <;> rw [heq] at h
  · exact h
  · exact (h.trans (accesses_touchSpot _ _ true)).trans (accesses_performLoc _ _ _ _ op)

theorem accesses_writePieces (s : State) (r : Req) (a : Word) (bs : List Byte) (ps : List (Nat × Nat)) : Accesses s (s.writePieces r a bs ps).2 := by
  induction ps generalizing s with
  | nil => exact .refl s
  | cons p ps ih =>
    obtain ⟨off, n⟩ := p
    have h := accesses_writePiece s r (a + BitVec.ofNat 64 off) (.store ((bs.drop off).take n)) .write
    rw [State.writePieces]
    split
    · rename_i s' heq
      rw [heq] at h
      exact h.trans (ih s')
    · exact h

theorem accesses_devWrite (s : State) (ctx : Nat) (a : Word) (bs : List Byte) : Accesses s (s.devWrite ctx a bs).2 := by
  have h : Accesses s (s.writeRec (deviceReq ctx) a bs).2 := accesses_writePieces s _ a bs _
  unfold State.devWrite
  split
  · rename_i t heq
    rw [heq] at h
    exact h.trans rfl
  · exact h

end Sys2Proof.Proofs
end

section
/-! Contexts and the host block while queues are looked at and workgroups are killed (R44, R45, R57, R97). -/

namespace Sys2Proof.Proofs

open Sys2Proof Sys2Proof.Machine Sys2Proof.Laws

/-! ## A queue looked at (R57, R59) -/

/-- `t` has the host block of `s` and its contexts, except that fault records may wait with context `id`. -/
structure PostsTo (id : Nat) (s t : State) : Prop where
  host : t.host = s.host
  others : ∀ k, k ≠ id → FMap.find t.ctxs k = FMap.find s.ctxs k
  own : ∀ c, FMap.find s.ctxs id = some c → ∃ l, FMap.find t.ctxs id = some { c with fqWaiting := l }

theorem PostsTo.same {id : Nat} {s t : State} (hh : t.host = s.host) (hc : t.ctxs = s.ctxs) : PostsTo id s t :=
  ⟨hh, fun _ _ => by rw [hc], fun c h => ⟨c.fqWaiting, by rw [hc]; exact h⟩⟩

theorem PostsTo.refl (id : Nat) (s : State) : PostsTo id s s := .same rfl rfl

theorem PostsTo.trans {id : Nat} {s t u : State} (h : PostsTo id s t) (k : PostsTo id t u) : PostsTo id s u := by
  refine ⟨k.host.trans h.host, fun j hj => (k.others j hj).trans (h.others j hj), fun c hc => ?_⟩
  obtain ⟨l, hl⟩ := h.own c hc
  obtain ⟨m, hm⟩ := k.own _ hl
  exact ⟨m, hm⟩

theorem PostsTo.ite {id : Nat} {s t u : State} {c : Prop} [Decidable c] (h : PostsTo id s t) (k : PostsTo id s u) :
    PostsTo id s (if c then t else u) := by
  split_ifs
  · exact h
  · exact k

theorem PostsTo.foldl {id : Nat} {α : Type} {op : State → α → State} (k : ∀ u x, PostsTo id u (op u x)) (l : List α) (s : State) :
    PostsTo id s (l.foldl op s) := by
  induction l generalizing s with
  | nil => exact .refl id s
  | cons x l ih => exact (k s x).trans (ih _)

theorem Accesses.postsTo {s t : State} (h : Accesses s t) (id : Nat) : PostsTo id s t :=
  have ⟨hc, hh, _, _⟩ := h.fields
  .same hh hc

theorem postsTo_postFault (s : State) (id : Nat) (r : FaultRec) : PostsTo id s (s.postFault id r) := by
  refine ⟨rfl, fun k hk => ?_, fun c hc => ?_⟩
  · rw [State.postFault, find_modify, if_neg hk]
  · rw [State.postFault, find_modify, if_pos rfl, hc, Option.map_some]
    split_ifs
    · exact ⟨_, rfl⟩
    · exact ⟨_, rfl⟩

theorem postsTo_setQueue (s : State) (id q : Nat) (x : Queue) : PostsTo id s (s.setQueue id q x) := .same rfl rfl

theorem postsTo_devWriteOnce (s : State) (id q index : Nat) (a : Word) (bs : List Byte) : PostsTo id s (s.devWriteOnce id q index a bs) := by
  have h := (accesses_devWrite s id a bs).postsTo id
  unfold State.devWriteOnce
  split <;> rename_i heq <;> rw [heq] at h
  · exact h
  · exact h
  · exact h.trans (postsTo_postFault _ id _)

theorem postsTo_leaveQueue (s : State) (id q : Nat) : PostsTo id s (s.leaveQueue id q) := by
  have h := postsTo_setQueue s id q { s.queue id q with served := false, head := none, awake := false }
  unfold State.leaveQueue
  dsimp only
  split
  · exact .ite (h.trans (.same rfl rfl)) h
  · exact h

theorem postsTo_badDesc (s : State) (id q : Nat) : PostsTo id s (s.badDesc id q) :=
  ((postsTo_leaveQueue s id q).trans ((accesses_devWrite _ id _ _).postsTo id)).trans (postsTo_postFault _ id _)

theorem postsTo_serveQueue (s : State) (id q : Nat) (d : QDesc) (keep : Bool) : PostsTo id s (s.serveQueue id q d keep) := by
  have h := (accesses_devRead s id d.ridx 8).postsTo id
  refine .ite ((postsTo_setQueue s id q _).trans (postsTo_devWriteOnce _ id q _ _ _)) ?_
  split <;> rename_i heq <;> rw [heq] at h
  · exact h.trans (postsTo_setQueue _ id q _)
  · exact h
  · exact h.trans (postsTo_badDesc _ id q)

theorem postsTo_lookAtQueue (s : State) (id q : Nat) (fresh : Bool) : PostsTo id s (s.lookAtQueue id q fresh) := by
  have h := (accesses_devRead s id (s.descAddr id q) 64).postsTo id
  unfold State.lookAtQueue
  split <;> rename_i heq <;> rw [heq] at h
  · exact h
  · exact h.trans (postsTo_badDesc _ id q)
  · exact .ite h (.ite (h.trans (postsTo_badDesc _ id q)) (h.trans (postsTo_serveQueue _ id q _ _)))

/-! ## Workgroups killed (R45, R97) -/

/-- `t` has the contexts and the host block of `s`. -/
structure KeepsContexts (s t : State) : Prop where
  ctxs : t.ctxs = s.ctxs
  host : t.host = s.host

theorem KeepsContexts.refl (s : State) : KeepsContexts s s := ⟨rfl, rfl⟩

theorem KeepsContexts.trans {s t u : State} (h : KeepsContexts s t) (k : KeepsContexts t u) : KeepsContexts s u :=
  ⟨k.ctxs.trans h.ctxs, k.host.trans h.host⟩

theorem KeepsContexts.ite {s t u : State} {c : Prop} [Decidable c] (h : KeepsContexts s t) (k : KeepsContexts s u) :
    KeepsContexts s (if c then t else u) := by
  split_ifs
  · exact h
  · exact k

theorem KeepsContexts.foldl {α : Type} {op : State → α → State} (k : ∀ u x, KeepsContexts u (op u x)) (l : List α) (s : State) :
    KeepsContexts s (l.foldl op s) := by
  induction l generalizing s with
  | nil => exact .refl s
  | cons x l ih => exact (k s x).trans (ih _)

theorem keepsContexts_setThread (s : State) (i : ThreadId) (x : Thread) : KeepsContexts s (s.setThread i x) := ⟨rfl, rfl⟩

theorem keepsContexts_setHelm (s : State) (w : Nat) (x : Helm) : KeepsContexts s (s.setHelm w x) := ⟨rfl, rfl⟩

theorem keepsContexts_setWg (s : State) (w : Nat) (x : Workgroup) : KeepsContexts s (s.setWg w x) := ⟨rfl, rfl⟩

theorem keepsContexts_learn (s : State) (p q : Party) : KeepsContexts s (s.learn p q) := ⟨rfl, rfl⟩

theorem keepsContexts_orGroupFlags (s : State) (g : GroupId) (f : Word) : KeepsContexts s (s.orGroupFlags g f) := .ite (.refl s) ⟨rfl, rfl⟩

theorem keepsContexts_passBar (s : State) (g : GroupId) (n : Nat) (p : Bool) : KeepsContexts s (s.passBar g n p) :=
  (KeepsContexts.foldl (fun u _ => keepsContexts_learn u _ _) _ s).trans (keepsContexts_orGroupFlags _ g _)

theorem keepsContexts_releaseLane (s : State) (i : ThreadId) (n : Nat) (p : Bool) : KeepsContexts s (s.releaseLane i n p) :=
  .ite ((keepsContexts_passBar s _ n p).trans (keepsContexts_setThread _ i _)) (.refl s)

theorem keepsContexts_passBarHelm (s : State) (w n : Nat) (p : Bool) : KeepsContexts s (s.passBarHelm w n p) :=
  (KeepsContexts.foldl (fun u _ => keepsContexts_learn u _ _) _ s).trans ⟨rfl, rfl⟩

theorem keepsContexts_releaseBar (s : State) (w n : Nat) (p : Bool) : KeepsContexts s (s.releaseBar w n p) := by
  have h := KeepsContexts.foldl (fun u i => keepsContexts_releaseLane u i n p) (s.threadsOf w) s
  exact .ite ((h.trans (keepsContexts_passBarHelm _ w n p)).trans (keepsContexts_setHelm _ w _)) h

theorem keepsContexts_settleBar (s : State) (w n : Nat) : KeepsContexts s (s.settleBar w n) := by
  refine .ite (KeepsContexts.trans ?_ (keepsContexts_releaseBar _ w n _)) (.refl s)
  exact ((keepsContexts_setWg s w _).trans (KeepsContexts.foldl (fun u i => keepsContexts_setThread u i _) _ _)).trans (keepsContexts_setHelm _ w _)

theorem keepsContexts_exitBar (s : State) (w n : Nat) (arrived : Bool) : KeepsContexts s (s.exitBar w n arrived) :=
  .ite (keepsContexts_setWg s w _) ((keepsContexts_setWg s w _).trans (keepsContexts_settleBar _ w n))

theorem keepsContexts_releaseTaker (s : State) (i : ThreadId) : KeepsContexts s (s.releaseTaker i) := by
  unfold State.releaseTaker
  split
  · exact .ite (keepsContexts_setHelm s _ _) (.refl s)
  · exact .refl s

theorem keepsContexts_endThread (s : State) (i : ThreadId) : KeepsContexts s (s.endThread i) := by
  refine .ite (.refl s) (KeepsContexts.trans ?_ (keepsContexts_releaseTaker _ i))
  refine (keepsContexts_setThread s i _).trans (.ite (.refl _) ?_)
  exact KeepsContexts.foldl (fun u n => keepsContexts_exitBar u _ n _) _ _

theorem keepsContexts_endWg (s : State) (w : Nat) : KeepsContexts s (s.endWg w) := by
  have hunmap (u : State) (m : RegionMap) : KeepsContexts u (u.queueUnmap w 0 none m true) := ⟨rfl, rfl⟩
  have hback (u : State) : KeepsContexts u (u.handBackHelm w) := ⟨rfl, rfl⟩
  have hpublish (u : State) : KeepsContexts u (u.publishHelm w) := (KeepsContexts.foldl (fun v _ => keepsContexts_learn v _ _) _ u).trans ⟨rfl, rfl⟩
  have h := (KeepsContexts.foldl hunmap (((s.wg w).maps).filter (fun m => m.wb && !m.dirty.isEmpty)) s).trans (hback _)
  exact (h.trans (.ite (.refl _) (hpublish _))).trans ⟨rfl, rfl⟩

theorem keepsContexts_settleWg (s : State) (w : Nat) : KeepsContexts s (s.settleWg w) := by
  unfold State.settleWg
  split
  · exact .refl s
  · exact .ite (keepsContexts_endWg s w) (.refl s)

theorem keepsContexts_killThread (s : State) (i : ThreadId) : KeepsContexts s (s.killThread i) := by
  have hdrop : KeepsContexts s (s.dropLogged i) := ⟨rfl, rfl⟩
  refine .ite (.refl s) (KeepsContexts.trans ?_ (keepsContexts_settleWg _ i.wg))
  exact (hdrop.trans (keepsContexts_endThread _ i)).trans ⟨rfl, rfl⟩

theorem keepsContexts_killWg (s : State) (w : Nat) : KeepsContexts s (s.killWg w) := by
  unfold State.killWg
  split
  · exact .refl s
  · dsimp only
    refine KeepsContexts.trans (KeepsContexts.trans ?_ (KeepsContexts.foldl keepsContexts_killThread _ _)) (keepsContexts_settleWg _ w)
    exact ⟨rfl, rfl⟩

theorem keepsContexts_retarget (s : State) : KeepsContexts s s.retarget := by
  have hdie (u : State) (d : Nat) : KeepsContexts u (u.retargetDie d) := ⟨rfl, rfl⟩
  exact (hdie s 0).trans (hdie _ 1)

theorem keepsContexts_dropCmd (s : State) (k : Nat) : KeepsContexts s (s.dropCmd k) := by
  have hdone : KeepsContexts s (s.setCmd k { s.cmd k with phase := .done, held := false }) := ⟨rfl, rfl⟩
  refine .ite (KeepsContexts.trans ?_ (keepsContexts_retarget _)) hdone
  exact ⟨rfl, rfl⟩

end Sys2Proof.Proofs
end

section
/-! Contexts created and destroyed, pre-emption, firmware update and attestation, as the host commands them (R44, R45, R51, R54, R105). -/

namespace Sys2Proof.Proofs

open Sys2Proof Sys2Proof.Machine Sys2Proof.Laws

/-! ## A read at the home slices does not look at the host block -/

theorem eccRead_withHost (s : State) (h : HostRegs) (array entry : Nat) (addr : Word) (ctx : Nat) :
    (withHost s h).eccRead array entry addr ctx = ((s.eccRead array entry addr ctx).1, withHost (s.eccRead array entry addr ctx).2 h) := by
  show (match FMap.find s.errInjs array with | none => _ | some i => _) = _
  unfold State.eccRead
  cases FMap.find s.errInjs array with
  | none => rfl
  | some i =>
    dsimp only
    split_ifs <;> rfl

theorem eccWord_withHost (s : State) (h : HostRegs) (a ctx : Nat) :
    (withHost s h).eccWord a ctx = ((s.eccWord a ctx).1, withHost (s.eccWord a ctx).2 h) := by
  have hslice (u : State) : (withHost u h).eccSlice a ctx = ((u.eccSlice a ctx).1, withHost (u.eccSlice a ctx).2 h) := by
    unfold State.eccSlice
    split_ifs
    · exact eccRead_withHost u h _ _ _ _
    · rfl
  have hstored (u : State) : (withHost u h).eccStored a ctx = ((u.eccStored a ctx).1, withHost (u.eccStored a ctx).2 h) := by
    unfold State.eccStored
    split
    · rfl
    · exact eccRead_withHost u h _ _ _ _
  simp only [State.eccWord, hslice, hstored]

theorem checkWords_withHost (h : HostRegs) (a : Nat) (ps : List (Nat × Nat)) (bad : Bool) (s : State) :
    ps.foldl (checkWord a) (bad, withHost s h) = ((ps.foldl (checkWord a) (bad, s)).1, withHost (ps.foldl (checkWord a) (bad, s)).2 h) := by
  induction ps generalizing bad s with
  | nil => rfl
  | cons p ps ih =>
    have hone : checkWord a (bad, withHost s h) p = ((checkWord a (bad, s) p).1, withHost (checkWord a (bad, s) p).2 h) := by
      simp only [checkWord, eccWord_withHost]
      split_ifs <;> rfl
    rw [List.foldl_cons, List.foldl_cons, hone]
    exact ih _ _

theorem firstPoison_withHost (s : State) (h : HostRegs) (a n : Nat) : (withHost s h).firstPoison a n = s.firstPoison a n := by
  induction n generalizing a with
  | zero => rfl
  | succ n ih =>
    rw [State.firstPoison, State.firstPoison, ih]
    rfl

theorem readOutside_withHost (s : State) (h : HostRegs) (a n : Nat) :
    (withHost s h).readOutside a n = ((s.readOutside a n).1, (s.readOutside a n).2.1, withHost (s.readOutside a n).2.2 h) := by
  show ((withHost s h).bytesAt a n, ((pieces a n).foldl (checkWord a) (false, withHost s h)).1 ||
    (((pieces a n).foldl (checkWord a) (false, withHost s h)).2.firstPoison a n).isSome, ((pieces a n).foldl (checkWord a) (false, withHost s h)).2) = _
  rw [checkWords_withHost, firstPoison_withHost]
  rfl

/-! ## CTX_CREATE (R44) -/

/-- The host block once a command of the context registers is taken. -/
def commanded (s : State) (data : Word) : HostRegs := { s.host with ctxCmd := data.setWidth 16 }

theorem ctxCheck_congr {s t : State} (h : t.ctxs = s.ctxs) (r : List Byte) : t.ctxCheck r = s.ctxCheck r := by
  simp only [State.ctxCheck, h]

theorem sharesOk_congr {s t : State} (h : t.ctxs = s.ctxs) (c : Context) : t.sharesOk c = s.sharesOk c := by
  simp only [State.sharesOk, h]

theorem accesses_fqIndices (s : State) (id : Nat) (c : Context) : Accesses s (s.fqIndices id c).2 := by
  have h := accesses_devRead s id c.fqWidxAddr 8
  refine .ite_snd (.refl s) ?_
  split <;> rename_i heq <;> rw [heq] at h
  · rename_i w t
    have h2 := h.trans (accesses_devRead t id c.fqRidxAddr 8)
    split <;> rename_i heq2 <;> rw [heq2] at h2 <;> exact h2
  · exact h

section
variable {s u : State} {bytes : List Byte} {bad : Bool} (hread : s.readOutside (hbmAt (s.host.ctxRec.toNat * 256)) 256 = (bytes, bad, u))
include hread

theorem createCtx_poisoned (hb : bad = true) : s.createCtx = u.ctxResult 0x06 := by
  unfold State.createCtx
  rw [hread]
  exact if_pos hb

variable (hb : bad = false)
include hb

theorem createCtx_refused {e : BitVec 8} (hc : u.ctxCheck bytes = some e) : s.createCtx = u.ctxResult e := by
  unfold State.createCtx
  rw [hread]
  dsimp only
  rw [hb, if_neg (by decide), hc]

variable (hc : u.ctxCheck bytes = none)
include hc

theorem createCtx_unreadable {x : State} (hi : (u.addCtx (ctxIdOf bytes) (ctxOfRecord bytes)).fqIndices (ctxIdOf bytes) (ctxOfRecord bytes) = (none, x)) :
    s.createCtx = u.ctxResult 0x01 := by
  unfold State.createCtx
  rw [hread]
  dsimp only
  rw [hb, if_neg (by decide), hc]
  dsimp only
  rw [hi]

theorem createCtx_indices {w : Nat} {x : State}
    (hi : (u.addCtx (ctxIdOf bytes) (ctxOfRecord bytes)).fqIndices (ctxIdOf bytes) (ctxOfRecord bytes) = (some w, x)) :
    s.createCtx = if !u.sharesOk (ctxOfRecord bytes) then u.ctxResult 0x05
      else ((List.range (ctxOfRecord bytes).qcount).foldl (fun (v : State) q => v.lookAtQueue (ctxIdOf bytes) q true)
        (x.addCtx (ctxIdOf bytes) { ctxOfRecord bytes with fqWidx := w })).ctxResult 0 := by
  unfold State.createCtx
  rw [hread]
  dsimp only
  rw [hb, if_neg (by decide), hc]
  dsimp only
  rw [hi]

end

/-- A context that is entered, once its queues have been looked at. -/
theorem ctxEntered {s x t : State} {id : Nat} {c d : Context} (hx : x.ctxs = FMap.set s.ctxs id d) (ht : PostsTo id (x.addCtx id c) t) :
    (∃ l, FMap.find t.ctxs id = some { c with fqWaiting := l }) ∧ ∀ k, k ≠ id → FMap.find t.ctxs k = FMap.find s.ctxs k := by
  refine ⟨ht.own c (find_set_same x.ctxs id c), fun k hk => ?_⟩
  rw [ht.others k hk]
  show FMap.find (FMap.set x.ctxs id c) k = _
  rw [hx, find_set_other _ _ hk, find_set_other _ _ hk]

/-! ## CTX_DESTROY (R45) -/

/-- The first step of R45: the context is dying, and the command in progress. -/
def markedDying (s : State) (id : Nat) : State :=
  { s with
    ctxs := FMap.modify s.ctxs id (fun c => { c with dying := true, fqWaiting := [] })
    host := { s.host with ctxBusy := true } }

theorem destroyCtx_dead {s : State} {id : Nat} (h : s.ctxLive id = false) : s.destroyCtx id = s.ctxResult 0x07 := if_pos (by simp [h])

/-- What the context has in progress is stopped: its queues, and the commands that wait. -/
def stoppedCtx (s : State) (id : Nat) : State :=
  { markedDying s id with
    queues := s.queues.map (fun (e : (Nat × Nat) × Queue) =>
      if e.1.1 == id then (e.1, { e.2 with served := false, head := none, awake := false }) else e)
    cmds := s.cmds.map (fun (e : Nat × Cmd) =>
      if e.2.ctx == id && (e.2.phase == .atHead || e.2.phase == .armed || e.2.phase == .released || e.2.phase == .gate) then
        (e.1, { e.2 with phase := .done }) else e) }

/-- Its workgroups killed. -/
def killedCtx (t : State) (id : Nat) : State :=
  ((t.wgs.filter (fun e => (t.launch e.2.launch).ctx == id)).map (·.1)).foldl (fun (u : State) w => u.killWg w) t

/-- Its launches dropped. -/
def droppedCtx (t : State) (id : Nat) : State :=
  ((t.cmds.filter (fun e => e.2.ctx == id && e.2.phase != .done && pktType e.2.bytes == 1)).map (·.1)).foldl (fun (u : State) k => u.dropCmd k) t

/-- What it holds in side logs, staging and bins discarded. -/
def sweptCtx (t : State) (id : Nat) : State :=
  { t with
    cores := t.cores.map (fun (e : Nat × Core) => (e.1, { e.2 with sideLog := e.2.sideLog.filter (fun x => x.ctx != id) }))
    staged := t.staged.filter (fun e => t.ctxOf e.wg != id)
    spawnHeld := t.spawnHeld.filter (fun h => t.ctxOf h.1 != id) }

theorem destroyCtx_live {s : State} {id : Nat} (h : s.ctxLive id = true) :
    s.destroyCtx id = (sweptCtx (droppedCtx (killedCtx (stoppedCtx s id) id) id) id).startFence id none := if_neg (by simp [h])

/-- The steps of R45 leave the contexts and the host block as the first one does. -/
theorem keepsContexts_destroyCtx (s : State) (id : Nat) :
    KeepsContexts (markedDying s id) (sweptCtx (droppedCtx (killedCtx (stoppedCtx s id) id) id) id) := by
  have hstop : KeepsContexts (markedDying s id) (stoppedCtx s id) := ⟨rfl, rfl⟩
  have hkill (t : State) : KeepsContexts t (killedCtx t id) := KeepsContexts.foldl keepsContexts_killWg _ t
  have hdrop (t : State) : KeepsContexts t (droppedCtx t id) := KeepsContexts.foldl keepsContexts_dropCmd _ t
  have hsweep (t : State) : KeepsContexts t (sweptCtx t id) := ⟨rfl, rfl⟩
  exact ((hstop.trans (hkill _)).trans (hdrop _)).trans (hsweep _)

theorem ctxLive_iff (s : State) (id : Nat) : s.ctxLive id = true ↔ ∃ c, FMap.find s.ctxs id = some c ∧ c.dying = false := by
  unfold State.ctxLive
  cases FMap.find s.ctxs id <;> simp

/-! ## Reports (R54, R55) -/

theorem length_exactly (n : Nat) (bs : List Byte) : (exactly n bs).length = n := by
  simp [exactly]

theorem length_reportBody (s : State) : s.reportBody.length = 176 := by
  simp [State.reportBody, length_leBytes, length_exactly, length_nonceBytes]

theorem take_memGetMany (m : List Host.Cell) (a n k : Nat) : (memGetMany m a (n + k)).take n = memGetMany m a n := by
  induction n generalizing a with
  | zero => rfl
  | succ n ih => rw [show n + 1 + k = n + k + 1 by omega, memGetMany, memGetMany, List.take_succ_cons, ih]

/-- A report written: its signed part, and nothing outside its 560 bytes. -/
theorem report_written {s t : State} (w : Memory.wf s.mem = true) {a : Nat} {body sig : List Byte} (hb : body.length = 176) (hs : sig.length = 384)
    (ht : t.mem = memSetMany s.mem a (body ++ sig)) : t.bytesAt a 176 = body ∧ ∀ b, b < a ∨ a + 560 ≤ b → t.byteAt b = s.byteAt b := by
  obtain ⟨hin, hout⟩ := bytes_of_mem w ht
  have hlen : (body ++ sig).length = 176 + 384 := by rw [List.length_append, hb, hs]
  rw [hlen] at hin hout
  refine ⟨?_, hout⟩
  have htake := take_memGetMany t.mem a 176 384
  rw [← State.bytesAt, hin, ← hb, List.take_left] at htake
  rw [← hb]
  exact htake.symm

/-- The bytes of a report: the signed part and its signature. -/
def reportBytes (s : State) : List Byte := s.reportBody ++ exactly 384 (Config.attestSign s.reportBody s.freeCount)

/-- The report written. -/
def reported (s : State) : State := s.writePublished .device (hostAt s.host.attAddr.toNat) (reportBytes s)

/-- The state that a finished attestation leaves. -/
def attested (u : State) : State := { u with freeCount := u.freeCount + 1, host := { u.host with attGo := false, attDone := true } }

theorem exec_attestationComplete_ok {s : State} (hgo : s.host.attGo = true) (hok : s.attAddrOk = true) :
    exec .attestationComplete s = .next (attested (reported s)) := by
  show execAttestationComplete s = _
  rw [execAttestationComplete, hgo, hok]
  rfl

theorem writesOnly_reported (s : State) : WritesOnly s (reported s) := writesOnly_writePublished _ _ _ _

theorem WritesOnly.host {s t : State} (h : WritesOnly s t) : t.host = s.host := by rw [h]

theorem WritesOnly.regs {s t : State} (h : WritesOnly s t) : t.regs = s.regs := by rw [h]

theorem host_attested {s u : State} (h : u.host = s.host) : (attested u).host = { s.host with attGo := false, attDone := true } := by
  rw [← h]
  rfl

theorem exec_attestationComplete_fail {s : State} (hgo : s.host.attGo = true) (hok : s.attAddrOk = false) :
    exec .attestationComplete s = .next s.attFail := by
  show execAttestationComplete s = _
  rw [execAttestationComplete, hgo, hok]
  rfl

theorem attestationComplete_completes {s : State} (hgo : s.host.attGo = true) (w : Memory.wf s.mem = true) :
    if s.attAddrOk then Completes .attestationComplete s (fun t =>
      t.host = { s.host with attGo := false, attDone := true } ∧ t.bytesAt (hostAt s.host.attAddr.toNat) 176 = s.reportBody ∧
      (∀ a, a < hostAt s.host.attAddr.toNat ∨ hostAt s.host.attAddr.toNat + 560 ≤ a → t.byteAt a = s.byteAt a) ∧ t.regs = s.regs)
    else Completes .attestationComplete s (fun t => t = { s with host := { s.host with attGo := false, attErr := true }, log := t.log } ∧
      t.log = s.attMiss.toList.map LogEntry.windowMiss ++ s.log) := by
  split_ifs with hok
  · have hw := writesOnly_reported s
    have hmem : (attested (reported s)).mem = memSetMany s.mem (hostAt s.host.attAddr.toNat) (reportBytes s) := mem_writePublished s _ _ _
    obtain ⟨hbody, hout⟩ := report_written w (length_reportBody s) (length_exactly 384 (Config.attestSign s.reportBody s.freeCount)) hmem
    exact ⟨_, exec_attestationComplete_ok hgo hok, host_attested hw.host, hbody, hout, hw.regs⟩
  · refine ⟨_, exec_attestationComplete_fail hgo (Bool.eq_false_of_not_eq_true hok), ?_⟩
    unfold State.attFail
    cases s.attMiss with
    | none => exact ⟨rfl, rfl⟩
    | some a => exact ⟨rfl, rfl⟩

/-! ## Firmware update (R51) -/

/-- The range of an image (R51). -/
def fwRange (s : State) : Prop := 1024 ≤ s.host.fwLen.toNat ∧ s.host.fwLen.toNat ≤ 16777216 ∧ s.host.fwSrc.toNat * 4096 + s.host.fwLen.toNat ≤ 2 ^ 39

/-- The image as it is read. -/
def fwRead (s : State) : List Byte × Bool × State := s.readOutside (hbmAt (s.host.fwSrc.toNat * 4096)) s.host.fwLen.toNat

/-- An update taken. -/
def updated (t : State) (image : List Byte) : State :=
  { t with
    trust := { t.trust with firmware := image }
    boot := { t.boot with coldFails := 0, warmFails := 0 }
    host := { t.host with fwGo := false, fwDone := true, fwCode := 0 } }

section
variable {s : State} (hgo : s.host.fwGo = true) (flashOk : Bool)
include hgo

theorem exec_firmwareUpdateComplete_range (h : ¬fwRange s) : exec (.firmwareUpdateComplete flashOk) s = .next (s.fwFail 1) := by
  have hbad : s.host.fwLen.toNat < 1024 ∨ 16777216 < s.host.fwLen.toNat ∨ 2 ^ 39 < s.host.fwSrc.toNat * 4096 + s.host.fwLen.toNat := by
    unfold fwRange at h
    omega
  show execFirmwareUpdateComplete flashOk s = _
  rw [execFirmwareUpdateComplete, if_neg (by simp [hgo]), if_pos hbad]

theorem exec_firmwareUpdateComplete (h : fwRange s) : exec (.firmwareUpdateComplete flashOk) s = .next
    (if (fwRead s).2.1 then (fwRead s).2.2.fwFail 4 else if !(fwRead s).2.2.imageOk (fwRead s).1 then (fwRead s).2.2.fwFail 2
      else if !flashOk then (fwRead s).2.2.fwFail 3 else updated (fwRead s).2.2 (fwRead s).1) := by
  have hok : ¬(s.host.fwLen.toNat < 1024 ∨ 16777216 < s.host.fwLen.toNat ∨ 2 ^ 39 < s.host.fwSrc.toNat * 4096 + s.host.fwLen.toNat) := by
    unfold fwRange at h
    omega
  show execFirmwareUpdateComplete flashOk s = _
  rw [execFirmwareUpdateComplete, if_neg (by simp [hgo]), if_neg hok, apply_ite Host.Outcome.next, apply_ite Host.Outcome.next,
    apply_ite Host.Outcome.next]
  rfl

end

end Sys2Proof.Proofs
end

section
/-! The statement of the host's commands (R44, R45, R51, R54, R105). -/

namespace Sys2Proof.Proofs

open Sys2Proof Sys2Proof.Machine Sys2Proof.Laws

/-! ## CTX_CMD written -/

theorem ctxCommand_create {s : State} (data : Word) (hbusy : s.host.ctxBusy = false) :
    s.ctxCommand data 1 = (withHost s (commanded s data)).createCtx := (if_neg (by simp [hbusy])).trans (if_pos rfl)

theorem ctxCommand_destroy {s : State} (data : Word) (hbusy : s.host.ctxBusy = false) :
    s.ctxCommand data 2 = (withHost s (commanded s data)).destroyCtx (data.toNat % 2 ^ 16) :=
  (if_neg (by simp [hbusy])).trans ((if_neg (by decide)).trans (if_pos rfl))

theorem controlWrite_ctxCommand (s : State) (mask new w1 : Word) : s.controlWrite 0x1088 mask new w1 = s.ctxCommand new (field w1 19 16) := rfl

section
variable {s : State} {data : Word} (hpow : s.boot.powered = true) (hrdy : s.boot.ready = true) (hrec : s.boot.recovery = false)
include hpow hrdy hrec

theorem exec_ctxCreate (hop : field data 19 16 = 1) (hbusy : s.host.ctxBusy = false) :
    exec (.ctxCreate data) s = .next (withHost s (commanded s data)).createCtx := by
  have h := write_control hpow hrdy hrec data (off := 0x1088) (.inl (by decide)) rfl
  rw [controlWrite_ctxCommand, hop, ctxCommand_create data hbusy] at h
  exact (if_pos hop : exec (.ctxCreate data) s = _).trans h

theorem exec_ctxDestroy (hop : field data 19 16 = 2) (hbusy : s.host.ctxBusy = false) :
    exec (.ctxDestroy data) s = .next ((withHost s (commanded s data)).destroyCtx (data.toNat % 2 ^ 16)) := by
  have h := write_control hpow hrdy hrec data (off := 0x1088) (.inl (by decide)) rfl
  rw [controlWrite_ctxCommand, hop, ctxCommand_destroy data hbusy] at h
  exact (if_pos hop : exec (.ctxDestroy data) s = _).trans h

/-- A command while one is in progress is ignored. -/
theorem ctxCommands_busy (hbusy : s.host.ctxBusy = true) : exec (.ctxCreate data) s = .next s ∧ exec (.ctxDestroy data) s = .next s := by
  have h := write_control hpow hrdy hrec data (off := 0x1088) (.inl (by decide)) rfl
  rw [controlWrite_ctxCommand, show s.ctxCommand data (field data 19 16) = s from if_pos hbusy] at h
  refine ⟨?_, ?_⟩
  · show (if field data 19 16 = 1 then exec (.bar0RegisterWrite 0x1088 8 data) s else .next s) = _
    rw [h, ite_self]
  · show (if field data 19 16 = 2 then exec (.bar0RegisterWrite 0x1088 8 data) s else .next s) = _
    rw [h, ite_self]

/-- CTX_DESTROY of a context that lives (R45). -/
theorem ctxDestroy_live (hop : field data 19 16 = 2) (hbusy : s.host.ctxBusy = false) (hlive : s.ctxLive (data.toNat % 2 ^ 16) = true) :
    Completes (.ctxDestroy data) s (fun t =>
      t.host.ctxBusy = true ∧ (∃ y, FMap.find t.ctxs (data.toNat % 2 ^ 16) = some y ∧ y.dying = true) ∧
      ∃ f ∈ t.fences, f.ctx = data.toNat % 2 ^ 16 ∧ f.va = none) := by
  have hx := exec_ctxDestroy hpow hrdy hrec hop hbusy
  generalize data.toNat % 2 ^ 16 = id at hlive hx ⊢
  obtain ⟨c, hc, -⟩ := (ctxLive_iff s id).1 hlive
  have hlive' : (withHost s (commanded s data)).ctxLive id = true := hlive
  obtain ⟨hctxs, hhost⟩ := keepsContexts_destroyCtx (withHost s (commanded s data)) id
  rw [destroyCtx_live hlive'] at hx
  generalize sweptCtx (droppedCtx (killedCtx (stoppedCtx (withHost s (commanded s data)) id) id) id) id = u at hx hctxs hhost
  refine ⟨_, hx, ?_, ⟨{ c with dying := true, fqWaiting := [] }, ?_, rfl⟩, { id := u.nextId, ctx := id, va := none }, ?_, rfl, rfl⟩
  · show u.host.ctxBusy = true
    rw [hhost]
    rfl
  · show FMap.find u.ctxs id = _
    rw [hctxs]
    show FMap.find (FMap.modify s.ctxs id _) id = _
    rw [find_modify, if_pos rfl, hc]
    rfl
  · exact List.mem_append_right _ (List.mem_singleton_self _)

theorem ctxDestroy_dead (hop : field data 19 16 = 2) (hbusy : s.host.ctxBusy = false) (hlive : s.ctxLive (data.toNat % 2 ^ 16) = false) :
    Completes (.ctxDestroy data) s (fun t =>
      t = { s with host := { s.host with ctxCmd := data.setWidth 16, ctxErr := 0x07, ctxDone := true, ctxBusy := false } }) := by
  have hx := exec_ctxDestroy hpow hrdy hrec hop hbusy
  rw [destroyCtx_dead (s := withHost s (commanded s data)) hlive] at hx
  exact ⟨_, hx, rfl⟩

/-! ## PRE_REQ written (R105) -/

theorem exec_preReq : exec (.bar0RegisterWrite 0x1040 8 data) s = .next (s.preRequest data) :=
  write_control hpow hrdy hrec data (off := 0x1040) (.inl (by decide)) rfl

end

/-- The host block once PRE_REQ is taken. -/
def preCommanded (s : State) (data : Word) : HostRegs :=
  { s.host with preHold := bitAt data 56, preRidges := BitVec.ofNat 40 (field data 55 16), preCtx := data.setWidth 16, preDone := true }

theorem modify_of_none {κ α : Type} [DecidableEq κ] {m : FMap κ α} {k : κ} (h : FMap.find m k = none) (f : α → α) : FMap.modify m k f = m := by
  unfold FMap.modify
  rw [h]

theorem preRequest_hold {s : State} {data : Word} (hbusy : s.host.preBusy = false) (hold : bitAt data 56 = true) : s.preRequest data =
    if (FMap.find s.ctxs (data.toNat % 2 ^ 16)).isNone then withHost s (preCommanded s data)
    else { withHost s (preCommanded s data) with ctxs := FMap.modify s.ctxs (data.toNat % 2 ^ 16) (fun c =>
      { c with holdRidges := c.holdRidges ||| BitVec.ofNat 40 (field data 55 16) }) }.preempt (data.toNat % 2 ^ 16) (BitVec.ofNat 40 (field data 55 16)) := by
  refine (if_neg (by simp [hbusy])).trans (if_congr Iff.rfl rfl ?_)
  exact if_pos hold

theorem preRequest_release {s : State} {data : Word} (hbusy : s.host.preBusy = false) (hold : bitAt data 56 = false) : s.preRequest data =
    { withHost s (preCommanded s data) with ctxs := FMap.modify s.ctxs (data.toNat % 2 ^ 16) (fun c =>
      { c with holdRidges := c.holdRidges &&& ~~~BitVec.ofNat 40 (field data 55 16) }) } := by
  refine (if_neg (by simp [hbusy])).trans ?_
  by_cases h : (FMap.find s.ctxs (data.toNat % 2 ^ 16)).isNone = true
  · rw [modify_of_none (Option.isNone_iff_eq_none.1 h)]
    exact if_pos h
  · exact (if_neg h).trans (if_neg (by simp [hold]))

/-! ## Firmware update (R51) -/

theorem firmwareUpdate_completes {s : State} {data : Word} (hpow : s.boot.powered = true) (hrdy : s.boot.ready = true) (hgo : bitAt data 0 = true) :
    Completes (.firmwareUpdate data) s (fun t => t = { s with host := { s.host with
      fwErr := s.host.fwErr && !bitAt data 2, fwDone := s.host.fwDone && !bitAt data 1
      fwGo := s.host.fwGo || (s.boot.recovery && s.boot.stage != 1 && s.boot.stage != 0xFF) } }) := by
  have htaken : s.bar0Writes 0x10B0 = true := by
    cases hrec : s.boot.recovery with
    | false => exact bar0Writes_running hrdy hrec _
    | true => exact (bar0Writes_recovery hrdy hrec _).2 (by decide)
  have hw := bar0Write_control data hpow (off := 0x10B0) (.inl (by decide)) rfl htaken
  have hx : exec (.firmwareUpdate data) s = .next (s.bar0Write 0x10B0 8 data) := if_pos hgo
  rw [hw] at hx
  refine ⟨_, hx, ?_⟩
  show s.fwControl data = _
  rw [State.fwControl, hgo, Bool.true_and]
  rfl

section
variable {s : State} (hgo : s.host.fwGo = true) (flashOk : Bool)
include hgo

/-- How an update ends that fails with a code. -/
def UpdateFails (s : State) (code : BitVec 8) (t : State) : Prop :=
  t.host = { s.host with fwGo := false, fwErr := true, fwCode := code } ∧ t.trust = s.trust ∧ t.boot = s.boot ∧ t.mem = s.mem

omit hgo in
theorem updateFails_fwFail {s u : State} (h : Checked s u) (code : BitVec 8) : UpdateFails s code (u.fwFail code) := by
  have hf := h.frame
  unfold UpdateFails State.fwFail
  rw [hf]
  exact ⟨rfl, rfl, rfl, rfl⟩

omit hgo in
theorem imageOk_of_checked {s u : State} (h : Checked s u) (image : List Byte) : u.imageOk image = s.imageOk image := by
  have htrust : u.trust = s.trust := by rw [h.frame]
  unfold State.imageOk
  rw [htrust]

omit hgo in
theorem checked_fwRead (s : State) : Checked s (fwRead s).2.2 := checked_readOutside s _ _

theorem update_range (h : ¬fwRange s) : Completes (.firmwareUpdateComplete flashOk) s (UpdateFails s 1) :=
  ⟨_, exec_firmwareUpdateComplete_range hgo flashOk h, updateFails_fwFail (.refl s) 1⟩

theorem update_poison (h : fwRange s) (hp : (fwRead s).2.1 = true) : Completes (.firmwareUpdateComplete flashOk) s (UpdateFails s 4) := by
  refine ⟨_, (exec_firmwareUpdateComplete hgo flashOk h).trans (congrArg Host.Outcome.next (if_pos hp)), ?_⟩
  exact updateFails_fwFail (checked_fwRead s) 4

variable (h : fwRange s) (hp : (fwRead s).2.1 = false)
include h hp

theorem exec_update_read : exec (.firmwareUpdateComplete flashOk) s = .next
    (if !s.imageOk (fwRead s).1 then (fwRead s).2.2.fwFail 2 else if !flashOk then (fwRead s).2.2.fwFail 3
      else updated (fwRead s).2.2 (fwRead s).1) := by
  rw [exec_firmwareUpdateComplete hgo flashOk h, if_neg (by rw [hp]; decide), imageOk_of_checked (checked_fwRead s)]

theorem update_image (hi : s.imageOk (fwRead s).1 = false) : Completes (.firmwareUpdateComplete flashOk) s (UpdateFails s 2) := by
  refine ⟨_, (exec_update_read hgo flashOk h hp).trans (congrArg Host.Outcome.next (if_pos (by rw [hi]; rfl))), ?_⟩
  exact updateFails_fwFail (checked_fwRead s) 2

theorem update_flash (hi : s.imageOk (fwRead s).1 = true) (hflash : flashOk = false) :
    Completes (.firmwareUpdateComplete flashOk) s (UpdateFails s 3) := by
  subst hflash
  refine ⟨_, (exec_update_read hgo false h hp).trans (congrArg Host.Outcome.next ((if_neg (by rw [hi]; decide)).trans (if_pos rfl))), ?_⟩
  exact updateFails_fwFail (checked_fwRead s) 3

theorem update_taken (hi : s.imageOk (fwRead s).1 = true) (hflash : flashOk = true) : Completes (.firmwareUpdateComplete flashOk) s (fun t =>
    t.host = { s.host with fwGo := false, fwDone := true, fwCode := 0 } ∧
    t.trust = { s.trust with firmware := s.bytesAt (hbmAt (s.host.fwSrc.toNat * 4096)) s.host.fwLen.toNat } ∧
    t.boot = { s.boot with coldFails := 0, warmFails := 0 } ∧ t.mem = s.mem) := by
  subst hflash
  refine ⟨_, (exec_update_read hgo true h hp).trans (congrArg Host.Outcome.next ((if_neg (by rw [hi]; decide)).trans (if_neg (by decide)))), ?_⟩
  have hf := (checked_fwRead s).frame
  unfold updated
  rw [hf]
  exact ⟨rfl, rfl, rfl, rfl⟩

end

/-! ## CTX_CREATE -/

/-- The record as CTX_CREATE reads it. -/
def recordRead (s : State) : List Byte × Bool × State := s.readOutside (hbmAt (s.host.ctxRec.toNat * 256)) 256

theorem readRecord_commanded (s : State) (data : Word) :
    (withHost s (commanded s data)).readOutside (hbmAt ((withHost s (commanded s data)).host.ctxRec.toNat * 256)) 256 =
      ((recordRead s).1, (recordRead s).2.1, withHost (recordRead s).2.2 (commanded s data)) :=
  readOutside_withHost s (commanded s data) _ 256

/-- The state in which CTX_CREATE checks the record. -/
def recordState (s : State) (data : Word) : State := withHost (recordRead s).2.2 (commanded s data)

theorem recordState_eq (s : State) (data : Word) :
    recordState s data = { (recordRead s).2.2 with host := { (recordRead s).2.2.host with ctxCmd := data.setWidth 16 } } := by
  have hhost : (recordRead s).2.2.host = s.host := by
    rw [recordRead, (checked_readOutside s _ _).frame]
  rw [hhost]
  rfl

theorem ctxs_recordState (s : State) (data : Word) : (recordState s data).ctxs = s.ctxs := by
  show (recordRead s).2.2.ctxs = s.ctxs
  rw [recordRead, (checked_readOutside s _ _).frame]

/-- CTX_CREATE ends: a status and the command as it was written. -/
def CreateEnds (data : Word) (t : State) : Prop := t.host.ctxDone = true ∧ t.host.ctxBusy = false ∧ t.host.ctxCmd = data.setWidth 16

theorem createEnds_ctxResult {u : State} {data : Word} (h : u.host.ctxCmd = data.setWidth 16) (e : BitVec 8) : CreateEnds data (u.ctxResult e) :=
  ⟨rfl, rfl, h⟩

end Sys2Proof.Proofs
end

section
/-! Contexts created, each check by its code, and the host's commands together (R44, R45, R51, R54, R105). -/

namespace Sys2Proof.Proofs

open Sys2Proof Sys2Proof.Machine Sys2Proof.Laws

section
variable {s : State} {data : Word} (hpow : s.boot.powered = true) (hrdy : s.boot.ready = true) (hrec : s.boot.recovery = false)
  (hbusy : s.host.ctxBusy = false) (hop : field data 19 16 = 1)
include hpow hrdy hrec hbusy hop

/-- A creation that ends with a code before the context is entered. -/
theorem create_fails {e : BitVec 8} (h : (withHost s (commanded s data)).createCtx = (recordState s data).ctxResult e) :
    Completes (.ctxCreate data) s (fun t => t.host.ctxDone = true ∧ t.host.ctxBusy = false ∧ t.host.ctxCmd = data.setWidth 16 ∧
      t.host.ctxErr = e ∧ t.ctxs = s.ctxs) :=
  ⟨_, (exec_ctxCreate hpow hrdy hrec hop hbusy).trans (congrArg Host.Outcome.next h), rfl, rfl, rfl, rfl, ctxs_recordState s data⟩

theorem create_poisoned (hb : (recordRead s).2.1 = true) : Completes (.ctxCreate data) s (fun t =>
    t.host.ctxDone = true ∧ t.host.ctxBusy = false ∧ t.host.ctxCmd = data.setWidth 16 ∧ t.host.ctxErr = 0x06 ∧ t.ctxs = s.ctxs) :=
  create_fails hpow hrdy hrec hbusy hop (createCtx_poisoned (readRecord_commanded s data) hb)

variable (hb : (recordRead s).2.1 = false)
include hb

theorem create_refused {e : BitVec 8} (hc : s.ctxCheck (recordRead s).1 = some e) : Completes (.ctxCreate data) s (fun t =>
    t.host.ctxDone = true ∧ t.host.ctxBusy = false ∧ t.host.ctxCmd = data.setWidth 16 ∧ t.host.ctxErr = e ∧ t.ctxs = s.ctxs) :=
  create_fails hpow hrdy hrec hbusy hop
    (createCtx_refused (readRecord_commanded s data) hb ((ctxCheck_congr (ctxs_recordState s data) _).trans hc))

variable (hc : s.ctxCheck (recordRead s).1 = none)
include hc

theorem create_unreadable {x : State} (hi : ((recordState s data).addCtx (ctxIdOf (recordRead s).1) (ctxOfRecord (recordRead s).1)).fqIndices
    (ctxIdOf (recordRead s).1) (ctxOfRecord (recordRead s).1) = (none, x)) : Completes (.ctxCreate data) s (fun t =>
    t.host.ctxDone = true ∧ t.host.ctxBusy = false ∧ t.host.ctxCmd = data.setWidth 16 ∧ t.host.ctxErr = 0x01 ∧ t.ctxs = s.ctxs) :=
  create_fails hpow hrdy hrec hbusy hop
    (createCtx_unreadable (readRecord_commanded s data) hb ((ctxCheck_congr (ctxs_recordState s data) _).trans hc) hi)

variable {w : Nat} {x : State} (hi : ((recordState s data).addCtx (ctxIdOf (recordRead s).1) (ctxOfRecord (recordRead s).1)).fqIndices
    (ctxIdOf (recordRead s).1) (ctxOfRecord (recordRead s).1) = (some w, x))
include hi

theorem create_noShares (hs : s.sharesOk (ctxOfRecord (recordRead s).1) = false) : Completes (.ctxCreate data) s (fun t =>
    t.host.ctxDone = true ∧ t.host.ctxBusy = false ∧ t.host.ctxCmd = data.setWidth 16 ∧ t.host.ctxErr = 0x05 ∧ t.ctxs = s.ctxs) := by
  have hx := createCtx_indices (readRecord_commanded s data) hb ((ctxCheck_congr (ctxs_recordState s data) _).trans hc) hi
  have hno : (!(recordState s data).sharesOk (ctxOfRecord (recordRead s).1)) = true := by
    rw [sharesOk_congr (ctxs_recordState s data), hs]
    rfl
  exact create_fails hpow hrdy hrec hbusy hop (hx.trans (if_pos hno))

theorem create_entered (hs : s.sharesOk (ctxOfRecord (recordRead s).1) = true) : Completes (.ctxCreate data) s (fun t =>
    t.host.ctxDone = true ∧ t.host.ctxBusy = false ∧ t.host.ctxCmd = data.setWidth 16 ∧ t.host.ctxErr = 0 ∧
    ∃ y, FMap.find t.ctxs (ctxIdOf (recordRead s).1) = some y ∧ y.ptRoot = (ctxOfRecord (recordRead s).1).ptRoot ∧
      y.qtab = (ctxOfRecord (recordRead s).1).qtab ∧ y.qcount = (ctxOfRecord (recordRead s).1).qcount ∧ y.fqWidx = w ∧ y.dying = false ∧
      ∀ k, k ≠ ctxIdOf (recordRead s).1 → FMap.find t.ctxs k = FMap.find s.ctxs k) := by
  have hx := createCtx_indices (readRecord_commanded s data) hb ((ctxCheck_congr (ctxs_recordState s data) _).trans hc) hi
  have hyes : ¬(!(recordState s data).sharesOk (ctxOfRecord (recordRead s).1)) = true := by
    rw [sharesOk_congr (ctxs_recordState s data), hs]
    decide
  have hexec := (exec_ctxCreate hpow hrdy hrec hop hbusy).trans (congrArg Host.Outcome.next (hx.trans (if_neg hyes)))
  have hfields := (accesses_fqIndices ((recordState s data).addCtx (ctxIdOf (recordRead s).1) (ctxOfRecord (recordRead s).1))
    (ctxIdOf (recordRead s).1) (ctxOfRecord (recordRead s).1)).fields
  rw [hi] at hfields
  obtain ⟨hctxs, hhost, -, -⟩ := hfields
  have hposts := PostsTo.foldl (fun u q => postsTo_lookAtQueue u (ctxIdOf (recordRead s).1) q true)
    (List.range (ctxOfRecord (recordRead s).1).qcount)
    (x.addCtx (ctxIdOf (recordRead s).1) { ctxOfRecord (recordRead s).1 with fqWidx := w })
  obtain ⟨⟨l, hl⟩, hothers⟩ := ctxEntered (s := recordState s data) hctxs hposts
  refine ⟨_, hexec, rfl, rfl, ?_, rfl, _, hl, rfl, rfl, rfl, rfl, rfl, fun k hk => ?_⟩
  · refine (congrArg HostRegs.ctxCmd hposts.host).trans ?_
    exact congrArg HostRegs.ctxCmd hhost
  · refine (hothers k hk).trans ?_
    rw [ctxs_recordState]

end

/-- Settles O45: CTX_CREATE check by check, CTX_DESTROY by what its steps keep, the update and the attestation by what they write. -/
theorem hostCommandResults : Obligations.HostCommandResults := by
  unfold Obligations.HostCommandResults
  intro s data hpow hrdy
  refine ⟨fun hrec hbusy hop => ?_, fun hrec hbusy => ?_, fun hrec hbusy hop => ?_, fun hrec hbusy => ?_,
    fun hgo => firmwareUpdate_completes hpow hrdy hgo, fun hgo flashOk => ?_, fun hgo w => ?_⟩
  · intro got r c ends
    have hgot : got = recordRead s := rfl
    have hr : r = recordState s data := (recordState_eq s data).symm
    have hc : c = ctxOfRecord got.1 := rfl
    clear_value r c got
    subst hr hc hgot
    exact ⟨fun hb => create_poisoned hpow hrdy hrec hbusy hop hb, fun hb e hc => create_refused hpow hrdy hrec hbusy hop hb hc,
      fun hb hc x hi => create_unreadable hpow hrdy hrec hbusy hop hb hc hi, fun hb hc w x hi =>
        ⟨fun hs => create_noShares hpow hrdy hrec hbusy hop hb hc hi hs, fun hs => create_entered hpow hrdy hrec hbusy hop hb hc hi hs⟩⟩
  · obtain ⟨hcreate, hdestroy⟩ := ctxCommands_busy (data := data) hpow hrdy hrec hbusy
    exact ⟨⟨_, hcreate, rfl⟩, ⟨_, hdestroy, rfl⟩⟩
  · cases hlive : s.ctxLive (data.toNat % 2 ^ 16) with
    | true => exact ctxDestroy_live hpow hrdy hrec hop hbusy hlive
    | false => exact ctxDestroy_dead hpow hrdy hrec hop hbusy hlive
  · refine ⟨fun hold => ⟨_, (if_pos hold : exec (.preReqHold data) s = _).trans (exec_preReq hpow hrdy hrec), ?_⟩,
      fun hold => ⟨_, (if_neg (by simp [hold]) : exec (.preReqRelease data) s = _).trans (exec_preReq hpow hrdy hrec), ?_⟩⟩
    · rw [preRequest_hold hbusy hold]
      split_ifs with hn
      · rfl
      · rfl
    · exact preRequest_release hbusy hold
  · intro src len got range fails
    have hgot : got = fwRead s := rfl
    have hrange : range = fwRange s := rfl
    clear_value got range
    subst hgot hrange
    exact ⟨fun h => update_range hgo flashOk h, fun h hp => update_poison hgo flashOk h hp, fun h hp hi => update_image hgo flashOk h hp hi,
      fun h hp hi hf => update_flash hgo flashOk h hp hi hf, fun h hp hi hf => update_taken hgo flashOk h hp hi hf⟩
  · have h := attestationComplete_completes hgo w
    split_ifs at h ⊢
    · exact h
    · obtain ⟨t, hexec, hframe, hlog⟩ := h
      refine ⟨t, hexec, hframe, hlog.trans ?_⟩
      cases s.attMiss <;> rfl

end Sys2Proof.Proofs
end

section
/-! Translation fences: what they replay, release and end (R45, R201, R203, R204, R285). -/

namespace Sys2Proof.Proofs

open Sys2Proof Sys2Proof.Machine Sys2Proof.Laws

/-! ## Side-log pages replayed (R204) -/

/-- `t` differs from `s` in what an access may change, in the operations' views, in fault records that wait and in the cores' logs alone. -/
def Replays (s t : State) : Prop :=
  ∃ u, Accesses s u ∧ t = { u with ops := t.ops, ctxs := t.ctxs, cores := t.cores }

theorem Replays.refl (s : State) : Replays s s := ⟨s, .refl s, rfl⟩

theorem Accesses.replays {s t : State} (h : Accesses s t) : Replays s t := ⟨t, h, rfl⟩

/-- A replay, as one update of fields. -/
theorem replays_iff {s t : State} : Replays s t ↔
    t = { s with
      mem := t.mem, poison := t.poison, hist := t.hist, floors := t.floors, writeSeq := t.writeSeq, freeCount := t.freeCount, nextId := t.nextId
      wgs := t.wgs, cmds := t.cmds, ports := t.ports, fabReqs := t.fabReqs, emptyLines := t.emptyLines, errLogs := t.errLogs
      errInjs := t.errInjs, log := t.log, vbd := t.vbd, ops := t.ops, ctxs := t.ctxs, cores := t.cores } := by
  constructor
  · rintro ⟨u, hu, ht⟩
    unfold Accesses at hu
    rw [ht, hu]
  · intro h
    refine ⟨{ t with ops := s.ops, ctxs := s.ctxs, cores := s.cores }, ?_, rfl⟩
    unfold Accesses
    rw [h]

theorem Replays.trans {s t u : State} (h : Replays s t) (k : Replays t u) : Replays s u := by
  rw [replays_iff] at *
  rw [h] at k
  exact k

theorem Replays.foldl {α : Type} {op : State → α → State} (k : ∀ u x, Replays u (op u x)) (l : List α) (s : State) : Replays s (l.foldl op s) := by
  induction l generalizing s with
  | nil => exact .refl s
  | cons x l ih => exact (k s x).trans (ih _)

theorem replays_postSide (s : State) (t : ThreadId) (f : AccFault) : Replays s (s.postSide t f) := ⟨s, .refl s, rfl⟩

theorem replays_replayOne (s : State) (c : Nat) (e : SideEntry) (p : Spot) : Replays s (s.replayOne c e p) := by
  have hecc := (accesses_touchSpot s p true).trans (accesses_eccKept _ (arrayId 10 c) e.order e.ctx)
  exact (hecc.trans (accesses_performLoc _ e.req.who (some e.thread) p.loc _)).replays.trans ⟨_, .refl _, rfl⟩

theorem replays_replayList (s : State) (c ctx : Nat) (es kept : List SideEntry) (stopped : List Nat) :
    Replays s (s.replayList c ctx es kept stopped).2 := by
  induction es generalizing s kept stopped with
  | nil => exact .refl s
  | cons e es ih =>
    have h := (accesses_resolve s e.req spGlobal (BitVec.ofNat 64 e.va) e.op.len e.op.kind).replays
    rw [State.replayList]
    by_cases hskip : e.ctx ≠ ctx ∨ stopped.contains (pageOf e.va) = true
    · rw [if_pos hskip]
      exact ih s _ _
    · rw [if_neg hskip]
      split <;> rename_i heq <;> rw [heq] at h
      · exact (h.trans (replays_postSide _ e.thread _)).trans (ih _ _ _)
      · refine (h.trans ?_).trans (ih _ _ _)
        split_ifs
        · exact .refl _
        · exact replays_replayOne _ c e _

theorem replays_replayCore (s : State) (ctx c : Nat) : Replays s (s.replayCore ctx c) :=
  (replays_replayList s c ctx (s.core c).sideLog [] []).trans ⟨_, .refl _, rfl⟩

/-- The logs of all cores that hold an entry of a context, replayed. -/
def replayed (s : State) (ctx : Nat) : State :=
  ((s.cores.filter (fun e => e.2.sideLog.any (fun x => x.ctx == ctx))).map (·.1)).foldl (fun (u : State) c => u.replayCore ctx c) s

theorem replays_replayed (s : State) (ctx : Nat) : Replays s (replayed s ctx) := Replays.foldl (fun u c => replays_replayCore u ctx c) _ s

theorem Replays.fields {s t : State} (h : Replays s t) : t.fences = s.fences ∧ t.fenceMarks = s.fenceMarks ∧ t.regs = s.regs := by
  rw [replays_iff] at h
  rw [h]
  exact ⟨rfl, rfl, rfl⟩

/-! ## What a completed fence releases -/

/-- What a fence of a context that lives leaves (R201, R203, R285). -/
theorem retryHeld_releases (s : State) (ctx : Nat) :
    (s.retryHeld ctx).fences = s.fences ∧ (s.retryHeld ctx).fenceMarks = s.fenceMarks ∧ (s.retryHeld ctx).regs = s.regs ∧
    (∀ o ∈ (s.retryHeld ctx).ops, o.ctx = ctx → o.held = false) ∧ (∀ e ∈ (s.retryHeld ctx).cmds, e.2.ctx = ctx → e.2.held = false) ∧
    ∀ c, FMap.find (s.retryHeld ctx).ctxs ctx = some c → c.fqBlocked = false := by
  obtain ⟨hf, hm, hr⟩ := (replays_replayed s ctx).fields
  refine ⟨hf, hm, hr, fun o ho hctx => ?_, fun e he hctx => ?_, fun c hc => ?_⟩
  · obtain ⟨x, -, rfl⟩ := List.mem_map.1 ho
    split_ifs at hctx ⊢ with h
    · rfl
    · exact absurd (beq_iff_eq.2 hctx) h
  · obtain ⟨x, -, rfl⟩ := List.mem_map.1 he
    split_ifs at hctx ⊢ with h
    · rfl
    · exact absurd (beq_iff_eq.2 hctx) h
  · have hfind : FMap.find (FMap.modify (replayed s ctx).ctxs ctx (fun c => { c with fqBlocked := false })) ctx = some c := hc
    rw [find_modify, if_pos rfl] at hfind
    obtain ⟨d, -, rfl⟩ := Option.map_eq_some_iff.1 hfind
    rfl

/-- A fence of a context that lives, completed. -/
theorem completeFence_releases (s : State) (f : Fence) :
    (∀ x ∈ (s.completeFence f).fences, x.id ≠ f.id) ∧
    (∃ m ∈ (s.completeFence f).fenceMarks, m.ctx = f.ctx ∧ m.va = f.va ∧ m.seq = s.writeSeq + 1) ∧
    (∀ o ∈ (s.completeFence f).ops, o.ctx = f.ctx → o.held = false) ∧ (∀ e ∈ (s.completeFence f).cmds, e.2.ctx = f.ctx → e.2.held = false) ∧
    (∀ c, FMap.find (s.completeFence f).ctxs f.ctx = some c → c.fqBlocked = false) ∧ (s.completeFence f).regs = s.regs := by
  obtain ⟨hfences, hmarks, hregs, hops, hcmds, hctxs⟩ :=
    retryHeld_releases (({ s with fences := s.fences.filter (fun x => x.id != f.id) } : State).dropForms f.ctx [f.va]) f.ctx
  refine ⟨fun x hx => ?_, ⟨{ ctx := f.ctx, va := f.va, seq := s.writeSeq + 1 }, ?_, rfl, rfl, rfl⟩, hops, hcmds, hctxs, hregs⟩
  · rw [State.completeFence, State.fenceDone, hfences] at hx
    exact bne_iff_ne.1 (List.mem_filter.1 hx).2
  · rw [State.completeFence, State.fenceDone, hmarks]
    exact List.mem_append_left _ (List.mem_singleton_self _)

/-! ## The end of a dying context (R45) -/

theorem tableFrames_congr {s t : State} (h : t.mem = s.mem) (table levels : Nat) : t.tableFrames table levels = s.tableFrames table levels := by
  induction levels generalizing table with
  | zero => rfl
  | succ n ih => simp only [State.tableFrames, numAt_of_mem_eq h, ih]

theorem ctxFrames_congr {s t : State} (h : t.mem = s.mem) (hc : t.ctxs = s.ctxs) (ctx : Nat) : t.ctxFrames ctx = s.ctxFrames ctx := by
  have hroot : t.ptRoot ctx = s.ptRoot ctx := by
    rw [State.ptRoot, hc]
    rfl
  rw [State.ctxFrames, hroot, tableFrames_congr h]
  rfl

/-- A state with other fences. -/
def withFences (s : State) (fs : List Fence) : State := { s with fences := fs }

theorem releaseCtx_ends (s : State) (fs : List Fence) (ctx : Nat) :
    FMap.find ((withFences s fs).releaseCtx ctx).ctxs ctx = none ∧
    (∀ k, k ≠ ctx → FMap.find ((withFences s fs).releaseCtx ctx).ctxs k = FMap.find s.ctxs k) ∧
    ((withFences s fs).releaseCtx ctx).host = { s.host with ctxDone := true, ctxBusy := false, ctxErr := 0 } ∧
    ((withFences s fs).releaseCtx ctx).endedFrames = s.endedFrames ++ s.ctxFrames ctx ∧
    (∀ o ∈ ((withFences s fs).releaseCtx ctx).ops, o.ctx ≠ ctx) ∧ (∀ e ∈ ((withFences s fs).releaseCtx ctx).queues, e.1.1 ≠ ctx) ∧
    ((withFences s fs).releaseCtx ctx).mem = s.mem := by
  refine ⟨find_erase_same s.ctxs ctx, fun k hk => find_erase_other s.ctxs hk, rfl, ?_, fun o ho => ?_, fun e he => ?_, rfl⟩
  · exact congrArg (s.endedFrames ++ ·) (ctxFrames_congr (s := s) (t := withFences s fs) rfl rfl ctx)
  · exact bne_iff_ne.1 (List.mem_filter.1 ho).2
  · exact bne_iff_ne.1 (List.mem_filter.1 he).2

/-! ## TRANSLATION_FENCE_COMPLETE -/

section
variable {s : State} {id : Nat} {f : Fence} (hf : s.fences.find? (fun x => x.id == id) = some f)
include hf

theorem exec_fence_waits (h : s.ctxInFlight f.ctx = true) : exec (.translationFenceComplete id) s = .next s := by
  show execTranslationFenceComplete id s = _
  rw [execTranslationFenceComplete, hf]
  exact if_pos h

variable (hflight : s.ctxInFlight f.ctx = false)
include hflight

theorem exec_fence_living (h : ∀ c, FMap.find s.ctxs f.ctx = some c → c.dying = false) :
    exec (.translationFenceComplete id) s = .next (s.completeFence f) := by
  show execTranslationFenceComplete id s = _
  rw [execTranslationFenceComplete, hf]
  dsimp only
  refine (if_neg (by simp [hflight])).trans (if_pos ?_)
  cases hc : FMap.find s.ctxs f.ctx with
  | none => rfl
  | some c => simp [h c hc]

variable {c : Context} (hc : FMap.find s.ctxs f.ctx = some c) (hdying : c.dying = true)
include hc hdying

theorem exec_fence_dying : exec (.translationFenceComplete id) s =
    if s.ctxAtWork f.ctx false then .next s else if s.ctxAtWork f.ctx true then .next (s.fenceDone f.ctx [none])
      else .next ((withFences s (s.fences.filter (fun x => x.ctx != f.ctx))).releaseCtx f.ctx) := by
  show execTranslationFenceComplete id s = _
  rw [execTranslationFenceComplete, hf]
  dsimp only
  exact (if_neg (by simp [hflight])).trans (if_neg (by simp [hc, hdying]))

end

end Sys2Proof.Proofs
end

section
/-! VBD blocks written back and pages packed again (R169 to R173). -/

namespace Sys2Proof.Proofs

open Sys2Proof Sys2Proof.Machine Sys2Proof.Laws

/-! ## A block written back (R171) -/

/-- Whether an entry of the slice is a block's. -/
def isBlock (b x : VbdBlock) : Bool := x.frame == b.frame && x.block == b.block

/-- A block no longer held dirty. -/
def dropBlock (s : State) (b : VbdBlock) : State := { s with vbd := s.vbd.filter (fun x => !isBlock b x) }

/-- The form in which a block is stored (R169). -/
def blockForm (s : State) (b : VbdBlock) : Nat × Nat × List Byte := vbdEncode b.esz (s.bytesAt (vbdAt (b.frame + 256 * b.block)) 256)

/-- The block stored, its slot first and its descriptor last. -/
def storeBlock (s : State) (b : VbdBlock) (slot : Nat) (bytes : List Byte) (desc : BitVec 32) : State :=
  ((dropBlock s b).write .device slot bytes).write .device (b.frame + 4 * b.block) (leBytes 4 desc.toNat)

/-- Poison of a block carried to where it is stored. -/
def carryPoison (s t : State) (b : VbdBlock) (a n : Nat) : State :=
  if (s.firstPoison (vbdAt (b.frame + 256 * b.block)) 256).isSome then t.addPoison a n else t

theorem writesOnly_carryPoison (s t : State) (b : VbdBlock) (a n : Nat) : WritesOnly t (carryPoison s t b a n) := by
  unfold carryPoison
  split_ifs
  · rfl
  · rfl

theorem mem_carryPoison (s t : State) (b : VbdBlock) (a n : Nat) : (carryPoison s t b a n).mem = t.mem := by
  unfold carryPoison
  split_ifs
  · rfl
  · rfl

theorem writesOnly_storeBlock (s : State) (b : VbdBlock) (slot : Nat) (bytes : List Byte) (desc : BitVec 32) :
    WritesOnly (dropBlock s b) (storeBlock s b slot bytes desc) := (writesOnly_write _ _ _ _).trans (writesOnly_write _ _ _ _)

theorem mem_storeBlock (s : State) (b : VbdBlock) (slot : Nat) (bytes : List Byte) (desc : BitVec 32) : (storeBlock s b slot bytes desc).mem =
    memSetMany (memSetMany s.mem slot bytes) (b.frame + 4 * b.block) (leBytes 4 desc.toNat) := by
  rw [storeBlock, mem_write, mem_write]
  rfl

/-- A write of no bytes changes nothing. -/
theorem write_nil (s : State) (who : Party) (a : Nat) : s.write who a [] = s := rfl

/-- A block of zeros: its descriptor alone. -/
theorem vbdWriteback_zeros {s : State} {b : VbdBlock} (h : (blockForm s b).1 = 0) : s.vbdWriteback b =
    carryPoison s (storeBlock s b (b.frame + 0x40 + 128 * b.block) [] (vbdDesc 0 0 0)) b (b.frame + 4 * b.block) 4 := by
  unfold blockForm at h
  unfold State.vbdWriteback
  dsimp only
  rw [h, storeBlock, write_nil]
  rfl

/-- A block that fits its slot. -/
theorem vbdWriteback_slot {s : State} {b : VbdBlock} (h : (blockForm s b).1 = 1) : s.vbdWriteback b =
    carryPoison s (storeBlock s b (b.frame + 0x40 + 128 * b.block) (blockForm s b).2.2 (vbdDesc 1 (blockForm s b).2.1 0)) b
      (b.frame + 0x40 + 128 * b.block) 128 := by
  have h' := h
  unfold blockForm at h'
  unfold State.vbdWriteback
  dsimp only
  rw [h']
  rfl

theorem or_of_ite {α : Type} {P Q : α → Prop} {c : Prop} [Decidable c] {x y : α} (hx : Q x) (hy : P y) :
    P (if c then x else y) ∨ Q (if c then x else y) := by
  split_ifs
  · exact .inr hx
  · exact .inl hy

/-- Every write-back stores the block, or asks for the page to be packed again. -/
theorem vbdWriteback_cases (s : State) (b : VbdBlock) : WritesOnly (dropBlock s b) (s.vbdWriteback b) ∨
    ((s.vbdWriteback b).regs = s.regs ∧ b.frame ∈ (s.vbdWriteback b).repackReqs) := by
  unfold State.vbdWriteback
  dsimp only
  split
  · exact .inl (WritesOnly.trans (writesOnly_write (dropBlock s b) _ _ _) (writesOnly_carryPoison s _ b _ _))
  · exact .inl ((writesOnly_storeBlock s b _ _ _).trans (writesOnly_carryPoison s _ b _ _))
  · refine or_of_ite (P := WritesOnly (dropBlock s b)) (Q := fun t => t.regs = s.regs ∧ b.frame ∈ t.repackReqs) ⟨rfl, ?_⟩
      ((writesOnly_storeBlock s b _ _ _).trans (writesOnly_carryPoison s _ b _ _))
    dsimp only
    split_ifs with hin
    · exact List.contains_iff_mem.1 hin
    · exact List.mem_append_right _ (List.mem_singleton_self _)

theorem zeros_of_kind (e : Nat) (bytes : List Byte) (h : (vbdEncode e bytes).1 = 0) : vbdEncode e bytes = (0, 0, []) := by
  unfold vbdEncode at h ⊢
  dsimp only at h ⊢
  by_cases hz : (vbdSplit e bytes).all (· == 0) = true
  · rw [if_pos hz]
  · rw [if_neg hz] at h
    generalize (if e = 4 then [0, 1, 2, 3] else [0, 1, 2]).find? (fun c => vbdFits e (vbdWidth c) (vbdSplit e bytes)) = width at h
    cases width with
    | none => exact absurd h (by decide : ¬3 = 0)
    | some c =>
      dsimp only at h
      split_ifs at h

/-- The slot's bytes of a stored block, and its descriptor. -/
theorem stored_block {s t : State} {b : VbdBlock} (w : Memory.wf s.mem = true) (hblock : b.block < 16) {bytes : List Byte} {desc : BitVec 32}
    (ht : t.mem = memSetMany (memSetMany s.mem (b.frame + 0x40 + 128 * b.block) bytes) (b.frame + 4 * b.block) (leBytes 4 desc.toNat)) :
    t.numAt (b.frame + 4 * b.block) 4 = desc.toNat ∧ t.bytesAt (b.frame + 0x40 + 128 * b.block) bytes.length = bytes := by
  have hslot := wf_memSetMany s.mem (b.frame + 0x40 + 128 * b.block) bytes w
  refine ⟨?_, ?_⟩
  · have hdesc := memGetMany_memSetMany _ (b.frame + 4 * b.block) (leBytes 4 desc.toNat) hslot
    rw [length_leBytes, ← ht] at hdesc
    rw [State.numAt, State.bytesAt, hdesc, ofLe_leBytes]
    exact Nat.mod_eq_of_lt desc.isLt
  · have hbytes := memGetMany_memSetMany s.mem (b.frame + 0x40 + 128 * b.block) bytes w
    have hkeep : ∀ i < bytes.length, t.byteAt (b.frame + 0x40 + 128 * b.block + i) =
        memGet (memSetMany s.mem (b.frame + 0x40 + 128 * b.block) bytes) (b.frame + 0x40 + 128 * b.block + i) := fun i _ => by
      rw [State.byteAt, ht, memGet_memSetMany_outside _ _ _ _ hslot]
      rw [length_leBytes]
      omega
    refine List.ext_getElem? (fun i => ?_)
    by_cases hi : i < bytes.length
    · rw [getElem?_bytesAt _ _ _ _ hi, hkeep i hi, memGet_memSetMany_inside _ _ _ _ w hi, List.getD_eq_getElem?_getD,
        List.getElem?_eq_getElem hi]
      rfl
    · rw [List.getElem?_eq_none (by rw [State.bytesAt, length_memGetMany]; omega), List.getElem?_eq_none (by omega)]

/-- A block whose form needs no exception units, written back. -/
theorem vbdWriteback_small {s : State} {b : VbdBlock} (w : Memory.wf s.mem = true) (hform : (blockForm s b).1 ≤ 1) :
    WritesOnly (dropBlock s b) (s.vbdWriteback b) ∧ (b.block < 16 →
      (s.vbdWriteback b).numAt (b.frame + 4 * b.block) 4 = (vbdDesc (blockForm s b).1 (blockForm s b).2.1 0).toNat ∧
      ((blockForm s b).1 = 1 →
        (s.vbdWriteback b).bytesAt (b.frame + 0x40 + 128 * b.block) (blockForm s b).2.2.length = (blockForm s b).2.2)) := by
  have hkind : (blockForm s b).1 = 0 ∨ (blockForm s b).1 = 1 := by omega
  obtain h0 | h1 := hkind
  · have hform0 : blockForm s b = (0, 0, []) := zeros_of_kind _ _ h0
    rw [vbdWriteback_zeros h0]
    refine ⟨(writesOnly_storeBlock s b _ _ _).trans (writesOnly_carryPoison s _ b _ _), fun hblock => ?_⟩
    obtain ⟨hdesc, -⟩ := stored_block w hblock ((mem_carryPoison s _ b _ _).trans (mem_storeBlock s b _ [] (vbdDesc 0 0 0)))
    rw [hform0]
    exact ⟨hdesc, by simp⟩
  · rw [vbdWriteback_slot h1]
    refine ⟨(writesOnly_storeBlock s b _ _ _).trans (writesOnly_carryPoison s _ b _ _), fun hblock => ?_⟩
    obtain ⟨hdesc, hbytes⟩ := stored_block w hblock ((mem_carryPoison s _ b _ _).trans (mem_storeBlock s b _ _ _))
    rw [h1]
    exact ⟨hdesc, fun _ => hbytes⟩

/-! ## L2_WRITEBACK -/

theorem not_isBlock_of_dropBlock {s t : State} {b : VbdBlock} (h : WritesOnly (dropBlock s b) t) :
    ∀ x ∈ t.vbd, ¬(x.frame = b.frame ∧ x.block = b.block) := by
  have hvbd : t.vbd = (dropBlock s b).vbd := by rw [h]
  intro x hx
  rw [hvbd] at hx
  rintro ⟨hframe, hblock⟩
  have hno := (List.mem_filter.1 hx).2
  simp [isBlock, hframe, hblock] at hno

/-- Dropping a block that is not held leaves the count of held blocks. -/
theorem heldAt_dropBlock {s t : State} {b : VbdBlock} (h : WritesOnly (dropBlock s b) t) (hfree : ∀ x ∈ s.vbd, x.frame = b.frame → x.held = false)
    (frame : Nat) : t.heldAt frame = s.heldAt frame := by
  have hvbd : t.vbd = (dropBlock s b).vbd := by rw [h]
  show (List.filter _ t.vbd).length = (List.filter _ s.vbd).length
  rw [hvbd, dropBlock, List.filter_filter]
  congr 1
  refine List.filter_congr (fun x hx => ?_)
  by_cases hb : isBlock b x = true
  · have hframe : x.frame = b.frame := by
      simp only [isBlock, Bool.and_eq_true, beq_iff_eq] at hb
      exact hb.1
    simp [hfree x hx hframe]
  · simp [hb]

section
variable {s : State} {frame block : Nat} {b : VbdBlock} (hb : s.vbd.find? (fun b => b.frame == frame && b.block == block) = some b)
include hb

theorem block_of_find : b.frame = frame ∧ b.block = block := by
  have h := List.find?_some hb
  simpa using h

theorem exec_l2Writeback_held (h : ∃ x ∈ s.vbd, x.frame = frame ∧ x.held = true) : exec (.l2Writeback frame block) s = .next s := by
  have hany : (s.vbd.any (fun x => x.frame == frame && x.held)) = true := by
    obtain ⟨x, hx, hf, hh⟩ := h
    exact List.any_eq_true.2 ⟨x, hx, by simp [hf, hh]⟩
  show execL2Writeback frame block s = _
  rw [execL2Writeback, hb]
  exact if_pos hany

theorem exec_l2Writeback (h : ∀ x ∈ s.vbd, x.frame = frame → x.held = false) : exec (.l2Writeback frame block) s =
    .next (if (s.vbdWriteback b).heldAt frame ≠ s.heldAt frame ∧ 16 ≤ s.heldAt frame then s else s.vbdWriteback b) := by
  have hany : ¬(s.vbd.any (fun x => x.frame == frame && x.held)) = true := by
    rw [List.any_eq_true]
    rintro ⟨x, hx, hx2⟩
    simp only [Bool.and_eq_true, beq_iff_eq] at hx2
    rw [h x hx hx2.1] at hx2
    exact absurd hx2.2 (by decide)
  show execL2Writeback frame block s = _
  rw [execL2Writeback, hb, apply_ite Host.Outcome.next]
  exact if_neg hany

theorem l2Writeback_completes (w : Memory.wf s.mem = true) (h : ∀ x ∈ s.vbd, x.frame = frame → x.held = false) :
    Completes (.l2Writeback frame block) s (fun t => t.regs = s.regs ∧
      (t = s ∨ frame ∈ t.repackReqs ∨ ∀ x ∈ t.vbd, ¬(x.frame = frame ∧ x.block = block)) ∧
      ((blockForm s b).1 ≤ 1 → block < 16 →
        t.numAt (frame + 4 * block) 4 = (vbdDesc (blockForm s b).1 (blockForm s b).2.1 0).toNat ∧ (∀ x ∈ t.vbd, ¬(x.frame = frame ∧ x.block = block)) ∧
        ((blockForm s b).1 = 1 → t.bytesAt (frame + 0x40 + 128 * block) (blockForm s b).2.2.length = (blockForm s b).2.2))) := by
  obtain ⟨rfl, rfl⟩ := block_of_find hb
  refine ⟨_, exec_l2Writeback hb h, ?_⟩
  by_cases hform : (blockForm s b).1 ≤ 1
  · obtain ⟨hw, hstored⟩ := vbdWriteback_small w hform
    rw [if_neg (fun hc => hc.1 (heldAt_dropBlock hw h _))]
    refine ⟨?_, .inr (.inr (not_isBlock_of_dropBlock hw)), fun _ hblock => ?_⟩
    · rw [hw]
      rfl
    · obtain ⟨hdesc, hbytes⟩ := hstored hblock
      exact ⟨hdesc, not_isBlock_of_dropBlock hw, hbytes⟩
  · refine ⟨?_, ?_, fun hc => absurd hc hform⟩
    · split_ifs
      · rfl
      · obtain hw | ⟨hr, -⟩ := vbdWriteback_cases s b
        · rw [hw]
          rfl
        · exact hr
    · split_ifs
      · exact .inl rfl
      · obtain hw | ⟨-, hin⟩ := vbdWriteback_cases s b
        · exact .inr (.inr (not_isBlock_of_dropBlock hw))
        · exact .inr (.inl hin)

end

/-! ## REPACK_SERVICE (R172) -/

theorem mem_eccBytes (s : State) (a n ctx : Nat) : (s.eccBytes a n ctx).mem = s.mem := by
  have hstored (u : State) (w : Nat) : (u.eccStored (8 * w) ctx).2.mem = u.mem := by
    unfold State.eccStored
    split
    · rfl
    · exact (checked_eccRead u _ _ _ _).mem
  have hfold (l : List Nat) (u : State) : (l.foldl (fun (t : State) w =>
      let e := t.eccStored (8 * w) ctx
      if e.1 then e.2.addPoison (8 * w) 1 else e.2) u).mem = u.mem := by
    induction l generalizing u with
    | nil => rfl
    | cons w l ih =>
      refine (ih _).trans ?_
      dsimp only
      split_ifs
      · exact hstored u w
      · exact hstored u w
  unfold State.eccBytes
  split_ifs
  · rfl
  · exact hfold _ s

theorem wf_eccBytes {s : State} (w : Memory.wf s.mem = true) (a n ctx : Nat) : Memory.wf (s.eccBytes a n ctx).mem = true := by
  rwa [mem_eccBytes]

theorem wf_addPoison {s : State} (w : Memory.wf s.mem = true) (a n : Nat) : Memory.wf (s.addPoison a n).mem = true := w

theorem wf_vbdNote {s : State} (w : Memory.wf s.mem = true) (frame block : Nat) : Memory.wf (s.vbdNote frame block).mem = true := w

theorem wf_vbdFill {s : State} (w : Memory.wf s.mem = true) (frame e block : Nat) : Memory.wf (s.vbdFill frame e block).mem = true := by
  have h1 := wf_eccBytes w (frame + 4 * block) 4 0
  unfold State.vbdFill
  dsimp only
  split_ifs
  · exact w
  · exact wf_addPoison (wf_writeOwn _ _ _ (wf_eccBytes h1 _ _ 0)) _ _
  · exact wf_writeOwn _ _ _ (wf_eccBytes h1 _ _ 0)
  · exact wf_addPoison (wf_vbdNote h1 _ _) _ _

theorem pageBlocks_keeps {s : State} (w : Memory.wf s.mem = true) (frame e : Nat) :
    Serves s (s.pageBlocks frame e).2 ∧ Memory.wf (s.pageBlocks frame e).2.mem = true := by
  have hfold (l : List Nat) (u : State) (hu : Memory.wf u.mem = true) : Memory.wf (l.foldl (fun (v : State) i => v.vbdFill frame e i) u).mem = true := by
    induction l generalizing u with
    | nil => exact hu
    | cons i l ih => exact ih _ (wf_vbdFill hu frame e i)
  unfold State.pageBlocks
  generalize List.range 16 = l
  exact ⟨Serves.foldl (fun u i => serves_vbdFill u frame e i) l s, hfold l s w⟩

theorem poison_markImage (s : State) (frame : Nat) (image : List Byte) (bad : Nat → Bool) :
    s.markImage frame image bad = { s with poison := (s.markImage frame image bad).poison } := by
  unfold State.markImage
  generalize List.range 16 = l
  induction l generalizing s with
  | nil => rfl
  | cons i l ih =>
    rw [List.foldl_cons]
    split_ifs
    · dsimp only
      split
      · exact ih (s.addPoison _ _)
      · exact ih (s.addPoison _ _)
      · exact ih (s.addPoison _ _)
    · exact ih s

theorem writesOnly_markImage (s : State) (frame : Nat) (image : List Byte) (bad : Nat → Bool) : WritesOnly s (s.markImage frame image bad) := by
  have hpoison := poison_markImage s frame image bad
  unfold WritesOnly
  rw [hpoison]

/-- `t` differs from `s` as entries put into the overflow ring make it differ (R173). -/
def Rings (s t : State) : Prop :=
  t = { s with
    mem := t.mem, hist := t.hist, writeSeq := t.writeSeq, poison := t.poison, log := t.log, overflow := t.overflow, host := t.host }

theorem Rings.trans {s t u : State} (h : Rings s t) (k : Rings t u) : Rings s u := by
  unfold Rings at h k
  rw [h] at k
  exact k

theorem Signals.rings {s t : State} (h : Signals s t) : Rings s t := by
  unfold Signals at h
  rw [h]
  rfl

/-- An entry written, the ring's index raised and its vector signalled. -/
theorem rings_push {s u : State} (h : Signals s u) (rest : List (Nat × Nat)) (host : HostRegs) (v : Nat) :
    Rings s ({ u with overflow := rest, host := host }.raiseVector v) := by
  refine Rings.trans ?_ (signals_raiseVector _ v).rings
  unfold Signals at h
  rw [h]
  rfl

theorem rings_ringOne (s : State) : Rings s s.ringOne := by
  unfold State.ringOne
  split
  · rfl
  · dsimp only
    split
    · rfl
    · exact rings_push (writesOnly_writePublished s _ _ _).signals _ _ _

theorem rings_ringAll (s : State) : Rings s s.ringAll := by
  unfold State.ringAll
  generalize List.range s.overflow.length = l
  induction l generalizing s with
  | nil => rfl
  | cons i l ih => exact (rings_ringOne s).trans (ih _)

end Sys2Proof.Proofs
end

section
/-! The memory's services settled: map fills, fences, VBD blocks, hotness counts and fault records (R153 to R155, R171 to R173, R201,
R206, R285). -/

namespace Sys2Proof.Proofs

open Sys2Proof Sys2Proof.Machine Sys2Proof.Laws

/-! ## MAP_FILL_COMPLETE (R154) -/

/-- A line filled holds its bytes, is filling no more, and nothing else of memory or of the registers changes. -/
theorem fillLine_fills {r : State} (w : Memory.wf r.mem = true) (wg line : Nat) (b : List Byte) :
    (r.fillLine wg line b).bytesAt (scratchAt wg (128 * line)) b.length = b ∧
    (∀ a, a < scratchAt wg (128 * line) ∨ scratchAt wg (128 * line) + b.length ≤ a → (r.fillLine wg line b).byteAt a = r.byteAt a) ∧
    (∀ x ∈ ((r.fillLine wg line b).wg wg).maps, x.covers line = true → ∀ y ∈ x.filling, y.line ≠ line) ∧
    (r.fillLine wg line b).regs = r.regs := by
  obtain ⟨hin, hout⟩ := bytes_of_mem (s := r) (t := r.fillLine wg line b) w rfl
  refine ⟨hin, hout, fun x hx hcovers y hy => ?_, rfl⟩
  have hmaps : ((r.fillLine wg line b).wg wg).maps =
      (r.wg wg).maps.map (fun m => if m.covers line then { m with filling := m.filling.filter (fun x => x.line != line) } else m) :=
    congrArg Workgroup.maps (wg_setWg_same r wg _)
  rw [hmaps] at hx
  obtain ⟨m, -, rfl⟩ := List.mem_map.1 hx
  by_cases hm : m.covers line = true
  · rw [if_pos hm] at hy
    exact bne_iff_ne.1 (List.mem_filter.1 hy).2
  · rw [if_neg hm] at hcovers
    exact absurd hcovers hm

section
variable {s : State} {wg line : Nat} {m : RegionMap} {f : MapFill} (hmap : s.mapAt wg line = some m)
  (hfill : m.filling.find? (fun f => f.line == line) = some f)
include hmap hfill

theorem mapFill_waits (hhelm : f.helm = false)
    (hwaits : (s.phasePending { wg := wg, grp := f.grp } || s.groupLogged { wg := wg, grp := f.grp } (pageOf (m.lineVa line))) = true) :
    exec (.mapFillComplete wg line) s = .next s := by
  show execMapFillComplete wg line s = _
  rw [execMapFillComplete, hmap]
  dsimp only
  rw [hfill]
  exact if_pos (by simp only [hhelm, hwaits, Bool.not_false, Bool.and_self])

theorem mapFill_fills {b : List Byte} {r : State}
    (hgo : f.helm = true ∨
      (s.phasePending { wg := wg, grp := f.grp } || s.groupLogged { wg := wg, grp := f.grp } (pageOf (m.lineVa line))) = false)
    (hread : s.readRec (s.fillReq wg f) .floor spGlobal (BitVec.ofNat 64 (m.lineVa line)) 128 = (.bytes b, r)) :
    exec (.mapFillComplete wg line) s = .next (r.fillLine wg line b) := by
  show execMapFillComplete wg line s = _
  rw [execMapFillComplete, hmap]
  dsimp only
  rw [hfill]
  dsimp only
  rw [hread]
  refine if_neg ?_
  obtain hhelm | hno := hgo
  · simp [hhelm]
  · simp [hno]

end

/-! ## MAP_WRITEBACK (R155) -/

section
variable {s : State} {wg line : Nat} {m : RegionMap} (hmap : s.mapAt wg line = some m)
include hmap

theorem mapWriteback_nothing (h : m.wb = false ∨ (s.launchOf wg).det = true ∨ s.sideRoom (s.coreOf wg) <
      ((s.dirtyWrites wg m).filter (fun x => decide (m.lineVa line ≤ x.1) && decide (x.1 < m.lineVa line + 128))).length) :
    exec (.mapWriteback wg line) s = .next s := by
  show execMapWriteback wg line s = _
  rw [execMapWriteback, hmap]
  refine if_pos ?_
  obtain hwb | hdet | hroom := h
  · simp [hwb]
  · simp [hdet]
  · simp [hroom]

theorem mapWriteback_stores (hwb : m.wb = true) (hdet : (s.launchOf wg).det = false)
    (hroom : ((s.dirtyWrites wg m).filter (fun x => decide (m.lineVa line ≤ x.1) && decide (x.1 < m.lineVa line + 128))).length ≤
      s.sideRoom (s.coreOf wg)) :
    exec (.mapWriteback wg line) s = .next
      (((s.dirtyWrites wg m).filter (fun x => decide (m.lineVa line ≤ x.1) && decide (x.1 < m.lineVa line + 128))).foldl
        (fun (acc : List Nat × State) x => acc.2.storeGlobal (s.mapReq wg) { wg := wg, grp := 0, lane := 0 } acc.1 x.1 x.2) ([], s)).2 := by
  show execMapWriteback wg line s = _
  rw [execMapWriteback, hmap]
  exact if_neg (by simp [hwb, hdet, Nat.not_lt.2 hroom])

end

/-! ## REPACK_SERVICE (R172, R173) -/

/-- The request of a frame served. -/
def repackTaken (u : State) (frame : Nat) : State := { u with repackReqs := u.repackReqs.filter (fun f => f != frame) }

/-- The element size of a frame's blocks, where the slice holds one. -/
def frameEsz (s : State) (frame : Nat) : Nat := match s.vbd.find? (fun b => b.frame == frame) with | some b => b.esz | none => 4

/-- A page's image stored, from its blocks as the slice holds them. -/
def repackImage (got : List (List Byte × Bool) × State) (frame : Nat) (image : List Byte) : State :=
  ((repackTaken got.2 frame).write .device frame (image.take 0xC00)).markImage frame image (fun i => (got.1.getD i ([], false)).2)

/-- The page rewritten in the form it packs into. -/
def repackWritten (got : List (List Byte × Bool) × State) (frame : Nat) (image : List Byte) : State :=
  { repackImage got frame image with vbd := (repackTaken got.2 frame).vbd.filter (fun b => b.frame != frame) }

/-- The page put into the overflow ring. -/
def repackOverflown (u : State) (frame : Nat) : State :=
  { repackTaken u frame with
    overflow := (repackTaken u frame).overflow ++
      [(frame, ((repackTaken u frame).vbd.filter (fun (b : VbdBlock) => b.frame == frame && b.held)).length)] }

theorem execRepackService_eq {s : State} {frame : Nat} (hreq : frame ∈ s.repackReqs) : exec (.repackService frame) s =
    match vbdImage (frameEsz s frame) ((s.pageBlocks frame (frameEsz s frame)).1.flatMap (fun x => x.1)) with
    | some image => .next (repackWritten (s.pageBlocks frame (frameEsz s frame)) frame image)
    | none => .next (repackOverflown (s.pageBlocks frame (frameEsz s frame)).2 frame).ringAll :=
  if_neg (by simp [hreq])

theorem not_mem_repackTaken (u : State) (frame : Nat) : frame ∉ (repackTaken u frame).repackReqs :=
  fun h => absurd (List.mem_filter.1 h).2 (by simp)

theorem writesOnly_repackImage (got : List (List Byte × Bool) × State) (frame : Nat) (image : List Byte) :
    WritesOnly (repackTaken got.2 frame) (repackImage got frame image) :=
  (writesOnly_write _ _ _ _).trans (writesOnly_markImage _ _ _ _)

theorem mem_repackImage (got : List (List Byte × Bool) × State) (frame : Nat) (image : List Byte) :
    (repackImage got frame image).mem = memSetMany got.2.mem frame (image.take 0xC00) := by
  unfold repackImage
  rw [poison_markImage]
  exact mem_write _ _ _ _

theorem repackWritten_holds {got : List (List Byte × Bool) × State} (w : Memory.wf got.2.mem = true) (frame : Nat) (image : List Byte) :
    frame ∉ (repackWritten got frame image).repackReqs ∧ (repackWritten got frame image).regs = got.2.regs ∧
    (repackWritten got frame image).bytesAt frame (image.take 0xC00).length = image.take 0xC00 ∧
    ∀ x ∈ (repackWritten got frame image).vbd, x.frame ≠ frame := by
  have hwrites := writesOnly_repackImage got frame image
  refine ⟨?_, hwrites.regs, (bytes_of_mem w (mem_repackImage got frame image)).1, fun x hx => ?_⟩
  · have hreqs : (repackImage got frame image).repackReqs = (repackTaken got.2 frame).repackReqs := by rw [hwrites]
    exact fun h => not_mem_repackTaken got.2 frame (hreqs ▸ h)
  · exact bne_iff_ne.1 (List.mem_filter.1 hx).2

theorem repackOverflown_holds (u : State) (frame : Nat) :
    frame ∉ (repackOverflown u frame).ringAll.repackReqs ∧ (repackOverflown u frame).ringAll.regs = u.regs := by
  have hrings := rings_ringAll (repackOverflown u frame)
  unfold Rings at hrings
  rw [hrings]
  exact ⟨not_mem_repackTaken u frame, rfl⟩

theorem repackService_completes {s : State} (w : Memory.wf s.mem = true) {frame : Nat} (hreq : frame ∈ s.repackReqs) :
    Completes (.repackService frame) s (fun t => frame ∉ t.repackReqs ∧ t.regs = s.regs ∧
      ∀ image, vbdImage (frameEsz s frame) ((s.pageBlocks frame (frameEsz s frame)).1.flatMap (fun x => x.1)) = some image →
        t.bytesAt frame (image.take 0xC00).length = image.take 0xC00 ∧ ∀ x ∈ t.vbd, x.frame ≠ frame) := by
  have hexec := execRepackService_eq hreq
  obtain ⟨hserves, hwf⟩ := pageBlocks_keeps w frame (frameEsz s frame)
  generalize s.pageBlocks frame (frameEsz s frame) = got at hexec hserves hwf ⊢
  have hsame : got.2.regs = s.regs := by
    unfold Serves at hserves
    rw [hserves]
  generalize vbdImage (frameEsz s frame) (got.1.flatMap (fun x => x.1)) = packed at hexec ⊢
  cases packed with
  | some image =>
    obtain ⟨hreqs, hregs, hbytes, hvbd⟩ := repackWritten_holds hwf frame image
    refine ⟨_, hexec, hreqs, hregs.trans hsame, fun image' h => ?_⟩
    obtain rfl := Option.some.inj h
    exact ⟨hbytes, hvbd⟩
  | none =>
    obtain ⟨hreqs, hregs⟩ := repackOverflown_holds got.2 frame
    exact ⟨_, hexec, hreqs, hregs.trans hsame, fun image h => absurd h (Option.some_ne_none image).symm⟩

/-! ## HOTNESS_SAMPLE (R206) -/

/-- A fill counted at a slice. -/
def fillCounted (s : State) (slice : Nat) : State :=
  { s with hotFills := FMap.set s.hotFills slice ((FMap.getD s.hotFills slice 0 + 1) % 64) }

/-- Whether the fill counts its page: it is the slice's 64th, counting is enabled, and the counter is not at its greatest value. -/
def CountsPage (s : State) (slice frame : Nat) : Prop :=
  FMap.getD s.hotFills slice 0 = 63 ∧ bitAt s.hotBase 0 = true ∧ s.byteAt (s.hotCounter frame) ≠ 0xFF

section
variable {s : State} {slice frame : Nat} (hspace : spaceOf frame ≤ 1)
include hspace

theorem exec_hotnessSample_counts (h : CountsPage s slice frame) : exec (.hotnessSample slice frame) s =
    .next ((fillCounted s slice).write .device (s.hotCounter frame) [s.byteAt (s.hotCounter frame) + 1]) := by
  obtain ⟨hfills, hbit, hfull⟩ := h
  refine (if_neg (Nat.not_lt.2 hspace)).trans ((if_pos ⟨?_, hbit⟩).trans (congrArg Host.Outcome.next (if_neg hfull)))
  rw [hfills]

theorem exec_hotnessSample_skips (h : ¬CountsPage s slice frame) : exec (.hotnessSample slice frame) s = .next (fillCounted s slice) := by
  refine (if_neg (Nat.not_lt.2 hspace)).trans ?_
  by_cases hcount : FMap.getD s.hotFills slice 0 + 1 = 64 ∧ bitAt s.hotBase 0 = true
  · obtain ⟨hfills, hbit⟩ := hcount
    refine (if_pos ⟨hfills, hbit⟩).trans (congrArg Host.Outcome.next (if_pos ?_))
    by_contra hfull
    exact h ⟨by omega, hbit, hfull⟩
  · exact if_neg hcount

end

/-! ## FAULT_RECORD_POST (R285) -/

section
variable {s r : State} {ctx : Nat} {c : Context} {x : FaultRec} {rest : List FaultRec} {b : List Byte} (hctx : FMap.find s.ctxs ctx = some c)
  (hwaiting : c.fqWaiting = x :: rest) (hblocked : c.fqBlocked = false) (hdying : c.dying = false)
  (hread : s.devRead ctx c.fqRidxAddr 8 = (.bytes b, r))
include hctx hwaiting hblocked hdying hread

theorem exec_faultRecordPost : exec (.faultRecordPost ctx) s =
    if (c.fqWidx + 2 ^ 64 - ofLe b) % 2 ^ 64 < 2 ^ c.fqLog2n then .next (r.postHead ctx c x rest) else .next r := by
  show execFaultRecordPost ctx s = _
  rw [execFaultRecordPost, hctx]
  dsimp only
  rw [hwaiting]
  dsimp only
  rw [hread]
  exact if_neg (by simp [hblocked, hdying])

end

/-- The head posted: the context forgets it and raises its write index. -/
theorem postHead_posts {r u v : State} {ctx : Nat} {c : Context} {x : FaultRec} (rest : List FaultRec)
    (hrec : r.devWrite ctx (c.fqBase + BitVec.ofNat 64 (64 * (c.fqWidx % 2 ^ c.fqLog2n))) x = (.done, u))
    (hidx : u.devWrite ctx c.fqWidxAddr (leBytes 8 (c.fqWidx + 1)) = (.done, v)) :
    FMap.find (r.postHead ctx c x rest).ctxs ctx =
      (FMap.find v.ctxs ctx).map (fun y => { y with fqWaiting := rest, fqWidx := (c.fqWidx + 1) % 2 ^ 64 }) ∧
    (r.postHead ctx c x rest).regs = v.regs := by
  unfold State.postHead
  rw [hrec]
  dsimp only
  rw [hidx]
  dsimp only
  generalize (c.fqWidx + 1) % 2 ^ 64 = widx
  have hsignals := signals_raiseVector ({ v with ctxs := FMap.modify v.ctxs ctx (fun y => { y with fqWaiting := rest, fqWidx := widx }) }) c.fqVec
  unfold Signals at hsignals
  rw [hsignals]
  refine ⟨?_, rfl⟩
  exact (find_modify v.ctxs ctx ctx _).trans (if_pos rfl)

/-- What a counted fill leaves: its slice's count, and one byte where it counts its page. -/
theorem hotnessSample_completes {s : State} (w : Memory.wf s.mem = true) (slice : Nat) {frame : Nat} (hspace : spaceOf frame ≤ 1) :
    Completes (.hotnessSample slice frame) s (fun t =>
      FMap.getD t.hotFills slice 0 = (FMap.getD s.hotFills slice 0 + 1) % 64 ∧ t.regs = s.regs ∧
      (∀ a, a ≠ s.hotCounter frame → t.byteAt a = s.byteAt a) ∧
      t.byteAt (s.hotCounter frame) =
        if FMap.getD s.hotFills slice 0 = 63 ∧ bitAt s.hotBase 0 = true ∧ s.byteAt (s.hotCounter frame) ≠ 0xFF
        then s.byteAt (s.hotCounter frame) + 1 else s.byteAt (s.hotCounter frame)) := by
  have hcount : FMap.getD (fillCounted s slice).hotFills slice 0 = (FMap.getD s.hotFills slice 0 + 1) % 64 := getD_set_same _ _ _ _
  by_cases h : CountsPage s slice frame
  · have hwrites := writesOnly_write (fillCounted s slice) .device (s.hotCounter frame) [s.byteAt (s.hotCounter frame) + 1]
    obtain ⟨hin, hout⟩ := bytes_of_mem (s := s) w (mem_write (fillCounted s slice) .device (s.hotCounter frame) [s.byteAt (s.hotCounter frame) + 1])
    refine ⟨_, exec_hotnessSample_counts hspace h, ?_, hwrites.regs, fun a ha => hout a ?_, ?_⟩
    · rw [hwrites]
      exact hcount
    · rw [List.length_singleton]
      omega
    · exact (List.cons.inj hin).1.trans (if_pos h).symm
  · exact ⟨_, exec_hotnessSample_skips hspace h, hcount, rfl, fun _ _ => rfl, (if_neg h).symm⟩

/-- Settles O54: each service by what its completion writes, releases or posts. -/
theorem memoryServiceResults : Obligations.MemoryServiceResults := by
  unfold Obligations.MemoryServiceResults
  intro s w
  refine ⟨fun wg line m f b r hmap hfill wr => ⟨fun hhelm hwaits => ?_, fun hgo hread => ?_⟩,
    fun wg line m hmap => ⟨fun h => ?_, fun hwb hdet hroom => ?_⟩,
    fun id f hf => ⟨fun h => ?_, fun h hliving => ?_, fun h c hc hdying hwork => ?_, fun h c hc hdying hwork hheld => ?_,
      fun h c hc hdying hwork hheld => ?_⟩,
    fun frame block b hb => ⟨fun h => ?_, fun h => ?_⟩, fun frame hreq => ?_, fun slice frame hspace => hotnessSample_completes w slice hspace,
    fun ctx c x rest b r hctx hwaiting hblocked hdying hread => ⟨fun hfull => ?_, fun hroom u v hrec hidx => ?_⟩⟩
  · exact ⟨_, mapFill_waits hmap hfill hhelm hwaits, rfl⟩
  · exact ⟨_, mapFill_fills hmap hfill hgo hread, fillLine_fills wr wg line b⟩
  · exact ⟨_, mapWriteback_nothing hmap h, rfl⟩
  · exact ⟨_, mapWriteback_stores hmap hwb hdet hroom, rfl⟩
  · exact ⟨_, exec_fence_waits hf h, rfl⟩
  · exact ⟨_, exec_fence_living hf h hliving, completeFence_releases s f⟩
  · exact ⟨_, (exec_fence_dying hf h hc hdying).trans (if_pos hwork), rfl⟩
  · exact ⟨_, (exec_fence_dying hf h hc hdying).trans ((if_neg (by simp [hwork])).trans (if_pos hheld)), rfl⟩
  · exact ⟨_, (exec_fence_dying hf h hc hdying).trans ((if_neg (by simp [hwork])).trans (if_neg (by simp [hheld]))),
      releaseCtx_ends s _ f.ctx⟩
  · exact ⟨_, exec_l2Writeback_held hb h, rfl⟩
  · obtain ⟨hframe, hblock⟩ := block_of_find hb
    obtain ⟨t, hexec, hregs, hleft, hstored⟩ := l2Writeback_completes hb w h
    have hform : blockForm s b = vbdEncode b.esz (s.bytesAt (vbdAt (frame + 256 * block)) 256) := by rw [blockForm, hframe, hblock]
    rw [hform] at hstored
    exact ⟨t, hexec, hregs, hleft, fun hsmall hlt _ => hstored hsmall hlt⟩
  · have h := repackService_completes w hreq
    unfold frameEsz at h
    cases hfind : s.vbd.find? (fun b => b.frame == frame) with
    | some b =>
      rw [hfind] at h
      exact h
    | none =>
      rw [hfind] at h
      exact h
  · exact ⟨_, (exec_faultRecordPost hctx hwaiting hblocked hdying hread).trans (if_neg (Nat.not_lt.2 hfull)), rfl⟩
  · exact ⟨_, (exec_faultRecordPost hctx hwaiting hblocked hdying hread).trans (if_pos hroom), postHead_posts rest hrec hidx⟩

end Sys2Proof.Proofs
end

section
/-! What an access leaves of workgroups and of commands (R26, R41, R153, R154): only the maps of a workgroup change, and no command but
the one that asks notes a failure. -/

namespace Sys2Proof.Proofs

open Sys2Proof Sys2Proof.Machine Sys2Proof.Laws

/-- `t` has the workgroups of `s` but for their region maps, and its commands unless `who` is one. -/
structure Spares (who : Party) (s t : State) : Prop where
  wg : ∀ w, ∃ maps, t.wg w = { s.wg w with maps := maps }
  cmds : (∀ k, who ≠ .command k) → t.cmds = s.cmds

theorem Spares.same {who : Party} {s t : State} (hw : t.wgs = s.wgs) (hc : t.cmds = s.cmds) : Spares who s t :=
  ⟨fun w => ⟨(s.wg w).maps, by rw [State.wg, hw]; rfl⟩, fun _ => hc⟩

theorem Spares.refl (who : Party) (s : State) : Spares who s s := .same rfl rfl

theorem Spares.trans {who : Party} {s t u : State} (h : Spares who s t) (k : Spares who t u) : Spares who s u := by
  refine ⟨fun w => ?_, fun hw => (k.cmds hw).trans (h.cmds hw)⟩
  obtain ⟨l, hl⟩ := h.wg w
  obtain ⟨m, hm⟩ := k.wg w
  exact ⟨m, by rw [hm, hl]⟩

theorem Spares.ite {who : Party} {s t u : State} {c : Prop} [Decidable c] (h : Spares who s t) (k : Spares who s u) :
    Spares who s (if c then t else u) := by
  split_ifs
  · exact h
  · exact k

/-- A choice between two answers, each with its state. -/
theorem Spares.ite_snd {α : Type} {who : Party} {s : State} {x y : α × State} {c : Prop} [Decidable c] (h : Spares who s x.2)
    (k : Spares who s y.2) : Spares who s (if c then x else y).2 := by
  split_ifs
  · exact h
  · exact k

theorem Spares.foldl {α : Type} {who : Party} {op : State → α → State} (k : ∀ u x, Spares who u (op u x)) (l : List α) (s : State) :
    Spares who s (l.foldl op s) := by
  induction l generalizing s with
  | nil => exact .refl who s
  | cons x l ih => exact (k s x).trans (ih _)

/-- Workgroups keep their place while only their maps change. -/
theorem Spares.placeOf {who : Party} {s t : State} (h : Spares who s t) (p : Party) (w : Nat) : t.placeOf p w = s.placeOf p w := by
  obtain ⟨maps, hw⟩ := h.wg w
  simp only [State.placeOf, State.coreOf, hw]

/-- New maps of one workgroup. -/
theorem spares_setMaps (who : Party) (s : State) (w : Nat) (maps : List RegionMap) : Spares who s (s.setWg w { s.wg w with maps := maps }) := by
  refine ⟨fun j => ?_, fun _ => rfl⟩
  rw [wg_setWg]
  split_ifs with h
  · exact ⟨maps, by rw [h]⟩
  · exact ⟨(s.wg j).maps, rfl⟩

/-! ## What an access may write (R153, R154, R176) -/

section
variable (who : Party)

theorem spares_writeFuel (s : State) (p : Party) (a : Nat) (bs : List Byte) (n : Nat) : Spares who s (s.writeFuel p a bs n) := by
  induction n generalizing s a bs with
  | zero => exact .refl who s
  | succ n ih =>
    cases bs with
    | nil => exact .refl who s
    | cons b t => exact Spares.trans (t := s.writeWhole p a _) (.same rfl rfl) (ih _ _ _)

theorem spares_write (s : State) (p : Party) (a : Nat) (bs : List Byte) : Spares who s (s.write p a bs) := spares_writeFuel who s p a bs _

theorem spares_markDirty (s : State) (a n : Nat) : Spares who s (s.markDirty a n) := by
  unfold State.markDirty
  split
  · exact .refl who s
  · exact .ite (spares_setMaps who s _ _) (.refl who s)

theorem spares_addPoison (s : State) (a n : Nat) : Spares who s (s.addPoison a n) := .same rfl rfl

theorem spares_eccRead (s : State) (array entry : Nat) (addr : Word) (ctx : Nat) : Spares who s (s.eccRead array entry addr ctx).2 := by
  unfold State.eccRead
  split
  · exact .refl who s
  · split_ifs <;> exact .same rfl rfl

theorem spares_eccKept (s : State) (array key ctx : Nat) : Spares who s (s.eccKept array key ctx).2 :=
  .ite_snd (.refl who s) (spares_eccRead who s _ _ _ ctx)

theorem spares_eccStored (s : State) (a ctx : Nat) : Spares who s (s.eccStored a ctx).2 := by
  unfold State.eccStored
  split
  · exact .refl who s
  · exact spares_eccRead who s _ _ _ _

theorem spares_eccWord (s : State) (a ctx : Nat) : Spares who s (s.eccWord a ctx).2 :=
  Spares.trans (.ite_snd (spares_eccRead who s _ _ _ ctx) (.refl who s)) (spares_eccStored who _ a ctx)

theorem spares_eccBytes (s : State) (a n ctx : Nat) : Spares who s (s.eccBytes a n ctx) :=
  .ite (.refl who s) (.foldl (fun u _ =>
    .ite ((spares_eccStored who u _ ctx).trans (spares_addPoison who _ _ _)) (spares_eccStored who u _ ctx)) _ s)

theorem spares_vbdFill (s : State) (frame e block : Nat) : Spares who s (s.vbdFill frame e block) := by
  have h := spares_eccBytes who s (frame + 4 * block) 4 0
  unfold State.vbdFill
  refine .ite (.refl who s) (.ite ?_ (h.trans (.same rfl rfl)))
  exact h.trans ((spares_eccBytes who _ _ _ 0).trans (.ite (.same rfl rfl) (.same rfl rfl)))

theorem spares_vbdMark (s : State) (frame e block : Nat) : Spares who s (s.vbdMark frame e block) := .ite (.refl who s) (.same rfl rfl)

theorem spares_performFlat (s : State) (p : Party) (a : Nat) (op : WriteOp) : Spares who s (s.performFlat p a op) := by
  have hput (u : State) (b : Nat) (bs : List Byte) (n : Nat) : Spares who u ((u.write p b bs).markDirty b n) :=
    (spares_write who u p b bs).trans (spares_markDirty who _ b n)
  cases op with
  | store bs => exact .ite (.same rfl rfl) (hput s a bs _)
  | masked bs =>
    refine .foldl (fun u x => ?_) _ s
    split
    · exact hput u _ _ 1
    · exact .refl who u
  | poisoned n => exact ((spares_write who s p a _).trans (spares_addPoison who _ a n)).trans (spares_markDirty who _ a n)
  | reduce o tag u v => exact .ite (.refl who s) (.ite (.same rfl rfl) (hput s a _ 8))
  | atomic o tag u v c =>
    simp only [State.performFlat]
    split
    · exact .ite (.same rfl rfl) (hput s a _ 8)
    · exact .same rfl rfl

/-! ## Translation (R193, R198) -/

theorem spares_entryUsed (s : State) (ctx va level ea : Nat) (k : AccKind) : Spares who s (s.entryUsed ctx va level ea k).2 := by
  unfold State.entryUsed
  split
  · exact .refl who s
  · dsimp only
    split <;> exact .same rfl rfl

theorem spares_walk (s : State) (ctx va : Nat) (k : AccKind) (priv : Bool) (tier frame level fuel : Nat) :
    Spares who s (s.walk ctx va k priv tier frame level fuel).2 := by
  induction fuel generalizing s tier frame level with
  | zero => exact .refl who s
  | succ fuel ih =>
    have hecc := spares_eccWord who s (frameAt tier frame + 8 * levelIndex va level) ctx
    have hused := hecc.trans (spares_entryUsed who _ ctx va level (frameAt tier frame + 8 * levelIndex va level) k)
    rw [State.walk]
    refine .ite_snd (hecc.trans (spares_addPoison who _ _ _)) (.ite_snd hecc (.ite_snd hused (.ite_snd hused (.ite_snd ?_ (hused.trans (ih _ _ _ _))))))
    split <;> exact hused

theorem spares_rootUsed (s : State) (ctx va : Nat) : Spares who s (s.rootUsed ctx va).2 := by
  unfold State.rootUsed
  split
  · exact .refl who s
  · exact .same rfl rfl

theorem spares_resolve (s : State) (r : Req) (space : Nat) (a : Word) (n : Nat) (k : AccKind) : Spares who s (s.resolve r space a n k).2 := by
  unfold State.resolve
  split
  · exact .refl who s
  · exact .refl who s
  · rename_i va _
    have htranslate (u : State) : Spares who u (u.translate r.ctx va k r.priv).2 :=
      .ite_snd (spares_rootUsed who u r.ctx va) ((spares_rootUsed who u r.ctx va).trans (spares_walk who _ _ _ _ _ _ _ _ _))
    have h := (spares_eccKept who s (arrayId 11 (s.translatorOf r)) (va / 4096) r.ctx).trans (htranslate _)
    unfold State.eccClean
    split <;> rename_i heq <;> rw [heq] at h <;> exact h

theorem spares_touchSpot (s : State) (p : Spot) (write : Bool) : Spares who s (s.touchSpot p write) := by
  unfold State.touchSpot
  split
  · exact .ite (.refl who s) (.same rfl rfl)
  · exact .refl who s

/-! ## Reads (R177, R289) -/

theorem spares_readSince (s : State) (since a n : Nat) : Spares who s (s.readSince since a n).2 := by
  unfold State.readSince
  split
  · exact .refl who s
  · dsimp only
    split <;> exact .same rfl rfl

theorem spares_readWhole (s : State) (p : Party) (a n : Nat) : Spares who s (s.readWhole p a n).2 := by
  unfold State.readWhole
  split
  · exact .refl who s
  · dsimp only
    split <;> exact .same rfl rfl

theorem spares_readView (s : State) (p : Party) (v : View) (a n : Nat) : Spares who s (s.readView p v a n).2 := by
  cases v with
  | floor => exact spares_readWhole who s p a n
  | inv since => exact spares_readSince who s since a n
  | stream q x f unseen replayed => exact .ite_snd (spares_readSince who s _ a n) (.same rfl rfl)
  | home => exact .same rfl rfl
  | pulled y q => exact spares_readSince who s _ a n
  | now => exact .refl who s

theorem spares_eccCheck (s : State) (flat ctx : Nat) : Spares who s (s.eccCheck flat ctx).2 := by
  unfold State.eccCheck
  split
  · exact spares_eccKept who s _ _ ctx
  · exact spares_eccWord who s flat ctx

theorem spares_eccL1 (s : State) (r : Req) (v : View) (flat : Nat) : Spares who s (s.eccL1 r v flat) := by
  unfold State.eccL1
  split
  · exact .ite (spares_eccKept who s _ _ r.ctx) (.refl who s)
  · exact .ite (spares_eccKept who s _ _ r.ctx) (.refl who s)
  · exact .refl who s

theorem spares_readFlat (s : State) (r : Req) (v : View) (a n : Nat) : Spares who s (s.readFlat r v a n).2 := by
  have h := (spares_eccL1 who s r v a).trans (spares_eccCheck who _ a r.ctx)
  exact .ite_snd (h.trans (spares_addPoison who _ a 1)) (.ite_snd h (.ite_snd h (h.trans (spares_readView who _ r.who v a n))))

theorem spares_readLoc (s : State) (r : Req) (v : View) (loc : Loc) (n : Nat) : Spares who s (s.readLoc r v loc n).2 := by
  cases loc with
  | flat a => exact spares_readFlat who s r v a n
  | vbd frame esz off => exact .ite_snd (.same rfl rfl) ((spares_vbdFill who s frame esz _).trans (spares_readFlat who _ r v _ n))
  | badWindow bus => exact .same rfl rfl
  | peer m off c => exact .refl who s

end

/-! ## Requests over the fabric, by who asks (R26, R31) -/

theorem spares_noteFailed (s : State) (who : Party) (addr : Word) : Spares who s (s.noteFailed who addr) := by
  cases who with
  | command k => exact ⟨fun w => ⟨(s.wg w).maps, rfl⟩, fun h => absurd rfl (h k)⟩
  | _ => exact .refl _ s

theorem spares_sendFab (s : State) (who : Party) (thread : Option ThreadId) (op : Option WriteOp) (target off cmp len : Nat) :
    Spares who s (s.sendFab who thread op target off cmp len) := by
  unfold State.sendFab
  exact Spares.trans (.ite (spares_noteFailed s who _) (.refl who s)) (.same rfl rfl)

section
variable (s : State) (r : Req)

theorem spares_prepLine (x : Nat) : Spares r.who s (s.prepLine r x).2 := by
  refine .ite_snd ?_ (.ite_snd (.refl _ s) (.refl _ s))
  unfold State.startMapFill
  split
  · exact .refl _ s
  · exact (spares_setMaps r.who s _ _).trans (.same rfl rfl)

theorem spares_prepPeer (op : Option WriteOp) (m off c n : Nat) : Spares r.who s (s.prepPeer r op m off c n).2 := by
  unfold State.prepPeer
  split
  · exact spares_sendFab s _ _ _ _ _ _ _
  · exact .ite_snd (.refl _ s) (.refl _ s)

theorem spares_prepSpot (p : Spot) (n : Nat) (op : Option WriteOp) : Spares r.who s (s.prepSpot r p n op).2 := by
  have hchoose : Spares r.who s (s.choose 2).2 := .same rfl rfl
  have hchosen : Spares r.who s (if s.sliceFull p then (s.choose 2).2 else s) := .ite hchoose (.refl _ s)
  refine .ite_snd hchoose ?_
  generalize (if s.sliceFull p then (s.choose 2).2 else s) = u at hchosen ⊢
  dsimp only
  split
  · exact hchosen.trans (spares_prepLine _ r _)
  · exact hchosen.trans (spares_prepPeer _ r op _ _ _ n)
  · exact hchosen

theorem spares_prepRead (space : Nat) (a : Word) (n : Nat) (op : Option WriteOp) : Spares r.who s (s.prepRead r space a n op).2 := by
  have h := spares_resolve r.who s r space a n (if op.isSome then .atomic else .read)
  unfold State.prepRead
  split <;> rename_i heq <;> rw [heq] at h
  · exact h
  · exact h.trans (spares_prepSpot _ r _ n op)

theorem spares_prepAll {who : Party} (fs : List (State → Prep × State)) (hf : ∀ f ∈ fs, ∀ u, Spares who u (f u).2) (s : State) :
    Spares who s (prepAll s fs).2 := by
  induction fs generalizing s with
  | nil => exact .refl who s
  | cons f fs ih =>
    have h := hf f (List.mem_cons_self ..) s
    have hrest := ih (fun g hg => hf g (List.mem_cons_of_mem _ hg))
    rw [prepAll]
    split <;> rename_i heq <;> rw [heq] at h
    · exact h.trans (hrest _)
    · exact h
    · exact h.trans (hrest _)

theorem spares_readSpot (v : View) (p : Spot) (addr : Word) (n : Nat) : Spares r.who s (s.readSpot r v p addr n).2 := by
  unfold State.readSpot
  split
  · split
    · exact spares_sendFab s _ _ _ _ _ _ _
    · exact .ite_snd (.refl _ s) (.ite_snd (.same rfl rfl) (.same rfl rfl))
  · have h := (spares_touchSpot r.who s p false).trans (spares_readLoc r.who _ r (p.view v) p.loc n)
    split <;> rename_i heq <;> rw [heq] at h <;> exact h

theorem spares_readPiece (v : View) (space : Nat) (a : Word) (n : Nat) : Spares r.who s (s.readPiece r v space a n).2 := by
  have h := spares_resolve r.who s r space a n .read
  unfold State.readPiece
  split <;> rename_i heq <;> rw [heq] at h
  · exact h
  · exact h.trans (spares_readSpot _ r v _ _ n)

theorem spares_readPieces (v : View) (space : Nat) (a : Word) (ps : List (Nat × Nat)) :
    Spares r.who s (s.readPieces r v space a ps).2 := by
  induction ps generalizing s with
  | nil => exact .refl _ s
  | cons p ps ih =>
    obtain ⟨off, n⟩ := p
    have h := spares_readPiece s r v space (a + BitVec.ofNat 64 off) n
    rw [State.readPieces]
    split
    · rename_i b s' heq
      rw [heq] at h
      have hrest := h.trans (ih s')
      split
      · rename_i heq'
        rw [heq'] at hrest
        exact hrest
      · exact hrest
    · exact h

theorem spares_readRec (v : View) (space : Nat) (a : Word) (n : Nat) : Spares r.who s (s.readRec r v space a n).2 := by
  have h := spares_prepAll (who := r.who) ((pieces a.toNat n).map (fun p t => t.prepRead r space (a + BitVec.ofNat 64 p.1) p.2 none))
    (List.forall_mem_map.2 (fun p _ u => spares_prepRead u r space _ p.2 none)) s
  unfold State.readRec
  dsimp only
  split <;> rename_i heq <;> rw [heq] at h
  · exact h
  · exact h
  · exact h.trans (spares_readPieces _ r v space a _)

/-! ## Writes (R176, R203) -/

theorem spares_performLoc (who : Party) (thread : Option ThreadId) (loc : Loc) (op : WriteOp) : Spares who s (s.performLoc who thread loc op) := by
  cases loc with
  | flat a => exact spares_performFlat who s who a op
  | vbd frame esz off =>
    refine .ite (Spares.trans ?_ (spares_noteFailed _ who _)) ?_
    · exact .same rfl rfl
    · exact ((spares_vbdFill who s frame esz _).trans (spares_performFlat who _ who _ op)).trans (spares_vbdMark who _ frame esz _)
  | badWindow bus => exact Spares.trans (t := { s with log := .windowMiss bus :: s.log }) (.same rfl rfl) (spares_noteFailed _ who _)
  | peer m off c => exact spares_sendFab s who thread _ m off c _

theorem spares_writePiece (a : Word) (op : WriteOp) (k : AccKind) : Spares r.who s (s.writePiece r a op k).2 := by
  have h := spares_resolve r.who s r spGeneric a op.len k
  unfold State.writePiece
  split <;> rename_i heq <;> rw [heq] at h
  · exact h
  · exact (h.trans (spares_touchSpot r.who _ _ true)).trans (spares_performLoc _ _ _ _ op)

theorem spares_writeRec (a : Word) (bs : List Byte) : Spares r.who s (s.writeRec r a bs).2 := by
  unfold State.writeRec
  generalize pieces a.toNat bs.length = ps
  induction ps generalizing s with
  | nil => exact .refl _ s
  | cons p ps ih =>
    obtain ⟨off, n⟩ := p
    have h := spares_writePiece s r (a + BitVec.ofNat 64 off) (.store ((bs.drop off).take n)) .write
    rw [State.writePieces]
    split
    · rename_i s' heq
      rw [heq] at h
      exact h.trans (ih s')
    · exact h

end

end Sys2Proof.Proofs
end

section
/-! What the queue engines change as they read, write and post records for a context (R59, R63, R77, R78, R203): memory, the fabric and
the records that wait, and of the commands only those armed at a node, which they release. -/

namespace Sys2Proof.Proofs

open Sys2Proof Sys2Proof.Machine Sys2Proof.Laws

/-! ## Queues and commands after an update -/

theorem queue_setQueue_same (s : State) (ctx q : Nat) (x : Queue) : (s.setQueue ctx q x).queue ctx q = x := getD_set_same _ _ _ _

theorem cmd_setCmd (s : State) (k j : Nat) (x : Cmd) : (s.setCmd k x).cmd j = if j = k then x else s.cmd j := getD_set _ _ _ _ _

theorem cmd_setCmd_same (s : State) (k : Nat) (x : Cmd) : (s.setCmd k x).cmd k = x := getD_set_same _ _ _ _

theorem setCmd_setCmd (s : State) (k : Nat) (x y : Cmd) : (s.setCmd k x).setCmd k y = s.setCmd k y :=
  congrArg (fun m => { s with cmds := m }) (set_set s.cmds k x y)

/-! ## Accesses of the device and records posted -/

/-- `t` differs from `s` in what an access of the device may change and in the contexts' waiting fault records alone. -/
def EngineActs (s t : State) : Prop :=
  t = { s with
    mem := t.mem, poison := t.poison, hist := t.hist, floors := t.floors, writeSeq := t.writeSeq, freeCount := t.freeCount, nextId := t.nextId
    wgs := t.wgs, ports := t.ports, fabReqs := t.fabReqs, emptyLines := t.emptyLines, errLogs := t.errLogs, errInjs := t.errInjs
    log := t.log, vbd := t.vbd, ctxs := t.ctxs }

theorem EngineActs.refl (s : State) : EngineActs s s := rfl

theorem EngineActs.trans {s t u : State} (h : EngineActs s t) (k : EngineActs t u) : EngineActs s u := by
  unfold EngineActs at h k
  rw [h] at k
  exact k

theorem EngineActs.ite {s t u : State} {c : Prop} [Decidable c] (h : EngineActs s t) (k : EngineActs s u) :
    EngineActs s (if c then t else u) := by
  split_ifs
  · exact h
  · exact k

theorem Accesses.acts {s t : State} (h : Accesses s t) (hc : t.cmds = s.cmds) : EngineActs s t := by
  unfold Accesses at h
  rw [hc] at h
  rw [h]
  rfl

section
variable {s t : State} (h : EngineActs s t)
include h

theorem EngineActs.queues : t.queues = s.queues := by rw [h]
theorem EngineActs.cmds : t.cmds = s.cmds := by rw [h]
theorem EngineActs.regs : t.regs = s.regs := by rw [h]
theorem EngineActs.sems : t.sems = s.sems := by rw [h]
theorem EngineActs.launches : t.launches = s.launches := by rw [h]
theorem EngineActs.near : t.near = s.near := by rw [h]
theorem EngineActs.queue (ctx q : Nat) : t.queue ctx q = s.queue ctx q := by rw [State.queue, h.queues]; rfl
theorem EngineActs.cmd (k : Nat) : t.cmd k = s.cmd k := by rw [State.cmd, h.cmds]; rfl

end

theorem acts_readRec_device (s : State) (ctx : Nat) (v : View) (space : Nat) (a : Word) (n : Nat) :
    EngineActs s (s.readRec (deviceReq ctx) v space a n).2 :=
  (accesses_readRec s (deviceReq ctx) v space a n).acts ((spares_readRec s (deviceReq ctx) v space a n).cmds nofun)

theorem acts_devRead (s : State) (ctx : Nat) (a : Word) (n : Nat) : EngineActs s (s.devRead ctx a n).2 := acts_readRec_device s ctx .now spGlobal a n

theorem acts_of_devRead {s t : State} {ctx : Nat} {a : Word} {n : Nat} {o : ReadOut} (h : s.devRead ctx a n = (o, t)) : EngineActs s t := by
  have hr := acts_devRead s ctx a n
  rwa [h] at hr

theorem acts_free (s : State) : EngineActs s s.free.2 := rfl

theorem acts_devWrite (s : State) (ctx : Nat) (a : Word) (bs : List Byte) : EngineActs s (s.devWrite ctx a bs).2 := by
  have hc : (s.devWrite ctx a bs).2.cmds = s.cmds := by
    have h := (spares_writeRec s (deviceReq ctx) a bs).cmds nofun
    unfold State.devWrite
    split
    · rename_i t heq
      rw [heq] at h
      exact h
    · exact h
  exact (accesses_devWrite s ctx a bs).acts hc

theorem acts_of_devWrite {s t : State} {ctx : Nat} {a : Word} {bs : List Byte} {o : WriteOut} (h : s.devWrite ctx a bs = (o, t)) : EngineActs s t := by
  have hr := acts_devWrite s ctx a bs
  rwa [h] at hr

theorem acts_postFault (s : State) (ctx : Nat) (r : FaultRec) : EngineActs s (s.postFault ctx r) := rfl

theorem acts_devWriteOnce (s : State) (ctx q index : Nat) (a : Word) (bs : List Byte) : EngineActs s (s.devWriteOnce ctx q index a bs) := by
  unfold State.devWriteOnce
  split <;> rename_i heq
  · exact acts_of_devWrite heq
  · exact acts_of_devWrite heq
  · exact (acts_of_devWrite heq).trans (acts_postFault _ ctx _)

/-! ## A packet's records read and its rejection recorded (R80, R81) -/

theorem acts_packetRecs (s : State) (ctx : Nat) (p : List Byte) (recs : List (List Byte)) (bad : Option Finding) (fuel : Nat) :
    EngineActs s (s.packetRecs ctx p recs bad fuel).2 := by
  induction fuel generalizing s recs bad with
  | zero => exact .refl s
  | succ fuel ih =>
    rw [State.packetRecs]
    split
    · exact .refl s
    · exact ih _ _ _
    · split_ifs
      · exact .refl s
      · split <;> rename_i heq
        · exact (acts_of_devRead heq).trans (ih _ _ _)
        · exact (acts_of_devRead heq).trans (ih _ _ _)
        · exact acts_of_devRead heq

theorem acts_checkRecs (s : State) (ctx : Nat) (p : List Byte) : EngineActs s (s.checkRecs ctx p).2 := by
  have h := acts_packetRecs s ctx p (pktFirstRecs p) none 8
  unfold State.checkRecs
  split <;> rename_i heq <;> rw [heq] at h <;> exact h

theorem acts_of_checkRecs {s t : State} {ctx : Nat} {p : List Byte} {v : Verdict} (h : s.checkRecs ctx p = (v, t)) : EngineActs s t := by
  have hr := acts_checkRecs s ctx p
  rwa [h] at hr

theorem acts_recordReject (s : State) (ctx q index : Nat) (p : List Byte) (status : Nat) (detail : Option Word) :
    EngineActs s (s.recordReject ctx q index p status detail) := by
  have hdetail : EngineActs s (s.rejectDetail detail).2 := by
    cases detail with
    | none => exact acts_free s
    | some w => exact .refl s
  have hresult (u : State) : EngineActs u (u.rejectResult (pktType p)).2 := by
    unfold State.rejectResult
    split_ifs
    · exact .refl u
    · exact acts_free u
  exact .ite (.refl s) ((hdetail.trans (hresult _)).trans (acts_devWriteOnce _ ctx q index _ _))

theorem acts_postReject (s : State) (ctx q index status : Nat) : EngineActs s (s.postReject ctx q index status) := acts_postFault s ctx _

theorem acts_setNodeState (s : State) (ctx q index n v : Nat) : EngineActs s (s.setNodeState ctx q index n v) := acts_devWriteOnce s ctx q index _ _

/-! ## A queue that is stopped (R57, R81) -/

/-- A queue is not served and no packet waits at its head. -/
def Stopped (ctx q : Nat) (t : State) : Prop := (t.queue ctx q).served = false ∧ (t.queue ctx q).head = none

theorem EngineActs.stopped {s t : State} {ctx q : Nat} (h : EngineActs s t) (hs : Stopped ctx q s) : Stopped ctx q t := by
  rwa [Stopped, h.queue]

theorem queue_leaveQueue (s : State) (ctx q : Nat) :
    (s.leaveQueue ctx q).queue ctx q = { s.queue ctx q with served := false, head := none, awake := false } := by
  have h := queue_setQueue_same s ctx q { s.queue ctx q with served := false, head := none, awake := false }
  unfold State.leaveQueue
  dsimp only
  split
  · split_ifs
    · exact h
    · exact h
  · exact h

theorem stopped_leaveQueue (s : State) (ctx q : Nat) : Stopped ctx q (s.leaveQueue ctx q) := by
  rw [Stopped, queue_leaveQueue]
  exact ⟨rfl, rfl⟩

/-- A queue without a packet at its head is left with no command given up. -/
theorem leaveQueue_headless {s : State} {ctx q : Nat} (h : (s.queue ctx q).head = none) :
    s.leaveQueue ctx q = s.setQueue ctx q { s.queue ctx q with served := false, awake := false } := by
  rw [State.leaveQueue, h]
  show s.setQueue ctx q { s.queue ctx q with served := false, head := none, awake := false } = _
  rw [← h]

/-- Leaving a queue gives up a packet at its head and no other. -/
theorem cmd_leaveQueue (s : State) (ctx q k : Nat) :
    (s.leaveQueue ctx q).cmd k = s.cmd k ∨ (s.cmd k).phase = .atHead ∧ (s.leaveQueue ctx q).cmd k = { s.cmd k with phase := .done } := by
  unfold State.leaveQueue
  dsimp only
  split
  · rename_i j _
    split_ifs with hphase
    · rw [cmd_setCmd]
      split_ifs with hk
      · subst hk
        exact .inr ⟨hphase, rfl⟩
      · exact .inl rfl
    · exact .inl rfl
  · exact .inl rfl

theorem acts_stopQueue_of_leave (s : State) (ctx q : Nat) : EngineActs (s.leaveQueue ctx q) (s.stopQueue ctx q) := acts_devWrite _ ctx _ _

theorem stopped_stopQueue (s : State) (ctx q : Nat) : Stopped ctx q (s.stopQueue ctx q) :=
  (acts_stopQueue_of_leave s ctx q).stopped (stopped_leaveQueue s ctx q)

theorem stopped_badDesc (s : State) (ctx q : Nat) : Stopped ctx q (s.badDesc ctx q) :=
  (acts_postFault _ ctx _).stopped (stopped_stopQueue s ctx q)

theorem stopped_rejectQueue (s : State) (ctx q index : Nat) (p : List Byte) (status : Nat) (detail : Option Word) :
    Stopped ctx q (s.rejectQueue ctx q index p status detail) :=
  (acts_postReject _ ctx q index status).stopped (stopped_stopQueue _ ctx q)

/-- A rejection at a queue's head gives up a packet that waits there and changes no other command. -/
theorem cmd_rejectQueue (s : State) (ctx q index : Nat) (p : List Byte) (status : Nat) (detail : Option Word) (k : Nat) :
    (s.rejectQueue ctx q index p status detail).cmd k = s.cmd k ∨
      (s.cmd k).phase = .atHead ∧ (s.rejectQueue ctx q index p status detail).cmd k = { s.cmd k with phase := .done } := by
  have hrecord := (acts_recordReject s ctx q index p status detail).cmd k
  have hpost := ((acts_stopQueue_of_leave (s.recordReject ctx q index p status detail) ctx q).trans
    (acts_postReject _ ctx q index status)).cmd k
  have hleave := cmd_leaveQueue (s.recordReject ctx q index p status detail) ctx q k
  rwa [← hpost, hrecord] at hleave

/-! ## Nodes released (R77) -/

/-- A command before and after its node may have been released: one that was armed is no longer at a head and has its packet still. -/
def Released (c d : Cmd) : Prop := d = c ∨ ((c.phase = .armed ∨ c.phase = .released) ∧ d.phase ≠ .atHead ∧ d.bytes = c.bytes)

/-- `t` differs from `s` in what the engines act on, and in commands whose nodes were released. -/
structure Releases (s t : State) : Prop where
  frame : ∃ u, EngineActs s u ∧ t = { u with cmds := t.cmds }
  cmd : ∀ k, Released (s.cmd k) (t.cmd k)

theorem EngineActs.releases {s t : State} (h : EngineActs s t) : Releases s t := ⟨⟨t, h, rfl⟩, fun k => .inl (h.cmd k)⟩

theorem Releases.trans {s t u : State} (h : Releases s t) (k : Releases t u) : Releases s u := by
  obtain ⟨v, hv, ht⟩ := h.frame
  obtain ⟨w, hw, hu⟩ := k.frame
  refine ⟨⟨{ w with cmds := s.cmds }, ?_, hu⟩, fun j => ?_⟩
  · have hvc := hv.cmds
    unfold EngineActs at hv hw ⊢
    rw [ht, hv] at hw
    rw [hw]
  · obtain hd | ⟨hp, hhead, hbytes⟩ := k.cmd j
    · rw [hd]
      exact h.cmd j
    · obtain hc | ⟨hp', -, hbytes'⟩ := h.cmd j
      · rw [hc] at hp hbytes
        exact .inr ⟨hp, hhead, hbytes⟩
      · exact .inr ⟨hp', hhead, hbytes.trans hbytes'⟩

theorem Releases.foldl {α : Type} {op : State → α → State} (k : ∀ u x, Releases u (op u x)) (l : List α) (s : State) :
    Releases s (l.foldl op s) := by
  induction l generalizing s with
  | nil => exact (EngineActs.refl s).releases
  | cons x l ih => exact (k s x).trans (ih _)

section
variable {s t : State} (h : Releases s t)
include h

theorem Releases.queues : t.queues = s.queues := by
  obtain ⟨u, hu, ht⟩ := h.frame
  rw [ht]
  exact hu.queues

theorem Releases.regs : t.regs = s.regs := by
  obtain ⟨u, hu, ht⟩ := h.frame
  rw [ht]
  exact hu.regs

theorem Releases.sems : t.sems = s.sems := by
  obtain ⟨u, hu, ht⟩ := h.frame
  rw [ht]
  exact hu.sems

theorem Releases.launches : t.launches = s.launches := by
  obtain ⟨u, hu, ht⟩ := h.frame
  rw [ht]
  exact hu.launches

theorem Releases.queue (ctx q : Nat) : t.queue ctx q = s.queue ctx q := by rw [State.queue, h.queues]; rfl

/-- A command that is not at a node is left alone. -/
theorem Releases.cmd_same {k : Nat} (ha : (s.cmd k).phase ≠ .armed) (hr : (s.cmd k).phase ≠ .released) : t.cmd k = s.cmd k :=
  (h.cmd k).resolve_right fun hk => hk.1.elim ha hr

end

/-- A command at a node moved on with its packet. -/
theorem releases_setCmd {s : State} {k : Nat} {x : Cmd} (hp : (s.cmd k).phase = .armed ∨ (s.cmd k).phase = .released) (hx : x.phase ≠ .atHead)
    (hb : x.bytes = (s.cmd k).bytes) : Releases s (s.setCmd k x) := by
  refine ⟨⟨s, .refl s, rfl⟩, fun j => ?_⟩
  rw [cmd_setCmd]
  split_ifs with hj
  · subst hj
    exact .inr ⟨hp, hx, hb⟩
  · exact .inl rfl

theorem releases_rejectNode {s : State} {k : Nat} (hp : (s.cmd k).phase = .armed ∨ (s.cmd k).phase = .released) (status : Nat)
    (detail : Option Word) : Releases s (s.rejectNode k status detail) := by
  have h := ((acts_recordReject s (s.cmd k).ctx (s.cmd k).queue (s.cmd k).index (s.cmd k).bytes status detail).trans
    (acts_setNodeState _ (s.cmd k).ctx (s.cmd k).queue (s.cmd k).index (s.cmd k).node 0)).trans
    (acts_postReject _ (s.cmd k).ctx (s.cmd k).queue (s.cmd k).index status)
  rw [State.rejectNode]
  exact h.releases.trans (releases_setCmd (by rwa [h.cmd]) nofun (by rw [h.cmd]))

theorem releases_checkReleased (s : State) (k : Nat) : Releases s (s.checkReleased k) := by
  unfold State.checkReleased
  dsimp only
  split_ifs with hphase
  · exact (EngineActs.refl s).releases
  · have hp : (s.cmd k).phase = .armed ∨ (s.cmd k).phase = .released := .inr (not_not.1 hphase)
    split <;> rename_i heq <;> have h := acts_of_checkRecs heq
    · exact h.releases.trans (releases_setCmd (by rwa [h.cmd]) nofun (by rw [h.cmd]))
    · exact h.releases.trans (releases_rejectNode (by rwa [h.cmd]) _ _)
    · exact h.releases

theorem releases_releaseNode {s : State} {k : Nat} (hp : (s.cmd k).phase = .armed) (e : List Byte) : Releases s (s.releaseNode k e) := by
  have h := (acts_devWriteOnce s (s.cmd k).ctx (s.cmd k).queue (s.cmd k).index (s.nodeAddr (s.cmd k).ctx (s.cmd k).node)
    (leBytes 2 (nodeInit e))).trans (acts_setNodeState _ (s.cmd k).ctx (s.cmd k).queue (s.cmd k).index (s.cmd k).node 2)
  rw [State.releaseNode]
  exact (h.releases.trans (releases_setCmd (x := { s.cmd k with phase := .released }) (by rw [h.cmd]; exact .inl hp) nofun (by rw [h.cmd]))).trans
    (releases_checkReleased _ k)

theorem releases_releaseIfReady (s : State) (k : Nat) : Releases s (s.releaseIfReady k) := by
  unfold State.releaseIfReady
  dsimp only
  split_ifs with hphase
  · exact (EngineActs.refl s).releases
  · split
    · rename_i e t heq
      have h := acts_of_devRead heq
      split_ifs
      · exact h.releases.trans (releases_releaseNode (by rw [h.cmd]; exact not_not.1 hphase) e)
      · exact h.releases
    · rename_i t _ heq
      exact (acts_of_devRead heq).releases

theorem releases_releaseReady (s : State) (ctx : Nat) : Releases s (s.releaseReady ctx) := .foldl releases_releaseIfReady _ s

/-! ## Packets captured and the queue advanced (R63, R77) -/

theorem captureNode_captures (s : State) (k : Nat) :
    (s.captureNode k).cmd k = { s.cmd k with phase := .armed } ∧ (s.captureNode k).queues = s.queues := by
  have h := (acts_devWriteOnce s (s.cmd k).ctx (s.cmd k).queue (s.cmd k).index (s.nodeAddr (s.cmd k).ctx (s.cmd k).node + 64)
    (s.cmd k).bytes).trans (acts_setNodeState _ (s.cmd k).ctx (s.cmd k).queue (s.cmd k).index (s.cmd k).node 1)
  exact ⟨cmd_setCmd_same _ k _, h.queues⟩

/-- A queue advanced has the next index and no packet at its head; else only what the engine acts on changes. -/
theorem advanceQueue_advances (s : State) (ctx q : Nat) :
    ∃ u, EngineActs s u ∧ s.advanceQueue ctx q = u.setQueue ctx q { s.queue ctx q with rindex := (s.queue ctx q).rindex + 1, head := none } :=
  ⟨_, (acts_devWriteOnce s ctx q _ _ _).trans (acts_devWriteOnce _ ctx q _ _ _), rfl⟩

theorem queue_advanceQueue (s : State) (ctx q : Nat) :
    (s.advanceQueue ctx q).queue ctx q = { s.queue ctx q with rindex := (s.queue ctx q).rindex + 1, head := none } := by
  obtain ⟨u, -, hu⟩ := advanceQueue_advances s ctx q
  rw [hu, queue_setQueue_same]

theorem cmds_advanceQueue (s : State) (ctx q : Nat) : (s.advanceQueue ctx q).cmds = s.cmds := by
  obtain ⟨u, h, hu⟩ := advanceQueue_advances s ctx q
  rw [hu]
  exact h.cmds

theorem cmd_advanceQueue (s : State) (ctx q k : Nat) : (s.advanceQueue ctx q).cmd k = s.cmd k := by
  rw [State.cmd, cmds_advanceQueue]
  rfl

end Sys2Proof.Proofs
end

section
/-! Queues served, woken, read packet by packet and stopped; packets captured and started (R57 to R63, R73, R75, R77, R429). -/

namespace Sys2Proof.Proofs

open Sys2Proof Sys2Proof.Machine Sys2Proof.Laws

/-! ## Descriptors (R57, R59) -/

theorem exec_queueWake {s : State} {ctx q : Nat} (hserves : s.serves = true) (hserved : (s.queue ctx q).served = true) :
    exec (.queueWake ctx q) s = .next (s.setQueue ctx q { s.queue ctx q with awake := true }) := if_pos ⟨hserves, hserved⟩

/-- A served queue whose descriptor has not left RUN is left as it is. -/
theorem exec_descriptor_served {s : State} {ctx q : Nat} (hserved : (s.queue ctx q).served = true) (hrun : s.leftRun ctx q = false) :
    exec (.queueDescriptorRun ctx q) s = .next s := if_neg (by simp [hserved, hrun])

/-- A queue as the engine begins to serve it from a descriptor. -/
def servedQueue (r : State) (ctx q : Nat) (d : QDesc) : Queue :=
  { r.queue ctx q with
    ring := d.ring, widx := d.widx, ridx := d.ridx, crec := d.crec, log2n := d.log2n, maxclass := BitVec.ofNat 2 d.maxclass
    vec := d.vec, qeng := d.qeng, served := true, servedSeq := r.writeSeq, everRun := true, head := none, awake := true }

/-- Whether a queue that runs again goes on from its index: it was STOPPED before (R59). -/
def keepsIndex (r : State) (ctx q : Nat) : Bool :=
  match r.stateBefore ctx q with
  | some old => old == 2
  | none => (r.queue ctx q).everRun

theorem serveQueue_keeps (r : State) (ctx q : Nat) (d : QDesc) : (r.serveQueue ctx q d true).queue ctx q = servedQueue r ctx q d := by
  have h := (acts_devWriteOnce (r.setQueue ctx q (servedQueue r ctx q d)) ctx q (r.queue ctx q).rindex d.ridx
    (leBytes 8 (r.queue ctx q).rindex)).queue ctx q
  rw [queue_setQueue_same] at h
  exact h

theorem serveQueue_reads {r u : State} {ctx q : Nat} {d : QDesc} {i : List Byte} (hread : r.devRead ctx d.ridx 8 = (.bytes i, u)) :
    r.serveQueue ctx q d false = u.setQueue ctx q { servedQueue r ctx q d with rindex := ofLe i } := by
  simp only [State.serveQueue, hread]
  rfl

section
variable {s : State} {ctx q : Nat} (hserves : s.serves = true) (hlive : s.ctxLive ctx = true)
  (hleft : (s.queue ctx q).served = false ∨ s.leftRun ctx q = true) (hq : q < s.queueCount ctx) {b : List Byte} {r : State}
  (hread : (s.leaveQueue ctx q).devRead ctx ((s.leaveQueue ctx q).descAddr ctx q) 64 = (.bytes b, r))
include hserves hlive hleft hq hread

/-- A queue that is not served, or has left RUN, is given up and its descriptor looked at. -/
theorem exec_descriptor : exec (.queueDescriptorRun ctx q) s = .next (if (QDesc.ofBytes b).state ≠ 1 then r
      else if !r.descOk ctx b then r.badDesc ctx q else r.serveQueue ctx q (QDesc.ofBytes b) (keepsIndex r ctx q)) := by
  have hlook : (s.leaveQueue ctx q).lookAtQueue ctx q false = (if (QDesc.ofBytes b).state ≠ 1 then r
      else if !r.descOk ctx b then r.badDesc ctx q else r.serveQueue ctx q (QDesc.ofBytes b) (keepsIndex r ctx q)) := by
    rw [State.lookAtQueue, hread]
    rfl
  rw [← hlook]
  refine if_pos ⟨hserves, hlive, hq, ?_⟩
  obtain h | h := hleft
  · simp [h]
  · simp [h]

theorem descriptor_idle (hstate : (QDesc.ofBytes b).state ≠ 1) : Completes (.queueDescriptorRun ctx q) s (fun t => t = r) :=
  ⟨_, exec_descriptor hserves hlive hleft hq hread, if_pos hstate⟩

theorem descriptor_bad (hstate : (QDesc.ofBytes b).state = 1) (hok : r.descOk ctx b = false) :
    Completes (.queueDescriptorRun ctx q) s (Stopped ctx q) := by
  refine ⟨_, exec_descriptor hserves hlive hleft hq hread, ?_⟩
  rw [if_neg (not_not.2 hstate), if_pos (by simp [hok])]
  exact stopped_badDesc r ctx q

theorem exec_descriptor_ok (hstate : (QDesc.ofBytes b).state = 1) (hok : r.descOk ctx b = true) :
    exec (.queueDescriptorRun ctx q) s = .next (r.serveQueue ctx q (QDesc.ofBytes b) (keepsIndex r ctx q)) := by
  rw [exec_descriptor hserves hlive hleft hq hread, if_neg (not_not.2 hstate), if_neg (by simp [hok])]

theorem descriptor_keeps (hstate : (QDesc.ofBytes b).state = 1) (hok : r.descOk ctx b = true) (hkeeps : keepsIndex r ctx q = true) :
    Completes (.queueDescriptorRun ctx q) s (fun t => t.queue ctx q = servedQueue r ctx q (QDesc.ofBytes b)) := by
  refine ⟨_, exec_descriptor_ok hserves hlive hleft hq hread hstate hok, ?_⟩
  rw [hkeeps]
  exact serveQueue_keeps r ctx q _

theorem descriptor_reads (hstate : (QDesc.ofBytes b).state = 1) (hok : r.descOk ctx b = true) (hkeeps : keepsIndex r ctx q = false)
    {i : List Byte} {u : State} (hindex : r.devRead ctx (QDesc.ofBytes b).ridx 8 = (.bytes i, u)) :
    Completes (.queueDescriptorRun ctx q) s (fun t => t = u.setQueue ctx q { servedQueue r ctx q (QDesc.ofBytes b) with rindex := ofLe i }) := by
  refine ⟨_, exec_descriptor_ok hserves hlive hleft hq hread hstate hok, ?_⟩
  rw [hkeeps]
  exact serveQueue_reads hindex

end

/-! ## A packet taken from its slot (R63) -/

/-- Without errors to come the words of a packet pass their check. -/
theorem packetEcc_quiet {s : State} (h : s.errInjs = []) (ctx q : Nat) (a : Word) : s.packetEcc ctx q a = (none, s) := by
  have hfold : ∀ l : List Nat, l.foldl (fun (r : Option Finding × State) i =>
      let e := r.2.eccKept (arrayId 7 (s.queue ctx q).qeng) (a.toNat / 8 + i) ctx
      (if e.1 && r.1.isNone then some (0x107, some (a + BitVec.ofNat 64 (8 * i))) else r.1, e.2)) (none, s) = (none, s) := by
    intro l
    induction l with
    | nil => rfl
    | cons i l ih =>
      rw [List.foldl_cons, eccKept_quiet (by rw [h]; rfl)]
      exact ih
  exact hfold _

/-- A packet of an illegal type, header or body stops its queue. -/
theorem takePacket_illegal {u : State} {ctx q : Nat} {p : List Byte}
    (h : 9 ≤ pktType p ∨ u.headerOk ctx p = false ∨ u.bodyOk ctx q p = false) : Stopped ctx q (u.takePacket ctx q p) := by
  unfold State.takePacket
  dsimp only
  split_ifs with htype hheader hbody
  · exact stopped_rejectQueue u ctx q _ p _ _
  · exact stopped_rejectQueue u ctx q _ p _ _
  · exact stopped_rejectQueue u ctx q _ p _ _
  all_goals simp_all

section
variable {u : State} {ctx q : Nat} {p : List Byte} (htype : pktType p ≤ 8) (hheader : u.headerOk ctx p = true) (hbody : u.bodyOk ctx q p = true)
include htype hheader hbody

/-- A legal packet that names a node beyond the table stops its queue. -/
theorem takePacket_noNode (hnode : pktNode p ≠ 0) (hcount : u.nodeCount ctx ≤ pktNode p) : Stopped ctx q (u.takePacket ctx q p) := by
  unfold State.takePacket
  simp only [Nat.not_le.2 (Nat.lt_succ_of_le htype), hheader, hbody, Bool.not_true, Bool.false_eq_true, if_false, if_pos hnode, if_pos hcount]
  exact stopped_rejectQueue u ctx q _ p _ _

theorem takePacket_nodeless (hnode : pktNode p = 0) : u.takePacket ctx q p = match u.checkRecs ctx p with
      | (.wait, t) => t
      | (.reject st d, t) => t.rejectQueue ctx q (u.queue ctx q).rindex p st d
      | (.ok recs, t) => (t.makeCmd ctx q p recs).2.holdHead ctx q (t.makeCmd ctx q p recs).1 := by
  unfold State.takePacket
  simp only [Nat.not_le.2 (Nat.lt_succ_of_le htype), hheader, hbody, hnode, Bool.not_true, Bool.false_eq_true, if_false, ne_eq, not_true_eq_false] <;> rfl

theorem takePacket_rejects (hnode : pktNode p = 0) {st : Nat} {d : Option Word} {w : State} (hcheck : u.checkRecs ctx p = (.reject st d, w)) :
    Stopped ctx q (u.takePacket ctx q p) := by
  rw [takePacket_nodeless htype hheader hbody hnode, hcheck]
  exact stopped_rejectQueue w ctx q _ p st d

theorem takePacket_holds (hnode : pktNode p = 0) {recs : List (List Byte)} {w : State} (hcheck : u.checkRecs ctx p = (.ok recs, w)) :
    u.takePacket ctx q p = (w.makeCmd ctx q p recs).2.holdHead ctx q w.nextId := by
  rw [takePacket_nodeless htype hheader hbody hnode, hcheck]
  rfl

end

/-- A packet held at the head of its queue: a new command with its bytes, records and index. -/
theorem holdHead_makeCmd (w : State) (ctx q : Nat) (p : List Byte) (recs : List (List Byte)) :
    let t := (w.makeCmd ctx q p recs).2.holdHead ctx q w.nextId
    (t.queue ctx q).head = some w.nextId ∧ (t.queue ctx q).rindex = (w.queue ctx q).rindex ∧ (t.cmd w.nextId).bytes = p ∧
      (t.cmd w.nextId).phase = .atHead ∧ (t.cmd w.nextId).recs = recs ∧ (t.cmd w.nextId).index = (w.queue ctx q).rindex ∧
      (t.cmd w.nextId).node = pktNode p ∧ t.mem = w.mem := by
  intro t
  have hq : t.queue ctx q = { w.queue ctx q with head := some w.nextId } := queue_setQueue_same (w.makeCmd ctx q p recs).2 ctx q _
  have hc : t.cmd w.nextId = { Cmd.absent with
      ctx := ctx, queue := q, index := (w.queue ctx q).rindex, node := pktNode p, bytes := p, phase := .atHead, order := w.nextId, recs := recs } :=
    getD_set_same w.cmds w.nextId _ _
  rw [hq, hc]
  exact ⟨rfl, rfl, rfl, rfl, rfl, rfl, rfl, rfl⟩

/-! ## PACKET_DEQUEUE (R62, R63) -/

section
variable {s : State} {ctx q : Nat} (hserves : s.serves = true) (hlive : s.ctxLive ctx = true) (hserved : (s.queue ctx q).served = true)
  (hawake : (s.queue ctx q).awake = true) (hhead : (s.queue ctx q).head = none)
include hserves hlive hserved hawake hhead

theorem exec_dequeue_left (hrun : s.stillRuns ctx q = false) :
    exec (.packetDequeue ctx q) s = .next (s.setQueue ctx q { s.queue ctx q with served := false, awake := false }) := by
  show execPacketDequeue ctx q s = _
  simp only [execPacketDequeue, hserves, hlive, hserved, hawake, hhead, hrun, Option.isNone_none, Bool.and_self, Bool.not_true,
    Bool.false_eq_true, if_false, Bool.not_false, if_true, leaveQueue_headless hhead]

variable (hrun : s.stillRuns ctx q = true) {b : List Byte} {r : State} (hread : s.devRead ctx (s.queue ctx q).widx 8 = (.bytes b, r))
include hrun hread

/-- With the write index read, the engine sleeps, stops the queue or looks at the slot. -/
theorem exec_dequeue : exec (.packetDequeue ctx q) s = .next (if ofLe b ≤ (s.queue ctx q).rindex then r.sleepQueue ctx q
      else if 2 ^ (s.queue ctx q).log2n < ofLe b - (s.queue ctx q).rindex then
        r.rejectQueue ctx q (s.queue ctx q).rindex noPacket 0x106 none
      else r.takeSlot ctx q) := by
  show execPacketDequeue ctx q s = _
  simp only [execPacketDequeue, hserves, hlive, hserved, hawake, hhead, hrun, hread, Option.isNone_none, Bool.and_self, Bool.not_true,
    Bool.false_eq_true, if_false]
  split_ifs <;> rfl

theorem dequeue_sleeps (hle : ofLe b ≤ (s.queue ctx q).rindex) :
    Completes (.packetDequeue ctx q) s (fun t => t = r.setQueue ctx q { r.queue ctx q with awake := false }) :=
  ⟨_, exec_dequeue hserves hlive hserved hawake hhead hrun hread, if_pos hle⟩

theorem dequeue_overrun (hlt : (s.queue ctx q).rindex + 2 ^ (s.queue ctx q).log2n < ofLe b) :
    Completes (.packetDequeue ctx q) s (Stopped ctx q) := by
  refine ⟨_, exec_dequeue hserves hlive hserved hawake hhead hrun hread, ?_⟩
  have hpos := Nat.two_pow_pos (s.queue ctx q).log2n
  rw [if_neg (by omega), if_pos (by omega)]
  exact stopped_rejectQueue r ctx q _ _ _ _

variable (hlt : (s.queue ctx q).rindex < ofLe b) (hroom : ofLe b ≤ (s.queue ctx q).rindex + 2 ^ (s.queue ctx q).log2n)
include hlt hroom

theorem exec_dequeue_slot : exec (.packetDequeue ctx q) s = .next (r.takeSlot ctx q) := by
  rw [exec_dequeue hserves hlive hserved hawake hhead hrun hread, if_neg (by omega), if_neg (by omega)]

variable {h : List Byte} {v : State} (hheader : r.devRead ctx ((r.queue ctx q).slot (r.queue ctx q).rindex) 8 = (.bytes h, v))
include hheader

theorem dequeue_empty (htype : pktType h = 0) :
    Completes (.packetDequeue ctx q) s (fun t => t = v.setQueue ctx q { v.queue ctx q with awake := false }) := by
  refine ⟨_, exec_dequeue_slot hserves hlive hserved hawake hhead hrun hread hlt hroom, ?_⟩
  simp only [State.takeSlot, hheader, if_pos htype]
  rfl

/-- A slot with a header is captured and its packet taken. -/
theorem exec_dequeue_packet (htype : pktType h ≠ 0) {p : List Byte} {u : State}
    (hpacket : v.devRead ctx ((r.queue ctx q).slot (r.queue ctx q).rindex) 64 = (.bytes p, u)) (hquiet : u.errInjs = []) :
    exec (.packetDequeue ctx q) s = .next (u.takePacket ctx q p) := by
  rw [exec_dequeue_slot hserves hlive hserved hawake hhead hrun hread hlt hroom]
  simp only [State.takeSlot, hheader, if_neg htype, hpacket, packetEcc_quiet hquiet]

end

/-! ## NODE_CAPTURE (R77) -/

section
variable {s : State} {ctx q : Nat} (hserves : s.serves = true) (hlive : s.ctxLive ctx = true)
include hserves hlive

theorem nodeCapture_headless (hhead : ((s.releaseReady ctx).queue ctx q).head = none) :
    exec (.nodeCapture ctx q) s = .next (s.releaseReady ctx) := by
  show execNodeCapture ctx q s = _
  simp only [execNodeCapture, hserves, hlive, hhead, Bool.and_self, Bool.not_true, Bool.false_eq_true, if_false]

variable {k : Nat} (hserved : ((s.releaseReady ctx).queue ctx q).served = true) (hhead : ((s.releaseReady ctx).queue ctx q).head = some k)
  (hnode : ((s.releaseReady ctx).cmd k).node ≠ 0) (hrun : (s.releaseReady ctx).stillRuns ctx q = true) {e : List Byte} {r : State}
  (hread : (s.releaseReady ctx).devRead ctx ((s.releaseReady ctx).nodeAddr ctx ((s.releaseReady ctx).cmd k).node) 128 = (.bytes e, r))
include hserved hhead hnode hrun hread

theorem exec_nodeCapture : exec (.nodeCapture ctx q) s =
    .next (if nodeState e = 0 then ((r.captureNode k).advanceQueue ctx q).releaseReady ctx else r.holdHead ctx q k) := by
  show execNodeCapture ctx q s = _
  simp only [execNodeCapture, hserves, hlive, hserved, hhead, hrun, beq_eq_false_iff_ne.2 hnode, State.headNode, hread, Bool.and_self,
    Bool.not_true, Bool.or_self, Bool.false_eq_true, if_false]

theorem nodeCapture_waits (hstate : nodeState e ≠ 0) :
    Completes (.nodeCapture ctx q) s (fun t => t = r.setQueue ctx q { r.queue ctx q with head := some k }) :=
  ⟨_, exec_nodeCapture hserves hlive hserved hhead hnode hrun hread, if_neg hstate⟩

theorem nodeCapture_captures (hstate : nodeState e = 0) : Completes (.nodeCapture ctx q) s (fun t =>
    (t.cmd k).phase ≠ .atHead ∧ (t.cmd k).bytes = ((s.releaseReady ctx).cmd k).bytes ∧ (t.queue ctx q).head = none ∧
    (t.queue ctx q).rindex = (r.queue ctx q).rindex + 1) := by
  refine ⟨_, exec_nodeCapture hserves hlive hserved hhead hnode hrun hread, ?_⟩
  rw [if_pos hstate]
  obtain ⟨hcmd, hqueues⟩ := captureNode_captures r k
  have hreleased := releases_releaseReady ((r.captureNode k).advanceQueue ctx q) ctx
  have hk := hreleased.cmd k
  rw [cmd_advanceQueue, hcmd, (acts_of_devRead hread).cmd] at hk
  have hq : (r.captureNode k).queue ctx q = r.queue ctx q := congrArg (fun m => FMap.getD m (ctx, q) Queue.absent) hqueues
  rw [hreleased.queue, queue_advanceQueue, hq]
  obtain hsame | ⟨-, hphase, hbytes⟩ := hk
  · rw [hsame]
    exact ⟨nofun, rfl, rfl, rfl⟩
  · exact ⟨hphase, hbytes, rfl, rfl⟩

end

/-! ## What a start reads (R73, R429) -/

/-- Bound fields none of which is indirect are read as they stand. -/
theorem readBound_direct (s : State) (ctx ind : Nat) (fs : List BoundField) (j : Nat) (h : ∀ f ∈ fs, f.indirect = false) :
    s.readBound ctx ind fs j = (some (fs.map (fun f => f.value), none), s) := by
  induction fs generalizing j with
  | nil => rfl
  | cons f rest ih =>
    have hf : s.readField ctx ind j f = (some (f.value, none), s) := if_pos (by rw [h f (List.mem_cons_self ..)]; rfl)
    rw [State.readBound, hf]
    dsimp only
    rw [ih _ (fun g hg => h g (List.mem_cons_of_mem _ hg))]
    rfl

/-- Only a near-memory command reads again as it starts. -/
theorem startRecs_own {s u : State} {k : Nat} {recs : List (List Byte)} {worse : Option Finding} (htype : pktType (s.cmd k).bytes ≠ 5)
    (h : s.startRecs k = (some (recs, worse), u)) : recs = (s.cmd k).recs ∧ u = s := by
  simp only [State.startRecs, if_neg htype, Prod.mk.injEq, Option.some.injEq] at h
  exact ⟨h.1.1.symm, h.2.symm⟩

theorem acts_startRecs (s : State) (k : Nat) : EngineActs s (s.startRecs k).2 := by
  unfold State.startRecs
  dsimp only
  split
  · exact .refl s
  · rename_i a _
    have h := acts_readRec_device s (s.cmd k).ctx (.pulled .sys devicePlace) spGlobal a 64
    split <;> rename_i heq <;> rw [heq] at h <;> exact h

theorem acts_of_startRecs {s u : State} {k : Nat} {o : Option (List (List Byte) × Option Finding)} (h : s.startRecs k = (o, u)) :
    EngineActs s u := by
  have hr := acts_startRecs s k
  rwa [h] at hr

end Sys2Proof.Proofs
end

section
/-! Packets started, and the statement of the queue engines' services (R57 to R77, R429). -/

namespace Sys2Proof.Proofs

open Sys2Proof Sys2Proof.Machine Sys2Proof.Laws

/-! ## The start instant (R66, R73, R75, R428) -/

/-- A command as it starts with its bound values; a collective's body takes them. -/
def startedCmd (s : State) (k : Nat) (vals : List Nat) : Cmd :=
  { s.cmd k with
    phase := .started, bound := vals.map (BitVec.ofNat 64), order := s.nextId
    recs := (if pktType (s.cmd k).bytes = 4 then collBodyWith ((s.cmd k).recs.getD 0 []) vals :: (s.cmd k).recs.drop 1 else (s.cmd k).recs) }

/-- A command started, with its launch or its place in the command order, before its queue goes on. -/
def begun (s : State) (k : Nat) (vals : List Nat) : State :=
  let t := (({ s with nextId := s.nextId + 1 }).setCmd k (startedCmd s k vals)).pull .sys (s.cmdPlace k)
  match pktType (s.cmd k).bytes with
  | 1 => t.makeLaunch k vals
  | 5 => t.enterNear k vals
  | _ => t

theorem startCmd_eq (s : State) (k : Nat) (vals : List Nat) : s.startCmd k vals =
    if (s.cmd k).node = 0 ∧ pktType (s.cmd k).bytes ≠ 7 then (begun s k vals).advanceQueue (s.cmd k).ctx (s.cmd k).queue else begun s k vals := rfl

/-- A start changes its own command, and no queue, before its queue goes on. -/
theorem begun_cmd (s : State) (k : Nat) (vals : List Nat) : (begun s k vals).cmd k = startedCmd s k vals ∧ (begun s k vals).queues = s.queues := by
  have h : (s.setCmd k (startedCmd s k vals)).cmd k = startedCmd s k vals := cmd_setCmd_same s k _
  unfold begun
  dsimp only
  split
  · exact ⟨h, rfl⟩
  · exact ⟨h, rfl⟩
  · exact ⟨h, rfl⟩

/-- The launch that a LAUNCH packet's command starts (R66, R67). -/
def startedLaunch (c : Cmd) (k seq : Nat) (vals : List Nat) : Launch :=
  let d := KDesc.ofBytes (c.recs.getD 0 [])
  { Launch.absent with
    cmd := k, ctx := c.ctx, entry := d.entry, helm := d.helm, threads := d.threads, barsN := d.bars, lend := d.lend, scratch := d.scratch
    karg := BitVec.ofNat 64 (fieldLe c.bytes 16 8), gx := vals.getD 0 0, gy := vals.getD 1 0, gz := vals.getD 2 0, det := launchDet c.bytes
    cls := BitVec.ofNat 2 (launchClass c.bytes), opp := launchOpp c.bytes, rset := launchRset c.bytes
    spawnCd := (if fieldLe c.bytes 38 2 = 0 then 65536 else fieldLe c.bytes 38 2), hang := fieldLe c.bytes 40 8, order := c.order, running := true
    startSeq := seq }

theorem launch_retarget (s : State) (k : Nat) : s.retarget.launch k = s.launch k := rfl

theorem launch_makeLaunch (s : State) (k : Nat) (vals : List Nat) :
    (s.makeLaunch k vals).launch k = startedLaunch (s.cmd k) k s.writeSeq vals := by
  rw [State.makeLaunch, launch_retarget, launch_setLaunch_same]
  rfl

theorem begun_launch {s : State} {k : Nat} (vals : List Nat) (h : pktType (s.cmd k).bytes = 1) :
    (begun s k vals).launch k = startedLaunch (startedCmd s k vals) k s.writeSeq vals := by
  have hc : ((({ s with nextId := s.nextId + 1 }).setCmd k (startedCmd s k vals)).pull .sys (s.cmdPlace k)).cmd k = startedCmd s k vals :=
    cmd_setCmd_same _ k _
  simp only [begun, h, launch_makeLaunch, hc]
  rfl

/-- A near-memory command enters the command order with its record and its argument block (R428, R429). -/
theorem begun_near {s : State} {k : Nat} (vals : List Nat) (h : pktType (s.cmd k).bytes = 5) :
    ∃ n ∈ (begun s k vals).near, n.source = .command k ∧ n.record = (s.cmd k).recs.getD 0 [] ∧ n.args = (s.cmd k).recs.getD 1 [] ∧
      n.begun = false := by
  have hrecs : ((s.setCmd k (startedCmd s k vals)).cmd k).recs = (s.cmd k).recs := by
    rw [cmd_setCmd_same, startedCmd, if_neg (by omega)]
  unfold begun
  rw [h, ← hrecs]
  exact ⟨_, List.mem_append_right _ (List.mem_singleton_self _), rfl, rfl, rfl, rfl⟩

/-- What a started command leaves, its queue's advance included. -/
theorem startCmd_starts (s : State) (k : Nat) (vals : List Nat) :
    let c := s.cmd k
    let t := s.startCmd k vals
    t.cmd k = startedCmd s k vals ∧ t.launch k = (begun s k vals).launch k ∧ t.near = (begun s k vals).near ∧
      (pktType c.bytes ≠ 7 → c.node = 0 →
        t.queue c.ctx c.queue = { s.queue c.ctx c.queue with rindex := (s.queue c.ctx c.queue).rindex + 1, head := none }) ∧
      (pktType c.bytes = 7 ∨ c.node ≠ 0 → t.queue c.ctx c.queue = s.queue c.ctx c.queue) := by
  intro c t
  obtain ⟨hcmd, hqueues⟩ := begun_cmd s k vals
  have hqueue : (begun s k vals).queue c.ctx c.queue = s.queue c.ctx c.queue := congrArg (fun m => FMap.getD m _ Queue.absent) hqueues
  have ht : t = _ := startCmd_eq s k vals
  by_cases hgoes : c.node = 0 ∧ pktType c.bytes ≠ 7
  · rw [if_pos hgoes] at ht
    obtain ⟨u, hu, hset⟩ := advanceQueue_advances (begun s k vals) c.ctx c.queue
    refine ⟨?_, ?_, ?_, fun _ _ => ?_, fun h => absurd h (by simp [hgoes])⟩
    · rw [ht, cmd_advanceQueue, hcmd]
    · rw [ht, hset]
      exact congrArg (fun m => FMap.getD m k Launch.absent) hu.launches
    · rw [ht, hset]
      exact hu.near
    · rw [ht, queue_advanceQueue, hqueue]
  · rw [if_neg hgoes] at ht
    rw [ht]
    exact ⟨hcmd, rfl, rfl, fun h7 h0 => absurd ⟨h0, h7⟩ hgoes, fun _ => hqueue⟩

/-! ## PACKET_START (R65, R75) -/

/-- A command stands at the head of its running queue or at its gate. -/
def AtStart (s : State) (k : Nat) : Prop :=
  ((s.cmd k).phase = .atHead ∧ (s.cmd k).node = 0 ∧ s.stillRuns (s.cmd k).ctx (s.cmd k).queue = true) ∨ (s.cmd k).phase = .gate

section
variable {s : State} {k : Nat} (hserves : s.serves = true) (hlive : s.ctxLive (s.cmd k).ctx = true)
include hserves hlive

/-- A packet at the head of a queue that has left RUN is given up. -/
theorem exec_start_leaves (hphase : (s.cmd k).phase = .atHead) (hnode : (s.cmd k).node = 0)
    (hrun : s.stillRuns (s.cmd k).ctx (s.cmd k).queue = false) : exec (.packetStart k) s = .next (s.leaveQueue (s.cmd k).ctx (s.cmd k).queue) := by
  show execPacketStart k s = _
  have harmed : ((s.cmd k).phase == CmdPhase.armed) = false := by rw [hphase]; rfl
  have hchecked : s.checkReleased k = s := if_pos (by rw [hphase]; nofun)
  simp only [execPacketStart, harmed, Bool.and_false, Bool.false_eq_true, if_false, hchecked, hserves, hlive, hnode, hrun]
  simp only [hphase, beq_self_eq_true, Bool.and_self, Bool.true_or, Bool.not_true, Bool.false_eq_true, if_false, Bool.not_false, if_true]

variable (hat : AtStart s k)
include hat

/-- A command at its start waits for its fence and its semaphore, and then reads what it starts with. -/
theorem exec_start : exec (.packetStart k) s =
    if pktFence (s.cmd k).bytes && !s.fenceMet k then .next s
    else if !s.awaitMet (s.cmd k).ctx (s.cmd k).bytes then .next s
    else match s.readBound (s.cmd k).ctx (pktInd (s.cmd k).bytes) (pktBound (s.cmd k).bytes) 0 with
      | (none, t) => .next t
      | (some (vals, bad), t) =>
        match t.startRecs k with
        | (none, u) => .next u
        | (some (recs, worse), u) =>
          match lowestFinding worse (lowestFinding
            (if pktIndirect (s.cmd k).bytes && !u.pktLimits (s.cmd k).ctx (s.cmd k).bytes recs vals then some (0x103, none) else none) bad) with
          | some f => .next (u.rejectCmd k f.1 f.2)
          | none =>
            if pktType (s.cmd k).bytes = 4 then .next ((u.setCmd k { u.cmd k with recs := recs }).startColl k vals)
            else .next ((u.setCmd k { u.cmd k with recs := recs }).startCmd k vals) := by
  show execPacketStart k s = _
  obtain ⟨hphase, hnode, hrun⟩ | hphase := hat
  · have harmed : ((s.cmd k).phase == CmdPhase.armed) = false := by rw [hphase]; rfl
    have hchecked : s.checkReleased k = s := if_pos (by rw [hphase]; nofun)
    simp only [execPacketStart, harmed, Bool.and_false, Bool.false_eq_true, if_false, hchecked, hserves, hlive, hnode, hrun]
    simp only [hphase, beq_self_eq_true, Bool.and_self, Bool.true_or, Bool.not_true, Bool.and_false, Bool.false_eq_true, if_false] <;> rfl
  · have harmed : ((s.cmd k).phase == CmdPhase.armed) = false := by rw [hphase]; rfl
    have hhead : ((s.cmd k).phase == CmdPhase.atHead) = false := by rw [hphase]; rfl
    have hchecked : s.checkReleased k = s := if_pos (by rw [hphase]; nofun)
    simp only [execPacketStart, harmed, Bool.and_false, Bool.false_eq_true, if_false, hchecked, hserves, hlive, hhead]
    simp only [hphase, beq_self_eq_true, Bool.and_self, Bool.false_and, Bool.or_true, Bool.not_true, Bool.false_eq_true, if_false] <;> rfl

theorem start_waits (h : (pktFence (s.cmd k).bytes = true ∧ s.fenceMet k = false) ∨ s.awaitMet (s.cmd k).ctx (s.cmd k).bytes = false) :
    exec (.packetStart k) s = .next s := by
  rw [exec_start hserves hlive hat]
  obtain ⟨hfence, hmet⟩ | hawait := h
  · exact if_pos (by simp [hfence, hmet])
  · rw [hawait]
    exact ite_self _

/-- A command whose gate is open and whose fields stand in its packet starts with its records. -/
theorem exec_start_starts (hfence : pktFence (s.cmd k).bytes = true → s.fenceMet k = true)
    (hawait : s.awaitMet (s.cmd k).ctx (s.cmd k).bytes = true) (hdirect : pktIndirect (s.cmd k).bytes = false)
    (htype : pktType (s.cmd k).bytes ≠ 4) {recs : List (List Byte)} {u : State} (hrecs : s.startRecs k = (some (recs, none), u)) :
    exec (.packetStart k) s =
      .next ((u.setCmd k { u.cmd k with recs := recs }).startCmd k ((pktBound (s.cmd k).bytes).map (fun f => f.value))) := by
  have hbound := readBound_direct s (s.cmd k).ctx (pktInd (s.cmd k).bytes) (pktBound (s.cmd k).bytes) 0
    (fun f hf => by simpa using List.any_eq_false.1 hdirect f hf)
  have hopen : (pktFence (s.cmd k).bytes && !s.fenceMet k) = false := by
    cases hf : pktFence (s.cmd k).bytes with
    | false => rfl
    | true => rw [hfence hf]; rfl
  rw [exec_start hserves hlive hat, hopen, hawait, hbound]
  dsimp only
  rw [hrecs]
  simp only [hdirect, Bool.false_and, Bool.false_eq_true, if_false, Bool.not_true, lowestFinding, if_neg htype]

end

/-- A command as a start finds it, with the records read then. -/
theorem cmd_withRecs {s u : State} (h : EngineActs s u) (k : Nat) (recs : List (List Byte)) :
    (u.setCmd k { u.cmd k with recs := recs }).cmd k = { s.cmd k with recs := recs } := by
  rw [cmd_setCmd_same, h.cmd]

/-- The bound values of a LAUNCH packet. -/
theorem pktBound_launch {p : List Byte} (h : pktType p = 1) :
    (pktBound p).map (fun f => f.value) = [fieldLe p 24 4, fieldLe p 28 4, fieldLe p 32 4] := by
  rw [pktBound, h]
  rfl

/-- Settles O49: descriptors, dequeue, capture and start, each by the equation of its event. -/
theorem queueServiceResults : Obligations.QueueServiceResults := by
  unfold Obligations.QueueServiceResults
  intro s ctx q hserves hlive x
  refine ⟨fun hserved => ⟨_, exec_queueWake hserves hserved, rfl⟩, fun hserved hrun => ⟨_, exec_descriptor_served hserved hrun, rfl⟩,
    fun hleft hq b r hread => ⟨fun hstate => ?_, fun hstate hok => ?_, fun hstate hok => ⟨fun hkeeps => ?_, fun hkeeps i u hindex => ?_⟩⟩,
    fun hserved hawake hhead => ⟨fun hrun => ⟨_, exec_dequeue_left hserves hlive hserved hawake hhead hrun, rfl⟩,
      fun hrun b r hread => ⟨fun hle => ?_, fun hlt => ?_, fun hlt hroom h v hheader => ⟨fun htype => ?_, fun htype p u hpacket hquiet => ?_⟩⟩⟩,
    ⟨fun hhead => ⟨_, nodeCapture_headless hserves hlive hhead, rfl⟩,
      fun k hserved hhead hnode hrun e r hread => ⟨fun hstate => ?_, fun hstate => ?_⟩⟩,
    ?_⟩
  · exact descriptor_idle hserves hlive hleft hq hread hstate
  · exact descriptor_bad hserves hlive hleft hq hread hstate hok
  · exact descriptor_keeps hserves hlive hleft hq hread hstate hok hkeeps
  · exact descriptor_reads hserves hlive hleft hq hread hstate hok hkeeps hindex
  · exact dequeue_sleeps hserves hlive hserved hawake hhead hrun hread hle
  · exact dequeue_overrun hserves hlive hserved hawake hhead hrun hread hlt
  · exact dequeue_empty hserves hlive hserved hawake hhead hrun hread hlt hroom hheader htype
  · have hx := exec_dequeue_packet hserves hlive hserved hawake hhead hrun hread hlt hroom hheader htype hpacket hquiet
    refine ⟨fun hbad => ⟨_, hx, takePacket_illegal hbad⟩, fun hlegal hheaderOk hbody => ⟨fun hnode => ⟨fun recs w hcheck => ?_,
      fun st d w hcheck => ⟨_, hx, takePacket_rejects hlegal hheaderOk hbody hnode hcheck⟩⟩,
      fun hnode hcount => ⟨_, hx, takePacket_noNode hlegal hheaderOk hbody hnode hcount⟩⟩⟩
    rw [takePacket_holds hlegal hheaderOk hbody hnode hcheck] at hx
    have hheld := holdHead_makeCmd w ctx q p recs
    rw [hnode] at hheld
    exact ⟨_, hx, hheld⟩
  · exact nodeCapture_waits hserves hlive hserved hhead hnode hrun hread hstate
  · exact nodeCapture_captures hserves hlive hserved hhead hnode hrun hread hstate
  · intro k c atHead hctx hqueue
    subst hctx hqueue
    have hat {P : Prop} (h : atHead ∨ (c.phase = .gate ∧ P)) : AtStart s k := h.imp id And.left
    refine ⟨fun hphase hnode hrun => ⟨_, exec_start_leaves hserves hlive hphase hnode hrun, rfl⟩,
      fun h hfence hmet => ⟨_, start_waits hserves hlive h (.inl ⟨hfence, hmet⟩), rfl⟩,
      fun h hawait => ⟨_, start_waits hserves hlive h (.inr hawait), rfl⟩,
      fun h hfence hawait hdirect htype recs u hrecs => ⟨fun h5 => startRecs_own h5 hrecs, ?_⟩⟩
    have hcmd := cmd_withRecs (acts_of_startRecs hrecs) k recs
    generalize hv : u.setCmd k { u.cmd k with recs := recs } = v at hcmd
    have hqueue (a b : Nat) : v.queue a b = u.queue a b := by rw [← hv]; rfl
    have hx := exec_start_starts hserves hlive (hat h) hfence hawait hdirect htype hrecs
    rw [hv] at hx
    obtain ⟨hstarted, hlaunched, hnear, hadvances, hstays⟩ := startCmd_starts v k ((pktBound c.bytes).map (fun f => f.value))
    rw [hcmd, hqueue] at hadvances hstays
    have hbytes : (v.cmd k).bytes = c.bytes := by rw [hcmd]
    refine ⟨_, hx, ?_, ?_, fun h7 h0 => ?_, hstays, fun h1 => ?_, fun h5 => ?_⟩
    · rw [hstarted]
      rfl
    · rw [hstarted]
      exact List.map_map
    · rw [hadvances h7 h0]
      exact ⟨rfl, rfl⟩
    · have h1' : pktType (s.cmd k).bytes = 1 := h1
      have hown : recs = (s.cmd k).recs := (startRecs_own (by omega) hrecs).1
      have hlaunch := begun_launch ((pktBound c.bytes).map (fun f => f.value)) (by rw [hbytes]; exact h1 : pktType (v.cmd k).bytes = 1)
      rw [← hlaunched, pktBound_launch h1, startedCmd, hcmd, if_neg (by omega), hown] at hlaunch
      dsimp only
      rw [pktBound_launch h1, hlaunch]
      exact ⟨rfl, rfl, rfl, rfl, rfl, rfl, rfl, rfl, rfl, rfl, rfl, rfl, rfl, rfl, rfl, rfl, rfl⟩
    · obtain ⟨n, hn, hsource, hrecord, hargs, hnew⟩ := begun_near ((pktBound c.bytes).map (fun f => f.value))
        (by rw [hbytes]; exact h5 : pktType (v.cmd k).bytes = 5)
      rw [hcmd] at hrecord hargs
      exact ⟨n, by rw [hnear]; exact hn, hsource, hrecord, hargs, hnew⟩

end Sys2Proof.Proofs
end

section
/-! What each started command does (R66, R71, R72, R80, R203, R208 to R230). -/

namespace Sys2Proof.Proofs

open Sys2Proof Sys2Proof.Machine Sys2Proof.Laws

/-! ## Work done and work held (R78, R80, R203) -/

/-- A command whose work is done: OK gives way to a poison that one of its writes noted (R26). -/
def workedCmd (x : Cmd) (status : BitVec 16) (detail result : Word) : Cmd :=
  { x with
    phase := .worked, status := (if status = 1 ∧ x.status = 2 then 2 else status), detail := (if status = 1 ∧ x.status = 2 then x.detail else detail)
    result := result, held := false }

theorem cmdWorked_eq (s : State) (k : Nat) (status : BitVec 16) (detail result : Word) :
    s.cmdWorked k status detail result = s.setCmd k (workedCmd (s.cmd k) status detail result) := by
  unfold State.cmdWorked workedCmd
  by_cases h : status = 1 ∧ (s.cmd k).status = 2
  · simp only [h.2]
  · simp only [if_neg h]

theorem holdCmd_holds (s : State) (k : Nat) (f : AccFault) :
    ((s.holdCmd k f).cmd k).held = true ∧ ((s.holdCmd k f).cmd k).phase = (s.cmd k).phase ∧ (s.holdCmd k f).mem = s.mem := by
  have h : (s.holdCmd k f).cmd k = { s.cmd k with held := true } := cmd_setCmd_same s k _
  rw [h]
  exact ⟨rfl, rfl, rfl⟩

/-- What an engine's run leaves of the command that it works for: work done, held by a fault, or not yet begun. -/
def RunAnswers (i : Instr) (s : State) (k : Nat) (result : Word) : RunOut → Prop
  | .done bad r => Completes i s (fun t => t = r.setCmd k (workedCmd (r.cmd k) (if bad.isSome then 2 else 1) (bad.getD 0) result))
  | .held _ r => Completes i s (fun t => (t.cmd k).held = true ∧ (t.cmd k).phase = (r.cmd k).phase ∧ t.mem = r.mem)
  | .waiting r => Completes i s (fun t => t = if r.nextId = s.nextId then s else r)

theorem cmdRun_answers {i : Instr} {s : State} {k : Nat} {result : Word} {out : RunOut} (hx : exec i s = .next (s.cmdRun k result out)) :
    RunAnswers i s k result out := by
  cases out with
  | done bad r => exact ⟨_, hx, cmdWorked_eq r k _ _ _⟩
  | held f r => exact ⟨_, hx, holdCmd_holds r k f⟩
  | waiting r => exact ⟨_, hx, rfl⟩

/-- A command of a type is started, not held, and not yet worked. -/
def AtWork (s : State) (k ty : Nat) : Prop := (s.cmd k).phase = .started ∧ pktType (s.cmd k).bytes = ty ∧ (s.cmd k).held = false

theorem cmdAtWork_of {s : State} {k ty : Nat} (h : AtWork s k ty) : s.cmdAtWork k ty = true := by
  obtain ⟨hphase, htype, hheld⟩ := h
  simp [State.cmdAtWork, hphase, htype, hheld]

theorem cmdAtWork_of_not {s : State} {k : Nat} (ty : Nat) (h : (s.cmd k).phase ≠ .started) : s.cmdAtWork k ty = false := by
  simp [State.cmdAtWork, h]

/-! ## Engine commands (R212 to R230, R428) -/

theorem copyCmd_runs {s : State} {k op : Nat} (h : AtWork s k 2) (hop : fieldLe (s.cmd k).bytes 28 1 = op) :
    s.copyCmd k op = .next (s.cmdRun k
      (BitVec.ofNat 64 (copyWritten op ((s.cmd k).recs.getD 0 []) ((s.cmd k).recs.getD 1 []) ((s.cmd k).boundAt 0)))
      (s.copyRun (cmdReq k (s.cmd k).ctx) .floor op ((s.cmd k).recs.getD 0 []) ((s.cmd k).recs.getD 1 []) ((s.cmd k).boundAt 0))) :=
  if_pos (by simp [cmdAtWork_of h, hop])

/-- A copy command's run, for the instruction of its operation. -/
theorem copy_answers {i : Instr} {s : State} {k op : Nat} (hi : exec i s = s.copyCmd k op) (h : AtWork s k 2)
    (hop : fieldLe (s.cmd k).bytes 28 1 = op) : RunAnswers i s k
      (BitVec.ofNat 64 (copyWritten op ((s.cmd k).recs.getD 0 []) ((s.cmd k).recs.getD 1 []) ((s.cmd k).boundAt 0)))
      (s.copyRun (cmdReq k (s.cmd k).ctx) .floor op ((s.cmd k).recs.getD 0 []) ((s.cmd k).recs.getD 1 []) ((s.cmd k).boundAt 0)) :=
  cmdRun_answers (hi.trans (copyCmd_runs h hop))

theorem chain_answers {s : State} {k : Nat} (h : AtWork s k 2) (hop : fieldLe (s.cmd k).bytes 28 1 = 7) :
    RunAnswers (.copyChain k) s k
      (BitVec.ofNat 64 (copyBytes (Layout.ofBytes ((s.cmd k).recs.getLastD [])) (Layout.ofBytes ((s.cmd k).recs.getLastD [])) ((s.cmd k).boundAt 0)))
      (s.chainRun (cmdReq k (s.cmd k).ctx) .floor ((s.cmd k).recs.getD 0 []) ((s.cmd k).recs.drop 1).dropLast ((s.cmd k).recs.getLastD [])
        ((s.cmd k).boundAt 0)) :=
  cmdRun_answers (if_pos (by simp [cmdAtWork_of h, hop]))

theorem sort_answers {s : State} {k : Nat} (h : AtWork s k 3) : RunAnswers (.sort k) s k (BitVec.ofNat 64 ((s.cmd k).boundAt 0))
    (s.sortRun (cmdReq k (s.cmd k).ctx) .floor (sortBody (s.cmd k).bytes ((s.cmd k).bound.map (fun w => w.toNat)))) :=
  cmdRun_answers (if_pos (cmdAtWork_of h))

/-- A collective is carried out, or waits for the ranks of this module (R226). -/
theorem coll_answers {i : Instr} {s : State} {k op : Nat} (hi : exec i s = s.collCmd k op) (h : AtWork s k 4)
    (hop : fieldLe (s.cmd k).bytes 36 1 = op) :
    Completes i s (fun t => some t = s.collRun (s.collJobOf k) ∨ (s.collRun (s.collJobOf k) = none ∧ t = s)) := by
  refine ⟨(s.collRun (s.collJobOf k)).getD s, hi.trans (if_pos (by simp [cmdAtWork_of h, hop])), ?_⟩
  cases s.collRun (s.collJobOf k) with
  | none => exact .inr ⟨rfl, rfl⟩
  | some t => exact .inl rfl

/-- A near-memory command taken as far as it goes: its work is done once every unit has finished it (R428, R439). -/
theorem near_answers {i : Instr} {s : State} {k kind : Nat} (hi : exec i s = s.nearCmd k kind) (h : AtWork s k 5)
    (hkind : fieldLe (s.cmd k).bytes 8 1 = kind) {n d : NearCmd} (hn : s.nearFor (.command k) = some n)
    (hd : (s.nearAdvance n).nearFor (.command k) = some d) :
    (d.begun = true → d.left = [] → Completes i s (fun t => t =
      (((s.nearAdvance n).closeWindow d).nearRemove d.id).setCmd k (workedCmd ((((s.nearAdvance n).closeWindow d).nearRemove d.id).cmd k)
        (if d.failed || d.bad.isSome then 2 else 1) (d.bad.getD 0) (BitVec.ofNat 64 ((s.cmd k).boundAt 1))))) ∧
    (d.begun = false ∨ d.left ≠ [] → Completes i s (fun t => t = s.nearAdvance n)) := by
  have hx : exec i s = match s.nearStep (.command k) with
      | (some d, t) =>
        .next (t.cmdWorked k (if d.failed || d.bad.isSome then 2 else 1) (d.bad.getD 0) (BitVec.ofNat 64 ((s.cmd k).boundAt 1)))
      | (none, t) => .next t := hi.trans (if_pos (by simp [cmdAtWork_of h, hkind]))
  refine ⟨fun hbegun hleft => ?_, fun hmore => ?_⟩
  · have hstep : s.nearStep (.command k) = (some d, ((s.nearAdvance n).closeWindow d).nearRemove d.id) := by
      simp only [State.nearStep, hn, hd, hbegun, hleft, List.isEmpty_nil, Bool.and_self, if_true]
    rw [hstep] at hx
    exact ⟨_, hx, cmdWorked_eq _ k _ _ _⟩
  · have hstep : s.nearStep (.command k) = (none, s.nearAdvance n) := by
      have hnot : (d.begun && d.left.isEmpty) = false := by
        obtain hbegun | hleft := hmore
        · rw [hbegun]
          rfl
        · rw [List.isEmpty_eq_false_iff.2 hleft, Bool.and_false]
      simp only [State.nearStep, hn, hd, hnot, Bool.false_eq_true, if_false]
    rw [hstep] at hx
    exact ⟨_, hx, rfl⟩

/-- A rejected command is done. -/
theorem rejectCmd_done (s : State) (k status : Nat) (detail : Option Word) : ((s.rejectCmd k status detail).cmd k).phase = .done := by
  unfold State.rejectCmd
  dsimp only
  split_ifs
  · have hset : (s.setCmd k { s.cmd k with phase := .done }).cmd k = { s.cmd k with phase := .done } := cmd_setCmd_same s k _
    obtain h | ⟨-, h⟩ := cmd_rejectQueue (s.setCmd k { s.cmd k with phase := .done }) (s.cmd k).ctx (s.cmd k).queue (s.cmd k).index
      (s.cmd k).bytes status detail k
    · rw [h, hset]
    · rw [h]
  · exact congrArg Cmd.phase (cmd_setCmd_same _ k _)

theorem copyMigrate_rejects {s : State} {k : Nat} (hphase : (s.cmd k).phase ≠ .done) (htype : pktType (s.cmd k).bytes = 2)
    (hop : fieldLe (s.cmd k).bytes 28 1 = 6) : Completes (.copyMigrate k) s (fun t => (t.cmd k).phase = .done) :=
  ⟨_, if_pos ⟨hphase, htype, hop⟩, rejectCmd_done s k _ _⟩

/-! ## LAUNCH, SIGNAL, AWAIT, NOP (R66, R72) -/

theorem launch_answers {s : State} {k : Nat} (h : AtWork s k 1) : Completes (.launch k) s (fun t => t =
    if (s.launch k).eligible then s else s.setLaunch k { s.launch k with eligible := true }) := by
  refine ⟨_, ?_, rfl⟩
  show execLaunch k s = _
  unfold execLaunch
  rw [cmdAtWork_of h]
  cases (s.launch k).eligible <;> rfl

section
variable {s : State} {k i : Nat} (hsem : s.semIndex (s.cmd k).ctx (fieldLe (s.cmd k).bytes 8 2) = some i)
include hsem

theorem targetSem_of : s.targetSem k = i := by rw [State.targetSem, hsem]; rfl

theorem signal_answers (h : AtWork s k 6) :
    let v := s.sem i + BitVec.ofNat 64 ((s.cmd k).boundAt 0)
    exec (.signal k) s = .next ((s.setSem i v).setCmd k (workedCmd (s.cmd k) 1 0 v)) := by
  intro v
  show execSignal k s = _
  rw [execSignal, if_pos (cmdAtWork_of h), targetSem_of hsem]
  exact congrArg Host.Outcome.next (cmdWorked_eq _ k _ _ _)

theorem await_answers (h : AtWork s k 7) : exec (.await k) s = .next (
    if (s.cmd k).boundAt 0 ≤ (s.sem i).toNat then
      (if (s.cmd k).node = 0 ∧ (s.queue (s.cmd k).ctx (s.cmd k).queue).head = some k then
        (s.setCmd k (workedCmd (s.cmd k) 1 0 (s.sem i))).advanceQueue (s.cmd k).ctx (s.cmd k).queue
      else s.setCmd k (workedCmd (s.cmd k) 1 0 (s.sem i)))
    else s) := by
  show execAwait k s = _
  simp only [execAwait, cmdAtWork_of h, targetSem_of hsem, cmdWorked_eq, Bool.true_and, decide_eq_true_eq]
  split_ifs <;> rfl

end

theorem nop_answers {s : State} {k : Nat} (h : AtWork s k 8) : exec (.nop k) s = .next (s.setCmd k (workedCmd (s.cmd k) 1 0 0)) :=
  (if_pos (cmdAtWork_of h)).trans (congrArg Host.Outcome.next (cmdWorked_eq s k 1 0 0))

end Sys2Proof.Proofs
end

section
/-! How a command completes: its record, its semaphore and its end (R78 to R80). -/

namespace Sys2Proof.Proofs

open Sys2Proof Sys2Proof.Machine Sys2Proof.Laws

/-! ## Nodes that wait to be released (R77) -/

theorem armedOf_eq_nil (s : State) (ctx : Nat) : s.armedOf ctx = [] ↔ ∀ e ∈ s.cmds, e.2.ctx = ctx → e.2.phase ≠ .armed := by
  rw [State.armedOf, List.map_eq_nil_iff, ← List.length_eq_zero_iff, List.length_mergeSort, List.length_eq_zero_iff, List.filter_eq_nil_iff]
  simp

theorem mem_of_mem_set {κ α : Type} [DecidableEq κ] {m : FMap κ α} {k : κ} {v : α} {e : κ × α} (h : e ∈ FMap.set m k v) :
    e = (k, v) ∨ e ∈ m := by
  induction m with
  | nil => exact .inl (List.mem_singleton.1 h)
  | cons d m ih =>
    obtain ⟨j, w⟩ := d
    rw [FMap.set] at h
    split_ifs at h
    · exact (List.mem_cons.1 h).imp_right (List.mem_cons_of_mem _)
    · obtain hd | hm := List.mem_cons.1 h
      · exact .inr (List.mem_cons.2 (.inl hd))
      · exact (ih hm).imp_right (List.mem_cons_of_mem _)

theorem armedOf_setCmd {s : State} {ctx k : Nat} {x : Cmd} (h : s.armedOf ctx = []) (hx : x.phase ≠ .armed) :
    (s.setCmd k x).armedOf ctx = [] := by
  rw [armedOf_eq_nil] at h ⊢
  intro e he hctx
  obtain rfl | hm := mem_of_mem_set he
  · exact hx
  · exact h e hm hctx

theorem armedOf_congr {s t : State} (h : t.cmds = s.cmds) (ctx : Nat) : t.armedOf ctx = s.armedOf ctx := by rw [State.armedOf, h]; rfl

theorem releaseReady_idle {s : State} {ctx : Nat} (h : s.armedOf ctx = []) : s.releaseReady ctx = s := by rw [State.releaseReady, h]; rfl

/-! ## The steps of a completion (R78) -/

/-- A command at a phase of its completion. -/
def inPhase (c : Cmd) (p : CmdPhase) : Cmd := { c with phase := p }

/-- SIGSEM: the packet's semaphore raised by 1. -/
def signalled (s : State) (c : Cmd) : State :=
  if pktSig c.bytes then
    (match s.semIndex c.ctx (pktSigSem c.bytes) with | some i => s.setSem i (s.sem i + 1) | none => s)
  else s

/-- A semaphore raised changes nothing but semaphores. -/
theorem signalled_frame (s : State) (c : Cmd) : signalled s c = { s with sems := (signalled s c).sems } := by
  unfold signalled
  split_ifs
  · split <;> rfl
  · rfl

theorem sems_signalled (s : State) (c : Cmd) : (signalled s c).sems =
    if pktSig c.bytes then match s.semIndex c.ctx (pktSigSem c.bytes) with
      | some i => (s.setSem i (s.sem i + 1)).sems
      | none => s.sems else s.sems := by
  unfold signalled
  split_ifs
  · split <;> rfl
  · rfl

theorem signalled_setCmd (s : State) (k : Nat) (x : Cmd) (c : Cmd) : signalled (s.setCmd k x) c = (signalled s c).setCmd k x := by
  have hsem : (s.setCmd k x).semIndex c.ctx (pktSigSem c.bytes) = s.semIndex c.ctx (pktSigSem c.bytes) := rfl
  unfold signalled
  rw [hsem]
  split_ifs
  · split <;> rfl
  · rfl

theorem signalCmd_eq (s : State) (k : Nat) : s.signalCmd k = (signalled s (s.cmd k)).setCmd k (inPhase (s.cmd k) .signalled) := rfl

/-- A completion stands still at a command that is held, or done. -/
theorem completeStep_still {s : State} {k : Nat} (h : (s.cmd k).held = true ∨ (s.cmd k).phase = .done) : s.completeStep k = s := by
  obtain hheld | hdone := h
  · exact if_pos hheld
  · simp only [State.completeStep, hdone, ite_self]

/-- Steps of a completion from where it stands still. -/
theorem completeSteps_still {s : State} {k : Nat} (h : (s.cmd k).held = true ∨ (s.cmd k).phase = .done) (n : Nat) :
    (fun t : State => t.completeStep k)^[n] s = s :=
  Function.iterate_fixed (completeStep_still h) n

section
variable {s : State} {k : Nat} {c : Cmd} (hheld : c.held = false)
include hheld

theorem completeStep_worked (hcmd : s.cmd k = c) (hphase : c.phase = .worked) (hack : s.cmdAcknowledged k = true) :
    s.completeStep k = (s.pub .sys (s.cmdPlace k)).writeRecord k := by
  simp only [State.completeStep, hcmd, hheld, hphase, hack, Bool.false_eq_true, if_false, if_true]

theorem completeStep_recorded (hcmd : s.cmd k = inPhase c .recorded) :
    s.completeStep k = (signalled s c).setCmd k (inPhase c .signalled) := by
  have hstep : s.completeStep k = s.signalCmd k := by
    unfold State.completeStep
    rw [hcmd]
    exact if_neg (by simp [inPhase, hheld])
  rw [hstep, signalCmd_eq, hcmd]
  rfl

theorem completeStep_signalled (hcmd : s.cmd k = inPhase c .signalled) : s.completeStep k = s.setCmd k (inPhase c (.successors 0)) := by
  unfold State.completeStep
  rw [hcmd]
  exact if_neg (by simp [inPhase, hheld])

theorem completeStep_successors (hnode : c.node = 0) (hcmd : s.cmd k = inPhase c (.successors 0)) : s.completeStep k = s.finishCmd k := by
  unfold State.completeStep
  rw [hcmd]
  exact (if_neg (by simp [inPhase, hheld])).trans (if_pos (.inl hnode))

end

/-! ## The end of a command (R78) -/

/-- What a completed command leaves, from the state in which its record was written. -/
structure Ended (k : Nat) (c : Cmd) (r t : State) : Prop where
  cmd : t.cmd k = inPhase c .done
  running : pktType c.bytes = 1 → (t.launch k).running = false
  queues : t.queues = r.queues
  regs : t.regs = r.regs
  sems : t.sems = (signalled r c).sems
  armed : r.armedOf c.ctx = [] → t.armedOf c.ctx = []
  mem : pktIrq c.bytes = false → r.armedOf c.ctx = [] → t.mem = r.mem

/-- A command's launch, if it has one, no longer running. -/
def launchEnded (s : State) (k : Nat) (c : Cmd) : State :=
  if pktType c.bytes = 1 then (s.setLaunch k { s.launch k with running := false }).retarget else s

theorem retarget_frame (s : State) : s.retarget = { s with dies := s.retarget.dies, wgs := s.retarget.wgs } := by
  have hdie (u : State) (d : Nat) : u.retargetDie d = { u with dies := (u.retargetDie d).dies, wgs := (u.retargetDie d).wgs } := rfl
  unfold State.retarget
  rw [hdie (s.retargetDie 0), hdie s]

theorem launchEnded_keeps (s : State) (k : Nat) (c : Cmd) :
    (launchEnded s k c).cmds = s.cmds ∧ (launchEnded s k c).queues = s.queues ∧ (launchEnded s k c).regs = s.regs ∧
      (launchEnded s k c).sems = s.sems ∧ (launchEnded s k c).mem = s.mem := by
  unfold launchEnded
  by_cases htype : pktType c.bytes = 1
  · rw [if_pos htype, retarget_frame]
    exact ⟨rfl, rfl, rfl, rfl, rfl⟩
  · rw [if_neg htype]
    exact ⟨rfl, rfl, rfl, rfl, rfl⟩

theorem launch_launchEnded (s : State) {k : Nat} {c : Cmd} (htype : pktType c.bytes = 1) : ((launchEnded s k c).launch k).running = false := by
  rw [launchEnded, if_pos htype, launch_retarget, launch_setLaunch_same]

/-- The last step's vector, if the packet asks for one. -/
def vectored (s : State) (c : Cmd) : State := if pktIrq c.bytes then s.raiseVector (s.queue c.ctx c.queue).vec else s

theorem signals_vectored (s : State) (c : Cmd) : Signals s (vectored s c) := .ite (signals_raiseVector s _) (.refl s)

theorem Signals.keeps {s t : State} (h : Signals s t) : t.cmds = s.cmds ∧ t.queues = s.queues ∧ t.regs = s.regs ∧ t.sems = s.sems := by
  rw [h]
  exact ⟨rfl, rfl, rfl, rfl⟩

/-- The end of a command that no node holds. -/
theorem finishCmd_eq {s : State} {k : Nat} {c : Cmd} (hnode : c.node = 0) (hcmd : s.cmd k = inPhase c (.successors 0)) :
    s.finishCmd k = launchEnded ((vectored s c).setCmd k (inPhase c .done)) k c := by
  unfold State.finishCmd
  rw [hcmd]
  simp only [inPhase, hnode, if_true]
  rfl

theorem finishCmd_ends {s : State} {k : Nat} {c : Cmd} (hnode : c.node = 0) (hcmd : s.cmd k = inPhase c (.successors 0)) :
    (s.finishCmd k).cmds = FMap.set s.cmds k (inPhase c .done) ∧ (s.finishCmd k).queues = s.queues ∧ (s.finishCmd k).regs = s.regs ∧
      (s.finishCmd k).sems = s.sems ∧ (pktIrq c.bytes = false → (s.finishCmd k).mem = s.mem) ∧
      (pktType c.bytes = 1 → ((s.finishCmd k).launch k).running = false) := by
  obtain ⟨hcmds, hqueues, hregs, hsems⟩ := (signals_vectored s c).keeps
  obtain ⟨hcmds', hqueues', hregs', hsems', hmem'⟩ := launchEnded_keeps ((vectored s c).setCmd k (inPhase c .done)) k c
  rw [finishCmd_eq hnode hcmd]
  refine ⟨hcmds'.trans ?_, hqueues'.trans hqueues, hregs'.trans hregs, hsems'.trans hsems, fun hirq => hmem'.trans ?_, launch_launchEnded _⟩
  · rw [← hcmds]
    rfl
  · rw [vectored, hirq, if_neg Bool.false_ne_true]
    rfl

/-- The three last steps, from a command whose record is written or not asked for. -/
theorem completion_ends {k : Nat} {c : Cmd} (hheld : c.held = false) (hnode : c.node = 0) (r : State) (n : Nat) :
    Ended k c r ((fun t : State => t.completeStep k)^[n + 3] (r.setCmd k (inPhase c .recorded))) := by
  have hrecorded := completeStep_recorded hheld (cmd_setCmd_same r k (inPhase c .recorded))
  rw [signalled_setCmd, setCmd_setCmd] at hrecorded
  have hsignalled := completeStep_signalled hheld (cmd_setCmd_same (signalled r c) k (inPhase c .signalled))
  rw [setCmd_setCmd] at hsignalled
  have hcmd := cmd_setCmd_same (signalled r c) k (inPhase c (.successors 0))
  have hlast := completeStep_successors hheld hnode hcmd
  obtain ⟨hcmds, hqueues, hregs, hsems, hmem, hlaunch⟩ := finishCmd_ends hnode hcmd
  rw [Function.iterate_add_apply]
  simp only [Function.iterate_succ, Function.iterate_zero, Function.comp_apply, id_eq]
  rw [hrecorded, hsignalled, hlast]
  generalize hu : (signalled r c).setCmd k (inPhase c (.successors 0)) = u at *
  have hdone : (u.finishCmd k).cmd k = inPhase c .done := by
    rw [State.cmd, hcmds]
    exact getD_set_same _ _ _ _
  rw [completeSteps_still (.inr (by rw [hdone]; rfl)) n]
  have hkeeps : u.queues = r.queues ∧ u.regs = r.regs ∧ u.sems = (signalled r c).sems ∧ u.mem = r.mem ∧
      u.cmds = FMap.set r.cmds k (inPhase c (.successors 0)) := by
    rw [← hu, signalled_frame r c]
    exact ⟨rfl, rfl, rfl, rfl, rfl⟩
  obtain ⟨hqueues', hregs', hsems', hmem', hcmds'⟩ := hkeeps
  refine ⟨hdone, hlaunch, hqueues.trans hqueues', hregs.trans hregs', hsems.trans hsems', fun harmed => ?_, fun hirq _ => (hmem hirq).trans hmem'⟩
  rw [hcmds', set_set] at hcmds
  rw [armedOf_congr (s := r.setCmd k (inPhase c .done)) hcmds]
  exact armedOf_setCmd harmed nofun

/-- The nodes released at the end change nothing of what the command left. -/
theorem Ended.releaseReady {k : Nat} {c : Cmd} {r t : State} (h : Ended k c r t) : Ended k c r (t.releaseReady c.ctx) := by
  have hrel := releases_releaseReady t c.ctx
  have hcmd : (t.releaseReady c.ctx).cmd k = t.cmd k := hrel.cmd_same (by rw [h.cmd]; nofun) (by rw [h.cmd]; nofun)
  refine ⟨hcmd.trans h.cmd, fun htype => ?_, hrel.queues.trans h.queues, hrel.regs.trans h.regs, hrel.sems.trans h.sems,
    fun harmed => ?_, fun hirq harmed => ?_⟩
  · rw [State.launch, hrel.launches]
    exact h.running htype
  · rw [releaseReady_idle (h.armed harmed)]
    exact h.armed harmed
  · rw [releaseReady_idle (h.armed harmed)]
    exact h.mem hirq harmed

/-! ## COMMAND_COMPLETE (R78) -/

section
variable {s : State} {k : Nat} {c : Cmd}

/-- A completion under way in a context that lives: the first step, nine more, then the nodes that became ready. -/
theorem exec_commandComplete {v : State} (hsettled : s.settleLaunch k = v) (hlive : v.ctxLive (v.cmd k).ctx = true) :
    exec (.commandComplete k) s = .next (((fun t : State => t.completeStep k)^[9] (v.completeStep k)).releaseReady (v.cmd k).ctx) := by
  show execCommandComplete k s = _
  rw [execCommandComplete, hsettled]
  simp only [hlive, Bool.not_true, Bool.and_false, Bool.false_eq_true, if_false]
  rw [List.foldl_const (fun t : State => t.completeStep k), List.length_range, show 10 = 9 + 1 from rfl, Function.iterate_succ_apply]

/-- A launch is settled once. -/
theorem settleLaunch_started (hphase : (s.cmd k).phase ≠ .started) : s.settleLaunch k = s := by
  rw [State.settleLaunch, cmdAtWork_of_not 1 hphase]
  rfl

/-- The detail of a record, with the state that gave it: that of a command that completed with OK is free. -/
def recordDetail (p : State) (c : Cmd) : Word × State := if c.status = 1 then p.free else (c.detail, p)

/-- The record's write, from the state in which the command's writes are published. -/
def recordWrite (p : State) (c : Cmd) : WriteOut × State :=
  (recordDetail p c).2.devWrite c.ctx ((p.queue c.ctx c.queue).record c.index)
    (completionRec c.status (pktType c.bytes) c.node c.queue c.index (recordDetail p c).1 c.result)

theorem writeRecord_none (hcmd : s.cmd k = c) (h : pktRec c.bytes = false ∨ (s.queue c.ctx c.queue).crec = 0) :
    s.writeRecord k = s.setCmd k (inPhase c .recorded) := by
  unfold State.writeRecord
  rw [hcmd]
  exact if_pos (by simpa using h)

theorem writeRecord_some (hcmd : s.cmd k = c) (hrec : pktRec c.bytes = true) (hcrec : (s.queue c.ctx c.queue).crec ≠ 0) :
    s.writeRecord k = match recordWrite s c with
      | (.done, t) => t.setCmd k (inPhase c .recorded)
      | (.wait, t) => t
      | (.fault f, t) =>
        (t.setCmd k { c with held := true }).postFault c.ctx (queueRec f.cause.toNat c.queue c.index f.info f.addr 0) := by
  unfold State.writeRecord
  rw [hcmd]
  exact if_neg (by rw [hrec, beq_eq_false_iff_ne.2 hcrec]; nofun)

theorem acts_recordWrite (p : State) (c : Cmd) : EngineActs p (recordWrite p c).2 :=
  EngineActs.trans (t := (recordDetail p c).2) (by
    unfold recordDetail
    split_ifs
    · exact acts_free p
    · exact .refl p) (acts_devWrite _ _ _ _)

theorem acts_of_recordWrite {p r : State} {o : WriteOut} (h : recordWrite p c = (o, r)) : EngineActs p r := by
  have hr := acts_recordWrite p c
  rwa [h] at hr

end

/-- A command whose completion begins: its work done, nothing held, no node, its writes acknowledged, its context alive. -/
structure Begins (v : State) (k : Nat) (c : Cmd) : Prop where
  cmd : v.cmd k = c
  phase : c.phase = .worked
  held : c.held = false
  node : c.node = 0
  live : v.ctxLive c.ctx = true
  acknowledged : v.cmdAcknowledged k = true

/-- The command's place has published its writes. -/
def published (v : State) (k : Nat) : State := v.pub .sys (v.cmdPlace k)

section
variable {s v : State} {k : Nat} {c : Cmd} (hsettled : s.settleLaunch k = v) (h : Begins v k c)
include hsettled h

theorem exec_complete : exec (.commandComplete k) s =
    .next (((fun t : State => t.completeStep k)^[9] ((published v k).writeRecord k)).releaseReady c.ctx) := by
  have hlive : v.ctxLive (v.cmd k).ctx = true := by
    rw [h.cmd]
    exact h.live
  rw [exec_commandComplete hsettled hlive, completeStep_worked h.held h.cmd h.phase h.acknowledged, h.cmd]
  rfl

/-- A completion whose record is written, or not asked for, comes to its end. -/
theorem complete_ends {r : State} (hwrite : (published v k).writeRecord k = r.setCmd k (inPhase c .recorded)) :
    Completes (.commandComplete k) s (Ended k c r) := by
  have hx := exec_complete hsettled h
  rw [hwrite] at hx
  exact ⟨_, hx, (completion_ends h.held h.node r 6).releaseReady⟩

theorem complete_unrecorded (hnone : pktRec c.bytes = false ∨ (v.queue c.ctx c.queue).crec = 0) :
    Completes (.commandComplete k) s (Ended k c (published v k)) :=
  complete_ends hsettled h (writeRecord_none (s := published v k) h.cmd hnone)

section
variable (hrec : pktRec c.bytes = true) (hcrec : (v.queue c.ctx c.queue).crec ≠ 0) {r : State}
include hrec hcrec

theorem complete_recorded (hwrite : recordWrite (published v k) c = (.done, r)) : Completes (.commandComplete k) s (Ended k c r) := by
  refine complete_ends hsettled h ?_
  rw [writeRecord_some (s := published v k) h.cmd hrec hcrec, hwrite]

/-- A fault on the record holds the completion (R78). -/
theorem complete_faults {f : AccFault} (hwrite : recordWrite (published v k) c = (.fault f, r)) : Completes (.commandComplete k) s (fun t =>
    (t.cmd k).held = true ∧ (t.cmd k).phase = .worked ∧ t.queues = r.queues ∧ t.sems = r.sems ∧ t.regs = r.regs) := by
  have hx := exec_complete hsettled h
  have hfault := writeRecord_some (s := published v k) h.cmd hrec hcrec
  rw [hwrite] at hfault
  dsimp only at hfault
  generalize hu : (r.setCmd k { c with held := true }).postFault c.ctx (queueRec f.cause.toNat c.queue c.index f.info f.addr 0) = u at hfault
  rw [hfault] at hx
  have hcmd : u.cmd k = { c with held := true } := hu ▸ cmd_setCmd_same r k _
  have hkeeps : u.queues = r.queues ∧ u.sems = r.sems ∧ u.regs = r.regs := hu ▸ ⟨rfl, rfl, rfl⟩
  obtain ⟨hqueues, hsems, hregs⟩ := hkeeps
  rw [completeSteps_still (.inl (by rw [hcmd])) 9] at hx
  have hrel := releases_releaseReady u c.ctx
  have hsame : (u.releaseReady c.ctx).cmd k = { c with held := true } :=
    (hrel.cmd_same (by rw [hcmd, h.phase]; nofun) (by rw [hcmd, h.phase]; nofun)).trans hcmd
  refine ⟨_, hx, ?_, ?_, hrel.queues.trans hqueues, hrel.sems.trans hsems, hrel.regs.trans hregs⟩
  · rw [hsame]
  · rw [hsame]
    exact h.phase

end

end

/-! ## A launch that is over (R79, R80, R97) -/

/-- A launch's command as its end leaves it: the lowest killed workgroup decides its status and its detail. -/
def settledCmd (l : Launch) (c : Cmd) : Cmd :=
  match l.lowestKilled with
  | some i => workedCmd c (if l.det then 3 else 4) (BitVec.ofNat 64 i) (BitVec.ofNat 64 l.run)
  | none => workedCmd c 1 0 (BitVec.ofNat 64 l.run)

theorem settleLaunch_over {s : State} {k : Nat} (h : AtWork s k 1) (hover : s.launchOver k = true) :
    s.settleLaunch k = s.setCmd k (settledCmd (s.launch k) (s.cmd k)) := by
  rw [State.settleLaunch, cmdAtWork_of h, hover, settledCmd]
  rw [if_pos (by rfl)]
  dsimp only
  cases (s.launch k).lowestKilled with
  | none => exact cmdWorked_eq s k _ _ _
  | some i => exact cmdWorked_eq s k _ _ _

/-- Settling touches a command's phase, its status, its detail and its result alone. -/
theorem settledCmd_eq (l : Launch) (c : Cmd) : settledCmd l c =
    { c with
      phase := .worked, status := (settledCmd l c).status, detail := (settledCmd l c).detail, result := BitVec.ofNat 64 l.run
      held := false } := by
  unfold settledCmd
  split <;> rfl

theorem settledCmd_status (l : Launch) (c : Cmd) : match l.lowestKilled with
    | some i => (settledCmd l c).status = (if l.det then 3 else 4) ∧ (settledCmd l c).detail = BitVec.ofNat 64 i
    | none => (settledCmd l c).status = if c.status = 2 then 2 else 1 := by
  unfold settledCmd
  split
  · have hone : ¬ ((if l.det then 3 else 4 : BitVec 16) = 1 ∧ c.status = 2) := by
      cases l.det <;> exact fun h => absurd h.1 (by decide)
    exact ⟨if_neg hone, if_neg hone⟩
  · simp only [workedCmd, true_and]

/-- A launch that is over is settled and its command completes, here with no record. -/
theorem launch_completes {s : State} {k : Nat} (h : AtWork s k 1) (hover : s.launchOver k = true) (hlive : s.ctxLive (s.cmd k).ctx = true)
    (hnode : (s.cmd k).node = 0) (hack : s.cmdAcknowledged k = true) (hrec : pktRec (s.cmd k).bytes = false) :
    Completes (.commandComplete k) s (fun t =>
      t.cmd k = inPhase (settledCmd (s.launch k) (s.cmd k)) .done ∧ (t.launch k).running = false) := by
  generalize hc : settledCmd (s.launch k) (s.cmd k) = c
  have heq := settledCmd_eq (s.launch k) (s.cmd k)
  rw [hc] at heq
  have hctx : c.ctx = (s.cmd k).ctx := by rw [heq]
  have hbytes : c.bytes = (s.cmd k).bytes := by rw [heq]
  have hsettled := settleLaunch_over h hover
  rw [hc] at hsettled
  have hbegins : Begins (s.setCmd k c) k c :=
    ⟨cmd_setCmd_same s k c, by rw [heq], by rw [heq], by rw [heq]; exact hnode, by rw [hctx]; exact hlive, hack⟩
  obtain ⟨t, hx, hended⟩ := complete_unrecorded hsettled hbegins (.inl (by rw [hbytes]; exact hrec))
  exact ⟨t, hx, hended.cmd, hended.running (by rw [hbytes]; exact h.2.1)⟩

/-- Settles O50: each command by the equation of its event, and the completion by its steps in order. -/
theorem commandResults : Obligations.CommandResults := by
  unfold Obligations.CommandResults
  intro s k c work worked engine copy coll near
  have hcopy (i : Instr) (op : Nat) (hi : exec i s = s.copyCmd k op) : copy i op := fun h hop => copy_answers hi h hop
  have hcoll (i : Instr) (op : Nat) (hi : exec i s = s.collCmd k op) : coll i op := fun h hop => coll_answers hi h hop
  have hnear (i : Instr) (kind : Nat) (hi : exec i s = s.nearCmd k kind) : near i kind := fun h hkind n hn d hd => near_answers hi h hkind hn hd
  have hchain : work 2 → fieldLe c.bytes 28 1 = 7 → engine (.copyChain k)
      (BitVec.ofNat 64 (copyBytes (Layout.ofBytes (c.recs.getLastD [])) (Layout.ofBytes (c.recs.getLastD [])) (c.boundAt 0)))
      (s.chainRun (cmdReq k c.ctx) .floor (c.recs.getD 0 []) (c.recs.drop 1).dropLast (c.recs.getLastD []) (c.boundAt 0)) := chain_answers
  have hsort : work 3 → engine (.sort k) (BitVec.ofNat 64 (c.boundAt 0))
      (s.sortRun (cmdReq k c.ctx) .floor (sortBody c.bytes (c.bound.map (fun w => w.toNat)))) := sort_answers
  clear_value copy coll near engine
  refine ⟨hcopy _ 0 rfl, hcopy _ 1 rfl, hcopy _ 2 rfl, hcopy _ 3 rfl, hcopy _ 4 rfl, hcopy _ 5 rfl, copyMigrate_rejects,
    hchain, hsort, hcoll _ 0 rfl, hcoll _ 1 rfl, hcoll _ 2 rfl, hcoll _ 3 rfl, hcoll _ 4 rfl,
    hnear _ 1 rfl, hnear _ 2 rfl, hnear _ 3 rfl, launch_answers,
    fun i hsem => ⟨fun h => ⟨_, signal_answers hsem h, rfl⟩, fun h => ⟨_, await_answers hsem h, rfl⟩⟩,
    fun h => ⟨_, nop_answers h, rfl⟩, ?_, ?_⟩
  · intro hphase hheld hlive hnode hack ends p d record
    have hbegins : Begins s k c := ⟨rfl, hphase, hheld, hnode, hlive, hack⟩
    have hsettled : s.settleLaunch k = s := settleLaunch_started (fun h => absurd (hphase.symm.trans h) nofun)
    have hends {r t : State} (hcmds : r.cmds = s.cmds) (h : Ended k c r t) : ends r t := by
      refine ⟨by rw [h.cmd]; rfl, by rw [h.cmd]; rfl, by rw [h.cmd]; rfl, h.running, h.queues, h.regs, h.sems.trans (sems_signalled r c),
        fun hirq harmed => h.mem hirq ?_⟩
      rwa [armedOf_congr hcmds]
    have hrecord : record = recordWrite (published s k) c := by
      rw [recordWrite, hnode]
      rfl
    clear_value record
    subst hrecord
    refine ⟨fun hnone => ?_, fun hrec hcrec => ⟨fun r hwrite => ?_, fun f r hwrite => complete_faults hsettled hbegins hrec hcrec hwrite⟩⟩
    · obtain ⟨t, hx, hended⟩ := complete_unrecorded hsettled hbegins hnone
      exact ⟨t, hx, hends (r := published s k) rfl hended⟩
    · obtain ⟨t, hx, hended⟩ := complete_recorded hsettled hbegins hrec hcrec hwrite
      exact ⟨t, hx, hends (acts_of_recordWrite hwrite).cmds hended⟩
  · intro h hover hlive hnode hack hrec
    obtain ⟨t, hx, hcmd, hrunning⟩ := launch_completes h hover hlive hnode hack hrec
    have heq := settledCmd_eq (s.launch k) c
    have hstatus := settledCmd_status (s.launch k) c
    refine ⟨t, hx, ?_⟩
    dsimp only
    rw [hcmd]
    exact ⟨rfl, hrunning, by rw [heq]; rfl, hstatus⟩

end Sys2Proof.Proofs
end

section
/-! What the bundle's own instructions share (R376, R377): readable operands, records read as its loads, its counters, and moving on. -/

namespace Sys2Proof.Proofs

open Sys2Proof Sys2Proof.Machine Sys2Proof.Laws

/-! ## The issuer -/

section
variable {s t : State} (h : t.cur = s.cur)
include h

theorem curLanes_congr : t.curLanes = s.curLanes := by simp only [State.curLanes, h]
theorem curPc_congr : t.curPc = s.curPc := by simp only [State.curPc, h]
theorem curLen_congr : t.curLen = s.curLen := by simp only [State.curLen, h]
theorem curParty_congr : t.curParty = s.curParty := by simp only [State.curParty, curHelm_congr h, curGroup_congr h]

end

/-! ## Operands that may be read (R376) -/

theorem withUni_ready {s : State} {srcs : List Opnd} {dsts : List Src} (hhelm : s.curHelm = false)
    (h : BundleReads s (srcs.map (·.src)) dsts) (go : State → Out) : s.withUni srcs dsts go = go s := by
  obtain ⟨htags, hready⟩ := h
  have hlanes : s.allLanes = bundleLanes s := by simp only [State.allLanes, bundleLanes, hhelm, Bool.false_eq_true, if_false]
  have hfind : srcs.find? (fun o => s.srcTagOf 0 o.src != 1) = none := by
    rw [List.find?_eq_none]
    intro o ho
    simp [htags o.src (List.mem_map_of_mem ho)]
  have hfull : s.checkFull s.allLanes [] srcs dsts = .ok s := by
    refine checkFull_ok s _ _ _ _ hready.quiet (fun l hl o ho => ?_) (fun l hl x hx => ?_)
    · rw [List.append_nil, hlanes] at hl
      exact hready.srcs l hl o.src (List.mem_map_of_mem ho)
    · rw [List.append_nil, hlanes] at hl
      exact hready.dsts l hl x hx
  simp only [State.withUni, hfind, hfull]

/-! ## Records read by the bundle (R377) -/

/-- `t` differs from `s` as accesses of the issuer make it differ. -/
structure Loads (s t : State) : Prop where
  accesses : Accesses s t
  spares : Spares s.curParty s t

theorem Loads.refl (s : State) : Loads s s := ⟨.refl s, .refl _ s⟩

section
variable {s t : State} (h : Loads s t)
include h

theorem Loads.cur : t.cur = s.cur := by rw [h.accesses]
theorem Loads.regs : t.regs = s.regs := by rw [h.accesses]
theorem Loads.threads : t.threads = s.threads := by rw [h.accesses]

theorem Loads.curPlace : t.curPlace = s.curPlace := by
  rw [State.curPlace, State.curPlace, curParty_congr h.cur, curGroup_congr h.cur]
  exact h.spares.placeOf _ _

end

theorem Loads.trans {s t u : State} (h : Loads s t) (k : Loads t u) : Loads s u := by
  have hk := k.spares
  rw [curParty_congr h.cur] at hk
  exact ⟨h.accesses.trans k.accesses, h.spares.trans hk⟩

theorem loads_readRecord (s : State) (a : Word) (n align : Nat) : Loads s (s.readRecord a n align).2 := by
  unfold State.readRecord
  split_ifs
  · exact .refl s
  · exact .refl s
  · exact ⟨accesses_readRec s _ _ _ _ _, spares_readRec s s.bundleReq _ _ _ _⟩

theorem loads_readRecords {s r : State} {next : List (List Byte) → NextRec} {recs got : List (List Byte)} {fuel : Nat}
    (h : s.readRecords next recs fuel = .got got r) : Loads s r := by
  induction fuel generalizing s recs with
  | zero =>
    cases h
    exact .refl _
  | succ fuel ih =>
    rw [State.readRecords] at h
    split at h
    · cases h
      exact .refl _
    · exact ih h
    · rename_i a n align _
      have hread := loads_readRecord s a n align
      split at h <;> rename_i heq <;> rw [heq] at hread
      · cases h
      · cases h
      · exact hread.trans (ih h)

/-! ## Moving on (R118, R119) -/

theorem cur_advance (s : State) : s.advance.cur = s.cur := by rw [advance_frame]

/-- A bundle whose threads are as they were moves on. -/
theorem movesOn_advance {s t : State} (hhelm : s.curHelm = false) (hcur : t.cur = s.cur) (hthreads : t.threads = s.threads) :
    MovesOn s t.advance := by
  have hadvance (id : ThreadId) : t.advance.thread id = s.advance.thread id := by
    rw [advance_congr s t hcur hthreads]
    rfl
  unfold MovesOn
  rw [if_neg (by rw [hhelm]; nofun)]
  intro l hl
  rw [hadvance]
  cases hc : s.cur with
  | group wg grp lanes pc len =>
    have hgroup : s.curGroup = ⟨wg, grp⟩ := by rw [State.curGroup, hc]
    have hpc : s.curPc = pc := by rw [State.curPc, hc]
    have hlen : s.curLen = len := by rw [State.curLen, hc]
    have hlanes : s.curLanes = lanes := by rw [State.curLanes, hc]
    rw [advance_thread s wg grp lanes pc len hc, State.curThread, hgroup, hpc, hlen, if_pos ⟨rfl, rfl, hlanes ▸ hl⟩]
    exact ⟨rfl, rfl⟩
  | helm wg pc len => simp [State.curHelm, hc] at hhelm
  | cornice u => simp [State.curLanes, hc] at hl
  | nobody => simp [State.curLanes, hc] at hl

/-- The issue of a bundle is noted with its group alone. -/
theorem noteIssue_frame (s : State) : s.noteIssue = { s with groups := s.noteIssue.groups } := by
  cases hc : s.cur with
  | group wg grp lanes pc len =>
    rw [noteIssue_group s wg grp lanes pc len hc, ← hc]
    rfl
  | helm wg pc len => simp only [State.noteIssue, hc]; rw [← hc]
  | cornice u => simp only [State.noteIssue, hc]; rw [← hc]
  | nobody => simp only [State.noteIssue, hc]; rw [← hc]

/-- Lanes of the bundle sent to an address, waiting for nothing. -/
theorem jump_lanes {s : State} (hhelm : s.curHelm = false) (lanes : List Nat) (pc : Word) :
    s.jump lanes (fun _ => pc) = { s with threads := (s.jump lanes (fun _ => pc)).threads } ∧
    ∀ id, (s.jump lanes (fun _ => pc)).thread id =
      if id.wg = s.curGroup.wg ∧ id.grp = s.curGroup.grp ∧ id.lane ∈ lanes then movedTo pc (s.thread id) else s.thread id := by
  have hjump : s.jump lanes (fun _ => pc) = lanes.foldl (fun t l => t.setThread ⟨s.curGroup.wg, s.curGroup.grp, l⟩
      (movedTo pc (t.thread ⟨s.curGroup.wg, s.curGroup.grp, l⟩))) s := by
    rw [State.jump, if_neg (by rw [hhelm]; nofun)]
    rfl
  rw [hjump, foldl_setThread lanes (fun l => ⟨s.curGroup.wg, s.curGroup.grp, l⟩) (fun _ x => movedTo pc x)]
  exact ⟨rfl, getD_foldl_set lanes _ _ (movedTo pc) (fun _ => rfl) s.threads⟩

/-! ## Counters (R136) -/

theorem counters_get_set_same (c : Counters) (k : OpClass) (v : BitVec 6) : (c.set k v).get k = v := by cases k <;> rfl

theorem curCtr_of_group {s : State} (hhelm : s.curHelm = false) (c : OpClass) : s.curCtr c = ((s.group s.curGroup).ctr.get c).toNat := by
  rw [State.curCtr, if_neg (by rw [hhelm]; nofun)]

theorem raiseCtr_of_group {s : State} (hhelm : s.curHelm = false) (c : OpClass) : s.raiseCtr c =
    s.setGroup s.curGroup { s.group s.curGroup with ctr := (s.group s.curGroup).ctr.set c ((s.group s.curGroup).ctr.get c + 1) } := by
  rw [State.raiseCtr, if_neg (by rw [hhelm]; nofun)]

theorem curCtr_raiseCtr {s : State} (hhelm : s.curHelm = false) {c : OpClass} (h : s.curCtr c < 63) : (s.raiseCtr c).curCtr c = s.curCtr c + 1 := by
  have hc : (s.raiseCtr c).cur = s.cur := by rw [raiseCtr_of_group hhelm]; rfl
  rw [curCtr_of_group ((curHelm_congr hc).trans hhelm), curGroup_congr hc, raiseCtr_of_group hhelm, group_setGroup_same, counters_get_set_same]
  rw [curCtr_of_group hhelm] at h ⊢
  rw [BitVec.toNat_add]
  exact Nat.mod_eq_of_lt (by change _ + 1 < 64; omega)

/-- Moving on leaves the bundle's counters. -/
theorem curCtr_advance {s : State} (hhelm : s.curHelm = false) (c : OpClass) : s.advance.curCtr c = s.curCtr c := by
  have hcur := cur_advance s
  have hgroup : (s.advance.group s.curGroup).ctr = (s.group s.curGroup).ctr := by
    cases hc : s.cur with
    | group wg grp lanes pc len =>
      rw [group_advance s wg grp lanes pc len hc]
      split_ifs with hid
      · rw [hid]
        rfl
      · rfl
    | helm wg pc len => simp [State.curHelm, hc] at hhelm
    | cornice u => rw [advance_cornice s u hc]
    | nobody => rw [advance_nobody s hc]
  rw [curCtr_of_group ((curHelm_congr hcur).trans hhelm), curCtr_of_group hhelm, curGroup_congr hcur, hgroup]

end Sys2Proof.Proofs
end

section
/-! Region maps installed and removed (R152 to R155, R395). -/

namespace Sys2Proof.Proofs

open Sys2Proof Sys2Proof.Machine Sys2Proof.Laws

/-! ## cpy.map (R395) -/

section
variable {i : Instr} {s r : State} {a : Src} {recs : List (List Byte)} (hi : exec i s = s.mapIssue a) (hhelm : s.curHelm = false)
  (hready : BundleReads s [a] []) (hpub : s.pubPending s.curGroup = false)
  (hread : s.readRecords (oneRecord (s.srcBits 0 a) 32 32) [] 2 = .got recs r) (hok : r.mapOk s.curGroup.wg (recs.getD 0 []) = true)
include hi hhelm hready hpub hread hok

theorem exec_map : exec i s =
    if r.mapBusy s.curGroup.wg (mapOf (recs.getD 0 [])) then .next r
    else .next (r.setWg s.curGroup.wg { r.wg s.curGroup.wg with maps := (r.wg s.curGroup.wg).maps ++ [mapOf (recs.getD 0 [])] }).advance := by
  rw [hi, State.mapIssue, withUni_ready (srcs := [{ opnd := 0, src := a }]) hhelm hready]
  simp only [hpub, hread, hok, Bool.false_eq_true, if_false, Bool.not_true]

theorem map_waits (hbusy : r.mapBusy s.curGroup.wg (mapOf (recs.getD 0 [])) = true) : exec i s = .next r := by
  rw [exec_map hi hhelm hready hpub hread hok, if_pos hbusy]

theorem map_installs (hfree : r.mapBusy s.curGroup.wg (mapOf (recs.getD 0 [])) = false) : Completes i s (fun t =>
    (t.wg s.curGroup.wg).maps = (r.wg s.curGroup.wg).maps ++ [mapOf (recs.getD 0 [])] ∧ t.regs = s.regs ∧ t.mem = r.mem ∧
      t.emptyLines = r.emptyLines ∧ MovesOn s t) := by
  have hloads := loads_readRecords hread
  rw [Completes, exec_map hi hhelm hready hpub hread hok, if_neg (by rw [hfree]; nofun)]
  generalize hu : r.setWg s.curGroup.wg { r.wg s.curGroup.wg with maps := (r.wg s.curGroup.wg).maps ++ [mapOf (recs.getD 0 [])] } = u
  have hkeeps : u.regs = r.regs ∧ u.mem = r.mem ∧ u.emptyLines = r.emptyLines ∧ u.cur = r.cur ∧ u.threads = r.threads := by
    rw [← hu]
    exact ⟨rfl, rfl, rfl, rfl, rfl⟩
  obtain ⟨hregs, hmem, hlines, hcur, hthreads⟩ := hkeeps
  have hmaps : (u.wg s.curGroup.wg).maps = (r.wg s.curGroup.wg).maps ++ [mapOf (recs.getD 0 [])] := by rw [← hu, wg_setWg_same]
  refine ⟨_, rfl, ?_, ?_, ?_, ?_, movesOn_advance hhelm (hcur.trans hloads.cur) (hthreads.trans hloads.threads)⟩
  all_goals rw [advance_frame u]
  · exact hmaps
  · exact hregs.trans hloads.regs
  · exact hmem
  · exact hlines

end

/-! ## Bytes that a removed map gives up (R152) -/

theorem memGet_memSet_other (m : List Host.Cell) {a b : Nat} (v : Byte) (h : b ≠ a) : memGet (memSet m a v) b = memGet m b := by
  induction m with
  | nil =>
    rw [memSet]
    split_ifs
    · rfl
    · exact if_neg h.symm
  | cons d m ih =>
    obtain ⟨c, w⟩ := d
    rw [memSet]
    split_ifs with _ _ hc
    · rfl
    · exact if_neg h.symm
    · rw [memGet, if_neg (by omega)]
    · subst hc
      rw [memGet, memGet, if_neg h.symm, if_neg h.symm]
    · rw [memGet, memGet, ih]

theorem memGet_memSetMany_apart (bs : List Byte) (m : List Host.Cell) {a b : Nat} (h : b < a ∨ a + bs.length ≤ b) :
    memGet (memSetMany m a bs) b = memGet m b := by
  induction bs generalizing m a with
  | nil => rfl
  | cons v bs ih =>
    rw [List.length_cons] at h
    rw [memSetMany, ih _ (by omega), memGet_memSet_other m v (by omega)]

/-- `t` differs from `s` in bytes that hold free values alone. -/
def Loses (s t : State) : Prop := t = { s with mem := t.mem, hist := t.hist, poison := t.poison, freeCount := t.freeCount }

theorem Loses.refl (s : State) : Loses s s := rfl

theorem Loses.trans {s t u : State} (h : Loses s t) (k : Loses t u) : Loses s u := by
  unfold Loses at h k
  rw [h] at k
  exact k

theorem Loses.foldl {α : Type} {op : State → α → State} (k : ∀ u x, Loses u (op u x)) (l : List α) (s : State) : Loses s (l.foldl op s) := by
  induction l generalizing s with
  | nil => exact .refl s
  | cons x l ih => exact (k s x).trans (ih _)

/-- One word of a line given up: a free value. -/
def loseWord (w line : Nat) (s : State) (i : Nat) : State := s.free.2.renew (scratchAt w (128 * line + 8 * i)) (leBytes 8 s.free.1.toNat)

theorem loseLine_eq (s : State) (w line : Nat) : s.loseLine w line = (List.range 16).foldl (loseWord w line) s := rfl

theorem loses_loseWord (w line : Nat) (s : State) (i : Nat) : Loses s (loseWord w line s i) := rfl

theorem loses_loseLine (s : State) (w line : Nat) : Loses s (s.loseLine w line) := .foldl (loses_loseWord w line) _ s

theorem loses_loseLines (s : State) (w : Nat) (m : RegionMap) : Loses s (s.loseLines w m) := .foldl (fun u l => loses_loseLine u w l) _ s

/-- A byte that no step of a walk through a list touches. -/
theorem byteAt_foldl {α : Type} {op : State → α → State} {x : Nat} (l : List α) (h : ∀ e ∈ l, ∀ u, (op u e).byteAt x = u.byteAt x)
    (s : State) : (l.foldl op s).byteAt x = s.byteAt x := by
  induction l generalizing s with
  | nil => rfl
  | cons e l ih => rw [List.foldl_cons, ih (fun d hd => h d (List.mem_cons_of_mem _ hd)), h e List.mem_cons_self]

theorem byteAt_loseWord (s : State) {w line n x : Nat} (h : x < scratchAt w (128 * line + 8 * n) ∨ scratchAt w (128 * line + 8 * n) + 8 ≤ x) :
    (loseWord w line s n).byteAt x = s.byteAt x :=
  memGet_memSetMany_apart _ _ (by rwa [length_leBytes])

theorem byteAt_loseLine (s : State) {w line x : Nat} (h : x < scratchAt w (128 * line) ∨ scratchAt w (128 * line) + 128 ≤ x) :
    (s.loseLine w line).byteAt x = s.byteAt x := by
  rw [loseLine_eq]
  refine byteAt_foldl _ (fun n hn u => byteAt_loseWord u ?_) s
  have hlt := List.mem_range.1 hn
  have hat : scratchAt w (128 * line + 8 * n) = scratchAt w (128 * line) + 8 * n := by simp only [scratchAt, Nat.add_assoc]
  rw [hat]
  omega

theorem byteAt_loseLines (s : State) {w x : Nat} {m : RegionMap} (h : ∀ line, m.soff / 128 ≤ line → line < m.soff / 128 + m.lines →
    line ∉ m.present → x < scratchAt w (128 * line) ∨ scratchAt w (128 * line) + 128 ≤ x) : (s.loseLines w m).byteAt x = s.byteAt x := by
  refine byteAt_foldl _ (fun line hline u => byteAt_loseLine u ?_) s
  obtain ⟨hin, habsent⟩ := List.mem_filter.1 hline
  obtain ⟨hle, hlt⟩ := mem_upFrom.1 hin
  exact h line hle hlt (by simpa using habsent)

/-! ## The write-back of a removed map's dirty bytes (R155) -/

/-- The write of one aligned word of a map: poison, or the word, or its dirty bytes. -/
def wordWrite (s : State) (w : Nat) (m : RegionMap) (word : Nat) : WriteOp :=
  if s.isPoisoned (scratchAt w (8 * word)) then .poisoned 8
  else if ∀ b < 8, 8 * word + b ∈ m.dirty then .store (s.bytesAt (scratchAt w (8 * word)) 8)
  else .masked ((List.range 8).map (fun b => if 8 * word + b ∈ m.dirty then some (s.byteAt (scratchAt w (8 * word) + b)) else none))

theorem all_dirty_iff (m : RegionMap) (word : Nat) :
    (upFrom (8 * word) 8).all (fun b => m.dirty.contains b) = true ↔ ∀ b < 8, 8 * word + b ∈ m.dirty := by
  simp only [List.all_eq_true, mem_upFrom, List.contains_iff_mem]
  refine ⟨fun h b hb => h _ (by omega), fun h x hx => ?_⟩
  have hb := h (x - 8 * word) (by omega)
  rwa [Nat.add_sub_cancel' hx.1] at hb

theorem dirtyWrites_eq (s : State) (w : Nat) (m : RegionMap) : s.dirtyWrites w m =
    ((m.dirty.map (fun off => off / 8)).eraseDups).map (fun word => (m.gva + (8 * word - m.soff), wordWrite s w m word)) := by
  refine List.map_congr_left fun word _ => ?_
  simp only [all_dirty_iff, List.contains_iff_mem, wordWrite]

theorem mem_dirtyWrites (s : State) (w : Nat) (m : RegionMap) (x : Nat × WriteOp) :
    x ∈ s.dirtyWrites w m ↔ ∃ d ∈ m.dirty, x = (m.gva + (8 * (d / 8) - m.soff), wordWrite s w m (d / 8)) := by
  simp only [dirtyWrites_eq, List.mem_map, List.mem_eraseDups]
  constructor
  · rintro ⟨_, ⟨d, hd, rfl⟩, rfl⟩
    exact ⟨d, hd, rfl⟩
  · rintro ⟨d, hd, rfl⟩
    exact ⟨_, ⟨d, hd, rfl⟩, rfl⟩

/-! ## cpy.unmap (R395) -/

/-- The map removed, with its write-back queued. -/
def removed (s : State) (m : RegionMap) : State :=
  let t := (s.raiseCtr .cpy).queueUnmap s.curGroup.wg s.curGroup.grp s.curLanes.head? m false
  t.setWg s.curGroup.wg { t.wg s.curGroup.wg with maps := (t.wg s.curGroup.wg).maps.filter (fun x => x.soff != m.soff) }

section
variable {i : Instr} {s : State} {a : Src} {m : RegionMap} (hhelm : s.curHelm = false)
include hhelm

theorem exec_unmap (hi : exec i s = s.unmapIssue a) (hready : BundleReads s [a] []) (hpub : s.pubPending s.curGroup = false)
    (hfind : (s.wg s.curGroup.wg).maps.find? (fun m => m.soff == (s.srcBits 0 a).toNat) = some m) (hfilling : m.filling = [])
    (hctr : s.curCtr .cpy < 63) : exec i s = .next ((removed s m).loseLines s.curGroup.wg m).advance := by
  have hfound := List.find?_some hfind
  have hsoff : (s.srcBits 0 a).toNat = m.soff := (beq_iff_eq.1 hfound).symm
  rw [hi, State.unmapIssue, withUni_ready (srcs := [{ opnd := 0, src := a }]) hhelm hready]
  simp only [hpub, hfind, hfilling, Bool.false_eq_true, if_false]
  rw [if_neg (by simp; omega), hsoff]
  rfl

theorem removed_keeps : (removed s m).cur = s.cur ∧ (removed s m).threads = s.threads ∧ (removed s m).regs = s.regs ∧
    (removed s m).mem = s.mem ∧ (removed s m).groups = (s.raiseCtr .cpy).groups := by
  rw [removed, raiseCtr_of_group hhelm]
  exact ⟨rfl, rfl, rfl, rfl, rfl⟩

theorem maps_removed : ((removed s m).wg s.curGroup.wg).maps = (s.wg s.curGroup.wg).maps.filter (fun x => x.soff != m.soff) := by
  rw [removed, raiseCtr_of_group hhelm, wg_setWg_same]
  rfl

theorem ops_removed : ∃ o, (removed s m).ops = s.ops ++ [o] ∧ o.cls = .cpy ∧ o.done = false ∧
    o.kind = .unmap (if m.wb then s.dirtyWrites s.curGroup.wg m else []) := by
  rw [removed, raiseCtr_of_group hhelm]
  exact ⟨_, rfl, rfl, rfl, rfl⟩

theorem curCtr_removed (hctr : s.curCtr .cpy < 63) : (removed s m).curCtr .cpy = s.curCtr .cpy + 1 := by
  obtain ⟨hcur, -, -, -, hgroups⟩ := removed_keeps (m := m) hhelm
  have hcur' : (s.raiseCtr .cpy).cur = s.cur := by rw [raiseCtr_of_group hhelm]; rfl
  rw [← curCtr_raiseCtr hhelm hctr, curCtr_of_group ((curHelm_congr hcur).trans hhelm), curCtr_of_group ((curHelm_congr hcur').trans hhelm),
    curGroup_congr hcur, curGroup_congr hcur', State.group, hgroups]
  rfl

/-- What the bundle finds after its map is removed and it has moved on. -/
theorem unmap_leaves (hctr : s.curCtr .cpy < 63) :
    let t := ((removed s m).loseLines s.curGroup.wg m).advance
    t.curCtr .cpy = s.curCtr .cpy + 1 ∧ (t.wg s.curGroup.wg).maps = (s.wg s.curGroup.wg).maps.filter (fun x => x.soff != m.soff) ∧
      t.ops = (removed s m).ops ∧ t.mem = ((removed s m).loseLines s.curGroup.wg m).mem ∧ t.regs = s.regs ∧ MovesOn s t := by
  obtain ⟨hcur, hthreads, hregs, -, hgroups⟩ := removed_keeps (m := m) hhelm
  have hloses := loses_loseLines (removed s m) s.curGroup.wg m
  generalize hu : (removed s m).loseLines s.curGroup.wg m = u at hloses ⊢
  have hcur' : u.cur = s.cur := by rw [hloses]; exact hcur
  refine ⟨?_, ?_, ?_, ?_, ?_, movesOn_advance hhelm hcur' (by rw [hloses]; exact hthreads)⟩
  · rw [curCtr_advance ((curHelm_congr hcur').trans hhelm), ← curCtr_removed (m := m) hhelm hctr, hloses]
    rfl
  all_goals rw [advance_frame u]
  · rw [← maps_removed hhelm, hloses]
    rfl
  · rw [hloses]
  · rw [hloses]
    exact hregs

end

end Sys2Proof.Proofs
end

section
/-! A packet pushed to a queue (R60, R397), and the instructions of region maps and of qpush settled. -/

namespace Sys2Proof.Proofs

open Sys2Proof Sys2Proof.Machine Sys2Proof.Laws

/-! ## The claim of a slot (R60) -/

theorem loads_pub (s : State) (x : Scope) (p : Place) : Loads s (s.pub x p) := ⟨rfl, .same rfl rfl⟩

theorem loads_claimIndex (s : State) (a : Word) : Loads s (s.claimIndex a).2 := by
  have hresolve : Loads s (s.resolve s.bundleReq spGeneric a 8 .atomic).2 :=
    ⟨accesses_resolve s _ _ _ _ _, spares_resolve s.curParty s _ _ _ _ _⟩
  unfold State.claimIndex
  dsimp only
  split <;> rename_i heq <;> rw [heq] at hresolve
  · exact hresolve
  · rename_i p t
    have htouch : Loads s (t.touchSpot p true) := hresolve.trans ⟨accesses_touchSpot t p true, spares_touchSpot t.curParty t p true⟩
    have hread : Loads s ((t.touchSpot p true).readLoc s.bundleReq .now p.loc 8).2 :=
      htouch.trans ⟨accesses_readLoc _ _ _ _ _, spares_readLoc _ _ _ _ _ _⟩
    split <;> rename_i heq' <;> rw [heq'] at hread
    · exact hread
    · rename_i b u
      have hwho : u.curParty = s.bundleReq.who := curParty_congr hread.cur
      refine hread.trans ⟨accesses_performLoc u _ _ _ _, ?_⟩
      rw [hwho]
      exact spares_performLoc u _ _ _ _

theorem loads_of_claimIndex {s u : State} {a : Word} {o : Except AccFault Nat} (h : s.claimIndex a = (o, u)) : Loads s u := by
  have hr := loads_claimIndex s a
  rwa [h] at hr

/-! ## qpush (R397) -/

section
variable {i : Instr} {s : State} {d a b : Src} (hi : exec i s = s.qpushStep d a b)
include hi

theorem push_stays {o : AsyncOp} (hpush : s.pushOf = some o) (hdone : o.done = false) : exec i s = .next s := by
  rw [hi, State.qpushStep]
  simp only [hpush, hdone, Bool.false_eq_true, if_false]

/-- A push whose packet is in its slot: the operation ends, and its lanes move on. -/
theorem push_ends {o : AsyncOp} (hpush : s.pushOf = some o) (hdone : o.done = true) : exec i s =
    .next (({ s.noteIssue with ops := s.ops.filter (fun x => x.id != o.id) }).jump (s.curLanes.filter (fun l => o.lines.contains l))
      (fun _ => o.kind.after)) := by
  rw [hi, State.qpushStep]
  simp only [hpush, hdone, if_true]

theorem push_moves (hhelm : s.curHelm = false) {o : AsyncOp} (hpush : s.pushOf = some o) (hdone : o.done = true) : Completes i s (fun t =>
    t = { s.noteIssue with ops := s.ops.filter (fun x => x.id != o.id), threads := t.threads } ∧
    (∀ l ∈ s.curLanes, t.thread (s.curThread l) =
      if l ∈ o.lines then { s.thread (s.curThread l) with pc := o.kind.after, wait := .none, hang := 0 } else s.thread (s.curThread l)) ∧
    ∀ id, (∀ l ∈ s.curLanes, id ≠ s.curThread l) → t.thread id = s.thread id) := by
  generalize hu : ({ s.noteIssue with ops := s.ops.filter (fun x => x.id != o.id) } : State) = u
  have hcur : u.cur = s.cur := by rw [← hu, noteIssue_frame]
  have hthread (id : ThreadId) : u.thread id = s.thread id := by
    rw [← hu, noteIssue_frame]
    rfl
  obtain ⟨hframe, hlanes⟩ := jump_lanes ((curHelm_congr hcur).trans hhelm) (s.curLanes.filter (fun l => o.lines.contains l)) o.kind.after
  simp only [curGroup_congr hcur, hthread] at hlanes
  have hx := push_ends hi hpush hdone
  rw [hu] at hx
  refine ⟨_, hx, ?_, fun l hl => ?_, fun id hid => ?_⟩
  · rw [hframe, ← hu]
  · rw [hlanes]
    simp only [State.curThread, List.mem_filter, hl, true_and, List.contains_iff_mem]
    rfl
  · rw [hlanes, if_neg]
    rintro ⟨hwg, hgrp, hlane⟩
    obtain ⟨wg, grp, l⟩ := id
    exact hid l (List.mem_filter.1 hlane).1 (by rw [State.curThread, ← hwg, ← hgrp])

end

/-- A push begun is found as that of the bundle's lanes. -/
theorem pushOf_pushOp {u : State} (q n : Nat) (image : List Byte) (hlanes : u.curLanes ≠ []) : (u.pushOp q n image).pushOf.isSome = true := by
  obtain ⟨l, hl⟩ := List.exists_mem_of_ne_nil _ hlanes
  have hgroup : (u.pushOp q n image).curGroup = u.curGroup := rfl
  have hpc : (u.pushOp q n image).curPc = u.curPc := rfl
  have hsame : (u.pushOp q n image).curLanes = u.curLanes := rfl
  rw [State.pushOf, List.find?_isSome, hgroup, hpc, hsame]
  refine ⟨_, List.mem_append_right u.ops (List.mem_singleton_self _), ?_⟩
  simp only [OpKind.isPush, beq_self_eq_true, Bool.and_self, Bool.true_and, List.any_eq_true, List.contains_iff_mem]
  exact ⟨l, hl, hl⟩

/-- What a claim of a slot leaves: the index in D, and the bundle's lanes at the push until its packet is in the slot. -/
theorem pushOp_leaves {s u : State} (h : Loads s u) (hlanes : s.curLanes ≠ []) (q n : Nat) (image : List Byte) (k : RegKey) :
    let t := (u.pushOp q n image).putReg k 1 (BitVec.ofNat 64 n)
    t.reg k = { bits := BitVec.ofNat 64 n, tag := 1, full := true } ∧ (∀ x, x ≠ k → t.reg x = s.reg x) ∧
      t.threads = s.threads ∧ t.mem = u.mem ∧ ∃ o, t.ops = u.ops ++ [o] ∧ o.done = false ∧ o.lines = s.curLanes ∧ t.pushOf.isSome = true ∧
        o.kind = .qpush q n image (s.curPc + BitVec.ofNat 64 s.curLen) := by
  have hsame : u.curLanes = s.curLanes := curLanes_congr h.cur
  refine ⟨by rw [reg_putReg, if_pos rfl], fun x hx => ?_, h.threads, rfl, _, rfl, rfl, hsame, pushOf_pushOp (u := u) q n image (by rwa [hsame]), ?_⟩
  · rw [reg_putReg, if_neg hx]
    exact congrArg (fun m => FMap.getD m x _) h.regs
  · rw [← curPc_congr h.cur, ← curLen_congr h.cur]

section
variable {i : Instr} {s r u : State} {d a b : Src} {recs : List (List Byte)} {n : Nat} {k : RegKey} (hi : exec i s = s.qpushStep d a b)
  (hhelm : s.curHelm = false) (hnone : s.pushOf = none) (hready : BundleReads s [a, b] [d]) (hpub : s.pubPending s.curGroup = false)
  (hcount : (s.srcBits 0 a).toNat < s.queueCount (s.ctxOf s.curGroup.wg))
  (hread : s.readRecords (twoRecords (s.srcBits 0 b) (s.descAddr (s.ctxOf s.curGroup.wg) (s.srcBits 0 a).toNat) 64 64) [] 3 = .got recs r)
  (htype : fieldLe (recs.getD 0 []) 0 1 ≠ 0) (hdesc : r.descOk (s.ctxOf s.curGroup.wg) (recs.getD 1 []) = true)
  (hpubReady : r.pubReady s.curGroup = true)
  (hclaim : (r.pub .sys s.curPlace).claimIndex (QDesc.ofBytes (recs.getD 1 [])).widx = (.ok n, u))
include hread

/-- The state of the claim is one that the bundle's own accesses made. -/
theorem loads_push (hclaim : (r.pub .sys s.curPlace).claimIndex (QDesc.ofBytes (recs.getD 1 [])).widx = (.ok n, u)) : Loads s u :=
  ((loads_readRecords hread).trans (loads_pub r .sys s.curPlace)).trans (loads_of_claimIndex hclaim)

/-- The bundle publishes from where it stands. -/
theorem doPub_push (hhelm : s.curHelm = false) : r.doPub r.curGroup .sys .pub = r.pub .sys s.curPlace := by
  have hloads := loads_readRecords hread
  have hplace : r.groupPlace r.curGroup = r.curPlace := by
    rw [State.groupPlace, State.curPlace, State.curParty, curHelm_congr hloads.cur, if_neg (by rw [hhelm]; nofun)]
  rw [State.doPub, hplace, hloads.curPlace]

include hi hhelm hnone hready hpub hcount htype hdesc hpubReady hclaim

theorem push_claims (hkey : s.srcKey 0 d = some k) :
    exec i s = .next ((u.pushOp (s.srcBits 0 a).toNat n (recs.getD 0 [])).putReg k 1 (BitVec.ofNat 64 n)) := by
  have hcur : r.cur = s.cur := (loads_readRecords hread).cur
  have hkey' : (u.pushOp (s.srcBits 0 a).toNat n (recs.getD 0 [])).srcKey 0 d = some k := by
    rw [← hkey]
    exact srcKey_congr (loads_push hread hclaim).cur 0 d
  rw [hi, State.qpushStep]
  simp only [hnone]
  rw [withUni_ready (srcs := [{ opnd := 0, src := a }, { opnd := 1, src := b }]) hhelm hready]
  simp only [hpub, Nat.not_le.2 hcount, hread, htype, hdesc, curGroup_congr hcur, hpubReady, Bool.not_true, Bool.false_eq_true, or_self, if_false]
  rw [← curGroup_congr hcur, doPub_push hread hhelm, hclaim]
  simp only [hkey']

end

/-! ## The statement -/

/-- Settles O30: installation, removal and push, each by the equation of its instruction. -/
theorem regionMapAndPushResults : Obligations.RegionMapAndPushResults := by
  unfold Obligations.RegionMapAndPushResults
  refine ⟨?_, ?_⟩
  · intro maps unmaps
    have hmaps (i : Instr) (a : Src) (hi : ∀ s, exec i s = s.mapIssue a) : maps i a :=
      fun s r recs hhelm _ hready hpub hread hok => ⟨map_waits (hi s) hhelm hready hpub hread hok,
        fun hfree => ⟨rfl, rfl, map_installs (hi s) hhelm hready hpub hread hok hfree⟩⟩
    have hunmaps (i : Instr) (a : Src) (hi : ∀ s, exec i s = s.unmapIssue a) : unmaps i a := by
      intro s m hhelm _ hready hpub hfind hfilling hctr
      obtain ⟨hcount, hlist, hops, hmem, hregs, hmoves⟩ := unmap_leaves (m := m) hhelm hctr
      obtain ⟨o, hqueued, hcls, hdone, hkind⟩ := ops_removed (m := m) hhelm
      refine ⟨_, exec_unmap hhelm (hi s) hready hpub hfind hfilling hctr, hcount, hlist,
        ⟨o, _, hops.trans hqueued, hcls, hdone, hkind, fun hwb => if_neg (by rw [hwb]; nofun), fun x hx => ?_, fun hwb d hd => ?_⟩, fun x hx => ?_,
        hregs, hmoves⟩
      · split_ifs at hx
        · exact (mem_dirtyWrites s s.curGroup.wg m x).1 hx
        · exact absurd hx List.not_mem_nil
      · rw [if_pos hwb]
        exact (mem_dirtyWrites s s.curGroup.wg m _).2 ⟨d, hd, rfl⟩
      · rw [byteAt_of_mem_eq hmem, byteAt_loseLines _ hx]
        obtain ⟨-, -, -, hsame, -⟩ := removed_keeps (m := m) hhelm
        exact byteAt_of_mem_eq hsame x
    clear_value maps unmaps
    exact ⟨fun w => hmaps _ _ fun _ => rfl, fun w => hmaps _ _ fun _ => rfl, fun w => hunmaps _ _ fun _ => rfl, fun w => hunmaps _ _ fun _ => rfl⟩
  · intro pushes
    have hpushes (i : Instr) (d a b : Src) (hi : ∀ s, exec i s = s.qpushStep d a b) : pushes i d a b := by
      intro s hhelm _
      refine ⟨fun o hpush hdone => push_moves (hi s) hhelm hpush hdone, fun o hpush hdone => push_stays (hi s) hpush hdone, ?_⟩
      intro r u recs n k hnone hready hpub hlanes hcount hkey hread htype hdesc hpubReady hclaim
      exact ⟨_, push_claims (hi s) hhelm hnone hready hpub hcount hread htype hdesc hpubReady hclaim hkey,
        pushOp_leaves (loads_push hread hclaim) hlanes _ n _ k⟩
    clear_value pushes
    exact ⟨fun w => hpushes _ _ _ _ fun _ => rfl, fun w => hpushes _ _ _ _ fun _ => rfl⟩

end Sys2Proof.Proofs
end

section
/-! Traps taken by threads (R275, R278): what one trap changes, and what a list of threads that trap one after another do. -/

namespace Sys2Proof.Proofs

open Sys2Proof Sys2Proof.Machine Sys2Proof.Laws

/-- What traps of threads may change: threads, identities and fault records, not the trap vectors. -/
structure Trapping (s t : State) : Prop where
  frame : t = { s with threads := t.threads, nextId := t.nextId, ctxs := t.ctxs }
  vec : ∀ c, t.trapVec c = s.trapVec c

theorem Trapping.refl (s : State) : Trapping s s := ⟨rfl, fun _ => rfl⟩

theorem Trapping.trans {s t u : State} (h : Trapping s t) (k : Trapping t u) : Trapping s u := by
  refine ⟨?_, fun c => (k.vec c).trans (h.vec c)⟩
  rw [k.frame, h.frame]

theorem Trapping.wgs {s t : State} (h : Trapping s t) : t.wgs = s.wgs := by rw [h.frame]
theorem Trapping.launches {s t : State} (h : Trapping s t) : t.launches = s.launches := by rw [h.frame]
theorem Trapping.regs {s t : State} (h : Trapping s t) : t.regs = s.regs := by rw [h.frame]
theorem Trapping.mem {s t : State} (h : Trapping s t) : t.mem = s.mem := by rw [h.frame]
theorem Trapping.groups {s t : State} (h : Trapping s t) : t.groups = s.groups := by rw [h.frame]
theorem Trapping.helms {s t : State} (h : Trapping s t) : t.helms = s.helms := by rw [h.frame]

/-- The context of a workgroup is found by the workgroups and the launches alone. -/
theorem ctxOf_congr {s t : State} (hw : t.wgs = s.wgs) (hl : t.launches = s.launches) (w : Nat) : t.ctxOf w = s.ctxOf w := by
  unfold State.ctxOf State.launchOf State.launch State.wg
  rw [hw, hl]

theorem Trapping.vecOf {s t : State} (h : Trapping s t) (w : Nat) : t.trapVec (t.ctxOf w) = s.trapVec (s.ctxOf w) := by
  rw [h.vec, ctxOf_congr h.wgs h.launches]

theorem trapVec_postFault (s : State) (ctx : Nat) (r : FaultRec) (c : Nat) : (s.postFault ctx r).trapVec c = s.trapVec c := by
  simp only [State.trapVec, State.postFault, find_modify]
  by_cases h : c = ctx
  · subst h
    rw [if_pos rfl]
    cases FMap.find s.ctxs c with
    | none => rfl
    | some x => simp only [Option.map_some]; split <;> rfl
  · rw [if_neg h]

theorem trapping_setThread (s : State) (id : ThreadId) (x : Thread) : Trapping s (s.setThread id x) := ⟨rfl, fun _ => rfl⟩

theorem trapping_parkThread (s : State) (id : ThreadId) (k : ParkKind) : Trapping s (s.parkThread id k) := ⟨rfl, fun _ => rfl⟩

theorem trapping_postFault (s : State) (ctx : Nat) (r : FaultRec) : Trapping s (s.postFault ctx r) :=
  ⟨rfl, trapVec_postFault s ctx r⟩

theorem thread_postFault (s : State) (ctx : Nat) (r : FaultRec) (id : ThreadId) : (s.postFault ctx r).thread id = s.thread id := rfl

theorem thread_parkThread (s : State) (t : ThreadId) (k : ParkKind) (id : ThreadId) :
    (s.parkThread t k).thread id = if id = t then
      { s.thread t with park := k, handle := BitVec.ofNat 48 (s.nextId * 256 + (Config.handleSalt s.nextId).toNat), wait := .none }
    else s.thread id := thread_setThread s t id _

/-! ## One trap -/

theorem trapping_trapThread (s : State) (t : ThreadId) (cause : BitVec 8) (pc addr info : Word) :
    Trapping s (s.trapThread t cause pc addr info) := by
  unfold State.trapThread
  dsimp only
  split
  · exact ((trapping_setThread _ _ _).trans (trapping_parkThread _ _ _)).trans (trapping_postFault _ _ _)
  · exact trapping_setThread _ _ _

theorem thread_trapThread_other (s : State) {t id : ThreadId} (cause : BitVec 8) (pc addr info : Word) (h : id ≠ t) :
    (s.trapThread t cause pc addr info).thread id = s.thread id := by
  unfold State.trapThread
  dsimp only
  split
  · rw [thread_postFault, thread_parkThread, if_neg h, thread_setThread, if_neg h]
  · rw [thread_setThread, if_neg h]

theorem tookTrap_trapThread (s : State) (t : ThreadId) (cause : BitVec 8) (pc addr info : Word) :
    TookTrap s (s.trapThread t cause pc addr info) t cause pc addr info := by
  unfold State.trapThread
  dsimp only
  split
  · next h =>
    have hnested : (s.thread t).inHandler = true ∨ s.trapVec (s.ctxOf t.wg) = 0 := by simpa using h
    rw [TookTrap, if_pos hnested]
    simp [thread_postFault, thread_parkThread]
  · next h =>
    have hfree : ¬((s.thread t).inHandler = true ∨ s.trapVec (s.ctxOf t.wg) = 0) := by simpa using h
    rw [TookTrap, if_neg hfree]
    simp

/-- Whether a thread took a trap is read from that thread, before and after, and from its trap vector. -/
theorem tookTrap_congr {s s' t t' : State} {id : ThreadId} {cause : BitVec 8} {pc addr info : Word} (h : TookTrap s t id cause pc addr info)
    (hs : s'.thread id = { s.thread id with pc := (s'.thread id).pc, wait := (s'.thread id).wait, hang := (s'.thread id).hang }) (hv : s'.trapVec (s'.ctxOf id.wg) = s.trapVec (s.ctxOf id.wg))
    (ht : t'.thread id = t.thread id) : TookTrap s' t' id cause pc addr info := by
  unfold TookTrap at h ⊢
  rw [ht, hv, hs]
  exact h

/-! ## Many traps -/

/-- A step traps one thread, at an address that is read from that thread, and changes no other. -/
structure TrapsOne (s t : State) (id : ThreadId) (cause : BitVec 8) (pc addr info : Word) : Prop where
  took : TookTrap s t id cause pc addr info
  others : ∀ x, x ≠ id → t.thread x = s.thread x
  only : Trapping s t

theorem trapsOne_trapThread (s : State) (t : ThreadId) (cause : BitVec 8) (pc addr info : Word) :
    TrapsOne s (s.trapThread t cause pc addr info) t cause pc addr info :=
  ⟨tookTrap_trapThread s t cause pc addr info, fun _ h => thread_trapThread_other s cause pc addr info h,
    trapping_trapThread s t cause pc addr info⟩

/-- Threads that trap one after another, none of them twice: each has trapped, no other thread changed. -/
theorem traps_foldl {α : Type} (step : State → α → State) (key : α → ThreadId) (cause : BitVec 8) (pc : Thread → Word) (addr info : α → Word)
    (hstep : ∀ v x, TrapsOne v (step v x) (key x) cause (pc (v.thread (key x))) (addr x) (info x)) (xs : List α) (hn : (xs.map key).Nodup)
    (s : State) :
    (∀ x ∈ xs, TookTrap s (xs.foldl step s) (key x) cause (pc (s.thread (key x))) (addr x) (info x)) ∧
    (∀ id, (∀ x ∈ xs, id ≠ key x) → (xs.foldl step s).thread id = s.thread id) ∧ Trapping s (xs.foldl step s) := by
  induction xs generalizing s with
  | nil => exact ⟨by simp, fun _ _ => rfl, Trapping.refl s⟩
  | cons a as ih =>
    obtain ⟨hfresh, hn⟩ := List.nodup_cons.1 hn
    obtain ⟨htook, hothers, honly⟩ := ih hn (step s a)
    have hone := hstep s a
    have hapart (x : α) (hx : x ∈ as) : key x ≠ key a := fun h => hfresh (h ▸ List.mem_map_of_mem hx)
    refine ⟨fun x hx => ?_, fun id hid => ?_, hone.only.trans honly⟩
    · rcases List.mem_cons.1 hx with rfl | hx
      · exact tookTrap_congr hone.took rfl rfl (hothers _ fun y hy => (hapart y hy).symm)
      · have hsame := hone.others _ (hapart x hx)
        have h := htook x hx
        rw [hsame] at h
        exact tookTrap_congr h (by rw [hsame]) (hone.only.vecOf _).symm rfl
    · exact (hothers id fun x hx => hid x (List.mem_cons_of_mem _ hx)).trans (hone.others id (hid a List.mem_cons_self))

end Sys2Proof.Proofs
end

section
/-! Hangs, backward-branch yields, naps and the delivery of a Helm's trap (R93, R94, R120, R280, R344). -/

namespace Sys2Proof.Proofs

open Sys2Proof Sys2Proof.Machine Sys2Proof.Laws

/-- A thread over its limit traps at the instruction it stands at; its counter starts again (R93). -/
theorem trapsOne_hung (v : State) (t : ThreadId) :
    TrapsOne v ((v.setThread t { v.thread t with hang := 0 }).trapThread t 0x23 (v.thread t).pc 0 0) t 0x23 (v.thread t).pc 0 0 := by
  obtain ⟨htook, hothers, honly⟩ := trapsOne_trapThread (v.setThread t { v.thread t with hang := 0 }) t 0x23 (v.thread t).pc 0 0
  refine ⟨tookTrap_congr htook (by simp) rfl rfl, fun x hx => ?_, (trapping_setThread _ _ _).trans honly⟩
  rw [hothers x hx, thread_setThread, if_neg hx]

theorem nodup_liveOf {s : State} (h : (s.threads.map (·.1)).Nodup) (g : GroupId) : (s.liveOf g).Nodup := (h.filter _).filter _

theorem hangGroup_results {s : State} (g : GroupId) (hn : (s.threads.map (·.1)).Nodup) :
    (∀ id ∈ s.liveOf g, s.threadHung id = true → TookTrap s (s.hangGroup g) id 0x23 (s.thread id).pc 0 0) ∧
    (∀ id, (id ∉ s.liveOf g ∨ s.threadHung id = false) → (s.hangGroup g).thread id = s.thread id) ∧
    (s.hangGroup g).regs = s.regs ∧ (s.hangGroup g).mem = s.mem := by
  obtain ⟨htook, hothers, honly⟩ := traps_foldl _ id 0x23 (·.pc) (fun _ => 0) (fun _ => 0) (fun v x => trapsOne_hung v x)
    ((s.liveOf g).filter s.threadHung) (by rw [List.map_id]; exact (nodup_liveOf hn g).filter _) (s.setGroup g { s.group g with recs := [] })
  refine ⟨fun x hx hhung => tookTrap_congr (htook x (List.mem_filter.2 ⟨hx, hhung⟩)) rfl rfl rfl, fun x hx => hothers x fun y hy h => ?_,
    honly.regs, honly.mem⟩
  obtain ⟨hmem, hhung⟩ := List.mem_filter.1 hy
  subst h
  rcases hx with hx | hx
  · exact hx hmem
  · exact absurd hhung (by rw [hx]; nofun)

theorem hangHelm_hung {s : State} {w : Nat} (h : s.helmHung w = true) : s.hangHelm w = s.setHelm w { s.helm w with
    hang := 0, trap := some { cause := 0x23, addr := (s.helm w).pc, info := 1, taker := none }, wait := .none, acceptWait := none } := by
  rw [State.hangHelm, if_pos h, State.trapHelm, helm_setHelm_same]
  simp only [State.setHelm, set_set]

theorem deliverHelm_taken {s : State} {w : Nat} {h : HelmTrap} {id : ThreadId} (htrap : (s.helm w).trap = some h) (hfree : h.taker = none)
    (htaker : s.helmTaker w = some id) :
    s.deliverHelm w = (s.setHelm w { s.helm w with trap := some { h with taker := some id } }).trapThread id h.cause (s.thread id).pc h.addr h.info := by
  rw [State.deliverHelm, htrap]
  simp only [hfree, htaker, Option.isSome_none, Bool.false_eq_true, if_false]

theorem lowestPc_none (s : State) (ts : List ThreadId) : s.lowestPc ts none = leastNat (ts.map (fun t => (s.thread t).pc.toNat)) := by
  rw [State.lowestPc, List.filter_true]

theorem yieldBackward_eq (s : State) (g : GroupId) : s.yieldBackward g = s.setGroup g { s.group g with
    backCount := 0, yieldAbove := (leastNat ((s.issuable g).map (fun x => (s.thread x).pc.toNat))).map (BitVec.ofNat 64) } := by
  rw [State.yieldBackward, lowestPc_none]
  cases leastNat ((s.issuable g).map (fun x => (s.thread x).pc.toNat)) <;> rfl

/-- The entry of a thread of a group after NAP_EXPIRE at that group. -/
def wokenIn (w grp : Nat) (e : ThreadId × Thread) : ThreadId × Thread := if e.1.wg == w && e.1.grp == grp then (e.1, e.2.wake) else e

theorem wokenIn_key (w grp : Nat) (e : ThreadId × Thread) : (wokenIn w grp e).1 = e.1 := by
  unfold wokenIn
  split <;> rfl

theorem thread_woken (s : State) (w grp : Nat) (id : ThreadId) :
    FMap.getD (s.threads.map (wokenIn w grp)) id Thread.absent = if id.wg = w ∧ id.grp = grp then (s.thread id).wake else s.thread id := by
  rw [FMap.getD, find_mapped s.threads _ (wokenIn_key w grp) id, State.thread, FMap.getD]
  cases FMap.find s.threads id with
  | none => simp [Thread.wake, Thread.absent]
  | some x =>
    simp only [Option.map_some, wokenIn, Bool.and_eq_true, beq_iff_eq]
    split <;> rfl

/-- Settles O52: each event is its operation, which the conditions of the event let run. -/
theorem waitingGroupEvents : Obligations.WaitingGroupEvents := by
  unfold Obligations.WaitingGroupEvents
  intro s w grp hrun g
  refine ⟨fun hn => ⟨s.hangGroup g, ?_, hangGroup_results g hn⟩, ⟨s.hangHelm w, ?_, ?_⟩, fun h id htrap hfree htaker => ⟨s.deliverHelm w, ?_, ?_⟩,
    fun hback => ⟨s.yieldBackward g, ?_, yieldBackward_eq s g⟩, ⟨{ s with threads := s.threads.map (wokenIn w grp) }, ?_, rfl, fun id => ?_⟩⟩
  · exact if_pos hrun
  · exact if_pos hrun
  · split
    · next hhung => exact hangHelm_hung hhung
    · next hhung => exact if_neg hhung
  · exact if_pos hrun
  · obtain ⟨htook, hothers, honly⟩ := trapsOne_trapThread (s.setHelm w { s.helm w with trap := some { h with taker := some id } }) id
      h.cause (s.thread id).pc h.addr h.info
    rw [deliverHelm_taken htrap hfree htaker]
    refine ⟨tookTrap_congr htook rfl rfl rfl, ?_, hothers, honly.regs, honly.mem⟩
    rw [State.helm, honly.helms]
    exact helm_setHelm_same s w _
  · exact if_pos (by rw [hrun, decide_eq_true hback]; rfl)
  · exact if_pos hrun
  · refine (thread_woken s w grp id).trans ?_
    unfold Thread.wake
    split <;> split <;> simp_all

end Sys2Proof.Proofs
end

section
/-! Phases of barriers that complete (R139 to R142): what an arrival, an exit or bytes written may change. -/

namespace Sys2Proof.Proofs

open Sys2Proof Sys2Proof.Machine Sys2Proof.Laws

/-- What settling barriers may change: what parties have learned, whom they wait for, FLAGS, and the barriers themselves but
their transaction bytes. -/
structure BarrierMoves (s t : State) : Prop where
  frame : t = { s with hist := t.hist, floors := t.floors, threads := t.threads, groups := t.groups, helms := t.helms, wgs := t.wgs }
  threads : ∀ id, ∃ w a, t.thread id = { s.thread id with wait := w, arrived := a }
  groups : ∀ g, ∃ f, t.group g = { s.group g with flags := f }
  helms : ∀ w, ∃ x a, t.helm w = { s.helm w with wait := x, arrived := a }
  wgs : ∀ w, ∃ bs, t.wg w = { s.wg w with bars := bs }
  tx : ∀ w n, (t.bar w n).tx = (s.bar w n).tx

namespace BarrierMoves

variable {s t u : State}

theorem refl (s : State) : BarrierMoves s s := ⟨rfl, fun _ => ⟨_, _, rfl⟩, fun _ => ⟨_, rfl⟩, fun _ => ⟨_, _, rfl⟩, fun _ => ⟨_, rfl⟩, fun _ _ => rfl⟩

theorem trans (h : BarrierMoves s t) (k : BarrierMoves t u) : BarrierMoves s u := by
  refine ⟨by rw [k.frame, h.frame], fun id => ?_, fun g => ?_, fun w => ?_, fun w => ?_, fun w n => (k.tx w n).trans (h.tx w n)⟩
  · obtain ⟨_, _, h⟩ := h.threads id
    obtain ⟨x, a, k⟩ := k.threads id
    exact ⟨x, a, by rw [k, h]⟩
  · obtain ⟨_, h⟩ := h.groups g
    obtain ⟨f, k⟩ := k.groups g
    exact ⟨f, by rw [k, h]⟩
  · obtain ⟨_, _, h⟩ := h.helms w
    obtain ⟨x, a, k⟩ := k.helms w
    exact ⟨x, a, by rw [k, h]⟩
  · obtain ⟨_, h⟩ := h.wgs w
    obtain ⟨bs, k⟩ := k.wgs w
    exact ⟨bs, by rw [k, h]⟩

theorem ite {c : Prop} [Decidable c] (h : BarrierMoves s t) (k : BarrierMoves s u) : BarrierMoves s (if c then t else u) := by
  split_ifs
  · exact h
  · exact k

theorem foldl {α : Type} {op : State → α → State} (k : ∀ u x, BarrierMoves u (op u x)) (l : List α) (s : State) :
    BarrierMoves s (l.foldl op s) := by
  induction l generalizing s with
  | nil => exact .refl s
  | cons x l ih => exact (k s x).trans (ih _)

theorem regs (h : BarrierMoves s t) : t.regs = s.regs := by rw [h.frame]
theorem mem (h : BarrierMoves s t) : t.mem = s.mem := by rw [h.frame]
theorem ops (h : BarrierMoves s t) : t.ops = s.ops := by rw [h.frame]
theorem emptyLines (h : BarrierMoves s t) : t.emptyLines = s.emptyLines := by rw [h.frame]

theorem live (h : BarrierMoves s t) (id : ThreadId) : (t.thread id).live = (s.thread id).live := by
  obtain ⟨_, _, h⟩ := h.threads id
  rw [h]

theorem pc (h : BarrierMoves s t) (id : ThreadId) : (t.thread id).pc = (s.thread id).pc := by
  obtain ⟨_, _, h⟩ := h.threads id
  rw [h]

theorem ctr (h : BarrierMoves s t) (g : GroupId) : (t.group g).ctr = (s.group g).ctr := by
  obtain ⟨_, h⟩ := h.groups g
  rw [h]

theorem running (h : BarrierMoves s t) (w : Nat) : (t.helm w).running = (s.helm w).running := by
  obtain ⟨_, _, h⟩ := h.helms w
  rw [h]

end BarrierMoves

/-! ## The operations -/

theorem barrierMoves_setThread (s : State) (id : ThreadId) (w : Wait) (a : List Nat) :
    BarrierMoves s (s.setThread id { s.thread id with wait := w, arrived := a }) := by
  refine ⟨rfl, fun x => ?_, fun _ => ⟨_, rfl⟩, fun _ => ⟨_, _, rfl⟩, fun _ => ⟨_, rfl⟩, fun _ _ => rfl⟩
  rw [thread_setThread]
  split_ifs with h
  · exact ⟨w, a, by rw [h]⟩
  · exact ⟨_, _, rfl⟩

theorem barrierMoves_setHelm (s : State) (w : Nat) (x : Wait) (a : List Nat) :
    BarrierMoves s (s.setHelm w { s.helm w with wait := x, arrived := a }) := by
  refine ⟨rfl, fun _ => ⟨_, _, rfl⟩, fun _ => ⟨_, rfl⟩, fun v => ?_, fun _ => ⟨_, rfl⟩, fun _ _ => rfl⟩
  rw [helm_setHelm]
  split_ifs with h
  · exact ⟨x, a, by rw [h]⟩
  · exact ⟨_, _, rfl⟩

theorem barrierMoves_learn (s : State) (p q : Party) : BarrierMoves s (s.learn p q) :=
  ⟨rfl, fun _ => ⟨_, _, rfl⟩, fun _ => ⟨_, rfl⟩, fun _ => ⟨_, _, rfl⟩, fun _ => ⟨_, rfl⟩, fun _ _ => rfl⟩

theorem barrierMoves_pull (s : State) (x : Scope) (p : Place) : BarrierMoves s (s.pull x p) :=
  ⟨rfl, fun _ => ⟨_, _, rfl⟩, fun _ => ⟨_, rfl⟩, fun _ => ⟨_, _, rfl⟩, fun _ => ⟨_, rfl⟩, fun _ _ => rfl⟩

theorem barrierMoves_orGroupFlags (s : State) (g : GroupId) (f : Word) : BarrierMoves s (s.orGroupFlags g f) := by
  refine .ite (.refl s) ⟨rfl, fun _ => ⟨_, _, rfl⟩, fun x => ?_, fun _ => ⟨_, _, rfl⟩, fun _ => ⟨_, rfl⟩, fun _ _ => rfl⟩
  rw [group_setGroup]
  split_ifs with h
  · exact ⟨_, by rw [h]⟩
  · exact ⟨_, rfl⟩

theorem bar_setBar (s : State) (w n : Nat) (b : Barrier) (v m : Nat) :
    (s.setBar w n b).bar v m = if v = w ∧ m = n then b else s.bar v m := by
  rw [State.bar, State.setBar, wg_setWg]
  by_cases hv : v = w
  · subst hv
    rw [if_pos rfl, getD_set]
    simp [State.bar]
  · rw [if_neg hv, if_neg fun h => hv h.1, State.bar]

/-- A barrier replaced by one with the same transaction bytes. -/
theorem barrierMoves_setBar (s : State) (w n : Nat) (b : Barrier) (h : b.tx = (s.bar w n).tx) : BarrierMoves s (s.setBar w n b) := by
  refine ⟨rfl, fun _ => ⟨_, _, rfl⟩, fun _ => ⟨_, rfl⟩, fun _ => ⟨_, _, rfl⟩, fun v => ?_, fun v m => ?_⟩
  · rw [State.setBar, wg_setWg]
    split_ifs with hv
    · exact ⟨_, by rw [hv]⟩
    · exact ⟨_, rfl⟩
  · rw [bar_setBar]
    split_ifs with hv
    · rw [h, hv.1, hv.2]
    · rfl

theorem barrierMoves_passBar (s : State) (g : GroupId) (n : Nat) (p : Bool) : BarrierMoves s (s.passBar g n p) :=
  (BarrierMoves.foldl (fun u _ => barrierMoves_learn u _ _) _ s).trans (barrierMoves_orGroupFlags _ g _)

theorem threads_passBar (s : State) (g : GroupId) (n : Nat) (p : Bool) : (s.passBar g n p).threads = s.threads := by
  have hlearn (l : List Nat) (u : State) : (l.foldl (fun t o => t.learn (.operation o) (.group g.wg g.grp)) u).threads = u.threads := by
    induction l generalizing u with
    | nil => rfl
    | cons o l ih => exact ih _
  rw [State.passBar, State.orGroupFlags]
  split_ifs <;> exact hlearn _ s

theorem barrierMoves_releaseLane (s : State) (id : ThreadId) (n : Nat) (p : Bool) : BarrierMoves s (s.releaseLane id n p) := by
  have h := barrierMoves_setThread (s.passBar { wg := id.wg, grp := id.grp } n p) id (.released n)
    ((s.passBar { wg := id.wg, grp := id.grp } n p).thread id).arrived
  rw [thread_congr (threads_passBar s _ n p)] at h
  exact .ite ((barrierMoves_passBar s _ n p).trans h) (.refl s)

theorem barrierMoves_passBarHelm (s : State) (w n : Nat) (p : Bool) : BarrierMoves s (s.passBarHelm w n p) :=
  (BarrierMoves.foldl (fun u _ => barrierMoves_learn u _ _) _ s).trans (barrierMoves_pull _ _ _)

theorem barrierMoves_releaseBar (s : State) (w n : Nat) (p : Bool) : BarrierMoves s (s.releaseBar w n p) := by
  have h := BarrierMoves.foldl (fun u i => barrierMoves_releaseLane u i n p) (s.threadsOf w) s
  exact .ite ((h.trans (barrierMoves_passBarHelm _ w n p)).trans (barrierMoves_setHelm _ w _ _)) h

theorem barrierMoves_settleBar (s : State) (w n : Nat) : BarrierMoves s (s.settleBar w n) := by
  refine .ite (BarrierMoves.trans ?_ (barrierMoves_releaseBar _ w n _)) (.refl s)
  have hthreads := BarrierMoves.foldl (op := fun t i => t.setThread i { t.thread i with arrived := (t.thread i).arrived.filter (· != n) })
    (fun u i => barrierMoves_setThread u i _ _) ((s.setBar w n (s.bar w n).complete).threadsOf w) (s.setBar w n (s.bar w n).complete)
  exact ((barrierMoves_setBar s w n (s.bar w n).complete rfl).trans hthreads).trans (barrierMoves_setHelm _ w _ _)

theorem barrierMoves_exitBar (s : State) (w n : Nat) (arrived : Bool) : BarrierMoves s (s.exitBar w n arrived) :=
  .ite (barrierMoves_setBar s w n _ rfl) (BarrierMoves.trans (t := s.setBar w n _) (barrierMoves_setBar s w n _ (by rfl)) (barrierMoves_settleBar _ w n))

/-- Transaction bytes written leave their barrier, and nothing else that a settling barrier keeps (R140). -/
theorem subTx_moves (s : State) (w n bytes : Nat) :
    BarrierMoves (s.setBar w n { s.bar w n with tx := (s.bar w n).tx - BitVec.ofNat 32 bytes }) (s.subTx w n bytes) :=
  barrierMoves_settleBar _ w n

end Sys2Proof.Proofs
end

section
/-! Values that arrive, engine operations that finish or are held, appends and tickets (R100, R129, R136, R203, R397). -/

namespace Sys2Proof.Proofs

open Sys2Proof Sys2Proof.Machine Sys2Proof.Laws

/-! ## Fills (R129) -/

theorem group_orGroupFlags (s : State) (g : GroupId) (f : Word) (x : GroupId) :
    (s.orGroupFlags g f).group x = if x = g then { s.group g with flags := (s.group g).flags ||| f } else s.group x := by
  unfold State.orGroupFlags
  split_ifs with hf hx hx
  · rw [hx, hf]
    exact congrArg (fun y => { s.group g with flags := y }) (BitVec.or_zero (x := (s.group g).flags)).symm
  · rfl
  · rw [group_setGroup, if_pos hx]
  · rw [group_setGroup, if_neg hx]

theorem fillNow_results {s : State} {f : Fill} : let t := s.fillNow f
    t.reg f.reg = { s.reg f.reg with bits := f.value, full := true } ∧ (∀ k, k ≠ f.reg → t.reg k = s.reg k) ∧
    (∀ x ∈ t.fills, x ∈ s.fills ∧ x.id ≠ f.id) ∧
    t.group f.owner = { s.group f.owner with flags := (s.group f.owner).flags ||| f.flags } ∧ (∀ g, g ≠ f.owner → t.group g = s.group g) ∧
    t.mem = s.mem ∧ t.threads = s.threads := by
  intro t
  have hregs : t.regs = FMap.set s.regs f.reg { s.reg f.reg with bits := f.value, full := true } ∧
      t.fills = s.fills.filter (fun x => x.id != f.id) ∧ t.mem = s.mem ∧ t.threads = s.threads := by
    show (State.orGroupFlags _ _ _).regs = _ ∧ (State.orGroupFlags _ _ _).fills = _ ∧ (State.orGroupFlags _ _ _).mem = _ ∧
      (State.orGroupFlags _ _ _).threads = _
    unfold State.orGroupFlags
    split <;> exact ⟨rfl, rfl, rfl, rfl⟩
  obtain ⟨hregs, hfills, hmem, hthreads⟩ := hregs
  refine ⟨?_, fun k hk => ?_, fun x hx => ?_, ?_, fun g hg => ?_, hmem, hthreads⟩
  · rw [State.reg, hregs, getD_set_same]
  · rw [State.reg, hregs, getD_set_other _ _ _ hk, State.reg]
  · rw [hfills] at hx
    simpa using hx
  · exact (group_orGroupFlags _ _ _ _).trans (if_pos rfl)
  · exact (group_orGroupFlags _ _ _ _).trans (if_neg hg)

/-! ## Engine operations (R136, R150, R203) -/

theorem opOf_id {s : State} {id : Nat} {o : AsyncOp} (h : s.opOf id = some o) : o.id = id := by
  simpa using List.find?_some h

/-- Every operation of that number is the one put there. -/
theorem eq_of_mem_setOp {s : State} {o x : AsyncOp} (h : x ∈ (s.setOp o).ops) (hid : x.id = o.id) : x = o := by
  obtain ⟨y, -, rfl⟩ := List.mem_map.1 h
  split at hid
  · next heq => rw [if_pos heq]
  · next hne => exact absurd (by simpa using hid) (by simpa using hne)

/-- An operation marked as finished, its lines released and shown, before its barrier and its counter hear of it. -/
def markedDone (r : State) (o : AsyncOp) : State := ((r.releaseLines o).showLines o).setOp { o with done := true, held := false }

/-- Its bytes leave its barrier (R140). -/
def bytesLeave (r : State) (o : AsyncOp) : State :=
  match o.bar with
  | some n => if o.kind.isPush then r else r.subTx o.wg n o.tx
  | none => r

theorem retireOp_eq (r : State) (o : AsyncOp) : r.retireOp o = ((bytesLeave (markedDone r o) o).dropCtr o).publishOrphan o := rfl

/-- What leaving a barrier keeps. -/
theorem bytesLeave_keeps (r : State) (o : AsyncOp) : (bytesLeave r o).ops = r.ops ∧ (bytesLeave r o).mem = r.mem ∧
    (bytesLeave r o).regs = r.regs ∧ (bytesLeave r o).emptyLines = r.emptyLines ∧ ∀ g, ((bytesLeave r o).group g).ctr = (r.group g).ctr := by
  unfold bytesLeave
  split
  · next n _ =>
    split
    · exact ⟨rfl, rfl, rfl, rfl, fun _ => rfl⟩
    · have h := subTx_moves r o.wg n o.tx
      exact ⟨h.ops, h.mem, h.regs, h.emptyLines, h.ctr⟩
  · exact ⟨rfl, rfl, rfl, rfl, fun _ => rfl⟩

theorem tx_bytesLeave (r : State) {o : AsyncOp} {n : Nat} (hbar : o.bar = some n) (hpush : o.kind.isPush = false) :
    ((bytesLeave r o).bar o.wg n).tx = (r.bar o.wg n).tx - BitVec.ofNat 32 o.tx := by
  have heq : bytesLeave r o = r.subTx o.wg n o.tx := by
    unfold bytesLeave
    rw [hbar]
    simp only [hpush, Bool.false_eq_true, if_false]
  rw [heq, (subTx_moves r o.wg n o.tx).tx, bar_setBar, if_pos ⟨rfl, rfl⟩]

/-- What the fall of a counter keeps (R136). -/
theorem dropCtr_frame (r : State) (o : AsyncOp) : r.dropCtr o = { r with groups := (r.dropCtr o).groups, helms := (r.dropCtr o).helms } := by
  unfold State.dropCtr
  split
  · rfl
  · split <;> (dsimp only; split <;> rfl)

theorem ctr_dropCtr (r : State) {o : AsyncOp} {g : Nat} (horphan : o.orphan = false) (hgrp : o.grp = some g)
    (hctr : (r.group { wg := o.wg, grp := g }).ctr.get o.cls ≠ 0) :
    ((r.dropCtr o).group { wg := o.wg, grp := g }).ctr.get o.cls = (r.group { wg := o.wg, grp := g }).ctr.get o.cls - 1 := by
  unfold State.dropCtr
  simp only [horphan, hgrp, hctr, Bool.false_eq_true, if_false, group_setGroup_same, counters_get_set_same]

theorem publishOrphan_frame (r : State) (o : AsyncOp) : r.publishOrphan o = { r with hist := (r.publishOrphan o).hist } := by
  unfold State.publishOrphan
  split <;> rfl

/-- What the fall of a counter and a last publication keep. -/
theorem counted_keeps (r : State) (o : AsyncOp) : let t := (r.dropCtr o).publishOrphan o
    t.ops = r.ops ∧ t.mem = r.mem ∧ t.regs = r.regs ∧ t.emptyLines = r.emptyLines ∧ t.wgs = r.wgs ∧ t.groups = (r.dropCtr o).groups := by
  intro t
  show ((r.dropCtr o).publishOrphan o).ops = _ ∧ ((r.dropCtr o).publishOrphan o).mem = _ ∧ ((r.dropCtr o).publishOrphan o).regs = _ ∧
    ((r.dropCtr o).publishOrphan o).emptyLines = _ ∧ ((r.dropCtr o).publishOrphan o).wgs = _ ∧ ((r.dropCtr o).publishOrphan o).groups = _
  rw [publishOrphan_frame, dropCtr_frame]
  exact ⟨rfl, rfl, rfl, rfl, rfl, rfl⟩

theorem bar_congr {s t : State} (h : t.wgs = s.wgs) (w n : Nat) : t.bar w n = s.bar w n := by
  unfold State.bar State.wg
  rw [h]

theorem group_congr_of {s t : State} (h : t.groups = s.groups) (g : GroupId) : t.group g = s.group g := by
  unfold State.group
  rw [h]

/-- What a finished operation leaves (R136, R140, R150). -/
theorem retireOp_results (r : State) {o : AsyncOp} (hpush : o.kind.isPush = false) : let t := r.retireOp o
    (∀ x ∈ t.ops, x.id = o.id → x.done = true ∧ x.held = false) ∧ t.mem = r.mem ∧ t.regs = r.regs ∧
    (∀ x ∈ t.emptyLines, x ∈ r.emptyLines) ∧ (∀ x ∈ r.emptyLines, x ∉ o.lines → x ∈ t.emptyLines) ∧
    (∀ n, o.bar = some n → (t.bar o.wg n).tx = (r.bar o.wg n).tx - BitVec.ofNat 32 o.tx) ∧
    ∀ g, o.orphan = false → o.grp = some g → (r.group { wg := o.wg, grp := g }).ctr.get o.cls ≠ 0 →
      (t.group { wg := o.wg, grp := g }).ctr.get o.cls = (r.group { wg := o.wg, grp := g }).ctr.get o.cls - 1 := by
  intro t
  obtain ⟨hops, hmem, hregs, hlines, hctr⟩ := bytesLeave_keeps (markedDone r o) o
  obtain ⟨hops', hmem', hregs', hlines', hwgs, hgroups⟩ := counted_keeps (bytesLeave (markedDone r o) o) o
  have hempty : t.emptyLines = r.emptyLines.filter (fun l => !o.lines.contains l || r.lineOwed l o.id) := hlines'.trans hlines
  refine ⟨fun x hx hid => ?_, hmem'.trans hmem, hregs'.trans hregs, fun x hx => ?_, fun x hx hfree => ?_, fun n hbar => ?_, fun g horphan hgrp hne => ?_⟩
  · have hmarked : x ∈ (markedDone r o).ops := (hops'.trans hops) ▸ hx
    rw [eq_of_mem_setOp hmarked hid]
    exact ⟨rfl, rfl⟩
  · rw [hempty] at hx
    exact (List.mem_filter.1 hx).1
  · rw [hempty]
    exact List.mem_filter.2 ⟨hx, by simp [hfree]⟩
  · exact (congrArg Barrier.tx (bar_congr hwgs o.wg n)).trans (tx_bytesLeave _ hbar hpush)
  · have hsame : ((bytesLeave (markedDone r o) o).group { wg := o.wg, grp := g }).ctr.get o.cls = (r.group { wg := o.wg, grp := g }).ctr.get o.cls :=
      congrArg (Counters.get · o.cls) (hctr _)
    have hfalls := ctr_dropCtr _ horphan hgrp (by rw [hsame]; exact hne)
    exact (congrArg (fun y => y.ctr.get o.cls) (group_congr_of hgroups _)).trans (hfalls.trans (by rw [hsame]))

/-- The state that an operation leaves by what its run comes to. -/
def opLeaves (o : AsyncOp) : RunOut → State
  | .waiting t => t
  | .held f t => (t.setOp { o with held := true }).postFault o.ctx (t.opRec o f.cause.toNat f.info f.addr 0)
  | .done _ t => t.retireOp o

theorem exec_operation {s : State} {id : Nat} {o : AsyncOp} (hop : s.opOf id = some o) (hdone : o.done = false) (hheld : o.held = false)
    (hpush : o.kind.isPush = false) (hold : s.opOldest o = true) : exec (.asyncOperationComplete id) s = .next (opLeaves o (s.opRun o)) := by
  show execAsyncOperationComplete id s = _
  rw [execAsyncOperationComplete, hop]
  dsimp only
  rw [if_neg (by simp [hdone, hheld, hpush, hold])]
  cases s.opRun o <;> rfl

/-! ## Appends (R397) -/

theorem exec_pushSlot {s r u : State} {id q w : Nat} {packet b c : List Byte} {after : Word} {o : AsyncOp} (hop : s.opOf id = some o)
    (hkind : o.kind = .qpush q w packet after) (hdone : o.done = false) (hheld : o.held = false)
    (hdesc : s.devRead o.ctx (s.descAddr o.ctx q) 64 = (.bytes b, r)) (hridx : r.devRead o.ctx (QDesc.ofBytes b).ridx 8 = (.bytes c, u)) :
    exec (.qpushSlotWrite id) s = if w < ofLe c + 2 ^ (QDesc.ofBytes b).log2n then
      .next (u.pushWrite o ((QDesc.ofBytes b).ring + BitVec.ofNat 64 (64 * (w % 2 ^ (QDesc.ofBytes b).log2n))) packet) else .next u := by
  show execQpushSlotWrite id s = _
  rw [execQpushSlotWrite, hop]
  simp only [hkind, hdone, hheld, hdesc, hridx, Bool.or_self, Bool.false_eq_true, if_false]

theorem pushWrite_done {u x y : State} {o : AsyncOp} {slot : Word} {packet : List Byte} (hrest : u.writeRec o.req (slot + 8) (packet.drop 8) = (.done, x))
    (hfirst : x.writeRec o.req slot (packet.take 8) = (.done, y)) :
    u.pushWrite o slot packet = (y.pub .sys (y.placeOf (.operation o.id) o.wg)).setOp { o with done := true } := by
  rw [State.pushWrite, hrest]
  simp only [hfirst]

/-! ## Tickets (R100) -/

theorem exec_ticketRelease {s : State} {l w : Nat} (hholder : s.ticketHolder l = some w) (hdet : (s.launch l).det = true)
    (hlive : s.ctxLive (s.launch l).ctx = true) (horphans : s.ops.any (fun o => o.wg == w && o.orphan && !o.done) = false) :
    exec (.ticketRelease l) s = .next (s.releaseTicket l) := by
  show execTicketRelease l s = _
  rw [execTicketRelease, hholder]
  simp only [hdet, hlive, horphans, Bool.not_false, Bool.and_self, if_true]

theorem releaseTicket_held {s : State} {l w : Nat} (hholder : s.ticketHolder l = some w)
    (h : ¬(((s.wg w).status = .ended ∨ (s.wg w).killed = true) ∧ s.wgLogged w = false ∧ (s.launch l).emitWait = false)) :
    s.releaseTicket l = s := by
  rw [State.releaseTicket, hholder]
  exact if_neg (by simpa using h)

theorem releaseTicket_free {s r : State} {l w : Nat} (hholder : s.ticketHolder l = some w)
    (h : ((s.wg w).status = .ended ∨ (s.wg w).killed = true) ∧ s.wgLogged w = false ∧ (s.launch l).emitWait = false)
    (hemit : s.emitWg w = (true, r)) :
    s.releaseTicket l = (r.setLaunch l { r.launch l with ticket := (r.launch l).ticket + 1 }).setWg w { r.wg w with share := none } := by
  rw [State.releaseTicket, hholder]
  simp only [hemit, if_true]
  exact if_pos (by simpa using h)

/-- Settles O53: a fill, an engine operation by what its run comes to, an append by the room of its queue, a ticket. -/
theorem asynchronousResults : Obligations.AsynchronousResults := by
  unfold Obligations.AsynchronousResults
  intro s
  refine ⟨fun id f hfind => ?_, fun id o hop hdone hheld hpush hold => ?_, fun id q w packet after o hop hkind hdone hheld b c r u hdesc hridx => ?_,
    fun l w hholder hdet hlive horphans => ?_⟩
  · have hid : f.id = id := by simpa using List.find?_some hfind
    subst hid
    refine ⟨s.fillNow f, ?_, fillNow_results⟩
    show execLongLatencyFill f.id s = _
    rw [execLongLatencyFill, hfind]
  · have hexec := exec_operation hop hdone hheld hpush hold
    have hid := opOf_id hop
    generalize s.opRun o = out at hexec ⊢
    cases out with
    | waiting r => exact ⟨_, hexec, rfl⟩
    | held f r =>
      refine ⟨_, hexec, fun x hx hx' => ?_, rfl, rfl, rfl⟩
      rw [eq_of_mem_setOp hx (hx'.trans hid.symm)]
      exact ⟨rfl, hdone⟩
    | done bad r =>
      subst hid
      exact ⟨_, hexec, retireOp_results r hpush⟩
  · have hexec := exec_pushSlot hop hkind hdone hheld hdesc hridx
    refine ⟨fun hfull => ⟨u, by rw [hexec, if_neg (Nat.not_lt.2 hfull)], rfl⟩, fun hroom x y hrest hfirst => ?_⟩
    rw [if_pos hroom, pushWrite_done hrest hfirst] at hexec
    refine ⟨_, hexec, rfl, fun z hz hz' => ?_, rfl⟩
    rw [eq_of_mem_setOp hz (hz'.trans (opOf_id hop).symm)]
  · have hexec := exec_ticketRelease hholder hdet hlive horphans
    exact ⟨fun hheld => ⟨_, hexec, releaseTicket_held hholder hheld⟩, fun hfree r hemit => ⟨_, hexec, releaseTicket_free hholder hfree hemit⟩⟩

end Sys2Proof.Proofs
end

section
/-! Moving on, lane by lane, and the ends of threads and workgroups (R93, R97, R141, R343). -/

namespace Sys2Proof.Proofs

open Sys2Proof Sys2Proof.Machine Sys2Proof.Laws

/-! ## Moving on -/

theorem curThread_inj {s : State} {l m : Nat} (h : s.curThread l = s.curThread m) : l = m := congrArg ThreadId.lane h

/-- A lane of the bundle stands at the next instruction once the issuer has moved on (R118). -/
theorem advance_thread_lane {s : State} {l : Nat} (hl : l ∈ s.curLanes) :
    s.advance.thread (s.curThread l) = movedTo (s.curPc + BitVec.ofNat 64 s.curLen) (s.thread (s.curThread l)) := by
  cases hcur : s.cur with
  | group wg grp lanes pc len =>
    have hthread : s.curThread l = ⟨wg, grp, l⟩ := by simp only [State.curThread, State.curGroup, hcur]
    have hlanes : l ∈ lanes := by rwa [State.curLanes, hcur] at hl
    rw [hthread, advance_thread s wg grp lanes pc len hcur, if_pos ⟨rfl, rfl, hlanes⟩, State.curPc, State.curLen, hcur]
  | helm wg pc len => rw [State.curLanes, hcur] at hl; nomatch hl
  | cornice u => rw [State.curLanes, hcur] at hl; nomatch hl
  | nobody => rw [State.curLanes, hcur] at hl; nomatch hl

/-- A thread that is not of the bundle stays as it is. -/
theorem advance_thread_apart {s : State} {id : ThreadId} (h : ∀ l ∈ s.curLanes, id ≠ s.curThread l) : s.advance.thread id = s.thread id := by
  cases hcur : s.cur with
  | group wg grp lanes pc len =>
    rw [advance_thread s wg grp lanes pc len hcur, if_neg]
    rintro ⟨hwg, hgrp, hlane⟩
    refine h id.lane (by rwa [State.curLanes, hcur]) ?_
    simp only [State.curThread, State.curGroup, hcur, ← hwg, ← hgrp]
  | helm wg pc len => rw [advance_helm s wg pc len hcur]; rfl
  | cornice u => rw [advance_cornice s u hcur]
  | nobody => rw [advance_nobody s hcur]

theorem advance_regs (s : State) : s.advance.regs = s.regs := by rw [advance_frame]
theorem advance_mem (s : State) : s.advance.mem = s.mem := by rw [advance_frame]

theorem active_subset {s : State} {f : Form} {l : Nat} (h : l ∈ s.active f) : l ∈ s.curLanes := (List.mem_filter.1 h).1

/-- The threads of the active lanes are different threads (R121). -/
theorem nodup_active {s : State} (hb : Bundle s) (f : Form) : ((s.active f).map s.curThread).Nodup :=
  ((hb.ascending.filter _).imp fun h => Nat.ne_of_lt h).map _ fun _ _ hne h => hne (curThread_inj h)

/-! ## Ends -/

/-- What the end of a workgroup changes, of everything that its threads, groups and memory hold (R97). -/
structure WgEnds (w : Nat) (s t : State) : Prop where
  frame : t = { s with ops := t.ops, nextId := t.nextId, cores := t.cores, helms := t.helms, hist := t.hist, wgs := t.wgs, launches := t.launches }
  wgs : ∀ v, v ≠ w → t.wg v = s.wg v
  killed : (t.wg w).killed = (s.wg w).killed

namespace WgEnds

variable {w : Nat} {s t u : State}

theorem refl (w : Nat) (s : State) : WgEnds w s s := ⟨rfl, fun _ _ => rfl, rfl⟩

theorem trans (h : WgEnds w s t) (k : WgEnds w t u) : WgEnds w s u := by
  refine ⟨?_, fun v hv => (k.wgs v hv).trans (h.wgs v hv), k.killed.trans h.killed⟩
  rw [k.frame, h.frame]

theorem ite {c : Prop} [Decidable c] (h : WgEnds w s t) (k : WgEnds w s u) : WgEnds w s (if c then t else u) := by
  split_ifs
  · exact h
  · exact k

theorem foldl {α : Type} {op : State → α → State} (k : ∀ u x, WgEnds w u (op u x)) (l : List α) (s : State) : WgEnds w s (l.foldl op s) := by
  induction l generalizing s with
  | nil => exact .refl w s
  | cons x l ih => exact (k s x).trans (ih _)

theorem threads (h : WgEnds w s t) : t.threads = s.threads := by rw [h.frame]
theorem groups (h : WgEnds w s t) : t.groups = s.groups := by rw [h.frame]
theorem regs (h : WgEnds w s t) : t.regs = s.regs := by rw [h.frame]
theorem mem (h : WgEnds w s t) : t.mem = s.mem := by rw [h.frame]

end WgEnds

theorem wgEnds_setWg (s : State) (w : Nat) (x : Workgroup) (h : x.killed = (s.wg w).killed) : WgEnds w s (s.setWg w x) :=
  ⟨rfl, fun v hv => (wg_setWg s w v x).trans (if_neg hv), by rw [wg_setWg_same, h]⟩

theorem wgEnds_endWg (s : State) (w : Nat) : WgEnds w s (s.endWg w) := by
  have hunmap (u : State) (m : RegionMap) : WgEnds w u (u.queueUnmap w 0 none m true) := ⟨rfl, fun _ _ => rfl, rfl⟩
  have hback (u : State) : WgEnds w u (u.handBackHelm w) := ⟨rfl, fun _ _ => rfl, rfl⟩
  have hlearn (u : State) (p q : Party) : WgEnds w u (u.learn p q) := ⟨rfl, fun _ _ => rfl, rfl⟩
  have hpub (u : State) (x : Scope) (p : Place) : WgEnds w u (u.pub x p) := ⟨rfl, fun _ _ => rfl, rfl⟩
  have hpublish (u : State) : WgEnds w u (u.publishHelm w) := (WgEnds.foldl (fun v _ => hlearn v _ _) _ u).trans (hpub _ _ _)
  have hhelm (u : State) (x : Helm) : WgEnds w u (u.setHelm w x) := ⟨rfl, fun _ _ => rfl, rfl⟩
  have hlaunch (u : State) (k : Nat) (x : Launch) : WgEnds w u (u.setLaunch k x) := ⟨rfl, fun _ _ => rfl, rfl⟩
  have hended (u : State) (share : Option Nat) : WgEnds w u (u.setWg w { u.wg w with status := .ended, slots := [], maps := [], share := share }) :=
    wgEnds_setWg u w _ rfl
  have hmaps := (WgEnds.foldl hunmap (((s.wg w).maps).filter (fun m => m.wb && !m.dirty.isEmpty)) s).trans (hback _)
  have hpublished := hmaps.trans (.ite (c := (s.wg w).killed = true) (.refl w _) (hpublish _))
  exact ((hpublished.trans (hhelm _ _)).trans (hended _ _)).trans (hlaunch _ _ _)

theorem wgEnds_settleWg (s : State) (w : Nat) : WgEnds w s (s.settleWg w) := by
  unfold State.settleWg
  split
  · exact .refl w s
  · exact .ite (wgEnds_endWg s w) (.refl w s)

/-- What the end of a thread leaves: it is dead, and every other thread is as alive as it was, at the same place. -/
structure EndsThread (s t : State) (id : ThreadId) : Prop where
  dead : (t.thread id).live = false
  others : ∀ x, x ≠ id → (t.thread x).live = (s.thread x).live ∧ (t.thread x).pc = (s.thread x).pc
  regs : t.regs = s.regs
  mem : t.mem = s.mem

theorem releaseTaker_frame (s : State) (id : ThreadId) : s.releaseTaker id = { s with helms := (s.releaseTaker id).helms } := by
  unfold State.releaseTaker
  split
  · split <;> rfl
  · rfl

/-- The barriers that the exit of a thread counts on (R141). -/
def exitBars (s : State) (id : ThreadId) (arrived : List Nat) : State :=
  if (s.group { wg := id.wg, grp := id.grp }).spawned then s
  else (List.range (s.launchOf id.wg).barsN).foldl (fun r n => r.exitBar id.wg n (arrived.contains n)) s

theorem barrierMoves_exitBars (s : State) (id : ThreadId) (arrived : List Nat) : BarrierMoves s (exitBars s id arrived) :=
  .ite (.refl s) (BarrierMoves.foldl (fun u n => barrierMoves_exitBar u _ n _) _ _)

/-- A thread once it has ended: no longer live, in no handler, with nothing of a trap (R343). -/
def endedThread (x : Thread) : Thread :=
  { x with live := false, park := .running, wait := .none, priv := false, inHandler := false, trapCause := 0, trapPc := 0, trapAddr := 0, trapInfo := 0 }

theorem endThread_live {s : State} {id : ThreadId} (h : (s.thread id).live = true) :
    s.endThread id = (exitBars (s.setThread id (endedThread (s.thread id))) id (s.thread id).arrived).releaseTaker id := by
  rw [State.endThread]
  exact if_neg (by rw [h]; nofun)

theorem endThread_dead {s : State} {id : ThreadId} (h : (s.thread id).live = false) : s.endThread id = s := by
  rw [State.endThread]
  exact if_pos (by rw [h]; rfl)

theorem endsThread (s : State) (id : ThreadId) : EndsThread s (s.endThread id) id := by
  cases hlive : (s.thread id).live with
  | false =>
    rw [endThread_dead hlive]
    exact ⟨hlive, fun _ _ => ⟨rfl, rfl⟩, rfl, rfl⟩
  | true =>
    have hmoves := barrierMoves_exitBars (s.setThread id (endedThread (s.thread id))) id (s.thread id).arrived
    rw [endThread_live hlive, releaseTaker_frame]
    refine ⟨(hmoves.live id).trans ?_, fun x hx => ⟨(hmoves.live x).trans ?_, (hmoves.pc x).trans ?_⟩, hmoves.regs, hmoves.mem⟩
    · rw [thread_setThread_same]
      rfl
    · rw [thread_setThread, if_neg hx]
    · rw [thread_setThread, if_neg hx]

/-- Threads that end one after another. -/
theorem endThreads {key : Nat → ThreadId} (lanes : List Nat) (s : State) : let t := lanes.foldl (fun t l => t.endThread (key l)) s
    (∀ l ∈ lanes, (t.thread (key l)).live = false) ∧ (∀ id, (s.thread id).live = false → (t.thread id).live = false) ∧
    (∀ id, (∀ l ∈ lanes, id ≠ key l) → (t.thread id).live = (s.thread id).live ∧ (t.thread id).pc = (s.thread id).pc) ∧
    t.regs = s.regs ∧ t.mem = s.mem := by
  induction lanes generalizing s with
  | nil => exact ⟨nofun, fun _ h => h, fun _ _ => ⟨rfl, rfl⟩, rfl, rfl⟩
  | cons a as ih =>
    have hone := endsThread s (key a)
    obtain ⟨hended, hdead, hothers, hregs, hmem⟩ := ih (s.endThread (key a))
    refine ⟨fun l hl => ?_, fun id hid => hdead id ?_, fun id hid => ?_, hregs.trans hone.regs, hmem.trans hone.mem⟩
    · rcases List.mem_cons.1 hl with rfl | hl
      · exact hdead _ hone.dead
      · exact hended l hl
    · by_cases h : id = key a
      · rw [h]
        exact hone.dead
      · rw [(hone.others id h).1, hid]
    · obtain ⟨hlive, hpc⟩ := hothers id fun l hl => hid l (List.mem_cons_of_mem _ hl)
      obtain ⟨hlive', hpc'⟩ := hone.others id (hid a List.mem_cons_self)
      exact ⟨hlive.trans hlive', hpc.trans hpc'⟩

end Sys2Proof.Proofs
end

section
/-! exit, yield, nap and trap (R275, R343 to R345). -/

namespace Sys2Proof.Proofs

open Sys2Proof Sys2Proof.Machine Sys2Proof.Laws

/-! ## exit -/

/-- Whether an exit of the active lanes may end them: no operation of the group's last threads is left, and its publication
can complete (R136, R179, R343). -/
def ExitReady (s : State) (f : Form) : Prop :=
  (s.lastLanes s.curGroup (s.active f) = true → (s.group s.curGroup).ctr = Counters.zero) ∧
    (s.group s.curGroup).pendingPub = [] ∧ s.pubReady s.curGroup = true

/-- The state in which the active lanes end: what the group has learned is published, and the bundle has moved on. -/
def exitPublished (s : State) (f : Form) : State :=
  ((if s.lastLanes s.curGroup (s.active f) then s.learnAll s.curGroup else s).doPub s.curGroup .sys .pub).advance

theorem exitStep_empty {s : State} {f : Form} (hhelm : s.curHelm = false) (h : s.active f = []) : s.exitStep f = .next s.advance := by
  rw [State.exitStep, if_neg (by rw [hhelm]; nofun)]
  simp only [h, List.isEmpty_nil, if_true]

theorem exitStep_waits {s : State} {f : Form} (hhelm : s.curHelm = false) (hne : s.active f ≠ []) (h : ¬ExitReady s f) : s.exitStep f = .next s := by
  rw [State.exitStep, if_neg (by rw [hhelm]; nofun)]
  dsimp only
  rw [if_neg (by simpa using hne)]
  split
  · rfl
  · next hcounters =>
    refine if_pos ?_
    by_contra hpubs
    simp only [Bool.or_eq_true, Bool.not_eq_true', not_or, Bool.not_eq_false, Bool.not_eq_true] at hpubs
    refine h ⟨fun hlast => ?_, by simpa [State.pubPending] using hpubs.1, hpubs.2⟩
    simpa [hlast, Counters.allZero] using hcounters

theorem exitStep_ends {s : State} {f : Form} (hhelm : s.curHelm = false) (hne : s.active f ≠ []) (h : ExitReady s f) :
    s.exitStep f = .next (((s.active f).foldl (fun t l => t.endThread (s.curThread l)) (exitPublished s f)).settleWg s.curGroup.wg) := by
  obtain ⟨hcounters, hpubs, hready⟩ := h
  rw [State.exitStep, if_neg (by rw [hhelm]; nofun)]
  dsimp only
  rw [if_neg (by simpa using hne), if_neg, if_neg (by simp [State.pubPending, hpubs, hready])]
  · rfl
  · intro hwaits
    obtain ⟨hlast, hzero⟩ := Bool.and_eq_true_iff.1 hwaits
    rw [Counters.allZero, decide_eq_true (hcounters hlast)] at hzero
    exact nomatch hzero

/-- What a group learns of its finished operations touches neither threads nor registers nor memory. -/
theorem learnAll_keeps (s : State) (g : GroupId) : let t := s.learnAll g
    t.cur = s.cur ∧ t.threads = s.threads ∧ t.regs = s.regs ∧ t.mem = s.mem := by
  have hfold (l : List AsyncOp) (v : State) : let u := l.foldl (fun u o => u.learn (.operation o.id) (.group g.wg g.grp)) v
      u.cur = v.cur ∧ u.threads = v.threads ∧ u.regs = v.regs ∧ u.mem = v.mem := by
    induction l generalizing v with
    | nil => exact ⟨rfl, rfl, rfl, rfl⟩
    | cons o l ih => exact ih _
  exact hfold _ s

theorem exitPublished_keeps (s : State) (f : Form) : ∃ u : State, (u.cur = s.cur ∧ u.threads = s.threads ∧ u.regs = s.regs ∧ u.mem = s.mem) ∧
    exitPublished s f = u.advance := by
  cases hlast : s.lastLanes s.curGroup (s.active f) with
  | true =>
    refine ⟨(s.learnAll s.curGroup).doPub s.curGroup .sys .pub, learnAll_keeps s s.curGroup, ?_⟩
    rw [exitPublished, if_pos hlast]
  | false =>
    refine ⟨s.doPub s.curGroup .sys .pub, ⟨rfl, rfl, rfl, rfl⟩, ?_⟩
    rw [exitPublished, if_neg (by rw [hlast]; nofun)]

theorem exit_leaves {s : State} (hb : Bundle s) (f : Form) :
    let t := ((s.active f).foldl (fun t l => t.endThread (s.curThread l)) (exitPublished s f)).settleWg s.curGroup.wg
    (∀ l ∈ s.active f, (t.thread (s.curThread l)).live = false) ∧
    (∀ l ∈ s.curLanes, l ∉ s.active f → (t.thread (s.curThread l)).live = true ∧
      (t.thread (s.curThread l)).pc = s.curPc + BitVec.ofNat 64 s.curLen) ∧
    (∀ id, (∀ l ∈ s.curLanes, id ≠ s.curThread l) → (t.thread id).live = (s.thread id).live ∧ (t.thread id).pc = (s.thread id).pc) ∧
    t.regs = s.regs ∧ t.mem = s.mem := by
  intro t
  obtain ⟨u, ⟨hcur, hthreads, hregs, hmem⟩, hpublished⟩ := exitPublished_keeps s f
  have hends : WgEnds s.curGroup.wg ((s.active f).foldl (fun t l => t.endThread (s.curThread l)) (exitPublished s f)) t := wgEnds_settleWg _ _
  obtain ⟨hdead, -, hothers, hregs', hmem'⟩ := endThreads (key := s.curThread) (s.active f) (exitPublished s f)
  have hat (id : ThreadId) := thread_congr hends.threads id
  have hkey (l : Nat) : s.curThread l = u.curThread l := by rw [State.curThread, State.curThread, curGroup_congr hcur]
  refine ⟨fun l hl => by rw [hat, hdead l hl], fun l hl hidle => ?_, fun id hid => ?_, ?_, ?_⟩
  · obtain ⟨hlive, hpc⟩ := hothers (s.curThread l) fun m hm h => hidle (curThread_inj h ▸ hm)
    have hmoved : (exitPublished s f).thread (s.curThread l) = movedTo (s.curPc + BitVec.ofNat 64 s.curLen) (s.thread (s.curThread l)) := by
      rw [hpublished, hkey, advance_thread_lane (by rwa [curLanes_congr hcur]), thread_congr hthreads, curPc_congr hcur, curLen_congr hcur]
    rw [hat, hlive, hpc, hmoved]
    exact ⟨hb.live l hl, rfl⟩
  · obtain ⟨hlive, hpc⟩ := hothers id fun l hl => hid l (active_subset hl)
    have hsame : (exitPublished s f).thread id = s.thread id := by
      rw [hpublished, advance_thread_apart, thread_congr hthreads]
      intro l hl
      rw [← hkey]
      exact hid l (by rwa [curLanes_congr hcur] at hl)
    rw [hat, hlive, hpc, hsame]
    exact ⟨rfl, rfl⟩
  · rw [hends.regs, hregs', hpublished, advance_regs, hregs]
  · rw [hends.mem, hmem', hpublished, advance_mem, hmem]

/-- The Helm stops: its barriers hear of it, no register and no byte changes (R141, R143). -/
theorem stopHelm_results (s : State) (w : Nat) :
    ((s.stopHelm w).helm w).running = false ∧ (s.stopHelm w).regs = s.regs ∧ (s.stopHelm w).mem = s.mem := by
  have hmoves : BarrierMoves (s.setHelm w { s.helm w with running := false, wait := .none }) (s.stopHelm w) :=
    BarrierMoves.foldl (fun u n => barrierMoves_exitBar u w n _) _ _
  refine ⟨(hmoves.running w).trans ?_, hmoves.regs, hmoves.mem⟩
  rw [helm_setHelm_same]

/-! ## yield and nap -/

theorem waitLanes_eq (s : State) (lanes : List Nat) (w : Wait) : ∃ ts, s.waitLanes lanes w = { s.advance with threads := ts } ∧
    ∀ id, (s.waitLanes lanes w).thread id =
      if ∃ l ∈ lanes, id = s.curThread l then { s.advance.thread id with pc := s.curPc, wait := w } else s.advance.thread id := by
  have hfold := foldl_setThread lanes s.curThread (fun _ x => { x with pc := s.curPc, wait := w }) s.advance
  refine ⟨_, hfold, fun id => ?_⟩
  have hthreads : (s.waitLanes lanes w).threads = _ := congrArg State.threads hfold
  rw [State.thread, hthreads]
  refine (getD_foldl_set lanes s.curGroup.wg s.curGroup.grp (fun x => { x with pc := s.curPc, wait := w }) (fun _ => rfl) s.advance.threads id).trans ?_
  refine if_congr ⟨fun ⟨hwg, hgrp, hlane⟩ => ⟨id.lane, hlane, ?_⟩, ?_⟩ rfl rfl
  · rw [State.curThread, ← hwg, ← hgrp]
  · rintro ⟨l, hl, rfl⟩
    exact ⟨rfl, rfl, hl⟩

theorem yieldStep_eq (s : State) (f : Form) : s.yieldStep f = .next (if s.active f = [] then s.advance else
    s.advance.setGroup s.curGroup { s.advance.group s.curGroup with backCount := 0, yieldAbove := some (s.curPc + BitVec.ofNat 64 s.curLen) }) := by
  unfold State.yieldStep
  by_cases h : s.active f = []
  · rw [if_pos h, h]
    rfl
  · rw [if_neg h, if_neg (by simpa using h)]

theorem nap_leaves (s : State) (f : Form) (w : Wait) : let t := s.waitLanes (s.active f) w
    t = { s.advance with threads := t.threads } ∧
    (∀ l ∈ s.curLanes, t.thread (s.curThread l) = if l ∈ s.active f then { s.thread (s.curThread l) with pc := s.curPc, wait := w, hang := 0 }
      else { s.thread (s.curThread l) with pc := s.curPc + BitVec.ofNat 64 s.curLen, wait := .none, hang := 0 }) ∧
    ∀ id, (∀ l ∈ s.curLanes, id ≠ s.curThread l) → t.thread id = s.thread id := by
  intro t
  obtain ⟨ts, ht, hthread⟩ := waitLanes_eq s (s.active f) w
  refine ⟨?_, fun l hl => ?_, fun id hid => ?_⟩
  · show s.waitLanes (s.active f) w = { s.advance with threads := (s.waitLanes (s.active f) w).threads }
    rw [ht]
  · have hiff : (∃ m ∈ s.active f, s.curThread l = s.curThread m) ↔ l ∈ s.active f :=
      ⟨fun ⟨m, hm, h⟩ => curThread_inj h ▸ hm, fun h => ⟨l, h, rfl⟩⟩
    rw [hthread, advance_thread_lane hl]
    exact if_congr hiff rfl rfl
  · rw [hthread, if_neg fun ⟨l, hl, h⟩ => hid l (active_subset hl) h, advance_thread_apart hid]

/-! ## trap -/

theorem trapStep_leaves {s : State} (hb : Bundle s) (f : Form) (code : Nat) :
    let t := s.advance.trapLanes (s.active f) 0x24 (s.curPc + BitVec.ofNat 64 s.curLen) (fun _ => 0) (fun _ => BitVec.ofNat 64 code)
    (∀ l ∈ s.active f, TookTrap s t (s.curThread l) 0x24 (s.curPc + BitVec.ofNat 64 s.curLen) 0 (BitVec.ofNat 64 code)) ∧
    (∀ id, (∀ l ∈ s.active f, id ≠ s.curThread l) → t.thread id = s.advance.thread id) ∧
    t.regs = s.regs ∧ t.mem = s.mem ∧ t.groups = s.advance.groups := by
  intro t
  have hkey (l : Nat) : s.advance.curThread l = s.curThread l := by rw [State.curThread, State.curThread, curGroup_congr (cur_advance s)]
  have hnodup : ((s.active f).map s.advance.curThread).Nodup := by
    rw [funext hkey]
    exact nodup_active hb f
  obtain ⟨htook, hothers, honly⟩ := traps_foldl (fun t l => t.trapThread (s.advance.curThread l) 0x24 (s.curPc + BitVec.ofNat 64 s.curLen) 0 (BitVec.ofNat 64 code))
    s.advance.curThread 0x24 (fun _ => s.curPc + BitVec.ofNat 64 s.curLen) (fun _ => 0) (fun _ => BitVec.ofNat 64 code)
    (fun v _ => trapsOne_trapThread v _ _ _ _ _) (s.active f) hnodup s.advance
  refine ⟨fun l hl => ?_, fun id hid => hothers id fun l hl => hkey l ▸ hid l hl, ?_, ?_, honly.groups⟩
  · have h := htook l hl
    rw [hkey] at h
    have hmoved := advance_thread_lane (active_subset hl)
    refine tookTrap_congr h ?_ ?_ rfl
    · rw [hmoved]
      rfl
    · rw [advance_frame]
      rfl
  · exact honly.regs.trans (advance_regs s)
  · exact honly.mem.trans (advance_mem s)

/-- Settles O17: exit by its readiness and the ends of its lanes, yield and nap by moving on, trap by the traps of its lanes. -/
theorem exitYieldNapTrapResults : Obligations.ExitYieldNapTrapResults := by
  unfold Obligations.ExitYieldNapTrapResults
  refine ⟨?_, ?_, ?_⟩
  · intro ready ends
    have hends (i : Instr) (f : Form) (hi : ∀ s, exec i s = s.exitStep f) : ends i f := by
      intro s hb
      refine ⟨fun hhelm h => (hi s).trans (exitStep_empty hhelm h), fun hhelm hne h => (hi s).trans (exitStep_waits hhelm hne h),
        fun hhelm hne h => ⟨_, (hi s).trans (exitStep_ends hhelm hne h), exit_leaves hb f⟩, fun hhelm h => (hi s).trans ?_,
        fun hhelm h => ⟨s.stopHelm s.curGroup.wg, (hi s).trans ?_, stopHelm_results s _⟩⟩
      · rw [State.exitStep, if_pos hhelm, if_pos h]
      · rw [State.exitStep, if_pos hhelm, if_neg (by rw [h]; nofun)]
    clear_value ends
    exact ⟨fun w => hends _ _ fun _ => rfl, fun w => hends _ _ fun _ => rfl⟩
  · intro yields naps
    have hyields (f : Form) (s : State) : ∃ t, s.yieldStep f = .next t ∧ yields f s t := by
      refine ⟨_, yieldStep_eq s f, ?_⟩
      show if s.active f = [] then _ else _
      by_cases h : s.active f = []
      · rw [if_pos h, if_pos h]
      · rw [if_neg h, if_neg h]
    have hnaps (f : Form) (n : Nat) (s : State) : ∃ t, s.napStep f n = .next t ∧ naps f n s t := by
      show ∃ t, (if n = 0 then s.yieldStep f else _) = _ ∧ if n = 0 then yields f s t else _
      by_cases h : n = 0
      · simp only [if_pos h]
        exact hyields f s
      · simp only [if_neg h]
        exact ⟨_, rfl, nap_leaves s f _⟩
    clear_value naps yields
    exact ⟨⟨fun w s => hyields _ s, fun w s => hyields _ s⟩, fun n s => hnaps _ _ s, fun w s => hnaps _ _ s⟩
  · intro traps
    have htraps (i : Instr) (f : Form) (code : Nat) (hi : ∀ s, exec i s = s.trapStep f code) : traps i f code :=
      fun s _ hb => ⟨_, hi s, trapStep_leaves hb f code⟩
    clear_value traps
    exact ⟨fun n => htraps _ _ _ fun _ => rfl, fun w => htraps _ _ _ fun _ => rfl⟩

end Sys2Proof.Proofs
end

section
/-! kill where the list of threads names a thread twice (R419): the search for a parked thread and the kill read different entries. -/

namespace Sys2Proof.Proofs

open Sys2Proof Sys2Proof.Machine Sys2Proof.Laws

/-- The thread that the list of `listedTwice` names twice. -/
def twiceListed : ThreadId := { wg := 0, grp := 0, lane := 1 }

/-- A privileged bundle of lane 0, and a thread of lane 1 listed twice: first as ended, then as live and parked with handle 0. -/
def listedTwice : State :=
  { State.reset with
    cur := .group 0 0 [0] 0 4
    threads := [({ wg := 0, grp := 0, lane := 0 }, { Thread.absent with live := true, priv := true }), (twiceListed, Thread.absent),
      (twiceListed, { Thread.absent with live := true, park := .byPark })] }

/-- `kill [s0]`. -/
def killS0 : R32 := { u := false, so := 0, b := 0, a := 0, d := 0 }

/-- The search for the parked thread of a handle reads the entry listed second. -/
theorem parkedBy_listedTwice : listedTwice.parkedBy (listedTwice.ctxOf listedTwice.curGroup.wg) (listedTwice.srcBits 0 (uniA killS0)) = some twiceListed := by
  decide

/-- The thread itself is read from the entry listed first: it has ended already. -/
theorem live_listedTwice : (listedTwice.advance.thread twiceListed).live = false := by decide

theorem bundle_listedTwice : Bundle listedTwice :=
  ⟨fun l hl => by rw [List.mem_singleton.1 hl]; rfl, List.pairwise_singleton _ _⟩

theorem readable_listedTwice : ReadableIn listedTwice listedTwice.curLanes [uniA killS0] [] :=
  ⟨rfl, fun l hl x hx => by rw [List.mem_singleton.1 hl, List.mem_singleton.1 hx]; rfl, nofun⟩

theorem killThread_dead {s : State} {id : ThreadId} (h : (s.thread id).live = false) : s.killThread id = s := by
  rw [State.killThread]
  exact if_pos (by rw [h]; rfl)

/-- The kill does nothing: its thread has ended. -/
theorem exec_kill_listedTwice : exec (.kill killS0) listedTwice = .next listedTwice.advance := by
  have hfull : listedTwice.checkFull listedTwice.curLanes [] [{ opnd := 0, src := uniA killS0 }] [] = .ok listedTwice :=
    checkFull_ok _ _ _ _ _ rfl (fun l hl o ho => by rw [List.append_nil] at hl; rw [List.mem_singleton.1 hl, List.mem_singleton.1 ho]; rfl) (fun _ _ => nofun)
  show listedTwice.killStep (uniA killS0) = _
  rw [State.killStep, State.privUni, if_neg (by decide), hfull]
  simp only [parkedBy_listedTwice]
  rw [killThread_dead live_listedTwice]

/-- Refutes O37: in `listedTwice` the handle of `kill` names a live parked thread, yet nothing is killed, since the statement does not ask
that a thread be listed once. -/
theorem not_handlerResults : ¬ Obligations.HandlerResults := by
  unfold Obligations.HandlerResults
  rintro ⟨-, ⟨-, -, hkill, -⟩, -⟩
  obtain ⟨hparked, -⟩ := hkill killS0 listedTwice rfl bundle_listedTwice (by decide) readable_listedTwice
  obtain ⟨t, hexec, ⟨-, hkilled, -⟩, -⟩ := hparked twiceListed parkedBy_listedTwice
  obtain rfl : listedTwice.advance = t := by simpa using exec_kill_listedTwice.symm.trans hexec
  exact absurd hkilled (by decide)

end Sys2Proof.Proofs
end

section
/-! mrest where memory lists a byte of its tile twice (R411): the zero that is written drops one entry, and the other is read. -/

namespace Sys2Proof.Proofs

open Sys2Proof Sys2Proof.Machine Sys2Proof.Laws

/-! ## Words on chip that nothing holds up -/

/-- Words on chip resolve to their places at once. -/
theorem resolveTile_chip {s : State} {r : Req} {space : Nat} {k : AccKind} (place : Word → Nat) (ws : List Word)
    (h : ∀ a ∈ ws, s.decodeAddr r space a 8 = some (.chip (place a))) :
    s.resolveTile r space k ws = (.ok (ws.map fun a => ⟨.flat (place a), none⟩), s) := by
  induction ws with
  | nil => rfl
  | cons a ws ih =>
    have hone : s.resolve r space a 8 k = (.ok ⟨.flat (place a), none⟩, s) := by
      unfold State.resolve
      rw [h a List.mem_cons_self]
    unfold State.resolveTile
    simp only [hone, ih fun b hb => h b (List.mem_cons_of_mem _ hb), List.map_cons]

theorem prepAll_ready {s : State} (fs : List (State → Prep × State)) (h : ∀ f ∈ fs, f s = (.ready, s)) : prepAll s fs = (.ready, s) := by
  induction fs with
  | nil => rfl
  | cons f fs ih =>
    unfold prepAll
    rw [h f List.mem_cons_self]
    exact ih fun g hg => h g (List.mem_cons_of_mem _ hg)

/-- A place whose line is present and full, and whose slice has room, is ready. -/
theorem prepSpot_flat_ready {s : State} {x : Nat} (r : Req) (leaf : Option Leaf) (n : Nat) (op : Option WriteOp)
    (hslice : s.sliceFull ⟨.flat x, leaf⟩ = false) (habsent : s.lineAbsent x = false) (hempty : s.lineEmpty x = false) :
    s.prepSpot r ⟨.flat x, leaf⟩ n op = (.ready, s) := by
  unfold State.prepSpot
  simp only [hslice, Bool.false_and, Bool.false_eq_true, if_false]
  rw [State.prepLine, habsent, hempty]
  rfl

/-- The state that `mrest` leaves, once the area has been read from `v` (R411). -/
def restored (v : State) (c t so : Nat) (r : Req) (a : Word) : State :=
  let got := v.takePieces r .floor a ((List.range 512).map (fun i => (8 * i, 8)))
  let w := (got.2.2.dropAnswers r.who).setTile c t ((List.range 1024).map (fun i => fieldLe got.1.bytes (4 * i) 4)) got.1.bad
  (w.setCore c { w.core c with tileFull := putBit (w.core c).tileFull t true, tileTag := putBit (w.core c).tileTag t (so == 1) }).advance

theorem mrestStep_restores {s u v : State} {t so : Nat} {a : Src} {ps : List Spot} (hpriv : s.allPriv = true)
    (hfull : s.checkFull s.curLanes [] [{ opnd := 0, src := a }] [] = .ok s)
    (hlatch : (s.core (s.coreOf s.curGroup.wg)).latches.any (fun l => l.op.tile == t) = false)
    (hready : (s.phasePending s.curGroup || s.recordHeld (s.srcBits 0 a) 4096) = false) (halign : (s.srcBits 0 a).toNat % 128 = 0)
    (hresolve : s.resolveTile { s.bundleReq with lane := none } spGeneric .read (tileWords (s.srcBits 0 a)) = (.ok ps, u))
    (hprep : prepAll u (ps.map (fun p v => v.prepSpot { s.bundleReq with lane := none } p 8 none)) = (.ready, v)) :
    s.mrestStep t so a = .next (restored v (s.coreOf s.curGroup.wg) t so { s.bundleReq with lane := none } (s.srcBits 0 a)) := by
  rw [State.mrestStep, State.privUni, if_neg (by rw [hpriv]; nofun), hfull]
  dsimp only
  rw [if_neg (by rw [hlatch]; nofun), if_neg (by rw [hready]; nofun), if_neg (not_not.2 halign), hresolve]
  dsimp only
  rw [hprep]
  rfl

theorem mem_setTile (s : State) (c t : Nat) (els : List Nat) (bad : Bool) :
    (s.setTile c t els bad).mem = memSetMany s.mem (tileAt c t) (els.flatMap (leBytes 4)) := rfl

/-- What `mrest` leaves in memory: the elements of the area at the tile's bytes. -/
theorem mem_restored {v w : State} {c t so : Nat} {r : Req} {a : Word} {bytes : List Byte} {bad : Bool} {first : Option Word}
    (h : v.takePieces r .floor a ((List.range 512).map (fun i => (8 * i, 8))) = (⟨bytes, bad⟩, first, w)) :
    (restored v c t so r a).mem = memSetMany w.mem (tileAt c t) (((List.range 1024).map (fun i => fieldLe bytes (4 * i) 4)).flatMap (leBytes 4)) := by
  rw [restored, h, advance_mem, setCore_mem, mem_setTile]
  rfl

/-! ## The state -/

/-- A privileged bundle of lane 0 whose s0 holds the address of its scratchpad, of 4 KiB, and a memory that lists the first byte of tile 0
twice, as 1. -/
def tileTwice : State :=
  { State.reset with
    cur := .group 0 0 [0] 0 4
    threads := [({ wg := 0, grp := 0, lane := 0 }, { Thread.absent with live := true, priv := true })]
    regs := [(.s 0 0 0, { bits := 0xFD00000000000000, tag := 1, full := true })]
    launches := [(0, { Launch.absent with scratch := 4096 })]
    mem := [(tileAt 0 0, 1), (tileAt 0 0, 1)] }

/-- `mrest a0, [s0]`, with tag F32. -/
def mrestS0 : R32 := { u := false, so := 0, b := 0, a := 0, d := 0 }

/-- The bundle as the requester of the tile's area. -/
def tileReq : Req := { tileTwice.bundleReq with lane := none }

/-- The address of the scratchpad. -/
def scratchBase : Word := 0xFD00000000000000

/-- The place of a scratchpad address of `tileTwice`. -/
def scratchPlace (a : Word) : Nat := scratchAt 0 (a.toNat % 2 ^ 56)

theorem toNat_scratch {i : Nat} (h : i < 512) : (scratchBase + BitVec.ofNat 64 (8 * i)).toNat = 0xFD * 2 ^ 56 + 8 * i := by
  have hbase : scratchBase.toNat = 0xFD * 2 ^ 56 := by decide
  rw [BitVec.toNat_add, hbase, BitVec.toNat_ofNat]
  omega

theorem scratchPlace_word {i : Nat} (h : i < 512) : scratchPlace (scratchBase + BitVec.ofNat 64 (8 * i)) = spaceBase 5 + 8 * i := by
  rw [scratchPlace, toNat_scratch h, scratchAt]
  omega

theorem decode_scratch {i : Nat} (h : i < 512) :
    tileTwice.decodeAddr tileReq spGeneric (scratchBase + BitVec.ofNat 64 (8 * i)) 8 =
      some (.chip (scratchPlace (scratchBase + BitVec.ofNat 64 (8 * i)))) := by
  have hap : apertureOf (0xFD * 2 ^ 56 + 8 * i) = some (spCore, 8 * i) := by
    have hdiv : (0xFD * 2 ^ 56 + 8 * i) / 2 ^ 56 = 0xFD := by omega
    have hmod : (0xFD * 2 ^ 56 + 8 * i) % 2 ^ 56 = 8 * i := by omega
    rw [apertureOf, hdiv, hmod]
    rfl
  have hfits : 8 * i + 8 ≤ (tileTwice.launchOf 0).scratch := by
    show 8 * i + 8 ≤ 4096
    omega
  rw [scratchPlace, State.decodeAddr, if_pos rfl, toNat_scratch h, hap]
  show (if 8 * i + 8 ≤ (tileTwice.launchOf 0).scratch then _ else _) = _
  rw [if_pos hfits, show (0xFD * 2 ^ 56 + 8 * i) % 2 ^ 56 = 8 * i by omega]
  rfl

theorem read_scratch {i : Nat} (h : i < 512) : tileTwice.takePiece tileReq .floor (scratchBase + BitVec.ofNat 64 (8 * i)) 8 =
    (⟨tileTwice.bytesAt (spaceBase 5 + 8 * i) 8, false⟩, none, tileTwice) := by
  have hspace : spaceOf (spaceBase 5 + 8 * i) = 5 := by
    rw [spaceOf, spaceBase]
    omega
  have hread : tileTwice.readFlat tileReq .floor (spaceBase 5 + 8 * i) 8 = (.bytes (tileTwice.bytesAt (spaceBase 5 + 8 * i) 8), tileTwice) := by
    have hl1 : tileTwice.eccL1 tileReq .floor (spaceBase 5 + 8 * i) = tileTwice := by
      show (if _ then _ else _) = _
      rw [if_neg (by simp [isDevice, hspace])]
    have hcheck : tileTwice.eccCheck (spaceBase 5 + 8 * i) tileReq.ctx = (false, tileTwice) := by
      rw [State.eccCheck, State.coreArray, hspace]
      exact eccKept_quiet rfl _ _
    simp only [State.readFlat, hl1, hcheck, Bool.false_eq_true, if_false, hspace]
    rfl
  have hresolve : tileTwice.resolve tileReq spGeneric (scratchBase + BitVec.ofNat 64 (8 * i)) 8 .read = (.ok ⟨.flat (spaceBase 5 + 8 * i), none⟩, tileTwice) := by
    rw [State.resolve, decode_scratch h, scratchPlace_word h]
  rw [State.takePiece, hresolve]
  show (match tileTwice.readFlat tileReq .floor (spaceBase 5 + 8 * i) 8 with | (.bytes b, t) => _ | (.poison c _ _, t) => _) = _
  rw [hread]

theorem takes_scratch (is : List Nat) (h : ∀ i ∈ is, i < 512) :
    tileTwice.takePieces tileReq .floor scratchBase (is.map fun i => (8 * i, 8)) =
      (⟨is.flatMap fun i => tileTwice.bytesAt (spaceBase 5 + 8 * i) 8, false⟩, none, tileTwice) := by
  induction is with
  | nil => rfl
  | cons i is ih =>
    rw [List.map_cons, State.takePieces, read_scratch (h i List.mem_cons_self)]
    simp only [ih fun j hj => h j (List.mem_cons_of_mem _ hj), List.flatMap_cons]
    rfl

/-! ## The run -/

/-- The words of the area, which all lie in the scratchpad. -/
theorem tileWords_scratch : ∀ a ∈ tileWords scratchBase, tileTwice.decodeAddr tileReq spGeneric a 8 = some (.chip (scratchPlace a)) := by
  intro a ha
  obtain ⟨i, hi, rfl⟩ := List.mem_map.1 ha
  exact decode_scratch (List.mem_range.1 hi)

/-- The places of the area's words. -/
def tileSpots : List Spot := (tileWords scratchBase).map fun a => ⟨.flat (scratchPlace a), none⟩

theorem resolved_scratch : tileTwice.resolveTile tileReq spGeneric .read (tileWords scratchBase) = (.ok tileSpots, tileTwice) :=
  resolveTile_chip scratchPlace _ tileWords_scratch

theorem src_mrestS0 : tileTwice.srcBits 0 (uniA mrestS0) = scratchBase := by decide

theorem resolved_words : tileTwice.resolveTile { tileTwice.bundleReq with lane := none } spGeneric .read
    ((List.range 512).map fun i => tileTwice.srcBits 0 (uniA mrestS0) + BitVec.ofNat 64 (8 * i)) = (.ok tileSpots, tileTwice) := by
  rw [src_mrestS0]
  exact resolved_scratch

theorem tileSpots_ready : ∀ p ∈ tileSpots, tileTwice.sliceFull p = false ∧
    ∃ y, p.loc = .flat y ∧ tileTwice.lineAbsent y = false ∧ tileTwice.lineEmpty y = false := by
  intro p hp
  obtain ⟨a, ha, rfl⟩ := List.mem_map.1 hp
  obtain ⟨i, hi, rfl⟩ := List.mem_map.1 ha
  have hspace : spaceOf (spaceBase 5 + 8 * i) = 5 := by
    have := List.mem_range.1 hi
    rw [spaceOf, spaceBase]
    omega
  rw [scratchPlace_word (List.mem_range.1 hi)]
  refine ⟨?_, _, rfl, ?_, rfl⟩
  · simp [State.sliceFull, isDevice, hspace]
  · rw [State.lineAbsent, scratchOf, if_pos hspace]
    rfl

/-- The bytes of the area, as `mrest` reads them. -/
def areaBytes : List Byte := (List.range 512).flatMap fun i => tileTwice.bytesAt (spaceBase 5 + 8 * i) 8

/-- The first element of the area is 0. -/
theorem areaBytes_first : fieldLe areaBytes 0 4 = 0 := by
  have hhead : areaBytes = tileTwice.bytesAt (spaceBase 5) 8 ++ ((List.range 511).map Nat.succ).flatMap fun i => tileTwice.bytesAt (spaceBase 5 + 8 * i) 8 := by
    rw [areaBytes, List.range_succ_eq_map, List.flatMap_cons, Nat.mul_zero, Nat.add_zero]
  have hzero : tileTwice.bytesAt (spaceBase 5) 8 = List.replicate 8 0 := by decide
  rw [hhead, hzero]
  rfl

theorem takes_area : tileTwice.takePieces tileReq .floor scratchBase ((List.range 512).map (fun i => (8 * i, 8))) =
    (⟨areaBytes, false⟩, none, tileTwice) := takes_scratch (List.range 512) fun _ hi => List.mem_range.1 hi

/-- The state in which `mrest` leaves the tile. -/
def tileRestored : State := restored tileTwice 0 0 0 tileReq scratchBase

/-- The first element of a tile begins at its first byte. -/
theorem tileStored_first (s : State) (c t : Nat) : (s.tileStored c t).getD 0 0 = ofLe (s.byteAt (tileAt c t) :: s.bytesAt (tileAt c t + 1) 3) := by
  rw [State.tileStored, List.range_succ_eq_map, List.map_cons, List.getD_cons_zero, Nat.mul_zero, Nat.add_zero]
  rfl

/-- The zero written to the tile's first byte drops the entry listed first; the byte is read from the other. -/
theorem byteAt_tileRestored : tileRestored.byteAt (tileAt 0 0) = 1 := by
  have hels : ((List.range 1024).map (fun i => fieldLe areaBytes (4 * i) 4)).flatMap (leBytes 4) =
      0 :: ([0, 0, 0] ++ ((List.range 1023).map Nat.succ).flatMap fun i => leBytes 4 (fieldLe areaBytes (4 * i) 4)) := by
    rw [List.range_succ_eq_map, List.map_cons, List.flatMap_cons, Nat.mul_zero, areaBytes_first, List.flatMap_map]
    rfl
  rw [State.byteAt, tileRestored, mem_restored takes_area, hels, memSetMany, memGet_memSetMany_apart _ _ (Or.inl (Nat.lt_succ_self _))]
  rfl

theorem bundle_tileTwice : Bundle tileTwice :=
  ⟨fun l hl => by rw [List.mem_singleton.1 hl]; rfl, List.pairwise_singleton _ _⟩

theorem readable_tileTwice : ReadableIn tileTwice tileTwice.curLanes [uniA mrestS0] [] :=
  ⟨rfl, fun l hl x hx => by rw [List.mem_singleton.1 hl, List.mem_singleton.1 hx]; rfl, nofun⟩

theorem exec_mrest_tileTwice : exec (.mrest mrestS0) tileTwice = .next tileRestored := by
  have hfull : tileTwice.checkFull tileTwice.curLanes [] [{ opnd := 0, src := uniA mrestS0 }] [] = .ok tileTwice :=
    checkFull_ok _ _ _ _ _ rfl (fun l hl o ho => by rw [List.append_nil] at hl; rw [List.mem_singleton.1 hl, List.mem_singleton.1 ho]; rfl) (fun _ _ => nofun)
  have hprep : prepAll tileTwice (tileSpots.map (fun p v => v.prepSpot tileReq p 8 none)) = (.ready, tileTwice) := by
    refine prepAll_ready _ fun f hf => ?_
    obtain ⟨p, hp, rfl⟩ := List.mem_map.1 hf
    obtain ⟨hslice, y, hloc, habsent, hempty⟩ := tileSpots_ready p hp
    obtain ⟨loc, leaf⟩ := p
    subst hloc
    exact prepSpot_flat_ready _ _ _ _ hslice habsent hempty
  have hexec := mrestStep_restores (t := 0) (so := 0) (by decide) hfull (by decide) (by decide) (by decide) resolved_words hprep
  refine hexec.trans (congrArg Host.Outcome.next ?_)
  rw [src_mrestS0]
  rfl

/-- Refutes O35: in `tileTwice` the area holds zeros and `mrest` completes, but the tile's first element is not 0, since the statement of
`mrest` does not ask that memory list a byte once. -/
theorem not_scaleAndTileResults : ¬ Obligations.ScaleAndTileResults := by
  unfold Obligations.ScaleAndTileResults
  rintro ⟨-, -, -, -, -, hrest, -⟩
  obtain ⟨t, hexec, helements, -⟩ := hrest mrestS0 tileTwice tileTwice tileSpots rfl bundle_tileTwice (by decide) readable_tileTwice
    (fun l hl => absurd hl List.not_mem_nil) (by decide) (by decide) (by decide) resolved_words tileSpots_ready
  have heq := exec_mrest_tileTwice.symm.trans hexec
  obtain rfl : tileRestored = t := by injection heq
  rw [src_mrestS0] at helements
  have hcore : tileTwice.coreOf tileTwice.curGroup.wg = 0 := by decide
  have htile : mrestS0.d.toNat % 8 = 0 := by decide
  rw [hcore, htile] at helements
  have hfirst := helements 0 (by decide)
  generalize hgot : tileTwice.takePieces _ .floor scratchBase _ = got at hfirst
  obtain rfl : got = (⟨areaBytes, false⟩, none, tileTwice) := hgot.symm.trans takes_area
  dsimp only at hfirst
  rw [tileStored_first, Nat.mul_zero, areaBytes_first, byteAt_tileRestored, ofLe] at hfirst
  exact absurd hfirst (by simp)

end Sys2Proof.Proofs
end

section
/-! Groups that start (R115, R117, R126): their registers, their threads, and what they leave to the other groups. -/

namespace Sys2Proof.Proofs

open Sys2Proof Sys2Proof.Machine Sys2Proof.Laws

/-- `t` differs from `s` in registers, threads, groups and floors alone. -/
def StartsOnly (s t : State) : Prop := t = { s with regs := t.regs, threads := t.threads, groups := t.groups, floors := t.floors }

theorem StartsOnly.trans {s t u : State} (h : StartsOnly s t) (k : StartsOnly t u) : StartsOnly s u := by
  unfold StartsOnly at h k
  rw [h] at k
  exact k

theorem StartsOnly.foldl {α : Type} {op : State → α → State} (k : ∀ u x, StartsOnly u (op u x)) (l : List α) (s : State) : StartsOnly s (l.foldl op s) := by
  induction l generalizing s with
  | nil => rfl
  | cons x l ih => exact (k s x).trans (ih _)

/-- `t` differs from `s` in registers alone. -/
structure RegsOnly (s t : State) : Prop where
  frame : StartsOnly s t
  threads : t.threads = s.threads
  groups : t.groups = s.groups

theorem RegsOnly.refl (s : State) : RegsOnly s s := ⟨rfl, rfl, rfl⟩

theorem RegsOnly.trans {s t u : State} (h : RegsOnly s t) (k : RegsOnly t u) : RegsOnly s u :=
  ⟨h.frame.trans k.frame, k.threads.trans h.threads, k.groups.trans h.groups⟩

theorem regsOnly_setReg (s : State) (k : RegKey) (x : Reg) : RegsOnly s (s.setReg k x) := ⟨rfl, rfl, rfl⟩

/-! ## Registers at the start (R117) -/

/-- The start values of the s registers of a group of a workgroup. -/
def startUni (l : Launch) (lin grp s7 : Nat) : List Nat :=
  [l.karg.toNat, lin % l.gx, lin / l.gx % l.gy, lin / (l.gx * l.gy), grp, lin, l.groups, s7]

/-- Registers under successive numbers, from one on, set to listed values. -/
def putFrom (key : Nat → RegKey) (xs : List Nat) (n : Nat) (s : State) : State :=
  match xs with
  | [] => s
  | x :: xs => putFrom key xs (n + 1) (s.setReg (key n) (preload x))

theorem reg_putFrom_other {key : Nat → RegKey} {k : RegKey} (xs : List Nat) (n : Nat) (s : State) (h : ∀ i, n ≤ i → k ≠ key i) :
    (putFrom key xs n s).reg k = s.reg k := by
  induction xs generalizing n s with
  | nil => rfl
  | cons x xs ih => rw [putFrom, ih _ _ fun i hi => h i (by omega), reg_setReg, if_neg (h n (Nat.le_refl n))]

theorem reg_putFrom {key : Nat → RegKey} (hkey : ∀ i j, key i = key j → i = j) (xs : List Nat) (n : Nat) (s : State) {i x : Nat} (h : xs[i]? = some x) :
    (putFrom key xs n s).reg (key (n + i)) = preload x := by
  induction xs generalizing n s i with
  | nil => simp at h
  | cons y xs ih =>
    cases i with
    | zero =>
      obtain rfl : y = x := by simpa using h
      rw [putFrom, reg_putFrom_other _ _ _ fun i hi heq => by have := hkey _ _ heq; omega, Nat.add_zero, reg_setReg, if_pos rfl]
    | succ i =>
      rw [putFrom, show n + (i + 1) = n + 1 + i by omega]
      exact ih _ _ (by simpa using h)

theorem regsOnly_putFrom (key : Nat → RegKey) (xs : List Nat) (n : Nat) (s : State) : RegsOnly s (putFrom key xs n s) := by
  induction xs generalizing n s with
  | nil => exact .refl s
  | cons x xs ih => exact (regsOnly_setReg s _ _).trans (ih _ _)

/-- The v registers that hold the thread index and the lane, in the lowest lanes of a group. -/
def putLanes (w grp n : Nat) (s : State) : State :=
  (List.range n).foldl (fun (u : State) lane =>
    (u.setReg (.v w grp lane 0) (preload (32 * grp + lane))).setReg (.v w grp lane 1) (preload lane)) s

theorem putLanes_succ (w grp n : Nat) (s : State) : putLanes w grp (n + 1) s =
    ((putLanes w grp n s).setReg (.v w grp n 0) (preload (32 * grp + n))).setReg (.v w grp n 1) (preload n) := by
  rw [putLanes, List.range_succ, List.foldl_append]
  rfl

theorem reg_putLanes_other {w grp : Nat} {k : RegKey} (n : Nat) (s : State) (h : ∀ lane j, k ≠ .v w grp lane j) :
    (putLanes w grp n s).reg k = s.reg k := by
  induction n with
  | zero => rfl
  | succ n ih => rw [putLanes_succ, reg_setReg, if_neg (h n 1), reg_setReg, if_neg (h n 0), ih]

theorem reg_putLanes {w grp : Nat} {lane n : Nat} (s : State) (h : lane < n) :
    (putLanes w grp n s).reg (.v w grp lane 0) = preload (32 * grp + lane) ∧ (putLanes w grp n s).reg (.v w grp lane 1) = preload lane := by
  induction n with
  | zero => exact absurd h (Nat.not_lt_zero _)
  | succ n ih =>
    rw [putLanes_succ]
    by_cases hn : lane = n
    · subst hn
      simp [reg_setReg]
    · have hold := ih (by omega)
      simpa [reg_setReg, hn] using hold

theorem regsOnly_putLanes (w grp n : Nat) (s : State) : RegsOnly s (putLanes w grp n s) := by
  induction n with
  | zero => exact .refl s
  | succ n ih =>
    rw [putLanes_succ]
    exact (ih.trans (regsOnly_setReg _ _ _)).trans (regsOnly_setReg _ _ _)

theorem startRegs_eq (s : State) (w grp s7 : Nat) :
    s.startRegs w grp s7 = putLanes w grp 32 (putFrom (.s w grp) (startUni (s.launchOf w) (s.wg w).lin grp s7) 0 s) := rfl

/-! ## One group -/

/-- A group at its start. -/
def freshGroup (slot : Nat) (spawned : Bool) (block : Nat) : Group :=
  { Group.absent with present := true, spawned := spawned, slot := slot, block := block }

/-- Threads of the lowest lanes of a group at their start. -/
def putThreads (w grp n : Nat) (x : Thread) (s : State) : State :=
  (List.range n).foldl (fun (u : State) lane => u.setThread { wg := w, grp := grp, lane := lane } x) s

theorem putThreads_succ (w grp n : Nat) (x : Thread) (s : State) :
    putThreads w grp (n + 1) x s = (putThreads w grp n x s).setThread { wg := w, grp := grp, lane := n } x := by
  rw [putThreads, List.range_succ, List.foldl_append]
  rfl

theorem thread_putThreads (w grp n : Nat) (x : Thread) (s : State) (id : ThreadId) :
    (putThreads w grp n x s).thread id = if id.wg = w ∧ id.grp = grp ∧ id.lane < n then x else s.thread id := by
  induction n with
  | zero => rw [if_neg fun h => Nat.not_lt_zero _ h.2.2]; rfl
  | succ n ih =>
    rw [putThreads_succ, thread_setThread, ih]
    by_cases hid : id = { wg := w, grp := grp, lane := n }
    · subst hid
      simp
    · rw [if_neg hid]
      refine if_congr ⟨fun ⟨hw, hg, hl⟩ => ⟨hw, hg, by omega⟩, fun ⟨hw, hg, hl⟩ => ⟨hw, hg, ?_⟩⟩ rfl rfl
      have hlast : id.lane ≠ n := fun hl => hid (by rw [← hw, ← hg, ← hl])
      omega

/-- Threads set one after another change the list of threads alone. -/
theorem putThreads_keeps (w grp n : Nat) (x : Thread) (s : State) :
    StartsOnly s (putThreads w grp n x s) ∧ (putThreads w grp n x s).regs = s.regs ∧ (putThreads w grp n x s).groups = s.groups := by
  induction n with
  | zero => exact ⟨rfl, rfl, rfl⟩
  | succ n ih =>
    obtain ⟨honly, hregs, hgroups⟩ := ih
    rw [putThreads_succ]
    exact ⟨honly.trans rfl, hregs, hgroups⟩

/-- A key that some threads were set at. -/
theorem mem_keys_putThreads {w grp n : Nat} {x : Thread} {s : State} {id : ThreadId} (h : id ∈ (putThreads w grp n x s).threads.map (·.1)) :
    (id.wg = w ∧ id.grp = grp) ∨ id ∈ s.threads.map (·.1) := by
  induction n with
  | zero => exact .inr h
  | succ n ih =>
    rw [putThreads_succ] at h
    obtain ⟨e, he, rfl⟩ := List.mem_map.1 h
    rcases mem_of_mem_set he with rfl | he
    · exact .inl ⟨rfl, rfl⟩
    · exact ih (List.mem_map_of_mem he)

/-- A thread at the start of a group. -/
def freshThread (entry : Word) (priv : Bool) : Thread := { Thread.absent with live := true, pc := entry, priv := priv }

theorem startGroup_eq (s : State) (w grp n slot : Nat) (entry : Word) (spawned : Bool) (block s7 : Nat) :
    s.startGroup w grp n slot entry spawned block s7 =
      putThreads w grp n (freshThread entry (s.startPriv (s.ctxOf w) entry))
        ((s.setGroup { wg := w, grp := grp } (freshGroup slot spawned block)).startRegs w grp s7) := rfl

/-- What the start of a group leaves: the group, its threads, its registers, and everything else as it was. -/
structure StartsGroup (s t : State) (w grp n slot : Nat) (entry : Word) (spawned : Bool) (block s7 : Nat) : Prop where
  frame : StartsOnly s t
  groups : t.groups = FMap.set s.groups { wg := w, grp := grp } (freshGroup slot spawned block)
  thread : ∀ lane < n, (t.thread { wg := w, grp := grp, lane := lane }).live = true ∧ (t.thread { wg := w, grp := grp, lane := lane }).pc = entry
  threads : ∀ id : ThreadId, ¬(id.wg = w ∧ id.grp = grp) → t.thread id = s.thread id
  keys : ∀ id ∈ t.threads.map (·.1), (id.wg = w ∧ id.grp = grp) ∨ id ∈ s.threads.map (·.1)
  uni : ∀ i x, (startUni (s.launchOf w) (s.wg w).lin grp s7)[i]? = some x → t.reg (.s w grp i) = preload x
  lanes : ∀ lane < 32, t.reg (.v w grp lane 0) = preload (32 * grp + lane) ∧ t.reg (.v w grp lane 1) = preload lane
  regs : ∀ k, (∀ i, k ≠ .s w grp i) → (∀ lane j, k ≠ .v w grp lane j) → t.reg k = s.reg k

theorem startsGroup (s : State) (w grp n slot : Nat) (entry : Word) (spawned : Bool) (block s7 : Nat) :
    StartsGroup s (s.startGroup w grp n slot entry spawned block s7) w grp n slot entry spawned block s7 := by
  rw [startGroup_eq, startRegs_eq]
  generalize hx : freshThread entry (s.startPriv (s.ctxOf w) entry) = x
  generalize hu : s.setGroup { wg := w, grp := grp } (freshGroup slot spawned block) = u
  have huni : startUni (u.launchOf w) (u.wg w).lin grp s7 = startUni (s.launchOf w) (s.wg w).lin grp s7 := by rw [← hu]; rfl
  rw [huni]
  generalize hxs : startUni (s.launchOf w) (s.wg w).lin grp s7 = xs
  have hgroup : StartsOnly s u := by rw [← hu]; rfl
  have hgroups : u.groups = FMap.set s.groups { wg := w, grp := grp } (freshGroup slot spawned block) := by rw [← hu]; rfl
  have hthreads : u.threads = s.threads := by rw [← hu]; rfl
  have hregs (k : RegKey) : u.reg k = s.reg k := by rw [← hu]; rfl
  have honly := (regsOnly_putFrom (.s w grp) xs 0 u).trans (regsOnly_putLanes w grp 32 _)
  obtain ⟨hput, hputRegs, hputGroups⟩ := putThreads_keeps w grp n x (putLanes w grp 32 (putFrom (.s w grp) xs 0 u))
  have hreg (k : RegKey) : (putThreads w grp n x (putLanes w grp 32 (putFrom (.s w grp) xs 0 u))).reg k = (putLanes w grp 32 (putFrom (.s w grp) xs 0 u)).reg k := by
    rw [State.reg, hputRegs, State.reg]
  refine ⟨(hgroup.trans honly.frame).trans hput, hputGroups.trans (honly.groups.trans hgroups), fun lane hl => ?_, fun id hid => ?_, fun id hid => ?_,
    fun i x hi => ?_, fun lane hl => ?_, fun k hs hv => ?_⟩
  · rw [thread_putThreads, if_pos ⟨rfl, rfl, hl⟩, ← hx]
    exact ⟨rfl, rfl⟩
  · rw [thread_putThreads, if_neg fun h => hid ⟨h.1, h.2.1⟩, thread_congr (honly.threads.trans hthreads)]
  · have h := mem_keys_putThreads hid
    rwa [honly.threads.trans hthreads] at h
  · rw [hxs] at hi
    rw [hreg, reg_putLanes_other _ _ fun _ _ => by simp]
    have h := reg_putFrom (key := .s w grp) (fun i j hij => by simpa using hij) xs 0 u hi
    rwa [Nat.zero_add] at h
  · rw [hreg, hreg]
    exact reg_putLanes _ hl
  · rw [hreg, reg_putLanes_other _ _ hv, reg_putFrom_other _ _ _ fun i _ => hs _, hregs]

end Sys2Proof.Proofs
end

section
/-! Workgroups placed (R83 to R87, R115, R117, R138): one workgroup's groups, one workgroup, and a set in linear order. -/

namespace Sys2Proof.Proofs

open Sys2Proof Sys2Proof.Machine Sys2Proof.Laws

/-! ## Slots taken (R83, R126) -/

theorem mem_spawnedOf {s : State} {v : Nat} {g : GroupId} : g ∈ s.spawnedOf v ↔ (g ∈ s.groups.map (·.1) ∧ g.wg = v) ∧
    (s.group g).spawned = true ∧ ∃ id ∈ s.threads.map (·.1), id.wg = g.wg ∧ id.grp = g.grp ∧ (s.thread id).live = true := by
  have hlive : s.liveOf g ≠ [] ↔ ∃ id ∈ s.threads.map (·.1), id.wg = g.wg ∧ id.grp = g.grp ∧ (s.thread id).live = true := by
    rw [ne_eq, List.eq_nil_iff_forall_not_mem, not_forall_not]
    simp only [State.liveOf, State.threadsOf, List.mem_filter, beq_iff_eq, Bool.and_eq_true, and_assoc]
  rw [State.spawnedOf, State.groupsOf, List.mem_filter, List.mem_filter, Bool.and_eq_true, ← hlive]
  simp

/-- No spawned group stands in `t` that did not stand in `s`, in the same slot. -/
def SpawnedLess (s t : State) : Prop := ∀ v g, g ∈ t.spawnedOf v → g ∈ s.spawnedOf v ∧ (t.group g).slot = (s.group g).slot

theorem SpawnedLess.refl (s : State) : SpawnedLess s s := fun _ _ h => ⟨h, rfl⟩

theorem SpawnedLess.trans {s t u : State} (h : SpawnedLess s t) (k : SpawnedLess t u) : SpawnedLess s u := fun v g hg =>
  have ⟨hmid, hslot⟩ := k v g hg
  have ⟨hold, hslot'⟩ := h v g hmid
  ⟨hold, hslot.trans hslot'⟩

theorem SpawnedLess.congr {s t u : State} (h : SpawnedLess s t) (hg : u.groups = t.groups) (ht : u.threads = t.threads) : SpawnedLess s u := by
  intro v g hmem
  have hthread (id : ThreadId) := thread_congr ht id
  have hgroup (g : GroupId) := group_congr_of hg g
  rw [mem_spawnedOf, hg, ht] at hmem
  simp only [hthread, hgroup] at hmem ⊢
  exact h v g (mem_spawnedOf.2 hmem)

/-- A group that starts at launch is not a spawned one. -/
theorem StartsGroup.spawnedLess {s t : State} {w grp n slot : Nat} {entry : Word} {block s7 : Nat}
    (h : StartsGroup s t w grp n slot entry false block s7) : SpawnedLess s t := by
  intro v g hg
  have hgroup (x : GroupId) : t.group x = if x = { wg := w, grp := grp } then freshGroup slot false block else s.group x := by
    rw [State.group, h.groups, getD_set, State.group]
  obtain ⟨⟨hkey, hwg⟩, hspawned, id, hid, hidwg, hidgrp, hlive⟩ := mem_spawnedOf.1 hg
  have hne : g ≠ { wg := w, grp := grp } := by
    intro heq
    rw [hgroup, if_pos heq] at hspawned
    exact nomatch hspawned
  have hapart : ¬(id.wg = w ∧ id.grp = grp) := fun ⟨hw, hgrp⟩ => hne (by
    obtain ⟨gw, gg⟩ := g
    rw [← hw, ← hgrp, hidwg, hidgrp])
  rw [hgroup, if_neg hne] at hspawned ⊢
  rw [h.threads id hapart] at hlive
  refine ⟨mem_spawnedOf.2 ⟨⟨?_, hwg⟩, hspawned, id, (h.keys id hid).resolve_left hapart, hidwg, hidgrp, hlive⟩, rfl⟩
  rw [h.groups] at hkey
  obtain ⟨e, he, rfl⟩ := List.mem_map.1 hkey
  rcases mem_of_mem_set he with rfl | he
  · exact absurd rfl hne
  · exact List.mem_map_of_mem he

theorem mem_usedSlots {s : State} {c a : Nat} : a ∈ s.usedSlots c ↔
    ∃ e ∈ s.wgs, (e.2.isResident = true ∧ e.2.core = c) ∧ (a ∈ e.2.slots ∨ ∃ g ∈ s.spawnedOf e.1, (s.group g).slot = a) := by
  simp only [State.usedSlots, State.residents, List.mem_flatMap, List.mem_filter, Bool.and_eq_true, beq_iff_eq, List.mem_append, List.mem_map, and_assoc]

/-- Where no more slots are taken, no fewer are free. -/
theorem freeSlots_le {s t : State} {c : Nat} (h : ∀ a ∈ t.usedSlots c, a ∈ s.usedSlots c) : (s.freeSlots c).length ≤ (t.freeSlots c).length := by
  refine (List.Sublist.length_le ?_)
  refine List.monotone_filter_right _ fun a ha => ?_
  simp only [Bool.not_eq_true', List.contains_eq_mem, decide_eq_false_iff_not] at ha ⊢
  exact fun hmem => ha (h a hmem)

/-! ## The groups of one workgroup -/

/-- The groups of a workgroup of a launch started, each in its slot. -/
def startGroups (s : State) (w : Nat) (l : Launch) (ys : List (Nat × Nat)) : State :=
  ys.foldl (fun (u : State) y =>
    (u.startGroup w y.2 (min 32 (l.threads - 32 * y.2)) y.1 l.entry false 0 0).startView l.cmd (.group w y.2)) s

/-- The workgroup of a register. -/
def keyWg : RegKey → Nat
  | .v w _ _ _ => w
  | .s w _ _ => w
  | .h w _ => w

/-- A group of a new workgroup with its threads and preloaded registers (R115, R117). -/
structure GroupUp (t : State) (l : Launch) (w lin grp : Nat) : Prop where
  thread : ∀ lane < min 32 (l.threads - 32 * grp),
    (t.thread { wg := w, grp := grp, lane := lane }).live = true ∧ (t.thread { wg := w, grp := grp, lane := lane }).pc = l.entry
  uni : ∀ i x, (startUni l lin grp 0)[i]? = some x → t.reg (.s w grp i) = preload x
  lanes : ∀ lane < 32, t.reg (.v w grp lane 0) = preload (32 * grp + lane) ∧ t.reg (.v w grp lane 1) = preload lane

/-- `t` has the threads and registers of a group as they are in `s`. -/
structure KeepsGroup (s t : State) (w grp : Nat) : Prop where
  thread : ∀ lane, t.thread { wg := w, grp := grp, lane := lane } = s.thread { wg := w, grp := grp, lane := lane }
  uni : ∀ i, t.reg (.s w grp i) = s.reg (.s w grp i)
  lanes : ∀ lane j, t.reg (.v w grp lane j) = s.reg (.v w grp lane j)

theorem KeepsGroup.refl (s : State) (w grp : Nat) : KeepsGroup s s w grp := ⟨fun _ => rfl, fun _ => rfl, fun _ _ => rfl⟩

theorem KeepsGroup.trans {s t u : State} {w grp : Nat} (h : KeepsGroup s t w grp) (k : KeepsGroup t u w grp) : KeepsGroup s u w grp :=
  ⟨fun lane => (k.thread lane).trans (h.thread lane), fun i => (k.uni i).trans (h.uni i), fun lane j => (k.lanes lane j).trans (h.lanes lane j)⟩

theorem GroupUp.keeps {t u : State} {l : Launch} {w lin grp : Nat} (h : GroupUp t l w lin grp) (k : KeepsGroup t u w grp) : GroupUp u l w lin grp := by
  refine ⟨fun lane hl => ?_, fun i x hi => ?_, fun lane hl => ?_⟩
  · rw [k.thread]
    exact h.thread lane hl
  · rw [k.uni]
    exact h.uni i x hi
  · rw [k.lanes, k.lanes]
    exact h.lanes lane hl

theorem StartsGroup.view {s t : State} {w grp n slot : Nat} {entry : Word} {spawned : Bool} {block s7 : Nat}
    (h : StartsGroup s t w grp n slot entry spawned block s7) (cmd : Nat) (who : Party) :
    StartsGroup s (t.startView cmd who) w grp n slot entry spawned block s7 :=
  ⟨h.frame.trans rfl, h.groups, h.thread, h.threads, h.keys, h.uni, h.lanes, h.regs⟩

theorem StartsGroup.keepsGroup {s t : State} {w grp n slot : Nat} {entry : Word} {spawned : Bool} {block s7 : Nat}
    (h : StartsGroup s t w grp n slot entry spawned block s7) {v g : Nat} (hne : ¬(v = w ∧ g = grp)) : KeepsGroup s t v g :=
  ⟨fun _ => h.threads _ hne, fun i => h.regs _ (fun j heq => hne (by simp_all)) fun _ _ => by simp,
    fun lane j => h.regs _ (fun _ => by simp) fun _ _ heq => hne (by simp_all)⟩

theorem StartsGroup.helmReg {s t : State} {w grp n slot : Nat} {entry : Word} {spawned : Bool} {block s7 : Nat}
    (h : StartsGroup s t w grp n slot entry spawned block s7) (v i : Nat) : t.reg (.h v i) = s.reg (.h v i) :=
  h.regs _ (fun _ => by simp) fun _ _ => by simp

theorem StartsOnly.launchOf {s t : State} (h : StartsOnly s t) (w : Nat) : t.launchOf w = s.launchOf w := by rw [h]; rfl
theorem StartsOnly.wg {s t : State} (h : StartsOnly s t) (w : Nat) : t.wg w = s.wg w := by rw [h]; rfl

/-- What starting the groups of a workgroup leaves: each of them up, and the groups of others and all Helm registers as they were. -/
structure StartsGroups (s t : State) (w : Nat) (l : Launch) (lin : Nat) (grps : List Nat) : Prop where
  only : StartsOnly s t
  spawned : SpawnedLess s t
  up : ∀ grp ∈ grps, GroupUp t l w lin grp
  others : ∀ v grp, ¬(v = w ∧ grp ∈ grps) → KeepsGroup s t v grp
  helms : ∀ v i, t.reg (.h v i) = s.reg (.h v i)

theorem startsGroups (w : Nat) (l : Launch) (lin : Nat) (ys : List (Nat × Nat)) (hn : (ys.map (·.2)).Nodup) (s : State)
    (hl : ∀ grp, startUni (s.launchOf w) (s.wg w).lin grp 0 = startUni l lin grp 0) :
    StartsGroups s (startGroups s w l ys) w l lin (ys.map (·.2)) := by
  induction ys generalizing s with
  | nil => exact ⟨rfl, .refl s, nofun, fun v grp _ => .refl s v grp, fun _ _ => rfl⟩
  | cons y ys ih =>
    obtain ⟨hfresh, hn⟩ := List.nodup_cons.1 hn
    have hone := (startsGroup s w y.2 (min 32 (l.threads - 32 * y.2)) y.1 l.entry false 0 0).view l.cmd (.group w y.2)
    have hrest := ih hn _ fun grp => by rw [hone.frame.launchOf, hone.frame.wg]; exact hl grp
    refine ⟨hone.frame.trans hrest.only, hone.spawnedLess.trans hrest.spawned, fun grp hgrp => ?_, fun v grp hout => ?_,
      fun v i => (hrest.helms v i).trans (hone.helmReg v i)⟩
    · rcases List.mem_cons.1 hgrp with rfl | hgrp
      · have hup : GroupUp _ l w lin y.2 := ⟨hone.thread, fun i x hi => hone.uni i x (by rwa [hl]), hone.lanes⟩
        exact hup.keeps (hrest.others w y.2 fun h => hfresh h.2)
      · exact hrest.up grp hgrp
    · have hy : ¬(v = w ∧ grp = y.2) := fun ⟨hv, hg⟩ => hout ⟨hv, hg ▸ List.mem_cons_self⟩
      exact (hone.keepsGroup hy).trans (hrest.others v grp fun ⟨hv, hg⟩ => hout ⟨hv, List.mem_cons_of_mem _ hg⟩)

/-! ## One workgroup -/

/-- The entry of a new workgroup. -/
def newWg (s : State) (id lin core : Nat) : Workgroup :=
  let l := s.launch id
  let die := dieOfCore core
  { Workgroup.absent with
    launch := id, lin := lin, set := lin / (l.rset + 1), core := core, status := .resident, slots := (s.freeSlots core).take l.groups
    helmNo := (s.freeHelms core).headD 0, share := (if l.det then some die else none), nextGroup := l.groups
    bars := (List.range l.barsN).map (fun n => (n, { Barrier.reset with expect := BitVec.ofNat 11 (l.threads + (if l.helm = 0 then 0 else 1)) }))
    placedAt := s.nextId, heldForPoint := s.waitsForPoint l die }

/-- A launch with one more workgroup, on a die. -/
def placedLaunch (l : Launch) (die : Nat) : Launch := { l.seeDie die with next := l.next + 1, live := l.live + 1 }

/-- A new Helm. -/
def newHelm (l : Launch) (number : Nat) : Helm := { Helm.absent with running := l.helm != 0, pc := l.helm, number := number }

/-- The start values of a Helm's registers. -/
def startHelm (l : Launch) (lin : Nat) : List Nat := [l.karg.toNat, lin, lin % l.gx, lin / l.gx % l.gy, lin / (l.gx * l.gy)]

/-- A workgroup entered on a core, with its launch and its Helm, before its registers are preloaded. -/
def entered (s : State) (id lin core : Nat) : State :=
  ((({ s with nextId := s.nextId + 1 }).setWg s.nextId (newWg s id lin core)).setLaunch id (placedLaunch (s.launch id) (dieOfCore core))).setHelm
    s.nextId (newHelm (s.launch id) (newWg s id lin core).helmNo)

/-- The same with the registers of its Helm and what its Helm sees: its groups have still to start. -/
def seated (s : State) (id lin core : Nat) : State :=
  (putFrom (.h s.nextId) (startHelm (placedLaunch (s.launch id) (dieOfCore core)) lin) 0 (entered s id lin core)).startView (s.launch id).cmd (.helm s.nextId)

theorem launchOf_entered (s : State) (id lin core : Nat) : (entered s id lin core).launchOf s.nextId = placedLaunch (s.launch id) (dieOfCore core) := by
  rw [entered, State.launchOf, wg_setHelm, wg_setLaunch, wg_setWg_same, launch_setHelm]
  exact launch_setLaunch_same _ _ _

theorem wg_entered (s : State) (id lin core v : Nat) : (entered s id lin core).wg v = if v = s.nextId then newWg s id lin core else s.wg v := by
  rw [entered, wg_setHelm, wg_setLaunch, wg_setWg]
  rfl

theorem placeOne_eq (s : State) (id lin core : Nat) :
    s.placeOne id lin core = startGroups (seated (s.takeRidge id core) id lin core) (s.takeRidge id core).nextId ((s.takeRidge id core).launch id)
      ((newWg (s.takeRidge id core) id lin core).slots.zip (List.range ((s.takeRidge id core).launch id).groups)) := by
  have hhelm (u : State) : (entered u id lin core).startHelmRegs u.nextId =
      putFrom (.h u.nextId) (startHelm (placedLaunch (u.launch id) (dieOfCore core)) lin) 0 (entered u id lin core) := by
    show putFrom (.h u.nextId) (startHelm ((entered u id lin core).launchOf u.nextId) ((entered u id lin core).wg u.nextId).lin) 0 _ = _
    rw [launchOf_entered, wg_entered, if_pos rfl]
    rfl
  rw [seated, ← hhelm]
  rfl

/-- `t` has a workgroup, its Helm, its threads and its registers as they are in `s`. -/
structure Untouched (v : Nat) (s t : State) : Prop where
  wg : t.wg v = s.wg v
  helm : t.helm v = s.helm v
  threads : ∀ id : ThreadId, id.wg = v → t.thread id = s.thread id
  regs : ∀ k, keyWg k = v → t.reg k = s.reg k

theorem Untouched.trans {v : Nat} {s t u : State} (h : Untouched v s t) (k : Untouched v t u) : Untouched v s u :=
  ⟨k.wg.trans h.wg, k.helm.trans h.helm, fun id hid => (k.threads id hid).trans (h.threads id hid), fun x hx => (k.regs x hx).trans (h.regs x hx)⟩

theorem Untouched.keepsGroup {v : Nat} {s t : State} (h : Untouched v s t) (grp : Nat) : KeepsGroup s t v grp :=
  ⟨fun _ => h.threads _ rfl, fun _ => h.regs _ rfl, fun _ _ => h.regs _ rfl⟩

/-- A workgroup of a launch that stands on a core with its barriers, its Helm and its groups (R83, R115, R117, R138). -/
structure Placed (t : State) (l : Launch) (id w lin core : Nat) : Prop where
  wg : (t.wg w).launch = id ∧ (t.wg w).lin = lin ∧ (t.wg w).core = core ∧ (t.wg w).status = .resident
  bars : ∀ b < l.barsN, (t.bar w b).expect = BitVec.ofNat 11 (l.threads + if l.helm = 0 then 0 else 1) ∧ (t.bar w b).arrived = 0
  helm : (t.helm w).running = (l.helm != 0) ∧ (t.helm w).pc = l.helm
  regs : t.reg (.h w 0) = preload l.karg.toNat ∧ t.reg (.h w 1) = preload lin
  groups : ∀ grp < l.groups, GroupUp t l w lin grp

theorem Placed.untouched {t u : State} {l : Launch} {id w lin core : Nat} (h : Placed t l id w lin core) (k : Untouched w t u) : Placed u l id w lin core := by
  have hbar (b : Nat) : u.bar w b = t.bar w b := by rw [State.bar, k.wg, State.bar]
  refine ⟨by rw [k.wg]; exact h.wg, fun b hb => by rw [hbar]; exact h.bars b hb, by rw [k.helm]; exact h.helm, ?_,
    fun grp hgrp => (h.groups grp hgrp).keeps (k.keepsGroup grp)⟩
  rw [k.regs _ rfl, k.regs _ rfl]
  exact h.regs

/-- What placing one workgroup leaves. -/
structure PlacesOne (s t : State) (id lin core : Nat) : Prop where
  nextId : t.nextId = s.nextId + 1
  launch : ∃ d, t.launch id = { s.launch id with next := (s.launch id).next + 1, live := (s.launch id).live + 1, dieSeen := d }
  slots : ∀ c, c ≠ core → ∀ a ∈ t.usedSlots c, a ∈ s.usedSlots c
  others : ∀ v, v ≠ s.nextId → Untouched v s t
  placed : Placed t (s.launch id) id s.nextId lin core

theorem find_map_const {α : Type} (v : α) (xs : List Nat) {k : Nat} (h : k ∈ xs) : FMap.find (xs.map fun n => (n, v)) k = some v := by
  induction xs with
  | nil => nomatch h
  | cons x xs ih =>
    rw [List.map_cons, FMap.find]
    by_cases hx : x = k
    · rw [if_pos hx]
    · rw [if_neg hx]
      exact ih ((List.mem_cons.1 h).resolve_left (Ne.symm hx))

theorem seated_only (s : State) (id lin core : Nat) : StartsOnly (entered s id lin core) (seated s id lin core) :=
  (regsOnly_putFrom _ _ 0 _).frame.trans rfl

theorem threads_seated (s : State) (id lin core : Nat) : (seated s id lin core).threads = s.threads := (regsOnly_putFrom _ _ 0 _).threads
theorem groups_seated (s : State) (id lin core : Nat) : (seated s id lin core).groups = s.groups := (regsOnly_putFrom _ _ 0 _).groups

theorem reg_seated_other {s : State} {id lin core : Nat} {k : RegKey} (h : keyWg k ≠ s.nextId) : (seated s id lin core).reg k = s.reg k :=
  reg_putFrom_other _ _ _ fun _ _ heq => h (by rw [heq]; rfl)

theorem reg_seated_helm {s : State} {id lin core i x : Nat} (h : (startHelm (s.launch id) lin)[i]? = some x) :
    (seated s id lin core).reg (.h s.nextId i) = preload x := by
  have := reg_putFrom (key := .h s.nextId) (fun i j hij => by simpa using hij) (startHelm (placedLaunch (s.launch id) (dieOfCore core)) lin) 0
    (entered s id lin core) (i := i) (x := x) h
  rwa [Nat.zero_add] at this

/-- A workgroup that finds its slots stands there once it is entered and its groups have started. -/
theorem places_seated {s : State} {id lin core : Nat} (hfit : (s.launch id).groups ≤ (s.freeSlots core).length) :
    PlacesOne s (startGroups (seated s id lin core) s.nextId (s.launch id) ((newWg s id lin core).slots.zip (List.range (s.launch id).groups)))
      id lin core := by
  have hsnd : ((newWg s id lin core).slots.zip (List.range (s.launch id).groups)).map (·.2) = List.range (s.launch id).groups :=
    List.map_snd_zip (by
      show (List.range _).length ≤ ((s.freeSlots core).take (s.launch id).groups).length
      rw [List.length_range, List.length_take]
      omega)
  have hwg := wg_entered s id lin core
  have hseated := seated_only s id lin core
  have hG := startsGroups s.nextId (s.launch id) lin ((newWg s id lin core).slots.zip (List.range (s.launch id).groups))
    (by rw [hsnd]; exact List.nodup_range) (seated s id lin core) (fun grp => by
      rw [hseated.launchOf, hseated.wg, launchOf_entered, hwg, if_pos rfl]
      rfl)
  generalize startGroups (seated s id lin core) s.nextId (s.launch id) ((newWg s id lin core).slots.zip (List.range (s.launch id).groups)) = t at hG
  rw [hsnd] at hG
  have honly := hseated.trans hG.only
  have hwgs (v : Nat) : t.wg v = if v = s.nextId then newWg s id lin core else s.wg v := (honly.wg v).trans (hwg v)
  have hhelm (v : Nat) : t.helm v = if v = s.nextId then newHelm (s.launch id) (newWg s id lin core).helmNo else s.helm v := by
    rw [honly]
    exact helm_setHelm _ _ _ _
  have hspawned : SpawnedLess s t := ((SpawnedLess.refl s).congr (groups_seated s id lin core) (threads_seated s id lin core)).trans hG.spawned
  refine ⟨?_, ?_, fun c hc a ha => ?_, fun v hv => ⟨?_, ?_, fun i hi => ?_, fun k hk => ?_⟩, ⟨?_, fun b hb => ?_, ?_, ⟨?_, ?_⟩, fun grp hgrp => ?_⟩⟩
  · rw [honly]
    rfl
  · refine ⟨((s.launch id).seeDie (dieOfCore core)).dieSeen, ?_⟩
    rw [honly]
    exact launch_setLaunch_same _ _ _
  · obtain ⟨e, he, ⟨hres, hcore⟩, htaken⟩ := mem_usedSlots.1 ha
    have hlist : t.wgs = FMap.set s.wgs s.nextId (newWg s id lin core) := by
      rw [honly]
      rfl
    rw [hlist] at he
    rcases mem_of_mem_set he with rfl | he
    · exact absurd hcore.symm hc
    · refine mem_usedSlots.2 ⟨e, he, ⟨hres, hcore⟩, htaken.imp_right fun ⟨g, hg, hslot⟩ => ?_⟩
      obtain ⟨hold, hsame⟩ := hspawned _ _ hg
      exact ⟨g, hold, hsame ▸ hslot⟩
  · rw [hwgs, if_neg hv]
  · rw [hhelm, if_neg hv]
  · obtain ⟨iw, ig, il⟩ := i
    have hkeep := (hG.others iw ig fun h => hv (hi.symm.trans h.1)).thread il
    exact hkeep.trans (thread_congr (threads_seated s id lin core) _)
  · refine Eq.trans ?_ (reg_seated_other (lin := lin) (id := id) (core := core) (hk ▸ hv))
    cases k with
    | v w g lane j => exact (hG.others w g fun h => hv (hk.symm.trans h.1)).lanes lane j
    | s w g j => exact (hG.others w g fun h => hv (hk.symm.trans h.1)).uni j
    | h w j => exact hG.helms w j
  · rw [hwgs, if_pos rfl]
    exact ⟨rfl, rfl, rfl, rfl⟩
  · rw [State.bar, hwgs, if_pos rfl]
    have hfind : FMap.find (newWg s id lin core).bars b = some _ := find_map_const _ _ (List.mem_range.2 hb)
    rw [FMap.getD, hfind]
    exact ⟨rfl, rfl⟩
  · rw [hhelm, if_pos rfl]
    exact ⟨rfl, rfl⟩
  · exact (hG.helms _ _).trans (reg_seated_helm rfl)
  · exact (hG.helms _ _).trans (reg_seated_helm rfl)
  · exact hG.up grp (List.mem_range.2 hgrp)

/-- What placing does to Ridge memory. -/
theorem takeRidge_frame (s : State) (id core : Nat) : s.takeRidge id core = { s with
    mem := (s.takeRidge id core).mem, poison := (s.takeRidge id core).poison, hist := (s.takeRidge id core).hist
    emptyLines := (s.takeRidge id core).emptyLines } := by
  unfold State.takeRidge
  dsimp only
  split <;> rfl

theorem placesOne {s : State} {id lin core : Nat} (hfit : (s.launch id).groups ≤ (s.freeSlots core).length) :
    PlacesOne s (s.placeOne id lin core) id lin core := by
  rw [placeOne_eq, takeRidge_frame]
  have h := places_seated (s := { s with
    mem := (s.takeRidge id core).mem, poison := (s.takeRidge id core).poison, hist := (s.takeRidge id core).hist
    emptyLines := (s.takeRidge id core).emptyLines }) (id := id) (lin := lin) (core := core) hfit
  exact ⟨h.nextId, h.launch, h.slots, fun v hv => ⟨(h.others v hv).wg, (h.others v hv).helm, (h.others v hv).threads, (h.others v hv).regs⟩, h.placed⟩

/-! ## A set -/

/-- What placing workgroups of a launch on cores leaves: each stands, under successive numbers. -/
structure PlacesAll (s t : State) (id : Nat) (xs : List (Nat × Nat)) : Prop where
  nextId : t.nextId = s.nextId + xs.length
  launch : ∃ d, t.launch id = { s.launch id with next := (s.launch id).next + xs.length, live := (s.launch id).live + xs.length, dieSeen := d }
  others : ∀ v, v < s.nextId → Untouched v s t
  placed : ∀ j lin core, xs[j]? = some (lin, core) → Placed t (s.launch id) id (s.nextId + j) lin core

theorem placesAll {id : Nat} (xs : List (Nat × Nat)) (s : State) (hn : (xs.map (·.2)).Nodup)
    (hfit : ∀ x ∈ xs, (s.launch id).groups ≤ (s.freeSlots x.2).length) :
    PlacesAll s (xs.foldl (fun (t : State) x => t.placeOne id x.1 x.2) s) id xs := by
  induction xs generalizing s with
  | nil => exact ⟨rfl, ⟨(s.launch id).dieSeen, rfl⟩, fun _ _ => ⟨rfl, rfl, fun _ _ => rfl, fun _ _ => rfl⟩, fun j _ _ h => by simp at h⟩
  | cons x xs ih =>
    obtain ⟨hfresh, hn⟩ := List.nodup_cons.1 hn
    have hone := placesOne (lin := x.1) (hfit x List.mem_cons_self)
    obtain ⟨d, hlaunch⟩ := hone.launch
    have hgroups : ((s.placeOne id x.1 x.2).launch id).groups = (s.launch id).groups := by rw [hlaunch]; rfl
    have hrest := ih (s.placeOne id x.1 x.2) hn fun y hy => by
      have hapart : y.2 ≠ x.2 := fun h => hfresh (List.mem_map.2 ⟨y, hy, h⟩)
      rw [hgroups]
      exact (hfit y (List.mem_cons_of_mem _ hy)).trans (freeSlots_le (hone.slots y.2 hapart))
    have hnext := hone.nextId
    refine ⟨?_, ?_, fun v hv => (hone.others v (by omega)).trans (hrest.others v (by omega)), fun j lin core hj => ?_⟩
    · show (xs.foldl _ (s.placeOne id x.1 x.2)).nextId = _
      rw [hrest.nextId, hnext, List.length_cons]
      omega
    · obtain ⟨e, hlast⟩ := hrest.launch
      refine ⟨e, ?_⟩
      show (xs.foldl _ (s.placeOne id x.1 x.2)).launch id = _
      rw [hlast, hlaunch, List.length_cons]
      simp only [Nat.add_assoc, Nat.add_comm 1]
    · cases j with
      | zero =>
        obtain ⟨rfl, rfl⟩ : x.1 = lin ∧ x.2 = core := by simpa [Prod.ext_iff] using hj
        exact hone.placed.untouched (hrest.others _ (by omega))
      | succ j =>
        have h := hrest.placed j lin core (by simpa using hj)
        rw [hlaunch, hnext] at h
        rw [show s.nextId + (j + 1) = s.nextId + 1 + j by omega]
        exact ⟨h.wg, h.bars, h.helm, h.regs, fun grp hgrp => ⟨(h.groups grp hgrp).thread, (h.groups grp hgrp).uni, (h.groups grp hgrp).lanes⟩⟩

end Sys2Proof.Proofs
end

section
/-! Workgroups restored or killed for a damaged record, and the start of a spawned group (R109, R124 to R127). -/

namespace Sys2Proof.Proofs

open Sys2Proof Sys2Proof.Machine Sys2Proof.Laws

/-! ## A saved set that comes back (R109) -/

/-- What the return of one workgroup leaves. -/
structure RestoresOne (s t : State) (w core : Nat) : Prop where
  stands : (t.wg w).status = .resident ∧ (t.wg w).core = core ∧ (t.wg w).lin = (s.wg w).lin ∧ (t.wg w).bars = (s.wg w).bars
  others : ∀ v, v ≠ w → t.wg v = s.wg v
  regs : t.regs = s.regs
  threads : t.threads = s.threads

theorem reslot_frame (s : State) (w : Nat) (slots : List Nat) : s.reslot w slots = { s with groups := (s.reslot w slots).groups } := by
  have hfold (xs : List (GroupId × Nat)) (u : State) : xs.foldl (fun (t : State) x => t.setGroup x.1 { t.group x.1 with slot := x.2 }) u =
      { u with groups := (xs.foldl (fun (t : State) x => t.setGroup x.1 { t.group x.1 with slot := x.2 }) u).groups } := by
    induction xs generalizing u with
    | nil => rfl
    | cons x xs ih =>
      rw [List.foldl_cons, ih]
      rfl
  exact hfold _ s

/-- The workgroup on its new core, before its registers of the unit are named anew: its log moved, its groups in new slots, its bins put back. -/
def broughtBack (s : State) (w core : Nat) : State :=
  ((s.moveLog w core).reslot w ((s.freeSlots core).drop (s.launchOf w).groups)).putBins w core

theorem broughtBack_keeps (s : State) (w core : Nat) : let t := broughtBack s w core
    (∃ bins, ∀ v, t.wg v = if v = w then { s.wg w with savedBins := bins } else s.wg v) ∧ t.regs = s.regs ∧ t.threads = s.threads := by
  intro t
  have ht : t = ((s.moveLog w core).reslot w ((s.freeSlots core).drop (s.launchOf w).groups)).putBins w core := rfl
  rw [reslot_frame] at ht
  rw [ht]
  exact ⟨⟨_, fun v => wg_setWg _ w v _⟩, rfl, rfl⟩

/-- The entry in `t`, where the workgroup is brought back, of a workgroup that is back on a core. -/
def returnedWg (s t : State) (w core : Nat) : Workgroup :=
  let l := s.launchOf w
  let die := dieOfCore core
  let first := if dieOfCore (s.coreOf w) = die then (s.wg w).heldForPoint else !l.dieSeen.contains die
  { t.wg w with
    core := core, status := .resident, slots := (s.freeSlots core).take l.groups, helmNo := (t.freeHelms core).headD 0, placedAt := t.nextId, eager := none
    heldForPoint := first && s.belowPoint l die }

/-- `t`, where the workgroup is brought back, with its entry, its launch and its Helm on the core. -/
def returnTo (s t : State) (w core : Nat) : State :=
  let u := t.setWg w (returnedWg s t w core)
  let u := u.setLaunch (u.wg w).launch ((u.launchOf w).seeDie (dieOfCore core))
  ({ u with nextId := u.nextId + 1 }).setHelm w { u.helm w with number := (t.freeHelms core).headD 0 }

theorem restoreOne_eq (s : State) (w core : Nat) : s.restoreOne w core = returnTo s (broughtBack s w core) w core := by
  unfold State.restoreOne returnTo returnedWg broughtBack
  rfl

theorem returnTo_keeps (s t : State) (w core : Nat) : (returnTo s t w core).wgs = FMap.set t.wgs w (returnedWg s t w core) ∧
    (returnTo s t w core).regs = t.regs ∧ (returnTo s t w core).threads = t.threads := by
  generalize hx : returnedWg s t w core = x
  rw [returnTo, hx]
  exact ⟨rfl, rfl, rfl⟩

theorem restoresOne (s : State) (w core : Nat) : RestoresOne s (s.restoreOne w core) w core := by
  obtain ⟨⟨bins, hwgs⟩, hregs, hthreads⟩ := broughtBack_keeps s w core
  obtain ⟨hset, hregs', hthreads'⟩ := returnTo_keeps s (broughtBack s w core) w core
  rw [← restoreOne_eq] at hset hregs' hthreads'
  have hwg (v : Nat) : (s.restoreOne w core).wg v = if v = w then returnedWg s (broughtBack s w core) w core else (broughtBack s w core).wg v := by
    rw [State.wg, hset]
    exact getD_set _ _ _ _ _
  refine ⟨?_, fun v hv => ?_, hregs'.trans hregs, hthreads'.trans hthreads⟩
  · rw [hwg, if_pos rfl]
    refine ⟨rfl, rfl, ?_, ?_⟩
    · show ((broughtBack s w core).wg w).lin = _
      rw [hwgs, if_pos rfl]
    · show ((broughtBack s w core).wg w).bars = _
      rw [hwgs, if_pos rfl]
  · rw [hwg, if_neg hv, hwgs, if_neg hv]

/-- What the return of workgroups to cores leaves: each stands on its core. -/
theorem restoresAll (xs : List (Nat × Nat)) (hn : (xs.map (·.1)).Nodup) (s : State) :
    let t := xs.foldl (fun (u : State) x => u.restoreOne x.1 x.2) s
    (∀ x ∈ xs, (t.wg x.1).status = .resident ∧ (t.wg x.1).core = x.2 ∧ (t.wg x.1).lin = (s.wg x.1).lin ∧ (t.wg x.1).bars = (s.wg x.1).bars) ∧
    (∀ v, v ∉ xs.map (·.1) → t.wg v = s.wg v) ∧ t.regs = s.regs ∧ t.threads = s.threads := by
  induction xs generalizing s with
  | nil => exact ⟨nofun, fun _ _ => rfl, rfl, rfl⟩
  | cons a xs ih =>
    obtain ⟨hfresh, hn⟩ := List.nodup_cons.1 hn
    have hone := restoresOne s a.1 a.2
    obtain ⟨hstand, hothers, hregs, hthreads⟩ := ih hn (s.restoreOne a.1 a.2)
    refine ⟨fun x hx => ?_, fun v hv => ?_, hregs.trans hone.regs, hthreads.trans hone.threads⟩
    · rcases List.mem_cons.1 hx with rfl | hx
      · rw [List.foldl_cons, hothers _ hfresh]
        exact hone.stands
      · have h := hstand x hx
        rwa [hone.others x.1 fun heq => hfresh (List.mem_map.2 ⟨x, hx, heq⟩)] at h
    · rw [List.map_cons, List.mem_cons, not_or] at hv
      exact (hothers v hv.2).trans (hone.others v hv.1)

/-- Ridge memory that follows a set touches neither workgroups nor registers nor threads. -/
theorem shiftRidge_keeps (s : State) (src dst : Nat) (keep : Bool) (ws : List Nat) : let t := s.shiftRidge src dst keep ws
    t.wgs = s.wgs ∧ t.regs = s.regs ∧ t.threads = s.threads := by
  cases keep <;> exact ⟨rfl, rfl, rfl⟩

/-! ## Damaged records (R109) -/

/-- `t` has the status of a workgroup as `s` has, and whether it is killed. -/
def SameStanding (v : Nat) (s t : State) : Prop := (t.wg v).status = (s.wg v).status ∧ (t.wg v).killed = (s.wg v).killed

theorem SameStanding.trans {v : Nat} {s t u : State} (h : SameStanding v s t) (k : SameStanding v t u) : SameStanding v s u :=
  ⟨k.1.trans h.1, k.2.trans h.2⟩

theorem SameStanding.of_wgs {v : Nat} {s t : State} (h : t.wgs = s.wgs) : SameStanding v s t := by
  rw [SameStanding, State.wg, h]
  exact ⟨rfl, rfl⟩

theorem BarrierMoves.standing {s t : State} (h : BarrierMoves s t) (v : Nat) : SameStanding v s t := by
  obtain ⟨bs, h⟩ := h.wgs v
  rw [SameStanding, h]
  exact ⟨rfl, rfl⟩

theorem sameStanding_endThread (s : State) (id : ThreadId) (v : Nat) : SameStanding v s (s.endThread id) := by
  cases hlive : (s.thread id).live with
  | false =>
    rw [endThread_dead hlive]
    exact ⟨rfl, rfl⟩
  | true =>
    rw [endThread_live hlive, releaseTaker_frame]
    exact (SameStanding.of_wgs (t := s.setThread id (endedThread (s.thread id))) rfl).trans ((barrierMoves_exitBars _ id (s.thread id).arrived).standing v)

theorem sameStanding_settleWg (s : State) {w v : Nat} (h : v ≠ w) : SameStanding v s (s.settleWg w) := by
  rw [SameStanding, (wgEnds_settleWg s w).wgs v h]
  exact ⟨rfl, rfl⟩

/-- What killing in a workgroup does to the standing of workgroups: a killed one stays killed, and the others stand as they did (R97). -/
structure Kills (w : Nat) (s t : State) : Prop where
  others : ∀ v, v ≠ w → SameStanding v s t
  killed : (s.wg w).killed = true → (t.wg w).killed = true

theorem Kills.trans {w : Nat} {s t u : State} (h : Kills w s t) (k : Kills w t u) : Kills w s u :=
  ⟨fun v hv => (h.others v hv).trans (k.others v hv), fun hk => k.killed (h.killed hk)⟩

theorem kills_of_wgs {w : Nat} {s t : State} (h : t.wgs = s.wgs) : Kills w s t :=
  ⟨fun _ _ => .of_wgs h, fun hk => (SameStanding.of_wgs h).2.trans hk⟩

theorem kills_setWg (s : State) (w : Nat) (x : Workgroup) (h : x.killed = true) : Kills w s (s.setWg w x) := by
  refine ⟨fun v hv => ?_, fun _ => by rw [wg_setWg_same, h]⟩
  rw [SameStanding, wg_setWg, if_neg hv]
  exact ⟨rfl, rfl⟩

theorem kills_settleWg (s : State) (w : Nat) : Kills w s (s.settleWg w) :=
  ⟨fun _ hv => sameStanding_settleWg s hv, fun hk => (wgEnds_settleWg s w).killed.trans hk⟩

theorem kills_endThread (s : State) (id : ThreadId) (w : Nat) : Kills w s (s.endThread id) :=
  ⟨fun v _ => sameStanding_endThread s id v, fun hk => (sameStanding_endThread s id w).2.trans hk⟩

theorem kills_killThread (s : State) (id : ThreadId) : Kills id.wg s (s.killThread id) := by
  have hdrop : Kills id.wg s (s.dropLogged id) := kills_of_wgs rfl
  have hmark (u : State) : Kills id.wg u (u.setThread id { u.thread id with killed := true }) := kills_of_wgs rfl
  have hkill (u : State) : Kills id.wg u { u.setWg id.wg { u.wg id.wg with killed := true } with staged := u.staged.filter (fun e => e.wg != id.wg) } :=
    (kills_setWg u id.wg _ rfl).trans (kills_of_wgs rfl)
  cases hlive : (s.thread id).live with
  | false =>
    rw [killThread_dead hlive]
    exact kills_of_wgs rfl
  | true =>
    rw [State.killThread, if_neg (by rw [hlive]; nofun)]
    exact (((hdrop.trans (kills_endThread _ id _)).trans (hmark _)).trans (hkill _)).trans (kills_settleWg _ _)

theorem kills_killThreads {w : Nat} (ids : List ThreadId) (h : ∀ id ∈ ids, id.wg = w) (s : State) : Kills w s (ids.foldl (fun t i => t.killThread i) s) := by
  induction ids generalizing s with
  | nil => exact kills_of_wgs rfl
  | cons id ids ih =>
    have hone := kills_killThread s id
    rw [h id List.mem_cons_self] at hone
    exact hone.trans (ih (fun x hx => h x (List.mem_cons_of_mem _ hx)) _)

/-- The state in which the threads of a killed workgroup are killed one after another: its records and staged entries are gone. -/
def markedKilled (s : State) (w : Nat) : State :=
  let c := s.coreOf w
  let kept := (s.core c).bins.map (fun (b : SpawnBin) => { b with recs := b.recs.filter (fun r => r.wg != w) })
  let s := s.setCore c { s.core c with bins := kept.filter (fun b => !b.recs.isEmpty) }
  let s := { s with spawnHeld := s.spawnHeld.filter (fun h => h.1 != w), staged := s.staged.filter (fun e => e.wg != w) }
  s.setWg w { s.wg w with killed := true, savedBins := [] }

theorem killWg_eq {s : State} {w : Nat} (h : (s.wg w).status ≠ .ended) :
    s.killWg w = ((((markedKilled s w).threadsOf w).foldl (fun t i => t.killThread i) (markedKilled s w))).settleWg w := by
  unfold State.killWg
  split
  · next heq => exact absurd heq h
  · rfl

theorem killWg_ended {s : State} {w : Nat} (h : (s.wg w).status = .ended) : s.killWg w = s := by
  unfold State.killWg
  rw [h]

theorem kills_markedKilled (s : State) (w : Nat) : Kills w s (markedKilled s w) := by
  have hset (u : State) : Kills w u (u.setWg w { u.wg w with killed := true, savedBins := [] }) := kills_setWg u w _ rfl
  have hstart (u : State) (h : u.wgs = s.wgs) : Kills w s (u.setWg w { u.wg w with killed := true, savedBins := [] }) :=
    (kills_of_wgs h).trans (hset u)
  exact hstart _ rfl

theorem kills_killMarked (s : State) (w : Nat) :
    Kills w (markedKilled s w) ((((markedKilled s w).threadsOf w).foldl (fun t i => t.killThread i) (markedKilled s w)).settleWg w) :=
  (kills_killThreads _ (fun _ hid => by simpa using (List.mem_filter.1 hid).2) _).trans (kills_settleWg _ w)

theorem kills_badSave (s : State) (w slot : Nat) : Kills w s (s.badSave w slot) ∧
    ((s.wg w).status ≠ .ended → ((s.badSave w slot).wg w).killed = true) := by
  have hpost : Kills w (s.killWg w) (s.badSave w slot) := kills_of_wgs rfl
  by_cases h : (s.wg w).status = .ended
  · refine ⟨?_, fun hne => absurd h hne⟩
    have hkill : Kills w s (s.killWg w) := by rw [killWg_ended h]; exact kills_of_wgs rfl
    exact hkill.trans hpost
  · rw [killWg_eq h] at hpost
    have hrest := (kills_killMarked s w).trans hpost
    refine ⟨(kills_markedKilled s w).trans hrest, fun _ => hrest.killed ?_⟩
    rw [markedKilled, wg_setWg_same]

/-- Damaged members killed one after another. -/
theorem killed_badSaves (xs : List (Nat × Nat)) (s : State) {w : Nat}
    (h : (s.wg w).killed = true ∨ ((s.wg w).status ≠ .ended ∧ w ∈ xs.map (·.1))) :
    ((xs.foldl (fun (u : State) x => u.badSave x.1 x.2) s).wg w).killed = true := by
  induction xs generalizing s with
  | nil => exact h.resolve_right fun h => nomatch h.2
  | cons x xs ih =>
    obtain ⟨hkills, hmember⟩ := kills_badSave s x.1 x.2
    refine ih _ ?_
    by_cases hw : w = x.1
    · subst hw
      exact .inl (h.elim hkills.killed fun h => hmember h.1)
    · obtain ⟨hstatus, hkilled⟩ := hkills.others w hw
      rw [hstatus, hkilled]
      exact h.imp_right fun ⟨hne, hmem⟩ => ⟨hne, (List.mem_cons.1 hmem).resolve_left hw⟩

theorem saved_of_badMember {s : State} {i : Item} {w slot : Nat} (h : (w, slot) ∈ s.badMembers i) : (s.wg w).status = .saved slot := by
  obtain ⟨v, -, hv⟩ := List.mem_filterMap.1 h
  split at hv
  · next k hk =>
    split at hv
    · obtain ⟨rfl, rfl⟩ : v = w ∧ k = slot := by simpa using hv
      exact hk
    · exact nomatch hv
  · exact nomatch hv

/-! ## Spawned groups (R125, R126, R347) -/

/-- `t` has groups, threads, registers, memory and one workgroup as `s` has them. -/
structure EndsOthers (w : Nat) (s t : State) : Prop where
  groups : t.groups = s.groups
  threads : t.threads = s.threads
  regs : t.regs = s.regs
  mem : t.mem = s.mem
  wg : t.wg w = s.wg w

theorem endsOthers_settle (w : Nat) (xs : List Nat) (s : State) :
    EndsOthers w s (xs.foldl (fun (v : State) x => if x = w then v else v.settleWg x) s) := by
  induction xs generalizing s with
  | nil => exact ⟨rfl, rfl, rfl, rfl, rfl⟩
  | cons x xs ih =>
    have hone : EndsOthers w s (if x = w then s else s.settleWg x) := by
      split
      · exact ⟨rfl, rfl, rfl, rfl, rfl⟩
      · next hx =>
        have h := wgEnds_settleWg s x
        exact ⟨h.groups, h.threads, h.regs, h.mem, h.wgs w (Ne.symm hx)⟩
    have hrest := ih (if x = w then s else s.settleWg x)
    exact ⟨hrest.groups.trans hone.groups, hrest.threads.trans hone.threads, hrest.regs.trans hone.regs, hrest.mem.trans hone.mem, hrest.wg.trans hone.wg⟩

/-- The core without the fired bin, its records in their block, and the workgroup with one more group. -/
def spawnReady (s : State) (c bin : Nat) (b : SpawnBin) (slot : Nat) : State :=
  let w := (b.recs.map (fun r => r.wg)).headD 0
  let t := s.setCore c { s.core c with bins := (s.core c).bins.eraseIdx bin }
  let t := t.renew (chipAt (spawnBlock c slot)) (b.recs.flatMap (fun r => r.bytes))
  t.setWg w { t.wg w with nextGroup := (s.wg w).nextGroup + 1 }

/-- What the start of a spawned group leaves (R126). -/
theorem startSpawned_results {s : State} (c bin : Nat) (b : SpawnBin) (slot : Nat) (hmem : Memory.wf s.mem = true) : let t := s.startSpawned c bin b slot
    let w := (b.recs.map (fun x => x.wg)).headD 0
    let g : GroupId := { wg := w, grp := (s.wg w).nextGroup }
    let bytes := b.recs.flatMap (fun x => x.bytes)
    (t.group g).present = true ∧ (t.group g).spawned = true ∧ (t.group g).slot = slot ∧ (t.group g).block = spawnBlock c slot ∧
    (t.wg w).nextGroup = g.grp + 1 ∧ t.bytesAt (chipAt (spawnBlock c slot)) bytes.length = bytes ∧
    (∀ lane < b.recs.length, (t.thread { wg := w, grp := g.grp, lane := lane }).live = true ∧
      (t.thread { wg := w, grp := g.grp, lane := lane }).pc = b.entry) ∧
    t.reg (.s w g.grp 7) = preload (genericAddr spChip (BitVec.ofNat 64 (spawnBlock c slot))).toNat := by
  intro t w g bytes
  have hstart := startsGroup (spawnReady s c bin b slot) w g.grp b.recs.length slot b.entry true (spawnBlock c slot)
    (genericAddr spChip (BitVec.ofNat 64 (spawnBlock c slot))).toNat
  generalize hu : (spawnReady s c bin b slot).startGroup w g.grp b.recs.length slot b.entry true (spawnBlock c slot)
    (genericAddr spChip (BitVec.ofNat 64 (spawnBlock c slot))).toNat = u at hstart
  have hends : EndsOthers w ((u.startView (u.launchOf w).cmd (.group w g.grp)).pull .pkg (u.groupPlace g)) t := by
    rw [← hu]
    exact endsOthers_settle w _ _
  have hgroup : t.group g = freshGroup slot true (spawnBlock c slot) := by
    rw [State.group, hends.groups]
    show FMap.getD u.groups g Group.absent = _
    rw [hstart.groups]
    exact getD_set_same _ _ _ _
  have hwg : (t.wg w).nextGroup = g.grp + 1 := by
    rw [hends.wg]
    show (u.wg w).nextGroup = _
    rw [hstart.frame.wg, spawnReady, wg_setWg_same]
  have hbytes : t.mem = memSetMany s.mem (chipAt (spawnBlock c slot)) bytes := by
    rw [hends.mem]
    show u.mem = _
    rw [hstart.frame]
    rfl
  rw [hgroup]
  refine ⟨rfl, rfl, rfl, rfl, hwg, ?_, fun lane hl => ?_, ?_⟩
  · rw [State.bytesAt, hbytes, memGetMany_memSetMany _ _ _ hmem]
  · rw [thread_congr hends.threads]
    exact hstart.thread lane hl
  · rw [State.reg, hends.regs]
    exact hstart.uni 7 _ rfl

end Sys2Proof.Proofs
end

section
/-! Workgroups placed and restored, bins fired and spawned groups started. -/

namespace Sys2Proof.Proofs

open Sys2Proof Sys2Proof.Machine Sys2Proof.Laws

/-! ## What fits (R85) -/

theorem nodup_of_allDistinct (xs : List Nat) (h : allDistinct xs = true) : xs.Nodup := by
  induction xs with
  | nil => exact List.nodup_nil
  | cons a xs ih =>
    rw [allDistinct, Bool.and_eq_true] at h
    exact List.nodup_cons.2 ⟨by simpa using h.1, ih h.2⟩

/-- What it means that an item fits on cores: distinct cores, one to a workgroup, each with the group slots that it needs. -/
theorem itemFitsOn_spec {s : State} {i : Item} {cores : List Nat} (h : s.itemFitsOn i cores = true) :
    cores.length = i.count ∧ cores.Nodup ∧ ∀ c ∈ cores, (s.launch i.launch).groups ≤ (s.freeSlots c).length := by
  simp only [State.itemFitsOn, Bool.and_eq_true, List.all_eq_true, beq_iff_eq] at h
  obtain ⟨⟨⟨⟨⟨⟨-, hlength⟩, hdistinct⟩, -⟩, -⟩, -⟩, hfits⟩ := h
  refine ⟨hlength, nodup_of_allDistinct _ hdistinct, fun c hc => ?_⟩
  obtain ⟨j, hj, rfl⟩ := List.mem_iff_getElem.1 hc
  have hmem : (cores[j], j) ∈ cores.zip (List.range cores.length) := List.mem_iff_getElem.2 ⟨j, by simpa using hj, by simp⟩
  have hfit := hfits _ hmem
  simp only [State.coreFits, Bool.and_eq_true, decide_eq_true_eq] at hfit
  exact (Nat.le_add_right _ _).trans hfit.1.1.1

/-! ## The events -/

theorem exec_place {s r : State} {cores : List Nat} {i : Item} (hserves : s.serves = true) (hnext : s.nextItem = some (i, r)) (hsaved : i.saved = [])
    (hfits : r.itemFitsOn i cores = true) : exec (.workgroupPlace cores) s = .next (r.placeSet i cores) := by
  show execWorkgroupPlace cores s = _
  rw [execWorkgroupPlace, if_neg (by rw [hserves]; nofun), hnext]
  simp only [hsaved, hfits, List.isEmpty_nil, Bool.not_true, Bool.false_eq_true, if_false, if_true]

theorem exec_restore {s r u : State} {cores : List Nat} {i : Item} (hserves : s.serves = true) (hnext : s.nextItem = some (i, r)) (hsaved : i.saved ≠ [])
    (hgood : r.badMembers i = []) (hfits : r.itemFitsOn i cores = true) (hlog : r.logFits i cores = true) (heager : r.eagerAll (i.saved.zip cores) = .done u) :
    exec (.workgroupRestore cores) s = .next (u.restoreAll i cores) := by
  show execWorkgroupRestore cores s = _
  rw [execWorkgroupRestore, if_neg (by rw [hserves]; nofun), hnext]
  dsimp only
  rw [if_neg (by simpa using hsaved), hgood]
  dsimp only
  rw [hfits, hlog, heager]
  rfl

theorem exec_restore_bad {s r : State} {cores : List Nat} {i : Item} (hserves : s.serves = true) (hnext : s.nextItem = some (i, r)) (hsaved : i.saved ≠ [])
    (hbad : r.badMembers i ≠ []) :
    exec (.workgroupRestore cores) s = .next ((r.badMembers i).foldl (fun (u : State) x => u.badSave x.1 x.2) r) := by
  show execWorkgroupRestore cores s = _
  rw [execWorkgroupRestore, if_neg (by rw [hserves]; nofun), hnext]
  dsimp only
  rw [if_neg (by simpa using hsaved)]
  split
  · next heq => exact absurd heq hbad
  · rfl

theorem exec_binCountdown {s : State} {core n : Nat} {b : SpawnBin} (hbin : (s.core core).bins[n]? = some b) (hcount : b.countdown = 0)
    (hfired : b.fired = false) : exec (.spawnBinCountdown core n) s =
      .next (s.setCore core { s.core core with bins := (s.core core).bins.set n { b with fired := true } }) := by
  show execSpawnBinCountdown core n s = _
  rw [execSpawnBinCountdown, hbin]
  exact if_pos ⟨hcount, by rw [hfired]; rfl⟩

theorem exec_spawnStart {s : State} {core n slot : Nat} {b : SpawnBin} (hready : (s.formGenerations core).boot.ready = true)
    (hbin : ((s.formGenerations core).core core).bins[n]? = some b) (hfired : b.fired = true) (hslot : (s.formGenerations core).spawnSlot core = some slot)
    (hfirst : b.wg = none ∨ ∀ x ∈ ((s.formGenerations core).core core).bins.take n, x.wg ≠ b.wg) :
    exec (.spawnGroupStart core n) s = .next ((s.formGenerations core).startSpawned core n b slot) := by
  have hturn : (b.wg.isNone || !(((s.formGenerations core).core core).bins.take n).any (fun x => x.wg == b.wg)) = true := by
    rcases hfirst with h | h
    · rw [h]
      rfl
    · rw [Bool.or_eq_true, Bool.not_eq_true', List.any_eq_false]
      exact .inr fun x hx => by simpa using h x hx
  show execSpawnGroupStart core n s = _
  rw [execSpawnGroupStart]
  simp only [hbin, hslot, hready, hfired, hturn, Bool.and_self, if_true]

/-! ## What they leave -/

theorem placeSet_results {r : State} {cores : List Nat} {i : Item} (hsaved : i.saved = []) (hfits : r.itemFitsOn i cores = true) :
    PlacesAll r (r.placeSet i cores) i.launch (i.lins.zip cores) ∧ (i.lins.zip cores).length = i.lins.length := by
  obtain ⟨hlength, hnodup, hslots⟩ := itemFitsOn_spec hfits
  have hcount : cores.length = i.lins.length := by rw [hlength, Item.count, hsaved]; rfl
  refine ⟨placesAll _ r ?_ fun x hx => hslots _ (List.of_mem_zip hx).2, by rw [List.length_zip, hcount, Nat.min_self]⟩
  rwa [List.map_snd_zip (by omega)]

/-- The groups of a launch hold all its threads (R67). -/
theorem grp_lt_groups {l : Launch} {g lane : Nat} (h : 32 * g + lane < l.threads) : g < l.groups := by
  rw [Launch.groups, ceilDiv]
  omega

theorem Placed.preloads {t : State} {l : Launch} {id w lin core : Nat} (h : Placed t l id w lin core) {g lane : Nat} (hlane : lane < 32)
    (hin : 32 * g + lane < l.threads) :
    (t.thread { wg := w, grp := g, lane := lane }).live = true ∧ (t.thread { wg := w, grp := g, lane := lane }).pc = l.entry ∧
    t.reg (.v w g lane 0) = preload (32 * g + lane) ∧ t.reg (.v w g lane 1) = preload lane ∧
    t.reg (.s w g 0) = preload l.karg.toNat ∧ t.reg (.s w g 1) = preload (lin % l.gx) ∧ t.reg (.s w g 2) = preload (lin / l.gx % l.gy) ∧
    t.reg (.s w g 3) = preload (lin / (l.gx * l.gy)) ∧ t.reg (.s w g 4) = preload g ∧ t.reg (.s w g 5) = preload lin ∧
    t.reg (.s w g 6) = preload l.groups := by
  have hup := h.groups g (grp_lt_groups hin)
  obtain ⟨hlive, hpc⟩ := hup.thread lane (by omega)
  obtain ⟨hindex, hl⟩ := hup.lanes lane hlane
  exact ⟨hlive, hpc, hindex, hl, hup.uni 0 _ rfl, hup.uni 1 _ rfl, hup.uni 2 _ rfl, hup.uni 3 _ rfl, hup.uni 4 _ rfl, hup.uni 5 _ rfl, hup.uni 6 _ rfl⟩

theorem restoreAll_results {u : State} {cores : List Nat} {i : Item} (hnodup : i.saved.Nodup) (hlength : cores.length = i.saved.length) :
    let t := u.restoreAll i cores
    (∀ j w core : Nat, i.saved[j]? = some w → cores[j]? = some core → (t.wg w).status = .resident ∧ (t.wg w).core = core ∧
      (t.wg w).lin = (u.wg w).lin ∧ (t.wg w).bars = (u.wg w).bars) ∧ t.regs = u.regs ∧ t.threads = u.threads := by
  intro t
  obtain ⟨v, ⟨hwgs, hregs, hthreads⟩, ht⟩ : ∃ v : State, (v.wgs = u.wgs ∧ v.regs = u.regs ∧ v.threads = u.threads) ∧
      t = (i.saved.zip cores).foldl (fun (u : State) x => u.restoreOne x.1 x.2) v := by
    refine ⟨_, ?_, rfl⟩
    split
    · exact ⟨rfl, rfl, rfl⟩
    · exact shiftRidge_keeps u _ _ _ _
  obtain ⟨hstand, -, hregs', hthreads'⟩ := restoresAll (i.saved.zip cores) (by rwa [List.map_fst_zip (by omega)]) v
  rw [← ht] at hstand hregs' hthreads'
  refine ⟨fun j w core hw hcore => ?_, hregs'.trans hregs, hthreads'.trans hthreads⟩
  have hwg : v.wg w = u.wg w := by rw [State.wg, hwgs, State.wg]
  have h := hstand (w, core) (List.mem_of_getElem? (i := j) (List.getElem?_zip_eq_some.2 ⟨hw, hcore⟩))
  rwa [hwg] at h

/-- Settles O51: placement by placing one workgroup after another, restoration alike, and the start of a spawned group. -/
theorem placementResults : Obligations.PlacementResults := by
  unfold Obligations.PlacementResults
  intro s
  refine ⟨fun cores i r hserves hnext hsaved hfits => ⟨_, exec_place hserves hnext hsaved hfits, ?_⟩,
    fun cores i r hserves hnext hsaved hnodup => ⟨fun hgood hfits hlog u heager => ⟨_, exec_restore hserves hnext hsaved hgood hfits hlog heager, ?_⟩,
      fun w slot hbad => ⟨_, exec_restore_bad hserves hnext hsaved (List.ne_nil_of_mem hbad), ?_⟩⟩,
    fun core n b hbin hcount hfired => ⟨_, exec_binCountdown hbin hcount hfired, rfl⟩, fun core n slot b => ?_⟩
  · obtain ⟨hplaces, hlength⟩ := placeSet_results hsaved hfits
    obtain ⟨d, hlaunch⟩ := hplaces.launch
    rw [hlength] at hlaunch
    refine ⟨by rw [hlaunch], by rw [hlaunch], fun j lin core hlin hcore => ?_⟩
    have h := hplaces.placed j lin core (List.getElem?_zip_eq_some.2 ⟨hlin, hcore⟩)
    obtain ⟨hl, hli, hc, hst⟩ := h.wg
    exact ⟨hl, hli, hc, hst, h.bars, h.helm.1, h.helm.2, h.regs.1, h.regs.2, fun g lane hlane hin => h.preloads hlane hin⟩
  · obtain ⟨hlength, -, -⟩ := itemFitsOn_spec hfits
    have hcount : cores.length = i.saved.length := by rw [hlength, Item.count, if_neg (by simpa using hsaved)]
    exact restoreAll_results hnodup hcount
  · have hstatus := saved_of_badMember hbad
    exact killed_badSaves _ r (.inr ⟨by rw [hstatus]; nofun, List.mem_map_of_mem hbad⟩)
  · intro r hready hmem hbin hfired hslot hfirst
    exact ⟨_, exec_spawnStart hready hbin hfired hslot hfirst, startSpawned_results core n b slot hmem⟩

end Sys2Proof.Proofs
end

section
/-! The bytes that one write of an access changes, through translation and at its place (R170, R176, R198). -/

namespace Sys2Proof.Proofs

open Sys2Proof Sys2Proof.Machine Sys2Proof.Laws

/-! ## Translation changes no byte (R193, R286) -/

theorem Checked.ite_snd {α : Type} {s : State} {x y : α × State} {c : Prop} [Decidable c] (h : Checked s x.2) (k : Checked s y.2) :
    Checked s (if c then x else y).2 := by
  split
  · exact h
  · exact k

theorem checked_freeCount (s : State) (n : Nat) : Checked s { s with freeCount := n } := ⟨rfl, List.Subset.refl _⟩

theorem checked_entryUsed (s : State) (ctx va level ea : Nat) (k : AccKind) : Checked s (s.entryUsed ctx va level ea k).2 := by
  unfold State.entryUsed
  split
  · exact .refl s
  · dsimp only
    split <;> exact checked_freeCount s _

theorem checked_walk (s : State) (ctx va : Nat) (k : AccKind) (priv : Bool) (tier frame level fuel : Nat) :
    Checked s (s.walk ctx va k priv tier frame level fuel).2 := by
  induction fuel generalizing s tier frame level with
  | zero => exact .refl s
  | succ fuel ih =>
    have hecc := checked_eccWord s (frameAt tier frame + 8 * levelIndex va level) ctx
    have hused := hecc.trans (checked_entryUsed _ ctx va level (frameAt tier frame + 8 * levelIndex va level) k)
    rw [State.walk]
    refine .ite_snd (hecc.trans (checked_addPoison _ _ _)) (.ite_snd hecc (.ite_snd hused (.ite_snd hused (.ite_snd ?_ (hused.trans (ih _ _ _ _))))))
    split <;> exact hused

theorem checked_rootUsed (s : State) (ctx va : Nat) : Checked s (s.rootUsed ctx va).2 := by
  unfold State.rootUsed
  split
  · exact .refl s
  · exact checked_freeCount s _

theorem checked_translate (s : State) (ctx va : Nat) (k : AccKind) (priv : Bool) : Checked s (s.translate ctx va k priv).2 :=
  .ite_snd (checked_rootUsed s ctx va) ((checked_rootUsed s ctx va).trans (checked_walk _ _ _ _ _ _ _ _ _))

theorem checked_eccClean (s : State) (array key ctx : Nat) : Checked s (s.eccClean array key ctx) :=
  .ite_snd (.refl s) (checked_eccRead s _ _ _ ctx)

theorem checked_resolve (s : State) (r : Req) (space : Nat) (a : Word) (n : Nat) (k : AccKind) : Checked s (s.resolve r space a n k).2 := by
  unfold State.resolve
  split
  · exact .refl s
  · exact .refl s
  · next va _ =>
    have h := (checked_eccClean s (arrayId 11 (s.translatorOf r)) (va / 4096) r.ctx).trans (checked_translate _ r.ctx va k r.priv)
    split <;> next heq => rw [heq] at h; exact h

/-! ## The leaf's A and D byte (R198) -/

theorem mem_touchSpot (s : State) (p : Spot) (write : Bool) : (s.touchSpot p write).mem = s.mem ∨
    ∃ f v, p.leaf = some f ∧ (s.touchSpot p write).mem = memSet s.mem (f.entryAt + 1) v := by
  unfold State.touchSpot
  split
  · next f hf =>
    by_cases h : s.byteAt (f.entryAt + 1) ||| (if write then 0x0C else 0x04) = s.byteAt (f.entryAt + 1)
    · exact .inl (congrArg State.mem (if_pos h))
    · exact .inr ⟨f, _, hf, congrArg State.mem (if_neg h)⟩
  · exact .inl rfl

theorem wf_touchSpot {s : State} (w : Memory.wf s.mem = true) (p : Spot) (write : Bool) : Memory.wf (s.touchSpot p write).mem = true := by
  obtain h | ⟨f, v, -, h⟩ := mem_touchSpot s p write
  · rwa [h]
  · rw [h]
    exact wf_memSet _ _ _ w

theorem byteAt_touchSpot (s : State) {p : Spot} {a : Nat} (write : Bool) (h : ∀ f, p.leaf = some f → a ≠ f.entryAt + 1) :
    (s.touchSpot p write).byteAt a = s.byteAt a := by
  obtain hm | ⟨f, v, hf, hm⟩ := mem_touchSpot s p write
  · exact byteAt_of_mem_eq hm a
  · rw [State.byteAt, hm]
    exact memGet_memSet_other _ v (h f hf)

/-! ## One write at a flat address (R176, R288) -/

theorem mem_putFlat (s : State) (who : Party) (a : Nat) (bs : List Byte) (n : Nat) :
    (if spaceOf a = 7 then s.writeOwn a bs else (s.write who a bs).markDirty a n).mem = memSetMany s.mem a bs := by
  split
  · rfl
  · rw [mem_markDirty, mem_write]

theorem mem_store (s : State) (who : Party) (a : Nat) (bs : List Byte) : (s.performFlat who a (.store bs)).mem = memSetMany s.mem a bs :=
  mem_putFlat s who a bs bs.length

theorem mem_reduce (s : State) (who : Party) {a : Nat} (h : s.isPoisoned a = false) (op : BitVec 3) (tag : Tag) (un : Bool) (v : Word) :
    (s.performFlat who a (.reduce op tag un v)).mem =
      memSetMany s.mem a (leBytes 8 (mergeWord op.toNat tag un (BitVec.ofNat 64 (s.numAt a 8)) v).toNat) := by
  rw [State.performFlat, if_neg (by rw [h]; nofun)]
  exact mem_putFlat s who a _ 8

/-- A write changes the bytes that it names alone. -/
theorem byteAt_performFlat (s : State) (who : Party) {a b : Nat} (op : WriteOp) (h : b < a ∨ a + op.len ≤ b) :
    (s.performFlat who a op).byteAt b = s.byteAt b := by
  have hput (bs : List Byte) (n : Nat) (hb : b < a ∨ a + bs.length ≤ b) :
      (if spaceOf a = 7 then s.writeOwn a bs else (s.write who a bs).markDirty a n).byteAt b = s.byteAt b := by
    rw [State.byteAt, mem_putFlat]
    exact memGet_memSetMany_apart bs s.mem hb
  cases op with
  | store bs => exact hput bs _ h
  | masked bs =>
    refine byteAt_foldl _ (fun e he u => ?_) s
    have hlt : e.2 < bs.length := by simpa using List.snd_lt_of_mem_zipIdx he
    split
    · rw [State.byteAt, mem_markDirty, mem_write]
      refine memGet_memSetMany_apart _ _ ?_
      change b < a ∨ a + bs.length ≤ b at h
      rw [List.length_singleton]
      omega
    · rfl
  | poisoned n =>
    rw [State.byteAt, State.performFlat, mem_markDirty, mem_addPoison, mem_write]
    exact memGet_memSetMany_apart _ _ (by rwa [List.length_replicate])
  | reduce o tag u v =>
    rw [State.performFlat]
    split
    · rfl
    · exact hput _ _ (by rwa [length_leBytes])
  | atomic o tag u v c =>
    simp only [State.performFlat]
    split
    · exact hput _ _ (by rwa [length_leBytes])
    · rfl

/-! ## A block of a VBD page (R168, R170) -/

theorem length_flatMap_leBytes (e : Nat) (els : List Nat) : (els.flatMap (leBytes e)).length = els.length * e := by
  rw [List.length_flatMap, List.map_congr_left (g := fun _ => e) (fun x _ => length_leBytes e x), List.map_const', List.sum_replicate, smul_eq_mul]

theorem length_vbdDecode {e : Nat} (he : e = 2 ∨ e = 4) (d : BitVec 32) (stored : List Byte) : (vbdDecode e d stored).length ≤ 256 := by
  unfold vbdDecode
  split
  · rw [List.length_replicate]
  · exact List.length_take_le 256 stored
  · rw [length_flatMap_leBytes, vbdElements, List.length_cons, List.length_map, List.length_range]
    obtain rfl | rfl := he <;> decide

/-- A fill of a block changes the bytes of the block as its users see it alone. -/
theorem byteAt_vbdFill (s : State) {frame e block b : Nat} (he : e = 2 ∨ e = 4)
    (h : b < vbdAt (frame + 256 * block) ∨ vbdAt (frame + 256 * block) + 256 ≤ b) : (s.vbdFill frame e block).byteAt b = s.byteAt b := by
  have hread := mem_eccBytes s (frame + 4 * block) 4 0
  have hwrite (u : State) (hu : u.mem = s.mem) (bs : List Byte) (hbs : bs.length ≤ 256) :
      (u.writeOwn (vbdAt (frame + 256 * block)) bs).byteAt b = s.byteAt b := by
    rw [← byteAt_of_mem_eq hu b]
    exact memGet_memSetMany_apart bs u.mem (by omega)
  unfold State.vbdFill
  dsimp only
  split_ifs
  · rfl
  · exact hwrite _ ((mem_eccBytes _ _ _ 0).trans hread) _ (length_vbdDecode he _ _)
  · exact hwrite _ ((mem_eccBytes _ _ _ 0).trans hread) _ (length_vbdDecode he _ _)
  · exact byteAt_of_mem_eq hread b

theorem mem_vbdMark (s : State) (frame e block : Nat) : (s.vbdMark frame e block).mem = s.mem := by
  unfold State.vbdMark
  split <;> rfl

theorem mem_noteFailed (s : State) (who : Party) (addr : Word) : (s.noteFailed who addr).mem = s.mem := by cases who <;> rfl

theorem mem_sendFab (s : State) (who : Party) (thread : Option ThreadId) (op : Option WriteOp) (target off cmp len : Nat) :
    (s.sendFab who thread op target off cmp len).mem = s.mem := by
  have hnote (c : Bool) (addr : Word) : (if c then s.noteFailed who addr else s).mem = s.mem := by
    split
    · exact mem_noteFailed s who addr
    · rfl
  exact hnote _ _

/-! ## One write at a place -/

/-- The bytes that a write of `n` bytes at a place may change. -/
def locReaches (loc : Loc) (n a : Nat) : Bool :=
  match loc with
  | .flat f => decide (f ≤ a) && decide (a < f + n)
  | .vbd frame _ off => decide (vbdAt (frame + 256 * (off / 256)) ≤ a) && decide (a < vbdAt (frame + 256 * (off / 256)) + 256)
  | _ => false

/-- A place as pages name it: elements of 2 or of 4 bytes, and the `n` bytes inside one block of a VBD page. -/
def LocFits (loc : Loc) (n : Nat) : Prop :=
  match loc with
  | .vbd _ e off => (e = 2 ∨ e = 4) ∧ off % 256 + n ≤ 256
  | _ => True

theorem byteAt_performLoc (s : State) (who : Party) (thread : Option ThreadId) {loc : Loc} {op : WriteOp} {a : Nat} (hfits : LocFits loc op.len)
    (h : locReaches loc op.len a = false) : (s.performLoc who thread loc op).byteAt a = s.byteAt a := by
  cases loc with
  | flat f =>
    refine byteAt_performFlat s who op ?_
    simpa [locReaches, Nat.not_le, or_iff_not_imp_left] using h
  | vbd frame e off =>
    obtain ⟨he, hoff⟩ := hfits
    have hout : a < vbdAt (frame + 256 * (off / 256)) ∨ vbdAt (frame + 256 * (off / 256)) + 256 ≤ a := by
      simpa [locReaches, Nat.not_le, or_iff_not_imp_left] using h
    rw [State.performLoc]
    split
    · exact byteAt_of_mem_eq (mem_noteFailed _ who _) a
    · rw [State.byteAt, mem_vbdMark]
      refine (byteAt_performFlat _ who op ?_).trans (byteAt_vbdFill s he hout)
      simp only [vbdAt] at hout ⊢
      omega
  | badWindow bus => exact byteAt_of_mem_eq (mem_noteFailed _ who _) a
  | peer m off c => exact byteAt_of_mem_eq (mem_sendFab s who thread _ m off c _) a

/-- The place that a leaf names fits an aligned access of a power of two up to 8 bytes. -/
theorem locFits_locOf (s : State) (l : Leaf) {va n : Nat} (rd wr : Bool) (hn : n ∣ 8) (hva : n ∣ va) : LocFits (s.locOf l va rd wr) n := by
  have hoff : va % 4096 % 256 + n ≤ 256 := by
    have h256 : n ∣ 256 := hn.trans (by decide)
    have hmod : n ∣ va % 4096 % 256 := (Nat.dvd_mod_iff h256).2 ((Nat.dvd_mod_iff (hn.trans (by decide))).2 hva)
    obtain ⟨k, hk⟩ := hmod
    obtain ⟨j, hj⟩ := h256
    have hlt : va % 4096 % 256 < 256 := Nat.mod_lt _ (by decide)
    rw [hk] at hlt ⊢
    rw [hj] at hlt ⊢
    have hkj : k < j := lt_of_mul_lt_mul_left hlt (Nat.zero_le n)
    calc n * k + n = n * (k + 1) := (Nat.mul_succ n k).symm
      _ ≤ n * j := Nat.mul_le_mul_left n hkj
  unfold State.locOf
  dsimp only
  split <;> split_ifs <;> trivial

end Sys2Proof.Proofs
end

section
/-! Stores and reductions whose words lie on chip (R147, R150, R381, R383). -/

namespace Sys2Proof.Proofs

open Sys2Proof Sys2Proof.Machine Sys2Proof.Laws

/-! ## Addresses that a state computes as another does -/

/-- `t` computes addresses, and decodes those that lie on chip, as `s` does. -/
structure Locates (s t : State) : Prop where
  cur : t.cur = s.cur
  regs : t.regs = s.regs
  launches : t.launches = s.launches
  ctxs : t.ctxs = s.ctxs
  wg : ∀ w, ∃ maps, t.wg w = { s.wg w with maps := maps }
  block : ∀ g, (t.group g).spawned = (s.group g).spawned ∧ (t.group g).block = (s.group g).block
  priv : ∀ id, (t.thread id).priv = (s.thread id).priv

theorem Loads.locates {s t : State} (h : Loads s t) : Locates s t where
  cur := h.cur
  regs := h.regs
  launches := by rw [h.accesses]
  ctxs := by rw [h.accesses]
  wg := h.spares.wg
  block g := by rw [h.accesses]; exact ⟨rfl, rfl⟩
  priv id := by rw [thread_congr h.threads]

namespace Locates

variable {s t u : State}

theorem refl (s : State) : Locates s s := (Loads.refl s).locates

theorem trans (h : Locates s t) (k : Locates t u) : Locates s u where
  cur := k.cur.trans h.cur
  regs := k.regs.trans h.regs
  launches := k.launches.trans h.launches
  ctxs := k.ctxs.trans h.ctxs
  wg w := by
    obtain ⟨a, ha⟩ := h.wg w
    obtain ⟨b, hb⟩ := k.wg w
    exact ⟨b, by rw [hb, ha]⟩
  block g := ⟨(k.block g).1.trans (h.block g).1, (k.block g).2.trans (h.block g).2⟩
  priv id := (k.priv id).trans (h.priv id)

variable (h : Locates s t)
include h

theorem launchOf (w : Nat) : t.launchOf w = s.launchOf w := by
  obtain ⟨maps, hw⟩ := h.wg w
  rw [State.launchOf, State.launchOf, State.launch, State.launch, h.launches, hw]

theorem laneReq (l : Nat) : t.laneReq l = s.laneReq l := by
  have hthread : t.curThread l = s.curThread l := by rw [State.curThread, curGroup_congr h.cur, State.curThread]
  simp only [State.laneReq, State.ctxOf, h.launchOf, curGroup_congr h.cur, curParty_congr h.cur, curHelm_congr h.cur, hthread, h.priv]

theorem srcBits (l : Nat) (x : Src) : t.srcBits l x = s.srcBits l x := by
  simp only [State.srcBits, srcKey_congr h.cur, State.reg, h.regs]

theorem memAddr (m : MemArgs) (l : Nat) : t.memAddr m l = s.memAddr m l := by rw [State.memAddr, h.srcBits, State.memAddr]

theorem memWords (m : MemArgs) (l : Nat) : t.memWords m l = s.memWords m l := by simp only [State.memWords, h.memAddr]

theorem storeOps (m : MemArgs) (mk : Nat → Src → WriteOp) (l : Nat) : t.storeOps m mk l = s.storeOps m mk l := by
  rw [State.storeOps, h.memWords, State.storeOps]

theorem decodeAddr (r : Req) (space : Nat) (a : Word) (n : Nat) : t.decodeAddr r space a n = s.decodeAddr r space a n := by
  have hallowed (off : Nat) : t.chipAllowed r off = s.chipAllowed r off := by
    simp only [State.chipAllowed, (h.block _).1, (h.block _).2, h.ctxs]
  have hstands (w : Nat) : (t.wg w).launch = (s.wg w).launch ∧ t.ridgeIndex w = s.ridgeIndex w := by
    obtain ⟨maps, hw⟩ := h.wg w
    simp only [State.ridgeIndex, State.coreOf, hw, and_self]
  have hoff (sp off : Nat) : t.decodeOff r sp off n = s.decodeOff r sp off n := by
    simp only [State.decodeOff, State.chipSpanAllowed, hallowed, h.launchOf, (hstands _).1, (hstands _).2] <;> rfl
  simp only [State.decodeAddr, hoff]

theorem wordDecode (m : MemArgs) (l : Nat) (a : Word) :
    t.decodeAddr (t.laneReq l) m.space a m.size = s.decodeAddr (s.laneReq l) m.space a m.size := by
  rw [h.laneReq, h.decodeAddr]

end Locates

theorem locates_advance (s : State) : Locates s s.advance where
  cur := cur_advance s
  regs := advance_regs s
  launches := by rw [advance_frame]
  ctxs := by rw [advance_frame]
  wg w := ⟨(s.wg w).maps, by rw [advance_frame]; rfl⟩
  block g := by
    cases hc : s.cur with
    | group wg grp lanes pc len =>
      rw [group_advance s wg grp lanes pc len hc]
      split
      · next heq => rw [heq]; exact ⟨rfl, rfl⟩
      · exact ⟨rfl, rfl⟩
    | helm wg pc len => rw [advance_helm s wg pc len hc]; exact ⟨rfl, rfl⟩
    | cornice u => rw [advance_cornice s u hc]; exact ⟨rfl, rfl⟩
    | nobody => rw [advance_nobody s hc]; exact ⟨rfl, rfl⟩
  priv id := by
    cases hc : s.cur with
    | group wg grp lanes pc len =>
      rw [advance_thread s wg grp lanes pc len hc]
      split <;> rfl
    | helm wg pc len => rw [advance_helm s wg pc len hc]; rfl
    | cornice u => rw [advance_cornice s u hc]
    | nobody => rw [advance_nobody s hc]

theorem loads_performLoc (s : State) (thread : Option ThreadId) (loc : Loc) (op : WriteOp) : Loads s (s.performLoc s.curParty thread loc op) :=
  ⟨accesses_performLoc s _ thread loc op, spares_performLoc s _ thread loc op⟩

theorem loads_prepLine (s : State) (l x : Nat) : Loads s (s.prepLine (s.laneReq l) x).2 :=
  ⟨accesses_prepLine s _ x, spares_prepLine (s := s) (r := s.laneReq l) x⟩

/-! ## What stands before a store (R150, R381) -/

theorem prepAll_not_fault {P : State → Prop} (fs : List (State → Prep × State))
    (h : ∀ f ∈ fs, ∀ u, P u → P (f u).2 ∧ ∀ e, (f u).1 ≠ .fault e) {s : State} (hs : P s) (e : AccFault) : (prepAll s fs).1 ≠ .fault e := by
  induction fs generalizing s with
  | nil => nofun
  | cons f fs ih =>
    obtain ⟨hnext, hno⟩ := h f List.mem_cons_self s hs
    have hrest := ih (fun g hg => h g (List.mem_cons_of_mem _ hg)) hnext
    rw [prepAll]
    split
    · next heq => rw [heq] at hrest; exact hrest
    · next heq => rw [heq] at hno; exact absurd rfl (hno _)
    · nofun

/-- Preparation that does not wait changes nothing. -/
theorem prepWrite_state {s : State} {r : Req} {space n : Nat} {a : Word} {k : AccKind} (h : (s.prepWrite r space a n k).1 ≠ .wait) :
    (s.prepWrite r space a n k).2 = s := by
  unfold State.prepWrite at h ⊢
  split
  · rfl
  · next heq =>
    rw [heq] at h
    dsimp only at h
    unfold State.prepLine at h ⊢
    split_ifs at h ⊢
    · exact absurd rfl h
    · exact absurd rfl h
    · rfl
  · next heq =>
    rw [heq] at h
    dsimp only at h
    split at h
    · split_ifs at h ⊢
      · exact absurd rfl h
      · rfl
    · rfl

theorem prepAll_state {fs : List (State → Prep × State)} (hf : ∀ f ∈ fs, ∀ u, (f u).1 ≠ .wait → (f u).2 = u) {s : State}
    (h : (prepAll s fs).1 ≠ .wait) : (prepAll s fs).2 = s := by
  induction fs with
  | nil => rfl
  | cons f fs ih =>
    have hone := hf f List.mem_cons_self s
    rw [prepAll] at h ⊢
    split at h
    · next heq =>
      rw [heq] at hone
      obtain rfl := hone nofun
      exact ih (fun g hg => hf g (List.mem_cons_of_mem _ hg)) h
    · next heq =>
      rw [heq] at hone
      exact hone nofun
    · exact absurd rfl h

theorem prepStore_state {s : State} {m : MemArgs} {k : AccKind} {l : Nat} (h : (s.prepStore m k l).1 ≠ .wait) : (s.prepStore m k l).2 = s := by
  unfold State.prepStore at h ⊢
  split_ifs at h ⊢
  · rfl
  · refine prepAll_state (fun f hf u hu => ?_) h
    obtain ⟨a, -, rfl⟩ := List.mem_map.1 hf
    exact prepWrite_state hu

/-- A lane that does not wait leaves the state to the next; none waits where the store does not. -/
theorem prepStores_ready {s : State} {m : MemArgs} {k : AccKind} {lanes : List Nat} (h : ∀ l ∈ lanes, (s.prepStore m k l).1 ≠ .wait) :
    s.prepStores m k lanes = (false, s) := by
  unfold State.prepStores
  induction lanes with
  | nil => rfl
  | cons l lanes ih =>
    have hl := h l List.mem_cons_self
    have hs := prepStore_state hl
    rw [List.foldl_cons]
    dsimp only
    split
    · next heq => rw [heq] at hl; exact absurd rfl hl
    · next heq =>
      rw [heq] at hs
      obtain rfl := hs
      exact ih fun x hx => h x (List.mem_cons_of_mem _ hx)

theorem prepStores_waits {s : State} {m : MemArgs} {k : AccKind} {lanes : List Nat} (h : (s.prepStores m k lanes).1 = false) :
    ∀ l ∈ lanes, (s.prepStore m k l).1 ≠ .wait := by
  have hfold (ls : List Nat) (b : Bool) (u : State) (h : (ls.foldl (fun (acc : Bool × State) l =>
      match acc.2.prepStore m k l with
      | (.wait, t) => (true, t)
      | (_, t) => (acc.1, t)) (b, u)).1 = false) : b = false ∧ ∀ l ∈ ls, (u.prepStore m k l).1 ≠ .wait := by
    induction ls generalizing b u with
    | nil => exact ⟨h, nofun⟩
    | cons l ls ih =>
      have hs := prepStore_state (s := u) (m := m) (k := k) (l := l)
      rw [List.foldl_cons] at h
      dsimp only at h
      split at h
      · exact absurd (ih _ _ h).1 nofun
      · next hne heq =>
        have hready : (u.prepStore m k l).1 ≠ .wait := by
          rw [heq]
          exact hne
        rw [heq] at hs hready
        obtain rfl := hs hready
        obtain ⟨hb, hrest⟩ := ih _ _ h
        exact ⟨hb, List.forall_mem_cons.2 ⟨by rw [heq]; exact hready, hrest⟩⟩
  exact (hfold lanes false s h).2

/-- A lane stores where nothing faults before it, no poisoned entry is met, and no word would enter the side log. -/
theorem storeOrTrap_stores {u : State} {m : MemArgs} {k : AccKind} {mk : Nat → Src → WriteOp} {l : Nat} (fs : List (Nat × AccFault))
    (hprep : ∀ f, (u.prepStore m k l).1 ≠ .fault f) (hecc : (u.laneEcc m l (u.storeOps m mk l)).1 = none)
    (hlog : u.laneLogged m l (u.storeOps m mk l) = []) :
    State.storeOrTrap m k mk (u, fs) l = (u.storeLane m l (u.storeOps m mk l), fs) := by
  obtain ⟨v, hx⟩ : ∃ v, u.laneEcc m l (u.storeOps m mk l) = (none, v) := ⟨_, Prod.ext hecc rfl⟩
  unfold State.storeOrTrap
  dsimp only
  rw [hx, hlog]
  split
  · next heq => exact absurd heq (hprep _)
  · next heq _ => cases heq
  · rfl

/-! ## Words on chip -/

/-- The words of a store on chip: the lane, the place and the data register of each, in the order in which they are stored. -/
def chipWords (s : State) (m : MemArgs) : List (Nat × Nat × Src) :=
  (s.memLanes m).flatMap (fun l => ((s.memWords m l).zip m.data).map (fun x => (l, chipPlace s m l x.1, x.2)))

/-- One word stored on chip. -/
def putChip (who : Party) (mk : Nat → Src → WriteOp) (t : State) (x : Nat × Nat × Src) : State := t.performFlat who x.2.1 (mk x.1 x.2.2)

theorem mem_storeOps {s : State} {m : MemArgs} {mk : Nat → Src → WriteOp} {l : Nat} {x : Word × WriteOp} (hx : x ∈ s.storeOps m mk l) : x.1 ∈ s.memWords m l :=
  (List.of_mem_zip (show (x.1, x.2) ∈ _ from hx)).1

section
variable {s : State} {m : MemArgs} {lanes : List Nat} (hchip : OnChip s m lanes)
include hchip

theorem decode_onChip {l : Nat} (hl : l ∈ lanes) {a : Word} (ha : a ∈ s.memWords m l) :
    s.decodeAddr (s.laneReq l) m.space a m.size = some (.chip (chipPlace s m l a)) ∧
    s.lineAbsent (chipPlace s m l a) = false ∧ s.lineEmpty (chipPlace s m l a) = false := by
  obtain ⟨-, hwords⟩ := hchip l hl
  obtain ⟨x, hx, habsent, hempty⟩ := hwords a ha
  have hplace : chipPlace s m l a = x := by rw [chipPlace, hx]
  rw [hplace]
  exact ⟨hx, habsent, hempty⟩

theorem prepStore_chip {l : Nat} (hl : l ∈ lanes) (k : AccKind) : s.prepStore m k l = (.ready, s) := by
  obtain ⟨haligned, -⟩ := hchip l hl
  unfold State.prepStore
  rw [if_neg (by rw [haligned]; nofun)]
  refine prepAll_ready _ fun f hf => ?_
  obtain ⟨a, ha, rfl⟩ := List.mem_map.1 hf
  obtain ⟨hdec, habsent, hempty⟩ := decode_onChip hchip hl ha
  show s.prepWrite (s.laneReq l) m.space a m.size k = _
  rw [State.prepWrite, hdec]
  show s.prepLine _ _ = _
  rw [State.prepLine, if_neg (by rw [habsent]; nofun), if_neg (by rw [hempty]; nofun)]

theorem prepStores_chip (k : AccKind) : s.prepStores m k lanes = (false, s) :=
  prepStores_ready fun l hl => by rw [prepStore_chip hchip hl k]; nofun

theorem storesGlobal_chip : s.storesGlobal m lanes = false := by
  refine List.any_eq_false.2 fun l hl => ?_
  rw [Bool.not_eq_true]
  refine List.any_eq_false.2 fun a ha => ?_
  rw [(decode_onChip hchip hl ha).1]
  nofun

variable {u : State} (hu : Locates s u)
include hu

theorem prepStore_not_fault {l : Nat} (hl : l ∈ lanes) (k : AccKind) (e : AccFault) : (u.prepStore m k l).1 ≠ .fault e := by
  obtain ⟨haligned, -⟩ := hchip l hl
  unfold State.prepStore
  rw [hu.memAddr, if_neg (by rw [haligned]; nofun), hu.memWords]
  refine prepAll_not_fault (P := Locates s) _ (fun f hf v hv => ?_) hu e
  obtain ⟨a, ha, rfl⟩ := List.mem_map.1 hf
  have hreq : u.laneReq l = v.laneReq l := by rw [hu.laneReq, hv.laneReq]
  show Locates s (v.prepWrite (u.laneReq l) m.space a m.size k).2 ∧ ∀ e, (v.prepWrite (u.laneReq l) m.space a m.size k).1 ≠ .fault e
  rw [hreq, State.prepWrite, hv.wordDecode, (decode_onChip hchip hl ha).1]
  refine ⟨hv.trans (loads_prepLine v l _).locates, fun e => ?_⟩
  show (v.prepLine _ _).1 ≠ _
  unfold State.prepLine
  split_ifs <;> nofun

theorem storeLane_chip {l : Nat} (hl : l ∈ lanes) (mk : Nat → Src → WriteOp) : u.storeLane m l (u.storeOps m mk l) =
    (((s.memWords m l).zip m.data).map (fun x => (l, chipPlace s m l x.1, x.2))).foldl (putChip s.curParty mk) u := by
  have hfold (xs : List (Word × Src)) (h : ∀ x ∈ xs, x.1 ∈ s.memWords m l) (acc : List Nat) {v : State} (hv : Locates s v) :
      ((xs.map (fun x => (x.1, mk l x.2))).foldl (fun (acc : List Nat × State) x => acc.2.storeWord m l acc.1 x) (acc, v)).2 =
        (xs.map (fun x => (l, chipPlace s m l x.1, x.2))).foldl (putChip s.curParty mk) v := by
    induction xs generalizing v with
    | nil => rfl
    | cons x xs ih =>
      have hword : v.storeWord m l acc (x.1, mk l x.2) = (acc, putChip s.curParty mk v (l, chipPlace s m l x.1, x.2)) := by
        rw [State.storeWord, hv.wordDecode, (decode_onChip hchip hl (h x List.mem_cons_self)).1, putChip, ← curParty_congr hv.cur]
        rfl
      have hnext : Locates s (putChip s.curParty mk v (l, chipPlace s m l x.1, x.2)) := by
        rw [putChip, ← curParty_congr hv.cur]
        exact hv.trans (loads_performLoc v none (.flat _) _).locates
      rw [List.map_cons, List.map_cons, List.foldl_cons, List.foldl_cons]
      show (List.foldl _ (v.storeWord m l acc (x.1, mk l x.2)) _).2 = _
      rw [hword]
      exact ih (fun y hy => h y (List.mem_cons_of_mem _ hy)) hnext
  rw [State.storeLane, State.storeOps, hu.memWords, List.zip_map_right]
  exact hfold _ (fun x hx => (List.of_mem_zip (show (x.1, x.2) ∈ _ from hx)).1) [] hu

theorem storeOrTrap_chip {l : Nat} (hl : l ∈ lanes) (k : AccKind) (mk : Nat → Src → WriteOp) (fs : List (Nat × AccFault)) :
    State.storeOrTrap m k mk (u, fs) l =
      ((((s.memWords m l).zip m.data).map (fun x => (l, chipPlace s m l x.1, x.2))).foldl (putChip s.curParty mk) u, fs) := by
  have hdecode {x : Word × WriteOp} (hx : x ∈ u.storeOps m mk l) :
      u.decodeAddr (u.laneReq l) m.space x.1 m.size = some (.chip (chipPlace s m l x.1)) := by
    rw [hu.wordDecode]
    exact (decode_onChip hchip hl (mem_storeOps (hu.storeOps m mk l ▸ hx))).1
  have hecc (ops : List (Word × WriteOp)) (h : ∀ x ∈ ops, x ∈ u.storeOps m mk l) : (u.laneEcc m l ops).1 = none := by
    induction ops with
    | nil => rfl
    | cons x ops ih =>
      rw [State.laneEcc, hdecode (h x List.mem_cons_self)]
      exact ih fun y hy => h y (List.mem_cons_of_mem _ hy)
  rw [storeOrTrap_stores fs (prepStore_not_fault hchip hu hl k) (hecc _ fun _ h => h), storeLane_chip hchip hu hl]
  refine List.filterMap_eq_nil_iff.2 fun x hx => ?_
  rw [hdecode hx]

end

/-- Lanes whose words lie on chip store them one after another. -/
theorem storeLanes_chip {s u : State} {m : MemArgs} (hchip : OnChip s m (s.memLanes m)) (hu : Locates s u) (k : AccKind) (mk : Nat → Src → WriteOp) :
    u.storeLanes m k mk (s.memLanes m) = (chipWords s m).foldl (putChip s.curParty mk) u := by
  have hkeeps (xs : List (Nat × Nat × Src)) {v : State} (hv : Locates s v) : Locates s (xs.foldl (putChip s.curParty mk) v) := by
    induction xs generalizing v with
    | nil => exact hv
    | cons x xs ih =>
      refine ih ?_
      rw [putChip, ← curParty_congr hv.cur]
      exact hv.trans (loads_performLoc v none (.flat _) _).locates
  have hfold (ls : List Nat) (h : ∀ l ∈ ls, l ∈ s.memLanes m) {v : State} (hv : Locates s v) : ls.foldl (State.storeOrTrap m k mk) (v, []) =
      ((ls.flatMap (fun l => ((s.memWords m l).zip m.data).map (fun x => (l, chipPlace s m l x.1, x.2)))).foldl (putChip s.curParty mk) v, []) := by
    induction ls generalizing v with
    | nil => rfl
    | cons l ls ih =>
      rw [List.foldl_cons, storeOrTrap_chip hchip hv (h l List.mem_cons_self), List.flatMap_cons, List.foldl_append]
      exact ih (fun x hx => h x (List.mem_cons_of_mem _ hx)) (hkeeps _ hv)
  rw [State.storeLanes, hfold _ (fun _ h => h) hu]
  rfl

theorem storeStep_chip {s : State} {m : MemArgs} (hpub : s.pubPending s.curGroup = false) (hchip : OnChip s m (s.memLanes m)) (k : AccKind)
    (mk : Nat → Src → WriteOp) (post : State → State) :
    s.storeStep m k mk post = .next (post ((chipWords s m).foldl (putChip s.curParty mk) s.advance)) := by
  unfold State.storeStep
  dsimp only
  rw [if_neg (by rw [hpub]; nofun), prepStores_chip hchip, storesGlobal_chip hchip]
  simp only [Bool.false_eq_true, if_false, Bool.not_true]
  rw [storeLanes_chip hchip (locates_advance s)]

/-! ## What words stored on chip leave -/

theorem serves_putChips (who : Party) (mk : Nat → Src → WriteOp) (xs : List (Nat × Nat × Src)) (s : State) :
    Serves s (xs.foldl (putChip who mk) s) :=
  Serves.foldl (op := putChip who mk) (fun u x => serves_performFlat u who x.2.1 _) xs s

theorem byteAt_putChips {who : Party} {mk : Nat → Src → WriteOp} {xs : List (Nat × Nat × Src)} {n a : Nat} (hlen : ∀ l d, (mk l d).len = n)
    (h : ∀ x ∈ xs, a < x.2.1 ∨ x.2.1 + n ≤ a) (s : State) : (xs.foldl (putChip who mk) s).byteAt a = s.byteAt a :=
  byteAt_foldl xs (fun x hx u => byteAt_performFlat u who _ (by rw [hlen]; exact h x hx)) s

theorem mem_storeChips (who : Party) (bytes : Nat → Src → List Byte) (xs : List (Nat × Nat × Src)) (s : State) :
    (xs.foldl (putChip who (fun l d => .store (bytes l d))) s).mem = xs.foldl (fun c x => memSetMany c x.2.1 (bytes x.1 x.2.2)) s.mem := by
  induction xs generalizing s with
  | nil => rfl
  | cons x xs ih =>
    rw [List.foldl_cons, ih, putChip, mem_store]
    rfl

theorem isPoisoned_reduce {s : State} {who : Party} {a b : Nat} {op : BitVec 3} {tag : Tag} {un : Bool} {v : Word} (h : s.isPoisoned b = false) :
    (s.performFlat who a (.reduce op tag un v)).isPoisoned b = false := by
  have hput (bs : List Byte) (n : Nat) :
      (if spaceOf a = 7 then s.writeOwn a bs else (s.write who a bs).markDirty a n).isPoisoned b = false := by
    rw [State.isPoisoned, List.contains_eq_mem, decide_eq_false_iff_not] at h ⊢
    refine fun hmem => h ?_
    split at hmem
    · exact (List.mem_filter.1 hmem).1
    · have hmark : ((s.write who a bs).markDirty a n).poison = (s.write who a bs).poison := by
        unfold State.markDirty
        split
        · rfl
        · dsimp only
          split <;> rfl
      rw [hmark] at hmem
      exact ((mem_poison_write s who a bs _).1 hmem).1
  rw [State.performFlat]
  split
  · exact h
  · exact hput _ _

/-- The word that a reduction of a lane leaves, from the word there. -/
def reducedBytes (s : State) (f : BitVec 3) (un : Bool) (c : List Host.Cell) (x : Nat × Nat × Src) : List Byte :=
  leBytes 8 (mergeWord f.toNat (s.srcTagOf x.1 x.2.2) un (BitVec.ofNat 64 (ofLe (memGetMany c x.2.1 8))) (s.srcBits x.1 x.2.2)).toNat

theorem mem_reduceChips (who : Party) (r : State) (f : BitVec 3) (un : Bool) (xs : List (Nat × Nat × Src)) (s : State)
    (h : ∀ x ∈ xs, s.isPoisoned x.2.1 = false) :
    (xs.foldl (putChip who (fun l d => .reduce f (r.srcTagOf l d) un (r.srcBits l d))) s).mem =
      xs.foldl (fun c x => memSetMany c x.2.1 (reducedBytes r f un c x)) s.mem := by
  induction xs generalizing s with
  | nil => rfl
  | cons x xs ih =>
    rw [List.foldl_cons, ih, putChip, mem_reduce s who (h x List.mem_cons_self)]
    · rfl
    · exact fun y hy => isPoisoned_reduce (h y (List.mem_cons_of_mem _ hy))

end Sys2Proof.Proofs
end

section
/-! What every store and every reduction leaves of memory: the bytes beside those its words reach keep their values (R381, R383, R204). -/

namespace Sys2Proof.Proofs

open Sys2Proof Sys2Proof.Machine Sys2Proof.Laws

/-! ## Bytes that a step may reach -/

/-- `t` keeps the registers of `s`, and the bytes that are not reached. -/
structure Stores (reach : Nat → Bool) (s t : State) : Prop where
  regs : t.regs = s.regs
  bytes : ∀ a, reach a = false → t.byteAt a = s.byteAt a

theorem Stores.of_mem {reach : Nat → Bool} {s t : State} (hr : t.regs = s.regs) (hm : t.mem = s.mem) : Stores reach s t :=
  ⟨hr, fun a _ => byteAt_of_mem_eq hm a⟩

theorem Stores.refl (reach : Nat → Bool) (s : State) : Stores reach s s := .of_mem rfl rfl

/-- One step after another reaches what either reaches. -/
theorem Stores.trans {r q : Nat → Bool} {s t u : State} (h : Stores r s t) (k : Stores q t u) : Stores (fun a => r a || q a) s u := by
  refine ⟨k.regs.trans h.regs, fun a ha => ?_⟩
  obtain ⟨hr, hq⟩ := Bool.or_eq_false_iff.1 ha
  exact (k.bytes a hq).trans (h.bytes a hr)

theorem Checked.stores {reach : Nat → Bool} {s t : State} (h : Checked s t) : Stores reach s t :=
  .of_mem (by rw [h.frame]) h.mem

theorem Trapping.stores {reach : Nat → Bool} {s t : State} (h : Trapping s t) : Stores reach s t := .of_mem h.regs h.mem

/-! ## One word of a store -/

/-- A word of a store as its instruction makes it: aligned to its length, a power of two up to 8. -/
def Aligned (n : Nat) (x : Word × WriteOp) : Prop := x.2.len = n ∧ n ∣ x.1.toNat

theorem decode_global {s : State} {r : Req} {space n va : Nat} {a : Word} (h : s.decodeAddr r space a n = some (.global va)) : va = a.toNat := by
  have hoff {sp off : Nat} (h : s.decodeOff r sp off n = some (.global va)) : sp = 0 ∧ va = off := by
    unfold State.decodeOff at h
    repeat' split at h
    all_goals simp_all
  unfold State.decodeAddr at h
  split at h
  · split at h
    · next sp off hap =>
      obtain ⟨rfl, rfl⟩ := hoff h
      unfold apertureOf at hap
      split at hap <;> simp_all [spGlobal, spLane, spCore, spRidge, spChip]
    · cases h
  · exact (hoff h).2

theorem resolve_ok_fits {s : State} {r : Req} {space n m : Nat} {a : Word} {k : AccKind} {p : Spot} (h : (s.resolve r space a n k).1 = .ok p)
    (hm : m ∣ 8) (ha : m ∣ a.toNat) : LocFits p.loc m := by
  unfold State.resolve at h
  split at h
  · cases h
  · cases h
    trivial
  · next hdec =>
    obtain rfl := decode_global hdec
    split at h
    · cases h
    · cases h
      exact locFits_locOf _ _ _ _ hm ha

/-- Whether an access through a leaf may change a byte by its A and D bits. -/
def leafTouches (p : Spot) (a : Nat) : Bool := match p.leaf with | some f => a == f.entryAt + 1 | none => false

/-- A word performed at a place reaches its leaf and what a write at the place reaches. -/
theorem wordReaches_performed {s : State} {m : MemArgs} {l va : Nat} {x : Word × WriteOp} {p : Spot}
    (hdec : s.decodeAddr (s.laneReq l) m.space x.1 m.size = some (.global va)) (hstages : s.stages s.curGroup.wg = false)
    (hfault : s.storeFault (s.laneReq l) (s.curThread l) va x.2 = none)
    (hp : (s.resolve (s.laneReq l) spGlobal (BitVec.ofNat 64 va) x.2.len x.2.kind).1 = .ok p) :
    wordReaches s m l x = fun a => leafTouches p a || locReaches p.loc x.2.len a := by
  funext a
  rw [wordReaches, hdec]
  dsimp only
  rw [hstages, hfault, hp]
  obtain ⟨loc, leaf⟩ := p
  cases loc <;> simp only [spotTouches, leafTouches, locReaches, Option.isSome_none, Bool.or_self, Bool.false_eq_true, if_false, Bool.or_false] <;> rfl

theorem stores_touchSpot (s : State) (p : Spot) (write : Bool) :
    Stores (leafTouches p) s (s.touchSpot p write) := by
  refine ⟨(accesses_touchSpot s p write).fields.2.2.1, fun a ha => byteAt_touchSpot s write fun f hf => ?_⟩
  simpa [leafTouches, hf] using ha

theorem stores_performLoc (s : State) (who : Party) (thread : Option ThreadId) {loc : Loc} {op : WriteOp} (hfits : LocFits loc op.len) :
    Stores (locReaches loc op.len) s (s.performLoc who thread loc op) :=
  ⟨(accesses_performLoc s who thread loc op).fields.2.2.1, fun _ ha => byteAt_performLoc s who thread hfits ha⟩

theorem stageWord_frame (s : State) (t : ThreadId) (r : Req) (va : Nat) (op : WriteOp) :
    s.stageWord t r va op = { s with staged := (s.stageWord t r va op).staged, nextId := (s.stageWord t r va op).nextId } := by
  unfold State.stageWord
  split <;> rfl

theorem storeGlobal_logs {s : State} {r : Req} {t : ThreadId} {faulted : List Nat} {va : Nat} {op : WriteOp} {f : AccFault} {reach : Nat → Bool}
    (h : s.storeFault r t va op = some f) : Stores reach s (s.storeGlobal r t faulted va op).2 := by
  unfold State.storeGlobal
  rw [h]
  dsimp only
  rw [stageWord_frame]
  split <;> exact .of_mem rfl rfl

theorem storeGlobal_stages {s : State} {r : Req} {t : ThreadId} {va : Nat} {op : WriteOp} (faulted : List Nat)
    (h : s.storeFault r t va op = none) (hstages : s.stages t.wg = true) :
    s.storeGlobal r t faulted va op = (faulted, s.stageWord t r va op) := by
  unfold State.storeGlobal
  rw [h]
  dsimp only
  rw [if_pos hstages]

theorem storeGlobal_performs {s : State} {r : Req} {t : ThreadId} {va : Nat} {op : WriteOp} {p : Spot} (faulted : List Nat)
    (h : s.storeFault r t va op = none) (hstages : s.stages t.wg = false)
    (hp : (s.resolve r spGlobal (BitVec.ofNat 64 va) op.len op.kind).1 = .ok p) : s.storeGlobal r t faulted va op =
      (faulted, (((s.resolve r spGlobal (BitVec.ofNat 64 va) op.len op.kind).2.touchSpot p true).performLoc r.who (some t) p.loc op)) := by
  obtain ⟨v, hv⟩ : ∃ v, s.resolve r spGlobal (BitVec.ofNat 64 va) op.len op.kind = (.ok p, v) := ⟨_, Prod.ext hp rfl⟩
  unfold State.storeGlobal
  rw [h]
  dsimp only
  rw [if_neg (by rw [hstages]; nofun), hv]

/-- A word that no fault stops and that is not staged has a place. -/
theorem resolve_of_storeFault {s : State} {r : Req} {t : ThreadId} {va : Nat} {op : WriteOp} (h : s.storeFault r t va op = none) :
    ∃ p, (s.resolve r spGlobal (BitVec.ofNat 64 va) op.len op.kind).1 = .ok p := by
  unfold State.storeFault at h
  split at h
  · cases h
  · split at h
    · cases h
    · next heq => exact ⟨_, congrArg Prod.fst heq⟩

theorem stores_storeWord (s : State) {m : MemArgs} {l : Nat} (acc : List Nat) {x : Word × WriteOp} (hsize : m.size ∣ 8)
    (hx : Aligned m.size x) : Stores (wordReaches s m l x) s (s.storeWord m l acc x).2 := by
  obtain ⟨hlen, haligned⟩ := hx
  unfold State.storeWord
  split
  · next va hdec =>
    have hva := decode_global hdec
    cases hfault : s.storeFault (s.laneReq l) (s.curThread l) va x.2 with
    | some f => exact storeGlobal_logs hfault
    | none =>
      cases hstages : s.stages (s.curThread l).wg with
      | true =>
        rw [storeGlobal_stages acc hfault hstages, stageWord_frame]
        exact .of_mem rfl rfl
      | false =>
        obtain ⟨p, hp⟩ := resolve_of_storeFault hfault
        have hfits : LocFits p.loc x.2.len := by
          refine resolve_ok_fits hp (hlen ▸ hsize) ?_
          rw [hlen, hva, BitVec.ofNat_toNat, BitVec.setWidth_eq]
          exact haligned
        rw [storeGlobal_performs acc hfault hstages hp, wordReaches_performed hdec hstages hfault hp]
        have hresolved : Stores (fun _ => false) s (s.resolve (s.laneReq l) spGlobal (BitVec.ofNat 64 va) x.2.len x.2.kind).2 :=
          (checked_resolve s _ _ _ _ _).stores
        exact hresolved.trans ((stores_touchSpot _ p true).trans (stores_performLoc _ _ _ hfits))
  · next a hdec =>
    refine ⟨(stores_performLoc s s.curParty (some (s.curThread l)) (loc := .flat a) (op := x.2) trivial).regs, fun b hb => ?_⟩
    refine byteAt_performLoc s _ _ trivial ?_
    rwa [wordReaches, hdec] at hb
  · exact .refl _ s

/-! ## The words of a lane -/

theorem stores_storeLane (s : State) {m : MemArgs} (l : Nat) (hsize : m.size ∣ 8) (ops : List (Word × WriteOp)) (h : ∀ x ∈ ops, Aligned m.size x) :
    Stores (laneReaches s m l [] ops) s (s.storeLane m l ops) := by
  have hfold (ops : List (Word × WriteOp)) (h : ∀ x ∈ ops, Aligned m.size x) (acc : List Nat) (u : State) : Stores (laneReaches u m l acc ops) u
      (ops.foldl (fun (acc : List Nat × State) x => acc.2.storeWord m l acc.1 x) (acc, u)).2 := by
    induction ops generalizing acc u with
    | nil => exact .refl _ u
    | cons x ops ih =>
      exact (stores_storeWord u acc hsize (h x List.mem_cons_self)).trans (ih (fun y hy => h y (List.mem_cons_of_mem _ hy)) _ _)
  exact hfold ops h [] s

theorem checked_laneEcc (s : State) (m : MemArgs) (l : Nat) (ops : List (Word × WriteOp)) : Checked s (s.laneEcc m l ops).2 := by
  induction ops with
  | nil => exact .refl s
  | cons x ops ih =>
    rw [State.laneEcc]
    split
    · next va _ =>
      have hres := checked_resolve s (s.laneReq l) spGlobal (BitVec.ofNat 64 va) x.2.len x.2.kind
      split
      · exact ih
      · split
        · next heq =>
          rw [heq] at hres
          split
          · exact hres
          · exact ih
        · exact ih
    · exact ih

/-- The words of a lane whose address is aligned are aligned. -/
theorem aligned_storeOps {s : State} {m : MemArgs} {mk : Nat → Src → WriteOp} {l : Nat} (hsize : m.size ∣ 8) (hmk : ∀ l d, (mk l d).len = m.size)
    (h : (s.memAddr m l).toNat % m.size = 0) : ∀ x ∈ s.storeOps m mk l, Aligned m.size x := by
  intro x hx
  obtain ⟨hword, hop⟩ := List.of_mem_zip (show (x.1, x.2) ∈ _ from hx)
  obtain ⟨d, -, hd⟩ := List.mem_map.1 hop
  obtain ⟨i, -, hi⟩ := List.mem_map.1 hword
  refine ⟨by rw [← hd, hmk], ?_⟩
  have hpow : m.size ∣ 2 ^ 64 := hsize.trans (by decide)
  rw [← hi, BitVec.toNat_add, BitVec.toNat_ofNat, Nat.dvd_mod_iff hpow]
  exact (Nat.dvd_of_mod_eq_zero h).add ((Nat.dvd_mod_iff hpow).2 (Nat.dvd_mul_left _ _))

/-- The state that a lane leaves does not depend on the lanes that are to trap. -/
theorem storeOrTrap_fst (u : State) (m : MemArgs) (k : AccKind) (mk : Nat → Src → WriteOp) (fs : List (Nat × AccFault)) (l : Nat) :
    (State.storeOrTrap m k mk (u, fs) l).1 = (State.storeOrTrap m k mk (u, []) l).1 := by
  unfold State.storeOrTrap
  dsimp only
  split
  · rfl
  · rfl
  · split
    · rfl
    · split <;> rfl

theorem stores_storeOrTrap (u : State) {m : MemArgs} (k : AccKind) {mk : Nat → Src → WriteOp} (l : Nat) (hsize : m.size ∣ 8)
    (hmk : ∀ l d, (mk l d).len = m.size) :
    Stores (laneReaches u m l [] (u.storeOps m mk l)) u (State.storeOrTrap m k mk (u, []) l).1 := by
  have hecc := checked_laneEcc u m l (u.storeOps m mk l)
  by_cases haligned : (u.memAddr m l).toNat % m.size = 0
  · have hstore := stores_storeLane u l hsize _ (aligned_storeOps hsize hmk haligned)
    unfold State.storeOrTrap
    dsimp only
    split
    · exact .refl _ u
    · next heq _ =>
      rw [heq] at hecc
      exact hecc.stores
    · split
      · exact hstore
      · split
        · exact .refl _ u
        · exact hstore
  · have hprep : (u.prepStore m k l).1 = .fault (faultAlign (u.laneReq l) k (genericAddr m.space (u.memAddr m l))) := by
      rw [State.prepStore, if_pos haligned]
    unfold State.storeOrTrap
    dsimp only
    rw [hprep]
    exact .refl _ u

/-! ## The lanes of a store -/

theorem trapping_trapLaneFault (s : State) (uni : Bool) (all : List Nat) (pc : Word) (l : Nat) (f : AccFault) :
    Trapping s (s.trapLaneFault uni all pc l f) := by
  have hfold (ls : List Nat) (u : State) : Trapping u (ls.foldl (fun t i => t.trapThread (s.curThread i) f.cause pc f.addr f.info) u) := by
    induction ls generalizing u with
    | nil => exact .refl u
    | cons i ls ih => exact (trapping_trapThread u _ _ _ _ _).trans (ih _)
  exact hfold _ s

theorem stores_storeLanes (s : State) {m : MemArgs} (k : AccKind) {mk : Nat → Src → WriteOp} (hsize : m.size ∣ 8) (hmk : ∀ l d, (mk l d).len = m.size)
    (lanes : List Nat) : Stores (lanesReach s m k mk lanes) s (s.storeLanes m k mk lanes) := by
  have hfold (ls : List Nat) (u : State) (fs : List (Nat × AccFault)) :
      Stores (lanesReach u m k mk ls) u (ls.foldl (State.storeOrTrap m k mk) (u, fs)).1 := by
    induction ls generalizing u fs with
    | nil => exact .refl _ u
    | cons l ls ih =>
      have hrest := ih (State.storeOrTrap m k mk (u, fs) l).1 (State.storeOrTrap m k mk (u, fs) l).2
      rw [storeOrTrap_fst u m k mk fs l] at hrest
      rw [List.foldl_cons, ← Prod.eta (State.storeOrTrap m k mk (u, fs) l), storeOrTrap_fst u m k mk fs l]
      exact (stores_storeOrTrap u k l hsize hmk).trans hrest
  have htraps (xs : List (Nat × AccFault)) (u : State) : Trapping u (xs.foldl (fun t x => t.trapLaneFault m.uni (s.active m.form) s.curPc x.1 x.2) u) := by
    induction xs generalizing u with
    | nil => exact .refl u
    | cons x xs ih => exact (trapping_trapLaneFault u _ _ _ _ _).trans (ih _)
  have hlanes := hfold lanes s []
  have htrap := htraps (lanes.foldl (State.storeOrTrap m k mk) (s, [])).2 (lanes.foldl (State.storeOrTrap m k mk) (s, [])).1
  exact ⟨htrap.regs.trans hlanes.regs, fun a ha => (byteAt_of_mem_eq htrap.mem a).trans (hlanes.bytes a ha)⟩

end Sys2Proof.Proofs
end

section
/-! A pub before and an acquiring pull after a reduction (R182, R386), and what they leave alone. -/

namespace Sys2Proof.Proofs

open Sys2Proof Sys2Proof.Machine Sys2Proof.Laws

/-! ## A pub changes no value (R179) -/

theorem locates_pub (s : State) (x : Scope) (p : Place) : Locates s (s.pub x p) :=
  ⟨rfl, rfl, rfl, rfl, fun w => ⟨(s.wg w).maps, rfl⟩, fun _ => ⟨rfl, rfl⟩, fun _ => rfl⟩

theorem advance_pub (s : State) (x : Scope) (p : Place) : (s.pub x p).advance = s.advance.pub x p := by
  cases hc : s.cur with
  | group wg grp lanes pc len =>
    rw [advance_group s wg grp lanes pc len hc, advance_group (s.pub x p) wg grp lanes pc len hc, noteIssue_group s wg grp lanes pc len hc,
      noteIssue_group (s.pub x p) wg grp lanes pc len hc]
    rfl
  | helm wg pc len => rw [advance_helm s wg pc len hc, advance_helm (s.pub x p) wg pc len hc]; rfl
  | cornice u => rw [advance_cornice s u hc, advance_cornice (s.pub x p) u hc]
  | nobody => rw [advance_nobody s hc, advance_nobody (s.pub x p) hc]

/-- A place in the coherence order after a pub. -/
def pubEntry (x : Scope) (p : Place) (e : HistEntry) : HistEntry :=
  if e.owners.contains p.who && !e.pubs.contains (x, p) then { e with pubs := (x, p) :: e.pubs } else e

theorem pubEntry_keeps (x : Scope) (p : Place) (e : HistEntry) :
    (pubEntry x p e).addr = e.addr ∧ (pubEntry x p e).seq = e.seq ∧ (pubEntry x p e).old = e.old := by
  unfold pubEntry
  split <;> exact ⟨rfl, rfl, rfl⟩

theorem byteAsOf_pub (s : State) (x : Scope) (p : Place) (t a : Nat) : (s.pub x p).byteAsOf t a = s.byteAsOf t a := by
  have hfilter : (s.hist.map (pubEntry x p)).filter (fun e => e.addr == a && decide (t < e.seq)) =
      (s.hist.filter (fun e => e.addr == a && decide (t < e.seq))).map (pubEntry x p) := by
    rw [List.filter_map]
    congr 2
    funext e
    obtain ⟨haddr, hseq, -⟩ := pubEntry_keeps x p e
    rw [Function.comp, haddr, hseq]
  have hhist : (s.pub x p).hist = s.hist.map (pubEntry x p) := rfl
  rw [State.byteAsOf, hhist, hfilter, List.getLast?_map, State.byteAsOf]
  cases (s.hist.filter (fun e => e.addr == a && decide (t < e.seq))).getLast? with
  | none => rfl
  | some e => exact (pubEntry_keeps x p e).2.2

theorem olderEntries_pub (s : State) (x : Scope) (p : Place) (ctx va level ea : Nat) (k : AccKind) :
    (s.pub x p).olderEntries ctx va level ea k = s.olderEntries ctx va level ea k := by
  have hfilter : ((s.hist.map (pubEntry x p)).filter (fun h => decide (ea ≤ h.addr) && decide (h.addr < ea + 8)
      && decide (s.fenceSeq ctx va level < h.seq))).map (fun h => h.seq - 1) =
      (s.hist.filter (fun h => decide (ea ≤ h.addr) && decide (h.addr < ea + 8) && decide (s.fenceSeq ctx va level < h.seq))).map (fun h => h.seq - 1) := by
    rw [List.filter_map, List.map_map]
    refine congrArg₂ List.map ?_ (congrArg (List.filter · s.hist) ?_)
    · funext e
      rw [Function.comp, (pubEntry_keeps x p e).2.1]
    · funext e
      obtain ⟨haddr, hseq, -⟩ := pubEntry_keeps x p e
      rw [Function.comp, haddr, hseq]
  have hfence : (s.pub x p).fenceSeq ctx va level = s.fenceSeq ctx va level := rfl
  have hhist : (s.pub x p).hist = s.hist.map (pubEntry x p) := rfl
  have hnow : (s.pub x p).numAt ea 8 = s.numAt ea 8 := rfl
  rw [State.olderEntries, hfence, hhist, hfilter, State.olderEntries, hnow]
  simp only [byteAsOf_pub]

theorem entryUsed_pub (s : State) (x : Scope) (p : Place) (ctx va level ea : Nat) (k : AccKind) :
    (s.pub x p).entryUsed ctx va level ea k = ((s.entryUsed ctx va level ea k).1, (s.entryUsed ctx va level ea k).2.pub x p) := by
  unfold State.entryUsed
  rw [olderEntries_pub]
  split
  · rfl
  · next older _ =>
    have hchoice (n : Nat) : ((s.pub x p).choose n).1 = (s.choose n).1 := rfl
    dsimp only
    rw [hchoice]
    split <;> rfl

theorem errInjs_entryUsed (s : State) (ctx va level ea : Nat) (k : AccKind) : (s.entryUsed ctx va level ea k).2.errInjs = s.errInjs := by
  unfold State.entryUsed
  split
  · rfl
  · dsimp only
    split <;> rfl

theorem walk_pub {s : State} (hq : s.errInjs = []) (x : Scope) (p : Place) (ctx va : Nat) (k : AccKind) (priv : Bool) (tier frame level fuel : Nat) :
    (s.pub x p).walk ctx va k priv tier frame level fuel =
      ((s.walk ctx va k priv tier frame level fuel).1, (s.walk ctx va k priv tier frame level fuel).2.pub x p) := by
  induction fuel generalizing s tier frame level with
  | zero => rfl
  | succ fuel ih =>
    have hused := errInjs_entryUsed s ctx va level (frameAt tier frame + 8 * levelIndex va level) k
    have hpoison (a : Nat) : (s.pub x p).isPoisoned a = s.isPoisoned a := rfl
    rw [State.walk, State.walk, eccWord_quiet hq, eccWord_quiet (s := s.pub x p) hq]
    dsimp only
    rw [hpoison, entryUsed_pub]
    generalize s.entryUsed ctx va level (frameAt tier frame + 8 * levelIndex va level) k = r at hused ⊢
    dsimp only
    simp only [Bool.false_eq_true, if_false]
    split
    · rfl
    split
    · rfl
    split
    · rfl
    split
    · cases permFault r.1 k priv <;> rfl
    · exact ih (hused.trans hq) _ _ _

theorem translate_pub {s : State} (hq : s.errInjs = []) (x : Scope) (p : Place) (ctx va : Nat) (k : AccKind) (priv : Bool) :
    (s.pub x p).translate ctx va k priv = ((s.translate ctx va k priv).1, (s.translate ctx va k priv).2.pub x p) := by
  have hroot : (s.pub x p).rootUsed ctx va = ((s.rootUsed ctx va).1, (s.rootUsed ctx va).2.pub x p) := by
    have hroots : (s.pub x p).olderRoots ctx va = s.olderRoots ctx va := rfl
    unfold State.rootUsed
    rw [hroots]
    split <;> rfl
  have hquiet : (s.rootUsed ctx va).2.errInjs = [] := by
    rw [← hq]
    unfold State.rootUsed
    split <;> rfl
  unfold State.translate
  dsimp only
  rw [hroot]
  dsimp only
  split
  · rfl
  · exact walk_pub hquiet x p ctx va k priv _ _ 0 5

theorem resolve_pub {s : State} (hq : s.errInjs = []) (x : Scope) (p : Place) (r : Req) (space : Nat) (a : Word) (n : Nat) (k : AccKind) :
    ((s.pub x p).resolve r space a n k).1 = (s.resolve r space a n k).1 := by
  have hclean {u : State} (hu : u.errInjs = []) (array key : Nat) : u.eccClean array key r.ctx = u := by
    rw [State.eccClean, State.eccKept, hu]
    rfl
  unfold State.resolve
  rw [(locates_pub s x p).decodeAddr]
  split
  · rfl
  · rfl
  · next va _ =>
    rw [hclean hq, hclean (u := s.pub x p) hq, translate_pub hq]
    generalize s.translate r.ctx va k r.priv = q
    obtain ⟨e, v⟩ := q
    cases e <;> rfl

/-! ## Preparation after a pub (R182) -/

theorem prepWrite_pub {s : State} (hq : s.errInjs = []) (x : Scope) (p : Place) (r : Req) (space : Nat) (a : Word) (n : Nat) (k : AccKind) :
    ((s.pub x p).prepWrite r space a n k).1 = (s.prepWrite r space a n k).1 := by
  have hline (y : Nat) : ((s.pub x p).prepLine r y).1 = (s.prepLine r y).1 := by
    have habsent : (s.pub x p).lineAbsent y = s.lineAbsent y := rfl
    have hempty : (s.pub x p).lineEmpty y = s.lineEmpty y := rfl
    unfold State.prepLine
    rw [habsent, hempty]
    split_ifs <;> rfl
  have hresolve := resolve_pub hq x p r space a n k
  have hfull (q : Spot) : (s.pub x p).sliceFull q = s.sliceFull q := rfl
  have hchoice : ((s.pub x p).choose 2).1 = (s.choose 2).1 := rfl
  unfold State.prepWrite
  rw [(locates_pub s x p).decodeAddr]
  split
  · rfl
  · exact hline _
  · generalize (s.pub x p).resolve r space a n k = y at hresolve ⊢
    generalize s.resolve r space a n k = z at hresolve ⊢
    obtain ⟨e, v⟩ := y
    obtain ⟨f, w⟩ := z
    obtain rfl : e = f := hresolve
    cases e with
    | error e => rfl
    | ok q =>
      dsimp only
      rw [hfull, hchoice]
      split_ifs <;> rfl

/-- Preparations that answer alike in two states do not wait in the one where they do not in the other. -/
theorem prepAll_not_wait {s v : State} {fs : List (State → Prep × State)} (hsame : ∀ f ∈ fs, (f v).1 = (f s).1)
    (hstate : ∀ f ∈ fs, ∀ u, (f u).1 ≠ .wait → (f u).2 = u) (h : (prepAll s fs).1 ≠ .wait) : (prepAll v fs).1 ≠ .wait := by
  induction fs with
  | nil => nofun
  | cons f fs ih =>
    have hone := hsame f List.mem_cons_self
    have hs := hstate f List.mem_cons_self s
    have hv := hstate f List.mem_cons_self v
    have hrest := ih (fun g hg => hsame g (List.mem_cons_of_mem _ hg)) (fun g hg => hstate g (List.mem_cons_of_mem _ hg))
    rw [prepAll] at h ⊢
    generalize f v = y at hone hv ⊢
    generalize f s = z at hone hs h
    obtain ⟨e, v'⟩ := y
    obtain ⟨e', s'⟩ := z
    obtain rfl : e = e' := hone
    cases e with
    | ready =>
      obtain rfl : v' = v := hv nofun
      obtain rfl : s' = s := hs nofun
      exact hrest h
    | fault f => nofun
    | wait => exact absurd rfl h

theorem prepStores_pub {s : State} (hq : s.errInjs = []) (x : Scope) (p : Place) {m : MemArgs} {k : AccKind} {lanes : List Nat}
    (h : (s.prepStores m k lanes).1 = false) : ((s.pub x p).prepStores m k lanes).1 = false := by
  have hlocates := locates_pub s x p
  rw [prepStores_ready]
  intro l hl
  have hlane := prepStores_waits h l hl
  unfold State.prepStore at hlane ⊢
  rw [hlocates.memAddr, hlocates.laneReq, hlocates.memWords]
  split_ifs at hlane ⊢
  · nofun
  · refine prepAll_not_wait (fun f hf => ?_) (fun f hf u hu => ?_) hlane
    · obtain ⟨a, -, rfl⟩ := List.mem_map.1 hf
      exact prepWrite_pub hq x p _ _ _ _ _
    · obtain ⟨a, -, rfl⟩ := List.mem_map.1 hf
      exact prepWrite_state hu

theorem relPub_cases (s : State) (rel : Bool) (x : Scope) : s.relPub rel x = s ∨ ∃ p, s.relPub rel x = s.pub x p := by
  cases rel with
  | false => exact .inl rfl
  | true => exact .inr ⟨_, rfl⟩

/-! ## The pull of an acquiring reduction (R182, R386) -/

/-- `t` differs from `s` by pubs and pulls of a group and by those that it still has to make. -/
structure PubsOf (g : GroupId) (s t : State) : Prop where
  frame : t = { s with hist := t.hist, floors := t.floors, groups := t.groups }
  group : ∀ x, t.group x = if x = g then { s.group x with pendingPub := (t.group x).pendingPub } else s.group x

theorem pubsOf_of_groups {g : GroupId} {s t : State} (h : t = { s with hist := t.hist, floors := t.floors }) : PubsOf g s t := by
  have hg : t.groups = s.groups := by rw [h]
  refine ⟨by rw [h], fun x => ?_⟩
  rw [group_congr_of hg]
  split <;> rfl

theorem pubsOf_pending (s : State) (g : GroupId) (l : List (Scope × PubKind)) : PubsOf g s (s.setGroup g { s.group g with pendingPub := l }) := by
  refine ⟨rfl, fun x => ?_⟩
  rw [group_setGroup]
  split
  · next heq => rw [heq]
  · rfl

theorem PubsOf.trans {g : GroupId} {s t u : State} (h : PubsOf g s t) (k : PubsOf g t u) : PubsOf g s u := by
  refine ⟨by rw [k.frame, h.frame], fun x => ?_⟩
  rw [k.group x, h.group x]
  split <;> rfl

theorem pubsOf_doPub (s : State) (g : GroupId) (x : Scope) (kind : PubKind) : PubsOf g s (s.doPub g x kind) := by
  cases kind <;> exact pubsOf_of_groups rfl

theorem pubsOf_issuePub (s : State) (x : Scope) (kind : PubKind) : PubsOf s.curGroup s (s.issuePub x kind) := by
  have hsettle (l : List (Scope × PubKind)) (g : GroupId) (u : State) : PubsOf g u (u.settlePubsAux g l) := by
    induction l generalizing u with
    | nil => exact pubsOf_pending u g []
    | cons e l ih =>
      obtain ⟨y, kind⟩ := e
      rw [State.settlePubsAux]
      split
      · exact (pubsOf_doPub u g y kind).trans (ih _)
      · exact pubsOf_pending u g _
  have hsettled (g : GroupId) (u : State) : PubsOf g u (u.settlePubs g) := by
    unfold State.settlePubs
    split
    · exact pubsOf_of_groups rfl
    · exact hsettle _ g u
  exact (pubsOf_pending s s.curGroup _).trans (hsettled _ _)

end Sys2Proof.Proofs
end

section
/-! The statement about stores and reductions: words on chip, the frame of every store, one lane's word in global memory. -/

namespace Sys2Proof.Proofs

open Sys2Proof Sys2Proof.Machine Sys2Proof.Laws

/-! ## The instructions -/

/-- A property of every plain store holds where it holds of each instruction that executes as one. -/
theorem everyStore_of {P : Instr → MemArgs → Prop} (h : ∀ i m, (∀ s, exec i s = s.plainStore m) → m.size ∣ 8 → P i m) : EveryStore P := by
  have hpow (n : BitVec 2) : 2 ^ n.toNat ∣ 8 := pow_dvd_pow 2 (Nat.le_of_lt_succ n.isLt)
  have hsize (p : BitVec 3) (w : R64) (n c : Nat) : (mem64 p w n c).size = n := by
    unfold mem64
    split <;> rfl
  exact ⟨fun m => h _ _ (fun _ => rfl) (dvd_refl 8), fun p w => h _ _ (fun _ => rfl) (by rw [hsize]), fun m => h _ _ (fun _ => rfl) (hpow m.g),
    fun p w => h _ _ (fun _ => rfl) (by rw [hsize]; exact hpow w.so), fun p w => h _ _ (fun _ => rfl) (by rw [hsize])⟩

theorem plainStore_ready {s : State} {m : MemArgs} (hready : ReadableIn s (s.active m.form) (m.base :: m.data) []) :
    s.plainStore m = s.storeStep m .write (fun l d => .store (s.storeBytes m l d)) (fun t => t) := by
  unfold State.plainStore State.storeChecked
  rw [checkFull_ok s _ _ _ _ hready.quiet]
  · intro l hl o ho
    rw [List.append_nil] at hl
    rcases List.mem_cons.1 ho with rfl | ho
    · exact hready.srcs l hl _ List.mem_cons_self
    · obtain ⟨d, hd, rfl⟩ := List.mem_map.1 ho
      exact hready.srcs l hl d (List.mem_cons_of_mem _ hd)
  · exact fun _ _ _ h => absurd h List.not_mem_nil

/-- The operands of a reduction. -/
def redMem (w : R64) : MemArgs := mem64 5 w 8 1

/-- The operation of a lane of a reduction. -/
def redWord (f : BitVec 3) (w : R64) (s : State) (l : Nat) (d : Src) : WriteOp := .reduce f (s.srcTagOf l d) (atomU w) (s.srcBits l d)

/-- What follows a reduction. -/
def redAfter (w : R64) (t : State) : State := if atomAcq w then t.issuePub (atomScope w) .acquire else t

theorem size_redMem (w : R64) : (redMem w).size = 8 := by
  unfold redMem mem64
  split <;> rfl

section
variable {f : BitVec 3} {w : R64} {s : State} (hne : s.active (redMem w).form ≠ [])
  (htags : ∀ l ∈ s.active (redMem w).form, ∀ d ∈ (redMem w).data, redTagOk f.toNat (s.srcTagOf l d) = true)
  (hready : ReadableIn s (s.active (redMem w).form) ((redMem w).base :: (redMem w).data) []) (hrel : s.relWaits (atomRel w) = false)
include hne htags hready hrel

theorem exec_red : exec (.red f w) s =
    (s.relPub (atomRel w) (atomScope w)).storeStep (redMem w) .reduce (redWord f w s) (redAfter w) := by
  have hall : (s.active (redMem w).form).all (s.atomTags (redTagOk f.toNat) false (redMem w)) = true := by
    refine List.all_eq_true.2 fun l hl => ?_
    unfold State.atomTags
    split
    · next d ds hdata =>
      rw [htags l hl d (by rw [hdata]; exact List.mem_cons_self)]
      rfl
    · rfl
  have hcheck : s.checkFull (s.active (redMem w).form) [] (atomOpnds false (redMem w)) [] = .ok s := by
    refine checkFull_ok s _ _ _ _ hready.quiet (fun l hl o ho => ?_) (fun _ _ _ h => absurd h List.not_mem_nil)
    rw [List.append_nil] at hl
    rcases List.mem_cons.1 ho with rfl | ho
    · exact hready.srcs l hl _ List.mem_cons_self
    · obtain rfl := List.mem_singleton.1 ho
      cases hdata : (redMem w).data with
      | nil => rfl
      | cons d ds => exact hready.srcs l hl d (by rw [hdata]; exact List.mem_cons_of_mem _ List.mem_cons_self)
  unfold redMem at hne hall hcheck ⊢
  show execRed f w s = _
  unfold execRed
  dsimp only
  rw [if_neg (by simpa using hne), if_neg (by rw [hall]; nofun), hcheck]
  dsimp only
  rw [if_neg (by rw [hrel]; nofun)]
  rfl

end

theorem exec_red_idle {f : BitVec 3} {w : R64} {s : State} (h : s.active (redMem w).form = []) : exec (.red f w) s = .next s.advance := by
  show (if (s.active (redMem w).form).isEmpty then _ else _) = _
  rw [h]
  rfl

/-! ## A released reduction stores as from its state before the pub (R182) -/

theorem pubPending_of_relWaits {s : State} {rel : Bool} (h : s.relWaits rel = false) : s.pubPending s.curGroup = false :=
  (Bool.or_eq_false_iff.1 h).1

theorem onChip_pub {s : State} {m : MemArgs} {lanes : List Nat} (h : OnChip s m lanes) (x : Scope) (p : Place) : OnChip (s.pub x p) m lanes := by
  have hlocates := locates_pub s x p
  intro l hl
  rw [hlocates.memAddr, hlocates.memWords, hlocates.laneReq]
  simp only [hlocates.decodeAddr]
  exact h l hl

theorem chipWords_pub (s : State) (m : MemArgs) (x : Scope) (p : Place) : chipWords (s.pub x p) m = chipWords s m := by
  have hlocates := locates_pub s x p
  have hlanes : (s.pub x p).memLanes m = s.memLanes m := rfl
  have hplace (l : Nat) (a : Word) : chipPlace (s.pub x p) m l a = chipPlace s m l a := by
    unfold chipPlace
    rw [hlocates.wordDecode]
  simp only [chipWords, hlanes, hlocates.memWords, hplace]

/-- What the pub of a reduction leaves as it was. -/
structure AfterPub (s v : State) : Prop where
  regs : v.regs = s.regs
  mem : v.mem = s.mem
  poison : v.poison = s.poison
  threads : v.advance.threads = s.advance.threads
  groups : v.advance.groups = s.advance.groups
  cur : v.cur = s.cur
  pending : v.pubPending v.curGroup = s.pubPending s.curGroup
  room : (v.stages v.curGroup.wg && v.shareFull v.curGroup.wg) = (s.stages s.curGroup.wg && s.shareFull s.curGroup.wg)
  lanes : ∀ m, v.memLanes m = s.memLanes m
  words : ∀ m, chipWords v m = chipWords s m
  chip : ∀ m lanes, OnChip s m lanes → OnChip v m lanes
  ready : ∀ m k lanes, s.errInjs = [] → (s.prepStores m k lanes).1 = false → (v.prepStores m k lanes).1 = false

theorem afterPub_relPub (s : State) (rel : Bool) (x : Scope) : AfterPub s (s.relPub rel x) := by
  obtain h | ⟨p, h⟩ := relPub_cases s rel x
  · rw [h]
    exact ⟨rfl, rfl, rfl, rfl, rfl, rfl, rfl, rfl, fun _ => rfl, fun _ => rfl, fun _ _ h => h, fun _ _ _ _ h => h⟩
  · rw [h]
    exact ⟨rfl, rfl, rfl, by rw [advance_pub]; rfl, by rw [advance_pub]; rfl, rfl, rfl, rfl, fun _ => rfl, fun m => chipWords_pub s m x p,
      fun _ _ h => onChip_pub h x p, fun _ _ _ hq h => prepStores_pub hq x p h⟩

theorem redAfter_pubs (w : R64) (t : State) : PubsOf t.curGroup t (redAfter w t) := by
  unfold redAfter
  split
  · exact pubsOf_issuePub t _ _
  · exact pubsOf_of_groups rfl

/-! ## Words on chip -/

theorem store_chip {i : Instr} {m : MemArgs} {s : State} (hi : exec i s = s.plainStore m) (hready : ReadableIn s (s.active m.form) (m.base :: m.data) [])
    (hpub : s.pubPending s.curGroup = false) (hchip : OnChip s m (s.memLanes m)) : Completes i s (fun t =>
      (t.regs = s.regs ∧ t.threads = s.advance.threads ∧ t.groups = s.advance.groups ∧
        ∀ a, (∀ x ∈ chipWords s m, a < x.2.1 ∨ x.2.1 + m.size ≤ a) → t.byteAt a = s.byteAt a) ∧
      t.mem = (chipWords s m).foldl (fun c x => memSetMany c x.2.1 (leBytes m.size (s.srcBits x.1 x.2.2).toNat)) s.mem) := by
  refine ⟨_, (hi.trans (plainStore_ready hready)).trans (storeStep_chip hpub hchip _ _ _), ?_⟩
  have hserves := serves_putChips s.curParty (fun l d => .store (s.storeBytes m l d)) (chipWords s m) s.advance
  refine ⟨⟨?_, ?_, ?_, fun a ha => ?_⟩, ?_⟩
  · rw [hserves, ← advance_regs s]
  · rw [hserves]
  · rw [hserves]
  · rw [byteAt_putChips (mk := fun l d => .store (s.storeBytes m l d)) (fun l d => length_leBytes _ _) ha]
    exact byteAt_of_mem_eq (advance_mem s) a
  · rw [mem_storeChips, advance_mem]
    rfl

theorem red_chip {f : BitVec 3} {w : R64} {s : State} (hne : s.active (redMem w).form ≠ [])
    (htags : ∀ l ∈ s.active (redMem w).form, ∀ d ∈ (redMem w).data, redTagOk f.toNat (s.srcTagOf l d) = true)
    (hready : ReadableIn s (s.active (redMem w).form) ((redMem w).base :: (redMem w).data) []) (hrel : s.relWaits (atomRel w) = false)
    (hchip : OnChip s (redMem w) (s.memLanes (redMem w))) (hpoison : ∀ x ∈ chipWords s (redMem w), s.isPoisoned x.2.1 = false) :
    Completes (.red f w) s (fun t =>
      (t.regs = s.regs ∧ t.threads = s.advance.threads ∧
        (if atomAcq w then ∀ g, t.group g = if g = s.curGroup then { s.advance.group g with pendingPub := (t.group g).pendingPub } else s.advance.group g
          else t.groups = s.advance.groups) ∧
        ∀ a, (∀ x ∈ chipWords s (redMem w), a < x.2.1 ∨ x.2.1 + (redMem w).size ≤ a) → t.byteAt a = s.byteAt a) ∧
      t.mem = (chipWords s (redMem w)).foldl (fun c x => memSetMany c x.2.1 (reducedBytes s f (atomU w) c x)) s.mem) := by
  have hpubbed := afterPub_relPub s (atomRel w) (atomScope w)
  generalize hv : s.relPub (atomRel w) (atomScope w) = v at hpubbed
  have hexec := exec_red hne htags hready hrel
  have hlanes := hpubbed.chip _ _ hchip
  rw [← hpubbed.lanes] at hlanes
  rw [hv, storeStep_chip (hpubbed.pending.trans (pubPending_of_relWaits hrel)) hlanes, hpubbed.words] at hexec
  refine ⟨_, hexec, ?_⟩
  have hserves := serves_putChips v.curParty (redWord f w s) (chipWords s (redMem w)) v.advance
  have hmem : ((chipWords s (redMem w)).foldl (putChip v.curParty (redWord f w s)) v.advance).mem =
      (chipWords s (redMem w)).foldl (fun c x => memSetMany c x.2.1 (reducedBytes s f (atomU w) c x)) s.mem := by
    have hwords := mem_reduceChips v.curParty s f (atomU w) (chipWords s (redMem w)) v.advance fun x hx => by
      rw [State.isPoisoned, advance_frame, hpubbed.poison]
      exact hpoison x hx
    rwa [advance_mem, hpubbed.mem] at hwords
  have hbytes (a : Nat) (ha : ∀ x ∈ chipWords s (redMem w), a < x.2.1 ∨ x.2.1 + (redMem w).size ≤ a) :
      ((chipWords s (redMem w)).foldl (putChip v.curParty (redWord f w s)) v.advance).byteAt a = s.byteAt a := by
    rw [byteAt_putChips (mk := redWord f w s) (fun l d => (size_redMem w).symm) ha]
    exact byteAt_of_mem_eq ((advance_mem v).trans hpubbed.mem) a
  generalize hb : (chipWords s (redMem w)).foldl (putChip v.curParty (redWord f w s)) v.advance = b at hserves hmem hbytes ⊢
  have hcur : b.cur = s.cur := by rw [hserves]; exact (cur_advance v).trans hpubbed.cur
  have hgroups : b.groups = s.advance.groups := by rw [hserves]; exact hpubbed.groups
  have hpubs := redAfter_pubs w b
  have hsame : (redAfter w b).mem = b.mem := by rw [hpubs.frame]
  refine ⟨⟨?_, ?_, ?_, fun a ha => (byteAt_of_mem_eq hsame a).trans (hbytes a ha)⟩, hsame.trans hmem⟩
  · rw [hpubs.frame, hserves]
    exact (advance_regs v).trans hpubbed.regs
  · rw [hpubs.frame, hserves]
    exact hpubbed.threads
  · split
    · intro g
      have hg := hpubs.group g
      rwa [curGroup_congr hcur, group_congr_of hgroups] at hg
    · next hacq =>
      rw [redAfter, if_neg hacq]
      exact hgroups

/-! ## Every store -/

theorem storeStep_runs {s : State} {m : MemArgs} {k : AccKind} (hpub : s.pubPending s.curGroup = false)
    (hwait : (s.prepStores m k (s.memLanes m)).1 = false) (hroom : (s.stages s.curGroup.wg && s.shareFull s.curGroup.wg) = false)
    (mk : Nat → Src → WriteOp) (post : State → State) :
    s.storeStep m k mk post = .next (post (s.advance.storeLanes m k mk (s.memLanes m))) := by
  have hshare : s.shareRoom s.curGroup.wg = (true, s) := by
    rw [State.shareRoom, if_pos]
    rw [← Bool.not_and, hroom]
    rfl
  have hpair : (if s.storesGlobal m (s.memLanes m) then s.shareRoom s.curGroup.wg else (true, s)) = (true, s) := by
    rw [hshare]
    exact ite_self _
  unfold State.storeStep
  dsimp only
  rw [if_neg (by rw [hpub]; nofun), prepStores_ready (prepStores_waits hwait), if_neg (by nofun), hpair]
  rfl

theorem store_frame {i : Instr} {m : MemArgs} {s : State} (hi : exec i s = s.plainStore m) (hsize : m.size ∣ 8)
    (hready : ReadableIn s (s.active m.form) (m.base :: m.data) []) (hpub : s.pubPending s.curGroup = false)
    (hwait : (s.prepStores m .write (s.memLanes m)).1 = false) (hroom : (s.stages s.curGroup.wg && s.shareFull s.curGroup.wg) = false) :
    Completes i s (fun t => t.regs = s.regs ∧ ∀ a,
      lanesReach s.advance m .write (fun l d => .store (leBytes m.size (s.srcBits l d).toNat)) (s.memLanes m) a = false → t.byteAt a = s.byteAt a) := by
  refine ⟨_, (hi.trans (plainStore_ready hready)).trans (storeStep_runs hpub hwait hroom _ _), ?_⟩
  have hstores := stores_storeLanes s.advance .write (mk := fun l d => .store (s.storeBytes m l d)) hsize (fun l d => length_leBytes _ _) (s.memLanes m)
  exact ⟨hstores.regs.trans (advance_regs s), fun a ha => (hstores.bytes a ha).trans (byteAt_of_mem_eq (advance_mem s) a)⟩

theorem red_frame {f : BitVec 3} {w : R64} {s : State}
    (htags : ∀ l ∈ s.active (redMem w).form, ∀ d ∈ (redMem w).data, redTagOk f.toNat (s.srcTagOf l d) = true)
    (hready : ReadableIn s (s.active (redMem w).form) ((redMem w).base :: (redMem w).data) []) (hrel : s.relWaits (atomRel w) = false)
    (hwait : (s.prepStores (redMem w) .reduce (s.memLanes (redMem w))).1 = false)
    (hroom : (s.stages s.curGroup.wg && s.shareFull s.curGroup.wg) = false) :
    Completes (.red f w) s (fun t => t.regs = s.regs ∧ ∀ a,
      lanesReach (s.relPub (atomRel w) (atomScope w)).advance (redMem w) .reduce (redWord f w s) (s.memLanes (redMem w)) a = false →
        t.byteAt a = s.byteAt a) := by
  by_cases hne : s.active (redMem w).form = []
  · exact ⟨_, exec_red_idle hne, advance_regs s, fun a _ => byteAt_of_mem_eq (advance_mem s) a⟩
  have hpubbed := afterPub_relPub s (atomRel w) (atomScope w)
  generalize hv : s.relPub (atomRel w) (atomScope w) = v at hpubbed
  have hexec := exec_red hne htags hready hrel
  have hstill := hpubbed.ready _ _ _ hready.quiet hwait
  rw [← hpubbed.lanes] at hstill
  rw [hv, storeStep_runs (hpubbed.pending.trans (pubPending_of_relWaits hrel)) hstill (hpubbed.room.trans hroom), hpubbed.lanes] at hexec
  refine ⟨_, hexec, ?_⟩
  have hpubs := redAfter_pubs w (v.advance.storeLanes (redMem w) .reduce (redWord f w s) (s.memLanes (redMem w)))
  have hstores := stores_storeLanes v.advance .reduce (m := redMem w) (mk := redWord f w s) (by rw [size_redMem]) (fun l d => (size_redMem w).symm)
    (s.memLanes (redMem w))
  generalize v.advance.storeLanes (redMem w) .reduce (redWord f w s) (s.memLanes (redMem w)) = b at hpubs hstores
  have hregs : (redAfter w b).regs = b.regs := by rw [hpubs.frame]
  have hmem : (redAfter w b).mem = b.mem := by rw [hpubs.frame]
  refine ⟨hregs.trans (hstores.regs.trans ((advance_regs v).trans hpubbed.regs)), fun a ha => ?_⟩
  exact (byteAt_of_mem_eq hmem a).trans ((hstores.bytes a ha).trans (byteAt_of_mem_eq ((advance_mem v).trans hpubbed.mem) a))

/-! ## One lane's word in global memory (R99, R381) -/

/-- A lane of one word that no fault stops puts it in global memory. -/
theorem storeLanes_one {u : State} {m : MemArgs} {k : AccKind} {mk : Nat → Src → WriteOp} {l va : Nat} {d : Src} (hdata : m.data = [d])
    (haligned : (u.memAddr m l).toNat % m.size = 0) (hdec : u.decodeAddr (u.laneReq l) m.space (u.memAddr m l) m.size = some (.global va))
    (hfault : u.storeFault (u.laneReq l) (u.curThread l) va (mk l d) = none) :
    u.storeLanes m k mk [l] = (u.storeGlobal (u.laneReq l) (u.curThread l) [] va (mk l d)).2 := by
  have hwords : u.memWords m l = [u.memAddr m l] := by
    rw [State.memWords, hdata]
    show [u.memAddr m l + BitVec.ofNat 64 (0 * m.size)] = _
    rw [Nat.zero_mul]
    exact congrArg (fun a => [a]) (BitVec.add_zero _)
  have hops : u.storeOps m mk l = [(u.memAddr m l, mk l d)] := by
    rw [State.storeOps, hwords, hdata]
    rfl
  obtain ⟨p, hp⟩ := resolve_of_storeFault hfault
  have hprep (e : AccFault) : (u.prepStore m k l).1 ≠ .fault e := by
    have hone : (u.prepWrite (u.laneReq l) m.space (u.memAddr m l) m.size k).1 ≠ .fault e := by
      rw [State.prepWrite, hdec]
      dsimp only
      split
      · split_ifs <;> nofun
      · nofun
    rw [State.prepStore, if_neg (by rw [haligned]; nofun), hwords]
    show (prepAll u [_]).1 ≠ _
    rw [prepAll]
    split
    · nofun
    · next heq =>
      have hanswer : u.prepWrite (u.laneReq l) m.space (u.memAddr m l) m.size k = _ := heq
      rwa [hanswer] at hone
    · nofun
  have hecc : (u.laneEcc m l (u.storeOps m mk l)).1 = none := by
    rw [hops, State.laneEcc, hdec]
    dsimp only
    split
    · rfl
    · split
      · next heq => rw [heq] at hp; cases hp
      · rfl
  have hlog : u.laneLogged m l (u.storeOps m mk l) = [] := by
    rw [hops]
    refine List.filterMap_eq_nil_iff.2 fun x hx => ?_
    obtain rfl := List.mem_singleton.1 hx
    rw [hdec]
    exact hfault
  have hlane := storeOrTrap_stores [] hprep hecc hlog
  rw [State.storeLanes, List.foldl_cons, List.foldl_nil, hlane, hops]
  show (u.storeWord m l [] (u.memAddr m l, mk l d)).2 = _
  rw [State.storeWord, hdec]

section
variable {i : Instr} {m : MemArgs} {s : State} {l va : Nat} {d : Src} (hi : exec i s = s.plainStore m) (hlanes : s.memLanes m = [l]) (hdata : m.data = [d])
  (hready : ReadableIn s (s.active m.form) (m.base :: m.data) []) (hpub : s.pubPending s.curGroup = false)
  (haligned : (s.memAddr m l).toNat % m.size = 0) (hwait : (s.prepStores m .write (s.memLanes m)).1 = false)
  (hdec : s.decodeAddr (s.laneReq l) m.space (s.memAddr m l) m.size = some (.global va))
include hi hlanes hdata hready hpub haligned hwait hdec

theorem exec_store_one (hroom : (s.stages s.curGroup.wg && s.shareFull s.curGroup.wg) = false)
    (hfault : s.advance.storeFault (s.laneReq l) (s.curThread l) va (.store (s.storeBytes m l d)) = none) :
    exec i s = .next (s.advance.storeGlobal (s.laneReq l) (s.curThread l) [] va (.store (s.storeBytes m l d))).2 := by
  have hlocates := locates_advance s
  have hthread : s.advance.curThread l = s.curThread l := by rw [State.curThread, curGroup_congr hlocates.cur, State.curThread]
  have hone := storeLanes_one (u := s.advance) (k := .write) (mk := fun l d => .store (s.storeBytes m l d)) (va := va) hdata (by rwa [hlocates.memAddr])
    (by rwa [hlocates.memAddr, hlocates.wordDecode]) (by rwa [hlocates.laneReq, hthread])
  rw [hlocates.laneReq, hthread] at hone
  rw [hi, plainStore_ready hready, storeStep_runs hpub hwait hroom, hlanes, hone]

theorem store_performed (w : Memory.wf s.mem = true) (hstages : s.stages s.curGroup.wg = false) (hlogged : s.loggedBefore (s.curThread l) (pageOf va) = none)
    {p : Spot} {x : Nat} (hp : (s.advance.resolve (s.laneReq l) spGlobal (BitVec.ofNat 64 va) m.size .write).1 = .ok p) (hloc : p.loc = .flat x) :
    Completes i s (fun t => t.regs = s.regs ∧ t.threads = s.advance.threads ∧ t.bytesAt x m.size = s.storeBytes m l d ∧
      ∀ a, (a < x ∨ x + m.size ≤ a) → spotTouches p a = false → t.byteAt a = s.byteAt a) := by
  have hlen : (s.storeBytes m l d).length = m.size := length_leBytes _ _
  have hoplen : (WriteOp.store (s.storeBytes m l d)).len = m.size := hlen
  have hstages' : s.advance.stages (s.curThread l).wg = false := by rw [advance_frame]; exact hstages
  have hlogged' : s.advance.loggedBefore (s.curThread l) (pageOf va) = none := by rw [advance_frame]; exact hlogged
  obtain ⟨v, hv⟩ : ∃ v, s.advance.resolve (s.laneReq l) spGlobal (BitVec.ofNat 64 va) m.size .write = (.ok p, v) := ⟨_, Prod.ext hp rfl⟩
  have hresolve : s.advance.resolve (s.laneReq l) spGlobal (BitVec.ofNat 64 va) (WriteOp.store (s.storeBytes m l d)).len
      (WriteOp.store (s.storeBytes m l d)).kind = (.ok p, v) := by rw [hoplen]; exact hv
  have hfault : s.advance.storeFault (s.laneReq l) (s.curThread l) va (.store (s.storeBytes m l d)) = none := by
    rw [State.storeFault, hstages', hlogged', hresolve]
    rfl
  have hexec := exec_store_one hi hlanes hdata hready hpub haligned hwait hdec (by rw [hstages]; rfl) hfault
  rw [storeGlobal_performs [] hfault hstages' (congrArg Prod.fst hresolve), hresolve, hloc] at hexec
  refine ⟨_, hexec, ?_⟩
  have hchecked : Checked s.advance v := by
    have h := checked_resolve s.advance (s.laneReq l) spGlobal (BitVec.ofNat 64 va) m.size .write
    rwa [hv] at h
  have haccess : Accesses v ((v.touchSpot p true).performLoc (s.laneReq l).who (some (s.curThread l)) (.flat x) (.store (s.storeBytes m l d))) :=
    (accesses_touchSpot v p true).trans (accesses_performLoc _ _ _ _ _)
  have hvmem : v.mem = s.mem := hchecked.mem.trans (advance_mem s)
  have hwf : Memory.wf (v.touchSpot p true).mem = true := wf_touchSpot (by rwa [hvmem]) p true
  obtain ⟨hbytes, hrest⟩ := bytes_of_mem hwf (mem_store (v.touchSpot p true) (s.laneReq l).who x (s.storeBytes m l d))
  rw [hlen] at hbytes hrest
  refine ⟨?_, ?_, hbytes, fun a ha htouch => (hrest a ha).trans ?_⟩
  · rw [haccess, hchecked.frame]
    exact advance_regs s
  · rw [haccess, hchecked.frame]
  · refine (byteAt_touchSpot v true fun f hf => ?_).trans (byteAt_of_mem_eq hvmem a)
    have hleaf := (Bool.or_eq_false_iff.1 htouch).1
    rw [hf] at hleaf
    simpa using hleaf

theorem store_staged (hstages : s.stages s.curGroup.wg = true) (hfull : s.shareFull s.curGroup.wg = false)
    (hfault : s.advance.storeFault (s.laneReq l) (s.curThread l) va (.store (s.storeBytes m l d)) = none) :
    Completes i s (fun t => t.mem = s.mem ∧ t.regs = s.regs ∧ t.staged = if (s.wg s.curGroup.wg).killed then s.staged else
      s.staged ++ [{ wg := s.curGroup.wg, grp := s.curGroup.grp, order := s.nextId, helm := false, va := va, op := .store (s.storeBytes m l d)
                     priv := !s.curHelm && (s.thread (s.curThread l)).priv }]) := by
  have hstages' : s.advance.stages (s.curThread l).wg = true := by rw [advance_frame]; exact hstages
  have hexec := exec_store_one hi hlanes hdata hready hpub haligned hwait hdec (by rw [hfull, Bool.and_false]) hfault
  rw [storeGlobal_stages [] hfault hstages'] at hexec
  have hkilled : (s.advance.wg (s.curThread l).wg).killed = (s.wg s.curGroup.wg).killed := by rw [advance_frame]; rfl
  refine ⟨_, hexec, ?_⟩
  rw [State.stageWord, hstages', hkilled]
  cases (s.wg s.curGroup.wg).killed with
  | true => exact ⟨advance_mem s, advance_regs s, by rw [advance_frame]; rfl⟩
  | false => exact ⟨advance_mem s, advance_regs s, by rw [advance_frame]; rfl⟩

end

/-! ## The statement -/

/-- Settles O21: words on chip by the walk over them, every store by the bytes that each of its words reaches, one lane's word in global
memory by its place or its staged entry. -/
theorem storeResults : Obligations.StoreResults := by
  unfold Obligations.StoreResults
  refine ⟨⟨everyStore_of fun i m hi _ s _ hready hpub hchip => store_chip (hi s) hready hpub hchip, ?_⟩,
    ⟨everyStore_of fun i m hi hsize s _ hready hpub hwait hroom => store_frame (hi s) hsize hready hpub hwait hroom, ?_⟩,
    everyStore_of fun i m hi _ s l d va _ w hlanes hdata hready hpub haligned hwait hdec => ⟨fun hstages hlogged p x hp hloc => ?_,
      fun hstages hfull hfault => ?_⟩⟩
  · intro f w s m _ _ hne _ htags hready hrel huni hchip hpoison
    have hlanes : s.memLanes m = s.active m.form := by rw [State.memLanes, if_neg (by rw [huni]; nofun)]
    exact red_chip hne htags hready hrel (by rwa [← hlanes] at hchip) hpoison
  · intro f w s m _ _ htags hready hrel huni hwait hroom
    have hlanes : s.memLanes m = s.active m.form := by rw [State.memLanes, if_neg (by rw [huni]; nofun)]
    rw [← hlanes] at hwait ⊢
    exact red_frame htags hready hrel hwait hroom
  · exact store_performed (hi s) hlanes hdata hready hpub haligned hwait hdec w hstages hlogged hp hloc
  · exact store_staged (hi s) hlanes hdata hready hpub haligned hwait hdec hstages hfull hfault

end Sys2Proof.Proofs
end

section
/-! The add and multiply families, selection and address arithmetic: what their operations compute in each element (R326 to R332). -/

namespace Sys2Proof.Proofs

open Sys2Proof Sys2Proof.Machine Sys2Proof.Laws

/-! ## Numbers in a field of bits -/

theorem ofInt_lt (n : Nat) (x : Int) : ofInt n x < 2 ^ n := by
  have h : (0 : Int) < ((2 ^ n : Nat) : Int) := by exact_mod_cast Nat.two_pow_pos n
  have h1 := Int.emod_nonneg x h.ne'
  have h2 := Int.emod_lt_of_pos x h
  simp only [ofInt]
  omega

theorem ofInt_mod (n : Nat) (x : Int) : ofInt n x % 2 ^ n = ofInt n x := Nat.mod_eq_of_lt (ofInt_lt n x)

theorem intMin_le_intMax (n : Nat) (signed : Bool) : intMin n signed ≤ intMax n signed := by
  have h1 : (1 : Int) ≤ 2 ^ (n - 1) := one_le_pow₀ (by norm_num)
  have h2 : (1 : Int) ≤ 2 ^ n := one_le_pow₀ (by norm_num)
  cases signed <;> simp [intMin, intMax]; omega

/-- Limiting to a range by two comparisons is limiting by a minimum and a maximum (R329). -/
theorem clampInt_eq (n : Nat) (signed : Bool) (x : Int) : clampInt n signed x = ofInt n (max (intMin n signed) (min (intMax n signed) x)) := by
  have h := intMin_le_intMax n signed
  rw [clampInt]
  congr 1
  split
  · omega
  · split <;> omega

theorem toSigned_neg_iff {n a : Nat} (h : a < 2 ^ n) : toSigned n a < 0 ↔ ¬a < 2 ^ (n - 1) := by
  rw [toSigned, Nat.mod_eq_of_lt h]
  split <;> omega

/-! ## Carries (R329) -/

theorem addCarry_eq (a b : Word) (c : Bool) :
    addCarry a b c = (BitVec.ofInt 64 ((a.toNat : Int) + b.toNat + (if c then 1 else 0)),
      decide ((a.toNat : Int) + b.toNat + (if c then 1 else 0) < 0 ∨ (2 : Int) ^ 64 ≤ (a.toNat : Int) + b.toNat + (if c then 1 else 0))) := by
  cases c <;> refine Prod.ext (BitVec.eq_of_toNat_eq ?_) (decide_eq_decide.2 ?_) <;>
    simp [addCarry, BitVec.toNat_ofInt] <;> omega

theorem subCarry_eq (a b : Word) (c : Bool) :
    subCarry a b c = (BitVec.ofInt 64 ((a.toNat : Int) - b.toNat - (if c then 1 else 0)),
      decide ((a.toNat : Int) - b.toNat - (if c then 1 else 0) < 0 ∨ (2 : Int) ^ 64 ≤ (a.toNat : Int) - b.toNat - (if c then 1 else 0))) := by
  have ha := a.isLt
  have hb := b.isLt
  cases c <;> refine Prod.ext (BitVec.eq_of_toNat_eq ?_) (decide_eq_decide.2 ?_) <;>
    simp [subCarry, BitVec.toNat_ofInt] <;> omega

/-! ## The statement about the add family -/

theorem abs_element (n a : Nat) (h : a < 2 ^ n) : (if toSigned n a < 0 then (2 ^ n - a) % 2 ^ n else a) % 2 ^ n =
    if a < 2 ^ (n - 1) then a else (2 ^ n - a) % 2 ^ n := by
  by_cases hlow : a < 2 ^ (n - 1)
  · rw [if_neg (by rw [toSigned_neg_iff h]; simpa using hlow), if_pos hlow, Nat.mod_eq_of_lt h]
  · rw [if_pos ((toSigned_neg_iff h).2 hlow), if_neg hlow, Nat.mod_mod]

/-- Settles O1: every operation of the family is one function of the elements, taken modulo 2^w once more by its register. -/
theorem integerAddSubResults : Obligations.IntegerAddSubResults := by
  unfold Obligations.IntegerAddSubResults
  have wraps : ∀ n x : Nat, x % 2 ^ n % 2 ^ n = x % 2 ^ n := fun n x => Nat.mod_mod x _
  have limits : ∀ (n : Nat) (u : Bool) (x : Int), clampInt n (!u) x % 2 ^ n = ofInt n (max (intMin n (!u)) (min (intMax n (!u)) x)) :=
    fun n u x => by rw [clampInt_eq, ofInt_mod]
  refine ⟨⟨?_, ?_, ?_, ?_, ⟨?_, ?_⟩, ?_, ⟨?_, ?_⟩, ?_, ⟨?_, ?_⟩, ⟨?_, ?_⟩⟩, ?_, ?_, ?_, ?_⟩ <;> intro w
  case refine_1 | refine_2 => exact carries_of_runCarry _ _ addCarry _ (fun _ => rfl) addCarry_eq
  case refine_3 | refine_4 => exact carries_of_runCarry _ _ subCarry _ (fun _ => rfl) subCarry_eq
  case refine_5 | refine_6 | refine_7 => exact int2_of_runAlu _ _ _ _ (fun _ => rfl) (fun n _ _ _ _ => wraps n _)
  case refine_8 | refine_9 | refine_10 => exact int2_of_runAlu _ _ _ _ (fun _ => rfl) (fun n _ _ _ _ => wraps n _)
  case refine_11 | refine_12 => exact int1_of_runAlu _ _ _ _ (fun _ => rfl) (fun n _ _ => wraps n _)
  case refine_13 | refine_14 => exact int1_of_runAlu _ _ _ _ (fun _ => rfl) abs_element
  all_goals exact int2_of_runAlu _ _ _ _ (fun _ => rfl) (fun n _ _ _ _ => limits n _ _)

end Sys2Proof.Proofs
end

section
/-! The multiply family, selection and address arithmetic (R328, R330, R332). -/

namespace Sys2Proof.Proofs

open Sys2Proof Sys2Proof.Machine Sys2Proof.Laws

/-! ## Products (R328, R330) -/

/-- The high half of a number taken modulo 2^2w is the number divided by 2^w, modulo 2^w. -/
theorem ofInt_double_div (n : Nat) (x : Int) : ofInt (2 * n) x / 2 ^ n = ofInt n (x / (2 ^ n : Nat)) := by
  have hpos : (0 : Int) < ((2 ^ n : Nat) : Int) := by exact_mod_cast Nat.two_pow_pos n
  have hdouble : ((2 ^ (2 * n) : Nat) : Int) = (2 ^ n : Nat) * (2 ^ n : Nat) := by rw [two_mul, pow_add]; push_cast; rfl
  have hnonneg : 0 ≤ x % ((2 ^ (2 * n) : Nat) : Int) := Int.emod_nonneg _ (by rw [hdouble]; positivity)
  have hquot : 0 ≤ x / ((2 ^ n : Nat) : Int) % ((2 ^ n : Nat) : Int) := Int.emod_nonneg _ hpos.ne'
  have hcast : ((ofInt (2 * n) x / 2 ^ n : Nat) : Int) = (ofInt n (x / (2 ^ n : Nat)) : Nat) := by
    rw [ofInt, ofInt, Int.natCast_ediv, Int.toNat_of_nonneg hnonneg, Int.toNat_of_nonneg hquot, hdouble, Int.emod_def, Int.emod_def,
      mul_assoc, Int.sub_mul_ediv_left _ _ hpos.ne', Int.ediv_ediv_of_nonneg hpos.le]
  exact_mod_cast hcast

theorem mulh_element (n : Nat) (x : Int) : ofInt (2 * n) x / 2 ^ n % 2 ^ n = ofInt n (x / (2 ^ n : Nat)) := by
  rw [ofInt_double_div, ofInt_mod]

/-- The half of a dot product as a sum over its elements. -/
theorem idotHalf_eq (signed : Bool) (cls w : Nat) (a b : Word) (h : Nat) : idotHalf signed cls w a b h =
    ((List.range (64 / w / 2)).map (fun j => intClassProduct (elemInt w signed (elemAt w a (j + h * (64 / w / 2))))
      (elemInt w signed (elemAt w b (j + h * (64 / w / 2)))) cls w)).sum := by
  rw [idotHalf, upFrom, List.map_map, ← List.sum_eq_foldl]
  rfl

/-- An instruction that multiplies in each element, its I64 form late (R330). -/
theorem computes_mul2 {i : Instr} {f : Form} {g r : Nat → Nat → Nat → Nat} (hx : ∀ s, exec i s = s.runAlu f { alu2 g with slow := fun t => t == 1 })
    (h : ∀ n a b, g n a b % 2 ^ n = r n a b) : Computes i f 2 (sameTags isIntTag) immSplat onI64 (Each2 r) :=
  computes_of_runAlu i f _ hx _ fun _ _ _ _ => ⟨rfl, fun _ hj => (elemAt_zipElems _ _ _ _ _ hj).trans (h _ _ _)⟩

theorem computes_mad {i : Instr} {f : Form} (hx : ∀ s, exec i s = s.runAlu f aluMad) :
    Computes i f 3 (sameTags isIntTag) immSplat onI64 (Each3 (fun n a b c => (a * b + c) % 2 ^ n)) :=
  computes_of_runAlu i f _ hx _ fun _ _ _ _ => ⟨rfl, fun _ hj => (elemAt_zip3Elems _ _ _ _ _ _ hj).trans (Nat.mod_mod _ _)⟩

/-- Two 32-bit elements made from a function of the index. -/
theorem elemAt_halves (f : Nat → Nat) (h : Nat) (hh : h < 2) : elemAt 32 (ofElems 32 ((List.range 2).map f)) h = f h % 2 ^ 32 :=
  elemAt_build 32 f h hh

/-- Settles O2: products element by element, high halves by their double width, dot products half by half. -/
theorem multiplyFamilyResults : Obligations.MultiplyFamilyResults := by
  unfold Obligations.MultiplyFamilyResults
  intro high dot
  have dots : ∀ {i : Instr} {f : Form} {sg : Bool} {cls : Nat}, (∀ s, exec i s = s.runAlu f (aluIdot sg cls)) →
      Computes i f 3 idotCheck immSplat never (dot sg cls) := fun {i f sg cls} hx =>
    computes_of_runAlu i f (aluIdot sg cls) hx _ fun _ tags vs _ => ⟨rfl, fun h hh => by
      rw [← idotHalf_eq]
      exact (elemAt_halves _ h hh).trans (ofInt_mod 32 _)⟩
  refine ⟨⟨?_, ?_⟩, ?_, ?_, ?_, ?_, ⟨?_, ?_⟩, ?_, ?_, ?_, ?_⟩ <;> intro w
  case refine_1 | refine_2 => exact computes_mul2 (fun _ => rfl) fun _ _ _ => Nat.mod_mod _ _
  case refine_3 | refine_4 | refine_5 | refine_6 => exact computes_mul2 (fun _ => rfl) fun n _ _ => mulh_element n _
  case refine_7 | refine_8 => exact computes_mad fun _ => rfl
  all_goals exact dots fun _ => rfl

/-! ## Selection (R332) -/

theorem lesser_mod {n a b : Nat} (c : Prop) [Decidable c] (ha : a < 2 ^ n) (hb : b < 2 ^ n) : (if c then b else a) % 2 ^ n = if c then b else a :=
  Nat.mod_eq_of_lt (by split <;> assumption)

theorem foldl_unchanged {α β : Type} (l : List β) (a : α) : l.foldl (fun t _ => t) a = a := by
  induction l with
  | nil => rfl
  | cons _ _ ih => exact ih

/-- What `sel` gives a lane: A or B with its tag, and no flag. -/
theorem aluResult_sel (s : State) (f : Form) (c : Bool) (l : Nat) :
    s.aluResult f (selAlu c) l = .ok (s.srcTag l (if c then f.a else f.b) f.a, s.srcVal immSplat l (if c then f.a else f.b) (s.srcTag l (if c then f.a else f.b) f.a), 0) := by
  cases c <;> rfl

theorem foldl_keeps {α : Type} (l : List α) (g : α → Word → Word) (h : ∀ x a, g x a = a) (a : Word) : l.foldl (fun a x => g x a) a = a := by
  simp only [h, foldl_unchanged]

theorem exec_sel (w : R64) (s : State)
    (hr : Readable s (form64 w true) ([(form64 w true).a, (form64 w true).b] ++ if (form64 w true).uniform then [.uni (form64 w true).kc false] else [])
      [(form64 w true).dstSrc]) :
    exec (.sel w) s = .next (deliveredAll s (form64 w true) (fun l => selAlu (s.getPred (form64 w true).uniform l (form64 w true).kc))).advance := by
  have huni : (form64 w true).uniform = w.u := by rw [form64]; split <;> rfl
  have hsrcs : ∀ o ∈ (form64 w true).srcs 2 ++ (form64 w true).predSrc,
      o.src ∈ [(form64 w true).a, (form64 w true).b] ++ if (form64 w true).uniform then [.uni (form64 w true).kc false] else [] := by
    intro o ho
    rcases List.mem_append.1 ho with h | h
    · refine List.mem_append_left _ ?_
      simp only [Form.srcs, List.take, List.mem_cons, List.not_mem_nil, or_false] at h
      rcases h with rfl | rfl <;> simp
    · refine List.mem_append_right _ ?_
      rw [Form.predSrc] at h
      split at h
      · next hu => rw [if_pos hu]; simp_all
      · simp at h
  have hrun := runAluBy_eq s (form64 w true) 2 (fun l => selAlu (s.getPred w.u l (form64 w true).kc)) (form64 w true).predSrc (fun t _ => t) _ hsrcs hr
    fun l _ => ⟨_, aluResult_sel s _ _ l⟩
  rw [foldl_unchanged] at hrun
  rw [huni]
  exact hrun

theorem sel_results (w : R64) (s : State) (hu : (form64 w true).dUni = (form64 w true).uniform)
    (hr : Readable s (form64 w true) ([(form64 w true).a, (form64 w true).b] ++ if (form64 w true).uniform then [.uni (form64 w true).kc false] else [])
      [(form64 w true).dstSrc]) :
    Completes (.sel w) s (fun t => OnlyResults s t ∧ t.fills = s.fills ∧ curFlags t = curFlags s ∧
      (∀ l ∈ allLanes s (form64 w true),
        let x := if s.getPred (form64 w true).uniform l (form64 w true).kc then (form64 w true).a else (form64 w true).b
        t.reg (s.dstKey (form64 w true) l) = { bits := s.srcVal immSplat l x (s.srcTag l x (form64 w true).a), tag := s.srcTag l x (form64 w true).a, full := true }) ∧
      ∀ k, (∀ l ∈ allLanes s (form64 w true), k ≠ s.dstKey (form64 w true) l) → t.reg k = s.reg k) := by
  let f := form64 w true
  let op : Nat → Alu := fun l => selAlu (s.getPred f.uniform l f.kc)
  have hfast : ∀ l g, (op l).slow g = false := fun _ _ => rfl
  refine ⟨_, exec_sel w s hr, onlyResults_advance (delivers_all s f op), ?_, ?_, fun l hl => ?_, fun k hk => ?_⟩
  · rw [advance_frame]
    show (deliveredAll s f op).fills = s.fills
    rw [deliveredAll, (deliverAll_fast _ _ _ _ _ _ hfast).1, (deliverAll_fast _ _ _ _ _ _ hfast).1]
  · rw [curFlags_advance, curFlags_all]
    exact foldl_keeps _ (fun l a => match s.aluResult f (op l) l with | .ok r => if (op l).slow r.1 then a else a ||| r.2.2 | .error _ => a)
      (fun l a => by rw [aluResult_sel]; exact BitVec.or_zero ..) _
  · rw [reg_advance]
    exact wrote_lanes s f op hu l hl _ _ _ (aluResult_sel s f _ l)
  · rw [reg_advance]
    exact reg_all_other s f op k hk

/-- Settles O4: min and max element by element, mov and lea as one word, sel by the predicate of each lane. -/
theorem selectionAndAddressResults : Obligations.SelectionAndAddressResults := by
  unfold Obligations.SelectionAndAddressResults
  intro smaller larger ownTag
  have least : ∀ {i : Instr} {f : Form} {sg : Bool}, (∀ s, exec i s = s.runAlu f (aluMin sg)) → Int2 i f (smaller sg) :=
    fun hx => int2_of_runAlu _ _ _ _ hx fun _ _ _ ha hb => lesser_mod _ ha hb
  have greatest : ∀ {i : Instr} {f : Form} {sg : Bool}, (∀ s, exec i s = s.runAlu f (aluMax sg)) → Int2 i f (larger sg) :=
    fun hx => int2_of_runAlu _ _ _ _ hx fun _ _ _ ha hb => lesser_mod _ ha hb
  have moves : ∀ {i : Instr} {f : Form}, (∀ s, exec i s = s.runAlu f aluMov) → Computes i f 1 ownTag (fun _ v => v) never (Word1 fun a => a) :=
    fun hx => computes_of_runAlu _ _ aluMov hx _ fun _ _ _ _ => rfl
  have addresses : ∀ {i : Instr} {f : Form} {n : Nat}, (∀ s, exec i s = s.runAlu f (aluLea n)) →
      Computes i f 2 (sameTags isI64) (fun _ v => v) never (Word2 fun a b => a + b * BitVec.ofNat 64 (2 ^ n)) :=
    fun hx => computes_of_runAlu _ _ (aluLea _) hx _ fun _ _ _ _ => rfl
  refine ⟨fun w => least fun _ => rfl, fun w => least fun _ => rfl, fun w => least fun _ => rfl, fun w => greatest fun _ => rfl,
    fun w => greatest fun _ => rfl, fun w => greatest fun _ => rfl, ⟨fun w => moves fun _ => rfl, fun w => moves fun _ => rfl⟩,
    fun w h => moves fun s => if_neg fun hz => h.elim (· hz.1) (· hz.2), fun w => addresses fun _ => rfl, fun w => addresses fun _ => rfl, sel_results⟩

end Sys2Proof.Proofs
end

section
/-! Dot products, special functions and comparisons (R262, R333, R354, R357 to R359, R371). -/

namespace Sys2Proof.Proofs

open Sys2Proof Sys2Proof.Machine Sys2Proof.Laws

/-! ## Elements with flags (R262, R350) -/

theorem eachFloat_fltEval (r : Fmt → List Nat → Nat × Word) (g : Tag) (tags : List Tag) (vs : List Word) : EachFloat r g tags vs (fltEval r g vs) := by
  refine ⟨?_, fun j hj => ?_⟩
  · rw [fltEval, ofElemsF]
    simp only [List.foldl_map]
  · rw [fltEval, ofElemsF, List.map_map]
    exact elemAt_build _ _ j hj

/-- One half of a floating-point dot product, its elements counted from its own first (R354). -/
theorem fdotHalf_eq (ta tb : Tag) (cls : Nat) (a b c : Word) (h : Nat) : fdotHalf ta tb cls a b c h =
    dotChain f32 (elemAt 32 c h) ((List.range (64 / tagWidth ta / 2)).map (fun j =>
      dotProduct ta tb cls (elemAt (tagWidth ta) a (j + h * (64 / tagWidth ta / 2))) (elemAt (tagWidth ta) b (j + h * (64 / tagWidth ta / 2))))) := by
  rw [fdotHalf, upFrom, List.map_map]
  rfl

theorem eval_aluFdot (cls : Nat) (g : Tag) (tags : List Tag) (vs : List Word) :
    let half := fdotHalf (tags.getD 0 0) (tags.getD 1 0) cls (vs.getD 0 0) (vs.getD 1 0) (vs.getD 2 0)
    ((aluFdot cls).eval g tags vs).2 = (half 0).2 ||| (half 1).2 ∧ ∀ h < 2, elemAt 32 ((aluFdot cls).eval g tags vs).1 h = (half h).1 % 2 ^ 32 :=
  ⟨congrArg (· ||| _) (BitVec.zero_or ..), fun h hh => elemAt_halves
    (fun h => (fdotHalf (tags.getD 0 0) (tags.getD 1 0) cls (vs.getD 0 0) (vs.getD 1 0) (vs.getD 2 0) h).1) h hh⟩

/-- Settles O8: dot products half by half, special functions element by element. -/
theorem dotAndSpecialFunctionResults : Obligations.DotAndSpecialFunctionResults := by
  unfold Obligations.DotAndSpecialFunctionResults
  intro dot special
  have dots : ∀ {i : Instr} {f : Form} {cls : Nat}, (∀ s, exec i s = s.runAlu f (aluFdot cls)) →
      Computes i f 3 fdotCheck (immFloat bf16) never (dot cls) := fun {i f cls} hx =>
    computes_of_runAlu i f (aluFdot cls) hx _ fun g tags vs _ => by
      simp only [dot, ← fdotHalf_eq]
      exact eval_aluFdot cls g tags vs
  have specials : ∀ {i : Instr} {f : Form} {fn cls : Nat}, (∀ s, exec i s = s.runAlu f (aluSpecial fn cls)) → special fn cls i f :=
    fun {i f fn cls} hx => computes_of_runAlu i f (aluSpecial fn cls) hx _ fun g tags vs _ =>
      eachFloat_fltEval (fun m l => m.special fn cls (l.getD 0 0)) g tags vs
  exact ⟨fun _ => dots fun _ => rfl, fun _ => dots fun _ => rfl, fun _ => dots fun _ => rfl,
    fun _ _ => specials fun _ => rfl, fun _ _ => specials fun _ => rfl, fun _ _ => specials fun _ => rfl⟩

/-! ## Integer relations (R333) -/

theorem relInt_iff (fn : Nat) (a b : Int) : relInt fn a b = true ↔
    match fn with | 0 => a = b | 1 => a ≠ b | 2 => a < b | 3 => a ≤ b | 4 => b < a | _ => b ≤ a := by
  unfold relInt
  split <;> simp only [decide_eq_true_eq]

theorem all_range_iff {n : Nat} {p : Nat → Bool} : (List.range n).all p = true ↔ ∀ j < n, p j = true := by
  simp only [List.all_eq_true, List.mem_range]

/-! ## Floating-point relations (R357) -/

theorem lt_of_nan {a b : FVal} (h : a.isNaN = true ∨ b.isNaN = true) : a.lt b = false := by
  cases a <;> cases b <;> simp_all [FVal.isNaN, FVal.lt]

theorem not_nan_of_eqv {a b : FVal} (h : a.eqv b = true) : ¬(a.isNaN = true ∨ b.isNaN = true) := by
  simp only [FVal.eqv, Bool.and_eq_true, Bool.not_eq_true'] at h
  simp [h]

/-- The relation of two values: an unordered pair satisfies `ne` and `uno` alone. -/
def related (fn : Nat) (a b : FVal) : Prop :=
  match fn with
  | 0 => ¬(a.isNaN = true ∨ b.isNaN = true) ∧ a.eqv b = true
  | 1 => (a.isNaN = true ∨ b.isNaN = true) ∨ a.eqv b = false
  | 2 => ¬(a.isNaN = true ∨ b.isNaN = true) ∧ a.lt b = true
  | 3 => ¬(a.isNaN = true ∨ b.isNaN = true) ∧ b.lt a = false
  | 4 => ¬(a.isNaN = true ∨ b.isNaN = true) ∧ b.lt a = true
  | 5 => ¬(a.isNaN = true ∨ b.isNaN = true) ∧ a.lt b = false
  | 6 => ¬(a.isNaN = true ∨ b.isNaN = true)
  | _ => a.isNaN = true ∨ b.isNaN = true

/-- What sets invalid: any NaN for the ordered relations, a signalling one for the others. -/
def invalidPair (fn : Nat) (a b : FVal) : Bool := if 2 ≤ fn ∧ fn ≤ 5 then a.isNaN || b.isNaN else a.signalling || b.signalling

theorem relFloat_fst (fn : Nat) (a b : FVal) : (relFloat fn a b).1 = true ↔ related fn a b := by
  by_cases hn : a.isNaN = true ∨ b.isNaN = true
  · have heq : a.eqv b = false := by simpa using mt not_nan_of_eqv (not_not.2 hn)
    have hor : (a.isNaN || b.isNaN) = true := by simpa using hn
    unfold relFloat related
    split <;> simp only [hn, hor, heq, lt_of_nan hn, lt_of_nan hn.symm] <;> simp
  · have hor : (a.isNaN || b.isNaN) = false := by simpa using hn
    unfold relFloat related
    split <;> simp [hn, hor]

theorem snan_or (a b : FVal) : snan a ||| snan b = if a.signalling || b.signalling then flagNV else 0 := by
  unfold snan
  cases a.signalling <;> cases b.signalling <;> rfl

theorem relFloat_snd (fn : Nat) (a b : FVal) : (relFloat fn a b).2 = if invalidPair fn a b then flagNV else 0 := by
  unfold relFloat invalidPair
  split
  case h_1 | h_2 | h_7 => exact snan_or a b
  case h_3 | h_4 | h_5 | h_6 => rfl
  case h_8 h0 h1 h2 h3 h4 h5 h6 =>
    have hnot : ¬(2 ≤ fn ∧ fn ≤ 5) := by rintro ⟨hlow, hhigh⟩; interval_cases fn <;> simp_all
    rw [if_neg hnot]
    exact snan_or a b

/-- Invalid flags of elements ORed. -/
theorem foldl_flags (l : List Nat) (p : Nat → Bool) (a : Word) :
    l.foldl (fun a j => a ||| if p j then flagNV else 0) a = a ||| if l.any p then flagNV else 0 := by
  induction l generalizing a with
  | nil => exact (BitVec.or_zero ..).symm
  | cons j t ih =>
    rw [List.foldl_cons, ih, List.any_cons]
    cases p j <;> cases t.any p <;> simp [BitVec.or_assoc]

/-! ## Order of numbers -/

/-- The rational number that a finite value is. -/
def ratOf (neg : Bool) (m : Nat) (e : Int) : Rat := (if neg then -(m : Rat) else m) * (2 : Rat) ^ e

theorem lt_num_iff (na nb : Bool) (ma mb : Nat) (ea eb : Int) :
    FVal.lt (.num na ma ea) (.num nb mb eb) = true ↔ ratOf na ma ea < ratOf nb mb eb := by
  have shift : ∀ (n : Bool) (m : Nat) (e lo : Int), lo ≤ e →
      ratOf n m e = ((if n then -((m * 2 ^ (e - lo).toNat : Nat) : Int) else ((m * 2 ^ (e - lo).toNat : Nat) : Int) : Int) : Rat) * (2 : Rat) ^ lo := by
    intro n m e lo h
    have hpow : (2 : Rat) ^ e = 2 ^ (e - lo).toNat * (2 : Rat) ^ lo := by
      rw [← zpow_natCast, ← zpow_add₀ (by norm_num), Int.toNat_of_nonneg (by omega)]
      congr 1
      omega
    rw [ratOf, hpow]
    cases n <;> simp only [if_true, Bool.false_eq_true, if_false] <;> push_cast <;> ring
  have hpos : (0 : Rat) < (2 : Rat) ^ Min.min ea eb := by positivity
  rw [shift na ma ea _ (min_le_left ea eb), shift nb mb eb _ (min_le_right ea eb), mul_lt_mul_iff_left₀ hpos, Int.cast_lt]
  exact decide_eq_true_iff

/-- The threshold of `gterm` is 2^−13 (R371). -/
theorem lt_threshold (a : FVal) : a.lt (f32.decode 0x39000000) = a.lt (.num false 1 (-13)) := by
  have hcode : f32.decode 0x39000000 = .num false (2 ^ 23) (-36) := by decide
  rw [hcode]
  cases a with
  | nan n p => rfl
  | inf n => rfl
  | num n m e =>
    have hsame : ratOf false (2 ^ 23) (-36) = ratOf false 1 (-13) := by norm_num [ratOf]
    rw [Bool.eq_iff_iff, lt_num_iff, lt_num_iff, hsame]

/-! ## The statement -/

theorem cmp_eval (fn : Nat) (sg : Bool) (tags : List Tag) (vs : List Word) :
    ((predCmp fn sg).eval tags vs).1 = true ↔ ∀ j < 64 / tagWidth (tags.getD 0 0),
      relInt fn (elemInt (tagWidth (tags.getD 0 0)) sg (elemAt (tagWidth (tags.getD 0 0)) (vs.getD 0 0) j))
        (elemInt (tagWidth (tags.getD 0 0)) sg (elemAt (tagWidth (tags.getD 0 0)) (vs.getD 1 0) j)) = true :=
  all_range_iff

/-- The values of the elements that fcmp compares. -/
def fcmpValue (tags : List Tag) (v : Word) (j : Nat) : FVal := (fmtD (tags.getD 0 0)).decode (elemAt (tagWidth (tags.getD 0 0)) v j)

theorem fcmp_true (fn : Nat) (tags : List Tag) (vs : List Word) : ((predFcmp fn).eval tags vs).1 = true ↔
    ∀ j < 64 / tagWidth (tags.getD 0 0), (relFloat fn (fcmpValue tags (vs.getD 0 0) j) (fcmpValue tags (vs.getD 1 0) j)).1 = true := by
  rw [← all_range_iff]
  exact iff_of_eq (congrArg (· = true) List.all_map)

theorem fcmp_flags (fn : Nat) (tags : List Tag) (vs : List Word) : ((predFcmp fn).eval tags vs).2 =
    if (List.range (64 / tagWidth (tags.getD 0 0))).any (fun j => invalidPair fn (fcmpValue tags (vs.getD 0 0) j) (fcmpValue tags (vs.getD 1 0) j))
      then flagNV else 0 := by
  have hflags := foldl_flags (List.range (64 / tagWidth (tags.getD 0 0)))
    (fun j => invalidPair fn (fcmpValue tags (vs.getD 0 0) j) (fcmpValue tags (vs.getD 1 0) j)) 0
  simp only [← relFloat_snd] at hflags
  rw [← hflags.trans (BitVec.zero_or ..), predFcmp]
  simp only [List.foldl_map]
  rfl

theorem invalidPair_iff (fn : Nat) (a b : FVal) : invalidPair fn a b = true ↔
    if 2 ≤ fn ∧ fn ≤ 5 then a.isNaN = true ∨ b.isNaN = true else a.signalling = true ∨ b.signalling = true := by
  unfold invalidPair
  split <;> exact iff_of_eq (Bool.or_eq_true ..)

/-- Settles O9: relations element by element; the flags of fcmp are invalid where one of its elements is. -/
theorem comparisonResults : Obligations.ComparisonResults := by
  unfold Obligations.ComparisonResults
  intro cmp fcmp gterm signed
  have compares : ∀ {i : Instr} {f : Form} {fn : Nat} {sg : Bool}, (∀ s, exec i s = s.runPred f (predCmp fn sg)) →
      Tests i f 2 (sameTagsOnly isIntTag) immSplat (cmp fn sg) := fun {i f fn sg} hx =>
    tests_of_runPred i f (predCmp fn sg) hx _ fun tags vs => ⟨rfl, (cmp_eval fn sg tags vs).trans (forall₂_congr fun _ _ => relInt_iff _ _ _)⟩
  have orders : ∀ {i : Instr} {f : Form} {fn : Nat}, (∀ s, exec i s = s.runPred f (predFcmp fn)) →
      Tests i f 2 (sameTagsOnly isFpTag) (immFloat bf16) (fcmp fn) := fun {i f fn} hx =>
    tests_of_runPred i f (predFcmp fn) hx _ fun tags vs => ⟨(fcmp_true fn tags vs).trans (forall₂_congr fun _ _ => relFloat_fst fn _ _),
      fun ⟨j, hj, h⟩ => (fcmp_flags fn tags vs).trans (if_pos (List.any_eq_true.2 ⟨j, List.mem_range.2 hj, (invalidPair_iff fn _ _).2 h⟩)),
      fun h => (fcmp_flags fn tags vs).trans (if_neg fun hany =>
        have ⟨j, hj, hp⟩ := List.any_eq_true.1 hany
        h j (List.mem_range.1 hj) ((invalidPair_iff fn _ _).1 hp))⟩
  have terms : ∀ {i : Instr} {f : Form}, (∀ s, exec i s = s.runPred f predGterm) → Tests i f 1 predGterm.check (fun _ v => v) gterm :=
    fun {i f} hx => tests_of_runPred i f predGterm hx _ fun tags vs => Prod.ext (lt_threshold _) rfl
  exact ⟨fun _ _ => compares fun _ => rfl, fun _ _ => compares fun _ => rfl, fun _ _ => orders fun _ => rfl, fun _ _ => orders fun _ => rfl,
    fun _ _ => orders fun _ => rfl, fun _ => terms fun _ => rfl, fun _ => terms fun _ => rfl⟩

end Sys2Proof.Proofs
end

section
/-! Shuffles and quads (R122, R123, R361 to R363). -/

namespace Sys2Proof.Proofs

open Sys2Proof Sys2Proof.Machine Sys2Proof.Laws

/-! ## Shuffles (R362) -/

theorem elemAt_rotateElems (t : Tag) (x : Word) (e j : Nat) (h : j < 64 / tagWidth t) :
    elemAt (tagWidth t) (rotateElems t x e) j = elemAt (tagWidth t) x ((j + e) % (64 / tagWidth t)) :=
  (elemAt_build _ _ j h).trans (elemAt_mod _ _ _)

/-- The lane that a shuffle wants, as a number that may lie below the first lane (R362). -/
def shuffleWanted (kind l n : Nat) : Int :=
  match kind with | 0 => (n % 32 : Nat) | 1 => (l : Int) - (n % 32 : Nat) | 2 => (l : Int) + (n % 32 : Nat) | _ => (l ^^^ (n % 32) : Nat)

theorem shuffleSource_lane (kind l : Nat) (n : Word) :
    (shuffleSource kind l n).1 = if 0 ≤ shuffleWanted kind l n.toNat then some (shuffleWanted kind l n.toNat).toNat else none := by
  match kind with
  | 0 => rfl
  | 1 =>
    simp only [shuffleSource, shuffleWanted]
    by_cases h : n.toNat % 32 ≤ l
    · rw [if_pos h, if_pos (by omega)]
      congr 1
      omega
    · rw [if_neg h, if_neg (by omega)]
  | 2 => rfl
  | k + 3 => rfl

/-- The lane whose register a shuffle gives a lane: the one wanted where it is active, else its own. -/
def shuffleFrom (lanes : List Nat) (kind l : Nat) (n : Word) : Nat :=
  match (shuffleSource kind l n).1 with | some m => if lanes.contains m then m else l | none => l

theorem shuffleFrom_spec (lanes : List Nat) (kind l : Nat) (n : Word) :
    if 0 ≤ shuffleWanted kind l n.toNat ∧ (shuffleWanted kind l n.toNat).toNat ∈ lanes
      then shuffleFrom lanes kind l n = (shuffleWanted kind l n.toNat).toNat else shuffleFrom lanes kind l n = l := by
  rw [shuffleFrom, shuffleSource_lane]
  by_cases hw : 0 ≤ shuffleWanted kind l n.toNat <;> by_cases hm : (shuffleWanted kind l n.toNat).toNat ∈ lanes <;> simp [hw, hm]

theorem shuffle_rotation (kind l : Nat) (n : Word) : (shuffleSource kind l n).2 = if kind = 0 then n.toNat / 32 % 32 else 0 := by
  match kind with
  | 0 | 1 | 2 | k + 3 => rfl

/-- What a shuffle gives a lane. -/
theorem shuffleValue_spec (s : State) (f : Form) (kind l : Nat) :
    let n := (s.shuffleCount f l).toNat
    ∃ m : Nat, (if 0 ≤ shuffleWanted kind l n ∧ (shuffleWanted kind l n).toNat ∈ s.active f then m = (shuffleWanted kind l n).toNat else m = l) ∧
      (s.shuffleValue f kind l).tag = s.srcTagOf m f.a ∧ ∀ j < 64 / tagWidth (s.srcTagOf m f.a),
        elemAt (tagWidth (s.srcTagOf m f.a)) (s.shuffleValue f kind l).bits j = elemAt (tagWidth (s.srcTagOf m f.a)) (s.srcBits m f.a)
          ((j + if kind = 0 then n / 32 % 32 else 0) % (64 / tagWidth (s.srcTagOf m f.a))) := by
  refine ⟨_, shuffleFrom_spec (s.active f) kind l (s.shuffleCount f l), rfl, fun j hj => ?_⟩
  rw [← shuffle_rotation]
  exact elemAt_rotateElems _ _ _ j hj

theorem shuffleCount_toNat (s : State) (f : Form) (l : Nat) :
    (s.shuffleCount f l).toNat = match f.b with | .imm v => v.toNat | _ => (s.srcBits l f.b).toNat := by
  unfold State.shuffleCount
  cases f.b <;> rfl

/-- A shuffle whose counts are immediates or tagged I64 finds no wrong tag. -/
theorem shuffle_accepted {s : State} {f : Form} (h : ∀ l ∈ s.active f, (∃ v, f.b = .imm v) ∨ s.srcTagOf l f.b = 1) :
    (if (match f.b with | .imm _ => false | _ => true) && (s.active f).any (fun l => s.srcTagOf l f.b != 1) then some 1 else none) = (none : Option Nat) := by
  refine if_neg fun hbad => ?_
  obtain ⟨hreg, hany⟩ := Bool.and_eq_true_iff.1 hbad
  obtain ⟨l, hl, htag⟩ := List.any_eq_true.1 hany
  rcases h l hl with ⟨v, hv⟩ | h1
  · rw [hv] at hreg
    nomatch hreg
  · simp [h1] at htag

theorem shfl_crosses {i : Instr} {f : Form} {kind : Nat} (hx : ∀ s, exec i s = s.runShfl f kind) :
    Crosses i f [f.a, f.b] (fun s => ∀ l ∈ s.active f, (∃ v, f.b = .imm v) ∨ s.srcTagOf l f.b = 1) (fun s l t v =>
      let n := match f.b with | .imm v => v.toNat | _ => (s.srcBits l f.b).toNat
      ∃ m : Nat, (if 0 ≤ shuffleWanted kind l n ∧ (shuffleWanted kind l n).toNat ∈ s.active f then m = (shuffleWanted kind l n).toNat else m = l) ∧
        t = s.srcTagOf m f.a ∧ ∀ j < 64 / tagWidth t,
          elemAt (tagWidth t) v j = elemAt (tagWidth t) (s.srcBits m f.a) ((j + if kind = 0 then n / 32 % 32 else 0) % (64 / tagWidth t))) := by
  refine crosses_of_runCross i f _ [{ opnd := 0, src := f.a }, { opnd := 1, src := f.b }] _ _ (fun s => s.shuffleValue f kind) (by simp) hx
    (fun s h => shuffle_accepted h) _ fun s _ l _ => ?_
  obtain ⟨m, hfrom, htag, hbits⟩ := shuffleValue_spec s f kind l
  rw [shuffleCount_toNat] at hfrom hbits
  refine ⟨m, hfrom, htag, ?_⟩
  rw [htag]
  exact hbits

/-! ## Quads (R363) -/

/-- What `runQuad` answers where the registers that it reads are readable. -/
theorem runQuad_eq {s : State} {f : Form} {kind : Nat} (hquiet : s.errInjs = []) (huni : f.uniform = false)
    (hread : ∀ l ∈ s.active f ++ s.activeHelpers f, s.quadEmpty f kind l = false) (hok : ∀ l ∈ s.execLanes f, ∃ o, s.quadValue f kind l = .ok o) :
    s.runQuad f kind = s.runLanes f [] [f.dstSrc] false (s.quadValue f kind) := by
  have hlanes : s.execLanes f = s.active f := by rw [State.execLanes, huni]; rfl
  have hnone : (s.active f).any (s.quadEmpty f kind) = false :=
    List.any_eq_false.2 fun l hl => by rw [hread l (List.mem_append_left _ hl)]; nofun
  have hall : (s.active f ++ s.activeHelpers f).any (s.quadEmpty f kind) = false := List.any_eq_false.2 fun l hl => by rw [hread l hl]; nofun
  have hclean : s.quadRead f kind (s.active f) = .ok s := by rw [State.quadRead, hquiet]; rfl
  rw [State.runQuad]
  split
  · next e he =>
    obtain ⟨l, hl, hbad⟩ := List.exists_of_findSome?_eq_some he
    obtain ⟨o, ho⟩ := hok l (hlanes ▸ hl)
    rw [ho] at hbad
    cases hbad
  · simp only [hnone, hall, hclean, Bool.and_false, Bool.false_eq_true, if_false]

theorem srcKey_dstSrc (s : State) (f : Form) (l : Nat) : s.srcKey l f.dstSrc = some (s.dstKey f l) := by
  unfold Form.dstSrc State.dstKey
  split <;> rfl

/-- Lanes that write D alone agree where they write one register. -/
theorem agree_dst {s : State} {f : Form} {compute : Nat → Except Nat LaneOut}
    (hone : ∀ l o, compute l = .ok o → ∃ v, o.writes = [(f.dstSrc, v)]) (hu : f.dUni = f.uniform) :
    ∀ l ∈ allLanes s f, ∀ m ∈ allLanes s f, ∀ o p, compute l = .ok o → compute m = .ok p →
      ∀ x ∈ o.writes, ∀ y ∈ p.writes, ∀ k, s.srcKey l x.1 = some k → s.srcKey m y.1 = some k → x.2 = y.2 := by
  intro l hl m hm o p ho hp x hx y hy k hkx hky
  obtain ⟨v, hv⟩ := hone l o ho
  obtain ⟨w, hw⟩ := hone m p hp
  rw [hv, List.mem_singleton] at hx
  rw [hw, List.mem_singleton] at hy
  subst hx hy
  rw [srcKey_dstSrc] at hkx hky
  obtain rfl := allLanes_inj s f hu l m hl hm (Option.some.inj (hky.trans hkx.symm))
  cases Except.ok.inj (ho.symm.trans hp)
  cases hv.symm.trans hw
  rfl

theorem quadValue_writes {s : State} {f : Form} {kind l : Nat} {o : LaneOut} (h : s.quadValue f kind l = .ok o) :
    ∃ v, o.writes = [(f.dstSrc, v)] := by
  unfold State.quadValue at h
  split at h
  · cases h
    exact ⟨_, rfl⟩
  · split at h
    · cases h
    · cases h
      exact ⟨_, rfl⟩
  · cases h

/-- An instruction that is one use of `runQuad`, by what it computes in a lane. -/
theorem computesMany_of_runQuad {i : Instr} {f : Form} {kind : Nat} {pre : State → Prop} {compute : State → Nat → Except Nat LaneOut}
    (hx : ∀ s, exec i s = s.runQuad f kind) (hcompute : ∀ s l, compute s l = s.quadValue f kind l)
    (hpre : ∀ s, pre s → f.uniform = false ∧ ∀ l ∈ s.active f ++ s.activeHelpers f, s.quadEmpty f kind l = false) :
    ComputesMany i f (fun _ => []) [f.dstSrc] false pre compute := by
  have hsame : compute = fun s => s.quadValue f kind := funext fun s => funext fun l => hcompute s l
  rw [hsame]
  refine computesMany_of_runLanes i f _ (fun _ => []) _ false pre _ (fun _ _ h => nomatch h) (fun s hp hr hok => ?_) (fun s l o h => ?_)
    fun s hu => agree_dst (fun l o h => quadValue_writes h) hu
  · obtain ⟨huni, hread⟩ := hpre s hp
    rw [hx, runQuad_eq hr.quiet huni hread hok]
  · obtain ⟨⟨t, v⟩, hv⟩ := quadValue_writes h
    exact ⟨_, t, v, [], _, hv, srcKey_dstSrc s f l⟩

/-! ### Mates (R122, R363) -/

theorem quadEmpty_of_readable {s : State} {f : Form} {kind l : Nat} {mates : List Nat} (hmates : quadReads kind l = mates)
    (h : ∀ m ∈ mates, ((s.thread (s.curThread m)).live = true ∨ (s.thread (s.curThread m)).killed = false) → s.isEmpty m f.a = false) :
    s.quadEmpty f kind l = false := by
  refine List.any_eq_false.2 fun m hm => ?_
  obtain ⟨hmem, hin⟩ := List.mem_filter.1 hm
  have hholds : (s.thread (s.curThread m)).live = true ∨ (s.thread (s.curThread m)).killed = false := by simpa [State.inQuad] using hin
  rw [h m (hmates ▸ hmem) hholds]
  nofun

theorem quadReg_eq (s : State) (f : Form) (l m : Nat) : s.quadReg f l m =
    if (s.thread (s.curThread m)).live = true ∨ (s.thread (s.curThread m)).killed = false then (s.srcTagOf m f.a, s.srcBits m f.a)
    else (s.srcTagOf l f.a, 0) := by
  unfold State.quadReg
  refine if_congr ?_ rfl rfl
  simp [State.inQuad]

theorem quadReads_swap {mode l : Nat} (h : mode = 1 ∨ mode = 2 ∨ mode = 3) : quadReads mode l = [l ^^^ mode] := by
  rcases h with rfl | rfl | rfl <;> rfl

/-- A lane with one of its two lowest bits cleared, by subtracting the bit and by setting and turning it. -/
theorem cleared_bit (l : Nat) {bit : Nat} (hbit : bit = 1 ∨ bit = 2) : l - l / bit % 2 * bit = (l ||| bit) ^^^ bit := by
  have low : ∀ r < 4, ∀ b < 4, (b = 1 ∨ b = 2) → r - r / b % 2 * b = (r ||| b) ^^^ b ∧ (r ||| b) ^^^ b < 4 := by decide
  obtain ⟨hr, hlt⟩ := low (l % 4) (Nat.mod_lt _ (by decide)) bit (by omega) hbit
  have hsplit : ∀ r < 4, l / 4 * 4 + r = (l / 4) <<< 2 ||| r := fun r h => by rw [← Nat.shiftLeft_add_eq_or_of_lt h, Nat.shiftLeft_eq]
  have hhigh : l - l / bit % 2 * bit = l / 4 * 4 + (l % 4 - l % 4 / bit % 2 * bit) := by rcases hbit with rfl | rfl <;> omega
  have hl : l = (l / 4) <<< 2 ||| l % 4 := (Nat.div_add_mod' l 4).symm.trans (hsplit _ (Nat.mod_lt _ (by decide)))
  rw [hhigh, hr, hsplit _ hlt]
  conv_rhs => rw [hl]
  refine Nat.eq_of_testBit_eq fun i => ?_
  simp only [Nat.testBit_or, Nat.testBit_xor, Nat.testBit_shiftLeft]
  by_cases hi : 2 ≤ i
  · have hzero : bit.testBit i = false := Nat.testBit_lt_two_pow (lt_of_lt_of_le (by omega : bit < 2 ^ 2) (Nat.pow_le_pow_right (by decide) hi))
    simp [hzero]
  · simp [hi]

theorem quadReads_x (l : Nat) : quadReads 4 l = [l ||| 1, (l ||| 1) ^^^ 1] := by
  rw [← cleared_bit l (.inl rfl), Nat.div_one, Nat.mul_one]
  rfl

theorem quadReads_y (l : Nat) : quadReads 5 l = [l ||| 2, (l ||| 2) ^^^ 2] := by
  rw [← cleared_bit l (.inr rfl)]
  rfl

theorem zip_elems_map {α : Type} (n : Nat) (x y : Word) (g : Nat → Nat → α) :
    ((elems n x).zip (elems n y)).map (fun p => g p.1 p.2) = (List.range (64 / n)).map (fun j => g (elemAt n x j) (elemAt n y j)) := by
  rw [elems, elems, List.zip_map', List.map_map]
  rfl

/-- What a difference along a row or a column gives a lane. -/
theorem quadValue_diff {s : State} {f : Form} {kind l hi lo : Nat} (hreads : quadReads kind l = [hi, lo]) :
    let t := (s.quadReg f l hi).1
    let r := ((elems (tagWidth t) (s.quadReg f l hi).2).zip (elems (tagWidth t) (s.quadReg f l lo).2)).map (fun p => (fmtD t).subCodes p.1 p.2)
    s.quadValue f kind l = if isPackedFp t = true ∧ (s.quadReg f l lo).1 = t then
        .ok { writes := [(f.dstSrc, t, ofElems (tagWidth t) (r.map (·.1)))], flags := (r.map (·.2)).foldl (· ||| ·) 0 }
      else .error 0 := by
  dsimp only
  rw [zip_elems_map, State.quadValue, hreads]
  simp only [List.map_cons, List.map_nil]
  by_cases h : isPackedFp (s.quadReg f l hi).1 = true ∧ (s.quadReg f l lo).1 = (s.quadReg f l hi).1
  · rw [if_pos h, if_neg (by simp [h])]
    rfl
  · rw [if_neg h, if_pos (by simpa [imp_iff_not_or] using h)]

/-- Settles O11: a shuffle by the lane it wants, a quad instruction by the mates it reads. -/
theorem shuffleAndQuadResults : Obligations.ShuffleAndQuadResults := by
  unfold Obligations.ShuffleAndQuadResults
  refine ⟨⟨fun k w _ => shfl_crosses fun _ => rfl, fun k w _ => shfl_crosses fun _ => rfl⟩, ?_⟩
  intro holds readable read swap diff swaps diffs
  have swapped : ∀ {i : Instr} {f : Form} {mode : Nat}, (∀ s, exec i s = s.qswapStep f mode) → swaps mode i f := fun {i f mode} hx hmode => by
    have hrange : ¬(mode = 0 ∨ 3 < mode) := by omega
    refine computesMany_of_runQuad (kind := mode) (fun s => (hx s).trans (if_neg hrange)) (fun s l => ?_) fun s hp => ⟨hp.1, fun l hl => ?_⟩
    · rw [State.quadValue, quadReads_swap hmode]
      simp only [List.map_cons, List.map_nil, quadReg_eq]
      rfl
    · exact quadEmpty_of_readable (quadReads_swap hmode) (hp.2 l hl)
  have differs : ∀ {i : Instr} {f : Form} {kind bit : Nat}, (∀ s, exec i s = s.runQuad f kind) →
      (∀ l, quadReads kind l = [l ||| bit, (l ||| bit) ^^^ bit]) → diffs bit i f := fun {i f kind bit} hx hreads => by
    refine computesMany_of_runQuad hx (fun s l => ?_) fun s hp => ⟨hp.1, fun l hl => quadEmpty_of_readable (hreads l) (hp.2 l hl)⟩
    rw [quadValue_diff (hreads l)]
    simp only [quadReg_eq]
    rfl
  exact ⟨fun w => swapped fun _ => rfl, fun w => swapped fun _ => rfl, ⟨fun w => differs (fun _ => rfl) quadReads_x, fun w => differs (fun _ => rfl) quadReads_x⟩,
    ⟨fun w => differs (fun _ => rfl) quadReads_y, fun w => differs (fun _ => rfl) quadReads_y⟩⟩

end Sys2Proof.Proofs
end

section
/-! Reductions, scans, votes and masks (R361, R364 to R366). -/

namespace Sys2Proof.Proofs

open Sys2Proof Sys2Proof.Machine Sys2Proof.Laws

/-! ## Folds, element by element -/

theorem tagWidth_pos (t : Tag) : 0 < tagWidth t := by
  unfold tagWidth
  split <;> decide

/-- An element of a left fold of words is the left fold of that element. -/
theorem elemAt_foldl {w j : Nat} {step : Word → Word → Word × Word} {op : Nat → Nat → Nat}
    (hstep : ∀ a b, elemAt w (step a b).1 j = op (elemAt w a j) (elemAt w b j)) (rest : List Word) (acc : Word × Word) :
    elemAt w (rest.foldl (fun acc x => ((step acc.1 x).1, acc.2 ||| (step acc.1 x).2)) acc).1 j =
      (rest.map (fun v => elemAt w v j)).foldl op (elemAt w acc.1 j) := by
  induction rest generalizing acc with
  | nil => rfl
  | cons x t ih => rw [List.foldl_cons, ih, hstep, List.map_cons, List.foldl_cons]

theorem elemAt_over {w j : Nat} {g : Fold} {op : Nat → Nat → Nat}
    (hstep : ∀ a b, elemAt w (g.step a b).1 j = op (elemAt w a j) (elemAt w b j)) (vs : List Word) :
    elemAt w (g.over vs).1 j = match vs.map (fun v => elemAt w v j) with | [] => elemAt w g.identity j | x :: rest => rest.foldl op x := by
  cases vs with
  | nil => rfl
  | cons v rest => exact elemAt_foldl hstep rest (v, 0)

theorem elemAt_splat (w v j : Nat) (hj : j < 64 / w) : elemAt w (splat w v) j = v % 2 ^ w := by
  rw [splat, elemAt_ofElems _ _ _ (by simpa using Nat.mul_div_le 64 w) (by simpa using hj)]
  simp [List.getD_eq_getElem?_getD, hj]

/-- What every reduction and scan gives a lane: the fold of the lanes that it joins, in ascending order. -/
theorem fold_crosses {i : Instr} {f : Form} {ok : Tag → Bool} {g : Tag → Fold} {scan excl : Bool} (hx : ∀ s, exec i s = s.runFold f ok g scan excl)
    {R : State → Nat → Tag → Word → Prop}
    (hR : ∀ s l, ok (s.srcTagOf l f.a) = true → R s l (s.srcTagOf l f.a)
      (((g (s.srcTagOf l f.a)).over ((s.foldLanes f scan excl l).map (fun m => s.srcBits m f.a))).1)) :
    Crosses i f [f.a] (fun s => ∃ t, ok t = true ∧ ∀ l ∈ s.active f, s.srcTagOf l f.a = t) R := by
  have shared : ∀ s : State, (∃ t, ok t = true ∧ ∀ l ∈ s.active f, s.srcTagOf l f.a = t) → ∀ l ∈ s.active f,
      ok (s.srcTagOf l f.a) = true ∧ s.srcTagOf ((s.active f).headD 0) f.a = s.srcTagOf l f.a := by
    rintro s ⟨t, ht, hall⟩ l hl
    have hhead : (s.active f).headD 0 ∈ s.active f := by
      cases h : s.active f with
      | nil => rw [h] at hl; nomatch hl
      | cons x xs => exact List.mem_cons_self
    rw [hall l hl, hall _ hhead]
    exact ⟨ht, rfl⟩
  refine crosses_of_runCross i f _ [{ opnd := 0, src := f.a }] _ _ _ (by simp) hx (fun s hp => if_neg fun hbad => ?_) _ fun s hp l hl => ?_
  · obtain ⟨l, hl, htag⟩ := List.any_eq_true.1 hbad
    obtain ⟨hok, hsame⟩ := shared s hp l hl
    rw [hsame] at htag
    simp [hok] at htag
  · obtain ⟨hok, hsame⟩ := shared s hp l hl
    have h := hR s l hok
    dsimp only
    rw [hsame]
    exact h

theorem foldLanes_joins (s : State) (f : Form) (excl : Bool) (l : Nat) :
    s.foldLanes f true excl l = (s.active f).filter (fun m => if excl then decide (m < l) else decide (m ≤ l)) := rfl

theorem foldLanes_all (s : State) (f : Form) (excl : Bool) (l : Nat) : s.foldLanes f false excl l = (s.active f).filter (fun _ => true) :=
  (List.filter_true _).symm

/-! ## Integer reductions (R365) -/

/-- The identity of an integer reduction, by its kind (R365). -/
def identityInt (k : Nat) (sg : Bool) (n : Nat) : Nat :=
  match k with
  | 1 => if sg then 2 ^ (n - 1) - 1 else 2 ^ n - 1 | 2 => if sg then 2 ^ (n - 1) else 0 | 3 => 2 ^ n - 1 | _ => 0

theorem pow_halves {n : Nat} (h : 0 < n) : 2 ^ n = 2 * 2 ^ (n - 1) := by
  obtain ⟨m, rfl⟩ := Nat.exists_eq_succ_of_ne_zero h.ne'
  exact Nat.pow_succ'

theorem redIdentity_eq {n : Nat} (hn : 0 < n) (k : Nat) (sg : Bool) : redIdentity k n sg % 2 ^ n = identityInt k sg n := by
  have hp := Nat.two_pow_pos (n - 1)
  have hd := pow_halves hn
  have small : ∀ x : Nat, x < 2 ^ n → ofInt n (x : Int) % 2 ^ n = x := fun x hx => by
    rw [ofInt_mod, ofInt, ← Int.natCast_emod, Int.toNat_natCast, Nat.mod_eq_of_lt hx]
  match k, sg with
  | 1, true =>
    have h := small (2 ^ (n - 1) - 1) (by omega)
    rw [Nat.cast_sub hp] at h
    exact h
  | 1, false =>
    have h := small (2 ^ n - 1) (by omega)
    rw [Nat.cast_sub (by omega)] at h
    exact h
  | 2, true =>
    have h := small (2 ^ (n - 1)) (by omega)
    have hneg : ofInt n (-((2 ^ (n - 1) : Nat) : Int)) = ofInt n ((2 ^ (n - 1) : Nat) : Int) := by
      rw [ofInt, ofInt, ← Int.add_mul_emod_self_left (-_) _ 1, hd]
      push_cast
      ring_nf
    show ofInt n (-((2 ^ (n - 1) : Nat) : Int)) % 2 ^ n = _
    rw [hneg]
    exact h
  | 2, false => exact small 0 (by omega)
  | 3, _ => exact Nat.mod_eq_of_lt (by omega : 2 ^ n - 1 < 2 ^ n)
  | 0, _ => exact Nat.zero_mod _
  | k + 4, _ => exact Nat.zero_mod _

theorem redInt_lt {n a b : Nat} (k : Nat) (sg : Bool) (ha : a < 2 ^ n) (hb : b < 2 ^ n) : redInt k n sg a b < 2 ^ n := by
  unfold redInt
  split
  · exact Nat.mod_lt _ (Nat.two_pow_pos n)
  · split <;> assumption
  · split <;> assumption
  · exact lt_of_le_of_lt Nat.and_le_left ha
  · exact Nat.or_lt_two_pow ha hb
  · exact Nat.xor_lt_two_pow ha hb

/-- The greatest and the least element are what the identities of min and max read as. -/
theorem elemInt_identity {n a : Nat} (hn : 0 < n) (ha : a < 2 ^ n) (sg : Bool) :
    (¬elemInt n sg a < elemInt n sg (identityInt 1 sg n) → a = identityInt 1 sg n) ∧
    (¬elemInt n sg (identityInt 2 sg n) < elemInt n sg a → a = identityInt 2 sg n) := by
  have hp := Nat.two_pow_pos (n - 1)
  have hd := pow_halves hn
  cases sg with
  | false => 
    simp only [elemInt, identityInt, Bool.false_eq_true, if_false, Nat.mod_eq_of_lt ha, Nat.mod_eq_of_lt (show 2 ^ n - 1 < 2 ^ n by omega), Nat.zero_mod]
    omega
  | true =>
    have hmax : (2 ^ (n - 1) - 1) % 2 ^ n = 2 ^ (n - 1) - 1 := Nat.mod_eq_of_lt (by omega)
    have hmin : 2 ^ (n - 1) % 2 ^ n = 2 ^ (n - 1) := Nat.mod_eq_of_lt (by omega)
    simp only [elemInt, identityInt, if_true, toSigned, Nat.mod_eq_of_lt ha, hmax, hmin]
    split_ifs <;> omega

theorem redInt_identity {n a : Nat} (hn : 0 < n) (ha : a < 2 ^ n) (k : Nat) (sg : Bool) : redInt k n sg (identityInt k sg n) a = a := by
  obtain ⟨hmax, hmin⟩ := elemInt_identity hn ha sg
  match k with
  | 0 => exact (congrArg (· % 2 ^ n) (Nat.zero_add a)).trans (Nat.mod_eq_of_lt ha)
  | 1 =>
    show (if elemInt n sg a < elemInt n sg (identityInt 1 sg n) then a else identityInt 1 sg n) = a
    split
    · rfl
    · next h => exact (hmax h).symm
  | 2 =>
    show (if elemInt n sg (identityInt 2 sg n) < elemInt n sg a then a else identityInt 2 sg n) = a
    split
    · rfl
    · next h => exact (hmin h).symm
  | 3 => exact (Nat.and_comm _ _).trans ((Nat.and_two_pow_sub_one_eq_mod a n).trans (Nat.mod_eq_of_lt ha))
  | 4 => exact Nat.zero_or a
  | k + 5 => exact Nat.zero_xor a

/-- An element of an integer reduction is the fold of that element from the identity. -/
theorem elemAt_over_foldInt (k : Nat) (sg : Bool) (t : Tag) (vs : List Word) {j : Nat} (hj : j < 64 / tagWidth t) :
    elemAt (tagWidth t) ((foldInt k sg t).over vs).1 j =
      (vs.map (fun v => elemAt (tagWidth t) v j)).foldl (redInt k (tagWidth t) sg) (identityInt k sg (tagWidth t)) := by
  have hn := tagWidth_pos t
  rw [elemAt_over (op := redInt k (tagWidth t) sg) fun a b =>
    (elemAt_zipElems _ _ _ _ _ hj).trans (Nat.mod_eq_of_lt (redInt_lt k sg (elemAt_lt _ _ _) (elemAt_lt _ _ _)))]
  cases vs with
  | nil => exact (elemAt_splat _ _ j hj).trans (redIdentity_eq hn k sg)
  | cons v rest =>
    rw [List.map_cons, List.foldl_cons, redInt_identity hn (elemAt_lt _ _ _)]

/-! ## Floating-point reductions (R366) -/

/-- The identity of a floating-point reduction, by its kind (R366). -/
def identityFloat (k : Nat) (f : Fmt) : Nat :=
  match k with | 0 => 2 ^ (f.width - 1) | 1 => f.infCode | _ => 2 ^ (f.width - 1) + f.infCode

theorem isFpTag_cases {t : Tag} (h : isFpTag t = true) : t = 6 ∨ t = 7 ∨ t = 8 ∨ t = 9 := by
  revert t
  decide

theorem width_fmtD {t : Tag} (h : isFpTag t = true) : (fmtD t).width = tagWidth t := by
  rcases isFpTag_cases h with rfl | rfl | rfl | rfl <;> rfl

theorem redFloatIdentity_eq {t : Tag} (h : isFpTag t = true) (k : Nat) : redFloatIdentity k (fmtD t) % 2 ^ tagWidth t = identityFloat k (fmtD t) := by
  match k with
  | 0 | 1 | k + 2 => rcases isFpTag_cases h with rfl | rfl | rfl | rfl <;> rfl

theorem elemAt_fltEval (g : Fmt → List Nat → Nat × Word) (t : Tag) (vs : List Word) {j : Nat} (hj : j < 64 / tagWidth t) :
    elemAt (tagWidth t) (fltEval g t vs).1 j = (g (fmtD t) (vs.map (fun v => elemAt (tagWidth t) v j))).1 % 2 ^ tagWidth t :=
  (eachFloat_fltEval g t [] vs).2 j hj

/-- An element of a floating-point reduction is the fold of that element from the lowest lane's, rounded at each step. -/
theorem elemAt_over_foldFloat (k : Nat) {t : Tag} (ht : isFpTag t = true) (vs : List Word) {j : Nat} (hj : j < 64 / tagWidth t) :
    elemAt (tagWidth t) ((foldFloat k t).over vs).1 j = match vs.map (fun v => elemAt (tagWidth t) v j) with
      | [] => identityFloat k (fmtD t)
      | x :: rest => rest.foldl (fun a b => (redFloat k (fmtD t) a b).1 % 2 ^ (fmtD t).width) x := by
  rw [elemAt_over (op := fun a b => (redFloat k (fmtD t) a b).1 % 2 ^ (fmtD t).width) fun a b => by
    rw [width_fmtD ht]
    exact elemAt_fltEval _ t [a, b] hj]
  cases vs with
  | nil => exact (elemAt_splat _ _ j hj).trans (redFloatIdentity_eq ht k)
  | cons v rest => rfl

/-- Settles O12: every reduction folds the words of the lanes that it joins, and an element of that fold is the fold of the element. -/
theorem reductionAndScanResults : Obligations.ReductionAndScanResults := by
  unfold Obligations.ReductionAndScanResults
  refine ⟨?_, ?_⟩
  · intro smaller larger op identity same value all upTo
    have hop : ∀ k sg n, op k sg n = redInt k n sg := fun k sg n => by
      funext a b
      match k with
      | 0 | 1 | 2 | 3 | 4 | k + 5 => rfl
    have hvalue : ∀ (k : BitVec 3) (sg excl scan : Bool) (f : Form) (s : State) (l : Nat), 
        value k.toNat sg (if scan then upTo excl else all) f s l (s.srcTagOf l f.a)
          ((foldInt k.toNat sg (s.srcTagOf l f.a)).over ((s.foldLanes f scan excl l).map (fun m => s.srcBits m f.a))).1 := by
      intro k sg excl scan f s l
      refine ⟨rfl, fun j hj => ?_⟩
      have hlanes : s.foldLanes f scan excl l = (s.active f).filter ((if scan then upTo excl else all) l) := by
        cases scan with
        | false => exact foldLanes_all s f excl l
        | true => rfl
      rw [elemAt_over_foldInt _ _ _ _ hj, hop, hlanes, List.map_map]
      rfl
    exact ⟨fun k w => fold_crosses (fun _ => rfl) fun s l _ => hvalue k _ false false _ s l,
      fun k w => fold_crosses (fun _ => rfl) fun s l _ => hvalue k _ false false _ s l,
      fun k w => fold_crosses (fun _ => rfl) fun s l _ => hvalue k _ (bitAt w.so 1) true _ s l,
      fun k w => fold_crosses (fun _ => rfl) fun s l _ => hvalue k _ (bitAt w.so 1) true _ s l⟩
  · intro op identity same value all upTo
    have hop : ∀ k f, op k f = fun a b => (redFloat k f a b).1 % 2 ^ f.width := fun k f => by
      funext a b
      match k with
      | 0 | 1 | k + 2 => rfl
    have hvalue : ∀ (k : BitVec 3) (excl scan : Bool) (f : Form) (s : State) (l : Nat), isFpTag (s.srcTagOf l f.a) = true →
        value k.toNat (if scan then upTo excl else all) f s l (s.srcTagOf l f.a)
          ((foldFloat k.toNat (s.srcTagOf l f.a)).over ((s.foldLanes f scan excl l).map (fun m => s.srcBits m f.a))).1 := by
      intro k excl scan f s l ht
      refine ⟨rfl, fun j hj => ?_⟩
      have hlanes : s.foldLanes f scan excl l = (s.active f).filter ((if scan then upTo excl else all) l) := by
        cases scan with
        | false => exact foldLanes_all s f excl l
        | true => rfl
      rw [elemAt_over_foldFloat _ ht _ hj, hop, hlanes, List.map_map]
      rfl
    exact ⟨fun k w => fold_crosses (fun _ => rfl) fun s l ht => hvalue k false false _ s l ht,
      fun k w => fold_crosses (fun _ => rfl) fun s l ht => hvalue k false false _ s l ht,
      fun k w => fold_crosses (fun _ => rfl) fun s l ht => hvalue k (bitAt w.so 1) true _ s l ht,
      fun k w => fold_crosses (fun _ => rfl) fun s l ht => hvalue k (bitAt w.so 1) true _ s l ht⟩

end Sys2Proof.Proofs
end

section
/-! Votes and masks over the active lanes (R364). -/

namespace Sys2Proof.Proofs

open Sys2Proof Sys2Proof.Machine Sys2Proof.Laws

/-! ## Votes -/

/-- Moving on changes the groups and the Helms of two states alike, whatever else they differ in. -/
theorem advance_agree {s t : State} (hcur : t.cur = s.cur) (hgroups : t.groups = s.groups) (hhelms : t.helms = s.helms) :
    t.advance.groups = s.advance.groups ∧ t.advance.helms = s.advance.helms := by
  cases hs : s.cur with
  | group wg grp lanes pc len =>
    rw [advance_group t wg grp lanes pc len (hcur.trans hs), advance_group s wg grp lanes pc len hs,
      noteIssue_group t wg grp lanes pc len (hcur.trans hs), noteIssue_group s wg grp lanes pc len hs]
    simp [State.group, hgroups, hhelms]
  | helm wg pc len =>
    rw [advance_helm t wg pc len (hcur.trans hs), advance_helm s wg pc len hs]
    simp [State.helm, hgroups, hhelms]
  | cornice u =>
    rw [advance_cornice t u (hcur.trans hs), advance_cornice s u hs]
    exact ⟨hgroups, hhelms⟩
  | nobody =>
    rw [advance_nobody t (hcur.trans hs), advance_nobody s hs]
    exact ⟨hgroups, hhelms⟩

/-- A state with the issuer, the threads, the groups and the Helms of another moves on as that one does. -/
theorem advance_like {s t : State} (hcur : t.cur = s.cur) (hthreads : t.threads = s.threads) (hgroups : t.groups = s.groups)
    (hhelms : t.helms = s.helms) :
    t.advance = { t with threads := s.advance.threads, groups := s.advance.groups, helms := s.advance.helms } := by
  obtain ⟨hg, hh⟩ := advance_agree hcur hgroups hhelms
  rw [advance_congr s t hcur hthreads, hg, hh]

/-- Moving on differs with the threads in the threads alone. -/
theorem advance_of_threads {s t : State} (h : t = { s with threads := t.threads }) :
    t.advance = { s.advance with threads := t.advance.threads } := by
  obtain ⟨hg, hh⟩ := advance_agree (s := s) (t := t) (by rw [h]) (by rw [h]) (by rw [h])
  have hframe := advance_frame t
  rw [hg, hh] at hframe
  rw [hframe, advance_frame s, h]

/-- One answer written to k of the lanes listed. -/
def putVotes (s : State) (lanes : List Nat) (n : Nat) (v : Bool) : State := lanes.foldl (fun t l => t.putPred false l n v) s

theorem putVotes_frame (s : State) (lanes : List Nat) (n : Nat) (v : Bool) :
    putVotes s lanes n v = { s with threads := (putVotes s lanes n v).threads } := by
  unfold putVotes
  induction lanes generalizing s with
  | nil => rfl
  | cons l rest ih =>
    rw [List.foldl_cons, ih]
    rfl

theorem putVotes_thread (s : State) (lanes : List Nat) (n : Nat) (v : Bool) (id : ThreadId) : (putVotes s lanes n v).thread id =
    if id.wg = s.curGroup.wg ∧ id.grp = s.curGroup.grp ∧ id.lane ∈ lanes then (s.thread id).setK n v else s.thread id := by
  have hput : (fun t l => t.putPred false l n v) = putTest false n (fun _ => (v, 0)) true :=
    funext fun t => funext fun l => (orFlags_zero _).symm
  rw [putVotes, hput, tests_thread]

theorem advance_putVotes_thread (s : State) (lanes : List Nat) (n : Nat) (v : Bool) (id : ThreadId) : (putVotes s lanes n v).advance.thread id =
    if id.wg = s.curGroup.wg ∧ id.grp = s.curGroup.grp ∧ id.lane ∈ lanes then (s.advance.thread id).setK n v else s.advance.thread id := by
  have hput := putVotes_thread s lanes n v id
  have hcur : (putVotes s lanes n v).cur = s.cur := by rw [putVotes_frame]
  cases hs : s.cur with
  | group wg grp bundle pc len =>
    rw [advance_thread _ wg grp bundle pc len (hcur.trans hs), advance_thread s wg grp bundle pc len hs, hput]
    split <;> split <;> simp only [movedTo_setK]
  | helm wg pc len =>
    rw [advance_helm _ wg pc len (hcur.trans hs), advance_helm s wg pc len hs]
    exact hput
  | cornice u =>
    rw [advance_cornice _ u (hcur.trans hs), advance_cornice s u hs]
    exact hput
  | nobody =>
    rw [advance_nobody _ (hcur.trans hs), advance_nobody s hs]
    exact hput

/-- One answer in the lanes listed is all that a vote writes. -/
theorem putsPred_putVotes (s : State) (lanes : List Nat) (n : Nat) (v : Bool) :
    PutsPred s (putVotes s lanes n v).advance false lanes n (fun _ => v) := by
  rw [PutsPred, if_neg Bool.false_ne_true]
  refine ⟨fun l hl => ?_, fun id hid => ?_⟩
  · rw [advance_putVotes_thread, if_pos ⟨rfl, rfl, hl⟩]
  · rw [advance_putVotes_thread, if_neg]
    rintro ⟨hwg, hgrp, hlane⟩
    exact hid _ hlane (by obtain ⟨a, b, c⟩ := id; simp_all [State.curThread])

theorem runVote_eq (s : State) (f : Form) (v : Bool) :
    s.runVote f v = .next (putVotes s ((s.active f).flatMap (fun l => l :: s.followers l)) f.d v).advance := by
  rw [putVotes, List.foldl_flatMap]
  rfl

/-- The k registers that a vote counts, one of each active lane. -/
def ballots (s : State) (f : Form) : List Bool := (s.active f).map (fun l => (s.thread (s.curThread l)).kAt f.a.num)

theorem vote_completes {i : Instr} {f : Form} {v : List Bool → Bool} (hx : ∀ s, exec i s = s.runVote f (v (ballots s f))) (s : State) :
    Completes i s (fun t => t = { s.advance with threads := t.threads } ∧
      PutsPred s t false ((s.active f).flatMap (fun l => l :: s.followers l)) f.d (fun _ => v (ballots s f))) :=
  ⟨_, (hx s).trans (runVote_eq s f _), advance_of_threads (putVotes_frame _ _ _ _), putsPred_putVotes _ _ _ _⟩

theorem voters_isEmpty (s : State) (f : Form) : (s.voters f).isEmpty = !(ballots s f).any id := by
  rw [State.voters, ballots, List.any_map, Bool.eq_iff_iff, List.isEmpty_iff, List.filter_eq_nil_iff, Bool.not_eq_true', List.any_eq_false]
  rfl

theorem voters_all (s : State) (f : Form) : ((s.voters f).length == (s.active f).length) = (ballots s f).all id := by
  rw [State.voters, ballots, List.all_map, Bool.eq_iff_iff, beq_iff_eq, List.length_filter_eq_length_iff, List.all_eq_true]
  rfl

/-! ## Masks -/

theorem foldl_add_eq_sum (xs : List Nat) : xs.foldl (· + ·) 0 = xs.sum := List.sum_eq_foldl.symm

/-- A bit of a mask of ascending lanes. -/
theorem getLsbD_laneMask {lanes : List Nat} (hasc : lanes.Pairwise (· < ·)) {l : Nat} (hl : l < 64) :
    (laneMask lanes).getLsbD l = decide (l ∈ lanes) := by
  have hbits := Nat.bitIndices_sum_map_two_pow hasc.sortedLT
  rw [laneMask, foldl_add_eq_sum, BitVec.getLsbD_ofNat, decide_eq_true hl, Bool.true_and, Bool.eq_iff_iff, ← Nat.mem_bitIndices, hbits, decide_eq_true_iff]

theorem ascending_active {s : State} (hb : Bundle s) (f : Form) : (s.active f).Pairwise (· < ·) := hb.ascending.filter _

theorem runToUniform_writes {i : Instr} {f : Form} {srcs : List Opnd} {g : State → Tag} {v : State → Word} {R : State → Form → Tag → Word → Prop}
    (hx : ∀ s, exec i s = s.runToUniform f srcs (g s) (v s)) (hR : ∀ s, Bundle s → s.active f ≠ [] → R s f (g s) (v s))
    (s : State) (hb : Bundle s) (hread : ReadableIn s (s.active f) (srcs.map (·.src)) [.uni f.d false]) :
    Completes i s (fun t => if s.active f = [] then t = s.advance else ∃ g v, R s f g v ∧ t = (s.putReg (s.uniKey f.d) g v).advance) := by
  by_cases hempty : s.active f = []
  · refine ⟨s.advance, ?_, (if_pos hempty).mpr rfl⟩
    rw [hx, State.runToUniform, hempty]
    rfl
  · have hfull : s.checkFull (s.active f) [] srcs [.uni f.d false] = .ok s :=
      checkFull_ok s _ [] srcs _ hread.quiet (fun l hl o ho => hread.srcs l (by simpa using hl) _ (List.mem_map_of_mem ho))
        (fun l hl => hread.dsts l (by simpa using hl))
    refine ⟨(s.putReg (s.uniKey f.d) (g s) (v s)).advance, ?_, (if_neg hempty).mpr ⟨_, _, hR s hb hempty, rfl⟩⟩
    rw [hx, State.runToUniform, if_neg (by simpa using hempty), hfull]

/-- The lowest active lane stands first. -/
theorem headD_active {s : State} (hb : Bundle s) {f : Form} (hne : s.active f ≠ []) :
    (s.active f).headD 0 ∈ s.active f ∧ ∀ m ∈ s.active f, (s.active f).headD 0 ≤ m := by
  have hasc := ascending_active hb f
  cases h : s.active f with
  | nil => exact absurd h hne
  | cons x rest =>
    rw [h] at hasc
    refine ⟨List.mem_cons_self, fun m hm => ?_⟩
    rcases List.mem_cons.1 hm with rfl | hmem
    · exact le_refl _
    · exact (List.rel_of_pairwise_cons hasc hmem).le

/-- Settles O13: a vote writes one answer to a list of lanes, and a mask of ascending lanes has the bit of each. -/
theorem voteAndMaskResults : Obligations.VoteAndMaskResults := by
  unfold Obligations.VoteAndMaskResults
  intro votes writes mask
  have hballot : ∀ {i : Instr} {f : Form}, (∀ s, exec i s = s.runToUniform f [] 1 (laneMask (s.voters f))) →
      writes false (mask (fun s f l => (s.thread (s.curThread l)).kAt f.a.num)) i f := fun {i f} hx =>
    runToUniform_writes hx fun s hb _ => ⟨rfl, fun l hl => by
      have hbit := getLsbD_laneMask ((ascending_active hb f).filter (fun l => (s.thread (s.curThread l)).kAt f.a.num)) hl
      rwa [decide_eq_decide.2 List.mem_filter] at hbit⟩
  have hamask : ∀ {i : Instr} {f : Form}, (∀ s, exec i s = s.runToUniform f [] 1 (laneMask (s.active f))) →
      writes false (mask (fun _ _ _ => true)) i f := fun {i f} hx =>
    runToUniform_writes hx fun s hb _ => ⟨rfl, fun l hl => by
      rw [getLsbD_laneMask (ascending_active hb f) hl]; simp⟩
  have htos : ∀ {i : Instr} {f : Form}, (∀ s, exec i s = s.runTos f) → writes true (fun s f g v =>
      ∃ l ∈ s.active f, (∀ m ∈ s.active f, l ≤ m) ∧ g = s.srcTagOf l f.a ∧ v = s.srcBits l f.a) i f := fun {i f} hx =>
    runToUniform_writes (srcs := [{ opnd := 0, src := f.a }])
      (R := fun s f g v => ∃ l ∈ s.active f, (∀ m ∈ s.active f, l ≤ m) ∧ g = s.srcTagOf l f.a ∧ v = s.srcBits l f.a) hx fun s hb hne => ⟨_, (headD_active hb hne).1, (headD_active hb hne).2, rfl, rfl⟩
  have hany : ∀ {i : Instr} {f : Form}, (∀ s, exec i s = s.voteAny f) → votes (fun ks => ks.any id) i f := fun {i f} hx =>
    vote_completes (f := f) (v := fun ks => ks.any id) fun s => by rw [hx, State.voteAny, voters_isEmpty, Bool.not_not]
  have hall : ∀ {i : Instr} {f : Form}, (∀ s, exec i s = s.voteAll f) → votes (fun ks => ks.all id) i f := fun {i f} hx =>
    vote_completes (f := f) (v := fun ks => ks.all id) fun s => by rw [hx, State.voteAll, voters_all]
  have heq : ∀ {i : Instr} {f : Form}, (∀ s, exec i s = s.voteEq f) → votes (fun ks => ks.all id || !ks.any id) i f := fun {i f} hx =>
    vote_completes (f := f) (v := fun ks => ks.all id || !ks.any id) fun s => by rw [hx, State.voteEq, voters_all, voters_isEmpty, Bool.or_comm]
  exact ⟨⟨fun _ => hany fun _ => rfl, fun _ => hany fun _ => rfl⟩, ⟨fun _ => hall fun _ => rfl, fun _ => hall fun _ => rfl⟩,
    ⟨fun _ => heq fun _ => rfl, fun _ => heq fun _ => rfl⟩, ⟨fun _ => hballot fun _ => rfl, fun _ => hballot fun _ => rfl⟩,
    ⟨fun _ => hamask fun _ => rfl, fun _ => hamask fun _ => rfl⟩, ⟨fun _ => htos fun _ => rfl, fun _ => htos fun _ => rfl⟩⟩

end Sys2Proof.Proofs
end

section
/-! Instructions that trap every thread of the bundle with ILLEGAL or EMULATE (R281, R311, R313, R314, R412). -/

namespace Sys2Proof.Proofs

open Sys2Proof Sys2Proof.Machine Sys2Proof.Laws

/-! ## Traps of a whole bundle -/

theorem nodup_curLanes {s : State} (hb : Bundle s) : (s.curLanes.map s.curThread).Nodup :=
  (hb.ascending.imp fun h => Nat.ne_of_lt h).map _ fun _ _ hne h => hne (curThread_inj h)

/-- Lanes that trap together: each has trapped, no other thread changed. -/
theorem trapLanes_spec {s : State} {lanes : List Nat} (hn : (lanes.map s.curThread).Nodup) (cause : BitVec 8) (pc : Word) (addr info : Nat → Word) :
    (∀ l ∈ lanes, TookTrap s (s.trapLanes lanes cause pc addr info) (s.curThread l) cause pc (addr l) (info l)) ∧
    (∀ id, (∀ l ∈ lanes, id ≠ s.curThread l) → (s.trapLanes lanes cause pc addr info).thread id = s.thread id) ∧
    Trapping s (s.trapLanes lanes cause pc addr info) :=
  traps_foldl _ s.curThread cause (fun _ => pc) addr info (fun v l => trapsOne_trapThread v (s.curThread l) cause pc (addr l) (info l)) lanes hn s

theorem trapsIllegal_trapAll {s : State} (hgroup : s.curHelm = false) (hb : Bundle s) (cause : BitVec 8) (reason : Nat) :
    TrapsIllegal s (s.trapAll s.curLanes cause (infoIllegal s.curLen false reason)) cause reason := by
  rw [State.trapAll, hgroup, if_neg Bool.false_ne_true]
  obtain ⟨htook, hothers, honly⟩ := trapLanes_spec (nodup_curLanes hb) cause s.curPc (fun _ => 0) (fun _ => infoIllegal s.curLen false reason false)
  exact ⟨htook, hothers, honly.regs, honly.mem, honly.groups, by rw [honly.frame]⟩

/-- Where its condition holds an instruction traps its whole bundle with ILLEGAL. -/
def TrapsWhere (i : Instr) (cond : State → Prop) (reason : Nat) : Prop :=
  ∀ s : State, s.curHelm = false → Bundle s → cond s → Completes i s (fun t => TrapsIllegal s t 0x01 reason)

theorem trapsWhere {i : Instr} {cond : State → Prop} {reason : Nat} (h : ∀ s, cond s → exec i s = .next (s.trapIllegal reason)) :
    TrapsWhere i cond reason := fun s hgroup hb hc => ⟨_, h s hc, trapsIllegal_trapAll hgroup hb 0x01 reason⟩

/-! ## Operands outside their limits -/

theorem withScope_illegal (s : State) {c : Nat} (h : 6 ≤ c) (go : Scope → State) : s.withScope c go = .next (s.trapIllegal 3) := if_pos h

theorem pullStep_illegal (s : State) {c : Nat} (h : 6 ≤ c) : s.pullStep c = .next (s.trapIllegal 3) := by
  rw [State.pullStep, decide_eq_false (by omega), Bool.false_and, if_neg Bool.false_ne_true, withScope_illegal s h]

theorem withBar_illegal {s : State} {n : Nat} (h : (s.launchOf s.curGroup.wg).barsN ≤ n) (go : Out) : s.withBar n go = .next (s.trapIllegal 3) :=
  if_pos h

theorem withBarD_illegal {s : State} {d : Nat} (h : ¬BarrierField s d) (go : Out) : s.withBarD d go = .next (s.trapIllegal 3) := by
  have hd : (s.launchOf s.curGroup.wg).barsN < d := Nat.lt_of_not_le h
  rw [State.withBarD, if_neg (by omega), withBar_illegal (by omega)]

/-- A field that names no barrier, or one of the workgroup's, is inside its limits. -/
theorem withBarD_field {s : State} {d : Nat} (h : BarrierField s d) (go : Out) : s.withBarD d go = go := by
  have hd : d ≤ (s.launchOf s.curGroup.wg).barsN := h
  rw [State.withBarD]
  split
  · rfl
  · exact if_neg (by omega)

theorem withStream_illegal {s : State} {n : Nat} (h : 8 ≤ n ∨ (s.stream n).isOpen = false) (go : Stream → Out) :
    s.withStream n go = .next (s.trapIllegal 3) := if_pos (by simpa using h)

theorem waitStep_illegal (s : State) (c : OpClass) {n : Nat} (h : 63 < n) : s.waitStep c n = .next (s.trapIllegal 3) := if_pos h

/-! ## System registers and privilege -/

theorem sysCheck_illegal (s : State) {write : Bool} {n : Nat} (h : sysNamed n = false ∨ write = true ∧ sysReadOnly n = true) (go : Out) :
    s.sysCheck write n go = .next (s.trapIllegal 3) := if_pos (by simpa using h)

theorem sysCheck_user {s : State} {write : Bool} {n : Nat} (hnamed : sysNamed n = true) (hro : sysReadOnly n = false) (hpriv : sysPrivileged n = true)
    (huser : s.allPriv = false) (go : Out) : s.sysCheck write n go = .next (s.trapIllegal 4) := by
  simp [State.sysCheck, hnamed, hro, hpriv, huser]

theorem sysNamed_eq_false {n : Nat} (h : 0x18 < n ∨ n = 0x0F) : sysNamed n = false := by
  simp only [sysNamed, Bool.and_eq_false_iff, decide_eq_false_iff_not, bne_eq_false_iff_eq]
  omega

theorem sysReadOnly_eq_true {n : Nat} (h : n ≤ 4 ∨ (0x10 ≤ n ∧ n ≠ 0x13)) : sysReadOnly n = true := by
  simpa [sysReadOnly] using h

/-- A privileged register has a name and may be written. -/
theorem sysPrivileged_facts {n : Nat} (h : (7 ≤ n ∧ n ≤ 0x0E) ∨ n = 0x13) : sysNamed n = true ∧ sysReadOnly n = false ∧ sysPrivileged n = true := by
  simp only [sysNamed, sysReadOnly, sysPrivileged, Bool.and_eq_true, Bool.or_eq_true, Bool.or_eq_false_iff, Bool.and_eq_false_iff,
    decide_eq_true_eq, decide_eq_false_iff_not, bne_iff_ne, bne_eq_false_iff_eq, beq_iff_eq]
  omega

theorem privUni_user {s : State} (h : s.allPriv = false) (srcs : List Opnd) (go : State → Out) : s.privUni srcs go = .next (s.trapIllegal 4) :=
  if_pos (by simp [h])

theorem allInHandler_eq_false {s : State} (h : ∃ l ∈ s.curLanes, (s.thread (s.curThread l)).inHandler = false) : s.allInHandler = false := by
  simpa [State.allInHandler] using h

theorem eretStep_outside {s : State} (h : ∃ l ∈ s.curLanes, (s.thread (s.curThread l)).inHandler = false) (f : Form) :
    s.eretStep f = .next (s.trapIllegal 4) := if_pos (by simp [allInHandler_eq_false h])

theorem parkStep_outside {s : State} (h : ∃ l ∈ s.curLanes, (s.thread (s.curThread l)).inHandler = false) (f : Form) :
    s.parkStep f = .next (s.trapIllegal 4) := if_pos (by simp [allInHandler_eq_false h])

theorem haltStep_user {s : State} (h : s.allPriv = false) (f : Form) : s.haltStep f = .next (s.trapIllegal 4) := if_pos (by simp [h])

theorem msaveOwnStep_user {s : State} (h : s.allPriv = false) (t : Nat) : s.msaveOwnStep t = .next (s.trapIllegal 4) := if_pos (by simp [h])

theorem migrate_user {s : State} {d : Nat} (h : s.allPriv = false) (hd : BarrierField s d) (a b c : Src) :
    s.copyIssue 6 a b c d = .next (s.trapIllegal 4) := by
  rw [State.copyIssue, withBarD_field hd, if_pos ⟨rfl, by simp [h]⟩]

theorem escapes_trap {i : Instr} {f : BitVec 2} (hx : ∀ s, exec i s = s.escapeStep f) (s : State) (hgroup : s.curHelm = false) (hb : Bundle s) :
    Completes i s (fun t => if f = 0 then TrapsIllegal s t 0x01 1 else TrapsIllegal s t 0x02 0) := by
  by_cases h : f = 0
  · exact ⟨_, (hx s).trans (if_pos h), (if_pos h).mpr (trapsIllegal_trapAll hgroup hb 0x01 1)⟩
  · exact ⟨_, (hx s).trans (if_neg h), (if_neg h).mpr (trapsIllegal_trapAll hgroup hb 0x02 0)⟩

/-- Settles O38: each check is the first that its instruction makes, and answers with the trap of the whole bundle. -/
theorem escapesAndIllegalOperands : Obligations.EscapesAndIllegalOperands := by
  unfold Obligations.EscapesAndIllegalOperands
  refine ⟨⟨fun _ _ _ => escapes_trap fun _ => rfl, fun _ _ _ => escapes_trap fun _ => rfl⟩, ?_⟩
  refine ⟨fun c hc => ?_, fun w hw => ?_, fun w => ?_, fun w => ?_, fun f w hw => ?_, fun w => ?_, fun n x hn => ?_, fun n x hn => ?_,
    fun n x hn => ?_, fun w => ?_, fun w => ?_, fun w => ?_, fun w => ?_, fun w => ?_, fun w => ?_⟩
  · exact ⟨trapsWhere fun s _ => (withScope_illegal s hc _ : execPub c s = _), trapsWhere fun s _ => pullStep_illegal s hc,
      trapsWhere fun s _ => (withScope_illegal s hc _ : execPhase c s = _)⟩
  · exact ⟨trapsWhere fun s _ => (withScope_illegal s hw _ : execPub64 w s = _), trapsWhere fun s _ => pullStep_illegal s hw,
      trapsWhere fun s _ => (withScope_illegal s hw _ : execPhase64 w s = _)⟩
  · exact ⟨trapsWhere fun s h => withBar_illegal h _, trapsWhere fun s h => withBar_illegal h _, trapsWhere fun s h => withBar_illegal h _,
      trapsWhere fun s h => withBar_illegal h _⟩
  · exact ⟨trapsWhere fun s h => withBar_illegal h _, trapsWhere fun s h => withBar_illegal h _, trapsWhere fun s h => withBar_illegal h _,
      trapsWhere fun s h => withBar_illegal h _⟩
  · exact trapsWhere fun s _ => waitStep_illegal s _ hw
  · exact ⟨trapsWhere fun s h => (withStream_illegal h _ : s.wadvStep _ _ = _), trapsWhere fun s h => (withStream_illegal h _ : s.wendStep _ _ _ = _),
      trapsWhere fun s h => (withStream_illegal h _ : s.wldStep _ _ _ _ = _),
      trapsWhere fun s h => (withStream_illegal h _ : s.wldStep _ _ _ _ = _)⟩
  · have hname := sysNamed_eq_false hn
    exact ⟨trapsWhere fun s _ => sysCheck_illegal s (.inl hname) _, trapsWhere fun s _ => sysCheck_illegal s (.inl hname) _⟩
  · exact trapsWhere fun s _ => sysCheck_illegal s (.inr ⟨rfl, sysReadOnly_eq_true hn⟩) _
  · obtain ⟨hname, hro, hpriv⟩ := sysPrivileged_facts hn
    exact ⟨trapsWhere fun s h => sysCheck_user hname hro hpriv h _, trapsWhere fun s h => sysCheck_user hname hro hpriv h _⟩
  · have hbeyond : ∀ {i : Instr} {go : State → Out}, (∀ s, exec i s = s.withBarD w.d.toNat (go s)) → TrapsWhere i (fun s => ¬BarrierField s w.d.toNat) 3 :=
      fun hx => trapsWhere fun s h => (hx s).trans (withBarD_illegal h _)
    exact ⟨hbeyond fun _ => rfl, hbeyond fun _ => rfl, hbeyond fun _ => rfl, hbeyond fun _ => rfl, hbeyond fun _ => rfl, hbeyond fun _ => rfl,
      hbeyond fun _ => rfl, hbeyond fun _ => rfl, hbeyond fun _ => rfl⟩
  · have hbeyond : ∀ {i : Instr} {go : State → Out}, (∀ s, exec i s = s.withBarD (form64 w false).d (go s)) →
        TrapsWhere i (fun s => ¬BarrierField s (form64 w false).d) 3 := fun hx => trapsWhere fun s h => (hx s).trans (withBarD_illegal h _)
    exact ⟨hbeyond fun _ => rfl, hbeyond fun _ => rfl, hbeyond fun _ => rfl, hbeyond fun _ => rfl, hbeyond fun _ => rfl, hbeyond fun _ => rfl,
      hbeyond fun _ => rfl, hbeyond fun _ => rfl, hbeyond fun _ => rfl⟩
  · exact ⟨trapsWhere fun s h => eretStep_outside h _, trapsWhere fun s h => parkStep_outside h _⟩
  · exact ⟨trapsWhere fun s h => eretStep_outside h _, trapsWhere fun s h => parkStep_outside h _⟩
  · exact ⟨trapsWhere fun s h => haltStep_user h _, trapsWhere fun s h => privUni_user h _ _, trapsWhere fun s h => privUni_user h _ _,
      trapsWhere fun s h => privUni_user h _ _, trapsWhere fun s h => privUni_user h _ _, trapsWhere fun s h => migrate_user h.1 h.2 _ _ _,
      trapsWhere fun s h => privUni_user h _ _, trapsWhere fun s h => msaveOwnStep_user h _, trapsWhere fun s h => privUni_user h _ _⟩
  · exact ⟨trapsWhere fun s h => haltStep_user h _, trapsWhere fun s h => privUni_user h _ _, trapsWhere fun s h => privUni_user h _ _,
      trapsWhere fun s h => privUni_user h _ _, trapsWhere fun s h => privUni_user h _ _, trapsWhere fun s h => migrate_user h.1 h.2 _ _ _,
      trapsWhere fun s h => privUni_user h _ _, trapsWhere fun s h => msaveOwnStep_user h _, trapsWhere fun s h => privUni_user h _ _⟩

end Sys2Proof.Proofs
end

section
/-! Branches, jumps and calls of a group, branches of a Helm (R119, R120, R340 to R342). -/

namespace Sys2Proof.Proofs

open Sys2Proof Sys2Proof.Machine Sys2Proof.Laws

/-! ## Jumping -/

/-- Lanes of the bundle sent each to its own address: the threads alone change. -/
theorem jump_frame {s : State} (hgroup : s.curHelm = false) (lanes : List Nat) (target : Nat → Word) :
    s.jump lanes target = { s with threads := (s.jump lanes target).threads } := by
  rw [State.jump, if_neg (by rw [hgroup]; nofun),
    foldl_setThread lanes s.curThread (fun l x => { x with pc := target l, wait := .none, hang := 0 })]

theorem jump_thread {s : State} (hgroup : s.curHelm = false) (lanes : List Nat) (target : Nat → Word) (id : ThreadId) :
    (s.jump lanes target).thread id =
      if id.wg = s.curGroup.wg ∧ id.grp = s.curGroup.grp ∧ id.lane ∈ lanes then movedTo (target id.lane) (s.thread id) else s.thread id := by
  rw [State.jump, if_neg (by rw [hgroup]; nofun)]
  have hshape : ∀ l, s.curThread l = ⟨s.curGroup.wg, s.curGroup.grp, l⟩ := fun l => rfl
  generalize s.curThread = key at *
  generalize s.curGroup = g at *
  clear hgroup
  obtain ⟨a, b, c⟩ := id
  induction lanes generalizing s with
  | nil => simp
  | cons l rest ih =>
    rw [List.foldl_cons, ih, thread_setThread, hshape]
    by_cases h1 : a = g.wg <;> by_cases h2 : b = g.grp <;> by_cases h3 : c = l <;> by_cases h4 : c ∈ rest <;> simp_all [movedTo]

/-! ## The group's backward branches (R120) -/

theorem countBackward_frame (s : State) (back : Bool) : s.countBackward back = { s with groups := (s.countBackward back).groups } := by
  unfold State.countBackward
  split <;> rfl

theorem noted_frame (s : State) (back : Bool) :
    s.noteIssue.countBackward back = { s with groups := (s.noteIssue.countBackward back).groups } := by
  rw [countBackward_frame, noteIssue_frame s]

theorem isLowestBundle_noteIssue (s : State) : s.noteIssue.isLowestBundle = s.isLowestBundle := by
  rw [noteIssue_frame]
  rfl

theorem group_countBackward {s : State} (hgroup : s.curHelm = false) (back : Bool) (g : GroupId) :
    (s.countBackward back).group g = if g = s.curGroup then
      { s.group g with backCount := (s.group g).backCount + if back && s.isLowestBundle then 1 else 0 } else s.group g := by
  rw [State.countBackward, hgroup]
  cases back <;> cases s.isLowestBundle <;> simp [group_setGroup] ; (split <;> simp_all)

/-- A group whose issue is noted once more keeps its count, if a lane issues. -/
theorem issuedGroup_again {lanes : List Nat} {n : Nat} (h : lanes = [] → n = 0) (g : Group) :
    issuedGroup lanes { issuedGroup lanes g with backCount := n } = { issuedGroup lanes g with backCount := n } := by
  cases lanes with
  | nil => simp [issuedGroup, h rfl]
  | cons l rest => simp [issuedGroup]

/-- What a transfer makes of the groups: the issue is noted, a backward branch of the lowest bundle counted. -/
theorem group_noted {s : State} (hgroup : s.curHelm = false) {back : Bool} (hback : back = true → s.curLanes ≠ []) (g : GroupId) :
    (s.noteIssue.countBackward back).advance.group g = if g = s.curGroup then
      { s.advance.group g with backCount := (s.advance.group g).backCount + if back && s.isLowestBundle then 1 else 0 } else s.group g := by
  have hcur : (s.noteIssue.countBackward back).cur = s.cur := by rw [noted_frame]
  have hnote : s.noteIssue.cur = s.cur := by rw [noteIssue_frame]
  have hcount := group_countBackward (s := s.noteIssue) ((curHelm_congr hnote).trans hgroup) back
  rw [curGroup_congr hnote, isLowestBundle_noteIssue] at hcount
  cases hs : s.cur with
  | group wg grp lanes pc len =>
    have hid : s.curGroup = ⟨wg, grp⟩ := by rw [State.curGroup, hs]
    have hlanes : s.curLanes = lanes := by rw [State.curLanes, hs]
    have hnoted : ∀ g, s.noteIssue.group g = if g = ⟨wg, grp⟩ then issuedGroup lanes (s.group ⟨wg, grp⟩) else s.group g := fun g => by
      rw [noteIssue_group s wg grp lanes pc len hs]
      exact group_setGroup s ⟨wg, grp⟩ g _
    rw [group_advance _ wg grp lanes pc len (hcur.trans hs), group_advance s wg grp lanes pc len hs, hid]
    rw [hid] at hcount
    by_cases hg : g = ⟨wg, grp⟩
    · subst hg
      rw [if_pos rfl, if_pos rfl, if_pos rfl, hcount, if_pos rfl, hnoted, if_pos rfl, issuedGroup_again]
      rintro rfl
      have hnone : back = false := by by_contra hb; exact hback (by simpa using hb) hlanes
      simp [hnone, issuedGroup]
    · rw [if_neg hg, if_neg hg, hcount, if_neg hg, hnoted, if_neg hg]
  | helm wg pc len => simp [State.curHelm, hs] at hgroup
  | cornice u =>
    have hnone : back = false := by by_contra hb; exact hback (by simpa using hb) (by rw [State.curLanes, hs])
    rw [advance_cornice _ u (hcur.trans hs), advance_cornice s u hs, hcount, hnone]
    simp [State.noteIssue, hs]
  | nobody =>
    have hnone : back = false := by by_contra hb; exact hback (by simpa using hb) (by rw [State.curLanes, hs])
    rw [advance_nobody _ (hcur.trans hs), advance_nobody s hs, hcount, hnone]
    simp [State.noteIssue, hs]

/-! ## Transfers (R340) -/

theorem helms_group {s : State} (hgroup : s.curHelm = false) : s.advance.helms = s.helms := by
  cases hs : s.cur with
  | group wg grp lanes pc len => exact helms_advance s wg grp lanes pc len hs
  | helm wg pc len => simp [State.curHelm, hs] at hgroup
  | cornice u => rw [advance_cornice s u hs]
  | nobody => rw [advance_nobody s hs]

/-- The lanes of a transfer that go to their targets. -/
def landing (s : State) (taken : Nat → Bool) (target : Nat → Word) : List Nat :=
  (s.curLanes.filter taken).filter (fun l => !bitAt (target l) 0)

/-- The lanes of a transfer whose targets are odd. -/
def straying (s : State) (taken : Nat → Bool) (target : Nat → Word) : List Nat :=
  (s.curLanes.filter taken).filter (fun l => bitAt (target l) 0)

/-- Whether a transfer is a backward branch (R120). -/
def goesBack (s : State) (taken : Nat → Bool) (target : Nat → Word) : Bool :=
  (landing s taken target).any (fun l => decide ((target l).toNat ≤ s.curPc.toNat))

/-- A transfer before the lanes with odd targets trap. -/
def landed (s : State) (taken : Nat → Bool) (target : Nat → Word) : State :=
  (s.noteIssue.countBackward (goesBack s taken target)).advance.jump (landing s taken target) target

section
variable {s : State} (hgroup : s.curHelm = false) (taken : Nat → Bool) (target : Nat → Word)

theorem transfer_eq : s.transfer (s.curLanes.filter taken) target =
    (landed s taken target).trapLanes (straying s taken target) 0x05 s.curPc target (fun _ => infoAddr false 3 0) := rfl

theorem mem_landing {l : Nat} (hl : l ∈ s.curLanes) : l ∈ landing s taken target ↔ taken l = true ∧ bitAt (target l) 0 = false := by
  simp [landing, hl, and_comm]

theorem mem_straying {l : Nat} (hl : l ∈ s.curLanes) : l ∈ straying s taken target ↔ taken l = true ∧ bitAt (target l) 0 = true := by
  simp [straying, hl, and_comm]

theorem goesBack_eq : goesBack s taken target =
    s.curLanes.any (fun l => taken l && !bitAt (target l) 0 && decide ((target l).toNat ≤ s.curPc.toNat)) := by
  simp only [goesBack, landing, List.any_filter, Bool.and_assoc]

include hgroup

/-- The issue noted and the backward branch counted, a bundle has moved on but for its group. -/
theorem advance_noted (back : Bool) : (s.noteIssue.countBackward back).advance =
    { s.advance with groups := (s.noteIssue.countBackward back).advance.groups } := by
  obtain ⟨gs, hgs⟩ : ∃ gs, s.noteIssue.countBackward back = { s with groups := gs } := ⟨_, noted_frame s back⟩
  have hhelms : ({ s with groups := gs } : State).advance.helms = s.advance.helms :=
    (helms_group (s := { s with groups := gs }) hgroup).trans (helms_group hgroup).symm
  rw [hgs, advance_congr s { s with groups := gs } rfl rfl, hhelms]
  conv_rhs => rw [advance_frame s]

theorem landed_frame : landed s taken target =
    { s.advance with threads := (landed s taken target).threads, groups := (s.noteIssue.countBackward (goesBack s taken target)).advance.groups } := by
  obtain ⟨gs, hgs⟩ : ∃ gs, (s.noteIssue.countBackward (goesBack s taken target)).advance = { s.advance with groups := gs } :=
    ⟨_, advance_noted hgroup _⟩
  rw [landed, hgs]
  exact jump_frame (s := { s.advance with groups := gs }) ((curHelm_congr (cur_advance s)).trans hgroup) _ target

theorem landed_thread (id : ThreadId) : (landed s taken target).thread id =
    if id.wg = s.curGroup.wg ∧ id.grp = s.curGroup.grp ∧ id.lane ∈ landing s taken target then movedTo (target id.lane) (s.advance.thread id)
    else s.advance.thread id := by
  have hmoved := advance_noted hgroup (goesBack s taken target)
  have hcur : (s.noteIssue.countBackward (goesBack s taken target)).advance.cur = s.cur := by rw [hmoved, cur_advance]
  rw [landed, jump_thread ((curHelm_congr hcur).trans hgroup), curGroup_congr hcur, thread_congr (s := s.advance) (by rw [hmoved])]

theorem landed_group (g : GroupId) : (landed s taken target).group g = if g = s.curGroup then
    { s.advance.group g with backCount := (s.advance.group g).backCount + if goesBack s taken target && s.isLowestBundle then 1 else 0 }
    else s.group g := by
  rw [← group_noted hgroup (fun hback hnone => ?_) g, State.group, landed_frame hgroup]
  · rfl
  · rw [goesBack, landing, hnone] at hback
    nomatch hback

theorem landed_thread_lane {l : Nat} (hl : l ∈ s.curLanes) : (landed s taken target).thread (s.curThread l) =
    movedTo (if l ∈ landing s taken target then target l else s.curPc + BitVec.ofNat 64 s.curLen) (s.thread (s.curThread l)) := by
  rw [landed_thread hgroup, advance_thread_lane hl]
  by_cases h : l ∈ landing s taken target <;> simp [State.curThread, h, movedTo]

theorem landed_thread_apart {id : ThreadId} (h : ∀ l ∈ s.curLanes, id ≠ s.curThread l) : (landed s taken target).thread id = s.thread id := by
  rw [landed_thread hgroup, advance_thread_apart h, if_neg]
  rintro ⟨hwg, hgrp, hlane⟩
  exact h id.lane (List.mem_filter.1 (List.mem_filter.1 hlane).1).1 (by obtain ⟨a, b, c⟩ := id; simp_all [State.curThread])

/-- What `transfer` does: its lanes go to their targets or trap there, the rest of the bundle moves on. -/
theorem transfers_transfer (hb : Bundle s) : Transfers s (s.transfer (s.curLanes.filter taken) target) taken target ∧
    (s.transfer (s.curLanes.filter taken) target).regs = s.regs := by
  have hframe := landed_frame hgroup taken target
  have hkey : (landed s taken target).curThread = s.curThread := funext fun l => by
    rw [State.curThread, State.curThread, curGroup_congr (s := s) (by rw [hframe, cur_advance])]
  have hvec : ∀ w, s.trapVec (s.ctxOf w) = (landed s taken target).trapVec ((landed s taken target).ctxOf w) := fun w => by
    rw [hframe, advance_frame s]
    rfl
  have hnodup : ((straying s taken target).map (landed s taken target).curThread).Nodup := by
    rw [hkey]
    exact (nodup_curLanes hb).sublist ((List.filter_sublist.trans List.filter_sublist).map _)
  obtain ⟨htook, hothers, honly⟩ := trapLanes_spec hnodup 0x05 s.curPc target (fun _ => infoAddr false 3 0)
  rw [hkey] at htook hothers
  rw [transfer_eq]
  refine ⟨⟨fun l hl => ?_, fun id hid => ?_, fun g => ?_, ?_, fun heven => ?_⟩, ?_⟩
  · by_cases hodd : (taken l && bitAt (target l) 0) = true
    · rw [if_pos hodd]
      exact tookTrap_congr (htook l ((mem_straying taken target hl).2 (by simpa using hodd)))
        (by rw [landed_thread_lane hgroup taken target hl]; rfl) (hvec _) rfl
    · have hapart : ∀ m ∈ straying s taken target, s.curThread l ≠ s.curThread m := fun m hm h => by
        obtain rfl := curThread_inj h
        exact hodd (by simpa using (mem_straying taken target hl).1 hm)
      rw [if_neg hodd, hothers _ hapart, landed_thread_lane hgroup taken target hl]
      have hland : l ∈ landing s taken target ↔ taken l = true := by
        rw [mem_landing taken target hl]
        cases h : taken l with
        | false => simp
        | true => simpa [h] using hodd
      simp only [hland, movedTo]
  · have hapart : ∀ m ∈ straying s taken target, id ≠ s.curThread m := fun m hm =>
      hid m (List.mem_filter.1 (List.mem_filter.1 hm).1).1
    rw [hothers _ hapart, landed_thread_apart hgroup taken target hid]
  · rw [State.group, honly.groups]
    have h := landed_group hgroup taken target g
    rw [goesBack_eq] at h
    exact h
  · rw [honly.mem, hframe, advance_mem]
  · have hnone : straying s taken target = [] := List.eq_nil_iff_forall_not_mem.2 fun l hl => by
      have hmem := (List.mem_filter.1 (List.mem_filter.1 hl).1).1
      obtain ⟨htaken, hodd⟩ := (mem_straying taken target hmem).1 hl
      rw [heven l hmem htaken] at hodd
      nomatch hodd
    obtain ⟨ts, gs, hstate⟩ : ∃ ts gs, landed s taken target = { s.advance with threads := ts, groups := gs } := ⟨_, _, hframe⟩
    rw [hnone, State.trapLanes, List.foldl_nil, hstate]
  · rw [honly.regs, hframe, advance_regs]

end

/-- A transfer is read from its state before up to the registers. -/
theorem transfers_of_regs {s t : State} {r : FMap RegKey Reg} {taken : Nat → Bool} {target : Nat → Word}
    (h : Transfers { s with regs := r } t taken target) : Transfers s t taken target := by
  obtain ⟨hlanes, hothers, hgroups, hmem, hrest⟩ := h
  have hgroup : ∀ g, ({ s with regs := r } : State).advance.group g = s.advance.group g := fun g => by
    rw [State.group, (advance_agree (s := s) (t := { s with regs := r }) rfl rfl rfl).1]
    rfl
  refine ⟨hlanes, hothers, fun g => ?_, hmem, fun heven => ?_⟩
  · have hg := hgroups g
    rw [hgroup] at hg
    exact hg
  · have hs := hrest heven
    rw [advance_like (s := s) (t := { s with regs := r }) rfl rfl rfl rfl] at hs
    conv_rhs => rw [advance_frame s]
    exact hs

/-! ## The instructions -/

theorem parcels_eq {n : Nat} (o : BitVec n) : parcels o = BitVec.ofInt 64 (2 * o.toInt) := by
  rw [parcels, BitVec.signExtend, Int.mul_comm, BitVec.ofInt_mul]
  rfl

theorem filter_active (s : State) (f : Form) : s.curLanes.filter (fun l => decide (l ∈ s.active f)) = s.active f :=
  List.filter_congr fun l hl => by simp [State.active, hl]

/-- The return address written to a register of every lane listed. -/
def linkRegs (s : State) (lanes : List Nat) (d : Nat) (v : Word) : State := lanes.foldl (fun t l => t.putReg (t.laneKey l d) 1 v) s

theorem linkRegs_frame (s : State) (lanes : List Nat) (d : Nat) (v : Word) :
    linkRegs s lanes d v = { s with regs := (linkRegs s lanes d v).regs } := by
  unfold linkRegs
  induction lanes generalizing s with
  | nil => rfl
  | cons l rest ih =>
    rw [List.foldl_cons, ih]
    rfl

theorem linkRegs_reg (s : State) (lanes : List Nat) (d : Nat) (v : Word) (k : RegKey) :
    (linkRegs s lanes d v).reg k = if ∃ l ∈ lanes, k = s.laneKey l d then { bits := v, tag := 1, full := true } else s.reg k := by
  unfold linkRegs
  induction lanes generalizing s with
  | nil => simp
  | cons l rest ih =>
    have hkey : ∀ m, (s.putReg (s.laneKey l d) 1 v).laneKey m d = s.laneKey m d := fun m => rfl
    simp only [List.foldl_cons, ih, hkey, reg_putReg, List.mem_cons, exists_eq_or_imp]
    by_cases h1 : k = s.laneKey l d <;> by_cases h2 : ∃ m ∈ rest, k = s.laneKey m d <;> simp [h1, h2]

theorem bra_group (o : BitVec 23) {s : State} (hgroup : s.curHelm = false) (hb : Bundle s) :
    Completes (.bra o) s (fun t => Transfers s t (fun _ => true) (fun _ => s.curPc + parcels o) ∧ t.regs = s.regs) := by
  refine ⟨_, if_neg (by rw [hgroup]; nofun), ?_⟩
  have h := transfers_transfer hgroup (fun _ => true) (fun _ => s.curPc + parcels o) hb
  rwa [List.filter_true] at h

theorem bc_group (o : BitVec 19) (n : Bool) (k : BitVec 3) {s : State} (hgroup : s.curHelm = false) (hb : Bundle s) :
    Completes (.bc o n k) s (fun t => t.regs = s.regs ∧
      Transfers s t (fun l => (s.thread (s.curThread l)).kAt k.toNat != n) (fun _ => s.curPc + parcels o)) :=
  ⟨_, if_neg (by rw [hgroup]; nofun), (transfers_transfer hgroup _ _ hb).symm⟩

/-- A transfer behind return addresses. -/
theorem linked_transfer {s : State} (hgroup : s.curHelm = false) (hb : Bundle s) (links : List Nat) (d : Nat) (v : Word) (taken : Nat → Bool)
    (target : Nat → Word) : Transfers s ((linkRegs s links d v).transfer (s.curLanes.filter taken) target) taken target ∧
      ∀ k, ((linkRegs s links d v).transfer (s.curLanes.filter taken) target).reg k =
        if ∃ l ∈ links, k = s.laneKey l d then { bits := v, tag := 1, full := true } else s.reg k := by
  have hreg := linkRegs_reg s links d v
  obtain ⟨r, hr⟩ : ∃ r, linkRegs s links d v = { s with regs := r } := ⟨_, linkRegs_frame s links d v⟩
  rw [hr] at hreg ⊢
  obtain ⟨htransfers, hregs⟩ := transfers_transfer (s := { s with regs := r }) hgroup taken target ⟨hb.live, hb.ascending⟩
  refine ⟨transfers_of_regs htransfers, fun k => ?_⟩
  rw [← hreg]
  exact congrArg (fun m => FMap.getD m k _) hregs

theorem callRel_group (o : BitVec 17) (d : BitVec 6) {s : State} (hgroup : s.curHelm = false) (hb : Bundle s)
    (hread : ReadableIn s (s.curLanes ++ s.helpers) [] [.lane d.toNat false]) :
    Completes (.callRel o d) s (fun t => Transfers s t (fun _ => true) (fun _ => s.curPc + parcels o) ∧
      (∀ l ∈ s.curLanes, t.reg (s.laneKey l d.toNat) = { bits := s.curPc + BitVec.ofNat 64 s.curLen, tag := 1, full := true }) ∧
      ∀ k, (∀ l ∈ s.curLanes ++ s.helpers, k ≠ s.laneKey l d.toNat) → t.reg k = s.reg k) := by
  have hfull : s.checkFull s.curLanes s.helpers [] [.lane d.toNat false] = .ok s :=
    checkFull_ok s _ _ [] _ hread.quiet (fun _ _ o ho => nomatch ho) hread.dsts
  obtain ⟨htransfers, hreg⟩ := linked_transfer hgroup hb (s.curLanes ++ s.helpers) d.toNat (s.curPc + BitVec.ofNat 64 s.curLen)
    (fun _ => true) (fun _ => s.curPc + parcels o)
  rw [List.filter_true] at htransfers hreg
  refine ⟨_, ?_, htransfers, fun l hl => ?_, fun k hk => ?_⟩
  · show (match s.checkFull s.curLanes s.helpers [] [.lane d.toNat false] with
      | .trapped t => .next t
      | .blocked => .next s
      | .ok s => _ : Out) = _
    rw [hfull]
    rfl
  · rw [hreg, if_pos ⟨l, List.mem_append_left _ hl, rfl⟩]
  · rw [hreg, if_neg]
    rintro ⟨l, hl, hkey⟩
    exact hk l hl hkey

theorem targetFormat_eq_false {s : State} {lanes : List Nat} {x : Src} (h : ∀ l ∈ lanes, s.srcTagOf l x = 1) : s.targetFormat lanes x = false := by
  rw [State.targetFormat, List.any_eq_false]
  intro l hl
  have htag := h l hl
  rw [State.srcTagOf] at htag
  cases hk : s.srcKey l x <;> simp_all

/-- Jumps and calls to the addresses in a register (R342). -/
theorem jumpTo_group {i : Instr} {f : Form} {link : Bool} (hx : ∀ s, exec i s = s.jumpTo f link) (s : State) (hgroup : s.curHelm = false)
    (hb : Bundle s) (htags : ∀ l ∈ s.active f, s.srcTagOf l f.a = 1)
    (hread : ReadableIn s (s.active f ++ if link then s.activeHelpers f else []) [f.a] (if link then [.lane f.d false] else [])) :
    Completes i s (fun t => Transfers s t (fun l => decide (l ∈ s.active f)) (fun l => s.srcBits l f.a) ∧
      (∀ k, (∀ l ∈ s.active f ++ s.activeHelpers f, link = true → k ≠ s.laneKey l f.d) → t.reg k = s.reg k) ∧
      (link = true → ∀ l ∈ s.active f, bitAt (s.srcBits l f.a) 0 = false →
        t.reg (s.laneKey l f.d) = { bits := s.curPc + BitVec.ofNat 64 s.curLen, tag := 1, full := true })) := by
  let links := if link then (s.active f).filter (fun l => !bitAt (s.srcBits l f.a) 0) ++ s.activeHelpers f else []
  have hfull : s.checkFull (s.active f) (if link then s.activeHelpers f else []) [{ opnd := 0, src := f.a }]
      (if link then [.lane f.d false] else []) = .ok s :=
    checkFull_ok s _ _ _ _ hread.quiet (fun l hl o ho => by
      obtain rfl := List.mem_singleton.1 ho
      exact hread.srcs l hl f.a List.mem_cons_self) hread.dsts
  obtain ⟨htransfers, hreg⟩ := linked_transfer hgroup hb links f.d (s.curPc + BitVec.ofNat 64 s.curLen)
    (fun l => decide (l ∈ s.active f)) (fun l => s.srcBits l f.a)
  rw [filter_active] at htransfers hreg
  refine ⟨_, ?_, htransfers, fun k hk => ?_, fun hlink l hl heven => ?_⟩
  · rw [hx, State.jumpTo, targetFormat_eq_false htags, if_neg Bool.false_ne_true, hfull]
    cases link <;> rfl
  · rw [hreg, if_neg]
    rintro ⟨l, hl, hkey⟩
    cases link with
    | false => exact absurd hl List.not_mem_nil
    | true =>
      refine hk l ?_ rfl hkey
      rcases List.mem_append.1 hl with h | h
      · exact List.mem_append_left _ (List.mem_filter.1 h).1
      · exact List.mem_append_right _ h
  · subst hlink
    rw [hreg, if_pos ⟨l, List.mem_append_left _ (List.mem_filter.2 ⟨hl, by simp [heven]⟩), rfl⟩]

/-! ## Branches of a Helm -/

/-- A Helm at another address, waiting for nothing. -/
def helmAt (s : State) (pc : Word) : State :=
  s.setHelm s.curGroup.wg { s.helm s.curGroup.wg with pc := pc, wait := .none, hang := 0 }

theorem jump_helm {s : State} (hhelm : s.curHelm = true) (lanes : List Nat) (pc : Word) : s.jump lanes (fun _ => pc) = helmAt s pc := if_pos hhelm

theorem advance_of_helm {s : State} (hhelm : s.curHelm = true) : s.advance = helmAt s (s.curPc + BitVec.ofNat 64 s.curLen) := by
  cases hs : s.cur with
  | helm wg pc len =>
    have hwg : s.curGroup.wg = wg := by rw [State.curGroup, hs]
    rw [advance_helm s wg pc len hs, helmAt, hwg, State.curPc, State.curLen, hs]
  | group wg grp lanes pc len => simp [State.curHelm, hs] at hhelm
  | cornice u => simp [State.curHelm, hs] at hhelm
  | nobody => simp [State.curHelm, hs] at hhelm

theorem bc_helm (o : BitVec 19) (n : Bool) (k : BitVec 3) {s : State} (hhelm : s.curHelm = true) (hread : ReadableIn s [0] [.uni k.toNat false] []) :
    exec (.bc o n k) s = .next (helmAt s (if ((s.reg (s.uniKey k.toNat)).bits != 0) != n then s.curPc + parcels o
      else s.curPc + BitVec.ofNat 64 s.curLen)) := by
  have hfull : s.checkFull oneLane [] [{ opnd := 0, src := .uni k.toNat false }] [] = .ok s :=
    checkFull_ok s _ [] _ _ hread.quiet (fun l hl o ho => by
      obtain rfl := List.mem_singleton.1 ho
      exact hread.srcs l (by simpa [oneLane] using hl) _ List.mem_cons_self) (fun _ _ x hx => nomatch hx)
  show execBc o n k s = _
  rw [execBc, if_pos hhelm, hfull]
  show (if ((s.reg (s.uniKey k.toNat)).bits != 0) != n then .next (s.jump oneLane (fun _ => s.curPc + parcels o)) else .next s.advance : Out) = _
  rw [jump_helm hhelm, advance_of_helm hhelm, apply_ite (fun pc => Host.Outcome.next (helmAt s pc))]

/-- Settles O16: every branch of a group is one `transfer`, behind the return addresses of a call; a Helm moves alone. -/
theorem branchResults : Obligations.BranchResults := by
  unfold Obligations.BranchResults
  refine ⟨?_, ?_⟩
  · intro parcels jumps
    refine ⟨fun o s hgroup hb => ?_, fun o n k s hgroup hb => ?_, fun o d s hgroup hb hread => ?_, fun _ => jumpTo_group fun _ => rfl,
      fun _ => jumpTo_group fun _ => rfl, fun _ => jumpTo_group fun _ => rfl, fun _ => jumpTo_group fun _ => rfl,
      fun _ => jumpTo_group fun _ => rfl, fun _ => jumpTo_group fun _ => rfl, fun _ => jumpTo_group fun _ => rfl,
      fun _ => jumpTo_group fun _ => rfl⟩
    · have h := bra_group o hgroup hb
      rwa [parcels_eq] at h
    · have h := bc_group o n k hgroup hb
      rwa [parcels_eq] at h
    · have h := callRel_group o d hgroup hb hread
      rwa [parcels_eq] at h
  · intro parcels moved
    refine ⟨fun o s hhelm => ⟨_, if_pos hhelm, ?_⟩, fun o n k s hhelm hread => ⟨_, bc_helm o n k hhelm hread, ?_⟩⟩
    · rw [jump_helm hhelm, parcels_eq]
      rfl
    · rw [parcels_eq]
      rfl

end Sys2Proof.Proofs
end

section
/-! Waiting, and the system registers (R262, R274, R412 to R417). -/

namespace Sys2Proof.Proofs

open Sys2Proof Sys2Proof.Machine Sys2Proof.Laws

/-! ## Waiting (R119) -/

theorem waitsAt_waitAt (s : State) (w : Wait) : WaitsAt s (s.waitAt w) w := by
  unfold State.waitAt
  by_cases hhelm : s.curHelm = true
  · have hlanes : s.curLanes = [] := by cases h : s.cur <;> simp_all [State.curHelm, State.curLanes]
    rw [if_pos hhelm]
    refine ⟨rfl, fun v => ?_, fun l hl => ?_, fun id _ => rfl⟩
    · rw [helm_setHelm]
      by_cases hv : v = s.curGroup.wg <;> simp [hv, hhelm]
    · rw [hlanes] at hl
      nomatch hl
  · rw [if_neg hhelm, foldl_setThread s.curLanes s.curThread (fun _ x => { x with wait := w })]
    have hthread := getD_foldl_set s.curLanes s.curGroup.wg s.curGroup.grp (fun x => { x with wait := w }) (fun _ => rfl) s.threads
    refine ⟨rfl, fun v => (if_neg fun h => hhelm h.1).symm, fun l hl => ?_, fun id hid => ?_⟩
    · exact (hthread _).trans (if_pos ⟨rfl, rfl, hl⟩)
    · refine (hthread id).trans (if_neg ?_)
      rintro ⟨hwg, hgrp, hlane⟩
      exact hid id.lane hlane (by obtain ⟨a, b, c⟩ := id; simp_all [State.curThread])

/-- A bundle that has moved on stands at its next instruction, whatever was written before. -/
theorem movesOn_of_cur {s t : State} (hgroup : s.curHelm = false) (hcur : t.cur = s.cur) : MovesOn s t.advance := by
  rw [MovesOn, if_neg (by rw [hgroup]; nofun)]
  intro l hl
  have hkey : s.curThread l = t.curThread l := by rw [State.curThread, State.curThread, curGroup_congr hcur]
  have hlane : l ∈ t.curLanes := by rwa [State.curLanes, hcur]
  have hpc : t.curPc = s.curPc := by rw [State.curPc, State.curPc, hcur]
  have hlen : t.curLen = s.curLen := by rw [State.curLen, State.curLen, hcur]
  rw [hkey, advance_thread_lane hlane, hpc, hlen]
  exact ⟨rfl, rfl⟩

/-! ## What the registers read (R413 to R416) -/

/-- Two states agree on a system register in a lane. -/
structure SysAgree (s t : State) (l m : Nat) : Prop where
  cur : t.cur = s.cur := by rfl
  wgs : t.wgs = s.wgs := by rfl
  launches : t.launches = s.launches := by rfl
  scales : m = 0x10 ∨ m = 0x11 ∨ m = 0x12 → t.helms = s.helms := by exact fun _ => rfl
  cycles : m = 4 → (t.core (s.coreOf s.curGroup.wg)).cycles = (s.core (s.coreOf s.curGroup.wg)).cycles := by exact fun _ => rfl
  flags : m = 5 → (t.group s.curGroup).flags = (s.group s.curGroup).flags := by exact fun _ => rfl
  feAction : m = 6 → (t.group s.curGroup).feAction = (s.group s.curGroup).feAction := by exact fun _ => rfl
  trapCause : m = 7 → (t.thread (s.curThread l)).trapCause = (s.thread (s.curThread l)).trapCause := by exact fun _ => rfl
  trapPc : m = 8 → (t.thread (s.curThread l)).trapPc = (s.thread (s.curThread l)).trapPc := by exact fun _ => rfl
  trapAddr : m = 9 → (t.thread (s.curThread l)).trapAddr = (s.thread (s.curThread l)).trapAddr := by exact fun _ => rfl
  trapInfo : m = 0x0A → (t.thread (s.curThread l)).trapInfo = (s.thread (s.curThread l)).trapInfo := by exact fun _ => rfl
  trapVec : m = 0x0B → t.trapVec (s.ctxOf s.curGroup.wg) = s.trapVec (s.ctxOf s.curGroup.wg) := by exact fun _ => rfl
  ptRoot : m = 0x0C → t.ptRoot (s.ctxOf s.curGroup.wg) = s.ptRoot (s.ctxOf s.curGroup.wg) := by exact fun _ => rfl
  accOwner : m = 0x0D → (t.core (s.coreOf s.curGroup.wg)).accOwner = (s.core (s.coreOf s.curGroup.wg)).accOwner := by exact fun _ => rfl
  accLive : m = 0x0E → (t.core (s.coreOf s.curGroup.wg)).accLiveWord = (s.core (s.coreOf s.curGroup.wg)).accLiveWord := by exact fun _ => rfl
  hotBase : m = 0x13 → t.hotBase = s.hotBase := by exact fun _ => rfl

theorem sysRead_congr {s t : State} {l m : Nat} (h : SysAgree s t l m) : t.sysRead l m = s.sysRead l m := by
  have hgroup := curGroup_congr h.cur
  have hthread : t.curThread l = s.curThread l := by rw [State.curThread, State.curThread, hgroup]
  have hcore : ∀ w, t.coreOf w = s.coreOf w := fun w => by rw [State.coreOf, State.coreOf, State.wg, State.wg, h.wgs]
  have hctx : ∀ w, t.ctxOf w = s.ctxOf w := ctxOf_congr h.wgs h.launches
  unfold State.sysRead
  dsimp only
  rw [hgroup, hthread, hcore, hctx]
  split
  case h_1 | h_2 | h_3 | h_4 | h_21 | h_22 => rfl
  case h_5 => exact h.cycles rfl
  case h_6 => exact h.flags rfl
  case h_7 => rw [h.feAction rfl]
  case h_8 => rw [h.trapCause rfl]
  case h_9 => exact h.trapPc rfl
  case h_10 => exact h.trapAddr rfl
  case h_11 => exact h.trapInfo rfl
  case h_12 => exact h.trapVec rfl
  case h_13 => exact h.ptRoot rfl
  case h_14 => rw [h.accOwner rfl]
  case h_15 => exact h.accLive rfl
  case h_16 | h_17 | h_18 => rw [State.helm, State.helm, h.scales (by decide)]
  case h_19 => exact h.hotBase rfl
  case h_20 => rw [State.launchOf, State.launchOf, State.launch, State.launch, State.wg, State.wg, h.wgs, h.launches]

/-! ## Moving on -/

/-- Moving on leaves a group all but its issue state. -/
theorem group_advance_kept {s : State} (hgroup : s.curHelm = false) (g : GroupId) :
    ∃ y b n, s.advance.group g = { s.group g with yieldAbove := y, backLanes := b, backCount := n } := by
  cases hs : s.cur with
  | group wg grp lanes pc len =>
    rw [group_advance s wg grp lanes pc len hs]
    by_cases hg : g = ⟨wg, grp⟩
    · rw [if_pos hg, hg]
      exact ⟨_, _, _, rfl⟩
    · rw [if_neg hg]
      exact ⟨_, _, _, rfl⟩
  | helm wg pc len => simp [State.curHelm, hs] at hgroup
  | cornice u => rw [advance_cornice s u hs]; exact ⟨_, _, _, rfl⟩
  | nobody => rw [advance_nobody s hs]; exact ⟨_, _, _, rfl⟩

/-- Moving on leaves a thread all but its place. -/
theorem thread_advance_kept (s : State) (l : Nat) :
    ∃ pc w h, s.advance.thread (s.curThread l) = { s.thread (s.curThread l) with pc := pc, wait := w, hang := h } := by
  by_cases hl : l ∈ s.curLanes
  · exact ⟨_, _, _, advance_thread_lane hl⟩
  · exact ⟨_, _, _, advance_thread_apart fun m hm h => hl (curThread_inj h ▸ hm)⟩

theorem sysRead_advance {s : State} (hgroup : s.curHelm = false) (l m : Nat) : s.advance.sysRead l m = s.sysRead l m := by
  obtain ⟨y, b, n, hg⟩ := group_advance_kept hgroup s.curGroup
  obtain ⟨pc, w, h, ht⟩ := thread_advance_kept s l
  have hhelms := helms_group hgroup
  refine sysRead_congr ?_
  have hflags : (s.advance.group s.curGroup).flags = (s.group s.curGroup).flags ∧ (s.advance.group s.curGroup).feAction = (s.group s.curGroup).feAction := by
    rw [hg]
    exact ⟨rfl, rfl⟩
  have htraps : (s.advance.thread (s.curThread l)).trapCause = (s.thread (s.curThread l)).trapCause ∧
      (s.advance.thread (s.curThread l)).trapPc = (s.thread (s.curThread l)).trapPc ∧
      (s.advance.thread (s.curThread l)).trapAddr = (s.thread (s.curThread l)).trapAddr ∧
      (s.advance.thread (s.curThread l)).trapInfo = (s.thread (s.curThread l)).trapInfo := by
    rw [ht]
    exact ⟨rfl, rfl, rfl, rfl⟩
  obtain ⟨hcause, hpc, haddr, hinfo⟩ := htraps
  rw [advance_frame]
  exact { scales := fun _ => hhelms, flags := fun _ => hflags.1, feAction := fun _ => hflags.2, trapCause := fun _ => hcause, trapPc := fun _ => hpc,
          trapAddr := fun _ => haddr, trapInfo := fun _ => hinfo }

/-! ## One write (R417) -/

/-- What a system register reads as after a word is written over an old one: without its reserved bits. -/
def sysStored (n : Nat) (v old : Word) : Word :=
  match n with
  | 5 => v &&& 0x1F | 6 => v &&& 3 | 7 => v &&& 0xFF | 8 => v &&& ~~~1 | 9 => v | 0x0A => v | 0x0B => v &&& ~~~1
  | 0x0C => v &&& 0x000FFFFFFFFFF300 | 0x0D => v &&& 0xFFFF | 0x0E => (old &&& 0xFFFF00) ||| (v &&& 0xFF)
  | _ => v &&& 0x0000007FFFE00001

/-- The system registers that may be written. -/
def sysWritable : List Nat := [5, 6, 7, 8, 9, 0x0A, 0x0B, 0x0C, 0x0D, 0x0E, 0x13]

theorem setWidth_setWidth_mask (v : Word) {k : Nat} (h : k ≤ 64) : (v.setWidth k).setWidth 64 = v &&& BitVec.ofNat 64 (2 ^ k - 1) := by
  have hlt : 2 ^ k - 1 < 2 ^ 64 := lt_of_lt_of_le (Nat.sub_lt (Nat.two_pow_pos k) Nat.one_pos) (Nat.pow_le_pow_right (by decide) h)
  apply BitVec.eq_of_toNat_eq
  rw [BitVec.toNat_and, BitVec.toNat_ofNat, Nat.mod_eq_of_lt hlt, Nat.and_two_pow_sub_one_eq_mod, BitVec.toNat_setWidth_of_le h, BitVec.toNat_setWidth]

/-- A thread written, other lanes and other registers read as before. -/
theorem sysAgree_setThread {s : State} {l l' m : Nat} {x : Thread} (h7 : m = 7 → l' = l → x.trapCause = (s.thread (s.curThread l)).trapCause)
    (h8 : m = 8 → l' = l → x.trapPc = (s.thread (s.curThread l)).trapPc) (h9 : m = 9 → l' = l → x.trapAddr = (s.thread (s.curThread l)).trapAddr)
    (hA : m = 0x0A → l' = l → x.trapInfo = (s.thread (s.curThread l)).trapInfo) : SysAgree s (s.setThread (s.curThread l) x) l' m := by
  by_cases hl : l' = l
  · subst hl
    refine { trapCause := fun hm => ?_, trapPc := fun hm => ?_, trapAddr := fun hm => ?_, trapInfo := fun hm => ?_ }
    all_goals rw [thread_setThread_same]
    · exact h7 hm rfl
    · exact h8 hm rfl
    · exact h9 hm rfl
    · exact hA hm rfl
  · have hthread : (s.setThread (s.curThread l) x).thread (s.curThread l') = s.thread (s.curThread l') := by
      rw [thread_setThread, if_neg fun h => hl (curThread_inj h)]
    exact { trapCause := fun _ => by rw [hthread], trapPc := fun _ => by rw [hthread], trapAddr := fun _ => by rw [hthread],
            trapInfo := fun _ => by rw [hthread] }

theorem trapVec_modify (s : State) (c : Nat) (f : Context → Context) (hf : ∀ x, (f x).trapVec = x.trapVec) :
    ({ s with ctxs := FMap.modify s.ctxs c f } : State).trapVec c = s.trapVec c := by
  simp only [State.trapVec, find_modify, if_pos]
  cases FMap.find s.ctxs c <;> simp [hf]

theorem ptRoot_modify (s : State) (c : Nat) (f : Context → Context) (hf : ∀ x, (f x).ptRoot = x.ptRoot) :
    ({ s with ctxs := FMap.modify s.ctxs c f } : State).ptRoot c = s.ptRoot c := by
  simp only [State.ptRoot, find_modify, if_pos]
  cases FMap.find s.ctxs c <;> simp [hf]

/-- A write leaves every other system register, and that of every other lane where it is per thread. -/
theorem sysAgree_sysWrite {s : State} {l l' n m : Nat} {v : Word} (hm : m = n → sysPerThread n = true ∧ l' ≠ l) :
    SysAgree s (s.sysWrite l n v) l' m := by
  unfold State.sysWrite
  dsimp only
  split
  case h_1 => exact { flags := fun h => (nomatch (hm h).1), feAction := fun _ => by rw [group_setGroup_same] }
  case h_2 => exact { feAction := fun h => (nomatch (hm h).1), flags := fun _ => by rw [group_setGroup_same] }
  case h_3 => exact sysAgree_setThread (fun h hl => absurd hl (hm h).2) (fun _ _ => rfl) (fun _ _ => rfl) (fun _ _ => rfl)
  case h_4 => exact sysAgree_setThread (fun _ _ => rfl) (fun h hl => absurd hl (hm h).2) (fun _ _ => rfl) (fun _ _ => rfl)
  case h_5 => exact sysAgree_setThread (fun _ _ => rfl) (fun _ _ => rfl) (fun h hl => absurd hl (hm h).2) (fun _ _ => rfl)
  case h_6 => exact sysAgree_setThread (fun _ _ => rfl) (fun _ _ => rfl) (fun _ _ => rfl) (fun h hl => absurd hl (hm h).2)
  case h_7 => exact { trapVec := fun h => (nomatch (hm h).1), ptRoot := fun _ => ptRoot_modify s _ _ fun _ => rfl }
  case h_8 => exact { ptRoot := fun h => (nomatch (hm h).1), trapVec := fun _ => trapVec_modify s _ _ fun _ => rfl }
  case h_9 =>
    exact { accOwner := fun h => (nomatch (hm h).1), cycles := fun _ => by rw [core_setCore_same], accLive := fun _ => by rw [core_setCore_same]; rfl }
  case h_10 =>
    exact { accLive := fun h => (nomatch (hm h).1), cycles := fun _ => by rw [core_setCore_same], accOwner := fun _ => by rw [core_setCore_same] }
  case h_11 => exact { hotBase := fun h => (nomatch (hm h).1) }
  case h_12 => exact {}

/-! ## ACC_LIVE (R415) -/

theorem accLiveWord_toNat (c : Core) : c.accLiveWord.toNat = 2 ^ 16 * (~~~c.tileFull).toNat + (2 ^ 8 * c.tileTag.toNat + c.accLive.toNat) := by
  have hf := (~~~c.tileFull).isLt
  have ht := c.tileTag.isLt
  have hl := c.accLive.isLt
  rw [Core.accLiveWord, BitVec.toNat_ofNat]
  omega

theorem getLsbD_accLiveWord (c : Core) (i : Nat) : c.accLiveWord.getLsbD i =
    if i < 16 then (if i < 8 then c.accLive.getLsbD i else c.tileTag.getLsbD (i - 8)) else (~~~c.tileFull).getLsbD (i - 16) := by
  have ht := c.tileTag.isLt
  have hl := c.accLive.isLt
  rw [BitVec.getLsbD, accLiveWord_toNat, Nat.testBit_two_pow_mul_add _ (by omega), Nat.testBit_two_pow_mul_add _ (by omega)]
  rfl

theorem getLsbD_mask (k n i : Nat) (h : k + n ≤ 64) : (BitVec.ofNat 64 (2 ^ k * (2 ^ n - 1))).getLsbD i = (decide (k ≤ i) && decide (i - k < n)) := by
  have hlt : 2 ^ k * (2 ^ n - 1) < 2 ^ 64 := calc
    2 ^ k * (2 ^ n - 1) < 2 ^ k * 2 ^ n := Nat.mul_lt_mul_of_pos_left (Nat.sub_lt (Nat.two_pow_pos n) Nat.one_pos) (Nat.two_pow_pos k)
    _ = 2 ^ (k + n) := (Nat.pow_add ..).symm
    _ ≤ 2 ^ 64 := Nat.pow_le_pow_right (by decide) h
  rw [BitVec.getLsbD, BitVec.toNat_ofNat, Nat.mod_eq_of_lt hlt, Nat.testBit_two_pow_mul, Nat.testBit_two_pow_sub_one]

/-- ACC_LIVE written: the tiles' tags and full bits stay. -/
theorem accLiveWord_written (c : Core) (v : Word) :
    ({ c with accLive := v.setWidth 8 } : Core).accLiveWord = (c.accLiveWord &&& 0xFFFF00) ||| (v &&& 0xFF) := by
  have hhigh : ∀ i, (0xFFFF00 : Word).getLsbD i = (decide (8 ≤ i) && decide (i - 8 < 16)) := fun i => getLsbD_mask 8 16 i (by decide)
  have hlow : ∀ i, (0xFF : Word).getLsbD i = (decide (0 ≤ i) && decide (i - 0 < 8)) := fun i => getLsbD_mask 0 8 i (by decide)
  apply BitVec.eq_of_getLsbD_eq
  intro i hi
  rw [getLsbD_accLiveWord, BitVec.getLsbD_or, BitVec.getLsbD_and, BitVec.getLsbD_and, getLsbD_accLiveWord, hhigh, hlow, BitVec.getLsbD_setWidth]
  by_cases h8 : i < 8
  · simp [h8, show i < 16 by omega, show ¬8 ≤ i by omega]
  · by_cases h24 : i - 8 < 16
    · simp [h8, show 8 ≤ i by omega, h24]
    · simp [h8, show 8 ≤ i by omega, h24, show ¬i < 16 by omega, BitVec.getLsbD_of_ge c.tileFull (i - 16) (by omega), show ¬i - 16 < 8 by omega]

/-! ## What was written is read (R417) -/

theorem sysRead_sysWrite {s : State} {l n : Nat} {v : Word} (hn : n ∈ sysWritable)
    (hctx : n = 0x0B ∨ n = 0x0C → (FMap.find s.ctxs (s.ctxOf s.curGroup.wg)).isSome = true) :
    (s.sysWrite l n v).sysRead l n = sysStored n v (s.sysRead l n) := by
  simp only [sysWritable, List.mem_cons, List.not_mem_nil, or_false] at hn
  rcases hn with rfl | rfl | rfl | rfl | rfl | rfl | rfl | rfl | rfl | rfl | rfl
  · show ((s.setGroup _ _).group s.curGroup).flags = _
    rw [group_setGroup_same]
    rfl
  · show ((s.setGroup _ _).group s.curGroup).feAction.setWidth 64 = _
    rw [group_setGroup_same]
    exact setWidth_setWidth_mask v (by decide)
  · show ((s.setThread _ _).thread (s.curThread l)).trapCause.setWidth 64 = _
    rw [thread_setThread_same]
    exact setWidth_setWidth_mask v (by decide)
  · show ((s.setThread _ _).thread (s.curThread l)).trapPc = _
    rw [thread_setThread_same]
    rfl
  · show ((s.setThread _ _).thread (s.curThread l)).trapAddr = _
    rw [thread_setThread_same]
    rfl
  · show ((s.setThread _ _).thread (s.curThread l)).trapInfo = _
    rw [thread_setThread_same]
    rfl
  · obtain ⟨x, hx⟩ := Option.isSome_iff_exists.1 (hctx (by decide))
    show State.trapVec { s with ctxs := FMap.modify s.ctxs _ _ } (s.ctxOf s.curGroup.wg) = _
    simp only [State.trapVec, find_modify]
    rw [if_pos trivial, hx]
    rfl
  · obtain ⟨x, hx⟩ := Option.isSome_iff_exists.1 (hctx (by decide))
    show State.ptRoot { s with ctxs := FMap.modify s.ctxs _ _ } (s.ctxOf s.curGroup.wg) = _
    simp only [State.ptRoot, find_modify]
    rw [if_pos trivial, hx]
    rfl
  · show ((s.setCore _ _).core (s.coreOf s.curGroup.wg)).accOwner.setWidth 64 = _
    rw [core_setCore_same]
    exact setWidth_setWidth_mask v (by decide)
  · show ((s.setCore _ _).core (s.coreOf s.curGroup.wg)).accLiveWord = _
    rw [core_setCore_same]
    exact accLiveWord_written _ v
  · rfl

/-- A register that is not per thread reads the same in every lane. -/
theorem sysRead_shared {s : State} {n : Nat} (hn : n ∈ sysWritable) (hshared : sysPerThread n = false) (l l' : Nat) : s.sysRead l n = s.sysRead l' n := by
  simp only [sysWritable, List.mem_cons, List.not_mem_nil, or_false] at hn
  rcases hn with rfl | rfl | rfl | rfl | rfl | rfl | rfl | rfl | rfl | rfl | rfl
  case inr.inr.inl | inr.inr.inr.inl | inr.inr.inr.inr.inl | inr.inr.inr.inr.inr.inl => nomatch hshared
  all_goals rfl

/-- What writes of system registers leave alone. -/
structure SysOnly (s t : State) : Prop where
  cur : t.cur = s.cur
  regs : t.regs = s.regs
  mem : t.mem = s.mem
  wgs : t.wgs = s.wgs
  launches : t.launches = s.launches
  helms : t.helms = s.helms

theorem SysOnly.trans {s t u : State} (h : SysOnly s t) (k : SysOnly t u) : SysOnly s u :=
  ⟨k.cur.trans h.cur, k.regs.trans h.regs, k.mem.trans h.mem, k.wgs.trans h.wgs, k.launches.trans h.launches, k.helms.trans h.helms⟩

theorem sysOnly_sysWrite (s : State) (l n : Nat) (v : Word) : SysOnly s (s.sysWrite l n v) := by
  unfold State.sysWrite
  dsimp only
  split <;> exact ⟨rfl, rfl, rfl, rfl, rfl, rfl⟩

/-- The writes of several lanes, in order. -/
def sysWrites (s : State) (n : Nat) (val : Nat → Word) (lanes : List Nat) : State := lanes.foldl (fun t l => t.sysWrite l n (val l)) s

theorem sysOnly_sysWrites (s : State) (n : Nat) (val : Nat → Word) (lanes : List Nat) : SysOnly s (sysWrites s n val lanes) := by
  unfold sysWrites
  induction lanes generalizing s with
  | nil => exact ⟨rfl, rfl, rfl, rfl, rfl, rfl⟩
  | cons l rest ih => exact (sysOnly_sysWrite s l n (val l)).trans (ih _)

theorem sysRead_sysWrites_apart {s : State} {n l' m : Nat} {val : Nat → Word} {lanes : List Nat}
    (h : m = n → sysPerThread n = true ∧ l' ∉ lanes) : (sysWrites s n val lanes).sysRead l' m = s.sysRead l' m := by
  unfold sysWrites
  induction lanes generalizing s with
  | nil => rfl
  | cons l rest ih =>
    rw [List.foldl_cons, ih fun hm => ⟨(h hm).1, fun hmem => (h hm).2 (List.mem_cons_of_mem _ hmem)⟩]
    exact sysRead_congr (sysAgree_sysWrite fun hm => ⟨(h hm).1, fun hl => (h hm).2 (hl ▸ List.mem_cons_self)⟩)

theorem sysPerThread_iff (n : Nat) : sysPerThread n = true ↔ 7 ≤ n ∧ n ≤ 0x0A := by simp [sysPerThread]

/-- A register that is per thread reads in a lane what that lane wrote. -/
theorem sysRead_sysWrites_lane {s : State} {n l' : Nat} {val : Nat → Word} {lanes : List Nat} (hn : 7 ≤ n ∧ n ≤ 0x0A) (hl : l' ∈ lanes) :
    (sysWrites s n val lanes).sysRead l' n = sysStored n (val l') (s.sysRead l' n) := by
  have hmem : n ∈ sysWritable := by simp only [sysWritable, List.mem_cons]; omega
  have hold : ∀ v old old', sysStored n v old = sysStored n v old' := fun v old old' => by
    obtain rfl | rfl | rfl | rfl : n = 7 ∨ n = 8 ∨ n = 9 ∨ n = 0x0A := by omega
    all_goals rfl
  unfold sysWrites
  induction lanes generalizing s with
  | nil => nomatch hl
  | cons l rest ih =>
    rw [List.foldl_cons]
    by_cases hrest : l' ∈ rest
    · rw [ih hrest]
      exact hold _ _ _
    · obtain rfl := (List.mem_cons.1 hl).resolve_right hrest
      refine (sysRead_sysWrites_apart (s := s.sysWrite l' n (val l')) fun _ => ⟨(sysPerThread_iff n).2 hn, hrest⟩).trans ?_
      exact sysRead_sysWrite hmem fun h => by omega

theorem take_reverse_one {α : Type} (d : α) {xs : List α} (h : xs ≠ []) : xs.reverse.take 1 = [xs.getLastD d] := by
  rw [← List.dropLast_concat_getLast h]
  simp

/-! ## The instructions -/

/-- The lanes that write a system register (R417). -/
def sysWriters (n : Nat) (lanes : List Nat) : List Nat := if sysPerThread n then lanes else lanes.reverse.take 1

theorem sysRead_written {s : State} {n : Nat} {val : Nat → Word} {lanes : List Nat} (hn : n ∈ sysWritable) (hne : lanes ≠ [])
    (hctx : (FMap.find s.ctxs (s.ctxOf s.curGroup.wg)).isSome = true) {l : Nat} (hl : l ∈ lanes) :
    (sysWrites s n val (sysWriters n lanes)).sysRead l n =
      sysStored n (if sysPerThread n then val l else val (lanes.getLastD 0)) (s.sysRead l n) := by
  rw [sysWriters]
  cases hper : sysPerThread n with
  | true => exact sysRead_sysWrites_lane ((sysPerThread_iff n).1 hper) hl
  | false =>
    rw [if_neg Bool.false_ne_true, if_neg Bool.false_ne_true, take_reverse_one 0 hne, sysRead_shared hn hper l (lanes.getLastD 0),
      sysRead_shared hn hper l (lanes.getLastD 0)]
    exact sysRead_sysWrite hn fun _ => hctx

theorem sysWriters_subset {n l : Nat} {lanes : List Nat} (h : l ∈ sysWriters n lanes) : l ∈ lanes := by
  unfold sysWriters at h
  split at h
  · exact h
  · exact List.mem_reverse.1 (List.mem_of_mem_take h)

theorem sysCheck_pass {s : State} {write : Bool} {n : Nat} (hnamed : sysNamed n = true) (hro : write = true → sysReadOnly n = false)
    (hpriv : s.allPriv = true ∨ sysPrivileged n = false) (go : Out) : s.sysCheck write n go = go := by
  rw [State.sysCheck, if_neg, if_neg]
  · rcases hpriv with h | h <;> simp [h]
  · cases write <;> simp_all

theorem flagsWait_eq_false {s : State} {n : Nat} (h : n = 5 → s.flagsPending s.curGroup = false) : s.flagsWait n = false := by
  rw [State.flagsWait, Bool.and_eq_false_iff, beq_eq_false_iff_ne]
  by_cases hn : n = 5
  · exact .inr (h hn)
  · exact .inl hn

theorem sysWritable_facts {n : Nat} (hn : n ∈ sysWritable) : sysNamed n = true ∧ sysReadOnly n = false ∧ (n < 7 → sysPrivileged n = false) := by
  revert hn
  simp only [sysWritable, List.mem_cons, List.not_mem_nil, or_false]
  rintro (rfl | rfl | rfl | rfl | rfl | rfl | rfl | rfl | rfl | rfl | rfl) <;> decide

/-- What `wrsys` comes to where its checks pass: the writes, or a wait for the Gauntlet. -/
theorem wrsysStep_eq {s : State} {f : Form} {n : Nat} {a : Src} (hne : s.active f ≠ []) (hn : n ∈ sysWritable)
    (hpriv : s.allPriv = true ∨ n < 7) (hread : ReadableIn s (s.active f) [a] []) (hflags : n = 5 → s.flagsPending s.curGroup = false) :
    s.wrsysStep f n a = if s.accWait n then .next (s.waitAt .gauntlet)
      else .next (sysWrites s n (fun l => s.srcBits l a) (sysWriters n (s.active f))).advance := by
  obtain ⟨hnamed, hro, huser⟩ := sysWritable_facts hn
  have hfull : s.checkFull (s.active f) [] [{ opnd := 0, src := a }] [] = .ok s :=
    checkFull_ok s _ [] _ [] hread.quiet (fun l hl o ho => by
      obtain rfl := List.mem_singleton.1 ho
      exact hread.srcs l (by simpa using hl) a List.mem_cons_self) (fun _ _ x hx => nomatch hx)
  rw [State.wrsysStep, sysCheck_pass hnamed (fun _ => hro) (hpriv.imp_right huser)]
  dsimp only
  rw [if_neg (by simpa using hne), hfull]
  dsimp only
  rw [flagsWait_eq_false hflags, if_neg Bool.false_ne_true]
  rfl

theorem accWait_iff (s : State) (n : Nat) : s.accWait n = true ↔ (n = 0x0D ∨ n = 0x0E) ∧ (s.core (s.coreOf s.curGroup.wg)).latches ≠ [] := by
  simp [State.accWait]

theorem wrsys_results {i : Instr} {f : Form} {n : Nat} {a : Src} (hx : ∀ s, exec i s = s.wrsysStep f n a) (s : State) (hgroup : s.curHelm = false)
    (hne : s.active f ≠ []) (hn : n ∈ sysWritable) (hpriv : s.allPriv = true ∨ n < 7) (hread : ReadableIn s (s.active f) [a] [])
    (hflags : n = 5 → s.flagsPending s.curGroup = false) (hctx : (FMap.find s.ctxs (s.ctxOf s.curGroup.wg)).isSome = true) :
    ((n = 0x0D ∨ n = 0x0E) → (s.core (s.coreOf s.curGroup.wg)).latches ≠ [] → Completes i s (fun t => WaitsAt s t .gauntlet)) ∧
    (((n = 0x0D ∨ n = 0x0E) → (s.core (s.coreOf s.curGroup.wg)).latches = []) → Completes i s (fun t =>
      (∀ l ∈ s.active f, t.sysRead l n = sysStored n (if sysPerThread n then s.srcBits l a else s.srcBits ((s.active f).getLastD 0) a) (s.sysRead l n)) ∧
      (∀ l ∈ s.curLanes, ∀ m, m ≠ n → t.sysRead l m = s.sysRead l m) ∧
      (∀ l ∈ s.curLanes, l ∉ s.active f → 7 ≤ n → n ≤ 0x0A → t.sysRead l n = s.sysRead l n) ∧
      t.regs = s.regs ∧ t.mem = s.mem ∧ t.wgs = s.wgs ∧ t.helms = s.helms ∧ MovesOn s t)) := by
  have hstep := (hx s).trans (wrsysStep_eq hne hn hpriv hread hflags)
  refine ⟨fun hnum hheld => ⟨_, hstep.trans (if_pos ((accWait_iff s n).2 ⟨hnum, hheld⟩)), waitsAt_waitAt s _⟩, fun hfree => ?_⟩
  have honly := sysOnly_sysWrites s n (fun l => s.srcBits l a) (sysWriters n (s.active f))
  have hstill := (curHelm_congr honly.cur).trans hgroup
  refine ⟨_, hstep.trans (if_neg fun h => ?_), fun l hl => ?_, fun l _ m hm => ?_, fun l _ hl hlow hhigh => ?_, ?_, ?_, ?_, ?_, movesOn_of_cur hgroup honly.cur⟩
  · obtain ⟨hnum, hheld⟩ := (accWait_iff s n).1 h
    exact hheld (hfree hnum)
  · rw [sysRead_advance hstill]
    exact sysRead_written hn hne hctx hl
  · rw [sysRead_advance hstill]
    exact sysRead_sysWrites_apart fun h => absurd h hm
  · rw [sysRead_advance hstill]
    exact sysRead_sysWrites_apart fun _ => ⟨(sysPerThread_iff n).2 ⟨hlow, hhigh⟩, fun hmem => hl (sysWriters_subset hmem)⟩
  · rw [advance_regs, honly.regs]
  · rw [advance_mem, honly.mem]
  · rw [advance_frame, honly.wgs]
  · rw [helms_group hstill, honly.helms]

/-! ## rdsys (R417) -/

/-- A word of each lane listed written to a register of that lane, tagged I64. -/
def putEach (s : State) (key : Nat → Option RegKey) (val : Nat → Word) (lanes : List Nat) : State :=
  lanes.foldl (fun t l => match key l with | some k => t.putReg k 1 (val l) | none => t) s

theorem putEach_frame (s : State) (key : Nat → Option RegKey) (val : Nat → Word) (lanes : List Nat) :
    putEach s key val lanes = { s with regs := (putEach s key val lanes).regs } := by
  unfold putEach
  induction lanes generalizing s with
  | nil => rfl
  | cons l rest ih =>
    rw [List.foldl_cons, ih]
    split <;> rfl

theorem putEach_reg_apart {s : State} {key : Nat → Option RegKey} {val : Nat → Word} {lanes : List Nat} {k : RegKey}
    (h : ∀ l ∈ lanes, key l ≠ some k) : (putEach s key val lanes).reg k = s.reg k := by
  unfold putEach
  induction lanes generalizing s with
  | nil => rfl
  | cons l rest ih =>
    have hl := h l List.mem_cons_self
    rw [List.foldl_cons, ih fun m hm => h m (List.mem_cons_of_mem _ hm)]
    cases hk : key l with
    | none => rfl
    | some j => exact (reg_putReg s j k 1 (val l)).trans (if_neg fun hj => hl (hk.trans (congrArg some hj.symm)))

theorem putEach_reg {s : State} {key : Nat → Option RegKey} {val : Nat → Word} {lanes : List Nat} {l : Nat} {k : RegKey} (hl : l ∈ lanes)
    (hk : key l = some k) (hinj : ∀ m ∈ lanes, key m = some k → val m = val l) :
    (putEach s key val lanes).reg k = { bits := val l, tag := 1, full := true } := by
  unfold putEach
  induction lanes generalizing s l with
  | nil => nomatch hl
  | cons x rest ih =>
    rw [List.foldl_cons]
    by_cases hrest : ∃ m ∈ rest, key m = some k
    · obtain ⟨m, hm, hkm⟩ := hrest
      have hsame := hinj m (List.mem_cons_of_mem _ hm) hkm
      rw [← hsame]
      exact ih hm hkm fun y hy hky => (hinj y (List.mem_cons_of_mem _ hy) hky).trans hsame.symm
    · obtain rfl := (List.mem_cons.1 hl).resolve_right fun h => hrest ⟨l, h, hk⟩
      rw [hk]
      refine (putEach_reg_apart (s := s.putReg k 1 (val l)) fun m hm h => hrest ⟨m, hm, h⟩).trans ?_
      rw [reg_putReg, if_pos rfl]

/-- The lanes that read a system register: the lowest into an s register, all of them into a v register (R417). -/
def sysReaders (s : State) (f : Form) (d : Src) : List Nat := if d.isUni then (s.active f).take 1 else s.active f ++ s.activeHelpers f

/-- Two lanes that read into one register are one lane. -/
theorem sysReaders_inj {s : State} {f : Form} {d : Src} {l m : Nat} {k : RegKey} (hl : l ∈ sysReaders s f d) (hm : m ∈ sysReaders s f d)
    (hkl : s.srcKey l d = some k) (hkm : s.srcKey m d = some k) : m = l := by
  cases d with
  | lane n e =>
    have hkeys := Option.some.inj (hkm.trans hkl.symm)
    simp only [State.laneKey] at hkeys
    injection hkeys
  | uni n e =>
    have htake : sysReaders s f (.uni n e) = (s.active f).take 1 := rfl
    rw [htake] at hl hm
    cases h : s.active f with
    | nil => rw [h] at hl; nomatch hl
    | cons x rest =>
      rw [h] at hl hm
      rw [List.mem_singleton.1 hm, List.mem_singleton.1 hl]
  | _ => nomatch hkl

/-- What `rdsys` comes to where its checks pass. -/
theorem rdsysStep_eq {s : State} {f : Form} {n : Nat} {d : Src} (hne : s.active f ≠ []) (hle : n ≤ 0x18) (hnamed : n ≠ 0x0F)
    (hpriv : s.allPriv = true ∨ (n < 7 ∨ (0x10 ≤ n ∧ n ≠ 0x13)))
    (hread : ReadableIn s (s.active f ++ if d.isUni then [] else s.activeHelpers f) [] [d]) (hflags : n = 5 → s.flagsPending s.curGroup = false) :
    s.rdsysStep f n d = .next (putEach s (fun l => s.srcKey l d) (fun l => s.sysRead l n) (sysReaders s f d)).advance := by
  have huser : (n < 7 ∨ (0x10 ≤ n ∧ n ≠ 0x13)) → sysPrivileged n = false := fun h => by
    simp only [sysPrivileged, Bool.or_eq_false_iff, Bool.and_eq_false_iff, decide_eq_false_iff_not, beq_eq_false_iff_ne]
    omega
  have hfull : s.checkFull (s.active f) (if d.isUni then [] else s.activeHelpers f) [] [d] = .ok s :=
    checkFull_ok s _ _ [] _ hread.quiet (fun _ _ o ho => nomatch ho) hread.dsts
  rw [State.rdsysStep, sysCheck_pass (write := false) (by simp [sysNamed, hle, hnamed]) nofun (hpriv.imp_right huser)]
  dsimp only
  rw [if_neg (by simpa using hne), hfull]
  dsimp only
  rw [flagsWait_eq_false hflags, if_neg Bool.false_ne_true]
  rfl

theorem rdsys_results {i : Instr} {f : Form} {n : Nat} {d : Src} (hx : ∀ s, exec i s = s.rdsysStep f n d) (s : State) (hne : s.active f ≠ [])
    (hle : n ≤ 0x18) (hnamed : n ≠ 0x0F) (hpriv : s.allPriv = true ∨ (n < 7 ∨ (0x10 ≤ n ∧ n ≠ 0x13)))
    (hread : ReadableIn s (s.active f ++ if d.isUni then [] else s.activeHelpers f) [] [d]) (hflags : n = 5 → s.flagsPending s.curGroup = false) :
    Completes i s (fun t => t = { s.advance with regs := t.regs } ∧
      (∀ l ∈ sysReaders s f d, ∀ k, s.srcKey l d = some k → t.reg k = { bits := s.sysRead l n, tag := 1, full := true }) ∧
      ∀ k, (∀ l ∈ sysReaders s f d, s.srcKey l d ≠ some k) → t.reg k = s.reg k) := by
  have hframe := putEach_frame s (fun l => s.srcKey l d) (fun l => s.sysRead l n) (sysReaders s f d)
  have hmoved := advance_like (s := s) (t := putEach s (fun l => s.srcKey l d) (fun l => s.sysRead l n) (sysReaders s f d))
    (by rw [hframe]) (by rw [hframe]) (by rw [hframe]) (by rw [hframe])
  refine ⟨_, (hx s).trans (rdsysStep_eq hne hle hnamed hpriv hread hflags), ?_, fun l hl k hk => ?_, fun k hk => ?_⟩
  · obtain ⟨r, hr⟩ : ∃ r, putEach s (fun l => s.srcKey l d) (fun l => s.sysRead l n) (sysReaders s f d) = { s with regs := r } := ⟨_, hframe⟩
    rw [hr] at hmoved ⊢
    rw [hmoved]
    conv_rhs => rw [advance_frame s]
  · rw [reg_advance]
    exact putEach_reg hl hk fun m hm hkm => by rw [sysReaders_inj hl hm hk hkm]
  · rw [reg_advance]
    exact putEach_reg_apart hk

/-! ## The values listed -/

theorem bitAt_accLiveWord (c : Core) {n : Nat} (hn : n < 8) :
    bitAt c.accLiveWord n = c.tileIsLive n ∧ bitAt c.accLiveWord (8 + n) = c.tileIsInt n ∧ bitAt c.accLiveWord (16 + n) = !c.tileIsFull n := by
  simp only [Core.tileIsLive, Core.tileIsInt, Core.tileIsFull, bitAt_eq_getLsbD, getLsbD_accLiveWord]
  refine ⟨?_, ?_, ?_⟩
  · rw [if_pos (by omega), if_pos hn]
  · rw [if_pos (by omega), if_neg (by omega), Nat.add_sub_cancel_left]
  · rw [if_neg (by omega), Nat.add_sub_cancel_left, BitVec.getLsbD_not, decide_eq_true hn, Bool.true_and]

theorem accLiveWord_lt (c : Core) : c.accLiveWord.toNat < 2 ^ 24 := by
  have hf := (~~~c.tileFull).isLt
  have ht := c.tileTag.isLt
  have hl := c.accLive.isLt
  rw [accLiveWord_toNat]
  omega

/-- What a lane reads of a written register, by the register's number: its own word of a register that is per thread, the last lane's of any other. -/
def sysLeft (n : Nat) (v last old : Word) : Word :=
  match n with
  | 5 => last &&& 0x1F | 6 => last &&& 3 | 7 => v &&& 0xFF | 8 => v &&& ~~~1 | 9 => v | 0x0A => v | 0x0B => last &&& ~~~1
  | 0x0C => last &&& 0x000FFFFFFFFFF300 | 0x0D => last &&& 0xFFFF | 0x0E => (old &&& 0xFFFF00) ||| (last &&& 0xFF)
  | _ => last &&& 0x0000007FFFE00001

theorem sysStored_eq_sysLeft {n : Nat} (hn : n ∈ sysWritable) (v last old : Word) :
    sysStored n (if sysPerThread n then v else last) old = sysLeft n v last old := by
  simp only [sysWritable, List.mem_cons, List.not_mem_nil, or_false] at hn
  rcases hn with rfl | rfl | rfl | rfl | rfl | rfl | rfl | rfl | rfl | rfl | rfl <;> rfl

/-- Settles O36: `rdsys` puts a value into a register of each reader, `wrsys` writes from each writer, and two states that agree on
what a register is made of read it alike. -/
theorem systemRegisterResults : Obligations.SystemRegisterResults := by
  unfold Obligations.SystemRegisterResults
  refine ⟨⟨?_, ?_, ?_⟩, ?_, ?_⟩
  · intro n d s _ _ hne hle hnamed hpriv hread hflags
    exact rdsys_results (fun _ => rfl) s hne hle hnamed hpriv hread hflags
  · intro w s _ _ hne hle hnamed hpriv hread hflags
    exact rdsys_results (fun _ => rfl) s hne hle hnamed hpriv hread hflags
  · intro s l g x c
    have hdet : s.sysRead l 0x14 = BitVec.ofNat 64 ((if (s.launchOf g.wg).det then 1 else 0) + (if (s.wg g.wg).direct then 2 else 0)) := rfl
    refine ⟨rfl, rfl, rfl, rfl, rfl, rfl, rfl, rfl, rfl, rfl, rfl, rfl, rfl, rfl, fun n hn => bitAt_accLiveWord c hn, accLiveWord_lt c,
      rfl, rfl, rfl, rfl, ?_, ?_, ?_, rfl, rfl, rfl⟩
    all_goals rw [hdet]; cases (s.launchOf g.wg).det <;> cases (s.wg g.wg).direct <;> decide
  · intro n a s hgroup _ hne hn hpriv hread hflags hctx
    have h := wrsys_results (i := .wrsys n a) (fun _ => rfl) s hgroup hne hn hpriv hread hflags hctx
    simp only [sysStored_eq_sysLeft hn] at h
    exact h
  · intro w s hgroup _ hne hn hpriv hread hflags hctx
    have h := wrsys_results (i := .wrsys64 w) (fun _ => rfl) s hgroup hne hn hpriv hread hflags hctx
    simp only [sysStored_eq_sysLeft hn] at h
    exact h

end Sys2Proof.Proofs
end

section
/-! What parties learn of each other's writes (R142, R177, R187), and barriers (R138 to R142, R241, R388). -/

namespace Sys2Proof.Proofs

open Sys2Proof Sys2Proof.Machine Sys2Proof.Laws

/-! ## Learning (R142, R187) -/

/-- Every write of the coherence order stands there still, and who owned it owns it. -/
def HistGrows (s t : State) : Prop := ∀ e ∈ s.hist, ∃ x ∈ t.hist, x.addr = e.addr ∧ x.seq = e.seq ∧ ∀ p ∈ e.owners, p ∈ x.owners

theorem HistGrows.of_eq {s t : State} (h : t.hist = s.hist) : HistGrows s t := fun e he => ⟨e, h ▸ he, rfl, rfl, fun _ hp => hp⟩

theorem HistGrows.trans {s t u : State} (h : HistGrows s t) (k : HistGrows t u) : HistGrows s u := fun e he => by
  obtain ⟨x, hx, haddr, hseq, howners⟩ := h e he
  obtain ⟨y, hy, haddr', hseq', howners'⟩ := k x hx
  exact ⟨y, hy, haddr'.trans haddr, hseq'.trans hseq, fun p hp => howners' p (howners p hp)⟩

theorem HistGrows.foldl {α : Type} {op : State → α → State} (h : ∀ u x, HistGrows u (op u x)) (l : List α) (s : State) : HistGrows s (l.foldl op s) := by
  induction l generalizing s with
  | nil => exact .of_eq rfl
  | cons x l ih => exact (h s x).trans (ih _)

/-- A party owns a write of the coherence order, as the writer or for having learned of it. -/
def Knows (s : State) (who : Party) (e : HistEntry) : Prop := ∃ x ∈ s.hist, x.addr = e.addr ∧ x.seq = e.seq ∧ who ∈ x.owners

theorem Knows.grows {s t : State} {who : Party} {e : HistEntry} (h : Knows s who e) (k : HistGrows s t) : Knows t who e := by
  obtain ⟨x, hx, haddr, hseq, hwho⟩ := h
  obtain ⟨y, hy, haddr', hseq', howners⟩ := k x hx
  exact ⟨y, hy, haddr'.trans haddr, hseq'.trans hseq, howners who hwho⟩

theorem le_greatest {l : List Nat} {a : Nat} (h : a ∈ l) : a ≤ greatest l := by
  have hfold : ∀ (l : List Nat) (m : Nat), m ≤ l.foldl (fun m a => if m < a then a else m) m ∧
      ∀ a ∈ l, a ≤ l.foldl (fun m a => if m < a then a else m) m := by
    intro l
    induction l with
    | nil => exact fun m => ⟨le_refl m, nofun⟩
    | cons x rest ih =>
      intro m
      obtain ⟨hm, hrest⟩ := ih (if m < x then x else m)
      refine ⟨le_trans ?_ hm, fun a ha => ?_⟩
      · split <;> omega
      · rcases List.mem_cons.1 ha with rfl | ha
        · refine le_trans ?_ hm
          split <;> omega
        · exact hrest a ha
  exact (hfold l 0).2 a h

/-- A party reads no byte older than a write that it owns (R177). -/
theorem Knows.le_floorOf {s : State} {who : Party} {e : HistEntry} (h : Knows s who e) : e.seq ≤ s.floorOf who e.addr := by
  obtain ⟨x, hx, haddr, hseq, hwho⟩ := h
  refine le_trans (le_greatest (List.mem_map.2 ⟨x, List.mem_filter.2 ⟨hx, ?_⟩, hseq⟩)) (le_max_left _ _)
  simp [haddr, hwho]

theorem histGrows_learn (s : State) (writer who : Party) : HistGrows s (s.learn writer who) := fun e he => by
  refine ⟨_, List.mem_map_of_mem he, ?_⟩
  split
  · exact ⟨rfl, rfl, fun p hp => List.mem_cons_of_mem _ hp⟩
  · exact ⟨rfl, rfl, fun p hp => hp⟩

theorem knows_learn {s : State} {writer : Party} {who : Party} {e : HistEntry} (h : Knows s writer e) : Knows (s.learn writer who) who e := by
  obtain ⟨x, hx, haddr, hseq, hwriter⟩ := h
  refine ⟨_, List.mem_map_of_mem hx, ?_⟩
  by_cases hwho : who ∈ x.owners
  · rw [if_neg (by simp [hwho])]
    exact ⟨haddr, hseq, hwho⟩
  · rw [if_pos (by simp [hwho, hwriter])]
    exact ⟨haddr, hseq, List.mem_cons_self⟩

/-- The writes of the operations listed learned of. -/
def learnOps (s : State) (ops : List Nat) (who : Party) : State := ops.foldl (fun t o => t.learn (.operation o) who) s

theorem histGrows_learnOps (s : State) (ops : List Nat) (who : Party) : HistGrows s (learnOps s ops who) :=
  HistGrows.foldl (fun u _ => histGrows_learn u _ _) ops s

theorem knows_learnOps {s : State} {ops : List Nat} {who : Party} {o : Nat} (ho : o ∈ ops) {e : HistEntry} (he : Knows s (.operation o) e) :
    Knows (learnOps s ops who) who e := by
  unfold learnOps
  induction ops generalizing s with
  | nil => nomatch ho
  | cons x rest ih =>
    rcases List.mem_cons.1 ho with rfl | hrest
    · exact (knows_learn he).grows (histGrows_learnOps _ rest who)
    · exact ih hrest (he.grows (histGrows_learn s _ _))

theorem learnOps_frame (s : State) (ops : List Nat) (who : Party) : learnOps s ops who = { s with hist := (learnOps s ops who).hist } := by
  unfold learnOps
  induction ops generalizing s with
  | nil => rfl
  | cons x rest ih =>
    rw [List.foldl_cons, ih]
    rfl

/-! ## Passing a phase (R142, R186) -/

theorem passBar_eq (s : State) (g : GroupId) (n : Nat) (p : Bool) :
    s.passBar g n p = (learnOps s ((s.bar g.wg n).done p).ops (.group g.wg g.grp)).orGroupFlags g ((s.bar g.wg n).done p).flags := rfl

theorem passBarHelm_eq (s : State) (w n : Nat) (p : Bool) : s.passBarHelm w n p =
    (learnOps s ((s.bar w n).done p).ops (.helm w)).pull .wg ((learnOps s ((s.bar w n).done p).ops (.helm w)).placeOf (.helm w) w) := rfl

theorem orGroupFlags_frame (s : State) (g : GroupId) (f : Word) : s.orGroupFlags g f = { s with groups := (s.orGroupFlags g f).groups } := by
  unfold State.orGroupFlags
  split <;> rfl

theorem hist_orGroupFlags (s : State) (g : GroupId) (f : Word) : (s.orGroupFlags g f).hist = s.hist := by rw [orGroupFlags_frame]

theorem flags_orGroupFlags (s : State) (g : GroupId) (f : Word) : ((s.orGroupFlags g f).group g).flags = (s.group g).flags ||| f := by
  unfold State.orGroupFlags
  split
  · next h =>
    rw [h]
    exact BitVec.or_zero.symm
  · rw [group_setGroup_same]

theorem flags_orGroupFlags_other {s : State} {g h : GroupId} (f : Word) (hg : h ≠ g) : (s.orGroupFlags g f).group h = s.group h := by
  unfold State.orGroupFlags
  split
  · rfl
  · rw [group_setGroup, if_neg hg]

theorem passBar_frame (s : State) (g : GroupId) (n : Nat) (p : Bool) :
    s.passBar g n p = { s with hist := (s.passBar g n p).hist, groups := (s.passBar g n p).groups } := by
  rw [passBar_eq, orGroupFlags_frame, learnOps_frame]

theorem passBarHelm_frame (s : State) (w n : Nat) (p : Bool) :
    s.passBarHelm w n p = { s with hist := (s.passBarHelm w n p).hist, floors := (s.passBarHelm w n p).floors } := by
  rw [passBarHelm_eq, learnOps_frame]
  rfl

theorem histGrows_passBar (s : State) (g : GroupId) (n : Nat) (p : Bool) : HistGrows s (s.passBar g n p) :=
  (histGrows_learnOps s _ _).trans (.of_eq (hist_orGroupFlags _ _ _))

theorem histGrows_passBarHelm (s : State) (w n : Nat) (p : Bool) : HistGrows s (s.passBarHelm w n p) :=
  (histGrows_learnOps s _ _).trans (.of_eq rfl)

theorem flags_passBar (s : State) (g : GroupId) (n : Nat) (p : Bool) :
    ((s.passBar g n p).group g).flags = (s.group g).flags ||| ((s.bar g.wg n).done p).flags := by
  rw [passBar_eq, flags_orGroupFlags, learnOps_frame]
  rfl

theorem group_passBar_other {s : State} {g h : GroupId} (n : Nat) (p : Bool) (hg : h ≠ g) : (s.passBar g n p).group h = s.group h := by
  rw [passBar_eq, flags_orGroupFlags_other _ hg, learnOps_frame]
  rfl

/-! ## Releasing who waits for a phase (R139) -/

/-- What releasing those who wait for a phase of a parity changes of barriers, of the coherence order and of FLAGS. -/
structure LetsPass (w n : Nat) (p : Bool) (s t : State) : Prop where
  wgs : t.wgs = s.wgs
  hist : HistGrows s t
  flags : ∀ g : GroupId, g.wg = w → (t.group g).flags = (s.group g).flags ∨
    (t.group g).flags = (s.group g).flags ||| ((s.bar w n).done p).flags

theorem LetsPass.refl (w n : Nat) (p : Bool) (s : State) : LetsPass w n p s s := ⟨rfl, .of_eq rfl, fun _ _ => .inl rfl⟩

theorem LetsPass.trans {w n : Nat} {p : Bool} {s t u : State} (h : LetsPass w n p s t) (k : LetsPass w n p t u) : LetsPass w n p s u := by
  refine ⟨k.wgs.trans h.wgs, h.hist.trans k.hist, fun g hg => ?_⟩
  have hbar := bar_congr h.wgs w n
  rcases h.flags g hg with hf | hf <;> rcases k.flags g hg with kf | kf <;> rw [hbar] at *
  · exact .inl (kf.trans hf)
  · exact .inr (kf.trans (by rw [hf]))
  · exact .inr (kf.trans hf)
  · exact .inr (kf.trans (by rw [hf, BitVec.or_assoc, BitVec.or_self]))

theorem letsPass_releaseLane (s : State) {id : ThreadId} {w : Nat} (hid : id.wg = w) (n : Nat) (p : Bool) :
    LetsPass w n p s (s.releaseLane id n p) := by
  subst hid
  unfold State.releaseLane
  split
  · refine ⟨by rw [passBar_frame]; rfl, (histGrows_passBar s _ n p).trans (.of_eq rfl), fun g _ => ?_⟩
    by_cases hg : g = ⟨id.wg, id.grp⟩
    · subst hg
      exact .inr (flags_passBar s _ n p)
    · exact .inl (congrArg Group.flags (group_passBar_other n p hg))
  · exact .refl _ n p s

theorem letsPass_lanes (w n : Nat) (p : Bool) (ids : List ThreadId) (h : ∀ id ∈ ids, id.wg = w) (s : State) :
    LetsPass w n p s (ids.foldl (fun (u : State) i => u.releaseLane i n p) s) := by
  induction ids generalizing s with
  | nil => exact .refl w n p s
  | cons id rest ih =>
    exact (letsPass_releaseLane s (h id List.mem_cons_self) n p).trans (ih (fun i hi => h i (List.mem_cons_of_mem _ hi)) _)

theorem threadsOf_wg {s : State} {w : Nat} {id : ThreadId} (h : id ∈ s.threadsOf w) : id.wg = w := by
  simpa using (List.mem_filter.1 h).2

theorem letsPass_releaseBar (s : State) (w n : Nat) (p : Bool) : LetsPass w n p s (s.releaseBar w n p) := by
  have hlanes := letsPass_lanes w n p (s.threadsOf w) (fun _ h => threadsOf_wg h) s
  unfold State.releaseBar
  dsimp only
  split
  · refine hlanes.trans ⟨by rw [passBarHelm_frame]; rfl, (histGrows_passBarHelm _ w n p).trans (.of_eq rfl), fun g _ => .inl ?_⟩
    rw [passBarHelm_frame]
    rfl
  · exact hlanes

/-! ## Completing a phase (R139) -/

/-- A barrier whose phase completes if it may. -/
def settled (b : Barrier) : Barrier := if b.ready then b.complete else b

/-- The arrivals in the completed phase taken back, as a change of threads alone. -/
def forgetArrivals (s : State) (n : Nat) (ids : List ThreadId) : State :=
  ids.foldl (fun t i => t.setThread i { t.thread i with arrived := (t.thread i).arrived.filter (· != n) }) s

theorem forgetArrivals_frame (s : State) (n : Nat) (ids : List ThreadId) :
    forgetArrivals s n ids = { s with threads := (forgetArrivals s n ids).threads } := by
  unfold forgetArrivals
  induction ids generalizing s with
  | nil => rfl
  | cons id rest ih =>
    rw [List.foldl_cons, ih]
    rfl

theorem letsPass_of_eq {w n : Nat} {p : Bool} {s t : State} (hwgs : t.wgs = s.wgs) (hhist : t.hist = s.hist) (hgroups : t.groups = s.groups) :
    LetsPass w n p s t := ⟨hwgs, .of_eq hhist, fun g _ => .inl (by rw [State.group, State.group, hgroups])⟩

theorem settleBar_of_ready {s : State} {w n : Nat} (h : (s.bar w n).ready = true) :
    LetsPass w n (s.bar w n).phase (s.setBar w n (s.bar w n).complete) (s.settleBar w n) := by
  let started := s.setBar w n (s.bar w n).complete
  let cleared := forgetArrivals started n (started.threadsOf w)
  have hcleared : LetsPass w n (s.bar w n).phase started cleared := by
    have hframe : cleared = _ := forgetArrivals_frame started n (started.threadsOf w)
    exact letsPass_of_eq (by rw [hframe]) (by rw [hframe]) (by rw [hframe])
  have hsettle : s.settleBar w n =
      (cleared.setHelm w { cleared.helm w with arrived := (cleared.helm w).arrived.filter (· != n) }).releaseBar w n (s.bar w n).phase := if_pos h
  rw [hsettle]
  exact hcleared.trans (LetsPass.trans (t := cleared.setHelm w _) (letsPass_of_eq rfl rfl rfl) (letsPass_releaseBar _ w n _))

theorem settleBar_of_not_ready {s : State} {w n : Nat} (h : (s.bar w n).ready = false) : s.settleBar w n = s := by
  unfold State.settleBar
  rw [if_neg (by rw [h]; nofun)]

theorem bar_settleBar (s : State) (w n v m : Nat) : (s.settleBar w n).bar v m = if v = w ∧ m = n then settled (s.bar w n) else s.bar v m := by
  cases h : (s.bar w n).ready with
  | true =>
    rw [bar_congr (settleBar_of_ready h).wgs, bar_setBar, settled, if_pos h]
  | false =>
    rw [settleBar_of_not_ready h, settled, h, if_neg Bool.false_ne_true]
    split
    · next hvm => rw [hvm.1, hvm.2]
    · rfl

/-! ## Moving on after what the issuer saw -/

/-- The issuer that has moved on stands at its next instruction, whatever was written before. -/
theorem movesOn_moved {s t : State} (hcur : t.cur = s.cur) : MovesOn s t.advance := by
  cases hhelm : s.curHelm with
  | false => exact movesOn_of_cur hhelm hcur
  | true =>
    rw [MovesOn, if_pos hhelm, advance_of_helm ((curHelm_congr hcur).trans hhelm), helmAt, ← curGroup_congr hcur, helm_setHelm_same]
    exact ⟨by rw [State.curPc, State.curLen, hcur]; rfl, rfl⟩

theorem histGrows_advance (s : State) : HistGrows s s.advance := .of_eq (by rw [advance_frame])

theorem flags_advance {s : State} (hgroup : s.curHelm = false) (g : GroupId) : (s.advance.group g).flags = (s.group g).flags := by
  obtain ⟨y, b, n, hg⟩ := group_advance_kept hgroup g
  rw [hg]

theorem bar_advance (s : State) (w n : Nat) : s.advance.bar w n = s.bar w n := bar_congr (by rw [advance_frame]) w n

theorem passed_frame (s : State) (n : Nat) (p : Bool) : s.passed n p =
    { s with hist := (s.passed n p).hist, floors := (s.passed n p).floors, groups := (s.passed n p).groups } := by
  unfold State.passed
  split
  · rw [passBarHelm_frame]
  · rw [passBar_frame]

/-- Who has passed a phase owns the writes that it made visible (R142, R186). -/
theorem knows_passed {s : State} {n o : Nat} {p : Bool} (ho : o ∈ ((s.bar s.curGroup.wg n).done p).ops) {e : HistEntry}
    (he : Knows s (.operation o) e) : Knows (s.passed n p) s.curParty e := by
  unfold State.passed State.curParty
  cases s.curHelm with
  | true => exact (knows_learnOps ho he).grows (.of_eq rfl)
  | false => exact (knows_learnOps ho he).grows (.of_eq (hist_orGroupFlags _ _ _))

theorem flags_passed {s : State} (hgroup : s.curHelm = false) (n : Nat) (p : Bool) :
    ((s.passed n p).group s.curGroup).flags = (s.group s.curGroup).flags ||| ((s.bar s.curGroup.wg n).done p).flags := by
  rw [State.passed, if_neg (by rw [hgroup]; nofun)]
  exact flags_passBar s s.curGroup n p

/-! ## Arrivals (R139, R241) -/

/-- A state in which an arrival stands at barrier `n`, before the phase is settled. -/
structure Arrived (s v : State) (n : Nat) (b : Barrier) : Prop where
  cur : v.cur = s.cur
  regs : v.regs = s.regs
  mem : v.mem = s.mem
  hist : v.hist = s.hist
  groups : v.groups = s.groups
  bar : ∀ w m, v.bar w m = if w = s.curGroup.wg ∧ m = n then b else s.bar w m

section
variable {s v : State} {n : Nat} {b : Barrier} (h : Arrived s v n b)
include h

theorem Arrived.own : v.bar s.curGroup.wg n = b := by rw [h.bar, if_pos ⟨rfl, rfl⟩]

theorem Arrived.settled_bar (m : Nat) : (v.settleBar s.curGroup.wg n).bar s.curGroup.wg m = if m = n then settled b else s.bar s.curGroup.wg m := by
  rw [bar_settleBar, h.own, h.bar]
  by_cases hm : m = n <;> simp [hm]

theorem Arrived.settled_cur : (v.settleBar s.curGroup.wg n).cur = s.cur := by
  rw [(barrierMoves_settleBar v _ n).frame]
  exact h.cur

theorem Arrived.settled_regs : (v.settleBar s.curGroup.wg n).regs = s.regs := (barrierMoves_settleBar v _ n).regs.trans h.regs

theorem Arrived.settled_mem : (v.settleBar s.curGroup.wg n).mem = s.mem := (barrierMoves_settleBar v _ n).mem.trans h.mem

theorem Arrived.histGrows : HistGrows s (v.settleBar s.curGroup.wg n) := by
  refine HistGrows.trans (.of_eq h.hist) ?_
  cases hready : (v.bar s.curGroup.wg n).ready with
  | false => exact .of_eq (by rw [settleBar_of_not_ready hready])
  | true => exact HistGrows.trans (t := v.setBar s.curGroup.wg n _) (.of_eq rfl) (settleBar_of_ready hready).hist

/-- FLAGS of the issuing group once the phase is settled: as they were, or with what the phase made visible to a lane released. -/
theorem Arrived.settled_flags (hready : b.ready = true) : ((v.settleBar s.curGroup.wg n).group s.curGroup).flags = (s.group s.curGroup).flags ∨
    ((v.settleBar s.curGroup.wg n).group s.curGroup).flags = (s.group s.curGroup).flags ||| (b.complete.done b.phase).flags := by
  have hpass := (settleBar_of_ready (s := v) (w := s.curGroup.wg) (n := n) (by rw [h.own]; exact hready)).flags s.curGroup rfl
  have hgroup : ∀ c, (v.setBar s.curGroup.wg n c).group s.curGroup = s.group s.curGroup := fun c => by
    show FMap.getD v.groups _ _ = _
    rw [h.groups]
    rfl
  rw [h.own, bar_setBar, if_pos ⟨rfl, rfl⟩, hgroup] at hpass
  exact hpass

/-- What an arrival leaves once the issuer has moved on. -/
theorem Arrived.after : let t := (v.settleBar s.curGroup.wg n).advance
    t.bar s.curGroup.wg n = settled b ∧ (∀ m, m ≠ n → t.bar s.curGroup.wg m = s.bar s.curGroup.wg m) ∧ MovesOn s t ∧ t.regs = s.regs ∧ t.mem = s.mem := by
  refine ⟨?_, fun m hm => ?_, movesOn_moved h.settled_cur, ?_, ?_⟩
  · rw [bar_advance, h.settled_bar, if_pos rfl]
  · rw [bar_advance, h.settled_bar, if_neg hm]
  · rw [advance_regs, h.settled_regs]
  · rw [advance_mem, h.settled_mem]

end

/-- The arrivals of lanes noted in their threads. -/
def noteArrivals (s : State) (n : Nat) (lanes : List Nat) : State :=
  lanes.foldl (fun t l => t.setThread (s.curThread l) { t.thread (s.curThread l) with arrived := n :: (t.thread (s.curThread l)).arrived }) s

theorem noteArrivals_frame (s : State) (n : Nat) (lanes : List Nat) :
    noteArrivals s n lanes = { s with threads := (noteArrivals s n lanes).threads } := by
  unfold noteArrivals
  rw [foldl_setThread lanes s.curThread (fun _ x => { x with arrived := n :: x.arrived })]

theorem noteArrivals_arrived (s : State) (n : Nat) {lanes : List Nat} {l : Nat} (hl : l ∈ lanes) :
    n ∈ ((noteArrivals s n lanes).thread (s.curThread l)).arrived := by
  have hgrows : ∀ (lanes : List Nat) (u : State) (l : Nat), u.curThread = s.curThread → n ∈ (u.thread (s.curThread l)).arrived →
      n ∈ ((noteArrivals u n lanes).thread (s.curThread l)).arrived := by
    intro lanes
    induction lanes with
    | nil => exact fun _ _ _ h => h
    | cons m rest ih =>
      intro u l hu h
      refine ih (u.setThread _ _) l hu ?_
      rw [thread_setThread]
      split
      · exact List.mem_cons_self
      · exact h
  have hall : ∀ (lanes : List Nat) (u : State), u.curThread = s.curThread → ∀ l ∈ lanes, n ∈ ((noteArrivals u n lanes).thread (s.curThread l)).arrived := by
    intro lanes
    induction lanes with
    | nil => exact fun _ _ _ h => nomatch h
    | cons m rest ih =>
      intro u hu l hl
      rcases List.mem_cons.1 hl with rfl | hrest
      · refine hgrows rest (u.setThread _ _) l hu ?_
        rw [← hu, thread_setThread_same]
        exact List.mem_cons_self
      · exact ih (u.setThread _ _) hu l hrest
  exact hall lanes s rfl l hl

theorem arrived_setBar {s u : State} {n : Nat} (hcur : u.cur = s.cur) (hregs : u.regs = s.regs) (hmem : u.mem = s.mem) (hhist : u.hist = s.hist)
    (hgroups : u.groups = s.groups) (hbar : ∀ w m, ¬(w = s.curGroup.wg ∧ m = n) → u.bar w m = s.bar w m) (b : Barrier) :
    Arrived s (u.setBar s.curGroup.wg n b) n b := by
  refine ⟨hcur, hregs, hmem, hhist, hgroups, fun w m => ?_⟩
  rw [bar_setBar]
  split
  · rfl
  · next h => exact hbar w m h

/-- The bundle's lanes arrive (R139). -/
theorem arrive_group {s : State} (hgroup : s.curHelm = false) (n : Nat) (lanes : List Nat) :
    ∃ v, Arrived s v n { s.bar s.curGroup.wg n with arrived := (s.bar s.curGroup.wg n).arrived + BitVec.ofNat 11 lanes.length } ∧
      s.arrive n lanes = v.settleBar s.curGroup.wg n ∧ ∀ l ∈ lanes, n ∈ (v.thread (s.curThread l)).arrived := by
  have hframe := noteArrivals_frame s n lanes
  have hbar : ∀ w m, (noteArrivals s n lanes).bar w m = s.bar w m := bar_congr (by rw [hframe])
  refine ⟨_, arrived_setBar (u := noteArrivals s n lanes) (by rw [hframe]) (by rw [hframe]) (by rw [hframe]) (by rw [hframe]) (by rw [hframe])
    (fun w m _ => hbar w m) _, ?_, fun l hl => noteArrivals_arrived s n hl⟩
  rw [State.arrive, hgroup, ← hbar s.curGroup.wg n]
  rfl

/-- What a Helm's arrival makes of a barrier (R139, R142, R247). -/
def helmArrival (s : State) (b : Barrier) : Barrier :=
  { b with
    arrived := b.arrived + 1
    helmOps := s.helmLearned s.curGroup.wg
    helmFlags := b.helmFlags ||| (s.helm s.curGroup.wg).flags }

/-- The Helm arrives (R139). -/
theorem arrive_helm {s : State} (hhelm : s.curHelm = true) (n : Nat) (lanes : List Nat) :
    ∃ v, Arrived s v n (helmArrival s (s.bar s.curGroup.wg n)) ∧ s.arrive n lanes = v.settleBar s.curGroup.wg n ∧
      v.helm s.curGroup.wg = { s.helm s.curGroup.wg with arrived := n :: (s.helm s.curGroup.wg).arrived } := by
  let noted := s.setHelm s.curGroup.wg { s.helm s.curGroup.wg with arrived := n :: (s.helm s.curGroup.wg).arrived }
  let marked := noted.setBar s.curGroup.wg n { s.bar s.curGroup.wg n with
    helmOps := s.helmLearned s.curGroup.wg, helmFlags := (s.bar s.curGroup.wg n).helmFlags ||| (s.helm s.curGroup.wg).flags }
  have hown : marked.bar s.curGroup.wg n = { s.bar s.curGroup.wg n with
      helmOps := s.helmLearned s.curGroup.wg, helmFlags := (s.bar s.curGroup.wg n).helmFlags ||| (s.helm s.curGroup.wg).flags } :=
    (bar_setBar _ _ _ _ _ _).trans (if_pos ⟨rfl, rfl⟩)
  refine ⟨_, arrived_setBar (s := s) (u := marked) rfl rfl rfl rfl rfl (fun w m h => (bar_setBar _ _ _ _ w m).trans (if_neg h)) _, ?_, helm_setHelm_same _ _ _⟩
  have harrive : s.arrive n lanes = (marked.setBar s.curGroup.wg n { marked.bar s.curGroup.wg n with
      arrived := (marked.bar s.curGroup.wg n).arrived + BitVec.ofNat 11 1 }).settleBar s.curGroup.wg n := by
    rw [State.arrive, hhelm]
    rfl
  rw [harrive, hown]
  rfl

/-! ## The laws of a barrier (R139) -/

theorem ready_iff (b : Barrier) : b.ready = true ↔ b.expect.toNat ≤ b.arrived.toNat ∧ b.tx = 0 := by
  simp [Barrier.ready, BitVec.le_def]

theorem complete_expect (b : Barrier) : b.complete.expect.toNat = b.expect.toNat - b.pexit.toNat := by
  show (if b.expect < b.pexit then (0 : BitVec 11) else b.expect - b.pexit).toNat = _
  split
  · next h => rw [BitVec.lt_def] at h; exact (Nat.sub_eq_zero_of_le h.le).symm
  · next h => exact BitVec.toNat_sub_of_le (BitVec.not_lt.1 h)

theorem mem_complete_ops (b : Barrier) (o : Nat) : o ∈ (b.complete.done b.phase).ops ↔ o ∈ b.txOps ∨ o ∈ b.helmOps ∨ o ∈ (b.done b.phase).ops := by
  cases h : b.phase <;> simp [Barrier.complete, Barrier.done, BarDone.join, h]

theorem complete_flags (b : Barrier) : (b.complete.done b.phase).flags = (b.done b.phase).flags ||| b.helmFlags := by
  cases h : b.phase <;> simp [Barrier.complete, Barrier.done, BarDone.join, h]

theorem complete_other_parity (b : Barrier) : b.complete.done (!b.phase) = b.done (!b.phase) := by
  cases h : b.phase <;> simp [Barrier.complete, Barrier.done, h]

/-! ## bar.init and bar.arrive (R388) -/

theorem allLanes_eq (s : State) : s.allLanes = bundleLanes s := rfl

theorem withBar_pass {s : State} {n : Nat} (h : n < (s.launchOf s.curGroup.wg).barsN) (go : Out) : s.withBar n go = go := if_neg (by omega)

theorem barInit_results {i : Instr} {n : Nat} {b : Src} (hx : ∀ s, exec i s = s.barInitStep n b) (s : State)
    (hn : n < (s.launchOf s.curGroup.wg).barsN) (hread : BundleReads s [b] []) (hpos : s.srcBits 0 b ≠ 0) (hmax : (s.srcBits 0 b).toNat ≤ 2047) :
    Completes i s (fun t => t.bar s.curGroup.wg n = settled { s.bar s.curGroup.wg n with expect := (s.srcBits 0 b).setWidth 11 } ∧
      (∀ m, m ≠ n → t.bar s.curGroup.wg m = s.bar s.curGroup.wg m) ∧ MovesOn s t ∧ t.regs = s.regs ∧ t.mem = s.mem) := by
  obtain ⟨htags, hready⟩ := hread
  have hfull : s.checkFull s.allLanes [] [{ opnd := 1, src := b }] [] = .ok s :=
    checkFull_ok s _ [] _ [] hready.quiet (fun l hl o ho => by
      obtain rfl := List.mem_singleton.1 ho
      exact hready.srcs l (by simpa [allLanes_eq] using hl) b List.mem_cons_self) (fun _ _ x hx => nomatch hx)
  have hzero : (s.srcBits 0 b).toNat ≠ 0 := fun h => hpos (BitVec.eq_of_toNat_eq h)
  have harrived : Arrived s (s.setBar s.curGroup.wg n { s.bar s.curGroup.wg n with expect := BitVec.ofNat 11 (s.srcBits 0 b).toNat }) n
      { s.bar s.curGroup.wg n with expect := (s.srcBits 0 b).setWidth 11 } :=
    ⟨rfl, rfl, rfl, rfl, rfl, fun w m => bar_setBar _ _ _ _ w m⟩
  refine ⟨_, ?_, harrived.after⟩
  rw [hx, State.barInitStep, withBar_pass hn, if_neg (by simp [htags b List.mem_cons_self]), hfull]
  exact if_neg (by omega)

theorem barArrive_results {i : Instr} {n : Nat} {f : Form} (hx : ∀ s, exec i s = s.barArriveStep n f) (s : State)
    (hn : n < (s.launchOf s.curGroup.wg).barsN) :
    let after := fun (t : State) (b : Barrier) => t.bar s.curGroup.wg n = settled b ∧ (∀ m, m ≠ n → t.bar s.curGroup.wg m = s.bar s.curGroup.wg m) ∧
      MovesOn s t ∧ t.regs = s.regs ∧ t.mem = s.mem
    (s.curHelm = false → Bundle s → s.active f ≠ [] → Completes i s (fun t =>
      after t { s.bar s.curGroup.wg n with arrived := (s.bar s.curGroup.wg n).arrived + BitVec.ofNat 11 (s.active f).length })) ∧
    (s.curHelm = false → s.active f = [] → exec i s = .next s.advance) ∧
    (s.curHelm = true → s.capturePending s.curGroup.wg = false → Completes i s (fun t => after t (helmArrival s (s.bar s.curGroup.wg n)))) ∧
    (s.curHelm = true → s.capturePending s.curGroup.wg = true → exec i s = .next s) := by
  have hstep := (hx s).trans (withBar_pass hn _)
  refine ⟨fun hgroup _ hne => ?_, fun hgroup hnone => ?_, fun hhelm hfree => ?_, fun hhelm hheld => ?_⟩
  · obtain ⟨v, harrived, heq, _⟩ := arrive_group hgroup n (s.active f)
    refine ⟨_, hstep.trans ?_, harrived.after⟩
    rw [hgroup, if_neg (by simp), if_neg (by simpa using hne), heq]
  · rw [hstep, hgroup, if_neg (by simp), if_pos (by simp [hnone])]
  · obtain ⟨v, harrived, heq, _⟩ := arrive_helm hhelm n (s.active f)
    refine ⟨_, hstep.trans ?_, harrived.after⟩
    rw [hhelm, hfree, if_neg (by simp), if_neg (by simp), heq]
  · rw [hstep, hhelm, hheld]
    rfl

/-! ## bar.wait and bar.sync (R142, R388) -/

/-- The issuer sees what completed phases made visible, and its group's FLAGS hold the Helm's (R142, R247). -/
def Sees (s t : State) (d : BarDone) : Prop :=
  (∀ o ∈ d.ops, ∀ e ∈ s.hist, .operation o ∈ e.owners → e.seq ≤ t.floorOf s.curParty e.addr) ∧
  (s.curHelm = false → (t.group s.curGroup).flags = (s.group s.curGroup).flags ||| d.flags)

theorem sees_passed {s v : State} {n : Nat} {p : Bool} {d : BarDone} (hcur : v.cur = s.cur) (hgrows : HistGrows s v)
    (hdone : (v.bar s.curGroup.wg n).done p = d) (hflags : (v.group s.curGroup).flags = (s.group s.curGroup).flags ∨
      (v.group s.curGroup).flags = (s.group s.curGroup).flags ||| d.flags) : Sees s (v.passed n p).advance d := by
  subst hdone
  have hgroup := curGroup_congr hcur
  refine ⟨fun o ho e he howner => ?_, fun hstill => ?_⟩
  · have hknows : Knows v (.operation o) e := Knows.grows ⟨e, he, rfl, rfl, howner⟩ hgrows
    have hpassed := (knows_passed (s := v) (n := n) (p := p) (by rwa [hgroup]) hknows).grows (histGrows_advance _)
    rw [curParty_congr hcur] at hpassed
    exact hpassed.le_floorOf
  · have hv := (curHelm_congr hcur).trans hstill
    have hpassed := flags_passed hv n p
    rw [hgroup] at hpassed
    rw [flags_advance ((curHelm_congr (by rw [passed_frame])).trans hv), hpassed]
    rcases hflags with h | h <;> rw [h]
    rw [BitVec.or_assoc, BitVec.or_self]

theorem passed_cur (s : State) (n : Nat) (p : Bool) : (s.passed n p).cur = s.cur := by rw [passed_frame]

/-- Lanes that wait while the rest of the bundle moves on. -/
theorem waitLanes_thread {s : State} (stay : List Nat) (w : Wait) {l : Nat} (hl : l ∈ s.curLanes) :
    (s.waitLanes stay w).thread (s.curThread l) = if l ∈ stay then { s.advance.thread (s.curThread l) with pc := s.curPc, wait := w }
      else movedTo (s.curPc + BitVec.ofNat 64 s.curLen) (s.thread (s.curThread l)) := by
  obtain ⟨_, _, hthread⟩ := waitLanes_eq s stay w
  rw [hthread, advance_thread_lane hl]
  refine if_congr ⟨?_, fun h => ⟨l, h, rfl⟩⟩ rfl rfl
  rintro ⟨m, hm, hlm⟩
  rwa [curThread_inj hlm]

theorem barWait_results {i : Instr} {n : Nat} {p : Bool} (hx : ∀ s, exec i s = s.barWaitStep n p) (s : State)
    (hn : n < (s.launchOf s.curGroup.wg).barsN) :
    let b := s.bar s.curGroup.wg n
    let lanes := bundleLanes s
    (b.phase ≠ p → Completes i s (fun t => MovesOn s t ∧ Sees s t (b.done p) ∧ t.regs = s.regs ∧ t.mem = s.mem)) ∧
    (b.phase = p → (∀ l ∈ lanes, s.laneWait l = .released n) → exec i s = .next s.advance) ∧
    (b.phase = p → lanes ≠ [] → (∀ l ∈ lanes, s.laneWait l ≠ .released n) → Completes i s (fun t => WaitsAt s t (.barrier n p))) ∧
    (b.phase = p → s.curHelm = false → (∃ l ∈ lanes, s.laneWait l = .released n) → (∃ l ∈ lanes, s.laneWait l ≠ .released n) →
      Completes i s (fun t => t = { s.advance with threads := t.threads } ∧ ∀ l ∈ lanes, let x := t.thread (s.curThread l)
        if s.laneWait l = .released n then x.pc = s.curPc + BitVec.ofNat 64 s.curLen ∧ x.wait = .none
        else x.pc = s.curPc ∧ x.wait = .barrier n p)) := by
  intro b lanes
  have hstep := (hx s).trans (withBar_pass hn _)
  let stay := lanes.filter (fun l => s.laneWait l != .released n)
  have hstay : stay = s.allLanes.filter (fun l => s.laneWait l != .released n) := rfl
  refine ⟨fun hphase => ?_, fun hphase hall => ?_, fun hphase hne hnone => ?_, fun hphase hgroup hsome hsome' => ?_⟩
  · refine ⟨_, hstep.trans (if_pos (by simpa using hphase)), movesOn_moved (passed_cur s n p), sees_passed rfl (.of_eq rfl) rfl (.inl rfl), ?_, ?_⟩
    · rw [advance_regs, passed_frame]
    · rw [advance_mem, passed_frame]
  · have hempty : stay = [] := List.filter_eq_nil_iff.2 fun l hl => by simp [hall l hl]
    rw [hstep, if_neg (by simpa using hphase), ← hstay, hempty]
    rfl
  · have hfull : stay = lanes := List.filter_eq_self.2 fun l hl => by simpa using hnone l hl
    refine ⟨_, ?_, waitsAt_waitAt s _⟩
    rw [hstep, if_neg (by simpa using hphase), ← hstay, hfull, if_neg (by simpa using hne)]
    exact if_pos rfl
  · obtain ⟨l, hl, hgo⟩ := hsome
    obtain ⟨m, hm, hwait⟩ := hsome'
    have hmem : m ∈ stay := List.mem_filter.2 ⟨hm, by simpa using hwait⟩
    have hlanes : lanes = s.curLanes := if_neg (by rw [hgroup]; nofun)
    have hshort : stay.length ≠ lanes.length := fun h => by
      have hsame := List.filter_eq_self.1 (List.filter_sublist.eq_of_length h) l hl
      simp [hgo] at hsame
    refine ⟨s.waitLanes stay (.barrier n p), ?_, ?_, fun k hk => ?_⟩
    · rw [hstep, if_neg (by simpa using hphase), ← hstay, if_neg (by simpa using List.ne_nil_of_mem hmem), if_neg (show ¬stay.length = s.allLanes.length from hshort), State.awaitBar, hgroup]
      rfl
    · obtain ⟨ts, hts, _⟩ := waitLanes_eq s stay (.barrier n p)
      rw [hts]
    · have hk' : k ∈ s.curLanes := hlanes ▸ hk
      dsimp only
      rw [waitLanes_thread stay _ hk']
      by_cases hgone : s.laneWait k = .released n
      · rw [if_pos hgone, if_neg fun h => by simpa [hgone] using (List.mem_filter.1 h).2]
        exact ⟨rfl, rfl⟩
      · rw [if_neg hgone, if_pos (List.mem_filter.2 ⟨hk, by simpa using hgone⟩)]
        exact ⟨rfl, rfl⟩

theorem settled_phase (b : Barrier) : (settled b).phase = if b.ready then !b.phase else b.phase := by
  unfold settled
  split <;> rfl

/-- An arrival that completes the phase, passed by who arrived. -/
theorem Arrived.passed {s v : State} {n : Nat} {b : Barrier} (h : Arrived s v n b) (hready : b.ready = true) :
    let t := ((v.settleBar s.curGroup.wg n).passed n b.phase).advance
    t.regs = s.regs ∧ t.mem = s.mem ∧ t.bar s.curGroup.wg n = settled b ∧ MovesOn s t ∧ Sees s t (b.complete.done b.phase) := by
  have hbar := h.settled_bar n
  rw [if_pos rfl] at hbar
  refine ⟨?_, ?_, ?_, movesOn_moved ((passed_cur _ _ _).trans h.settled_cur), ?_⟩
  · rw [advance_regs, passed_frame]
    exact h.settled_regs
  · rw [advance_mem, passed_frame]
    exact h.settled_mem
  · rw [bar_advance, bar_congr (s := v.settleBar s.curGroup.wg n) (by rw [passed_frame]), hbar]
  · exact sees_passed h.settled_cur h.histGrows (by rw [hbar, settled, if_pos hready]) (h.settled_flags hready)

/-- An arrival that does not complete the phase settles nothing. -/
theorem Arrived.waiting {s v : State} {n : Nat} {b : Barrier} (h : Arrived s v n b) (hready : b.ready = false) :
    v.settleBar s.curGroup.wg n = v := settleBar_of_not_ready (by rw [h.own]; exact hready)

/-- What `bar.sync` comes to once somebody arrives freshly. -/
theorem barSync_fresh {s : State} {n : Nat} {f : Form} (hn : n < (s.launchOf s.curGroup.wg).barsN) {lanes : List Nat}
    (hlanes : (if s.curHelm then oneLane else s.active f).filter (fun l => !s.atBar n l) = lanes) (hne : lanes ≠ [])
    (hfree : s.curHelm = true → s.capturePending s.curGroup.wg = false) {v : State} {b : Barrier} (h : Arrived s v n b)
    (hphase : b.phase = (s.bar s.curGroup.wg n).phase) (harrive : s.arrive n lanes = v.settleBar s.curGroup.wg n) :
    s.barSyncStep n f = .next (if b.ready then ((v.settleBar s.curGroup.wg n).passed n b.phase).advance else v.awaitBar lanes n b.phase) := by
  have hbar := h.settled_bar n
  rw [if_pos rfl] at hbar
  rw [State.barSyncStep, withBar_pass hn]
  dsimp only
  rw [hlanes, if_neg (by simpa using hne), if_neg (by cases hc : s.curHelm <;> simp [hfree, hc]), harrive, hbar, settled_phase, hphase]
  cases hready : b.ready with
  | true => rw [if_pos rfl, if_pos (by simp), if_pos rfl]
  | false => rw [if_neg Bool.false_ne_true, if_neg (by simp), if_neg Bool.false_ne_true, h.waiting hready]

/-- An arrival that does not complete the phase: its lanes wait, the rest of the bundle moves on. -/
theorem Arrived.awaits {s v : State} {n : Nat} {b : Barrier} (h : Arrived s v n b) (hgroup : s.curHelm = false) (hready : b.ready = false)
    {lanes : List Nat} (hnoted : ∀ l ∈ lanes, n ∈ (v.thread (s.curThread l)).arrived) (p : Bool) :
    let t := v.awaitBar lanes n p
    t.regs = s.regs ∧ t.mem = s.mem ∧ t.bar s.curGroup.wg n = settled b ∧ ∀ l ∈ s.curLanes, let x := t.thread (s.curThread l)
      if l ∈ lanes then x.pc = s.curPc ∧ x.wait = .barrier n p ∧ n ∈ x.arrived else x.pc = s.curPc + BitVec.ofNat 64 s.curLen ∧ x.wait = .none := by
  have hawait : v.awaitBar lanes n p = v.waitLanes lanes (.barrier n p) := if_neg (by rw [curHelm_congr h.cur, hgroup]; nofun)
  obtain ⟨ts, hts, _⟩ := waitLanes_eq v lanes (.barrier n p)
  have hkey : v.curThread = s.curThread := funext fun l => by rw [State.curThread, State.curThread, curGroup_congr h.cur]
  rw [hawait]
  refine ⟨?_, ?_, ?_, fun l hl => ?_⟩
  · rw [hts]
    exact (advance_regs v).trans h.regs
  · rw [hts]
    exact (advance_mem v).trans h.mem
  · rw [bar_congr (s := v.advance) (by rw [hts]), bar_advance, h.own, settled, if_neg (by rw [hready]; nofun)]
  · have hl' : l ∈ v.curLanes := by rwa [State.curLanes, h.cur]
    have hmoved := advance_thread_lane hl'
    have hthread := waitLanes_thread lanes (.barrier n p) hl'
    rw [hkey] at hmoved hthread
    have hpc : v.curPc = s.curPc := by rw [State.curPc, State.curPc, h.cur]
    have hlen : v.curLen = s.curLen := by rw [State.curLen, State.curLen, h.cur]
    dsimp only
    rw [hthread, hmoved, hpc, hlen]
    by_cases hmem : l ∈ lanes
    · rw [if_pos hmem, if_pos hmem]
      exact ⟨rfl, rfl, hnoted l hmem⟩
    · rw [if_neg hmem, if_neg hmem]
      exact ⟨rfl, rfl⟩

theorem barSync_group {i : Instr} {n : Nat} {f : Form} (hx : ∀ s, exec i s = s.barSyncStep n f) (s : State)
    (hn : n < (s.launchOf s.curGroup.wg).barsN) (hgroup : s.curHelm = false) :
    let b := s.bar s.curGroup.wg n
    let fresh := (s.active f).filter (fun l => !s.atBar n l)
    let b1 := { b with arrived := b.arrived + BitVec.ofNat 11 fresh.length }
    (fresh = [] → exec i s = .next s.advance) ∧
    (fresh ≠ [] → Completes i s (fun t => t.regs = s.regs ∧ t.mem = s.mem ∧ t.bar s.curGroup.wg n = settled b1 ∧
      if b1.ready then MovesOn s t ∧ Sees s t (b1.complete.done b.phase) else
        ∀ l ∈ s.curLanes, let x := t.thread (s.curThread l)
          if l ∈ fresh then x.pc = s.curPc ∧ x.wait = .barrier n b.phase ∧ n ∈ x.arrived
          else x.pc = s.curPc + BitVec.ofNat 64 s.curLen ∧ x.wait = .none)) := by
  intro b fresh b1
  have hlanes : (if s.curHelm then oneLane else s.active f).filter (fun l => !s.atBar n l) = fresh := by rw [hgroup]; rfl
  refine ⟨fun hnone => ?_, fun hne => ?_⟩
  · rw [hx, State.barSyncStep, withBar_pass hn]
    dsimp only
    rw [hlanes, hnone]
    rfl
  · obtain ⟨v, harrived, heq, hnoted⟩ := arrive_group hgroup n fresh
    have hstep := (hx s).trans (barSync_fresh hn hlanes hne (by rw [hgroup]; nofun) harrived rfl heq)
    cases hready : b1.ready with
    | true =>
      obtain ⟨hregs, hmem, hbar, hmoves, hsees⟩ := harrived.passed hready
      exact ⟨_, hstep.trans (congrArg Host.Outcome.next (if_pos hready)), hregs, hmem, hbar, hmoves, hsees⟩
    | false =>
      exact ⟨_, hstep.trans (congrArg Host.Outcome.next (if_neg (by rw [hready]; nofun))), harrived.awaits hgroup hready hnoted _⟩

theorem barSync_helm {i : Instr} {n : Nat} {f : Form} (hx : ∀ s, exec i s = s.barSyncStep n f) (s : State)
    (hn : n < (s.launchOf s.curGroup.wg).barsN) (hhelm : s.curHelm = true) :
    let b := s.bar s.curGroup.wg n
    let b2 := helmArrival s b
    (s.atBar n 0 = true → exec i s = .next s.advance) ∧
    (s.atBar n 0 = false → s.capturePending s.curGroup.wg = true → exec i s = .next s) ∧
    (s.atBar n 0 = false → s.capturePending s.curGroup.wg = false → Completes i s (fun t => t.regs = s.regs ∧ t.mem = s.mem ∧
      t.bar s.curGroup.wg n = settled b2 ∧
      if b2.ready then MovesOn s t ∧ Sees s t (b2.complete.done b.phase) else
        (t.helm s.curGroup.wg).pc = (s.helm s.curGroup.wg).pc ∧ (t.helm s.curGroup.wg).wait = .barrier n b.phase ∧
          n ∈ (t.helm s.curGroup.wg).arrived)) := by
  intro b b2
  have hlanes : (if s.curHelm then oneLane else s.active f).filter (fun l => !s.atBar n l) = if s.atBar n 0 then [] else oneLane := by
    rw [hhelm, if_pos rfl]
    cases h : s.atBar n 0 <;> simp [oneLane, h]
  refine ⟨fun hat => ?_, fun hat hheld => ?_, fun hat hfree => ?_⟩
  · rw [hx, State.barSyncStep, withBar_pass hn]
    dsimp only
    rw [hlanes, hat]
    rfl
  · rw [hx, State.barSyncStep, withBar_pass hn]
    dsimp only
    rw [hlanes, hat, hhelm, hheld]
    rfl
  · rw [hat] at hlanes
    obtain ⟨v, harrived, heq, hnoted⟩ := arrive_helm hhelm n oneLane
    have hstep := (hx s).trans (barSync_fresh hn hlanes (by decide) (fun _ => hfree) harrived rfl heq)
    cases hready : b2.ready with
    | true =>
      obtain ⟨hregs, hmem, hbar, hmoves, hsees⟩ := harrived.passed hready
      exact ⟨_, hstep.trans (congrArg Host.Outcome.next (if_pos hready)), hregs, hmem, hbar, hmoves, hsees⟩
    | false =>
      have hawait : ∀ p, v.awaitBar oneLane n p = v.setHelm s.curGroup.wg { v.helm s.curGroup.wg with wait := .barrier n p } := fun p => by
        have hv := (curHelm_congr harrived.cur).trans hhelm
        rw [State.awaitBar, if_pos hv, State.waitAt, if_pos hv, curGroup_congr harrived.cur]
      refine ⟨_, hstep.trans (congrArg Host.Outcome.next ((if_neg (by rw [hready]; nofun)).trans (hawait _))), harrived.regs, harrived.mem, ?_, ?_⟩
      · exact harrived.own.trans (if_neg (by rw [show (helmArrival s b).ready = false from hready]; nofun)).symm
      · rw [if_neg Bool.false_ne_true, helm_setHelm_same, hnoted]
        exact ⟨rfl, rfl, List.mem_cons_self⟩

theorem barSync_results {i : Instr} {n : Nat} {f : Form} (hx : ∀ s, exec i s = s.barSyncStep n f) (s : State)
    (hn : n < (s.launchOf s.curGroup.wg).barsN) :
    let b := s.bar s.curGroup.wg n
    let fresh := (s.active f).filter (fun l => !s.atBar n l)
    let b1 := { b with arrived := b.arrived + BitVec.ofNat 11 fresh.length }
    let b2 := helmArrival s b
    (s.curHelm = false → Bundle s → fresh = [] → exec i s = .next s.advance) ∧
    (s.curHelm = false → Bundle s → fresh ≠ [] → Completes i s (fun t => t.regs = s.regs ∧ t.mem = s.mem ∧ t.bar s.curGroup.wg n = settled b1 ∧
      if b1.ready then MovesOn s t ∧ Sees s t (b1.complete.done b.phase) else
        ∀ l ∈ s.curLanes, let x := t.thread (s.curThread l)
          if l ∈ fresh then x.pc = s.curPc ∧ x.wait = .barrier n b.phase ∧ n ∈ x.arrived
          else x.pc = s.curPc + BitVec.ofNat 64 s.curLen ∧ x.wait = .none)) ∧
    (s.curHelm = true → s.atBar n 0 = true → exec i s = .next s.advance) ∧
    (s.curHelm = true → s.atBar n 0 = false → s.capturePending s.curGroup.wg = true → exec i s = .next s) ∧
    (s.curHelm = true → s.atBar n 0 = false → s.capturePending s.curGroup.wg = false → Completes i s (fun t => t.regs = s.regs ∧ t.mem = s.mem ∧
      t.bar s.curGroup.wg n = settled b2 ∧
      if b2.ready then MovesOn s t ∧ Sees s t (b2.complete.done b.phase) else
        (t.helm s.curGroup.wg).pc = (s.helm s.curGroup.wg).pc ∧ (t.helm s.curGroup.wg).wait = .barrier n b.phase ∧
          n ∈ (t.helm s.curGroup.wg).arrived)) := by
  intro b fresh b1 b2
  refine ⟨fun hgroup _ => ?_, fun hgroup _ => ?_, fun hhelm => ?_, fun hhelm => ?_, fun hhelm => ?_⟩
  · exact (barSync_group hx s hn hgroup).1
  · exact (barSync_group hx s hn hgroup).2
  · exact (barSync_helm hx s hn hhelm).1
  · exact (barSync_helm hx s hn hhelm).2.1
  · exact (barSync_helm hx s hn hhelm).2.2

/-- Settles O25: an arrival sets a barrier and settles it, who passes a phase learns of what it made visible, and nothing but
waits, arrivals, FLAGS and what parties know changes with a phase that completes. -/
theorem barrierResults : Obligations.BarrierResults := by
  unfold Obligations.BarrierResults
  refine ⟨⟨?_, ?_, ?_, ?_, fun b => ?_⟩, ?_, ?_, ?_, ?_⟩
  · intro w s _ hn hread hpos hmax
    exact barInit_results (fun _ => rfl) s hn hread hpos hmax
  · intro w s _ hn hread hpos hmax
    exact barInit_results (fun _ => rfl) s hn hread hpos hmax
  · intro w s hn
    exact barArrive_results (fun _ => rfl) s hn
  · intro w s hn
    exact barArrive_results (fun _ => rfl) s hn
  · exact ⟨ready_iff b, rfl, rfl, complete_expect b, rfl, rfl, rfl, rfl, rfl, complete_other_parity b, mem_complete_ops b, complete_flags b⟩
  · intro w s _ hn
    exact barWait_results (fun _ => rfl) s hn
  · intro w s _ hn
    exact barWait_results (fun _ => rfl) s hn
  · intro w s hn
    exact barSync_results (fun _ => rfl) s hn
  · intro w s hn
    exact barSync_results (fun _ => rfl) s hn

end Sys2Proof.Proofs
end

section
/-! Waits on operation counters, and semaphores (R136, R183, R187, R389, R398). -/

namespace Sys2Proof.Proofs

open Sys2Proof Sys2Proof.Machine Sys2Proof.Laws

/-! ## wait (R136, R389) -/

/-- Whether an operation is a finished one of the issuer's of a class, which `wait` takes in. -/
def learnable (s : State) (c : OpClass) (o : AsyncOp) : Bool := s.curOwns o && o.cls == c && o.done && !o.kind.isPush

theorem learnDone_eq (s : State) (c : OpClass) : s.learnDone c =
    { learnOps s ((s.ops.filter (learnable s c)).map (·.id)) s.curParty with ops := s.ops.filter (fun o => !learnable s c o) } := by
  have hfold : (s.ops.filter (learnable s c)).foldl (fun t o => t.learn (.operation o.id) s.curParty) s =
      learnOps s ((s.ops.filter (learnable s c)).map (·.id)) s.curParty := by rw [learnOps, List.foldl_map]
  have hops : ((s.ops.filter (learnable s c)).foldl (fun t o => t.learn (.operation o.id) s.curParty) s).ops = s.ops := by
    rw [hfold, learnOps_frame]
  show ({ (s.ops.filter (learnable s c)).foldl (fun t o => t.learn (.operation o.id) s.curParty) s with
    ops := ((s.ops.filter (learnable s c)).foldl (fun t o => t.learn (.operation o.id) s.curParty) s).ops.filter (fun o => !learnable s c o) } : State) = _
  rw [hops, hfold]

theorem wait_results {i : Instr} {c : OpClass} {n : Nat} (hx : ∀ s, exec i s = s.waitStep c n) (s : State) (hn : n ≤ 63) :
    Completes i s (fun t => if s.curCtr c ≤ n then
        MovesOn s t ∧ t.regs = s.regs ∧ t.mem = s.mem ∧
        (∀ o ∈ s.ops, s.curOwns o = true → o.cls = c → o.done = true → o.kind.isPush = false →
          o ∉ t.ops ∧ ∀ e ∈ s.hist, .operation o.id ∈ e.owners → e.seq ≤ t.floorOf s.curParty e.addr) ∧
        ∀ o ∈ s.ops, (s.curOwns o = false ∨ o.cls ≠ c ∨ o.done = false ∨ o.kind.isPush = true) → o ∈ t.ops
      else WaitsAt s t (.counter c n)) := by
  have hstep : exec i s = if s.curCtr c ≤ n then .next (s.learnDone c).advance else .next (s.waitAt (.counter c n)) := (hx s).trans (if_neg (by omega))
  by_cases hle : s.curCtr c ≤ n
  · refine ⟨_, hstep.trans (if_pos hle), (if_pos hle).mpr ?_⟩
    have hops : (s.learnDone c).advance.ops = s.ops.filter (fun o => !learnable s c o) := by rw [advance_frame, learnDone_eq]
    have hframe := learnOps_frame s ((s.ops.filter (learnable s c)).map (·.id)) s.curParty
    refine ⟨movesOn_moved (by rw [learnDone_eq, hframe]), ?_, ?_, fun o ho howned hcls hdone hpush => ⟨?_, fun e he howner => ?_⟩, fun o ho hnot => ?_⟩
    · rw [advance_regs, learnDone_eq, hframe]
    · rw [advance_mem, learnDone_eq, hframe]
    · rw [hops, List.mem_filter]
      simp [learnable, howned, hcls, hdone, hpush]
    · have hmem : o.id ∈ (s.ops.filter (learnable s c)).map (·.id) :=
        List.mem_map_of_mem (List.mem_filter.2 ⟨ho, by simp [learnable, howned, hcls, hdone, hpush]⟩)
      have hknows := knows_learnOps (who := s.curParty) hmem (⟨e, he, rfl, rfl, howner⟩ : Knows s (.operation o.id) e)
      exact (hknows.grows (t := (s.learnDone c).advance) (HistGrows.trans (.of_eq (by rw [learnDone_eq])) (histGrows_advance _))).le_floorOf
    · rw [hops, List.mem_filter]
      refine ⟨ho, ?_⟩
      rcases hnot with h | h | h | h <;> simp [learnable, h]
  · exact ⟨_, hstep.trans (if_neg hle), (if_neg hle).mpr (waitsAt_waitAt s _)⟩

/-! ## Semaphores (R183, R398) -/

theorem groupPlace_eq {s : State} (hgroup : s.curHelm = false) : s.groupPlace s.curGroup = s.curPlace := by
  rw [State.groupPlace, State.curPlace, State.curParty, if_neg (by rw [hgroup]; nofun)]

/-- What a semaphore instruction comes to where its operands are ready and its index is below SEM_COUNT. -/
theorem semStep_ready {s : State} {a : Src} {b : List Opnd} {dsts : List Src} (hgroup : s.curHelm = false)
    (hread : BundleReads s (a :: (b.filter (fun o => o.src.isReg)).map (·.src)) dsts) {n : Nat}
    (hn : s.semIndex (s.ctxOf s.curGroup.wg) (s.srcBits 0 a).toNat = some n) (go : State → Nat → Out) : s.semStep a b dsts go = go s n := by
  have hready := withUni_ready (srcs := { opnd := 0, src := a } :: b.filter (fun o => o.src.isReg)) hgroup hread
  rw [State.semStep, hready]
  simp only [hn]

/-- The registers that a semaphore's value operand names. -/
theorem valueRegs_eq (b : Src) : ([({ opnd := 1, src := b } : Opnd)].filter (fun o => o.src.isReg)).map (·.src) = if b.isReg then [b] else [] := by
  cases h : b.isReg <;> simp [h]

theorem sem_setSem (s : State) (n m : Nat) (v : Word) : (s.setSem n v).sem m = if m = n then v else s.sem m := getD_set _ _ _ _ _

theorem semSignal_results {i : Instr} {a b : Src} (hx : ∀ s, exec i s = s.semSignalStep a b) (s : State) (n : Nat) (hgroup : s.curHelm = false)
    (hread : BundleReads s (a :: if b.isReg then [b] else []) []) (hn : s.semIndex (s.ctxOf s.curGroup.wg) (s.srcBits 0 a).toNat = some n)
    (hfree : s.relWaits true = false) :
    Completes i s (fun t => t = State.advance { s with hist := pubHist s.hist .sys s.curPlace, sems := t.sems } ∧
      ∀ m, t.sem m = if m = n then s.sem n + s.semValue b else s.sem m) := by
  rw [← valueRegs_eq] at hread
  have hpub : s.relPub true .sys = { s with hist := pubHist s.hist .sys s.curPlace } := by
    show s.pub .sys (s.groupPlace s.curGroup) = _
    rw [groupPlace_eq hgroup]
    rfl
  refine ⟨_, (hx s).trans ((semStep_ready hgroup hread hn _).trans (if_neg (by rw [hfree]; nofun))), ?_, fun m => ?_⟩
  · rw [hpub]
    have hsems (u : State) : u.advance.sems = u.sems := by rw [advance_frame u]
    rw [hsems]
    rfl
  · rw [hpub]
    have hsems (u : State) : u.advance.sem m = u.sem m := by rw [advance_frame u]; rfl
    exact (hsems _).trans (sem_setSem ..)

theorem semAwait_results {i : Instr} {a b : Src} (hx : ∀ s, exec i s = s.semAwaitStep a b) (s : State) (n : Nat) (hgroup : s.curHelm = false)
    (hread : BundleReads s (a :: if b.isReg then [b] else []) []) (hn : s.semIndex (s.ctxOf s.curGroup.wg) (s.srcBits 0 a).toNat = some n)
    (hfree : s.pubPending s.curGroup = false) :
    Completes i s (fun t => if (s.semValue b).toNat ≤ (s.sem n).toNat then t = (s.pull .sys s.curPlace).advance
      else WaitsAt s t (.semaphore n (s.semValue b))) := by
  rw [← valueRegs_eq] at hread
  have hstep := (hx s).trans ((semStep_ready hgroup hread hn _).trans (if_neg (by rw [hfree]; nofun)))
  by_cases hle : (s.semValue b).toNat ≤ (s.sem n).toNat
  · exact ⟨_, hstep.trans (if_pos hle), (if_pos hle).mpr rfl⟩
  · exact ⟨_, hstep.trans (if_neg hle), (if_neg hle).mpr (waitsAt_waitAt s _)⟩

theorem semRead_results {i : Instr} {d a : Src} (hx : ∀ s, exec i s = s.semReadStep d a) (s : State) (n : Nat) (k : RegKey) (hgroup : s.curHelm = false)
    (hread : BundleReads s [a] [d]) (hn : s.semIndex (s.ctxOf s.curGroup.wg) (s.srcBits 0 a).toNat = some n)
    (hfree : s.pubPending s.curGroup = false) (hk : s.srcKey 0 d = some k) :
    Completes i s (fun t => t = { s.advance with regs := t.regs } ∧ t.reg k = { bits := s.sem n, tag := 1, full := true } ∧
      ∀ x, x ≠ k → t.reg x = s.reg x) := by
  have hstep : exec i s = .next (s.putReg k 1 (s.sem n)).advance := by
    refine (hx s).trans ((semStep_ready (b := []) hgroup hread hn _).trans ((if_neg (by rw [hfree]; nofun)).trans ?_))
    rw [hk]
  have hreg (x : RegKey) : (s.putReg k 1 (s.sem n)).advance.reg x = if x = k then { bits := s.sem n, tag := 1, full := true } else s.reg x := by
    rw [← reg_putReg, State.reg, advance_regs, State.reg]
  refine ⟨_, hstep, ?_, (hreg k).trans (if_pos rfl), fun x hx => (hreg x).trans (if_neg hx)⟩
  rw [advance_regs, advance_like (s := s) (t := s.putReg k 1 (s.sem n)) rfl rfl rfl rfl]
  conv_rhs => rw [advance_frame s]
  rfl

/-- Settles O26: each instruction is its common step, whose outcome the lemmas above state; learning reads the history of before. -/
theorem counterWaitAndSemaphoreResults : Obligations.CounterWaitAndSemaphoreResults := by
  unfold Obligations.CounterWaitAndSemaphoreResults
  exact ⟨⟨fun f w s _ => wait_results (fun _ => rfl) s, fun f w s _ => wait_results (fun _ => rfl) s⟩,
    fun w s n hgroup _ => semSignal_results (fun _ => rfl) s n hgroup, fun w s n hgroup _ => semSignal_results (fun _ => rfl) s n hgroup,
    fun w s n hgroup _ => semAwait_results (fun _ => rfl) s n hgroup, fun w s n hgroup _ => semAwait_results (fun _ => rfl) s n hgroup,
    fun w s n k hgroup _ => semRead_results (fun _ => rfl) s n k hgroup, fun w s n k hgroup _ => semRead_results (fun _ => rfl) s n k hgroup⟩

end Sys2Proof.Proofs
end

section
/-! Engine issues: what an operation handed to an engine leaves, and the copies, gathers, sorts and chains (R136, R140, R390 to R396). -/

namespace Sys2Proof.Proofs

open Sys2Proof Sys2Proof.Machine Sys2Proof.Laws

/-! ## Counters and kept records -/

theorem counters_get_set_apart (c : Counters) {j k : OpClass} (v : BitVec 6) (h : j ≠ k) : (c.set k v).get j = c.get j := by
  cases j <;> cases k <;> simp_all [Counters.get, Counters.set]

/-- A counter depends on the issuer and its group alone. -/
theorem curCtr_congr {s t : State} (hgroup : s.curHelm = false) (hcur : t.cur = s.cur)
    (hctr : (t.group s.curGroup).ctr = (s.group s.curGroup).ctr) (c : OpClass) : t.curCtr c = s.curCtr c := by
  rw [curCtr_of_group ((curHelm_congr hcur).trans hgroup), curCtr_of_group hgroup, curGroup_congr hcur, hctr]

theorem curCtr_raiseCtr_apart {s : State} (hgroup : s.curHelm = false) {c k : OpClass} (h : k ≠ c) : (s.raiseCtr c).curCtr k = s.curCtr k := by
  have hcur : (s.raiseCtr c).cur = s.cur := by rw [raiseCtr_of_group hgroup]; rfl
  rw [curCtr_of_group ((curHelm_congr hcur).trans hgroup), curCtr_of_group hgroup, curGroup_congr hcur, raiseCtr_of_group hgroup,
    group_setGroup_same, counters_get_set_apart _ _ h]

theorem dropRecs_ctr (s : State) (c : OpClass) : s.dropRecs.curCtr c = s.curCtr c := by
  have hcur : s.dropRecs.cur = s.cur := rfl
  rw [State.curCtr, State.curCtr, curHelm_congr hcur, curGroup_congr hcur, State.dropRecs, group_setGroup_same]
  rfl

theorem keepRecs_kept (s : State) (recs : List (List Byte)) : (s.keepRecs recs).keptRecs = some recs := by
  have hgroup : (s.keepRecs recs).curGroup = s.curGroup := rfl
  have hpc : (s.keepRecs recs).curPc = s.curPc := rfl
  rw [State.keptRecs, hgroup, hpc, State.keepRecs, group_setGroup_same]
  exact find_set_same ..

theorem Loads.groups {s t : State} (h : Loads s t) : t.groups = s.groups := by rw [h.accesses]

theorem Loads.curCtr {s t : State} (h : Loads s t) (c : OpClass) : t.curCtr c = s.curCtr c := by
  rw [State.curCtr, State.curCtr, curHelm_congr h.cur, curGroup_congr h.cur, State.group, h.groups, State.helm, h.accesses]
  rfl

theorem curPriv_congr {s t : State} (hcur : t.cur = s.cur) (hthreads : t.threads = s.threads) : t.curPriv = s.curPriv := by
  simp only [State.curPriv, hcur, State.thread, hthreads]

/-! ## An operation handed to an engine (R390) -/

section
variable {u : State} (hgroup : u.curHelm = false) (c : OpClass) (kind : OpKind) (bar : Option Nat) (tx : Nat) (dst : List Span)
include hgroup

/-- The operation that an issue lists. -/
theorem issueOp_ops : ∃ o : AsyncOp, (u.issueOp c kind bar tx dst).ops = u.ops ++ [o] ∧ o.id = u.nextId ∧ o.wg = u.curGroup.wg ∧
    o.grp = some u.curGroup.grp ∧ o.lane = u.curLanes.head? ∧ o.cls = c ∧ o.kind = kind ∧ o.bar = bar ∧ o.tx = tx ∧
    o.lines = u.linesOf u.curGroup.wg dst ∧ o.priv = u.curPriv ∧ o.seq = u.writeSeq ∧ o.done = false ∧ o.held = false := by
  have hpick {α : Type} (x y : α) : (if u.curHelm then x else y) = y := if_neg (by rw [hgroup]; nofun)
  unfold State.issueOp
  rw [raiseCtr_of_group hgroup]
  cases bar <;> exact ⟨_, rfl, rfl, rfl, hpick none _, hpick none _, rfl, rfl, rfl, rfl, rfl, rfl, rfl, rfl, rfl⟩

theorem issueOp_frame : u.issueOp c kind bar tx dst = { u with
    groups := (u.raiseCtr c).groups
    wgs := (match bar with | some n => u.addTx u.curGroup.wg n tx u.nextId | none => u).wgs
    ops := (u.issueOp c kind bar tx dst).ops
    nextId := u.nextId + 1
    emptyLines := u.linesOf u.curGroup.wg dst ++ u.emptyLines } := by
  unfold State.issueOp
  rw [raiseCtr_of_group hgroup]
  cases bar <;> rfl

theorem issueOp_cur : (u.issueOp c kind bar tx dst).cur = u.cur := by rw [issueOp_frame hgroup]

theorem issueOp_ctr (k : OpClass) : (u.issueOp c kind bar tx dst).curCtr k = (u.raiseCtr c).curCtr k := by
  have hraised : (u.raiseCtr c).cur = u.cur := by rw [raiseCtr_of_group hgroup]; rfl
  refine curCtr_congr ((curHelm_congr hraised).trans hgroup) ((issueOp_cur hgroup ..).trans hraised.symm) ?_ k
  rw [issueOp_frame hgroup]
  rfl

end

/-- What the issuer finds once the operation is entered and it has moved on. -/
theorem issuesOp_advance {s u : State} (hgroup : s.curHelm = false) (hcur : u.cur = s.cur) (hthreads : u.threads = s.threads) (hregs : u.regs = s.regs)
    {c : OpClass} (hctr : ∀ k, u.curCtr k = s.curCtr k) (hlt : s.curCtr c < 63) (kind : OpKind) (bar : Option Nat) (tx : Nat) (dst : List Span) :
    IssuesOp s u (u.issueOp c kind bar tx dst).advance c kind bar tx (u.linesOf s.curGroup.wg dst) := by
  have hugroup : u.curHelm = false := (curHelm_congr hcur).trans hgroup
  have hops := issueOp_ops hugroup c kind bar tx dst
  have hframe := issueOp_frame hugroup c kind bar tx dst
  have hvcur := issueOp_cur hugroup c kind bar tx dst
  have hvctr := issueOp_ctr hugroup c kind bar tx dst
  rw [curGroup_congr hcur, curLanes_congr hcur, curPriv_congr hcur hthreads] at hops
  rw [curGroup_congr hcur] at hframe
  generalize u.issueOp c kind bar tx dst = v at hops hframe hvcur hvctr
  have hcount (k : OpClass) : v.advance.curCtr k = (u.raiseCtr c).curCtr k :=
    (curCtr_advance ((curHelm_congr hvcur).trans hugroup) k).trans (hvctr k)
  have hadvance : v.advance.ops = v.ops ∧ v.advance.nextId = v.nextId ∧ v.advance.emptyLines = v.emptyLines ∧ v.advance.wgs = v.wgs := by
    rw [advance_frame v]
    exact ⟨rfl, rfl, rfl, rfl⟩
  obtain ⟨haops, haid, halines, hawgs⟩ := hadvance
  refine ⟨haops ▸ hops, ?_, ?_, fun k hk => ?_, ?_, ?_, ?_, ?_, movesOn_advance hgroup (hvcur.trans hcur) ?_⟩
  · rw [haid, hframe]
  · rw [hcount, curCtr_raiseCtr hugroup (by rw [hctr]; exact hlt), hctr]
  · rw [hcount, curCtr_raiseCtr_apart hugroup hk, hctr]
  · rw [halines, hframe]
  · cases bar with
    | none => exact hawgs.trans (by rw [hframe])
    | some n =>
      show v.advance.bar s.curGroup.wg n = _
      rw [bar_congr hawgs, hframe]
      exact (bar_setBar ..).trans (if_pos ⟨rfl, rfl⟩)
  · rw [advance_regs, hframe]
    exact hregs
  · rw [advance_mem, hframe]
  · rw [hframe]
    exact hthreads

/-! ## The attempt to hand one (R377, R390) -/

/-- What an issue comes to once its operation is made, or the making has trapped. -/
def engineMade (o : Except State State) : Out :=
  match o with
  | .ok u => .next u.advance
  | .error u => .next u

section
variable {s r : State} {c : OpClass} {next : List (List Byte) → NextRec} {recs : List (List Byte)}
  {check : State → List (List Byte) → Check × Word} (hpub : s.pubPending s.curGroup = false) (hkept : s.keptRecs = none)
  (hread : s.readRecords next [] 40 = .got recs r) (hok : (check r recs).1 = .ok)
include hpub hkept hread hok

theorem engineTry_makes {need : Nat} (hroom : s.curCtr c + need ≤ 63) (make : State → List (List Byte) → Except State State) :
    s.engineTry c need next check make = engineMade (make r.dropRecs recs) := by
  rw [State.engineTry, if_neg (by rw [hpub]; nofun)]
  simp only [hkept, hread, hok, (loads_readRecords hread).curCtr, ne_eq, not_true_eq_false, if_false, Nat.not_lt.2 hroom]
  rfl

theorem engineTry_full {need : Nat} (hfull : 63 < s.curCtr c + need) (make : State → List (List Byte) → Except State State) :
    s.engineTry c need next check make = .next (r.keepRecs recs) := by
  rw [State.engineTry, if_neg (by rw [hpub]; nofun)]
  simp only [hkept, hread, hok, (loads_readRecords hread).curCtr, ne_eq, not_true_eq_false, if_false, hfull, if_true]

end

/-- An engine issue of one operation: accepted records make it while its counter has room, and stay at a full one. -/
theorem issues_of_engine {i : Instr} {c : OpClass} {srcs : List Src} {ready : State → Prop} {records : State → List (List Byte) → NextRec}
    {accepts : State → State → List (List Byte) → Prop} {op : State → State → List (List Byte) → OpKind × Option Nat × Nat × List Nat}
    (h : ∀ s r recs, s.curHelm = false → BundleReads s srcs [] → ready s → r.cur = s.cur → accepts s r recs → ∃ check make dst,
      exec i s = s.engineIssue c 1 (records s) check make ∧ (check r recs).1 = .ok ∧
      make r.dropRecs recs = r.dropRecs.issueOp c (op s r recs).1 (op s r recs).2.1 (op s r recs).2.2.1 dst ∧
      r.linesOf s.curGroup.wg dst = (op s r recs).2.2.2) :
    Issues i c srcs ready records accepts op := by
  intro s r recs hgroup _ hreads hready hpub hkept hread haccepts
  have hloads := loads_readRecords hread
  obtain ⟨check, make, dst, hexec, hok, hmade, hlines⟩ := h s r recs hgroup hreads hready hloads.cur haccepts
  refine ⟨fun hlt => ⟨_, hexec.trans (engineTry_makes hpub hkept hread hok (by omega) _), ?_⟩,
    fun hfull => ⟨_, hexec.trans (engineTry_full hpub hkept hread hok (by omega) _), rfl, hloads.regs, rfl, hloads.threads, keepRecs_kept r recs⟩⟩
  rw [hmade, ← hlines]
  exact issuesOp_advance (u := r.dropRecs) hgroup hloads.cur hloads.threads hloads.regs (fun k => (dropRecs_ctr r k).trans (hloads.curCtr k)) hlt _ _ _ dst

/-! ## Translation does not read the groups (R192, R217) -/

/-- A state with other groups. -/
def regroup (m : FMap GroupId Group) (s : State) : State := { s with groups := m }

section
variable (m : FMap GroupId Group) (s : State)

theorem eccRead_regroup (array entry : Nat) (addr : Word) (ctx : Nat) :
    (regroup m s).eccRead array entry addr ctx = ((s.eccRead array entry addr ctx).1, regroup m (s.eccRead array entry addr ctx).2) := by
  have hinjs : (regroup m s).errInjs = s.errInjs := rfl
  unfold State.eccRead
  rw [hinjs]
  cases FMap.find s.errInjs array with
  | none => rfl
  | some i =>
    dsimp only
    split_ifs <;> rfl

theorem eccWord_regroup (a ctx : Nat) : (regroup m s).eccWord a ctx = ((s.eccWord a ctx).1, regroup m (s.eccWord a ctx).2) := by
  have hslice : (regroup m s).eccSlice a ctx = ((s.eccSlice a ctx).1, regroup m (s.eccSlice a ctx).2) := by
    unfold State.eccSlice
    split_ifs
    · exact eccRead_regroup ..
    · rfl
  have hstored (t : State) : (regroup m t).eccStored a ctx = ((t.eccStored a ctx).1, regroup m (t.eccStored a ctx).2) := by
    unfold State.eccStored
    cases arrayOf a with
    | none => rfl
    | some x => exact eccRead_regroup ..
  simp only [State.eccWord, hslice, hstored]

theorem entryUsed_regroup (ctx va level ea : Nat) (k : AccKind) : (regroup m s).entryUsed ctx va level ea k =
    ((s.entryUsed ctx va level ea k).1, regroup m (s.entryUsed ctx va level ea k).2) := by
  have holder : (regroup m s).olderEntries ctx va level ea k = s.olderEntries ctx va level ea k := rfl
  unfold State.entryUsed
  rw [holder]
  split
  · rfl
  · next older _ =>
    have hchoice (n : Nat) : ((regroup m s).choose n).1 = (s.choose n).1 := rfl
    dsimp only
    rw [hchoice]
    split <;> rfl

theorem walk_regroup (ctx va : Nat) (k : AccKind) (priv : Bool) (tier frame level fuel : Nat) :
    (regroup m s).walk ctx va k priv tier frame level fuel =
      ((s.walk ctx va k priv tier frame level fuel).1, regroup m (s.walk ctx va k priv tier frame level fuel).2) := by
  induction fuel generalizing s tier frame level with
  | zero => rfl
  | succ fuel ih =>
    have hpoison (t : State) (a : Nat) : (regroup m t).isPoisoned a = t.isPoisoned a := rfl
    rw [State.walk, State.walk, eccWord_regroup]
    dsimp only
    rw [hpoison, entryUsed_regroup]
    generalize s.eccWord (frameAt tier frame + 8 * levelIndex va level) ctx = w
    generalize w.2.entryUsed ctx va level (frameAt tier frame + 8 * levelIndex va level) k = r
    dsimp only
    split
    · rfl
    split
    · rfl
    split
    · rfl
    split
    · rfl
    split
    · cases permFault r.1 k priv <;> rfl
    · exact ih _ _ _ _

theorem translate_regroup (ctx va : Nat) (k : AccKind) (priv : Bool) : (regroup m s).translate ctx va k priv =
    ((s.translate ctx va k priv).1, regroup m (s.translate ctx va k priv).2) := by
  have hroot : (regroup m s).rootUsed ctx va = ((s.rootUsed ctx va).1, regroup m (s.rootUsed ctx va).2) := by
    have holder : (regroup m s).olderRoots ctx va = s.olderRoots ctx va := rfl
    unfold State.rootUsed
    rw [holder]
    split <;> rfl
  unfold State.translate
  rw [hroot]
  dsimp only
  split
  · rfl
  · exact walk_regroup ..

/-- The page that a translation finds. -/
def pageFound (va : Nat) (o : Except TFault Leaf × State) : Option (Nat × Leaf) :=
  match o with
  | (.ok x, _) => some (va, x)
  | (.error _, _) => none

/-- The sixteen pages of a leaf's group, where they are one. -/
def pagesGrouped (l : Leaf) (ps : List (Nat × Leaf)) : Option (List (Nat × Leaf)) :=
  let first := match ps with | (_, x) :: _ => x.frame | [] => 0
  if ps.length = 16 ∧ first % 16 = 0
      ∧ (ps.zip (List.range 16)).all (fun x => x.1.2.level == 4 && groupBits x.1.2.entry == groupBits l.entry && x.1.2.frame == first + x.2)
  then some ps else none

theorem groupPages_eq (ctx va : Nat) (l : Leaf) : s.groupPages ctx va l =
    pagesGrouped l ((List.range 16).filterMap (fun i =>
      pageFound (va / 65536 * 65536 + 4096 * i) (s.translate ctx (va / 65536 * 65536 + 4096 * i) .probe true))) := rfl

theorem groupPages_regroup (ctx va : Nat) (l : Leaf) : (regroup m s).groupPages ctx va l = s.groupPages ctx va l := by
  have hfound (v : Nat) (o : Except TFault Leaf × State) : pageFound v (o.1, regroup m o.2) = pageFound v o := by
    obtain ⟨_ | _, _⟩ := o <;> rfl
  simp only [groupPages_eq, translate_regroup, hfound]

theorem migrateBytes_regroup (ctx : Nat) (src : List Byte) : (regroup m s).migrateBytes ctx src = s.migrateBytes ctx src := by
  unfold State.migrateBytes
  rw [translate_regroup]
  obtain ⟨_ | l, t⟩ := s.translate ctx (Layout.ofBytes src).base.toNat .probe true
  · rfl
  · simp only [State.leafSize, groupPages_regroup]

end

theorem migrateBytes_dropRecs (s : State) (ctx : Nat) (src : List Byte) : s.dropRecs.migrateBytes ctx src = s.migrateBytes ctx src :=
  migrateBytes_regroup ..

/-! ## The statements (R391 to R396) -/

theorem operands_eq (c : Src) (n : Nat) : (if c.isReg then [({ opnd := n, src := c } : Opnd)] else []).map (·.src) = if c.isReg then [c] else [] := by
  cases c.isReg <;> rfl

/-- Settles O27: a copy with its operands and its barrier ready is an engine issue of the operation it names. -/
theorem copyIssueResults : Obligations.CopyIssueResults := by
  unfold Obligations.CopyIssueResults
  intro copies both
  have hcopies {i : Instr} {op : Nat} {a b c : Src} {d : Nat} (hx : ∀ s, exec i s = s.copyIssue op a b c d) : copies i op a b c d := by
    refine issues_of_engine fun s r recs hgroup hreads ⟨hpriv, hbar⟩ hcur haccepts => ?_
    have hsrcs : List.map (·.src) ([({ opnd := 0, src := a } : Opnd), { opnd := 1, src := b }] ++ if c.isReg then [{ opnd := 2, src := c }] else []) =
        a :: b :: if c.isReg then [c] else [] := by rw [List.map_append, operands_eq]; rfl
    have hexec := hx s
    rw [State.copyIssue, withBarD_field hbar, if_neg (by rintro ⟨h6, huser⟩; rw [hpriv h6] at huser; simp at huser),
      withUni_ready hgroup (by rw [hsrcs]; exact hreads)] at hexec
    by_cases h6 : op = 6
    · simp only [h6, if_true] at hexec haccepts ⊢
      refine ⟨_, _, [], hexec, haccepts, ?_, rfl⟩
      rw [migrateBytes_dropRecs, ← curGroup_congr hcur]
      rfl
    · simp only [h6, if_false] at hexec haccepts ⊢
      exact ⟨_, _, _, hexec, haccepts, rfl, rfl⟩
  have hboth {c32 : R32 → Instr} {c64 : R64 → Instr} {op : Nat} (h32 : ∀ w s, exec (c32 w) s = s.copyIssue op (uniA w) (uniB w) .none w.d.toNat)
      (h64 : ∀ w s, exec (c64 w) s = s.copyIssue op (form64 w false).a (form64 w false).b (optC w) (form64 w false).d) : both c32 c64 op :=
    ⟨fun w => hcopies (h32 w), fun w => hcopies (h64 w)⟩
  clear_value copies
  exact ⟨hboth (fun _ _ => rfl) (fun _ _ => rfl), hboth (fun _ _ => rfl) (fun _ _ => rfl), hboth (fun _ _ => rfl) (fun _ _ => rfl),
    hboth (fun _ _ => rfl) (fun _ _ => rfl), hboth (fun _ _ => rfl) (fun _ _ => rfl), hboth (fun _ _ => rfl) (fun _ _ => rfl),
    hboth (fun _ _ => rfl) (fun _ _ => rfl)⟩

/-- Settles O28: each function's record accepted is an engine issue of the operation that the record describes. -/
theorem gatherSortChainIssueResults : Obligations.GatherSortChainIssueResults := by
  unfold Obligations.GatherSortChainIssueResults
  intro gathers scatters sorts chains
  have hgathers {i : Instr} {a : Src} {d : Nat} (hx : ∀ s, exec i s = s.gatherIssue false a d) : gathers i a d :=
    issues_of_engine fun s r recs hgroup hreads hbar _ haccepts => ⟨_, _, _, by
      rw [hx, State.gatherIssue, withBarD_field hbar, withUni_ready (srcs := [{ opnd := 0, src := a }]) hgroup hreads], haccepts, rfl, rfl⟩
  have hscatters {i : Instr} {a : Src} (hx : ∀ s, exec i s = s.gatherIssue true a 0) : scatters i a :=
    issues_of_engine fun s r recs hgroup hreads _ _ haccepts => ⟨_, _, [], by
      rw [hx, State.gatherIssue, withBarD_field (Nat.zero_le _), withUni_ready (srcs := [{ opnd := 0, src := a }]) hgroup hreads], haccepts, rfl, rfl⟩
  have hsorts {i : Instr} {a : Src} (hx : ∀ s, exec i s = s.sortIssue a) : sorts i a :=
    issues_of_engine fun s r recs hgroup hreads _ _ ⟨hind, hzero, hcheck⟩ => ⟨_, _, [], by
      rw [hx, State.sortIssue, withUni_ready (srcs := [{ opnd := 0, src := a }]) hgroup hreads], by
      dsimp only
      rw [hind, hzero, hcheck]
      rfl, rfl, rfl⟩
  have hchains {i : Instr} {a c : Src} {d : Nat} (hx : ∀ s, exec i s = s.chainIssue a c d) : chains i a c d := by
    refine issues_of_engine fun s r recs hgroup hreads hbar _ haccepts => ?_
    have hsrcs : List.map (·.src) ([({ opnd := 0, src := a } : Opnd)] ++ if c.isReg then [{ opnd := 2, src := c }] else []) =
        a :: if c.isReg then [c] else [] := by rw [List.map_append, operands_eq]; rfl
    exact ⟨_, _, _, by rw [hx, State.chainIssue, withBarD_field hbar, withUni_ready hgroup (by rw [hsrcs]; exact hreads)], haccepts, rfl, rfl⟩
  clear_value gathers scatters sorts chains
  exact ⟨fun w => hgathers fun _ => rfl, fun w => hgathers fun _ => rfl, fun w => hscatters fun _ => rfl, fun w => hscatters fun _ => rfl,
    fun w => hsorts fun _ => rfl, fun w => hsorts fun _ => rfl, fun w => hchains fun _ => rfl, fun w => hchains fun _ => rfl⟩

/-! ## coll (R226, R394) -/

theorem accesses_takeSeq (s : State) (r : Req) (comm : Word) : Accesses s (s.takeSeq r comm).2 := by
  have hresolve := accesses_resolve s r spGeneric (comm + 24) 8 .atomic
  unfold State.takeSeq
  dsimp only
  split <;> rename_i heq <;> rw [heq] at hresolve
  · exact hresolve
  · rename_i p t
    have hread := (hresolve.trans (accesses_touchSpot t p true)).trans (accesses_readLoc (t.touchSpot p true) r .now p.loc 8)
    split <;> rename_i heq' <;> rw [heq'] at hread
    · exact hread
    · exact hread.trans (accesses_performLoc ..)

theorem coll_issues {i : Instr} {a : Src} (hx : ∀ s, exec i s = s.collIssue a) {s r u : State} {recs : List (List Byte)} {n : Nat}
    (hgroup : s.curHelm = false) (hreads : BundleReads s [a] []) (hpub : s.pubPending s.curGroup = false) (hkept : s.keptRecs = none)
    (hread : s.readRecords (collRecords (s.srcBits 0 a)) [] 40 = .got recs r) (hzero : zeroIn (recs.getD 0 []) 32 48 = true)
    (hcheck : r.collCheck r.bundleReq false (recs.getD 0 []) (recs.getD 1 []) (recs.getD 2 []) = .ok)
    (hseq : r.dropRecs.takeSeq r.bundleReq (CollBody.ofBytes (recs.getD 0 [])).comm = (.ok n, u)) (hlt : s.curCtr .coll < 63) :
    Completes i s (fun t => IssuesOp s u t .coll
      (.coll { body := recs.getD 0 [], comm := recs.getD 1 [], rtab := recs.getD 2 [], seqNo := n }) none 0 []) := by
  have hloads := loads_readRecords hread
  have htaken : Accesses r.dropRecs u := by
    have h := accesses_takeSeq r.dropRecs r.bundleReq (CollBody.ofBytes (recs.getD 0 [])).comm
    rwa [hseq] at h
  have hexec := hx s
  rw [State.collIssue, withUni_ready (srcs := [{ opnd := 0, src := a }]) hgroup hreads,
    engineTry_makes (next := collRecords (s.srcBits 0 a)) hpub hkept hread (by dsimp only; rw [hzero, hcheck]; rfl) (by omega)] at hexec
  have hreq : r.dropRecs.bundleReq = r.bundleReq := rfl
  rw [hreq, hseq] at hexec
  have hcur : u.cur = s.cur := by rw [htaken]; exact hloads.cur
  have hctr (k : OpClass) : u.curCtr k = s.curCtr k := by
    rw [← hloads.curCtr k, ← dropRecs_ctr r k]
    exact curCtr_congr (s := r.dropRecs) ((curHelm_congr hloads.cur).trans hgroup) (by rw [htaken]) (by rw [htaken]; rfl) k
  exact ⟨_, hexec, issuesOp_advance hgroup hcur (by rw [htaken]; exact hloads.threads) (by rw [htaken]; exact hloads.regs) hctr hlt _ none 0 []⟩

/-! ## nmq (R394, R428) -/

/-- An operation and the near-memory command that it stands for, of a record and its argument block. -/
structure NearPair (rec args : List Byte) (o : AsyncOp) (c : NearCmd) : Prop where
  kind : o.kind = .near c.id
  cls : o.cls = .nm
  done : o.done = false
  source : c.source = .operation o.id
  record : c.record = rec.take 32
  args : c.args = args
  first : c.first = fieldLe rec 32 4
  count : c.count = fieldLe rec 36 4
  begun : c.begun = false
  left : c.left = allUnits

/-- What the issuer keeps as it enters commands. -/
structure NearKeeps (s t : State) : Prop where
  cur : t.cur = s.cur
  threads : t.threads = s.threads
  regs : t.regs = s.regs
  mem : t.mem = s.mem

/-- The command that a record of `nmq` enters. -/
def nmqCmd (s : State) (rec args : List Byte) : NearCmd :=
  { id := s.nextId, ctx := s.ctxOf s.curGroup.wg, source := .operation (s.nextId + 1), issuer := s.curParty, seq := s.writeSeq
    floors := s.floors.length, priv := s.curPriv, record := rec.take 32, args := args, first := fieldLe rec 32 4, count := fieldLe rec 36 4
    begun := false, window := 0, rows := [], left := allUnits, failed := false, bad := none }

theorem nmqOne_eq (s : State) (rec args : List Byte) : s.nmqOne rec args =
    (({ s with nextId := s.nextId + 1 } : State).issueOp .nm (.near s.nextId) none 0 []).nearEnter (nmqCmd s rec args) := rfl

/-- One command entered, and its operation. -/
theorem nmqOne_enters {u : State} (hgroup : u.curHelm = false) (rec args : List Byte) : NearKeeps u (u.nmqOne rec args) ∧
    (u.curCtr .nm < 63 → (u.nmqOne rec args).curCtr .nm = u.curCtr .nm + 1) ∧
    ∃ o c, (u.nmqOne rec args).ops = u.ops ++ [o] ∧ (u.nmqOne rec args).near = u.near ++ [c] ∧ NearPair rec args o c := by
  rw [nmqOne_eq]
  generalize hu : ({ u with nextId := u.nextId + 1 } : State) = v
  have hsame : v.cur = u.cur ∧ v.threads = u.threads ∧ v.regs = u.regs ∧ v.mem = u.mem ∧ v.ops = u.ops ∧ v.near = u.near ∧
      v.nextId = u.nextId + 1 ∧ v.curCtr .nm = u.curCtr .nm := by
    rw [← hu]
    exact ⟨rfl, rfl, rfl, rfl, rfl, rfl, rfl, rfl⟩
  obtain ⟨hcur, hthreads, hregs, hmem, hoplist, hnear, hnext, hctr⟩ := hsame
  have hgroup' : v.curHelm = false := (curHelm_congr hcur).trans hgroup
  have hframe := issueOp_frame hgroup' .nm (.near u.nextId) none 0 []
  have hraise := issueOp_ctr hgroup' .nm (.near u.nextId) none 0 [] .nm
  obtain ⟨o, hops, hid, -, -, -, hcls, hkind, -, -, -, -, -, hdone, -⟩ := issueOp_ops hgroup' .nm (.near u.nextId) none 0 []
  generalize v.issueOp .nm (.near u.nextId) none 0 [] = t at hframe hraise hops
  refine ⟨⟨?_, ?_, ?_, ?_⟩, fun hlt => ?_, o, nmqCmd u rec args, hops.trans (by rw [hoplist]), ?_, hkind, hcls, hdone, ?_, rfl, rfl, rfl, rfl, rfl, ?_⟩
  · exact (congrArg State.cur hframe).trans hcur
  · exact (congrArg State.threads hframe).trans hthreads
  · exact (congrArg State.regs hframe).trans hregs
  · exact (congrArg State.mem hframe).trans hmem
  · rw [← hctr, ← curCtr_raiseCtr hgroup' (by rw [hctr]; exact hlt), ← hraise]
    rfl
  · rw [State.nearEnter, congrArg State.near hframe, hnear]
  · rw [hid, hnext]
    rfl
  · rw [nmqCmd]

/-- The first commands of `nmq` entered. -/
def nmqFirst (recs : List (List Byte)) (n : Nat) (u : State) : State :=
  (List.range n).foldl (fun u j => u.nmqOne (recs.getD (2 * j) []) (recs.getD (2 * j + 1) [])) u

theorem nmqFirst_succ (recs : List (List Byte)) (n : Nat) (u : State) :
    nmqFirst recs (n + 1) u = (nmqFirst recs n u).nmqOne (recs.getD (2 * n) []) (recs.getD (2 * n + 1) []) := by
  rw [nmqFirst, List.range_succ, List.foldl_append]
  rfl

theorem nmqFirst_enters {u : State} (hgroup : u.curHelm = false) (recs : List (List Byte)) (n : Nat) (hroom : u.curCtr .nm + n ≤ 63) :
    NearKeeps u (nmqFirst recs n u) ∧ (nmqFirst recs n u).curCtr .nm = u.curCtr .nm + n ∧
    ∃ ops cmds, (nmqFirst recs n u).ops = u.ops ++ ops ∧ (nmqFirst recs n u).near = u.near ++ cmds ∧ ops.length = n ∧ cmds.length = n ∧
      ∀ j < n, ∃ o c, ops[j]? = some o ∧ cmds[j]? = some c ∧ NearPair (recs.getD (2 * j) []) (recs.getD (2 * j + 1) []) o c := by
  induction n with
  | zero => exact ⟨⟨rfl, rfl, rfl, rfl⟩, rfl, [], [], (List.append_nil _).symm, (List.append_nil _).symm, rfl, rfl, nofun⟩
  | succ n ih =>
    obtain ⟨hkeeps, hctr, ops, cmds, hops, hcmds, hoplen, hcmdlen, hpairs⟩ := ih (by omega)
    rw [nmqFirst_succ]
    obtain ⟨hone, hup, o, c, hop, hcmd, hpair⟩ := nmqOne_enters (u := nmqFirst recs n u) ((curHelm_congr hkeeps.cur).trans hgroup)
      (recs.getD (2 * n) []) (recs.getD (2 * n + 1) [])
    refine ⟨⟨hone.cur.trans hkeeps.cur, hone.threads.trans hkeeps.threads, hone.regs.trans hkeeps.regs, hone.mem.trans hkeeps.mem⟩, ?_,
      ops ++ [o], cmds ++ [c], ?_, ?_, ?_, ?_, fun j hj => ?_⟩
    · rw [hup (by omega), hctr, Nat.add_assoc]
    · rw [hop, hops, List.append_assoc]
    · rw [hcmd, hcmds, List.append_assoc]
    · rw [List.length_append, hoplen]; rfl
    · rw [List.length_append, hcmdlen]; rfl
    · rcases Nat.lt_succ_iff_lt_or_eq.1 hj with hlt | rfl
      · obtain ⟨o', c', ho', hc', hpair'⟩ := hpairs j hlt
        exact ⟨o', c', by rwa [List.getElem?_append_left (by omega)], by rwa [List.getElem?_append_left (by omega)], hpair'⟩
      · exact ⟨o, c, by rw [← hoplen, List.getElem?_concat_length], by rw [← hcmdlen, List.getElem?_concat_length], hpair⟩

theorem nears_issue {i : Instr} {a c : Src} (hx : ∀ s, exec i s = s.nmqIssue a c) {s r : State} {recs : List (List Byte)} {count : Nat}
    (hcount : (if c.isReg then (s.srcBits 0 c).toNat else 1) = count)
    (hgroup : s.curHelm = false) (hreads : BundleReads s (a :: if c.isReg then [c] else []) []) (hpos : 1 ≤ count) (hmax : count ≤ 16)
    (hpub : s.pubPending s.curGroup = false) (hkept : s.keptRecs = none) (hread : s.readRecords (nearRecords (s.srcBits 0 a) count) [] 40 = .got recs r)
    (hok : ∀ j < count, nmqOk (recs.getD (2 * j) []) (recs.getD (2 * j + 1) []) = true) (hroom : s.curCtr .nm + count ≤ 63) :
    exec i s = .next (nmqFirst recs count r.dropRecs).advance := by
  have hsrcs : List.map (·.src) ([({ opnd := 0, src := a } : Opnd)] ++ if c.isReg then [{ opnd := 2, src := c }] else []) =
      a :: if c.isReg then [c] else [] := by rw [List.map_append, operands_eq]; rfl
  have hall : (List.range count).all (fun j => nmqOk (recs.getD (2 * j) []) (recs.getD (2 * j + 1) [])) = true := by
    simpa only [List.all_eq_true, List.mem_range] using hok
  rw [hx, State.nmqIssue, withUni_ready hgroup (by rw [hsrcs]; exact hreads)]
  rw [hcount, if_neg (by omega), State.engineIssue, engineTry_makes hpub hkept hread (by rw [hall]; rfl) hroom]
  rfl

/-- Settles O29: a collective enters with the SEQ that its atomic add took; `nmq` enters its commands one after another, by induction on them. -/
theorem collectiveAndNearIssueResults : Obligations.CollectiveAndNearIssueResults := by
  unfold Obligations.CollectiveAndNearIssueResults
  intro colls nears
  have hcolls {i : Instr} {a : Src} (hx : ∀ s, exec i s = s.collIssue a) : colls i a :=
    fun s r u recs n hgroup _ hreads hpub hkept hread hzero hcheck hseq hlt => coll_issues hx hgroup hreads hpub hkept hread hzero hcheck hseq hlt
  have hnears {i : Instr} {a c : Src} (hx : ∀ s, exec i s = s.nmqIssue a c) : nears i a c := by
    intro s r recs count hgroup _ hreads hpos hmax hpub hkept hread hok hroom
    have hloads := loads_readRecords hread
    have hctr : r.dropRecs.curCtr .nm = s.curCtr .nm := (dropRecs_ctr r _).trans (hloads.curCtr _)
    obtain ⟨hkeeps, hcount, ops, cmds, hops, hcmds, hoplen, hcmdlen, hpairs⟩ :=
      nmqFirst_enters (u := r.dropRecs) ((curHelm_congr hloads.cur).trans hgroup) recs count (by rw [hctr]; exact hroom)
    have hcur := hkeeps.cur.trans hloads.cur
    refine ⟨_, nears_issue hx rfl hgroup hreads hpos hmax hpub hkept hread hok hroom, ?_, ?_, ?_, movesOn_advance hgroup hcur (hkeeps.threads.trans hloads.threads),
      ops, cmds, ?_, ?_, hoplen, hcmdlen, fun j hj => ?_⟩
    · rw [curCtr_advance ((curHelm_congr hcur).trans hgroup), hcount, hctr]
    · rw [advance_regs, hkeeps.regs]
      exact hloads.regs
    · rw [advance_mem, hkeeps.mem]
      rfl
    · rw [advance_frame]
      exact hops
    · rw [advance_frame]
      exact hcmds
    · obtain ⟨o, c', ho, hc', hpair⟩ := hpairs j hj
      exact ⟨o, c', ho, hc', hpair.kind, hpair.cls, hpair.done, hpair.source, hpair.record, hpair.args, hpair.first, hpair.count, hpair.begun, hpair.left⟩
  clear_value colls nears
  exact ⟨fun w => hcolls fun _ => rfl, fun w => hcolls fun _ => rfl, fun w => hnears fun _ => rfl, fun w => hnears fun _ => rfl⟩

end Sys2Proof.Proofs
end

section
/-! spawn: the records of the active lanes entered, and their spawn counts raised (R124 to R127, R346 to R348). -/

namespace Sys2Proof.Proofs

open Sys2Proof Sys2Proof.Machine Sys2Proof.Laws

/-! ## Threads changed one after another -/

theorem getD_foldl_set_apart {key : Nat → ThreadId} {g : Nat → Thread → Thread} {lanes : List Nat} {id : ThreadId} (h : ∀ l ∈ lanes, id ≠ key l)
    (m : FMap ThreadId Thread) (d : Thread) :
    FMap.getD (lanes.foldl (fun m l => FMap.set m (key l) (g l (FMap.getD m (key l) d))) m) id d = FMap.getD m id d := by
  induction lanes generalizing m with
  | nil => rfl
  | cons x lanes ih => rw [List.foldl_cons, ih (fun l hl => h l (List.mem_cons_of_mem _ hl)), getD_set_other _ _ _ (h x List.mem_cons_self)]

/-- A thread among distinct ones is changed once. -/
theorem getD_foldl_set_once {key : Nat → ThreadId} {g : Nat → Thread → Thread} {lanes : List Nat} (hn : (lanes.map key).Nodup) {l : Nat} (hl : l ∈ lanes)
    (m : FMap ThreadId Thread) (d : Thread) :
    FMap.getD (lanes.foldl (fun m l => FMap.set m (key l) (g l (FMap.getD m (key l) d))) m) (key l) d = g l (FMap.getD m (key l) d) := by
  induction lanes generalizing m with
  | nil => nomatch hl
  | cons x lanes ih =>
    obtain ⟨hx, hrest⟩ := List.nodup_cons.1 hn
    have hapart (y : Nat) (hy : y ∈ lanes) : key x ≠ key y := fun h => hx (h ▸ List.mem_map_of_mem hy)
    rw [List.foldl_cons]
    rcases List.mem_cons.1 hl with rfl | htail
    · rw [getD_foldl_set_apart hapart, getD_set_same]
    · rw [ih hrest htail, getD_set_other _ _ _ (hapart l htail).symm]

/-! ## Records (R346) -/

theorem getElem?_leBytes (n x j : Nat) (hj : j < n) : (leBytes n x)[j]? = some (BitVec.ofNat 8 (x / 2 ^ (8 * j))) := by
  induction n generalizing x j with
  | zero => omega
  | succ n ih =>
    cases j with
    | zero =>
      rw [leBytes, List.getElem?_cons_zero, Nat.mul_zero, Nat.pow_zero, Nat.div_one]
      exact congrArg some (BitVec.eq_of_toNat_eq (by simp))
    | succ j =>
      rw [leBytes, List.getElem?_cons_succ, ih _ _ (by omega), Nat.div_div_eq_div_mul, show 8 * (j + 1) = 8 + 8 * j by omega, Nat.pow_add]

theorem upFrom_four (b : Nat) : upFrom b 4 = [b, b + 1, b + 2, b + 3] := by
  simp [upFrom, List.range_succ, Nat.add_comm]

theorem recordBytes_eq (s : State) (l b : Nat) : s.recordBytes l b = [b, b + 1, b + 2, b + 3].flatMap (fun n => leBytes 8 (s.reg (s.laneKey l n)).bits.toNat) := by
  rw [State.recordBytes, upFrom_four]

/-- A byte of words laid one after another. -/
theorem getElem?_flatMap_leBytes (v : Nat → Nat) (ns : List Nat) {q j : Nat} (hj : j < 8) :
    (ns.flatMap (fun n => leBytes 8 (v n)))[8 * q + j]? = ns[q]?.bind (fun n => (leBytes 8 (v n))[j]?) := by
  induction ns generalizing q with
  | nil => simp
  | cons n ns ih =>
    rw [List.flatMap_cons]
    cases q with
    | zero =>
      rw [List.getElem?_append_left (by simpa using hj)]
      simp
    | succ q =>
      rw [List.getElem?_append_right (by simp; omega), length_leBytes, show 8 * (q + 1) + j - 8 = 8 * q + j by omega, ih, List.getElem?_cons_succ]

theorem length_recordBytes (s : State) (l b : Nat) : (s.recordBytes l b).length = 32 := by
  simp [recordBytes_eq]

theorem getElem?_recordBytes (s : State) (l b : Nat) {q j : Nat} (hq : q < 4) (hj : j < 8) :
    (s.recordBytes l b)[8 * q + j]? = some (BitVec.ofNat 8 ((s.reg (s.laneKey l (b + q))).bits.toNat / 2 ^ (8 * j))) := by
  have hnth : [b, b + 1, b + 2, b + 3][q]? = some (b + q) := by
    interval_cases q <;> rfl
  rw [← getElem?_leBytes 8 _ j hj, recordBytes_eq, getElem?_flatMap_leBytes (fun n => (s.reg (s.laneKey l n)).bits.toNat) _ hj, hnth]
  rfl

/-! ## Bins (R124, R125) -/

/-- Whether a bin of a launch and an entry holds a record. -/
def BinHolds (bins : List SpawnBin) (launch : Nat) (entry : Word) (r : SpawnRec) : Prop :=
  ∃ b ∈ bins, b.launch = launch ∧ b.entry = entry ∧ r ∈ b.recs

theorem binHolds_enterRec (bins : List SpawnBin) (launch : Nat) (entry : Word) (countdown : Nat) (r : SpawnRec) :
    BinHolds (enterRec bins launch entry countdown r) launch entry r := by
  induction bins with
  | nil => exact ⟨_, List.mem_cons_self, rfl, rfl, List.mem_cons_self⟩
  | cons b bins ih =>
    rw [enterRec]
    split
    · rename_i h
      have hkey : b.hasKey launch entry = true := by simp_all
      simp only [SpawnBin.hasKey, Bool.and_eq_true, beq_iff_eq] at hkey
      obtain ⟨⟨hlaunch, hentry⟩, -⟩ := hkey
      exact ⟨_, List.mem_cons_self, hlaunch, hentry, List.mem_append_right _ (List.mem_singleton_self r)⟩
    · obtain ⟨c, hc, h⟩ := ih
      exact ⟨c, List.mem_cons_of_mem _ hc, h⟩

theorem BinHolds.enterRec {bins : List SpawnBin} {launch : Nat} {entry : Word} {r : SpawnRec} (h : BinHolds bins launch entry r) (countdown : Nat)
    (x : SpawnRec) : BinHolds (enterRec bins launch entry countdown x) launch entry r := by
  induction bins with
  | nil => exact absurd h (by rintro ⟨_, hb, _⟩; nomatch hb)
  | cons b bins ih =>
    obtain ⟨c, hc, hlaunch, hentry, hr⟩ := h
    rw [Machine.enterRec]
    split
    · rcases List.mem_cons.1 hc with rfl | hc
      · exact ⟨_, List.mem_cons_self, hlaunch, hentry, List.mem_append_left _ hr⟩
      · exact ⟨c, List.mem_cons_of_mem _ hc, hlaunch, hentry, hr⟩
    · rcases List.mem_cons.1 hc with rfl | hc
      · exact ⟨c, List.mem_cons_self, hlaunch, hentry, hr⟩
      · obtain ⟨d, hd, h⟩ := ih ⟨c, hc, hlaunch, hentry, hr⟩
        exact ⟨d, List.mem_cons_of_mem _ hd, h⟩

theorem binHolds_foldl {launch : Nat} {entry : Word} (countdown : Nat) {r : SpawnRec} (recs : List SpawnRec) {bins : List SpawnBin}
    (h : BinHolds bins launch entry r ∨ r ∈ recs) :
    BinHolds (recs.foldl (fun bs x => enterRec bs launch entry countdown x) bins) launch entry r := by
  induction recs generalizing bins with
  | nil => exact h.resolve_right List.not_mem_nil
  | cons x recs ih =>
    refine ih ?_
    rcases h with h | h
    · exact .inl (h.enterRec countdown x)
    · rcases List.mem_cons.1 h with rfl | h
      · exact .inl (binHolds_enterRec ..)
      · exact .inr h

/-! ## The records of the active lanes (R346) -/

/-- The records entered, before the spawn counts rise. -/
def recordsIn (s : State) (lanes : List Nat) (entry : Word) (b : Nat) : State :=
  let recs := lanes.map (fun x => s.spawnRecord x b)
  let l := s.launchOf s.curGroup.wg
  let c := s.coreOf s.curGroup.wg
  if l.det then { s with spawnHeld := s.spawnHeld ++ recs.map (fun r => (s.curGroup.wg, entry, r)) }
  else s.setCore c { s.core c with
    bins := recs.foldl (fun bs r => enterRec bs (s.wg s.curGroup.wg).launch entry (l.spawnCd * 16) r) (s.core c).bins }

theorem recordsIn_frame (s : State) (lanes : List Nat) (entry : Word) (b : Nat) : recordsIn s lanes entry b =
    { s with cores := (recordsIn s lanes entry b).cores, spawnHeld := (recordsIn s lanes entry b).spawnHeld } := by
  unfold recordsIn
  dsimp only
  split_ifs <;> rfl

theorem recordsIn_holds (s : State) {lanes : List Nat} (entry : Word) (b : Nat) {x : Nat} (hx : x ∈ lanes) :
    if (s.launchOf s.curGroup.wg).det then (s.curGroup.wg, entry, s.spawnRecord x b) ∈ (recordsIn s lanes entry b).spawnHeld
    else BinHolds ((recordsIn s lanes entry b).core (s.coreOf s.curGroup.wg)).bins (s.wg s.curGroup.wg).launch entry (s.spawnRecord x b) := by
  have hmem : s.spawnRecord x b ∈ lanes.map (fun x => s.spawnRecord x b) := List.mem_map_of_mem (f := fun x => s.spawnRecord x b) hx
  unfold recordsIn
  dsimp only
  split_ifs
  · exact List.mem_append_right _ (List.mem_map_of_mem hmem)
  · rw [core_setCore_same]
    exact binHolds_foldl _ _ (.inr hmem)

/-- A thread that has spawned once more. -/
def spawnedMore (x : Thread) : Thread := { x with spawnSeq := x.spawnSeq + 1 }

theorem enterRecords_eq (s : State) (lanes : List Nat) (entry : Word) (b : Nat) : s.enterRecords lanes entry b =
    lanes.foldl (fun t x => t.setThread (s.curThread x) (spawnedMore (t.thread (s.curThread x)))) (recordsIn s lanes entry b) := rfl

theorem enterRecords_frame (s : State) (lanes : List Nat) (entry : Word) (b : Nat) : s.enterRecords lanes entry b =
    { recordsIn s lanes entry b with threads := (s.enterRecords lanes entry b).threads } := by
  rw [enterRecords_eq, foldl_setThread lanes s.curThread (fun _ => spawnedMore)]

theorem enterRecords_thread {s : State} {lanes : List Nat} (hn : (lanes.map s.curThread).Nodup) (entry : Word) (b : Nat) {x : Nat} (hx : x ∈ lanes) :
    (s.enterRecords lanes entry b).thread (s.curThread x) = spawnedMore (s.thread (s.curThread x)) := by
  rw [enterRecords_eq, foldl_setThread lanes s.curThread (fun _ => spawnedMore), State.thread]
  refine (getD_foldl_set_once (g := fun _ => spawnedMore) hn hx _ _).trans ?_
  rw [recordsIn_frame]
  rfl

/-! ## The statement -/

/-- Whether an operand is a v register that the form extends. -/
def laneExtended (x : Src) : Bool := match x with | .lane _ t => t | _ => false

/-- The registers that spawn reads: its entry and the four of each record. -/
def spawnSrcs (f : Form) (b : Nat) : List Opnd :=
  { opnd := 0, src := f.a } :: (upFrom b 4).map (fun n => { opnd := 1, src := .lane n (laneExtended f.b) })

/-- What spawn comes to once its registers are looked at. -/
def spawnChecked (g : GroupId) (c : Core) (lanes : List Nat) (entry : Word) (b : Nat) (r : Ready) (stay : State) : Out :=
  match r with
  | .trapped t => .next t
  | .blocked => .next stay
  | .ok s =>
    if bitAt entry 0 then .next (s.trapLanes lanes 0x05 s.curPc (fun _ => entry) (fun _ => infoAddr false 3 0))
    else if (s.launchOf g.wg).det && decide (1024 < s.heldCount g.wg + lanes.length) then
      .next (s.trapLanes lanes 0x01 s.curPc (fun _ => 0) (fun _ => infoIllegal s.curLen true 0 true))
    else if s.pubPending g then .next s
    else if !(s.launchOf g.wg).det && !c.binsTake (s.wg g.wg).launch entry lanes.length then .next (s.waitAt .spawnBin)
    else .next (s.enterRecords lanes entry b).advance

theorem spawnStep_eq (s : State) (f : Form) (a b : Nat) : s.spawnStep f a b =
    if (s.active f).isEmpty then .next s.advance
    else if (s.reg (s.uniKey a)).tag != 1 then .next (s.trapFormat (s.active f) 0)
    else spawnChecked s.curGroup (s.core (s.coreOf s.curGroup.wg)) (s.active f) (s.reg (s.uniKey a)).bits b
      (s.checkFull (s.active f) [] (spawnSrcs f b) []) s := rfl

theorem spawnSrcs_src (f : Form) (b : Nat) :
    (spawnSrcs f b).map (·.src) = f.a :: [b, b + 1, b + 2, b + 3].map (fun n => .lane n (laneExtended f.b)) := by
  rw [spawnSrcs, upFrom_four]
  rfl

/-- A spawn whose entry, registers and room are ready enters its records and moves on. -/
theorem spawnStep_enters {s : State} {f : Form} {a b : Nat} (hlanes : s.active f ≠ []) (htag : (s.reg (s.uniKey a)).tag = 1)
    (heven : bitAt (s.reg (s.uniKey a)).bits 0 = false)
    (hreads : ReadableIn s (s.active f) (f.a :: [b, b + 1, b + 2, b + 3].map (fun n => .lane n (laneExtended f.b))) [])
    (hroom : (s.launchOf s.curGroup.wg).det = true → s.heldCount s.curGroup.wg + (s.active f).length ≤ 1024) (hpub : (s.group s.curGroup).pendingPub = [])
    (hbins : (s.launchOf s.curGroup.wg).det = false →
      (s.core (s.coreOf s.curGroup.wg)).binsTake (s.wg s.curGroup.wg).launch (s.reg (s.uniKey a)).bits (s.active f).length = true) :
    s.spawnStep f a b = .next (s.enterRecords (s.active f) (s.reg (s.uniKey a)).bits b).advance := by
  rw [← spawnSrcs_src] at hreads
  have hfull : s.checkFull (s.active f) [] (spawnSrcs f b) [] = .ok s :=
    checkFull_ok s _ _ _ _ hreads.quiet (fun l hl o ho => hreads.srcs l (by simpa using hl) o.src (List.mem_map_of_mem ho))
      (fun l hl x hx => hreads.dsts l (by simpa using hl) x hx)
  have hheld : ((s.launchOf s.curGroup.wg).det && decide (1024 < s.heldCount s.curGroup.wg + (s.active f).length)) = false := by
    cases hdet : (s.launchOf s.curGroup.wg).det with
    | false => rfl
    | true => simpa using hroom hdet
  have htakes : (!(s.launchOf s.curGroup.wg).det && !(s.core (s.coreOf s.curGroup.wg)).binsTake (s.wg s.curGroup.wg).launch
      (s.reg (s.uniKey a)).bits (s.active f).length) = false := by
    cases hdet : (s.launchOf s.curGroup.wg).det with
    | true => rfl
    | false => simp [hbins hdet]
  have hpending : s.pubPending s.curGroup = false := by rw [State.pubPending, hpub]; rfl
  rw [spawnStep_eq, hfull]
  simp only [spawnChecked, List.isEmpty_eq_false_iff.2 hlanes, htag, heven, hheld, hpending, htakes, bne_self_eq_false, Bool.false_eq_true, if_false]

theorem spawns_enter {i : Instr} {f : Form} {a b : Nat} (hx : ∀ s, exec i s = s.spawnStep f a b) (s : State) (hgroup : s.curHelm = false) (hb : Bundle s)
    (hlanes : s.active f ≠ []) (htag : (s.reg (s.uniKey a)).tag = 1) (heven : bitAt (s.reg (s.uniKey a)).bits 0 = false)
    (hreads : ReadableIn s (s.active f) (f.a :: [b, b + 1, b + 2, b + 3].map (fun n => .lane n (laneExtended f.b))) [])
    (hroom : (s.launchOf s.curGroup.wg).det = true → s.heldCount s.curGroup.wg + (s.active f).length ≤ 1024) (hpub : (s.group s.curGroup).pendingPub = [])
    (hbins : (s.launchOf s.curGroup.wg).det = false →
      (s.core (s.coreOf s.curGroup.wg)).binsTake (s.wg s.curGroup.wg).launch (s.reg (s.uniKey a)).bits (s.active f).length = true) :
    Completes i s (fun t =>
      (∀ x ∈ s.active f, if (s.launchOf s.curGroup.wg).det then (s.curGroup.wg, (s.reg (s.uniKey a)).bits, s.spawnRecord x b) ∈ t.spawnHeld
        else BinHolds (t.core (s.coreOf s.curGroup.wg)).bins (s.wg s.curGroup.wg).launch (s.reg (s.uniKey a)).bits (s.spawnRecord x b)) ∧
      (∀ x ∈ s.active f, (t.thread (s.curThread x)).spawnSeq = (s.thread (s.curThread x)).spawnSeq + 1) ∧
      (∀ x ∈ s.curLanes, (t.thread (s.curThread x)).pc = s.curPc + BitVec.ofNat 64 s.curLen) ∧
      t = { s.advance with threads := t.threads, cores := t.cores, spawnHeld := t.spawnHeld }) := by
  refine ⟨_, (hx s).trans (spawnStep_enters hlanes htag heven hreads hroom hpub hbins), ?_⟩
  generalize (s.reg (s.uniKey a)).bits = entry
  have hthread {x : Nat} (hx : x ∈ s.active f) := enterRecords_thread (nodup_active hb f) entry b hx
  have hframe := enterRecords_frame s (s.active f) entry b
  have hrecs := recordsIn_frame s (s.active f) entry b
  have hholds {x : Nat} (hx : x ∈ s.active f) := recordsIn_holds s entry b hx
  generalize s.enterRecords (s.active f) entry b = u at hthread hframe
  generalize recordsIn s (s.active f) entry b = r at hframe hrecs hholds
  have hcur : u.cur = s.cur := by rw [hframe, hrecs]
  have hmoves := movesOn_of_cur hgroup hcur
  have hkeeps : u.advance.spawnHeld = r.spawnHeld ∧ u.advance.cores = r.cores := by
    rw [advance_frame u, hframe]
    exact ⟨rfl, rfl⟩
  obtain ⟨hheld, hcores⟩ := hkeeps
  refine ⟨fun x hx => ?_, fun x hx => ?_, fun x hx => ?_, ?_⟩
  · rw [hheld, State.core, hcores]
    exact hholds hx
  · have hlane : x ∈ u.curLanes := by rw [curLanes_congr hcur]; exact active_subset hx
    have hkey : s.curThread x = u.curThread x := by rw [State.curThread, State.curThread, curGroup_congr hcur]
    rw [hkey, advance_thread_lane hlane, ← hkey, movedTo, hthread hx]
    rfl
  · rw [MovesOn, if_neg (by rw [hgroup]; nofun)] at hmoves
    exact (hmoves x hx).1
  · obtain ⟨hgroups, hhelms⟩ := advance_agree (s := s) (t := u) hcur (by rw [hframe, hrecs]) (by rw [hframe, hrecs])
    have hadvance := advance_frame u
    rw [hgroups, hhelms] at hadvance
    rw [hcores, hheld, advance_frame s]
    generalize u.advance.threads = threads at hadvance ⊢
    rw [hadvance, hframe, hrecs]

/-- Settles O18: the records enter one after another, each into its generation or its bin, and stay there; the spawn counts rise once each. -/
theorem spawnEntersRecords : Obligations.SpawnEntersRecords := by
  unfold Obligations.SpawnEntersRecords
  intro spawns
  have hspawns {i : Instr} {f : Form} {a b : Nat} (hx : ∀ s, exec i s = s.spawnStep f a b) : spawns i f a b := by
    intro s hgroup hb hlanes entry l htag heven hreads hroom hpub hbins
    obtain ⟨t, hexec, hrecs, hseq, hpc, hframe⟩ := spawns_enter hx s hgroup hb hlanes htag heven hreads hroom hpub hbins
    exact ⟨t, hexec, fun x hx => ⟨s.spawnRecord x b, rfl, rfl, rfl, length_recordBytes s x b, fun q hq j hj => getElem?_recordBytes s x b hq hj, hrecs x hx⟩,
      hseq, hpc, hframe⟩
  clear_value spawns
  refine ⟨fun w => hspawns fun _ => rfl, fun w a b ea eb ha hb => hspawns fun s => ?_⟩
  show execSpawn64 w s = _
  rw [execSpawn64, ha, hb]

end Sys2Proof.Proofs
end

section
/-! A step runs what is decoded: the turn of the agenda, the fetch of an issuer, and the rotation of a core's port (R119, R246, R292, R293, R428). -/

namespace Sys2Proof.Proofs

open Sys2Proof Sys2Proof.Machine Sys2Proof.Laws

/-! ## The end of a step (R285) -/

/-- What a step ends in, once its instruction has been executed: the state after it, or before it where its records find no room. -/
def EndsStep (s before after : State) : Prop :=
  (before.heldPast after = false → step s = .next { after with cur := .nobody }) ∧
  (before.heldPast after = true → step s = .next { before with cur := .nobody })

theorem step_of_run {s t v : State} {i : Instr} (hplan : s.plan = .run i t) (hexec : exec i t = .next v) : EndsStep s t v := by
  have hstep : step s = .next (t.orWait v).rest := by
    rw [step, hplan]
    simp only [hexec]
  refine ⟨fun h => hstep.trans ?_, fun h => hstep.trans ?_⟩ <;> rw [State.orWait, h] <;> rfl

theorem step_of_done {s z : State} (hplan : s.plan = .done z) (hroom : s.popped.heldPast z = false) : step s = .next z := by
  rw [step, hplan]
  simp only [State.orWait, hroom, Bool.false_eq_true, if_false]

theorem plan_of_agenda {s : State} {x : Turn} {rest : List Turn} (h : s.agenda = x :: rest) : s.plan = ({ s with agenda := rest } : State).planTurn x := by
  rw [State.plan]
  simp only [h, State.popped, List.tail_cons]

theorem popped_of_agenda {s : State} {x : Turn} {rest : List Turn} (h : s.agenda = x :: rest) : s.popped = { s with agenda := rest } := by
  rw [State.popped, h]
  rfl

/-! ## Fetches (R292) -/

theorem cur_fetchParcel (s : State) (r : Req) (v : View) (a : Word) : (s.fetchParcel r v a).2.cur = s.cur := by
  have hresolve : (s.resolve r spGlobal a 2 .fetch).2.cur = s.cur := by rw [accesses_resolve s]
  unfold State.fetchParcel
  split <;> rename_i heq <;> rw [heq] at hresolve
  · exact hresolve
  · rename_i p t
    refine Eq.trans ?_ hresolve
    have hread : ((t.touchSpot p false).readLoc r (p.view v) p.loc 2).2.cur = t.cur := by
      rw [accesses_readLoc (t.touchSpot p false), accesses_touchSpot t]
    unfold State.fetchSpot
    split
    · split
      · rw [accesses_sendFab]
      · split_ifs <;> rfl
    · split <;> rename_i heq' <;> rw [heq'] at hread <;> exact hread

theorem cur_fetchParcels (s : State) (r : Req) (v : View) (a : Word) (n : Nat) : (s.fetchParcels r v a n).2.cur = s.cur := by
  induction n generalizing s a with
  | zero => rfl
  | succ n ih =>
    have hparcel := cur_fetchParcel s r v a
    rw [State.fetchParcels]
    split <;> rename_i heq
    · rename_i b t
      have hrest := ih t (a + 2)
      rw [heq] at hparcel
      split <;> rename_i heq'
      · rw [heq'] at hrest
        exact hrest.trans hparcel
      · exact hrest.trans hparcel
    · exact hparcel

theorem cur_fetch (s : State) (r : Req) (v : View) (a : Word) : (s.fetch r v a).2.cur = s.cur := by
  have hparcel := cur_fetchParcel s r v a
  unfold State.fetch
  split <;> rename_i heq <;> rw [heq] at hparcel
  · exact hparcel
  · exact hparcel
  · rename_i b t
    dsimp only
    have hrest := cur_fetchParcels t r v (a + 2) (lengthOf (BitVec.ofNat 16 (ofLe b)) / 2 - 1)
    split <;> rename_i heq' <;> rw [heq'] at hrest <;> exact hrest.trans hparcel

/-- What an issuer that has fetched a word is planned to do. -/
theorem planFetch_word {t v : State} {r : Req} {w : Nat} {x : Word} {len : Nat} (h : t.fetch r (t.codeView w) t.curPc = (.word x len, v)) :
    t.planFetch r w = (v.curWithLen len).planWord t.curHelm x := by
  rw [State.planFetch, h]

theorem planWord_instr {s : State} {helm : Bool} {w : Word} {i : Instr} {n : Nat} (h : decode helm w = .instr i n) : s.planWord helm w = .run i s := by
  rw [State.planWord, h]

theorem planWord_illegal {s : State} {helm : Bool} {w : Word} {reason n : Nat} (h : decode helm w = .illegal reason n) :
    s.planWord helm w = .done { s.trapIllegal reason with cur := .nobody } := by
  rw [State.planWord, h]
  rfl

/-! ## The turns of a group, a Helm and a unit (R119, R246, R428) -/

theorem curHelm_withBundle (s : State) (g : GroupId) (pc : Nat) : (s.withBundle g pc).curHelm = false := rfl

theorem planGroup_bundle {s : State} {g : GroupId} (hrun : s.mayRun g.wg = true) (htrap : s.helmTrapHere g = false)
    (hhang : (s.liveOf g).any s.threadHung = false) (hback : (s.group g).backCount < 64) {pc : Nat} (hpc : (s.settlePubs g).bundlePc g = some pc)
    (hfree : (s.settlePubs g).bundleBlocked g pc = false) :
    s.planGroup g = ((s.settlePubs g).withBundle g pc).planFetch ((s.settlePubs g).withBundle g pc).fetchReq g.wg := by
  unfold State.planGroup
  simp only [hrun, htrap, hhang, Nat.not_le.2 hback, hpc, hfree, Bool.not_true, Bool.false_eq_true, if_false]

theorem planHelm_serves {s : State} {w : Nat} (hrun : s.mayRun w = true) (hhang : s.helmHung w = false) (hport : s.portHelm (s.coreOf w) = some w) :
    s.planHelm w = ({ s.servePort w with cur := .helm w (s.helm w).pc 2 } : State).planFetch
      (({ s.servePort w with cur := .helm w (s.helm w).pc 2 } : State).helmReq w) w := by
  unfold State.planHelm
  simp only [hrun, hhang, hport, Bool.not_true, Bool.false_eq_true, if_false, ne_eq, not_true_eq_false]

theorem planUnit_runs {s : State} {u : Nat} {i : Instr} (hrunning : ((s.unitReady u).unit u).running.isSome = true) (hpc : ((s.unitReady u).unit u).pc < 256)
    (hsteps : ((s.unitReady u).unit u).steps < 65536)
    (hword : decodeCornice (FMap.getD (s.unitReady u).progStore ((s.unitReady u).unit u).pc 0xB8000000) = some i) :
    s.planUnit u = .run i { s.unitReady u with cur := .cornice u } := by
  unfold State.planUnit
  simp only [Option.isNone_eq_false_iff.2 hrunning, Nat.not_le.2 hpc, Nat.not_le.2 hsteps, hword, decide_false, Bool.or_self, Bool.false_eq_true, if_false]

/-- The threads of a bundle are live ones at its PC. -/
theorem mem_bundleLanes {s : State} {g : GroupId} {pc l : Nat} (h : l ∈ s.bundleLanes g pc) :
    (s.thread ⟨g.wg, g.grp, l⟩).live = true ∧ (s.thread ⟨g.wg, g.grp, l⟩).pc = BitVec.ofNat 64 pc := by
  obtain ⟨-, hany⟩ := List.mem_filter.1 h
  obtain ⟨t, ht, hat⟩ := List.any_eq_true.1 hany
  obtain ⟨wg, grp, lane⟩ := t
  simp only [Bool.and_eq_true, beq_iff_eq] at hat
  obtain ⟨rfl, hpc⟩ := hat
  obtain ⟨hlive, -⟩ := List.mem_filter.1 ht
  obtain ⟨hof, hkeep⟩ := List.mem_filter.1 hlive
  obtain ⟨-, hwg⟩ := List.mem_filter.1 hof
  simp only [Bool.and_eq_true, beq_iff_eq] at hkeep hwg
  obtain ⟨rfl, hlive⟩ := hkeep
  subst hwg
  exact ⟨hlive, by rw [← hpc, BitVec.ofNat_toNat, BitVec.setWidth_eq]⟩

theorem bundle_withBundle (s : State) (g : GroupId) (pc : Nat) : Bundle (s.withBundle g pc) where
  live _ hl := (mem_bundleLanes (s := s) hl).1
  ascending := List.pairwise_lt_range.filter _

/-! ## The port's rotation (R246) -/

/-- Where a Helm stands in the rotation of a core's port. -/
def portTurn (s : State) (c h : Nat) : Nat := ((s.helm h).number + 7 - (s.core c).lastPort) % 8

theorem portTurn_eq_iff {s : State} {c h i : Nat} (hlast : (s.core c).lastPort < 8) (hnumber : (s.helm h).number < 8) (hi : i < 8) :
    (s.helm h).number = ((s.core c).lastPort + 1 + i) % 8 ↔ portTurn s c h = i := by
  unfold portTurn
  omega

/-- The Helms of a core with an instruction ready. -/
def portReady (s : State) (c : Nat) : List Nat := (s.wgs.filter (fun e => e.2.isResident && e.2.core == c && s.helmIssuable e.1)).map (·.1)

theorem helmIssuable_of_ready {s : State} {c w : Nat} (h : w ∈ portReady s c) : s.helmIssuable w = true := by
  obtain ⟨e, he, rfl⟩ := List.mem_map.1 h
  obtain ⟨-, hkeep⟩ := List.mem_filter.1 he
  simp only [Bool.and_eq_true] at hkeep
  exact hkeep.2

theorem mem_portReady {s : State} {c v : Nat} (hlisted : (FMap.find s.wgs v).isSome = true) (hresident : (s.wg v).isResident = true)
    (hcore : (s.wg v).core = c) (hready : s.helmIssuable v = true) : v ∈ portReady s c := by
  obtain ⟨x, hx⟩ := Option.isSome_iff_exists.1 hlisted
  have hwg : s.wg v = x := by rw [State.wg, FMap.getD, hx]
  rw [hwg] at hresident hcore
  exact List.mem_map.2 ⟨(v, x), List.mem_filter.2 ⟨mem_of_find hx, by simp [hresident, hcore, hready]⟩, rfl⟩

/-- The port serves a ready Helm, and none before it in the rotation is ready. -/
theorem portHelm_first {s : State} {c w v : Nat} (hport : s.portHelm c = some w) (hlast : (s.core c).lastPort < 8) (hnumber : (s.helm v).number < 8)
    (hv : v ∈ portReady s c) : s.helmIssuable w = true ∧ portTurn s c w ≤ portTurn s c v := by
  have hfind : (List.range 8).findSome? (fun i => (portReady s c).find? (fun w => (s.helm w).number == ((s.core c).lastPort + 1 + i) % 8)) = some w := hport
  obtain ⟨before, i, after, hsplit, hi, hnone⟩ := List.findSome?_eq_some_iff.1 hfind
  have hfound := List.find?_some hi
  have hilt : i < 8 := List.mem_range.1 (by simp [hsplit])
  have hwturn : portTurn s c w = i := (portTurn_eq_iff hlast (by rw [beq_iff_eq.1 hfound]; omega) hilt).1 (beq_iff_eq.1 hfound)
  refine ⟨helmIssuable_of_ready (List.mem_of_find?_eq_some hi), ?_⟩
  rw [hwturn]
  by_contra hlt
  have hvi : portTurn s c v < i := Nat.not_le.1 hlt
  have hvbefore : portTurn s c v ∈ before := by
    have hin : portTurn s c v ∈ List.range 8 := List.mem_range.2 (by omega)
    have hsorted : (before ++ i :: after).Pairwise (· < ·) := hsplit ▸ List.pairwise_lt_range
    rw [hsplit, List.mem_append, List.mem_cons] at hin
    rcases hin with hin | rfl | hin
    · exact hin
    · exact absurd hvi (Nat.lt_irrefl _)
    · exact absurd ((List.pairwise_cons.1 (List.pairwise_append.1 hsorted).2.1).1 _ hin) (by omega)
  have hmissed := List.find?_eq_none.1 (hnone _ hvbefore) v hv
  rw [beq_iff_eq] at hmissed
  exact hmissed ((portTurn_eq_iff hlast hnumber (by omega)).2 rfl)

/-! ## Parcels (R292, R293) -/

theorem eccL1_quiet {s : State} (hq : s.errInjs = []) (r : Req) (v : View) (flat : Nat) : s.eccL1 r v flat = s := by
  have hclean (array key : Nat) : s.eccClean array key r.ctx = s := by rw [State.eccClean, eccKept_quiet (by rw [hq]; rfl)]
  unfold State.eccL1
  split <;> simp only [hclean, ite_self]

theorem eccCheck_quiet {s : State} (hq : s.errInjs = []) (flat ctx : Nat) : s.eccCheck flat ctx = (false, s) := by
  unfold State.eccCheck
  split
  · exact eccKept_quiet (by rw [hq]; rfl) _ _
  · exact eccWord_quiet hq _ _

theorem readFlat_quiet {s : State} {r : Req} {v : View} {a n : Nat} (hq : s.errInjs = []) (hclean : s.firstPoison a n = none) (hspace : spaceOf a ≠ 7) :
    s.readFlat r v a n = (.bytes (s.readView r.who v a n).1, (s.readView r.who v a n).2) := by
  unfold State.readFlat
  rw [eccL1_quiet hq, eccCheck_quiet hq]
  simp only [hclean, hspace, Option.isSome_none, Bool.false_eq_true, if_false]

theorem readSince_now {s : State} {since a n : Nat} (h : ∀ e ∈ s.hist, since < e.seq → ¬(a ≤ e.addr ∧ e.addr < a + n)) :
    s.readSince since a n = (s.bytesAt a n, s) := by
  have hnone : s.instantsSince since a n = [] := by
    rw [State.instantsSince, List.filter_eq_nil_iff.2]
    · rfl
    · intro e he hin
      simp only [Bool.and_eq_true, decide_eq_true_eq] at hin
      exact h e he hin.2 hin.1
  rw [State.readSince, hnone]

theorem view_of_cached {p : Spot} (h : ∀ l, p.leaf = some l → l.nc = false) (v : View) : p.view v = v := by
  unfold Spot.view
  split
  · rename_i l hl
    rw [h l hl]
    rfl
  · rfl

theorem fetchParcel_now {s t : State} {r : Req} {since : Nat} {a : Word} {p : Spot} {b : Nat} (hresolve : s.resolve r spGlobal a 2 .fetch = (.ok p, t))
    (hloc : p.loc = .flat b) (hcached : ∀ l, p.leaf = some l → l.nc = false) (hspace : spaceOf b = 0) (hq : (t.touchSpot p false).errInjs = [])
    (hlow : (t.touchSpot p false).isPoisoned b = false) (hhigh : (t.touchSpot p false).isPoisoned (b + 1) = false)
    (hold : ∀ e ∈ (t.touchSpot p false).hist, since < e.seq → e.addr ≠ b ∧ e.addr ≠ b + 1) :
    s.fetchParcel r (.inv since) a = (.bytes [(t.touchSpot p false).byteAt b, (t.touchSpot p false).byteAt (b + 1)], t.touchSpot p false) := by
  have hclean : (t.touchSpot p false).firstPoison b 2 = none := by
    simp only [State.firstPoison, hlow, hhigh, Bool.false_eq_true, if_false]
  have hread : (t.touchSpot p false).readLoc r (.inv since) (.flat b) 2 =
      (.bytes [(t.touchSpot p false).byteAt b, (t.touchSpot p false).byteAt (b + 1)], t.touchSpot p false) := by
    rw [State.readLoc, readFlat_quiet hq hclean (by omega), State.readView, readSince_now fun e he hseq hin => ?_]
    · rfl
    · obtain ⟨hne, hne'⟩ := hold e he hseq
      omega
  rw [State.fetchParcel, hresolve]
  simp only [State.fetchSpot, hloc, view_of_cached hcached, hread]

/-! ## The statement -/

/-- Settles O56: each turn's plan, then the end of the step that follows it. -/
theorem stepRunsDecoded : Obligations.StepRunsDecoded := by
  unfold Obligations.StepRunsDecoded
  intro ends runs
  refine ⟨fun s i rest hagenda hevent v hv => step_of_run ?_ hv, fun s w grp rest hagenda => ?_, fun s w rest hagenda => ?_, ?_, ?_, ?_⟩
  · rw [plan_of_agenda hagenda]
    exact if_pos hevent
  · intro g r old hrun htrap hhang hback pc hpc hfree t x len v hfetch y
    have hcur : v.cur = t.cur := by
      have h := cur_fetch t t.fetchReq (t.codeView w) t.curPc
      rwa [hfetch] at h
    have hplan : s.plan = y.planWord false x :=
      (plan_of_agenda hagenda).trans ((planGroup_bundle hrun htrap hhang hback hpc hfree).trans (planFetch_word hfetch))
    refine ⟨fun i n hi u hu => step_of_run (hplan.trans (planWord_instr hi)) hu, fun reason n hbad hroom => ?_, ?_, bundle_withBundle r g pc,
      fun l hl => (mem_bundleLanes (s := r) (g := g) hl).2⟩
    · exact step_of_done (hplan.trans (planWord_illegal hbad)) (by rw [popped_of_agenda hagenda]; exact hroom)
    · show (v.curWithLen len).cur = _
      have hbundle : v.cur = .group w grp (r.bundleLanes g pc) (BitVec.ofNat 64 pc) 2 := hcur
      rw [State.curWithLen, hbundle]
  · intro r hrun hhang hport t x len v hfetch y
    have hcur : v.cur = t.cur := by
      have h := cur_fetch t (t.helmReq w) (t.codeView w) t.curPc
      rwa [hfetch] at h
    have hplan : s.plan = y.planWord true x :=
      (plan_of_agenda hagenda).trans ((planHelm_serves hrun hhang hport).trans (planFetch_word hfetch))
    refine ⟨fun i n hi u hu => step_of_run (hplan.trans (planWord_instr hi)) hu, fun reason n hbad hroom => ?_, ?_, ?_⟩
    · exact step_of_done (hplan.trans (planWord_illegal hbad)) (by rw [popped_of_agenda hagenda]; exact hroom)
    · show (v.curWithLen len).cur = _
      have hhelm : v.cur = .helm w (r.helm w).pc 2 := hcur
      rw [State.curWithLen, hhelm]
    · show ((r.servePort w).core (r.coreOf w)).lastPort = _
      rw [State.servePort, core_setCore_same]
  · intro s c w v hport after hlast hnumber hlisted hresident hcore hready
    exact portHelm_first hport hlast hnumber (mem_portReady hlisted hresident hcore hready)
  · intro s u rest hagenda r hrunning hpc hsteps i hword v hv
    exact step_of_run ((plan_of_agenda hagenda).trans (planUnit_runs hrunning hpc hsteps hword)) hv
  · intro s r since a p b t hresolve hloc hcached hspace u hq hlow hhigh hold
    exact fetchParcel_now hresolve hloc hcached hspace hq hlow hhigh hold

end Sys2Proof.Proofs
end

section
/-! Values delivered to the data registers of lanes, at once or later (R129, R380). -/

namespace Sys2Proof.Proofs

open Sys2Proof Sys2Proof.Machine Sys2Proof.Laws

/-- A value on its way to a register: whether it comes later, and its tag. -/
structure Put where
  key : RegKey
  late : Bool
  tag : Tag
  val : Word

/-- Values delivered one after another, with no flags. -/
def puts (ws : List Put) (s : State) : State := ws.foldl (fun u p => u.deliver p.key p.late false p.tag p.val 0) s

theorem puts_cons (p : Put) (ws : List Put) (s : State) : puts (p :: ws) s = puts ws (s.deliver p.key p.late false p.tag p.val 0) := rfl

theorem puts_append (xs ys : List Put) (s : State) : puts (xs ++ ys) s = puts ys (puts xs s) := List.foldl_append

/-- `t` differs from `s` in registers and the values on their way to them alone. -/
def Lands (s t : State) : Prop := t = { s with regs := t.regs, fills := t.fills, nextId := t.nextId }

theorem Lands.trans {s t u : State} (h : Lands s t) (k : Lands t u) : Lands s u := by
  unfold Lands at h k
  rw [h] at k
  exact k

theorem lands_deliver (s : State) (k : RegKey) (late : Bool) (t : Tag) (v : Word) : Lands s (s.deliver k late false t v 0) := by
  unfold State.deliver
  cases late
  · simp only [Bool.false_eq_true, if_false, orFlags_zero]
    rfl
  · rfl

theorem puts_frame (ws : List Put) (s : State) : Lands s (puts ws s) := by
  induction ws generalizing s with
  | nil => rfl
  | cons p ws ih => exact (lands_deliver ..).trans (ih _)

theorem puts_cur (ws : List Put) (s : State) : (puts ws s).cur = s.cur := by rw [puts_frame]

theorem puts_fills (ws : List Put) (s : State) : ∃ begun, (puts ws s).fills = s.fills ++ begun := by
  induction ws generalizing s with
  | nil => exact ⟨[], (List.append_nil _).symm⟩
  | cons p ws ih =>
    obtain ⟨b, hb⟩ := (delivers_deliver s p.key p.late false p.tag p.val 0).begun
    obtain ⟨c, hc⟩ := ih (s.deliver p.key p.late false p.tag p.val 0)
    exact ⟨b ++ c, by rw [puts_cons, hc, hb, List.append_assoc]⟩

theorem reg_puts_apart {ws : List Put} {k : RegKey} (h : ∀ p ∈ ws, p.key ≠ k) (s : State) : (puts ws s).reg k = s.reg k := by
  induction ws generalizing s with
  | nil => rfl
  | cons p ws ih =>
    rw [puts_cons, ih (fun q hq => h q (List.mem_cons_of_mem _ hq)), reg_deliver, if_neg (h p List.mem_cons_self).symm]

theorem wrote_puts_apart {base s : State} {k : RegKey} {late : Bool} {tag : Tag} {v : Word} (h : Wrote base s k late tag v) {ws : List Put}
    (hapart : ∀ p ∈ ws, p.key ≠ k) : Wrote base (puts ws s) k late tag v := by
  unfold Wrote at h ⊢
  obtain ⟨b, hb⟩ := puts_fills ws s
  rw [reg_puts_apart hapart, hb]
  cases late with
  | false => exact h
  | true =>
    obtain ⟨hreg, x, hx, hfill⟩ := h
    exact ⟨hreg, x, List.mem_append_left _ hx, hfill⟩

theorem wrote_deliver {base s : State} {k : RegKey} (late : Bool) (tag : Tag) (v : Word) (hgroup : s.curGroup = base.curGroup)
    (hbits : late = true → (s.reg k).bits = (base.reg k).bits) : Wrote base (s.deliver k late false tag v 0) k late tag v := by
  unfold Wrote
  rw [reg_deliver, if_pos rfl]
  cases late with
  | false => rfl
  | true =>
    refine ⟨by rw [hbits rfl]; rfl, { id := s.nextId, reg := k, value := v, flags := 0, owner := s.curGroup }, ?_, rfl, rfl, hgroup⟩
    exact List.mem_append_right _ (List.mem_singleton_self _)

/-- A register that only one value goes to holds it, or has it on its way. -/
theorem wrote_puts {base s : State} {ws : List Put} {p : Put} (hp : p ∈ ws) (honly : ∀ q ∈ ws, q.key = p.key → q = p) (hgroup : s.curGroup = base.curGroup)
    (hbits : p.late = true → (s.reg p.key).bits = (base.reg p.key).bits) : Wrote base (puts ws s) p.key p.late p.tag p.val := by
  induction ws generalizing s with
  | nil => nomatch hp
  | cons q ws ih =>
    rw [puts_cons]
    have hrest (x : Put) (hx : x ∈ ws) := honly x (List.mem_cons_of_mem _ hx)
    have hgroup' : (s.deliver q.key q.late false q.tag q.val 0).curGroup = base.curGroup := by
      rw [← hgroup, curGroup_congr (delivers_deliver ..).cur]
    by_cases hmore : p ∈ ws
    · refine ih hmore hrest hgroup' fun hlate => ?_
      rw [reg_deliver]
      split
      · rename_i hkey
        rw [honly q List.mem_cons_self hkey.symm, if_pos hlate]
        exact hbits hlate
      · exact hbits hlate
    · obtain rfl : p = q := (List.mem_cons.1 hp).resolve_right hmore
      have hwrote : Wrote base (s.deliver p.key p.late false p.tag p.val 0) p.key p.late p.tag p.val := wrote_deliver p.late p.tag p.val hgroup hbits
      exact wrote_puts_apart hwrote fun x hx hkey => hmore (hrest x hx hkey ▸ hx)

/-! ## The data registers of a lane -/

/-- The values that go to the data registers of a lane. -/
def lanePuts (s : State) (l : Nat) (t : Tag) (data : List Src) (vs : List (Word × Bool)) : List Put :=
  (data.zip vs).filterMap (fun x => (s.srcKey l x.1).map (fun k => { key := k, late := !x.2.2, tag := t, val := x.2.1 }))

theorem lanePuts_congr {s u : State} (h : u.cur = s.cur) (l : Nat) (t : Tag) (data : List Src) (vs : List (Word × Bool)) :
    lanePuts u l t data vs = lanePuts s l t data vs := by
  simp only [lanePuts, srcKey_congr h]

theorem deliverValues_eq (s : State) (l : Nat) (t : Tag) (data : List Src) (vs : List (Word × Bool)) :
    s.deliverValues l t data vs = puts (lanePuts s l t data vs) s := by
  unfold State.deliverValues lanePuts
  induction data.zip vs generalizing s with
  | nil => rfl
  | cons x xs ih =>
    rw [List.foldl_cons, List.filterMap_cons]
    cases hkey : s.srcKey l x.1 with
    | none => exact ih s
    | some k =>
      have hcur : (s.deliver k (!x.2.2) false t x.2.1 0).cur = s.cur := (delivers_deliver ..).cur
      refine (ih _).trans ?_
      simp only [srcKey_congr hcur, Option.map_some, puts_cons]

/-- Lanes whose values are delivered one after another. -/
theorem foldl_deliverValues {α : Type} (lane : α → Nat) (t : Tag) (data : List Src) (vs : α → List (Word × Bool)) (xs : List α) (s : State) :
    xs.foldl (fun u x => u.deliverValues (lane x) t data (vs x)) s = puts (xs.flatMap (fun x => lanePuts s (lane x) t data (vs x))) s := by
  induction xs generalizing s with
  | nil => rfl
  | cons x xs ih =>
    rw [List.foldl_cons, ih, List.flatMap_cons, puts_append, deliverValues_eq]
    simp only [lanePuts_congr (puts_cur ..)]

theorem mem_lanePuts {s : State} {l : Nat} {t : Tag} {data : List Src} {vs : List (Word × Bool)} {p : Put} : p ∈ lanePuts s l t data vs ↔
    ∃ (j : Nat) (d : Src) (y : Word × Bool), data[j]? = some d ∧ vs[j]? = some y ∧ s.srcKey l d = some p.key ∧ p = { key := p.key, late := !y.2, tag := t, val := y.1 } := by
  rw [lanePuts, List.mem_filterMap]
  constructor
  · rintro ⟨⟨d, y⟩, hzip, hmap⟩
    obtain ⟨j, hj⟩ := List.mem_iff_getElem?.1 hzip
    obtain ⟨hd, hy⟩ := List.getElem?_zip_eq_some.1 hj
    obtain ⟨k, hk, rfl⟩ := Option.map_eq_some_iff.1 hmap
    exact ⟨j, d, y, hd, hy, hk, rfl⟩
  · rintro ⟨j, d, y, hd, hy, hk, hp⟩
    exact ⟨(d, y), List.mem_iff_getElem?.2 ⟨j, List.getElem?_zip_eq_some.2 ⟨hd, hy⟩⟩, Option.map_eq_some_iff.2 ⟨p.key, hk, hp.symm⟩⟩

/-- No two of the data registers of some lanes are one register. -/
def DataApart (s : State) (lanes : List Nat) (data : List Src) : Prop :=
  ∀ l ∈ lanes, ∀ m ∈ lanes, ∀ (i j : Nat) (c d : Src) (k : RegKey), data[i]? = some c → data[j]? = some d → s.srcKey l c = some k → s.srcKey m d = some k →
    l = m ∧ i = j

section
variable {α : Type} {base s : State} {lane : α → Nat} {t : Tag} {data : List Src} {vs : α → List (Word × Bool)} {xs : List α}

/-- Each data register of each lane has its value, where each lane has one. -/
theorem wrote_lanes (hcur : s.cur = base.cur) (hregs : s.regs = base.regs) (hapart : DataApart base (xs.map lane) data)
    (hone : ∀ x ∈ xs, ∀ y ∈ xs, lane x = lane y → vs x = vs y) {x : α} (hx : x ∈ xs) {j : Nat} {d : Src} {y : Word × Bool} {k : RegKey}
    (hd : data[j]? = some d) (hy : (vs x)[j]? = some y) (hk : base.srcKey (lane x) d = some k) :
    Wrote base (xs.foldl (fun u x => u.deliverValues (lane x) t data (vs x)) s) k (!y.2) t y.1 := by
  rw [foldl_deliverValues]
  refine wrote_puts (p := { key := k, late := !y.2, tag := t, val := y.1 })
    (List.mem_flatMap.2 ⟨x, hx, mem_lanePuts.2 ⟨j, d, y, hd, hy, (srcKey_congr hcur _ _).trans hk, rfl⟩⟩) (fun q hq hkey => ?_) (curGroup_congr hcur)
    (fun _ => by rw [State.reg, hregs, State.reg])
  obtain ⟨x', hx', hq⟩ := List.mem_flatMap.1 hq
  obtain ⟨i, c, z, hc, hz, hqk, hq⟩ := mem_lanePuts.1 hq
  rw [srcKey_congr hcur, hkey] at hqk
  obtain ⟨hlane, rfl⟩ := hapart _ (List.mem_map_of_mem hx') _ (List.mem_map_of_mem hx) i j c d k hc hd hqk hk
  rw [hone x' hx' x hx hlane, hy] at hz
  obtain rfl := Option.some.inj hz
  rw [hq, hkey]

theorem reg_lanes_apart (hcur : s.cur = base.cur) {k : RegKey} (h : ∀ x ∈ xs, ∀ d ∈ data, base.srcKey (lane x) d ≠ some k) :
    (xs.foldl (fun u x => u.deliverValues (lane x) t data (vs x)) s).reg k = s.reg k := by
  rw [foldl_deliverValues]
  refine reg_puts_apart (fun p hp hkey => ?_) s
  obtain ⟨x, hx, hp⟩ := List.mem_flatMap.1 hp
  obtain ⟨j, d, y, hd, -, hpk, -⟩ := mem_lanePuts.1 hp
  rw [srcKey_congr hcur, hkey] at hpk
  exact h x hx d (List.mem_of_getElem? hd) hpk

theorem lands_lanes : Lands s (xs.foldl (fun u x => u.deliverValues (lane x) t data (vs x)) s) := by
  rw [foldl_deliverValues]
  exact puts_frame ..

end

theorem laneKey_inj {s : State} {l m i j : Nat} (h : s.laneKey l i = s.laneKey m j) : l = m ∧ i = j := by
  injection h with _ _ hl hi
  exact ⟨hl, hi⟩

theorem getElem?_upFrom {d n j : Nat} (hj : j < n) : (upFrom d n)[j]? = some (d + j) := by
  simp [upFrom, hj, Nat.add_comm]

theorem getElem?_upFrom_eq_some {d n j k : Nat} : (upFrom d n)[j]? = some k ↔ j < n ∧ k = d + j := by
  simp only [upFrom, List.getElem?_map, Option.map_eq_some_iff, List.getElem?_eq_some_iff, List.length_range, List.getElem_range]
  constructor
  · rintro ⟨_, ⟨hj, rfl⟩, rfl⟩
    exact ⟨hj, Nat.add_comm _ _⟩
  · rintro ⟨hj, rfl⟩
    exact ⟨j, ⟨hj, rfl⟩, Nat.add_comm _ _⟩

/-- The v registers from a number on are apart. -/
theorem dataApart_lanes (s : State) (lanes : List Nat) (d n : Nat) (e : Bool) : DataApart s lanes ((upFrom d n).map (fun k => .lane k e)) := by
  intro l _ m _ i j c c' k hi hj hk hk'
  simp only [List.getElem?_map, Option.map_eq_some_iff, getElem?_upFrom_eq_some] at hi hj
  obtain ⟨_, ⟨-, rfl⟩, rfl⟩ := hi
  obtain ⟨_, ⟨-, rfl⟩, rfl⟩ := hj
  obtain ⟨rfl, hn⟩ := laneKey_inj (Option.some.inj (hk.trans hk'.symm))
  exact ⟨rfl, Nat.add_left_cancel hn⟩

end Sys2Proof.Proofs
end

section
/-! Stream registers (R144, R145, R399, R400). -/

namespace Sys2Proof.Proofs

open Sys2Proof Sys2Proof.Machine Sys2Proof.Laws

/-! ## Reads of several lanes -/

theorem Accesses.foldl_snd {α β : Type} {op : β × State → α → β × State} (h : ∀ acc x, Accesses acc.2 (op acc x).2) (xs : List α) (acc : β × State) :
    Accesses acc.2 (xs.foldl op acc).2 := by
  induction xs generalizing acc with
  | nil => exact .refl _
  | cons x xs ih => exact (h acc x).trans (ih _)

theorem accesses_prepReads (s : State) (xs : List LaneRead) : Accesses s (s.prepReads xs).2 := by
  refine Accesses.foldl_snd (fun acc x => Accesses.foldl_snd (fun b p => ?_) _ acc) xs (false, s)
  have hprep := accesses_prepRead b.2 (b.2.laneReq x.lane) spGeneric (x.addr + BitVec.ofNat 64 p.1) p.2 none
  split <;> rename_i heq <;> rw [heq] at hprep <;> exact hprep

theorem accesses_takeReads (s : State) (v : View) (xs : List LaneRead) : Accesses s (s.takeReads v xs).2 := by
  induction xs generalizing s with
  | nil => exact .refl s
  | cons x xs ih => exact (accesses_readPieces ..).trans (ih _)

theorem takeReads_reads (s : State) (v : View) (xs : List LaneRead) : (s.takeReads v xs).1.map Prod.fst = xs := by
  induction xs generalizing s with
  | nil => rfl
  | cons x xs ih => exact congrArg (x :: ·) (ih _)

theorem accesses_laneReads (s : State) (v : View) (xs : List LaneRead) : Accesses s (s.laneReads v xs).2 := by
  unfold State.laneReads
  split_ifs
  · exact .refl s
  · dsimp only
    split_ifs
    · exact accesses_prepReads s xs
    · exact (accesses_prepReads s xs).trans (accesses_takeReads _ v xs)

theorem laneReads_accesses {s t : State} {v : View} {xs : List LaneRead} {got : Option (List (LaneRead × ReadOut))} (h : s.laneReads v xs = (got, t)) :
    Accesses s t := by
  have hacc := accesses_laneReads s v xs
  rwa [h] at hacc

/-- What lanes read stands in their order. -/
theorem laneReads_reads {s t : State} {v : View} {xs : List LaneRead} {got : List (LaneRead × ReadOut)} (h : s.laneReads v xs = (some got, t)) :
    got.map Prod.fst = xs := by
  unfold State.laneReads at h
  split_ifs at h
  · cases h
  · dsimp only at h
    split_ifs at h
    · cases h
    · cases h
      exact takeReads_reads _ v xs

/-! ## The stream registers of the issuing group (R144) -/

theorem streams_advance {s : State} (hgroup : s.curHelm = false) (n : Nat) : s.advance.stream n = s.stream n := by
  obtain ⟨y, b, k, hg⟩ := group_advance_kept hgroup s.curGroup
  rw [State.stream, curGroup_congr (cur_advance s), hg]
  rfl

theorem stream_setStream (s : State) (n m : Nat) (x : Stream) : (s.setStream n x).stream m = if m = n then x else s.stream m := by
  have hcur : (s.setStream n x).curGroup = s.curGroup := rfl
  rw [State.stream, hcur, State.setStream, group_setGroup_same]
  exact getD_set _ _ _ _ _

theorem stream_congr {s t : State} (hcur : t.cur = s.cur) (hgroups : t.groups = s.groups) (n : Nat) : t.stream n = s.stream n := by
  rw [State.stream, State.stream, curGroup_congr hcur, State.group, State.group, hgroups]

/-- What a bundle finds that has one stream register changed and has moved on. -/
theorem stream_moves {s r : State} (hgroup : s.curHelm = false) (h : Accesses s r) (n : Nat) (x : Stream) :
    (∀ m, (r.setStream n x).advance.stream m = if m = n then x else s.stream m) ∧ (r.setStream n x).advance.regs = s.regs ∧
      (r.setStream n x).advance.mem = r.mem ∧ MovesOn s (r.setStream n x).advance := by
  have hcur : (r.setStream n x).cur = s.cur := by
    show r.cur = s.cur
    rw [h]
  refine ⟨fun m => ?_, ?_, advance_mem _, movesOn_advance hgroup hcur ?_⟩
  · rw [streams_advance ((curHelm_congr hcur).trans hgroup), stream_setStream, stream_congr (s := s) (t := r) (by rw [h]) (by rw [h])]
  · rw [advance_regs]
    show r.regs = s.regs
    rw [h]
  · show r.threads = s.threads
    rw [h]

theorem withStream_open {s : State} {n : Nat} (hn : n < 8) (hopen : (s.stream n).isOpen = true) (go : Stream → Out) : s.withStream n go = go (s.stream n) :=
  if_neg (by simp [hopen]; omega)

theorem wopen_moves {i : Instr} {d : Nat} {a : Src} (hx : ∀ s, exec i s = s.wopenStep d a) {s r : State} {recs : List (List Byte)} {x : Stream}
    (hgroup : s.curHelm = false) (hd : d < 8) (hreads : BundleReads s [a] []) (hread : s.readRecords (streamRecords (s.srcBits 0 a)) [] 4 = .got recs r)
    (hstream : streamOf recs r.writeSeq r.floors.length = some x) : exec i s = .next (r.setStream d x).advance := by
  rw [hx, State.wopenStep, if_neg (by omega), withUni_ready (srcs := [{ opnd := 0, src := a }]) hgroup hreads]
  simp only [hread, hstream]

/-- A stream opens at its head, with nothing fetched. -/
theorem streamOf_opens {recs : List (List Byte)} {seq floors : Nat} {x : Stream} (h : streamOf recs seq floors = some x) :
    x.isOpen = true ∧ x.head = 0 ∧ x.fifo = [] := by
  unfold streamOf at h
  split at h
  · cases h
  · dsimp only at h
    split at h
    · cases h
    split at h
    · cases h; exact ⟨rfl, rfl, rfl⟩
    · cases h; exact ⟨rfl, rfl, rfl⟩
    · cases h; exact ⟨rfl, rfl, rfl⟩
    · split at h
      · cases h
      · cases h; exact ⟨rfl, rfl, rfl⟩
    · cases h

/-! ## The elements that wld reads (R145, R400) -/

section
variable {x : Stream} {perLane : Bool} {all : List Nat}

theorem mem_streamReaders {l : Nat} : l ∈ streamReaders x perLane all ↔ l ∈ (if perLane then all else all.take 1) ∧ streamPos x perLane l < x.len := by
  rw [streamReaders, List.mem_filter, decide_eq_true_iff]

theorem mem_streamFetchers {l : Nat} : l ∈ streamFetchers x perLane all ↔ l ∈ streamReaders x perLane all ∧ x.held (streamPos x perLane l) = none := by
  rw [streamFetchers, List.mem_filter, Option.isNone_iff_eq_none]

/-- The lane whose element a lane takes. -/
def sourceLane (perLane : Bool) (all : List Nat) (l : Nat) : Nat := if perLane then l else all.headD 0

theorem sourceLane_reads {l : Nat} (hl : l ∈ all) : sourceLane perLane all l ∈ (if perLane then all else all.take 1) := by
  unfold sourceLane
  cases perLane with
  | true => exact hl
  | false =>
    cases all with
    | nil => nomatch hl
    | cons y ys => exact List.mem_cons_self

variable {ix : List (LaneRead × ReadOut)} (hix : ix.map Prod.fst = streamIndexReads x perLane all) (hbytes : ∀ g ∈ ix, ∃ b, g.2 = .bytes b)

include hix in
theorem lane_streamElems {e : LaneRead} (he : e ∈ streamElems x perLane all ix) : e.lane ∈ streamFetchers x perLane all := by
  unfold streamElems at he
  unfold streamIndexReads at hix
  split at he <;> rename_i hindex
  · obtain ⟨l, hl, rfl⟩ := List.mem_map.1 he
    exact hl
  · rw [hindex] at hix
    obtain ⟨g, hg, hmade⟩ := List.mem_filterMap.1 he
    have hlane : g.1 ∈ ix.map Prod.fst := List.mem_map_of_mem hg
    rw [hix] at hlane
    obtain ⟨l, hl, hread⟩ := List.mem_map.1 hlane
    split at hmade
    · cases hmade
      show g.1.lane ∈ _
      rw [← hread]
      exact hl
    · cases hmade

include hix hbytes in
theorem streamElems_of_fetcher {l : Nat} (hl : l ∈ streamFetchers x perLane all) : ∃ e ∈ streamElems x perLane all ix, e.lane = l := by
  unfold streamElems
  unfold streamIndexReads at hix
  split <;> rename_i hindex
  · exact ⟨_, List.mem_map_of_mem hl, rfl⟩
  · rw [hindex] at hix
    dsimp only at hix
    obtain ⟨g, hg, hread⟩ := List.mem_map.1 (hix ▸ List.mem_map_of_mem hl)
    obtain ⟨b, hb⟩ := hbytes g hg
    refine ⟨_, List.mem_filterMap.2 ⟨g, hg, by rw [hb]⟩, ?_⟩
    show g.1.lane = l
    rw [hread]

theorem streamElems_direct {e : LaneRead} (he : e ∈ streamElems x perLane all ix) (hindex : x.index = none) :
    e.len = x.size ∧ e.addr = x.base + BitVec.ofNat 64 (streamPos x perLane e.lane) * x.stride := by
  rw [streamElems, hindex] at he
  obtain ⟨l, -, rfl⟩ := List.mem_map.1 he
  exact ⟨rfl, rfl⟩

/-! ## What a lane takes -/

/-- The bytes that a lane takes of what was read for another, or none. -/
def takenBytes (from' : List (LaneRead × ReadOut)) (src : Nat) : List Byte :=
  match from'.find? (fun g => g.1.lane == src) with
  | some (_, .bytes bs) => bs
  | _ => []

theorem held_streamHeld {g : LaneRead × ReadOut} (hg : g ∈ streamHeld x perLane all) :
    g.1.lane ∈ streamReaders x perLane all ∧ ∃ b, x.held (streamPos x perLane g.1.lane) = some b ∧ g.2 = .bytes b := by
  obtain ⟨l, hl, hmade⟩ := List.mem_filterMap.1 hg
  obtain ⟨b, hb, rfl⟩ := Option.map_eq_some_iff.1 hmade
  exact ⟨hl, b, hb, rfl⟩

section
variable {got : List (LaneRead × ReadOut)} (hgot : got.map Prod.fst = streamElems x perLane all ix)
include hix hgot

theorem lane_got {g : LaneRead × ReadOut} (hg : g ∈ got) : g.1.lane ∈ streamFetchers x perLane all :=
  lane_streamElems hix (hgot ▸ List.mem_map_of_mem hg)

/-- Beyond the length nothing is read. -/
theorem takenBytes_beyond {src : Nat} (hbeyond : x.len ≤ streamPos x perLane src) : takenBytes (got ++ streamHeld x perLane all) src = [] := by
  have hnone : (got ++ streamHeld x perLane all).find? (fun g => g.1.lane == src) = none := by
    refine List.find?_eq_none.2 fun g hg hlane => ?_
    have hreader : g.1.lane ∈ streamReaders x perLane all :=
      (List.mem_append.1 hg).elim (fun h => (mem_streamFetchers.1 (lane_got hix hgot h)).1) (fun h => (held_streamHeld h).1)
    rw [beq_iff_eq.1 hlane] at hreader
    have hlt := (mem_streamReaders.1 hreader).2
    omega
  rw [takenBytes, hnone]

/-- What the FIFO holds is taken from it. -/
theorem takenBytes_held {src : Nat} (hsrc : src ∈ streamReaders x perLane all) {b : List Byte} (hb : x.held (streamPos x perLane src) = some b) :
    takenBytes (got ++ streamHeld x perLane all) src = b := by
  have hnone : got.find? (fun g => g.1.lane == src) = none := by
    refine List.find?_eq_none.2 fun g hg hlane => ?_
    have hfetch := (mem_streamFetchers.1 (lane_got hix hgot hg)).2
    rw [beq_iff_eq.1 hlane, hb] at hfetch
    cases hfetch
  have hsome : ((streamHeld x perLane all).find? (fun g => g.1.lane == src)).isSome = true := by
    refine List.find?_isSome.2 ⟨_, List.mem_filterMap.2 ⟨src, hsrc, Option.map_eq_some_iff.2 ⟨b, hb, rfl⟩⟩, beq_self_eq_true src⟩
  obtain ⟨g, hg⟩ := Option.isSome_iff_exists.1 hsome
  obtain ⟨-, c, hc, hgc⟩ := held_streamHeld (List.mem_of_find?_eq_some hg)
  have hlane := List.find?_some hg
  rw [beq_iff_eq.1 hlane, hb] at hc
  obtain rfl := Option.some.inj hc
  rw [takenBytes, List.find?_append, hnone, Option.none_or, hg]
  obtain ⟨e, o⟩ := g
  dsimp only at hgc
  rw [hgc]

include hbytes in
/-- What it does not hold is taken as fetched. -/
theorem takenBytes_fetched (hgotBytes : ∀ g ∈ got, ∃ b, g.2 = .bytes b) {src : Nat} (hsrc : src ∈ streamFetchers x perLane all) :
    ∃ e ∈ streamElems x perLane all ix, ∃ b, e.lane = src ∧ (e, .bytes b) ∈ got ∧ takenBytes (got ++ streamHeld x perLane all) src = b := by
  obtain ⟨e, he, hlane⟩ := streamElems_of_fetcher hix hbytes hsrc
  obtain ⟨g, hg, rfl⟩ := List.mem_map.1 (hgot ▸ he)
  have hsome : (got.find? (fun g => g.1.lane == src)).isSome = true := List.find?_isSome.2 ⟨g, hg, beq_iff_eq.2 hlane⟩
  obtain ⟨g', hg'⟩ := Option.isSome_iff_exists.1 hsome
  have hmem := List.mem_of_find?_eq_some hg'
  obtain ⟨b, hb⟩ := hgotBytes g' hmem
  obtain ⟨e', o⟩ := g'
  dsimp only at hb
  subst hb
  have hsame := List.find?_some hg'
  refine ⟨e', hgot ▸ List.mem_map_of_mem hmem, b, beq_iff_eq.1 hsame, hmem, ?_⟩
  rw [takenBytes, List.find?_append, hg', Option.some_or]

end

end

/-! ## wld and wld.lane (R400) -/

/-- The words of a lane's registers of a stream's element, all later. -/
def elementWords (n : Nat) (bs : List Byte) : List (Word × Bool) := (List.range n).map (fun j => (wordOf ((bs.drop (8 * j)).take 8), false))

theorem landStream_eq (v : State) (x : Stream) (perLane : Bool) (d : Nat) (others : List Nat) (from' : List (LaneRead × ReadOut)) (all : List Nat) (l : Nat) :
    v.landStream x perLane d others [] from' (all.headD 0) l =
      v.deliverValues l x.tag ((upFrom d (ceilDiv x.size 8)).map (fun k => .lane k false))
        (elementWords (ceilDiv x.size 8) (takenBytes from' (sourceLane perLane all l))) := by
  have hlen : ((upFrom d (ceilDiv x.size 8)).map (fun k => Src.lane k false)).length = ceilDiv x.size 8 := by simp [upFrom]
  unfold State.landStream takenBytes sourceLane elementWords
  dsimp only [List.find?_nil]
  rw [hlen]
  generalize from'.find? (fun g => g.1.lane == if perLane then l else all.headD 0) = found
  obtain _ | ⟨e, _ | _ | _⟩ := found <;> rfl

/-- The state in which the elements that a bundle read have landed. -/
def streamLanded (u : State) (x : Stream) (perLane : Bool) (d a : Nat) (all : List Nat) (got : List (LaneRead × ReadOut)) : State :=
  all.foldl (fun v l => v.deliverValues l x.tag ((upFrom d (ceilDiv x.size 8)).map (fun k => .lane k false))
    (elementWords (ceilDiv x.size 8) (takenBytes (got ++ streamHeld x perLane all) (sourceLane perLane all l)))) (u.setStream a (x.keep perLane got)).advance

theorem readFaults_bytes {xs : List (LaneRead × ReadOut)} (h : ∀ g ∈ xs, ∃ b, g.2 = .bytes b) : readFaults xs = [] := by
  refine List.filterMap_eq_nil_iff.2 fun g hg => ?_
  obtain ⟨b, hb⟩ := h g hg
  rw [hb]

section
variable {s r u : State} {f : Form} {perLane : Bool} {d a : Nat} {ix got : List (LaneRead × ReadOut)}
  (hgroup : s.curHelm = false) (ha : a < 8) (hopen : (s.stream a).isOpen = true) (hroom : d + ceilDiv (s.stream a).size 8 ≤ 64) (hactive : s.active f ≠ [])
  (hready : ReadableIn s (s.active f ++ s.activeHelpers f) [] ((upFrom d (ceilDiv (s.stream a).size 8)).map (fun k => .lane k false)))
  (hindex : s.laneReads (s.streamView (s.stream a)) (streamIndexReads (s.stream a) perLane (s.active f ++ s.activeHelpers f)) = (some ix, r))
  (hixBytes : ∀ g ∈ ix, ∃ b, g.2 = .bytes b)
  (haligned : ∀ e ∈ streamElems (s.stream a) perLane (s.active f ++ s.activeHelpers f) ix, streamAligned (s.stream a) e.addr = true)
  (helems : r.laneReads (s.streamView (s.stream a)) (streamElems (s.stream a) perLane (s.active f ++ s.activeHelpers f) ix) = (some got, u))
  (hgotBytes : ∀ g ∈ got, ∃ b, g.2 = .bytes b)
include hopen ha hroom hactive hready hindex hixBytes haligned helems hgotBytes

theorem wldStep_lands : s.wldStep f perLane d a = .next (streamLanded u (s.stream a) perLane d a (s.active f ++ s.activeHelpers f) got) := by
  have hfull : s.checkFull (s.active f) (s.activeHelpers f) [] ((upFrom d (ceilDiv (s.stream a).size 8)).map (fun k => .lane k false)) = .ok s :=
    checkFull_ok s _ _ _ _ hready.quiet (fun _ _ _ ho => nomatch ho) hready.dsts
  have hgood : (streamElems (s.stream a) perLane (s.active f ++ s.activeHelpers f) ix).filter (fun e => streamAligned (s.stream a) e.addr) =
      streamElems (s.stream a) perLane (s.active f ++ s.activeHelpers f) ix := List.filter_eq_self.2 haligned
  have hbad : (streamElems (s.stream a) perLane (s.active f ++ s.activeHelpers f) ix).filter (fun e => !streamAligned (s.stream a) e.addr) = [] :=
    List.filter_eq_nil_iff.2 fun e he => by simp [haligned e he]
  unfold State.wldStep
  rw [withStream_open ha hopen]
  simp only [Nat.not_lt.2 hroom, List.isEmpty_eq_false_iff.2 hactive, Bool.false_eq_true, if_false, hfull, hindex, hgood, helems, hbad,
    readFaults_bytes hixBytes, readFaults_bytes hgotBytes, List.map_nil, List.append_nil, landStream_eq, streamLanded]

include hgroup in
theorem wld_completes {i : Instr} (hx : ∀ s, exec i s = s.wldStep f perLane d a) :
    let x := s.stream a
    let n := ceilDiv x.size 8
    let all := s.active f ++ s.activeHelpers f
    let from' := fun (l : Nat) => if perLane then l else all.headD 0
    Completes i s (fun t =>
      (∀ l ∈ all, ∀ j < n, x.len ≤ streamPos x perLane (from' l) → Wrote s t (s.laneKey l (d + j)) true x.tag 0) ∧
      (∀ l ∈ all, ∀ j < n, ∀ b, streamPos x perLane (from' l) < x.len → x.held (streamPos x perLane (from' l)) = some b →
        Wrote s t (s.laneKey l (d + j)) true x.tag (wordOf ((b.drop (8 * j)).take 8))) ∧
      (∀ l ∈ all, ∀ j < n, streamPos x perLane (from' l) < x.len → x.held (streamPos x perLane (from' l)) = none →
        ∃ e ∈ streamElems x perLane all ix, ∃ b, e.lane = from' l ∧ (e, .bytes b) ∈ got ∧
        Wrote s t (s.laneKey l (d + j)) true x.tag (wordOf ((b.drop (8 * j)).take 8))) ∧
      (∀ e ∈ streamElems x perLane all ix, x.index = none → e.len = x.size ∧ e.addr = x.base + BitVec.ofNat 64 (streamPos x perLane e.lane) * x.stride) ∧
      (∀ k, (∀ l ∈ all, ∀ j < n, k ≠ s.laneKey l (d + j)) → t.reg k = s.reg k) ∧
      t.stream a = { x with fifo := (t.stream a).fifo } ∧ (∀ e ∈ x.fifo, e ∈ (t.stream a).fifo) ∧
      (∀ e ∈ (t.stream a).fifo, e ∈ x.fifo ∨ ∃ g ∈ got, g.2 = .bytes e.2 ∧ e.1 = streamPos x perLane g.1.lane ∧ e.1 < x.head + 8) ∧
      t.threads = s.advance.threads ∧ t.mem = u.mem) := by
  intro x n all from'
  refine ⟨_, (hx s).trans (wldStep_lands ha hopen hroom hactive hready hindex hixBytes haligned helems hgotBytes), ?_⟩
  have hix := laneReads_reads hindex
  have hgot := laneReads_reads helems
  have hacc := (laneReads_accesses hindex).trans (laneReads_accesses helems)
  obtain ⟨hstreams, hregs, hmem, -⟩ := stream_moves hgroup hacc a (x.keep perLane got)
  have hcur : (u.setStream a (x.keep perLane got)).advance.cur = s.cur := by
    rw [cur_advance]
    show u.cur = s.cur
    rw [hacc]
  have hlands : Lands (u.setStream a (x.keep perLane got)).advance (streamLanded u x perLane d a all got) := lands_lanes
  have hland {l : Nat} (hl : l ∈ all) {j : Nat} (hj : j < n) : Wrote s (streamLanded u x perLane d a all got) (s.laneKey l (d + j)) true x.tag
      (wordOf (((takenBytes (got ++ streamHeld x perLane all) (from' l)).drop (8 * j)).take 8)) := by
    refine wrote_lanes (y := (_, false)) (j := j) hcur hregs (dataApart_lanes s _ d n false) (fun y _ z _ h => ?_) hl (d := .lane (d + j) false) ?_ ?_ rfl
    · rw [show y = z from h]
    · rw [List.getElem?_map, getElem?_upFrom hj]
      rfl
    · rw [elementWords, List.getElem?_map, List.getElem?_range hj]
      rfl
  have hreads {l : Nat} (hl : l ∈ all) (hlt : streamPos x perLane (from' l) < x.len) : from' l ∈ streamReaders x perLane all :=
    mem_streamReaders.2 ⟨sourceLane_reads hl, hlt⟩
  have hstream : (streamLanded u x perLane d a all got).stream a = x.keep perLane got := by
    rw [stream_congr (s := (u.setStream a (x.keep perLane got)).advance) (by rw [hlands]) (by rw [hlands]), hstreams, if_pos rfl]
  refine ⟨fun l hl j hj hbeyond => ?_, fun l hl j hj b hlt hheld => ?_, fun l hl j hj hlt hheld => ?_, fun e he => streamElems_direct he, fun k hk => ?_,
    ?_, fun e he => ?_, fun e he => ?_, ?_, ?_⟩
  · have h := hland hl hj
    rwa [takenBytes_beyond hix hgot hbeyond, List.drop_nil, List.take_nil] at h
  · have h := hland hl hj
    rwa [takenBytes_held hix hgot (hreads hl hlt) hheld] at h
  · obtain ⟨e, he, b, hlane, hin, htaken⟩ := takenBytes_fetched hix hixBytes hgot hgotBytes (mem_streamFetchers.2 ⟨hreads hl hlt, hheld⟩)
    have h := hland hl hj
    rw [htaken] at h
    exact ⟨e, he, b, hlane, hin, h⟩
  · refine (reg_lanes_apart hcur fun l hl c hc hkey => ?_).trans (congrArg (FMap.getD · k _) hregs)
    obtain ⟨m, hm, rfl⟩ := List.mem_map.1 hc
    obtain ⟨j, hj⟩ := List.mem_iff_getElem?.1 hm
    obtain ⟨hjn, rfl⟩ := getElem?_upFrom_eq_some.1 hj
    exact hk l hl j hjn (Option.some.inj hkey).symm
  · rw [hstream]
    rfl
  · rw [hstream]
    exact List.mem_append_left _ he
  · rw [hstream] at he
    refine (List.mem_append.1 he).imp id fun hin => ?_
    obtain ⟨g, hg, hkept⟩ := List.mem_filterMap.1 hin
    obtain ⟨b, hb⟩ := hgotBytes g hg
    rw [hb] at hkept
    dsimp only at hkept
    split_ifs at hkept with hnear
    obtain rfl := Option.some.inj hkept
    exact ⟨g, hg, hb, rfl, hnear⟩
  · rw [hlands]
    show (u.setStream a (x.keep perLane got)).advance.threads = _
    rw [advance_congr s (u.setStream a (x.keep perLane got)) (by show u.cur = _; rw [hacc]) (by show u.threads = _; rw [hacc])]
  · rw [hlands]
    exact hmem

end

/-! ## The statement -/

/-- Settles O31: each stream register's change and its bundle's moving on; the elements land by the lanes that read them. -/
theorem streamResults : Obligations.StreamResults := by
  unfold Obligations.StreamResults
  refine ⟨?_, ?_⟩
  · intro only opens moves ends closes
    have hopens {i : Instr} {d : Nat} {a : Src} (hx : ∀ s, exec i s = s.wopenStep d a) : opens i d a := by
      intro s r recs x hgroup _ hd hreads hread hstream
      obtain ⟨hstreams, hregs, hmem, hmoves⟩ := stream_moves hgroup (loads_readRecords hread).accesses d x
      refine ⟨_, wopen_moves hx hgroup hd hreads hread hstream, ⟨?_, fun m hm => by rw [hstreams, if_neg hm], hregs, hmoves⟩, hmem, streamOf_opens hstream⟩
      rw [hstreams, stream_setStream, if_pos rfl, if_pos rfl]
    have hmoved {i : Instr} {a n : Nat} (hx : ∀ s, exec i s = s.wadvStep a n) : moves i a n := by
      intro s hgroup _ ha hopen head
      obtain ⟨hstreams, hregs, hmem, hmoves⟩ := stream_moves hgroup (.refl s) a ((s.stream a).move n)
      refine ⟨_, (hx s).trans (withStream_open ha hopen _), ⟨?_, fun m hm => by rw [hstreams, if_neg hm], hregs, hmoves⟩, hmem⟩
      rw [hstreams, stream_setStream, if_pos rfl, if_pos rfl]
      rfl
    have hends {i : Instr} {f : Form} {d a : Nat} (hx : ∀ s, exec i s = s.wendStep f d a) : ends i f d a := by
      intro s hgroup _ ha hopen
      refine ⟨_, (hx s).trans (withStream_open ha hopen _), putsPred_putVotes s _ d _, ?_, ?_, ?_⟩
      · rw [advance_regs]
        exact (congrArg State.regs (putVotes_frame s (s.active f ++ s.activeHelpers f) d (decide ((s.stream a).len ≤ (s.stream a).head))) :)
      · rw [advance_mem]
        exact (congrArg State.mem (putVotes_frame s (s.active f ++ s.activeHelpers f) d (decide ((s.stream a).len ≤ (s.stream a).head))) :)
      · have h := advance_of_threads (putVotes_frame s (s.active f ++ s.activeHelpers f) d (decide ((s.stream a).len ≤ (s.stream a).head)))
        exact (congrArg State.groups h :)
    have hcloses {i : Instr} {a : Nat} (hx : ∀ s, exec i s = s.wcloseStep a) : closes i a := by
      intro s hgroup _ ha
      obtain ⟨hstreams, hregs, hmem, hmoves⟩ := stream_moves hgroup (.refl s) a Stream.closed
      have hclosed := hstreams a
      rw [if_pos rfl] at hclosed
      refine ⟨_, (hx s).trans (if_neg (by omega)), ?_, ?_, fun m hm => by rw [hstreams, if_neg hm], hregs, hmem, hmoves⟩
      · rw [hclosed]
        rfl
      · rw [hclosed]
        rfl
    clear_value opens moves ends closes
    exact ⟨fun w => hopens fun _ => rfl, fun w => hopens fun _ => rfl, fun w => hmoved fun _ => rfl, fun w => hmoved fun _ => rfl,
      fun w => hends fun _ => rfl, fun w => hends fun _ => rfl, fun w => hcloses fun _ => rfl, fun w => hcloses fun _ => rfl⟩
  · intro reads
    have hreads {i : Instr} {f : Form} {perLane : Bool} {d a : Nat} (hx : ∀ s, exec i s = s.wldStep f perLane d a) : reads i f perLane d a :=
      fun s r u ix got hgroup _ ha hopen hroom hactive hready hindex hixBytes haligned helems hgotBytes =>
        wld_completes hgroup ha hopen hroom hactive hready hindex hixBytes haligned helems hgotBytes hx
    clear_value reads
    exact ⟨fun w => hreads fun _ => rfl, fun w => hreads fun _ => rfl, fun w => hreads fun _ => rfl, fun w => hreads fun _ => rfl⟩

end Sys2Proof.Proofs
end

section
/-! A load of a word of a lane's own memory whose flat address lies among those of device memory, in a workgroup of a high number (R82, R172, R380). -/

namespace Sys2Proof.Proofs

open Sys2Proof Sys2Proof.Machine Sys2Proof.Laws

/-- A bundle of one thread of workgroup 2^81, the others of its quad killed, whose lanes' own slices lie where the model counts device memory, with sixteen blocks
that await a re-pack in the home slice of its first word. -/
def farGroup : State :=
  { State.reset with
    cur := .group (2 ^ 81) 0 [0] 0 4
    threads := ({ wg := 2 ^ 81, grp := 0, lane := 0 }, { Thread.absent with live := true }) ::
      [1, 2, 3].map (fun l => ({ wg := 2 ^ 81, grp := 0, lane := l }, { Thread.absent with killed := true }))
    vbd := List.replicate 16 { frame := 0, block := 0, esz := 2, held := true } }

/-- `ld v1, lane[s0]`. -/
def farLoad : M32 := { p := 4, g := 0, f := false, o := 0, a := 0, d := 1 }

/-- Its operands. -/
def farArgs : MemArgs := Machine.mem32 farLoad 8

/-- The word that it loads, and where it lies. -/
def farWord : Word := farGroup.memAddr farArgs 0
def farPlace : Nat := laneAt (2 ^ 81) 0 0 0

theorem bundle_farGroup : Bundle farGroup := ⟨fun l hl => by rw [List.mem_singleton.1 hl]; rfl, List.pairwise_singleton _ _⟩

theorem active_farGroup : farGroup.active farArgs.form = [0] := by decide

theorem helpers_farGroup : farGroup.memHelpers farArgs = [] := by decide

theorem lanes_farGroup : farGroup.memLanes farArgs ++ farGroup.memHelpers farArgs = [0] := by decide

theorem words_farGroup : farGroup.memWords farArgs 0 = [0] := by decide

theorem decode_farGroup : farGroup.decodeAddr (farGroup.laneReq 0) farArgs.space 0 8 = some (.chip farPlace) := by decide

theorem sliceFull_farGroup : farGroup.sliceFull ⟨.flat farPlace, none⟩ = true := by decide

theorem readable_farGroup : ReadableIn farGroup (farGroup.active farArgs.form ++ farGroup.memHelpers farArgs) [farArgs.base] farArgs.data := by
  rw [active_farGroup, helpers_farGroup]
  exact ⟨rfl, fun l hl x hx => by rw [List.mem_singleton.1 hl, List.mem_singleton.1 hx]; rfl,
    fun l hl x hx => by rw [List.mem_singleton.1 hl, List.mem_singleton.1 hx]; rfl⟩

theorem onChip_farGroup : OnChip farGroup farArgs (farGroup.memLanes farArgs ++ farGroup.memHelpers farArgs) := by
  rw [lanes_farGroup]
  intro l hl
  rw [List.mem_singleton.1 hl, words_farGroup]
  refine ⟨by decide, fun a ha => ?_⟩
  rw [List.mem_singleton.1 ha]
  exact ⟨farPlace, decode_farGroup, by decide, by decide⟩

/-- What the load resolves to. -/
def farSpots : List LaneSpots := [(0, .ok [(0, ⟨.flat farPlace, none⟩)])]

theorem resolveLanes_farGroup : farGroup.resolveLanes farArgs .read [0] = (farSpots, farGroup) := by rfl

/-- A full home slice takes a choice before the access, whatever is chosen. -/
theorem prepLanes_farGroup : farGroup.prepLanes 8 farSpots = ((farGroup.choose 2).1 == 1, { farGroup with freeCount := 1 }) := by
  have hspot : farGroup.prepSpot (farGroup.laneReq 0) ⟨.flat farPlace, none⟩ 8 none =
      (if (farGroup.choose 2).1 == 1 then .wait else .ready, { farGroup with freeCount := 1 }) := by
    unfold State.prepSpot
    simp only [sliceFull_farGroup, Bool.true_and, if_true]
    cases (farGroup.choose 2).1 == 1 with
    | true => rfl
    | false =>
      have hline : (farGroup.choose 2).2.prepLine (farGroup.laneReq 0) farPlace = (.ready, (farGroup.choose 2).2) := by
        rw [State.prepLine, if_neg (by decide), if_neg (by decide)]
      exact hline
  have hlane : farGroup.prepLane 8 (0, .ok [(0, ⟨.flat farPlace, none⟩)]) none = ((farGroup.choose 2).1 == 1, { farGroup with freeCount := 1 }) := by
    unfold State.prepLane
    simp only [List.foldl_cons, List.foldl_nil, hspot]
    cases (farGroup.choose 2).1 == 1 <;> rfl
  unfold State.prepLanes farSpots
  simp only [List.foldl_cons, List.foldl_nil, hlane, Bool.false_or]

theorem exec_farGroup : ∃ t, exec (.ld 0 farLoad) farGroup = .next t ∧ t.freeCount = 1 := by
  have hfull : farGroup.checkFull (farGroup.active farArgs.form) (farGroup.memHelpers farArgs) [{ opnd := 0, src := farArgs.base }] farArgs.data = .ok farGroup :=
    checkFull_ok _ _ _ _ _ rfl (fun l hl o ho => readable_farGroup.srcs l hl o.src (by rw [List.mem_singleton.1 ho]; exact List.mem_singleton_self _))
      readable_farGroup.dsts
  have hheld : (farGroup.phasePending farGroup.curGroup || farGroup.pageHeld farArgs [0]) = false := by decide
  have hsize : farArgs.size = 8 := rfl
  show ∃ t, farGroup.loadStep farArgs 0 false wordOf = .next t ∧ _
  unfold State.loadStep
  simp only [hfull, hheld, Bool.false_eq_true, if_false, lanes_farGroup, resolveLanes_farGroup, hsize, prepLanes_farGroup]
  split
  · exact ⟨_, rfl, rfl⟩
  · exact ⟨_, rfl, rfl⟩

/-- The word is clean, and has one permitted value. -/
theorem far_settled : farGroup.firstPoison (chipPlace farGroup farArgs 0 0) 8 = none ∧ (spaceOf (chipPlace farGroup farArgs 0 0) = 7 ∨
    farGroup.olderInstants farGroup.curParty (chipPlace farGroup farArgs 0 0) 8 = []) := ⟨by decide, .inr (by decide)⟩

/-- Refutes O20: in `farGroup` the load's place is in its lane's own memory, yet the model takes its home slice for one of device memory; as that is
full, whether the load waits is a free choice, which is counted, and the count is no register. -/
theorem not_loadResults : ¬ Obligations.LoadResults := by
  unfold Obligations.LoadResults
  rintro ⟨⟨hld, -⟩, -⟩
  obtain ⟨t, hexec, ⟨⟨honly, -⟩, -⟩⟩ := hld 0 farLoad farGroup bundle_farGroup readable_farGroup rfl onChip_farGroup fun l hl a ha => by
    have hl0 : l ∈ farGroup.memLanes farArgs ++ farGroup.memHelpers farArgs := hl
    rw [lanes_farGroup, List.mem_singleton] at hl0
    subst hl0
    have ha0 : a ∈ farGroup.memWords farArgs 0 := ha
    rw [words_farGroup, List.mem_singleton] at ha0
    subst ha0
    exact far_settled
  obtain ⟨u, hu, hcount⟩ := exec_farGroup
  obtain rfl : u = t := by simpa using hu.symm.trans hexec
  rw [honly] at hcount
  exact absurd (show farGroup.advance.freeCount = 1 from hcount) (by decide)

end Sys2Proof.Proofs
end

section
/-! Texture samples (R372 to R375). -/

namespace Sys2Proof.Proofs

open Sys2Proof Sys2Proof.Machine Sys2Proof.Laws

/-! ## The texel of the floor (R373) -/

/-- An FP32 number is a whole number of units of 2^−149. -/
theorem coordUnits_num {x m : Nat} {neg : Bool} {e : Int} (h : f32.decode x = .num neg m e) :
    coordUnits x = .ok ((if neg then -1 else 1) * ((m * 2 ^ (e + 149).toNat : Nat) : Int)) := by
  rw [coordUnits, h]

theorem decode_f32_exp {x m : Nat} {neg : Bool} {e : Int} (h : f32.decode x = .num neg m e) : -149 ≤ e := by
  unfold Fmt.decode at h
  dsimp only at h
  split_ifs at h <;> injection h with _ _ he <;> subst he
  · decide
  · simp only [f32] at *
    omega

theorem floor_ratOf {neg : Bool} {m : Nat} {e : Int} (h : -149 ≤ e) :
    ⌊ratOf neg m e⌋ = ((if neg then -1 else 1) * ((m * 2 ^ (e + 149).toNat : Nat) : Int)) / (2 ^ 149 : Nat) := by
  rw [← Rat.floor_intCast_div_natCast]
  congr 1
  have hpow : (2 : Rat) ^ e = 2 ^ (e + 149).toNat / 2 ^ 149 := by
    rw [eq_div_iff (by positivity), ← zpow_natCast, ← zpow_natCast, ← zpow_add₀ (by norm_num), Int.toNat_of_nonneg (by omega)]
    rfl
  rw [ratOf, hpow]
  cases neg <;> simp only [if_true, Bool.false_eq_true, if_false] <;> push_cast <;> ring

theorem clampIndex_eq {ext : Nat} (h : 1 ≤ ext) (n : Int) : ((clampIndex ext n : Nat) : Int) = max 0 (min ((ext : Int) - 1) n) := by
  unfold clampIndex
  omega

theorem nearIndex_floor {ext x m : Nat} {neg : Bool} {e : Int} (hext : 1 ≤ ext) (h : f32.decode x = .num neg m e) :
    ((nearIndex ext x : Nat) : Int) = max 0 (min ((ext : Int) - 1) ⌊ratOf neg m e⌋) := by
  rw [nearIndex, coordUnits_num h, floor_ratOf (decode_f32_exp h)]
  exact clampIndex_eq hext _

/-! ## The texels that a lane has read -/

/-- The code that one texel read gives. -/
def texelRead (lay : Layout) (x : List Nat × (LaneRead × ReadOut)) : Nat :=
  match x.2.2 with
  | .bytes b => texelCode lay x.1 b
  | _ => 0

/-- The codes of a lane's texels, of all that was read. -/
def sampleCodes (lay : Layout) (got : List (LaneRead × ReadOut)) (p : SampleLane) : List Nat :=
  (p.texels.zip (got.filter (fun g => g.1.lane == p.lane))).map (texelRead lay)

/-- The sample of a lane on its way to its register. -/
def samplePut (s : State) (f : Form) (lay : Layout) (got : List (LaneRead × ReadOut)) (p : SampleLane) : Put :=
  { key := s.laneKey p.lane f.d, late := true, tag := 7, val := BitVec.ofNat 64 (sampleValue p.weights (sampleCodes lay got p)) }

section
variable {lay : Layout} {got : List (LaneRead × ReadOut)}

theorem landSample_eq (hbytes : ∀ g ∈ got, ∃ b, g.2 = .bytes b) (v : State) (f : Form) (others : List Nat) (p : SampleLane) :
    v.landSample f lay others got p = puts [samplePut v f lay got p] v := by
  have hnone : lowestFault (readFaults (got.filter (fun g => g.1.lane == p.lane))) p.lane = none := by
    rw [readFaults_bytes fun g hg => hbytes g (List.mem_of_mem_filter hg)]
    rfl
  unfold State.landSample
  dsimp only
  split
  · rename_i x hx
    exact nomatch hnone.symm.trans hx
  · rfl

theorem foldl_landSample (hbytes : ∀ g ∈ got, ∃ b, g.2 = .bytes b) (f : Form) (others : List Nat) (plans : List SampleLane) (v : State) :
    plans.foldl (fun u p => u.landSample f lay others got p) v = puts (plans.map (samplePut v f lay got)) v := by
  induction plans generalizing v with
  | nil => rfl
  | cons p ps ih =>
    have hput : samplePut (puts [samplePut v f lay got p] v) f lay got = samplePut v f lay got := by
      funext q
      rw [samplePut, State.laneKey, curGroup_congr (puts_cur _ v)]
      rfl
    rw [List.foldl_cons, landSample_eq hbytes, ih, hput]
    rfl

variable {plan : Nat → SampleLane} {lanes : List Nat} (hlane : ∀ l, (plan l).lane = l)
  (hreads : got.map Prod.fst = lanes.flatMap (fun l => sampleReads lay (plan l)))
include hlane hreads

/-- A lane's reads come first among those of its number. -/
theorem lane_reads {l : Nat} (hl : l ∈ lanes) :
    ∃ rest, (got.filter (fun g => g.1.lane == l)).map Prod.fst = sampleReads lay (plan l) ++ rest := by
  have hown (m : Nat) : (sampleReads lay (plan m)).filter (fun g => g.lane == l) = if m = l then sampleReads lay (plan m) else [] := by
    split
    · refine List.filter_eq_self.2 fun g hg => ?_
      obtain ⟨c, -, rfl⟩ := List.mem_map.1 hg
      simp [*]
    · refine List.filter_eq_nil_iff.2 fun g hg => ?_
      obtain ⟨c, -, rfl⟩ := List.mem_map.1 hg
      simp [*]
  obtain ⟨before, after, rfl, hnot⟩ := List.eq_append_cons_of_mem hl
  have hmap : (got.filter (fun g => g.1.lane == l)).map Prod.fst = (got.map Prod.fst).filter (fun g => g.lane == l) := by
    rw [List.filter_map]
    rfl
  have hnone : before.flatMap (fun m => (sampleReads lay (plan m)).filter (fun g => g.lane == l)) = [] :=
    List.flatMap_eq_nil_iff.2 fun m hm => (hown m).trans (if_neg fun (h : m = l) => hnot (h ▸ hm))
  refine ⟨after.flatMap (fun m => (sampleReads lay (plan m)).filter (fun g => g.lane == l)), ?_⟩
  rw [hmap, hreads, List.filter_flatMap, List.flatMap_append, List.flatMap_cons, hnone, hown l, if_pos rfl, List.nil_append]

/-- Each texel of a lane gives the code of the bytes read for it. -/
theorem sampleCodes_read (hbytes : ∀ g ∈ got, ∃ b, g.2 = .bytes b) {l : Nat} (hl : l ∈ lanes) :
    (sampleCodes lay got (plan l)).length = (plan l).texels.length ∧
      ∀ (j : Nat) (c : List Nat), (plan l).texels[j]? = some c → ∃ g ∈ got, ∃ x, g.1.lane = l ∧ g.1.addr = (lay.elem (c ++ [0, 0])).1 ∧ g.2 = .bytes x ∧
        (sampleCodes lay got (plan l))[j]? = some (texelCode lay c x) := by
  obtain ⟨rest, hrest⟩ := lane_reads hlane hreads hl
  rw [sampleCodes, hlane]
  constructor
  · have hlen := congrArg List.length hrest
    simp only [List.length_map, List.length_append, sampleReads] at hlen
    simp only [List.length_map, List.length_zip]
    omega
  · intro j c hc
    have hread : ((got.filter (fun g => g.1.lane == l)).map Prod.fst)[j]? =
        some { lane := l, addr := (lay.elem (c ++ [0, 0])).1, len := lay.elemBytes } := by
      have hin : (sampleReads lay (plan l))[j]? = some { lane := l, addr := (lay.elem (c ++ [0, 0])).1, len := lay.elemBytes } := by
        rw [sampleReads, List.getElem?_map, hc, hlane]
        rfl
      rw [hrest, List.getElem?_append_left (List.getElem?_eq_some_iff.1 hin).1, hin]
    rw [List.getElem?_map] at hread
    obtain ⟨g, hg, hfst⟩ := Option.map_eq_some_iff.1 hread
    have hmem := List.mem_of_mem_filter (List.mem_of_getElem? hg)
    obtain ⟨b, hb⟩ := hbytes g hmem
    refine ⟨g, hmem, b, by rw [hfst], by rw [hfst], hb, ?_⟩
    rw [List.getElem?_map, (List.getElem?_zip_eq_some (z := (c, g))).2 ⟨hc, hg⟩, Option.map_some, texelRead]
    dsimp only
    rw [hb]

end

/-! ## The statement -/

/-- What each lane samples, in the state that reading the texel record has left. -/
def lanePlan (s t : State) (f : Form) (fn : Nat) (lay : Layout) (l : Nat) : SampleLane :=
  samplePlan lay (fn % 2 == 1) l (s.laneCoords f (fn / 2 % 2 == 1) l) ((List.range 3).map (fun d => Config.freeChoice (t.freeCount + 3 * l + d)))

theorem samplePlan_lane (lay : Layout) (lin : Bool) (l : Nat) (xs opens : List Nat) : (samplePlan lay lin l xs opens).lane = l := by
  unfold samplePlan
  split <;> rfl

section
variable {s t u : State} {f : Form} {b : Src} {fn : Nat} {bs : List Byte} {got : List (LaneRead × ReadOut)}
  (hactive : s.active f ≠ []) (htags : ∀ l ∈ s.active f, ∀ x ∈ sampleCoords f (fn / 2 % 2 == 1), s.srcTagOf l x = 7)
  (hready : ReadableIn s (s.active f ++ s.activeHelpers f) (b :: sampleCoords f (fn / 2 % 2 == 1)) [.lane f.d false])
  (hread : s.readRecord (s.srcBits 0 b) 64 64 = (.bytes bs, t)) (hok : sampleRecordOk (if fn / 2 % 2 == 1 then 3 else 2) bs = true)
  (htexels : State.laneReads { t with freeCount := t.freeCount + 96 } .floor
    ((s.active f ++ s.activeHelpers f).flatMap (fun l => sampleReads (Layout.ofBytes bs) (lanePlan s t f fn (Layout.ofBytes bs) l))) = (some got, u))
  (hbytes : ∀ g ∈ got, ∃ x, g.2 = .bytes x)
include hactive htags hready hread hok htexels hbytes

theorem sampleStep_lands : s.sampleStep f b fn =
    .next (puts (((s.active f ++ s.activeHelpers f).map (lanePlan s t f fn (Layout.ofBytes bs))).map (samplePut u.advance f (Layout.ofBytes bs) got)) u.advance) := by
  have hformat : s.sampleFormat f (fn / 2 % 2 == 1) (s.active f) = none := by
    refine if_neg ?_
    simpa [List.any_eq_true] using htags
  have hfull : s.checkFull (s.active f) (s.activeHelpers f)
      ((sampleCoords f (fn / 2 % 2 == 1)).map (fun x => { opnd := 0, src := x }) ++ [{ opnd := 1, src := b }]) [.lane f.d false] = .ok s := by
    refine checkFull_ok s _ _ _ _ hready.quiet (fun l hl o ho => ?_) hready.dsts
    rcases List.mem_append.1 ho with h | h
    · obtain ⟨x, hx, rfl⟩ := List.mem_map.1 h
      exact hready.srcs l hl x (List.mem_cons_of_mem _ hx)
    · obtain rfl := List.mem_singleton.1 h
      exact hready.srcs l hl b List.mem_cons_self
  have hreads : State.laneReads { t with freeCount := t.freeCount + 96 } .floor
      (((s.active f ++ s.activeHelpers f).map (lanePlan s t f fn (Layout.ofBytes bs))).flatMap (sampleReads (Layout.ofBytes bs))) = (some got, u) := by
    rw [List.flatMap_map]
    exact htexels
  unfold State.sampleStep
  simp only [List.isEmpty_eq_false_iff.2 hactive, Bool.false_eq_true, if_false, hformat, hfull, hread, hok, Bool.not_true]
  split
  · rename_i heq
    exact nomatch heq.symm.trans hreads
  · rename_i heq
    cases heq.symm.trans hreads
    exact congrArg Host.Outcome.next (foldl_landSample hbytes f (s.activeHelpers f) _ u.advance)

/-- A bundle's samples land in its lanes' registers alone, and it moves on. -/
theorem sample_completes {i : Instr} (hx : exec i s = s.sampleStep f b fn) :
    let lay := Layout.ofBytes bs
    let plan := lanePlan s t f fn lay
    Completes i s (fun r =>
      (∀ l ∈ s.active f ++ s.activeHelpers f, ∃ codes : List Nat, codes.length = (plan l).texels.length ∧
        (∀ (j : Nat) (c : List Nat), (plan l).texels[j]? = some c → ∃ g ∈ got, ∃ x, g.1.lane = l ∧ g.1.addr = (lay.elem (c ++ [0, 0])).1 ∧ g.2 = .bytes x ∧
          codes[j]? = some (texelCode lay c x)) ∧
        Wrote s r (s.laneKey l f.d) true 7 (BitVec.ofNat 64 (sampleValue (plan l).weights codes))) ∧
      (∀ k, (∀ l ∈ s.active f ++ s.activeHelpers f, k ≠ s.laneKey l f.d) → r.reg k = s.reg k) ∧
      r.threads = s.advance.threads ∧ r.groups = s.advance.groups ∧ r.mem = u.mem) := by
  intro lay plan
  have hlane (l : Nat) : (plan l).lane = l := samplePlan_lane ..
  have hreads : got.map Prod.fst = (s.active f ++ s.activeHelpers f).flatMap (fun l => sampleReads lay (plan l)) := laneReads_reads htexels
  have hrecord : Accesses s t := by
    have h := (loads_readRecord s (s.srcBits 0 b) 64 64).accesses
    rwa [hread] at h
  have hcount : Accesses t { t with freeCount := t.freeCount + 96 } := rfl
  have hacc : Accesses s u := (hrecord.trans hcount).trans (laneReads_accesses htexels)
  have hcur : u.advance.cur = s.cur := by rw [cur_advance, hacc]
  have hregs (k : RegKey) : u.advance.reg k = s.reg k := by rw [State.reg, advance_regs, hacc, State.reg]
  have hkey (l : Nat) : (samplePut u.advance f lay got (plan l)).key = s.laneKey l f.d := by
    rw [samplePut, hlane, State.laneKey, curGroup_congr hcur, State.laneKey]
  have hmem {p : Put} (hp : p ∈ ((s.active f ++ s.activeHelpers f).map plan).map (samplePut u.advance f lay got)) :
      ∃ l ∈ s.active f ++ s.activeHelpers f, p = samplePut u.advance f lay got (plan l) := by
    obtain ⟨_, hq, rfl⟩ := List.mem_map.1 hp
    obtain ⟨l, hl, rfl⟩ := List.mem_map.1 hq
    exact ⟨l, hl, rfl⟩
  refine ⟨_, hx.trans (sampleStep_lands hactive htags hready hread hok htexels hbytes), fun l hl => ?_, fun k hk => ?_, ?_⟩
  · obtain ⟨hlength, hcodes⟩ := sampleCodes_read hlane hreads hbytes hl
    refine ⟨_, hlength, hcodes, ?_⟩
    rw [← hkey]
    refine wrote_puts (p := samplePut u.advance f lay got (plan l)) (List.mem_map_of_mem (List.mem_map_of_mem hl)) (fun q hq heq => ?_)
      (curGroup_congr hcur) (fun _ => by rw [hregs])
    obtain ⟨m, -, rfl⟩ := hmem hq
    rw [hkey, hkey] at heq
    rw [(laneKey_inj heq).1]
  · refine (reg_puts_apart (fun p hp heq => ?_) _).trans (hregs k)
    obtain ⟨l, hl, rfl⟩ := hmem hp
    exact hk l hl (heq.symm.trans (hkey l))
  · have hframe := puts_frame (((s.active f ++ s.activeHelpers f).map plan).map (samplePut u.advance f lay got)) u.advance
    unfold Lands at hframe
    rw [hframe]
    refine ⟨?_, (advance_agree (by rw [hacc]) (by rw [hacc]) (by rw [hacc])).1, advance_mem u⟩
    show u.advance.threads = _
    rw [advance_congr s u (by rw [hacc]) (by rw [hacc])]

end

/-- Settles O19: the texels read are joined lane by lane and land late; the index of `near` is the clamped floor of an exact quotient. -/
theorem sampleResults : Obligations.SampleResults := by
  unfold Obligations.SampleResults
  intro samples
  have hsamples {i : Instr} {f : Form} {b : Src} {fn : Nat} (hx : ∀ s, exec i s = s.sampleStep f b fn) : samples i f b fn :=
    fun s _ hactive htags hready bs t hread hok got u htexels hbytes => sample_completes hactive htags hready hread hok htexels hbytes (hx s)
  clear_value samples
  exact ⟨fun fn w => hsamples fun _ => rfl, fun fn w => hsamples fun _ => rfl, fun ext x neg m e hext hnum => nearIndex_floor hext hnum⟩

end Sys2Proof.Proofs
end
